-- ==== Sys2Proof/Word.lean ====
section
/-! DEFINITION. The word types of the block: plain bit vectors of the widths the spec uses (R4, R5). -/
namespace Sys2Proof

abbrev Byte := BitVec 8
abbrev W16 := BitVec 16
abbrev W32 := BitVec 32
abbrev W48 := BitVec 48
abbrev W64 := BitVec 64

end Sys2Proof
end

