-- ==== Sys2Proof/Syntax.lean ====
section
/-! DEFINITION. The commands of the block: what the world does to the module, and the events of its own units, one
constructor per row of the table of operations and events. Their operands are what the row's event carries or measures. -/
namespace Sys2Proof


/-- Who performs a write of the control dictionary: the session's slot, and the PART byte of its request. -/
structure Req where
  sess : Fin 64
  part : Byte
deriving DecidableEq, Repr


/-- A line whose read corrected symbols: its address, and each corrected symbol as codeword and symbol (R165, R167). -/
structure Corr where
  addr : W64
  syms : List (Fin 4 × Fin 20)
deriving DecidableEq, Repr

/-- What an Announce message carries of its sender (R373): source identity, grandmaster identity, the grandmaster's
priorities, class, accuracy and variance, and the steps removed. -/
structure Announce where
  src : W64
  gm : W64
  p1 : Byte
  cls : Byte
  acc : Byte
  var : W16
  p2 : Byte
  steps : W16
deriving DecidableEq, Repr

/-- One loop's samples at a tick (R293, R296, R302): its core and instance, the input, the search signal and the feed-forward sensor. -/
structure LoopSample where
  core : Fin 11
  inst : Fin 512
  x : W32
  search : W32
  sensor : W32
deriving DecidableEq, Repr

/-- The fields of a hello message (R249, Table 9.7). -/
structure Hello where
  serial : W64
  board : Byte
  straps : Byte
  logFibre : Byte
  physFibre : Byte
  lane : Byte
  flags : Byte
  verMin : Byte
  verMax : Byte
  mask : W32
  features : W16
  fw : W32
  tag : W64
  frame : W64
deriving DecidableEq, Repr

/-- What the measurement of a lane or pin gave a calibration run (R321, R322): its data or their absence, the figures, whether
they are in range, and the steps the solution moves each parameter. -/
structure CalData where
  lane : W16
  data : Bool
  width : W32
  height : W32
  resid : W32
  inRange : Bool
  steps : List (Fin 16 × Int)
deriving DecidableEq, Repr

/-- What the pins and the flash give a start from power: the straps (R465), and whether the recorder's log can be read. -/
structure Straps where
  board : Byte
  slot : Fin 16
  laser : Bool
  boot : Fin 4
  readable : Bool
deriving DecidableEq, Repr

/-- What the SPD and the training of a channel's DIMM gave (R160): whether there is one and it is accepted, its description in
the layout of FAR_DIMM_INFO, whether it supports DDR5-6400, and whether it trained. -/
structure DimmUp where
  present : Bool
  accepted : Bool
  info : BitVec 28
  fast : Bool
  trained : Bool
deriving DecidableEq, Repr

/-- What the training of a calibration group gave (R326): its temperature, the figures of its worst lane or pin, and which. -/
structure CalUp where
  temp : W32
  width : W32
  height : W32
  resid : W32
  worst : W16
deriving DecidableEq, Repr

/-- What steps 8a to 8f of start-up gave (Table 22.4): for each Ridge the Spur positions that passed self-test, the stacks that
trained, the DIMMs, the trained groups, and the time since step 1 or the order. -/
structure BringUp where
  spurs : List (BitVec 17)
  stackMask : W16
  dimms : List DimmUp
  cal : List CalUp
  ms : W32
deriving DecidableEq, Repr


/-- Who reads a line that proves uncorrectable (Table 6.4): a Spur's or a DMA unit's data, the merge of a receive, a vector
program, a descriptor, a completion record's line, an entry of a pool ring. -/
inductive UeReader where
  | spur (ridge : Fin 16) (spur : Fin 17)
  | dma (ridge : Fin 16) (slot : Fin 32)
  | merge (ridge : Fin 16) (queue : Fin 8) (count : W32)
  | prog (ridge : Fin 16) (spur : Fin 17)
  | fetch (ridge : Fin 16) (queue : Fin 8)
  | record (ridge : Fin 16) (queue : Fin 8)
  | pool (unit : Fin 32) (big : Bool)
deriving DecidableEq, Repr


/-- The share of a resource that ran full over the frame just ended (R434): class 3 to 7 of Table 19.2, the instance, for class 7
the virtual interface whose traffic it is, and the busy and whole time in one unit. -/
structure BnShare where
  cls : Fin 8
  inst : Fin 64
  vi : Option (Fin 64)
  busy : W64
  cap : W64
deriving DecidableEq, Repr

/-- What is measured at a frame boundary (R282, R388, R392, R395, R434): the frame's mean input power, the power of each domain and of each
partition's Ridges, the coolant, LASER_DROP of the sources, and the shares of the resources. -/
structure FrameData where
  watts : W32
  domains : List W32
  parts : List W32
  inlet : W32
  outlet : W32
  drops : List (Fin 10 × Fin 16 × W32)
  shares : List BnShare
deriving DecidableEq, Repr

/-- What is measured at a tick edge (R200, R244, R246, R290, R391, R395): the input, RIDGE_TEMP of the Ridges, the loops' samples, and since
the edge before the Ridge cycles in which a unit waited for a record slot and the ns in which a link waited for replay space and for
credit. -/
structure TickData where
  volts : W32
  amps : W32
  watts : W32
  temps : List W32
  samples : List LoopSample
  storeWait : List (Fin 16 × W32)
  linkWait : List (Fin 64 × W32 × W32)
deriving DecidableEq, Repr
/-- The commands and events of spec/opcode_table.json, one constructor per row: the rows with operands in the
table's order, then those without. -/
inductive Instr where
  /-- FRAME_BOUNDARY (R131). -/
  | frameBoundary (f : FrameData)
  /-- AGENT_HUNG (R398). -/
  | agentHung (agent : Fin 19)
  /-- SWAP_WINDOW_END (R255). -/
  | swapWindowEnd (lost : List (Fin 256))
  /-- DECIMATION_RELAX (R294). -/
  | decimationRelax (core : Fin 11)
  /-- CORE_SATURATED (R294). -/
  | coreSaturated (core : Fin 11)
  /-- SLICE_OVERRUN (R135). -/
  | sliceOverrun (ridge : Fin 16) (queue : Fin 8) (count slice : W32)
  /-- TICK_EDGE (R377). -/
  | tickEdge (t : TickData)
  /-- LOOP_OVERRUN (R293). -/
  | loopOverrun (core : Fin 11) (inst : Fin 512) (late : Bool)
  /-- LOOP_HOLD (R293). -/
  | loopHold (core : Fin 11) (inst : Fin 512)
  /-- DROOP_SAG (R393). -/
  | droopSag (ridge : Fin 16)
  /-- STRETCH_END (R393). -/
  | stretchEnd (ridge : Fin 16) (halved : W32)
  /-- DOMAIN_SAG (R394). -/
  | domainSag (domain : Fin 30)
  /-- DVFS_RAMP_DONE (R386). -/
  | dvfsRampDone (ridge : Fin 16)
  /-- FSYNC_EDGE (R374). -/
  | fsyncEdge (cycles : Int)
  /-- PTP_SYNC (R370). -/
  | ptpSync (port : Fin 8) (master : W64) (domain : Byte) (seq : W16) (twoStep : Bool) (origin : W64) (freq corr : Int)
  /-- PTP_FOLLOW_UP (R369). -/
  | ptpFollowUp (port : Fin 8) (master : W64) (seq : W16) (origin : W64) (freq corr : Int)
  /-- PTP_ANNOUNCE (R369). -/
  | ptpAnnounce (port : Fin 8) (domain : Byte) (a : Announce)
  /-- PTP_DELAY_RESP (R369). -/
  | ptpDelayResp (port : Fin 8) (master : W64) (seq : W16) (received : W64)
  /-- TIME_SET (R371). -/
  | timeSet (r : Req) (time : W64)
  /-- TIME_RATE (R371). -/
  | timeRate (r : Req) (rate : W32)
  /-- DOORBELL (R90). -/
  | doorbell (part : Fin 8) (ridge : Fin 16) (queue : Fin 8) (count : W32)
  /-- QCONTROL_ENABLE (R94). -/
  | qcontrolEnable (r : Req) (ridge : Fin 16) (queue : Fin 8)
  /-- QCONTROL_RESUME (R94). -/
  | qcontrolResume (r : Req) (ridge : Fin 16) (queue : Fin 8)
  /-- QCONTROL_SKIP (R94). -/
  | qcontrolSkip (r : Req) (ridge : Fin 16) (queue : Fin 8)
  /-- QCONTROL_DISABLE (R94). -/
  | qcontrolDisable (r : Req) (ridge : Fin 16) (queue : Fin 8)
  /-- DESCRIPTOR_FETCH (R89). -/
  | descriptorFetch (ridge : Fin 16) (queue : Fin 8)
  /-- MM (R102). -/
  | mm (ridge : Fin 16) (spur : Fin 17)
  /-- MM_ACC (R104). -/
  | mmAcc (ridge : Fin 16) (spur : Fin 17)
  /-- VEC (R105). -/
  | vec (ridge : Fin 16) (spur : Fin 17)
  /-- MOVE (R111). -/
  | move (ridge : Fin 16) (slot : Fin 32) (lines : Nat)
  /-- GATHER (R111). -/
  | gather (ridge : Fin 16) (slot : Fin 32) (lines : Nat)
  /-- SCATTER (R111). -/
  | scatter (ridge : Fin 16) (slot : Fin 32) (lines : Nat)
  /-- CONVERT (R112). -/
  | convert (ridge : Fin 16) (spur : Fin 17)
  /-- SEND (R114). -/
  | send (ridge : Fin 16) (queue : Fin 8)
  /-- RECV (R114). -/
  | recv (ridge : Fin 16) (queue : Fin 8)
  /-- REDUCE_RECV (R117). -/
  | reduceRecv (ridge : Fin 16) (queue : Fin 8)
  /-- WAIT (R121). -/
  | wait (ridge : Fin 16) (queue : Fin 8)
  /-- SIGNAL (R120). -/
  | signal (ridge : Fin 16) (queue : Fin 8) (atLimit : Bool)
  /-- FENCE (R122). -/
  | fence (ridge : Fin 16) (queue : Fin 8)
  /-- STEP_MARK (R123). -/
  | stepMark (ridge : Fin 16) (queue : Fin 8)
  /-- WATCH (R124). -/
  | watch (ridge : Fin 16) (queue : Fin 8) (slot : Fin 32) (lines : Nat)
  /-- WAIT_TIMEOUT (R121). -/
  | waitTimeout (ridge : Fin 16) (queue : Fin 8)
  /-- SIGNAL_VALUE_WRITE (R119). -/
  | signalValueWrite (r : Req) (slot : Fin 256) (value : W64) (atLimit : Bool)
  /-- WORK_UNIT_DONE (R71). -/
  | workUnitDone (ridge : Fin 16) (spur : Fin 17) (cycles stall : Nat)
  /-- SHADOW_TRIGGERED (R53). -/
  | shadowTriggered (ridge : Fin 16) (queue : Fin 8) (count : W32)
  /-- TILE_LOAD_DONE (R103). -/
  | tileLoadDone (ridge : Fin 16) (spur : Fin 17) (ce : List Corr)
  /-- TILE_WRITEBACK (R62). -/
  | tileWriteback (ridge : Fin 16) (spur : Fin 17)
  /-- DMA_UNIT_DONE (R199). -/
  | dmaUnitDone (ridge : Fin 16) (slot : Fin 32) (ce : List Corr)
  /-- COMPLETION_RECORD_WRITE (R126). -/
  | completionRecordWrite (ridge : Fin 16) (queue : Fin 8)
  /-- QUEUE_HOLD_WRITE (R136). -/
  | queueHoldWrite (r : Req) (ridge : Fin 16) (queue : Fin 8) (hold : Bool)
  /-- FABRIC_TIMEOUT (R118). -/
  | fabricTimeout (ridge : Fin 16) (queue : Fin 8) (count : W32)
  /-- RTS_RECEIVED (R114). -/
  | rtsReceived (link : Fin 64) (chan : Byte) (tid len : W32)
  /-- CTS_RECEIVED (R114). -/
  | ctsReceived (link : Fin 64) (chan : Byte) (tid : W32) (vc : Fin 4) (atLimit : Bool)
  /-- COMPLETE_RECEIVED (R116). -/
  | completeReceived (link : Fin 64) (chan : Byte) (tid : W32)
  /-- REFUSE_RECEIVED (R114). -/
  | refuseReceived (link : Fin 64) (chan : Byte) (tid : W32) (reason : Byte)
  /-- SEG_ACK_RECEIVED (R115). -/
  | segAckReceived (link : Fin 64) (chan : Byte) (tid : W32) (idx : W16) (atLimit : Bool)
  /-- SEGMENT_RECEIVED (R116). -/
  | segmentReceived (link : Fin 64) (chan : Byte) (tid : W32) (idx : W16) (data : List Byte) (atLimit : Bool)
  /-- RESET_L1 (R404). -/
  | resetL1 (part : Fin 8) (ctx : Fin 16) (cause : Byte) (bad : List (Fin 16 × Bool × Fin 8))
  /-- RESET_L2 (R404). -/
  | resetL2 (ridge : Fin 16) (spur : Fin 17) (cause : Byte) (bad : List (Fin 16 × Bool × Fin 8))
  /-- RESET_L3 (R404). -/
  | resetL3 (part : Fin 8) (cause : Byte) (bad : List (Fin 16 × Bool × Fin 8)) (failed : List (Fin 16 × Fin 17))
  /-- RESET_L4 (R404). -/
  | resetL4 (cause : Byte) (bad : List (Fin 16 × Bool × Fin 8)) (failed : List (Fin 16 × Fin 17))
  /-- RESET_L5 (R404). -/
  | resetL5 (cause : Byte) (readable : Bool)
  /-- RESET_L6 (R413). -/
  | resetL6 (cause : Byte) (pd19 : Bool)
  /-- RESET_END (R406). -/
  | resetEnd (which : Fin 64)
  /-- RESET_BOUND_EXPIRED (R407). -/
  | resetBoundExpired (which : Fin 64)
  /-- REPLAY_LIMIT_REACHED (R152). -/
  | replayLimitReached (ridge : Fin 16) (queue : Fin 8)
  /-- UNACKED_WRITE_TIMEOUT (R147). -/
  | unackedWriteTimeout (ridge : Fin 16)
  /-- SCREE_UNIT_TIMEOUT (R411). -/
  | screeUnitTimeout (ridge : Fin 16) (unit : Fin 18)
  /-- SRAM_CORRECTED (R67). -/
  | sramCorrected (ridge : Fin 16) (spur : Fin 17)
  /-- SRAM_UNCORRECTABLE (R67). -/
  | sramUncorrectable (ridge : Fin 16) (spur : Fin 17) (addr : W64)
  /-- RIDGE_SPAD_UNCORRECTABLE (R77). -/
  | ridgeSpadUncorrectable (ridge : Fin 16) (addr : BitVec 25) (reader : Option (Fin 8 × W32))
  /-- SPUR_FAILED (R79). -/
  | spurFailed (ridge : Fin 16) (spur : Fin 17)
  /-- SPUR_SUSPEND_TIMEOUT (R79). -/
  | spurSuspendTimeout (ridge : Fin 16) (spur : Fin 17)
  /-- SPUR_RETIRE_REQ (R79). -/
  | spurRetireReq (r : Req) (value : W16)
  /-- SPARE_SELFTEST_DONE (R80). -/
  | spareSelftestDone (ridge : Fin 16) (pass : Bool)
  /-- MEM_UNCORRECTABLE (R173). -/
  | memUncorrectable (pa : W64) (mask : Fin 16) (reader : UeReader) (how : Fin 3) (va : W48)
  /-- ERASURE_MARKED (R168). -/
  | erasureMarked (unit : Fin 32) (group : Fin 64) (source : Fin 20)
  /-- ERASURE_CLEAR (R168). -/
  | erasureClear (r : Req) (unit : Fin 32) (value : List Byte)
  /-- PATROL_SCRUB (R170). -/
  | patrolScrub (unit : Fin 32) (ce : List Corr) (uncorr : List (W64 × Fin 16)) (late passEnd : Bool)
  /-- FRAME_SOFT_RETIRE (R172). -/
  | frameSoftRetire (pa : W64)
  /-- MEM_OUT_OF_SERVICE (R176). -/
  | memOutOfService (unit : Fin 32)
  /-- STACK_TEMP_SAMPLE (R182). -/
  | stackTempSample (stack : Fin 16) (temp : W32)
  /-- DIMM_TEMP_READ (R473). -/
  | dimmTempRead (channel : Fin 16) (reading : Option (W32 × Bool))
  /-- CTX_ROOT_WRITE (R184). -/
  | ctxRootWrite (r : Req) (ctx : Fin 16) (root : W64)
  /-- WALK_COMPLETE (R191). -/
  | walkComplete (ridge : Fin 16) (queue : Fin 8) (va : W48) (write : Bool) (ce : List Corr)
  /-- TLB_INVAL_PAGES (R194). -/
  | tlbInvalPages (r : Req) (pages : Byte) (size : Fin 3) (ctx : Fin 16) (va16 : W32)
  /-- TLB_INVAL_CONTEXT (R194). -/
  | tlbInvalContext (r : Req) (ctx : Fin 16)
  /-- TLB_INVAL_PARTITION (R194). -/
  | tlbInvalPartition (r : Req)
  /-- TLB_INVAL_DONE (R194). -/
  | tlbInvalDone (part : Fin 8)
  /-- STEWARD_FAULT (R207). -/
  | stewardFault (b : Bool)
  /-- STEWARD_COPY_DONE (R207). -/
  | stewardCopyDone (b : Bool) (uncorr : Option (W64 × Fin 16))
  /-- STEWARD_RING_BASE_WRITE (R212). -/
  | stewardRingBaseWrite (r : Req) (base : W64)
  /-- STEWARD_RING_CONSUMER_WRITE (R212). -/
  | stewardRingConsumerWrite (r : Req) (count : W32)
  /-- FAULT_RESOLVE_RETRY (R213). -/
  | faultResolveRetry (r : Req) (id : W32) (atLimit : Bool)
  /-- FAULT_RESOLVE_ABORT (R213). -/
  | faultResolveAbort (r : Req) (id : W32) (atLimit : Bool)
  /-- FAULT_RESOLVE_DONE (R213). -/
  | faultResolveDone (r : Req) (id : W32)
  /-- FAULT_HOST_LIMIT_EXPIRED (R214). -/
  | faultHostLimitExpired (part : Fin 8) (id : W32)
  /-- WS_CREATE (R223). -/
  | wsCreate (r : Req) (part : Fin 8) (zero : Bool)
  /-- WS_APPLY (R224). -/
  | wsApply (r : Req) (part : Fin 8) (zero : Bool)
  /-- WS_TEARDOWN (R226). -/
  | wsTeardown (r : Req) (part : Fin 8) (zero : Bool)
  /-- ZERO_FILL_DONE (R228). -/
  | zeroFillDone (unit : Fin 32)
  /-- LIGHT_PRESENT (R238). -/
  | lightPresent (lane : Fin 256)
  /-- LIGHT_LOST (R275). -/
  | lightLost (fibre : Fin 32)
  /-- LANE_TRAINING_DONE (R249). -/
  | laneTrainingDone (lane : Fin 256) (pass : Bool)
  /-- HELLO_SEND (R250). -/
  | helloSend (lane : Fin 256)
  /-- HELLO_RECEIVED (R251). -/
  | helloReceived (lane : Fin 256) (hello : Hello)
  /-- FLIT_RECEIVED (R242). -/
  | flitReceived (lane : Fin 256) (flit : List Byte) (corrected uncorr : Byte) (bad atLimit : Bool)
  /-- ACK_TIMER (R245). -/
  | ackTimer (link : Fin 64)
  /-- CREDIT_RETURN_TIMER (R244). -/
  | creditReturnTimer (link : Fin 64)
  /-- LINK_REPLAY_TIMEOUT (R246). -/
  | linkReplayTimeout (link : Fin 64)
  /-- LINK_RETRAIN_TIMEOUT (R241). -/
  | linkRetrainTimeout (link : Fin 64)
  /-- LANE_DEGRADE (R254). -/
  | laneDegrade (lane : Fin 256) (cause : Fin 4)
  /-- LANE_DROP_RECEIVED (R254). -/
  | laneDropReceived (link : Fin 64) (lane : Byte) (cause : Byte)
  /-- LANE_ADD_RECEIVED (R251). -/
  | laneAddReceived (link : Fin 64) (lane : Byte) (frame : W48)
  /-- SWAP_ANNOUNCE_RECEIVED (R255). -/
  | swapAnnounceReceived (link : Fin 64) (lane : Byte) (frame : W48)
  /-- SWAP_ACK_RECEIVED (R255). -/
  | swapAckReceived (link : Fin 64) (lane : Byte) (frame : W48) (atLimit : Bool)
  /-- SWAP_ACK_WAIT_EXPIRED (R284). -/
  | swapAckWaitExpired (source : Fin 10) (wave : Fin 16) (link : Fin 64)
  /-- FRAME_MARK_RECEIVED (R379). -/
  | frameMarkReceived (link : Fin 64) (frame : W48) (time : W64) (arrival delay : Int)
  /-- LINK_CONTROL_RELEASE (R253). -/
  | linkControlRelease (r : Req) (link : Fin 64)
  /-- LINK_CONTROL_RETRAIN (R241). -/
  | linkControlRetrain (r : Req) (link : Fin 64)
  /-- LINK_CONTROL_QUARANTINE (R253). -/
  | linkControlQuarantine (r : Req) (link : Fin 64)
  /-- EXPECT_MAP_WRITE (R252). -/
  | expectMapWrite (r : Req) (fibre : Fin 32) (peer : Bool) (value : W64)
  /-- ROUTE_ENTRY_WRITE (R258). -/
  | routeEntryWrite (r : Req) (handle : Fin 4096) (entry : BitVec 128)
  /-- STEER_CONTROL (R273). -/
  | steerControl (r : Req) (engines : Byte) (token : W16)
  /-- STEER_RATIO (R267). -/
  | steerRatio (r : Req) (engine : Fin 8) (ratio : W32)
  /-- STEER_DONE (R274). -/
  | steerDone (engine : Fin 8)
  /-- OCS_NOTICE (R275). -/
  | ocsNotice (r : Req) (engines : Byte) (ms : W16)
  /-- COL_FORCE_BYPASS (R272). -/
  | colForceBypass (r : Req) (mask : W16)
  /-- COL_MOVED (R272). -/
  | colMoved (pair : Fin 16)
  /-- ENGINE_FAILED (R277). -/
  | engineFailed (engine : Fin 8)
  /-- ENGINE_RETIRE_REQ (R277). -/
  | engineRetireReq (r : Req) (engine : Byte)
  /-- NOTCH_ENGAGED (R278). -/
  | notchEngaged (engine : Fin 8)
  /-- NOTCH_FAILED (R279). -/
  | notchFailed (notch : Fin 2)
  /-- ENGINE_FAIL_RECORD_CLEAR (R279). -/
  | engineFailRecordClear (r : Req) (mask : Byte)
  /-- SPARE_LOCKED (R283). -/
  | spareLocked (source : Fin 10) (spare : Fin 2)
  /-- LASER_ABRUPT_FAILURE (R285). -/
  | laserAbruptFailure (source : Fin 10) (wave : Fin 16)
  /-- SPARE_FAILED (R286). -/
  | spareFailed (source : Fin 10) (spare : Fin 2)
  /-- LOOP_MODE_OPEN (R300). -/
  | loopModeOpen (r : Req) (core : Fin 11) (inst : Fin 512)
  /-- LOOP_MODE_SEARCH (R300). -/
  | loopModeSearch (r : Req) (core : Fin 11) (inst : Fin 512)
  /-- LOOP_MODE_TRACK (R303). -/
  | loopModeTrack (r : Req) (core : Fin 11) (inst : Fin 512)
  /-- LOOP_MODE_HOLD (R300). -/
  | loopModeHold (r : Req) (core : Fin 11) (inst : Fin 512)
  /-- LOOP_COEF_WRITE (R297). -/
  | loopCoefWrite (r : Req) (core : Fin 11) (inst : Fin 512) (block : List Byte)
  /-- LOOP_CLASS_WRITE (R298). -/
  | loopClassWrite (r : Req) (core : Fin 11) (inst : Fin 512) (cls : Byte)
  /-- LOOP_OUTPUT_WRITE (R299). -/
  | loopOutputWrite (r : Req) (core : Fin 11) (inst : Fin 512) (value : W32)
  /-- SEARCH_SWEEP_END (R302). -/
  | searchSweepEnd (core : Fin 11) (inst : Fin 512)
  /-- HANDOVER_FAILED (R303). -/
  | handoverFailed (core : Fin 11) (inst : Fin 512)
  /-- TONE_CHECK_DONE (R306). -/
  | toneCheckDone (core : Fin 11) (inst : Fin 512) (tone : Option (Fin 16)) (depth : W32)
  /-- LOOP_CORE_FAILED (R295). -/
  | loopCoreFailed (core : Fin 10)
  /-- RC_STEP_BOUNDARY (R311). -/
  | rcStepBoundary (part : Fin 8) (frame : W48)
  /-- RC_TIMEOUT (R314). -/
  | rcTimeout (core : Fin 11)
  /-- INJECT_WRITE (R315). -/
  | injectWrite (r : Req) (core : Fin 11) (gen : Fin 2) (block : BitVec 256)
  /-- CAPTURE_WRITE (R316). -/
  | captureWrite (r : Req) (core : Fin 11) (buffer : Fin 2) (block : BitVec 128)
  /-- CAPTURE_TRIGGER (R316). -/
  | captureTrigger (core : Fin 11) (buffer : Fin 2)
  /-- CAPTURE_DONE (R316). -/
  | captureDone (core : Fin 11) (buffer : Fin 2)
  /-- TRAVERSE_STORE_SAVE (R317). -/
  | traverseStoreSave (r : Req)
  /-- TRAVERSE_STORE_ERASE (R317). -/
  | traverseStoreErase (r : Req)
  /-- CAL_TRIGGER (R319). -/
  | calTrigger (group : Fin 58) (temp : W32)
  /-- CAL_REQUEST (R319). -/
  | calRequest (r : Req) (mask : W64)
  /-- CAL_MEASURE_DONE (R321). -/
  | calMeasureDone (group : Fin 58) (data : List CalData)
  /-- CAL_NODATA_TIMEOUT (R320). -/
  | calNodataTimeout (group : Fin 58) (lane : W16) (last : Bool)
  /-- CAL_PARAM_STEP (R323). -/
  | calParamStep (group : Fin 58) (resid : W32)
  /-- CAL_VERIFY_DONE (R322). -/
  | calVerifyDone (group : Fin 58) (data : List CalData)
  /-- CAL_ENABLE_WRITE (R325). -/
  | calEnableWrite (r : Req) (mask : W64)
  /-- ETH_LINK_UP (R328). -/
  | ethLinkUp (port : Fin 8)
  /-- ETH_LINK_DOWN (R328). -/
  | ethLinkDown (port : Fin 8)
  /-- ETH_TRAINING_FAILED (R328). -/
  | ethTrainingFailed (port : Fin 8)
  /-- ROUTER_ADVERTISEMENT (R330). -/
  | routerAdvertisement (port : Fin 8) (pfx : W64)
  /-- SESSION_OPEN (R452). -/
  | sessionOpen (src : W64) (message : List Byte)
  /-- SESSION_PROOF (R452). -/
  | sessionProof (src : W64) (message : List Byte)
  /-- SESSION_PROOF_TIMEOUT (R452). -/
  | sessionProofTimeout (which : Fin 16)
  /-- SESSION_CLOSE (R334). -/
  | sessionClose (src : W64) (message : List Byte)
  /-- VCT_IDLE_TIMEOUT (R334). -/
  | vctIdleTimeout (slot : Fin 64)
  /-- REQUEST (R336). -/
  | request (src : W64) (message : List Byte)
  /-- EVENT_ACK (R338). -/
  | eventAck (src : W64) (message : List Byte) (atLimit : Bool)
  /-- EVENT_FETCH (R339). -/
  | eventFetch (src : W64) (message : List Byte)
  /-- EVENT_RETRY_TIMEOUT (R338). -/
  | eventRetryTimeout (slot : Fin 64) (seq : W32)
  /-- ROCE_SEND_RECEIVED (R342). -/
  | roceSendReceived (qp : Fin 8192) (psn : BitVec 24) (pos : Fin 5) (data : List Byte) (ce : Bool)
  /-- ROCE_WRITE_RECEIVED (R343). -/
  | roceWriteReceived (qp : Fin 8192) (psn : BitVec 24) (pos : Fin 4) (va : W64) (rkey : W32) (len : W32) (data : List Byte) (ce : Bool)
  /-- ROCE_READ_REQUEST (R343). -/
  | roceReadRequest (qp : Fin 8192) (psn : BitVec 24) (va : W64) (rkey : W32) (len : W32) (uncorr : Option (W64 × Fin 16)) (ce : Bool)
  /-- ROCE_READ_RESPONSE (R340). -/
  | roceReadResponse (qp : Fin 8192) (psn : BitVec 24) (data : List Byte) (ce : Bool)
  /-- ROCE_ACK (R340). -/
  | roceAck (qp : Fin 8192) (psn : BitVec 24) (ce : Bool)
  /-- ROCE_NAK (R340). -/
  | roceNak (qp : Fin 8192) (psn : BitVec 24) (kind : Fin 5) (ce : Bool)
  /-- CNP_RECEIVED (R345). -/
  | cnpReceived (qp : Fin 8192)
  /-- ECN_ALPHA_DECAY (R345). -/
  | ecnAlphaDecay (qp : Fin 8192)
  /-- ECN_RATE_INCREASE (R345). -/
  | ecnRateIncrease (qp : Fin 8192)
  /-- ROCE_RETRY_TIMEOUT (R341). -/
  | roceRetryTimeout (qp : Fin 8192)
  /-- ROCE_FAULT_WAIT_EXPIRED (R344). -/
  | roceFaultWaitExpired (qp : Fin 8192)
  /-- QP_SEND_PRODUCER (R342). -/
  | qpSendProducer (qp : Fin 8192) (count : W32)
  /-- QP_RECV_PRODUCER (R342). -/
  | qpRecvProducer (qp : Fin 8192) (count : W32)
  /-- QP_COMP_CONSUMER (R342). -/
  | qpCompConsumer (qp : Fin 8192) (count : W32)
  /-- QP_CONFIG_WRITE (R341). -/
  | qpConfigWrite (r : Req) (qp : Fin 8192) (value : List Byte)
  /-- MR_ENTRY_WRITE (R343). -/
  | mrEntryWrite (r : Req) (region : Byte) (value : List Byte)
  /-- WORK_REQUEST_DONE (R342). -/
  | workRequestDone (qp : Fin 8192)
  /-- LAUNCH_TIME_REACHED (R346). -/
  | launchTimeReached (qp : Fin 8192)
  /-- READ (R359). -/
  | read (r : Req) (index : W16) (sub : Byte) (length : W16)
  /-- WRITE (R359). -/
  | write (r : Req) (index : W16) (sub : Byte) (value : List Byte)
  /-- DESCRIBE (R362). -/
  | describe (r : Req) (index : W16) (sub : Byte)
  /-- BLOCK_OPEN_READ (R361). -/
  | blockOpenRead (r : Req) (index : W16) (sub : Byte)
  /-- BLOCK_OPEN_WRITE (R361). -/
  | blockOpenWrite (r : Req) (index : W16) (sub : Byte) (total : W32)
  /-- BLOCK_READ (R361). -/
  | blockRead (r : Req) (handle : W16) (offset : W32) (length : W16)
  /-- BLOCK_WRITE (R361). -/
  | blockWrite (r : Req) (handle : W16) (offset : W32) (data : List Byte)
  /-- BLOCK_COMMIT (R361). -/
  | blockCommit (r : Req) (handle : W16)
  /-- BLOCK_CLOSE (R361). -/
  | blockClose (r : Req) (handle : W16)
  /-- BLOCK_IDLE_TIMEOUT (R361). -/
  | blockIdleTimeout (slot : Fin 64) (handle : W16)
  /-- CFG_FACTORY_ARM (R366). -/
  | cfgFactoryArm (r : Req)
  /-- CFG_FACTORY_DISARM (R366). -/
  | cfgFactoryDisarm (r : Req)
  /-- CAIRN_COMMIT (R418). -/
  | cairnCommit (bad : List W16)
  /-- CAIRN_CLEAR (R424). -/
  | cairnClear (r : Req) (token : List Byte)
  /-- CAIRN_CLEAR_DONE (R425). -/
  | cairnClearDone (ok : Bool)
  /-- FREEZE_AT (R431). -/
  | freezeAt (r : Req) (frame : W64)
  /-- TRACE_FLUSH (R438). -/
  | traceFlush (ridge : Fin 16)
  /-- WATCH_BASE_WRITE (R441). -/
  | watchBaseWrite (r : Req) (base : W64)
  /-- FW_ACTIVATE (R448). -/
  | fwActivate (r : Req)
  /-- ROLLBACK_COMMIT (R449). -/
  | rollbackCommit (r : Req) (count : Byte)
  /-- OPKEY_PROVISION (R453). -/
  | opkeyProvision (r : Req) (value : List Byte)
  /-- OPKEY_REVOKE (R453). -/
  | opkeyRevoke (r : Req) (slot : Byte)
  /-- ATTEST_REQUEST (R454). -/
  | attestRequest (r : Req) (value : List Byte)
  /-- HEARTBEAT (R397). -/
  | heartbeat (agent : Fin 19) (atLimit : Bool)
  /-- LEASE_CLAIM (R401). -/
  | leaseClaim (b : Bool)
  /-- LEASE_RENEW (R401). -/
  | leaseRenew (b : Bool) (term : W32) (atLimit : Bool)
  /-- STEWARD_RESTART_DONE (R399). -/
  | stewardRestartDone (b : Bool)
  /-- TRAY_PWR_EN_ASSERT (R467). -/
  | trayPwrEnAssert (straps : Straps) (held : Bool)
  /-- READY (R475). -/
  | ready (up : BringUp)
  /-- DOMAIN_FAULT (R383). -/
  | domainFault (domain : Fin 30)
  /-- POWER_LIMIT_WRITE (R387). -/
  | powerLimitWrite (r : Req) (watts : W32)
  /-- TRAY_RST_L_RELEASE (R468). -/
  | trayRstLRelease (readable : Bool)
  /-- RECOVERY_DATA (R470). -/
  | recoveryData (offset : Option W32) (data : List Byte)
  /-- ALERT_CAUSE_WRITE (R472). -/
  | alertCauseWrite (value : Byte)
  /-- I3C_DYNAMIC_ADDRESS (R469). -/
  | i3cDynamicAddress (address : BitVec 7)
  /-- READ_VIN (R471). -/
  | readVin (word : W16)
  /-- READ_IIN (R471). -/
  | readIin (word : W16)
  /-- READ_PIN (R471). -/
  | readPin (word : W16)
  /-- READ_TEMPERATURE_1 (R471). -/
  | readTemperature1 (word : W16)
  /-- STATUS_WORD (R471). -/
  | statusWord (faults : W16)
  /-- INPUT_RETURN (R404). -/
  | inputReturn (straps : Straps) (held : Bool)
  /-- PAUSE_FRAME_RECEIVED (R327). -/
  | pauseFrameReceived (port : Fin 8)
  /-- ALERT_EN_WRITE (R472). -/
  | alertEnWrite (value : Byte)
  /-- LEASE_LAPSE (R402). -/
  | leaseLapse
  /-- THERMAL_TRIP (R391). -/
  | thermalTrip
  /-- FSYNC_MISSING (R374). -/
  | fsyncMissing
  /-- FSYNC_STARTUP_TIMEOUT (R466). -/
  | fsyncStartupTimeout
  /-- REFCLK_LOST (R375). -/
  | refclkLost
  /-- REFCLK_RETURN (R375). -/
  | refclkReturn
  /-- TIME_MASTER_TIMEOUT (R370). -/
  | timeMasterTimeout
  /-- PENDING_ENTRY_FREE (R208). -/
  | pendingEntryFree
  /-- OCS_NOTICE_EXPIRE (R275). -/
  | ocsNoticeExpire
  /-- CAIRN_FLASH_TIMEOUT (R421). -/
  | cairnFlashTimeout
  /-- FW_STAGE_RESULT (R448). -/
  | fwStageResult
  /-- SUP_RESTART_DONE (R400). -/
  | supRestartDone
  /-- L6_TRAY_WAIT_EXPIRED (R413). -/
  | l6TrayWaitExpired
  /-- TRAY_PWR_EN_DEASSERT (R467). -/
  | trayPwrEnDeassert
  /-- INPUT_LOST (R384). -/
  | inputLost
  /-- TRAY_RST_L_ASSERT (R468). -/
  | trayRstLAssert
  /-- RECOVERY_BEGIN (R470). -/
  | recoveryBegin
  /-- RECOVERY_END (R470). -/
  | recoveryEnd
  /-- RECOVERY_ABORT (R470). -/
  | recoveryAbort
  /-- RECOVERY_IDLE_TIMEOUT (R470). -/
  | recoveryIdleTimeout
  /-- CLEAR_FAULTS (R471). -/
  | clearFaults
  /-- MEMS_DRIVE_SUPPLY_LOST (R272). -/
  | memsDriveSupplyLost
deriving DecidableEq, Repr

end Sys2Proof
end

