-- ==== Sys2Proof/Decode.lean ====
section
/-! DEFINITION. The table of operations and events gives no row any bits: commands do not come as words, so no word spells
one. -/
namespace Sys2Proof

/-- No row of the table has an encoding, so no word decodes. -/
def decodeTableWord (_nbits _w : Nat) : Option Instr := none

end Sys2Proof
end

