-- ==== Sys2Proof/Config.lean ====
section
/-! DEFINITION. What an implementation fixes and the spec leaves open: free values. Each is a constant without a body, so
no proof can see its value and a statement about it holds for every value. The assumption log names each. -/
namespace Sys2Proof.Config

/-- Data the spec calls undefined, or does not give, at a place of a memory: kind, generation and address choose it. -/
opaque freeByte : Nat → Nat → Nat → Byte
/-- What a memory line written under one key reads as under another (R178). -/
opaque foreignByte : Nat → Nat → Nat → Byte
/-- Seed of a noise generator from SR_SEED, Ridge, Spur position and lane (R45). -/
opaque noiseSeed : Nat → Nat → Nat → Nat → W64
/-- The generator's next state (R45). -/
opaque noiseNext : W64 → W64
/-- The 16-bit noise word a generator gives in a state (R44, R45). -/
opaque noiseWord : W64 → W16
/-- The result an exp, log, rsqrt or rcp unit gives, within the bound of R109. -/
opaque nearResult : Nat → W32 → W32 → W32
/-- A subnormal result of such a unit, for which R109 states no bound. -/
opaque tinyResult : Nat → W32 → W32 → W32

/-- SHAKE256 of a message with an output of so many bytes (FIPS 202, named by ch. 20). -/
opaque shake256 : List Byte → Nat → List Byte
/-- KMAC-256 of a key and a message, the tag's bytes (R333). -/
opaque kmac256 : List Byte → List Byte → Nat → List Byte
/-- Whether an Ed448 signature verifies: key, context, message, signature (RFC 8032). -/
opaque ed448Verify : List Byte → List Byte → List Byte → List Byte → Bool
/-- The Ed448 public key of a private key, and a signature by it: key, context, message (RFC 8032). -/
opaque ed448Public : List Byte → List Byte
opaque ed448Sign : List Byte → List Byte → List Byte → List Byte
/-- X448 of a scalar and a point, and the public value of a scalar (RFC 7748). -/
opaque x448 : List Byte → List Byte → List Byte
opaque x448Public : List Byte → List Byte
/-- Bytes that the Saddle die's entropy source draws: a number never used before, and how many. -/
opaque entropy : Nat → Nat → List Byte
/-- Values fixed at manufacture: the identity seed, the vendor and operator key digests, the certificate, and the contents
of the flash banks' windows (R442, R450, R448). -/
opaque identitySeed : List Byte
opaque vendorDigest : Nat → List Byte
opaque operatorDigest : Nat → List Byte
opaque deviceCert : List Byte
opaque deviceSerial : W64
opaque hwStepping : W16
opaque factoryFlash : Nat → Nat → List Byte

/-- A factory coefficient block of a loop type (R297), and a ring's channel step (R305). -/
opaque factoryCoef : Nat → List Byte
opaque channelStep : Nat → W32
/-- A ring's factory resonance map: the output for each channel 0–15, and for 16 the parking output (R305). -/
opaque resonance : Nat → Nat → W32
/-- A sample of an injected sine: amplitude, frequency, sample number and sample period in µs (R315). -/
opaque sine : W32 → W32 → Nat → Nat → W32
/-- The start value of an injection's PRBS generator (R315). -/
opaque prbsSeed : Nat → Nat

/-- The new tag of an rkey (R343). -/
opaque rkeyTag : Nat → BitVec 24

end Sys2Proof.Config
end

