-- ==== Sys2Proof/Machine/Bits.lean ====
section
/-! DEFINITION. Bit fields and byte order (R4, R5): every multi-byte value is little-endian, bit 0 is the least
significant bit, and [m:n] includes both ends. -/
namespace Sys2Proof.Machine

/-- Bits [hi:lo] of a number (R5). -/
def fld (x hi lo : Nat) : Nat := (x >>> lo) % 2 ^ (hi + 1 - lo)

/-- Bit `i` of a number. -/
def bitAt (x i : Nat) : Bool := x.testBit i

/-- `x` with bit `i` set or cleared. -/
def putBit (x i : Nat) (b : Bool) : Nat :=
  if x.testBit i then (if b then x else x - 2 ^ i) else (if b then x + 2 ^ i else x)

/-- The `n` bytes of a number, least significant first (R4). -/
def leBytes : Nat → Nat → List Byte
  | 0, _ => []
  | n + 1, x => BitVec.ofNat 8 x :: leBytes n (x / 256)

/-- The number that bytes hold, least significant first (R4). -/
def leNat : List Byte → Nat
  | [] => 0
  | b :: bs => b.toNat + 256 * leNat bs

/-- The number in `n` bytes at offset `o` of a byte list; bytes past the end read as zero. -/
def leAt (bs : List Byte) (o n : Nat) : Nat := leNat ((bs.drop o).take n)

/-- The byte at offset `o`, zero past the end. -/
def byteAt (bs : List Byte) (o : Nat) : Nat := (bs.getD o 0#8).toNat

/-- A run of `n` zero bytes. -/
def zeros (n : Nat) : List Byte := List.replicate n 0#8

/-- A byte list cut or zero-padded to exactly `n` bytes. -/
def fitTo (n : Nat) (bs : List Byte) : List Byte := bs.take n ++ zeros (n - bs.length)

/-- A byte list padded with zeros to a multiple of `n` bytes. -/
def padTo (n : Nat) (bs : List Byte) : List Byte := bs ++ zeros ((n - bs.length % n) % n)

/-- A byte list with `new` placed at offset `o`, extended with zeros where needed. -/
def placeAt (bs : List Byte) (o : Nat) (new : List Byte) : List Byte :=
  fitTo o bs ++ new ++ bs.drop (o + new.length)

/-- Whether every byte of a list is zero. -/
def allZero (bs : List Byte) : Bool := bs.all (· == 0#8)

/-- Number of set bits among the lowest `n`. -/
def popCount (n x : Nat) : Nat := ((List.range n).filter x.testBit).length

/-- The positions of the set bits among the lowest `n`, ascending. -/
def setBits (n x : Nat) : List Nat := (List.range n).filter x.testBit

/-- The number whose set bits are the listed positions. -/
def maskOf (l : List Nat) : Nat := l.foldl (fun m i => putBit m i true) 0

/-- `n / d` rounded up. -/
def ceilDiv (n d : Nat) : Nat := (n + d - 1) / d

/-- Whether `x` is a power of two. -/
def isPow2 (x : Nat) : Bool := x != 0 && x == 2 ^ x.log2

/-- The two's complement value of the lowest `w` bits. -/
def toSigned (w x : Nat) : Int :=
  let y := x % 2 ^ w
  if y < 2 ^ (w - 1) then (y : Int) else (y : Int) - (2 ^ w : Nat)

/-- The lowest `w` bits of an integer in two's complement. -/
def ofSigned (w : Nat) (i : Int) : Nat := (i % (2 ^ w : Nat)).toNat

/-- `(a - b) mod 2^32`, the distance of two free-running 32-bit counts (R88, R90). -/
def dist32 (a b : Nat) : Nat := (a + 2 ^ 32 - b % 2 ^ 32) % 2 ^ 32

/-- The next value of a 32-bit count. -/
def inc32 (a : Nat) : Nat := (a + 1) % 2 ^ 32

end Sys2Proof.Machine
end

