-- ==== Sys2Proof/Machine/Fp.lean ====
section
/-! DEFINITION. Binary32 arithmetic in exact dyadic integers (R26, R42, R109): every finite value is m × 2^e, sums and
products are formed exactly and rounded once, to nearest with ties to even. -/
namespace Sys2Proof.Machine

/-- A floating value read from its bits: NaN, an infinity, or (−1)^neg × m × 2^e. -/
inductive Fv where
  | nan
  | inf (neg : Bool)
  | fin (neg : Bool) (m : Nat) (e : Int)
deriving DecidableEq, Repr

/-- The canonical quiet NaN in FP32 (R26). -/
def f32NaN : W32 := 0x7FC00000#32

def f32Inf (neg : Bool) : W32 := if neg then 0xFF800000#32 else 0x7F800000#32

def f32Zero (neg : Bool) : W32 := if neg then 0x80000000#32 else 0#32

def f32One : W32 := 0x3F800000#32

/-- The value of a binary32 encoding; subnormals are kept (R26). -/
def f32Val (w : W32) : Fv :=
  let x := w.toNat
  let neg := bitAt x 31
  let ex := fld x 30 23
  let fr := fld x 22 0
  if ex = 255 then (if fr = 0 then .inf neg else .nan)
  else if ex = 0 then .fin neg fr (-149)
  else .fin neg (fr + 2 ^ 23) ((ex : Int) - 150)

/-- `num / 2^sh` rounded to nearest, ties to even; `sticky` says that the true value lies strictly above `num`. -/
def rneShift (num sh : Nat) (sticky : Bool) : Nat :=
  let k := num >>> sh
  let rem := num % 2 ^ sh
  if sh = 0 then k
  else
    let half := 2 ^ (sh - 1)
    if rem > half || (rem = half && (sticky || k % 2 = 1)) then k + 1 else k

/-- The binary32 nearest to (−1)^neg × (m, or a little above it when sticky) × 2^e, ties to even; overflow is an infinity. -/
def f32Round (neg : Bool) (m : Nat) (e : Int) (sticky : Bool := false) : W32 :=
  if m = 0 then f32Zero neg
  else
    let lead : Int := (m.log2 : Int) + e
    let q : Int := if lead < -126 then -149 else lead - 23
    -- below the quantum the magnitude is widened first, so that a sticky tail never meets an exact shift
    let m' := m <<< 2
    let e' := e - 2
    let k := if e' < q then rneShift m' (q - e').toNat sticky else m' <<< (e' - q).toNat
    let bits : Nat := if lead < -126 then k else ((lead + 126).toNat <<< 23) + k
    let mag := if bits ≥ 0x7F800000 then 0x7F800000 else bits
    BitVec.ofNat 32 (mag + (if neg then 2 ^ 31 else 0))

/-- The binary32 nearest to a value. -/
def Fv.toF32 : Fv → W32
  | .nan => f32NaN
  | .inf n => f32Inf n
  | .fin n m e => f32Round n m e

/-- The signed integer of a finite value at the common exponent `e0 ≤ e`. -/
def atExp (neg : Bool) (m : Nat) (e e0 : Int) : Int :=
  let v : Int := ((m <<< (e - e0).toNat : Nat) : Int)
  if neg then -v else v

/-- Exact sum of two values; an exact zero is +0 unless both are −0 (IEEE 754, round to nearest). -/
def Fv.add : Fv → Fv → Fv
  | .nan, _ => .nan
  | _, .nan => .nan
  | .inf a, .inf b => if a = b then .inf a else .nan
  | .inf a, _ => .inf a
  | _, .inf b => .inf b
  | .fin n m e, .fin n' m' e' =>
    let e0 := min e e'
    let s := atExp n m e e0 + atExp n' m' e' e0
    if s = 0 then .fin (n && n') 0 e0 else .fin (decide (s < 0)) s.natAbs e0

def Fv.neg : Fv → Fv
  | .nan => .nan
  | .inf a => .inf (!a)
  | .fin n m e => .fin (!n) m e

def Fv.abs : Fv → Fv
  | .nan => .nan
  | .inf _ => .inf false
  | .fin _ m e => .fin false m e

def Fv.sub (a b : Fv) : Fv := Fv.add a b.neg

def Fv.isZero : Fv → Bool
  | .fin _ 0 _ => true
  | _ => false

/-- Exact product. -/
def Fv.mul : Fv → Fv → Fv
  | .nan, _ => .nan
  | _, .nan => .nan
  | .inf a, .inf b => .inf (a != b)
  | .inf a, .fin n m _ => if m = 0 then .nan else .inf (a != n)
  | .fin n m _, .inf b => if m = 0 then .nan else .inf (b != n)
  | .fin n m e, .fin n' m' e' => .fin (n != n') (m * m') (e + e')

/-- `a < b`; false when either is NaN. -/
def Fv.lt : Fv → Fv → Bool
  | .nan, _ => false
  | _, .nan => false
  | .inf a, .inf b => a && !b
  | .inf a, .fin .. => a
  | .fin .., .inf b => !b
  | .fin n m e, .fin n' m' e' =>
    let e0 := min e e'
    decide (atExp n m e e0 < atExp n' m' e' e0)

def Fv.le (a b : Fv) : Bool :=
  match a, b with
  | .nan, _ => false
  | _, .nan => false
  | _, _ => !(Fv.lt b a)

/-- The sign bit. -/
def Fv.isNeg : Fv → Bool
  | .nan => false
  | .inf a => a
  | .fin n _ _ => n

def f32Add (a b : W32) : W32 := (Fv.add (f32Val a) (f32Val b)).toF32
def f32Sub (a b : W32) : W32 := (Fv.sub (f32Val a) (f32Val b)).toF32
def f32Mul (a b : W32) : W32 := (Fv.mul (f32Val a) (f32Val b)).toF32
/-- Fused multiply-add with one rounding. -/
def f32Fma (a b c : W32) : W32 := (Fv.add (Fv.mul (f32Val a) (f32Val b)) (f32Val c)).toF32
def f32Lt (a b : W32) : Bool := Fv.lt (f32Val a) (f32Val b)
def f32Le (a b : W32) : Bool := Fv.le (f32Val a) (f32Val b)
def f32Abs (a : W32) : W32 := a &&& 0x7FFFFFFF#32
def f32Neg (a : W32) : W32 := a ^^^ 0x80000000#32

def f32IsNaN (w : W32) : Bool := decide (f32Val w = .nan)

/-- Whether a binary32 is neither NaN nor infinite. -/
def f32Finite (w : W32) : Bool :=
  match f32Val w with
  | .fin .. => true
  | _ => false

/-- IEEE 754 maximum: a NaN propagates, and +0 is above −0. -/
def f32Max (a b : W32) : W32 :=
  if f32IsNaN a || f32IsNaN b then f32NaN
  else if f32Lt a b then b
  else if f32Lt b a then a
  else if (f32Val a).isNeg then b else a

/-- IEEE 754 minimum: a NaN propagates, and −0 is below +0. -/
def f32Min (a b : W32) : W32 :=
  if f32IsNaN a || f32IsNaN b then f32NaN
  else if f32Lt a b then a
  else if f32Lt b a then b
  else if (f32Val a).isNeg then a else b

/-- Division rounded to nearest, ties to even. -/
def Fv.div : Fv → Fv → W32
  | .nan, _ => f32NaN
  | _, .nan => f32NaN
  | .inf _, .inf _ => f32NaN
  | .inf a, .fin n _ _ => f32Inf (a != n)
  | .fin n _ _, .inf b => f32Zero (n != b)
  | .fin n m e, .fin n' m' e' =>
    if m' = 0 then (if m = 0 then f32NaN else f32Inf (n != n'))
    else if m = 0 then f32Zero (n != n')
    else
      let sh := 80 + m'.log2
      let num := m <<< sh
      f32Round (n != n') (num / m') (e - e' - (sh : Int)) (num % m' != 0)

def f32Div (a b : W32) : W32 := Fv.div (f32Val a) (f32Val b)

/-- The binary32 nearest to an integer. -/
def f32OfInt (i : Int) : W32 := f32Round (decide (i < 0)) i.natAbs 0

/-- The fixed pairwise tree of additions: neighbours first, each addition rounded (R51, R109). -/
def f32Pairs : List W32 → List W32
  | a :: b :: t => f32Add a b :: f32Pairs t
  | t => t

def f32Tree : Nat → List W32 → W32
  | 0, l => l.headD 0#32
  | n + 1, l => match l with
    | [] => 0#32
    | [a] => a
    | l => f32Tree n (f32Pairs l)

/-- The sum of a list by the pairwise tree of R109. -/
def f32Sum (l : List W32) : W32 := f32Tree (l.length.log2 + 1) l

/-! ### Bounds for the transcendental operations

Fixed point with `fxBits` fraction bits. The values below are accurate far beyond binary32, and serve only to say
which results lie within the 2 units in the last place that R109 allows. -/

def fxBits : Nat := 192

/-- Terms of the exponential series at `x` (fixed point), from term `k`. -/
def expTerms (x : Int) : Nat → Nat → Int → Int
  | 0, _, _ => 0
  | n + 1, k, t => t + expTerms x n (k + 1) (t * x / (2 ^ fxBits : Nat) / ((k + 1 : Nat) : Int))

/-- Terms of artanh at `z` (fixed point): z + z^3/3 + … -/
def artanhTerms (z2 : Int) : Nat → Nat → Int → Int
  | 0, _, _ => 0
  | n + 1, k, p => p / ((2 * k + 1 : Nat) : Int) + artanhTerms z2 n (k + 1) (p * z2 / (2 ^ fxBits : Nat))

/-- Natural logarithm of a fixed-point number in [1, 2]. -/
def fxLn (x : Int) : Int :=
  let one : Int := (2 ^ fxBits : Nat)
  let z := (x - one) * one / (x + one)
  2 * artanhTerms (z * z / one) 64 0 z

def fxLn2 : Int := fxLn (2 ^ (fxBits + 1) : Nat)

/-- An approximation of e^(m·2^e) as (mantissa, exponent); the magnitude of the argument is at most 2^12. -/
def expApprox (s : Int) (e : Int) : Nat × Int :=
  let x : Int := if e ≥ 0 then s * (2 ^ (fxBits + e.toNat) : Nat)
    else s * (2 ^ fxBits : Nat) / (2 ^ (-e).toNat : Nat)
  let n := x / fxLn2
  let r := x - n * fxLn2
  ((expTerms r 60 0 (2 ^ fxBits : Nat)).toNat, n - (fxBits : Int))

/-- Integer square root by `n` doubling steps. -/
def isqrt : Nat → Nat → Nat
  | 0, _ => 0
  | n + 1, x =>
    let r := isqrt n (x / 4) * 2
    if (r + 1) * (r + 1) ≤ x then r + 1 else r

/-- Whether |candidate − m·2^e| is at most 2 units in the last place of the binary32 `ref`, both positive and normal. -/
def within2Ulp (cand ref : W32) (m : Nat) (e : Int) : Bool :=
  match f32Val cand, f32Val ref with
  | .fin false cm ce, .fin false _ re =>
    let e0 := min (min ce e) re
    let d := atExp false cm ce e0 - atExp false m e e0
    decide (d.natAbs ≤ (atExp false 2 re e0).natAbs)
  | _, _ => false

/-- A result of the class "exp, log, rsqrt" (R109). The exact value is (−1)^neg × m × 2^e. For a finite, normal result
the machine's value is some binary32 within 2 units in the last place: the free choice of Config is kept where it is one,
and the nearest value stands otherwise. No bound is stated for a subnormal result, which is a free value. -/
def ulpResult (op : Nat) (a b : W32) (neg : Bool) (m : Nat) (e : Int) : W32 :=
  let ref := f32Round false m e true
  let sg : W32 := if neg then 0x80000000#32 else 0#32
  if ref = 0x7F800000#32 then f32Inf neg
  else if ref.toNat < 2 ^ 23 then Config.tinyResult op a b
  else
    let cand := Config.nearResult op a b
    if within2Ulp cand ref m e then cand ||| sg else ref ||| sg

/-- e^x for the exact dyadic x (EXP and EXPSUB, R108, R109). -/
def expOf (op : Nat) (a b : W32) : Fv → W32
  | .nan => f32NaN
  | .inf neg => if neg then 0#32 else f32Inf false
  | .fin n m e =>
    if m = 0 then f32One
    else
      let lead : Int := (m.log2 : Int) + e
      if lead ≥ 8 then (if n then Config.tinyResult op a b else f32Inf false)
      else
        let s : Int := if n then -(m : Int) else m
        let r := expApprox s e
        ulpResult op a b false r.1 r.2

/-- Natural logarithm (LOG): −∞ at a zero and NaN below zero, as IEEE 754 gives. -/
def f32Log (a : W32) : W32 :=
  match f32Val a with
  | .nan => f32NaN
  | .inf neg => if neg then f32NaN else f32Inf false
  | .fin n m e =>
    if m = 0 then f32Inf true
    else if n then f32NaN
    else if a = f32One then 0#32
    else
      let x : Int := if m.log2 ≤ fxBits then ((m <<< (fxBits - m.log2) : Nat) : Int) else (2 ^ fxBits : Nat)
      let v : Int := ((m.log2 : Int) + e) * fxLn2 + fxLn x
      ulpResult 0x11 a 0#32 (decide (v < 0)) v.natAbs (-(fxBits : Int))

/-- 1 ÷ √a (RSQRT). -/
def f32Rsqrt (a : W32) : W32 :=
  match f32Val a with
  | .nan => f32NaN
  | .inf neg => if neg then f32NaN else 0#32
  | .fin n m e =>
    if m = 0 then f32Inf n
    else if n then f32NaN
    else
      -- make the exponent even, then √(2^240 / m) with the exponent halved
      let m' := if e % 2 = 0 then m else 2 * m
      let e' := if e % 2 = 0 then e else e - 1
      ulpResult 0x12 a 0#32 false (isqrt 140 (2 ^ 240 / m')) (-(e' / 2) - 120)

/-- 1 ÷ a (RCP). -/
def f32Rcp (a : W32) : W32 :=
  match f32Val a with
  | .nan => f32NaN
  | .inf neg => f32Zero neg
  | .fin n m e =>
    if m = 0 then f32Inf n
    else ulpResult 0x13 a 0#32 n (2 ^ 120 / m) (-e - 120)

end Sys2Proof.Machine
end

