-- ==== Sys2Proof/Machine/Objects.lean ====
section
/-! DEFINITION. The objects of the control dictionary (R348–R353, R358, R362): one row per line of the subject chapters'
object tables, with the range of indices and subindices, type, access, default and the stated range of its values. -/
namespace Sys2Proof.Machine

/-- Which unit an object answers for, so that a TENANT session reaches it only for units its partition owns
(R86, R183, R259, R347). -/
inductive UnitOf where
  | none
  | ridgeSub
  | ridgeIdx
  | queueIdx
  | memSub
  | memIdx
  | linkIdx
  | linkSub
  | laneSub
  | qp
deriving DecidableEq, Repr

/-- The values a write may carry (R350, R363). A value outside is refused with RANGE. -/
inductive Chk where
  | any
  | rng (lo hi : Nat)
  | rngOr (lo hi other : Nat)
  | srng (lo hi : Int)
  | frng (lo hi : Int) (den : Nat)
  | pow2 (lo hi : Nat)
  | pow2z (lo hi : Nat)
  | align (low top : Nat)
  | stepSrc
deriving DecidableEq, Repr

/-- One row of an object table. `kind` is KIND of Table 14.7: 1 read only, 2 trigger, 4 non-volatile, 8 per partition,
16 per session. -/
structure ObjRow where
  iLo : Nat
  iHi : Nat
  sLo : Nat
  sHi : Nat
  sStep : Nat
  ty : Nat
  cls : Nat
  dflt : Nat
  kind : Nat
  maxLen : Nat
  varLen : Bool
  unit : UnitOf
  chk : Chk
deriving DecidableEq, Repr

def objRows0 : List ObjRow := [
  ⟨0x2000, 0x2000, 0x00, 0x00, 1, 3, 0, 0, 1, 4, false, .none, .any⟩,
  ⟨0x2000, 0x2000, 0x01, 0x01, 1, 1, 0, 1, 1, 1, false, .none, .any⟩,
  ⟨0x2001, 0x2001, 0x00, 0x00, 1, 1, 0, 17, 1, 1, false, .none, .any⟩,
  ⟨0x2001, 0x2001, 0x01, 0x01, 1, 1, 0, 16, 1, 1, false, .none, .any⟩,
  ⟨0x2001, 0x2001, 0x02, 0x02, 1, 1, 0, 8, 1, 1, false, .none, .any⟩,
  ⟨0x2001, 0x2001, 0x03, 0x03, 1, 1, 0, 2, 1, 1, false, .none, .any⟩,
  ⟨0x2001, 0x2001, 0x04, 0x04, 1, 1, 0, 16, 1, 1, false, .none, .any⟩,
  ⟨0x2001, 0x2001, 0x05, 0x05, 1, 2, 0, 256, 1, 2, false, .none, .any⟩,
  ⟨0x2001, 0x2001, 0x06, 0x06, 1, 1, 2, 16, 0, 1, false, .none, .rng 1 16⟩,
  ⟨0x2001, 0x2001, 0x07, 0x07, 1, 1, 2, 64, 0, 1, false, .none, .rng 1 64⟩,
  ⟨0x2001, 0x2001, 0x08, 0x08, 1, 1, 2, 32, 0, 1, false, .none, .rng 1 32⟩,
  ⟨0x2002, 0x2002, 0x00, 0x0F, 1, 3, 0, 65535, 1, 4, false, .none, .any⟩,
  ⟨0x2003, 0x2003, 0x00, 0x0F, 1, 8, 0, 0, 1, 1, false, .none, .any⟩,
  ⟨0x2004, 0x2004, 0x00, 0x0F, 1, 4, 0, 51539607552, 1, 8, false, .none, .any⟩,
  ⟨0x2005, 0x2005, 0x00, 0x0F, 1, 4, 0, 0, 1, 8, false, .none, .any⟩,
  ⟨0x2006, 0x2006, 0x00, 0x07, 1, 8, 0, 0, 1, 1, false, .none, .any⟩,
  ⟨0x2007, 0x2007, 0x00, 0x03, 1, 4, 0, 18446744073709551615, 1, 8, false, .none, .any⟩,
  ⟨0x2008, 0x2008, 0x00, 0x00, 1, 1, 0, 255, 1, 1, false, .none, .any⟩,
  ⟨0x4200, 0x4200, 0x00, 0x00, 1, 5, 1, 0, 8, 4, false, .none, .srng (-1) 3⟩,
  ⟨0x4200, 0x4200, 0x01, 0x01, 1, 0, 1, 1, 8, 1, false, .none, .any⟩,
  ⟨0x4200, 0x4200, 0x02, 0x02, 1, 8, 1, 0, 8, 1, false, .none, .rng 0 2⟩,
  ⟨0x4201, 0x4201, 0x00, 0x00, 1, 0, 1, 1, 8, 1, false, .none, .any⟩,
  ⟨0x4201, 0x4201, 0x01, 0x01, 1, 2, 1, 64, 8, 2, false, .none, .rng 16 1024⟩,
  ⟨0x4201, 0x4201, 0x02, 0x02, 1, 6, 1, 1031798784, 8, 4, false, .none, .frng 0 1 1⟩]

def objRows1 : List ObjRow := [
  ⟨0x4201, 0x4201, 0x03, 0x03, 1, 1, 1, 3, 8, 1, false, .none, .rng 1 15⟩,
  ⟨0x4201, 0x4201, 0x04, 0x04, 1, 8, 1, 0, 8, 1, false, .none, .rng 0 3⟩,
  ⟨0x4202, 0x4202, 0x00, 0x00, 1, 4, 1, 1, 8, 8, false, .none, .rng 1 0xFFFFFFFFFFFFFFFF⟩,
  ⟨0xC200, 0xC200, 0x00, 0x00, 1, 4, 1, 0, 9, 8, false, .none, .any⟩,
  ⟨0xC200, 0xC200, 0x01, 0x01, 1, 4, 1, 0, 9, 8, false, .none, .any⟩,
  ⟨0xC200, 0xC200, 0x02, 0x02, 1, 4, 1, 0, 9, 8, false, .none, .any⟩,
  ⟨0xC200, 0xC200, 0x03, 0x03, 1, 4, 1, 0, 9, 8, false, .none, .any⟩,
  ⟨0xC200, 0xC200, 0x04, 0x04, 1, 4, 1, 0, 9, 8, false, .none, .any⟩,
  ⟨0xC200, 0xC200, 0x05, 0x05, 1, 4, 1, 0, 9, 8, false, .none, .any⟩,
  ⟨0xC200, 0xC200, 0x06, 0x06, 1, 4, 1, 0, 9, 8, false, .none, .any⟩,
  ⟨0xC200, 0xC200, 0x07, 0x07, 1, 4, 1, 0, 9, 8, false, .none, .any⟩,
  ⟨0xC201, 0xC201, 0x00, 0x07, 1, 4, 2, 0, 1, 8, false, .none, .any⟩,
  ⟨0x4310, 0x431F, 0x00, 0x07, 1, 1, 1, 4, 8, 1, false, .ridgeIdx, .rng 0 7⟩,
  ⟨0x4400, 0x4400, 0x00, 0x00, 1, 0, 2, 1, 0, 1, false, .none, .any⟩,
  ⟨0x4400, 0x4400, 0x01, 0x01, 1, 3, 2, 1024, 0, 4, false, .none, .rng 16 65535⟩,
  ⟨0x4400, 0x4400, 0x02, 0x02, 1, 1, 2, 12, 0, 1, false, .none, .rng 1 16⟩,
  ⟨0x4401, 0x4401, 0x00, 0x0F, 1, 3, 0, 0, 1, 4, false, .none, .any⟩,
  ⟨0x4402, 0x4402, 0x00, 0x00, 1, 2, 2, 0, 2, 2, false, .none, .any⟩,
  ⟨0xC300, 0xC300, 0x00, 0x0F, 1, 4, 1, 0, 9, 8, false, .ridgeSub, .any⟩,
  ⟨0xC301, 0xC301, 0x00, 0x0F, 1, 4, 1, 0, 9, 8, false, .ridgeSub, .any⟩,
  ⟨0xC302, 0xC302, 0x00, 0x0F, 1, 4, 1, 0, 9, 8, false, .ridgeSub, .any⟩,
  ⟨0xC303, 0xC303, 0x00, 0x0F, 1, 3, 2, 0, 1, 4, false, .none, .any⟩,
  ⟨0x4100, 0x4100, 0x00, 0x00, 1, 4, 1, 0, 10, 8, false, .none, .any⟩,
  ⟨0x4110, 0x418F, 0x00, 0x00, 1, 4, 1, 0, 8, 8, false, .queueIdx, .align 12 48⟩]

def objRows2 : List ObjRow := [
  ⟨0x4110, 0x418F, 0x01, 0x01, 1, 3, 1, 64, 8, 4, false, .queueIdx, .pow2 64 65536⟩,
  ⟨0x4110, 0x418F, 0x02, 0x02, 1, 4, 1, 0, 8, 8, false, .queueIdx, .align 12 48⟩,
  ⟨0x4110, 0x418F, 0x03, 0x03, 1, 1, 1, 0, 8, 1, false, .queueIdx, .rng 0 15⟩,
  ⟨0x4110, 0x418F, 0x04, 0x04, 1, 8, 1, 0, 9, 1, false, .queueIdx, .any⟩,
  ⟨0x4110, 0x418F, 0x05, 0x05, 1, 3, 1, 0, 9, 4, false, .queueIdx, .any⟩,
  ⟨0x4110, 0x418F, 0x06, 0x06, 1, 1, 1, 0, 10, 1, false, .queueIdx, .any⟩,
  ⟨0x4110, 0x418F, 0x07, 0x07, 1, 1, 1, 0, 9, 1, false, .queueIdx, .any⟩,
  ⟨0x4190, 0x4190, 0x00, 0x00, 1, 3, 1, 50000, 8, 4, false, .none, .rng 1000 10000000⟩,
  ⟨0x4190, 0x4190, 0x01, 0x01, 1, 1, 1, 255, 8, 1, false, .none, .stepSrc⟩,
  ⟨0x4190, 0x4190, 0x02, 0x02, 1, 4, 1, 0, 9, 8, false, .none, .any⟩,
  ⟨0x41A0, 0x41A0, 0x00, 0xFF, 1, 4, 1, 0, 8, 8, false, .none, .any⟩,
  ⟨0xC210, 0xC210, 0x00, 0x00, 1, 4, 1, 0, 9, 8, false, .none, .any⟩,
  ⟨0xC210, 0xC210, 0x01, 0x01, 1, 4, 1, 0, 9, 8, false, .none, .any⟩,
  ⟨0xC210, 0xC210, 0x02, 0x02, 1, 4, 1, 0, 9, 8, false, .none, .any⟩,
  ⟨0xC210, 0xC210, 0x03, 0x03, 1, 4, 1, 0, 9, 8, false, .none, .any⟩,
  ⟨0xC210, 0xC210, 0x04, 0x04, 1, 4, 1, 0, 9, 8, false, .none, .any⟩,
  ⟨0xC210, 0xC210, 0x05, 0x05, 1, 4, 1, 0, 9, 8, false, .none, .any⟩,
  ⟨0xC210, 0xC210, 0x06, 0x06, 1, 4, 1, 0, 9, 8, false, .none, .any⟩,
  ⟨0x4191, 0x4191, 0x00, 0x00, 1, 1, 1, 4, 8, 1, false, .none, .rng 1 16⟩,
  ⟨0x4320, 0x432F, 0x00, 0x07, 1, 0, 1, 0, 8, 1, false, .ridgeIdx, .any⟩,
  ⟨0x4330, 0x433F, 0x00, 0x07, 1, 4, 1, 0, 9, 8, false, .ridgeIdx, .any⟩,
  ⟨0x4340, 0x434F, 0x00, 0x00, 1, 10, 3, 0, 1, 65536, false, .none, .any⟩,
  ⟨0xC211, 0xC211, 0x00, 0x00, 1, 4, 1, 0, 9, 8, false, .none, .any⟩,
  ⟨0xC211, 0xC211, 0x01, 0x01, 1, 4, 1, 0, 9, 8, false, .none, .any⟩]

def objRows3 : List ObjRow := [
  ⟨0xC211, 0xC211, 0x02, 0x02, 1, 4, 1, 0, 9, 8, false, .none, .any⟩,
  ⟨0xC211, 0xC211, 0x03, 0x03, 1, 4, 1, 0, 9, 8, false, .none, .any⟩,
  ⟨0xC211, 0xC211, 0x04, 0x04, 1, 4, 1, 0, 9, 8, false, .none, .any⟩,
  ⟨0xC211, 0xC211, 0x05, 0x05, 1, 4, 1, 0, 9, 8, false, .none, .any⟩,
  ⟨0xC220, 0xC220, 0x00, 0x05, 1, 4, 2, 0, 1, 8, false, .none, .any⟩,
  ⟨0xC221, 0xC221, 0x00, 0x05, 1, 4, 2, 0, 1, 8, false, .none, .any⟩,
  ⟨0x5000, 0x5000, 0x00, 0x0F, 1, 8, 0, 0, 1, 1, false, .none, .any⟩,
  ⟨0x5001, 0x5001, 0x00, 0x0F, 1, 8, 0, 3, 1, 1, false, .none, .any⟩,
  ⟨0x5002, 0x5002, 0x00, 0x00, 1, 8, 2, 0, 4, 1, false, .none, .rng 0 2⟩,
  ⟨0x5002, 0x5002, 0x01, 0x01, 1, 8, 0, 0, 1, 1, false, .none, .any⟩,
  ⟨0x5003, 0x5003, 0x00, 0x0F, 1, 4, 0, 0, 1, 8, false, .none, .any⟩,
  ⟨0x5004, 0x5004, 0x00, 0x00, 1, 2, 2, 24, 0, 2, false, .none, .rng 1 168⟩,
  ⟨0x5004, 0x5004, 0x01, 0x01, 1, 2, 2, 24, 0, 2, false, .none, .rng 1 168⟩,
  ⟨0x5004, 0x5004, 0x02, 0x02, 1, 2, 2, 16, 0, 2, false, .none, .rng 4 1024⟩,
  ⟨0x5004, 0x5004, 0x03, 0x03, 1, 3, 2, 4096, 0, 4, false, .none, .rng 64 1048576⟩,
  ⟨0x5004, 0x5004, 0x04, 0x04, 1, 2, 2, 64, 0, 2, false, .none, .rng 8 4096⟩,
  ⟨0x5004, 0x5004, 0x05, 0x05, 1, 2, 2, 512, 0, 2, false, .none, .rng 1 1024⟩,
  ⟨0x5010, 0x5010, 0x00, 0x0F, 1, 10, 0, 0, 0, 128, false, .none, .any⟩,
  ⟨0x5011, 0x5011, 0x00, 0x0F, 1, 4, 0, 0, 0, 8, false, .none, .any⟩,
  ⟨0x5012, 0x5012, 0x00, 0x0F, 1, 2, 0, 0, 1, 2, false, .none, .any⟩,
  ⟨0x5013, 0x5013, 0x00, 0x0F, 1, 2, 0, 0, 1, 2, false, .none, .any⟩,
  ⟨0x5014, 0x5014, 0x00, 0x1F, 1, 10, 2, 0, 1, 8192, true, .none, .any⟩,
  ⟨0x5015, 0x5015, 0x00, 0x07, 1, 8, 2, 0, 1, 1, false, .none, .any⟩,
  ⟨0xC500, 0xC500, 0x00, 0x0F, 1, 4, 1, 0, 9, 8, false, .memSub, .any⟩]

def objRows4 : List ObjRow := [
  ⟨0xC501, 0xC501, 0x00, 0x0F, 1, 4, 1, 0, 9, 8, false, .memSub, .any⟩,
  ⟨0xC502, 0xC502, 0x00, 0x0F, 1, 4, 1, 0, 9, 8, false, .memSub, .any⟩,
  ⟨0xC503, 0xC503, 0x00, 0x0F, 1, 4, 1, 0, 9, 8, false, .memSub, .any⟩,
  ⟨0xC504, 0xC504, 0x00, 0x1F, 1, 4, 1, 0, 9, 8, false, .memSub, .any⟩,
  ⟨0xC505, 0xC505, 0x00, 0x1F, 1, 4, 2, 0, 1, 8, false, .none, .any⟩,
  ⟨0xC506, 0xC506, 0x00, 0x0F, 1, 4, 2, 0, 1, 8, false, .none, .any⟩,
  ⟨0x5100, 0x511F, 0x00, 0x00, 1, 4, 1, 0, 8, 8, false, .memIdx, .align 12 52⟩,
  ⟨0x5100, 0x511F, 0x01, 0x01, 1, 3, 1, 0, 8, 4, false, .memIdx, .pow2z 64 65536⟩,
  ⟨0x5100, 0x511F, 0x02, 0x02, 1, 3, 1, 0, 8, 4, false, .memIdx, .any⟩,
  ⟨0x5100, 0x511F, 0x03, 0x03, 1, 3, 1, 0, 9, 4, false, .memIdx, .any⟩,
  ⟨0x5100, 0x511F, 0x04, 0x04, 1, 4, 1, 0, 8, 8, false, .memIdx, .align 12 52⟩,
  ⟨0x5100, 0x511F, 0x05, 0x05, 1, 3, 1, 0, 8, 4, false, .memIdx, .pow2z 64 65536⟩,
  ⟨0x5100, 0x511F, 0x06, 0x06, 1, 3, 1, 0, 8, 4, false, .memIdx, .any⟩,
  ⟨0x5100, 0x511F, 0x07, 0x07, 1, 3, 1, 0, 9, 4, false, .memIdx, .any⟩,
  ⟨0x5100, 0x511F, 0x08, 0x08, 1, 4, 1, 0, 8, 8, false, .memIdx, .align 12 52⟩,
  ⟨0x5200, 0x5200, 0x00, 0x0F, 1, 4, 1, 0, 8, 8, false, .none, .align 12 52⟩,
  ⟨0x5210, 0x5210, 0x00, 0x00, 1, 4, 1, 0, 10, 8, false, .none, .any⟩,
  ⟨0x5210, 0x5210, 0x01, 0x01, 1, 3, 1, 0, 9, 4, false, .none, .any⟩,
  ⟨0x5220, 0x5220, 0x00, 0x00, 1, 4, 1, 0, 8, 8, false, .none, .align 12 52⟩,
  ⟨0x5220, 0x5220, 0x01, 0x01, 1, 3, 1, 1024, 8, 4, false, .none, .pow2 256 65536⟩,
  ⟨0x5220, 0x5220, 0x02, 0x02, 1, 3, 1, 0, 9, 4, false, .none, .any⟩,
  ⟨0x5220, 0x5220, 0x03, 0x03, 1, 3, 1, 0, 8, 4, false, .none, .any⟩,
  ⟨0x5230, 0x5230, 0x00, 0x00, 1, 4, 1, 0, 10, 8, false, .none, .any⟩,
  ⟨0x5230, 0x5230, 0x01, 0x01, 1, 3, 1, 10000, 8, 4, false, .none, .rng 100 1000000⟩]

def objRows5 : List ObjRow := [
  ⟨0x5240, 0x524F, 0x00, 0x1F, 1, 10, 1, 0, 9, 16, false, .ridgeIdx, .any⟩,
  ⟨0xC510, 0xC510, 0x00, 0x0F, 1, 4, 1, 0, 9, 8, false, .ridgeSub, .any⟩,
  ⟨0xC511, 0xC511, 0x00, 0x0F, 1, 4, 1, 0, 9, 8, false, .ridgeSub, .any⟩,
  ⟨0xC512, 0xC512, 0x00, 0x00, 1, 4, 1, 0, 9, 8, false, .none, .any⟩,
  ⟨0xC512, 0xC512, 0x01, 0x01, 1, 4, 1, 0, 9, 8, false, .none, .any⟩,
  ⟨0xC512, 0xC512, 0x02, 0x02, 1, 4, 1, 0, 9, 8, false, .none, .any⟩,
  ⟨0xC512, 0xC512, 0x03, 0x03, 1, 4, 1, 0, 9, 8, false, .none, .any⟩,
  ⟨0xC512, 0xC512, 0x04, 0x04, 1, 4, 1, 0, 9, 8, false, .none, .any⟩,
  ⟨0xC512, 0xC512, 0x05, 0x05, 1, 4, 1, 0, 9, 8, false, .none, .any⟩,
  ⟨0xC512, 0xC512, 0x06, 0x06, 1, 4, 1, 0, 9, 8, false, .none, .any⟩,
  ⟨0xC512, 0xC512, 0x07, 0x07, 1, 4, 1, 0, 9, 8, false, .none, .any⟩,
  ⟨0xC513, 0xC513, 0x00, 0x00, 1, 4, 2, 0, 1, 8, false, .none, .any⟩,
  ⟨0xC514, 0xC514, 0x00, 0x0F, 1, 4, 1, 0, 9, 8, false, .ridgeSub, .any⟩,
  ⟨0x6000, 0x6000, 0x00, 0x00, 1, 3, 2, 0, 2, 4, false, .none, .any⟩,
  ⟨0x6001, 0x6001, 0x00, 0x07, 1, 8, 2, 0, 1, 1, false, .none, .any⟩,
  ⟨0x6002, 0x6002, 0x00, 0x07, 1, 3, 2, 0, 1, 4, false, .none, .any⟩,
  ⟨0x6003, 0x6003, 0x00, 0x00, 1, 2, 2, 32, 0, 2, false, .none, .rng 8 32⟩,
  ⟨0x6004, 0x6004, 0x00, 0x00, 1, 1, 2, 0, 1, 1, false, .none, .any⟩,
  ⟨0x6005, 0x6005, 0x00, 0x00, 1, 1, 1, 0, 17, 1, false, .none, .any⟩,
  ⟨0x6006, 0x6006, 0x00, 0x00, 1, 2, 1, 0, 17, 2, false, .none, .any⟩,
  ⟨0x6010, 0x6017, 0x00, 0x00, 1, 2, 2, 0, 0, 2, false, .none, .any⟩,
  ⟨0x6010, 0x6017, 0x01, 0x01, 1, 4, 2, 0, 0, 8, false, .none, .any⟩,
  ⟨0x6010, 0x6017, 0x02, 0x02, 1, 3, 2, 0, 0, 4, false, .none, .rng 0 3600⟩,
  ⟨0x6010, 0x6017, 0x03, 0x03, 1, 2, 2, 0, 1, 2, false, .none, .any⟩]

def objRows6 : List ObjRow := [
  ⟨0x6010, 0x6017, 0x04, 0x04, 1, 4, 2, 0, 1, 8, false, .none, .any⟩,
  ⟨0x6020, 0x6027, 0x00, 0x03, 1, 4, 2, 0, 0, 8, false, .none, .any⟩,
  ⟨0x7010, 0x7017, 0x00, 0x00, 1, 4, 2, 0, 0, 8, false, .none, .any⟩,
  ⟨0x7100, 0x710F, 0x00, 0xFF, 1, 10, 1, 0, 8, 16, false, .none, .any⟩,
  ⟨0x7200, 0x723F, 0x00, 0x00, 1, 8, 1, 0, 9, 1, false, .linkIdx, .any⟩,
  ⟨0x7200, 0x723F, 0x01, 0x01, 1, 1, 1, 0, 9, 1, false, .linkIdx, .any⟩,
  ⟨0x7200, 0x723F, 0x02, 0x02, 1, 1, 1, 0, 9, 1, false, .linkIdx, .any⟩,
  ⟨0x7200, 0x723F, 0x03, 0x03, 1, 4, 1, 0, 9, 8, false, .linkIdx, .any⟩,
  ⟨0x7200, 0x723F, 0x04, 0x04, 1, 3, 1, 0, 9, 4, false, .linkIdx, .any⟩,
  ⟨0x7200, 0x723F, 0x05, 0x05, 1, 1, 1, 0, 9, 1, false, .linkIdx, .any⟩,
  ⟨0x7200, 0x723F, 0x06, 0x06, 1, 1, 1, 0, 9, 1, false, .linkIdx, .any⟩,
  ⟨0x7200, 0x723F, 0x07, 0x07, 1, 2, 1, 0, 9, 2, false, .linkIdx, .any⟩,
  ⟨0x7200, 0x723F, 0x08, 0x08, 1, 1, 1, 0, 9, 1, false, .linkIdx, .any⟩,
  ⟨0x7200, 0x723F, 0x09, 0x09, 1, 5, 1, 0, 9, 4, false, .linkIdx, .any⟩,
  ⟨0x7300, 0x7300, 0x00, 0xFF, 1, 8, 1, 0, 9, 1, false, .laneSub, .any⟩,
  ⟨0x7400, 0x7400, 0x00, 0x1F, 1, 4, 2, 0, 0, 8, false, .none, .any⟩,
  ⟨0x7401, 0x7401, 0x00, 0x1F, 1, 1, 2, 255, 0, 1, false, .none, .rngOr 0 31 255⟩,
  ⟨0x7402, 0x7402, 0x00, 0x00, 1, 8, 2, 0, 0, 1, false, .none, .rng 0 1⟩,
  ⟨0x7403, 0x7403, 0x00, 0x00, 1, 2, 2, 0, 2, 2, false, .none, .any⟩,
  ⟨0x7404, 0x7404, 0x00, 0x00, 1, 1, 2, 1, 0, 1, false, .none, .rng 1 3⟩,
  ⟨0x7404, 0x7404, 0x01, 0x01, 1, 1, 2, 3, 0, 1, false, .none, .rng 1 3⟩,
  ⟨0x7404, 0x7404, 0x02, 0x02, 1, 3, 2, 10, 0, 4, false, .none, .rng 2 1000⟩,
  ⟨0x7404, 0x7404, 0x03, 0x03, 1, 1, 2, 8, 0, 1, false, .none, .rng 2 64⟩,
  ⟨0x7404, 0x7404, 0x04, 0x04, 1, 6, 2, 925353388, 0, 4, false, .none, .frng 1 20000 100000000⟩]

def objRows7 : List ObjRow := [
  ⟨0x7404, 0x7404, 0x05, 0x05, 1, 6, 2, 953267991, 0, 4, false, .none, .frng 1 2000 10000000⟩,
  ⟨0x7404, 0x7404, 0x06, 0x06, 1, 3, 2, 4, 0, 4, false, .none, .rng 1 1024⟩,
  ⟨0x7404, 0x7404, 0x07, 0x07, 1, 1, 2, 3, 0, 1, false, .none, .rng 1 16⟩,
  ⟨0xC700, 0xC700, 0x00, 0xFF, 1, 4, 1, 0, 9, 8, false, .laneSub, .any⟩,
  ⟨0xC701, 0xC701, 0x00, 0xFF, 1, 4, 1, 0, 9, 8, false, .laneSub, .any⟩,
  ⟨0xC702, 0xC702, 0x00, 0xFF, 1, 4, 1, 0, 9, 8, false, .laneSub, .any⟩,
  ⟨0xC703, 0xC703, 0x00, 0xFF, 1, 4, 1, 0, 9, 8, false, .laneSub, .any⟩,
  ⟨0xC704, 0xC704, 0x00, 0xFF, 1, 4, 1, 0, 9, 8, false, .laneSub, .any⟩,
  ⟨0xC710, 0xC710, 0x00, 0x3F, 1, 4, 1, 0, 9, 8, false, .linkSub, .any⟩,
  ⟨0xC711, 0xC711, 0x00, 0x3F, 1, 4, 1, 0, 9, 8, false, .linkSub, .any⟩,
  ⟨0xC712, 0xC712, 0x00, 0x3F, 1, 4, 1, 0, 9, 8, false, .linkSub, .any⟩,
  ⟨0xC713, 0xC713, 0x00, 0x3F, 1, 4, 1, 0, 9, 8, false, .linkSub, .any⟩,
  ⟨0xC714, 0xC714, 0x00, 0x00, 1, 4, 2, 0, 1, 8, false, .none, .any⟩,
  ⟨0x8000, 0x8000, 0x00, 0x00, 1, 1, 2, 0, 1, 1, false, .none, .any⟩,
  ⟨0x8000, 0x8000, 0x01, 0x01, 1, 8, 2, 0, 4, 1, false, .none, .rng 0 2⟩,
  ⟨0x8000, 0x8000, 0x02, 0x02, 1, 8, 2, 0, 1, 1, false, .none, .any⟩,
  ⟨0x8100, 0x8107, 0x00, 0x00, 1, 10, 2, 0, 0, 32, false, .none, .any⟩,
  ⟨0x8100, 0x8107, 0x01, 0x01, 1, 10, 2, 0, 5, 32, false, .none, .any⟩,
  ⟨0x8100, 0x8107, 0x02, 0x02, 1, 3, 2, 0, 2, 4, false, .none, .any⟩,
  ⟨0x8100, 0x8107, 0x03, 0x03, 1, 3, 2, 0, 1, 4, false, .none, .any⟩,
  ⟨0x8100, 0x8107, 0x04, 0x04, 1, 3, 2, 0, 1, 4, false, .none, .any⟩,
  ⟨0x8100, 0x8107, 0x05, 0x05, 1, 3, 2, 0, 1, 4, false, .none, .any⟩,
  ⟨0x8100, 0x8107, 0x06, 0x06, 1, 3, 2, 0, 1, 4, false, .none, .any⟩,
  ⟨0x8100, 0x8107, 0x07, 0x07, 1, 3, 2, 0, 1, 4, false, .none, .any⟩]

def objRows8 : List ObjRow := [
  ⟨0x8100, 0x8107, 0x08, 0x08, 1, 2, 2, 0, 1, 2, false, .none, .any⟩,
  ⟨0x8200, 0x8200, 0x00, 0x00, 1, 3, 2, 0, 2, 4, false, .none, .any⟩,
  ⟨0x8200, 0x8200, 0x01, 0x01, 1, 1, 2, 0, 1, 1, false, .none, .any⟩,
  ⟨0x8300, 0x8300, 0x00, 0x0F, 1, 8, 0, 0, 1, 1, false, .none, .any⟩,
  ⟨0x8301, 0x8301, 0x00, 0x00, 1, 2, 2, 0, 0, 2, false, .none, .any⟩,
  ⟨0x8400, 0x8400, 0x00, 0x00, 1, 0, 2, 1, 0, 1, false, .none, .any⟩,
  ⟨0x8400, 0x8400, 0x01, 0x01, 1, 8, 2, 0, 0, 1, false, .none, .rng 0 1⟩,
  ⟨0x8400, 0x8400, 0x02, 0x02, 1, 1, 2, 8, 0, 1, false, .none, .rng 2 32⟩,
  ⟨0x8400, 0x8400, 0x03, 0x03, 1, 1, 2, 0, 2, 1, false, .none, .any⟩,
  ⟨0x8400, 0x8400, 0x04, 0x04, 1, 1, 3, 0, 4, 1, false, .none, .any⟩,
  ⟨0x8401, 0x8401, 0x00, 0x01, 1, 8, 0, 0, 1, 1, false, .none, .any⟩,
  ⟨0x8402, 0x8402, 0x00, 0x01, 1, 1, 0, 255, 1, 1, false, .none, .any⟩,
  ⟨0x8500, 0x8509, 0x00, 0x0F, 1, 8, 2, 0, 1, 1, false, .none, .any⟩,
  ⟨0x8500, 0x8509, 0x10, 0x11, 1, 1, 2, 255, 1, 1, false, .none, .any⟩,
  ⟨0x8600, 0x8609, 0x00, 0x0F, 1, 6, 2, 0, 1, 4, false, .none, .any⟩,
  ⟨0x8700, 0x8700, 0x00, 0x00, 1, 6, 2, 3212836864, 0, 4, false, .none, .frng (-20) (-5) 10⟩,
  ⟨0x8700, 0x8700, 0x01, 0x01, 1, 6, 2, 3221225472, 0, 4, false, .none, .frng (-3) (-1) 1⟩,
  ⟨0x8700, 0x8700, 0x02, 0x02, 1, 6, 2, 3225419776, 0, 4, false, .none, .frng (-6) (-2) 1⟩,
  ⟨0x8700, 0x8700, 0x03, 0x03, 1, 2, 2, 64, 0, 2, false, .none, .rng 1 4096⟩,
  ⟨0x8800, 0x8800, 0x00, 0x00, 1, 3, 2, 0, 2, 4, false, .none, .any⟩,
  ⟨0xC800, 0xC800, 0x00, 0x00, 1, 4, 2, 0, 1, 8, false, .none, .any⟩,
  ⟨0xC800, 0xC800, 0x01, 0x01, 1, 4, 2, 0, 1, 8, false, .none, .any⟩,
  ⟨0xC800, 0xC800, 0x02, 0x02, 1, 4, 2, 0, 1, 8, false, .none, .any⟩,
  ⟨0xC800, 0xC800, 0x03, 0x03, 1, 4, 2, 0, 1, 8, false, .none, .any⟩]

def objRows9 : List ObjRow := [
  ⟨0xC800, 0xC800, 0x04, 0x04, 1, 4, 2, 0, 1, 8, false, .none, .any⟩,
  ⟨0xC801, 0xC801, 0x00, 0x1F, 1, 4, 2, 0, 1, 8, false, .none, .any⟩,
  ⟨0x9000, 0x9000, 0x00, 0x0A, 1, 8, 2, 0, 1, 1, false, .none, .any⟩,
  ⟨0x9001, 0x9001, 0x00, 0x0A, 1, 1, 2, 0, 1, 1, false, .none, .any⟩,
  ⟨0x9002, 0x9002, 0x00, 0x0A, 1, 2, 2, 0, 1, 2, false, .none, .any⟩,
  ⟨0x9003, 0x9003, 0x00, 0x0A, 1, 1, 2, 255, 0, 1, false, .none, .rngOr 0 7 255⟩,
  ⟨0x9004, 0x9004, 0x00, 0x0A, 1, 3, 2, 0, 1, 4, false, .none, .any⟩,
  ⟨0x9005, 0x9005, 0x00, 0x00, 1, 1, 2, 4, 0, 1, false, .none, .rng 1 16⟩,
  ⟨0x9005, 0x9005, 0x01, 0x01, 1, 3, 2, 1000, 0, 4, false, .none, .rng 0 100000⟩,
  ⟨0x9005, 0x9005, 0x02, 0x02, 1, 6, 2, 1036831949, 0, 4, false, .none, .frng 5 30 100⟩,
  ⟨0x9005, 0x9005, 0x03, 0x03, 1, 2, 2, 1024, 0, 2, false, .none, .rng 128 8192⟩,
  ⟨0x9006, 0x9006, 0x00, 0x00, 1, 1, 2, 0, 2, 1, false, .none, .any⟩,
  ⟨0x9007, 0x9007, 0x00, 0x00, 1, 1, 2, 0, 1, 1, false, .none, .any⟩,
  ⟨0x9100, 0x910A, 0x00, 0x01, 1, 10, 2, 0, 0, 32, false, .none, .any⟩,
  ⟨0x9110, 0x911A, 0x00, 0x01, 1, 10, 2, 0, 0, 16, false, .none, .any⟩,
  ⟨0x9120, 0x912A, 0x00, 0x01, 1, 10, 2, 0, 1, 262144, false, .none, .any⟩,
  ⟨0x9130, 0x913A, 0x00, 0x01, 1, 8, 2, 0, 1, 1, false, .none, .any⟩,
  ⟨0x9200, 0x92AF, 0x00, 0xF8, 8, 8, 2, 0, 0, 1, false, .none, .rng 0 3⟩,
  ⟨0x9200, 0x92AF, 0x01, 0xF9, 8, 1, 2, 0, 0, 1, false, .none, .rng 0 2⟩,
  ⟨0x9200, 0x92AF, 0x02, 0xFA, 8, 10, 2, 0, 0, 80, false, .none, .any⟩,
  ⟨0x9200, 0x92AF, 0x03, 0xFB, 8, 6, 2, 0, 0, 4, false, .none, .any⟩,
  ⟨0x9200, 0x92AF, 0x04, 0xFC, 8, 3, 2, 0, 1, 4, false, .none, .any⟩,
  ⟨0x9200, 0x92AF, 0x05, 0xFD, 8, 3, 2, 0, 1, 4, false, .none, .any⟩,
  ⟨0x9200, 0x92AF, 0x06, 0xFE, 8, 6, 2, 0, 0, 4, false, .none, .any⟩]

def objRows10 : List ObjRow := [
  ⟨0x9200, 0x92AF, 0x07, 0xFF, 8, 6, 2, 0, 1, 4, false, .none, .any⟩,
  ⟨0xC900, 0xC900, 0x00, 0x0A, 1, 4, 2, 0, 1, 8, false, .none, .any⟩,
  ⟨0xC901, 0xC901, 0x00, 0x0A, 1, 4, 2, 0, 1, 8, false, .none, .any⟩,
  ⟨0xC902, 0xC902, 0x00, 0x0A, 1, 4, 2, 0, 1, 8, false, .none, .any⟩,
  ⟨0xC903, 0xC903, 0x00, 0x0A, 1, 4, 2, 0, 1, 8, false, .none, .any⟩,
  ⟨0xC904, 0xC904, 0x00, 0x0A, 1, 4, 2, 0, 1, 8, false, .none, .any⟩,
  ⟨0xC905, 0xC905, 0x00, 0x0A, 1, 4, 2, 0, 1, 8, false, .none, .any⟩,
  ⟨0xC906, 0xC906, 0x00, 0x0A, 1, 4, 2, 0, 1, 8, false, .none, .any⟩,
  ⟨0xE000, 0xE000, 0x00, 0x00, 1, 6, 2, 1090519040, 0, 4, false, .none, .frng 2 32 1⟩,
  ⟨0xE000, 0xE000, 0x01, 0x01, 1, 2, 2, 8, 0, 2, false, .none, .rng 4 1024⟩,
  ⟨0xE000, 0xE000, 0x02, 0x02, 1, 2, 2, 64, 0, 2, false, .none, .rng 16 8192⟩,
  ⟨0xE000, 0xE000, 0x03, 0x03, 1, 1, 2, 16, 0, 1, false, .none, .rng 1 64⟩,
  ⟨0xE000, 0xE000, 0x04, 0x04, 1, 4, 2, 288230376151711743, 0, 8, false, .none, .rng 0 0x03FFFFFFFFFFFFFF⟩,
  ⟨0xE000, 0xE000, 0x05, 0x05, 1, 4, 2, 0, 2, 8, false, .none, .any⟩,
  ⟨0xE001, 0xE001, 0x00, 0x39, 1, 8, 2, 0, 1, 1, false, .none, .any⟩,
  ⟨0xE002, 0xE002, 0x00, 0x39, 1, 6, 2, 0, 1, 4, false, .none, .any⟩,
  ⟨0xE003, 0xE003, 0x00, 0x39, 1, 6, 2, 0, 1, 4, false, .none, .any⟩,
  ⟨0xE004, 0xE004, 0x00, 0x39, 1, 6, 2, 0, 1, 4, false, .none, .any⟩,
  ⟨0xE005, 0xE005, 0x00, 0x39, 1, 6, 2, 0, 1, 4, false, .none, .any⟩,
  ⟨0xE006, 0xE006, 0x00, 0x39, 1, 2, 2, 0, 1, 2, false, .none, .any⟩,
  ⟨0xE007, 0xE007, 0x00, 0x39, 1, 8, 2, 0, 1, 1, false, .none, .any⟩,
  ⟨0xE008, 0xE008, 0x00, 0x39, 1, 4, 2, 0, 1, 8, false, .none, .any⟩,
  ⟨0xE010, 0xE010, 0x00, 0x00, 1, 6, 2, 1050253722, 0, 4, false, .none, .frng 5 80 100⟩,
  ⟨0xE010, 0xE010, 0x01, 0x01, 1, 6, 2, 1050253722, 0, 4, false, .none, .frng 5 80 100⟩]

def objRows11 : List ObjRow := [
  ⟨0xE010, 0xE010, 0x02, 0x02, 1, 6, 2, 1048576000, 0, 4, false, .none, .frng 5 80 100⟩,
  ⟨0xE010, 0xE010, 0x03, 0x03, 1, 6, 2, 1048576000, 0, 4, false, .none, .frng 5 80 100⟩,
  ⟨0xE010, 0xE010, 0x04, 0x04, 1, 6, 2, 1051931443, 0, 4, false, .none, .frng 5 80 100⟩,
  ⟨0xE010, 0xE010, 0x05, 0x05, 1, 6, 2, 1053609165, 0, 4, false, .none, .frng 5 80 100⟩,
  ⟨0xE011, 0xE011, 0x00, 0x00, 1, 6, 2, 1109393408, 0, 4, false, .none, .frng 5 200 1⟩,
  ⟨0xE011, 0xE011, 0x01, 0x01, 1, 6, 2, 1109393408, 0, 4, false, .none, .frng 5 200 1⟩,
  ⟨0xE011, 0xE011, 0x02, 0x02, 1, 6, 2, 1097859072, 0, 4, false, .none, .frng 5 200 1⟩,
  ⟨0xE011, 0xE011, 0x03, 0x03, 1, 6, 2, 1097859072, 0, 4, false, .none, .frng 5 200 1⟩,
  ⟨0xE011, 0xE011, 0x04, 0x04, 1, 6, 2, 1114636288, 0, 4, false, .none, .frng 5 200 1⟩,
  ⟨0xE011, 0xE011, 0x05, 0x05, 1, 6, 2, 1112014848, 0, 4, false, .none, .frng 5 200 1⟩,
  ⟨0xE012, 0xE012, 0x00, 0x00, 1, 6, 2, 730643660, 0, 4, false, .none, .frng 1 200000000000 1000000000000000⟩,
  ⟨0xE012, 0xE012, 0x01, 0x01, 1, 6, 2, 730643660, 0, 4, false, .none, .frng 1 200000000000 1000000000000000⟩,
  ⟨0xE012, 0xE012, 0x02, 0x02, 1, 6, 2, 925353388, 0, 4, false, .none, .frng 1 200000000000 1000000000000000⟩,
  ⟨0xE012, 0xE012, 0x03, 0x03, 1, 6, 2, 925353388, 0, 4, false, .none, .frng 1 200000000000 1000000000000000⟩,
  ⟨0xE012, 0xE012, 0x04, 0x04, 1, 6, 2, 814313567, 0, 4, false, .none, .frng 1 200000000000 1000000000000000⟩,
  ⟨0xE012, 0xE012, 0x05, 0x05, 1, 6, 2, 814313567, 0, 4, false, .none, .frng 1 200000000000 1000000000000000⟩,
  ⟨0xCE00, 0xCE00, 0x00, 0x39, 1, 4, 2, 0, 1, 8, false, .none, .any⟩,
  ⟨0xCE01, 0xCE01, 0x00, 0x39, 1, 4, 2, 0, 1, 8, false, .none, .any⟩,
  ⟨0xCE02, 0xCE02, 0x00, 0x39, 1, 4, 2, 0, 1, 8, false, .none, .any⟩,
  ⟨0xCE03, 0xCE03, 0x00, 0x39, 1, 4, 2, 0, 1, 8, false, .none, .any⟩,
  ⟨0x1000, 0x1000, 0x00, 0x00, 1, 3, 0, 0, 17, 4, false, .none, .any⟩,
  ⟨0x1000, 0x1000, 0x01, 0x01, 1, 3, 0, 0, 17, 4, false, .none, .any⟩,
  ⟨0x1000, 0x1000, 0x02, 0x02, 1, 3, 0, 0, 5, 4, false, .none, .any⟩,
  ⟨0x1001, 0x1001, 0x00, 0x00, 1, 3, 2, 30, 0, 4, false, .none, .rng 5 3600⟩]

def objRows12 : List ObjRow := [
  ⟨0x1001, 0x1001, 0x01, 0x01, 1, 3, 2, 1000, 0, 4, false, .none, .rng 100 100000⟩,
  ⟨0x1001, 0x1001, 0x02, 0x02, 1, 1, 2, 3, 0, 1, false, .none, .rng 0 8⟩,
  ⟨0x1001, 0x1001, 0x03, 0x03, 1, 3, 2, 10000, 0, 4, false, .none, .rng 100 100000⟩,
  ⟨0x1002, 0x1002, 0x00, 0x3F, 1, 4, 2, 0, 1, 8, false, .none, .any⟩,
  ⟨0xF000, 0xF000, 0x00, 0x07, 1, 8, 0, 0, 1, 1, false, .none, .any⟩,
  ⟨0xF001, 0xF001, 0x00, 0x07, 1, 8, 2, 0, 0, 1, false, .none, .rng 0 2⟩,
  ⟨0xF002, 0xF002, 0x00, 0x07, 1, 10, 0, 0, 1, 8, false, .none, .any⟩,
  ⟨0xF010, 0xF04F, 0x00, 0x00, 1, 2, 2, 0, 0, 2, false, .none, .rng 0 4094⟩,
  ⟨0xF010, 0xF04F, 0x01, 0x01, 1, 3, 2, 0, 0, 4, false, .none, .rngOr 100 100000 0⟩,
  ⟨0xF100, 0xF11F, 0x00, 0xFF, 1, 10, 1, 0, 8, 64, false, .qp, .any⟩,
  ⟨0xF200, 0xF200, 0x00, 0xFF, 1, 10, 1, 0, 8, 20, false, .none, .any⟩,
  ⟨0xF201, 0xF201, 0x00, 0x00, 1, 3, 1, 200, 8, 4, false, .none, .rng 10 10000⟩,
  ⟨0xF202, 0xF202, 0x00, 0x00, 1, 3, 2, 5000, 0, 4, false, .none, .rng 100 50000⟩,
  ⟨0xF202, 0xF202, 0x01, 0x01, 1, 3, 2, 50000, 0, 4, false, .none, .rng 1000 100000⟩,
  ⟨0xF202, 0xF202, 0x02, 0x02, 1, 3, 2, 100, 0, 4, false, .none, .rng 10 10000⟩,
  ⟨0xF203, 0xF203, 0x00, 0x00, 1, 3, 1, 10000, 8, 4, false, .none, .rng 0 1000000⟩,
  ⟨0xF203, 0xF203, 0x01, 0x01, 1, 3, 1, 1000, 8, 4, false, .none, .rng 1 10000⟩,
  ⟨0xC100, 0xC100, 0x00, 0x00, 1, 4, 2, 0, 1, 8, false, .none, .any⟩,
  ⟨0xC100, 0xC100, 0x01, 0x01, 1, 4, 2, 0, 1, 8, false, .none, .any⟩,
  ⟨0xC100, 0xC100, 0x02, 0x02, 1, 4, 2, 0, 1, 8, false, .none, .any⟩,
  ⟨0xC100, 0xC100, 0x03, 0x03, 1, 4, 2, 0, 1, 8, false, .none, .any⟩,
  ⟨0xC100, 0xC100, 0x04, 0x04, 1, 4, 2, 0, 1, 8, false, .none, .any⟩,
  ⟨0xCF00, 0xCF00, 0x00, 0x07, 1, 4, 2, 0, 1, 8, false, .none, .any⟩,
  ⟨0xCF01, 0xCF01, 0x00, 0x00, 1, 4, 2, 0, 1, 8, false, .none, .any⟩]

def objRows13 : List ObjRow := [
  ⟨0xCF10, 0xCF10, 0x00, 0x00, 1, 4, 1, 0, 9, 8, false, .none, .any⟩,
  ⟨0xCF10, 0xCF10, 0x01, 0x01, 1, 4, 1, 0, 9, 8, false, .none, .any⟩,
  ⟨0xCF10, 0xCF10, 0x02, 0x02, 1, 4, 1, 0, 9, 8, false, .none, .any⟩,
  ⟨0xCF10, 0xCF10, 0x03, 0x03, 1, 4, 1, 0, 9, 8, false, .none, .any⟩,
  ⟨0xCF10, 0xCF10, 0x04, 0x04, 1, 4, 1, 0, 9, 8, false, .none, .any⟩,
  ⟨0xCF10, 0xCF10, 0x05, 0x05, 1, 4, 1, 0, 9, 8, false, .none, .any⟩,
  ⟨0x0000, 0x0000, 0x00, 0x00, 1, 4, 0, 0, 1, 8, false, .none, .any⟩,
  ⟨0x0000, 0x0000, 0x01, 0x01, 1, 9, 0, 0, 1, 32, true, .none, .any⟩,
  ⟨0x0000, 0x0000, 0x02, 0x02, 1, 2, 0, 0, 1, 2, false, .none, .any⟩,
  ⟨0x0001, 0x0001, 0x00, 0x00, 1, 3, 0, 0, 1, 4, false, .none, .any⟩,
  ⟨0x0002, 0x0002, 0x00, 0x00, 1, 1, 0, 0, 1, 1, false, .none, .any⟩,
  ⟨0x0002, 0x0002, 0x01, 0x01, 1, 1, 0, 0, 1, 1, false, .none, .any⟩,
  ⟨0x0002, 0x0002, 0x02, 0x02, 1, 1, 0, 0, 1, 1, false, .none, .any⟩,
  ⟨0x0003, 0x0003, 0x00, 0x00, 1, 10, 0, 0, 1, 57, false, .none, .any⟩,
  ⟨0x1100, 0x1100, 0x00, 0x00, 1, 1, 0, 1, 1, 1, false, .none, .any⟩,
  ⟨0x1100, 0x1100, 0x01, 0x01, 1, 3, 2, 5000, 0, 4, false, .none, .rng 1000 60000⟩,
  ⟨0x1100, 0x1100, 0x02, 0x02, 1, 3, 2, 8388608, 1, 4, false, .none, .any⟩,
  ⟨0x2100, 0x2100, 0x00, 0x00, 1, 9, 2, 0, 4, 64, true, .none, .any⟩,
  ⟨0x2101, 0x2101, 0x00, 0x00, 1, 3, 3, 0, 2, 4, false, .none, .any⟩,
  ⟨0x2101, 0x2101, 0x01, 0x01, 1, 0, 3, 0, 5, 1, false, .none, .any⟩,
  ⟨0xC110, 0xC110, 0x00, 0x00, 1, 4, 2, 0, 1, 8, false, .none, .any⟩,
  ⟨0xC110, 0xC110, 0x01, 0x01, 1, 4, 2, 0, 1, 8, false, .none, .any⟩,
  ⟨0xA000, 0xA000, 0x00, 0x00, 1, 4, 0, 0, 1, 8, false, .none, .any⟩,
  ⟨0xA000, 0xA000, 0x01, 0x01, 1, 7, 0, 0, 1, 8, false, .none, .any⟩]

def objRows14 : List ObjRow := [
  ⟨0xA000, 0xA000, 0x02, 0x02, 1, 8, 0, 0, 1, 1, false, .none, .any⟩,
  ⟨0xA000, 0xA000, 0x03, 0x03, 1, 4, 0, 0, 1, 8, false, .none, .any⟩,
  ⟨0xA000, 0xA000, 0x04, 0x04, 1, 8, 0, 0, 1, 1, false, .none, .any⟩,
  ⟨0xA000, 0xA000, 0x05, 0x05, 1, 0, 0, 0, 1, 1, false, .none, .any⟩,
  ⟨0xA001, 0xA001, 0x00, 0x00, 1, 8, 2, 0, 4, 1, false, .none, .rng 0 1⟩,
  ⟨0xA001, 0xA001, 0x01, 0x01, 1, 7, 2, 0, 2, 8, false, .none, .any⟩,
  ⟨0xA001, 0xA001, 0x02, 0x02, 1, 5, 2, 0, 0, 4, false, .none, .srng (-500000000) 500000000⟩,
  ⟨0xA002, 0xA002, 0x00, 0x00, 1, 1, 2, 0, 0, 1, false, .none, .rng 0 127⟩,
  ⟨0xA002, 0xA002, 0x01, 0x01, 1, 3, 2, 3000, 0, 4, false, .none, .rng 500 60000⟩,
  ⟨0xA002, 0xA002, 0x02, 0x02, 1, 3, 2, 100, 0, 4, false, .none, .rng 10 1000000⟩,
  ⟨0xA002, 0xA002, 0x03, 0x03, 1, 3, 2, 100000, 0, 4, false, .none, .rng 1000 500000⟩,
  ⟨0xA002, 0xA002, 0x04, 0x04, 1, 4, 2, 0, 1, 8, false, .none, .any⟩,
  ⟨0xA002, 0xA002, 0x05, 0x05, 1, 5, 2, 0, 1, 4, false, .none, .any⟩,
  ⟨0xCA00, 0xCA00, 0x00, 0x00, 1, 4, 2, 0, 1, 8, false, .none, .any⟩,
  ⟨0xCA00, 0xCA00, 0x01, 0x01, 1, 4, 2, 0, 1, 8, false, .none, .any⟩,
  ⟨0xCA00, 0xCA00, 0x02, 0x02, 1, 4, 2, 0, 1, 8, false, .none, .any⟩,
  ⟨0xCA00, 0xCA00, 0x03, 0x03, 1, 4, 2, 0, 1, 8, false, .none, .any⟩,
  ⟨0x3000, 0x3000, 0x00, 0x00, 1, 3, 2, 3600, 4, 4, false, .none, .rng 2000 3600⟩,
  ⟨0x3000, 0x3000, 0x01, 0x01, 1, 3, 2, 1200, 1, 4, false, .none, .any⟩,
  ⟨0x3000, 0x3000, 0x02, 0x02, 1, 3, 2, 2400, 1, 4, false, .none, .any⟩,
  ⟨0x3000, 0x3000, 0x03, 0x03, 1, 2, 2, 256, 1, 2, false, .none, .any⟩,
  ⟨0x3000, 0x3000, 0x04, 0x04, 1, 1, 2, 0, 1, 1, false, .none, .any⟩,
  ⟨0x3001, 0x3001, 0x00, 0x00, 1, 6, 2, 0, 1, 4, false, .none, .any⟩,
  ⟨0x3001, 0x3001, 0x01, 0x01, 1, 6, 2, 0, 1, 4, false, .none, .any⟩]

def objRows15 : List ObjRow := [
  ⟨0x3001, 0x3001, 0x02, 0x02, 1, 6, 2, 0, 1, 4, false, .none, .any⟩,
  ⟨0x3002, 0x3002, 0x00, 0x1D, 1, 6, 2, 0, 1, 4, false, .none, .any⟩,
  ⟨0x3003, 0x3003, 0x00, 0x1D, 1, 8, 2, 0, 1, 1, false, .none, .any⟩,
  ⟨0x3010, 0x3010, 0x00, 0x0F, 1, 1, 1, 10, 9, 1, false, .ridgeSub, .any⟩,
  ⟨0x3011, 0x3011, 0x00, 0x00, 1, 1, 1, 22, 8, 1, false, .none, .rng 10 22⟩,
  ⟨0x3011, 0x3011, 0x01, 0x01, 1, 6, 1, 0, 9, 4, false, .none, .any⟩,
  ⟨0x3011, 0x3011, 0x02, 0x02, 1, 3, 1, 0, 9, 4, false, .none, .any⟩,
  ⟨0x3020, 0x3020, 0x00, 0x0F, 1, 6, 1, 0, 9, 4, false, .ridgeSub, .any⟩,
  ⟨0x3021, 0x3021, 0x00, 0x00, 1, 6, 2, 0, 1, 4, false, .none, .any⟩,
  ⟨0x3021, 0x3021, 0x01, 0x01, 1, 6, 2, 0, 1, 4, false, .none, .any⟩,
  ⟨0x3021, 0x3021, 0x02, 0x02, 1, 6, 2, 1109393408, 0, 4, false, .none, .frng 20 45 1⟩,
  ⟨0xC310, 0xC310, 0x00, 0x0F, 1, 4, 1, 0, 9, 8, false, .ridgeSub, .any⟩,
  ⟨0xC311, 0xC311, 0x00, 0x0F, 1, 4, 1, 0, 9, 8, false, .ridgeSub, .any⟩,
  ⟨0xC312, 0xC312, 0x00, 0x1D, 1, 4, 2, 0, 1, 8, false, .none, .any⟩,
  ⟨0xC313, 0xC313, 0x00, 0x00, 1, 4, 2, 0, 1, 8, false, .none, .any⟩,
  ⟨0xC314, 0xC314, 0x00, 0x0F, 1, 4, 1, 0, 9, 8, false, .ridgeSub, .any⟩,
  ⟨0xD000, 0xD000, 0x00, 0x00, 1, 1, 2, 2, 0, 1, false, .none, .rng 1 8⟩,
  ⟨0xD001, 0xD001, 0x00, 0x12, 1, 4, 2, 0, 1, 8, false, .none, .any⟩,
  ⟨0xD010, 0xD010, 0x00, 0x00, 1, 8, 2, 0, 1, 1, false, .none, .any⟩,
  ⟨0xD010, 0xD010, 0x01, 0x01, 1, 3, 2, 0, 1, 4, false, .none, .any⟩,
  ⟨0xD010, 0xD010, 0x02, 0x02, 1, 4, 2, 0, 1, 8, false, .none, .any⟩,
  ⟨0xD020, 0xD020, 0x00, 0x00, 1, 3, 2, 0, 2, 4, false, .none, .any⟩,
  ⟨0xD020, 0xD020, 0x01, 0x01, 1, 1, 2, 3, 0, 1, false, .none, .rng 1 16⟩,
  ⟨0xD020, 0xD020, 0x02, 0x02, 1, 4, 2, 0, 1, 8, false, .none, .any⟩]

def objRows16 : List ObjRow := [
  ⟨0xD021, 0xD021, 0x00, 0x00, 1, 2, 1, 0, 10, 2, false, .none, .any⟩,
  ⟨0xD030, 0xD030, 0x00, 0x00, 1, 4, 1, 0, 8, 8, false, .none, .align 20 52⟩,
  ⟨0xD030, 0xD030, 0x01, 0x01, 1, 1, 1, 15, 8, 1, false, .none, .rng 0 15⟩,
  ⟨0xD030, 0xD030, 0x02, 0x02, 1, 3, 1, 0, 9, 4, false, .none, .any⟩,
  ⟨0xD031, 0xD031, 0x00, 0x00, 1, 3, 2, 10000, 0, 4, false, .none, .rng 1000 120000⟩,
  ⟨0xCD00, 0xCD00, 0x00, 0x05, 1, 4, 2, 0, 1, 8, false, .none, .any⟩,
  ⟨0xCD01, 0xCD01, 0x00, 0x03, 1, 4, 1, 0, 9, 8, false, .none, .any⟩,
  ⟨0xCD02, 0xCD02, 0x00, 0x12, 1, 4, 2, 0, 1, 8, false, .none, .any⟩,
  ⟨0xCD03, 0xCD03, 0x00, 0x00, 1, 4, 2, 0, 1, 8, false, .none, .any⟩,
  ⟨0xCD04, 0xCD04, 0x00, 0x00, 1, 4, 1, 0, 9, 8, false, .none, .any⟩,
  ⟨0xCD04, 0xCD04, 0x01, 0x01, 1, 4, 1, 0, 9, 8, false, .none, .any⟩,
  ⟨0xCD05, 0xCD05, 0x00, 0x00, 1, 4, 2, 0, 1, 8, false, .none, .any⟩,
  ⟨0xCD05, 0xCD05, 0x01, 0x01, 1, 4, 2, 0, 1, 8, false, .none, .any⟩,
  ⟨0xCD05, 0xCD05, 0x02, 0x02, 1, 4, 2, 0, 1, 8, false, .none, .any⟩,
  ⟨0xCD06, 0xCD06, 0x00, 0x00, 1, 4, 2, 0, 1, 8, false, .none, .any⟩,
  ⟨0xB000, 0xB000, 0x00, 0x00, 1, 8, 2, 0, 1, 1, false, .none, .any⟩,
  ⟨0xB000, 0xB000, 0x01, 0x01, 1, 0, 2, 0, 5, 1, false, .none, .any⟩,
  ⟨0xB000, 0xB000, 0x02, 0x02, 1, 3, 2, 0, 5, 4, false, .none, .any⟩,
  ⟨0xB000, 0xB000, 0x03, 0x03, 1, 3, 2, 0, 1, 4, false, .none, .any⟩,
  ⟨0xB000, 0xB000, 0x04, 0x04, 1, 3, 2, 0, 1, 4, false, .none, .any⟩,
  ⟨0xB000, 0xB000, 0x05, 0x05, 1, 2, 2, 0, 1, 2, false, .none, .any⟩,
  ⟨0xB000, 0xB000, 0x06, 0x06, 1, 2, 2, 64, 0, 2, false, .none, .rng 8 256⟩,
  ⟨0xB001, 0xB001, 0x00, 0x00, 1, 3, 1, 1, 16, 4, false, .none, .any⟩,
  ⟨0xB001, 0xB001, 0x01, 0x01, 1, 10, 1, 0, 17, 992, true, .none, .any⟩]

def objRows17 : List ObjRow := [
  ⟨0xB002, 0xB002, 0x00, 0x00, 1, 10, 2, 0, 2, 200, false, .none, .any⟩,
  ⟨0xB003, 0xB003, 0x00, 0x1F, 1, 10, 2, 0, 5, 32, false, .none, .any⟩,
  ⟨0xB100, 0xB100, 0x00, 0x0F, 1, 10, 2, 0, 1, 1048576, false, .none, .any⟩,
  ⟨0xCB00, 0xCB00, 0x00, 0x00, 1, 4, 2, 0, 1, 8, false, .none, .any⟩,
  ⟨0xCB00, 0xCB00, 0x01, 0x01, 1, 4, 2, 0, 1, 8, false, .none, .any⟩,
  ⟨0xCB00, 0xCB00, 0x02, 0x02, 1, 4, 2, 0, 1, 8, false, .none, .any⟩,
  ⟨0xCB01, 0xCB01, 0x00, 0x0F, 1, 4, 2, 0, 1, 8, false, .none, .any⟩,
  ⟨0xCC00, 0xCC00, 0x00, 0x00, 1, 4, 2, 0, 0, 8, false, .none, .rng 0 0xFFFFFFFFFFFF⟩,
  ⟨0xCC00, 0xCC00, 0x01, 0x01, 1, 8, 0, 0, 1, 1, false, .none, .any⟩,
  ⟨0xCC00, 0xCC00, 0x02, 0x02, 1, 4, 0, 0, 1, 8, false, .none, .any⟩,
  ⟨0xCC01, 0xCC01, 0x00, 0x00, 1, 1, 0, 0, 16, 1, false, .none, .rng 0 1⟩,
  ⟨0xCC10, 0xCC10, 0x00, 0x00, 1, 4, 1, 0, 9, 8, false, .none, .any⟩,
  ⟨0xCC10, 0xCC10, 0x01, 0x01, 1, 10, 1, 0, 9, 8192, false, .none, .any⟩,
  ⟨0xCC10, 0xCC10, 0x02, 0x02, 1, 10, 1, 0, 9, 8, false, .none, .any⟩,
  ⟨0xCC11, 0xCC11, 0x00, 0x00, 1, 10, 2, 0, 1, 8, false, .none, .any⟩,
  ⟨0xCC11, 0xCC11, 0x01, 0x01, 1, 10, 2, 0, 1, 8192, false, .none, .any⟩,
  ⟨0xCC11, 0xCC11, 0x02, 0x02, 1, 10, 2, 0, 1, 8, false, .none, .any⟩,
  ⟨0xCC12, 0xCC12, 0x00, 0x07, 1, 4, 1, 0, 9, 8, false, .none, .any⟩,
  ⟨0xCC13, 0xCC13, 0x00, 0x07, 1, 4, 2, 0, 1, 8, false, .none, .any⟩,
  ⟨0xCC20, 0xCC20, 0x00, 0x0F, 1, 4, 1, 0, 9, 8, false, .ridgeSub, .any⟩,
  ⟨0xCC21, 0xCC21, 0x00, 0x0F, 1, 4, 1, 0, 9, 8, false, .ridgeSub, .any⟩,
  ⟨0xCC22, 0xCC22, 0x00, 0x0F, 1, 4, 1, 0, 9, 8, false, .ridgeSub, .any⟩,
  ⟨0xCC23, 0xCC23, 0x00, 0x0F, 1, 4, 1, 0, 9, 8, false, .ridgeSub, .any⟩,
  ⟨0xCC24, 0xCC24, 0x00, 0x0F, 1, 4, 1, 0, 9, 8, false, .ridgeSub, .any⟩]

def objRows18 : List ObjRow := [
  ⟨0xCC25, 0xCC25, 0x00, 0x01, 1, 4, 2, 0, 1, 8, false, .none, .any⟩,
  ⟨0xCC30, 0xCC3F, 0x00, 0x07, 1, 10, 1, 0, 9, 48, false, .ridgeIdx, .any⟩,
  ⟨0xCC40, 0xCC40, 0x00, 0x00, 1, 1, 1, 0, 8, 1, false, .none, .rng 0 15⟩,
  ⟨0xCC40, 0xCC40, 0x01, 0x01, 1, 4, 1, 0, 8, 8, false, .none, .align 16 52⟩,
  ⟨0xCC40, 0xCC40, 0x02, 0x02, 1, 3, 1, 16777216, 8, 4, false, .none, .pow2 1048576 1073741824⟩,
  ⟨0xCC41, 0xCC41, 0x00, 0x0F, 1, 4, 1, 0, 9, 8, false, .ridgeSub, .any⟩,
  ⟨0xCC42, 0xCC42, 0x00, 0x0F, 1, 4, 1, 0, 8, 8, false, .ridgeSub, .any⟩,
  ⟨0xCC43, 0xCC43, 0x00, 0x00, 1, 4, 1, 0, 9, 8, false, .none, .any⟩,
  ⟨0xCC50, 0xCC50, 0x00, 0x00, 1, 4, 1, 0, 8, 8, false, .none, .align 16 52⟩,
  ⟨0xCC50, 0xCC50, 0x01, 0x01, 1, 3, 1, 67108864, 8, 4, false, .none, .pow2 1048576 2147483648⟩,
  ⟨0xCC50, 0xCC50, 0x02, 0x02, 1, 4, 1, 0, 9, 8, false, .none, .any⟩,
  ⟨0xCC50, 0xCC50, 0x03, 0x03, 1, 4, 1, 0, 8, 8, false, .none, .any⟩,
  ⟨0x6100, 0x6100, 0x00, 0x00, 1, 10, 0, 0, 1, 2048, true, .none, .any⟩,
  ⟨0x6101, 0x6101, 0x00, 0x01, 1, 8, 0, 0, 1, 1, false, .none, .any⟩,
  ⟨0x6102, 0x6102, 0x00, 0x03, 1, 10, 0, 0, 1, 64, false, .none, .any⟩,
  ⟨0x6103, 0x6103, 0x00, 0x03, 1, 8, 0, 0, 1, 1, false, .none, .any⟩,
  ⟨0x6104, 0x6104, 0x00, 0x00, 1, 10, 3, 0, 2, 72, false, .none, .any⟩,
  ⟨0x6104, 0x6104, 0x01, 0x01, 1, 1, 3, 0, 2, 1, false, .none, .any⟩,
  ⟨0x6105, 0x6105, 0x00, 0x00, 1, 1, 0, 0, 1, 1, false, .none, .any⟩,
  ⟨0x6105, 0x6105, 0x01, 0x01, 1, 1, 3, 0, 2, 1, false, .none, .any⟩,
  ⟨0x6106, 0x6106, 0x00, 0x00, 1, 8, 0, 0, 1, 1, false, .none, .any⟩,
  ⟨0x6106, 0x6106, 0x01, 0x01, 1, 8, 2, 0, 4, 1, false, .none, .rng 0 1⟩,
  ⟨0x6107, 0x6107, 0x00, 0x01, 1, 8, 0, 0, 1, 1, false, .none, .any⟩,
  ⟨0x6108, 0x6108, 0x00, 0x01, 1, 1, 0, 0, 1, 1, false, .none, .any⟩]

def objRows19 : List ObjRow := [
  ⟨0x6109, 0x6109, 0x00, 0x01, 1, 3, 0, 0, 1, 4, false, .none, .any⟩,
  ⟨0x6110, 0x6110, 0x00, 0x3F, 1, 10, 3, 0, 0, 1048576, false, .none, .any⟩,
  ⟨0x6111, 0x6111, 0x00, 0x00, 1, 1, 3, 0, 2, 1, false, .none, .any⟩,
  ⟨0x6120, 0x6120, 0x00, 0x07, 1, 10, 0, 0, 1, 64, false, .none, .any⟩,
  ⟨0x6130, 0x6130, 0x00, 0x00, 1, 10, 0, 0, 18, 40, false, .none, .any⟩,
  ⟨0x6130, 0x6130, 0x01, 0x01, 1, 10, 0, 0, 17, 778, false, .none, .any⟩,
  ⟨0x6140, 0x6147, 0x00, 0x03, 1, 10, 2, 0, 0, 57, false, .none, .any⟩,
  ⟨0xC600, 0xC600, 0x00, 0x00, 1, 4, 2, 0, 1, 8, false, .none, .any⟩,
  ⟨0xC600, 0xC600, 0x01, 0x01, 1, 4, 2, 0, 1, 8, false, .none, .any⟩,
  ⟨0xC600, 0xC600, 0x02, 0x02, 1, 4, 2, 0, 1, 8, false, .none, .any⟩,
  ⟨0x2200, 0x2200, 0x00, 0x00, 1, 1, 0, 0, 1, 1, false, .none, .any⟩,
  ⟨0x2200, 0x2200, 0x01, 0x01, 1, 3, 0, 0, 1, 4, false, .none, .any⟩,
  ⟨0x2200, 0x2200, 0x02, 0x02, 1, 8, 0, 0, 1, 1, false, .none, .any⟩,
  ⟨0x3022, 0x3022, 0x00, 0x0F, 1, 6, 2, 0, 1, 4, false, .none, .any⟩]

/-- Every object of the dictionary. -/
def objTable : List ObjRow :=
  objRows0 ++ objRows1 ++ objRows2 ++ objRows3 ++ objRows4 ++ objRows5 ++ objRows6 ++ objRows7 ++ objRows8 ++ objRows9 ++ objRows10 ++ objRows11 ++ objRows12 ++ objRows13 ++ objRows14 ++ objRows15 ++ objRows16 ++ objRows17 ++ objRows18 ++ objRows19

/-- Whether a row covers an index and subindex (R348). -/
def ObjRow.covers (r : ObjRow) (idx sub : Nat) : Bool :=
  decide (r.iLo ≤ idx) && decide (idx ≤ r.iHi) && decide (r.sLo ≤ sub) && decide (sub ≤ r.sHi)
    && decide ((sub - r.sLo) % r.sStep = 0)

/-- The row of an object, if it exists. -/
def objFind (idx sub : Nat) : Option ObjRow := objTable.find? (fun r => r.covers idx sub)

/-- The key of an object: index and subindex. -/
def okey (idx sub : Nat) : Nat := idx * 256 + sub

/-- The Default column of an object (R351); zero where the column gives no number. -/
def objDefault (key : Nat) : Nat :=
  match objFind (key / 256) (key % 256) with
  | some r => r.dflt
  | none => 0

/-- Bytes of a scalar type (Table 14.2). -/
def tyBytes (t : Nat) : Nat :=
  match t with
  | 0 => 1 | 1 => 1 | 2 => 2 | 3 => 4 | 4 => 8 | 5 => 4 | 6 => 4 | 7 => 8 | 8 => 1 | _ => 0

/-- Whether a type is a scalar: neither STR nor BLOB. -/
def tyScalar (t : Nat) : Bool := decide (t ≤ 8)

end Sys2Proof.Machine

/-! The keys of the objects, each under its own name; a row that covers several objects is named by its first. -/
namespace Sys2Proof.Machine.Obj

def EXT_GENERATION : Nat := 0x200000
def EXT_LAYOUT : Nat := 0x200001
def SPURS_PHYS_PER_RIDGE : Nat := 0x200100
def SPURS_PER_RIDGE_MAX : Nat := 0x200101
def RIDGES_PER_CREST : Nat := 0x200102
def CREST_DIES : Nat := 0x200103
def RIDGES_ACTIVE : Nat := 0x200104
def SPURS_ACTIVE : Nat := 0x200105
def BOARD_MODULES : Nat := 0x200106
def POD_BOARDS : Nat := 0x200107
def CLUSTER_PODS : Nat := 0x200108
def RIDGE_SPUR_MAP : Nat := 0x200200
def RIDGE_STATE : Nat := 0x200300
def NEAR_STACK_BYTES : Nat := 0x200400
def FAR_CHANNEL_BYTES : Nat := 0x200500
def ENGINE_STATE : Nat := 0x200600
def LANE_MASK : Nat := 0x200700
def ETH_PORT_MASK : Nat := 0x200800
def NUM_HEADROOM : Nat := 0x420000
def NUM_OUTLIER_EN : Nat := 0x420001
def NUM_ROUNDING : Nat := 0x420002
def SHADOW_EN : Nat := 0x420100
def SHADOW_INTERVAL : Nat := 0x420101
def SHADOW_THRESHOLD : Nat := 0x420102
def SHADOW_RUN : Nat := 0x420103
def SHADOW_POLICY : Nat := 0x420104
def SR_SEED : Nat := 0x420200
def CNT_NAN_INF_BLOCKS : Nat := 0xC20000
def CNT_MALFORMED : Nat := 0xC20001
def CNT_SATURATED : Nat := 0xC20002
def CNT_SHADOW_SAMPLES : Nat := 0xC20003
def CNT_SHADOW_EXCEEDED : Nat := 0xC20004
def CNT_SHADOW_UNCHECKED : Nat := 0xC20005
def CNT_PROMOTIONS : Nat := 0xC20006
def CNT_PROMO_OVERFLOW : Nat := 0xC20007
def CNT_MODULE_NUMERIC : Nat := 0xC20100
def QUEUE_PRIORITY : Nat := 0x431000
def SPARE_REMAP_EN : Nat := 0x440000
def SPUR_CE_LIMIT : Nat := 0x440001
def RIDGE_MIN_SPURS : Nat := 0x440002
def SPUR_FAILED_MASK : Nat := 0x440100
def SPUR_RETIRE_REQ : Nat := 0x440200
def CNT_SRAM_CORRECTED : Nat := 0xC30000
def CNT_SRAM_UNCORRECTABLE : Nat := 0xC30100
def CNT_ARRAY_STALL : Nat := 0xC30200
def CNT_SPUR_REMAPS : Nat := 0xC30300
def DOORBELL : Nat := 0x410000
def QRING_BASE : Nat := 0x411000
def QRING_ENTRIES : Nat := 0x411001
def CRING_BASE : Nat := 0x411002
def QCONTEXT : Nat := 0x411003
def QSTATE : Nat := 0x411004
def QCONSUMED : Nat := 0x411005
def QCONTROL : Nat := 0x411006
def QHALT_REASON : Nat := 0x411007
def COLLECTIVE_WAIT_LIMIT : Nat := 0x419000
def STEP_SOURCE : Nat := 0x419001
def PARTITION_STEP : Nat := 0x419002
def SIGNAL_VALUE : Nat := 0x41A000
def CNT_DUP_SEGMENTS : Nat := 0xC21000
def CNT_INDEX_RANGE : Nat := 0xC21001
def CNT_DOORBELL_IGNORED : Nat := 0xC21002
def CNT_WATCH_SKIPPED : Nat := 0xC21003
def CNT_STEP_STALE : Nat := 0xC21004
def CNT_RTS_RETRY : Nat := 0xC21005
def CNT_VEC_LONG_UNITS : Nat := 0xC21006
def REPLAY_LIMIT : Nat := 0x419100
def QUEUE_HOLD : Nat := 0x432000
def QUEUE_FRONTIER : Nat := 0x433000
def JOURNAL_COPY : Nat := 0x434000
def CNT_SPLIT_SLICES : Nat := 0xC21100
def CNT_SLICE_OVERRUN : Nat := 0xC21101
def CNT_REWINDS : Nat := 0xC21102
def CNT_REPLAYED_SLICES : Nat := 0xC21103
def CNT_FRAME_SLIPS : Nat := 0xC21104
def CNT_MMACC_ABORTS : Nat := 0xC21105
def CNT_NEAR_MISS : Nat := 0xC22000
def CNT_LATE : Nat := 0xC22100
def NEAR_STATE : Nat := 0x500000
def FAR_STATE : Nat := 0x500100
def FAR_SPEED : Nat := 0x500200
def FAR_SPEED_ACTIVE : Nat := 0x500201
def FAR_DIMM_INFO : Nat := 0x500300
def SCRUB_PERIOD_NEAR : Nat := 0x500400
def SCRUB_PERIOD_FAR : Nat := 0x500401
def CE_FRAME_LIMIT : Nat := 0x500402
def CE_SOURCE_LIMIT : Nat := 0x500403
def UE_EPOCH_LIMIT : Nat := 0x500404
def RETIRE_WARN : Nat := 0x500405
def NEAR_ERASURES : Nat := 0x501000
def FAR_ERASURES : Nat := 0x501100
def NEAR_RETIRED : Nat := 0x501200
def FAR_RETIRED : Nat := 0x501300
def RETIRED_LIST : Nat := 0x501400
def KEY_SLOT_STATE : Nat := 0x501500
def CNT_NEAR_CE : Nat := 0xC50000
def CNT_NEAR_UE : Nat := 0xC50100
def CNT_FAR_CE : Nat := 0xC50200
def CNT_FAR_UE : Nat := 0xC50300
def CNT_RETIRED_ACCESS : Nat := 0xC50400
def CNT_SCRUB_LATE : Nat := 0xC50500
def CNT_STACK_THERMAL : Nat := 0xC50600
def POOL64_BASE : Nat := 0x510000
def POOL64_ENTRIES : Nat := 0x510001
def POOL64_PRODUCER : Nat := 0x510002
def POOL64_CONSUMER : Nat := 0x510003
def POOL2M_BASE : Nat := 0x510004
def POOL2M_ENTRIES : Nat := 0x510005
def POOL2M_PRODUCER : Nat := 0x510006
def POOL2M_CONSUMER : Nat := 0x510007
def RMAP_BASE : Nat := 0x510008
def CTX_ROOT : Nat := 0x520000
def TLB_INVAL : Nat := 0x521000
def TLB_INVAL_DONE : Nat := 0x521001
def STEWARD_RING_BASE : Nat := 0x522000
def STEWARD_RING_ENTRIES : Nat := 0x522001
def STEWARD_RING_PRODUCER : Nat := 0x522002
def STEWARD_RING_CONSUMER : Nat := 0x522003
def FAULT_RESOLVE : Nat := 0x523000
def FAULT_HOST_LIMIT : Nat := 0x523001
def DMA_PROGRESS : Nat := 0x524000
def CNT_TLB_MISS : Nat := 0xC51000
def CNT_WALK_READS : Nat := 0xC51100
def CNT_FAULT_STEWARD : Nat := 0xC51200
def CNT_FAULT_HOST : Nat := 0xC51201
def CNT_FAULT_FATAL : Nat := 0xC51202
def CNT_MIGRATIONS : Nat := 0xC51203
def CNT_ZERO_ALLOCS : Nat := 0xC51204
def CNT_TILE_RESTARTS : Nat := 0xC51205
def CNT_POOL_BAD : Nat := 0xC51206
def CNT_STEWARD_REMAPS : Nat := 0xC51207
def CNT_PENDING_FULL : Nat := 0xC51300
def CNT_DMA_STORE_WAIT : Nat := 0xC51400
def WS_CONTROL : Nat := 0x600000
def WS_STATE : Nat := 0x600100
def WS_KEY_GEN : Nat := 0x600200
def WS_PENDING_QUOTA : Nat := 0x600300
def WS_REFUSE_REASON : Nat := 0x600400
def WS_SELF : Nat := 0x600500
def WS_SELF_RIDGES : Nat := 0x600600
def WS_RIDGES : Nat := 0x601000
def WS_VI_MASK : Nat := 0x601001
def WS_POWER_SHARE : Nat := 0x601002
def WS_APPLIED_RIDGES : Nat := 0x601003
def WS_ZERO_FILL_LEFT : Nat := 0x601004
def WS_LANES : Nat := 0x602000
def LINK_PART_TAG : Nat := 0x701000
def ROUTE_ENTRY : Nat := 0x710000
def LINK_STATE : Nat := 0x720000
def LINK_FIBRE : Nat := 0x720001
def LINK_PHYS_FIBRE : Nat := 0x720002
def LINK_PEER : Nat := 0x720003
def LINK_LANES : Nat := 0x720004
def LINK_PARTITION : Nat := 0x720005
def LINK_VERSION : Nat := 0x720006
def LINK_FEATURES : Nat := 0x720007
def LINK_QUAR_REASON : Nat := 0x720008
def LINK_FRAME_OFFSET : Nat := 0x720009
def LANE_STATE : Nat := 0x730000
def EXPECT_PEER : Nat := 0x740000
def EXPECT_FIBRE : Nat := 0x740100
def LINK_MAP_POLICY : Nat := 0x740200
def LINK_CONTROL : Nat := 0x740300
def LINK_VER_MIN : Nat := 0x740400
def LINK_VER_MAX : Nat := 0x740401
def LINK_REPLAY_TIMEOUT : Nat := 0x740402
def LINK_REPLAY_LIMIT : Nat := 0x740403
def LANE_BER_LIMIT : Nat := 0x740404
def LANE_DEGRADE_BER : Nat := 0x740405
def LANE_UNCORR_LIMIT : Nat := 0x740406
def LANE_RETRAIN_LIMIT : Nat := 0x740407
def CNT_FEC_CORRECTED : Nat := 0xC70000
def CNT_FEC_UNCORR : Nat := 0xC70100
def CNT_FLIT_CRC : Nat := 0xC70200
def CNT_LANE_DEGRADES : Nat := 0xC70300
def CNT_SWAP_WINDOWS : Nat := 0xC70400
def CNT_LINK_REPLAYS : Nat := 0xC71000
def CNT_REPLAY_STALL : Nat := 0xC71100
def CNT_CREDIT_STALL : Nat := 0xC71200
def CNT_LINK_RETRAINS : Nat := 0xC71300
def CNT_LINK_TABLE_FULL : Nat := 0xC71400
def LASER_SRC_STRAP : Nat := 0x800000
def LASER_SRC_OVERRIDE : Nat := 0x800001
def LASER_SRC_ACTIVE : Nat := 0x800002
def STEER_STAGED : Nat := 0x810000
def STEER_ACTIVE : Nat := 0x810001
def STEER_RATIO : Nat := 0x810002
def STEER_GEN : Nat := 0x810003
def STEER_READY : Nat := 0x810004
def STEER_AWAIT_LIGHT : Nat := 0x810005
def STEER_SETTLING : Nat := 0x810006
def STEER_FAILED : Nat := 0x810007
def STEER_TOKEN : Nat := 0x810008
def STEER_CONTROL : Nat := 0x820000
def STEER_REFUSE_REASON : Nat := 0x820001
def COL_STATE : Nat := 0x830000
def COL_FORCE_BYPASS : Nat := 0x830100
def NOTCH_EN : Nat := 0x840000
def ENGINE_FAIL_COL : Nat := 0x840001
def ENGINE_LANE_FAIL_LIMIT : Nat := 0x840002
def ENGINE_RETIRE_REQ : Nat := 0x840003
def ENGINE_FAIL_RECORD : Nat := 0x840004
def NOTCH_STATE : Nat := 0x840100
def NOTCH_TARGET : Nat := 0x840200
def LASER_STATE : Nat := 0x850000
def SPARE_STATE : Nat := 0x850010
def LASER_DROP : Nat := 0x860000
def LASER_WARN_DB : Nat := 0x870000
def LASER_SWAP_DB : Nat := 0x870001
def LASER_FAIL_DB : Nat := 0x870002
def SWAP_ACK_WAIT : Nat := 0x870003
def OCS_NOTICE : Nat := 0x880000
def CNT_RESTEERS : Nat := 0xC80000
def CNT_LASER_SWAPS : Nat := 0xC80001
def CNT_UNANNOUNCED_SWAPS : Nat := 0xC80002
def CNT_COL_MOVES : Nat := 0xC80003
def CNT_ENGINE_FALLBACKS : Nat := 0xC80004
def CNT_LIGHT_LOSS : Nat := 0xC80100
def CORE_STATE : Nat := 0x900000
def CORE_DECIMATION : Nat := 0x900100
def CORE_LOAD : Nat := 0x900200
def RC_STEP_REF : Nat := 0x900300
def RC_PERIOD : Nat := 0x900400
def HANDOVER_LIMIT : Nat := 0x900500
def HOLD_RESUME_LIMIT : Nat := 0x900501
def TONE_MIN_DEPTH : Nat := 0x900502
def DECIM_RELAX : Nat := 0x900503
def TRAVERSE_STORE : Nat := 0x900600
def TRAVERSE_REFUSE_REASON : Nat := 0x900700
def INJECT : Nat := 0x910000
def CAPTURE : Nat := 0x911000
def CAPTURE_DATA : Nat := 0x912000
def CAPTURE_STATE : Nat := 0x913000
def LOOP_MODE : Nat := 0x920000
def LOOP_CLASS : Nat := 0x920001
def LOOP_COEF : Nat := 0x920002
def LOOP_SETPOINT : Nat := 0x920003
def LOOP_STATUS : Nat := 0x920004
def LOOP_SCHED : Nat := 0x920005
def LOOP_OUTPUT : Nat := 0x920006
def LOOP_INPUT : Nat := 0x920007
def CNT_OVERRUNS : Nat := 0xC90000
def CNT_HANDOVER_ABORTS : Nat := 0xC90100
def CNT_MISLOCKS : Nat := 0xC90200
def CNT_LOOP_HOLDS : Nat := 0xC90300
def CNT_DECIMATIONS : Nat := 0xC90400
def CNT_COEF_REFUSED : Nat := 0xC90500
def CNT_RC_OUTLIERS : Nat := 0xC90600
def CAL_TEMP_DELTA : Nat := 0xE00000
def CAL_MEASURE_FRAMES : Nat := 0xE00001
def CAL_NODATA_FRAMES : Nat := 0xE00002
def CAL_MAX_STEPS : Nat := 0xE00003
def CAL_ENABLE : Nat := 0xE00004
def CAL_REQUEST : Nat := 0xE00005
def CAL_STATE : Nat := 0xE00100
def CAL_LAST_TEMP : Nat := 0xE00200
def CAL_EYE_WIDTH : Nat := 0xE00300
def CAL_EYE_HEIGHT : Nat := 0xE00400
def CAL_RESIDUAL : Nat := 0xE00500
def CAL_WORST_LANE : Nat := 0xE00600
def CAL_LAST_RESULT : Nat := 0xE00700
def CAL_LAST_FRAME : Nat := 0xE00800
def CAL_MIN_EYE_WIDTH : Nat := 0xE01000
def CAL_MIN_EYE_HEIGHT : Nat := 0xE01100
def CAL_MAX_RESIDUAL : Nat := 0xE01200
def CNT_CAL_RUNS : Nat := 0xCE0000
def CNT_CAL_REJECTED : Nat := 0xCE0100
def CNT_CAL_ROLLBACKS : Nat := 0xCE0200
def CNT_CAL_STEPS : Nat := 0xCE0300
def VCT_LAST_REQ : Nat := 0x100000
def VCT_EVENT_HEAD : Nat := 0x100001
def VCT_BOOT_COUNT : Nat := 0x100002
def VCT_IDLE_LIMIT : Nat := 0x100100
def VCT_REPLY_TIMEOUT : Nat := 0x100101
def VCT_EVENT_RETRIES : Nat := 0x100102
def VCT_SESSION_RATE : Nat := 0x100103
def VCT_SESSION_INFO : Nat := 0x100200
def ETH_LINK_STATE : Nat := 0xF00000
def ETH_MEDIA : Nat := 0xF00100
def ETH_PREFIX : Nat := 0xF00200
def VI_VLAN : Nat := 0xF01000
def VI_TX_LIMIT : Nat := 0xF01001
def QP_CONFIG : Nat := 0xF10000
def MR_ENTRY : Nat := 0xF20000
def ROCE_FAULT_WAIT : Nat := 0xF20100
def ECN_RATE_AI : Nat := 0xF20200
def ECN_RATE_HAI : Nat := 0xF20201
def ECN_RATE_MIN : Nat := 0xF20202
def LAUNCH_LATE_LIMIT : Nat := 0xF20300
def LAUNCH_MAX_LEAD : Nat := 0xF20301
def CNT_VCT_BAD_TAG : Nat := 0xC10000
def CNT_VCT_DUP : Nat := 0xC10001
def CNT_VCT_BUSY : Nat := 0xC10002
def CNT_VCT_EVENT_UNACKED : Nat := 0xC10003
def CNT_VCT_MALFORMED : Nat := 0xC10004
def CNT_ETH_LINK_DOWN : Nat := 0xCF0000
def CNT_PAUSE_IGNORED : Nat := 0xCF0100
def CNT_CNP_RECEIVED : Nat := 0xCF1000
def CNT_CNP_SENT : Nat := 0xCF1001
def CNT_ROCE_FAULTS : Nat := 0xCF1002
def CNT_LAUNCH_LATE : Nat := 0xCF1003
def CNT_LAUNCH_DROPPED : Nat := 0xCF1004
def CNT_ROCE_RETRANSMIT : Nat := 0xCF1005
def DEVICE_SERIAL : Nat := 0x000000
def PART_NUMBER : Nat := 0x000001
def HW_STEPPING : Nat := 0x000002
def FW_VERSION : Nat := 0x000100
def BOARD_ID : Nat := 0x000200
def SLOT_ID : Nat := 0x000201
def BOOT_SRC : Nat := 0x000202
def DEVICE_ID_PUBKEY : Nat := 0x000300
def DICT_LAYOUT : Nat := 0x110000
def DICT_BLOCK_IDLE : Nat := 0x110001
def DICT_BLOCK_POOL_FREE : Nat := 0x110002
def CFG_LABEL : Nat := 0x210000
def CFG_FACTORY_RESET : Nat := 0x210100
def CFG_FACTORY_ARMED : Nat := 0x210101
def CNT_DICT_REFUSED : Nat := 0xC11000
def CNT_BLOCK_DISCARDED : Nat := 0xC11001
def TIME_RAW : Nat := 0xA00000
def TIME_NOW : Nat := 0xA00001
def TIME_STATE : Nat := 0xA00002
def FRAME_NOW : Nat := 0xA00003
def FSYNC_STATE : Nat := 0xA00004
def EPOCH_FIXED : Nat := 0xA00005
def TIME_SOURCE : Nat := 0xA00100
def TIME_SET : Nat := 0xA00101
def TIME_RATE : Nat := 0xA00102
def PTP_DOMAIN : Nat := 0xA00200
def TIME_MASTER_TIMEOUT : Nat := 0xA00201
def TIME_STEP_THRESHOLD : Nat := 0xA00202
def TIME_SLEW_MAX : Nat := 0xA00203
def TIME_MASTER_ID : Nat := 0xA00204
def TIME_OFFSET_EST : Nat := 0xA00205
def CNT_TIME_STEPS : Nat := 0xCA0000
def CNT_MASTER_CHANGES : Nat := 0xCA0001
def CNT_FSYNC_MISPLACED : Nat := 0xCA0002
def CNT_FSYNC_MISSING : Nat := 0xCA0003
def POWER_LIMIT : Nat := 0x300000
def POWER_RESERVE : Nat := 0x300001
def COMPUTE_BUDGET : Nat := 0x300002
def CUT_FACTOR : Nat := 0x300003
def CUT_CAUSE : Nat := 0x300004
def INPUT_VOLTAGE : Nat := 0x300100
def INPUT_CURRENT : Nat := 0x300101
def INPUT_POWER : Nat := 0x300102
def DOMAIN_POWER : Nat := 0x300200
def DOMAIN_STATE : Nat := 0x300300
def RIDGE_POINT : Nat := 0x301000
def CLOCK_MAX : Nat := 0x301100
def PARTITION_POWER : Nat := 0x301101
def SHARE_EFFECTIVE : Nat := 0x301102
def RIDGE_TEMP : Nat := 0x302000
def COOLANT_INLET_TEMP : Nat := 0x302100
def COOLANT_OUTLET_TEMP : Nat := 0x302101
def COOLANT_INLET_MAX : Nat := 0x302102
def CNT_STRETCH : Nat := 0xC31000
def CNT_STRETCH_CYCLES : Nat := 0xC31100
def CNT_DOMAIN_SAG : Nat := 0xC31200
def CNT_CUT_FRAMES : Nat := 0xC31300
def CNT_THERMAL_THROTTLE : Nat := 0xC31400
def HB_MISS_LIMIT : Nat := 0xD00000
def HB_LAST : Nat := 0xD00100
def LEASE_HOLDER : Nat := 0xD01000
def LEASE_TERM : Nat := 0xD01001
def LEASE_FRAME : Nat := 0xD01002
def RESET_REQUEST : Nat := 0xD02000
def RESET_REPEAT_LIMIT : Nat := 0xD02001
def RESET_LAST : Nat := 0xD02002
def TENANT_RESET_REQUEST : Nat := 0xD02100
def SCREE_BASE : Nat := 0xD03000
def SCREE_LEVELS : Nat := 0xD03001
def SCREE_SEQ : Nat := 0xD03002
def L6_TRAY_WAIT : Nat := 0xD03100
def CNT_RESETS : Nat := 0xCD0000
def CNT_PART_RESETS : Nat := 0xCD0100
def CNT_HB_MISSED : Nat := 0xCD0200
def CNT_ESCALATIONS : Nat := 0xCD0300
def CNT_SCREE_UNREACHABLE : Nat := 0xCD0400
def CNT_SCREE_SKIPPED : Nat := 0xCD0401
def CNT_LEASE_CHANGES : Nat := 0xCD0500
def CNT_LEASE_REFUSED : Nat := 0xCD0501
def CNT_STALE_ORDERS : Nat := 0xCD0502
def CNT_L6_REPEATS : Nat := 0xCD0600
def CAIRN_STATE : Nat := 0xB00000
def CAIRN_FAILED : Nat := 0xB00001
def CAIRN_LOG_GEN : Nat := 0xB00002
def CAIRN_HEAD_SEQ : Nat := 0xB00003
def CAIRN_USED : Nat := 0xB00004
def CAIRN_BAD_PAGES : Nat := 0xB00005
def CAIRN_BAD_PAGE_LIMIT : Nat := 0xB00006
def CAIRN_CURSOR : Nat := 0xB00100
def CAIRN_READ : Nat := 0xB00101
def CAIRN_CLEAR : Nat := 0xB00200
def CAIRN_STUB : Nat := 0xB00300
def CAIRN_LOG : Nat := 0xB10000
def CNT_CAIRN_LOST : Nat := 0xCB0000
def CNT_CAIRN_DROPPED : Nat := 0xCB0001
def CNT_STUB_OVERFLOW : Nat := 0xCB0002
def CNT_CAIRN_UNRECORDED : Nat := 0xCB0100
def FREEZE_AT : Nat := 0xCC0000
def FREEZE_STATE : Nat := 0xCC0001
def FREEZE_TAKEN : Nat := 0xCC0002
def COUNTER_VIEW : Nat := 0xCC0100
def BN_LAST : Nat := 0xCC1000
def BN_HISTORY : Nat := 0xCC1001
def BN_UTIL : Nat := 0xCC1002
def BN_MODULE : Nat := 0xCC1100
def CNT_BN_FRAMES : Nat := 0xCC1200
def CNT_BN_FRAMES_MODULE : Nat := 0xCC1300
def CNT_ARRAY_BUSY : Nat := 0xCC2000
def CNT_VECTOR_BUSY : Nat := 0xCC2100
def CNT_SPAD_BYTES : Nat := 0xCC2200
def CNT_NET_BYTES_IN : Nat := 0xCC2300
def CNT_NET_BYTES_OUT : Nat := 0xCC2400
def CNT_D2D_BYTES : Nat := 0xCC2500
def QUEUE_ACTIVITY : Nat := 0xCC3000
def TRACE_EN : Nat := 0xCC4000
def TRACE_BASE : Nat := 0xCC4001
def TRACE_BYTES : Nat := 0xCC4002
def TRACE_PRODUCER : Nat := 0xCC4100
def TRACE_CONSUMER : Nat := 0xCC4200
def CNT_TRACE_DROPPED : Nat := 0xCC4300
def WATCH_BASE : Nat := 0xCC5000
def WATCH_BYTES : Nat := 0xCC5001
def WATCH_PRODUCER : Nat := 0xCC5002
def WATCH_CONSUMER : Nat := 0xCC5003
def DEVICE_CERT : Nat := 0x610000
def VENDOR_KEY_STATE : Nat := 0x610100
def OPKEY_DIGEST : Nat := 0x610200
def OPKEY_STATE : Nat := 0x610300
def OPKEY_PROVISION : Nat := 0x610400
def OPKEY_REVOKE : Nat := 0x610401
def ROLLBACK_COUNT : Nat := 0x610500
def ROLLBACK_COMMIT : Nat := 0x610501
def FW_BANK_RUNNING : Nat := 0x610600
def FW_BANK_SELECT : Nat := 0x610601
def FW_BANK_STATE : Nat := 0x610700
def FW_BANK_SVN : Nat := 0x610800
def FW_BANK_VERSION : Nat := 0x610900
def FW_IMAGE : Nat := 0x611000
def FW_ACTIVATE : Nat := 0x611100
def MEASUREMENT : Nat := 0x612000
def ATTEST_REQUEST : Nat := 0x613000
def ATTEST_REPORT : Nat := 0x613001
def WS_TENANT_KEY : Nat := 0x614000
def CNT_SESSION_REFUSED : Nat := 0xC60000
def CNT_ATTEST_REPORTS : Nat := 0xC60001
def CNT_BOOT_FALLBACKS : Nat := 0xC60002
def STARTUP_STEP : Nat := 0x220000
def STARTUP_TIME : Nat := 0x220001
def STARTUP_KIND : Nat := 0x220002
def DIMM_TEMP : Nat := 0x302200

end Sys2Proof.Machine.Obj
end

