-- ==== Sys2Proof/Machine/Table.lean ====
section
/-! DEFINITION. Sparse tables: a list of key and value pairs with keys strictly rising. What an unlisted key reads as
is the reader's default, so a table is plain data and equal tables are equal lists. -/
namespace Sys2Proof.Machine

abbrev Tbl (α : Type) := List (Nat × α)

/-- The value listed for a key. -/
def Tbl.find {α : Type} : Tbl α → Nat → Option α
  | [], _ => none
  | (k, v) :: t, key => if key = k then some v else Tbl.find t key

/-- The value listed for a key, or the default. -/
def Tbl.get {α : Type} (t : Tbl α) (d : α) (key : Nat) : α := (Tbl.find t key).getD d

/-- The table with the value of one key replaced or entered in its place. -/
def Tbl.put {α : Type} : Tbl α → Nat → α → Tbl α
  | [], key, v => [(key, v)]
  | (k, w) :: t, key, v =>
    if key < k then (key, v) :: (k, w) :: t
    else if key = k then (key, v) :: t
    else (k, w) :: Tbl.put t key v

/-- The table without one key. -/
def Tbl.del {α : Type} : Tbl α → Nat → Tbl α
  | [], _ => []
  | (k, w) :: t, key => if key = k then t else (k, w) :: Tbl.del t key

/-- The table with `f` applied to the value of one key, the default standing for an unlisted one. -/
def Tbl.upd {α : Type} (t : Tbl α) (d : α) (key : Nat) (f : α → α) : Tbl α := Tbl.put t key (f (Tbl.get t d key))

/-- The table with one value set, the entry dropped where the value is the default: the canonical form of memory. -/
def Tbl.setD {α : Type} [DecidableEq α] (t : Tbl α) (d : α) (key : Nat) (v : α) : Tbl α :=
  if v = d then Tbl.del t key else Tbl.put t key v

/-- Keys strictly rise, every key of the tail above `b`. -/
def Tbl.risingFrom {α : Type} : Nat → Tbl α → Bool
  | _, [] => true
  | b, (k, _) :: t => decide (b ≤ k) && Tbl.risingFrom (k + 1) t

/-- The canonical form: keys strictly rise. -/
def Tbl.rising {α : Type} (t : Tbl α) : Bool := Tbl.risingFrom 0 t

/-- Every entry for which `p` holds of the key is dropped. -/
def Tbl.dropKeys {α : Type} (t : Tbl α) (p : Nat → Bool) : Tbl α := t.filter (fun kv => !p kv.1)

end Sys2Proof.Machine
end

