-- ==== Sys2Proof/Machine/State.lean ====
section
/-! DEFINITION. The state of the block: every register, buffer, table, mode and pin that the spec gives the module, as
plain data, and the queue of commands that wait. -/
namespace Sys2Proof.Machine

/-- Why a step stops with a fault. -/
inductive Fault where
  /-- Raised by no command: the module answers every command with a next state. -/
  | none
deriving DecidableEq, Repr

/-- Why a step is refused. -/
inductive Refusal where
  /-- Raised by an arm of `exec` that has no meaning yet: safe, no claim rests on it. -/
  | notModelled (mnemonic : String)
deriving DecidableEq, Repr

/-! ### Compute (Spurs and ridges; Command set; Frames) -/

/-- Queue states of Table 4.1. -/
inductive QState where
  | disabled
  | running
  | halted
  | rewinding
deriving DecidableEq, Repr

/-- The numeric settings a command reads when its first slice starts (R57, R100). -/
structure NumCfg where
  headA : Int := 0
  headB : Int := 0
  headD : Int := 0
  outlA : Bool := false
  outlB : Bool := false
  outlD : Bool := false
  round : Nat := 0
  shadow : Bool := false
  interval : Nat := 64
  policy : Nat := 0
  threshold : W32 := 0#32
  runLimit : Nat := 3
deriving DecidableEq, Repr

/-- A watch dump in progress: its ring as it stood at the start of the copy, the step number, the stamp, and the bytes copied
(R439–R441). -/
structure WatchDump where
  base : Nat := 0
  bytes : Nat := 0
  prod : Nat := 0
  gen : Nat := 0
  step : Nat := 0
  stamp : Nat := 0
  buf : List Byte := []
deriving DecidableEq, Repr

/-- A command of a queue, from its fetch until its record is written (R89–R99, R133, R142). -/
structure Cmd where
  count : Nat := 0
  desc : List Byte := []
  op : Nat := 0
  units : Nat := 1
  perSlice : Nat := 1
  started : Bool := false
  begun : Bool := false
  nextUnit : Nat := 0
  again : List Nat := []
  done : List Nat := []
  finished : Bool := false
  committed : Bool := false
  status : List Nat := []
  flags : Nat := 0
  slices : Nat := 0
  startCycle : Nat := 0
  cycles : Nat := 0
  replayed : Bool := false
  ran : List Nat := []
  accMark : Bool := false
  wrote : List Nat := []
  cfg : NumCfg := {}
  cfgRead : Bool := false
  promoA : Bool := false
  promoB : Bool := false
  promoFrom : Nat := 0
  afterMM : Bool := false
  runCount : Nat := 0
  triggered : Bool := false
  prog : List Byte := []
  progRead : Bool := false
  issued : List (Nat × Nat) := []
  overs : List Nat := []
  link : Option Nat := none
  rtsAt : Nat := 0
  rtsRetry : Bool := false
  cts : Bool := false
  ctsAt : Option Nat := none
  vc : Nat := 0
  watch : Option WatchDump := none
  stepAt : Option Nat := none
  stale : Bool := false
deriving DecidableEq, Repr

/-- The activity sample of a queue (R429, Table 19.1). -/
structure Activity where
  array : Nat := 0
  vector : Nat := 0
  bytesIn : Nat := 0
  bytesOut : Nat := 0
  stall : Nat := 0
  seq : Nat := 0
deriving DecidableEq, Repr

/-- A part of a slice execution that one Spur or engine carries out, for the command trace (R437). -/
structure TracePart where
  queue : Nat
  count : Nat
  slice : Nat
  start : Nat
deriving DecidableEq, Repr

/-- One hardware queue of a Ridge (R71, R87–R94, R136, R143). -/
structure Queue where
  st : QState := .disabled
  halt : Nat := 0
  resume : QState := .running
  accepted : Nat := 0
  consumed : Nat := 0
  nextFetch : Nat := 0
  haltCount : Nat := 0
  disabling : Bool := false
  failing : Bool := false
  failCount : Nat := 0
  held : Bool := false
  prio : Nat := 4
  skipped : List Nat := []
  recorded : List Nat := []
  cmds : List Cmd := []
  fin : List Nat := []
  records : List Nat := []
  frontierCount : Nat := 0
  frontierSlice : Nat := 0
  rewinds : Nat := 0
  fetchWait : Bool := false
  recordWait : Bool := false
  replayOnly : List Nat := []
  mmSince : Bool := false
  act : Activity := {}
deriving DecidableEq, Repr

/-- The work unit on a Spur: a tile or a vector block (R68). Phase 0 awaits its load, 1 is loaded, 2 is computed, 3 has
written its results. -/
structure SpurUnit where
  queue : Nat := 0
  count : Nat := 0
  unit : Nat := 0
  phase : Nat := 0
  stageA : List (List Byte) := []
  stageB : List (List Byte) := []
  narrow : List W32 := []
  wide : List W32 := []
  sampled : Bool := false
  unchecked : Bool := false
deriving DecidableEq, Repr

/-- A Spur position (Table 3.1): its unit, accumulator file, vector registers, noise generators, and the error counts of
Table 3.7. `undef` numbers the undefined contents left by an L2 reset or a remap, and `accUndef` those of the accumulators; 0 for contents the spec gives. -/
structure Spur where
  unit : Option SpurUnit := none
  acc : Tbl W32 := []
  vregs : Tbl W32 := []
  gens : Tbl W64 := []
  undef : Nat := 0
  accUndef : Nat := 0
  ceEpoch : Nat := 0
  ueEpoch : Nat := 0
  hangEpoch : Nat := 0
  failed : Bool := false
  passed : Bool := true
  part : Option TracePart := none
deriving DecidableEq, Repr

/-- Forms of Table 7.6. -/
inductive DmaForm where
  | linear
  | indexedRead
  | indexedWrite
  | fabricOut
  | fabricIn
  | watchCopy
deriving DecidableEq, Repr

/-- States of a progress record (Table 7.7). -/
inductive DmaSt where
  | idle
  | running
  | faultWait
  | held
  | parked
deriving DecidableEq, Repr

/-- A DMA unit that has started and not finished: its progress record, slot and engine (R199, R200). -/
structure DmaUnit where
  queue : Nat := 0
  count : Nat := 0
  unit : Nat := 0
  form : DmaForm := .linear
  st : DmaSt := .running
  line : Nat := 0
  lines : Nat := 0
  engine : Option Nat := none
  faultId : Nat := 0
deriving DecidableEq, Repr

/-- An entry of a Ridge's promotion table (R55, Table 5.3). -/
structure Promo where
  ctx : Nat
  space : Nat
  base : Nat
  isB : Bool
deriving DecidableEq, Repr

/-- A cached leaf of a translation unit (R193). -/
structure TlbEnt where
  part : Nat
  ctx : Nat
  va : Nat
  level : Nat
  pa : Nat
  w : Bool
  d : Bool
deriving DecidableEq, Repr

/-- A cached pointer entry of the walk cache (R193): the entry at `entryPA` points to `next`. -/
structure PtrEnt where
  part : Nat
  ctx : Nat
  entryPA : Nat
  next : Nat
deriving DecidableEq, Repr

/-- One queue's entry of a journal copy: the fields of Table 5.3 that are written only at boundaries. The fields that R143
writes at once to both copies have their one home in the live queue. -/
structure JQueue where
  frontierCount : Nat := 0
  frontierSlice : Nat := 0
  qcontext : Nat := 0
  runCount : Nat := 0
  promoted : Bool := false
  promoA : Bool := false
  promoB : Bool := false
  triggered : Bool := false
deriving DecidableEq, Repr

/-- A journal copy (R142, Table 5.3); `bad` lists the queues whose words are uncorrectable in it (R75). -/
structure Journal where
  commitFrame : Nat := 0
  seq : Nat := 0
  steps : Tbl Nat := []
  promo : List Promo := []
  queues : Tbl JQueue := []
  bad : List Nat := []
deriving DecidableEq, Repr

/-- A remap or removal in progress on a Ridge (R80–R82): positions to remove, and the spare position under test. -/
structure Remap where
  remove : List Nat := []
  spare : Option Nat := none
  tested : Bool := false
deriving DecidableEq, Repr

/-- A Ridge (Table 3.5). -/
structure Ridge where
  spurs : Tbl Spur := []
  dma : Tbl DmaUnit := []
  turnSpur : Nat := 0
  turnDma : Nat := 0
  steps : Tbl Nat := []
  promo : List Promo := []
  copy0 : Journal := {}
  copy1 : Journal := {}
  tlb : List TlbEnt := []
  ptrs : List PtrEnt := []
  remap : Option Remap := none
  cycles : Nat := 0
  bankUe : List Nat := []
  point : Nat := 10
  goal : Nat := 10
  thermalCap : Nat := 22
  stretching : Bool := false
  inStretch : Bool := false
  ramped : Bool := false
  hot : Bool := false
  echo : Nat := 0
  traceBuf : List (List Byte) := []
  traceLost : Nat := 0
  engParts : Tbl TracePart := []
  noAnswer : Nat := 0
  journalLost : Bool := false
  lost : Nat := 0
  bnMark : List Nat := []
deriving DecidableEq, Repr

/-! ### Memory tiers (Near and far memory) -/

/-- The memory: the bytes held, as a canonical list, and for each line with ciphertext the tag of the key it was written
under. A line without a tag is a zero line (R228). -/
structure Memory where
  cells : List Host.Cell := []
  tags : Tbl Nat := []
deriving DecidableEq, Repr

/-- What the module keeps of one stack (0–15) or channel (16–31) beside its objects. -/
structure MemUnit where
  backed : Nat := 0
  held : Bool := false
  ceFrames : Tbl Nat := []
  ceSources : Tbl Nat := []
  ueLines : List Nat := []
  ueEpoch : Nat := 0
  retired : List (Nat × Bool) := []
  split : List Nat := []
  hotRefresh : Bool := false
  halfRate : Bool := false
  heatOut : Bool := false
  tempMiss : Nat := 0
deriving DecidableEq, Repr

/-! ### Translation, steward (Address translation, DMA and faults) -/

/-- Who waits on a fault. -/
inductive Waiter where
  | tile (ridge queue count unit : Nat)
  | dma (ridge slot : Nat)
  | prog (ridge queue count unit : Nat)
  | fetch (ridge queue : Nat)
  | record (ridge queue : Nat)
  | roce (qp : Nat)
deriving DecidableEq, Repr

/-- A fault as the walker reports it (R201). -/
structure FaultInfo where
  part : Nat := 0
  ctx : Nat := 0
  va : Nat := 0
  write : Bool := false
  reason : Nat := 0
  entry : Nat := 0
  value : Nat := 0
  level : Nat := 4
  ridge : Nat := 0
  queue : Nat := 0
  count : Nat := 0
deriving DecidableEq, Repr

/-- A resolution in the pending table (R207, R208, R210). `phase` 0 awaits the steward, 1 is BUSY and awaits a frame, 2 is
copied. `restore` is the entry's value to restore; `faults` counts the faults it resolves; a soft retirement moves a page of
`pages` frames from `oldPA`. -/
structure Pend where
  info : FaultInfo := {}
  waiters : List Waiter := []
  faults : Nat := 1
  phase : Nat := 0
  frame : Nat := 0
  pages : Nat := 1
  oldPA : Nat := 0
  soft : Bool := false
  restore : Nat := 0
deriving DecidableEq, Repr

/-- A fault or a retirement that waits for the host's answer (R212–R214). -/
structure HostFault where
  id : Nat := 0
  info : FaultInfo := {}
  waiters : List Waiter := []
  written : Bool := false
  retire : Bool := false
  frame : Nat := 0
deriving DecidableEq, Repr

/-! ### Partitions and fabric transfers -/

/-- A transfer of a channel's transfer table (R116). -/
structure Xfer where
  tid : Nat
  marks : List Nat := []
  total : Nat := 0
deriving DecidableEq, Repr

/-- A request to send that waits for a receive (R114). -/
structure Rts where
  link : Nat
  chan : Nat
  tid : Nat
  len : Nat
deriving DecidableEq, Repr

/-- A partition beside its objects: what it owns, its key, its transfers, steward records. -/
structure Part where
  lanes : Nat := 0
  vis : Nat := 0
  share : Nat := 0
  stepsDone : Bool := false
  applying : Bool := false
  applyZero : Bool := false
  newRidges : Nat := 0
  newLanes : Nat := 0
  newVis : Nat := 0
  newShare : Nat := 0
  zeroUnits : List Nat := []
  keyTag : Nat := 0
  xfers : Tbl (List Xfer) := []
  rts : List Rts := []
  nextId : Nat := 1
  held : List (List Byte) := []
  waiting : List (List Byte) := []
  ringFull : Bool := false
  poolEmptySaid : List Nat := []
  inval : List Nat := []
  expired : List Nat := []
  traceEn : Nat := 0
  dumpSeq : Nat := 0
  watchGen : Nat := 0
  lateWaits : List (Nat × Nat) := []
deriving DecidableEq, Repr

/-! ### Events, sessions and what the module sends -/

/-- An event of a stream, or a record of the recorder. -/
structure EvRec where
  seq : Nat := 0
  ty : Nat := 0
  part : Nat := 0xFF
  keyGen : Nat := 0
  stamp : Nat := 0
  data : List Byte := []
  partSeq : Nat := 0
deriving DecidableEq, Repr

/-- One event stream (R337). -/
structure Stream where
  next : Nat := 1
  events : List EvRec := []
deriving DecidableEq, Repr

/-- What the module sends to the world, in order. -/
inductive Out where
  | vct (addr sess mtype flags seq ack status stream : Nat) (payload : List Byte)
  | flit (lane : Nat) (bytes : List Byte)
  | lane (lane kind : Nat) (fields : List Nat)
  | roce (qp kind psn : Nat) (data : List Byte)
  | ptp (port kind : Nat)
  | i3c (data : List Byte)
  | pmbus (data : List Byte)
  | result (slot idx sub code : Nat) (data : List Byte)
deriving DecidableEq, Repr

/-! ### The recorder (Event recorder) -/

structure Cairn where
  staging : List EvRec := []
  dropTypes : List (Nat × Nat) := []
  dropMore : Nat := 0
  log : List EvRec := []
  stub : List (List Byte) := []
  clearing : Bool := false
  clearStamp : Nat := 0
  clearUpto : Nat := 0
  clearSlot : Nat := 0
  interrupted : Bool := false
  partSeqs : Tbl Nat := []
deriving DecidableEq, Repr

/-! ### Resets -/

/-- A reset in progress (R404–R408). -/
structure ResetRec where
  level : Nat
  cause : Nat
  part : Nat := 0
  ctx : Nat := 0
  ridge : Nat := 0
  spur : Nat := 0
  ridges : List Nat := []
deriving DecidableEq, Repr

/-- The watchdog's view of one agent (R397, R398). -/
structure Agent where
  beat : Bool := false
  misses : Nat := 0
  restarting : Bool := false
  hangEpoch : Nat := 0
deriving DecidableEq, Repr

/-! ### Tensor links (Tensor fabric links) -/

/-- A sequenced flit of a link: its number, type (0 DATA, 3 LINK_MSG), virtual channel and payload. -/
structure Flit where
  seq : Nat := 0
  ty : Nat := 0
  vc : Nat := 0
  payload : List Byte := []
deriving DecidableEq, Repr

/-- A link (R239–R246, R251–R257): its place, its peer, and both directions of its flit layer. `state` is LINK_STATE. -/
structure Link where
  part : Option Nat := none
  state : Nat := 0
  fibre : Nat := 0
  phys : Nat := 0
  peer : Nat := 0
  full : Nat := 0
  version : Nat := 0
  features : Nat := 0
  quar : Nat := 0
  offset : Int := 0
  next : Nat := 0
  held : List Flit := []
  queue : List Flit := []
  replays : Nat := 0
  credit : Tbl Nat := []
  owed : Tbl Nat := []
  deal : Nat := 0
  want : Nat := 0
  got : Bool := false
  unacked : Nat := 0
  nakAt : Option Nat := none
  early : Tbl Flit := []
  high : Tbl Nat := []
  asm : Tbl (List Byte) := []
  offs : List Int := []
deriving DecidableEq, Repr

/-- A lane (R238, R249–R255). `state` is LANE_STATE. The peer's hello on the lane: serial, lane, fibre, tag, versions,
features. -/
structure Lane where
  state : Nat := 0
  link : Option Nat := none
  seen : Bool := false
  peer : Nat := 0
  peerLane : Nat := 0
  peerFibre : Nat := 0
  peerPhys : Nat := 0
  verMin : Nat := 0
  verMax : Nat := 0
  features : Nat := 0
  peerSeen : Bool := false
  waiting : Bool := false
  fails : Nat := 0
  retrains : Nat := 0
  uncorr : Nat := 0
  joinAt : Option Nat := none
  swapAt : Option Nat := none
  swapAcked : Bool := false
  swapTries : Nat := 0
  peerSwapAt : Option Nat := none
  windowAt : Option Nat := none
  light : Bool := false
deriving DecidableEq, Repr

/-! ### Traverse (The Traverse control engine) -/

/-- A control loop (R296–R303). `mode` is LOOP_MODE. `stage` of TRACK: 1 the first output of a hand-over is due, 2 the ramp, 0
plain. `held` says what put it in HOLD: 1 loss of light, 2 overruns, 3 a preset or the operator. -/
structure Loop where
  mode : Nat := 0
  cls : Option Nat := none
  coef : Option (List Byte) := none
  setpoint : W32 := 0#32
  output : W32 := 0#32
  input : W32 := 0#32
  d : W32 := 0#32
  integ : W32 := 0#32
  fPrev : W32 := 0#32
  x1 : W32 := 0#32
  x2 : W32 := 0#32
  y1 : W32 := 0#32
  y2 : W32 := 0#32
  limHigh : Bool := false
  limLow : Bool := false
  stage : Nat := 0
  rampK : Nat := 0
  uS : W32 := 0#32
  start : W32 := 0#32
  origin : W32 := 0#32
  half : Bool := false
  sweep : Nat := 0
  best : Option (W32 × W32) := none
  low : Option W32 := none
  aborts : Nat := 0
  fails : Nat := 0
  verified : Bool := false
  verifiedAt : Nat := 0
  tone : Nat := 0xFF
  overruns : Nat := 0
  trig : Nat × Nat := (0, 9)
  held : Nat := 0
  heldFrom : Nat := 0
  heldTicks : Nat := 0
  waiting : Bool := false
  phase : Nat := 0
  pipe : Nat := 0
  pos : Nat := 0
  bins : Tbl W32 := []
deriving DecidableEq, Repr

/-- A running injection generator (R315). -/
structure Gen where
  on : Bool := false
  n : Nat := 0
  lfsr : Nat := 0
deriving DecidableEq, Repr

/-- A capture buffer's records (R316): those before the trigger and those from it on. -/
structure Cap where
  pre : List (List Byte) := []
  recs : List (List Byte) := []
deriving DecidableEq, Repr

/-- A loop core beside its objects (R291–R295, R311–R314). -/
structure Core where
  overFrame : Bool := false
  clean : Nat := 0
  satFrames : Nat := 0
  satSaid : Bool := false
  rcStart : Option Nat := none
  rcIvals : List Nat := []
  rcOutlier : Bool := false
  rcLast : Nat := 0
  gen0 : Gen := {}
  gen1 : Gen := {}
  cap0 : Cap := {}
  cap1 : Cap := {}
deriving DecidableEq, Repr

/-! ### Calibration -/

/-- A lane or pin of a run: the steps its parameters still have to move, the steps taken (to retrace), and its figures at
MEASURE. -/
structure CalLane where
  lane : Nat
  todo : List (Nat × Int) := []
  moved : List (Nat × Int) := []
  width : W32 := 0#32
  height : W32 := 0#32
  resid : W32 := 0#32
deriving DecidableEq, Repr

/-- A run of a group (R319–R325). -/
structure CalRun where
  temp : W32 := 0#32
  lanes : List CalLane := []
  gone : List Nat := []
  said : Bool := false
deriving DecidableEq, Repr

/-! ### Light paths -/

/-- A re-steer in progress (R273): the changed lanes, the write's TOKEN, whether the boundary of step 2 has passed, whether the
engine failed meanwhile, and the plan before it, which stands until that boundary. -/
structure Steer where
  changed : Nat := 0
  token : Nat := 0
  adapt : Bool := false
  dropped : Bool := false
  failed : Bool := false
  old : List Byte := []
deriving DecidableEq, Repr

/-- An optical engine beside its objects (R273–R279). -/
structure Engine where
  steer : Option Steer := none
  declared : Bool := false
  fallback : Bool := false
  applied : Bool := false
  perm : List Nat := [0, 1, 2, 3]
  held : List (Nat × Nat) := []
  starting : Bool := false
deriving DecidableEq, Repr

/-- A laser swap (R283–R286). `stage` 0 is tuning, 1 locked; `window` is the frame announced. -/
structure Swap where
  src : Nat
  wave : Nat
  spare : Nat
  stage : Nat := 0
  abrupt : Bool := false
  window : Nat := 0
  opened : Bool := false
  unannounced : List Nat := []
deriving DecidableEq, Repr

/-! ### Time -/

/-- The time unit beside its objects (R368–R375). -/
structure TimeUnit where
  phased : Bool := false
  missed : Nat := 0
  said : Bool := false
  refclkLost : Bool := false
  fixAt : Option Nat := none
  masters : Tbl Announce := []
  port : Option Nat := none
  gm : Nat := 0
  src : Nat := 0
  firstSync : Bool := false
  good : Nat := 0
  delay : Int := 0
  ms : Int := 0
  twoStep : Option (Nat × Nat) := none
  reqSeq : Nat := 0
  reqAt : Option Nat := none
  edge : Bool := false
deriving DecidableEq, Repr

/-! ### Start-up and the always-on domain -/

/-- PD18 and the pins (R382–R384, R413, R443, R465–R472). -/
structure Side where
  power : Bool := false
  input : Bool := true
  enable : Bool := false
  rstLow : Bool := false
  hold : Nat := 0
  lost : Bool := false
  cycle : Bool := false
  pd19Off : Bool := false
  trip : Bool := false
  bootHold : Bool := false
  recWanted : Bool := false
  cause : Nat := 0
  causeEn : Nat := 0x3F
  address : Option Nat := none
  recState : Nat := 0
  recOffset : Nat := 0
  recBytes : Tbl Byte := []
  bundle : List Byte := []
  pmbusFaults : Nat := 0
deriving DecidableEq, Repr

/-! ### RoCE queue pairs and Ethernet ports (Ethernet attachment) -/

/-- A number num / 2^exp. -/
structure Dyad where
  num : Nat := 0
  exp : Nat := 0
deriving DecidableEq, Repr

/-- A work request that has started (R342, R346): its fields, its first PSN, the packets it takes to send and PSNs it spans, the
packets sent (`off`) and acknowledged or answered (`una`), and its status once that is settled. -/
structure Wr where
  op : Nat := 0
  flags : Nat := 0
  len : Nat := 0
  local_ : Nat := 0
  remote : Nat := 0
  rkey : Nat := 0
  id : Nat := 0
  launch : Nat := 0
  psn : Nat := 0
  off : Nat := 0
  una : Nat := 0
  st : Option Nat := none
deriving DecidableEq, Repr

/-- A packet of a queue pair that is processed, or held behind a fault (R344). Kinds: 0 SEND, 1 WRITE, 2 READ request, 3 READ
response. `pos`: 0 First, 1 Middle, 2 Last, 3 Only, 4 no opcode of the subset. -/
structure Pkt where
  kind : Nat := 0
  psn : Nat := 0
  pos : Nat := 3
  va : Nat := 0
  rkey : Nat := 0
  len : Nat := 0
  data : List Byte := []
  uncorr : Option (Nat × Nat) := none
deriving DecidableEq, Repr

/-- A completion that a queue pair owes (R342). -/
structure Comp where
  id : Nat
  bytes : Nat
  kind : Nat
  st : Nat
deriving DecidableEq, Repr

/-- A message that a queue pair is receiving: the place, the bytes left, what it goes to (0 memory, 1 the doorbell page, 2 the
queue-pair doorbell page, 3 nothing), its length and WR_ID. -/
structure Msg where
  va : Nat
  ctx : Nat
  left : Nat
  to_ : Nat := 0
  total : Nat := 0
  id : Nat := 0
deriving DecidableEq, Repr

/-- A queue pair beside its configuration (R340–R346). `waitAt` says what a fault holds: 1 a packet, 2 a completion, 3 a send. -/
structure Qp where
  sendProd : Nat := 0
  sendCons : Nat := 0
  sendDone : Nat := 0
  recvProd : Nat := 0
  recvCons : Nat := 0
  compCons : Nat := 0
  comps : Nat := 0
  sPsn : Nat := 0
  ePsn : Nat := 0
  wrs : List Wr := []
  launch : Option Wr := none
  owed : List Comp := []
  recv : Option Msg := none
  write : Option Msg := none
  jobs : List Pkt := []
  waitAt : Nat := 0
  ready : Bool := false
  deny : Bool := false
  nakSent : Bool := false
  retries : Nat := 0
  alpha : Dyad := ⟨1, 0⟩
  rate : Dyad := ⟨100000, 0⟩
  target : Dyad := ⟨100000, 0⟩
  stage : Nat := 0
  bytes : Nat := 0
  cnpAt : Option Nat := none
deriving DecidableEq, Repr

/-! ### Sessions and transfers of the control dictionary -/

/-- An open block transfer (R361). -/
structure BlockXfer where
  write : Bool
  idx : Nat
  sub : Nat
  part : Nat
  total : Nat
  buf : List Byte := []
  have_ : List (Nat × Nat) := []
deriving DecidableEq, Repr

/-- A session (R334–R336, R338, R452): its identifier, class and partition, the address of its last valid message, its key and the
operator slot that opened it; L; the stored replies (sequence, status, payload), the buffered requests (sequence, type, payload);
bad tags; the request credit in millionths; the highest event acknowledged, the tries of events sent again, those left for
EVENT_FETCH; its transfers. -/
structure Sess where
  id : Nat := 0
  cls : Nat := 0
  part : Nat := 0xFF
  addr : Nat := 0
  key : List Byte := []
  keySlot : Nat := 0xFF
  last : Nat := 0
  replies : List (Nat × Nat × List Byte) := []
  buffered : List (Nat × Nat × List Byte) := []
  badTags : Nat := 0
  badSaid : Option Nat := none
  credit : Nat := 0
  acked : Nat := 0
  tries : Tbl Nat := []
  left : List Nat := []
  blocks : Tbl BlockXfer := []
  nextHandle : Nat := 1
deriving DecidableEq, Repr

/-- An open that awaits its proof (R451, R452): the two payloads, the ephemeral private value, what was asked. -/
structure PendOpen where
  openMsg : List Byte
  challenge : List Byte
  priv : List Byte
  cls : Nat
  part : Nat
  key : Nat
deriving DecidableEq, Repr

/-- A counter snapshot (R432): the objects captured, the activity samples, and the Ridges of each partition that has one. -/
structure Snapshot where
  regs : Tbl W64 := []
  blobs : Tbl (List Byte) := []
  acts : Tbl (List Byte) := []
  parts : Tbl Nat := []
deriving DecidableEq, Repr

/-- Everything the module holds but its memory. -/
structure Chip where
  regs : Tbl W64 := []
  blobs : Tbl (List Byte) := []
  out : List Out := []
  fresh : Nat := 0
  extNext : Tbl Nat := []
  ridges : Tbl Ridge := []
  queues : Tbl Queue := []
  spads : Tbl Byte := []
  units : Tbl MemUnit := []
  parts : Tbl Part := []
  pend : List Pend := []
  pendWait : List (FaultInfo × Waiter) := []
  hosts : List HostFault := []
  streams : Tbl Stream := []
  cairn : Cairn := {}
  sess : Tbl Sess := []
  resets : List ResetRec := []
  agents : Tbl Agent := []
  anchorTime : Nat := 0
  anchorRaw : Nat := 0
  raw : Nat := 0
  frame : Nat := 0
  tick : Nat := 0
  links : Tbl Link := []
  lanes : Tbl Lane := []
  linkFull : Bool := false
  loops : Tbl Loop := []
  cores : Tbl Core := []
  resMap : Tbl W32 := []
  travSaved : Option (Tbl (Nat × List Byte)) := none
  calRuns : Tbl CalRun := []
  calTemps : Tbl W32 := []
  calVals : Tbl Int := []
  engines : Tbl Engine := []
  swaps : List Swap := []
  notice : Nat := 0
  darkFibres : List Nat := []
  laserFlags : Tbl Nat := []
  colTarget : Tbl Nat := []
  time : TimeUnit := {}
  side : Side := {}
  flash : Tbl (List Byte) := []
  resetCounts : Tbl Nat := []
  sagSaid : List Nat := []
  means : List (W32 × W32) := []
  limDue : Bool := false
  limFrame : Nat := 0
  limAt : Option Nat := none
  qps : Tbl Qp := []
  ethFails : Tbl Nat := []
  opens : List PendOpen := []
  nextSess : Nat := 1
  refusedAt : Option Nat := none
  snap : Option Snapshot := none
deriving DecidableEq, Repr

/-- The state of the block: the commands that wait, first in first out; the memory tiers; and everything else. -/
structure State where
  pending : List Instr := []
  mem : Memory := {}
  chip : Chip := {}
deriving DecidableEq, Repr

/-- What the fuses and the flash hold as manufactured: both vendor keys active, operator slot 0 a SERVICE key, a bundle in each
bank. -/
def factoryRegs : Tbl W64 :=
  [(0x8610100, 1#64), (0x8610101, 1#64), (0x8610300, 2#64), (0x8610700, 3#64), (0x8610701, 3#64)]

/-- The block before power: every object at its default, nothing in memory, no command waiting (R351, R475). -/
def State.reset : State := { chip := { regs := factoryRegs } }

end Sys2Proof.Machine
end

