-- ==== Sys2Proof/Machine/Ops.lean ====
section
/-! DEFINITION. The named operations that every family uses: reading and writing objects, counting, raising events,
sending messages, and reaching Ridges, queues and partitions. -/
namespace Sys2Proof.Machine

/-! ### Lifting

A command that does not touch memory is a function of the chip alone. -/

/-- The state with the chip changed by `f`; memory and the waiting commands stay. -/
def State.on (s : State) (f : Chip → Chip) : State := { s with chip := f s.chip }

/-- The state with `f` applied once to memory and chip together. -/
def State.withMem (s : State) (m : Memory) : State := { s with mem := m }

/-- A command's meaning that always completes. -/
def done (s : State) : Host.Outcome State Fault Refusal := .next s

/-! ### Objects (R348, R351, R353) -/

/-- The instance number of the module's own objects; partition k's instances are k, session slot t's are 16 + t. -/
def modInst : Nat := 8

def sessInst (slot : Nat) : Nat := 16 + slot

/-- The key of one instance of an object. -/
def ikey (inst key : Nat) : Nat := inst * 2 ^ 24 + key

/-- The value of an object's instance, its default until something has changed it (R351). -/
def Chip.get (c : Chip) (inst key : Nat) : Nat :=
  match Tbl.find c.regs (ikey inst key) with
  | some v => v.toNat
  | none => objDefault key

/-- The chip with an object's value set. -/
def Chip.set (c : Chip) (inst key v : Nat) : Chip := { c with regs := Tbl.put c.regs (ikey inst key) (BitVec.ofNat 64 v) }

/-- A module object's value. -/
def Chip.reg (c : Chip) (key : Nat) : Nat := c.get modInst key

def Chip.setReg (c : Chip) (key v : Nat) : Chip := c.set modInst key v

/-- A 64-bit counter goes up by `n` and wraps at 2^64. -/
def Chip.count (c : Chip) (inst key n : Nat) : Chip := c.set inst key (c.get inst key + n)

def Chip.bump (c : Chip) (key : Nat) : Chip := c.count modInst key 1

/-- A 32-bit counter goes up by one and wraps at 2^32. -/
def Chip.bump32 (c : Chip) (key : Nat) : Chip := c.setReg key (inc32 (c.reg key))

/-- A partition's counter goes up by `n`; a number that names no partition counts nowhere. -/
def Chip.countPart (c : Chip) (part key n : Nat) : Chip := if part < 8 then c.count part key n else c

/-- An object of index stride one per unit: unit `i` of the row that starts at `key`. -/
def atIdx (key i : Nat) : Nat := key + i * 256

/-- A blob's bytes. -/
def Chip.blob (c : Chip) (inst key : Nat) : List Byte := Tbl.get c.blobs [] (ikey inst key)

def Chip.setBlob (c : Chip) (inst key : Nat) (bs : List Byte) : Chip :=
  { c with blobs := Tbl.put c.blobs (ikey inst key) bs }

/-- A number never used before: the counter that free values are applied to. -/
def Chip.tick1 (c : Chip) : Nat × Chip := (c.fresh, { c with fresh := c.fresh + 1 })

/-- A message to the world. -/
def Chip.send (c : Chip) (o : Out) : Chip := { c with out := c.out ++ [o] }

/-! ### The extent table (R18, R20) -/

/-- An extent object takes a new value at the next frame boundary. -/
def Chip.extSet (c : Chip) (key v : Nat) : Chip := { c with extNext := Tbl.put c.extNext key v }

/-- The value an extent object will hold after the next boundary. -/
def Chip.extSoon (c : Chip) (key : Nat) : Nat := Tbl.get c.extNext (c.reg key) key

/-! ### Ridges, queues, partitions -/

def Chip.ridge (c : Chip) (n : Nat) : Ridge := Tbl.get c.ridges {} n

def Chip.setRidge (c : Chip) (n : Nat) (r : Ridge) : Chip := { c with ridges := Tbl.put c.ridges n r }

def Chip.updRidge (c : Chip) (n : Nat) (f : Ridge → Ridge) : Chip := c.setRidge n (f (c.ridge n))

def Chip.queue (c : Chip) (n q : Nat) : Queue := Tbl.get c.queues {} (8 * n + q)

def Chip.setQueue (c : Chip) (n q : Nat) (x : Queue) : Chip := { c with queues := Tbl.put c.queues (8 * n + q) x }

def Chip.updQueue (c : Chip) (n q : Nat) (f : Queue → Queue) : Chip := c.setQueue n q (f (c.queue n q))

def Ridge.spur (r : Ridge) (p : Nat) : Spur := Tbl.get r.spurs {} p

def Ridge.setSpur (r : Ridge) (p : Nat) (x : Spur) : Ridge := { r with spurs := Tbl.put r.spurs p x }

def Chip.spur (c : Chip) (n p : Nat) : Spur := (c.ridge n).spur p

def Chip.updSpur (c : Chip) (n p : Nat) (f : Spur → Spur) : Chip :=
  c.updRidge n (fun r => r.setSpur p (f (r.spur p)))

def Chip.part (c : Chip) (k : Nat) : Part := Tbl.get c.parts {} k

def Chip.setPart (c : Chip) (k : Nat) (p : Part) : Chip := { c with parts := Tbl.put c.parts k p }

def Chip.updPart (c : Chip) (k : Nat) (f : Part → Part) : Chip := c.setPart k (f (c.part k))

def Chip.unit (c : Chip) (u : Nat) : MemUnit := Tbl.get c.units {} u

def Chip.updUnit (c : Chip) (u : Nat) (f : MemUnit → MemUnit) : Chip :=
  { c with units := Tbl.put c.units u (f (c.unit u)) }

/-- The object of queue q of Ridge n (index 0x4110 + 8n + q). -/
def qkey (key n q : Nat) : Nat := atIdx key (8 * n + q)

/-- The Ridge set in force of partition k. -/
def Chip.ridgesOf (c : Chip) (k : Nat) : Nat := c.reg (atIdx Obj.WS_APPLIED_RIDGES k)

/-- The owner of Ridge n, and with it of NS n and FC n (R183, R218). -/
def Chip.owner (c : Chip) (n : Nat) : Option Nat := (List.range 8).find? (fun k => bitAt (c.ridgesOf k) n)

/-- The owner of Ridge n, or 0xFF. -/
def Chip.ownerN (c : Chip) (n : Nat) : Nat := (c.owner n).getD 0xFF

/-- WS_STATE values of Table 8.2. -/
def wsFree : Nat := 0
def wsCreating : Nat := 1
def wsActive : Nat := 2
def wsTearing : Nat := 3

def Chip.wsState (c : Chip) (k : Nat) : Nat := c.reg (Obj.WS_STATE + k)

/-- The Ridges a partition owns, ascending. -/
def Chip.ridgeList (c : Chip) (k : Nat) : List Nat := setBits 16 (c.ridgesOf k)

/-- RIDGE_SPUR_MAP of Ridge n. -/
def Chip.spurMap (c : Chip) (n : Nat) : Nat := c.reg (Obj.RIDGE_SPUR_MAP + n)

/-- SPURS_PER_RIDGE_ACTIVE (R70). -/
def Chip.spursActive (c : Chip) (n : Nat) : Nat := popCount 17 (c.spurMap n)

/-- The position of logical Spur l: the (l+1)-th set bit of the map (R19). -/
def Chip.spurPos (c : Chip) (n l : Nat) : Option Nat := (setBits 17 (c.spurMap n))[l]?

/-- Whether Ridge n is RETIRED; its state object follows at the next boundary (R20, R81). -/
def Chip.retired (c : Chip) (n : Nat) : Bool := c.extSoon (Obj.RIDGE_STATE + n) = 2

/-- The context of a queue (QCONTEXT). -/
def Chip.qctx (c : Chip) (n q : Nat) : Nat := c.reg (qkey Obj.QCONTEXT n q)

/-- Fold over all queues of a Ridge. -/
def forQueues (f : Chip → Nat → Chip) (c : Chip) : Chip := (List.range 8).foldl f c

/-! ### Events (R337, R376, R415–R421, R478) -/

/-- Fields laid out by R478: each at the next offset that is a multiple of its width, the end padded to 8 bytes. -/
def layFields (fs : List (Nat × Nat)) : List Byte :=
  padTo 8 (fs.foldl (fun bs f => padTo (if f.1 = 0 then 1 else min f.1 8) bs ++ leBytes f.1 f.2) [])

/-- Device time in units of 1 / (4 · 10^12) ns, the unit in which R367 comes out whole: a raw cycle is 1.25 ns. -/
def Chip.exactTime (c : Chip) : Nat :=
  c.anchorTime + (c.raw + 2 ^ 64 - c.anchorRaw) % 2 ^ 64 * (5 * ((10 ^ 12 : Int) + toSigned 32 (c.reg Obj.TIME_RATE)).toNat)

/-- Device time in ns (R367). -/
def Chip.now (c : Chip) : Nat := c.exactTime / (4 * 10 ^ 12) % 2 ^ 64

/-- A stamp: device time in ns with UNLOCKED in bit 1. The Saddle die stamps from the raw counter and is never
stretched (R376, R377). -/
def Chip.stamp (c : Chip) : Nat :=
  c.now / 4 * 4 + (if c.reg Obj.TIME_STATE = 2 then 0 else 2)

/-- A stamp taken in a Ridge's clock region: STRETCHED in a tick in which the region was stretched (R376, R377). -/
def Chip.stampAt (c : Chip) (n : Nat) : Nat := c.stamp + (if (c.ridge n).stretching then 1 else 0)

def Chip.keyGen (c : Chip) (k : Nat) : Nat := if k < 8 then c.reg (Obj.WS_KEY_GEN + k) else 0

/-- Bytes of a record: header 32 with its origin, then DATA (R415). -/
def EvRec.size (e : EvRec) : Nat := 32 + e.data.length

/-- A record as the log holds it (Tables 18.1, 18.2): header, origin, DATA. -/
def EvRec.bytes (e : EvRec) : List Byte :=
  leBytes 2 e.ty ++ leBytes 2 (16 + e.data.length) ++ leBytes 4 e.seq ++ leBytes 8 e.stamp ++
  leBytes 4 e.part ++ leBytes 4 e.keyGen ++ leBytes 4 e.partSeq ++ zeros 4 ++ e.data

/-- Types that are events only and never recorded (R316, R337, R417, Table 18.3). -/
def eventOnly (ty : Nat) : Bool := ty = 0x0431 || ty = 0x0432 || ty = 0x0909 || ty = 0x0B07

/-- The payload of an EVENT: the fields alone for an event that is not recorded, else its record, whose SEQUENCE and
PART_SEQ are assigned only at commit and are zero here (R418, R478). -/
def EvRec.payload (e : EvRec) : List Byte :=
  if eventOnly e.ty then e.data else ({ e with seq := 0, partSeq := 0 } : EvRec).bytes

/-- The event stream of a session: its partition's, or 8 (R337). -/
def Sess.stream (s : Sess) : Nat := if s.cls = 1 then s.part else 8

/-- One stream takes an event, numbers it, keeps the last 4,096, and sends it to each session on the stream (R337, R338).
A session of class ANY has no stream. -/
def Chip.onStream (c : Chip) (k : Nat) (e : EvRec) : Chip :=
  let st := Tbl.get c.streams {} k
  let e := { e with seq := st.next }
  let evs := st.events ++ [e]
  let c := { c with streams := Tbl.put c.streams k ⟨inc32 st.next, evs.drop (evs.length - 4096)⟩ }
  c.sess.foldl (fun c s =>
    if s.2.cls != 0 && s.2.stream = k then c.send (.vct s.2.addr s.2.id 0x20 1 e.seq 0 0 k e.payload) else c) c

/-- Bytes of the records in the staging ring. -/
def stagedBytes (l : List EvRec) : Nat := l.foldl (fun n e => n + e.size) 0

/-- A dropped event is counted, by type for the first 26 types in order of first drop (R419). -/
def Cairn.drop (r : Cairn) (ty : Nat) : Cairn :=
  match r.dropTypes.find? (fun p => p.1 = ty) with
  | some _ => { r with dropTypes := r.dropTypes.map (fun p => if p.1 = ty then (ty, p.2 + 1) else p) }
  | none =>
    if r.dropTypes.length < 26 then { r with dropTypes := r.dropTypes ++ [(ty, 1)] } else { r with dropMore := r.dropMore + 1 }

/-- The recorder takes an event by its state (R418–R420, Table 18.4). -/
def Chip.record (c : Chip) (e : EvRec) : Chip :=
  if eventOnly e.ty then c
  else
    let st := c.reg Obj.CAIRN_STATE
    if st = 1 then c.bump Obj.CNT_CAIRN_LOST
    else if st = 3 then c.bump (Obj.CNT_CAIRN_UNRECORDED + e.ty / 256 % 16)
    else if stagedBytes c.cairn.staging + e.size ≤ 65536 then
      { c with cairn := { c.cairn with staging := c.cairn.staging ++ [e] } }
    else ({ c with cairn := c.cairn.drop e.ty }).bump Obj.CNT_CAIRN_DROPPED

/-- An event is raised on behalf of a partition, or of the module with 0xFF: it goes to the streams and to the recorder. -/
def Chip.raise (c : Chip) (ty part : Nat) (fs : List (Nat × Nat)) : Chip :=
  let e : EvRec := { ty := ty, part := part, keyGen := c.keyGen part, stamp := c.stamp, data := layFields fs }
  let c := if part < 8 then c.onStream part e else c
  (c.onStream 8 e).record e

/-- A module event. -/
def Chip.raiseMod (c : Chip) (ty : Nat) (fs : List (Nat × Nat)) : Chip := c.raise ty 0xFF fs

/-! ### Waits (R154) -/

/-- Classes of Table 5.7, in table order. -/
def waitDma : Nat := 0
def waitCredit : Nat := 1
def waitVct : Nat := 2
def waitBeat : Nat := 3
def waitLoop : Nat := 4
def waitSignal : Nat := 5

/-- An arrival in the decision cycle wins and is counted as a near miss. -/
def Chip.nearMiss (c : Chip) (cls : Nat) (atLimit : Bool) : Chip :=
  if atLimit then c.bump (Obj.CNT_NEAR_MISS + cls) else c

/-- An arrival after its timeout has acted is discarded and counted as late. -/
def Chip.late (c : Chip) (cls : Nat) : Chip := c.bump (Obj.CNT_LATE + cls)

end Sys2Proof.Machine
end

