-- ==== Sys2Proof/Machine/CalRuns.lean ====
section
/-! DEFINITION. Calibration runs of the 58 link groups: how a run starts, moves and ends (R318–R325). -/
namespace Sys2Proof.Machine

/-- Run states of Table 12.2, as CAL_STATE numbers them; SOLVE and CHECK pass within the event that ends MEASURE. -/
def calIdle : Nat := 0
def calMeasure : Nat := 1
def calApply : Nat := 4
def calVerify : Nat := 5
def calRollback : Nat := 6

/-- Results of CAL_LAST_RESULT. -/
def calDone : Nat := 1
def calRejected : Nat := 2
def calRolledBack : Nat := 3
def calNoData : Nat := 4

/-- The class of a group (Table 12.1). -/
def calClass (g : Nat) : Nat :=
  if g < 8 then 0 else if g < 10 then 1 else if g < 18 then 2 else if g < 26 then 3 else if g < 42 then 4 else 5

def Chip.calState (c : Chip) (g : Nat) : Nat := c.reg (Obj.CAL_STATE + g)

def Chip.calRun (c : Chip) (g : Nat) : CalRun := Tbl.get c.calRuns {} g

def Chip.setCal (c : Chip) (g st : Nat) (r : CalRun) : Chip :=
  { (c.setReg (Obj.CAL_STATE + g) st) with calRuns := Tbl.put c.calRuns g r }

/-- Whether a group's unit is FAILED, OUT_OF_SERVICE or unpopulated, so that it does not run (R319). -/
def Chip.calBlocked (c : Chip) (g : Nat) : Bool :=
  if g < 8 then c.reg (Obj.ENGINE_STATE + g) != 0 || (Tbl.get c.engines {} g).declared
  else if g < 10 then c.reg (Obj.NOTCH_STATE + (g - 8)) = 3
  else if g < 18 then c.reg (Obj.ENGINE_STATE + (g - 10)) = 2
  else if g < 26 then !bitAt (c.reg Obj.ETH_PORT_MASK) (g - 18)
  else if g < 42 then c.reg (Obj.FAR_STATE + (g - 26)) = 2 || c.reg (Obj.FAR_CHANNEL_BYTES + (g - 26)) = 0
  else c.reg (Obj.NEAR_STATE + (g - 42)) = 2 || c.reg (Obj.NEAR_STACK_BYTES + (g - 42)) = 0

/-- A run starts at a temperature (R319). A trigger that meets a run in progress is dropped. -/
def Chip.calStart (c : Chip) (g : Nat) (temp : W32) : Chip :=
  if c.calState g = calIdle && bitAt (c.reg Obj.CAL_ENABLE) g && !c.calBlocked g then
    (c.setCal g calMeasure { temp := temp }).bump (Obj.CNT_CAL_RUNS + g)
  else c

/-- A run ends with a result: its objects, its count and its event (R319, R322, R324). -/
def Chip.calEnd (c : Chip) (g result : Nat) : Chip :=
  let t := (c.calRun g).temp
  let c := c.setCal g calIdle {}
  let c := c.setReg (Obj.CAL_LAST_TEMP + g) t.toNat
  let c := c.setReg (Obj.CAL_LAST_RESULT + g) result
  let c := c.setReg (Obj.CAL_LAST_FRAME + g) c.frame
  match result with
  | 1 => c.raiseMod 0x0E01 []
  | 2 => c.bump (Obj.CNT_CAL_REJECTED + g)
  | 3 => (c.bump (Obj.CNT_CAL_ROLLBACKS + g)).raiseMod 0x0E03 []
  | _ => (c.bump (Obj.CNT_CAL_REJECTED + g)).raiseMod 0x0E04 []

/-- A run in progress ends with REJECTED because its unit is gone (Table 12.3). -/
def Chip.calReject (c : Chip) (g : Nat) : Chip := if c.calState g = calIdle then c else c.calEnd g calRejected

/-- A lane leaves the run of its receiver group and keeps the values it holds (R325). -/
def Chip.calLeave (c : Chip) (lane : Nat) : Chip :=
  let g := 10 + lane / 32
  if c.calState g = calIdle then c
  else
    let r := c.calRun g
    c.setCal g (c.calState g) { r with lanes := r.lanes.filter (fun l => l.lane != lane), gone := r.gone ++ [lane] }

/-- The parameters a solution moves, in the order of Table 12.1's last column, without those that stay. -/
def calTodo (steps : List (Fin 16 × Int)) : List (Nat × Int) :=
  (steps.foldl (fun (t : Tbl Int) s => Tbl.put t s.1.val s.2) []).filter (fun p => p.2 != 0)

/-- End of MEASURE: the lanes with data are solved and pre-checked (R321, R322). -/
def Chip.calSolve (c : Chip) (g : Nat) (ds : List CalData) : Chip :=
  let r := c.calRun g
  let ds := ds.filter (fun d => d.data && !r.gone.contains d.lane.toNat)
  if ds.isEmpty then c.calEnd g calNoData
  else
    let lim := c.reg Obj.CAL_MAX_STEPS
    let ok := ds.filter (fun d => d.inRange && d.steps.all (fun s => decide (s.2.natAbs ≤ lim)))
    let fail := ok.length != ds.length
    let c := if fail then c.raiseMod 0x0E02 [] else c
    if ok.isEmpty then c.calEnd g calRejected
    else
      let lanes := ok.map (fun d =>
        ({ lane := d.lane.toNat, todo := calTodo d.steps, width := d.width, height := d.height, resid := d.resid } : CalLane))
      c.setCal g calApply { r with lanes := lanes, said := fail }

/-- The key of one parameter of one lane or pin of a group. -/
def calKey (g lane p : Nat) : Nat := g * 2 ^ 20 + lane * 16 + p

/-- One parameter moves one step. -/
def Chip.calMove (c : Chip) (g lane p : Nat) (by_ : Int) : Chip :=
  let k := calKey g lane p
  ({ c with calVals := Tbl.put c.calVals k (Tbl.get c.calVals 0 k + by_) }).bump (Obj.CNT_CAL_STEPS + g)

def unitStep (i : Int) : Int := if i < 0 then -1 else 1

/-- A lane's next step towards its new values: the first parameter that still has to move. -/
def CalLane.next (l : CalLane) : Option (Nat × Int × CalLane) :=
  match l.todo with
  | [] => none
  | (p, k) :: t =>
    let s := unitStep k
    some (p, s, { l with todo := if k - s = 0 then t else (p, k - s) :: t, moved := (p, s) :: l.moved })

/-- A lane's next step back. -/
def CalLane.back (l : CalLane) : Option (Nat × Int × CalLane) :=
  match l.moved with
  | [] => none
  | (p, s) :: t => some (p, -s, { l with moved := t })

/-- Whether a lane of a group has a swap window in this frame (Table 12.3). -/
def Chip.calPaused (c : Chip) (g lane : Nat) : Bool :=
  let x := Tbl.get c.lanes {} lane
  10 ≤ g && g < 18 && (x.state = 4 || x.peerSwapAt = some c.frame || x.windowAt = some c.frame)

/-- Every lane of a run moves by at most one step. A lane with a swap window in this frame waits (R323, Table 12.3). -/
def Chip.calStepAll (c : Chip) (g : Nat) (f : CalLane → Option (Nat × Int × CalLane)) : Chip :=
  (c.calRun g).lanes.foldl (fun c l =>
    match if c.calPaused g l.lane then none else f l with
    | none => c
    | some (p, s, l') =>
      let c := c.calMove g l.lane p s
      let r := c.calRun g
      c.setCal g (c.calState g) { r with lanes := r.lanes.map (fun x => if x.lane = l.lane then l' else x) }) c

/-- ROLLBACK that has nothing left to retrace ends the run. -/
def Chip.calSettle (c : Chip) (g : Nat) : Chip :=
  if c.calState g = calRollback && (c.calRun g).lanes.all (fun l => l.moved.isEmpty) then c.calEnd g calRolledBack else c

/-- The step at tick 64 of a frame, with the group's residual error over the frame (R323, R324). -/
def Chip.calStep (c : Chip) (g : Nat) (resid : W32) : Chip :=
  if c.calState g = calApply then
    let c := c.calStepAll g CalLane.next
    if f32Lt (BitVec.ofNat 32 (c.reg (Obj.CAL_MAX_RESIDUAL + calClass g))) resid then
      (c.setCal g calRollback (c.calRun g)).calSettle g
    else if (c.calRun g).lanes.all (fun l => l.todo.isEmpty) then c.setCal g calVerify (c.calRun g)
    else c
  else if c.calState g = calRollback then (c.calStepAll g CalLane.back).calSettle g
  else c

/-- The post-check of one lane (R322): its class's minima, or no figure worse than at MEASURE where it was below one then. -/
def Chip.calPasses (c : Chip) (g : Nat) (l : CalLane) (w h r : W32) : Bool :=
  let lim := fun (k : Nat) => BitVec.ofNat 32 (c.reg (k + calClass g))
  let meets := fun (w h r : W32) => f32Le (lim Obj.CAL_MIN_EYE_WIDTH) w && f32Le (lim Obj.CAL_MIN_EYE_HEIGHT) h &&
    f32Le r (lim Obj.CAL_MAX_RESIDUAL)
  meets w h r || (!meets l.width l.height l.resid && f32Le l.width w && f32Le l.height h && f32Le r l.resid)

/-- The figures of a lane at VERIFY; a lane that was not measured again keeps those of MEASURE. -/
def calFigures (ds : List CalData) (l : CalLane) : W32 × W32 × W32 :=
  match ds.find? (fun d => d.lane.toNat = l.lane) with
  | some d => (d.width, d.height, d.resid)
  | none => (l.width, l.height, l.resid)

/-- The worst lane: the greatest residual error, the lowest lane on a tie. -/
def calWorst (fs : List (Nat × W32 × W32 × W32)) : Option (Nat × W32 × W32 × W32) :=
  fs.foldl (fun (b : Option (Nat × W32 × W32 × W32)) f => match b with
    | none => some f
    | some g => if f32Lt g.2.2.2 f.2.2.2 then some f else some g) none

/-- The quality objects of a group (R326). -/
def Chip.calQuality (c : Chip) (g : Nat) (fs : List (Nat × W32 × W32 × W32)) : Chip :=
  match calWorst fs with
  | none => c
  | some (l, w, h, r) =>
    (((c.setReg (Obj.CAL_WORST_LANE + g) l).setReg (Obj.CAL_EYE_WIDTH + g) w.toNat).setReg (Obj.CAL_EYE_HEIGHT + g) h.toNat).setReg
      (Obj.CAL_RESIDUAL + g) r.toNat

/-- End of VERIFY (R322, R324). -/
def Chip.calVerifyDone (c : Chip) (g : Nat) (ds : List CalData) : Chip :=
  let r := c.calRun g
  let c := c.calQuality g (r.lanes.map (fun l => (l.lane, calFigures ds l)))
  if r.lanes.all (fun l => let f := calFigures ds l; c.calPasses g l f.1 f.2.1 f.2.2) then c.calEnd g calDone
  else (c.setCal g calRollback r).calSettle g

/-- A group's enable is cleared: APPLY goes back, and any other state but ROLLBACK returns to IDLE (Table 12.3). -/
def Chip.calDisable (c : Chip) (g : Nat) : Chip :=
  let st := c.calState g
  if st = calApply then (c.setCal g calRollback (c.calRun g)).calSettle g
  else if st = calIdle || st = calRollback then c
  else c.setCal g calIdle {}

end Sys2Proof.Machine
end

