-- ==== Sys2Proof/Machine/Memory.lean ====
section
/-! DEFINITION. The two memory tiers: the physical map, lines and their keys, access checks, reads and writes, and
retirement (R161, R162, R165, R172–R178, R228). -/
namespace Sys2Proof.Machine

/-! ### Bytes and lines -/

/-- The canonical form of memory: addresses strictly rise and no listed byte is what an unlisted address reads as; the same of
the tags of lines. -/
def Memory.wf (m : Memory) : Bool :=
  Tbl.rising m.cells && m.cells.all (fun c => c.2 != 0#8) && Tbl.rising m.tags && m.tags.all (fun l => l.2 != 0)

/-- The stored byte at an address; every line reads as zeros until it is written (R475). -/
def Memory.raw (m : Memory) (a : Nat) : Byte := Tbl.get m.cells 0#8 a

/-- The tag of the key that the line of an address was written under; 0 for a zero line. -/
def Memory.tag (m : Memory) (a : Nat) : Nat := Tbl.get m.tags 0 (a / 128)

/-- A byte as a requester that names key `k` reads it: a zero line reads as zeros under any key (R228), another key's line
reads as undefined data (R178). -/
def Memory.byte (m : Memory) (k a : Nat) : Byte :=
  if m.tag a = 0 then 0#8
  else if m.tag a = k then m.raw a
  else Config.foreignByte (m.tag a) k a

def Memory.bytes (m : Memory) (k a n : Nat) : List Byte := (List.range n).map (fun i => m.byte k (a + i))

/-- One stored byte set. -/
def Memory.setRaw (m : Memory) (a : Nat) (b : Byte) : Memory := { m with cells := Tbl.setD m.cells 0#8 a b }

/-- Stored bytes set from an address on. -/
def Memory.setRaws (m : Memory) (a : Nat) : List Byte → Memory
  | [] => m
  | b :: bs => Memory.setRaws (m.setRaw a b) (a + 1) bs

/-- The line of an address made a line of key `k`: its bytes become what that key reads there (R169, R228). -/
def Memory.own (m : Memory) (k a : Nat) : Memory :=
  if m.tag a = k then m
  else
    let base := a / 128 * 128
    let now := m.bytes k base 128
    let m := m.setRaws base now
    { m with tags := Tbl.setD m.tags 0 (a / 128) k }

/-- One byte written under key `k`. -/
def Memory.put (m : Memory) (k a : Nat) (b : Byte) : Memory := (m.own k a).setRaw a b

/-- A run of bytes written under key `k`: each line it touches is read, merged and written whole (R169). -/
def Memory.write (m : Memory) (k : Nat) : Nat → List Byte → Memory
  | _, [] => m
  | a, b :: bs => Memory.write (m.put k a b) k (a + 1) bs

/-- Every line of [a, a + n) becomes a zero line (R228); both ends are line aligned. -/
def Memory.zero (m : Memory) (a n : Nat) : Memory :=
  { cells := Tbl.dropKeys m.cells (fun k => decide (a ≤ k) && decide (k < a + n)),
    tags := Tbl.dropKeys m.tags (fun l => decide (a ≤ l * 128) && decide (l * 128 < a + n)) }

/-- The line at `src` carried to `dst`, decrypted and encrypted on the way; a zero line stays one (R179, R228). -/
def Memory.moveLine (m : Memory) (k src dst : Nat) : Memory :=
  if m.tag src = 0 then m.zero dst 128 else m.write k dst (m.bytes k src 128)

/-- `n` lines carried from `src` to `dst`. -/
def Memory.moveLines (m : Memory) (k src dst : Nat) : Nat → Memory
  | 0 => m
  | n + 1 => Memory.moveLines (m.moveLine k src dst) k (src + 128) (dst + 128) n

/-! ### The physical map (R161, Table 6.2) -/

def farBase : Nat := 0x10000000000

/-- The unit and the offset of a physical address: stacks are 0–15, channels 16–31. -/
def unitOf (pa : Nat) : Option (Nat × Nat) :=
  if pa < farBase then some (pa / 2 ^ 36, pa % 2 ^ 36)
  else if pa < 0x50000000000 then some (16 + (pa - farBase) / 2 ^ 38, (pa - farBase) % 2 ^ 38)
  else none

/-- The first physical address of a unit. -/
def unitBase (u : Nat) : Nat := if u < 16 then u * 2 ^ 36 else farBase + (u - 16) * 2 ^ 38

/-- The state object of a unit: NEAR_STATE or FAR_STATE. -/
def unitStateKey (u : Nat) : Nat := if u < 16 then Obj.NEAR_STATE + u else Obj.FAR_STATE + (u - 16)

def Chip.unitState (c : Chip) (u : Nat) : Nat := c.reg (unitStateKey u)

/-- The capacity object of a unit. -/
def unitBytesKey (u : Nat) : Nat := if u < 16 then Obj.NEAR_STACK_BYTES + u else Obj.FAR_CHANNEL_BYTES + (u - 16)

/-- Whether [pa, pa + n) lies within the backed range of a unit that partition `k` owns (R191). -/
def Chip.owned (c : Chip) (k pa n : Nat) : Bool :=
  match unitOf pa with
  | none => false
  | some (u, o) => decide (o + n ≤ (c.unit u).backed) && c.owner (u % 16) == some k

/-- Whether the frame of an address is hard-retired, or soft-retired. -/
def Chip.retiredHard (c : Chip) (pa : Nat) : Bool :=
  match unitOf pa with
  | none => false
  | some (u, _) => (c.unit u).retired.any (fun e => e.1 = pa / 65536 && e.2)

def Chip.retiredAny (c : Chip) (pa : Nat) : Bool :=
  match unitOf pa with
  | none => false
  | some (u, _) => (c.unit u).retired.any (fun e => e.1 = pa / 65536)

/-! ### Completion statuses (R9) -/

def stOK : Nat := 0x00
def stNumeric : Nat := 0x01
def stEscalated : Nat := 0x02
def stTranslation : Nat := 0x10
def stPermission : Nat := 0x11
def stUncorr : Nat := 0x12
def stPeer : Nat := 0x20
def stLink : Nat := 0x21
def stReplayed : Nat := 0x30
def stAborted : Nat := 0x3F

/-- How the controller answers an access. -/
inductive Acc where
  | ok
  | invalid
  | refused (unit : Nat)
deriving DecidableEq, Repr

/-- The controller's own check of one access (R162, R175, R176): not backed, reserved, refused or unpopulated is invalid;
a hard-retired frame, and every frame of a unit out of service that held data, is refused. -/
def Chip.accCheck (c : Chip) (pa : Nat) : Acc :=
  match unitOf pa with
  | none => .invalid
  | some (u, o) =>
    if (c.unit u).backed ≤ o then .invalid
    else
      let st := c.unitState u
      if st = 2 then (if (c.unit u).held then .refused u else .invalid)
      else if st ≥ 3 then .invalid
      else if c.retiredHard pa then .refused u
      else .ok

/-- The controller's answer with its effects: MEM_ADDRESS_INVALID for an address that is not performed (R162), a count for
a retired frame (R175). The result is the command's status where the access is not performed. -/
def Chip.access (c : Chip) (part pa : Nat) : Chip × Option Nat :=
  match c.accCheck pa with
  | .ok => (c, none)
  | .invalid => (c.raise 0x0507 part [(8, pa)], some stPermission)
  | .refused u => (c.bump (Obj.CNT_RETIRED_ACCESS + u), some stUncorr)

/-- The tag of the key in slot k; 0 while the slot is EMPTY (R177). -/
def Chip.keyTag (c : Chip) (k : Nat) : Nat := if c.reg (Obj.KEY_SLOT_STATE + k) = 1 then (c.part k).keyTag else 0

/-- A physical read for partition `k`, one frame wide at most; the status where it is not performed. An EMPTY key slot
ends with FAULT_PERMISSION (R178). -/
def State.readPhys (s : State) (k pa n : Nat) : State × Except Nat (List Byte) :=
  let (c, e) := s.chip.access k pa
  let s := { s with chip := c }
  match e with
  | some st => (s, .error st)
  | none => if s.chip.keyTag k = 0 then (s, .error stPermission) else (s, .ok (s.mem.bytes (s.chip.keyTag k) pa n))

/-- A physical write for partition `k`. -/
def State.writePhys (s : State) (k pa : Nat) (bs : List Byte) : State × Option Nat :=
  let (c, e) := s.chip.access k pa
  let s := { s with chip := c }
  match e with
  | some st => (s, some st)
  | none => if s.chip.keyTag k = 0 then (s, some stPermission) else (s.withMem (s.mem.write (s.chip.keyTag k) pa bs), none)

/-! ### Corrected errors (R165–R168) -/

/-- The symbol source of a corrected symbol: the group (pseudo-channel of a stack, logical rank of a channel) and the
symbol (Tables 6.3, 6.7, R163, R164). -/
def Chip.sourceOf (c : Chip) (u o : Nat) (codeword sym : Nat) : Nat × Nat :=
  if u < 16 then (2 * (Nat.xor (fld o 11 7) (fld o 20 16)) + codeword % 2, sym)
  else
    let info := c.reg (Obj.FAR_DIMM_INFO + (u - 16))
    let ranks := max 1 (fld info 19 16)
    (o / max 1 (fld info 15 0 * 2 ^ 30 / ranks) % ranks, sym)

/-- A line read with corrected symbols is counted for its unit, for its frame and for each symbol's source (R168, R172). -/
def Chip.corrected1 (c : Chip) (e : Corr) : Chip :=
  let pa := e.addr.toNat
  match unitOf pa with
  | none => c
  | some (u, o) =>
    let c := if u < 16 then c.count modInst (Obj.CNT_NEAR_CE + u) 1 else c.count modInst (Obj.CNT_FAR_CE + (u - 16)) 1
    let keys := e.syms.map (fun x => let g := c.sourceOf u o x.1.val x.2.val; g.1 * 32 + g.2)
    c.updUnit u (fun m => { m with
      ceFrames := Tbl.upd m.ceFrames 0 (pa / 65536) (· + e.syms.length),
      ceSources := keys.foldl (fun t k => Tbl.upd t 0 k (· + 1)) m.ceSources })

def Chip.corrected (c : Chip) (l : List Corr) : Chip := l.foldl Chip.corrected1 c

/-! ### Retirement (R172–R176) -/

/-- A unit goes OUT_OF_SERVICE: the event is raised and its capacity becomes 0 at the boundary (R176). -/
def Chip.outOfService (c : Chip) (u : Nat) : Chip :=
  if c.unitState u = 2 then c
  else
    let c := c.setReg (unitStateKey u) 2
    let c := c.extSet (unitBytesKey u) 0
    let c := c.calReject (if u < 16 then 42 + u else 26 + (u - 16))
    c.raise 0x0504 (c.ownerN (u % 16)) []

/-- A frame enters a unit's retired list: one entry and one event per frame and frame period; a full list takes the unit out
of service (R175, R176). `cause` is 1 SOFT, 2 HARD. -/
def Chip.retire (c : Chip) (pa : Nat) (hard : Bool) : Chip :=
  match unitOf pa with
  | none => c
  | some (u, _) =>
    let fr := pa / 65536
    let mu := c.unit u
    let listed := mu.retired.any (fun e => e.1 = fr)
    if listed then
      -- a second retirement makes no second entry; a hard one makes the entry hard
      c.updUnit u (fun x => { x with retired := x.retired.map (fun e => if e.1 = fr then (fr, e.2 || hard) else e) })
    else if mu.retired.length ≥ 1024 then (if hard then c.outOfService u else c)
    else
      let n := mu.retired.length + 1
      let c := c.updUnit u (fun x => { x with retired := x.retired ++ [(fr, hard)] })
      let rk := if u < 16 then Obj.NEAR_RETIRED + u else Obj.FAR_RETIRED + (u - 16)
      let c := c.setReg rk n
      let own := c.ownerN (u % 16)
      let soon := c.extSoon (unitBytesKey u)
      let c := c.extSet (unitBytesKey u) (soon - 65536)
      let c := c.raise 0x0502 own [(1, if hard then 2 else 1)]
      if n = c.reg Obj.RETIRE_WARN then c.raise 0x0509 own [] else c

/-- An uncorrectable line is found: the event once, the epoch's count, hard retirement, and the unit out of service beyond
UE_EPOCH_LIMIT (R173, R174, R176). The tier is 1 near, 2 far; `src` is the row of Table 6.4, from 1. -/
def Chip.uncorrLine (c : Chip) (pa mask src part ctx va : Nat) : Chip :=
  match unitOf pa with
  | none => c
  | some (u, _) =>
    let line := pa / 128
    let c := if u < 16 then c.bump (Obj.CNT_NEAR_UE + u) else c.bump (Obj.CNT_FAR_UE + (u - 16))
    let c :=
      if (c.unit u).ueLines.contains line then c
      else
        let c := c.updUnit u (fun x => { x with ueLines := x.ueLines ++ [line], ueEpoch := x.ueEpoch + 1 })
        c.raise 0x0501 part [(1, 1 + u / 16), (1, u % 16), (8, line * 128), (1, mask), (1, src), (1, part), (1, ctx), (8, va)]
    let c := c.retire pa true
    if (c.unit u).ueEpoch > c.reg Obj.UE_EPOCH_LIMIT then c.outOfService u else c

end Sys2Proof.Machine
end

