-- ==== Sys2Proof/Machine/Queues.lean ====
section
/-! DEFINITION. The commands of a queue: their fields, ending and halting, and giving work to Spurs and DMA engines
(R71, R91–R93, R98, R99, R127, R133, R198, R200). -/
namespace Sys2Proof.Machine

/-! ### Opcodes (R8) -/

def opMM : Nat := 0x01
def opMMAcc : Nat := 0x02
def opVec : Nat := 0x08
def opMove : Nat := 0x10
def opGather : Nat := 0x11
def opScatter : Nat := 0x12
def opConvert : Nat := 0x18
def opSend : Nat := 0x20
def opRecv : Nat := 0x21
def opReduce : Nat := 0x22
def opWait : Nat := 0x30
def opSignal : Nat := 0x31
def opFence : Nat := 0x32
def opStep : Nat := 0x38
def opWatch : Nat := 0x39

def opOk (o : Nat) : Bool := [1, 2, 8, 0x10, 0x11, 0x12, 0x18, 0x20, 0x21, 0x22, 0x30, 0x31, 0x32, 0x38, 0x39].contains o

/-- Commands whose units run on Spurs. -/
def opSpur (o : Nat) : Bool := o = 1 || o = 2 || o = 8 || o = 0x18

/-- Commands whose units run on DMA engines from their start. -/
def opDma (o : Nat) : Bool := o = 0x10 || o = 0x11 || o = 0x12

def opFabric (o : Nat) : Bool := o = 0x20 || o = 0x21 || o = 0x22

/-- Commands that hold back every later command of the queue until they complete (R99). -/
def opHolds (o : Nat) : Bool := o = 0x30 || o = 0x32 || o = 0x39

/-- Commands that begin once every earlier command of the queue has finished: FENCE and WATCH (R122, R124). -/
def opFences (o : Nat) : Bool := o = 0x32 || o = 0x39

/-! ### Descriptor header (R95) -/

def Cmd.field (c : Cmd) (o n : Nat) : Nat := leAt c.desc o n

def Cmd.waitPrev (c : Cmd) : Bool := bitAt (c.field 0 8) 8
def Cmd.notify (c : Cmd) : Bool := bitAt (c.field 0 8) 9
def Cmd.contOnFail (c : Cmd) : Bool := bitAt (c.field 0 8) 10
def Cmd.sliceOf (c : Cmd) (u : Nat) : Nat := u / c.perSlice
def Cmd.nSlices (c : Cmd) : Nat := max 1 (ceilDiv c.units c.perSlice)

/-- Every unit of slice `i` has finished. -/
def Cmd.sliceDone (c : Cmd) (i : Nat) : Bool :=
  c.finished || (List.range c.perSlice).all (fun j => c.units ≤ i * c.perSlice + j || c.done.contains (i * c.perSlice + j))

/-- Status classes that count as a failure (R11). -/
def failStatus (st : Nat) : Bool := [0x10, 0x11, 0x12, 0x20, 0x21, 0x3F].contains st

/-- The status of a record: the first that applies in the order of R10. -/
def Cmd.outcome (c : Cmd) : Nat :=
  let has := fun x => c.status.contains x
  if has stAborted then stAborted
  else if has stUncorr then stUncorr
  else if has stPermission then stPermission
  else if has stTranslation then stTranslation
  else if has stLink then stLink
  else if has stPeer then stPeer
  else if bitAt c.flags 4 then stEscalated
  else if bitAt c.flags 0 || bitAt c.flags 1 then stNumeric
  else if c.replayed then stReplayed
  else stOK

/-! ### Finding and changing commands -/

def Queue.cmd (x : Queue) (count : Nat) : Option Cmd := x.cmds.find? (fun c => c.count = count)

def Queue.updCmd (x : Queue) (count : Nat) (f : Cmd → Cmd) : Queue :=
  { x with cmds := x.cmds.map (fun c => if c.count = count then f c else c) }

def Chip.cmd (c : Chip) (n q count : Nat) : Option Cmd := (c.queue n q).cmd count

def Chip.updCmd (c : Chip) (n q count : Nat) (f : Cmd → Cmd) : Chip := c.updQueue n q (fun x => x.updCmd count f)

/-! ### Fetching and records (R89, R91, R126) -/

/-- The descriptor to fetch next: one dropped by a rewind or by the halt that named it, else, in a running queue, the next
one of the producer count, at most 16 ahead of the oldest that is not complete (R89, R94, R147). -/
def Queue.toFetch (x : Queue) : Option Nat :=
  match x.st with
  | .running | .halted =>
    match x.cmds.find? (fun k => (k.desc.isEmpty || k.stale) && (x.st = .running || x.replayOnly.contains k.count)) with
    | some k => some k.count
    | none =>
      let oldest := match x.cmds.find? (fun k => !k.finished) with
        | some k => k.count
        | none => x.nextFetch
      if x.st != .running || dist32 x.accepted x.nextFetch = 0 || dist32 x.nextFetch oldest > 16 then none
      else some x.nextFetch
  | _ => none

/-- QCONSUMED passes descriptors whose record is written and descriptors that were skipped (R91). -/
def Queue.advance : Nat → Queue → Queue
  | 0, x => x
  | f + 1, x =>
    if x.recorded.contains x.consumed || x.skipped.contains x.consumed then
      Queue.advance f { x with recorded := x.recorded.filter (· != x.consumed), skipped := x.skipped.filter (· != x.consumed),
                               consumed := inc32 x.consumed }
    else x

/-- The record of a command has been written, or is passed over: the command leaves the queue (R91, R126). -/
def Queue.passRecord (x : Queue) (k : Nat) : Queue :=
  let x := { x with records := x.records.filter (· != k), fin := x.fin.filter (· != k), recordWait := false,
                    cmds := x.cmds.filter (fun c => c.count != k), recorded := x.recorded ++ [k] }
  Queue.advance (x.recorded.length + x.skipped.length) x

/-! ### Halting (R93) and ending (R10, R127, R201) -/

/-- The queue halts: the reason is recorded, and QUEUE_HALTED carries Ridge, queue, count and reason. A queue that is
rewinding comes back HALTED. -/
def Chip.halt (c : Chip) (n q reason count : Nat) : Chip :=
  let x := c.queue n q
  let say := fun (c : Chip) => c.raise 0x0430 (c.ownerN n) [(1, n), (1, q), (4, count), (1, reason)]
  match x.st with
  | .running => say (c.setQueue n q { x with st := .halted, halt := reason, haltCount := count, resume := .halted })
  | .rewinding => say (c.setQueue n q { x with halt := reason, haltCount := count, resume := .halted })
  | _ => c

/-- The units of a command leave the Spurs and the record slots of their Ridge. -/
def Chip.dropUnits (c : Chip) (n q count : Nat) : Chip :=
  c.updRidge n (fun r => { r with
    spurs := r.spurs.map (fun p => (p.1, match p.2.unit with
      | some u => if u.queue = q && u.count = count then { p.2 with unit := none } else p.2
      | none => p.2)),
    dma := r.dma.filter (fun p => !(p.2.queue = q && p.2.count = count)) })

/-- Waiters of a command leave every pending fault. -/
def Chip.dropWaiters (c : Chip) (keep : Waiter → Bool) : Chip :=
  { c with
    pend := c.pend.map (fun p => { p with waiters := p.waiters.filter keep }),
    pendWait := c.pendWait.filter (fun p => keep p.2),
    hosts := c.hosts.map (fun h => { h with waiters := h.waiters.filter keep }) }

/-- Slices issued and not finished. -/
def Cmd.openSlices (k : Cmd) : List Nat := (k.issued.map (·.1)).filter (fun i => !k.sliceDone i)

/-- Commands that have newly finished enter the completion order; one that failed without CONTINUE_ON_FAIL keeps later
commands from starting (R125, R127). -/
def Queue.settle (x : Queue) : Queue :=
  let new := (x.cmds.filter (fun k => k.finished && !x.fin.contains k.count)).map (·.count)
  let bad := x.cmds.find? (fun k => k.finished && failStatus k.outcome && !k.contOnFail)
  match bad with
  | some k => { x with fin := x.fin ++ new, failing := true, failCount := if x.failing then x.failCount else k.count }
  | none => { x with fin := x.fin ++ new }

/-- Whether a waiter is no unit of a command; `slots` are the record slots of its DMA units. -/
def Waiter.notOf (n q count : Nat) (slots : Tbl DmaUnit) : Waiter → Bool
  | .tile r q' k _ => !(r = n && q' = q && k = count)
  | .prog r q' k _ => !(r = n && q' = q && k = count)
  | .dma r s => !(r = n && slots.any (fun p => p.1 = s))
  | _ => true

/-- A command ends with a status: no further unit of it is given, and its writes so far stand (R201). -/
def Chip.endCmd (c : Chip) (n q count st : Nat) : Chip :=
  let slots := (c.ridge n).dma.filter (fun p => p.2.queue = q && p.2.count = count)
  let c := c.dropWaiters (Waiter.notOf n q count slots)
  let c := c.dropUnits n q count
  let c := c.updCmd n q count (fun k => { k with
    status := if st = stOK then k.status else k.status ++ [st], finished := true, started := true, again := [],
    slices := min 65535 (k.slices + k.openSlices.length), nextUnit := k.units,
    cycles := if k.begun then (c.ridge n).cycles - k.startCycle else k.cycles })
  c.updQueue n q Queue.settle

/-- A command refused or unreadable at its first slice goes back to a descriptor to fetch: none of its units was issued
(R93, R205). -/
def Chip.unissue (c : Chip) (n q count : Nat) : Chip :=
  let c := c.dropWaiters (Waiter.notOf n q count [])
  let c := c.dropUnits n q count
  c.updCmd n q count (fun k => { k with
    desc := [], started := false, begun := false, cfgRead := false, nextUnit := 0, again := [], issued := [], done := [],
    progRead := false, prog := [] })

/-- The numeric exception of a command is raised once, when its record is due (R48). -/
def Chip.numericEvent (c : Chip) (n : Nat) (k : Cmd) : Chip :=
  if bitAt k.flags 0 || bitAt k.flags 1 then c.raise 0x0411 (c.ownerN n) [] else c

/-- A unit of a command finishes. -/
def Chip.unitDone (c : Chip) (n q count unit : Nat) : Chip :=
  let own := c.ownerN n
  match c.cmd n q count with
  | none => c
  | some k =>
    let k := { k with done := if k.done.contains unit then k.done else k.done ++ [unit] }
    let sl := k.sliceOf unit
    let full := k.sliceDone sl
    let again := full && k.ran.contains sl
    -- each execution of a slice that ends is tallied; a repeated one is counted and marks the command (R143, R149)
    let k := if full then { k with slices := min 65535 (k.slices + 1), replayed := k.replayed || again } else k
    let fin := k.done.length = k.units
    let k := { k with finished := k.finished || fin, cycles := (c.ridge n).cycles - k.startCycle }
    let c := (c.updCmd n q count (fun _ => k)).updQueue n q Queue.settle
    if again then c.countPart own Obj.CNT_REPLAYED_SLICES 1 else c

/-! ### Starting commands (R99) -/

/-- Whether the command may start: its queue runs, or replays only commands that had started before a halt; every earlier
command of the queue has started; none of them holds it back; and WAIT_PREV, FENCE and WATCH find them all finished. -/
def Queue.mayStart (x : Queue) (k : Cmd) : Bool :=
  let before := x.cmds.takeWhile (fun e => e.count != k.count)
  let live := match x.st with
    | .running => ((!x.disabling && !x.failing) || k.cfgRead) && !x.held
    | .halted => x.replayOnly.contains k.count && !x.held
    | _ => false
  live && !k.started && !k.desc.isEmpty && !k.stale && before.all (fun e => e.started) && before.all (fun e => !(opHolds e.op) || e.finished)
    && (!(k.waitPrev || opFences k.op) || before.all (fun e => e.finished))

/-- The numeric settings of a command, the defaults read when its first slice starts (R57, R100). -/
def Chip.numCfg (c : Chip) (k : Nat) (w : Nat) : NumCfg :=
  let head := fun (hi : Nat) =>
    let v := fld w hi (hi - 2)
    if v = 7 then toSigned 32 (c.get k Obj.NUM_HEADROOM) else (v : Int) - 1
  let outl := fun (hi : Nat) => let v := fld w hi (hi - 1); if v = 3 then c.get k Obj.NUM_OUTLIER_EN = 1 else v = 1
  let rnd := fld w 37 35
  let shd := fld w 39 38
  let itv := fld w 50 40
  let pol := fld w 53 51
  { headA := head 22, headB := head 25, headD := head 28, outlA := outl 30, outlB := outl 32, outlD := outl 34,
    round := if rnd = 7 then c.get k Obj.NUM_ROUNDING else rnd,
    shadow := if shd = 3 then c.get k Obj.SHADOW_EN = 1 else shd = 1,
    interval := if itv = 0 then c.get k Obj.SHADOW_INTERVAL else itv,
    policy := if pol = 7 then c.get k Obj.SHADOW_POLICY else pol,
    threshold := BitVec.ofNat 32 (c.get k Obj.SHADOW_THRESHOLD),
    runLimit := c.get k Obj.SHADOW_RUN }

/-- Whether operand A or B is promoted by the Ridge's table (R55). -/
def Ridge.promoted (r : Ridge) (ctx addr : Nat) (isB : Bool) : Bool :=
  let sp := fld addr 63 62
  let base := addr % 2 ^ 48
  r.promo.any (fun p => p.ctx = ctx && p.space = sp && p.base = base && p.isB == isB)

/-- A command starts: its configuration is read (R57), and the promotion table is looked up for its operands (R55). -/
def Chip.startCmd (c : Chip) (n q : Nat) (k : Cmd) : Chip :=
  let own := c.ownerN n
  let ctx := c.qctx n q
  let r := c.ridge n
  let mm := k.op = opMM || k.op = opMMAcc
  let a := k.field 0x10 8
  let b := k.field 0x18 8
  let pA := mm && (r.promoted ctx a false || r.promoted ctx a true)
  let pB := mm && (r.promoted ctx b false || r.promoted ctx b true)
  c.updCmd n q k.count (fun k => { k with
    started := true,
    cfg := if k.cfgRead then k.cfg else c.numCfg own (k.field 8 8),
    cfgRead := true,
    afterMM := if k.cfgRead then k.afterMM else (c.queue n q).mmSince && !k.waitPrev,
    promoFrom := if pA || pB then 0 else k.promoFrom,
    promoA := k.promoA || pA, promoB := k.promoB || pB })
  |>.updQueue n q (fun x => { x with mmSince := mm || (x.mmSince && !(k.waitPrev || k.op = opFence || k.op = opWatch)) })

/-- The Spur and DMA commands of a queue that may start do, in descriptor order. -/
def Chip.startQueue (n q : Nat) : Nat → Chip → Chip
  | 0, c => c
  | f + 1, c =>
    let x := c.queue n q
    match x.cmds.find? (fun k => !k.started) with
    | none => c
    | some k => if (opSpur k.op || opDma k.op) && x.mayStart k then startQueue n q f (c.startCmd n q k) else c

/-! ### Giving units (R71, R72, R98, R133, R136, R198, R200) -/

/-- The next unit a command has to give: units to give again first, then ascending. A held queue gives only units of
slices already issued. A later slice of a command waits while a unit of it is parked on a fault (R204). -/
def Cmd.nextGive (k : Cmd) (held parked : Bool) : Option Nat :=
  if !k.started || k.finished then none
  else match k.again with
    | u :: _ => some u
    | [] =>
      if k.nextUnit ≥ k.units || parked then none
      else if held && k.nextUnit % k.perSlice = 0 then none
      else some k.nextUnit

/-! ### Command trace (R436–R438) -/

/-- Kinds of Table 19.3. -/
def trBegin : Nat := 1
def trEnd : Nat := 2
def trSuspend : Nat := 3
def trResume : Nat := 4
def trSegTx : Nat := 5
def trSegRx : Nat := 6
def trStep : Nat := 7
def trRewind : Nat := 8
def trAbandon : Nat := 9
def trLost : Nat := 10

/-- The fields of a trace record that its event gives; the rest comes from its command and its place. -/
structure TraceRec where
  kind : Nat
  bit : Nat
  seq : Nat := 0
  tid : Nat := 0
  index : Nat := 0
  tag : Nat := 0
  op : Nat := 0
  unit : Nat := 2 * 64
  again : Bool := false
  aux : Nat := 0
deriving DecidableEq, Repr

/-- The 32 bytes of a record (Table 19.3). -/
def TraceRec.bytes (t : TraceRec) (stamp n q : Nat) : List Byte :=
  leBytes 8 stamp ++ leBytes 4 t.seq ++ leBytes 4 t.tid ++ leBytes 2 t.index ++ leBytes 2 t.tag ++ leBytes 1 t.kind ++
  leBytes 1 t.op ++ leBytes 1 t.unit ++ leBytes 1 (n + 16 * q + (if t.again then 128 else 0)) ++ leBytes 8 t.aux

/-- Bytes free in Ridge n's ring of its partition's trace area, those still buffered counted as taken. -/
def Chip.traceFree (c : Chip) (n : Nat) : Nat :=
  let k := c.ownerN n
  let used := (c.reg (Obj.TRACE_PRODUCER + n) + 2 ^ 64 - c.reg (Obj.TRACE_CONSUMER + n)) % 2 ^ 64 + 32 * (c.ridge n).traceBuf.length
  c.get k Obj.TRACE_BYTES / 16 - used

/-- A record enters the Ridge's buffer of 8 KiB, or is dropped and counted; the first record after drops is LOST (R438). -/
def Chip.trace (c : Chip) (n q : Nat) (t : TraceRec) : Chip :=
  let k := c.ownerN n
  if k ≥ 8 || !bitAt (c.part k).traceEn t.bit then c
  else
    let room := fun (c : Chip) => decide ((c.ridge n).traceBuf.length < 256) && decide (c.traceFree n ≥ 32)
    let push := fun (c : Chip) (t : TraceRec) => c.updRidge n (fun r => { r with traceBuf := r.traceBuf ++ [t.bytes (c.stampAt n) n q] })
    let lost := (c.ridge n).traceLost
    let c := if lost > 0 && room c then
      (push c { kind := trLost, bit := t.bit, aux := lost }).updRidge n (fun r => { r with traceLost := 0 }) else c
    if room c then push c t
    else (c.countPart k Obj.CNT_TRACE_DROPPED 1).updRidge n (fun r => { r with traceLost := r.traceLost + 1 })

/-- A record about a slice of a command on a Spur (`unit` the position) or an engine (64 + its number). -/
def Cmd.trec (k : Cmd) (kind bit slice unit aux : Nat) : TraceRec :=
  { kind := kind, bit := bit, seq := k.count, index := slice, tag := fld (k.field 0 8) 47 32, op := k.op, unit := unit,
    again := k.ran.contains slice, aux := aux }

/-- The END of a part, with the Ridge cycles it took. -/
def Chip.endPart (c : Chip) (n bit unit : Nat) (p : TracePart) : Chip :=
  match c.cmd n p.queue p.count with
  | some k => c.trace n p.queue (k.trec trEnd bit p.slice unit ((c.ridge n).cycles - p.start))
  | none => c

/-- A Spur or engine takes a unit of a slice: its part before ends, and a new one begins, unless it is the same slice. -/
def Chip.takePart (c : Chip) (n bit unit : Nat) (old : Option TracePart) (q : Nat) (k : Cmd) (slice : Nat) : Chip × TracePart :=
  let p : TracePart := ⟨q, k.count, slice, (c.ridge n).cycles⟩
  match old with
  | some o =>
    if o.queue = q && o.count = k.count && o.slice = slice then (c, o)
    else ((c.endPart n bit unit o).trace n q (k.trec trBegin bit slice unit 0), p)
  | none => (c.trace n q (k.trec trBegin bit slice unit 0), p)

/-- A Spur without a further unit of its slice ends its part. -/
def Chip.idleSpur (c : Chip) (n p : Nat) : Chip :=
  match (c.spur n p).unit, (c.spur n p).part with
  | none, some o => (c.endPart n 0 p o).updSpur n p (fun x => { x with part := none })
  | _, _ => c

/-- An engine without a unit ends its part. -/
def Chip.idleEngine (c : Chip) (n e : Nat) : Chip :=
  if (c.ridge n).dma.any (fun d => d.2.engine = some e) then c
  else match Tbl.find (c.ridge n).engParts e with
  | some o => (c.endPart n 1 (64 + e) o).updRidge n (fun r => { r with engParts := Tbl.del r.engParts e })
  | none => c

/-- A unit of the command is given out: a slice whose first unit is given is issued in the current frame (R133, R135). -/
def Cmd.give (k : Cmd) (u frame cyc : Nat) : Cmd :=
  let sl := k.sliceOf u
  let k := if k.begun then k else { k with begun := true, startCycle := cyc }
  let k := if k.again.head? = some u then { k with again := k.again.drop 1 } else { k with nextUnit := u + 1 }
  if k.issued.any (fun p => p.1 = sl) then k else { k with issued := k.issued ++ [(sl, frame)] }

/-- A unit of a command of queue q is given out; the first unit of a command resets the queue's activity sample (R429). -/
def Chip.giveUnit (c : Chip) (n q count u : Nat) : Chip :=
  let first := match c.cmd n q count with
    | some k => !k.begun
    | none => false
  let c := if first then c.updQueue n q (fun x => { x with act := { seq := count } }) else c
  c.updCmd n q count (fun k => k.give u c.frame (c.ridge n).cycles)

/-- Whether some unit of a command waits parked on a fault. -/
def Chip.hasParked (c : Chip) (n q count : Nat) : Bool :=
  let is := fun (w : Waiter) => match w with
    | .tile r q' k _ => r = n && q' = q && k = count
    | .prog r q' k _ => r = n && q' = q && k = count
    | _ => false
  c.pend.any (fun p => p.waiters.any is) || c.pendWait.any (fun p => is p.2) || c.hosts.any (fun h => h.waiters.any is)

/-- Whether a queue may give units at all. -/
def Queue.gives (x : Queue) : Bool := x.st = .running || x.st = .halted

/-- The unit that queue q would give next among commands for which `ok` holds of the opcode. Fabric units are given once
clear to send has passed (R114). -/
def Chip.offer (c : Chip) (n q : Nat) (ok : Nat → Bool) : Option (Nat × Nat) :=
  let x := c.queue n q
  if !x.gives then none
  else x.cmds.findSome? (fun k =>
    if ok k.op && (!opFabric k.op || k.cts) then (k.nextGive x.held (c.hasParked n q k.count)).map (fun u => (k.count, u)) else none)

/-- The queue served next: the highest priority among those with an offer, equal priorities taking turns by queue number
(R71). -/
def Chip.pickQueue (c : Chip) (n turn : Nat) (offers : Nat → Bool) : Option Nat :=
  let order := (List.range 8).map (fun i => (turn + i) % 8)
  let live := order.filter offers
  let best := live.foldl (fun m q => max m (c.queue n q).prio) 0
  live.find? (fun q => (c.queue n q).prio = best)

/-- Spurs that may take a unit, in logical order: active, free, and not of a Ridge under remap (R72, R80). -/
def Chip.freeSpurs (c : Chip) (n : Nat) : List Nat :=
  let r := c.ridge n
  if r.remap.isSome || c.retired n then []
  else (setBits 17 (c.spurMap n)).filter (fun p => (r.spur p).unit.isNone)

/-- Units go to free Spurs, the lowest logical number first. -/
def Chip.giveSpurs (n : Nat) : Nat → Chip → Chip
  | 0, c => c
  | f + 1, c =>
    match c.freeSpurs n with
    | [] => c
    | p :: _ =>
      match c.pickQueue n (c.ridge n).turnSpur (fun q => (c.offer n q opSpur).isSome) with
      | none => c
      | some q =>
        match c.offer n q opSpur with
        | none => c
        | some (count, u) =>
          let c := c.giveUnit n q count u
          let k := (c.cmd n q count).getD {}
          let (c, part) := c.takePart n 0 p (c.spur n p).part q k (k.sliceOf u)
          let c := c.updSpur n p (fun x => { x with unit := some { queue := q, count := count, unit := u }, part := some part })
          giveSpurs n f (c.updRidge n (fun r => { r with turnSpur := (q + 1) % 8 }))

/-- The form of a command's DMA units (Table 7.6). -/
def dmaForm (op : Nat) : DmaForm :=
  if op = opMove then .linear else if op = opGather then .indexedRead else if op = opScatter then .indexedWrite
  else if op = opSend then .fabricOut else if op = opWatch then .watchCopy else .fabricIn

/-- Bytes of a row of the stream of a DMA command, and how many units of at most 64 KiB it makes (Table 4.6). -/
def Cmd.dmaRowsPerUnit (k : Cmd) : Nat := max 1 (65536 / max 1 (k.field 0x28 4))

/-- Lines of unit `u` (R197): a MOVE, fabric or watch unit covers 512 lines of the stream, a GATHER or SCATTER unit whole
rows. -/
def Cmd.unitLines (k : Cmd) (u : Nat) : Nat :=
  let rb := k.field 0x28 4
  if k.op = opMove then min 512 (rb * k.field 0x2C 4 / 128 - 512 * u)
  else if k.op = opGather || k.op = opScatter then
    let rows := min k.dmaRowsPerUnit (k.field 0x2C 4 - u * k.dmaRowsPerUnit)
    rows * rb / 128
  else if k.op = opWatch then min 512 (ceilDiv (k.field 0x18 4) 128 - 512 * u)
  else min 512 (k.field 0x20 4 / 128 - 512 * u)

/-- The free engine with the lowest number. -/
def Ridge.freeEngine (r : Ridge) : Option Nat := (List.range 4).find? (fun e => !r.dma.any (fun d => d.2.engine = some e))

/-- The free record slot with the lowest number. -/
def Ridge.freeSlot (r : Ridge) : Option Nat := (List.range 32).find? (fun i => !r.dma.any (fun d => d.1 = i))

/-- Commands whose units engines take: the copies, SEND once clear to send has come, and WATCH. -/
def opEngine (o : Nat) : Bool := opDma o || o = opSend || o = opWatch

/-- A ready stopped unit of queue q: it resumes ahead of the queue's new units (R200). -/
def Chip.readySlot (c : Chip) (n q : Nat) : Option Nat :=
  if (c.queue n q).held then none
  else ((c.ridge n).dma.find? (fun d => d.2.queue = q && d.2.st = .parked && d.2.engine.isNone)).map (·.1)

/-- DMA units go to free engines: resumed units first in their queue, then new ones that find a record slot (R198, R200). -/
def Chip.giveEngines (n : Nat) : Nat → Chip → Chip
  | 0, c => c
  | f + 1, c =>
    let r := c.ridge n
    if c.retired n then c
    else match r.freeEngine with
    | none => c
    | some e =>
      let wants := fun q => (c.readySlot n q).isSome || (r.freeSlot.isSome && (c.offer n q opEngine).isSome)
      match c.pickQueue n r.turnDma wants with
      | none => c
      | some q =>
        let turn := fun (c : Chip) => c.updRidge n (fun r => { r with turnDma := (q + 1) % 8 })
        match c.readySlot n q with
        | some i =>
          giveEngines n f (turn (c.updRidge n (fun r => { r with
            dma := Tbl.upd r.dma {} i (fun d => { d with st := .running, engine := some e }) })))
        | none =>
          match r.freeSlot, c.offer n q opEngine with
          | some i, some (count, u) =>
            let k := (c.cmd n q count).getD {}
            let c := c.giveUnit n q count u
            let (c, part) := c.takePart n 1 (64 + e) (Tbl.find (c.ridge n).engParts e) q k (k.sliceOf u)
            let c := c.updRidge n (fun r => { r with engParts := Tbl.put r.engParts e part })
            let d : DmaUnit := { queue := q, count := count, unit := u, form := dmaForm k.op, st := .running,
                                 lines := k.unitLines u, engine := some e }
            giveEngines n f (turn (c.updRidge n (fun r => { r with dma := Tbl.put r.dma i d })))
          | _, _ => c

/-- The Ridge sequencer's issue: commands start and units are given out until no more can be (R71, R99, R198). -/
def Chip.dispatch (c : Chip) (n : Nat) : Chip :=
  let c := forQueues (fun c q => c.startQueue n q 16) c
  c.giveSpurs n 17 |>.giveEngines n 4

end Sys2Proof.Machine
end

