-- ==== Sys2Proof/Machine/Translate.lean ====
section
/-! DEFINITION. Address translation and its faults: the walk, the caches, the pending table, the steward's records and the
host's answers (R184–R217). -/
namespace Sys2Proof.Machine

/-! ### Entries (R185–R190) -/

/-- Index of a virtual address at a level (Table 7.1). -/
def vaIdx (level va : Nat) : Nat :=
  match level with
  | 1 => fld va 47 39
  | 2 => fld va 38 30
  | 3 => fld va 29 21
  | _ => fld va 20 16

/-- Bytes that a leaf maps at a level. -/
def pageBytes (level : Nat) : Nat :=
  match level with
  | 2 => 2 ^ 30
  | 3 => 2 ^ 21
  | _ => 2 ^ 16

/-- Bytes of a table of a level (R186). -/
def tableBytes (level : Nat) : Nat := if level = 4 then 256 else 4096

def npKind (e : Nat) : Nat := fld e 11 10

def inFar (pa : Nat) : Bool := decide (farBase ≤ pa) && decide (pa < 0x50000000000)

/-- PA field of an entry, as an address. -/
def entryPA (e : Nat) : Nat := fld e 51 16 * 65536

/-- Malformed entries (R190). -/
def malformed (e level : Nat) : Bool :=
  let v := bitAt e 0
  let r := bitAt e 1
  let w := bitAt e 2
  if level = 1 && !v then e != 0
  else if level = 1 && (r || w) then true
  else if v && !r && w then true
  else if v && !r then fld e 63 52 != 0 || fld e 11 3 != 0 || level = 4
  else if v then fld e 63 52 != 0 || fld e 15 10 != 0 || entryPA e % pageBytes level != 0
  else
    fld e 63 52 != 0 || fld e 15 14 != 0 || fld e 7 6 != 0 || fld e 2 1 != 0 ||
    ((npKind e = 1 || npKind e = 2) && !bitAt e 12) || (npKind e = 2 && !inFar (entryPA e))

/-! ### Reasons of Table 7.8 -/

def rsSteward : Nat := 0x01
def rsHost : Nat := 0x02
def rsBusy : Nat := 0x03
def rsPool : Nat := 0x04
def rsLarge : Nat := 0x05
def rsMalformed : Nat := 0x08
def rsNoRoot : Nat := 0x09
def rsReadOnly : Nat := 0x10
def rsKey : Nat := 0x11
def rsNotOwned : Nat := 0x12
def rsUncorr : Nat := 0x18

/-- The status of a command that a reason ends (Table 7.8). -/
def reasonStatus (r : Nat) : Nat :=
  if r = rsUncorr then stUncorr else if r ≥ 0x10 then stPermission else stTranslation

/-- Reasons that no one resolves. -/
def fatal (r : Nat) : Bool := decide (r ≥ 0x08)

/-! ### Caches (R193) -/

/-- The cached leaf that translates an address. -/
def Ridge.lookup (r : Ridge) (part ctx va : Nat) : Option TlbEnt :=
  r.tlb.find? (fun e => e.part = part && e.ctx = ctx && va / pageBytes e.level = e.va / pageBytes e.level)

/-- The page cache holds 4,096 leaves of 64 KiB and 2 MiB, the large-page cache 64 leaves of 1 GiB, the walk cache 512
pointers; the oldest entry leaves a full cache. -/
def Ridge.cacheLeaf (r : Ridge) (e : TlbEnt) : Ridge :=
  let rest := r.tlb.filter (fun x => !(x.part = e.part && x.ctx = e.ctx && x.level = e.level && x.va / pageBytes x.level = e.va / pageBytes e.level))
  let large := rest.filter (fun x => x.level = 2)
  let small := rest.filter (fun x => x.level != 2)
  { r with tlb := if e.level = 2 then small ++ (large.drop (large.length - 63) ++ [e]) else large ++ (small.drop (small.length - 4095) ++ [e]) }

def Ridge.cachePtr (r : Ridge) (e : PtrEnt) : Ridge :=
  { r with ptrs := r.ptrs.drop (r.ptrs.length - 511) ++ [e] }

/-- Cached entries that `p` names are dropped. -/
def Ridge.dropTlb (r : Ridge) (leaf : TlbEnt → Bool) (ptr : PtrEnt → Bool) : Ridge :=
  { r with tlb := r.tlb.filter (fun e => !leaf e), ptrs := r.ptrs.filter (fun e => !ptr e) }

/-- Drop on every Ridge of a partition. -/
def Chip.dropTlb (c : Chip) (part : Nat) (leaf : TlbEnt → Bool) (ptr : PtrEnt → Bool) : Chip :=
  (c.ridgeList part).foldl (fun c n => c.updRidge n (fun r => r.dropTlb
    (fun e => e.part = part && leaf e) (fun e => e.part = part && ptr e))) c

/-! ### The walk (R191, R192) -/

/-- Levels 4−fuel+1 … 4 of the walk from a table. -/
def State.walkFrom (n part ctx va : Nat) (write : Bool) : Nat → Nat → State → State × Except FaultInfo Nat
  | 0, _, s => (s, .error { part := part, ctx := ctx, va := va, write := write, reason := rsMalformed, ridge := n })
  | fuel + 1, table, s =>
    let level := 4 - fuel
    let fault := fun (reason entry value : Nat) =>
      (Except.error { part := part, ctx := ctx, va := va, write := write, reason := reason, entry := entry, value := value,
                      level := level, ridge := n } : Except FaultInfo Nat)
    let ea := table + 8 * vaIdx level va
    if !s.chip.owned part table (tableBytes level) then (s, fault rsNotOwned ea 0)
    else
      let known := (s.chip.ridge n).ptrs.find? (fun p => p.part = part && p.ctx = ctx && p.entryPA = ea)
      match known with
      | some p => State.walkFrom n part ctx va write fuel p.next s
      | none =>
        let s := s.on (fun c => c.count modInst (Obj.CNT_WALK_READS + n) 1)
        match s.chip.accCheck ea with
        | .invalid => (s, fault rsNotOwned ea 0)
        | .refused u => (s.on (fun c => c.bump (Obj.CNT_RETIRED_ACCESS + u)), fault rsUncorr ea 0)
        | .ok =>
          let tag := s.chip.keyTag part
          let e := leNat (s.mem.bytes tag ea 8)
          if malformed e level then (s, fault rsMalformed ea e)
          else if !bitAt e 0 then
            let kind := npKind e
            let reason :=
              if level = 1 || kind = 0 then rsHost
              else if kind = 3 then rsBusy
              else if level = 2 then rsLarge else rsSteward
            (s, fault reason ea e)
          else if !bitAt e 1 then
            let next := fld e 51 12 * 4096
            let s := s.on (fun c => c.updRidge n (fun r => r.cachePtr ⟨part, ctx, ea, next⟩))
            State.walkFrom n part ctx va write fuel next s
          else if fld e 5 3 != part then (s, fault rsKey ea e)
          else if !s.chip.owned part (entryPA e) (pageBytes level) then (s, fault rsNotOwned ea e)
          else if write && !bitAt e 2 then (s, fault rsReadOnly ea e)
          else
            let e' := putBit e 6 true
            let e' := if write then putBit e' 7 true else e'
            let s := if e' = e then s else s.withMem (s.mem.write tag ea (leBytes 8 e'))
            let ent : TlbEnt := { part := part, ctx := ctx, va := va / pageBytes level * pageBytes level, level := level,
                                  pa := entryPA e, w := bitAt e 2, d := bitAt e' 7 }
            let s := s.on (fun c => c.updRidge n (fun r => r.cacheLeaf ent))
            (s, .ok (entryPA e + va % pageBytes level))

/-- A walk from the context's root (R184, R191). -/
def State.walk (s : State) (n part ctx va : Nat) (write : Bool) : State × Except FaultInfo Nat :=
  let root := s.chip.get part (Obj.CTX_ROOT + ctx)
  if root = 0 then (s, .error { part := part, ctx := ctx, va := va, write := write, reason := rsNoRoot, level := 1, ridge := n })
  else State.walkFrom n part ctx va write 4 root s

/-- Translation of one address: from the caches, where a leaf that is not dirty serves reads only, else by a walk (R193). -/
def State.translate (s : State) (n part ctx va : Nat) (write : Bool) : State × Except FaultInfo Nat :=
  match (s.chip.ridge n).lookup part ctx va with
  | some e => if write && !(e.w && e.d) then s.walk n part ctx va write else (s, .ok (e.pa + va % pageBytes e.level))
  | none =>
    let s := s.on (fun c => c.count modInst (Obj.CNT_TLB_MISS + n) 1)
    s.walk n part ctx va write

/-! ### Steward records (R212, Table 7.10) -/

structure Rec where
  kind : Nat
  id : Nat := 0
  reason : Nat := 0
  ctx : Nat := 0
  write : Bool := false
  ridge : Nat := 0
  queue : Nat := 0
  va : Nat := 0
  addr1 : Nat := 0
  addr2 : Nat := 0
deriving DecidableEq, Repr

def Rec.bytes (r : Rec) : List Byte :=
  leBytes 4 (r.kind + r.reason * 256 + r.ctx * 2 ^ 20 + (if r.write then 2 ^ 24 else 0) + r.ridge * 2 ^ 25 + r.queue * 2 ^ 29)
  ++ leBytes 4 r.id ++ leBytes 8 r.va ++ leBytes 8 r.addr1 ++ leBytes 8 r.addr2

/-- Room in a partition's steward ring: a base and a slot the host has consumed. -/
def Chip.ringRoom (c : Chip) (k : Nat) : Bool :=
  c.get k Obj.STEWARD_RING_BASE != 0 &&
  decide (dist32 (c.get k Obj.STEWARD_RING_PRODUCER) (c.get k Obj.STEWARD_RING_CONSUMER) < c.get k Obj.STEWARD_RING_ENTRIES)

/-- A record is written in the ring and the producer advances. -/
def State.ringWrite (s : State) (k : Nat) (bs : List Byte) : State :=
  let p := s.chip.get k Obj.STEWARD_RING_PRODUCER
  let a := s.chip.get k Obj.STEWARD_RING_BASE + 32 * (p % s.chip.get k Obj.STEWARD_RING_ENTRIES)
  let (s, _) := s.writePhys k a bs
  -- a FAULT_HOST record starts its fault's limit when it is written (R214)
  let id := leAt bs 4 4
  let s := s.on (fun c => { c with hosts := c.hosts.map (fun h =>
    if h.info.part = k && h.id = id && byteAt bs 0 = 1 then { h with written := true } else h) })
  let s := s.on (fun c => if byteAt bs 0 = 1 then c.countPart k Obj.CNT_FAULT_HOST 1
    else if byteAt bs 0 = 2 then c.countPart k Obj.CNT_FAULT_FATAL 1 else c)
  s.on (fun c => c.set k Obj.STEWARD_RING_PRODUCER (inc32 p))

/-- Held and waiting records are written in the order raised as space frees (R212). -/
def State.ringDrain (k : Nat) : Nat → State → State
  | 0, s => s
  | f + 1, s =>
    let p := s.chip.part k
    if !s.chip.ringRoom k then s
    else match p.held with
      | [] => s.on (fun c => c.updPart k (fun p => { p with ringFull := false }))
      | r :: t =>
        let s := s.on (fun c => c.updPart k (fun p => { p with held := t ++ p.waiting.take 1, waiting := p.waiting.drop 1 }))
        State.ringDrain k f (s.ringWrite k r)

/-- A record is posted: written, or held, up to 64, or waiting. STEWARD_RING_FULL is raised once per episode in which a ring
that has a base is full. -/
def State.post (s : State) (k : Nat) (r : Rec) : State :=
  let p := s.chip.part k
  if s.chip.ringRoom k && p.held.isEmpty then s.ringWrite k r.bytes
  else
    let s := if p.ringFull || s.chip.get k Obj.STEWARD_RING_BASE = 0 then s else
      s.on (fun c => (c.updPart k (fun p => { p with ringFull := true })).raise 0x0513 k [])
    s.on (fun c => c.updPart k (fun p =>
      if p.held.length < 64 && p.waiting.isEmpty then { p with held := p.held ++ [r.bytes] }
      else { p with waiting := p.waiting ++ [r.bytes] }))

/-- A new record identifier of a partition, never 0. -/
def Chip.newId (c : Chip) (k : Nat) : Nat × Chip :=
  let id := (c.part k).nextId
  (id, c.updPart k (fun p => { p with nextId := if inc32 id = 0 then 1 else inc32 id }))

/-! ### Waiting and ending (R201–R205, R208, R209) -/

/-- The partition on whose behalf a waiter waits. -/
def Chip.waiterPart (c : Chip) : Waiter → Nat
  | .tile n _ _ _ => c.ownerN n
  | .prog n _ _ _ => c.ownerN n
  | .dma n _ => c.ownerN n
  | .fetch n _ => c.ownerN n
  | .record n _ => c.ownerN n
  | .roce qp => qp / 1024

/-- A unit leaves its Spur; what it loaded is discarded (R204). -/
def Chip.liftTile (c : Chip) (n q k u : Nat) : Chip :=
  c.updRidge n (fun r => { r with spurs := r.spurs.map (fun p => (p.1, match p.2.unit with
    | some x => if x.queue = q && x.count = k && x.unit = u then { p.2 with unit := none } else p.2
    | none => p.2)) })

/-- A unit that was parked is given again, ahead of its queue's other units (R204). -/
def Chip.again (c : Chip) (n q k u : Nat) : Chip :=
  c.updCmd n q k (fun x => if x.finished then x else { x with again := x.again ++ [u] })

/-- The unit of a waiter stops where it is: a tile's unit leaves its Spur and is given again later (R204), a DMA unit keeps
its record in FAULT_WAIT and releases its engine (R200, R202). -/
def Chip.park (c : Chip) (id : Nat) : Waiter → Chip
  | .tile n q k u => c.liftTile n q k u
  | .prog n q k u => c.liftTile n q k u
  | .dma n i => c.updRidge n (fun r => { r with
      dma := Tbl.upd r.dma {} i (fun d => { d with st := .faultWait, engine := none, faultId := id % 65536 }) })
  | .fetch n q => c.updQueue n q (fun x => { x with fetchWait := true })
  | .record n q => c.updQueue n q (fun x => { x with recordWait := true })
  | .roce _ => c

/-- A waiter goes on: its fault is resolved, or it walks again. -/
def Chip.release (c : Chip) : Waiter → Chip
  | .tile n q k u => (c.again n q k u).countPart (c.ownerN n) Obj.CNT_TILE_RESTARTS 1
  | .prog n q k u => c.again n q k u
  | .dma n i =>
    -- a resolved unit of a held queue passes to HELD (R215)
    let q := (Tbl.get (c.ridge n).dma {} i).queue
    let st := if (c.queue n q).held then DmaSt.held else DmaSt.parked
    c.updRidge n (fun r => { r with dma := if (Tbl.find r.dma i).isSome then Tbl.upd r.dma {} i (fun d => { d with st := st, faultId := 0 }) else r.dma })
  | .fetch n q => c.updQueue n q (fun x => { x with fetchWait := false })
  | .record n q => c.updQueue n q (fun x => { x with recordWait := false })
  | .roce qp => { c with qps := Tbl.upd c.qps {} qp (fun x => { x with waitAt := 0, ready := true }) }

/-- A waiter's fault ends unresolved: its command ends with the status, a fetch halts its queue with FETCH_FAULT (R205), a
record is passed over and its queue halts with RECORD_FAULT (R126). -/
def Chip.giveUp (c : Chip) (st : Nat) : Waiter → Chip
  | .tile n q k _ => c.endCmd n q k st
  | .prog n q k _ => (c.unissue n q k).halt n q 0x09 k
  | .dma n i =>
    match Tbl.find (c.ridge n).dma i with
    | some d => c.endCmd n d.queue d.count st
    | none => c
  | .fetch n q =>
    let c := c.updQueue n q (fun x => { x with fetchWait := false })
    c.halt n q 0x09 ((c.queue n q).toFetch.getD (c.queue n q).nextFetch)
  | .record n q =>
    let k := (c.queue n q).records.headD 0
    let c := c.numericEvent n (((c.queue n q).cmd k).getD {})
    let c := c.updQueue n q (fun x => x.passRecord k)
    c.halt n q 0x0C k
  | .roce qp => { c with qps := Tbl.upd c.qps {} qp (fun x => { x with ready := true, deny := true }) }

/-- The Ridge of a waiter. -/
def waiterRidge : Waiter → Nat
  | .tile n _ _ _ => n
  | .prog n _ _ _ => n
  | .dma n _ => n
  | .fetch n _ => n
  | .record n _ => n
  | .roce _ => 0

/-- The Ridge, queue and descriptor count of the unit that a fault names. -/
def Chip.faultPlace (c : Chip) (i : FaultInfo) (w : Waiter) : FaultInfo :=
  match w with
  | .tile n q k _ => { i with ridge := n, queue := q, count := k }
  | .prog n q k _ => { i with ridge := n, queue := q, count := k }
  | .dma n d => { i with ridge := n, queue := (Tbl.get (c.ridge n).dma {} d).queue, count := (Tbl.get (c.ridge n).dma {} d).count }
  | .fetch n q => { i with ridge := n, queue := q, count := (c.queue n q).nextFetch }
  | .record n q => { i with ridge := n, queue := q, count := (c.queue n q).records.headD 0 }
  | .roce _ => i

/-- A fault of kind HOST is reported: one record per entry, later faults on the same entry join it (R208, R209, R212, R216).
A RoCE fault writes no record (R344). -/
def State.hostFault (s : State) (i : FaultInfo) (w : List Waiter) : State :=
  match s.chip.hosts.find? (fun h => h.info.part = i.part && h.info.entry = i.entry && h.info.entry != 0 && !h.retire) with
  | some h =>
    let s := s.on (fun c => { c with hosts := c.hosts.map (fun x => if x.id = h.id && x.info.part = i.part then { x with waiters := x.waiters ++ w } else x) })
    s.on (fun c => w.foldl (fun c x => c.park h.id x) c)
  | none =>
    let (id, c) := s.chip.newId i.part
    let s := { s with chip := c }
    let s := s.on (fun c => { c with hosts := c.hosts ++ [{ id := id, info := i, waiters := w }] })
    let s := s.on (fun c => w.foldl (fun c x => c.park id x) c)
    let s := s.post i.part { kind := 1, id := id, reason := i.reason, ctx := i.ctx, write := i.write, ridge := i.ridge,
                             queue := i.queue, va := i.va, addr1 := i.entry }
    let s := s.on (fun c => c.raise 0x0510 i.part [])
    s.on (fun c => c.raise 0x0432 i.part [(1, i.ridge), (1, i.queue), (4, i.count), (1, stTranslation)])

/-- A fault that no one resolves: reported for information, and its waiter ends (R209, R212). -/
def State.fatalFault (s : State) (i : FaultInfo) (w : Waiter) : State :=
  let (id, c) := s.chip.newId i.part
  let s := { s with chip := c }
  let s := s.post i.part { kind := 2, id := id, reason := i.reason, ctx := i.ctx, write := i.write, ridge := i.ridge,
                           queue := i.queue, va := i.va, addr1 := i.entry }
  let s := if i.reason = rsMalformed then s.on (fun c => c.raise 0x0511 i.part []) else s
  s.on (fun c => c.giveUp (reasonStatus i.reason) w)

/-- Faults that wait for the host's answer hold pending entries too (R208, R216); retirement requests do not. -/
def Chip.hostPend (c : Chip) : List HostFault := c.hosts.filter (fun h => !h.retire)

/-- Pending entries a partition holds (R230). -/
def Chip.pendOf (c : Chip) (k : Nat) : Nat :=
  (c.pend.filter (fun p => p.info.part = k)).length + (c.hostPend.filter (fun h => h.info.part = k)).length

/-- Whether a new fault of a partition finds no pending entry: 256 for the module, WS_PENDING_QUOTA for the partition (R208,
R230). -/
def Chip.pendFull (c : Chip) (k : Nat) : Bool :=
  decide (256 ≤ c.pend.length + c.hostPend.length) || decide (c.reg Obj.WS_PENDING_QUOTA ≤ c.pendOf k)

/-- Whether a fault's entry is pending already. -/
def Chip.isPending (c : Chip) (i : FaultInfo) : Bool :=
  c.pend.any (fun p => p.info.entry = i.entry) ||
  c.hostPend.any (fun h => h.info.part = i.part && h.info.entry = i.entry && i.entry != 0)

/-- A fault that finds no pending entry waits in its translation unit, and is counted (R208). -/
def Chip.faultWait (c : Chip) (i : FaultInfo) (w : Waiter) : Chip :=
  (({ c with pendWait := c.pendWait ++ [(i, w)] } : Chip).park 0 w).bump Obj.CNT_PENDING_FULL

/-- A steward fault enters the pending table or joins the entry's resolution (R208). -/
def Chip.stewardFault (c : Chip) (i : FaultInfo) (w : Waiter) : Chip :=
  match c.pend.find? (fun p => p.info.entry = i.entry) with
  | some _ =>
    let join := fun (p : Pend) => if p.info.entry = i.entry then
      { p with waiters := p.waiters ++ [w], faults := p.faults + 1, info := { p.info with write := p.info.write || i.write } } else p
    ({ c with pend := c.pend.map join } : Chip).park 0 w
  | none => ({ c with pend := c.pend ++ [({ info := i, waiters := [w], restore := i.value } : Pend)] } : Chip).park 0 w

/-- A fault that has or finds a pending entry: it joins the entry's, or goes to the steward or the host (Table 7.8). BUSY goes
to the host where no resolution is pending (R208). -/
def State.enterFault (s : State) (i : FaultInfo) (w : List Waiter) : State :=
  if s.chip.pend.any (fun p => p.info.entry = i.entry) || (i.reason = rsSteward && !s.chip.isPending i) then
    s.on (fun c => w.foldl (fun c x => c.stewardFault i x) c)
  else s.hostFault i w

/-- A fault and its waiter, sorted by Table 7.8: ended, joined, admitted, or left waiting for a pending entry (R208). -/
def State.fault (s : State) (i : FaultInfo) (w : Waiter) : State :=
  let i := s.chip.faultPlace i w
  if fatal i.reason then s.fatalFault i w
  else if !s.chip.isPending i && s.chip.pendFull i.part then s.on (fun c => c.faultWait i w)
  else s.enterFault i [w]

/-! ### Access through translation -/

/-- The pieces of [va, va+n) that lie within one 64 KiB page each, at most `fuel`. -/
def pieces : Nat → Nat → Nat → List (Nat × Nat)
  | 0, _, _ => []
  | f + 1, va, n =>
    if n = 0 then []
    else
      let k := min n (65536 - va % 65536)
      (va, k) :: pieces f (va + k) (n - k)

/-- Why an access through translation did not come to pass. -/
inductive AccFail where
  | fault (i : FaultInfo)
  | status (st : Nat)
deriving DecidableEq, Repr

/-- Bytes that cross a Ridge's network port, and the die-to-die switch where the unit is not on the Ridge's own Crest die
(R84, R428). -/
def Chip.portBytes (c : Chip) (n pa k : Nat) (out : Bool) : Chip :=
  let c := c.count modInst ((if out then Obj.CNT_NET_BYTES_OUT else Obj.CNT_NET_BYTES_IN) + n) k
  match unitOf pa with
  | none => c
  | some (u, _) =>
    if u < 16 && u / 8 = n / 8 then c
    else
      let c := c.count modInst (Obj.CNT_D2D_BYTES + n / 8) k
      if u < 16 then c.count modInst (Obj.CNT_D2D_BYTES + u / 8) k else c

/-- A virtual read of `n` bytes in a context, through the Ridge's translation unit. -/
def State.readVirtGo (n part ctx : Nat) : List (Nat × Nat) → State → State × Except AccFail (List Byte)
  | [], s => (s, .ok [])
  | (va, k) :: t, s =>
    match s.translate n part ctx va false with
    | (s, .error i) => (s, .error (.fault i))
    | (s, .ok pa) =>
      match s.readPhys part pa k with
      | (s, .error st) => (s, .error (.status st))
      | (s, .ok bs) =>
        let s := s.on (fun c => c.portBytes n pa k false)
        match State.readVirtGo n part ctx t s with
        | (s, .ok r) => (s, .ok (bs ++ r))
        | (s, .error e) => (s, .error e)

def State.readVirt (s : State) (n part ctx va len : Nat) : State × Except AccFail (List Byte) :=
  State.readVirtGo n part ctx (pieces (len / 65536 + 2) va len) s

/-- A virtual write: pages before a fault keep what was written (R201). -/
def State.writeVirtGo (n part ctx : Nat) : List (Nat × Nat) → List Byte → State → State × Option AccFail
  | [], _, s => (s, none)
  | (va, k) :: t, bs, s =>
    match s.translate n part ctx va true with
    | (s, .error i) => (s, some (.fault i))
    | (s, .ok pa) =>
      match s.writePhys part pa (bs.take k) with
      | (s, some st) => (s, some (.status st))
      | (s, none) => State.writeVirtGo n part ctx t (bs.drop k) (s.on (fun c => c.portBytes n pa k true))

def State.writeVirt (s : State) (n part ctx va : Nat) (bs : List Byte) : State × Option AccFail :=
  State.writeVirtGo n part ctx (pieces (bs.length / 65536 + 2) va bs.length) bs s

/-- What a queue's units moved through the network port between two states is added to its activity sample (R429). -/
def State.charge (s0 : State) (n q : Nat) (s : State) : State :=
  let d := fun (key : Nat) => s.chip.reg (key + n) + 2 ^ 64 - s0.chip.reg (key + n)
  s.on (fun c => c.updQueue n q (fun x => { x with act := { x.act with
    bytesIn := (x.act.bytesIn + d Obj.CNT_NET_BYTES_IN) % 2 ^ 64, bytesOut := (x.act.bytesOut + d Obj.CNT_NET_BYTES_OUT) % 2 ^ 64 } }))

/-- An access failed for a waiter: its fault is taken, or its command ends with the status. -/
def State.fail (s : State) (f : AccFail) (w : Waiter) : State :=
  match f with
  | .fault i => s.fault i w
  | .status st => s.on (fun c => c.giveUp st w)

end Sys2Proof.Machine
end

