-- ==== Sys2Proof/Machine/Access.lean ====
section
/-! DEFINITION. Reaching an object of the control dictionary: access classes, instances, types and ranges, and one write
performed as one operation (R350–R353, R357–R359, R363). -/
namespace Sys2Proof.Machine

/-! ### Result codes, in the order of Table 14.8 -/

def rcOK : Nat := 0x0000
def rcMalformed : Nat := 0x010D
def rcNoObject : Nat := 0x0100
def rcNeedPartition : Nat := 0x0107
def rcNoAccess : Nat := 0x0101
def rcNoInstance : Nat := 0x0106
def rcReadOnly : Nat := 0x0102
def rcLength : Nat := 0x0103
def rcTooBig : Nat := 0x0109
def rcNoHandle : Nat := 0x010A
def rcNoBuffer : Nat := 0x010B
def rcIncomplete : Nat := 0x010C
def rcRange : Nat := 0x0104
def rcState : Nat := 0x0105
def rcRefused : Nat := 0x010E
def rcNotDone : Nat := 0x0108

/-! ### KIND of Table 14.7 -/

def ObjRow.readOnly (r : ObjRow) : Bool := bitAt r.kind 0
def ObjRow.trigger (r : ObjRow) : Bool := bitAt r.kind 1
def ObjRow.nonVolatile (r : ObjRow) : Bool := bitAt r.kind 2
/-- One instance per partition: every object with TENANT access, and those whose chapter says so (R353). -/
def ObjRow.perPart (r : ObjRow) : Bool := bitAt r.kind 3
def ObjRow.perSess (r : ObjRow) : Bool := bitAt r.kind 4

/-! ### Instances and reach (R352, R353) -/

/-- The partition that a link belongs to. -/
def Chip.linkPart (c : Chip) (l : Nat) : Option Nat := (Tbl.get c.links {} l).part

/-- Whether partition `k` owns the unit that an object answers for (R86, R183, R259, R347). -/
def ObjRow.owns (c : Chip) (k : Nat) (r : ObjRow) (idx sub : Nat) : Bool :=
  match r.unit with
  | .none => true
  | .ridgeSub => bitAt (c.ridgesOf k) sub
  | .ridgeIdx => bitAt (c.ridgesOf k) (idx - r.iLo)
  | .queueIdx => bitAt (c.ridgesOf k) ((idx - r.iLo) / 8)
  | .memSub => bitAt (c.ridgesOf k) (sub % 16)
  | .memIdx => bitAt (c.ridgesOf k) ((idx - r.iLo) % 16)
  | .linkIdx => c.linkPart (idx - r.iLo) = some k
  | .linkSub => c.linkPart sub = some k
  | .laneSub => bitAt (c.part k).lanes sub
  | .qp => (256 * (idx - r.iLo) + sub) / 1024 = k

/-- What the class of a session allows (Table 14.3): ANY 0, TENANT 1, OPERATOR 2, SERVICE 3. -/
def classReach (sess obj : Nat) (write : Bool) : Bool :=
  if obj = 0 then !write || sess != 0
  else if obj = 1 then sess = 1 || (!write && sess ≥ 2)
  else decide (obj ≤ sess)

/-- The instance of an object that a request reaches, or the code that refuses it: NEED_PARTITION, NO_ACCESS or NO_INSTANCE
in that order (R353, R363). An object that answers for a unit is held once, for the unit. -/
def Chip.reach (c : Chip) (slot : Nat) (se : Sess) (part : Nat) (r : ObjRow) (idx sub : Nat) (write : Bool) :
    Except Nat Nat :=
  if r.perSess then (if write && se.cls = 0 then .error rcNoAccess else .ok (sessInst slot))
  else if r.perPart && decide (se.cls ≥ 2) && part = 0xFF then .error rcNeedPartition
  else if !classReach se.cls r.cls write then .error rcNoAccess
  else if !r.perPart then .ok modInst
  else
    let k := if se.cls = 1 then se.part else part
    if se.cls = 1 && part != 0xFF && part != se.part then .error rcNoAccess
    else if k ≥ 8 then .error rcNoAccess
    else if se.cls = 1 && !r.owns c k idx sub then .error rcNoAccess
    else if c.wsState k != wsActive then .error rcNoInstance
    else .ok (if r.unit = .none then k else modInst)

/-! ### Types and ranges (R350, R358) -/

def ObjRow.lenOk (r : ObjRow) (n : Nat) : Bool :=
  if tyScalar r.ty then n = tyBytes r.ty else if r.varLen then decide (n ≤ r.maxLen) else n = r.maxLen

/-- The number a scalar's bytes carry; −0.0 is +0.0 (Table 14.2). -/
def ObjRow.scalar (r : ObjRow) (bs : List Byte) : Nat :=
  let v := leNat bs
  if r.ty = 6 && v = 0x80000000 then 0 else v

/-- Whether a scalar's type and stated range allow a value. A range of an F32 is taken at the nearest F32 of its ends. -/
def ObjRow.scalarOk (r : ObjRow) (v : Nat) : Bool :=
  let tyOk := match r.ty with
    | 0 => decide (v ≤ 1)
    | 6 => f32Finite (BitVec.ofNat 32 v)
    | _ => true
  tyOk && match r.chk with
  | .any => true
  | .rng lo hi => decide (lo ≤ v) && decide (v ≤ hi)
  | .rngOr lo hi o => v = o || (decide (lo ≤ v) && decide (v ≤ hi))
  | .srng lo hi => decide (lo ≤ toSigned 32 v) && decide (toSigned 32 v ≤ hi)
  | .frng lo hi d =>
    let w := BitVec.ofNat 32 v
    let q := fun (i : Int) => Fv.div (.fin (decide (i < 0)) i.natAbs 0) (.fin false d 0)
    f32Le (q lo) w && f32Le w (q hi)
  | .pow2 lo hi => isPow2 v && decide (lo ≤ v) && decide (v ≤ hi)
  | .pow2z lo hi => v = 0 || (isPow2 v && decide (lo ≤ v) && decide (v ≤ hi))
  | .align low top => v % 2 ^ low = 0 && decide (v < 2 ^ top)
  | .stepSrc => v = 0xFF || decide (v < 128)

/-- Continuation bytes of a UTF-8 sequence. -/
def utf8Cont : Nat → List Byte → Bool
  | 0, _ => true
  | _ + 1, [] => false
  | n + 1, b :: t => fld b.toNat 7 6 = 2 && utf8Cont n t

/-- Valid UTF-8 that contains no zero byte: well-formed sequences, no overlong form, no surrogate, at most U+10FFFF. -/
def utf8Ok : Nat → List Byte → Bool
  | _, [] => true
  | 0, _ => false
  | f + 1, b :: t =>
    let x := b.toNat
    let y := byteAt t 0
    if x = 0 then false
    else if x < 0x80 then utf8Ok f t
    else if 0xC2 ≤ x ∧ x ≤ 0xDF then utf8Cont 1 t && utf8Ok f (t.drop 1)
    else if 0xE0 ≤ x ∧ x ≤ 0xEF then
      utf8Cont 2 t && !(x = 0xE0 && decide (y < 0xA0)) && !(x = 0xED && decide (y > 0x9F)) && utf8Ok f (t.drop 2)
    else if 0xF0 ≤ x ∧ x ≤ 0xF4 then
      utf8Cont 3 t && !(x = 0xF0 && decide (y < 0x90)) && !(x = 0xF4 && decide (y > 0x8F)) && utf8Ok f (t.drop 3)
    else false

/-- Whether a written value is of its type and within its stated range; the layout of a BLOB is its own effect's check. -/
def ObjRow.valueOk (r : ObjRow) (bs : List Byte) : Bool :=
  if tyScalar r.ty then r.scalarOk (r.scalar bs) else if r.ty = 9 then utf8Ok (bs.length + 1) bs else true

/-! ### One write as one operation (R359) -/

/-- An effect of a write: the instance and the bytes, to the new state and a result code. -/
abbrev Eff := Nat → List Byte → State → State × Nat

/-- The row and instance that a write reaches, with the codes up to RANGE in the order of Table 14.8. Memory
regions 0 and 1 are the module's (R343). -/
def Chip.writeReach (c : Chip) (slot : Nat) (se : Sess) (part idx sub len : Nat) : Except Nat (ObjRow × Nat) :=
  match objFind idx sub with
  | none => .error rcNoObject
  | some r =>
    match c.reach slot se part r idx sub true with
    | .error e => .error e
    | .ok inst =>
      if r.readOnly || (idx = 0xF200 && decide (sub < 2)) then .error rcReadOnly
      else if !r.lenOk len then .error rcLength
      else .ok (r, inst)

/-- Order rules between objects, judged on the values that `g` gives (R287, R360, Tables 8.7, 9.12, 12.4). -/
def orderOk (g : Nat → Nat) (key : Nat) : Bool :=
  let lt := fun (a b : Nat) => f32Le (BitVec.ofNat 32 (g a)) (BitVec.ofNat 32 (g b)) && !f32Le (BitVec.ofNat 32 (g b)) (BitVec.ofNat 32 (g a))
  if key = Obj.LINK_VER_MIN || key = Obj.LINK_VER_MAX then decide (g Obj.LINK_VER_MIN ≤ g Obj.LINK_VER_MAX)
  else if key = Obj.CAL_MEASURE_FRAMES || key = Obj.CAL_NODATA_FRAMES then decide (g Obj.CAL_MEASURE_FRAMES ≤ g Obj.CAL_NODATA_FRAMES)
  else if key / 256 = Obj.LASER_WARN_DB / 256 then lt Obj.LASER_SWAP_DB Obj.LASER_WARN_DB && lt Obj.LASER_FAIL_DB Obj.LASER_SWAP_DB
  else if decide (Obj.WS_POWER_SHARE ≤ key) && decide (key ≤ atIdx Obj.WS_POWER_SHARE 7) && key % 256 = 2 then
    decide (80 * popCount 16 (g (key - 2)) ≤ g key)
  else true

/-- Writes that need a trained memory unit or a started engine, refused before READY (R476): erasure marks, re-steers and the
collimators, loops with their injections and captures, links, calibration runs. -/
def needsStart (idx sub : Nat) : Bool :=
  idx = 0x5010 || idx = 0x5011 || idx = 0x7403 || idx = 0x8200 || idx = 0x8301 || (idx = 0x8400 && sub = 3) || idx = 0x8800 ||
  (decide (0x9100 ≤ idx) && decide (idx ≤ 0x92AF)) || (idx = 0xE000 && sub = 5)

/-- A write through an effect, judged with the values `ov` of a group's writes: checked, then performed; a refusal is counted
(R363) and changes nothing else but what the effect itself sets (a reason object, an event). -/
def State.writeG (s : State) (ov : Tbl Nat) (slot : Nat) (se : Sess) (part idx sub : Nat) (bs : List Byte) (eff : Eff) : State × Nat :=
  match s.chip.writeReach slot se part idx sub bs.length with
  | .error e => (s, e)
  | .ok (r, inst) =>
    let bs := if tyScalar r.ty then leBytes (tyBytes r.ty) (r.scalar bs) else bs
    let g := fun (k : Nat) => match Tbl.find ov k with | some v => v | none => s.chip.reg k
    if !r.valueOk bs || !orderOk g (idx * 256 + sub) then (s, rcRange)
    else
      let (s', e) := eff inst bs s
      if needsStart idx sub && s.chip.reg Obj.STARTUP_STEP != 9 && (e = rcOK || e = rcState || e = rcRefused) then (s, rcState)
      else (s', e)

/-- One write by itself. -/
def State.write1 (s : State) (slot : Nat) (se : Sess) (part idx sub : Nat) (bs : List Byte) (eff : Eff) : State × Nat :=
  s.writeG [(idx * 256 + sub, leNat bs)] slot se part idx sub bs eff

/-- The result of one operation, returned to its session and counted where it is a refusal (R363). -/
def Chip.result (c : Chip) (slot idx sub code : Nat) (data : List Byte) : Chip :=
  let c := if code = rcOK || code = rcNotDone then c else c.bump Obj.CNT_DICT_REFUSED
  c.send (.result slot idx sub code data)

/-- A write that a session performs on the object `key`: nothing happens on a slot that holds no session. -/
def State.rowWrite (s : State) (r : Req) (key : Nat) (bs : List Byte) (eff : Eff) : State :=
  match Tbl.find s.chip.sess r.sess.val with
  | none => s
  | some se =>
    let (s, code) := s.write1 r.sess.val se r.part.toNat (key / 256) (key % 256) bs eff
    s.on (fun c => c.result r.sess.val (key / 256) (key % 256) code [])

/-- An effect on the chip alone. -/
def effOn (f : Nat → List Byte → Chip → Chip × Nat) : Eff :=
  fun inst bs s => let (c, e) := f inst bs s.chip; ({ s with chip := c }, e)

/-- A scalar value's bytes for a write. -/
def wr (n v : Nat) : List Byte := leBytes n v

end Sys2Proof.Machine
end

