-- ==== Sys2Proof/Machine/Cairn.lean ====
section
/-! DEFINITION. The event recorder: staging, commit, the flash log and its states, the stub, and clearing (R415–R426). -/
namespace Sys2Proof.Machine

/-! ### The log in flash (R418) -/

/-- Bytes in use after a record of `n` bytes: it never crosses a page of 4 KiB. -/
def logAfter (used n : Nat) : Nat := (if used % 4096 + n > 4096 then (used / 4096 + 1) * 4096 else used) + n

/-- Capacity: 4,096 pages less those mapped out. -/
def Chip.logCapacity (c : Chip) : Nat := (4096 - c.reg Obj.CAIRN_BAD_PAGES) * 4096

/-- Bytes of the raw log: records in pages, zeros for padding, ones after the end. -/
def logBytes : Nat → List EvRec → List Byte
  | _, [] => []
  | used, e :: t =>
    let after := logAfter used e.size
    zeros (after - e.size - used) ++ e.bytes ++ logBytes after t

/-- Window `m` of 1 MiB of the raw log (CAIRN_LOG). -/
def Chip.logWindow (c : Chip) (m : Nat) : List Byte :=
  let w := ((logBytes 0 c.cairn.log).drop (2 ^ 20 * m)).take (2 ^ 20)
  w ++ List.replicate (2 ^ 20 - w.length) 0xFF#8

/-- A record takes its SEQUENCE and PART_SEQ and is programmed. -/
def Chip.commit (c : Chip) (e : EvRec) : Chip :=
  let seq := inc32 (c.reg Obj.CAIRN_HEAD_SEQ)
  let pk := e.keyGen * 8 + e.part
  let ps := if e.part < 8 then Tbl.get c.cairn.partSeqs 0 pk + 1 else 0
  let e := { e with seq := seq, partSeq := ps }
  let r := c.cairn
  let r := { r with log := r.log ++ [e], partSeqs := if e.part < 8 then Tbl.put r.partSeqs pk ps else r.partSeqs }
  (({ c with cairn := r } : Chip).setReg Obj.CAIRN_HEAD_SEQ seq).setReg Obj.CAIRN_USED (logAfter (c.reg Obj.CAIRN_USED) e.size)

/-- A module record of the recorder's own. -/
def Chip.ownRecord (c : Chip) (ty : Nat) (data : List Byte) : EvRec :=
  { ty := ty, part := 0xFF, stamp := c.stamp, data := padTo 8 data }

/-- A record of the recorder's own enters the ring, where there is room. -/
def Chip.stage (c : Chip) (e : EvRec) : Chip := c.record e

/-! ### The stub (R422, Table 18.5) -/

def stubFailed : Nat := 1
def stubInput : Nat := 2
def stubCycle : Nat := 3
def stubTrip : Nat := 4

/-- The 32 bytes of a stub entry; records still in the ring are lost and counted in it. -/
def Chip.stubEntry (c : Chip) (kind cause : Nat) : List Byte :=
  leBytes 1 kind ++ leBytes 1 cause ++ zeros 2 ++ leBytes 4 (c.reg Obj.CAIRN_HEAD_SEQ) ++ leBytes 8 c.stamp ++
  leBytes 8 c.frame ++ leBytes 4 c.cairn.staging.length ++ leBytes 4 (c.reg Obj.VCT_BOOT_COUNT)

/-- A stub entry is written, the first 32 being kept, and the ring is lost. -/
def Chip.stub (c : Chip) (kind cause : Nat) : Chip :=
  let e := c.stubEntry kind cause
  let c := { c with cairn := { c.cairn with staging := [] } }
  if c.cairn.stub.length < 32 then { c with cairn := { c.cairn with stub := c.cairn.stub ++ [e] } } else c.bump Obj.CNT_STUB_OVERFLOW

/-- The recorder's memory has failed (R421). -/
def Chip.cairnFail (c : Chip) (cause : Nat) : Chip :=
  if c.reg Obj.CAIRN_STATE = 3 then c
  else
    let e := c.stubEntry stubFailed cause
    let c := (c.stub stubFailed cause).setReg Obj.CAIRN_FAILED 1
    let c := c.raiseMod 0x0B07 (e.map (fun b => (1, b.toNat)))
    (c.setReg Obj.CAIRN_STATE 3)

/-! ### Commit (R418–R420) -/

/-- The drop summary (Table 18.3). -/
def Cairn.summary (r : Cairn) : List Byte :=
  let total := r.dropTypes.foldl (fun n p => n + p.2) r.dropMore
  leBytes 8 total ++ (r.dropTypes.map (fun p => leBytes 2 p.1 ++ zeros 2 ++ leBytes 4 p.2)).flatten ++
  (if r.dropMore > 0 then zeros 4 ++ leBytes 4 r.dropMore else [])

/-- Once the ring is half full again, the drops are summarised and their counts cleared (R419). -/
def Chip.dropSummary (c : Chip) : Chip :=
  if c.cairn.dropTypes.isEmpty || stagedBytes c.cairn.staging > 32768 then c
  else
    let e := c.ownRecord 0x0B02 c.cairn.summary
    { c with cairn := { c.cairn with staging := c.cairn.staging ++ [e], dropTypes := [], dropMore := 0 } }

/-- A page found bad is mapped out with a record; too many fail the recorder (R418, R421). `op` is 1 program, 2 erase. -/
def Chip.pageBad (op : Nat) (c : Chip) (page : Nat) : Chip :=
  let n := c.reg Obj.CAIRN_BAD_PAGES + 1
  let c := (c.setReg Obj.CAIRN_BAD_PAGES n).stage (c.ownRecord 0x0B06 (layFields [(4, page), (1, op)]))
  if n > c.reg Obj.CAIRN_BAD_PAGE_LIMIT then c.cairnFail 1 else c

/-- The log is full at record `e`: LOG_FULL takes the number it would have taken, and it and the records behind it are lost
(R420). -/
def Chip.logFull (c : Chip) (e : EvRec) : Chip :=
  let lost := c.cairn.staging.length
  let c := { c with cairn := { c.cairn with staging := [] } }
  let c := c.commit (c.ownRecord 0x0B03 (layFields [(4, inc32 (c.reg Obj.CAIRN_HEAD_SEQ)), (8, e.stamp)]))
  (c.count modInst Obj.CNT_CAIRN_LOST lost).setReg Obj.CAIRN_STATE 1

/-- CAIRN_COMMIT: the oldest staged record is programmed, pages found bad mapped out on the way (R418–R420). -/
def execCairnCommit (bad : List W16) (s : State) : Host.Outcome State Fault Refusal :=
  done (s.on (fun c =>
    if c.reg Obj.CAIRN_STATE != 0 then c
    else
      match c.cairn.staging with
      | [] => c
      | e :: t =>
        let c := bad.foldl (fun c p => c.pageBad 1 p.toNat) c
        if c.reg Obj.CAIRN_STATE != 0 then c
        else if logAfter (c.reg Obj.CAIRN_USED) e.size + 256 > c.logCapacity then c.logFull e
        else
          let rest := t ++ c.cairn.staging.drop (t.length + 1)
          (({ c with cairn := { c.cairn with staging := rest } } : Chip).commit e).dropSummary))

/-- CAIRN_FLASH_TIMEOUT: the flash controller has given no answer for 10 ms (R421). -/
def execCairnFlashTimeout (s : State) : Host.Outcome State Fault Refusal := done (s.on (fun c => c.cairnFail 3))

/-! ### Clearing (R424, R425) -/

/-- The operator slot, not revoked, whose digest a public key matches (R442). -/
def Chip.operatorSlot (c : Chip) (key : List Byte) : Option Nat :=
  (List.range 4).find? (fun i =>
    let st := c.reg (Obj.OPKEY_STATE + i)
    (st = 1 || st = 2) && Config.shake256 key 64 == c.blob modInst (Obj.OPKEY_DIGEST + i))

/-- Whether a clear token is accepted (R424), and by which slot. -/
def Chip.clearToken (c : Chip) (t : List Byte) : Option Nat :=
  let ok := leAt t 0 8 = c.reg Obj.DEVICE_SERIAL && leAt t 8 4 = c.reg Obj.CAIRN_LOG_GEN
  let key := (t.drop 0x10).take 57
  if !ok then none
  else match c.operatorSlot key with
    | none => none
    | some i =>
      let ctx := "CAIRN-CLEAR-1".toUTF8.toList.map (fun b => BitVec.ofNat 8 b.toNat)
      if Config.ed448Verify key ctx (t.take 0x50) ((t.drop 0x50).take 114) then some i else none

/-- A write of CAIRN_CLEAR: a good token starts the clear; a refusal commits CLEAR_REFUSED unless FULL or FAILED. -/
def effCairnClear : Eff := effOn (fun _ t c =>
  let refuse := fun (code : Nat) =>
    let st := c.reg Obj.CAIRN_STATE
    (if st = 1 || st = 3 then c else c.stage (c.ownRecord 0x0B05 (layFields [(2, code)] |>.take 2 |> (· ++ t.take 16))), code)
  if c.reg Obj.CAIRN_STATE = 2 then refuse rcState
  else match c.clearToken t with
    | none => refuse rcRange
    | some i =>
      ({ c with cairn := { c.cairn with clearing := true, clearStamp := c.stamp, clearUpto := leAt t 0x0C 4, clearSlot := i } }.setReg
        Obj.CAIRN_STATE 2, rcOK))

/-- CAIRN_CLEAR (R424). -/
def execCairnClear (r : Req) (token : List Byte) (s : State) : Host.Outcome State Fault Refusal :=
  done (s.rowWrite r Obj.CAIRN_CLEAR token effCairnClear)

/-- Steps 3 to 5 of a clear (R425). -/
def Chip.cleared (c : Chip) : Chip :=
  let r := c.cairn
  let last := c.reg Obj.CAIRN_HEAD_SEQ
  let data := layFields [(4, c.reg Obj.CAIRN_LOG_GEN), (4, last), (4, r.clearUpto),
    (4, (r.log.filter (fun e => decide (e.seq > r.clearUpto))).length), (8, c.reg Obj.CNT_CAIRN_LOST), (1, r.clearSlot),
    (1, if r.interrupted then 1 else 0)]
  let e : EvRec := { ty := 0x0B01, part := 0xFF, stamp := r.clearStamp, data := data }
  let c := { c with cairn := { r with log := [], clearing := false, interrupted := false, stub := [] } }
  let c := ((c.setReg Obj.CAIRN_HEAD_SEQ 0).setReg Obj.CAIRN_USED 0).commit e
  let c := r.stub.foldl (fun c b => c.commit (c.ownRecord 0x0B04 b)) c
  let c := (c.setReg Obj.CAIRN_LOG_GEN (inc32 (c.reg Obj.CAIRN_LOG_GEN))).setReg Obj.CAIRN_FAILED 0
  let c := (c.setReg Obj.CNT_CAIRN_LOST 0).setReg Obj.CNT_STUB_OVERFLOW 0
  let c := (List.range 16).foldl (fun c a => c.setReg (Obj.CNT_CAIRN_UNRECORDED + a) 0) c
  c.setReg Obj.CAIRN_STATE 0

/-- CAIRN_CLEAR_DONE: the erase has ended, well or not (R421, R425). -/
def execCairnClearDone (ok : Bool) (s : State) : Host.Outcome State Fault Refusal :=
  done (s.on (fun c =>
    if c.reg Obj.CAIRN_STATE != 2 then c else if ok then c.cleared else
      { (c.cairnFail 2) with cairn := { (c.cairnFail 2).cairn with clearing := false } }))

/-! ### Start-up (R421, R422, R425) -/

/-- The recorder at start-up: an interrupted clear is completed first, a log that cannot be read fails it, and a record is
staged for each stub entry not yet copied. -/
def Chip.cairnStart (c : Chip) (readable : Bool) : Chip :=
  let c := if c.cairn.clearing then ({ c with cairn := { c.cairn with interrupted := true } } : Chip).cleared else c
  if !readable then c.cairnFail 4
  else if c.reg Obj.CAIRN_STATE != 0 then c
  else
    let fresh := c.cairn.stub.filter (fun b => byteAt b 0 < 128)
    let c := fresh.foldl (fun c b => c.stage (c.ownRecord 0x0B04 b)) c
    { c with cairn := { c.cairn with stub := c.cairn.stub.map (fun b => leBytes 1 (byteAt b 0 % 128 + 128) ++ b.drop 1) } }

end Sys2Proof.Machine
end

