-- ==== Sys2Proof/Machine/Formats.lean ====
section
/-! DEFINITION. The number formats and their conversions (R25–R39, R43–R47), and the arithmetic of the tensor array
(R40–R42). -/
namespace Sys2Proof.Machine

/-! ### Format codes (R25) -/

/-- Codes of Table 2.1. -/
def fmtFP32 : Nat := 0
def fmtBF16 : Nat := 1
def fmtE4M3 : Nat := 2
def fmtE5M2 : Nat := 3
def fmtE4M3b : Nat := 4
def fmtE5M2b : Nat := 5
def fmtZF4 : Nat := 6
def fmtZF3 : Nat := 7
def fmtT2 : Nat := 8

/-- Codes 0x9–0xF are reserved. -/
def fmtOk (f : Nat) : Bool := decide (f ≤ 8)

/-- Formats held in 32-element blocks. -/
def fmtBlocked (f : Nat) : Bool := decide (4 ≤ f ∧ f ≤ 8)

/-- Bits of one element in memory, the metadata apart (Table 2.1). -/
def elemBits (f : Nat) : Nat :=
  match f with
  | 0 => 32 | 1 => 16 | 2 => 8 | 3 => 8 | 4 => 8 | 5 => 8 | 6 => 4 | 7 => 3 | _ => 2

/-- Bytes of one block group (Table 2.4). -/
def groupBytes (f : Nat) : Nat := 32 * (32 * elemBits f / 8) + 128

/-- Bytes that one row of `n` elements takes in memory (R30, R103). -/
def rowBytes (f n : Nat) : Nat :=
  if fmtBlocked f then groupBytes f * ceilDiv n 1024 else n * elemBits f / 8

/-! ### Element codes -/

/-- Magnitudes of the codes of an element format, ascending, in units of 2^`magUnit` (Tables 2.2, 2.5, R33, R34). -/
def mags (f : Nat) : List Nat :=
  match f with
  | 2 => (List.range 127).map (fun c => if c < 8 then c else (8 + c % 8) <<< (c / 8 - 1))
  | 4 => (List.range 127).map (fun c => if c < 8 then c else (8 + c % 8) <<< (c / 8 - 1))
  | 3 => (List.range 124).map (fun c => if c < 4 then c else (4 + c % 4) <<< (c / 4 - 1))
  | 5 => (List.range 124).map (fun c => if c < 4 then c else (4 + c % 4) <<< (c / 4 - 1))
  | 6 => [0, 1, 2, 3, 4, 6, 8, 12]
  | 7 => [0, 1, 2, 4]
  | 8 => [0, 1]
  | _ => []

def magUnit (f : Nat) : Int :=
  match f with
  | 2 => -9 | 4 => -9 | 3 => -16 | 5 => -16 | 6 => -1 | _ => 0

/-- The value of an E4M3 code (Table 2.2). -/
def e4m3Val (c : Nat) : Fv :=
  let neg := bitAt c 7
  let m := c % 128
  if m = 127 then .nan else .fin neg ((mags fmtE4M3).getD m 0) (-9)

/-- The value of an E5M2 code (Table 2.2). -/
def e5m2Val (c : Nat) : Fv :=
  let neg := bitAt c 7
  let m := c % 128
  if m = 124 then .inf neg else if m > 124 then .nan else .fin neg ((mags fmtE5M2).getD m 0) (-16)

/-- The value of a BF16 code, widened exactly (R26). -/
def bf16Val (c : Nat) : Fv := f32Val (BitVec.ofNat 32 (c * 65536))

/-- A value with the exponent moved by `k`; zeros and specials keep their kind. -/
def Fv.scale (k : Int) : Fv → Fv
  | .fin n m e => .fin n m (e + k)
  | v => v

/-- The value of one element code of a narrow format under the block scale 2^`k` (R28, R32–R34). -/
def codeVal (f c : Nat) (k : Int) : Fv :=
  match f with
  | 4 => (e4m3Val c).scale k
  | 5 => (e5m2Val c).scale k
  | 6 => if c % 8 = 0 then .fin false 0 0 else .fin (bitAt c 3) ((mags 6).getD (c % 8) 0) (k - 1)
  | 7 => if c % 4 = 0 then .fin false 0 0 else .fin (bitAt c 2) ((mags 7).getD (c % 4) 0) k
  | _ => if c = 1 then .fin false 1 k else if c = 2 then .fin true 1 k else .fin false 0 0

/-! ### Numeric reporting (R35, R37, R46, R47) -/

/-- What conversions count, and the noise generators they draw from. -/
structure NumSt where
  nanInf : Nat := 0
  malformed : Nat := 0
  saturated : Nat := 0
  nonfinite : Bool := false
  gens : Tbl W64 := []
deriving DecidableEq, Repr

/-- One noise word from the generator `lane`, which advances (R44, R45). -/
def NumSt.noise (n : NumSt) (lane : Nat) : Nat × NumSt :=
  let g := Tbl.get n.gens 0#64 lane
  ((Config.noiseWord g).toNat, { n with gens := Tbl.put n.gens lane (Config.noiseNext g) })

/-- Rounding modes of Table 2.7. -/
inductive Rnd where
  | nearest
  | stochastic
  | towardZero
deriving DecidableEq, Repr

/-- The index of the largest magnitude not above p/q. -/
def lowIdx : List Nat → Nat → Nat → Nat → Nat
  | [], _, _, i => i - 1
  | x :: t, p, q, i => if x * q ≤ p then lowIdx t p q (i + 1) else i - 1

/-- The magnitude code of m × 2^e (already divided by the block scale) in format `f`, and the reporting: beyond the
largest code the value saturates and is counted, but for T2 (R39, R43, R44). -/
def roundMag (f : Nat) (r : Rnd) (lane : Nat) (m : Nat) (e : Int) (n : NumSt) : Nat × NumSt :=
  let x := e - magUnit f
  let p := if x ≥ 0 then m <<< x.toNat else m
  let q := if x ≥ 0 then 1 else 2 ^ (-x).toNat
  let ms := mags f
  let top := ms.length - 1
  let lo := lowIdx ms p q 0
  let vlo := ms.getD lo 0
  if lo = top then
    (top, if p > vlo * q && f != fmtT2 then { n with saturated := n.saturated + 1 } else n)
  else
    let vhi := ms.getD (lo + 1) 0
    if p = vlo * q then (lo, n)
    else match r with
      | .towardZero => (lo, n)
      | .nearest =>
        let d := 2 * p
        let mid := (vlo + vhi) * q
        -- a tie goes to the code whose least significant magnitude bit is 0; for T2 that is 0
        (if d > mid then lo + 1 else if d < mid then lo else if lo % 2 = 0 then lo else lo + 1, n)
      | .stochastic =>
        let (w, n) := n.noise lane
        let frac := (p - vlo * q) * 65536 / ((vhi - vlo) * q)
        (if w < frac then lo + 1 else lo, n)

/-- A magnitude code with its sign, as stored: a zero of a ZF4, ZF3 or T2 element has no sign (R32–R34). -/
def signedCode (f : Nat) (neg : Bool) (c : Nat) : Nat :=
  match f with
  | 6 => if neg && c != 0 then c + 8 else c
  | 7 => if neg && c != 0 then c + 4 else c
  | 8 => if c = 0 then 0 else if neg then 2 else 1
  | _ => if neg then c + 128 else c

/-! ### Conversion to plain formats (R26, R47) -/

/-- FP32 to BF16: infinities kept, NaN canonical, a finite overflow saturates and is counted (R47). -/
def toBF16 (r : Rnd) (lane : Nat) (w : W32) (n : NumSt) : Nat × NumSt :=
  match f32Val w with
  | .nan => (0x7FC0, n)
  | .inf neg => (if neg then 0xFF80 else 0x7F80, n)
  | .fin neg _ _ =>
    let mag := w.toNat % 2 ^ 31
    let lo := mag / 65536
    let rem := mag % 65536
    let (c, n) :=
      if rem = 0 then (lo, n)
      else match r with
        | .towardZero => (lo, n)
        | .nearest => (if rem > 32768 || (rem = 32768 && lo % 2 = 1) then lo + 1 else lo, n)
        | .stochastic => let (x, n) := n.noise lane; (if x < rem then lo + 1 else lo, n)
    let (c, n) := if c > 0x7F7F then (0x7F7F, { n with saturated := n.saturated + 1 }) else (c, n)
    (c + (if neg then 0x8000 else 0), n)

/-- A value to a plain ZF8 code (R47). -/
def toZF8 (f : Nat) (r : Rnd) (lane : Nat) (v : Fv) (n : NumSt) : Nat × NumSt :=
  match v with
  | .nan => (0x7F, n)
  | .inf neg => if f = fmtE4M3 then (0x7F, n) else (if neg then 0xFC else 0x7C, n)
  | .fin neg m e =>
    let (c, n) := roundMag f r lane m e n
    (signedCode f neg c, n)

/-! ### Blocks (R29–R39, R43, R46) -/

/-- A block as stored: its element codes and its metadata word. -/
structure Block where
  codes : List Nat
  mtd : Nat
deriving DecidableEq, Repr

def zeroBlock : Block := ⟨List.replicate 32 0, 0⟩

/-- Vmax of R36. -/
def vmax (f : Nat) : Nat :=
  match f with
  | 6 => 6 | 7 => 4 | 4 => 448 | _ => 57344

/-- `m × 2^x ≤ v × 2^e`. -/
def leScaled (m : Nat) (x : Int) (v : Nat) (e : Int) : Bool :=
  let k := e - x
  if k ≥ 0 then decide (m ≤ v <<< k.toNat) else decide (m <<< (-k).toNat ≤ v)

/-- The smallest integer e with m × 2^x ≤ v × 2^e, for m ≠ 0 (R36). -/
def minScale (m : Nat) (x : Int) (v : Nat) : Int :=
  let e0 : Int := (m.log2 : Int) + x - (v.log2 : Int) - 1
  if leScaled m x v e0 then e0 else if leScaled m x v (e0 + 1) then e0 + 1 else e0 + 2

/-- Compare two magnitudes m × 2^e. -/
def magLt (m : Nat) (e : Int) (m' : Nat) (e' : Int) : Bool := Fv.lt (.fin false m e) (.fin false m' e')

/-- Index and magnitude of the largest element, the lowest index on a tie, the index `skip` left out (R38). -/
def maxMag (xs : List Fv) (skip : Option Nat) : Nat × Nat × Int :=
  (List.range xs.length).foldl
    (fun best i =>
      match xs.getD i .nan with
      | .fin _ m e => if some i = skip then best else if magLt best.2.1 best.2.2 m e then (i, m, e) else best
      | _ => best) (0, 0, 0)

def clampScale (e : Int) : Int := max (-127) (min 127 e)

/-- The mean magnitude's rounded logarithm of T2 (R36): the mean is the sum ÷ 32; a mantissa of 1.5 or more rounds up. -/
def meanScale (xs : List Fv) : Int :=
  let sum := xs.foldl (fun a x => Fv.add a x.abs) (.fin false 0 0)
  match sum with
  | .fin _ m e =>
    if m = 0 then 0
    else (m.log2 : Int) + e - 5 + (if 2 * m ≥ 3 * 2 ^ m.log2 then 1 else 0)
  | _ => 0

/-- Conversion of one block of finite values or specials to a narrow format (R36–R39, R43, R46). `h` is the headroom,
`esc` the outlier escape of ZF4; `lane0` numbers the generator of the block's first element. -/
def toBlock (f : Nat) (h : Int) (esc : Bool) (r : Rnd) (lane0 : Nat) (xs : List Fv) (n : NumSt) : Block × NumSt :=
  if xs.any (fun x => match x with | .fin .. => false | _ => true) then
    (zeroBlock, { n with nanInf := n.nanInf + 1 })
  else
    let (i1, m1, x1) := maxMag xs none
    if m1 = 0 then (zeroBlock, n)
    else
      let e1 := if f = fmtT2 then meanScale xs else minScale m1 x1 (vmax f)
      let (_, m2, x2) := maxMag xs (some i1)
      let inRange := !magLt m1 x1 1 (-6) && !magLt 448 0 m1 x1
      -- the exponent chosen from a2 is −∞ when a2 is zero, and the clamp makes it −127
      let e2 : Int := if m2 = 0 then -100000 else minScale m2 x2 (vmax f)
      let out := f = fmtZF4 && esc && inRange && decide (e2 < e1)
      let e := clampScale ((if out then e2 else e1) + h)
      let step := fun (acc : List Nat × NumSt) (i : Nat) =>
        if out && i = i1 then (0 :: acc.1, acc.2)
        else match xs.getD i (.fin false 0 0) with
          | .fin neg m x =>
            let (c, n) := roundMag f r ((lane0 + i) % 256) m (x - e) acc.2
            (signedCode f neg c :: acc.1, n)
          | _ => (0 :: acc.1, acc.2)
      let (codes, n) := (List.range xs.length).foldl step ([], n)
      let neg1 := (xs.getD i1 .nan).isNeg
      let ov := if out then signedCode fmtE4M3 neg1 (roundMag fmtE4M3 .nearest 0 m1 x1 n).1 else 0
      let mtd := (e + 127).toNat + (if out then 256 + i1 * 512 + ov * 16384 else 0)
      (⟨codes.reverse, mtd⟩, n)

/-- Malformed metadata (R35). -/
def blockBad (f mtd : Nat) : Bool :=
  fld mtd 7 0 = 255 || fld mtd 31 22 != 0 ||
  (if f = fmtZF4 then bitAt mtd 8 && fld mtd 20 14 = 127 else fld mtd 21 8 != 0)

/-- The 32 values of a stored block: a malformed block reads as zeros and is counted, and so is each T2 code 0b11
(R32–R35). -/
def ofBlock (f : Nat) (b : Block) (n : NumSt) : List Fv × NumSt :=
  if blockBad f b.mtd then (List.replicate 32 (.fin false 0 0), { n with malformed := n.malformed + 1 })
  else
    let k : Int := (fld b.mtd 7 0 : Int) - 127
    let vals := b.codes.map (fun c => codeVal f c k)
    let vals := if f = fmtZF4 && bitAt b.mtd 8 then vals.set (fld b.mtd 13 9) (e4m3Val (fld b.mtd 21 14)) else vals
    let bad := if f = fmtT2 then (b.codes.filter (· = 3)).length else 0
    (vals, { n with malformed := n.malformed + bad })

/-- A stored narrow block widened exactly to block-scaled ZF8 E4M3 with the same E8; its outlier is rounded into the
block's range, saturating (R54). -/
def widenBlock (f : Nat) (b : Block) (n : NumSt) : Block × NumSt :=
  if f = fmtE4M3b || blockBad f b.mtd then (b, n)
  else
    let k : Int := (fld b.mtd 7 0 : Int) - 127
    let (vals, n) := ofBlock f b n
    let step := fun (acc : List Nat × NumSt) (v : Fv) =>
      match v with
      | .fin neg m x => let (c, n) := roundMag fmtE4M3b .nearest 0 m (x - k) acc.2; (signedCode fmtE4M3b neg c :: acc.1, n)
      | _ => (0x7F :: acc.1, acc.2)
    let (codes, n) := vals.foldl step ([], n)
    (⟨codes.reverse, fld b.mtd 7 0⟩, n)

/-! ### Rows in memory (R30, R103, R106) -/

/-- Block `j` of a row of a block format held in `bs`. -/
def blockAt (f : Nat) (bs : List Byte) (j : Nat) : Block :=
  let db := 4 * elemBits f
  let g := (j / 32) * groupBytes f
  let d := leAt bs (g + (j % 32) * db) db
  let w := elemBits f
  ⟨(List.range 32).map (fun i => fld d (w * i + w - 1) (w * i)), leAt bs (g + 32 * db + 4 * (j % 32)) 4⟩

/-- The data bytes of a block. -/
def blockData (f : Nat) (b : Block) : List Byte :=
  let w := elemBits f
  leBytes (4 * w) ((List.range 32).foldl (fun a i => a + (b.codes.getD i 0) <<< (w * i)) 0)

/-- One block group from at most 32 blocks, the unused ones zero blocks (R30). -/
def groupOf (f : Nat) (blks : List Block) : List Byte :=
  let l := (blks ++ List.replicate (32 - blks.length) zeroBlock).take 32
  l.flatMap (blockData f) ++ l.flatMap (fun b => leBytes 4 b.mtd)

/-- Blocks laid out in whole groups, `fuel` groups at most. -/
def groupsOf (f : Nat) : Nat → List Block → List Byte
  | 0, _ => []
  | n + 1, blks => if blks.isEmpty then [] else groupOf f (blks.take 32) ++ groupsOf f n (blks.drop 32)

/-- Element `i` of a plain row. -/
def plainVal (f : Nat) (bs : List Byte) (i : Nat) : Fv :=
  match f with
  | 0 => f32Val (BitVec.ofNat 32 (leAt bs (4 * i) 4))
  | 1 => bf16Val (leAt bs (2 * i) 2)
  | 2 => e4m3Val (byteAt bs i)
  | _ => e5m2Val (byteAt bs i)

/-- A list cut into runs of `k`, at most `fuel` of them. -/
def chunks {α : Type} (k : Nat) : Nat → List α → List (List α)
  | 0, _ => []
  | n + 1, l => if l.isEmpty then [] else l.take k :: chunks k n (l.drop k)

/-- The values of the first `n` elements of a stored row (R106, R112). -/
def rowVals (f : Nat) (bs : List Byte) (n : Nat) (st : NumSt) : List Fv × NumSt :=
  if fmtBlocked f then
    let step := fun (acc : List (List Fv) × NumSt) (j : Nat) =>
      let (v, s) := ofBlock f (blockAt f bs j) acc.2
      (v :: acc.1, s)
    let (vs, st) := (List.range (ceilDiv n 32)).foldl step ([], st)
    (vs.reverse.flatten.take n, st)
  else ((List.range n).map (plainVal f bs), st)

/-- The bytes of a row of FP32 values stored in format `f`: the output conversion of R43. The row starts at an element
whose generator lane is 0. -/
def rowBytesOf (f : Nat) (h : Int) (esc : Bool) (r : Rnd) (ws : List W32) (n : NumSt) : List Byte × NumSt :=
  if fmtBlocked f then
    let bl := chunks 32 ws.length ws
    let step := fun (acc : List Block × NumSt × Nat) (c : List W32) =>
      let (b, s) := toBlock f h esc r (acc.2.2 % 256) (c.map f32Val ++ List.replicate (32 - c.length) (.fin false 0 0)) acc.2.1
      (b :: acc.1, s, acc.2.2 + 32)
    let (bs, n, _) := bl.foldl step ([], n, 0)
    (groupsOf f (ceilDiv ws.length 1024) bs.reverse, n)
  else
    let step := fun (acc : List (List Byte) × NumSt × Nat) (w : W32) =>
      let (c, s) : Nat × NumSt :=
        match f with
        | 0 => (w.toNat, acc.2.1)
        | 1 => toBF16 r (acc.2.2 % 256) w acc.2.1
        | _ => toZF8 f r (acc.2.2 % 256) (f32Val w) acc.2.1
      (leBytes (elemBits f / 8) c :: acc.1, s, acc.2.2 + 1)
    let (bs, n, _) := ws.foldl step ([], n, 0)
    (bs.reverse.flatten, n)

/-! ### The tensor array (R31, R40–R42) -/

/-- A BF16 subnormal is read by the array and the load converter as a zero of its sign (R26). -/
def flushBF16 : Fv → Fv
  | .fin n m e => if m < 2 ^ 23 then .fin n 0 e else .fin n m e
  | v => v

/-- How an operand is loaded: its storage format, the format the array uses, headroom and outlier escape. -/
structure LoadCfg where
  sfmt : Nat
  afmt : Nat
  head : Int
  esc : Bool
deriving DecidableEq, Repr

/-- A block of stored source values of plain formats in the array's format (R36–R39). -/
def loadPlain (c : LoadCfg) (xs : List Fv) (n : NumSt) : List Fv × NumSt :=
  if c.afmt = c.sfmt then (xs, n)
  else if fmtBlocked c.afmt then
    let (b, n) := toBlock c.afmt c.head c.esc .nearest 0 xs n
    ofBlock c.afmt b n
  else
    let step := fun (acc : List Fv × NumSt) (x : Fv) =>
      let (k, n) := toZF8 c.afmt .nearest 0 x acc.2
      ((if c.afmt = fmtE4M3 then e4m3Val k else e5m2Val k) :: acc.1, n)
    let (vs, n) := xs.foldl step ([], n)
    (vs.reverse, n)

/-- The values the array uses for block `j` of a row or column of contracted length `k`: elements beyond `k` are zero
(R31), stored narrow blocks are read as stored, or widened when the array runs ZF8 after a promotion (R54). -/
def loadBlock (c : LoadCfg) (k : Nat) (bs : List Byte) (j : Nat) (n : NumSt) : List Fv × NumSt :=
  let live := min 32 (k - 32 * j)
  if fmtBlocked c.sfmt then
    let blk := blockAt c.sfmt bs j
    let (blk, n) := if c.afmt = c.sfmt then (blk, n) else widenBlock c.sfmt blk n
    let (vs, n) := ofBlock c.afmt blk n
    (vs.take live ++ List.replicate (32 - live) (.fin false 0 0), n)
  else
    let raw := (List.range 32).map (fun i => if i < live then
      (let v := plainVal c.sfmt bs (32 * j + i); if c.sfmt = fmtBF16 then flushBF16 v else v) else .fin false 0 0)
    loadPlain c raw n

/-- The exact sum of the products of two blocks, rounded once to FP32 (R41). -/
def groupSum (a b : List Fv) : W32 :=
  let ps := (a.zip b).map (fun p => Fv.mul p.1 p.2)
  (ps.foldl Fv.add (.fin true 0 0)).toF32

/-- A dot product over all blocks, each rounded group sum added to the accumulator in ascending order (R42). -/
def dotBlocks (acc : W32) (a b : List (List Fv)) : W32 :=
  (a.zip b).foldl (fun s p => f32Add s (groupSum p.1 p.2)) acc

end Sys2Proof.Machine
end

