-- ==== Sys2Proof/Machine/Operands.lean ====
section
/-! DEFINITION. Operands of commands: address spaces and regions (R70, R97), the extents of each opcode's operands
(R102–R113), the full check of a descriptor (R93–R113), and reading and writing operand bytes. -/
namespace Sys2Proof.Machine

/-! ### Address spaces (R97, Table 4.5) -/

def spaceOf (a : Nat) : Nat := fld a 63 62

/-- Address bits of a space; the bits above, up to bit 61, are reserved. -/
def spaceBits (sp : Nat) : Nat :=
  match sp with
  | 0 => 48
  | 1 => 26
  | _ => 21

def addrOf (a : Nat) : Nat := a % 2 ^ spaceBits (spaceOf a)

/-- A reserved bit of an address is set. -/
def addrRsv (a : Nat) : Bool := spaceOf a != 3 && fld a 61 (spaceBits (spaceOf a)) != 0

/-- First byte of the staging region of a Spur scratchpad. -/
def stagingBase : Nat := 0x180000

/-- Size of the Ridge scratchpad and of a Spur scratchpad (Table 3.6). -/
def ridgeSpad : Nat := 0x2000000
def spurSpad : Nat := 0x200000

/-- Whether a range of `n` bytes lies in one region that space and Ridge map, outside staging (R70, R97, R111). `act` is
SPURS_PER_RIDGE_ACTIVE. -/
def rangeOk (act : Nat) (a n : Nat) : Bool :=
  let x := addrOf a
  match spaceOf a with
  | 0 => decide (x + n ≤ 2 ^ 48)
  | 1 =>
    if x < ridgeSpad then decide (x + n ≤ ridgeSpad)
    else
      let l := (x - ridgeSpad) / spurSpad
      let o := (x - ridgeSpad) % spurSpad
      decide (l < act) && decide (o + n ≤ stagingBase)
  | 2 => decide (x + n ≤ stagingBase)
  | _ => false

/-- Checkable overlap: both ranges in space 1, or both in space 2. -/
def overlap (a n b m : Nat) : Bool :=
  let sp := spaceOf a
  (sp = 1 || sp = 2) && spaceOf b = sp && decide (addrOf a < addrOf b + m) && decide (addrOf b < addrOf a + n)

/-- Bytes that `rows` rows of `rb` bytes at a stride cover. -/
def extent (rows stride rb : Nat) : Nat := if rows = 0 then 0 else (rows - 1) * stride + rb

/-! ### Fields of NUMCTL (R100, R101) -/

def numctl (d : List Byte) : Nat := leAt d 8 8
def aFmt (w : Nat) : Nat := fld w 3 0
def bFmt (w : Nat) : Nat := fld w 7 4
def dFmt (w : Nat) : Nat := fld w 11 8
def arrA (w : Nat) : Nat := fld w 15 12
def arrB (w : Nat) : Nat := fld w 19 16

/-- Operand pairs of Table 2.6. -/
def pairOk (a b : Nat) : Bool :=
  (a = 6 && (b = 6 || b = 8)) || (a = 7 && (b = 7 || b = 8)) || (a = 1 && b = 1) ||
  (decide (2 ≤ a ∧ a ≤ 5) && decide (2 ≤ b ∧ b ≤ 5))

/-- A ZF4, ZF3 or T2 pair: the shadow check may apply (R50). -/
def pairNarrow (a : Nat) : Bool := a = 6 || a = 7

/-- Storage to array conversions that R101 allows. -/
def loadOk (s a : Nat) : Bool :=
  if s = 0 then false
  else if decide (4 ≤ s) then a = s
  else if a = 1 then s = 1
  else decide (2 ≤ a ∧ a ≤ 8)

def headOk (v : Nat) : Bool := v ≤ 4 || v = 7
def outlOk (v : Nat) : Bool := v != 2
def roundOk (v : Nat) : Bool := v ≤ 2 || v = 7
def intOk (v : Nat) : Bool := v = 0 || decide (16 ≤ v ∧ v ≤ 1024)

/-- The fields of NUMCTL that CONVERT (`a` true) or VEC leaves unused are zero (R101). -/
def numctlUnused (a : Bool) (w : Nat) : Bool :=
  fld w 63 38 = 0 && fld w 32 29 = 0 && fld w 25 12 = 0 && fld w 7 4 = 0 && (a || (fld w 3 0 = 0 && fld w 11 8 = 0))

/-! ### Units (R98, Table 4.6) -/

/-- Rows of a CONVERT unit, and pieces a long row is cut into at block-group boundaries. -/
def convRows (cols : Nat) : Nat := max 1 (65536 / max 1 cols)
def convPieces (cols : Nat) : Nat := max 1 (ceilDiv cols 65536)

def unitsOf (d : List Byte) : Nat :=
  let f := leAt d
  match byteAt d 0 with
  | 1 => ceilDiv (f 0x28 4) 128 * ceilDiv (f 0x2C 4) 256
  | 2 => ceilDiv (f 0x28 4) 128 * ceilDiv (f 0x2C 4) 256
  | 8 => ceilDiv (f 0x38 4) (max 1 (f 0x3C 2))
  | 0x18 => if f 0x24 4 > 65536 then f 0x20 4 * convPieces (f 0x24 4) else ceilDiv (f 0x20 4) (convRows (f 0x24 4))
  | 0x10 => ceilDiv (f 0x28 4 * f 0x2C 4) 65536
  | 0x11 => ceilDiv (f 0x2C 4) (max 1 (65536 / max 1 (f 0x28 4)))
  | 0x12 => ceilDiv (f 0x2C 4) (max 1 (65536 / max 1 (f 0x28 4)))
  | 0x20 => ceilDiv (f 0x20 4) 65536
  | 0x21 => ceilDiv (f 0x20 4) 65536
  | 0x22 => ceilDiv (f 0x20 4) 65536
  | 0x39 => max 1 (ceilDiv (f 0x18 4) 65536)
  | _ => 1

/-! ### The full check (R93) -/

/-- An address field: value, the spaces it may name, its alignment, and the bytes from it. -/
structure ARange where
  addr : Nat
  spaces : List Nat
  align : Nat
  bytes : Nat
deriving DecidableEq, Repr

def zeroBytes (d : List Byte) (o n : Nat) : Bool := leAt d o n = 0

/-- Reserved bits of the descriptor, by opcode (R95, R96). True when one is set. -/
def descRsv (d : List Byte) : Bool :=
  let h := leAt d 0 8
  let w := numctl d
  let f := leAt d
  fld h 63 48 != 0 || fld h 15 11 != 0 ||
  (match byteAt d 0 with
  | 1 => fld w 63 54 != 0 || addrRsv (f 0x10 8) || addrRsv (f 0x18 8) || addrRsv (f 0x20 8)
  | 2 => fld w 63 54 != 0 || addrRsv (f 0x10 8) || addrRsv (f 0x18 8) || addrRsv (f 0x20 8)
  | 8 => !numctlUnused false w || addrRsv (f 0x10 8) || addrRsv (f 0x18 8) || addrRsv (f 0x20 8) || addrRsv (f 0x28 8)
      || addrRsv (f 0x30 8)
  | 0x18 => !numctlUnused true w || addrRsv (f 0x10 8) || addrRsv (f 0x18 8) || !zeroBytes d 0x30 16
  | 0x10 => !zeroBytes d 8 8 || addrRsv (f 0x10 8) || addrRsv (f 0x18 8) || !zeroBytes d 0x20 8 || !zeroBytes d 0x38 8
  | 0x11 => !zeroBytes d 8 8 || addrRsv (f 0x10 8) || addrRsv (f 0x18 8) || addrRsv (f 0x20 8) || !zeroBytes d 0x3C 4
  | 0x12 => !zeroBytes d 8 8 || addrRsv (f 0x10 8) || addrRsv (f 0x18 8) || addrRsv (f 0x20 8) || !zeroBytes d 0x3C 4
  | 0x20 => !zeroBytes d 8 8 || addrRsv (f 0x10 8) || !zeroBytes d 0x18 8 || !zeroBytes d 0x30 16
  | 0x21 => !zeroBytes d 8 8 || addrRsv (f 0x10 8) || !zeroBytes d 0x18 8 || !zeroBytes d 0x28 2 || !zeroBytes d 0x30 16
  | 0x22 => fld (f 8 8) 63 8 != 0 || addrRsv (f 0x10 8) || addrRsv (f 0x18 8) || !zeroBytes d 0x28 2 || !zeroBytes d 0x30 16
  | 0x30 => !zeroBytes d 8 8 || !zeroBytes d 0x1A 2 || !zeroBytes d 0x20 32
  | 0x31 => !zeroBytes d 8 8 || !zeroBytes d 0x1B 37
  | 0x32 => !zeroBytes d 8 8 || !zeroBytes d 0x11 47
  | 0x38 => !zeroBytes d 8 8 || !zeroBytes d 0x18 40
  | _ => !zeroBytes d 8 8 || addrRsv (f 0x10 8) || !zeroBytes d 0x29 23)

/-- Formats (R25, R34, R40, R101, R104). True when one is wrong. -/
def descFormat (d : List Byte) : Bool :=
  let w := numctl d
  match byteAt d 0 with
  | 1 => !(fmtOk (aFmt w) && fmtOk (bFmt w) && fmtOk (dFmt w) && fmtOk (arrA w) && fmtOk (arrB w)
        && aFmt w != 8 && arrA w != 8 && loadOk (aFmt w) (arrA w) && loadOk (bFmt w) (arrB w)
        && pairOk (arrA w) (arrB w) && dFmt w != 8)
  | 2 => !(fmtOk (aFmt w) && fmtOk (bFmt w) && fmtOk (arrA w) && fmtOk (arrB w)
        && aFmt w != 8 && arrA w != 8 && loadOk (aFmt w) (arrA w) && loadOk (bFmt w) (arrB w)
        && pairOk (arrA w) (arrB w) && dFmt w = 0)
  | 0x18 => !(fmtOk (aFmt w) && fmtOk (dFmt w))
  | 0x22 => decide (fld (leAt d 8 8) 3 0 > 1)
  | 0x39 => !fmtOk (byteAt d 0x28)
  | _ => false

/-- The address fields of a descriptor with their extents. -/
def descRanges (d : List Byte) : List ARange :=
  let w := numctl d
  let f := leAt d
  let mm : List ARange := [
    ⟨f 0x10 8, [0, 1, 2], 128, extent (f 0x28 4) (f 0x34 4) (rowBytes (aFmt w) (f 0x30 4))⟩,
    ⟨f 0x18 8, [0, 1, 2], 128, extent (f 0x2C 4) (f 0x38 4) (rowBytes (bFmt w) (f 0x30 4))⟩,
    ⟨f 0x20 8, [0, 1, 2], 128, extent (f 0x28 4) (f 0x3C 4) (rowBytes (dFmt w) (f 0x2C 4))⟩]
  let rb := f 0x28 4
  let n := f 0x2C 4
  let lim := f 0x38 4
  match byteAt d 0 with
  | 1 => mm
  | 2 => mm
  | 8 => [⟨f 0x10 8, [0, 1], 128, 64 + 8 * f 0x3E 2⟩]
  | 0x18 => [
    ⟨f 0x10 8, [0, 1, 2], 128, extent (f 0x20 4) (f 0x28 4) (rowBytes (aFmt w) (f 0x24 4))⟩,
    ⟨f 0x18 8, [0, 1, 2], 128, extent (f 0x20 4) (f 0x2C 4) (rowBytes (dFmt w) (f 0x24 4))⟩]
  | 0x10 => [⟨f 0x10 8, [0, 1], 128, extent n (f 0x30 4) rb⟩, ⟨f 0x18 8, [0, 1, 2], 128, extent n (f 0x34 4) rb⟩]
  | 0x11 => [⟨f 0x10 8, [0, 1], 128, extent lim (f 0x30 4) rb⟩, ⟨f 0x18 8, [0, 1, 2], 128, extent n (f 0x34 4) rb⟩,
      ⟨f 0x20 8, [0, 1], 4, 4 * n⟩]
  | 0x12 => [⟨f 0x10 8, [0, 1], 128, extent n (f 0x30 4) rb⟩, ⟨f 0x18 8, [0, 1], 128, extent lim (f 0x34 4) rb⟩,
      ⟨f 0x20 8, [0, 1], 4, 4 * n⟩]
  | 0x20 => [⟨f 0x10 8, [0, 1], 128, f 0x20 4⟩]
  | 0x21 => [⟨f 0x10 8, [0], 128, f 0x20 4⟩]
  | 0x22 => [⟨f 0x10 8, [0], 128, f 0x20 4⟩, ⟨f 0x18 8, [0, 1], 128, f 0x20 4⟩]
  | 0x39 => [⟨f 0x10 8, [0, 1], 128, f 0x18 4⟩]
  | _ => []

/-- Strides of a descriptor with the bytes of one row each. -/
def descStrides (d : List Byte) : List (Nat × Nat) :=
  let w := numctl d
  let f := leAt d
  let mm := [(f 0x34 4, rowBytes (aFmt w) (f 0x30 4)), (f 0x38 4, rowBytes (bFmt w) (f 0x30 4)), (f 0x3C 4, rowBytes (dFmt w) (f 0x2C 4))]
  let mv := [(f 0x30 4, f 0x28 4), (f 0x34 4, f 0x28 4)]
  match byteAt d 0 with
  | 1 => mm
  | 2 => mm
  | 0x18 => [(f 0x28 4, rowBytes (aFmt w) (f 0x24 4)), (f 0x2C 4, rowBytes (dFmt w) (f 0x24 4))]
  | 0x10 => mv
  | 0x11 => mv
  | 0x12 => mv
  | _ => []

/-- Addresses (R70, R97). True when one is wrong. An empty range is not checked for its bounds (R111). -/
def descAddress (act : Nat) (d : List Byte) : Bool :=
  (descRanges d).any (fun r => !r.spaces.contains (spaceOf r.addr) || addrOf r.addr % r.align != 0 ||
    (r.bytes != 0 && !rangeOk act r.addr r.bytes)) ||
  (descStrides d).any (fun s => s.1 % 128 != 0) ||
  (byteAt d 0 = 8 && ([0x18, 0x20, 0x28, 0x30].any (fun o => spaceOf (leAt d o 8) = 3 || addrOf (leAt d o 8) % 128 != 0 ||
    !rangeOk act (leAt d o 8) 1)))

/-- Dimensions, counts, lengths, strides below a row, SLICE_UNITS (R98). True when one is wrong. -/
def descSize (d : List Byte) : Bool :=
  let f := leAt d
  let su := f 2 2
  let dim := fun (x : Nat) => x = 0 || decide (x > 16777216)
  let len := fun (x : Nat) => x = 0 || x % 128 != 0
  (descStrides d).any (fun s => decide (s.1 < s.2)) ||
  (match byteAt d 0 with
  | 1 => dim (f 0x28 4) || dim (f 0x2C 4) || dim (f 0x30 4) || su = 0
  | 2 => dim (f 0x28 4) || dim (f 0x2C 4) || dim (f 0x30 4) || su = 0
  | 8 => f 0x38 4 = 0 || f 0x3C 2 = 0 || f 0x3E 2 = 0 || decide (f 0x3E 2 > 256) || su = 0
  | 0x18 => f 0x20 4 = 0 || f 0x24 4 = 0 || su = 0
  | 0x10 => len (f 0x28 4) || f 0x2C 4 = 0 || su = 0
  | 0x11 => len (f 0x28 4) || f 0x2C 4 = 0 || su = 0
  | 0x12 => len (f 0x28 4) || f 0x2C 4 = 0 || su = 0
  | 0x20 => len (f 0x20 4) || su = 0
  | 0x21 => len (f 0x20 4) || su = 0
  | 0x22 => len (f 0x20 4) || su = 0
  | 0x39 => f 0x18 4 = 0 || su != 0
  | _ => su != 0)

/-- Control values (Table 4.7 and the fields of the ordering commands). True when one is wrong. -/
def descControl (d : List Byte) : Bool :=
  let w := numctl d
  let f := leAt d
  let dst := !headOk (fld w 28 26) || !outlOk (fld w 34 33) || !roundOk (fld w 37 35)
  let mm := dst || !headOk (fld w 22 20) || !headOk (fld w 25 23) || !outlOk (fld w 30 29) || !outlOk (fld w 32 31) ||
    (pairNarrow (arrA w) && (!intOk (fld w 50 40) || fld w 39 38 = 2 || (decide (fld w 53 51 > 3) && fld w 53 51 != 7)))
  match byteAt d 0 with
  | 1 => mm
  | 2 => mm
  | 8 => dst
  | 0x18 => dst
  | 0x20 => decide (f 0x28 2 > 4095) || decide (f 0x2A 2 > 255)
  | 0x21 => decide (f 0x2A 2 > 255)
  | 0x22 => decide (f 0x2A 2 > 255) || decide (fld (f 8 8) 7 4 > 2)
  | 0x30 => decide (f 0x18 2 > 255)
  | 0x31 => decide (f 0x18 2 > 255) || decide (byteAt d 0x1A > 1)
  | 0x32 => decide (byteAt d 0x10 > 2)
  | _ => false

/-- Overlap that the module can check (R104, R111, R112). -/
def descOverlap (d : List Byte) : Bool :=
  match descRanges d with
  | a :: b :: t =>
    match byteAt d 0 with
    | 1 => t.any (fun x => overlap a.addr a.bytes x.addr x.bytes || overlap b.addr b.bytes x.addr x.bytes)
    | 2 => t.any (fun x => overlap a.addr a.bytes x.addr x.bytes || overlap b.addr b.bytes x.addr x.bytes)
    | 0x22 => false
    | _ => a.bytes != 0 && b.bytes != 0 && overlap a.addr a.bytes b.addr b.bytes
  | _ => false

/-- The halt reason of a refused descriptor: the lowest code that applies; 0 for one that passes (R93). -/
def checkDesc (act : Nat) (d : List Byte) : Nat :=
  if !opOk (byteAt d 0) then 1
  else if descRsv d then 2
  else if descFormat d then 3
  else if descAddress act d then 4
  else if descSize d then 5
  else if descControl d then 6
  else if descOverlap d then 7
  else 0

/-! ### Scratchpads (Table 3.6, R76) -/

/-- Key of a byte of a scratchpad: Ridge n's Spur position p, or its own scratchpad as position 17. -/
def spadKey (n p o : Nat) : Nat := (18 * n + p) * 2 ^ 25 + o

/-- A scratchpad byte: what was written, else zero, else undefined data after an L2 reset or a remap (R76). -/
def Chip.spadByte (c : Chip) (n p o : Nat) : Byte :=
  match Tbl.find c.spads (spadKey n p o) with
  | some b => b
  | none => if p = 17 || (c.spur n p).undef = 0 then 0#8 else Config.freeByte 1 (c.spur n p).undef (spadKey n p o)

def Chip.spadBytes (c : Chip) (n p o k : Nat) : List Byte := (List.range k).map (fun i => c.spadByte n p (o + i))

/-- Bytes written to a scratchpad. -/
def spadPut (n p : Nat) : Nat → List Byte → Tbl Byte → Tbl Byte
  | _, [], t => t
  | o, b :: bs, t => spadPut n p (o + 1) bs (Tbl.put t (spadKey n p o) b)

def Chip.spadWrite (c : Chip) (n p o : Nat) (bs : List Byte) : Chip := { c with spads := spadPut n p o bs c.spads }

/-- A scratchpad emptied: it holds zeros, or undefined data where its Spur's `undef` says so. -/
def Chip.spadClear (c : Chip) (n p : Nat) : Chip :=
  { c with spads := Tbl.dropKeys c.spads (fun k => k / 2 ^ 25 = 18 * n + p) }

/-- Scratchpad and offset of a space-1 address, if the Ridge maps it (R70, R81). -/
def Chip.local1 (c : Chip) (n a : Nat) : Option (Nat × Nat) :=
  let x := addrOf a
  if x < ridgeSpad then some (17, x)
  else (c.spurPos n ((x - ridgeSpad) / spurSpad)).map (fun p => (p, (x - ridgeSpad) % spurSpad))

/-! ### Operand bytes of the executing Spur or engine -/

/-- Bytes of the Ridge scratchpad served (R428). -/
def Chip.spadServed (c : Chip) (n q k : Nat) : Chip := if q = 17 then c.count modInst (Obj.CNT_SPAD_BYTES + n) k else c

/-- Bytes of an operand. `p` is the executing Spur position, for space 2; a local address no longer mapped ends the command
with FAULT_PERMISSION (R81). -/
def State.readOp (s : State) (n part ctx p a len : Nat) : State × Except AccFail (List Byte) :=
  match spaceOf a with
  | 0 => s.readVirt n part ctx (addrOf a) len
  | 1 =>
    match s.chip.local1 n a with
    | some (q, o) => (s.on (fun c => c.spadServed n q len), .ok (s.chip.spadBytes n q o len))
    | none => (s, .error (.status stPermission))
  | _ => (s, .ok (s.chip.spadBytes n p (addrOf a) len))

/-- Bytes written to a destination operand of the Spur at position `p`. -/
def State.writeOp (s : State) (n part ctx p a : Nat) (bs : List Byte) : State × Option AccFail :=
  match spaceOf a with
  | 0 => s.writeVirt n part ctx (addrOf a) bs
  | 1 =>
    match s.chip.local1 n a with
    | some (q, o) => (s.on (fun c => (c.spadWrite n q o bs).spadServed n q bs.length), none)
    | none => (s, some (.status stPermission))
  | _ => (s.on (fun c => c.spadWrite n p (addrOf a) bs), none)

/-- A DMA destination in space 2 is written to every active Spur (R97, R111). -/
def State.writeDma (s : State) (n part ctx a : Nat) (bs : List Byte) : State × Option AccFail :=
  if spaceOf a = 2 then
    (s.on (fun c => (setBits 17 (c.spurMap n)).foldl (fun c p => c.spadWrite n p (addrOf a) bs) c), none)
  else s.writeOp n part ctx 0 a bs

/-- `count` rows of `len` bytes at a stride, in order. -/
def State.readRows (n part ctx p a stride len : Nat) : Nat → State → State × Except AccFail (List (List Byte))
  | 0, s => (s, .ok [])
  | k + 1, s =>
    match s.readOp n part ctx p a len with
    | (s, .error e) => (s, .error e)
    | (s, .ok r) =>
      match State.readRows n part ctx p (a + stride) stride len k s with
      | (s, .error e) => (s, .error e)
      | (s, .ok rs) => (s, .ok (r :: rs))

/-- Rows written at a stride, in order. -/
def State.writeRows (n part ctx p : Nat) (stride : Nat) : Nat → List (List Byte) → State → State × Option AccFail
  | _, [], s => (s, none)
  | a, r :: rs, s =>
    match s.writeOp n part ctx p a r with
    | (s, some e) => (s, some e)
    | (s, none) => State.writeRows n part ctx p stride (a + stride) rs s

end Sys2Proof.Machine
end

