-- ==== Sys2Proof/Machine/Sequencer.lean ====
section
/-! DEFINITION. The queues of a Ridge: doorbells, QCONTROL, descriptor fetch, and completion records
(R87–R94, R125–R127, R136). -/
namespace Sys2Proof.Machine

/-- The Ridge's sequencer issues what it can, after an event on the Ridge. -/
def State.kick (s : State) (n : Nat) : State := s.on (fun c => c.dispatch n)

/-! ### Doorbells (R88, R90) -/

/-- A producer count for queue q of Ridge n from partition `w`. -/
def Chip.doorbell (c : Chip) (w n q p : Nat) : Chip :=
  let x := c.queue n q
  let ign := fun (c : Chip) => c.countPart w Obj.CNT_DOORBELL_IGNORED 1
  if x.st = .disabled || c.owner n != some w then ign c
  else if dist32 p x.accepted = 0 then c
  else if dist32 p x.accepted ≥ 2 ^ 31 then ign c
  else if dist32 p x.consumed > c.reg (qkey Obj.QRING_ENTRIES n q) then
    (if x.st = .running then c.halt n q 0x0A p else ign c)
  else c.setQueue n q { x with accepted := p % 2 ^ 32 }

/-- DOORBELL: a doorbell word, or a write of the DOORBELL object, of a partition (R88, R90). -/
def execDoorbell (part : Fin 8) (ridge : Fin 16) (queue : Fin 8) (count : W32) (s : State) :
    Host.Outcome State Fault Refusal :=
  done (s.on (fun c => c.doorbell part.val ridge.val queue.val count.toNat))

/-- A write of the DOORBELL object: bits [43:40] Ridge, [34:32] queue, [31:0] count, other bits zero (Table 4.18). -/
def effDoorbell : Eff := effOn (fun inst bs c =>
  let v := leNat bs
  if fld v 63 44 != 0 || fld v 39 35 != 0 then (c, rcRange)
  else (c.doorbell inst (fld v 43 40) (fld v 34 32) (fld v 31 0), rcOK))

/-! ### QCONTROL (R92, R94) -/

/-- Halt reasons after which the halting descriptor is fetched again (Table 4.3). -/
def haltsAtFetch (h : Nat) : Bool := decide (1 ≤ h ∧ h ≤ 9)

/-- Where fetching restarts: at QCONSUMED, past committed commands whose records are still due. -/
def Queue.next (x : Queue) : Nat :=
  match x.cmds.getLast? with
  | some k => inc32 k.count
  | none => x.consumed

/-- ENABLE: a DISABLED queue runs and fetches from QCONSUMED. A RETIRED Ridge runs no queue (R219). -/
def Chip.qEnable (c : Chip) (n q : Nat) : Chip × Nat :=
  let x := c.queue n q
  if x.st != .disabled || c.retired n then (c, rcState)
  else (c.setQueue n q { x with st := .running, halt := 0, resume := .running, nextFetch := x.next, disabling := false,
                                failing := false, replayOnly := [] }, rcOK)

/-- Takes a queue out of HALTED; both journal copies take the new state at once (R143). -/
def Queue.unhalt (x : Queue) : Queue :=
  { x with st := .running, halt := 0, resume := .running, failing := false, replayOnly := [] }

/-- RESUME: the halting descriptor is fetched again, or the queue goes on with the next unissued command. -/
def Chip.qResume (c : Chip) (n q : Nat) : Chip × Nat :=
  let x := c.queue n q
  if x.st != .halted then (c, rcState) else (c.setQueue n q x.unhalt, rcOK)

/-- SKIP: the halting descriptor is passed over without a record. -/
def Chip.qSkip (c : Chip) (n q : Nat) : Chip × Nat :=
  let x := c.queue n q
  if x.st != .halted || !haltsAtFetch x.halt then (c, rcState)
  else
    let k := x.haltCount
    let x := { x.unhalt with cmds := x.cmds.filter (fun d => d.count != k), skipped := x.skipped ++ [k],
                             nextFetch := if x.nextFetch = k then inc32 k else x.nextFetch }
    (c.setQueue n q (Queue.advance (x.recorded.length + x.skipped.length) x), rcOK)

/-- DISABLE: from acceptance no new command starts. -/
def Chip.qDisable (c : Chip) (n q : Nat) : Chip × Nat :=
  let x := c.queue n q
  if x.st = .running || x.st = .halted then (c.setQueue n q { x with disabling := true }, rcOK) else (c, rcState)

/-- The object QCONTROL of a queue. -/
def qcontrolKey (n q : Nat) : Nat := qkey Obj.QCONTROL n q

/-- An effect on one queue, after which its Ridge issues what it can. -/
def effQueue (n q : Nat) (f : Chip → Nat → Nat → Chip × Nat) : Eff :=
  fun _ _ s => let (c, e) := f s.chip n q; ((({ s with chip := c } : State).kick n), e)

/-- A write of QCONTROL by its value; values outside Table 4.3 are refused. -/
def effQcontrol (n q : Nat) : Eff := fun inst bs s =>
  match leNat bs with
  | 1 => effQueue n q Chip.qEnable inst bs s
  | 2 => effQueue n q Chip.qResume inst bs s
  | 3 => effQueue n q Chip.qSkip inst bs s
  | 4 => effQueue n q Chip.qDisable inst bs s
  | _ => (s, rcRange)

/-- QCONTROL_ENABLE (R94). -/
def execQcontrolEnable (r : Req) (ridge : Fin 16) (queue : Fin 8) (s : State) : Host.Outcome State Fault Refusal :=
  done (s.rowWrite r (qcontrolKey ridge.val queue.val) (wr 1 1) (effQueue ridge.val queue.val Chip.qEnable))

/-- QCONTROL_RESUME (R94). -/
def execQcontrolResume (r : Req) (ridge : Fin 16) (queue : Fin 8) (s : State) : Host.Outcome State Fault Refusal :=
  done (s.rowWrite r (qcontrolKey ridge.val queue.val) (wr 1 2) (effQueue ridge.val queue.val Chip.qResume))

/-- QCONTROL_SKIP (R94). -/
def execQcontrolSkip (r : Req) (ridge : Fin 16) (queue : Fin 8) (s : State) : Host.Outcome State Fault Refusal :=
  done (s.rowWrite r (qcontrolKey ridge.val queue.val) (wr 1 3) (effQueue ridge.val queue.val Chip.qSkip))

/-- QCONTROL_DISABLE (R94). -/
def execQcontrolDisable (r : Req) (ridge : Fin 16) (queue : Fin 8) (s : State) : Host.Outcome State Fault Refusal :=
  done (s.rowWrite r (qcontrolKey ridge.val queue.val) (wr 1 4) (effQueue ridge.val queue.val Chip.qDisable))

/-- A hold or release: the object takes the value now, the queue at the next boundary (R136). -/
def effSet (key : Nat) : Eff := effOn (fun inst bs c => (c.set inst key (leNat bs), rcOK))

/-- QUEUE_HOLD_WRITE (R136). -/
def execQueueHoldWrite (r : Req) (ridge : Fin 16) (queue : Fin 8) (hold : Bool) (s : State) :
    Host.Outcome State Fault Refusal :=
  let key := atIdx Obj.QUEUE_HOLD ridge.val + queue.val
  done (s.rowWrite r key (wr 1 (if hold then 1 else 0)) (effSet key))

/-! ### Fetch (R89, R93) -/

/-- The command that a descriptor makes: its units and its slices (R98, R133). -/
def newCmd (count : Nat) (d : List Byte) : Cmd :=
  let u := unitsOf d
  let su := leAt d 2 2
  { count := count, desc := d, op := byteAt d 0, units := u, perSlice := if su = 0 then u else su }

/-- A descriptor that passed its checks enters the queue, or takes its place again after a rewind or a halt. -/
def Queue.accept (x : Queue) (count : Nat) (d : List Byte) : Queue :=
  if x.cmds.any (fun k => k.count = count) then
    x.updCmd count (fun k => if k.cfgRead then { k with desc := d, stale := false }
      else { newCmd count d with slices := k.slices, flags := k.flags, cycles := k.cycles })
  else { x with cmds := x.cmds ++ [newCmd count d], nextFetch := inc32 count }

/-- The next descriptor of a queue is read through the Ridge's translation unit and checked in full (R89, R93). A command
that had started before a rewind is not refused anew (R81). -/
def State.fetch (s : State) (n q : Nat) : State :=
  let x := s.chip.queue n q
  match s.chip.owner n, x.toFetch with
  | some part, some c =>
    if x.fetchWait then s
    else
      let va := s.chip.reg (qkey Obj.QRING_BASE n q) + 64 * (c % s.chip.reg (qkey Obj.QRING_ENTRIES n q))
      match s.readVirt n part (s.chip.qctx n q) va 64 with
      | (s, .error f) => s.fail f (.fetch n q)
      | (s, .ok d) =>
        let ran := x.cmds.any (fun k => k.count = c && k.cfgRead)
        let why := if ran then 0 else checkDesc (s.chip.spursActive n) d
        if why != 0 then s.on (fun ch => ch.halt n q why c)
        else (s.on (fun ch => ch.updQueue n q (fun x => x.accept c d))).kick n
  | _, _ => s

/-- DESCRIPTOR_FETCH (R89, R93). -/
def execDescriptorFetch (ridge : Fin 16) (queue : Fin 8) (s : State) : Host.Outcome State Fault Refusal :=
  done (s.fetch ridge.val queue.val)

/-! ### Completion records (R125–R127) -/

/-- The 16 bytes of a completion record (Table 4.16). -/
def Cmd.record (k : Cmd) : List Byte :=
  leBytes 1 k.outcome ++ leBytes 1 k.flags ++ leBytes 2 k.slices ++ leBytes 4 k.count ++ leBytes 6 k.cycles ++
  leBytes 2 (fld (k.field 0 8) 47 32)

/-- A queue with a failed command whose started commands have all written their records halts (R127). -/
def Chip.failHalt (c : Chip) (n q : Nat) : Chip :=
  let x := c.queue n q
  if x.failing && x.st = .running && !x.cmds.any (fun k => k.started || k.cfgRead) then
    (c.setQueue n q { x with failing := false }).halt n q 0x0B x.failCount
  else c

/-- The record of the first committed command in completion order is written (R126). A numeric exception is raised once
(R48), and COMMAND_COMPLETE where NOTIFY asks for it (R95, R337). -/
def State.writeRecord (s : State) (n q : Nat) : State :=
  let x := s.chip.queue n q
  match s.chip.owner n, x.records with
  | some part, count :: _ =>
    match x.cmd count with
    | none => s
    | some k =>
      if x.recordWait then s
      else
        let va := s.chip.reg (qkey Obj.CRING_BASE n q) + 16 * (count % s.chip.reg (qkey Obj.QRING_ENTRIES n q))
        match s.writeVirt n part (s.chip.qctx n q) va k.record with
        | (s, some f) => s.fail f (.record n q)
        | (s, none) =>
          let s := s.on (fun c => c.updQueue n q (fun x => x.passRecord count))
          let s := s.on (fun c => c.numericEvent n k)
          let s := if k.notify then
            s.on (fun c => c.raise 0x0431 part [(1, n), (1, q), (4, count), (1, k.outcome)]) else s
          (s.on (fun c => c.failHalt n q)).kick n
  | _, _ => s

/-- COMPLETION_RECORD_WRITE (R126, R127). -/
def execCompletionRecordWrite (ridge : Fin 16) (queue : Fin 8) (s : State) : Host.Outcome State Fault Refusal :=
  done (s.writeRecord ridge.val queue.val)

end Sys2Proof.Machine
end

