-- ==== Sys2Proof/Machine/Calibration.lean ====
section
/-! DEFINITION. Calibration commands (Calibration, R318–R326). -/
namespace Sys2Proof.Machine

/-- A group's sensor is read, and a run starts where the temperature has moved by more than CAL_TEMP_DELTA (R319). -/
def Chip.calTrigger (c : Chip) (g : Nat) (temp : W32) : Chip :=
  let c := { c with calTemps := Tbl.put c.calTemps g temp }
  let last := BitVec.ofNat 32 (c.reg (Obj.CAL_LAST_TEMP + g))
  if f32Lt (BitVec.ofNat 32 (c.reg Obj.CAL_TEMP_DELTA)) (f32Abs (f32Sub temp last)) then c.calStart g temp else c

def execCalTrigger (group : Fin 58) (temp : W32) (s : State) : Host.Outcome State Fault Refusal :=
  done (s.on (fun c => c.calTrigger group.val temp))

/-- A write of CAL_REQUEST: bit g requests a run of group g, at its sensor's last reading. -/
def effCalRequest : Eff := effOn (fun _ bs c =>
  let v := leNat bs
  if v ≥ 2 ^ 58 then (c, rcRange)
  else
    ((setBits 58 v).foldl (fun c g =>
      c.calStart g (Tbl.get c.calTemps (BitVec.ofNat 32 (c.reg (Obj.CAL_LAST_TEMP + g))) g)) c, rcOK))

def execCalRequest (r : Req) (mask : W64) (s : State) : Host.Outcome State Fault Refusal :=
  done (s.rowWrite r Obj.CAL_REQUEST (wr 8 mask.toNat) effCalRequest)

def execCalMeasureDone (group : Fin 58) (data : List CalData) (s : State) : Host.Outcome State Fault Refusal :=
  done (s.on (fun c => if c.calState group.val = calMeasure then c.calSolve group.val data else c))

/-- A lane or pin has not gathered its bits in CAL_NODATA_FRAMES; `last` says that none is left with data (R320, R321). -/
def execCalNodataTimeout (group : Fin 58) (lane : W16) (last : Bool) (s : State) : Host.Outcome State Fault Refusal :=
  done (s.on (fun c =>
    if c.calState group.val = calMeasure then
      if last then c.calEnd group.val calNoData
      else
        let r := c.calRun group.val
        c.setCal group.val calMeasure { r with gone := r.gone ++ [lane.toNat] }
    else c))

def execCalParamStep (group : Fin 58) (resid : W32) (s : State) : Host.Outcome State Fault Refusal :=
  done (s.on (fun c => c.calStep group.val resid))

def execCalVerifyDone (group : Fin 58) (data : List CalData) (s : State) : Host.Outcome State Fault Refusal :=
  done (s.on (fun c => if c.calState group.val = calVerify then c.calVerifyDone group.val data else c))

/-- A write of CAL_ENABLE: the groups whose bit it clears end their runs (R325). -/
def effCalEnable : Eff := effOn (fun _ bs c =>
  let v := leNat bs
  if v ≥ 2 ^ 58 then (c, rcRange)
  else
    let old := c.reg Obj.CAL_ENABLE
    let c := c.setReg Obj.CAL_ENABLE v
    (((setBits 58 old).filter (fun g => !bitAt v g)).foldl Chip.calDisable c, rcOK))

def execCalEnableWrite (r : Req) (mask : W64) (s : State) : Host.Outcome State Fault Refusal :=
  done (s.rowWrite r Obj.CAL_ENABLE (wr 8 mask.toNat) effCalEnable)

end Sys2Proof.Machine
end

