-- ==== Sys2Proof/Machine/Flags.lean ====
section
/-! DEFINITION. The numeric flags of a command, the numeric counters, and the shadow check (R46–R56, Table 2.8). -/
namespace Sys2Proof.Machine

/-- Bits of NUMFLAGS (Table 2.8). -/
def flNanInf : Nat := 0
def flMalformed : Nat := 1
def flSaturated : Nat := 2
def flExceeded : Nat := 3
def flPromoted : Nat := 4
def flUnchecked : Nat := 5
def flNonfinite : Nat := 6

/-- A numeric counter and its module-wide sum, by place in Table 2.11: 0 NaN/Inf blocks … 7 promotion overflows. -/
def Chip.countNum (c : Chip) (part i n : Nat) : Chip :=
  if n = 0 then c
  else (c.countPart part (Obj.CNT_NAN_INF_BLOCKS + i) n).count modInst (Obj.CNT_MODULE_NUMERIC + i) n

/-- A flag is set when its condition occurred in any execution of the command (R49). -/
def Cmd.flag (k : Cmd) (b : Nat) (on : Bool) : Cmd := if on then { k with flags := putBit k.flags b true } else k

/-- What the conversions of a unit reported: flags of the command, counters of the partition and the module. -/
def Chip.report (c : Chip) (n q count part : Nat) (st : NumSt) : Chip :=
  let c := c.countNum part 0 st.nanInf
  let c := c.countNum part 1 st.malformed
  let c := c.countNum part 2 st.saturated
  c.updCmd n q count (fun k =>
    (((k.flag flNanInf (decide (st.nanInf > 0))).flag flMalformed (decide (st.malformed > 0))).flag flSaturated
      (decide (st.saturated > 0))).flag flNonfinite st.nonfinite)

/-- Whether some value of a list is NaN or infinite. -/
def anyNonfinite (l : List W32) : Bool := l.any (fun w => !f32Finite w)

/-! ### The shadow check (R50–R53) -/

/-- The relative error of a sampled tile; none where it cannot be formed (R51, R52). -/
def shadowEps (dn dr : List W32) : Option W32 :=
  if anyNonfinite dn || anyNonfinite dr then none
  else
    let ref := f32Sum (dr.map f32Abs)
    let dif := f32Sum ((dn.zip dr).map (fun p => f32Abs (f32Sub p.1 p.2)))
    let own := f32Sum (dn.map f32Abs)
    if !f32Finite ref then none
    else if (f32Val ref).isZero then some (if (f32Val own).isZero then f32Zero false else f32Inf false)
    else if !f32Finite dif then some (f32Inf false)
    else some (f32Div dif ref)

/-- A sample that ends at the sequencer: the run count, the counters and the flags (R52, R53). -/
def Chip.sampled (c : Chip) (n q count part : Nat) (eps : Option W32) : Chip :=
  match eps with
  | none => (c.countNum part 5 1).updCmd n q count (fun k => k.flag flUnchecked true)
  | some e =>
    let c := c.countNum part 3 1
    match c.cmd n q count with
    | none => c
    | some k =>
      if f32Lt k.cfg.threshold e then
        (c.countNum part 4 1).updCmd n q count (fun k => { k.flag flExceeded true with runCount := k.runCount + 1 })
      else c.updCmd n q count (fun k => { k with runCount := 0 })

/-- The first slice of a command that has not been issued: a promotion takes effect from it (Table 2.9). -/
def Cmd.nextSlice (k : Cmd) : Nat := k.issued.foldl (fun m p => max m (p.1 + 1)) 0

/-- The policy of a command whose run count has reached its limit: the event once per command, then Table 2.9. A full
promotion table makes policies 2 and 3 act as policy 1 (R53–R55). -/
def Chip.shadowTrigger (c : Chip) (n q count : Nat) : Chip :=
  match c.cmd n q count with
  | none => c
  | some k =>
    if k.triggered || k.runCount < k.cfg.runLimit then c
    else
      let part := c.ownerN n
      let c := c.updCmd n q count (fun k => { k with triggered := true })
      let c := c.raise 0x0410 part []
      if k.cfg.policy = 0 then c
      else
        let c := c.countNum part 6 1
        let isB := k.cfg.policy = 3
        let addr := if isB then k.field 0x18 8 else k.field 0x10 8
        let r := c.ridge n
        let entry : Promo := ⟨c.qctx n q, spaceOf addr, addrOf addr, isB⟩
        let c :=
          if k.cfg.policy < 2 then c
          else if r.promo.any (fun e => e.ctx = entry.ctx && e.space = entry.space && e.base = entry.base) then c
          else if r.promo.length ≥ 16 then c.countNum part 7 1
          else c.updRidge n (fun r => { r with promo := r.promo ++ [entry] })
        c.updCmd n q count (fun k => { k with
          promoFrom := k.nextSlice, promoA := true, promoB := k.promoB || k.cfg.policy = 1 || isB })

end Sys2Proof.Machine
end

