-- ==== Sys2Proof/Machine/Compute.lean ====
section
/-! DEFINITION. The units of work on a Spur: tile loads, matrix tiles, vector blocks, conversions, write-back, and their
end (R41, R42, R50–R54, R60–R64, R102–R109, R112, R145, R204). -/
namespace Sys2Proof.Machine

/-! ### The unit on a Spur -/

/-- The unit of a Spur with its command and the partition. -/
structure Work where
  x : SpurUnit
  k : Cmd
  part : Nat
  ctx : Nat
deriving DecidableEq, Repr

def Chip.work (c : Chip) (n p : Nat) : Option Work :=
  match (c.spur n p).unit, c.owner n with
  | some x, some part => (c.cmd n x.queue x.count).map (fun k => ⟨x, k, part, c.qctx n x.queue⟩)
  | _, _ => none

def Work.waiter (w : Work) (n : Nat) : Waiter := .tile n w.x.queue w.x.count w.x.unit

/-- The unit on a Spur changed. -/
def Chip.updUnitOf (c : Chip) (n p : Nat) (f : SpurUnit → SpurUnit) : Chip :=
  c.updSpur n p (fun s => { s with unit := s.unit.map f })

/-- Translations that an access of `len` bytes needs are made, without the access. -/
def State.probeGo (n part ctx : Nat) (write : Bool) : List (Nat × Nat) → State → State × Option AccFail
  | [], s => (s, none)
  | (va, _) :: t, s =>
    match s.translate n part ctx va write with
    | (s, .error i) => (s, some (.fault i))
    | (s, .ok _) => State.probeGo n part ctx write t s

def State.probe (s : State) (n part ctx a len : Nat) (write : Bool) : State × Option AccFail :=
  if spaceOf a = 0 then State.probeGo n part ctx write (pieces (len / 65536 + 2) (addrOf a) len) s else (s, none)

/-- `count` rows probed at a stride. -/
def State.probeRows (n part ctx len stride : Nat) (write : Bool) : Nat → Nat → State → State × Option AccFail
  | 0, _, s => (s, none)
  | k + 1, a, s =>
    match s.probe n part ctx a len write with
    | (s, some f) => (s, some f)
    | (s, none) => State.probeRows n part ctx len stride write k (a + stride) s

/-! ### Storing elements (R30, R43, R103) -/

/-- How results are converted: storage format, headroom, outlier escape, rounding mode. -/
structure OutCfg where
  fmt : Nat
  head : Int
  esc : Bool
  rnd : Rnd
deriving DecidableEq, Repr

def rndOf (r : Nat) : Rnd := if r = 1 then .stochastic else if r = 2 then .towardZero else .nearest

def Cmd.out (k : Cmd) : OutCfg := ⟨if k.op = opVec then 0 else dFmt (numctl k.desc), k.cfg.headD, k.cfg.outlD, rndOf k.cfg.round⟩

/-- Offset and length in a row of the bytes that elements [c, c + n) lie in; whole block groups of a block format. -/
def span (f c n : Nat) : Nat × Nat :=
  if fmtBlocked f then (c / 1024 * groupBytes f, ceilDiv (c % 1024 + n) 1024 * groupBytes f)
  else (c * (elemBits f / 8), n * (elemBits f / 8))

/-- Blocks of an output conversion of values from element 0 of a lane run on. -/
def outBlocks (o : OutCfg) (ws : List W32) (n : NumSt) : List Block × NumSt :=
  let step := fun (acc : List Block × NumSt × Nat) (c : List W32) =>
    let (b, s) := toBlock o.fmt o.head o.esc o.rnd (acc.2.2 % 256)
      (c.map f32Val ++ List.replicate (32 - c.length) (.fin false 0 0)) acc.2.1
    (b :: acc.1, s, acc.2.2 + 32)
  let (bs, n, _) := (chunks 32 ws.length ws).foldl step ([], n, 0)
  (bs.reverse, n)

/-- The pieces, offset in the row and bytes, that store `ws` at element `c` of a row: blocks of one group as their data and
their metadata words. `last` fills the unused blocks of the row's last group with zero blocks (R30). -/
def outPieces (o : OutCfg) (c : Nat) (last : Bool) (ws : List W32) (n : NumSt) : List (Nat × List Byte) × NumSt :=
  if fmtBlocked o.fmt then
    let (bs, n) := outBlocks o ws n
    let b0 := c / 32 % 32
    let bs := if last then bs ++ List.replicate (32 - b0 - bs.length) zeroBlock else bs
    let g := c / 1024 * groupBytes o.fmt
    let db := 4 * elemBits o.fmt
    ([(g + b0 * db, (bs.map (blockData o.fmt)).flatten), (g + 32 * db + 4 * b0, (bs.map (fun b => leBytes 4 b.mtd)).flatten)], n)
  else
    let (bs, n) := rowBytesOf o.fmt o.head o.esc o.rnd ws n
    ([((span o.fmt c ws.length).1, bs)], n)

/-- Pieces of one row written. -/
def State.writePieces (n part ctx p a : Nat) : List (Nat × List Byte) → State → State × Option AccFail
  | [], s => (s, none)
  | (o, bs) :: t, s =>
    match s.writeOp n part ctx p (a + o) bs with
    | (s, some e) => (s, some e)
    | (s, none) => State.writePieces n part ctx p a t s

/-! ### Matrix tiles (R50, R102–R104) -/

/-- First row and column of tile `t`, and the rows and columns it has within the matrix (R103). -/
def Cmd.tile (k : Cmd) (t : Nat) : Nat × Nat × Nat × Nat :=
  let nt := ceilDiv (k.field 0x2C 4) 256
  let r0 := 128 * (t / nt)
  let c0 := 256 * (t % nt)
  (r0, c0, min 128 (k.field 0x28 4 - r0), min 256 (k.field 0x2C 4 - c0))

/-- Whether slice `i` of a command runs promoted (R53–R55). -/
def Cmd.promoted (k : Cmd) (i : Nat) : Bool := (k.promoA || k.promoB) && decide (k.promoFrom ≤ i)

/-- How operand A or B is loaded; a promoted command runs ZF8 × ZF8 in block-scaled E4M3 (R54). -/
def Cmd.load (k : Cmd) (isB prom : Bool) : LoadCfg :=
  let w := numctl k.desc
  if isB then ⟨bFmt w, if prom then 4 else arrB w, k.cfg.headB, k.cfg.outlB⟩
  else ⟨aFmt w, if prom then 4 else arrA w, k.cfg.headA, k.cfg.outlA⟩

/-- The operand rows of a tile: A from its first row, B from its first column. -/
def Cmd.operand (k : Cmd) (t : Nat) (isB : Bool) : Nat × Nat × Nat × Nat :=
  let (r0, c0, rows, cols) := k.tile t
  let w := numctl k.desc
  if isB then (k.field 0x18 8 + c0 * k.field 0x38 4, k.field 0x38 4, rowBytes (bFmt w) (k.field 0x30 4), cols)
  else (k.field 0x10 8 + r0 * k.field 0x34 4, k.field 0x34 4, rowBytes (aFmt w) (k.field 0x30 4), rows)

/-- The rows of an operand of a tile. -/
def State.tileRows (s : State) (n p : Nat) (w : Work) (isB : Bool) : State × Except AccFail (List (List Byte)) :=
  let (a, stride, len, cnt) := w.k.operand w.x.unit isB
  State.readRows n w.part w.ctx p a stride len cnt s

/-- Where the rows of a tile of D lie: the address of its first row, the stride, offset and length within a row. -/
def Cmd.dest (k : Cmd) (t : Nat) : Nat × Nat × Nat × Nat :=
  let (r0, c0, _, cols) := k.tile t
  let (o, l) := span (dFmt (numctl k.desc)) c0 cols
  (k.field 0x20 8 + r0 * k.field 0x3C 4, k.field 0x3C 4, o, l)

/-- The translations of a tile's rows of D. -/
def State.probeDest (s : State) (n : Nat) (w : Work) : State × Option AccFail :=
  let (a, stride, o, l) := w.k.dest w.x.unit
  let (_, _, rows, _) := w.k.tile w.x.unit
  State.probeRows n w.part w.ctx l stride true rows (a + o) s

/-- A tile's operands are loaded into the staging region; those in space 2 stay where they lie (R103). A fault parks the
unit (R204). -/
def State.loadTile (s : State) (n p : Nat) (w : Work) : State :=
  let stage := fun (s : State) (isB : Bool) =>
    if spaceOf (w.k.field (if isB then 0x18 else 0x10) 8) = 2 then (s, (Except.ok [] : Except AccFail (List (List Byte))))
    else s.tileRows n p w isB
  match stage s false with
  | (s, .error f) => s.fail f (w.waiter n)
  | (s, .ok ra) =>
    match stage s true with
    | (s, .error f) => s.fail f (w.waiter n)
    | (s, .ok rb) =>
      match s.probeDest n w with
      | (s, some f) => s.fail f (w.waiter n)
      | (s, none) => s.on (fun c => c.updUnitOf n p (fun x => { x with phase := 1, stageA := ra, stageB := rb }))

/-- Rows in the array's values, block by block. -/
def loadRows (l : LoadCfg) (k : Nat) (rows : List (List Byte)) (n : NumSt) : List (List (List Fv)) × NumSt :=
  let row := fun (n : NumSt) (bs : List Byte) =>
    (List.range (ceilDiv k 32)).foldl (fun (acc : List (List Fv) × NumSt) j =>
      let (v, n) := loadBlock l k bs j acc.2
      (v :: acc.1, n)) ([], n)
  let (rs, n) := rows.foldl (fun (acc : List (List (List Fv)) × NumSt) bs =>
    let (r, n) := row acc.2 bs
    (r.reverse :: acc.1, n)) ([], n)
  (rs.reverse, n)

/-- A full tile of results in row-major order: 128 rows of 256 columns, +0.0 beyond the operands' rows and columns. -/
def tileSums (a b : List (List (List Fv))) (prior : List (List W32)) : List W32 :=
  let rows := (List.range 128).map (fun i => match a[i]? with
    | none => List.replicate 256 (f32Zero false)
    | some ra => (List.range 256).map (fun j => match b[j]? with
      | none => f32Zero false
      | some cb => dotBlocks ((prior.getD i []).getD j (f32Zero false)) ra cb))
  rows.flatten

/-- The nonzero entries of a list as a table from its positions. -/
def tblOf (l : List W32) : Tbl W32 :=
  (List.range l.length).zip l |>.filter (fun p => p.2 != 0#32)

/-- The prior FP32 values of a tile of D (R63). -/
def State.priorRows (s : State) (n p : Nat) (w : Work) : State × Except AccFail (List (List W32)) :=
  let (a, stride, o, l) := w.k.dest w.x.unit
  let (_, _, rows, _) := w.k.tile w.x.unit
  match State.readRows n w.part w.ctx p (a + o) stride l rows s with
  | (s, .error f) => (s, .error f)
  | (s, .ok rs) => (s, .ok (rs.map (fun r => (List.range (l / 4)).map (fun i => BitVec.ofNat 32 (leAt r (4 * i) 4)))))

/-- The array runs a loaded tile: the sums go to the accumulator file; a sampled tile is run again in ZF8 (R50–R52). -/
def State.runTile (s : State) (n p : Nat) (w : Work) (prior : List (List W32)) : State :=
  let rows := fun (s : State) (isB : Bool) (st : List (List Byte)) =>
    if spaceOf (w.k.field (if isB then 0x18 else 0x10) 8) = 2 then s.tileRows n p w isB else (s, .ok st)
  match rows s false w.x.stageA with
  | (s, .error f) => s.fail f (w.waiter n)
  | (s, .ok ra) =>
    match rows s true w.x.stageB with
    | (s, .error f) => s.fail f (w.waiter n)
    | (s, .ok rb) =>
      let kk := w.k.field 0x30 4
      let ctl := numctl w.k.desc
      let prom := w.k.promoted (w.k.sliceOf w.x.unit)
      let gens := (s.chip.spur n p).gens
      let (va, st) := loadRows (w.k.load false prom) kk ra { gens := gens }
      let (vb, st) := loadRows (w.k.load true prom) kk rb st
      let acc := tileSums va vb prior
      let due := pairNarrow (arrA ctl) && w.k.cfg.shadow && !prom && w.x.unit % w.k.cfg.interval = 0
      let narrow := decide (aFmt ctl ≥ 6) || decide (bFmt ctl ≥ 6)
      let dn := if due && !narrow then (if prior.isEmpty then acc else tileSums va vb []) else []
      let dr := if due && !narrow then
          (let (xa, st) := loadRows ⟨aFmt ctl, 4, 0, false⟩ kk ra {}
           let (xb, _) := loadRows ⟨bFmt ctl, 4, 0, false⟩ kk rb st
           tileSums xa xb [])
        else []
      let s := s.on (fun c => c.report n w.x.queue w.x.count w.part st)
      let s := s.on (fun c => c.updCmd n w.x.queue w.x.count (fun k => k.flag flPromoted prom))
      s.on (fun c => c.updSpur n p (fun sp => { sp with
        acc := tblOf acc, accUndef := 0, gens := st.gens,
        unit := sp.unit.map (fun x => { x with phase := 2, stageA := [], stageB := [], narrow := dn, wide := dr, sampled := due,
                                               unchecked := narrow }) }))

/-- An accumulator: what the last tile left, zero, or undefined data (R64). -/
def Chip.accAt (c : Chip) (n p i : Nat) : W32 :=
  let sp := c.spur n p
  match Tbl.find sp.acc i with
  | some v => v
  | none => if sp.accUndef = 0 then 0#32
            else BitVec.ofNat 32 (leNat ((List.range 4).map (fun j => Config.freeByte 2 sp.accUndef (4 * i + j))))

/-- Output conversion and write of a tile's rows, row by row. -/
def State.writeTile (n p : Nat) (w : Work) : List Nat → NumSt → State → State × Option AccFail × NumSt
  | [], st, s => (s, none, st)
  | i :: t, st, s =>
    let (_, c0, _, cols) := w.k.tile w.x.unit
    let (a, stride, _, _) := w.k.dest w.x.unit
    let ws := (List.range cols).map (fun j => s.chip.accAt n p (256 * i + j))
    let (ps, st) := outPieces w.k.out c0 (decide (c0 + cols ≥ w.k.field 0x2C 4)) ws st
    let st := { st with nonfinite := st.nonfinite || anyNonfinite ws }
    match State.writePieces n w.part w.ctx p (a + i * stride) ps s with
    | (s, some f) => (s, some f, st)
    | (s, none) => State.writeTile n p w t st s

/-- The write-back of a computed tile: every page of the destination is translated before the first byte is written, so that
a unit issued again after a fault adds nothing twice (R204). MM_ACC is marked from its first write-back (R145). -/
def State.writeback (s : State) (n p : Nat) (w : Work) : State :=
  match s.probeDest n w with
  | (s, some f) => s.fail f (w.waiter n)
  | (s, none) =>
    let (_, _, rows, _) := w.k.tile w.x.unit
    let (s, f, st) := State.writeTile n p w (List.range rows) { gens := (s.chip.spur n p).gens } s
    let s := s.on (fun c => c.report n w.x.queue w.x.count w.part st)
    let s := s.on (fun c => c.updSpur n p (fun sp => { sp with gens := st.gens }))
    let sl := w.k.sliceOf w.x.unit
    let s := s.on (fun c => c.updCmd n w.x.queue w.x.count (fun k => { k with
      accMark := k.accMark || k.op = opMMAcc, wrote := if k.wrote.contains sl then k.wrote else k.wrote ++ [sl] }))
    match f with
    | some f => s.fail f (w.waiter n)
    | none => s.on (fun c => c.updUnitOf n p (fun x => { x with phase := 3 }))

/-! ### Vector programs (R105–R109) -/

/-- Operand entry `i` of a program header (Table 4.10): format, direction, stride. -/
def progFmt (h : List Byte) (i : Nat) : Nat := fld (leAt h (16 * i) 8) 3 0
def progDir (h : List Byte) (i : Nat) : Nat := fld (leAt h (16 * i) 8) 5 4
def progStride (h : List Byte) (i : Nat) : Nat := leAt h (16 * i + 8) 4

/-- The instructions of a program, `len` words after the header. -/
def progWords (h : List Byte) (len : Nat) : List Nat := (List.range len).map (fun i => leAt h (64 + 8 * i) 8)

def vop (w : Nat) : Nat := fld w 7 0
def vD (w : Nat) : Nat := fld w 12 8
def vA (w : Nat) : Nat := fld w 17 13
def vB (w : Nat) : Nat := fld w 22 18
def vC (w : Nat) : Nat := fld w 27 23
def vOpn (w : Nat) : Nat := fld w 29 28
def vImm (w : Nat) : Nat := fld w 63 32

/-- Which of VD, VA, VB, VC, OPN, IMM an operation uses (Table 4.12); none for an undefined VOP. -/
def vopUses (o : Nat) : Option (Bool × Bool × Bool × Bool × Bool × Bool) :=
  if [0x01, 0x02, 0x03, 0x05, 0x06, 0x07, 0x14].contains o then some (true, true, true, false, false, false)
  else if o = 0x04 || o = 0x08 then some (true, true, true, true, false, false)
  else if o = 0x09 || o = 0x0A || o = 0x0B then some (true, true, false, false, false, true)
  else if o = 0x0C then some (true, false, false, false, false, true)
  else if [0x10, 0x11, 0x12, 0x13, 0x18, 0x19, 0x22].contains o then some (true, true, false, false, false, false)
  else if o = 0x20 then some (true, false, false, false, true, true)
  else if o = 0x21 then some (false, true, false, false, true, true)
  else none

/-- An instruction that breaks R108 or R109. -/
def badWord (h : List Byte) (w : Nat) : Bool :=
  match vopUses (vop w) with
  | none => true
  | some (d, a, b, c, o, i) =>
    (!d && vD w != 0) || (!a && vA w != 0) || (!b && vB w != 0) || (!c && vC w != 0) || (!o && vOpn w != 0) ||
    (!i && vImm w != 0) ||
    (vop w = 0x0B && decide (vImm w > 255)) || (vop w = 0x0C && decide (vImm w > 127)) ||
    (vop w = 0x20 && progDir h (vOpn w) != 1 && progDir h (vOpn w) != 3) ||
    (vop w = 0x21 && progDir h (vOpn w) != 2 && progDir h (vOpn w) != 3) ||
    ((vop w = 0x20 || vop w = 0x21) &&
      (let sp := span (progFmt h (vOpn w)) (256 * vImm w) 256
       decide (sp.1 + sp.2 > progStride h (vOpn w))))

/-- Bytes of a row of operand `i` that the program touches. -/
def progRow (h : List Byte) (ws : List Nat) (i : Nat) : Nat :=
  ws.foldl (fun m w => if (vop w = 0x20 || vop w = 0x21) && vOpn w = i then
    (let sp := span (progFmt h i) (256 * vImm w) 256; max m (sp.1 + sp.2)) else m) 0

/-- The base of operand `i` in the descriptor. -/
def Cmd.opAddr (k : Cmd) (i : Nat) : Nat := k.field (0x18 + 8 * i) 8

/-- The halt reason of a vector program, the lowest that applies; 0 for a valid one (R93, R106, R108, R109). -/
def progCheck (act : Nat) (k : Cmd) (h : List Byte) : Nat :=
  let ws := progWords h (k.field 0x3E 2)
  let ops := [0, 1, 2, 3]
  let rsv := ops.any (fun i => fld (leAt h (16 * i) 8) 63 6 != 0 || leAt h (16 * i + 12) 4 != 0) ||
    ws.any (fun w => fld w 31 30 != 0)
  let fmt := ops.any (fun i => progDir h i != 0 && (!fmtOk (progFmt h i) || progFmt h i = fmtT2))
  let adr := ops.any (fun i => progDir h i != 0 && (progStride h i % 128 != 0 ||
    (let n := progRow h ws i
     n != 0 && !rangeOk act (k.opAddr i) (extent (k.field 0x38 4) (progStride h i) n))))
  let bad := ops.any (fun i => progDir h i = 0 && k.opAddr i != 0) || ws.any (badWord h) ||
    (k.afterMM && ws.any (fun w => vop w = 0x0C))
  if rsv then 2 else if fmt then 3 else if adr then 4 else if bad then 8 else 0

/-- Rows of a VEC unit: the first and how many. -/
def Cmd.vecRows (k : Cmd) (u : Nat) : Nat × Nat :=
  let ur := k.field 0x3C 2
  (u * ur, min ur (k.field 0x38 4 - u * ur))

/-- The translations of a VEC unit's operand rows. -/
def State.probeVec (n : Nat) (w : Work) : List Nat → State → State × Option AccFail
  | [], s => (s, none)
  | i :: t, s =>
    let h := w.k.prog
    let len := progRow h (progWords h (w.k.field 0x3E 2)) i
    let (r0, cnt) := w.k.vecRows w.x.unit
    let write := progDir h i = 2 || progDir h i = 3
    if progDir h i = 0 || len = 0 then State.probeVec n w t s
    else
      match State.probeRows n w.part w.ctx len (progStride h i) write cnt (w.k.opAddr i + r0 * progStride h i) s with
      | (s, some f) => (s, some f)
      | (s, none) => State.probeVec n w t s

/-- A vector program is read and checked at the first slice (R93, R105, R205), then a unit's operands are translated. -/
def State.loadVec (s : State) (n p : Nat) (w : Work) : State :=
  let ready := fun (s : State) (w : Work) =>
    match State.probeVec n w [0, 1, 2, 3] s with
    | (s, some f) => s.fail f (w.waiter n)
    | (s, none) => s.on (fun c => c.updUnitOf n p (fun x => { x with phase := 1 }))
  if w.k.progRead then ready s w
  else
    match s.readOp n w.part w.ctx p (w.k.field 0x10 8) (64 + 8 * w.k.field 0x3E 2) with
    | (s, .error f) => s.fail f (.prog n w.x.queue w.x.count w.x.unit)
    | (s, .ok bs) =>
      let why := if w.k.replayed || !w.k.ran.isEmpty then 0 else progCheck (s.chip.spursActive n) w.k bs
      if why != 0 then s.on (fun c => (c.unissue n w.x.queue w.x.count).halt n w.x.queue why w.x.count)
      else
        let k := { w.k with prog := bs, progRead := true }
        ready (s.on (fun c => c.updCmd n w.x.queue w.x.count (fun _ => k))) { w with k := k }

/-- The vector registers and what conversions report while a program runs. -/
structure VecSt where
  regs : Tbl W32 := []
  num : NumSt := {}
deriving DecidableEq, Repr

/-- A lane of a vector register; after an L2 reset or a remap an unwritten one is undefined (R76). -/
def VecSt.lane (v : VecSt) (undef r l : Nat) : W32 :=
  match Tbl.find v.regs (256 * r + l) with
  | some x => x
  | none => if undef = 0 then 0#32
            else BitVec.ofNat 32 (leNat ((List.range 4).map (fun j => Config.freeByte 3 undef (4 * (256 * r + l) + j))))

def VecSt.reg (v : VecSt) (undef r : Nat) : List W32 := (List.range 256).map (v.lane undef r)

def VecSt.setReg (v : VecSt) (r : Nat) (ws : List W32) : VecSt :=
  { v with regs := (List.range 256).foldl (fun t l => Tbl.put t (256 * r + l) (ws.getD l 0#32)) v.regs }

/-- Values in every lane from the registers alone (Table 4.12), `acc` a row of the accumulator file. -/
def vecLanes (w : Nat) (a b c : List W32) (acc : List W32) : List W32 :=
  let z2 := fun (f : W32 → W32 → W32) => (a.zip b).map (fun p => f p.1 p.2)
  let imm := BitVec.ofNat 32 (vImm w)
  match vop w with
  | 0x01 => z2 f32Add
  | 0x02 => z2 f32Sub
  | 0x03 => z2 f32Mul
  | 0x04 => (a.zip (b.zip c)).map (fun p => f32Fma p.1 p.2.1 p.2.2)
  | 0x05 => z2 f32Max
  | 0x06 => z2 f32Min
  | 0x07 => z2 (fun x y => if f32Lt y x then f32One else f32Zero false)
  | 0x08 => (a.zip (b.zip c)).map (fun p => if (f32Val p.2.2).isZero then p.2.1 else p.1)
  | 0x09 => a.map (fun x => f32Add x imm)
  | 0x0A => a.map (fun x => f32Mul x imm)
  | 0x0B => List.replicate 256 (a.getD (vImm w) 0#32)
  | 0x0C => acc
  | 0x10 => a.map (fun x => expOf 0x10 x 0#32 (f32Val x))
  | 0x11 => a.map f32Log
  | 0x12 => a.map f32Rsqrt
  | 0x13 => a.map f32Rcp
  | 0x14 => z2 (fun x y => expOf 0x14 x y (Fv.sub (f32Val x) (f32Val y)))
  | 0x18 => List.replicate 256 (f32Sum a)
  | _ => List.replicate 256 (a.foldl f32Max (a.headD 0#32))

/-- RBF16: every lane rounded to BF16 precision by the mode (R47, R108). -/
def roundLanes (r : Rnd) (a : List W32) (n : NumSt) : List W32 × NumSt :=
  let (l, n, _) := a.foldl (fun (acc : List W32 × NumSt × Nat) w =>
    let (c, n) := toBF16 r acc.2.2 w acc.2.1
    (BitVec.ofNat 32 (c * 65536) :: acc.1, n, acc.2.2 + 1)) ([], n, 0)
  (l.reverse, n)

/-- One instruction for row `row`. -/
def State.vecStep (s : State) (n p : Nat) (w : Work) (row : Nat) (v : VecSt) (i : Nat) : State × Option AccFail × VecSt :=
  let u := (s.chip.spur n p).undef
  let h := w.k.prog
  let o := vOpn i
  let f := progFmt h o
  let a := w.k.opAddr o + row * progStride h o
  let sp := span f (256 * vImm i) 256
  if vop i = 0x20 then
    match s.readOp n w.part w.ctx p (a + sp.1) sp.2 with
    | (s, .error e) => (s, some e, v)
    | (s, .ok bs) =>
      let j0 := if fmtBlocked f then vImm i % 4 * 256 else 0
      let (xs, num) := rowVals f bs (j0 + 256) v.num
      (s, none, ({ v with num := num }).setReg (vD i) ((xs.drop j0).map Fv.toF32))
  else if vop i = 0x21 then
    let ws := v.reg u (vA i)
    let (ps, num) := outPieces { w.k.out with fmt := f } (256 * vImm i) false ws v.num
    let num := { num with nonfinite := num.nonfinite || anyNonfinite ws }
    let (s, e) := State.writePieces n w.part w.ctx p a ps s
    (s, e, { v with num := num })
  else if vop i = 0x22 then
    let (ws, num) := roundLanes w.k.out.rnd (v.reg u (vA i)) v.num
    (s, none, ({ v with num := num }).setReg (vD i) ws)
  else
    let acc := (List.range 256).map (fun l => s.chip.accAt n p (256 * vImm i + l))
    (s, none, v.setReg (vD i) (vecLanes i (v.reg u (vA i)) (v.reg u (vB i)) (v.reg u (vC i)) acc))

/-- The instructions of a program for one row. -/
def State.vecRow (n p : Nat) (w : Work) (row : Nat) : List Nat → VecSt → State → State × Option AccFail × VecSt
  | [], v, s => (s, none, v)
  | i :: t, v, s =>
    match s.vecStep n p w row v i with
    | (s, some e, v) => (s, some e, v)
    | (s, none, v) => State.vecRow n p w row t v s

/-- The rows of a unit in ascending order. -/
def State.vecRun (n p : Nat) (w : Work) : List Nat → VecSt → State → State × Option AccFail × VecSt
  | [], v, s => (s, none, v)
  | r :: t, v, s =>
    match State.vecRow n p w r (progWords w.k.prog (w.k.field 0x3E 2)) v s with
    | (s, some e, v) => (s, some e, v)
    | (s, none, v) => State.vecRun n p w t v s

/-- A unit that has run: its numeric reports, registers and generators; then written, or failed. -/
def State.ranVec (s : State) (n p : Nat) (w : Work) (f : Option AccFail) (v : VecSt) : State :=
  let s := s.on (fun c => c.report n w.x.queue w.x.count w.part v.num)
  let s := s.on (fun c => c.updSpur n p (fun sp => { sp with vregs := v.regs, gens := v.num.gens }))
  match f with
  | some f => s.fail f (w.waiter n)
  | none => s.on (fun c => c.updUnitOf n p (fun x => { x with phase := 3 }))

/-- A vector unit runs on its Spur. -/
def State.runVec (s : State) (n p : Nat) (w : Work) : State :=
  let (r0, cnt) := w.k.vecRows w.x.unit
  let sp := s.chip.spur n p
  let (s, f, v) := State.vecRun n p w ((List.range cnt).map (r0 + ·)) { regs := sp.vregs, num := { gens := sp.gens } } s
  s.ranVec n p w f v

/-! ### CONVERT (R112) -/

/-- The row pieces of a CONVERT unit: row, first element, elements (Table 4.6). -/
def Cmd.convSpans (k : Cmd) (u : Nat) : List (Nat × Nat × Nat) :=
  let cols := k.field 0x24 4
  if cols > 65536 then
    let pc := convPieces cols
    let c0 := 65536 * (u % pc)
    [(u / pc, c0, min 65536 (cols - c0))]
  else
    let rpu := convRows cols
    (List.range (min rpu (k.field 0x20 4 - u * rpu))).map (fun i => (u * rpu + i, 0, cols))

/-- The translations of a CONVERT unit's source and destination rows. -/
def State.probeConv (n : Nat) (w : Work) : List (Nat × Nat × Nat) → State → State × Option AccFail
  | [], s => (s, none)
  | (r, c, m) :: t, s =>
    let ctl := numctl w.k.desc
    let si := span (aFmt ctl) c m
    let so := span (dFmt ctl) c m
    match s.probe n w.part w.ctx (w.k.field 0x10 8 + r * w.k.field 0x28 4 + si.1) si.2 false with
    | (s, some f) => (s, some f)
    | (s, none) =>
      match s.probe n w.part w.ctx (w.k.field 0x18 8 + r * w.k.field 0x2C 4 + so.1) so.2 true with
      | (s, some f) => (s, some f)
      | (s, none) => State.probeConv n w t s

/-- Row pieces rewritten from A_FMT to D_FMT: each element widened to FP32, then the output conversion (R112). -/
def State.convRun (n p : Nat) (w : Work) : List (Nat × Nat × Nat) → VecSt → State → State × Option AccFail × VecSt
  | [], v, s => (s, none, v)
  | (r, c, m) :: t, v, s =>
    let ctl := numctl w.k.desc
    let si := span (aFmt ctl) c m
    let so := span (dFmt ctl) c m
    match s.readOp n w.part w.ctx p (w.k.field 0x10 8 + r * w.k.field 0x28 4 + si.1) si.2 with
    | (s, .error e) => (s, some e, v)
    | (s, .ok bs) =>
      let (xs, num) := rowVals (aFmt ctl) bs m v.num
      let ws := xs.map Fv.toF32
      let (out, num) := rowBytesOf (dFmt ctl) w.k.cfg.headD w.k.cfg.outlD (rndOf w.k.cfg.round) ws num
      let num := { num with nonfinite := num.nonfinite || anyNonfinite ws }
      match s.writeOp n w.part w.ctx p (w.k.field 0x18 8 + r * w.k.field 0x2C 4 + so.1) out with
      | (s, some e) => (s, some e, { v with num := num })
      | (s, none) => State.convRun n p w t { v with num := num } s

/-- A CONVERT unit runs on its Spur's vector unit. -/
def State.runConv (s : State) (n p : Nat) (w : Work) : State :=
  let sp := s.chip.spur n p
  let (s, f, v) := State.convRun n p w (w.k.convSpans w.x.unit) { regs := sp.vregs, num := { gens := sp.gens } } s
  s.ranVec n p w f v

/-! ### The commands -/

/-- A loaded unit of a Spur whose command has opcode `op` runs; anything else leaves the state. -/
def State.runOn (s : State) (ridge : Fin 16) (spur : Fin 17) (op phase : Nat) (f : Work → State) : State :=
  match s.chip.work ridge.val spur.val with
  | some w => if w.k.op = op && w.x.phase = phase then s.charge ridge.val w.x.queue (f w) else s
  | none => s

/-- TILE_LOAD_DONE: the unit on the Spur has its operands, the symbols `ce` corrected on the way, or parks on a fault
(R103, R105, R167, R204). -/
def execTileLoadDone (ridge : Fin 16) (spur : Fin 17) (ce : List Corr) (s : State) : Host.Outcome State Fault Refusal :=
  let n := ridge.val
  let p := spur.val
  done (match s.chip.work n p with
  | none => s
  | some w =>
    if w.x.phase != 0 then s
    else
      let s := s.on (fun c => c.corrected ce)
      let s0 := s
      let s :=
        if w.k.op = opMM || w.k.op = opMMAcc then s.loadTile n p w
        else if w.k.op = opVec then s.loadVec n p w
        else
          match State.probeConv n w (w.k.convSpans w.x.unit) s with
          | (s, some f) => s.fail f (w.waiter n)
          | (s, none) => s.on (fun c => c.updUnitOf n p (fun x => { x with phase := 1 }))
      (s0.charge n w.x.queue s).kick n)

/-- MM: the array runs the tile loaded on the Spur into fresh accumulators (R102). -/
def execMm (ridge : Fin 16) (spur : Fin 17) (s : State) : Host.Outcome State Fault Refusal :=
  done (s.runOn ridge spur opMM 1 (fun w => s.runTile ridge.val spur.val w []))

/-- MM_ACC: the same upon the prior values of D (R63, R104). -/
def execMmAcc (ridge : Fin 16) (spur : Fin 17) (s : State) : Host.Outcome State Fault Refusal :=
  done (s.runOn ridge spur opMMAcc 1 (fun w =>
    match s.priorRows ridge.val spur.val w with
    | (s, .error f) => s.fail f (w.waiter ridge.val)
    | (s, .ok prior) => s.runTile ridge.val spur.val w prior))

/-- VEC: the program runs once for each row of the unit loaded on the Spur (R105). -/
def execVec (ridge : Fin 16) (spur : Fin 17) (s : State) : Host.Outcome State Fault Refusal :=
  done (s.runOn ridge spur opVec 1 (fun w => s.runVec ridge.val spur.val w))

/-- CONVERT: the rows of the unit on the Spur are rewritten (R112). -/
def execConvert (ridge : Fin 16) (spur : Fin 17) (s : State) : Host.Outcome State Fault Refusal :=
  done (s.runOn ridge spur 0x18 1 (fun w => s.runConv ridge.val spur.val w))

/-- TILE_WRITEBACK: the write-back buffer of a computed tile is converted and written (R62). -/
def execTileWriteback (ridge : Fin 16) (spur : Fin 17) (s : State) : Host.Outcome State Fault Refusal :=
  done (match s.chip.work ridge.val spur.val with
  | some w => if w.x.phase = 2 then s.charge ridge.val w.x.queue (s.writeback ridge.val spur.val w) else s
  | none => s)

/-- WORK_UNIT_DONE: the unit on the Spur has finished in `cycles` cycles, its array having waited `stall` of
them; a shadow sample ends with it; the sequencer gives
the next unit (R53, R71, R105). -/
def execWorkUnitDone (ridge : Fin 16) (spur : Fin 17) (cycles stall : Nat) (s : State) : Host.Outcome State Fault Refusal :=
  let n := ridge.val
  let p := spur.val
  done (match s.chip.work n p with
  | none => s
  | some w =>
    if w.x.phase != 3 then s
    else (s.on (fun c =>
      let c := if w.x.sampled then
        c.sampled n w.x.queue w.x.count w.part (if w.x.unchecked then none else shadowEps w.x.narrow w.x.wide) else c
      let c := if w.k.op = opVec && decide (cycles > 2048) then c.countPart w.part Obj.CNT_VEC_LONG_UNITS 1 else c
      let mm := w.k.op = opMM || w.k.op = opMMAcc
      let c := c.count modInst (Obj.CNT_ARRAY_STALL + n) stall
      let c := c.count modInst ((if mm then Obj.CNT_ARRAY_BUSY else Obj.CNT_VECTOR_BUSY) + n) (cycles - (if mm then stall else 0))
      let c := c.updQueue n w.x.queue (fun x => { x with act := { x.act with
        array := if mm then x.act.array + (cycles - stall) else x.act.array,
        vector := if mm then x.act.vector else x.act.vector + cycles, stall := x.act.stall + stall } })
      let c := c.updSpur n p (fun sp => { sp with unit := none })
      c.unitDone n w.x.queue w.x.count w.x.unit)).kick n |>.on (fun c => c.idleSpur n p))

/-- SHADOW_TRIGGERED: the run count of a command has reached SHADOW_RUN, and its policy is applied (R53). -/
def execShadowTriggered (ridge : Fin 16) (queue : Fin 8) (count : W32) (s : State) : Host.Outcome State Fault Refusal :=
  done (s.on (fun c => c.shadowTrigger ridge.val queue.val count.toNat))

end Sys2Proof.Machine
end

