-- ==== Sys2Proof/Machine/Roce.lean ====
section
/-! DEFINITION. RoCE queue pairs: their rings, the reliable-connected transport, memory regions, faults, the rate limiter and
timed launch (R178, R331, R340–R346). -/
namespace Sys2Proof.Machine

/-! ### Configuration (R341, Table 13.5) -/

def Chip.qp (c : Chip) (q : Nat) : Qp := Tbl.get c.qps {} q
def Chip.setQp (c : Chip) (q : Nat) (x : Qp) : Chip := { c with qps := Tbl.put c.qps q x }
def Chip.updQp (c : Chip) (q : Nat) (f : Qp → Qp) : Chip := c.setQp q (f (c.qp q))

def qpPart (q : Nat) : Nat := q / 1024

def qpDefault : List Byte := zeros 0x38 ++ leBytes 4 64 ++ leBytes 1 0x47 ++ zeros 3

def Chip.qpCfg (c : Chip) (q : Nat) : List Byte :=
  let b := c.blob modInst (Obj.QP_CONFIG + q)
  if b.isEmpty then qpDefault else b

def qpReset : Nat := 0
def qpReady : Nat := 1
def qpError : Nat := 2

def Chip.qpState (c : Chip) (q : Nat) : Nat := byteAt (c.qpCfg q) 0

def Chip.setQpState (c : Chip) (q st : Nat) : Chip := c.setBlob modInst (Obj.QP_CONFIG + q) (placeAt (c.qpCfg q) 0 (leBytes 1 st))

def Chip.qpCtx (c : Chip) (q : Nat) : Nat := byteAt (c.qpCfg q) 3
def Chip.qpEntries (c : Chip) (q : Nat) : Nat := leAt (c.qpCfg q) 0x38 4
def Chip.qpPort (c : Chip) (q : Nat) : Nat := byteAt (c.qpCfg q) 1

/-- The partition of a queue pair, where it owns the pair's VI (R331). -/
def Chip.qpOwner (c : Chip) (q : Nat) : Option Nat :=
  if bitAt (c.part (qpPart q)).vis (byteAt (c.qpCfg q) 2) then some (qpPart q) else none

/-- Whether a packet of a queue pair is taken: the pair is READY and its VI is its partition's. -/
def Chip.qpTakes (c : Chip) (q : Nat) : Bool := c.qpState q = qpReady && (c.qpOwner q).isSome

/-! ### Access (R178, R344) -/

/-- A walk on behalf of the Ethernet block, which keeps no cache. -/
def State.rwalk (s : State) (k ctx va : Nat) (write : Bool) : State × Except FaultInfo Nat :=
  let (t, r) := s.walk 16 k ctx va write
  let r := match r with
    | .error i => Except.error { i with ridge := (s.chip.ridgeList k).headD 0 }
    | .ok pa => Except.ok pa
  ({ t with chip := { t.chip with ridges := s.chip.ridges, regs := Tbl.del t.chip.regs (ikey modInst (Obj.CNT_WALK_READS + 16)) } }, r)

/-- How a RoCE access ends: done, held by a fault that the steward resolves, or refused. -/
inductive RRes (α : Type) where
  | ok (a : α)
  | hold (i : FaultInfo)
  | bad
deriving DecidableEq, Repr

/-- The physical runs of a virtual range. -/
def State.rpages (k ctx : Nat) (write : Bool) : List (Nat × Nat) → State → State × RRes (List (Nat × Nat))
  | [], s => (s, .ok [])
  | (va, n) :: t, s =>
    match s.rwalk k ctx va write with
    | (s, .ok pa) =>
      match State.rpages k ctx write t s with
      | (s, .ok l) => (s, .ok ((pa, n) :: l))
      | r => r
    | (s, .error i) =>
      let s := s.on (fun c => c.countPart k Obj.CNT_ROCE_FAULTS 1)
      if i.reason = rsSteward || (i.reason = rsBusy && s.chip.pend.any (fun p => p.info.entry = i.entry)) then (s, .hold i) else (s, .bad)

def State.rrange (s : State) (k ctx va n : Nat) (write : Bool) : State × RRes (List (Nat × Nat)) :=
  State.rpages k ctx write (pieces (n / 65536 + 2) va n) s

def State.rreads (k : Nat) : List (Nat × Nat) → State → State × RRes (List Byte)
  | [], s => (s, .ok [])
  | (pa, n) :: t, s =>
    match s.readPhys k pa n with
    | (s, .error _) => (s, .bad)
    | (s, .ok bs) =>
      match State.rreads k t s with
      | (s, .ok r) => (s, .ok (bs ++ r))
      | r => r

def State.rread (s : State) (k ctx va n : Nat) : State × RRes (List Byte) :=
  match s.rrange k ctx va n false with
  | (s, .ok l) => State.rreads k l s
  | (s, .hold i) => (s, .hold i)
  | (s, .bad) => (s, .bad)

def State.rwrites (k : Nat) : List (Nat × Nat) → List Byte → State → State × RRes Unit
  | [], _, s => (s, .ok ())
  | (pa, n) :: t, bs, s =>
    match s.writePhys k pa (bs.take n) with
    | (s, some _) => (s, .bad)
    | (s, none) => State.rwrites k t (bs.drop n) s

def State.rwrite (s : State) (k ctx va : Nat) (bs : List Byte) : State × RRes Unit :=
  match s.rrange k ctx va bs.length true with
  | (s, .ok l) => State.rwrites k l bs s
  | (s, .hold i) => (s, .hold i)
  | (s, .bad) => (s, .bad)

/-! ### Packets sent (R340) -/

def roceAck : Nat := 0x11
def roceCnp : Nat := 0x81
def roceReadReq : Nat := 0x0C

/-- Codes of a NAK. -/
def nakSeq : Nat := 0
def nakInvalid : Nat := 1
def nakAccess : Nat := 2
def nakOp : Nat := 3

def psnDist (a b : Nat) : Nat := (a + 2 ^ 24 - b % 2 ^ 24) % 2 ^ 24
def psnAdd (a n : Nat) : Nat := (a + n) % 2 ^ 24

def Chip.rack (c : Chip) (q psn : Nat) : Chip := c.send (.roce q roceAck psn [0#8])
def Chip.rnak (c : Chip) (q psn code : Nat) : Chip := c.send (.roce q roceAck psn (leBytes 1 (0x60 + code)))
def Chip.rnr (c : Chip) (q psn : Nat) : Chip := c.send (.roce q roceAck psn [0x20#8])

/-- The form of packet `i` of `n`: its offset among First, Middle, Last and Only. -/
def packetForm (i n : Nat) : Nat := if n = 1 then 4 else if i = 0 then 0 else if i + 1 = n then 2 else 1

def packetsOf (len : Nat) : Nat := max 1 (ceilDiv len 4096)

/-- PSNs that a work request spans, and packets that it sends. -/
def Wr.span (w : Wr) : Nat := packetsOf w.len
def Wr.sends (w : Wr) : Nat := if w.op = 1 then 1 else w.span

/-- Whether a work request is settled: acknowledged, answered whole, or ended with a status. -/
def Wr.settled (w : Wr) : Bool := w.st.isSome || w.una = w.span

/-! ### Completions and errors (R341, R342) -/

def compLate : Nat := 1
def compAccess : Nat := 2
def compRetry : Nat := 3
def compLocal : Nat := 4
def compFlushed : Nat := 5

/-- Whether the completion ring has room. -/
def Chip.compRoom (c : Chip) (q : Nat) : Bool :=
  let x := c.qp q
  decide (dist32 x.comps x.compCons < c.qpEntries q)

/-- The 16 bytes of a completion. -/
def Comp.bytes16 (e : Comp) (q count : Nat) : List Byte :=
  leBytes 1 e.st ++ leBytes 1 e.kind ++ leBytes 4 count ++ leBytes 2 q ++ leBytes 4 e.bytes ++ leBytes 4 e.id

/-- A queue pair enters ERROR: QP_ERROR, and what is outstanding ends with FLUSHED (R341, R342). -/
def Chip.qpFail (c : Chip) (q : Nat) : Chip :=
  if c.qpState q != qpReady then c
  else
    let x := c.qp q
    let c := (c.setQpState q qpError).dropWaiters (fun w => w != Waiter.roce q)
    let flush := fun (w : Wr) => if w.settled then w else { w with st := some compFlushed }
    let part := match x.recv with | some m => [({ id := m.id, bytes := m.total, kind := 1, st := compFlushed } : Comp)] | none => []
    let c := c.setQp q { x with wrs := (x.wrs ++ x.launch.toList).map flush, launch := none, owed := x.owed ++ part, recv := none,
                                write := none, jobs := [], waitAt := 0, deny := false }
    c.raise 0x0F03 (qpPart q) []

/-! ### Doorbell pages (R88, R342, R343) -/

/-- The counts of a queue pair of partition k: a word of its doorbell page. -/
def Chip.qpDoorbell (c : Chip) (q code count : Nat) : Chip :=
  let x := c.qp q
  let k := qpPart q
  let n := c.qpEntries q
  let ign := fun (c : Chip) => c.countPart k Obj.CNT_DOORBELL_IGNORED 1
  if code = 3 then c
  else if c.qpState q != qpReady && !(code = 2 && c.qpState q = qpError) then ign c
  else if code = 2 then
    if dist32 count x.compCons = 0 then c
    else if dist32 count x.compCons > dist32 x.comps x.compCons then ign c
    else c.setQp q { x with compCons := count, ready := true }
  else
    let prod := if code = 0 then x.sendProd else x.recvProd
    let cons := if code = 0 then x.sendDone else x.recvCons
    if dist32 count prod = 0 then c
    else if dist32 count prod ≥ 2 ^ 31 then ign c
    else if dist32 count cons > n then (c.qpFail q).updQp q (fun x => { x with ready := true })
    else c.setQp q (if code = 0 then { x with sendProd := count, ready := true } else { x with recvProd := count })

/-- One word written to a page held by the module: 1 the command doorbells, 2 the queue pairs'. -/
def Chip.pageWord (c : Chip) (k page off w : Nat) : Chip :=
  if page = 1 then (if off < 0x400 then c.doorbell k (off / 64) (off / 8 % 8) (fld w 31 0) else c)
  else c.qpDoorbell (1024 * k + off / 8) (fld w 33 32) (fld w 31 0)

/-- Words from an offset, in ascending order. -/
def Chip.pageWords (c : Chip) (k page : Nat) : Nat → Nat → List Byte → Chip
  | 0, _, _ => c
  | n + 1, off, bs => (Chip.pageWords (c.pageWord k page off (leAt bs 0 8)) k page n (off + 8) (bs.drop 8))

/-! ### Memory regions (R343) -/

/-- MR_ENTRY of a region: bytes 0–7 base, 8–11 length, 12–15 context and permissions, 16–19 rkey. -/
def Chip.region (c : Chip) (k r : Nat) : List Byte := fitTo 20 (c.blob k (Obj.MR_ENTRY + r))

/-- The message that an access to a region begins, where the region, the permission and the tag allow it. -/
def Chip.regionAccess (c : Chip) (k rkey va len : Nat) (write : Bool) : Option Msg :=
  let r := rkey / 2 ^ 24 % 256
  let e := c.region k r
  let base := leAt e 0 8
  let w := leAt e 12 4
  if leAt e 16 4 != rkey || !bitAt w (if write then 5 else 4) || va < base || va + len > base + leAt e 8 4 then none
  else if r < 2 then
    some { va := va, ctx := 0, left := len, to_ := if va % 8 != 0 || len % 8 != 0 || len = 0 then 3 else 1 + r, total := len }
  else some { va := va, ctx := fld w 3 0, left := len, total := len }

/-! ### Requests received (R340–R344) -/

/-- What the processing of a packet came to: it is done with, or a fault holds it. -/
abbrev PRes := State × Option FaultInfo

def Chip.qpNext (c : Chip) (q n : Nat) (f : Qp → Qp) : Chip :=
  c.updQp q (fun x => f { x with ePsn := psnAdd x.ePsn n, nakSent := false })

/-- A request that the transport does not allow: NAK for an invalid request, and ERROR. -/
def State.invalid (s : State) (q psn : Nat) : PRes := (s.on (fun c => (c.rnak q psn nakInvalid).qpFail q), none)

/-- Whether a packet's data fits its form within what is left of its message. -/
def formFits (pos data left : Nat) : Bool :=
  if pos ≥ 2 then data = left && decide (data ≤ 4096) else data = 4096 && decide (left > 4096)

/-- A SEND packet into its receive buffer. -/
def State.sendInto (s : State) (q : Nat) (p : Pkt) (m : Msg) (first : Bool) : PRes :=
  let k := qpPart q
  let last := decide (p.pos ≥ 2)
  let n := p.data.length
  if n > m.left || n > 4096 || (!last && n != 4096) then s.invalid q p.psn
  else match s.rwrite k m.ctx m.va p.data with
    | (s, .hold i) => (s, some i)
    | (s, .bad) => (s.on (fun c => (c.rnak q p.psn nakAccess).updQp q (fun x => { x with recv := none })), none)
    | (s, .ok _) =>
      let m' : Msg := { m with va := m.va + n, left := m.left - n, total := m.total + n }
      (s.on (fun c => (c.qpNext q 1 (fun x => { x with
        recvCons := if first then inc32 x.recvCons else x.recvCons,
        recv := if last then none else some m',
        owed := if last then x.owed ++ [{ id := m.id, bytes := m'.total, kind := 1, st := 0 }] else x.owed })).rack q p.psn), none)

def State.sendIn (s : State) (q : Nat) (p : Pkt) : PRes :=
  let c := s.chip
  let x := c.qp q
  let k := qpPart q
  let ring := leAt (c.qpCfg q) 0x28 8
  if p.pos > 3 then s.invalid q p.psn
  else if p.pos = 0 || p.pos = 3 then
    if x.recv.isSome || x.write.isSome then s.invalid q p.psn
    else if !c.compRoom q || !x.owed.isEmpty || ring = 0 || x.recvProd = x.recvCons then (s.on (fun c => c.rnr q p.psn), none)
    else match s.rread k (c.qpCtx q) (ring + 16 * (x.recvCons % c.qpEntries q)) 16 with
      | (s, .hold i) => (s, some i)
      | (s, .bad) => (s.on (fun c => c.rnak q p.psn nakOp), none)
      | (s, .ok e) => s.sendInto q p { va := leAt e 0 8, ctx := c.qpCtx q, left := leAt e 8 4, id := leAt e 12 4 } true
  else match x.recv with
    | some m => s.sendInto q p m false
    | none => s.invalid q p.psn

/-- A WRITE packet to its region. -/
def State.writeInto (s : State) (q : Nat) (p : Pkt) (m : Msg) : PRes :=
  let k := qpPart q
  let n := p.data.length
  if !formFits p.pos n m.left then s.invalid q p.psn
  else
    let next : Option Msg := if p.pos ≥ 2 then none else some { m with va := m.va + n, left := m.left - n }
    let fin := fun (s : State) => (s.on (fun c => (c.qpNext q 1 (fun x => { x with write := next })).rack q p.psn), (none : Option FaultInfo))
    if m.to_ = 3 then fin s
    else if m.to_ > 0 then fin (s.on (fun c => c.pageWords k m.to_ (n / 8) m.va p.data))
    else match s.rwrite k m.ctx m.va p.data with
      | (s, .hold i) => (s, some i)
      | (s, .bad) => (s.on (fun c => (c.rnak q p.psn nakAccess).updQp q (fun x => { x with write := none })), none)
      | (s, .ok _) => fin s

def State.writeIn (s : State) (q : Nat) (p : Pkt) : PRes :=
  let c := s.chip
  let x := c.qp q
  if p.pos = 0 || p.pos = 3 then
    if x.recv.isSome || x.write.isSome then s.invalid q p.psn
    else match c.regionAccess (qpPart q) p.rkey p.va p.len true with
      | none => (s.on (fun c => c.rnak q p.psn nakAccess), none)
      | some m => s.writeInto q p m
  else match x.write with
    | some m => s.writeInto q p m
    | none => s.invalid q p.psn

/-- The response packets of a READ. -/
def Chip.readReply (c : Chip) (q psn : Nat) (bs : List Byte) : Chip :=
  let n := packetsOf bs.length
  (List.range n).foldl (fun c i => c.send (.roce q (0x0D + (if n = 1 then 3 else packetForm i n)) (psnAdd psn i) (slice4096 bs i))) c
where
  slice4096 (bs : List Byte) (i : Nat) : List Byte := (bs.drop (4096 * i)).take 4096

/-- A READ request; a line of it that proves uncorrectable is answered with a remote access error (R174). A request seen before
is answered again and does not advance the expected PSN. -/
def State.readIn (s : State) (q : Nat) (p : Pkt) (again : Bool) : PRes :=
  let k := qpPart q
  let deny := fun (s : State) => (s.on (fun c => c.rnak q p.psn nakAccess), (none : Option FaultInfo))
  match s.chip.regionAccess k p.rkey p.va p.len false with
  | none => deny s
  | some m =>
    match p.uncorr with
    | some (pa, mask) => deny (s.on (fun c => c.uncorrLine pa mask 6 k m.ctx p.va))
    | none =>
      match s.rread k m.ctx p.va p.len with
      | (s, .hold i) => (s, some i)
      | (s, .bad) => deny s
      | (s, .ok bs) =>
        (s.on (fun c => (if again then c else c.qpNext q (packetsOf p.len) id).readReply q p.psn bs), none)

/-! ### Acknowledgements (R340, R341) -/

/-- How many of a work request's packets an acknowledgement of `psn` covers. -/
def Wr.covered (w : Wr) (psn : Nat) : Nat :=
  let d := psnDist psn w.psn
  if d < 2 ^ 23 then min (min (d + 1) w.span) w.off else 0

/-- An acknowledgement of all packets up to `psn`; READs are settled by their data. -/
def Chip.ackUpTo (c : Chip) (q psn : Nat) : Chip :=
  c.updQp q (fun x =>
    let ws := x.wrs.map (fun w => if w.op = 1 || w.st.isSome then w else { w with una := max w.una (w.covered psn) })
    { x with wrs := ws, retries := if ws = x.wrs then x.retries else 0 })

/-- Everything sent and not acknowledged is sent again. -/
def Chip.qpResend (c : Chip) (q : Nat) : Chip :=
  let x := c.qp q
  let back := fun (w : Wr) => if w.settled then w else { w with off := if w.op = 1 then 0 else w.una }
  let n := x.wrs.foldl (fun n w => if w.settled then n else n + (if w.op = 1 then w.off else w.off - w.una)) 0
  (c.setQp q { x with wrs := x.wrs.map back, ready := true }).countPart (qpPart q) Obj.CNT_ROCE_RETRANSMIT n

/-- The oldest work request that is not settled ends with a status, and the queue pair enters ERROR. -/
def Chip.qpGiveUp (c : Chip) (q st : Nat) : Chip :=
  let x := c.qp q
  let pre := x.wrs.takeWhile Wr.settled
  let c := match x.wrs.drop pre.length with
    | w :: t => c.setQp q { x with wrs := pre ++ { w with st := some st } :: t }
    | [] => c
  c.qpFail q

/-- A retry: the packets are sent again, or the count is exhausted. -/
def Chip.qpRetry (c : Chip) (q : Nat) : Chip :=
  let x := c.qp q
  if x.retries ≥ byteAt (c.qpCfg q) 0x3C % 8 then c.qpGiveUp q compRetry
  else (c.setQp q { x with retries := x.retries + 1 }).qpResend q

/-- Data of an outstanding READ, in order, into local memory. -/
def State.responseIn (s : State) (q : Nat) (p : Pkt) : PRes :=
  let x := s.chip.qp q
  let k := qpPart q
  match x.wrs.find? (fun w => w.op = 1 && !w.settled && w.off = 1) with
  | none => (s, none)
  | some w =>
    if p.psn != psnAdd w.psn w.una || p.data.length != min 4096 (w.len - 4096 * w.una) then (s, none)
    else
      let put := fun (s : State) (f : Wr → Wr) => s.on (fun c =>
        (c.ackUpTo q (psnAdd w.psn (2 ^ 24 - 1))).updQp q (fun x => { x with retries := 0, wrs := x.wrs.map (fun v => if v.psn = w.psn then f v else v) }))
      match s.rwrite k (s.chip.qpCtx q) (w.local_ + 4096 * w.una) p.data with
      | (s, .hold i) => (s, some i)
      | (s, .bad) => (put s (fun v => { v with st := some compLocal }), none)
      | (s, .ok _) => (put s (fun v => { v with una := v.una + 1 }), none)

/-- A packet of a READY queue pair, by its PSN: expected, seen before, or ahead. -/
def State.packet (s : State) (q : Nat) (p : Pkt) : PRes :=
  let x := s.chip.qp q
  let d := psnDist p.psn x.ePsn
  if p.kind = 3 then s.responseIn q p
  else if d ≥ 2 ^ 23 then
    if p.kind = 2 then s.readIn q p true else (s.on (fun c => c.rack q (psnAdd x.ePsn (2 ^ 24 - 1))), none)
  else if d != 0 then
    (if x.nakSent then s else s.on (fun c => (c.rnak q x.ePsn nakSeq).updQp q (fun x => { x with nakSent := true })), none)
  else match p.kind with
    | 0 => s.sendIn q p
    | 1 => s.writeIn q p
    | _ => s.readIn q p false

/-! ### Sending (R342, R345, R346) -/

/-- A work request as its 64 bytes give it (Table 13.6). -/
def wrOf (b : List Byte) : Wr :=
  { op := byteAt b 0, flags := byteAt b 1, len := leAt b 4 4, local_ := leAt b 8 8, remote := leAt b 0x10 8, rkey := leAt b 0x18 4,
    id := leAt b 0x1C 4, launch := leAt b 0x20 8 }

/-- Whether a work request follows Table 13.6. -/
def wrOk (b : List Byte) : Bool :=
  decide (byteAt b 0 ≤ 2) && decide (byteAt b 1 < 8) && allZero ((b.drop 2).take 2) && decide (1 ≤ leAt b 4 4) && decide (leAt b 4 4 ≤ 2 ^ 31) &&
  (byteAt b 0 != 2 || (leAt b 0x10 8 = 0 && leAt b 0x18 4 = 0)) && allZero ((b.drop 0x28).take 0x18)

/-- A work request takes its PSNs and begins to send. -/
def Chip.wrStart (c : Chip) (q : Nat) (w : Wr) : Chip :=
  c.updQp q (fun x => { x with
    launch := none, wrs := x.wrs ++ [{ w with psn := x.sPsn }],
    sPsn := if w.st.isSome then x.sPsn else psnAdd x.sPsn w.span })

/-- A fetched work request at the head of its queue pair (R346). -/
def Chip.wrTake (c : Chip) (q : Nat) (b : List Byte) : Chip :=
  let k := qpPart q
  let w := wrOf b
  let now := c.now
  let c := c.updQp q (fun x => { x with sendCons := inc32 x.sendCons })
  if c.qpState q = qpError then c.wrStart q { w with st := some compFlushed }
  else if !wrOk b then c.wrStart q { w with st := some compLocal }
  else if !bitAt w.flags 1 then c.wrStart q w
  else if w.launch > now + c.get k Obj.LAUNCH_MAX_LEAD * 10 ^ 6 then c.wrStart q { w with st := some compLocal }
  else if now > w.launch + c.get k Obj.LAUNCH_LATE_LIMIT then
    if bitAt w.flags 2 then (c.wrStart q { w with st := some compLate }).countPart k Obj.CNT_LAUNCH_DROPPED 1
    else (c.wrStart q w).countPart k Obj.CNT_LAUNCH_LATE 1
  else if now ≥ w.launch then c.wrStart q w
  else c.updQp q (fun x => { x with launch := some w })

/-- The next packet of a work request leaves. -/
def Chip.wrPacket (c : Chip) (q : Nat) (w : Wr) (bs : List Byte) : Chip :=
  let head := fun (o : Nat) => leBytes 8 (w.remote + 4096 * o) ++ leBytes 4 w.rkey ++ leBytes 4 (w.len - 4096 * o)
  let c := if w.op = 1 then c.send (.roce q roceReadReq (psnAdd w.psn w.una) (head w.una))
    else
      let form := packetForm w.off w.span
      let pre := if w.op = 0 && (form = 0 || form = 4) then head 0 else []
      c.send (.roce q ((if w.op = 0 then 6 else 0) + form) (psnAdd w.psn w.off) (pre ++ bs))
  c.updQp q (fun x => { x with
    bytes := x.bytes + bs.length,
    wrs := x.wrs.map (fun v => if v.psn = w.psn && v.st.isNone then { v with off := v.off + 1 } else v) })

/-- Settles the work request that is being sent with LOCAL_FAULT; the queue pair fails where part of it has left. -/
def Chip.wrLocal (c : Chip) (q : Nat) (w : Wr) : Chip :=
  let c := c.updQp q (fun x => { x with wrs := x.wrs.map (fun v => if v.psn = w.psn && v.st.isNone then { v with st := some compLocal } else v),
                                        sPsn := if w.off = 0 && psnAdd w.psn w.span = x.sPsn then w.psn else x.sPsn })
  if w.off = 0 && psnAdd w.psn w.span = (c.qp q).sPsn then c else if w.off = 0 then c else c.qpFail q

/-- A fault holds a queue pair at a point of its work. -/
def Chip.qpHold (c : Chip) (q at_ : Nat) (i : FaultInfo) : Chip :=
  let c := c.updQp q (fun x => { x with waitAt := at_ })
  if !c.isPending i && c.pendFull i.part then c.faultWait i (.roce q) else c.stewardFault i (.roce q)

/-- One piece of a queue pair's work: a packet, an owed completion, a packet to send, or a work request to fetch. The result
says whether more may follow. -/
def State.qpStep (s : State) (q : Nat) : State × Bool :=
  let c := s.chip
  let x := c.qp q
  let k := qpPart q
  let ctx := c.qpCtx q
  let st := c.qpState q
  let n := c.qpEntries q
  if x.waitAt != 0 || st = qpReset || (c.qpOwner q).isNone then (s, false)
  else match x.jobs with
  | p :: t =>
    match s.packet q p with
    | (s, some i) => (s.on (fun c => c.qpHold q 1 i), false)
    | (s, none) => (s.on (fun c => c.updQp q (fun x => { x with jobs := if x.jobs.isEmpty then [] else t })), true)
  | [] =>
    match x.owed, c.compRoom q with
    | e :: t, true =>
      match s.rwrite k ctx (leAt (c.qpCfg q) 0x30 8 + 16 * (x.comps % n)) (e.bytes16 q x.comps) with
      | (s, .hold i) => (s.on (fun c => c.qpHold q 2 i), false)
      | (s, .bad) => (s.on (fun c => (c.updQp q (fun x => { x with owed := t })).qpFail q), true)
      | (s, .ok _) => (s.on (fun c => c.updQp q (fun x => { x with owed := t, comps := inc32 x.comps })), true)
    | _ :: _, false => (s, false)
    | [], room =>
      let up := c.reg (Obj.ETH_LINK_STATE + c.qpPort q) = 2
      match (if st = qpReady then x.wrs.find? (fun w => !w.settled && decide (w.off < w.sends)) else none) with
      | some w =>
        if !up then (s, false)
        else if w.op = 1 then (s.on (fun c => c.wrPacket q w []), true)
        else match s.rread k ctx (w.local_ + 4096 * w.off) (min 4096 (w.len - 4096 * w.off)) with
          | (s, .hold i) => (s.on (fun c => c.qpHold q 3 i), false)
          | (s, .bad) => (s.on (fun c => c.wrLocal q w), true)
          | (s, .ok bs) => (s.on (fun c => c.wrPacket q w bs), true)
      | none =>
        if x.sendProd = x.sendCons || x.launch.isSome || !room || (x.wrs.filter (fun w => w.op = 1 && !w.settled)).length ≥ 16 then (s, false)
        else match s.rread k ctx (leAt (c.qpCfg q) 0x20 8 + 64 * (x.sendCons % n)) 64 with
          | (s, .hold i) => (s.on (fun c => c.qpHold q 3 i), false)
          | (s, .bad) => (s.on (fun c => if st = qpError then c.updQp q (fun x => { x with sendCons := x.sendProd }) else c.qpFail q), true)
          | (s, .ok b) => (s.on (fun c => c.wrTake q b), true)

/-- A queue pair works until nothing is left to do or a fault holds it. -/
def State.qpRun (q : Nat) : Nat → State → State
  | 0, s => s
  | f + 1, s => match s.qpStep q with
    | (s, true) => State.qpRun q f s
    | (s, false) => s

/-- A fault of a queue pair has ended without a page: what it held is answered or ended (R344). -/
def State.qpDeny (s : State) (q : Nat) : State :=
  let x := s.chip.qp q
  let at_ := x.waitAt
  let s := s.on (fun c => c.updQp q (fun x => { x with waitAt := 0, deny := false }))
  if at_ = 1 then
    match x.jobs with
    | [] => s
    | p :: t =>
      s.on (fun c =>
        let c := c.updQp q (fun x => { x with jobs := t })
        if p.kind = 3 then c.updQp q (fun x => { x with wrs := x.wrs.map (fun w => if w.op = 1 && !w.settled && psnAdd w.psn w.una = p.psn then { w with st := some compLocal } else w) })
        else (c.rnak q p.psn nakAccess).updQp q (fun x => { x with write := if p.kind = 1 then none else x.write, recv := if p.kind = 0 then none else x.recv }))
  else if at_ = 2 then s.on (fun c => (c.updQp q (fun x => { x with owed := x.owed.drop 1 })).qpFail q)
  else match x.wrs.find? (fun w => !w.settled && decide (w.off < w.sends)) with
    | some w => s.on (fun c => c.wrLocal q w)
    | none => s.on (fun c => c.qpFail q)

/-- Queue pairs with something new to do are served, those whose doorbells the work itself has rung included. -/
def State.qpServe : Nat → State → State
  | 0, s => s
  | f + 1, s =>
    match s.chip.qps.find? (fun p => p.2.ready) with
    | none => s
    | some (q, x) =>
      let s := s.on (fun c => c.updQp q (fun x => { x with ready := false }))
      let s := if x.deny then s.qpDeny q else s
      State.qpServe f (State.qpRun q (2 ^ 40) s)

/-- Serve every queue pair that is ready. -/
def State.roceRun (s : State) : State := State.qpServe (2 ^ 16) s

/-- A queue pair is served. -/
def State.qpKick (s : State) (q : Nat) : State := (s.on (fun c => c.updQp q (fun x => { x with ready := true }))).roceRun

/-! ### Congestion (R345) -/

/-- An exact binary fraction at or above an integer bound. -/
def Dyad.maxNat (d : Dyad) (n : Nat) : Dyad := if d.num < n * 2 ^ d.exp then ⟨n, 0⟩ else d
def Dyad.minNat (d : Dyad) (n : Nat) : Dyad := if d.num > n * 2 ^ d.exp then ⟨n, 0⟩ else d
def Dyad.addNat (d : Dyad) (n : Nat) : Dyad := ⟨d.num + n * 2 ^ d.exp, d.exp⟩
/-- Half the sum of two. -/
def Dyad.mean (a b : Dyad) : Dyad := ⟨a.num * 2 ^ b.exp + b.num * 2 ^ a.exp, a.exp + b.exp + 1⟩
/-- `(1 - g) · a` with g = 1/256, and `+ g` where asked. -/
def Dyad.decay (a : Dyad) (plus : Bool) : Dyad := ⟨255 * a.num + (if plus then 2 ^ a.exp else 0), a.exp + 8⟩
/-- `r · (1 - a / 2)`. -/
def Dyad.cut (r a : Dyad) : Dyad := ⟨r.num * (2 ^ (a.exp + 1) - a.num), r.exp + a.exp + 1⟩

def lineRate : Nat := 100000

def Qp.onCnp (x : Qp) (minRate : Nat) : Qp :=
  let a := x.alpha.decay true
  { x with alpha := a, target := x.rate, rate := (x.rate.cut a).maxNat minRate, stage := 0, bytes := 0 }

def Qp.increase (x : Qp) (ai hai : Nat) : Qp :=
  let st := x.stage + 1
  let t := if st > 10 then x.target.addNat hai else if st > 5 then x.target.addNat ai else x.target
  { x with stage := st, bytes := 0, target := t, rate := (t.mean x.rate).minNat lineRate }

/-- CNP_RECEIVED (R345); one to a VI that no partition owns is dropped (R331). -/
def execCnpReceived (qp : Fin 8192) (s : State) : Host.Outcome State Fault Refusal :=
  done (s.on (fun c => if !c.qpTakes qp.val then c
    else (c.updQp qp.val (fun x => x.onCnp (c.reg Obj.ECN_RATE_MIN))).countPart (qpPart qp.val) Obj.CNT_CNP_RECEIVED 1))

/-- ECN_ALPHA_DECAY (R345). -/
def execEcnAlphaDecay (qp : Fin 8192) (s : State) : Host.Outcome State Fault Refusal :=
  done (s.on (fun c => if c.qpState qp.val != qpReady then c
    else c.updQp qp.val (fun x => { x with alpha := x.alpha.decay false })))

/-- ECN_RATE_INCREASE (R345). -/
def execEcnRateIncrease (qp : Fin 8192) (s : State) : Host.Outcome State Fault Refusal :=
  done (s.on (fun c => if c.qpState qp.val != qpReady then c
    else c.updQp qp.val (fun x => x.increase (c.reg Obj.ECN_RATE_AI) (c.reg Obj.ECN_RATE_HAI))))

/-! ### Packets that arrive (R331, R340–R345) -/

/-- A CE-marked packet is answered with a CNP, at most one per queue pair per 50 µs. -/
def Chip.ceMark (c : Chip) (q : Nat) : Chip :=
  let x := c.qp q
  let due := match x.cnpAt with | none => true | some t => decide (t + 40000 ≤ c.raw)
  if due then ((c.setQp q { x with cnpAt := some c.raw }).send (.roce q roceCnp 0 [])).countPart (qpPart q) Obj.CNT_CNP_SENT 1 else c

/-- A packet that carries a request or data waits its turn behind those before it. -/
def State.receive (s : State) (q : Nat) (p : Pkt) (ce : Bool) : State :=
  if !s.chip.qpTakes q then s
  else (s.on (fun c => (if ce then c.ceMark q else c).updQp q (fun x => { x with jobs := x.jobs ++ [p] }))).qpKick q

/-- ROCE_SEND_RECEIVED (R342): the packet's position is 0 First, 1 Middle, 2 Last, 3 Only; 4 stands for an opcode outside the
subset, which is answered as an invalid request (R340). -/
def execRoceSendReceived (qp : Fin 8192) (psn : BitVec 24) (pos : Fin 5) (data : List Byte) (ce : Bool) (s : State) :
    Host.Outcome State Fault Refusal :=
  done (s.receive qp.val { kind := 0, psn := psn.toNat, pos := pos.val, data := data } ce)

/-- ROCE_WRITE_RECEIVED (R343): address, rkey and length stand in the first packet of a message. -/
def execRoceWriteReceived (qp : Fin 8192) (psn : BitVec 24) (pos : Fin 4) (va : W64) (rkey : W32) (len : W32) (data : List Byte)
    (ce : Bool) (s : State) : Host.Outcome State Fault Refusal :=
  done (s.receive qp.val { kind := 1, psn := psn.toNat, pos := pos.val, va := va.toNat, rkey := rkey.toNat, len := len.toNat,
                           data := data } ce)

/-- ROCE_READ_REQUEST (R343); `uncorr` names a line and sub-blocks that prove uncorrectable while it is read (R174). -/
def execRoceReadRequest (qp : Fin 8192) (psn : BitVec 24) (va : W64) (rkey : W32) (len : W32) (uncorr : Option (W64 × Fin 16))
    (ce : Bool) (s : State) : Host.Outcome State Fault Refusal :=
  done (s.receive qp.val { kind := 2, psn := psn.toNat, va := va.toNat, rkey := rkey.toNat, len := len.toNat,
                           uncorr := uncorr.map (fun u => (u.1.toNat, u.2.val)) } ce)

/-- ROCE_READ_RESPONSE (R340): data of an outstanding READ. -/
def execRoceReadResponse (qp : Fin 8192) (psn : BitVec 24) (data : List Byte) (ce : Bool) (s : State) :
    Host.Outcome State Fault Refusal :=
  done (s.receive qp.val { kind := 3, psn := psn.toNat, data := data } ce)

/-- ROCE_ACK (R340). -/
def execRoceAck (qp : Fin 8192) (psn : BitVec 24) (ce : Bool) (s : State) : Host.Outcome State Fault Refusal :=
  let q := qp.val
  done (if !s.chip.qpTakes q then s
    else (s.on (fun c => (if ce then c.ceMark q else c).ackUpTo q psn.toNat)).qpKick q)

/-- A remote access error ends its work request, and the queue pair enters ERROR. -/
def Chip.remoteAccess (c : Chip) (q psn : Nat) : Chip :=
  let end_ := fun (w : Wr) => if !w.settled && decide (psnDist psn w.psn < w.span) then { w with st := some compAccess } else w
  (c.updQp q (fun x => { x with wrs := x.wrs.map end_ })).qpFail q

/-- ROCE_NAK (R340): 0 sequence error, 1 receiver not ready, 2 invalid request, 3 remote access error, 4 remote operational
error. The packets before the one it names are acknowledged; the first two kinds send again, the others end in ERROR. -/
def execRoceNak (qp : Fin 8192) (psn : BitVec 24) (kind : Fin 5) (ce : Bool) (s : State) : Host.Outcome State Fault Refusal :=
  let q := qp.val
  done (if !s.chip.qpTakes q then s
    else (s.on (fun c =>
      let c := (if ce then c.ceMark q else c).ackUpTo q (psnAdd psn.toNat (2 ^ 24 - 1))
      if kind.val ≤ 1 then c.qpRetry q else if kind.val = 3 then c.remoteAccess q psn.toNat else c.qpFail q)).qpKick q)

/-- ROCE_RETRY_TIMEOUT (R341): a packet sent has not been acknowledged within the timeout. -/
def execRoceRetryTimeout (qp : Fin 8192) (s : State) : Host.Outcome State Fault Refusal :=
  let q := qp.val
  done (if s.chip.qpTakes q && (s.chip.qp q).wrs.any (fun w => !w.settled && decide (w.una < w.off || (w.op = 1 && w.off = 1)))
    then (s.on (fun c => c.qpRetry q)).qpKick q else s)

/-- ROCE_FAULT_WAIT_EXPIRED (R344). -/
def execRoceFaultWaitExpired (qp : Fin 8192) (s : State) : Host.Outcome State Fault Refusal :=
  let q := qp.val
  done (if (s.chip.qp q).waitAt = 0 then s
    else ((s.on (fun c => c.dropWaiters (fun w => w != Waiter.roce q))).qpDeny q).qpKick q)

/-! ### The doorbell words (R342) -/

/-- A word of the queue-pair doorbell page of an ACTIVE partition. -/
def State.qpCount (s : State) (q code count : Nat) : State :=
  if s.chip.wsState (qpPart q) != wsActive then s else (s.on (fun c => c.qpDoorbell q code count)).roceRun

def execQpSendProducer (qp : Fin 8192) (count : W32) (s : State) : Host.Outcome State Fault Refusal :=
  done (s.qpCount qp.val 0 count.toNat)

def execQpRecvProducer (qp : Fin 8192) (count : W32) (s : State) : Host.Outcome State Fault Refusal :=
  done (s.qpCount qp.val 1 count.toNat)

def execQpCompConsumer (qp : Fin 8192) (count : W32) (s : State) : Host.Outcome State Fault Refusal :=
  done (s.qpCount qp.val 2 count.toNat)

/-! ### QP_CONFIG and MR_ENTRY (R341, R343) -/

/-- Whether the 64 bytes hold values of Table 13.5. -/
def qpCfgOk (b : List Byte) : Bool :=
  decide (byteAt b 0 ≤ 1) && decide (byteAt b 1 < 8) && decide (byteAt b 2 < 64) && decide (byteAt b 3 < 16) &&
  byteAt b 7 = 0 && byteAt b 0xB = 0 && byteAt b 0xF = 0 &&
  leAt b 0x20 8 % 4096 = 0 && leAt b 0x28 8 % 4096 = 0 && leAt b 0x30 8 % 4096 = 0 &&
  isPow2 (leAt b 0x38 4) && decide (64 ≤ leAt b 0x38 4) && decide (leAt b 0x38 4 ≤ 65536) &&
  !bitAt (byteAt b 0x3C) 3 && decide (16 ≤ byteAt b 0x3C) && allZero (b.drop 0x3D)

/-- Whether a virtual address is valid for the Ethernet block: it translates, or a steward makes it so. -/
def State.ringValid (s : State) (k ctx va : Nat) (write : Bool) : Bool :=
  match (s.rwalk k ctx va write).2 with
  | .ok _ => true
  | .error i => i.reason = rsSteward || i.reason = rsBusy

/-- A queue pair is reset: what it held is gone. -/
def Chip.qpClear (c : Chip) (q : Nat) : Chip := { (c.dropWaiters (fun w => w != Waiter.roce q)) with qps := Tbl.del c.qps q }

/-- QP_CONFIG of a queue pair is written. -/
def effQpConfig (q : Nat) : Eff := fun _ bs s =>
  let old := s.chip.qpCfg q
  let st := byteAt bs 0
  let ctx := byteAt bs 3
  let key := Obj.QP_CONFIG + q
  let k := qpPart q
  if !qpCfgOk bs then (s, rcRange)
  else if byteAt old 0 != qpReset && (bs.drop 1 != old.drop 1 || (st = qpReady && byteAt old 0 = qpError)) then (s, rcState)
  else if st = qpReset then (s.on (fun c => (c.qpClear q).setBlob modInst key bs), rcOK)
  else if byteAt old 0 = qpReady then (s, rcOK)
  else if !bitAt (s.chip.part k).vis (byteAt bs 2) || !s.ringValid k ctx (leAt bs 0x20 8) false ||
      (leAt bs 0x28 8 != 0 && !s.ringValid k ctx (leAt bs 0x28 8) false) || !s.ringValid k ctx (leAt bs 0x30 8) true then (s, rcState)
  else (s.on (fun c => (c.setQp q { sPsn := leAt bs 8 4, ePsn := leAt bs 0xC 4 }).setBlob modInst key bs), rcOK)

/-- QP_CONFIG_WRITE (R341). -/
def execQpConfigWrite (r : Req) (qp : Fin 8192) (value : List Byte) (s : State) : Host.Outcome State Fault Refusal :=
  done (s.rowWrite r (Obj.QP_CONFIG + qp.val) value (effQpConfig qp.val))

/-- The rkey of a region written anew: its index and a tag that is not the one before. -/
def Chip.newRkey (c : Chip) (k r : Nat) : Nat :=
  let t := (Config.rkeyTag c.fresh).toNat
  r * 2 ^ 24 + (if t = leAt (c.region k r) 16 3 then (t + 1) % 2 ^ 24 else t)

def Chip.setRegion (c : Chip) (k r : Nat) (bs : List Byte) : Chip :=
  let key := c.newRkey k r
  (c.tick1).2.setBlob k (Obj.MR_ENTRY + r) (bs.take 16 ++ leBytes 4 key)

/-- A memory region is written; its rkey is the module's. -/
def effMrEntry (r : Nat) : Eff := effOn (fun inst bs c =>
  if leAt bs 12 4 ≥ 64 then (c, rcRange) else (c.setRegion inst r bs, rcOK))

/-- MR_ENTRY_WRITE (R343). -/
def execMrEntryWrite (r : Req) (region : Byte) (value : List Byte) (s : State) : Host.Outcome State Fault Refusal :=
  done (s.rowWrite r (Obj.MR_ENTRY + region.toNat) value (effMrEntry region.toNat))

/-- Regions 0 and 1 of a new partition: its doorbell pages, write-only (R343). -/
def Chip.doorbellRegions (c : Chip) (k : Nat) : Chip :=
  let e := fun (len : Nat) => leBytes 8 0 ++ leBytes 4 len ++ leBytes 4 32 ++ zeros 4
  (c.setRegion k 0 (e 0x1000)).setRegion k 1 (e 0x2000)

/-! ### Work requests (R342, R346) -/

/-- WORK_REQUEST_DONE: the oldest work request is settled; with SIGNAL it owes a completion. -/
def execWorkRequestDone (qp : Fin 8192) (s : State) : Host.Outcome State Fault Refusal :=
  let q := qp.val
  let x := s.chip.qp q
  match x.wrs with
  | w :: t =>
    if !w.settled then done s
    else
      let e : Comp := { id := w.id, bytes := w.len, kind := 0, st := w.st.getD 0 }
      done ((s.on (fun c => c.setQp q { x with wrs := t, sendDone := inc32 x.sendDone,
                                               owed := if bitAt w.flags 0 then x.owed ++ [e] else x.owed })).qpKick q)
  | [] => done s

/-- LAUNCH_TIME_REACHED (R346): device time reaches LAUNCH_TIME within the coming tick. -/
def execLaunchTimeReached (qp : Fin 8192) (s : State) : Host.Outcome State Fault Refusal :=
  let q := qp.val
  match (s.chip.qp q).launch with
  | some w =>
    if w.launch ≤ ({ s.chip with raw := s.chip.raw + 800 } : Chip).now then done ((s.on (fun c => c.wrStart q w)).qpKick q) else done s
  | none => done s

end Sys2Proof.Machine
end

