-- ==== Sys2Proof/Machine/Ethernet.lean ====
section
/-! DEFINITION. The Ethernet ports (R327–R330). -/
namespace Sys2Proof.Machine

def ethDown : Nat := 0
def ethTraining : Nat := 1
def ethUp : Nat := 2

def Chip.eth (c : Chip) (p : Nat) : Nat := c.reg (Obj.ETH_LINK_STATE + p)

/-- The queue pairs of a port have it back. -/
def Chip.ethWake (c : Chip) (p : Nat) : Chip :=
  { c with qps := c.qps.map (fun e => if c.qpPort e.1 = p then (e.1, { e.2 with ready := true }) else e) }

/-- ETH_LINK_UP (R328). -/
def execEthLinkUp (port : Fin 8) (s : State) : Host.Outcome State Fault Refusal :=
  let p := port.val
  done (if s.chip.eth p != ethTraining then s
    else (s.on (fun c => ((c.setReg (Obj.ETH_LINK_STATE + p) ethUp).raiseMod 0x0F02 []).ethWake p)).roceRun)

/-- ETH_LINK_DOWN (R328): a port that leaves UP trains again. -/
def execEthLinkDown (port : Fin 8) (s : State) : Host.Outcome State Fault Refusal :=
  let p := port.val
  done (s.on (fun c => if c.eth p != ethUp then c
    else ((c.setReg (Obj.ETH_LINK_STATE + p) ethTraining).bump (Obj.CNT_ETH_LINK_DOWN + p)).raiseMod 0x0F01 []))

/-- ETH_TRAINING_FAILED (R328): the third in an epoch takes the port out of ETH_PORT_MASK. -/
def execEthTrainingFailed (port : Fin 8) (s : State) : Host.Outcome State Fault Refusal :=
  let p := port.val
  done (s.on (fun c => if c.eth p != ethTraining then c
    else
      let n := Tbl.get c.ethFails 0 p + 1
      let c := { c with ethFails := Tbl.put c.ethFails p n }
      if n < 3 then c
      else (c.setReg (Obj.ETH_LINK_STATE + p) ethDown).extSet Obj.ETH_PORT_MASK (putBit (c.extSoon Obj.ETH_PORT_MASK) p false)))

/-- ROUTER_ADVERTISEMENT (R330): the first gives the port its prefix. -/
def execRouterAdvertisement (port : Fin 8) (pfx : W64) (s : State) : Host.Outcome State Fault Refusal :=
  let key := Obj.ETH_PREFIX + port.val
  done (s.on (fun c => if c.eth port.val = ethUp && allZero (c.blob modInst key) then c.setBlob modInst key (leBytes 8 pfx.toNat) else c))

/-- PAUSE_FRAME_RECEIVED (R327). -/
def execPauseFrameReceived (port : Fin 8) (s : State) : Host.Outcome State Fault Refusal :=
  done (s.on (fun c => if c.eth port.val = ethUp then c.bump Obj.CNT_PAUSE_IGNORED else c))

end Sys2Proof.Machine
end

