-- ==== Sys2Proof/Machine/Trace.lean ====
section
/-! DEFINITION. The trace rings, and tensor watch (R124, R436–R441). -/
namespace Sys2Proof.Machine

/-! ### Trace rings (R436, R438) -/

/-- Bytes of one of the 16 rings. -/
def Chip.ringBytes (c : Chip) (k : Nat) : Nat := c.get k Obj.TRACE_BYTES / 16

/-- Whole lines of four records go from the Ridge's buffer to its ring; a line that the stack does not take is discarded and
counted. -/
def State.traceLines (n k : Nat) : Nat → State → State
  | 0, s => s
  | f + 1, s =>
    let buf := (s.chip.ridge n).traceBuf
    if buf.length < 4 then s
    else
      let prod := s.chip.reg (Obj.TRACE_PRODUCER + n)
      let size := s.chip.ringBytes k
      let pa := s.chip.get k Obj.TRACE_BASE + n * size + prod % max 1 size
      let s := s.on (fun c => c.updRidge n (fun r => { r with traceBuf := buf.drop 4 }))
      let (s, e) := s.writePhys k pa (buf.take 4).flatten
      let s := match e with
        | none => s.on (fun c => c.setReg (Obj.TRACE_PRODUCER + n) (prod + 128))
        | some _ => s.on (fun c => c.countPart k Obj.CNT_TRACE_DROPPED 4)
      State.traceLines n k f s

/-- The buffer of a Ridge is written out; `drain`, before a rewind, drops and counts what no whole line holds. -/
def State.traceFlush (s : State) (n : Nat) (drain : Bool) : State :=
  match s.chip.owner n with
  | none => s
  | some k =>
    let s := State.traceLines n k 64 s
    let m := (s.chip.ridge n).traceBuf.length
    if drain && m != 0 then
      s.on (fun c => (c.countPart k Obj.CNT_TRACE_DROPPED m).updRidge n (fun r => { r with traceBuf := [], traceLost := r.traceLost + m }))
    else s

/-- TRACE_FLUSH (R438). -/
def execTraceFlush (ridge : Fin 16) (s : State) : Host.Outcome State Fault Refusal := done (s.traceFlush ridge.val false)

/-- Whether an area lies wholly within one owned near stack (R436, R439). -/
def Chip.nearArea (c : Chip) (k pa n : Nat) : Bool := decide (pa + n ≤ farBase) && c.owned k pa n

def effTraceEn : Eff := effOn (fun inst bs c => if leNat bs ≥ 16 then (c, rcRange) else (c.set inst Obj.TRACE_EN (leNat bs), rcOK))

def effTraceBase : Eff := effOn (fun inst bs c =>
  let v := leNat bs
  if v % 65536 != 0 || !c.nearArea inst v (c.get inst Obj.TRACE_BYTES) then (c, rcRange)
  else if c.get inst Obj.TRACE_EN != 0 then (c, rcState)
  else (c.set inst Obj.TRACE_BASE v, rcOK))

def effTraceBytes : Eff := effOn (fun inst bs c =>
  if c.get inst Obj.TRACE_EN != 0 then (c, rcState) else (c.set inst Obj.TRACE_BYTES (leNat bs), rcOK))

/-! ### The watch ring (R439, R441) -/

/-- Bytes of a dump: header, data and padding. -/
def dumpBytes (n : Nat) : Nat := 128 * ceilDiv (64 + n) 128

/-- The pad that a dump of `total` bytes needs ahead of it, where it fits. -/
def dumpPad (size prod cons total : Nat) : Option Nat :=
  let o := prod % max 1 size
  let pad := if o + total > size then size - o else 0
  if total ≤ size && decide (pad + total + (prod + 2 ^ 64 - cons) % 2 ^ 64 ≤ size) then some pad else none

def effWatchBase : Eff := effOn (fun inst bs c =>
  let v := leNat bs
  if v = 0 then (c.set inst Obj.WATCH_BASE 0, rcOK)
  else if v % 65536 != 0 || !c.nearArea inst v (c.get inst Obj.WATCH_BYTES) then (c, rcRange)
  else if c.get inst Obj.WATCH_BASE != 0 then (c, rcState)
  else
    let c := ((c.set inst Obj.WATCH_BASE v).set inst Obj.WATCH_PRODUCER 0).set inst Obj.WATCH_CONSUMER 0
    (c.updPart inst (fun p => { p with watchGen := p.watchGen + 1 }), rcOK))

def effWatchBytes : Eff := effOn (fun inst bs c =>
  if c.get inst Obj.WATCH_BASE != 0 then (c, rcState) else (c.set inst Obj.WATCH_BYTES (leNat bs), rcOK))

/-- WATCH_BASE_WRITE (R441). -/
def execWatchBaseWrite (r : Req) (base : W64) (s : State) : Host.Outcome State Fault Refusal :=
  done (s.rowWrite r Obj.WATCH_BASE (wr 8 base.toNat) effWatchBase)

/-! ### WATCH (R124, R440) -/

def watchAll : Nat := 2 ^ 64 - 1

/-- WATCH completes without a dump, as one that its queue has finished. -/
def Chip.watchOver (c : Chip) (n q : Nat) (k : Cmd) : Chip :=
  let c := if k.started then c else (c.startCmd n q k).giveUnit n q k.count 0
  if k.units = 1 then c.unitDone n q k.count 0 else c.endCmd n q k.count stOK

/-- Every earlier command has finished: the dump begins, or WATCH completes. -/
def Chip.watchBegin (c : Chip) (n q : Nat) (k : Cmd) : Chip :=
  let own := c.ownerN n
  let step := Tbl.get (c.ridge n).steps 0 (c.qctx n q)
  let want := k.field 0x20 8
  let size := c.get own Obj.WATCH_BYTES
  let prod := c.get own Obj.WATCH_PRODUCER
  let bytes := k.field 0x18 4
  let fits := c.get own Obj.WATCH_BASE != 0 && (dumpPad size prod (c.get own Obj.WATCH_CONSUMER) (dumpBytes bytes)).isSome
  if want != watchAll && want != step then c.watchOver n q k
  else if !fits then (c.countPart own Obj.CNT_WATCH_SKIPPED 1).watchOver n q k
  else
    let old := match k.watch with | some w => w.buf | none => []
    (c.startCmd n q k).updCmd n q k.count (fun k => { k with watch := some {
      base := c.get own Obj.WATCH_BASE, bytes := size, prod := prod, gen := (c.part own).watchGen, step := step,
      stamp := c.stampAt n, buf := old } })

/-- One line of the tensor is read. -/
def State.watchLine (s : State) (n part ctx slot : Nat) (d : DmaUnit) (k : Cmd) : State × Option AccFail :=
  let o := 128 * (512 * d.unit + d.line)
  match s.readOp n part ctx 0 (k.field 0x10 8 + o) (min 128 (k.field 0x18 4 - o)) with
  | (s, .error e) => (s, some e)
  | (s, .ok bs) =>
    (s.on (fun c => (c.updCmd n d.queue d.count (fun k => { k with watch := k.watch.map (fun w => { w with buf := placeAt w.buf o bs }) })).updRidge n
      (fun r => { r with dma := Tbl.upd r.dma {} slot (fun d => { d with line := d.line + 1 }) })), none)

/-- Up to `fuel` lines of the running watch unit in a record slot. -/
def State.watchLines (n slot : Nat) : Nat → State → State
  | 0, s => s
  | f + 1, s =>
    match s.chip.owner n, Tbl.find (s.chip.ridge n).dma slot with
    | some part, some d =>
      match s.chip.cmd n d.queue d.count with
      | none => s
      | some k =>
        if d.st != .running || k.op != opWatch || d.lines ≤ d.line then s
        else
          match s.watchLine n part (s.chip.qctx n d.queue) slot d k with
          | (t, some e) => (s.charge n d.queue t).fail e (.dma n slot)
          | (t, none) => State.watchLines n slot f (s.charge n d.queue t)
    | _, _ => s

/-- WATCH (R124, R440): its dump begins where it may, or the engine copies lines of the unit in a record slot. -/
def execWatch (ridge : Fin 16) (queue : Fin 8) (slot : Fin 32) (lines : Nat) (s : State) : Host.Outcome State Fault Refusal :=
  let n := ridge.val
  let q := queue.val
  done (match (s.chip.queue n q).cmds.find? (fun k => k.op = opWatch && !k.finished && (s.chip.queue n q).mayStart k) with
    | some k => (s.on (fun c => c.watchBegin n q k)).kick n
    | none => (State.watchLines n slot.val lines s).kick n)

/-- The header of a dump (Table 19.4). -/
def Cmd.dumpHead (k : Cmd) (w : WatchDump) (n q total seq : Nat) : List Byte :=
  leBytes 4 (k.field 0x1C 4) ++ leBytes 4 total ++ leBytes 8 w.step ++ leBytes 8 (k.field 0x10 8) ++ leBytes 4 (k.field 0x18 4) ++
  leBytes 1 (byteAt k.desc 0x28) ++ leBytes 1 (if k.replayed || !k.ran.isEmpty then 1 else 0) ++ leBytes 1 (n + 16 * q) ++ [0#8] ++
  leBytes 4 k.count ++ leBytes 4 seq ++ leBytes 8 w.stamp ++ zeros 16

/-- The header that fills the rest of the ring. -/
def padHead (pad : Nat) : List Byte := zeros 4 ++ leBytes 4 pad ++ zeros 0x15 ++ [2#8] ++ zeros 0x22

/-- Bytes of a ring area, split at frames; whether every part was taken. -/
def State.areaWrite (k : Nat) : Nat → Nat → List Byte → State → State × Bool
  | 0, _, _, s => (s, true)
  | f + 1, pa, bs, s =>
    if bs.isEmpty then (s, true)
    else
      let m := 65536 - pa % 65536
      match s.writePhys k pa (bs.take m) with
      | (s, some _) => (s, false)
      | (s, none) => State.areaWrite k f (pa + m) (bs.drop m) s

/-- The copy is complete: data, then header, and WATCH_PRODUCER passes the dump. A ring set anew since the start keeps its own
counts. A dump that no longer fits, or that the stack does not take, is skipped. -/
def State.watchEnd (s : State) (n q : Nat) (k : Cmd) : State :=
  let own := s.chip.ownerN n
  match k.watch with
  | none => s
  | some w =>
    let same := (s.chip.part own).watchGen = w.gen
    let prod := if same then s.chip.get own Obj.WATCH_PRODUCER else w.prod
    let cons := if same then s.chip.get own Obj.WATCH_CONSUMER else w.prod
    let total := dumpBytes (k.field 0x18 4)
    let skip := fun (s : State) => s.on (fun c => c.countPart own Obj.CNT_WATCH_SKIPPED 1)
    match dumpPad w.bytes prod cons total with
    | none => skip s
    | some pad =>
      let at_ := w.base + (prod + pad) % w.bytes
      let seq := inc32 (s.chip.part own).dumpSeq
      let data := fitTo (total - 64) w.buf
      let (s, ok1) := State.areaWrite own (total / 65536 + 2) (at_ + 64) data s
      let (s, ok2) := State.areaWrite own 2 at_ (k.dumpHead w n q total seq) s
      let s := if pad = 0 then s else (State.areaWrite own 2 (w.base + prod % w.bytes) (padHead pad) s).1
      if !(ok1 && ok2) then skip s
      else s.on (fun c =>
        let c := c.updPart own (fun p => { p with dumpSeq := seq })
        if same then c.set own Obj.WATCH_PRODUCER (prod + pad + total) else c)

/-- The last unit of a WATCH ends: its dump is written. -/
def State.watchUnit (s : State) (n : Nat) (d : DmaUnit) : State :=
  match s.chip.cmd n d.queue d.count with
  | some k => if d.form = .watchCopy && k.done.length + 1 = k.units && !k.done.contains d.unit then s.watchEnd n d.queue k else s
  | none => s

end Sys2Proof.Machine
end

