-- ==== Sys2Proof/Machine/Dma.lean ====
section
/-! DEFINITION. The DMA engines: the lines of MOVE, GATHER and SCATTER units, and the end of a unit (R110, R111,
R197–R202). -/
namespace Sys2Proof.Machine

/-- One 128-byte line of a copy: what it reads (none for a zero line), where it writes (none for no write), and whether it
begins a row whose index is out of range (R111). -/
structure LineOp where
  src : Option Nat := none
  dst : Option Nat := none
  outRange : Bool := false
deriving DecidableEq, Repr

/-- Row and offset of line `l` of a unit's stream (R197). -/
def Cmd.lineAt (k : Cmd) (u l : Nat) : Nat × Nat :=
  let rb := k.field 0x28 4
  let x := if k.op = opMove then 128 * (512 * u + l) else u * k.dmaRowsPerUnit * rb + 128 * l
  (x / rb, x % rb)

/-- The line of a copy whose row has index `idx` on the indexed side. -/
def Cmd.lineOp (k : Cmd) (row off idx : Nat) : LineOp :=
  let src := k.field 0x10 8
  let dst := k.field 0x18 8
  let ss := k.field 0x30 4
  let ds := k.field 0x34 4
  let out := decide (idx ≥ k.field 0x38 4)
  if k.op = opMove then { src := some (src + row * ss + off), dst := some (dst + row * ds + off) }
  else if k.op = opGather then
    { src := if out then none else some (src + idx * ss + off), dst := some (dst + row * ds + off), outRange := out && off = 0 }
  else
    { src := if out then none else some (src + row * ss + off), dst := if out then none else some (dst + idx * ds + off),
      outRange := out && off = 0 }

/-- The index of a row, read from the index array; 0 for MOVE. -/
def State.rowIdx (s : State) (n part ctx : Nat) (k : Cmd) (row : Nat) : State × Except AccFail Nat :=
  if k.op = opMove then (s, .ok 0)
  else
    match s.readOp n part ctx 0 (k.field 0x20 8 + 4 * row) 4 with
    | (s, .error e) => (s, .error e)
    | (s, .ok bs) => (s, .ok (leNat bs))

/-- The line at LINE is read and written, and LINE advances. -/
def State.moveLine (s : State) (n part ctx slot : Nat) (d : DmaUnit) (k : Cmd) : State × Option AccFail :=
  let (row, off) := k.lineAt d.unit d.line
  match s.rowIdx n part ctx k row with
  | (s, .error e) => (s, some e)
  | (s, .ok idx) =>
    let o := k.lineOp row off idx
    let (s, data) : State × Except AccFail (List Byte) := match o.src with
      | some a => s.readOp n part ctx 0 a 128
      | none => (s, .ok (zeros 128))
    match data with
    | .error e => (s, some e)
    | .ok bs =>
      let (s, e) := match o.dst with
        | some a => s.writeDma n part ctx a bs
        | none => (s, none)
      match e with
      | some e => (s, some e)
      | none =>
        let s := if o.outRange then s.on (fun c => c.countPart part Obj.CNT_INDEX_RANGE 1) else s
        (s.on (fun c => c.updRidge n (fun r => { r with dma := Tbl.upd r.dma {} slot (fun d => { d with line := d.line + 1 }) })), none)

/-- Up to `fuel` lines of the running unit in a record slot, in ascending order (R198); a fault stops it at its line
(R202). -/
def State.moveLines (n slot op : Nat) : Nat → State → State
  | 0, s => s
  | f + 1, s =>
    match s.chip.owner n, Tbl.find (s.chip.ridge n).dma slot with
    | some part, some d =>
      match s.chip.cmd n d.queue d.count with
      | none => s
      | some k =>
        if d.st != .running || k.op != op || d.lines ≤ d.line then s
        else
          match s.moveLine n part (s.chip.qctx n d.queue) slot d k with
          | (t, some e) => (s.charge n d.queue t).fail e (.dma n slot)
          | (t, none) => State.moveLines n slot op f (s.charge n d.queue t)
    | _, _ => s

/-- MOVE: the engine moves lines of the unit in a record slot (R111). -/
def execMove (ridge : Fin 16) (slot : Fin 32) (lines : Nat) (s : State) : Host.Outcome State Fault Refusal :=
  done ((State.moveLines ridge.val slot.val opMove lines s).kick ridge.val)

/-- GATHER: the engine moves lines of the unit in a record slot (R111). -/
def execGather (ridge : Fin 16) (slot : Fin 32) (lines : Nat) (s : State) : Host.Outcome State Fault Refusal :=
  done ((State.moveLines ridge.val slot.val opGather lines s).kick ridge.val)

/-- SCATTER: the engine moves lines of the unit in a record slot (R111). -/
def execScatter (ridge : Fin 16) (slot : Fin 32) (lines : Nat) (s : State) : Host.Outcome State Fault Refusal :=
  done ((State.moveLines ridge.val slot.val opScatter lines s).kick ridge.val)

/-- A unit releases its record slot, and with it its engine. -/
def Chip.freeSlotOf (c : Chip) (n slot : Nat) : Chip := c.updRidge n (fun r => { r with dma := Tbl.del r.dma slot })

/-- DMA_UNIT_DONE: every line of the unit in a slot is written and acknowledged, the symbols `ce` of its reads corrected (R167,
R199, R200). A fabric unit ends with its
segment instead (R115). -/
def execDmaUnitDone (ridge : Fin 16) (slot : Fin 32) (ce : List Corr) (s : State) : Host.Outcome State Fault Refusal :=
  let n := ridge.val
  done (match Tbl.find (s.chip.ridge n).dma slot.val with
  | none => s
  | some d =>
    if d.st != .running || d.line < d.lines || d.form = .fabricOut || d.form = .fabricIn then s
    else ((s.watchUnit n d).on (fun c => ((c.corrected ce).freeSlotOf n slot.val).unitDone n d.queue d.count d.unit)).kick n
      |>.on (fun c => c.idleEngine n (d.engine.getD 0)))

end Sys2Proof.Machine
end

