-- ==== Sys2Proof/Machine/Links.lean ====
section
/-! DEFINITION. The flit layer of a link: flits and their CRC, dealing, credits, acknowledgement, replay, and routes
(R242–R246, R257, R258). -/
namespace Sys2Proof.Machine

def Chip.link (c : Chip) (l : Nat) : Link := Tbl.get c.links {} l
def Chip.updLink (c : Chip) (l : Nat) (f : Link → Link) : Chip := { c with links := Tbl.put c.links l (f (c.link l)) }
def Chip.lane (c : Chip) (i : Nat) : Lane := Tbl.get c.lanes {} i
def Chip.updLane (c : Chip) (i : Nat) (f : Lane → Lane) : Chip := { c with lanes := Tbl.put c.lanes i (f (c.lane i)) }

/-! ### Lane states (Table 9.2) and link states (Table 9.3) -/

def laneDark : Nat := 0
def laneTraining : Nat := 1
def laneReady : Nat := 2
def laneActive : Nat := 3
def lanePaused : Nat := 4
def laneRetrain : Nat := 5
def laneFailed : Nat := 6
def laneExpress : Nat := 7

def linkDown : Nat := 0
def linkDiscover : Nat := 1
def linkUp : Nat := 2
def linkDegraded : Nat := 3
def linkRetrain : Nat := 4
def linkQuar : Nat := 5

/-- A link that carries traffic. -/
def Link.usable (x : Link) : Bool := x.state = linkUp || x.state = linkDegraded

/-- The lanes that belong to a link, ascending. -/
def Chip.lanesOf (c : Chip) (l : Nat) : List Nat := (c.lanes.filter (fun p => p.2.link = some l)).map (·.1)

/-- Its ACTIVE lanes. -/
def Chip.activeOf (c : Chip) (l : Nat) : List Nat :=
  (c.lanes.filter (fun p => p.2.link = some l && p.2.state = laneActive)).map (·.1)

/-- Its ACTIVE or PAUSED lanes. -/
def Chip.liveOf (c : Chip) (l : Nat) : List Nat :=
  (c.lanes.filter (fun p => p.2.link = some l && (p.2.state = laneActive || p.2.state = lanePaused))).map (·.1)

/-- The partition that owns a lane slot. -/
def Chip.lanePart (c : Chip) (i : Nat) : Option Nat := (List.range 8).find? (fun k => bitAt (c.part k).lanes i)

/-! ### Flits (R242, Table 9.4) -/

/-- One bit of CRC-64 with the ECMA-182 polynomial, most significant bit first. -/
def crcBit (crc : Nat) (b : Bool) : Nat :=
  let top := crc.testBit 63 != b
  let sh := (crc * 2) % 2 ^ 64
  if top then Nat.xor sh 0x42F0E1EBA9EA3693 else sh

/-- The CRC of bytes: initial value and final XOR of all ones. -/
def crc64 (bs : List Byte) : Nat :=
  let r := bs.foldl (fun crc b => (List.range 8).foldl (fun x i => crcBit x (bitAt b.toNat (7 - i))) crc) (2 ^ 64 - 1)
  2 ^ 64 - 1 - r

/-- Buffer of a virtual channel, in flits (Table 9.5). -/
def vcBuffer (vc : Nat) : Nat := match vc with | 0 => 2560 | 1 => 1280 | 2 => 192 | _ => 64

/-- The header fields that each outbound flit of a link carries for the other direction: acknowledgement and the credits of
the lowest channel that owes any. -/
structure Carry where
  ack : Nat := 0
  valid : Bool := false
  nak : Bool := false
  vc : Nat := 0
  count : Nat := 0
deriving DecidableEq, Repr

def Link.carry (x : Link) (nak : Bool) : Carry :=
  let vc := ((List.range 4).find? (fun v => Tbl.get x.owed 0 v > 0)).getD 0
  { ack := (x.want + 65535) % 65536, valid := x.got, nak := nak, vc := vc, count := min 1023 (Tbl.get x.owed 0 vc) }

/-- The 256 bytes of a flit. -/
def flitBytes (seq ty vc : Nat) (k : Carry) (payload : List Byte) : List Byte :=
  let h := min 240 payload.length + vc * 2 ^ 16 + ty * 2 ^ 13 + k.count * 2 ^ 18 + k.vc * 2 ^ 28 + (if k.nak then 2 ^ 30 else 0) +
    (if k.valid then 2 ^ 31 else 0) + k.ack * 2 ^ 32 + seq % 65536 * 2 ^ 48
  let b := leBytes 8 h ++ fitTo 240 payload
  b ++ leBytes 8 (crc64 b)

/-- The lane that the next flit is dealt to: ACTIVE lanes in rotation by ascending number (R243). -/
def Chip.nextLane (c : Chip) (l : Nat) : Option Nat :=
  let act := c.activeOf l
  match act.find? (fun i => decide (i ≥ (c.link l).deal)) with
  | some i => some i
  | none => act.head?

/-- One flit of a link on the wire; what it carries back is taken off what is owed. -/
def Chip.wire (c : Chip) (l seq ty vc : Nat) (nak : Bool) (payload : List Byte) : Chip :=
  match c.nextLane l with
  | none => c
  | some i =>
    let k := (c.link l).carry nak
    let c := c.updLink l (fun x => { x with
      deal := i + 1, unacked := 0, owed := Tbl.put x.owed k.vc (Tbl.get x.owed 0 k.vc - k.count) })
    c.send (.flit i (flitBytes seq ty vc k payload))

/-- An IDLE flit: acknowledgement and credits alone. -/
def Chip.idle (c : Chip) (l : Nat) (nak : Bool) : Chip := c.wire l (c.link l).next 1 0 nak []

/-- Waiting flits are sent in order, each while its channel has a credit and the replay buffer has room (R244, R246). -/
def Chip.pumpLink (l : Nat) : Nat → Chip → Chip
  | 0, c => c
  | f + 1, c =>
    let x := c.link l
    if !x.usable || x.held.length ≥ 4096 || (c.activeOf l).isEmpty then c
    else
      match x.queue.find? (fun q => Tbl.get x.credit 0 q.vc > 0) with
      | none => c
      | some q =>
        let fl := { q with seq := x.next }
        let rest := (x.queue.takeWhile (· != q)) ++ (x.queue.dropWhile (· != q)).drop 1
        let c := c.updLink l (fun x => { x with
          queue := rest, held := x.held ++ [fl], next := (x.next + 1) % 65536,
          credit := Tbl.put x.credit q.vc (Tbl.get x.credit 0 q.vc - 1) })
        Chip.pumpLink l f (c.wire l fl.seq fl.ty fl.vc false fl.payload)

/-- Sequenced flits enter the link's transmitter. -/
def Chip.submit (c : Chip) (l : Nat) (fs : List Flit) : Chip :=
  let c := c.updLink l (fun x => { x with queue := x.queue ++ fs })
  Chip.pumpLink l ((c.link l).queue.length) c

/-- A message of Table 9.6 on VC 2 or 3: its code, then its fields. -/
def Chip.message (c : Chip) (l vc code : Nat) (fs : List (Nat × Nat)) : Chip :=
  let bs := leBytes 1 code ++ (fs.map (fun f => leBytes f.1 f.2)).flatten
  c.submit l [{ ty := if vc = 3 then 3 else 0, vc := vc, payload := bs }]

/-- The flits of a segment: its descriptor and 224 bytes in the first, 240 bytes in each that follows (R247). -/
def segFlits (vc chan tid idx : Nat) (data : List Byte) : List Flit :=
  let d := leBytes 4 tid ++ leBytes 2 idx ++ leBytes 1 chan ++ zeros 1 ++ leBytes 4 data.length ++ zeros 4
  let rest := data.drop 224
  let body := (List.range (ceilDiv rest.length 240)).map (fun i => (rest.drop (240 * i)).take 240)
  ((d ++ data.take 224) :: body).map (fun p => { ty := 0, vc := vc, payload := p })

/-- The codes of Table 9.6. -/
def msgRts : Nat := 0x01
def msgCts : Nat := 0x02
def msgComplete : Nat := 0x03
def msgRefuse : Nat := 0x04
def msgSegAck : Nat := 0x05
def msgSwapAnnounce : Nat := 0x81
def msgSwapAck : Nat := 0x82
def msgLaneDrop : Nat := 0x83
def msgLaneAdd : Nat := 0x84
def msgFrameMark : Nat := 0x85

/-- Every held flit is sent again in order (R245, R246). -/
def Chip.replayHeld (c : Chip) (l : Nat) : Chip :=
  (c.link l).held.foldl (fun c f => c.wire l f.seq f.ty f.vc false f.payload) c

/-- The flit layer starts afresh when a link reaches UP, and discards what it held when it leaves (R257). -/
def Link.clear (x : Link) : Link :=
  { x with next := 0, held := [], queue := [], replays := 0, credit := (List.range 4).map (fun v => (v, vcBuffer v)), owed := [],
           want := 0, got := false, unacked := 0, nakAt := none, early := [], high := [], asm := [] }

/-! ### Routes (R258, Table 9.10) -/

/-- The entry of a route handle. -/
def Chip.route (c : Chip) (k h : Nat) : Nat := leNat (c.blob k (Obj.ROUTE_ENTRY + h / 256 * 256 + h % 256))

/-- The usable links of a partition to a peer, ascending. -/
def Chip.linksTo (c : Chip) (k peer : Nat) : List (Nat × Link) :=
  c.links.filter (fun p => p.2.part = some k && p.2.usable && p.2.peer = peer)

/-- The link that a route resolves to now. -/
def Chip.resolve (c : Chip) (k h : Nat) : Option Nat :=
  let e := c.route k h
  if !bitAt e 72 then none
  else
    let ls := c.linksTo k (fld e 63 0)
    let on := fun (f : Nat) => (ls.find? (fun p => p.2.fibre = f)).map (·.1)
    match on (fld e 68 64) with
    | some l => some l
    | none =>
      match if bitAt e 74 then on (fld e 79 75) else none with
      | some l => some l
      | none => if bitAt e 73 then ls.head?.map (·.1) else none

end Sys2Proof.Machine
end

