-- ==== Sys2Proof/Machine/Order.lean ====
section
/-! DEFINITION. The ordering commands: WAIT, SIGNAL, FENCE and STEP_MARK, and the signal slots (R119–R123). -/
namespace Sys2Proof.Machine

/-- The command of a queue that an ordering event is about: the first of opcode `op` that is not finished and has started
or may start. -/
def Chip.current (c : Chip) (n q op : Nat) : Option Cmd :=
  let x := c.queue n q
  x.cmds.find? (fun k => k.op = op && !k.finished && (k.started || x.mayStart k))

/-- The command starts, as its one unit. -/
def Chip.begin (c : Chip) (n q : Nat) (k : Cmd) : Chip :=
  if k.started then c
  else (c.startCmd n q k).giveUnit n q k.count 0

/-- Every command of the queue before `count` satisfies `p`. -/
def Queue.before (x : Queue) (count : Nat) (p : Cmd → Bool) : Bool :=
  (x.cmds.takeWhile (fun e => e.count != count)).all p

/-! ### Signal slots (R119, R154) -/

/-- WAIT fields: VALUE at 0x10, SLOT at 0x18. -/
def Cmd.waitsOn (k : Cmd) (slot : Nat) : Bool := k.op = opWait && k.field 0x18 2 = slot

/-- The WAITs of one queue that a slot's new value reaches complete. -/
def Chip.satisfy (slot new : Nat) (atLimit : Bool) (n : Nat) (c : Chip) (q : Nat) : Chip :=
  (c.queue n q).cmds.foldl (fun c k =>
    if !k.waitsOn slot || k.field 0x10 8 > new then c
    else if k.started && !k.finished then (c.nearMiss waitSignal atLimit).unitDone n q k.count 0
    else c) c

/-- The value that WAITs which had timed out awaited arrives: each is counted as late, once (R154). -/
def Chip.lateSignals (c : Chip) (part slot new : Nat) : Chip :=
  let due := fun (e : Nat × Nat) => e.1 = slot && decide (e.2 ≤ new)
  let n := ((c.part part).lateWaits.filter due).length
  (List.range n).foldl (fun c _ => c.late waitSignal)
    (c.updPart part (fun p => { p with lateWaits := p.lateWaits.filter (fun e => !due e) }))

/-- A write of a signal slot: the maximum of its value and the written one; WAITs on every Ridge of the partition see it. -/
def Chip.signal (c : Chip) (part slot v : Nat) (atLimit : Bool) : Chip :=
  let old := c.get part (Obj.SIGNAL_VALUE + slot)
  let new := max old v
  let c := (c.set part (Obj.SIGNAL_VALUE + slot) new).lateSignals part slot new
  (c.ridgeList part).foldl (fun c n => forQueues (Chip.satisfy slot new atLimit n) c) c

/-- Every Ridge of a partition issues what it can. -/
def Chip.dispatchAll (c : Chip) (part : Nat) : Chip := (c.ridgeList part).foldl Chip.dispatch c

/-- A write of the object SIGNAL_VALUE (R119). -/
def effSignal (slot : Nat) (atLimit : Bool) : Eff :=
  effOn (fun inst bs c => ((c.signal inst slot (leNat bs) atLimit).dispatchAll inst, rcOK))

/-- SIGNAL_VALUE_WRITE (R119). -/
def execSignalValueWrite (r : Req) (slot : Fin 256) (value : W64) (atLimit : Bool) (s : State) :
    Host.Outcome State Fault Refusal :=
  done (s.rowWrite r (Obj.SIGNAL_VALUE + slot.val) (wr 8 value.toNat) (effSignal slot.val atLimit))

/-- WAIT: it completes where its slot has reached VALUE, else it waits (R121). -/
def Chip.doWait (c : Chip) (n q : Nat) : Chip :=
  match c.current n q opWait with
  | none => c
  | some k =>
    let c := c.begin n q k
    if c.get (c.ownerN n) (Obj.SIGNAL_VALUE + k.field 0x18 2) ≥ k.field 0x10 8 then c.unitDone n q k.count 0 else c

/-- WAIT (R121). -/
def execWait (ridge : Fin 16) (queue : Fin 8) (s : State) : Host.Outcome State Fault Refusal :=
  done ((s.on (fun c => c.doWait ridge.val queue.val)).kick ridge.val)

/-- WAIT_TIMEOUT: the waiting WAIT completes with PEER_TIMEOUT (R121). -/
def execWaitTimeout (ridge : Fin 16) (queue : Fin 8) (s : State) : Host.Outcome State Fault Refusal :=
  let n := ridge.val
  let q := queue.val
  done ((s.on (fun c =>
    match (c.queue n q).cmds.find? (fun k => k.op = opWait && k.started && !k.finished) with
    | some k => (c.endCmd n q k.count stPeer).updPart (c.ownerN n) (fun p => { p with lateWaits := p.lateWaits ++ [(k.field 0x18 2, k.field 0x10 8)] })
    | none => c)).kick n)

/-- SIGNAL: once every earlier command has finished, EARLY publishes at once and COMMIT waits for its commit (R120). -/
def Chip.doSignal (c : Chip) (n q : Nat) (atLimit : Bool) : Chip :=
  match c.current n q opSignal with
  | none => c
  | some k =>
    let c := c.begin n q k
    if !(c.queue n q).before k.count (fun e => e.finished) then c
    else
      let part := c.ownerN n
      let c := if byteAt k.desc 0x1A = 1 then c.signal part (k.field 0x18 2) (k.field 0x10 8) atLimit else c
      (c.unitDone n q k.count 0).dispatchAll part

/-- SIGNAL (R120). -/
def execSignal (ridge : Fin 16) (queue : Fin 8) (atLimit : Bool) (s : State) : Host.Outcome State Fault Refusal :=
  done ((s.on (fun c => c.doSignal ridge.val queue.val atLimit)).kick ridge.val)

/-- FENCE: it completes where its scope's condition holds (R122). It starts only when every earlier command has finished,
each SEND acknowledged. -/
def Chip.doFence (c : Chip) (n q : Nat) : Chip :=
  match c.current n q opFence with
  | none => c
  | some k =>
    let c := c.begin n q k
    if byteAt k.desc 0x10 = 2 && !(c.queue n q).before k.count (fun e => e.committed) then c
    else c.unitDone n q k.count 0

/-- FENCE (R122). -/
def execFence (ridge : Fin 16) (queue : Fin 8) (s : State) : Host.Outcome State Fault Refusal :=
  done ((s.on (fun c => c.doFence ridge.val queue.val)).kick ridge.val)

/-! ### STEP_MARK (R123) -/

/-- The Ridge and queue of a partition's STEP_SOURCE; 0xFF names the lowest owned Ridge, queue 0. -/
def Chip.stepSource (c : Chip) (part : Nat) : Nat × Nat :=
  let v := c.get part Obj.STEP_SOURCE
  if v = 0xFF then ((c.ridgeList part).headD 0, 0) else (fld v 6 3, fld v 2 0)

/-- Every unit of a command has been given out. -/
def Cmd.allIssued (k : Cmd) : Bool :=
  k.finished || (k.started && (opFabric k.op || (k.again.isEmpty && decide (k.units ≤ k.nextUnit))))

/-- STEP_MARK takes STEP as the Ridge's step number of the context, where it is greater, and empties the promotion table of
the context; the step source's mark places a step boundary at the next frame boundary, one for each frame. -/
def Chip.stepMark (c : Chip) (n q : Nat) (k : Cmd) : Chip :=
  let part := c.ownerN n
  let ctx := c.qctx n q
  let r := c.ridge n
  let step := k.field 0x10 8
  let cur := Tbl.get r.steps 0 ctx
  if step = cur then c
  else if step < cur then c.countPart part Obj.CNT_STEP_STALE 1
  else
    let c := c.updRidge n (fun r => { r with steps := Tbl.put r.steps ctx step, promo := r.promo.filter (fun e => e.ctx != ctx) })
    if c.stepSource part = (n, q) then
      c.updQueue n q (fun x => { x with cmds := x.cmds.map (fun e =>
        if e.count = k.count then { e with stepAt := some (c.frame + 1) }
        else if e.stepAt = some (c.frame + 1) then { e with stepAt := none } else e) })
    else c

/-- STEP_MARK executes when all earlier commands have been issued. -/
def Chip.doStep (c : Chip) (n q : Nat) : Chip :=
  match c.current n q opStep with
  | none => c
  | some k =>
    if !(c.queue n q).before k.count Cmd.allIssued then c
    else
      let c := c.begin n q k
      (c.stepMark n q k).unitDone n q k.count 0

/-- STEP_MARK (R123). -/
def execStepMark (ridge : Fin 16) (queue : Fin 8) (s : State) : Host.Outcome State Fault Refusal :=
  done ((s.on (fun c => c.doStep ridge.val queue.val)).kick ridge.val)

end Sys2Proof.Machine
end

