-- ==== Sys2Proof/Machine/Fabric.lean ====
section
/-! DEFINITION. Fabric transfers: SEND, RECV and REDUCE_RECV, their messages, segments, transfer tables and timeouts
(R113–R118, R203, R257). -/
namespace Sys2Proof.Machine

/-! ### Fields of the fabric commands (Table 4.14) -/

def Cmd.len (k : Cmd) : Nat := k.field 0x20 4
def Cmd.tid (k : Cmd) : Nat := k.field 0x24 4
def Cmd.routeH (k : Cmd) : Nat := k.field 0x28 2
def Cmd.chan (k : Cmd) : Nat := k.field 0x2A 2
def Cmd.isRecv (k : Cmd) : Bool := k.op = opRecv || k.op = opReduce

/-- Bytes of segment `i`. -/
def Cmd.segLen (k : Cmd) (i : Nat) : Nat := min 65536 (k.len - 65536 * i)

/-- Every queue of a partition with its commands. -/
def Chip.cmdsOf (c : Chip) (part : Nat) : List (Nat × Nat × Cmd) :=
  ((c.ridgeList part).map (fun n => ((List.range 8).map (fun q => (c.queue n q).cmds.map (fun k => (n, q, k)))).flatten)).flatten

/-- The posted receive of a channel and TRANSFER_ID. -/
def Chip.posted (c : Chip) (part chan tid : Nat) : Option (Nat × Nat × Cmd) :=
  (c.cmdsOf part).find? (fun e => e.2.2.isRecv && e.2.2.started && !e.2.2.finished && e.2.2.chan = chan && e.2.2.tid = tid)

/-- The SEND of a channel and TRANSFER_ID on a link: one in progress, else one that has finished. -/
def Chip.sender (c : Chip) (part l chan tid : Nat) : Option (Nat × Nat × Cmd) :=
  let is := fun (e : Nat × Nat × Cmd) => e.2.2.op = opSend && e.2.2.started && e.2.2.chan = chan && e.2.2.tid = tid &&
    e.2.2.link = some l
  match (c.cmdsOf part).find? (fun e => is e && !e.2.2.finished) with
  | some e => some e
  | none => (c.cmdsOf part).find? is

/-! ### Transfer tables (R116) -/

def Chip.xfer (c : Chip) (part chan tid : Nat) : Option Xfer := (Tbl.get (c.part part).xfers [] chan).find? (fun x => x.tid = tid)

/-- Every segment of a transfer is marked. -/
def Xfer.complete (x : Xfer) : Bool := (List.range x.total).all (fun i => x.marks.contains i)

/-- A transfer enters its channel's table, which keeps the 64 most recent. -/
def Chip.openXfer (c : Chip) (part chan tid total : Nat) : Chip :=
  match c.xfer part chan tid with
  | some _ => c
  | none => c.updPart part (fun p =>
      let l := Tbl.get p.xfers [] chan ++ [({ tid := tid, total := total } : Xfer)]
      { p with xfers := Tbl.put p.xfers chan (l.drop (l.length - 64)) })

/-- A segment is marked. -/
def Chip.mark (c : Chip) (part chan tid i : Nat) : Chip :=
  c.updPart part (fun p => { p with xfers := Tbl.put p.xfers chan ((Tbl.get p.xfers [] chan).map (fun x =>
    if x.tid = tid && !x.marks.contains i then { x with marks := x.marks ++ [i] } else x)) })

/-! ### Sending -/

/-- The request to send of a SEND goes out on its link (R114). -/
def Chip.sendRts (c : Chip) (n q : Nat) (k : Cmd) (l : Nat) : Chip :=
  (c.message l 2 msgRts [(1, k.chan), (4, k.tid), (4, k.len)]).updCmd n q k.count (fun k => { k with
    link := some l, rtsAt := c.frame, rtsRetry := false })

/-- A SEND starts: its route names a usable link, or it completes at once with LINK_DOWN (R118, R258). -/
def Chip.startSend (c : Chip) (n q : Nat) (k : Cmd) : Chip :=
  let c := c.startCmd n q k
  match c.resolve (c.ownerN n) k.routeH with
  | none => c.endCmd n q k.count stLink
  | some l => c.sendRts n q k l

/-- The first record slot that holds a running FABRIC_OUT unit of a command whose segment has not been sent. -/
def Chip.unsent (c : Chip) (n q count : Nat) : Option (Nat × DmaUnit) :=
  (c.ridge n).dma.find? (fun d => d.2.queue = q && d.2.count = count && d.2.form = .fabricOut && d.2.st = .running &&
    d.2.line < d.2.lines)

/-- The engine reads the segment of a unit and sends it; the unit keeps its slot until the segment is acknowledged. -/
def State.sendSegment (s : State) (n q : Nat) (k : Cmd) (slot : Nat) (d : DmaUnit) (l : Nat) : State :=
  let part := s.chip.ownerN n
  match s.readOp n part (s.chip.qctx n q) 0 (k.field 0x10 8 + 65536 * d.unit) (k.segLen d.unit) with
  | (s, .error e) => s.fail e (.dma n slot)
  | (s, .ok bs) =>
    s.on (fun c => ((c.submit l (segFlits k.vc k.chan k.tid d.unit bs)).trace n q
      { (k.trec trSegTx 2 d.unit (64 + d.engine.getD 0) 0) with tid := k.tid }).updRidge n (fun r => { r with
      dma := Tbl.upd r.dma {} slot (fun d => { d with line := d.lines }) }))

/-- A SEND's next act: it starts with its request to send, or sends the next segment that an engine holds. -/
def State.doSend (s : State) (n q : Nat) : State :=
  let live := (s.chip.queue n q).cmds.filter (fun k => k.op = opSend && k.started && !k.finished)
  match live.findSome? (fun k => (s.chip.unsent n q k.count).map (fun d => (k, d))) with
  | some (k, slot, d) =>
    match k.link with
    | some l => if (s.chip.link l).usable then s.sendSegment n q k slot d l else s
    | none => s
  | none =>
    match (s.chip.queue n q).cmds.find? (fun k => k.op = opSend && !k.started && (s.chip.queue n q).mayStart k) with
    | some k => s.on (fun c => c.startSend n q k)
    | none => s

/-- SEND (R114, R115). -/
def execSend (ridge : Fin 16) (queue : Fin 8) (s : State) : Host.Outcome State Fault Refusal :=
  done ((s.doSend ridge.val queue.val).kick ridge.val)

/-! ### Receiving -/

/-- The virtual channel that clear to send names (R114, Table 9.8). -/
def Chip.dataVc (c : Chip) (l : Nat) (k : Cmd) : Nat := if k.op = opReduce && bitAt (c.link l).features 0 then 1 else 0

/-- The pages of an extent are translated; the fault of the first that is not. -/
def State.probePages (n part ctx : Nat) (write : Bool) : List (Nat × Nat) → State → State × Option FaultInfo
  | [], s => (s, none)
  | (va, _) :: t, s =>
    match s.translate n part ctx va write with
    | (s, .error i) => (s, some i)
    | (s, .ok _) => State.probePages n part ctx write t s

/-- A receive is granted: the pages of its destination, and of a local operand, translate first (R203); then clear to send
goes out. A fault holds the grant in a FABRIC_IN unit's record. -/
def State.grant (s : State) (n q : Nat) (k : Cmd) (l : Nat) : State :=
  let part := s.chip.ownerN n
  let ctx := s.chip.qctx n q
  let probe := fun (s : State) (a : Nat) (write : Bool) =>
    State.probePages n part ctx write (pieces (k.len / 65536 + 2) (addrOf a) k.len) s
  let hold := fun (s : State) (i : FaultInfo) =>
    match (s.chip.ridge n).freeSlot with
    | none => s
    | some slot =>
      let d : DmaUnit := { queue := q, count := k.count, unit := 0, form := .fabricIn, lines := k.unitLines 0 }
      (s.on (fun c => c.updRidge n (fun r => { r with dma := Tbl.put r.dma slot d }))).fault i (.dma n slot)
  match probe s (k.field 0x10 8) true with
  | (s, some i) => hold s i
  | (s, none) =>
    match (if k.op = opReduce && spaceOf (k.field 0x18 8) = 0 then probe s (k.field 0x18 8) false else (s, none)) with
    | (s, some i) => hold s i
    | (s, none) =>
      s.on (fun c => (c.message l 2 msgCts [(1, k.chan), (4, k.tid), (1, c.dataVc l k)]).updCmd n q k.count (fun k => { k with
        link := some l, cts := true, ctsAt := some c.frame }))

/-- A request to send meets a posted receive: refused where LEN differs, both sides then ending with FAULT_PERMISSION; else
granted (R114). -/
def State.matchRts (s : State) (n q : Nat) (k : Cmd) (l len : Nat) : State :=
  if k.len != len then
    s.on (fun c => (c.message l 2 msgRefuse [(1, k.chan), (4, k.tid), (1, 1)]).endCmd n q k.count stPermission)
  else (s.on (fun c => c.updCmd n q k.count (fun k => { k with link := some l }))).grant n q k l

/-- A receive is posted. A second one of a channel and TRANSFER_ID in progress ends with FAULT_PERMISSION. One that replay
posts again finds its transfer complete, or takes the segments not yet marked (R114, R116). -/
def State.post1 (s : State) (n q : Nat) (k : Cmd) : State :=
  let part := s.chip.ownerN n
  if (s.chip.posted part k.chan k.tid).isSome then
    s.on (fun c => (c.startCmd n q k).endCmd n q k.count stPermission)
  else
    let s := s.on (fun c => (c.startCmd n q k).openXfer part k.chan k.tid k.units)
    let s := s.on (fun c => c.updCmd n q k.count (fun k => { k with
      begun := true, startCycle := if k.begun then k.startCycle else (c.ridge n).cycles }))
    let marks := ((s.chip.xfer part k.chan k.tid).map (·.marks)).getD []
    let s := s.on (fun c => marks.foldl (fun c i => c.unitDone n q k.count i) c)
    match (s.chip.part part).rts.find? (fun r => r.chan = k.chan && r.tid = k.tid) with
    | none =>
      -- replay posts again a receive that had been granted: a fresh clear to send goes out (R412)
      match k.link with
      | some l => if k.rtsRetry && (s.chip.link l).usable then s.grant n q k l else s
      | none => s
    | some r =>
      let s := s.on (fun c => c.updPart part (fun p => { p with rts := p.rts.filter (fun e => !(e.chan = k.chan && e.tid = k.tid)) }))
      if k.len = r.len && (s.chip.queue n q).cmds.any (fun e => e.count = k.count && e.finished) then
        s.on (fun c => c.message r.link 2 msgComplete [(1, k.chan), (4, k.tid)])
      else s.matchRts n q k r.link r.len

/-- A receive's next act: the next one of its opcode that may start is posted; one whose grant was held goes on. -/
def State.doRecv (s : State) (n q op : Nat) : State :=
  let ready := (s.chip.ridge n).dma.find? (fun d => d.2.queue = q && d.2.form = .fabricIn && d.2.st = .running &&
    (match s.chip.cmd n q d.2.count with | some k => k.op = op && !k.cts | none => false))
  match ready with
  | some (slot, d) =>
    let s := s.on (fun c => c.freeSlotOf n slot)
    match s.chip.cmd n q d.count with
    | some k => s.grant n q k (k.link.getD 0)
    | none => s
  | none =>
    match (s.chip.queue n q).cmds.find? (fun k => k.op = op && !k.started && (s.chip.queue n q).mayStart k) with
    | some k => s.post1 n q k
    | none => s

/-- RECV (R114, R115). -/
def execRecv (ridge : Fin 16) (queue : Fin 8) (s : State) : Host.Outcome State Fault Refusal :=
  done ((s.doRecv ridge.val queue.val opRecv).kick ridge.val)

/-- REDUCE_RECV (R114, R117). -/
def execReduceRecv (ridge : Fin 16) (queue : Fin 8) (s : State) : Host.Outcome State Fault Refusal :=
  done ((s.doRecv ridge.val queue.val opReduce).kick ridge.val)

/-! ### Messages -/

/-- A message acts only on a link that carries traffic, for its partition. -/
def State.onLink (s : State) (l : Nat) (f : Nat → State) : State :=
  match (s.chip.link l).part with
  | some k => if (s.chip.link l).usable then f k else s
  | none => s

/-- A request to send: answered COMPLETE for a transfer already complete, matched, held pending once, or refused while 1,024
wait (R114, R116). -/
def State.rtsIn (s : State) (l chan tid len : Nat) : State :=
  s.onLink l (fun part =>
    let done := match s.chip.xfer part chan tid with
      | some x => x.complete && x.total = ceilDiv len 65536
      | none => false
    match s.chip.posted part chan tid with
    | some (n, q, k) =>
      let s := s.on (fun c => c.updCmd n q k.count (fun k => { k with link := some l }))
      s.matchRts n q k l len
    | none =>
      if done then s.on (fun c => c.message l 2 msgComplete [(1, chan), (4, tid)])
      else
        let p := s.chip.part part
        if p.rts.any (fun r => r.chan = chan && r.tid = tid) then
          s.on (fun c => c.updPart part (fun p => { p with rts := p.rts.map (fun r =>
            if r.chan = chan && r.tid = tid then ⟨l, chan, tid, len⟩ else r) }))
        else if p.rts.length ≥ 1024 then s.on (fun c => c.message l 2 msgRefuse [(1, chan), (4, tid), (1, 2)])
        else s.on (fun c => c.updPart part (fun p => { p with rts := p.rts ++ [⟨l, chan, tid, len⟩] })))

/-- Every segment of a SEND that is not acknowledged is to be sent again (R257, R412). -/
def Chip.resend (c : Chip) (n q count : Nat) : Chip :=
  c.updRidge n (fun r => { r with dma := r.dma.map (fun d =>
    if d.2.queue = q && d.2.count = count && d.2.form = .fabricOut then (d.1, { d.2 with line := 0 }) else d) })

/-- Clear to send: the SEND's segments may go, on the named channel. One that comes after the SEND ended is late. -/
def Chip.ctsIn (c : Chip) (part l chan tid vc : Nat) (atLimit : Bool) : Chip :=
  match c.sender part l chan tid with
  | none => c.late waitDma
  | some (n, q, k) =>
    if k.finished then c.late waitDma
    else
      let c := (c.nearMiss waitDma atLimit).updCmd n q k.count (fun k => { k with cts := true, vc := vc })
      (if k.cts then c.resend n q k.count else c).dispatch n

/-- COMPLETE: the transfer of a replayed SEND needs no data (R116). -/
def Chip.completeIn (c : Chip) (part l chan tid : Nat) : Chip :=
  match c.sender part l chan tid with
  | none => c
  | some (n, q, k) => if k.finished then c else (c.endCmd n q k.count stOK).dispatch n

/-- REFUSE: reason 1 ends the SEND with FAULT_PERMISSION, reason 2 has its request repeated at the next boundary (R114). -/
def Chip.refuseIn (c : Chip) (part l chan tid reason : Nat) : Chip :=
  match c.sender part l chan tid with
  | none => c
  | some (n, q, k) =>
    if k.finished then c
    else if reason = 1 then (c.endCmd n q k.count stPermission).dispatch n
    else c.updCmd n q k.count (fun k => { k with rtsRetry := true })

/-- SEG_ACK: the segment's unit has finished and frees its slot; a late one changes nothing (R115, R154). -/
def Chip.segAckIn (c : Chip) (part l chan tid idx : Nat) (atLimit : Bool) : Chip :=
  match c.sender part l chan tid with
  | none => c.late waitDma
  | some (n, q, k) =>
    if k.finished then c.late waitDma
    else if k.done.contains idx || idx ≥ k.units then c
    else
      let c := c.nearMiss waitDma atLimit
      let c := c.updRidge n (fun r => { r with dma := r.dma.filter (fun d => !(d.2.queue = q && d.2.count = k.count && d.2.unit = idx)) })
      (c.unitDone n q k.count idx).dispatch n

/-- REDUCE_RECV: each element LOCAL op incoming in FP32, rounded to ELEM_FMT (R117). -/
def reduceBytes (k : Cmd) (loc inc : List Byte) : List Byte × Nat :=
  let bf := fld (k.field 8 8) 3 0 = 1
  let op := fld (k.field 8 8) 7 4
  let w := if bf then 2 else 4
  let val := fun (bs : List Byte) (i : Nat) => BitVec.ofNat 32 (if bf then leAt bs (2 * i) 2 * 65536 else leAt bs (4 * i) 4)
  let f := fun (a b : W32) => if op = 0 then f32Add a b else if op = 1 then f32Max a b else f32Min a b
  let step := fun (acc : List (List Byte) × NumSt) (i : Nat) =>
    let r := f (val loc i) (val inc i)
    if bf then (let (c, n) := toBF16 .nearest 0 r acc.2; (leBytes 2 c :: acc.1, n)) else (leBytes 4 r.toNat :: acc.1, acc.2)
  let (bs, n) := (List.range (inc.length / w)).foldl step ([], {})
  (bs.reverse.flatten, n.saturated)

/-- A segment is acknowledged. -/
def Chip.ackSeg (c : Chip) (l chan tid idx : Nat) : Chip := c.message l 2 msgSegAck [(1, chan), (4, tid), (2, idx)]

/-- A segment of a posted receive is written, marked and acknowledged; one already marked is dropped and acknowledged again; a
late one is not written (R115–R117, R154). A fault holds it back and it is not admitted (R203). -/
def State.segIn (s : State) (l chan tid idx : Nat) (data : List Byte) (atLimit : Bool) : State :=
  s.onLink l (fun part =>
    let marked := match s.chip.xfer part chan tid with
      | some x => x.marks.contains idx
      | none => false
    if marked then s.on (fun c => (c.countPart part Obj.CNT_DUP_SEGMENTS 1).ackSeg l chan tid idx)
    else
      match s.chip.posted part chan tid with
      | none => s.on (fun c => c.late waitDma)
      | some (n, q, k) =>
        if idx ≥ k.units || data.length != k.segLen idx then s
        else
          let ctx := s.chip.qctx n q
          let stop := fun (s : State) (f : AccFail) =>
            match f with
            | .status st => s.on (fun c => c.endCmd n q k.count st)
            | .fault i =>
              match (s.chip.ridge n).freeSlot with
              | none => s
              | some slot =>
                let d : DmaUnit := { queue := q, count := k.count, unit := idx, form := .fabricIn, lines := k.unitLines idx }
                (s.on (fun c => c.updRidge n (fun r => { r with dma := Tbl.put r.dma slot d }))).fault i (.dma n slot)
          let (s, out) : State × Except AccFail (List Byte × Nat) :=
            if k.op = opReduce then
              match s.readOp n part ctx 0 (k.field 0x18 8 + 65536 * idx) data.length with
              | (s, .error f) => (s, .error f)
              | (s, .ok loc) => (s, .ok (reduceBytes k loc data))
            else (s, .ok (data, 0))
          match out with
          | .error f => stop s f
          | .ok (bs, sat) =>
            match s.writeOp n part ctx 0 (k.field 0x10 8 + 65536 * idx) bs with
            | (s, some f) => stop s f
            | (s, none) =>
              (s.on (fun c =>
                let c := c.nearMiss waitDma atLimit
                let c := c.report n q k.count part { saturated := sat }
                let c := c.updRidge n (fun r => { r with dma := r.dma.filter (fun d =>
                  !(d.2.queue = q && d.2.count = k.count && d.2.unit = idx && d.2.form = .fabricIn)) })
                let c := (c.mark part chan tid idx).giveUnit n q k.count idx
                let c := c.trace n q { (k.trec trSegRx 2 idx 64 0) with tid := tid }
                (c.unitDone n q k.count idx).ackSeg l chan tid idx)).kick n)

/-- RTS_RECEIVED (R114). -/
def execRtsReceived (link : Fin 64) (chan : Byte) (tid len : W32) (s : State) : Host.Outcome State Fault Refusal :=
  done (s.rtsIn link.val chan.toNat tid.toNat len.toNat)

/-- CTS_RECEIVED (R114). -/
def execCtsReceived (link : Fin 64) (chan : Byte) (tid : W32) (vc : Fin 4) (atLimit : Bool) (s : State) :
    Host.Outcome State Fault Refusal :=
  done (s.onLink link.val (fun k => s.on (fun c => c.ctsIn k link.val chan.toNat tid.toNat vc.val atLimit)))

/-- COMPLETE_RECEIVED (R116). -/
def execCompleteReceived (link : Fin 64) (chan : Byte) (tid : W32) (s : State) : Host.Outcome State Fault Refusal :=
  done (s.onLink link.val (fun k => s.on (fun c => c.completeIn k link.val chan.toNat tid.toNat)))

/-- REFUSE_RECEIVED (R114). -/
def execRefuseReceived (link : Fin 64) (chan : Byte) (tid : W32) (reason : Byte) (s : State) :
    Host.Outcome State Fault Refusal :=
  done (s.onLink link.val (fun k => s.on (fun c => c.refuseIn k link.val chan.toNat tid.toNat reason.toNat)))

/-- SEG_ACK_RECEIVED (R115). -/
def execSegAckReceived (link : Fin 64) (chan : Byte) (tid : W32) (idx : W16) (atLimit : Bool) (s : State) :
    Host.Outcome State Fault Refusal :=
  done (s.onLink link.val (fun k => s.on (fun c => c.segAckIn k link.val chan.toNat tid.toNat idx.toNat atLimit)))

/-- SEGMENT_RECEIVED (R115, R116). -/
def execSegmentReceived (link : Fin 64) (chan : Byte) (tid : W32) (idx : W16) (data : List Byte) (atLimit : Bool) (s : State) :
    Host.Outcome State Fault Refusal :=
  done (s.segIn link.val chan.toNat tid.toNat idx.toNat data atLimit)

/-- FABRIC_TIMEOUT: a fabric command without progress ends; a SEND with LINK_DOWN where its route names no usable link
(R118). COLLECTIVE_TIMEOUT is raised once for it (R412). -/
def execFabricTimeout (ridge : Fin 16) (queue : Fin 8) (count : W32) (s : State) : Host.Outcome State Fault Refusal :=
  let n := ridge.val
  let q := queue.val
  done ((s.on (fun c =>
    match c.cmd n q count.toNat with
    | none => c
    | some k =>
      if !opFabric k.op || !k.started || k.finished then c
      else
        let down := k.op = opSend && (c.resolve (c.ownerN n) k.routeH).isNone
        (c.endCmd n q k.count (if down then stLink else stPeer)).raise 0x0D07 (c.ownerN n) [])).kick n)

/-! ### At a frame boundary (R114, R257) -/

/-- A request to send that was refused or had no answer for a frame is repeated, on the link its route resolves to now. -/
def Chip.retryRts (c : Chip) (n q : Nat) (k : Cmd) : Chip :=
  let part := c.ownerN n
  match c.resolve part k.routeH with
  | none => c
  | some l => (c.countPart part Obj.CNT_RTS_RETRY 1).sendRts n q k l

/-- A SEND whose link is no longer usable sends its unacknowledged segments again on the link its route resolves to. -/
def Chip.reroute (c : Chip) (n q : Nat) (k : Cmd) : Chip :=
  match k.link with
  | none => c
  | some l =>
    if (c.link l).usable && (c.link l).part = some (c.ownerN n) then c
    else
      match c.resolve (c.ownerN n) k.routeH with
      | none => c
      | some l' =>
        (c.updCmd n q k.count (fun k => { k with link := some l' })).resend n q k.count

/-- The fabric commands of one queue at a boundary. -/
def Chip.fabricBoundary (n : Nat) (c : Chip) (q : Nat) : Chip :=
  (c.queue n q).cmds.foldl (fun c k =>
    if !opFabric k.op || !k.started || k.finished then c
    else if k.op = opSend then
      (if k.cts then c.reroute n q k
       else if k.rtsRetry || decide (k.rtsAt < c.frame) then c.retryRts n q k else c)
    else
      match k.ctsAt, k.link with
      | some f, some l =>
        if f < c.frame && k.issued.isEmpty && (c.link l).usable then
          ((c.countPart (c.ownerN n) Obj.CNT_RTS_RETRY 1).message l 2 msgCts [(1, k.chan), (4, k.tid), (1, c.dataVc l k)]).updCmd n q
            k.count (fun k => { k with ctsAt := some c.frame })
        else c
      | _, _ => c) c

end Sys2Proof.Machine
end

