-- ==== Sys2Proof/Machine/Steward.lean ====
section
/-! DEFINITION. The Saddle stewards and the host's side of translation: roots and invalidations, resolving faults, the
free-frame pools, soft retirement, the steward ring and the host's answers (R184, R194, R206–R214). -/
namespace Sys2Proof.Machine

/-! ### Memory of the stewards -/

/-- Lines of [a, a + n) hold zeros under key `k`; both ends are line aligned. -/
def Memory.clear (m : Memory) (k a n : Nat) : Memory :=
  let z := m.zero a n
  { z with tags := (List.range (n / 128)).foldl (fun t i => Tbl.setD t 0 (a / 128 + i) k) z.tags }

/-- A page-table entry, read and written under the partition's key. -/
def State.entryAt (s : State) (k ea : Nat) : Nat := leNat (s.mem.bytes (s.chip.keyTag k) ea 8)

def State.setEntry (s : State) (k ea v : Nat) : State := s.withMem (s.mem.write (s.chip.keyTag k) ea (leBytes 8 v))

/-- An entry held by the steward: NP_KIND 3 (Table 7.4). -/
def busyOf (e : Nat) : Nat := e - fld e 11 10 * 1024 + 3 * 1024

/-! ### Roots and invalidations (R184, R194) -/

/-- Queues of a partition, with their Ridges. -/
def Chip.queuesOf (c : Chip) (k : Nat) : List (Nat × Nat) :=
  ((c.ridgeList k).map (fun n => (List.range 8).map (fun q => (n, q)))).flatten

/-- A write of CTX_ROOT: refused while a queue of the context is not DISABLED; drops the context's cached translations. -/
def effCtxRoot (ctx : Nat) : Eff := effOn (fun inst bs c =>
  if (c.queuesOf inst).any (fun e => c.qctx e.1 e.2 = ctx && (c.queue e.1 e.2).st != .disabled) then (c, rcState)
  else ((c.set inst (Obj.CTX_ROOT + ctx) (leNat bs)).dropTlb inst (fun e => e.ctx = ctx) (fun e => e.ctx = ctx), rcOK))

/-- CTX_ROOT_WRITE (R184). -/
def execCtxRootWrite (r : Req) (ctx : Fin 16) (root : W64) (s : State) : Host.Outcome State Fault Refusal :=
  done (s.rowWrite r (Obj.CTX_ROOT + ctx.val) (wr 8 root.toNat) (effCtxRoot ctx.val))

/-- A write of TLB_INVAL enters the partition's requests, carried out in order; a reserved scope or size, or another bit, is
refused (Table 7.11). -/
def effInval : Eff := effOn (fun inst bs c =>
  let v := leNat bs
  if fld v 55 54 = 3 || (fld v 55 54 = 0 && fld v 53 52 = 3) || fld v 15 0 != 0 then (c, rcRange)
  else (c.updPart inst (fun p => { p with inval := p.inval ++ [v] }), rcOK))

/-- Bytes of a page by the size code of TLB_INVAL. -/
def invalPage (z : Nat) : Nat := match z with | 0 => 65536 | 1 => 2 ^ 21 | _ => 2 ^ 30

/-- What an invalidation drops on every Ridge of the partition (R194). -/
def Chip.invalidate (c : Chip) (k v : Nat) : Chip :=
  let ctx := fld v 51 48
  match fld v 55 54 with
  | 0 =>
    let a := fld v 47 16 * 65536
    let n := (fld v 63 56 + 1) * invalPage (fld v 53 52)
    c.dropTlb k (fun e => e.ctx = ctx && decide (e.va < a + n) && decide (a < e.va + pageBytes e.level)) (fun e => e.ctx = ctx)
  | 1 => c.dropTlb k (fun e => e.ctx = ctx) (fun e => e.ctx = ctx)
  | _ => c.dropTlb k (fun _ => true) (fun _ => true)

/-- The word of a TLB_INVAL write. -/
def invalWord (pages scope size ctx va16 : Nat) : Nat :=
  pages * 2 ^ 56 + scope * 2 ^ 54 + size * 2 ^ 52 + ctx * 2 ^ 48 + va16 * 2 ^ 16

/-- TLB_INVAL_PAGES: `pages` + 1 pages of a size from virtual page `va16` of a context (R194). -/
def execTlbInvalPages (r : Req) (pages : Byte) (size : Fin 3) (ctx : Fin 16) (va16 : W32) (s : State) :
    Host.Outcome State Fault Refusal :=
  done (s.rowWrite r Obj.TLB_INVAL (wr 8 (invalWord pages.toNat 0 size.val ctx.val va16.toNat)) effInval)

/-- TLB_INVAL_CONTEXT (R194). -/
def execTlbInvalContext (r : Req) (ctx : Fin 16) (s : State) : Host.Outcome State Fault Refusal :=
  done (s.rowWrite r Obj.TLB_INVAL (wr 8 (invalWord 0 1 0 ctx.val 0)) effInval)

/-- TLB_INVAL_PARTITION (R194). -/
def execTlbInvalPartition (r : Req) (s : State) : Host.Outcome State Fault Refusal :=
  done (s.rowWrite r Obj.TLB_INVAL (wr 8 (invalWord 0 2 0 0 0)) effInval)

/-- TLB_INVAL_DONE: the oldest request of a partition is complete on every Ridge and counted (R194). -/
def execTlbInvalDone (part : Fin 8) (s : State) : Host.Outcome State Fault Refusal :=
  let k := part.val
  done (s.on (fun c => match (c.part k).inval with
    | [] => c
    | v :: t =>
      let c := (c.updPart k (fun p => { p with inval := t })).invalidate k v
      c.set k Obj.TLB_INVAL_DONE (inc32 (c.get k Obj.TLB_INVAL_DONE))))

/-- WALK_COMPLETE: a walk that a queue's Ridge makes ahead of a unit ends: the leaf is cached, or its fault is taken, with no
unit waiting yet (R191, R204). A fault that no one resolves is left for the unit that meets it. -/
def execWalkComplete (ridge : Fin 16) (queue : Fin 8) (va : W48) (write : Bool) (ce : List Corr) (s : State) :
    Host.Outcome State Fault Refusal :=
  let n := ridge.val
  let s := s.on (fun c => c.corrected ce)
  done (match s.chip.owner n with
  | none => s
  | some part =>
    match s.translate n part (s.chip.qctx n queue.val) va.toNat write with
    | (s, .ok _) => s
    | (s, .error i) =>
      let i := { i with queue := queue.val, ridge := n }
      if fatal i.reason then s
      else if s.chip.isPending i || s.chip.pendFull i.part then s
      else if i.reason = rsSteward then s.on (fun c => { c with pend := c.pend ++ [{ info := i, restore := i.value }] })
      else s.hostFault i [])

/-! ### Pools (R206) -/

/-- A pool ring of a unit: objects from POOL64_BASE or POOL2M_BASE. -/
def poolKey (u : Nat) (big : Bool) : Nat := atIdx Obj.POOL64_BASE u + (if big then 4 else 0)

/-- What a pool gives: a frame, nothing, or a wait for a POOL_BAD record to be held. -/
inductive Took where
  | frame (pa : Nat)
  | none
  | wait
deriving DecidableEq, Repr

/-- Whether an entry's run lies in the unit, aligned, with no retired frame. -/
def Chip.poolOk (c : Chip) (u e : Nat) (big : Bool) : Bool :=
  let n := if big then 2 ^ 21 else 65536
  e % n = 0 && decide (e < 2 ^ 52) &&
  (match unitOf e with
   | some (v, o) => v = u && decide (o + n ≤ (c.unit u).backed)
   | none => false) &&
  !(List.range (n / 65536)).any (fun i => c.retiredAny (e + 65536 * i))

/-- A bad entry of a ring: counted and reported with the address the record names (R206). -/
def State.poolBad (s : State) (k addr : Nat) : State :=
  let (id, c) := s.chip.newId k
  let s := ({ s with chip := c } : State).on (fun c => c.countPart k Obj.CNT_POOL_BAD 1)
  s.post k { kind := 6, id := id, addr1 := addr }

/-- The entry at the head of a ring is taken, if there is one: the frame it names, or the address a POOL_BAD record gives. -/
def State.ringEntry (k u : Nat) (big : Bool) (s : State) : Option (State × Except Nat Nat) :=
  let key := poolKey u big
  let base := s.chip.reg key
  let n := s.chip.reg (key + 1)
  let con := s.chip.reg (key + 3)
  if n = 0 || dist32 (s.chip.reg (key + 2)) con = 0 || !s.chip.owned k base (8 * n) then none
  else
    let a := base + 8 * (con % n)
    let s := s.on (fun c => c.setReg (key + 3) (inc32 con))
    match s.chip.accCheck a with
    | .ok =>
      let e := leNat (s.mem.bytes (s.chip.keyTag k) a 8)
      some (s, if s.chip.poolOk u e big then .ok e else .error e)
    | _ => some (s, .error (a + 1))

/-- The steward takes entries from the head of a ring; bad and unreadable ones are discarded, counted and reported. -/
def State.takeRing (k u : Nat) (big : Bool) : Nat → State → State × Took
  | 0, s => (s, .none)
  | f + 1, s =>
    match s.ringEntry k u big with
    | none => (s, .none)
    | some (s, .ok e) => (s, .frame e)
    | some (s, .error a) =>
      let s := s.poolBad k a
      if (s.chip.part k).waiting.isEmpty then State.takeRing k u big f s else (s, .wait)

/-- The split store of a unit gives its lowest frame. -/
def State.takeSplit (s : State) (u : Nat) : State × Took :=
  match (s.chip.unit u).split with
  | [] => (s, .none)
  | x :: t => (s.on (fun c => c.updUnit u (fun m => { m with split := t })), .frame x)

/-- The first unit of a list that gives. -/
def State.takeFirst (g : Nat → State → State × Took) : List Nat → State → State × Took
  | [], s => (s, .none)
  | u :: t, s =>
    match g u s with
    | (s, .none) => State.takeFirst g t s
    | r => r

/-- Units of a partition's tier in the order the steward tries them: the one TIER names, then the others ascending (R189,
R207). -/
def Chip.tierUnits (c : Chip) (k tier n : Nat) : List Nat :=
  let far := tier = 1 || tier = 3
  let all := (c.ridgeList k).map (fun r => if far then 16 + r else r)
  let loc := if far then 16 + n else n
  if tier ≥ 2 then all else if all.contains loc then loc :: all.filter (· != loc) else all

/-- A frame or a run for the partition from units in order (R207 step 2). -/
def State.takeFrame (s : State) (k : Nat) (us : List Nat) (big : Bool) : State × Took :=
  let ring := fun (b : Bool) (u : Nat) (s : State) => State.takeRing k u b 65536 s
  if big then State.takeFirst (ring true) us s
  else
    match State.takeFirst (fun u s => match s.takeSplit u with | (s, .none) => ring false u s | r => r) us s with
    | (s, .none) =>
      match State.takeFirst (ring true) us s with
      | (s, .frame x) =>
        match unitOf x with
        | some (u, _) =>
          (s.on (fun c => c.updUnit u (fun m => { m with split := m.split ++ (List.range 31).map (fun i => x + 65536 * (i + 1)) })), .frame x)
        | none => (s, .frame x)
      | r => r
    | r => r

/-! ### Resolving (R207–R211) -/

/-- Whether a steward serves the faults of a Ridge: A those of Ridges 0–7, B those of 8–15, and during the other's restart all
of them (R399). -/
def Chip.serves (c : Chip) (b : Bool) (i : FaultInfo) : Bool :=
  let down := fun (x : Bool) => (Tbl.get c.agents {} (if x then 1 else 0)).restarting
  !down b && (decide (i.ridge ≥ 8) == b || down (!b))

/-- The resolution a steward works on: one it has begun, else the oldest that awaits it. -/
def Chip.stewardJob (c : Chip) (b : Bool) : Option Pend :=
  match c.pend.find? (fun p => c.serves b p.info && p.phase != 0) with
  | some p => some p
  | none => c.pend.find? (fun p => c.serves b p.info)

/-- The pending entry of a page-table entry changed, or removed. -/
def Chip.updPend (c : Chip) (ea : Nat) (f : Pend → Pend) : Chip :=
  { c with pend := c.pend.map (fun p => if p.info.entry = ea then f p else p) }

def Chip.dropPend (c : Chip) (ea : Nat) : Chip := { c with pend := c.pend.filter (fun p => p.info.entry != ea) }

/-- Waiters released, and the queues they belong to served again. -/
def Chip.releaseAll (c : Chip) (ws : List Waiter) : Chip :=
  let c := ws.foldl Chip.release c
  ws.foldl (fun c w => c.dispatch (waiterRidge w)) c

/-- Waiters given up with a status. -/
def Chip.giveUpAll (c : Chip) (st : Nat) (ws : List Waiter) : Chip :=
  let c := ws.foldl (fun c w => c.giveUp st w) c
  ws.foldl (fun c w => c.dispatch (waiterRidge w)) c

/-- A resolution goes to the host instead: its waiters wait on the host's answer, but RoCE accesses, which write no record and
are answered at once (R344). -/
def State.toHost (s : State) (p : Pend) (reason : Nat) : State :=
  let roce := fun (w : Waiter) => match w with | .roce _ => true | _ => false
  let ws := p.waiters.filter (fun w => !roce w)
  let s := s.on (fun c => (p.waiters.filter roce).foldl (fun c w => c.giveUp stTranslation w) (c.dropPend p.info.entry))
  let s := if ws.isEmpty && !p.waiters.isEmpty then s else s.hostFault { p.info with reason := reason } ws
  if reason != rsPool then s
  else
    let u := ((s.chip.tierUnits p.info.part (fld p.restore 9 8) p.info.ridge).headD 0)
    if (s.chip.part p.info.part).poolEmptySaid.contains u then s
    else s.on (fun c => (c.updPart p.info.part (fun x => { x with poolEmptySaid := x.poolEmptySaid ++ [u] })).raise 0x0512 p.info.part [])

/-- Step 2 of R207: a frame is taken, or the entry is restored and POOL_EMPTY is reported. -/
def State.allocate (s : State) (p : Pend) : State :=
  let k := p.info.part
  let big := p.info.level = 3
  match s.takeFrame k (s.chip.tierUnits k (fld p.restore 9 8) p.info.ridge) big with
  | (s, .frame x) => s.on (fun c => c.updPend p.info.entry (fun q => { q with
      phase := 2, frame := x, pages := if big then 32 else 1, oldPA := if npKind p.restore = 2 then entryPA p.restore else 0 }))
  | (s, .wait) => s
  | (s, .none) => (s.setEntry k p.info.entry p.restore).toHost p rsPool

/-- STEWARD_FAULT: the steward takes the next fault of its Ridges: it marks the entry BUSY, where it is unchanged, and takes a
frame (R207 steps 1 and 2). A changed entry is walked again. -/
def State.stewardTake (s : State) (b : Bool) : State :=
  match s.chip.stewardJob b with
  | none => s
  | some p =>
    let k := p.info.part
    if p.soft || !(s.chip.part k).waiting.isEmpty then s
    else if p.phase = 1 then s.allocate p
    else if p.phase != 0 then s
    else
      let e := s.entryAt k p.info.entry
      if bitAt e 0 then s.on (fun c => ((c.dropPend p.info.entry).countPart k Obj.CNT_FAULT_STEWARD p.faults).releaseAll p.waiters)
      else if npKind e = 3 then s.toHost p rsBusy
      else if npKind e = 0 then s.toHost p rsHost
      else
        let p := { p with restore := e, phase := 1 }
        let s := s.setEntry k p.info.entry (busyOf e)
        (s.on (fun c => c.updPend p.info.entry (fun _ => p))).allocate p

/-- STEWARD_FAULT (R207). `b` chooses steward B. -/
def execStewardFault (b : Bool) (s : State) : Host.Outcome State Fault Refusal := done (s.stewardTake b).roceRun

/-- Reverse-map entries of a page written for the frames of its unit (R211); a unit without a base has none. -/
def State.setRmap (s : State) (k pa pages ea : Nat) : State :=
  match unitOf pa with
  | none => s
  | some (u, o) =>
    let base := s.chip.reg (atIdx Obj.RMAP_BASE u)
    if base = 0 then s
    else
      let v := ea + (if pages = 32 then 2 else 0) + 1
      (List.range pages).foldl (fun s i => (s.writePhys k (base + 8 * (o / 65536 + i)) (leBytes 8 v)).1) s

/-- Reverse-map entries of a page cleared. -/
def State.clearRmap (s : State) (k pa pages : Nat) : State :=
  match unitOf pa with
  | none => s
  | some (u, o) =>
    let base := s.chip.reg (atIdx Obj.RMAP_BASE u)
    if base = 0 then s
    else (List.range pages).foldl (fun s i => (s.writePhys k (base + 8 * (o / 65536 + i)) (zeros 8)).1) s

/-- The leaf the steward writes in step 4 of R207. -/
def leafOf (np pa : Nat) (write : Bool) : Nat :=
  1 + 2 + (if bitAt np 13 then 4 else 0) + fld np 5 3 * 8 + 64 + (if write then 128 else 0) + fld np 9 8 * 256 + pa

/-- A resolved fault: the page is zeroed or copied, the leaf written present, the waiting units released, and a migrated
page's old frame returned to the host (R207 steps 3–5). -/
def State.resolve (s : State) (p : Pend) : State :=
  let k := p.info.part
  let n := 65536 * p.pages
  let migr := npKind p.restore = 2
  let s := s.withMem (if migr then s.mem.moveLines (s.chip.keyTag k) p.oldPA p.frame (n / 128) else s.mem.clear (s.chip.keyTag k) p.frame n)
  let s := s.setEntry k p.info.entry (leafOf p.restore p.frame p.info.write)
  let s := s.setRmap k p.frame p.pages p.info.entry
  let s := s.on (fun c => (((c.dropPend p.info.entry).countPart k Obj.CNT_FAULT_STEWARD p.faults).countPart k
    (if migr then Obj.CNT_MIGRATIONS else Obj.CNT_ZERO_ALLOCS) 1).releaseAll p.waiters)
  if migr then
    let (id, c) := s.chip.newId k
    ({ s with chip := c } : State).post k { kind := 3, id := id, addr2 := p.oldPA }
  else s

/-- Cached translations that reach a physical page are dropped on every Ridge of the partition (R196). -/
def Chip.dropFrame (c : Chip) (k pa n : Nat) : Chip :=
  c.dropTlb k (fun e => decide (e.pa < pa + n) && decide (pa < e.pa + pageBytes e.level)) (fun _ => false)

/-- A soft retirement completes: the page is copied, the leaf written with the new PA and A and D kept, the reverse map moved,
REMAPPED posted, and the frame listed (R172, R210). -/
def State.remapped (s : State) (p : Pend) (bad : Nat) : State :=
  let k := p.info.part
  let n := 65536 * p.pages
  let s := s.withMem (s.mem.moveLines (s.chip.keyTag k) p.oldPA p.frame (n / 128))
  let s := s.setEntry k p.info.entry (p.restore - entryPA p.restore + p.frame)
  let s := s.clearRmap k p.oldPA p.pages
  let s := s.setRmap k p.frame p.pages p.info.entry
  let (id, c) := s.chip.newId k
  let s := ({ s with chip := c } : State).post k { kind := 4, id := id, addr1 := p.oldPA, addr2 := p.frame }
  s.on (fun c => ((((c.dropPend p.info.entry).countPart k Obj.CNT_STEWARD_REMAPS 1).countPart k Obj.CNT_FAULT_STEWARD
    p.faults).retire bad false).releaseAll p.waiters)

/-- Frames of a partition returned to free: they wait in their unit's split store, in ascending order (R174, R207). -/
def Chip.refund (c : Chip) (pa pages : Nat) : Chip :=
  match unitOf pa with
  | none => c
  | some (u, _) =>
    let new := (List.range pages).map (fun i => pa + 65536 * i)
    c.updUnit u (fun m => { m with split := m.split.filter (fun x => decide (x < pa)) ++ new ++ m.split.filter (fun x => decide (pa + 65536 * pages ≤ x)) })

/-- STEWARD_COPY_DONE: the steward's zeroing or copy ends. An uncorrectable line met by the copy restores the entry and ends
the waiting commands with MEM_UNCORRECTABLE (R174, R207, R210). -/
def execStewardCopyDone (b : Bool) (uncorr : Option (W64 × Fin 16)) (s : State) : Host.Outcome State Fault Refusal :=
  done (State.roceRun (match s.chip.stewardJob b with
  | none => s
  | some p =>
    if p.phase != 2 then s
    else
      match uncorr with
      | some a =>
        let s := s.setEntry p.info.part p.info.entry p.restore
        s.on (fun c => (((c.dropPend p.info.entry).refund p.frame p.pages).uncorrLine a.1.toNat a.2.val 5 p.info.part p.info.ctx p.info.va).giveUpAll stUncorr p.waiters)
      | none => if p.soft then s.remapped p p.info.va else s.resolve p))

/-- PENDING_ENTRY_FREE: the first of the faults that wait for a pending entry that finds one is admitted (R208). -/
def execPendingEntryFree (s : State) : Host.Outcome State Fault Refusal :=
  let may := fun (p : FaultInfo × Waiter) => s.chip.isPending p.1 || !s.chip.pendFull p.1.part
  done (match s.chip.pendWait.find? may with
    | none => s
    | some p =>
      let before := s.chip.pendWait.takeWhile (fun x => !may x)
      (s.on (fun c => { c with pendWait := before ++ c.pendWait.drop (before.length + 1) })).enterFault p.1 [p.2])

/-! ### The steward ring (R212) -/

/-- A write of STEWARD_RING_BASE: refused while a queue of the partition is RUNNING; held records are then written. -/
def effRingBase : Eff := fun inst bs s =>
  if (s.chip.queuesOf inst).any (fun e => (s.chip.queue e.1 e.2).st = .running) then (s, rcState)
  else
    let s := s.on (fun c => c.set inst Obj.STEWARD_RING_BASE (leNat bs))
    (State.ringDrain inst ((s.chip.part inst).held.length + (s.chip.part inst).waiting.length + 1) s, rcOK)

/-- A write of STEWARD_RING_CONSUMER: held records are written as space frees. -/
def effRingConsumer : Eff := fun inst bs s =>
  let s := s.on (fun c => c.set inst Obj.STEWARD_RING_CONSUMER (leNat bs))
  (State.ringDrain inst ((s.chip.part inst).held.length + (s.chip.part inst).waiting.length + 1) s, rcOK)

/-- STEWARD_RING_BASE_WRITE (R212). -/
def execStewardRingBaseWrite (r : Req) (base : W64) (s : State) : Host.Outcome State Fault Refusal :=
  done (s.rowWrite r Obj.STEWARD_RING_BASE (wr 8 base.toNat) effRingBase)

/-- STEWARD_RING_CONSUMER_WRITE (R212). -/
def execStewardRingConsumerWrite (r : Req) (count : W32) (s : State) : Host.Outcome State Fault Refusal :=
  done (s.rowWrite r Obj.STEWARD_RING_CONSUMER (wr 4 count.toNat) effRingConsumer)

/-! ### The host's answers (R213, R214) -/

def Chip.dropHost (c : Chip) (k id : Nat) : Chip := { c with hosts := c.hosts.filter (fun h => !(h.info.part = k && h.id = id)) }

/-- A write of FAULT_RESOLVE. An answer that comes after its fault's limit is refused and counted as late. -/
def effResolve (atLimit : Bool) : Eff := effOn (fun inst bs c =>
  let v := leNat bs
  let id := fld v 63 32
  let act := fld v 1 0
  if fld v 31 2 != 0 || act = 0 then (c, rcRange)
  else
    match c.hosts.find? (fun h => h.info.part = inst && h.id = id) with
    | none => (if (c.part inst).expired.contains id then c.late waitVct else c, rcState)
    | some h =>
      if h.retire then
        (if act = 3 then ((c.dropHost inst id).retire h.frame false, rcOK) else (c, rcState))
      else if act = 1 then (((c.dropHost inst id).nearMiss waitVct atLimit).releaseAll h.waiters, rcOK)
      else if act = 2 then (((c.dropHost inst id).nearMiss waitVct atLimit).giveUpAll stTranslation h.waiters, rcOK)
      else (c, rcState))

/-- FAULT_RESOLVE_RETRY (R213). -/
def execFaultResolveRetry (r : Req) (id : W32) (atLimit : Bool) (s : State) : Host.Outcome State Fault Refusal :=
  done (s.rowWrite r Obj.FAULT_RESOLVE (wr 8 (id.toNat * 2 ^ 32 + 1)) (effResolve atLimit))

/-- FAULT_RESOLVE_ABORT (R213). -/
def execFaultResolveAbort (r : Req) (id : W32) (atLimit : Bool) (s : State) : Host.Outcome State Fault Refusal :=
  done (s.rowWrite r Obj.FAULT_RESOLVE (wr 8 (id.toNat * 2 ^ 32 + 2)) (effResolve atLimit))

/-- FAULT_RESOLVE_DONE (R210, R213). -/
def execFaultResolveDone (r : Req) (id : W32) (s : State) : Host.Outcome State Fault Refusal :=
  done (s.rowWrite r Obj.FAULT_RESOLVE (wr 8 (id.toNat * 2 ^ 32 + 3)) (effResolve false))

/-- FAULT_HOST_LIMIT_EXPIRED: an unanswered fault whose record was written ends its commands (R214). -/
def execFaultHostLimitExpired (part : Fin 8) (id : W32) (s : State) : Host.Outcome State Fault Refusal :=
  let k := part.val
  done (s.on (fun c => match c.hosts.find? (fun h => h.info.part = k && h.id = id.toNat) with
    | none => c
    | some h =>
      if h.retire || !h.written then c
      else ((c.dropHost k h.id).updPart k (fun p => { p with expired := p.expired ++ [h.id] })).giveUpAll stTranslation h.waiters))

end Sys2Proof.Machine
end

