-- ==== Sys2Proof/Machine/Replay.lean ====
section
/-! DEFINITION. The commit frontier, the rewind of a queue to it, commands that replay gives up, and the retirement of a
Ridge (R75, R81, R139, R145–R152, R219). -/
namespace Sys2Proof.Machine

/-! ### The frontier (R139) -/

/-- The first slice of a command that is not complete. -/
def Cmd.firstOpen (k : Cmd) : Nat := ((List.range k.nSlices).find? (fun i => !k.sliceDone i)).getD k.nSlices

/-- The first slice, in the order of descriptor count and slice index, that is not complete; slice 0 of the first command
not yet fetched where every one is. -/
def Queue.frontier (x : Queue) : Nat × Nat :=
  if x.st = .disabled then (x.consumed, 0)
  else match x.cmds.find? (fun k => !k.finished) with
    | some k => (k.count, k.firstOpen)
    | none => (x.nextFetch, 0)

/-- The newer complete journal copy as a queue reads it: the copy of the higher JOURNAL_SEQ whose words for the queue are
correct (R75, R142). -/
def Ridge.journalOf (r : Ridge) (q : Nat) : Option Journal :=
  let one := decide (r.copy1.seq > r.copy0.seq)
  let a := if one then r.copy1 else r.copy0
  let b := if one then r.copy0 else r.copy1
  if !a.bad.contains q then some a else if !b.bad.contains q then some b else none

/-- The frontier that a rewind restores; commands below QCONSUMED have their record or were skipped (R91). -/
def Queue.restored (x : Queue) (j : Journal) (q : Nat) : Nat × Nat :=
  let e := Tbl.get j.queues {} q
  if dist32 e.frontierCount x.consumed < 2 ^ 31 then (e.frontierCount, e.frontierSlice) else (x.consumed, 0)

/-! ### Abandoning units (R147 step 1, R437) -/

/-- The Spur and DMA units of the commands for which `mine` holds of the count are abandoned, with their trace records. -/
def Chip.abandonUnits (c : Chip) (n q : Nat) (mine : Nat → Bool) : Chip :=
  let say := fun (c : Chip) (bit unit count u : Nat) => match c.cmd n q count with
    | some k => c.trace n q (k.trec trAbandon bit (k.sliceOf u) unit 0)
    | none => c
  let r := c.ridge n
  let c := r.spurs.foldl (fun c p => match p.2.unit with
    | some u => if u.queue = q && mine u.count then say c 0 p.1 u.count u.unit else c
    | none => c) c
  let c := r.dma.foldl (fun c p => match p.2.engine with
    | some e => if p.2.queue = q && mine p.2.count then say c 1 (64 + e) p.2.count p.2.unit else c
    | none => c) c
  let gone := r.dma.filter (fun p => p.2.queue = q && mine p.2.count)
  let keep : Waiter → Bool := fun w => match w with
    | .tile m q' k _ => !(m = n && q' = q && mine k)
    | .prog m q' k _ => !(m = n && q' = q && mine k)
    | .dma m i => !(m = n && gone.any (fun p => p.1 = i))
    | .fetch m q' => !(m = n && q' = q)
    | _ => true
  (c.dropWaiters keep).updRidge n (fun r => { r with
    spurs := r.spurs.map (fun p => (p.1, match p.2.unit with
      | some u => if u.queue = q && mine u.count then { p.2 with unit := none, part := none } else p.2
      | none => p.2)),
    engParts := r.engParts.filter (fun p => !(p.2.queue = q && mine p.2.count)),
    dma := r.dma.filter (fun p => !(p.2.queue = q && mine p.2.count)) })

/-! ### Commands that replay gives up (R145, R152) -/

def abandonMMAcc : Nat := 1
def abandonLimit : Nat := 2

/-- A command completes with ABORTED_BY_RESET instead of being executed again; `reason` 0 raises no REPLAY_ABANDONED. -/
def Chip.abandon (c : Chip) (n q count reason : Nat) : Chip :=
  let own := c.ownerN n
  let c := c.updCmd n q count (fun k => { k with
    status := k.status ++ [stAborted], finished := true, started := true, stale := false, again := [], nextUnit := k.units })
  let c := if reason = abandonMMAcc then c.countPart own Obj.CNT_MMACC_ABORTS 1 else c
  if reason = 0 then c else c.raise 0x0442 own [(1, reason)]

/-! ### Rewinding a queue (R147, Table 5.5) -/

/-- A command at or beyond the frontier as the rewind leaves it: slices before `lower` stay committed, what has run since is
remembered for the replayed bit, and its descriptor is fetched again. Tally, flags and cycles stay (R143). The result also
counts executions of slices that had been executed before and are abandoned now (R149). -/
def Cmd.rewound (k : Cmd) (lower : Nat) : Cmd × Nat :=
  let dropped := k.openSlices.filter (fun i => decide (lower ≤ i))
  let again := (dropped.filter k.ran.contains).length
  let exec := (k.issued.map (·.1)).filter (fun i => decide (lower ≤ i) && !k.ran.contains i)
  ({ k with
    slices := min 65535 (k.slices + dropped.length), replayed := k.replayed || decide (again > 0), ran := k.ran ++ exec,
    done := k.done.filter (fun u => decide (k.sliceOf u < lower)), issued := k.issued.filter (fun p => decide (p.1 < lower)),
    nextUnit := lower * k.perSlice, again := [], finished := false, started := false, stale := true, status := [],
    accMark := false, wrote := [], progRead := false, prog := [], cts := false, ctsAt := none, rtsRetry := k.rtsRetry || k.cts,
    stepAt := none, promoA := false, promoB := false, promoFrom := 0, runCount := 0, triggered := false }, again)

/-- The shadow state of the frontier command as of the commit (R56). -/
def Cmd.withShadow (k : Cmd) (e : JQueue) : Cmd :=
  if k.count = e.frontierCount then
    { k with promoA := e.promoA, promoB := e.promoB, runCount := e.runCount, triggered := e.triggered }
  else k

/-- Commands of a queue after its rewind: committed ones and those already given up stay; of the others, those not started are
dropped. -/
def Queue.rewoundCmds (x : Queue) (fc fs : Nat) (e : JQueue) : List Cmd × Nat :=
  x.cmds.foldl (fun (l, n) k =>
    if k.committed || k.status.contains stAborted then (l ++ [k], n)
    else if !k.cfgRead then (l, n)
    else
      let r := k.rewound (if k.count = fc then fs else 0)
      (l ++ [r.1.withShadow e], n + r.2)) ([], 0)

/-- Steps 1 and 5 of Table 5.5 for one queue, with the events of the rewind. A queue that is REWINDING already stays in that
one rewind (R408); a DISABLED queue has nothing to rewind. -/
def Chip.rewindQueue (c : Chip) (n q level : Nat) : Chip :=
  let x := c.queue n q
  let own := c.ownerN n
  if x.st = .disabled || x.st = .rewinding then c
  else match (c.ridge n).journalOf q with
  | none =>
    -- both copies are lost: what has started is given up, and the Ridge is retired by the caller (R75, R152)
    let c := c.abandonUnits n q (fun _ => true)
    let started := (x.cmds.filter (fun k => k.cfgRead && !k.committed && !k.finished)).map (·.count)
    let c := started.foldl (fun c k => c.abandon n q k 0) c
    (c.updQueue n q (fun x => { x with st := .rewinding })).updRidge n (fun r => { r with journalLost := true })
  | some j =>
    let e := Tbl.get j.queues {} q
    let (fc, fs) := x.restored j q
    let live := fun (k : Nat) => x.cmds.any (fun e => e.count = k && !e.committed)
    let c := c.abandonUnits n q live
    let dropped := x.cmds.filter (fun k => !k.committed && !k.status.contains stAborted && !k.cfgRead)
    let (cmds, again) := x.rewoundCmds fc fs e
    let accs := (x.cmds.filter (fun k => !k.committed && k.accMark && !k.status.contains stAborted)).map (·.count)
    let kept := cmds.filter (fun k => k.committed || k.status.contains stAborted)
    let c := c.updQueue n q (fun x => { x with
      st := .rewinding, resume := if x.st = .halted then .halted else .running,
      cmds := cmds, fin := x.fin.filter (fun k => kept.any (fun e => e.count = k)), failing := false,
      nextFetch := (dropped.head?.map (·.count)).getD x.nextFetch, fetchWait := false, mmSince := false,
      frontierCount := fc, frontierSlice := fs, rewinds := x.rewinds + 1 })
    let c := accs.foldl (fun c k => c.abandon n q k abandonMMAcc) c
    let c := (c.updQueue n q Queue.settle).countPart own Obj.CNT_REPLAYED_SLICES again
    (c.countPart own Obj.CNT_REWINDS 1).raise 0x0441 own [(1, n), (1, q), (1, level), (8, fc * 2 ^ 32 + fs)]

/-- CONTEXT_STEP and the promotion table of the contexts that a reset rewinds on a Ridge, as of the commit (R147 step 5). -/
def Chip.restoreSteps (c : Chip) (n : Nat) (ctxs : List Nat) : Chip :=
  match ((List.range 8).filterMap (fun q => (c.ridge n).journalOf q)).head? with
  | none => c
  | some j => c.updRidge n (fun r => { r with
      steps := ctxs.foldl (fun t x => Tbl.put t x (Tbl.get j.steps 0 x)) r.steps,
      promo := (r.promo.filter (fun e => !ctxs.contains e.ctx)) ++ j.promo.filter (fun e => ctxs.contains e.ctx) })

/-- A copy that was found bad for a queue is rewritten from the other (R75). -/
def Ridge.mendJournals (r : Ridge) : Ridge :=
  { r with copy0 := { r.copy0 with bad := r.copy0.bad.filter r.copy1.bad.contains },
           copy1 := { r.copy1 with bad := r.copy1.bad.filter r.copy0.bad.contains } }

/-- The queues of a Ridge for which `sel` holds are rewound: each queue, then the Ridge's steps and promotions for their
contexts. -/
def Chip.rewindRidge (c : Chip) (n level : Nat) (sel : Nat → Bool) : Chip :=
  let qs := (List.range 8).filter (fun q => sel q && (c.queue n q).st != .disabled && (c.queue n q).st != .rewinding)
  let ctxs := qs.map (fun q => c.qctx n q)
  let c := qs.foldl (fun c q => c.rewindQueue n q level) c
  (if qs.isEmpty then c else c.restoreSteps n ctxs).updRidge n Ridge.mendJournals

/-- A queue rewound more than REPLAY_LIMIT times without its frontier advancing gives up its frontier command, where that has
started (R152). -/
def Chip.limitAbort (c : Chip) (n q : Nat) : Chip :=
  let x := c.queue n q
  if x.st != .rewinding || x.rewinds ≤ c.get (c.ownerN n) Obj.REPLAY_LIMIT then c
  else if x.cmds.any (fun k => k.count = x.frontierCount && k.cfgRead && !k.finished) then
    (c.abandon n q x.frontierCount abandonLimit).updQueue n q Queue.settle
  else c

/-- REPLAY_LIMIT_REACHED (R152). -/
def execReplayLimitReached (ridge : Fin 16) (queue : Fin 8) (s : State) : Host.Outcome State Fault Refusal :=
  done (s.on (fun c => c.limitAbort ridge.val queue.val))

/-- Step 6 of Table 5.5 at a boundary: the queue leaves REWINDING for the state and halt reason of Q_STATE. In HALTED it
replays only the commands that had started (R147). -/
def Chip.resumeQueue (c : Chip) (n q : Nat) : Chip :=
  let c := c.limitAbort n q
  let x := c.queue n q
  if x.st != .rewinding then c
  else
    let x := { x with
      st := x.resume,
      replayOnly := if x.resume = .halted then (x.cmds.filter (fun k => k.cfgRead && !k.finished)).map (·.count) else [] }
    (c.setQueue n q x).trace n q { kind := trRewind, bit := 3, seq := x.frontierCount, aux := x.frontierCount * 2 ^ 32 + x.frontierSlice }

/-! ### Zeroing and retiring a Ridge (R81, R219, R227) -/

/-- The SRAM of a Ridge zeroed: scratchpads, accumulators, vector registers, journal, promotion table and translation caches
(Table 8.3, step 5). -/
def Chip.zeroRidge (c : Chip) (n : Nat) : Chip :=
  let c := (List.range 18).foldl (fun c p => c.spadClear n p) c
  c.updRidge n (fun r => { r with
    spurs := r.spurs.map (fun p => (p.1, { p.2 with unit := none, part := none, acc := [], vregs := [], undef := 0, accUndef := 0 })),
    dma := [], engParts := [], steps := [], promo := [], copy0 := {}, copy1 := {}, tlb := [], ptrs := [], journalLost := false })

/-- The commands in flight on a queue of a retired Ridge: their records are due, with ABORTED_BY_RESET (R152, R406). -/
def Queue.retireCmds (x : Queue) : Queue :=
  let live := x.cmds.filter (fun k => k.cfgRead && !k.committed)
  let cmds := (x.cmds.filter (fun k => k.cfgRead)).map (fun k => if k.committed then k else { k with
    status := if k.status.contains stAborted then k.status else k.status ++ [stAborted], finished := true, committed := true })
  { x with st := .disabled, halt := 0, cmds := cmds, records := x.records ++ live.map (·.count), fetchWait := false,
           disabling := false, failing := false, replayOnly := [] }

/-- A Ridge is retired: its queues end, its SRAM is erased, its domain is gated, and the extent table follows at the next
boundary (R20, R81, R219). -/
def Chip.retireRidge (c : Chip) (n : Nat) : Chip :=
  if c.retired n then c
  else
    let own := c.ownerN n
    let c := forQueues (fun c q => (c.abandonUnits n q (fun _ => true)).updQueue n q (fun x => if x.st = .disabled then x else x.retireCmds)) c
    let c := c.zeroRidge n
    let c := c.updRidge n (fun r => { r with remap := none })
    let c := c.setReg (Obj.DOMAIN_STATE + n) (if c.reg (Obj.DOMAIN_STATE + n) = 3 then 3 else 2)
    let c := c.extSet (Obj.RIDGE_STATE + n) 2
    let c := c.extSet Obj.RIDGES_ACTIVE (c.extSoon Obj.RIDGES_ACTIVE - 1)
    let c := c.extSet Obj.SPURS_ACTIVE (c.extSoon Obj.SPURS_ACTIVE - popCount 17 (c.extSoon (Obj.RIDGE_SPUR_MAP + n)))
    let c := c.raise 0x0422 own []
    if own < 8 then c.raise 0x0604 own [] else c

end Sys2Proof.Machine
end

