-- ==== Sys2Proof/Machine/Loops.lean ====
section
/-! DEFINITION. The Traverse loops: their coefficient blocks, the tick schedule, the control law, search and hand-over, the
repetitive controller, injection and capture (R288–R316). -/
namespace Sys2Proof.Machine

/-! ### Instances (R288, R289) -/

/-- The number of a tick since frame 0. -/
def Chip.tickId (c : Chip) : Nat := c.frame * 128 + c.tick

/-- Loop types: 0 add ring, 1 drop ring, 2 modulator bias (Table 11.2); 3 wavelength, 4 power, 5 Col element, 6 standby switch,
7 bench temperature (Table 11.3). -/
def loopType (core inst : Nat) : Option Nat :=
  if core < 10 then
    if inst < 128 then some 0 else if inst < 256 then some 1 else if inst < 288 then some 2 else none
  else if core = 10 then
    if inst < 180 then some 3 else if inst < 360 then some 4 else if inst < 392 then some 5
    else if inst < 394 then some 6 else if inst < 404 then some 7 else none
  else none

def loopKey (core inst : Nat) : Nat := core * 512 + inst

/-- The default class: 0 fast, 1 medium, 2 slow. -/
def defaultClass (core inst : Nat) : Nat :=
  match loopType core inst with
  | some 2 => 1
  | some 3 => 1
  | some 4 => 2
  | some 7 => 2
  | _ => 0

/-- Whether loops of the type have a search signal. -/
def hasSearch (core inst : Nat) : Bool :=
  match loopType core inst with
  | some 0 => true
  | some 1 => true
  | some 3 => true
  | _ => false

def isRing (core inst : Nat) : Bool := core < 10 && inst < 256

def Chip.loop (c : Chip) (core inst : Nat) : Loop := Tbl.get c.loops {} (loopKey core inst)

def Chip.setLoop (c : Chip) (core inst : Nat) (l : Loop) : Chip := { c with loops := Tbl.put c.loops (loopKey core inst) l }

def Chip.updLoop (c : Chip) (core inst : Nat) (f : Loop → Loop) : Chip := c.setLoop core inst (f (c.loop core inst))

def Chip.core (c : Chip) (n : Nat) : Core := Tbl.get c.cores {} n

def Chip.updCore (c : Chip) (n : Nat) (f : Core → Core) : Chip := { c with cores := Tbl.put c.cores n (f (c.core n)) }

/-- LOOP_CLASS. -/
def Loop.classOf (l : Loop) (core inst : Nat) : Nat := l.cls.getD (defaultClass core inst)

/-- Whether SUP is in its restart: its actuators hold, and no fade check, laser swap or Col move starts (R400). -/
def Chip.supDown (c : Chip) : Bool := (Tbl.get c.agents {} 0x12).restarting

def coreFailed (c : Chip) (core : Nat) : Bool := c.reg (Obj.CORE_STATE + core) = 1 || (core = 10 && c.supDown)

/-! ### Modes (R300) -/

def modeOpen : Nat := 0
def modeSearch : Nat := 1
def modeTrack : Nat := 2
def modeHold : Nat := 3

/-! ### Coefficient blocks (R297, Table 11.6) -/

def f32At (bs : List Byte) (o : Nat) : W32 := BitVec.ofNat 32 (leAt bs o 4)

structure Coef where
  b0 : W32
  b1 : W32
  b2 : W32
  a1 : W32
  a2 : W32
  kp : W32
  ki : W32
  kd : W32
  dPole : W32
  ffGain : W32
  outMin : W32
  outMax : W32
  slew : W32
  tol : W32
  rcGain : W32
  rcDecay : W32
  config : Nat
  lead : Nat
  span : W32
  step : W32
deriving DecidableEq, Repr

def coefOf (bs : List Byte) : Coef :=
  { b0 := f32At bs 0x00, b1 := f32At bs 0x04, b2 := f32At bs 0x08, a1 := f32At bs 0x0C, a2 := f32At bs 0x10
    kp := f32At bs 0x14, ki := f32At bs 0x18, kd := f32At bs 0x1C, dPole := f32At bs 0x20, ffGain := f32At bs 0x24
    outMin := f32At bs 0x28, outMax := f32At bs 0x2C, slew := f32At bs 0x30, tol := f32At bs 0x34
    rcGain := f32At bs 0x38, rcDecay := f32At bs 0x3C, config := leAt bs 0x40 4, lead := leAt bs 0x44 4
    span := f32At bs 0x48, step := f32At bs 0x4C }

def Coef.law (k : Coef) : Nat := fld k.config 1 0
/-- PREFILTER sits in front of PI or PID (R296). -/
def Coef.pre (k : Coef) : Bool := bitAt k.config 2 && k.law != 0
def Coef.ffEn (k : Coef) : Bool := bitAt k.config 3
def Coef.rcEn (k : Coef) : Bool := bitAt k.config 4
def Coef.invert (k : Coef) : Bool := bitAt k.config 5
def Coef.ffSrc (k : Coef) : Nat := fld k.config 31 16

/-- 2 × SEARCH_SPAN ÷ SEARCH_STEP to the nearest whole number of samples, 0 where the quotient is not positive (R302). -/
def sweepLen (span step : W32) : Nat :=
  match f32Val (f32Div (f32Add span span) step) with
  | .fin false m e => if e ≥ 0 then m <<< e.toNat else (m + 2 ^ ((-e).toNat - 1)) >>> (-e).toNat
  | _ => 0

/-- Whether R297 accepts a block. -/
def coefOk (bs : List Byte) : Bool :=
  let k := coefOf bs
  let one := f32One
  let floats := ([0x00, 0x04, 0x08, 0x0C, 0x10, 0x14, 0x18, 0x1C, 0x20, 0x24, 0x28, 0x2C, 0x30, 0x34, 0x38, 0x3C, 0x48, 0x4C]).all
    (fun o => f32Finite (f32At bs o))
  let v := f32Val
  let q := fun (a b : Nat) => Fv.div (.fin false a 0) (.fin false b 0)
  floats && f32Lt k.outMin k.outMax && f32Le 0#32 k.outMin && f32Le k.outMax one &&
  f32Le 0#32 k.dPole && f32Le k.dPole (q 999 1000) &&
  Fv.lt (v k.a2).abs (v one) && Fv.lt (v k.a1).abs (Fv.add (v one) (v k.a2)) &&
  f32Le 0#32 k.slew && f32Lt 0#32 k.tol && f32Le 0#32 k.rcGain && f32Le k.rcGain one &&
  f32Le (q 9 10) k.rcDecay && f32Le k.rcDecay one &&
  fld k.config 15 6 = 0 && k.law != 3 && (decide (k.ffSrc < 512) || (decide (0x8000 ≤ k.ffSrc) && decide (k.ffSrc < 0x8010))) &&
  decide (k.lead < 64) && !(v k.step).isZero &&
  Fv.le (v (f32Div (f32Add k.span k.span) k.step)) (.fin false 1024 0)

/-- LOOP_COEF: what was written, else the factory block of the loop's type. For rings SEARCH_SPAN is the ring's channel step
and SEARCH_STEP 1/200 of it (R297). -/
def Chip.coefBytes (c : Chip) (core inst : Nat) : List Byte :=
  match (c.loop core inst).coef with
  | some b => b
  | none =>
    let t := (loopType core inst).getD 0
    let b := fitTo 80 (Config.factoryCoef t)
    if isRing core inst then
      let sp := f32Abs (Config.channelStep (loopKey core inst))
      placeAt b 0x48 (leBytes 4 sp.toNat ++ leBytes 4 (f32Div sp (f32OfInt 200)).toNat)
    else b

def Chip.coef (c : Chip) (core inst : Nat) : Coef := coefOf (c.coefBytes core inst)

/-! ### The resonance map (R305) -/

/-- The map's output of a ring for channel `ch`, or its parking output for 16. -/
def Chip.mapOf (c : Chip) (core inst ch : Nat) : W32 :=
  let key := loopKey core inst
  Tbl.get c.resMap (Config.resonance key ch) (key * 32 + ch)

def Chip.setMap (c : Chip) (core inst ch : Nat) (v : W32) : Chip :=
  { c with resMap := Tbl.put c.resMap (loopKey core inst * 32 + ch) v }

/-! ### The schedule (R290–R292) -/

/-- Generator g and capture buffer g of a core. -/
def injKey (core g : Nat) : Nat := atIdx Obj.INJECT core + g
def capKey (core g : Nat) : Nat := atIdx Obj.CAPTURE core + g
def capState (core g : Nat) : Nat := atIdx Obj.CAPTURE_STATE core + g

/-- How many generators of a core are switched on for a loop, and how many capture buffers record it. -/
def Chip.injOn (c : Chip) (core inst : Nat) : Nat :=
  ((List.range 2).filter (fun g =>
    let b := c.blob modInst (injKey core g)
    leAt b 0 2 = inst && byteAt b 2 != 0)).length

def Chip.capOn (c : Chip) (core inst : Nat) : Nat :=
  ((List.range 2).filter (fun g =>
    let st := c.reg (capState core g)
    leAt (c.blob modInst (capKey core g)) 0 2 = inst && (st = 1 || st = 2))).length

/-- Pipe cycles of a loop at each sample in TRACK (Table 11.4). -/
def Coef.cost (k : Coef) (inj cap : Nat) : Nat :=
  24 + (match k.law with | 0 => 12 | 1 => 8 | _ => 14) + (if k.pre then 12 else 0) + (if k.ffEn then 4 else 0) +
  (if k.rcEn then 16 else 0) + 6 * inj + 4 * cap

/-- A loop as the schedule sees it. -/
structure Job where
  inst : Nat
  cls : Nat
  cost : Nat
deriving DecidableEq, Repr

/-- A loop's place: phase, pipe, nominal completion in ns from the tick edge. -/
structure Place where
  inst : Nat
  phase : Nat
  pipe : Nat
  pos : Nat
deriving DecidableEq, Repr

/-- The position of the least number, the lowest position on a tie. -/
def leastAt (l : List Nat) : Nat :=
  ((List.range l.length).foldl (fun b i => if l.getD i 0 < l.getD b 0 then i else b) 0)

/-- Phases in instance order, each to the phase with the least load. -/
def givePhases (n : Nat) (js : List Job) : List (Job × Nat) :=
  (js.foldl (fun (st : List Nat × List (Job × Nat)) j =>
    let p := leastAt st.1
    (st.1.set p (st.1.getD p 0 + j.cost), st.2 ++ [(j, p)])) (List.replicate n 0, [])).2

/-- Jobs run in order, each on the pipe that frees first. -/
def runPipes (pipes : List Nat) (js : List (Job × Nat)) : List Nat × List Place :=
  js.foldl (fun st jp =>
    let p := leastAt st.1
    let t := st.1.getD p 0 + jp.1.cost
    (st.1.set p t, st.2 ++ [⟨jp.1.inst, jp.2, p, t⟩])) (pipes, [])

def jobCycles (js : List (Job × Nat)) : Nat := js.foldl (fun n j => n + j.1.cost) 0

/-- The schedule of a core's closed loops, in instance order, and its load in the worst tick. The pipes start 26 ns after the
edge. -/
def schedule (js : List Job) : List Place × Nat :=
  let fast := (js.filter (fun j => j.cls = 0)).map (fun j => (j, 0))
  let med := givePhases 8 (js.filter (fun j => j.cls = 1))
  let slow := givePhases 128 (js.filter (fun j => j.cls = 2))
  let f := runPipes (List.replicate 8 26) fast
  let ms := (List.range 8).map (fun p => runPipes f.1 (med.filter (fun j => j.2 = p)))
  let used := (List.range 128).filter (fun p => slow.any (fun j => j.2 = p))
  let ss := used.map (fun p => runPipes (ms.getD (p % 8) f).1 (slow.filter (fun j => j.2 = p)))
  let medLoad := fun (p : Nat) => jobCycles (med.filter (fun j => j.2 = p))
  let loads := (List.range 8).map medLoad ++ used.map (fun p => medLoad (p % 8) + jobCycles (slow.filter (fun j => j.2 = p)))
  (f.2 ++ (ms.map (·.2)).flatten ++ (ss.map (·.2)).flatten, jobCycles fast + loads.foldl max 0)

/-- The closed loops of a core, with `f` applied to each loop first; searching loops at 184 cycles where `srch`. -/
def Chip.jobs (c : Chip) (core : Nat) (srch : Bool) (f : Nat → Loop → Loop) : List Job :=
  (c.loops.filter (fun p => p.1 / 512 = core)).filterMap (fun p =>
    let i := p.1 % 512
    let l := f i p.2
    if l.mode = modeOpen then none
    else
      some ⟨i, l.classOf core i,
        if srch && l.mode = modeSearch then 184 else (c.coef core i).cost (c.injOn core i) (c.capOn core i)⟩)

/-- Whether every nominal completion stays within 900 ns. -/
def fits (js : List Job) : Bool := (schedule js).1.all (fun p => decide (p.pos ≤ 900))

/-- Whether the core keeps its budget with one loop changed, at TRACK cost (R291). -/
def Chip.budgetWith (c : Chip) (core inst : Nat) (f : Loop → Loop) : Bool :=
  let c := c.updLoop core inst f
  fits (c.jobs core false (fun _ l => l))

/-- Whether a module search on a loop may start now (R302). -/
def Chip.mayAdmit (c : Chip) (core inst : Nat) : Bool :=
  let c := c.updLoop core inst (fun l => { l with mode := modeSearch })
  fits (c.jobs core true (fun _ l => l))

/-- A core's schedule is rebuilt at a frame boundary, and LOOP_SCHED and CORE_LOAD with it (R292). -/
def Chip.rebuild (c : Chip) (core : Nat) : Chip :=
  let s := schedule (c.jobs core false (fun _ l => l))
  let c := c.setReg (Obj.CORE_LOAD + core) s.2
  s.1.foldl (fun c p => c.updLoop core p.inst (fun l => { l with phase := p.phase, pipe := p.pipe, pos := p.pos })) c

/-- Whether a loop is due in this tick, at its core's decimation level (R290, R294). -/
def Chip.due (c : Chip) (core inst : Nat) : Bool :=
  let l := c.loop core inst
  let lvl := c.reg (Obj.CORE_DECIMATION + core)
  match l.classOf core inst with
  | 0 => true
  | 1 =>
    let every := if lvl = 4 then 32 else if lvl = 3 then 16 else 8
    c.tickId % every = l.phase
  | _ =>
    let every := if lvl = 0 then 1 else if lvl = 1 then 2 else 4
    c.tick = l.phase && c.frame % every = 0

/-! ### The control law (R296) -/

def clampF (u lo hi : W32) : W32 := if f32Lt u lo then lo else if f32Lt hi u then hi else u

/-- The limiter, which applies to every output in every mode. -/
def Coef.limit (k : Coef) (prev u : W32) : W32 :=
  let u := clampF u k.outMin k.outMax
  if f32Lt 0#32 k.slew then clampF u (f32Sub prev k.slew) (f32Add prev k.slew) else u

/-- A new output on the actuator, and the limiter's flags. -/
def Loop.drive (l : Loop) (k : Coef) (u : W32) : Loop :=
  { l with output := u, limHigh := u == k.outMax, limLow := u == k.outMin }

def Loop.biquad (l : Loop) (k : Coef) (x : W32) : Loop × W32 :=
  let y := f32Sub (f32Sub (f32Add (f32Add (f32Mul k.b0 x) (f32Mul k.b1 l.x1)) (f32Mul k.b2 l.x2)) (f32Mul k.a1 l.y1)) (f32Mul k.a2 l.y2)
  ({ l with x1 := x, x2 := l.x1, y1 := y, y2 := l.y1 }, y)

def Loop.error (l : Loop) (k : Coef) (x : W32) : W32 := if k.invert then f32Sub x l.setpoint else f32Sub l.setpoint x

/-- The bin index of a sample at tick `t` after phase 0 with period `p` frames (R313). -/
def binIdx (t p : Nat) : Nat := t * 1024 / (p * 128)

/-- The repetitive controller at one TRACK sample: the loop with its bin updated, and the term added (R313, R314). `at` is the
tick after phase 0, none while the controller is WAITING. -/
def Loop.repeat_ (l : Loop) (k : Coef) (period : Nat) (now : Option Nat) (outlier : Bool) (f : W32) : Loop × Option W32 :=
  match now with
  | none => (l, none)
  | some t =>
    let i := binIdx t period
    if !k.rcEn || i ≥ 1024 then (l, none)
    else
      let bins := if outlier then l.bins
        else Tbl.put l.bins i (f32Add (f32Mul k.rcDecay (Tbl.get l.bins 0#32 i)) (f32Mul k.rcGain f))
      ({ l with bins := bins }, some (Tbl.get bins 0#32 ((i + k.lead) % 1024)))

/-- What a TRACK sample reads beside its loop: the feed-forward source, the controller's period and tick, and the injection at
the output. -/
structure Around where
  ff : W32 := 0#32
  period : Nat := 0
  rcTick : Option Nat := none
  outlier : Bool := false
  injOut : Option W32 := none
deriving DecidableEq, Repr

/-- The law's sum before the limiter, the filtered error, and the loop with its filters, integrator and bins advanced. -/
def Loop.lawSum (l : Loop) (k : Coef) (a : Around) (x : W32) : Loop × W32 × W32 :=
  let e := l.error k x
  let (l, f, u) :=
    if k.law = 0 then
      let (l, y) := l.biquad k e
      (l, e, y)
    else
      let (l, f) := if k.pre then l.biquad k e else (l, e)
      let d := f32Add (f32Mul k.dPole l.d) (f32Mul (f32Sub f32One k.dPole) (f32Sub f l.fPrev))
      let kf := f32Mul k.ki f
      let integ := if !(l.limHigh && f32Lt 0#32 kf) && !(l.limLow && f32Lt kf 0#32) then f32Add l.integ kf else l.integ
      let u := f32Add (f32Add (f32Mul k.kp f) integ) (if k.law = 2 then f32Mul k.kd d else 0#32)
      ({ l with d := d, integ := integ, fPrev := f }, f, u)
  let u := if k.ffEn then f32Add u (f32Mul k.ffGain a.ff) else u
  let (l, r) := l.repeat_ k a.period a.rcTick a.outlier f
  let u := match r with | some t => f32Add u t | none => u
  let u := match a.injOut with | some j => f32Add u j | none => u
  (l, f, u)

/-- The integrator preload of a hand-over (R303 step 1): at the last latched input the TRACK output is u_S. Under LAW BIQUAD the
past outputs are u_S and the past inputs zero. -/
def Loop.preload (l : Loop) (k : Coef) (a : Around) : Loop :=
  if k.law = 0 then { l with y1 := l.uS, y2 := l.uS, x1 := 0#32, x2 := 0#32 }
  else
    let z := { l with integ := 0#32 }
    let kz := { k with ki := 0#32 }
    { l with integ := f32Sub l.uS (z.lawSum kz a l.input).2.2 }

/-! ### Injection (R315) -/

def prbsStep (x : Nat) : Nat := ((x * 2) % 2 ^ 15) + (if bitAt x 14 != bitAt x 13 then 1 else 0)

/-- Samples per second of a class at level 0, as the period of a sample in µs. -/
def classPeriod (cls : Nat) : Nat := match cls with | 0 => 1 | 1 => 8 | _ => 128

/-- One sample of a running generator: its next state and the value injected. -/
def Gen.sample (g : Gen) (b : List Byte) (period : Nat) : Gen × W32 :=
  let amp := f32At b 4
  let param := leAt b 8 4
  let dur := leAt b 0xC 4
  let g' := { g with n := g.n + 1 }
  if byteAt b 3 = 2 then (g', if dur = 0 || g.n < dur then amp else 0#32)
  else if dur != 0 && g.n ≥ dur then ({ g with on := false }, 0#32)
  else if byteAt b 3 = 0 then (g', Config.sine amp (BitVec.ofNat 32 param) g.n period)
  else
    let v := if bitAt g.lfsr 14 then amp else f32Neg amp
    let lf := if (g.n + 1) % (if param = 0 then 1 else param) = 0 then prbsStep g.lfsr else g.lfsr
    ({ g' with lfsr := lf }, v)

def Core.gen (x : Core) (g : Nat) : Gen := if g = 0 then x.gen0 else x.gen1
def Core.setGen (x : Core) (g : Nat) (v : Gen) : Core := if g = 0 then { x with gen0 := v } else { x with gen1 := v }
def Core.cap (x : Core) (g : Nat) : Cap := if g = 0 then x.cap0 else x.cap1
def Core.setCap (x : Core) (g : Nat) (v : Cap) : Core := if g = 0 then { x with cap0 := v } else { x with cap1 := v }

/-- The injections of a sample at a point, 1 the input and 2 the output, summed; the generators advance. -/
def Chip.inject (c : Chip) (core inst point : Nat) : Chip × Option W32 :=
  let m := (c.loop core inst).mode
  if m != modeOpen && m != modeTrack then (c, none)
  else
    (List.range 2).foldl (fun (st : Chip × Option W32) g =>
      let b := st.1.blob modInst (injKey core g)
      let gen := (st.1.core core).gen g
      if gen.on && leAt b 0 2 = inst && byteAt b 2 = point then
        let (gen, v) := gen.sample b (classPeriod ((st.1.loop core inst).classOf core inst))
        (st.1.updCore core (fun x => x.setGen g gen), some (match st.2 with | some w => f32Add w v | none => v))
      else st) (c, none)

/-! ### Capture (R316) -/

/-- A record of 16 bytes: input after injection, error, output, and the word of tick, mode and flags. -/
def capRecord (x f u : W32) (tick mode : Nat) (injected skipped ramp : Bool) : List Byte :=
  leBytes 4 x.toNat ++ leBytes 4 f.toNat ++ leBytes 4 u.toNat ++
  leBytes 4 (tick % 65536 + mode * 2 ^ 16 + (if injected then 2 ^ 18 else 0) + (if skipped then 2 ^ 19 else 0) +
    (if ramp then 2 ^ 20 else 0))

/-- Records the buffer keeps before the trigger. -/
def Chip.capPre (c : Chip) (core g : Nat) : Nat := byteAt (c.blob modInst (capKey core g)) 3 * 1024

/-- A sample enters the buffers that record its loop: a window of PRE while ARMED, up to 16,384 records once RUNNING. -/
def Chip.capture (c : Chip) (core inst : Nat) (rec : List Byte) : Chip :=
  (List.range 2).foldl (fun c g =>
    if leAt (c.blob modInst (capKey core g)) 0 2 != inst then c
    else
      let b := (c.core core).cap g
      let n := c.capPre core g
      match c.reg (capState core g) with
      | 1 =>
        let p := b.pre ++ [rec]
        c.updCore core (fun x => x.setCap g { b with pre := p.drop (p.length - n) })
      | 2 =>
        if b.pre.length + b.recs.length < 16384 then c.updCore core (fun x => x.setCap g { b with recs := b.recs ++ [rec] }) else c
      | _ => c) c

/-! ### Changes of mode -/

/-- A loop enters SEARCH from a start, with its whole span or half of it. -/
def Loop.search (l : Loop) (start : W32) (half : Bool) : Loop :=
  { l with mode := modeSearch, start := start, half := half, sweep := 0, best := none, low := none, stage := 0, rampK := 0,
           verified := false, waiting := false, held := 0 }

/-- A loop enters TRACK by hand-over from `u` (R303). -/
def Loop.track (l : Loop) (k : Coef) (a : Around) (u : W32) : Loop :=
  ({ l with mode := modeTrack, uS := u, output := u, stage := 1, rampK := 0, verified := false, waiting := false, held := 0,
            tone := 0xFF } : Loop).preload k a

/-- A loop enters OPEN at an output. -/
def Loop.open_ (l : Loop) (u : W32) : Loop :=
  { l with mode := modeOpen, uS := u, stage := 0, rampK := 0, verified := false, waiting := false, held := 0, aborts := 0 }

/-- A loop enters HOLD at its last output: 1 loss of light, 2 overruns, 3 a preset or the operator. -/
def Loop.hold (l : Loop) (why tick : Nat) : Loop :=
  { l with mode := modeHold, held := why, heldFrom := l.mode, heldTicks := tick, stage := 0, rampK := 0, verified := false,
           waiting := false }

/-- What surrounds a sample of a loop now (R296, R311–R314). -/
def Chip.around (c : Chip) (core inst : Nat) (sensor : W32) : Around :=
  let k := c.coef core inst
  let x := c.core core
  let p := c.reg (Obj.RC_PERIOD + core)
  { ff := if k.ffSrc < 512 then (c.loop core k.ffSrc).output else sensor
    period := p
    rcTick := if p = 0 then none else x.rcStart.map (fun s => c.tickId - s * 128)
    outlier := x.rcOutlier }

/-- A module search: at once where the core's load allows it, and otherwise the loop waits in OPEN at its start value (R302). -/
def Chip.seek (c : Chip) (core inst : Nat) (start : W32) (half full : Bool) : Chip :=
  let setOrigin := fun (l : Loop) => if full then { l with origin := start } else l
  if c.mayAdmit core inst then c.updLoop core inst (fun l => (setOrigin l).search start half)
  else c.updLoop core inst (fun l => { (setOrigin l).open_ start with waiting := true, start := start, half := half })

/-- Waiting loops are admitted in instance order as budget frees (R302). -/
def Chip.admitTriggers (c : Chip) : Chip :=
  (c.loops.filter (fun p => p.2.waiting)).foldl (fun c p =>
    let core := p.1 / 512
    let i := p.1 % 512
    if !coreFailed c core && c.mayAdmit core i then c.updLoop core i (fun l => l.search l.start l.half) else c) c

/-- Whether a trigger of priority `p` may act on a loop now: none of a higher priority has acted in this tick (R301). -/
def Chip.mayTrigger (c : Chip) (core inst p : Nat) : Bool :=
  let t := (c.loop core inst).trig
  !(t.1 = c.tickId + 1 && t.2 < p)

/-- A trigger of priority `p` acts. -/
def Chip.trigger (c : Chip) (core inst p : Nat) (f : Loop → Loop) : Chip :=
  c.updLoop core inst (fun l => { f l with trig := (c.tickId + 1, p) })

/-! ### One sample (R290, R296, R302, R303) -/

/-- The search signal of the point that stands, credited to it: the peak and the lowest value of the sweep. -/
def Loop.credit (l : Loop) (sig : W32) : Loop :=
  { l with
    best := match l.best with
      | some (s, o) => if f32Lt s sig then some (sig, l.output) else some (s, o)
      | none => some (sig, l.output)
    low := match l.low with
      | some s => if f32Lt sig s then some sig else some s
      | none => some sig }

/-- The point `i` of a sweep. -/
def Loop.point (l : Loop) (k : Coef) (i : Nat) : W32 :=
  let sp := if l.half then f32Div k.span (f32OfInt 2) else k.span
  f32Add (f32Sub l.start sp) (f32Mul (f32OfInt i) k.step)

/-- The samples of a sweep. -/
def Loop.points (l : Loop) (k : Coef) : Nat :=
  sweepLen (if l.half then f32Div k.span (f32OfInt 2) else k.span) k.step

/-- A SEARCH sample: the signal is credited to the point that stands, then the next point is set. `sweep` counts the points set,
and is one above their number when the last has been credited. -/
def Loop.searchSample (l : Loop) (k : Coef) (sig : W32) : Loop :=
  let n := l.points k
  if l.sweep > n then l
  else
    let l := if l.sweep = 0 then l else l.credit sig
    if l.sweep < n then { l.drive k (k.limit l.output (l.point k l.sweep)) with sweep := l.sweep + 1 }
    else { l with sweep := n + 1 }

/-- A TRACK sample: the whole law; the first one of a hand-over judges it, and 16 samples ramp (R303). The flag says that the
hand-over was abandoned. -/
def Loop.trackSample (l : Loop) (k : Coef) (a : Around) (x : W32) : Loop × W32 × Bool :=
  let (l', f, raw) := l.lawSum k a x
  let u := k.limit l.output raw
  if l.stage = 1 && f32Lt k.tol (f32Abs (f32Sub u l.uS)) then
    ({ l.search l.uS true with aborts := l.aborts + 1 }, f, true)
  else if l.stage = 0 then (l'.drive k u, f, false)
  else
    let n := if l.stage = 1 then 1 else l.rampK + 1
    let out := if n ≥ 16 then u else k.limit l.output (f32Add l.uS (f32Mul (f32Div (f32OfInt n) (f32OfInt 16)) (f32Sub u l.uS)))
    let l' := { l' with output := out, limHigh := u == k.outMax, limLow := u == k.outMin }
    (if n ≥ 16 then { l' with stage := 0, rampK := 0, aborts := 0 } else { l' with stage := 2, rampK := n }, f, false)

/-- One loop's sample at a tick: latch, injection, the mode's computation, the capture. A sample that completes ends the loop's
run of overruns. -/
def Chip.sampleLoop (c : Chip) (core inst : Nat) (x sig sensor : W32) : Chip :=
  let k := c.coef core inst
  let c := c.updLoop core inst (fun l => { l with input := x, overruns := 0 })
  let (c, ji) := c.inject core inst 1
  let x' := match ji with | some j => f32Add x j | none => x
  let (c, jo) := c.inject core inst 2
  let l := c.loop core inst
  let a := { c.around core inst sensor with injOut := jo }
  let ramp := l.mode = modeTrack && l.stage != 0
  let (l', f, ab) :=
    match l.mode with
    | 1 => (l.searchSample k sig, l.error k x', false)
    | 2 => l.trackSample k a x'
    | 3 => (l, l.error k x', false)
    | _ =>
      let u := match jo with | some j => f32Add l.uS j | none => l.uS
      (l.drive k (k.limit l.output u), l.error k x', false)
  let c := c.setLoop core inst l'
  let c := if ab then c.count modInst (Obj.CNT_HANDOVER_ABORTS + core) 1 else c
  c.capture core inst (capRecord x' f l'.output c.tickId l'.mode (ji.isSome || jo.isSome) false ramp)

/-- OPEN loops apply at a tick edge what was written since the last (R299). -/
def Chip.applyOpen (c : Chip) : Chip :=
  { c with loops := c.loops.map (fun p =>
      if p.2.mode = modeOpen && p.2.output != p.2.uS && !coreFailed c (p.1 / 512) then
        let k := c.coef (p.1 / 512) (p.1 % 512)
        (p.1, p.2.drive k (k.limit p.2.output p.2.uS))
      else p) }

/-- The samples of one tick, run fast, medium, slow and by ascending instance (R290); `skip` names the loops whose samples of
this tick are not used (R309). -/
def Chip.sampleAll (c : Chip) (skip : Nat → Bool) (ss : List LoopSample) : Chip :=
  let t := ss.foldl (fun (t : Tbl LoopSample) s => Tbl.put t (loopKey s.core.val s.inst.val) s) []
  let run := fun (c : Chip) (cls : Nat) =>
    t.foldl (fun c p =>
      let core := p.2.core.val
      let i := p.2.inst.val
      if loopType core i = none || coreFailed c core || (c.loop core i).classOf core i != cls || !c.due core i || skip p.1 then c
      else c.sampleLoop core i p.2.x p.2.search p.2.sensor) c
  [0, 1, 2].foldl run (c.admitTriggers.applyOpen)

/-! ### Overruns and decimation (R293, R294) -/

/-- A sample is abandoned: the output and the loop's state stay, and the overrun counts. A late sample counts in the run, and as
late (R154). -/
def Chip.overrun (c : Chip) (core inst : Nat) (late : Bool) : Chip :=
  let l := c.loop core inst
  let c := if late then c.late waitLoop
    else (c.count modInst (Obj.CNT_OVERRUNS + core) 1).updCore core (fun x => { x with overFrame := true })
  let c := c.updLoop core inst (fun l => { l with overruns := l.overruns + 1 })
  c.capture core inst (capRecord l.input (l.error (c.coef core inst) l.input) l.output c.tickId l.mode false true
    (l.mode = modeTrack && l.stage != 0))

/-- The ladder at a boundary for one core: up by one after a frame with an overrun (R294). -/
def Chip.decimate (c : Chip) (core : Nat) : Chip :=
  let lvl := c.reg (Obj.CORE_DECIMATION + core)
  let x := c.core core
  if x.overFrame then
    let c := c.updCore core (fun x => { x with overFrame := false, clean := 0, satFrames := if lvl = 4 then x.satFrames + 1 else 0 })
    if lvl < 4 then
      ((c.setReg (Obj.CORE_DECIMATION + core) (lvl + 1)).count modInst (Obj.CNT_DECIMATIONS + core) 1).raiseMod 0x0905 []
    else c
  else if x.clean < c.reg Obj.DECIM_RELAX || x.satFrames != 0 then
    c.updCore core (fun x => { x with clean := x.clean + 1, satFrames := 0, satSaid := false })
  else c

/-- Overrun holds end at the first boundary after a frame in which the core counted no overrun (R304). -/
def Chip.endHolds (c : Chip) (core : Nat) : Chip :=
  if (c.core core).overFrame then c
  else
    (c.loops.filter (fun p => p.1 / 512 = core && p.2.mode = modeHold && p.2.held = 2)).foldl (fun c p =>
      let i := p.1 % 512
      let l := p.2
      if l.heldFrom = modeTrack then
        if c.tickId - l.heldTicks ≤ c.reg Obj.HOLD_RESUME_LIMIT || !hasSearch core i then
          c.setLoop core i (l.track (c.coef core i) (c.around core i 0#32) l.output)
        else c.seek core i l.output false true
      else c.seek core i l.origin false true) c

/-! ### The step reference (R311–R314) -/

/-- The Ridges on the Crest die of a core's engine: C0 for OE0, OE1, OE4, OE5 and NC0, C1 for the others; SUP takes them all. -/
def coreRidges (core : Nat) : List Nat :=
  if core = 10 then List.range 16
  else if [0, 1, 4, 5, 8].contains core then List.range 8 else (List.range 8).map (· + 8)

/-- The partition whose step boundaries a core follows. -/
def Chip.stepRef (c : Chip) (core : Nat) : Option Nat :=
  let v := c.reg (Obj.RC_STEP_REF + core)
  if v < 8 then some v
  else
    let n := fun (k : Nat) => ((coreRidges core).filter (fun r => bitAt (c.ridgesOf k) r)).length
    let best := (List.range 8).foldl (fun b k => if n k > n b then k else b) 0
    if n best = 0 then none else some best

/-- Whether an interval lies within ±max(1, m ÷ 64) frames of `m`. -/
def nearPeriod (x m : Nat) : Bool := decide ((max x m - min x m) * 64 ≤ max 64 m)

def median3 (a b d : Nat) : Nat := max (min a b) (min (max a b) d)

/-- A core's accepted period changes: bins stay where the new one lies within 12.5 % of the old, and are cleared otherwise. -/
def Chip.setPeriod (c : Chip) (core p : Nat) : Chip :=
  let old := (c.core core).rcLast
  let keep := decide ((max p old - min p old) * 8 ≤ old)
  let c := (c.setReg (Obj.RC_PERIOD + core) p).updCore core (fun x => { x with rcLast := p })
  let c := if keep then c
    else { c with loops := c.loops.map (fun e => if e.1 / 512 = core then (e.1, { e.2 with bins := [] }) else e) }
  c.raiseMod 0x0908 []

/-- A step boundary at frame `f` reaches one core. -/
def Chip.coreStep (c : Chip) (f core : Nat) : Chip :=
  let x := c.core core
  let p := c.reg (Obj.RC_PERIOD + core)
  match x.rcStart with
  | none => c.updCore core (fun x => { x with rcStart := some f })
  | some s =>
    if s = f then c else
    let iv := f - s
    let ivs := (x.rcIvals ++ [iv]).drop (x.rcIvals.length + 1 - 3)
    let out := p != 0 && !nearPeriod iv p
    let c := c.updCore core (fun x => { x with rcStart := some f, rcIvals := ivs, rcOutlier := out })
    let c := if out then c.count modInst (Obj.CNT_RC_OUTLIERS + core) 1 else c
    match ivs with
    | [a, b, d] =>
      let m := median3 a b d
      if nearPeriod a m && nearPeriod b m && nearPeriod d m && 8 ≤ m && m ≤ 65535 && m != p then
        (c.updCore core (fun x => { x with rcOutlier := false })).setPeriod core m
      else c
    | _ => c

/-- A step boundary of partition `k` at frame `f` reaches the cores that follow it (R311). -/
def Chip.stepBoundary (c : Chip) (k f : Nat) : Chip :=
  (List.range 11).foldl (fun c core => if c.stepRef core = some k then c.coreStep f core else c) c

/-- The controller of a core returns to WAITING with its bins kept (R314). -/
def Chip.rcWait (c : Chip) (core : Nat) : Chip :=
  let p := c.reg (Obj.RC_PERIOD + core)
  let c := c.updCore core (fun x => { x with rcStart := none, rcIvals := [], rcOutlier := false })
  if p = 0 then c else (c.setReg (Obj.RC_PERIOD + core) 0).raiseMod 0x0908 []

/-- The step reference ends with its partition (R314). -/
def Chip.rcTeardown (c : Chip) (k : Nat) : Chip :=
  (List.range 11).foldl (fun c core => if c.stepRef core = some k then c.rcWait core else c) c

/-- Injections begin at their frame's boundary (R315). -/
def Chip.injectBoundary (c : Chip) : Chip :=
  (List.range 11).foldl (fun c core => (List.range 2).foldl (fun c g =>
    let b := c.blob modInst (injKey core g)
    let x := (c.core core).gen g
    if byteAt b 2 != 0 && !x.on && x.n = 0 && leAt b 0x10 6 ≤ c.frame then
      c.updCore core (fun y => y.setGen g { on := true, lfsr := Config.prbsSeed (2 * core + g) })
    else c) c) c

/-- What Traverse does at a frame boundary: the ladder, the holds, injections, the lock-failure counts that an epoch of verified
TRACK clears (R308), and the new schedule. -/
def Chip.traverseBoundary (c : Chip) : Chip :=
  let c := (List.range 11).foldl (fun c core => if coreFailed c core then c else (c.endHolds core).decimate core) c
  let c := { c.injectBoundary with loops := c.injectBoundary.loops.map (fun p =>
      if p.2.mode = modeTrack && p.2.verified && decide (c.tickId - p.2.verifiedAt ≥ 8192 * 128) then (p.1, { p.2 with fails := 0 }) else p) }
  (List.range 11).foldl (fun c core => if c.loops.any (fun p => p.1 / 512 = core) then c.rebuild core else c) c

end Sys2Proof.Machine
end

