-- ==== Sys2Proof/Machine/Lanes.lean ====
section
/-! DEFINITION. Lanes and links: the plan in force, the states of Tables 9.2 and 9.3, removal, light, training, and the
operator's link controls (R238–R241, R252–R258, R265, R275, R310). -/
namespace Sys2Proof.Machine

/-! ### The plan in force (R261, R265, Table 10.2) -/

def planMode (b : Nat) : Nat := fld b 5 4
def planFibre (b : Nat) : Nat := fld b 1 0
def planOut (b : Nat) : Nat := fld b 3 2
def planHop (b : Nat) : Nat := fld b 7 6

def Chip.engine (c : Chip) (k : Nat) : Engine := Tbl.get c.engines {} k

def Chip.updEngine (c : Chip) (k : Nat) (f : Engine → Engine) : Chip := { c with engines := Tbl.put c.engines k (f (c.engine k)) }

/-- The entry of lane `i` that its rings follow: STEER_ACTIVE of its engine, or the plan before a re-steer until the boundary at
which the changed lanes are dropped (Table 10.7 steps 1 and 2). -/
def Chip.planByte (c : Chip) (i : Nat) : Nat :=
  let act := c.blob modInst (atIdx Obj.STEER_ACTIVE (i / 32))
  match (c.engine (i / 32)).steer with
  | some st => if st.dropped then byteAt act (i % 32) else byteAt st.old (i % 32)
  | none => byteAt act (i % 32)

/-- The inbound fibre of a lane, and the fibre it was planned for, which differ after an ADAPT move (R252). -/
def Chip.physFibre (c : Chip) (i : Nat) : Nat := 4 * (i / 32) + planFibre (c.planByte i)
def Chip.logFibre (c : Chip) (i : Nat) : Nat := 4 * (i / 32) + (c.engine (i / 32)).perm.getD (planFibre (c.planByte i)) 0

/-- The notch chiplet of an engine's die: 0 for OE0, OE1, OE4, OE5 (R278). -/
def notchOf (k : Nat) : Nat := if k % 4 < 2 then 0 else 1

/-- The loop core that runs an engine's rings (R261, R288). -/
def Chip.laneCore (c : Chip) (k : Nat) : Nat :=
  if c.reg (Obj.ENGINE_STATE + k) = 1 || (c.engine k).fallback then 8 + notchOf k else k

/-- The engine that a loop core serves. -/
def Chip.coreEngine (c : Chip) (core : Nat) : Option Nat := (List.range 8).find? (fun k => c.laneCore k = core)

/-- Loop instances of a lane's rings on fibre index `j`. -/
def addInst (i j : Nat) : Nat := 4 * (i % 32) + j
def dropInst (i j : Nat) : Nat := 128 + 4 * (i % 32) + j

/-- The selected add and drop rings of a lane: core, instance. -/
def Chip.addRing (c : Chip) (i : Nat) : Nat × Nat :=
  let b := c.planByte i
  (c.laneCore (i / 32), addInst i (if planMode b = 2 then planOut b else planFibre b))

def Chip.dropRing (c : Chip) (i : Nat) : Nat × Nat := (c.laneCore (i / 32), dropInst i (planFibre (c.planByte i)))

/-- The lane that has selected a ring. -/
def Chip.ringLane (c : Chip) (core inst : Nat) : Option Nat :=
  match c.coreEngine core with
  | none => none
  | some k =>
    let i := 32 * k + inst % 128 / 4
    if planMode (c.planByte i) = 0 || inst ≥ 256 then none
    else if c.addRing i = (core, inst) || c.dropRing i = (core, inst) then some i else none

/-- The wavelength index of a lane (R264). -/
def laneWave (i : Nat) : Nat := i % 16

/-- Whether a ring is in TRACK. -/
def Chip.tracks (c : Chip) (r : Nat × Nat) : Bool := (c.loop r.1 r.2).mode = modeTrack

/-- Whether the Col pair of a fibre is in ENGINE or NOTCH (R272). -/
def Chip.colOpen (c : Chip) (f : Nat) : Bool :=
  let st := c.reg (Obj.COL_STATE + f / 2)
  st = 1 || st = 2

/-! ### Leaving a link (R241, R254, R257) -/

def Chip.linkEvent (c : Chip) (l ty : Nat) (fs : List (Nat × Nat)) : Chip := c.raise ty ((c.link l).part.getD 0xFF) fs

def Chip.laneEvent (c : Chip) (i ty : Nat) : Chip := c.raise ty ((c.lanePart i).getD 0xFF) []

/-- The lanes of a link that are ACTIVE, PAUSED or waiting to join stop: they are READY, and windows are cancelled (Table 9.2, R256). -/
def Chip.quietLanes (c : Chip) (l : Nat) : Chip :=
  let c := (c.liveOf l).foldl Chip.calLeave c
  { c with lanes := c.lanes.map (fun p =>
      if p.2.link = some l then
        (p.1, { p.2 with state := if p.2.state = laneActive || p.2.state = lanePaused then laneReady else p.2.state,
                         joinAt := none, swapAt := none, swapAcked := false })
      else p) }

/-- A link enters DOWN and gives up its index (R239). -/
def Chip.linkGone (c : Chip) (l : Nat) : Chip :=
  let c := c.linkEvent l 0x0702 []
  let c := c.quietLanes l
  { c with links := Tbl.del c.links l
           lanes := c.lanes.map (fun p => if p.2.link = some l then (p.1, { p.2 with link := none }) else p) }

/-- A link that has lost a lane: DEGRADED, or DOWN where no lane is ACTIVE or PAUSED (R241, R256). -/
def Chip.linkLost (c : Chip) (l : Nat) : Chip :=
  let x := c.link l
  if !x.usable then c
  else if (c.liveOf l).isEmpty then c.linkGone l
  else c.updLink l (fun x => { x with state := linkDegraded })

/-- A lane enters FAILED: out of its link, and out of LANE_MASK at the next boundary (R20, R238). -/
def Chip.failLane (c : Chip) (i : Nat) : Chip :=
  let x := c.lane i
  if x.state = laneFailed then c
  else
    let c := c.updLane i (fun x => { x with state := laneFailed, link := none, joinAt := none, swapAt := none, waiting := false })
    let c := c.extSet (Obj.LANE_MASK + i / 64) (putBit (c.extSoon (Obj.LANE_MASK + i / 64)) (i % 64) false)
    let c := c.calLeave i
    let c := c.laneEvent i 0x0706
    match x.link with
    | some l => c.linkLost l
    | none => c

/-- Causes a LANE_DROP carries: those of R254 in its order, then a re-steer and an engine fallback. -/
def causeLock : Nat := 1
def causeUncorr : Nat := 2
def causeBer : Nat := 3
def causeRing : Nat := 4
def causeSteer : Nat := 5
def causeFallback : Nat := 6

/-- A lane is removed from its link and enters `st`; the other end is told where `tell` (R254, R273). -/
def Chip.takeLane (c : Chip) (i st cause : Nat) (tell : Bool) : Chip :=
  match (c.lane i).link with
  | none => c.updLane i (fun x => { x with state := st, joinAt := none, waiting := false, seen := false })
  | some l =>
    let c := c.updLane i (fun x => { x with state := st, link := none, joinAt := none, swapAt := none, swapAcked := false, seen := false })
    let c := if tell then c.message l 3 msgLaneDrop [(1, i), (1, cause)] else c
    c.linkLost l

/-- A failing lane is removed: counted, RETRAIN, or FAILED after LANE_RETRAIN_LIMIT retrains in the epoch (R254, Table 9.2). -/
def Chip.degradeLane (c : Chip) (i cause : Nat) (tell : Bool) : Chip :=
  let x := c.lane i
  if x.state != laneActive && x.state != lanePaused then c
  else
    let c := (c.bump (Obj.CNT_LANE_DEGRADES + i)).laneEvent i 0x0705
    let c := (c.takeLane i laneRetrain cause tell).calLeave i
    if x.retrains ≥ c.reg Obj.LANE_RETRAIN_LIMIT then c.failLane i
    else c.updLane i (fun x => { x with retrains := x.retrains + 1 })

/-- A ring that a lane has selected has left TRACK: the lane is degraded, or trains again (R254, Table 9.2). -/
def Chip.ringLeft (c : Chip) (core inst : Nat) : Chip :=
  match c.ringLane core inst with
  | none => c
  | some i =>
    let c := c.calLeave i
    let st := (c.lane i).state
    if st = laneActive then c.degradeLane i causeRing true
    else if st = laneReady then (c.takeLane i laneTraining causeRing false)
    else c

/-- The flit layer of a link stops: RETRAIN or QUARANTINE (R246, R253, R257). -/
def Chip.linkStop (c : Chip) (l st : Nat) : Chip := (c.quietLanes l).updLink l (fun x => { x.clear with state := st })

/-- A link enters RETRAIN (R241). -/
def Chip.linkRetrainNow (c : Chip) (l : Nat) : Chip :=
  if (c.link l).usable then
    ((c.linkStop l linkRetrain).bump (Obj.CNT_LINK_RETRAINS + l)).linkEvent l 0x0707 []
  else c

/-- A link enters QUARANTINE with a reason: 1 VERSION, 2 PEER_MISMATCH, 3 TAG, 4 OPERATOR (R253). -/
def Chip.quarantine (c : Chip) (l reason : Nat) : Chip :=
  ((c.linkStop l linkQuar).updLink l (fun x => { x with quar := reason })).linkEvent l 0x0703 []

/-- A quarantined link returns to DISCOVER, and each lane's next hello counts as its first (R253). -/
def Chip.releaseLink (c : Chip) (l : Nat) : Chip :=
  if (c.link l).state != linkQuar then c
  else
    let c := c.updLink l (fun x => { x with state := linkDiscover, quar := 0 })
    { c with lanes := c.lanes.map (fun p => if p.2.link = some l then (p.1, { p.2 with seen := false }) else p) }

/-! ### Training (R238, R249) -/

/-- A lane enters TRAINING: DARK, planned as LINK, light present, its rings in TRACK, its fibre pair open (R238, R272). -/
def Chip.tryTrain (c : Chip) (i : Nat) : Chip :=
  let x := c.lane i
  if x.state = laneDark && x.light && planMode (c.planByte i) = 1 && c.tracks (c.addRing i) && c.tracks (c.dropRing i) &&
      c.colOpen (c.physFibre i) then
    c.updLane i (fun x => { x with state := laneTraining, seen := false, peerSeen := false })
  else c

/-- A training check fails: the third in one epoch fails the lane (Table 9.2). -/
def Chip.checkFailed (c : Chip) (i : Nat) : Chip :=
  let c := c.updLane i (fun x => { x with fails := x.fails + 1 })
  if (c.lane i).fails ≥ 3 then c.failLane i else c

/-- A lane completes lock, adaptation and the bit-error check, or fails it. -/
def Chip.trainingDone (c : Chip) (i : Nat) (pass : Bool) : Chip :=
  let st := (c.lane i).state
  if st != laneTraining && st != laneRetrain then c
  else if pass then c.updLane i (fun x => { x with state := laneReady, seen := false, peerSeen := false })
  else c.checkFailed i

def execLaneTrainingDone (lane : Fin 256) (pass : Bool) (s : State) : Host.Outcome State Fault Refusal :=
  done (s.on (fun c => c.trainingDone lane.val pass))

/-! ### Light (R238, R275, R310) -/

/-- Whether a notice covers the engine of a fibre. -/
def Chip.noticed (c : Chip) (f : Nat) : Bool := bitAt c.notice (f / 4)

/-- Light is present on a lane's inbound fibre: a held drop ring searches from its output with the full span, and a lane whose
rings are in TRACK trains. -/
def Chip.lightOn (c : Chip) (i : Nat) : Chip :=
  let c := { c with darkFibres := c.darkFibres.filter (· != c.physFibre i) }
  let c := c.updLane i (fun x => { x with light := true })
  let r := c.dropRing i
  let l := c.loop r.1 r.2
  let c := if l.mode = modeHold && l.held = 1 && c.mayTrigger r.1 r.2 2 then
      (c.seek r.1 r.2 l.output false true).trigger r.1 r.2 2 id
    else c
  c.tryTrain i

def execLightPresent (lane : Fin 256) (s : State) : Host.Outcome State Fault Refusal :=
  done (s.on (fun c => c.lightOn lane.val))

/-- Light is gone on a lane: its drop ring holds, and the lane is DARK or degraded. -/
def Chip.lightOff (c : Chip) (i : Nat) : Chip :=
  let c := c.updLane i (fun x => { x with light := false })
  let r := c.dropRing i
  let l := c.loop r.1 r.2
  let c := if l.mode = modeTrack then c.calLeave i else c
  let c := if (l.mode = modeSearch || l.mode = modeTrack) && c.mayTrigger r.1 r.2 2 then
      c.trigger r.1 r.2 2 (fun l => l.hold 1 c.tickId)
    else c
  let st := (c.lane i).state
  if st = laneActive then c.degradeLane i causeRing true
  else if st = laneTraining || st = laneReady then c.takeLane i laneDark causeRing false
  else c

/-- The planned lanes whose inbound side lies on a fibre. -/
def Chip.fibreLanes (c : Chip) (f : Nat) : List Nat :=
  ((List.range 32).map (fun b => 32 * (f / 4) + b)).filter (fun i => planMode (c.planByte i) != 0 && c.physFibre i = f)

/-- Inbound power on a fibre has been below −20 dBm for 10 µs. -/
def Chip.lightLost (c : Chip) (f : Nat) : Chip :=
  let first := !c.darkFibres.contains f
  let c := { c with darkFibres := if first then c.darkFibres ++ [f] else c.darkFibres }
  let c := if first && !c.noticed f then (c.bump (Obj.CNT_LIGHT_LOSS + f)).raiseMod 0x080B [] else c
  (c.fibreLanes f).foldl Chip.lightOff c

def execLightLost (fibre : Fin 32) (s : State) : Host.Outcome State Fault Refusal :=
  done (s.on (fun c => c.lightLost fibre.val))

/-! ### Degrade and joining (R251, R254) -/

/-- Whether a window that the module has acknowledged is open on a lane (R255). -/
def Chip.peerWindow (c : Chip) (i : Nat) : Bool := (c.lane i).peerSwapAt = some c.frame && decide (c.tick < 2)

/-- A receiver's lane fails outside a swap window; `cause` is 1 lock, 2 codewords, 3 error ratio, 4 ring. Loss of lock on a
READY lane trains it again, and a lane whose window the module has acknowledged ignores it in the window (R255). -/
def Chip.laneFails (c : Chip) (i cause : Nat) : Chip :=
  let x := c.lane i
  if x.state = laneReady && cause = causeLock then c.takeLane i laneTraining causeLock false
  else if c.peerWindow i then c
  else if x.state = laneActive then c.degradeLane i cause true
  else c

def execLaneDegrade (lane : Fin 256) (cause : Fin 4) (s : State) : Host.Outcome State Fault Refusal :=
  done (s.on (fun c =>
    if cause.val + 1 = causeUncorr && decide ((c.lane lane.val).uncorr ≤ c.reg Obj.LANE_UNCORR_LIMIT) then c
    else c.laneFails lane.val (cause.val + 1)))

/-- The lane of a link that the peer knows by a number. -/
def Chip.peerLaneOf (c : Chip) (l n : Nat) : Option Nat :=
  (c.lanes.find? (fun p => p.2.link = some l && p.2.peerLane = n)).map (·.1)

/-- The other end has removed a lane (R254). -/
def Chip.laneDropIn (c : Chip) (l n : Nat) : Chip :=
  match c.peerLaneOf l n with
  | none => c
  | some i => if (c.lane i).state = laneReady then c.updLane i (fun x => { x with joinAt := none }) else c.degradeLane i causeLock false

def execLaneDropReceived (link : Fin 64) (lane : Byte) (cause : Byte) (s : State) : Host.Outcome State Fault Refusal :=
  let _ := cause
  done (s.on (fun c => c.laneDropIn link.val lane.toNat))

/-- The other end adds a lane from a frame on. -/
def Chip.laneAddIn (c : Chip) (l n f : Nat) : Chip :=
  match c.peerLaneOf l n with
  | none => c
  | some i => if (c.lane i).state = laneReady then c.updLane i (fun x => { x with joinAt := some f }) else c

def execLaneAddReceived (link : Fin 64) (lane : Byte) (frame : W48) (s : State) : Host.Outcome State Fault Refusal :=
  done (s.on (fun c => c.laneAddIn link.val lane.toNat frame.toNat))

/-- A lane becomes ACTIVE in its link; a link with all its lanes again is UP (R241). -/
def Chip.laneJoins (c : Chip) (i l : Nat) : Chip :=
  let c := c.updLane i (fun x => { x with state := laneActive, joinAt := none })
  let n := (c.liveOf l).length
  let c := c.updLink l (fun x => { x with state := if n ≥ x.full then linkUp else x.state, full := max x.full n })
  Chip.pumpLink l ((c.link l).queue.length) c

/-- Lanes whose frame has come join at its boundary. -/
def Chip.joinBoundary (c : Chip) : Chip :=
  c.lanes.foldl (fun c p =>
    let x := c.lane p.1
    match x.link, x.joinAt with
    | some l, some f => if f ≤ c.frame && x.state = laneReady && (c.link l).usable then c.laneJoins p.1 l else c
    | _, _ => c) c

/-! ### Timers and the operator (R241, R246, R253) -/

def execLinkRetrainTimeout (link : Fin 64) (s : State) : Host.Outcome State Fault Refusal :=
  done (s.on (fun c => if (c.link link.val).state = linkRetrain then c.linkGone link.val else c))

/-- A write of LINK_CONTROL: [5:0] link, [9:8] action, other bits zero. -/
def effLinkControl : Eff := effOn (fun _ bs c =>
  let v := leNat bs
  let l := fld v 5 0
  let a := fld v 9 8
  let st := (c.link l).state
  if fld v 15 10 != 0 || fld v 7 6 != 0 || a = 0 then (c, rcRange)
  else if a = 1 then (if st = linkQuar then (c.releaseLink l, rcOK) else (c, rcState))
  else if a = 2 then (if (c.link l).usable then (c.linkRetrainNow l, rcOK) else (c, rcState))
  else if st = linkDown then (c, rcState)
  else (c.quarantine l 4, rcOK))

def linkControl (r : Req) (link action : Nat) (s : State) : State :=
  s.rowWrite r Obj.LINK_CONTROL (wr 2 (link + action * 256)) effLinkControl

def execLinkControlRelease (r : Req) (link : Fin 64) (s : State) : Host.Outcome State Fault Refusal :=
  done (linkControl r link.val 1 s)

def execLinkControlRetrain (r : Req) (link : Fin 64) (s : State) : Host.Outcome State Fault Refusal :=
  done (linkControl r link.val 2 s)

def execLinkControlQuarantine (r : Req) (link : Fin 64) (s : State) : Host.Outcome State Fault Refusal :=
  done (linkControl r link.val 3 s)

/-- A write to the expected map of fibre `f` releases its quarantined links (R253). -/
def effExpect (key f : Nat) : Eff := effOn (fun _ bs c =>
  let c := c.setReg (key + f) (leNat bs)
  (((List.range 64).filter (fun l => (c.link l).fibre = f)).foldl Chip.releaseLink c, rcOK))

def execExpectMapWrite (r : Req) (fibre : Fin 32) (peer : Bool) (value : W64) (s : State) : Host.Outcome State Fault Refusal :=
  let key := if peer then Obj.EXPECT_PEER else Obj.EXPECT_FIBRE
  done (s.rowWrite r (key + fibre.val) (wr (if peer then 8 else 1) value.toNat) (effExpect key fibre.val))

/-- Whether a partition owns a lane slot on a planned fibre (R220, R258). -/
def Chip.ownsFibre (c : Chip) (k f : Nat) : Bool :=
  (List.range 32).any (fun b => let i := 32 * (f / 4) + b; bitAt (c.part k).lanes i && planMode (c.planByte i) = 1 && c.logFibre i = f)

/-- A write of a route entry of partition `inst` (R258, Table 9.10). -/
def effRouteEntry (key : Nat) : Eff := effOn (fun inst bs c =>
  let e := leNat bs
  if fld e 127 80 != 0 || fld e 71 69 != 0 then (c, rcRange)
  else if bitAt e 72 && (!c.ownsFibre inst (fld e 68 64) || (bitAt e 74 && !c.ownsFibre inst (fld e 79 75))) then (c, rcRange)
  else (c.setBlob inst key bs, rcOK))

def execRouteEntryWrite (r : Req) (handle : Fin 4096) (entry : BitVec 128) (s : State) : Host.Outcome State Fault Refusal :=
  let key := Obj.ROUTE_ENTRY + handle.val / 256 * 256 + handle.val % 256
  done (s.rowWrite r key (wr 16 entry.toNat) (effRouteEntry key))

end Sys2Proof.Machine
end

