-- ==== Sys2Proof/Machine/Optics.lean ====
section
/-! DEFINITION. Light paths: ratio plans and re-steering, Col elements, engine fallback, lasers and their spares
(R260–R287). -/
namespace Sys2Proof.Machine

/-! ### Rings under a plan (R262, R273, R305) -/

/-- A parked ring is OPEN at the output of its map's parking place. -/
def Chip.parkRing (c : Chip) (r : Nat × Nat) : Chip := c.updLoop r.1 r.2 (fun l => l.open_ (c.mapOf r.1 r.2 16))

/-- A ring searches from its map's output for the lane's wavelength. -/
def Chip.seekRing (c : Chip) (r : Nat × Nat) (ch : Nat) : Chip := c.seek r.1 r.2 (c.mapOf r.1 r.2 ch) false true

/-- A drop ring without inbound light is preset from its map and held. -/
def Chip.presetRing (c : Chip) (r : Nat × Nat) (ch : Nat) : Chip :=
  c.updLoop r.1 r.2 (fun l => { (l.open_ (c.mapOf r.1 r.2 ch)).hold 1 c.tickId with output := c.mapOf r.1 r.2 ch })

/-- The new rings of a lane that its plan uses: the add ring searches on the engine's own light, the drop ring on inbound light
where there is any (Table 10.7 step 4). -/
def Chip.lightRings (c : Chip) (i : Nat) (lit : Bool) : Chip :=
  let m := planMode (c.planByte i)
  if m = 0 || (c.lane i).state = laneFailed then c
  else
    let c := c.updLane i (fun x => { x with light := lit })
    let c := c.seekRing (c.addRing i) (laneWave i)
    if lit then c.seekRing (c.dropRing i) (laneWave i) else c.presetRing (c.dropRing i) (laneWave i)

/-- Whether the inbound tap of a fibre shows light. -/
def Chip.litFibre (c : Chip) (f : Nat) : Bool := (c.fibreLanes f).any (fun i => (c.lane i).light)

def engineLanes (k : Nat) : List Nat := (List.range 32).map (fun b => 32 * k + b)

/-! ### Col elements (R271, R272) -/

/-- A Col pair is driven to a state: 0 BYPASS, 1 ENGINE, 2 NOTCH. It is MOVING until it gets there, and its lanes are DARK. -/
def Chip.moveColNow (c : Chip) (n target : Nat) : Chip :=
  let st := c.reg (Obj.COL_STATE + n)
  if st = target || (st = 3 && Tbl.get c.colTarget 0 n = target) then c
  else
    let c := { (c.setReg (Obj.COL_STATE + n) 3) with colTarget := Tbl.put c.colTarget n target }
    ((c.fibreLanes (2 * n)) ++ c.fibreLanes (2 * n + 1)).foldl (fun c i =>
      let s := (c.lane i).state
      if s = laneFailed || s = laneDark || s = laneExpress then c else c.takeLane i laneDark causeLock false) c

/-- A pair starts to move, unless SUP is down (R400). -/
def Chip.moveCol (c : Chip) (n target : Nat) : Chip := if c.supDown then c else c.moveColNow n target

/-- The state a pair's engine calls for; a forced pair is in BYPASS. -/
def Chip.colWanted (c : Chip) (n : Nat) : Nat :=
  let k := n / 2
  if bitAt (c.reg Obj.COL_FORCE_BYPASS) n then 0
  else if c.extSoon (Obj.ENGINE_STATE + k) = 2 then c.reg Obj.ENGINE_FAIL_COL
  else if (c.engine k).fallback || c.reg (Obj.ENGINE_STATE + k) = 1 then 2
  else 1

/-- A move completes: counted, COL_MOVED, and lanes with light may train. -/
def Chip.colMoved (c : Chip) (n : Nat) : Chip :=
  if c.reg (Obj.COL_STATE + n) != 3 then c
  else
    let c := ((c.setReg (Obj.COL_STATE + n) (Tbl.get c.colTarget 0 n)).bump Obj.CNT_COL_MOVES).raiseMod 0x0803 []
    ((c.fibreLanes (2 * n)) ++ c.fibreLanes (2 * n + 1)).foldl Chip.tryTrain c

def execColMoved (pair : Fin 16) (s : State) : Host.Outcome State Fault Refusal := done (s.on (fun c => c.colMoved pair.val))

/-- A write of COL_FORCE_BYPASS. -/
def effColForce : Eff := effOn (fun _ bs c =>
  let old := c.reg Obj.COL_FORCE_BYPASS
  let v := leNat bs
  let c := c.setReg Obj.COL_FORCE_BYPASS v
  ((List.range 16).foldl (fun c n => if bitAt old n = bitAt v n then c else c.moveCol n (c.colWanted n)) c, rcOK))

def execColForceBypass (r : Req) (mask : W16) (s : State) : Host.Outcome State Fault Refusal :=
  done (s.rowWrite r Obj.COL_FORCE_BYPASS (wr 2 mask.toNat) effColForce)

/-- The MEMS drive supply is lost: every pair goes to BYPASS by spring return. -/
def execMemsDriveSupplyLost (s : State) : Host.Outcome State Fault Refusal :=
  done (s.on (fun c => (List.range 16).foldl (fun c n => c.moveColNow n 0) c))

/-! ### Re-steering (R265–R267, R273, R276) -/

/-- The plan of a ratio (R267). -/
def fillRatio (n0 n1 n2 n3 : Nat) : List Byte :=
  ((List.replicate n0 0x10#8 ++ List.replicate n1 0x11#8 ++ List.replicate n2 0x12#8 ++ List.replicate n3 0x13#8) ++ zeros 32).take 32

def planAt (p : List Byte) (b : Nat) : Nat := byteAt p b

/-- Whether two used entries of one wavelength meet on one fibre, with `f` the fibre index an entry uses, if any. -/
def waveClash (p : List Byte) (f : Nat → Option Nat) : Bool :=
  (List.range 16).any (fun b =>
    match f (planAt p b), f (planAt p (b + 16)) with
    | some x, some y => x = y
    | _, _ => false)

def outIdx (e : Nat) : Option Nat := if planMode e = 1 then some (planFibre e) else if planMode e = 2 then some (planOut e) else none
def inIdx (e : Nat) : Option Nat := if planMode e = 1 || planMode e = 2 then some (planFibre e) else none

/-- The field checks of code 5. -/
def entryBad (e : Nat) : Bool :=
  match planMode e with
  | 0 => planFibre e != 0 || planOut e != 0 || planHop e != 0
  | 1 => planOut e != 0 || planHop e != 0
  | 2 => planFibre e = planOut e || planHop e = 0 || planHop e = 3
  | _ => true

/-- The lowest code of Table 10.3 that a plan breaks on an engine, 0 for none. -/
def Chip.planRefusal (c : Chip) (k : Nat) (p : List Byte) : Nat :=
  let e := c.engine k
  let owned := fun (i : Nat) => (c.lanePart i).isSome
  let bs := List.range 32
  if e.steer.isSome || (e.fallback && c.reg (Obj.ENGINE_STATE + k) = 0 && c.extSoon (Obj.ENGINE_STATE + k) != 2) then 1
  else if waveClash p outIdx then 2
  else if waveClash p inIdx then 3
  else if bs.any (fun b => planMode (planAt p b) = 2 && owned (32 * k + b)) then 4
  else if bs.any (fun b => entryBad (planAt p b)) then 5
  else if bs.any (fun b => (planMode (planAt p b) = 1 || planMode (planAt p b) = 2) && (c.lane (32 * k + b)).state = laneFailed) then 6
  else if c.extSoon (Obj.ENGINE_STATE + k) = 2 then 7
  else 0

/-- A plan is refused: the reason, and STEER_REFUSED (R266). -/
def Chip.steerRefuse (c : Chip) (code : Nat) : Chip × Nat :=
  ((c.setReg Obj.STEER_REFUSE_REASON code).raiseMod 0x0802 [], rcRefused)

def Chip.staged (c : Chip) (k : Nat) : List Byte := fitTo 32 (c.blob modInst (atIdx Obj.STEER_STAGED k))

def Chip.activePlan (c : Chip) (k : Nat) : List Byte := fitTo 32 (c.blob modInst (atIdx Obj.STEER_ACTIVE k))

/-- Step 1 of a re-steer on one engine: the plan in force changes, and the changed lanes are named. -/
def Chip.steerEngine (c : Chip) (k token : Nat) (adapt : Bool) (p : List Byte) : Chip :=
  let old := c.activePlan k
  let changed := maskOf ((List.range 32).filter (fun b => planAt old b != planAt p b))
  let c := c.setBlob modInst (atIdx Obj.STEER_ACTIVE k) p
  let c := c.setReg (atIdx Obj.STEER_GEN k) (inc32 (c.reg (atIdx Obj.STEER_GEN k)))
  let c := c.setReg (atIdx Obj.STEER_TOKEN k) token
  c.updEngine k (fun e => { e with steer := some { changed := changed, token := token, adapt := adapt, old := old },
                                   perm := if adapt then e.perm else [0, 1, 2, 3] })

/-- A swap window that is announced or open on an engine. -/
def Chip.windowOn (c : Chip) (k : Nat) : Bool :=
  c.swaps.any (fun w => decide (w.window > 0) && (w.src = k || (w.src ≥ 8 && c.laneCore k = w.src)))

/-- A write of STEER_CONTROL is judged and applied, or held while a window is announced on a named engine (R266, R276). -/
def Chip.steerControl (c : Chip) (v : Nat) : Chip × Nat :=
  let ks := setBits 8 v
  match ks.find? c.windowOn with
  | some k => (c.updEngine k (fun e => { e with held := e.held ++ [(fld v 7 0, fld v 31 16)] }), rcOK)
  | none =>
    let codes := (ks.map (fun k => c.planRefusal k (c.staged k))).filter (· != 0)
    match codes with
    | a :: t => c.steerRefuse (t.foldl min a)
    | [] => if ks.isEmpty then (c, rcOK) else ((ks.foldl (fun c k => c.steerEngine k (fld v 31 16) false (c.staged k)) c).bump Obj.CNT_RESTEERS, rcOK)

def effSteerControl : Eff := effOn (fun _ bs c => if fld (leNat bs) 15 8 != 0 then (c, rcRange) else if c.reg Obj.LEASE_HOLDER = 0 then (c, rcState)
  else c.steerControl (leNat bs))

def execSteerControl (r : Req) (engines : Byte) (token : W16) (s : State) : Host.Outcome State Fault Refusal :=
  done (s.rowWrite r Obj.STEER_CONTROL (wr 4 (engines.toNat + token.toNat * 65536)) effSteerControl)

/-- A write of STEER_RATIO of engine `k`. -/
def effSteerRatio (k : Nat) : Eff := effOn (fun _ bs c =>
  let v := leNat bs
  let n := fun (i : Nat) => fld v (5 * i + 4) (5 * i)
  if fld v 31 20 != 0 then (c, rcRange)
  else if n 0 > 16 || n 1 > 16 || n 2 > 16 || n 3 > 16 || n 0 + n 1 + n 2 + n 3 > 32 then c.steerRefuse 8
  else (c.setBlob modInst (atIdx Obj.STEER_STAGED k) (fillRatio (n 0) (n 1) (n 2) (n 3)), rcOK))

def execSteerRatio (r : Req) (engine : Fin 8) (ratio : W32) (s : State) : Host.Outcome State Fault Refusal :=
  done (s.rowWrite r (atIdx Obj.STEER_RATIO engine.val) (wr 4 ratio.toNat) (effSteerRatio engine.val))

/-- Steps 2 to 4 on one engine at the boundary after acceptance: the changed lanes leave their links and are DARK, their old rings
are parked with their failures forgotten, and the new rings search. An engine that has failed only drops them. -/
def Chip.steerStep (c : Chip) (k : Nat) : Chip :=
  match (c.engine k).steer with
  | none => c
  | some st =>
    if st.dropped then c
    else
      let ls := (setBits 32 st.changed).map (fun b => 32 * k + b)
      let lit := (List.range 4).map (fun j => c.litFibre (4 * k + j))
      let c := ls.foldl (fun c i =>
        let a := c.addRing i
        let d := c.dropRing i
        let used := planMode (c.planByte i) != 0
        let c := if (c.lane i).state = laneFailed then c else (c.takeLane i laneDark causeSteer true).calLeave i
        let c := c.updLane i (fun x => { x with waiting := false, light := false })
        if used && !st.failed then
          ((c.parkRing a).parkRing d).updLoop a.1 a.2 (fun l => { l with fails := 0 }) |>.updLoop d.1 d.2 (fun l => { l with fails := 0 })
        else c) c
      let c := c.updEngine k (fun e => { e with steer := some { st with dropped := true } })
      if st.failed then c
      else ls.foldl (fun c i => c.lightRings i (lit.getD (planFibre (c.planByte i)) false)) c

/-- The result class of a changed lane (R274): 0 READY, 1 AWAIT_LIGHT, 2 SETTLING, 3 FAILED. A lane that the plan leaves DARK is
in none. -/
def Chip.steerClass (c : Chip) (st : Steer) (i : Nat) : Option Nat :=
  let x := c.lane i
  let d := c.dropRing i
  let l := c.loop d.1 d.2
  if st.failed || x.state = laneFailed then some 3
  else if planMode (c.planByte i) = 0 then none
  else if x.state = laneReady || x.state = laneActive || x.state = lanePaused || (x.state = laneExpress && x.light) then some 0
  else if c.tracks (c.addRing i) && l.mode = modeHold && l.held = 1 then some 1
  else some 2

/-- Step 7: STEER_DONE, and the result objects (R274). -/
def Chip.steerDone (c : Chip) (k : Nat) : Chip :=
  match (c.engine k).steer with
  | none => c
  | some st =>
    if !st.dropped then c
    else
      let m := fun (cl : Nat) => maskOf ((setBits 32 st.changed).filter (fun b => c.steerClass st (32 * k + b) = some cl))
      let gen := c.reg (atIdx Obj.STEER_GEN k)
      let ev := [(1, k), (4, gen), (2, st.token), (4, m 0), (4, m 1), (4, m 2), (4, m 3)]
      let c' := ((((c.setReg (atIdx Obj.STEER_READY k) (m 0)).setReg (atIdx Obj.STEER_AWAIT_LIGHT k) (m 1)).setReg
        (atIdx Obj.STEER_SETTLING k) (m 2)).setReg (atIdx Obj.STEER_FAILED k) (m 3)).updEngine k (fun e => { e with steer := none })
      c'.raiseMod 0x0801 ev

def execSteerDone (engine : Fin 8) (s : State) : Host.Outcome State Fault Refusal := done (s.on (fun c => c.steerDone engine.val))

/-! ### Notices (R275) -/

def effOcsNotice : Eff := effOn (fun _ bs c =>
  let v := leNat bs
  let d := fld v 23 8
  if fld v 31 24 != 0 || d = 0 || d > 1000 then (c, rcRange) else ({ c with notice := fld v 7 0 }, rcOK))

def execOcsNotice (r : Req) (engines : Byte) (ms : W16) (s : State) : Host.Outcome State Fault Refusal :=
  done (s.rowWrite r Obj.OCS_NOTICE (wr 4 (engines.toNat + ms.toNat * 256)) effOcsNotice)

def execOcsNoticeExpire (s : State) : Host.Outcome State Fault Refusal := done (s.on (fun c => { c with notice := 0 }))

/-! ### Lasers (R280–R286) -/

def laserKey (s n : Nat) : Nat := atIdx Obj.LASER_STATE s + n
def spareKey (s x : Nat) : Nat := atIdx Obj.SPARE_STATE s + x
def laserDropKey (s n : Nat) : Nat := atIdx Obj.LASER_DROP s + n

/-- The engine whose lanes a source feeds: its own, or the one a notch chiplet stands in for. -/
def Chip.sourceEngine (c : Chip) (s : Nat) : Option Nat :=
  if s < 8 then (if c.laneCore s = s then some s else none) else c.coreEngine s

/-- The two lanes a wavelength of a source feeds (R264). An EXPRESS lane carries no local light. -/
def Chip.fedLanes (c : Chip) (s n : Nat) : List Nat :=
  match c.sourceEngine s with
  | none => []
  | some k => [32 * k + n, 32 * k + n + 16].filter (fun i => planMode (c.planByte i) != 2)

def Chip.freeSpare (c : Chip) (s : Nat) : Option Nat := (List.range 2).find? (fun x => c.reg (spareKey s x) = 0xFF)

def Chip.swapOf (c : Chip) (s n : Nat) : Option Swap := c.swaps.find? (fun w => w.src = s && w.wave = n)

/-- The wavelength-lock loop of laser `l` of source `s` (0–15 Dl, 16 and 17 the spares) searches from its present output
(Table 11.3, Table 11.7). -/
def Chip.seekLaser (c : Chip) (s l : Nat) : Chip := c.seek 10 (18 * s + l) (c.loop 10 (18 * s + l)).output false true

/-- A laser is switched off: its loops are OPEN. -/
def Chip.laserOff (c : Chip) (s l : Nat) : Chip :=
  (c.updLoop 10 (18 * s + l) (fun x => x.open_ x.output)).updLoop 10 (180 + 18 * s + l) (fun x => x.open_ x.output)

/-- Swaps of a source that have not switched are cancelled and their spares released (R286). -/
def Chip.cancelSwaps (c : Chip) (s : Nat) : Chip :=
  let ws := c.swaps.filter (fun w => w.src = s && !w.opened)
  let c := ws.foldl (fun c w => c.setReg (spareKey s w.spare) 0xFF) c
  let c := ws.foldl (fun c w => (c.fedLanes s w.wave).foldl (fun c i => c.updLane i (fun x => { x with swapAt := none, swapAcked := false })) c) c
  { c with swaps := c.swaps.filter (fun w => !(w.src = s && !w.opened)) }

/-! ### Engine failure and fallback (R277–R279) -/

/-- The domain of an engine that is not MAIN is gated, unless it is in FAULT (R381). -/
def Chip.gateEngine (c : Chip) (k : Nat) : Chip :=
  if c.reg (Obj.DOMAIN_STATE + (22 + k)) = 3 then c else c.setReg (Obj.DOMAIN_STATE + (22 + k)) 2

/-- An engine is lost (R279). -/
def Chip.loseEngine (c : Chip) (k : Nat) : Chip :=
  let c := c.extSet (Obj.ENGINE_STATE + k) 2
  let c := (engineLanes k).foldl Chip.failLane c
  let c := [2 * k, 2 * k + 1].foldl (fun c n => c.moveCol n (c.colWanted n)) c
  c.raiseMod 0x0806 []

/-- Step 1 of a fallback: the engine's lanes are dropped and DARK, its swaps cancelled; the notch chiplet begins (Table 10.9). -/
def Chip.fallback (c : Chip) (k : Nat) : Chip :=
  let c := (engineLanes k).foldl (fun c i =>
    let st := (c.lane i).state
    if st = laneFailed then c
    else (if st = laneDark then c else c.takeLane i laneDark causeFallback true).updLane i (fun x => { x with light := false })) c
  let c := c.cancelSwaps k
  let c := (c.calReject k).calReject (10 + k)
  let c := c.setReg (Obj.NOTCH_STATE + notchOf k) 1
  let c := c.updEngine k (fun e => { e with fallback := true, applied := false })
  [2 * k, 2 * k + 1].foldl (fun c n => c.moveCol n (c.colWanted n)) c

/-- Engine `k` is declared failed (R277). -/
def Chip.declareFailed (c : Chip) (k : Nat) : Chip :=
  if (c.engine k).declared || c.extSoon (Obj.ENGINE_STATE + k) = 2 then c
  else
    let c := c.setReg Obj.ENGINE_FAIL_RECORD (putBit (c.reg Obj.ENGINE_FAIL_RECORD) k true)
    let c := c.raiseMod 0x0804 []
    let c := c.updEngine k (fun e => { e with declared := true, steer := e.steer.map (fun st => { st with failed := true }) })
    let c := c.gateEngine k
    if c.reg Obj.NOTCH_EN = 1 && c.reg (Obj.NOTCH_STATE + notchOf k) = 0 then c.fallback k
    else (c.cancelSwaps k).loseEngine k

def execEngineFailed (engine : Fin 8) (s : State) : Host.Outcome State Fault Refusal :=
  done (s.on (fun c => c.declareFailed engine.val))

def effEngineRetire : Eff := effOn (fun _ bs c => if leNat bs ≥ 8 then (c, rcRange) else (c.declareFailed (leNat bs), rcOK))

def execEngineRetireReq (r : Req) (engine : Byte) (s : State) : Host.Outcome State Fault Refusal :=
  done (s.rowWrite r Obj.ENGINE_RETIRE_REQ (wr 1 engine.toNat) effEngineRetire)

/-- The spares of a source that feed a wavelength are switched on and lock; the others are free. -/
def Chip.seekSpares (c : Chip) (s : Nat) : Chip :=
  (List.range 2).foldl (fun c x =>
    let v := c.reg (spareKey s x)
    if 0x20 ≤ v && v < 0x30 then c.seekLaser s (16 + x) else c.setReg (spareKey s x) 0xFF) c

/-- Step 3 of a fallback at a boundary by which the notch chiplet's lasers are locked: it applies STEER_ACTIVE of the engine. -/
def Chip.notchApply (c : Chip) (k : Nat) : Chip :=
  let e := c.engine k
  let nc := 8 + notchOf k
  if !e.fallback || e.applied then c
  else if (List.range 16).any (fun n => c.reg (laserKey nc n) = 4) then
    ((List.range 16).foldl (fun c n => if c.reg (laserKey nc n) = 4 then (c.setReg (laserKey nc n) 0).seekLaser nc n else c) c).seekSpares nc
  else if (List.range 16).all (fun n => c.reg (laserKey nc n) = 2 || c.reg (laserKey nc n) = 3 || c.tracks (10, 18 * nc + n)) then
    (engineLanes k).foldl (fun c i => c.lightRings i false) (c.updEngine k (fun e => { e with applied := true }))
  else c

/-- The fallback completes: NOTCH_STATE and NOTCH_TARGET, and ENGINE_STATE at the next boundary. -/
def Chip.notchEngaged (c : Chip) (k : Nat) : Chip :=
  let n := notchOf k
  if (c.engine k).fallback && c.reg (Obj.NOTCH_STATE + n) = 1 then
    let c := (c.setReg (Obj.NOTCH_STATE + n) 2).setReg (Obj.NOTCH_TARGET + n) k
    let c := c.extSet (Obj.ENGINE_STATE + k) 1
    (c.bump Obj.CNT_ENGINE_FALLBACKS).raiseMod 0x0805 []
  else c

def execNotchEngaged (engine : Fin 8) (s : State) : Host.Outcome State Fault Refusal :=
  done (s.on (fun c => c.notchEngaged engine.val))

/-- A notch chiplet fails; an engine it stands in for is lost (R279). -/
def Chip.notchFails (c : Chip) (n : Nat) : Chip :=
  let st := c.reg (Obj.NOTCH_STATE + n)
  if st = 3 then c
  else
    let k := c.coreEngine (8 + n)
    let c := c.setReg (Obj.NOTCH_STATE + n) 3
    match k with
    | some k => if st = 0 then c else (((c.raiseMod 0x080C []).cancelSwaps (8 + n)).loseEngine k).setReg (Obj.NOTCH_TARGET + n) 0xFF
    | none => c

def execNotchFailed (notch : Fin 2) (s : State) : Host.Outcome State Fault Refusal := done (s.on (fun c => c.notchFails notch.val))

/-! ### Fading, failing and swapped lasers (R281–R286) -/

/-- A free spare is tuned to a wavelength, or SPARE_EXHAUSTED. An abrupt failure that no spare can mend costs the lanes of the
wavelength, and a dead comb line the engine (R281, R285). -/
def Chip.startSwap (c : Chip) (s n : Nat) (abrupt : Bool) : Chip :=
  match c.swapOf s n with
  | some _ =>
    { c with swaps := c.swaps.map (fun w => if w.src = s && w.wave = n then { w with abrupt := w.abrupt || abrupt } else w) }
  | none =>
    if c.supDown then c
    else match c.freeSpare s with
    | none =>
      let c := c.raiseMod 0x080A []
      if !abrupt then c
      else if s < 8 && c.reg Obj.LASER_SRC_ACTIVE = 1 then c.declareFailed s
      else (c.fedLanes s n).foldl Chip.failLane c
    | some x =>
      { ((c.setReg (spareKey s x) n).seekLaser s (16 + x)) with swaps := c.swaps ++ [{ src := s, wave := n, spare := x, abrupt := abrupt }] }

/-- The fade thresholds at a frame boundary, on the first crossing of each (Table 10.10). -/
def Chip.fade (c : Chip) (s n : Nat) (drop : W32) : Chip :=
  let c := c.setReg (laserDropKey s n) drop.toNat
  let key := s * 16 + n
  let th := fun (k : Nat) => BitVec.ofNat 32 (c.reg k)
  let fl := Tbl.get c.laserFlags 0 key
  let put := fun (c : Chip) (b : Nat) (v : Bool) => { c with laserFlags := Tbl.put c.laserFlags key (putBit (Tbl.get c.laserFlags 0 key) b v) }
  let own := fun (c : Chip) (from_ to_ : Nat) => 
    if c.reg (laserKey s n) = from_ || (c.reg (laserKey s n) = 4 && s < 8 && c.reg Obj.LASER_SRC_ACTIVE = 1) then c.setReg (laserKey s n) to_ else c
  let c :=
    if f32Le drop (th Obj.LASER_WARN_DB) && !bitAt fl 0 then (own (put c 0 true) 0 1).raiseMod 0x0807 []
    else if bitAt fl 0 && f32Lt (f32Add (th Obj.LASER_WARN_DB) (f32Div (f32OfInt 3) (f32OfInt 10))) drop then put c 0 false
    else c
  let c := if f32Le drop (th Obj.LASER_SWAP_DB) && !bitAt fl 1 then (put c 1 true).startSwap s n false else c
  if f32Le drop (th Obj.LASER_FAIL_DB) && !bitAt fl 2 then
    let c := (put c 2 true).raiseMod 0x0809 []
    if (c.swapOf s n).isSome then c
    else
      let c := if c.reg (laserKey s n) = 2 then c else c.setReg (laserKey s n) 3
      (c.fedLanes s n).foldl Chip.failLane c
  else c

/-- The lanes of a swap that get a window: ACTIVE in a link with SWAP_ANNOUNCE, and not given up on (R284). -/
def Chip.windowLanes (c : Chip) (w : Swap) : List Nat :=
  (c.fedLanes w.src w.wave).filter (fun i =>
    let x := c.lane i
    x.state = laneActive && !w.unannounced.contains i &&
    (match x.link with | some l => bitAt (c.link l).features 1 | none => false))

/-- Whether a swap's window may be announced now: no re-steer is moving its lanes, and no other lane of the same links has a
window (R256, R286). -/
def Chip.mayAnnounce (c : Chip) (w : Swap) : Bool :=
  let fed := c.fedLanes w.src w.wave
  let still := fed.all (fun i => [laneActive, laneDark, laneFailed, laneExpress].contains (c.lane i).state)
  let moving := match c.sourceEngine w.src with | some k => (c.engine k).steer.isSome | none => false
  let links := (c.windowLanes w).filterMap (fun i => (c.lane i).link)
  let busy := c.lanes.any (fun p => p.2.swapAt.isSome && !fed.contains p.1 && (match p.2.link with | some l => links.contains l | none => false))
  (!moving || still) && !busy

def sameSwap (a b : Swap) : Bool := a.src = b.src && a.wave = b.wave

def Chip.setSwap (c : Chip) (w : Swap) : Chip := { c with swaps := c.swaps.map (fun v => if sameSwap v w then w else v) }

/-- SWAP_ANNOUNCE for the window of the next frame goes on each link of the swap (R255, Table 10.11 step 3). -/
def Chip.announce (c : Chip) (w : Swap) : Chip :=
  if w.stage != 1 || w.abrupt || w.opened || !c.mayAnnounce w || c.tick > 112 then c
  else
    let n := c.frame + 1
    let c := c.setSwap { w with window := n }
    (c.windowLanes w).foldl (fun c i =>
      match (c.lane i).link with
      | none => c
      | some l =>
        (c.updLane i (fun x => { x with swapAt := some n, swapAcked := false, swapTries := x.swapTries + 1 })).message l 3
          msgSwapAnnounce [(1, i), (8, n)]) c

/-- The combiner switches from the old source to the spare: the laser is REPLACED, or a spare that fed before is off. -/
def Chip.combiner (c : Chip) (w : Swap) : Chip :=
  let old := (List.range 2).find? (fun x => x != w.spare && c.reg (spareKey w.src x) = w.wave + 0x20)
  let c := match old with
    | some x => (c.setReg (spareKey w.src x) 0xFE).laserOff w.src (16 + x)
    | none => (c.setReg (laserKey w.src w.wave) 2).laserOff w.src w.wave
  c.setReg (spareKey w.src w.spare) (w.wave + 0x20)

/-- A swap has switched: counted, LASER_SWAPPED, and its thresholds are armed anew. -/
def Chip.swapDone (c : Chip) (w : Swap) : Chip :=
  let c := (c.bump Obj.CNT_LASER_SWAPS).raiseMod 0x0808 []
  { c with swaps := c.swaps.filter (fun v => !sameSwap v w)
           laserFlags := Tbl.put c.laserFlags (w.src * 16 + w.wave) 0 }

/-- Tick 0 of a window: lanes with a window are PAUSED, the others are switched without one (R284, R255). -/
def Chip.openWindow (c : Chip) (w : Swap) : Chip :=
  let win := c.windowLanes w
  let others := (c.fedLanes w.src w.wave).filter (fun i => !win.contains i && (c.lane i).state != laneFailed)
  let c := c.combiner w
  let c := win.foldl (fun c i => c.updLane i (fun x => { x with state := lanePaused })) c
  let c := c.count modInst Obj.CNT_UNANNOUNCED_SWAPS others.length
  c.setSwap { w with opened := true, window := c.frame }

/-- What each swap does at a boundary: its window opens if every acknowledgement is back, and is announced again otherwise. -/
def Chip.swapBoundary (c : Chip) : Chip :=
  c.swaps.foldl (fun c w =>
    if w.stage != 1 || w.abrupt || w.opened then c
    else if w.window = c.frame && (c.windowLanes w).all (fun i => (c.lane i).swapAcked && (c.lane i).swapAt = some c.frame) then
      c.openWindow w
    else
      let c := c.setSwap { w with window := 0 }
      let c := (c.fedLanes w.src w.wave).foldl (fun c i => c.updLane i (fun x => { x with swapAt := none, swapAcked := false })) c
      c.announce { w with window := 0 }) c

/-- After an abrupt failure a locked spare is switched in at once, with no window (R285). -/
def Chip.switchNow (c : Chip) (w : Swap) : Chip :=
  let n := ((c.fedLanes w.src w.wave).filter (fun i => (c.lane i).state != laneFailed)).length
  let c := (c.fedLanes w.src w.wave).foldl (fun c i => c.updLane i (fun x => { x with swapAt := none, swapAcked := false, swapTries := 0 })) c
  ((c.combiner w).count modInst Obj.CNT_UNANNOUNCED_SWAPS n).swapDone w

/-- The spare is matched and locked: the window is announced, or after an abrupt failure the spare is switched in at once. -/
def Chip.spareLocked (c : Chip) (s x : Nat) : Chip :=
  match c.swaps.find? (fun w => w.src = s && w.spare = x && w.stage = 0) with
  | none => c
  | some w =>
    let w := { w with stage := 1 }
    let c := (c.setSwap w).setReg (spareKey s x) (w.wave + 0x10)
    if w.abrupt then c.switchNow w else c.announce w

def execSpareLocked (source : Fin 10) (spare : Fin 2) (s : State) : Host.Outcome State Fault Refusal :=
  done (s.on (fun c => c.spareLocked source.val spare.val))

/-- A source falls more than 3 dB within a frame (R285). -/
def Chip.abruptFailure (c : Chip) (s n : Nat) : Chip :=
  let c := match (List.range 2).find? (fun x => c.reg (spareKey s x) = n + 0x20) with
    | some x => c.setReg (spareKey s x) 0xFE
    | none => c.setReg (laserKey s n) 3
  let c := (c.fedLanes s n).foldl (fun c i => c.degradeLane i causeLock true) c
  let c := c.startSwap s n true
  match c.swapOf s n with
  | some w => if w.stage = 1 && !w.opened then c.switchNow w else c
  | none => c

def execLaserAbruptFailure (source : Fin 10) (wave : Fin 16) (s : State) : Host.Outcome State Fault Refusal :=
  done (s.on (fun c => c.abruptFailure source.val wave.val))

/-- A spare fails during tuning: the swap restarts with the other one if that is free (R286). -/
def Chip.spareFailed (c : Chip) (s x : Nat) : Chip :=
  let c0 := c.setReg (spareKey s x) 0xFE
  match c.swaps.find? (fun w => w.src = s && w.spare = x && !w.opened) with
  | none => c0
  | some w =>
    ({ c0 with swaps := c0.swaps.filter (fun v => !sameSwap v w) } : Chip).startSwap s w.wave w.abrupt

def execSpareFailed (source : Fin 10) (spare : Fin 2) (s : State) : Host.Outcome State Fault Refusal :=
  done (s.on (fun c => c.spareFailed source.val spare.val))

/-! ### The optics at start-up (R276, R279, R280, Table 22.4 step 8e) -/

/-- The die of an engine: 0 is C0. -/
def dieOf (k : Nat) : Nat := notchOf k

/-- Each laser as the optics start: a replaced one stays off and its spare feeds; the lasers of an engine under the external
shelf, and the lasers and spares of a notch chiplet in STANDBY, are off; the others feed once their loops have locked. -/
def Chip.startLasers (c : Chip) (s : Nat) (on : Bool) : Chip :=
  let c := (List.range 16).foldl (fun c n =>
    if c.reg (laserKey s n) = 2 then c
    else if !on then c.setReg (laserKey s n) 4
    else (c.setReg (laserKey s n) 0).seekLaser s n) c
  if s < 8 then c.seekSpares s
  else (List.range 2).foldl (fun c x => if c.reg (spareKey s x) < 0x20 then c.setReg (spareKey s x) 0xFF else c) c

/-- An engine starts with its stored plan, or 8:8:8:8; one that ENGINE_FAIL_RECORD marks, or that has no power, stays off and
the notch chiplet stands in if it can. -/
def Chip.startEngine (c : Chip) (k : Nat) : Chip :=
  let dead := fun (pd : Nat) => c.reg (Obj.DOMAIN_STATE + pd) = 3
  let c := if (c.blob modInst (atIdx Obj.STEER_ACTIVE k)).isEmpty then
      c.setBlob modInst (atIdx Obj.STEER_ACTIVE k) (fillRatio 8 8 8 8) else c
  if bitAt (c.reg Obj.ENGINE_FAIL_RECORD) k || dead (22 + k) || dead (16 + dieOf k) then
    let c := (c.updEngine k (fun e => { e with declared := true })).gateEngine k
    if c.reg Obj.NOTCH_EN = 1 && c.reg (Obj.NOTCH_STATE + notchOf k) = 0 then c.fallback k else c.loseEngine k
  else
    let c := c.startLasers k (c.reg Obj.LASER_SRC_ACTIVE = 0)
    let c := c.updEngine k (fun e => { e with starting := true })
    (engineLanes k).foldl (fun c i => c.lightRings i false) c

/-- The optics start: the laser source is chosen, the notch chiplets stand by, and every engine starts. -/
def Chip.startOptics (c : Chip) : Chip :=
  let o := c.reg Obj.LASER_SRC_OVERRIDE
  let c := c.setReg Obj.LASER_SRC_ACTIVE (if o = 0 then c.reg Obj.LASER_SRC_STRAP else o - 1)
  let c := (List.range 2).foldl (fun c n =>
    let c := if c.reg (Obj.DOMAIN_STATE + (16 + n)) = 3 then c.setReg (Obj.NOTCH_STATE + n) 3 else c
    c.startLasers (8 + n) false) c
  (List.range 8).foldl Chip.startEngine c

/-- At a boundary of start-up an engine whose used add rings are all in TRACK has its Col pairs moved to ENGINE (Table 10.6). -/
def Chip.colStart (c : Chip) : Chip :=
  (List.range 8).foldl (fun c k =>
    if !(c.engine k).starting then c
    else if (c.engine k).declared then c.updEngine k (fun e => { e with starting := false })
    else if (engineLanes k).all (fun i =>
        planMode (c.planByte i) = 0 || (c.lane i).state = laneFailed || c.tracks (c.addRing i)) then
      let c := c.updEngine k (fun e => { e with starting := false })
      [2 * k, 2 * k + 1].foldl (fun c n => c.moveCol n (c.colWanted n)) c
    else c) c

/-- A SERVICE write clears the bits it writes as 0 (R279). -/
def effFailRecord : Eff := effOn (fun _ bs c =>
  (c.setReg Obj.ENGINE_FAIL_RECORD (maskOf ((setBits 8 (c.reg Obj.ENGINE_FAIL_RECORD)).filter (bitAt (leNat bs)))), rcOK))

def execEngineFailRecordClear (r : Req) (mask : Byte) (s : State) : Host.Outcome State Fault Refusal :=
  done (s.rowWrite r Obj.ENGINE_FAIL_RECORD (wr 1 mask.toNat) effFailRecord)

end Sys2Proof.Machine
end

