-- ==== Sys2Proof/Machine/Traverse.lean ====
section
/-! DEFINITION. Traverse commands: the operator's writes to loops, and the events of loops, rings and cores (R293–R317). -/
namespace Sys2Proof.Machine

/-- Field f of loop i of core c (R317). -/
def loopObj (key core inst : Nat) : Nat := atIdx key (16 * core + inst / 32) + 8 * (inst % 32)

/-- Reasons of TRAVERSE_REFUSE_REASON. -/
def trNotOpen : Nat := 1
def trBudget : Nat := 2
def trBusy : Nat := 3
def trRange : Nat := 4
def trNoLoop : Nat := 5

def Chip.travRefuse (c : Chip) (reason : Nat) : Chip × Nat := (c.setReg Obj.TRAVERSE_REFUSE_REASON reason, rcRefused)

/-! ### Lock failures (R306–R308) -/

/-- Whether a re-steer, a fallback or a swap is changing a ring's lane (R301). -/
def Chip.ringBusy (c : Chip) (core inst : Nat) : Bool :=
  match c.ringLane core inst with
  | none => false
  | some i =>
    let k := i / 32
    (match (c.engine k).steer with | some st => bitAt st.changed (i % 32) | none => false) ||
    ((c.engine k).fallback && c.reg (Obj.ENGINE_STATE + k) != 1) ||
    c.swaps.any (fun w => (c.fedLanes w.src w.wave).contains i)

/-- One lock failure: the loop searches again, and at the third a ring is parked, RING_FAILED is raised and its lane is marked
failed (R308). -/
def Chip.lockFail (c : Chip) (core inst : Nat) (start : W32) (half : Bool) : Chip :=
  let l := c.loop core inst
  let c := c.updLoop core inst (fun l => { l with fails := l.fails + 1, aborts := 0 })
  if l.fails + 1 < 3 then c.seek core inst start half true
  else if isRing core inst then
    let lane := c.ringLane core inst
    let c := (c.parkRing (core, inst)).raiseMod 0x0903 []
    match lane with | some i => c.failLane i | none => c
  else c.updLoop core inst (fun l => l.open_ l.output)

/-- A mislock: its event and count, one lock failure, and the new start (R307). `found` is the tone found, if any. -/
def Chip.mislock (c : Chip) (core inst : Nat) (found : Option Nat) : Chip :=
  let n := inst % 128 / 4 % 16
  let l := c.loop core inst
  let c := (c.raiseMod 0x0902 [(1, core), (2, inst), (1, n), (1, found.getD 0xFF)]).bump (Obj.CNT_MISLOCKS + core)
  let c := c.updLoop core inst (fun l => { l with tone := found.getD 0xFF, verified := false })
  let step := Config.channelStep (loopKey core inst)
  let c := match found with
    | some m => c.lockFail core inst (if m < n then f32Add l.output step else f32Sub l.output step) true
    | none => c.lockFail core inst (c.mapOf core inst n) false
  c.ringLeft core inst

/-- A ring's tone matches: verified, the map takes its output, and its lane may train or enter EXPRESS. -/
def Chip.toneMatch (c : Chip) (core inst n : Nat) : Chip :=
  let l := c.loop core inst
  let c := c.updLoop core inst (fun l => { l with verified := true, tone := n, verifiedAt := if l.verified then l.verifiedAt else c.tickId })
  let c := c.setMap core inst n l.output
  match c.ringLane core inst with
  | none => c
  | some i =>
    let ok := fun (r : Nat × Nat) => c.tracks r && (c.loop r.1 r.2).verified
    if planMode (c.planByte i) = 2 then
      (if (c.lane i).state = laneDark && ok (c.addRing i) && ok (c.dropRing i) then
        c.updLane i (fun x => { x with state := laneExpress, light := true }) else c)
    else if ok (c.addRing i) && ok (c.dropRing i) then c.tryTrain i
    else c

/-- A tone check ends; a tone counts when its depth is at least TONE_MIN_DEPTH. A result for a loop that has left TRACK is
discarded (R301, R306). -/
def Chip.toneCheck (c : Chip) (core inst : Nat) (tone : Option Nat) (depth : W32) : Chip :=
  let l := c.loop core inst
  if !isRing core inst || l.mode != modeTrack || l.stage != 0 || !c.mayTrigger core inst 4 then c
  else
    let n := inst % 128 / 4 % 16
    let c := c.trigger core inst 4 id
    let found := if f32Le (BitVec.ofNat 32 (c.reg Obj.TONE_MIN_DEPTH)) depth then tone else none
    if found = some n then c.toneMatch core inst n else c.mislock core inst found

def execToneCheckDone (core : Fin 11) (inst : Fin 512) (tone : Option (Fin 16)) (depth : W32) (s : State) :
    Host.Outcome State Fault Refusal :=
  done (s.on (fun c => c.toneCheck core.val inst.val (tone.map (·.val)) depth))

/-! ### Search and hand-over (R302, R303) -/

/-- The sweep has ended: hand-over from its peak where that lies 3 dB above its lowest value, and a lock failure otherwise. -/
def Chip.sweepEnd (c : Chip) (core inst : Nat) : Chip :=
  let l := c.loop core inst
  let k := c.coef core inst
  if l.mode != modeSearch || l.sweep ≤ l.points k then c
  else
    match l.best, l.low with
    | some (s, o), some lo =>
      if f32Le (f32OfInt 3) (f32Sub s lo) then
        let out := k.limit l.output o
        c.setLoop core inst (({ l with output := out } : Loop).track k (c.around core inst 0#32) out)
      else c.lockFail core inst l.origin false
    | _, _ => c.lockFail core inst l.origin false

def execSearchSweepEnd (core : Fin 11) (inst : Fin 512) (s : State) : Host.Outcome State Fault Refusal :=
  done (s.on (fun c => c.sweepEnd core.val inst.val))

/-- HANDOVER_LIMIT consecutive abandoned hand-overs are one lock failure. -/
def Chip.handoverFailed (c : Chip) (core inst : Nat) : Chip :=
  let l := c.loop core inst
  if l.mode = modeSearch && l.aborts ≥ c.reg Obj.HANDOVER_LIMIT && c.mayTrigger core inst 5 then
    (((c.trigger core inst 5 id).raiseMod 0x0904 []).lockFail core inst l.origin false)
  else c

def execHandoverFailed (core : Fin 11) (inst : Fin 512) (s : State) : Host.Outcome State Fault Refusal :=
  done (s.on (fun c => c.handoverFailed core.val inst.val))

/-! ### Overruns and cores (R293–R295) -/

def execLoopOverrun (core : Fin 11) (inst : Fin 512) (late : Bool) (s : State) : Host.Outcome State Fault Refusal :=
  done (s.on (fun c => if (loopType core.val inst.val).isSome then c.overrun core.val inst.val late else c))

/-- The eighth consecutive overrun holds the loop. -/
def Chip.overrunHold (c : Chip) (core inst : Nat) : Chip :=
  let l := c.loop core inst
  if l.overruns ≥ 8 && (l.mode = modeSearch || l.mode = modeTrack) && c.mayTrigger core inst 3 then
    let c := c.trigger core inst 3 (fun l => l.hold 2 c.tickId)
    let c := (c.bump (Obj.CNT_LOOP_HOLDS + core)).raiseMod 0x0901 []
    if l.mode = modeTrack then c.ringLeft core inst else c
  else c

def execLoopHold (core : Fin 11) (inst : Fin 512) (s : State) : Host.Outcome State Fault Refusal :=
  done (s.on (fun c => c.overrunHold core.val inst.val))

def Chip.decimationRelax (c : Chip) (core : Nat) : Chip :=
  let lvl := c.reg (Obj.CORE_DECIMATION + core)
  if lvl > 0 && (c.core core).clean ≥ c.reg Obj.DECIM_RELAX then
    (((c.updCore core (fun x => { x with clean := 0 })).setReg (Obj.CORE_DECIMATION + core) (lvl - 1)).bump
      (Obj.CNT_DECIMATIONS + core)).raiseMod 0x0905 []
  else c

def execDecimationRelax (core : Fin 11) (s : State) : Host.Outcome State Fault Refusal :=
  done (s.on (fun c => c.decimationRelax core.val))

def Chip.coreSaturated (c : Chip) (core : Nat) : Chip :=
  let x := c.core core
  if c.reg (Obj.CORE_DECIMATION + core) = 4 && x.satFrames ≥ 128 && !x.satSaid then
    (c.updCore core (fun x => { x with satSaid := true })).raiseMod 0x0906 []
  else c

def execCoreSaturated (core : Fin 11) (s : State) : Host.Outcome State Fault Refusal :=
  done (s.on (fun c => c.coreSaturated core.val))

/-- A core is declared failed: its actuators hold, and its engine or notch chiplet fails with it. -/
def Chip.loopCoreFailed (c : Chip) (core : Nat) : Chip :=
  if coreFailed c core then c
  else
    let c := (c.setReg (Obj.CORE_STATE + core) 1).raiseMod 0x0907 []
    if core < 8 then c.declareFailed core else c.notchFails (core - 8)

def execLoopCoreFailed (core : Fin 10) (s : State) : Host.Outcome State Fault Refusal :=
  done (s.on (fun c => c.loopCoreFailed core.val))

/-! ### The operator's mode writes (R300, R301) -/

/-- Whether Table 11.7 lets an operator write take a loop from one mode to another. -/
def modeStep (from_ to_ : Nat) : Bool :=
  from_ = to_ || to_ = modeOpen || (from_ = modeOpen) || (from_ = modeHold) || to_ = modeHold

/-- The start of an operator's search: the map's output of a ring from OPEN, and the present output otherwise (R300, R305). -/
def Chip.searchStart (c : Chip) (core inst : Nat) : W32 :=
  let l := c.loop core inst
  if isRing core inst && l.mode = modeOpen then c.mapOf core inst (inst % 128 / 4 % 16) else l.output

/-- A loop takes the mode that the operator has written. -/
def Chip.modeTo (c : Chip) (core inst m : Nat) : Chip :=
  let l := c.loop core inst
  if l.mode = m then c
  else
    let st := c.searchStart core inst
    let c := c.trigger core inst 1 (fun l =>
      match m with
      | 0 => l.open_ l.output
      | 1 => ({ l with origin := st } : Loop).search st false
      | 2 => l.track (c.coef core inst) (c.around core inst 0#32) l.output
      | _ => l.hold 3 c.tickId)
    if l.mode = modeTrack then c.ringLeft core inst else c

/-- A write of LOOP_MODE. -/
def effLoopMode (core inst : Nat) : Eff := effOn (fun _ bs c =>
  let m := leNat bs
  if (loopType core inst).isNone then c.travRefuse trNoLoop
  else if m > 3 then (c, rcRange)
  else if m = modeSearch && !hasSearch core inst then c.travRefuse trRange
  else if isRing core inst && c.ringBusy core inst then c.travRefuse trBusy
  else if !modeStep (c.loop core inst).mode m then c.travRefuse trNotOpen
  else if (c.loop core inst).mode = modeOpen && m != modeOpen && !c.budgetWith core inst (fun l => { l with mode := m }) then
    c.travRefuse trBudget
  else (c.modeTo core inst m, rcOK))

def loopModeWrite (r : Req) (core inst m : Nat) (s : State) : State :=
  s.rowWrite r (loopObj Obj.LOOP_MODE core inst) (wr 1 m) (effLoopMode core inst)

def execLoopModeOpen (r : Req) (core : Fin 11) (inst : Fin 512) (s : State) : Host.Outcome State Fault Refusal :=
  done (loopModeWrite r core.val inst.val modeOpen s)

def execLoopModeSearch (r : Req) (core : Fin 11) (inst : Fin 512) (s : State) : Host.Outcome State Fault Refusal :=
  done (loopModeWrite r core.val inst.val modeSearch s)

def execLoopModeTrack (r : Req) (core : Fin 11) (inst : Fin 512) (s : State) : Host.Outcome State Fault Refusal :=
  done (loopModeWrite r core.val inst.val modeTrack s)

def execLoopModeHold (r : Req) (core : Fin 11) (inst : Fin 512) (s : State) : Host.Outcome State Fault Refusal :=
  done (loopModeWrite r core.val inst.val modeHold s)

/-! ### The operator's other writes (R297–R299) -/

/-- A write to a loop that is not OPEN: refused and counted (R298). -/
def Chip.notOpen (c : Chip) (core : Nat) : Chip × Nat := (c.bump (Obj.CNT_COEF_REFUSED + core)).travRefuse trNotOpen

def effLoopCoef (core inst : Nat) : Eff := effOn (fun _ bs c =>
  if (loopType core inst).isNone then c.travRefuse trNoLoop
  else if (c.loop core inst).mode != modeOpen then c.notOpen core
  else if !coefOk bs then c.travRefuse trRange
  else (c.updLoop core inst (fun l => { l with coef := some bs }), rcOK))

def execLoopCoefWrite (r : Req) (core : Fin 11) (inst : Fin 512) (block : List Byte) (s : State) : Host.Outcome State Fault Refusal :=
  done (s.rowWrite r (loopObj Obj.LOOP_COEF core.val inst.val) block (effLoopCoef core.val inst.val))

def effLoopClass (core inst : Nat) : Eff := effOn (fun _ bs c =>
  let v := leNat bs
  if (loopType core inst).isNone then c.travRefuse trNoLoop
  else if (c.loop core inst).mode != modeOpen then c.notOpen core
  else if v > 2 then c.travRefuse trRange
  else if !c.budgetWith core inst (fun l => { l with cls := some v }) then c.travRefuse trBudget
  else (c.updLoop core inst (fun l => { l with cls := some v }), rcOK))

def execLoopClassWrite (r : Req) (core : Fin 11) (inst : Fin 512) (cls : Byte) (s : State) : Host.Outcome State Fault Refusal :=
  done (s.rowWrite r (loopObj Obj.LOOP_CLASS core.val inst.val) (wr 1 cls.toNat) (effLoopClass core.val inst.val))

/-- The output of an OPEN loop, applied at the next tick. -/
def effLoopOutput (core inst : Nat) : Eff := effOn (fun _ bs c =>
  if (loopType core inst).isNone then c.travRefuse trNoLoop
  else if (c.loop core inst).mode != modeOpen then (c, rcReadOnly)
  else (c.updLoop core inst (fun l => { l with uS := f32At bs 0 }), rcOK))

def execLoopOutputWrite (r : Req) (core : Fin 11) (inst : Fin 512) (value : W32) (s : State) : Host.Outcome State Fault Refusal :=
  done (s.rowWrite r (loopObj Obj.LOOP_OUTPUT core.val inst.val) (wr 4 value.toNat) (effLoopOutput core.val inst.val))

/-- LOOP_SETPOINT, in any mode, from the loop's next sample (R299). -/
def effLoopSetpoint (core inst : Nat) : Eff := effOn (fun _ bs c =>
  if (loopType core inst).isNone then c.travRefuse trNoLoop
  else (c.updLoop core inst (fun l => { l with setpoint := f32At bs 0 }), rcOK))

/-! ### The repetitive controller (R311–R314) -/

def execRcStepBoundary (part : Fin 8) (frame : W48) (s : State) : Host.Outcome State Fault Refusal :=
  done (s.on (fun c => c.stepBoundary part.val frame.toNat))

def Chip.rcTimeout (c : Chip) (core : Nat) : Chip :=
  let p := c.reg (Obj.RC_PERIOD + core)
  match (c.core core).rcStart with
  | some st => if p != 0 && c.frame ≥ st + 2 * p then c.rcWait core else c
  | none => c

def execRcTimeout (core : Fin 11) (s : State) : Host.Outcome State Fault Refusal := done (s.on (fun c => c.rcTimeout core.val))

/-! ### Injection and capture (R315, R316) -/

/-- Whether a block of Table 11.8 is in range for its loop's class. -/
def injectOk (b : List Byte) (cls : Nat) : Bool :=
  let param := leAt b 8 4
  let f := f32Val (BitVec.ofNat 32 param)
  decide (byteAt b 2 ≤ 2) && f32Finite (f32At b 4) && allZero ((b.drop 0x16).take 2) && allZero ((b.drop 0x18).take 8) &&
  (match byteAt b 3 with
   | 0 => Fv.le (.fin false 0 0) f && Fv.le (Fv.mul f (.fin false (2 * classPeriod cls) 0)) (.fin false 1000000 0)
   | 1 => decide (1 ≤ param) && decide (param ≤ 256)
   | 2 => param = 0
   | _ => false)

def effInject (core g : Nat) : Eff := effOn (fun _ bs c =>
  let i := leAt bs 0 2
  if (loopType core i).isNone then c.travRefuse trNoLoop
  else if !injectOk bs ((c.loop core i).classOf core i) then c.travRefuse trRange
  else
    let c' := (c.setBlob modInst (injKey core g) bs).updCore core (fun x => x.setGen g {})
    if byteAt bs 2 != 0 && !fits (c'.jobs core false (fun _ l => l)) then c.travRefuse trBudget else (c', rcOK))

def execInjectWrite (r : Req) (core : Fin 11) (gen : Fin 2) (block : BitVec 256) (s : State) : Host.Outcome State Fault Refusal :=
  done (s.rowWrite r (injKey core.val gen.val) (wr 32 block.toNat) (effInject core.val gen.val))

def captureOk (b : List Byte) : Bool :=
  decide (byteAt b 2 ≤ 5) && decide (byteAt b 3 ≤ 15) && allZero ((b.drop 4).take 4) && allZero ((b.drop 0xE).take 2)

def effCapture (core g : Nat) : Eff := effOn (fun _ bs c =>
  if (loopType core (leAt bs 0 2)).isNone then c.travRefuse trNoLoop
  else if !captureOk bs then c.travRefuse trRange
  else
    let st := if byteAt bs 2 = 0 then 0 else 1
    let c' := (c.setBlob modInst (capKey core g) bs).setReg (capState core g) st
    if st = 1 && !fits (c'.jobs core false (fun _ l => l)) then c.travRefuse trBudget
    else (if st = 1 then c'.updCore core (fun x => x.setCap g {}) else c', rcOK))

def execCaptureWrite (r : Req) (core : Fin 11) (buffer : Fin 2) (block : BitVec 128) (s : State) : Host.Outcome State Fault Refusal :=
  done (s.rowWrite r (capKey core.val buffer.val) (wr 16 block.toNat) (effCapture core.val buffer.val))

def Chip.captureTrigger (c : Chip) (core g : Nat) : Chip :=
  let b := c.blob modInst (capKey core g)
  if c.reg (capState core g) = 1 && (byteAt b 2 != 2 || decide (leAt b 8 6 ≤ c.frame)) then c.setReg (capState core g) 2 else c

def execCaptureTrigger (core : Fin 11) (buffer : Fin 2) (s : State) : Host.Outcome State Fault Refusal :=
  done (s.on (fun c => c.captureTrigger core.val buffer.val))

def Chip.captureDone (c : Chip) (core g : Nat) : Chip :=
  let b := (c.core core).cap g
  if c.reg (capState core g) = 2 && b.pre.length + b.recs.length ≥ 16384 then (c.setReg (capState core g) 3).raiseMod 0x0909 []
  else c

def execCaptureDone (core : Fin 11) (buffer : Fin 2) (s : State) : Host.Outcome State Fault Refusal :=
  done (s.on (fun c => c.captureDone core.val buffer.val))

/-! ### The saved set (R317) -/

/-- Every class and coefficient block that differs from its factory value. -/
def Chip.travSet (c : Chip) : Tbl (Nat × List Byte) :=
  (c.loops.filter (fun p => p.2.cls.isSome || p.2.coef.isSome)).map (fun p =>
    (p.1, (p.2.classOf (p.1 / 512) (p.1 % 512), c.coefBytes (p.1 / 512) (p.1 % 512))))

/-- The saved set is restored at start-up, where there is one; every other loop has its factory block and class (R297, R317). -/
def Chip.loadTravSet (c : Chip) : Chip :=
  (c.travSaved.getD []).foldl (fun c p =>
    c.updLoop (p.1 / 512) (p.1 % 512) (fun l => { l with cls := some p.2.1, coef := some p.2.2 })) c

def effTravStore : Eff := effOn (fun _ bs c =>
  match leNat bs with
  | 1 => ({ c with travSaved := some c.travSet }, rcOK)
  | 2 => ({ c with travSaved := none }, rcOK)
  | _ => (c, rcRange))

def execTraverseStoreSave (r : Req) (s : State) : Host.Outcome State Fault Refusal :=
  done (s.rowWrite r Obj.TRAVERSE_STORE (wr 1 1) effTravStore)

def execTraverseStoreErase (r : Req) (s : State) : Host.Outcome State Fault Refusal :=
  done (s.rowWrite r Obj.TRAVERSE_STORE (wr 1 2) effTravStore)

end Sys2Proof.Machine
end

