-- ==== Sys2Proof/Machine/Discovery.lean ====
section
/-! DEFINITION. Hellos, the handshake, the expected map and ADAPT (R239, R240, R249–R253). -/
namespace Sys2Proof.Machine

/-! ### Sending hellos (R250, Table 9.7) -/

/-- The lanes of an engine that share a lane's fibre, and its peer once one is known, as a mask of offsets. -/
def Chip.helloMask (c : Chip) (i : Nat) : Nat :=
  let x := c.lane i
  maskOf ((List.range 32).filter (fun b =>
    let j := 32 * (i / 32) + b
    planMode (c.planByte j) = 1 && c.physFibre j = c.physFibre i && (!x.seen || !(c.lane j).seen || (c.lane j).peer = x.peer)))

/-- The 240 bytes of a hello on a lane. -/
def Chip.helloPayload (c : Chip) (i : Nat) : List Byte :=
  let x := c.lane i
  let straps := fld (c.reg Obj.SLOT_ID) 3 0 + 16 * fld (c.reg Obj.LASER_SRC_STRAP) 0 0 + 32 * fld (c.reg Obj.BOOT_SRC) 1 0
  let tag := match c.lanePart i with | some k => c.reg (atIdx Obj.LINK_PART_TAG k) | none => 0
  leBytes 8 (c.reg Obj.DEVICE_SERIAL) ++ leBytes 1 (c.reg Obj.BOARD_ID) ++ leBytes 1 straps ++ leBytes 1 (c.logFibre i) ++
  leBytes 1 (c.physFibre i) ++ leBytes 1 i ++ leBytes 1 (if x.seen then 1 else 0) ++ leBytes 1 (c.reg Obj.LINK_VER_MIN) ++
  leBytes 1 (c.reg Obj.LINK_VER_MAX) ++ leBytes 4 (c.helloMask i) ++ leBytes 2 7 ++ zeros 2 ++ leBytes 4 (c.reg Obj.FW_VERSION) ++
  zeros 4 ++ leBytes 8 tag ++ leBytes 8 c.frame ++ zeros 0xC0

/-- A lane in READY sends a hello; it travels on that lane alone (R243, R250). -/
def Chip.helloSend (c : Chip) (i : Nat) : Chip :=
  if (c.lane i).state != laneReady then c
  else
    let next := match (c.lane i).link with | some l => (c.link l).next | none => 0
    c.send (.flit i (flitBytes next 2 3 {} (c.helloPayload i)))

def execHelloSend (lane : Fin 256) (s : State) : Host.Outcome State Fault Refusal := done (s.on (fun c => c.helloSend lane.val))

/-! ### Receiving hellos -/

/-- The fields of a hello payload. -/
def helloOf (p : List Byte) : Hello :=
  { serial := BitVec.ofNat 64 (leAt p 0 8), board := BitVec.ofNat 8 (byteAt p 8), straps := BitVec.ofNat 8 (byteAt p 9)
    logFibre := BitVec.ofNat 8 (byteAt p 0xA), physFibre := BitVec.ofNat 8 (byteAt p 0xB), lane := BitVec.ofNat 8 (byteAt p 0xC)
    flags := BitVec.ofNat 8 (byteAt p 0xD), verMin := BitVec.ofNat 8 (byteAt p 0xE), verMax := BitVec.ofNat 8 (byteAt p 0xF)
    mask := BitVec.ofNat 32 (leAt p 0x10 4), features := BitVec.ofNat 16 (leAt p 0x14 2), fw := BitVec.ofNat 32 (leAt p 0x18 4)
    tag := BitVec.ofNat 64 (leAt p 0x20 8), frame := BitVec.ofNat 64 (leAt p 0x28 8) }

/-- The reserved bytes of a hello are zero. -/
def helloRsv (p : List Byte) : Bool :=
  allZero ((p.drop 0x16).take 2) && allZero ((p.drop 0x1C).take 4) && allZero ((p.drop 0x2E).take 2) && allZero (p.drop 0x30)

/-- A valid hello: every field in the range of Table 9.7. -/
def helloOk (h : Hello) : Bool :=
  decide (h.logFibre.toNat < 32) && decide (h.physFibre.toNat < 32) && decide (h.flags.toNat < 2) && decide (h.straps.toNat < 128) &&
  decide (1 ≤ h.verMin.toNat) && decide (h.verMin.toNat ≤ h.verMax.toNat) && decide (h.verMax.toNat ≤ 3) &&
  decide (h.frame.toNat < 2 ^ 48)

/-- Features a version includes (Table 9.8). -/
def versionFeatures (v : Nat) : Nat := if v = 3 then 7 else if v = 2 then 3 else 0

/-- The link of a lane's set: lanes of one partition on one fibre towards one peer (R239). -/
def Chip.linkFor (c : Chip) (k f peer : Nat) : Option Nat :=
  (c.links.find? (fun p => p.2.part = some k && p.2.phys = f && p.2.peer = peer)).map (·.1)

def Chip.freeLink (c : Chip) : Option Nat := (List.range 64).find? (fun l => (c.link l).part.isNone)

/-- A new link takes an index, whose counters start afresh (R239, R259). -/
def Chip.newLink (c : Chip) (l k log phys peer : Nat) : Chip :=
  let c := [Obj.CNT_LINK_REPLAYS, Obj.CNT_REPLAY_STALL, Obj.CNT_CREDIT_STALL, Obj.CNT_LINK_RETRAINS].foldl (fun c o => c.setReg (o + l) 0) c
  { c with links := Tbl.put c.links l { part := some k, state := linkDiscover, fibre := log, phys := phys, peer := peer } }

/-- A lane takes its place in the link of its set; where none exists and all 64 indices are in use it waits (R240). -/
def Chip.placeLane (c : Chip) (i k : Nat) : Chip :=
  let x := c.lane i
  if x.link.isSome then c
  else
    match c.linkFor k (c.physFibre i) x.peer with
    | some l => c.updLane i (fun x => { x with link := some l, waiting := false })
    | none =>
      match c.freeLink with
      | some l => (c.newLink l k (c.logFibre i) (c.physFibre i) x.peer).updLane i (fun x => { x with link := some l, waiting := false })
      | none =>
        let c := if c.linkFull then c else ({ c with linkFull := true }).raiseMod 0x0709 []
        c.updLane i (fun x => { x with waiting := true })

/-- Freed indices go to the waiting lane sets at a frame boundary, in ascending order of their lowest lane; each frame in which lanes
wait is counted (R240). -/
def Chip.formLinks (c : Chip) : Chip :=
  let w := (c.lanes.filter (fun p => p.2.waiting)).map (·.1)
  if w.isEmpty then { c with linkFull := false }
  else
    let c := c.bump Obj.CNT_LINK_TABLE_FULL
    w.foldl (fun c i => match c.lanePart i with | some k => if c.freeLink.isSome || (c.linkFor k (c.physFibre i) (c.lane i).peer).isSome then c.placeLane i k else c | none => c) c

/-! ### ADAPT (R252) -/

/-- The peer that hellos show on fibre index `j` of an engine. -/
def Chip.foundPeer (c : Chip) (k j : Nat) : Option Nat :=
  ((c.fibreLanes (4 * k + j)).find? (fun i => (c.lane i).seen)).map (fun i => (c.lane i).peer)

/-- Whether a fibre still has lanes from which no hello has come. -/
def Chip.unheard (c : Chip) (k j : Nat) : Bool :=
  (c.fibreLanes (4 * k + j)).any (fun i => (c.lane i).state = laneReady && !(c.lane i).seen) && (c.foundPeer k j).isNone

/-- The planned fibre index that belongs on each physical one, by the peers found; none where a displaced peer is expected on no
fibre of the engine. -/
def Chip.adaptMap (c : Chip) (k : Nat) : Option (List Nat) :=
  let perm := (c.engine k).perm
  (List.range 4).foldr (fun j acc =>
    match acc with
    | none => none
    | some t =>
      let m := perm.getD j 0
      match c.foundPeer k j with
      | none => some (m :: t)
      | some p =>
        let e := c.reg (Obj.EXPECT_PEER + 4 * k + m)
        if e = 0 || e = p then some (m :: t)
        else ((List.range 4).find? (fun m => c.reg (Obj.EXPECT_PEER + 4 * k + m) = p)).map (· :: t)) (some [])

/-- Whether a fibre index carries an express path on either side. -/
def Chip.expressOn (c : Chip) (k j : Nat) : Bool :=
  (List.range 32).any (fun b => let e := planAt (c.activePlan k) b; planMode e = 2 && (planFibre e = j || planOut e = j))

/-- The move that ADAPT makes: the new map of fibres, where every displaced peer has a place and no fibre involved carries express. -/
def Chip.adaptMove (c : Chip) (k : Nat) : Option (List Nat) :=
  match c.adaptMap k with
  | none => none
  | some m =>
    let perm := (c.engine k).perm
    let moved := (List.range 4).filter (fun j => m.getD j 0 != perm.getD j 0)
    if m.Nodup && !moved.isEmpty && !moved.any (c.expressOn k) && (c.engine k).steer.isNone then some m else none

/-- The physical index of a planned one. -/
def posOf (m : List Nat) (x : Nat) : Nat := ((List.range 4).find? (fun j => m.getD j 0 = x)).getD 0

/-- Whole lane sets move to the fibres on which their peers were found: a re-steer with TOKEN 0, and the links run DISCOVER again. -/
def Chip.adapt (c : Chip) (k : Nat) (m : List Nat) : Chip :=
  let old := (c.engine k).perm
  let plan := (List.range 32).map (fun b =>
    let e := planAt (c.activePlan k) b
    if planMode e = 1 then BitVec.ofNat 8 (0x10 + posOf m (old.getD (planFibre e) 0)) else BitVec.ofNat 8 e)
  let c := (c.steerEngine k 0 true plan).bump Obj.CNT_RESTEERS
  let c := c.updEngine k (fun e => { e with perm := m })
  let ls := (List.range 64).filter (fun l => let x := c.link l
    x.part.isSome && x.fibre / 4 = k && x.phys != 4 * k + posOf m (x.fibre % 4))
  ls.foldl (fun c l =>
    let c := c.linkEvent l 0x0704 [(1, 2)]
    c.updLink l (fun x => { x with state := linkDiscover, quar := 0, phys := 4 * k + posOf m (x.fibre % 4),
                                   peer := c.reg (Obj.EXPECT_PEER + x.fibre) })) c

/-! ### The handshake (R251, R252) -/

/-- A lane whose hello does not pass: its link in DISCOVER is quarantined, and a link in use does without the lane. -/
def Chip.helloFails (c : Chip) (i l reason : Nat) : Chip :=
  if (c.link l).state = linkDiscover then c.quarantine l reason
  else if (c.link l).state = linkQuar then c
  else c.updLane i (fun x => { x with link := none })

/-- A hello that has passed the map and the tag, with PEER_SEEN: the link enters UP, or the lane joins at the next boundary. -/
def Chip.shake (c : Chip) (i l : Nat) (h : Hello) : Chip :=
  let st := (c.link l).state
  if st = linkDiscover then
    let v := min (c.reg Obj.LINK_VER_MAX) h.verMax.toNat
    if v < max (c.reg Obj.LINK_VER_MIN) h.verMin.toNat then c.quarantine l 1
    else
      let want := versionFeatures v
      let have_ := (setBits 3 want).filter (bitAt h.features.toNat)
      let c := if have_.length = (setBits 3 want).length then c else c.linkEvent l 0x0708 []
      let c := c.updLink l (fun x => { x.clear with state := linkUp, version := v, features := maskOf have_, full := 1 })
      let c := c.updLane i (fun x => { x with state := laneActive, joinAt := none })
      c.linkEvent l 0x0701 []
  else if (c.link l).usable && (c.lane i).joinAt.isNone then
    (c.updLane i (fun x => { x with joinAt := some (c.frame + 1) })).message l 3 msgLaneAdd [(1, i), (8, c.frame + 1)]
  else c

/-- The expected map of a lane's planned fibre is compared with its hello (R252): 0 proceeds, 1 the LOG_FIBRE differs, 2 the serial
differs. -/
def Chip.mapCheck (c : Chip) (f : Nat) (h : Hello) : Nat :=
  let e := c.reg (Obj.EXPECT_PEER + f)
  let g := c.reg (Obj.EXPECT_FIBRE + f)
  if e != 0 && e != h.serial.toNat then 2 else if g != 0xFF && g != h.logFibre.toNat then 1 else 0

/-- A lane of a link has a hello. -/
def Chip.judge (c : Chip) (i l k : Nat) (h : Hello) (first : Bool) : Chip :=
  let c := if (c.link l).state = linkRetrain then c.updLink l (fun x => { x with state := linkDiscover }) else c
  let eng := i / 32
  if h.tag.toNat != c.reg (atIdx Obj.LINK_PART_TAG k) then c.helloFails i l 3
  else if (c.link l).state = linkQuar then c
  else
    let seen := bitAt h.flags.toNat 0
    match c.mapCheck (c.logFibre i) h with
    | 0 => if seen then c.shake i l h else c
    | 1 =>
      if c.reg Obj.LINK_MAP_POLICY = 1 then c.helloFails i l 2
      else
        let c := if first then c.linkEvent l 0x0704 [(1, 1)] else c
        if seen then c.shake i l h else c
    | _ =>
      if c.reg Obj.LINK_MAP_POLICY = 1 then c.helloFails i l 2
      else
        match c.adaptMove eng with
        | some m => c.adapt eng m
        | none =>
          if (List.range 4).any (c.unheard eng) || (c.engine eng).steer.isSome then c else c.helloFails i l 2

/-- A hello arrives on a lane (R249, R251). -/
def Chip.helloIn (c : Chip) (i : Nat) (h : Hello) : Chip :=
  let x := c.lane i
  if x.state != laneReady || !helloOk h then c
  else if !x.seen && h.lane.toNat % 16 != laneWave i then
    let r := c.dropRing i
    let c := (c.takeLane i laneTraining causeLock false).checkFailed i
    if c.tracks r then c.mislock r.1 r.2 (some (h.lane.toNat % 16)) else c
  else
    let first := !x.seen || x.peer != h.serial.toNat
    let c := c.updLane i (fun x => { x with
      seen := true, peer := h.serial.toNat, peerLane := h.lane.toNat, peerFibre := h.logFibre.toNat, peerPhys := h.physFibre.toNat,
      verMin := h.verMin.toNat, verMax := h.verMax.toNat, features := h.features.toNat, peerSeen := bitAt h.flags.toNat 0 })
    match c.lanePart i with
    | none => c
    | some k =>
      if c.reg (atIdx Obj.LINK_PART_TAG k) = 0 then c
      else
        let c := c.placeLane i k
        match (c.lane i).link with
        | none => c
        | some l => c.judge i l k h first

def execHelloReceived (lane : Fin 256) (hello : Hello) (s : State) : Host.Outcome State Fault Refusal :=
  done (s.on (fun c => c.helloIn lane.val hello))

end Sys2Proof.Machine
end

