-- ==== Sys2Proof/Machine/Flits.lean ====
section
/-! DEFINITION. Receiving flits, the link's timers, swap windows and frame marks (R242–R246, R255, R256, R284, R379). -/
namespace Sys2Proof.Machine

/-! ### Swap windows (R255, R256, R284) -/

/-- A peer announces a window on one of its lanes: it is acknowledged. -/
def Chip.announceIn (c : Chip) (l n f : Nat) : Chip :=
  match c.peerLaneOf l n with
  | none => c
  | some i => (c.updLane i (fun x => { x with peerSwapAt := some f })).message l 3 msgSwapAck [(1, i), (8, f)]

def execSwapAnnounceReceived (link : Fin 64) (lane : Byte) (frame : W48) (s : State) : Host.Outcome State Fault Refusal :=
  done (s.on (fun c => c.announceIn link.val lane.toNat frame.toNat))

/-- An acknowledgement of an announced window; one for a window that has moved on is late (R154, R284). -/
def Chip.swapAckIn (c : Chip) (l n f : Nat) (atLimit : Bool) : Chip :=
  match c.peerLaneOf l n with
  | none => c
  | some i =>
    if (c.lane i).swapAt = some f then (c.updLane i (fun x => { x with swapAcked := true, swapTries := 0 })).nearMiss waitCredit atLimit
    else c.late waitCredit

def execSwapAckReceived (link : Fin 64) (lane : Byte) (frame : W48) (atLimit : Bool) (s : State) : Host.Outcome State Fault Refusal :=
  done (s.on (fun c => c.swapAckIn link.val lane.toNat frame.toNat atLimit))

/-- After SWAP_ACK_WAIT attempts without an acknowledgement a link's lane is switched unannounced. -/
def Chip.ackWaitOver (c : Chip) (s n l : Nat) : Chip :=
  match c.swapOf s n with
  | none => c
  | some w =>
    let give := (c.fedLanes s n).filter (fun i =>
      let x := c.lane i
      x.link = some l && !x.swapAcked && decide (x.swapTries ≥ c.reg Obj.SWAP_ACK_WAIT))
    let c := give.foldl (fun c i => c.updLane i (fun x => { x with swapAt := none, swapTries := 0 })) c
    c.setSwap { w with unannounced := w.unannounced ++ give }

def execSwapAckWaitExpired (source : Fin 10) (wave : Fin 16) (link : Fin 64) (s : State) : Host.Outcome State Fault Refusal :=
  done (s.on (fun c => c.ackWaitOver source.val wave.val link.val))

/-- Tick 2: every window open in this frame ends. A lane in `lost` holds no lock and is degraded; the others are ACTIVE. Held
STEER_CONTROL writes are accepted (R276). -/
def Chip.windowEnd (c : Chip) (lost : List Nat) : Chip :=
  let mine := c.swaps.filter (fun w => w.opened)
  let c := mine.foldl (fun c w =>
    let ls := (c.fedLanes w.src w.wave).filter (fun i => (c.lane i).state = lanePaused)
    let c := ls.foldl (fun c i =>
      let c := (c.bump (Obj.CNT_SWAP_WINDOWS + i)).updLane i (fun x =>
        { x with state := laneActive, swapAt := none, swapAcked := false, windowAt := some c.frame })
      if lost.contains i then c.degradeLane i causeLock true else c) c
    let c := (c.fedLanes w.src w.wave).foldl (fun c i => c.updLane i (fun x => { x with swapAt := none, swapAcked := false, swapTries := 0 })) c
    c.swapDone w) c
  let peers := (c.lanes.filter (fun p => p.2.peerSwapAt = some c.frame)).map (·.1)
  let c := peers.foldl (fun c i =>
    let c := (c.bump (Obj.CNT_SWAP_WINDOWS + i)).updLane i (fun x => { x with peerSwapAt := none, windowAt := some c.frame })
    if lost.contains i then c.degradeLane i causeLock true else c) c
  let c := (List.range 64).foldl (fun c l => if (c.link l).usable then Chip.pumpLink l ((c.link l).queue.length) c else c) c
  (List.range 8).foldl (fun c k =>
    let hs := (c.engine k).held
    if hs.isEmpty || c.windowOn k then c
    else
      let c := c.updEngine k (fun e => { e with held := [] })
      hs.foldl (fun c h => (c.steerControl (h.1 + h.2 * 65536)).1) c) c

def execSwapWindowEnd (lost : List (Fin 256)) (s : State) : Host.Outcome State Fault Refusal :=
  done (s.on (fun c => c.windowEnd (lost.map (·.val))))

/-- Loops whose samples at ticks 0 and 1 of a window are not used (R309). -/
def Chip.swapSkip (c : Chip) (key : Nat) : Bool :=
  if c.tick ≥ 2 then false
  else
    let core := key / 512
    let inst := key % 512
    if !isRing core inst then false
    else
      match c.ringLane core inst with
      | none => false
      | some i =>
        if inst < 128 then c.swaps.any (fun w => w.opened && (c.fedLanes w.src w.wave).contains i)
        else (c.lane i).peerSwapAt = some c.frame

/-! ### Frame marks (R379) -/

/-- LINK_FRAME_OFFSET takes a measurement: the mark's arrival after the own boundary of the same number, less the one-way delay,
averaged over the last 16 frames and saturated. -/
def Chip.markIn (c : Chip) (l : Nat) (arrival delay : Int) : Chip :=
  let x := c.link l
  if !x.usable || !bitAt x.features 2 then c
  else
    let offs := (x.offs ++ [arrival - delay]).drop (x.offs.length + 1 - 16)
    let m := (offs.foldl (· + ·) 0).tdiv offs.length
    (c.updLink l (fun x => { x with offs := offs, offset := max (-2147483648) (min 2147483647 m) })).idle l false

def execFrameMarkReceived (link : Fin 64) (frame : W48) (time : W64) (arrival delay : Int) (s : State) : Host.Outcome State Fault Refusal :=
  let _ := (frame, time)
  done (s.on (fun c => c.markIn link.val arrival delay))

/-! ### The receiver of a link (R242–R245) -/

/-- Whether the header fields of a flit are valid. -/
def headerOk (h : Nat) : Bool :=
  let ty := fld h 15 13
  let vc := fld h 17 16
  fld h 12 8 = 0 && decide (ty ≤ 3) && decide (fld h 7 0 ≤ 240) &&
  (if ty = 2 || ty = 3 then vc = 3 else if ty = 0 then vc != 3 else true)

/-- A NAK is sent, and sequenced flits are dropped until the missing one arrives; the next NAK for it waits for
LINK_REPLAY_TIMEOUT (R245). -/
def Chip.sendNak (c : Chip) (l : Nat) : Chip :=
  let wait := match (c.link l).nakAt with
    | some t => decide (c.tickId < t + c.reg Obj.LINK_REPLAY_TIMEOUT)
    | none => false
  if wait then c else (c.updLink l (fun x => { x with nakAt := some c.tickId, early := [] })).idle l true

/-- An acknowledgement frees held flits; with NAK the rest is sent again (R245, R246). -/
def Chip.ackIn (c : Chip) (l ack : Nat) (nak atLimit : Bool) : Chip :=
  let x := c.link l
  let adv := x.held.any (fun f => f.seq = ack)
  let c := if adv then
      (c.updLink l (fun x => { x with held := (x.held.dropWhile (fun f => f.seq != ack)).drop 1, replays := 0 })).nearMiss waitCredit atLimit
    else c
  let c := if nak then (c.bump (Obj.CNT_LINK_REPLAYS + l)).replayHeld l else c
  Chip.pumpLink l ((c.link l).queue.length) c

/-- Returned credits (R244). -/
def Chip.creditIn (c : Chip) (l vc n : Nat) : Chip :=
  let c := c.updLink l (fun x => { x with credit := Tbl.put x.credit vc (min (vcBuffer vc) (Tbl.get x.credit 0 vc + n)) })
  Chip.pumpLink l ((c.link l).queue.length) c

/-- A transfer message of VC 2 (Table 9.6). -/
def State.ctlMessage (s : State) (l : Nat) (p : List Byte) (atLimit : Bool) : State :=
  let chan := byteAt p 1
  let tid := leAt p 2 4
  let part := (s.chip.link l).part.getD 8
  match byteAt p 0 with
  | 0x01 => s.rtsIn l chan tid (leAt p 6 4)
  | 0x02 => s.on (fun c => c.ctsIn part l chan tid (byteAt p 6) atLimit)
  | 0x03 => s.on (fun c => c.completeIn part l chan tid)
  | 0x04 => s.on (fun c => c.refuseIn part l chan tid (byteAt p 6))
  | 0x05 => s.on (fun c => c.segAckIn part l chan tid (leAt p 6 2) atLimit)
  | _ => s

/-- A link message of VC 3 (Table 9.6). A frame mark is acknowledged at once. -/
def Chip.linkMessage (c : Chip) (l : Nat) (p : List Byte) (atLimit : Bool) : Chip :=
  let n := byteAt p 1
  let f := leAt p 2 6
  match byteAt p 0 with
  | 0x81 => c.announceIn l n f
  | 0x82 => c.swapAckIn l n f atLimit
  | 0x83 => c.laneDropIn l n
  | 0x84 => c.laneAddIn l n f
  | 0x85 => c.idle l false
  | _ => c

/-- The bytes of a data flit join the segment under way on its channel; a whole segment is delivered (R247). -/
def State.dataIn (s : State) (l vc : Nat) (p : List Byte) (atLimit : Bool) : State :=
  let b := Tbl.get (s.chip.link l).asm [] vc ++ p
  let len := leAt b 8 4
  if b.length < 16 || b.length < 16 + len then s.on (fun c => c.updLink l (fun x => { x with asm := Tbl.put x.asm vc b }))
  else
    let s := s.on (fun c => c.updLink l (fun x => { x with asm := Tbl.put x.asm vc [] }))
    s.segIn l (byteAt b 6) (leAt b 0 4) (leAt b 4 2) ((b.drop 16).take len) atLimit

/-- A sequenced flit is delivered: its buffer is freed and owed back, and what it carries takes effect. -/
def State.deliver (s : State) (l : Nat) (f : Flit) (atLimit : Bool) : State :=
  let s := s.on (fun c => c.updLink l (fun x => { x with
    want := (f.seq + 1) % 65536, got := true, nakAt := none, unacked := x.unacked + 1,
    owed := Tbl.put x.owed f.vc (Tbl.get x.owed 0 f.vc + 1) }))
  let s :=
    if f.ty = 3 then s.on (fun c => c.linkMessage l f.payload atLimit)
    else if f.vc = 2 then s.ctlMessage l f.payload atLimit
    else s.dataIn l f.vc f.payload atLimit
  s.on (fun c => if (c.link l).unacked ≥ 64 || Tbl.get (c.link l).owed 0 f.vc ≥ 64 then c.idle l false else c)

/-- Flits that came early follow in SEQ order. -/
def State.deliverEarly (l : Nat) (atLimit : Bool) : Nat → State → State
  | 0, s => s
  | n + 1, s =>
    let x := s.chip.link l
    match Tbl.find x.early x.want with
    | none => s
    | some f =>
      let s := s.on (fun c => c.updLink l (fun x => { x with early := Tbl.del x.early f.seq }))
      State.deliverEarly l atLimit n (s.deliver l f atLimit)

/-- How far a SEQ lies ahead of another, mod 2^16. -/
def ahead (a b : Nat) : Nat := (a + 65536 - b) % 65536

/-- Whether the next SEQ wanted is lost: every ACTIVE lane has delivered a higher one (R243). -/
def Chip.seqLost (c : Chip) (l : Nat) : Bool :=
  let x := c.link l
  let act := c.activeOf l
  !act.isEmpty && act.all (fun i => match Tbl.find x.high i with
    | some h => decide (0 < ahead h x.want) && decide (ahead h x.want < 32768)
    | none => false)

/-- A sequenced flit on a lane of a link. -/
def State.seqIn (s : State) (i l : Nat) (f : Flit) (atLimit : Bool) : State :=
  let s := s.on (fun c => c.updLink l (fun x => { x with high := Tbl.put x.high i f.seq }))
  let x := s.chip.link l
  let d := ahead f.seq x.want
  if d = 0 then
    let s := s.deliver l f atLimit
    State.deliverEarly l atLimit ((s.chip.link l).early.length) s
  else if d ≥ 32768 then s
  else
    let s := if x.nakAt.isSome then s else s.on (fun c => c.updLink l (fun x => { x with early := Tbl.put x.early f.seq f }))
    if s.chip.seqLost l then s.on (fun c => c.sendNak l) else s

/-- A flit on a lane: its codewords are counted, but for those of a swap window (R255), its CRC and header checked, and what it carries is taken (R237, R242). -/
def State.flitIn (s : State) (i : Nat) (bs : List Byte) (corrected uncorr : Nat) (bad atLimit : Bool) : State :=
  let s := s.on (fun c =>
    if c.peerWindow i then c
    else ((c.count modInst (Obj.CNT_FEC_CORRECTED + i) corrected).count modInst (Obj.CNT_FEC_UNCORR + i) uncorr).updLane i
      (fun x => { x with uncorr := x.uncorr + uncorr }))
  let h := leAt bs 0 8
  let lane := s.chip.lane i
  let use := match lane.link with
    | some l => if lane.state = laneActive && (s.chip.link l).usable then some l else none
    | none => none
  if bad || crc64 (bs.take 248) != leAt bs 248 8 || !headerOk h then
    s.on (fun c =>
      let c := c.bump (Obj.CNT_FLIT_CRC + i)
      match use with | some l => c.sendNak l | none => c)
  else
    let ty := fld h 15 13
    let p := (bs.drop 8).take (fld h 7 0)
    if ty = 2 then
      let whole := (bs.drop 8).take 240
      if helloRsv whole then s.on (fun c => c.helloIn i (helloOf whole)) else s
    else
      match use with
      | none => s
      | some l =>
        let s := s.on (fun c =>
          let c := if bitAt h 31 then c.ackIn l (fld h 47 32) (bitAt h 30) atLimit else c
          if fld h 27 18 = 0 then c else c.creditIn l (fld h 29 28) (fld h 27 18))
        if ty = 1 then
          let s := s.on (fun c => c.updLink l (fun x => { x with high := Tbl.put x.high i ((fld h 63 48 + 65535) % 65536) }))
          if s.chip.seqLost l then s.on (fun c => c.sendNak l) else s
        else s.seqIn i l { seq := fld h 63 48, ty := ty, vc := fld h 17 16, payload := p } atLimit

def execFlitReceived (lane : Fin 256) (flit : List Byte) (corrected uncorr : Byte) (bad atLimit : Bool) (s : State) :
    Host.Outcome State Fault Refusal :=
  done (s.flitIn lane.val flit corrected.toNat uncorr.toNat bad atLimit)

/-! ### The link's timers (R244–R246) -/

def execAckTimer (link : Fin 64) (s : State) : Host.Outcome State Fault Refusal :=
  done (s.on (fun c => if (c.link link.val).usable && (c.link link.val).unacked > 0 then c.idle link.val false else c))

def execCreditReturnTimer (link : Fin 64) (s : State) : Host.Outcome State Fault Refusal :=
  done (s.on (fun c =>
    if (c.link link.val).usable && (c.link link.val).owed.any (fun p => decide (p.2 > 0)) then c.idle link.val false else c))

/-- No acknowledgement has advanced within LINK_REPLAY_TIMEOUT: replay from the oldest held flit, and RETRAIN after
LINK_REPLAY_LIMIT consecutive replays. -/
def Chip.replayTimeout (c : Chip) (l : Nat) : Chip :=
  let x := c.link l
  if !x.usable || x.held.isEmpty then c
  else if x.replays ≥ c.reg Obj.LINK_REPLAY_LIMIT then c.linkRetrainNow l
  else (c.updLink l (fun x => { x with replays := x.replays + 1 })).replayHeld l

def execLinkReplayTimeout (link : Fin 64) (s : State) : Host.Outcome State Fault Refusal :=
  done (s.on (fun c => c.replayTimeout link.val))

end Sys2Proof.Machine
end

