-- ==== Sys2Proof/Machine/Time.lean ====
section
/-! DEFINITION. The time unit: device time, PTP, FSYNC and the epoch number (Time, ticks and frames, R367–R375). -/
namespace Sys2Proof.Machine

def timeUnset : Nat := 0
def timeAcquiring : Nat := 1
def timeLocked : Nat := 2
def timeFree : Nat := 3

def Chip.updTime (c : Chip) (f : TimeUnit → TimeUnit) : Chip := { c with time := f c.time }

/-! ### Device time (R367) -/

/-- A change of rate: device time does not jump. -/
def Chip.setRate (c : Chip) (rate : Int) : Chip :=
  let t := c.exactTime
  ({ c with anchorTime := t, anchorRaw := c.raw } : Chip).setReg Obj.TIME_RATE (ofSigned 32 rate)

/-- A step: 1 servo, 2 TIME_SET, 3 first Sync. -/
def Chip.stepTime (c : Chip) (ns cause : Nat) : Chip :=
  let before := c.now
  let c := { c with anchorTime := ns * (4 * 10 ^ 12), anchorRaw := c.raw }
  (c.bump Obj.CNT_TIME_STEPS).raiseMod 0x0A03 [(8, before), (8, ns), (1, cause)]

/-- A state of Table 15.1 is entered. -/
def Chip.timeTo (c : Chip) (st : Nat) : Chip :=
  let c' := c.setReg Obj.TIME_STATE st
  if c.reg Obj.TIME_STATE = st then c
  else if st = timeLocked then c'.raiseMod 0x0A01 []
  else if st = timeFree then c'.raiseMod 0x0A02 []
  else c'

/-! ### The best master (R369, R370) -/

/-- The order of the best master clock algorithm over Announce messages: priority 1, class, accuracy, variance, priority 2,
grandmaster identity, steps removed, sender. -/
def Announce.key (a : Announce) : List Nat :=
  [a.p1.toNat, a.cls.toNat, a.acc.toNat, a.var.toNat, a.p2.toNat, a.gm.toNat, a.steps.toNat, a.src.toNat]

def lexLt : List Nat → List Nat → Bool
  | [], _ => false
  | _, [] => false
  | a :: t, b :: u => decide (a < b) || (a = b && lexLt t u)

/-- The port whose master is best. -/
def Chip.bestPort (c : Chip) : Option Nat :=
  (c.time.masters.foldl (fun (b : Option (Nat × Announce)) p => match b with
    | none => some p
    | some q => if lexLt (Announce.key p.2) (Announce.key q.2) then some p else some q) none).map (·.1)

/-- The algorithm selects again. A change of grandmaster takes the unit out of LOCKED or ACQUIRING, and a new master is followed
only through ACQUIRING. -/
def Chip.selectMaster (c : Chip) : Chip :=
  match c.bestPort with
  | none => (c.updTime (fun t => { t with port := none })).setReg Obj.TIME_MASTER_ID 0
  | some p =>
    let a := (Tbl.find c.time.masters p).getD ⟨0#64, 0#64, 0#8, 0#8, 0#8, 0#16, 0#8, 0#16⟩
    let t := c.time
    if t.port = some p && t.src = a.src.toNat && t.gm = a.gm.toNat then c
    else
      let first := t.src = 0 && t.gm = 0
      let newGm := t.gm != a.gm.toNat
      let c := c.updTime (fun t => { t with port := some p, src := a.src.toNat, gm := a.gm.toNat, twoStep := none, reqAt := none })
      let c := c.setReg Obj.TIME_MASTER_ID a.src.toNat
      let c := if first then c else c.bump Obj.CNT_MASTER_CHANGES
      let st := c.reg Obj.TIME_STATE
      let c := if newGm && (st = timeLocked || st = timeAcquiring) then c.timeTo timeFree else c
      if c.reg Obj.TIME_STATE = timeFree then
        (c.timeTo timeAcquiring).updTime (fun t => { t with firstSync := false, good := 0 })
      else c

def ptpOn (c : Chip) : Bool := c.reg Obj.TIME_SOURCE = 0 && decide (c.reg Obj.STARTUP_STEP ≥ 6)

def execPtpAnnounce (port : Fin 8) (domain : Byte) (a : Announce) (s : State) : Host.Outcome State Fault Refusal :=
  done (s.on (fun c =>
    if ptpOn c && domain.toNat = c.reg Obj.PTP_DOMAIN then
      (c.updTime (fun t => { t with masters := Tbl.put t.masters port.val a })).selectMaster
    else c))

/-! ### Sync and the servo (R368, R370) -/

def clampI (lo hi x : Int) : Int := max lo (min hi x)

/-- An offset estimate: the own time less the master's, in ns. Within the threshold it is removed by a rate of at most
TIME_SLEW_MAX beyond the frequency estimate; in LOCKED a larger one is removed by a step; the first of ACQUIRING always is. -/
def Chip.estimate (c : Chip) (off freq corr : Int) : Chip :=
  let c := c.setReg Obj.TIME_OFFSET_EST (ofSigned 32 (clampI (-2147483648) 2147483647 off))
  let slew := (c.reg Obj.TIME_SLEW_MAX : Int) * 1000
  let rate := clampI (-500000000) 500000000 (freq + clampI (-slew) slew corr)
  let near := decide (off.natAbs ≤ c.reg Obj.TIME_STEP_THRESHOLD * 1000)
  let target := ((c.now : Int) - off).toNat
  let st := c.reg Obj.TIME_STATE
  if st = timeLocked then (if near then c.setRate rate else (c.stepTime target 1).setRate freq)
  else if st = timeAcquiring then
    if !c.time.firstSync then
      ((c.stepTime target 3).setRate freq).updTime (fun t => { t with firstSync := true, good := 0 })
    else
      let c := (c.setRate rate).updTime (fun t => { t with good := if near then t.good + 1 else 0 })
      if c.time.good ≥ 8 then c.timeTo timeLocked else c
  else c

/-- A Sync's send time is known: the estimate, and a request for the delay. -/
def Chip.synced (c : Chip) (recv origin : Nat) (freq corr : Int) : Chip :=
  let d : Int := (recv : Int) - origin
  let c := c.updTime (fun t => { t with ms := d })
  let c := c.estimate (d - c.time.delay) freq corr
  match c.time.port with
  | some p => (c.updTime (fun t => { t with reqSeq := (t.reqSeq + 1) % 65536, reqAt := some c.now })).send (.ptp p 1)
  | none => c

/-- Whether a message comes from the master that is followed. -/
def Chip.fromMaster (c : Chip) (port master : Nat) : Bool := ptpOn c && c.time.port = some port && c.time.src = master

/-- A Sync of the followed master; the first valid one ends UNSET. A two-step master's time comes with its Follow_Up. `freq` and
`corr` are the servo's frequency estimate and the correction it wants, in 1e-12. -/
def Chip.syncIn (c : Chip) (port master seq : Nat) (twoStep : Bool) (origin : Nat) (freq corr : Int) : Chip :=
  if !c.fromMaster port master then c
  else
    let c := if c.reg Obj.TIME_STATE = timeUnset then
        (c.timeTo timeAcquiring).updTime (fun t => { t with firstSync := false, good := 0 })
      else c
    if twoStep then c.updTime (fun t => { t with twoStep := some (seq, c.now) }) else c.synced c.now origin freq corr

def execPtpSync (port : Fin 8) (master : W64) (domain : Byte) (seq : W16) (twoStep : Bool) (origin : W64) (freq corr : Int)
    (s : State) : Host.Outcome State Fault Refusal :=
  done (s.on (fun c =>
    if domain.toNat = c.reg Obj.PTP_DOMAIN then c.syncIn port.val master.toNat seq.toNat twoStep origin.toNat freq corr else c))

def Chip.followUp (c : Chip) (port master seq origin : Nat) (freq corr : Int) : Chip :=
  match c.time.twoStep with
  | some (sq, at_) =>
    if c.fromMaster port master && sq = seq then (c.updTime (fun t => { t with twoStep := none })).synced at_ origin freq corr else c
  | none => c

def execPtpFollowUp (port : Fin 8) (master : W64) (seq : W16) (origin : W64) (freq corr : Int) (s : State) :
    Host.Outcome State Fault Refusal :=
  done (s.on (fun c => c.followUp port.val master.toNat seq.toNat origin.toNat freq corr))

/-- A Delay_Resp: the mean path delay of both directions. -/
def Chip.delayResp (c : Chip) (port master seq recv : Nat) : Chip :=
  match c.time.reqAt with
  | some t3 =>
    if c.fromMaster port master && seq = c.time.reqSeq then
      c.updTime (fun t => { t with delay := (t.ms + ((recv : Int) - t3)) / 2, reqAt := none })
    else c
  | none => c

def execPtpDelayResp (port : Fin 8) (master : W64) (seq : W16) (received : W64) (s : State) : Host.Outcome State Fault Refusal :=
  done (s.on (fun c => c.delayResp port.val master.toNat seq.toNat received.toNat))

/-- No Sync within TIME_MASTER_TIMEOUT: FREE_RUN at the last rate, and the algorithm looks for another master. -/
def Chip.masterTimeout (c : Chip) : Chip :=
  match c.time.port with
  | none => c
  | some p =>
    if !ptpOn c then c
    else
      let st := c.reg Obj.TIME_STATE
      let c := if st = timeLocked || st = timeAcquiring then c.timeTo timeFree else c
      (c.updTime (fun t => { t with masters := Tbl.del t.masters p, port := none })).selectMaster

def execTimeMasterTimeout (s : State) : Host.Outcome State Fault Refusal := done (s.on Chip.masterTimeout)

/-! ### MANUAL (R371) -/

def effTimeSet : Eff := effOn (fun _ bs c =>
  if c.reg Obj.TIME_SOURCE = 0 then (c, rcState) else ((c.stepTime (leNat bs) 2).timeTo timeLocked, rcOK))

def execTimeSet (r : Req) (time : W64) (s : State) : Host.Outcome State Fault Refusal :=
  done (s.rowWrite r Obj.TIME_SET (wr 8 time.toNat) effTimeSet)

def effTimeRate : Eff := effOn (fun _ bs c =>
  if c.reg Obj.TIME_SOURCE = 0 then (c, rcState) else (c.setRate (toSigned 32 (leNat bs)), rcOK))

def execTimeRate (r : Req) (rate : W32) (s : State) : Host.Outcome State Fault Refusal :=
  done (s.rowWrite r Obj.TIME_RATE (wr 4 rate.toNat) effTimeRate)

/-! ### The epoch number (R372, R373) -/

/-- Device time divided by an epoch's nominal length, to the nearest integer. -/
def Chip.epochNow (c : Chip) : Nat := (c.now + 524288000) / 1048576000

def shiftBy (d : Int) (f : Nat) : Nat := ((f : Int) + d).toNat % 2 ^ 48

/-- A frame number in a blob, shifted. -/
def shiftBlob (bs : List Byte) (o : Nat) (d : Int) : List Byte := placeAt bs o (leBytes 8 (shiftBy d (leAt bs o 6)))

def Cmd.shift (k : Cmd) (d : Int) : Cmd :=
  { k with issued := k.issued.map (fun p => (p.1, shiftBy d p.2)), rtsAt := shiftBy d k.rtsAt, ctsAt := k.ctsAt.map (shiftBy d),
           stepAt := k.stepAt.map (shiftBy d) }

/-- Every frame number kept for a future action moves by the same difference, so that it still acts at the same boundary: a pending
FREEZE_AT, the START_FRAME of injections and captures that wait, and what the units count from a frame. -/
def Chip.shiftFrames (c : Chip) (d : Int) : Chip :=
  let fz := c.reg Obj.FREEZE_AT
  let c := if fz = 0 then c else c.setReg Obj.FREEZE_AT (shiftBy d fz)
  let c := (List.range 11).foldl (fun c core => (List.range 2).foldl (fun c g =>
    let b := c.blob modInst (injKey core g)
    let x := (c.core core).gen g
    let c := if byteAt b 2 != 0 && !x.on && x.n = 0 && leAt b 0x10 6 != 0 then c.setBlob modInst (injKey core g) (shiftBlob b 0x10 d) else c
    let b := c.blob modInst (capKey core g)
    if c.reg (capState core g) = 1 && byteAt b 2 = 2 then c.setBlob modInst (capKey core g) (shiftBlob b 8 d) else c) c) c
  { c with
    queues := c.queues.map (fun p => (p.1, { p.2 with cmds := p.2.cmds.map (fun k => k.shift d) }))
    lanes := c.lanes.map (fun p => (p.1, { p.2 with joinAt := p.2.joinAt.map (shiftBy d), swapAt := p.2.swapAt.map (shiftBy d),
                                                    peerSwapAt := p.2.peerSwapAt.map (shiftBy d),
                                                    windowAt := p.2.windowAt.map (shiftBy d) }))
    links := c.links.map (fun p => (p.1, { p.2 with nakAt := p.2.nakAt.map (fun t => ((t : Int) + d * 128).toNat) }))
    swaps := c.swaps.map (fun w => { w with window := if w.window = 0 then 0 else shiftBy d w.window })
    loops := c.loops.map (fun p => (p.1, { p.2 with heldTicks := ((p.2.heldTicks : Int) + d * 128).toNat,
                                                    verifiedAt := ((p.2.verifiedAt : Int) + d * 128).toNat }))
    cores := c.cores.map (fun p => (p.1, { p.2 with rcStart := p.2.rcStart.map (shiftBy d) })) }

/-- The frame number takes E × 8,192 in place of the one that counting gives (R373). -/
def Chip.fixEpoch (c : Chip) (e counted : Nat) : Chip :=
  let f : Nat := e * 8192 % 2 ^ 48
  let c := (c.shiftFrames ((f : Int) - counted)).setReg Obj.EPOCH_FIXED 1
  let c := ({ c with frame := f } : Chip).updTime (fun t => { t with fixAt := none })
  c.raiseMod 0x0A07 [(8, counted), (8, f)]

/-! ### FSYNC and REFCLK (R372, R374, R375, R466) -/

/-- Ports in ETH_PORT_MASK train (R327, R328). -/
def Chip.startEth (c : Chip) : Chip :=
  (List.range 8).foldl (fun c p => if bitAt (c.reg Obj.ETH_PORT_MASK) p then c.setReg (Obj.ETH_LINK_STATE + p) 1 else c) c

/-- Frame 0 of an epoch begins: step 7 of start-up ends, and with it the optics of step 8e start. -/
def Chip.beginFrames (c : Chip) (edge : Bool) : Chip :=
  let fixed := edge && c.reg Obj.TIME_STATE != timeUnset
  let c := { c with frame := if fixed then c.epochNow * 8192 % 2 ^ 48 else 0, tick := 0 }
  let c := c.setReg Obj.EPOCH_FIXED (if fixed then 1 else 0)
  let c := c.setReg Obj.STARTUP_STEP 7
  let c := c.updTime (fun t => { t with phased := true, missed := 0, said := false, edge := true })
  { c.loadTravSet.startOptics.startEth with resetCounts := [] }

/-- An FSYNC edge, so many reference cycles from the expected one. The first takes the phase once step 6 is complete. -/
def Chip.fsyncEdge (c : Chip) (cycles : Int) : Chip :=
  if !c.time.phased then (if c.reg Obj.STARTUP_STEP = 6 then (c.beginFrames true).setReg Obj.FSYNC_STATE 0 else c)
  else if cycles.natAbs ≤ 2 then
    let c := (c.setReg Obj.FSYNC_STATE 0).updTime (fun t => { t with missed := 0, said := false })
    if c.reg Obj.EPOCH_FIXED = 0 && c.reg Obj.TIME_STATE != timeUnset then
      if c.frame % 8192 = 0 && c.tick = 0 then c.fixEpoch c.epochNow c.frame
      else c.updTime (fun t => { t with fixAt := some c.epochNow })
    else c
  else
    let c := c.bump Obj.CNT_FSYNC_MISPLACED
    let c := if c.reg Obj.FSYNC_STATE = 1 then c else c.setReg Obj.FSYNC_STATE 2
    if c.time.said then c else (c.updTime (fun t => { t with said := true })).raiseMod 0x0A05 []

def execFsyncEdge (cycles : Int) (s : State) : Host.Outcome State Fault Refusal := done (s.on (fun c => c.fsyncEdge cycles))

/-- An epoch without an accepted edge: counted, and LOST after two in a row. -/
def Chip.fsyncMissing (c : Chip) : Chip :=
  if !c.time.phased then c
  else
    let c := (c.bump Obj.CNT_FSYNC_MISSING).updTime (fun t => { t with missed := t.missed + 1 })
    if c.time.missed ≥ 2 && c.reg Obj.FSYNC_STATE != 1 then (c.setReg Obj.FSYNC_STATE 1).raiseMod 0x0A04 [] else c

def execFsyncMissing (s : State) : Host.Outcome State Fault Refusal := done (s.on Chip.fsyncMissing)

/-- Step 7 has waited 2.2 s: frames begin without an edge, FSYNC_STATE reads LOST, and no epoch number is fixed. -/
def execFsyncStartupTimeout (s : State) : Host.Outcome State Fault Refusal :=
  done (s.on (fun c =>
    if !c.time.phased && c.reg Obj.STARTUP_STEP = 6 then ((c.beginFrames false).setReg Obj.FSYNC_STATE 1).raiseMod 0x0A04 [] else c))

/-- Loss of REFCLK: holdover, with frames and the raw counter running. -/
def execRefclkLost (s : State) : Host.Outcome State Fault Refusal :=
  done (s.on (fun c => if c.time.refclkLost then c else (c.updTime (fun t => { t with refclkLost := true })).raiseMod 0x0A06 []))

def execRefclkReturn (s : State) : Host.Outcome State Fault Refusal :=
  done (s.on (fun c => c.updTime (fun t => { t with refclkLost := false })))

end Sys2Proof.Machine
end

