-- ==== Sys2Proof/Machine/Startup.lean ====
section
/-! DEFINITION. The always-on domain, the boot chain and start-up; what L5, L6 and a loss of power leave of the module
(R229, R366, R383, R384, R401, R404, R413, R442–R450, R465–R468, R472, R475). -/
namespace Sys2Proof.Machine

def Chip.updSide (c : Chip) (f : Side → Side) : Chip := { c with side := f c.side }

/-! ### Alerts (Table 22.6, R472) -/

def alertCycle : Nat := 0
def alertTrip : Nat := 1
def alertHold : Nat := 2
def alertRecovery : Nat := 3
def alertDomain : Nat := 4
def alertReady : Nat := 5

def Chip.alert (c : Chip) (b : Nat) : Chip := c.updSide (fun s => { s with cause := putBit s.cause b true })

/-- Whether ALERT_L is low. -/
def Chip.alertLow (c : Chip) : Bool :=
  c.side.power && (Nat.land c.side.cause c.side.causeEn != 0 || c.side.cycle || c.side.trip)

def Chip.isReady (c : Chip) : Bool := c.reg Obj.STARTUP_STEP = 9

def Chip.inL5 (c : Chip) : Bool := c.resets.any (fun r => r.level = 5)

/-- STATUS (Table 22.5). -/
def Chip.status (c : Chip) : Nat :=
  let s := c.side
  let b := fun (i : Nat) (x : Bool) => if x then 2 ^ i else 0
  1 + b 1 c.isReady + b 2 c.inL5 + b 3 s.cycle + b 4 s.trip + b 5 s.bootHold + b 6 s.recWanted + c.reg Obj.STARTUP_STEP % 16 * 256

/-- READY is cleared, and the tray is told of it. -/
def Chip.unready (c : Chip) : Chip := if c.isReady then c.alert alertReady else c

/-! ### What outlives a loss of the main domains -/

/-- Ranges of objects kept in fuses, flash or PD18 beside the non-volatile ones. -/
def keptRanges : List (Nat × Nat) :=
  [(0x000000, 0x0003FF), (Obj.LASER_SRC_STRAP, Obj.LASER_SRC_STRAP), (Obj.VENDOR_KEY_STATE, Obj.VENDOR_KEY_STATE + 1),
   (Obj.OPKEY_DIGEST, Obj.OPKEY_DIGEST + 3), (Obj.OPKEY_STATE, Obj.OPKEY_STATE + 3), (Obj.ROLLBACK_COUNT, Obj.ROLLBACK_COUNT),
   (Obj.FW_BANK_RUNNING, Obj.FW_BANK_SELECT), (Obj.FW_BANK_STATE, Obj.FW_BANK_STATE + 1), (Obj.FW_BANK_SVN, Obj.FW_BANK_SVN + 1),
   (Obj.FW_BANK_VERSION, Obj.FW_BANK_VERSION + 1), (Obj.DEVICE_CERT, Obj.DEVICE_CERT),
   (Obj.NEAR_ERASURES, Obj.NEAR_ERASURES + 15), (Obj.FAR_ERASURES, Obj.FAR_ERASURES + 15),
   (Obj.CAIRN_STATE, Obj.CAIRN_BAD_PAGES), (Obj.CNT_CAIRN_LOST, Obj.CNT_CAIRN_LOST), (Obj.CNT_STUB_OVERFLOW, Obj.CNT_STUB_OVERFLOW),
   (Obj.CNT_CAIRN_UNRECORDED, Obj.CNT_CAIRN_UNRECORDED + 15)]

/-- Ranges kept across L5 but not across a loss of PD18. -/
def kept5 : List (Nat × Nat) :=
  [(Obj.CNT_RESETS + 4, Obj.CNT_RESETS + 5), (Obj.CNT_L6_REPEATS, Obj.CNT_L6_REPEATS), (Obj.CNT_BOOT_FALLBACKS, Obj.CNT_BOOT_FALLBACKS)]

def inRanges (l : List (Nat × Nat)) (k : Nat) : Bool := l.any (fun r => decide (r.1 ≤ k) && decide (k ≤ r.2))

/-- Whether an object's value outlives L5 (`pd18`) or a loss of all power. A domain in FAULT keeps that until L6 (R383), and a
laser replaced by its spare stays replaced (R283). -/
def keepsReg (pd18 : Bool) (key v : Nat) : Bool :=
  let laser := decide (Obj.LASER_STATE / 256 ≤ key / 256) && decide (key / 256 ≤ Obj.LASER_STATE / 256 + 9)
  (match objFind (key / 256) (key % 256) with | some r => r.nonVolatile | none => false) ||
  inRanges keptRanges key ||
  (pd18 && (inRanges kept5 key || (v = 3 && decide (Obj.DOMAIN_STATE ≤ key) && decide (key ≤ Obj.DOMAIN_STATE + 29)))) ||
  (laser && (if key % 256 < 16 then v = 2 else decide (0x20 ≤ v) && decide (v < 0x30)))

def modKeys {α : Type} (t : Tbl α) (keep : Nat → α → Bool) : Tbl α :=
  t.filter (fun p => p.1 / 2 ^ 24 = modInst && keep (p.1 % 2 ^ 24) p.2)

/-- The module as a loss of its domains leaves it: what flash and fuses hold, and with `pd18` what PD18 holds. A bank being
written or verified is left INVALID (R448). -/
def Chip.survivors (c : Chip) (pd18 : Bool) : Chip :=
  let c' : Chip := {
    regs := modKeys c.regs (fun k v => keepsReg pd18 k v.toNat)
    blobs := modKeys c.blobs (fun k _ => keepsReg pd18 k 0)
    out := c.out, fresh := c.fresh, flash := c.flash, resMap := c.resMap, travSaved := c.travSaved
    cairn := if pd18 then c.cairn else { c.cairn with staging := [], dropTypes := [], dropMore := 0 }
    units := (c.units.map (fun p => (p.1, ({ retired := p.2.retired } : MemUnit)))).filter (fun p => !p.2.retired.isEmpty)
    raw := if pd18 then c.raw else 0
    frame := 0
    time := { refclkLost := c.time.refclkLost }
    darkFibres := []
    side := if pd18 then c.side else { input := c.side.input, enable := c.side.enable, rstLow := c.side.rstLow }
    resetCounts := if pd18 then c.resetCounts.filter (fun p => p.1 / 2 ^ 32 = 5) else [] }
  (List.range 2).foldl (fun c b =>
    let st := c.reg (Obj.FW_BANK_STATE + b)
    if st = 1 || st = 2 then c.setReg (Obj.FW_BANK_STATE + b) 4 else c) c'

/-! ### Bundles (R444, R445) -/

/-- The windows of a bank that FW_IMAGE has written; the rest holds what the factory put there. -/
def Chip.window (c : Chip) (b m : Nat) : List Byte :=
  match Tbl.find c.flash (64 * b + m) with
  | some w => w
  | none => fitTo (2 ^ 20) (Config.factoryFlash b m)

/-- Bytes of a bank. -/
def Chip.bank (c : Chip) (b : Nat) : List Byte := ((List.range 64).map (c.window b)).flatten

def slice (bs : List Byte) (o n : Nat) : List Byte := (bs.drop o).take n

def ascii (s : String) : List Byte := s.toUTF8.toList.map (fun b => BitVec.ofNat 8 b.toNat)

def compAt (b : List Byte) (i : Nat) : List Byte := slice b (0x40 + 80 * i) 80

/-- Checks 1 and 2 of R445 on the header. -/
def bundleHeaderOk (b : List Byte) : Bool :=
  let es := (List.range 7).map (compAt b)
  let total := leAt b 0x10 4
  let span := fun (e : List Byte) => (leAt e 4 4, leAt e 8 4)
  let apart := (List.range 7).all (fun i => (List.range 7).all (fun j =>
    let x := span (compAt b i)
    let y := span (compAt b j)
    i = j || decide (x.1 + x.2 ≤ y.1) || decide (y.1 + y.2 ≤ x.1)))
  leAt b 0 4 = 0x5A394246 && byteAt b 4 = 1 && decide (byteAt b 5 < 4) && byteAt b 7 = 0 && allZero (slice b 9 3) &&
  allZero (slice b 0x14 0x2C) && allZero (slice b 0x2A9 7) && allZero (slice b 0x322 0xDE) &&
  decide (total ≤ 2 ^ 26) && decide (byteAt b 8 ≤ 64) &&
  es.all (fun e => allZero (slice e 1 3) && allZero (slice e 0xC 4) && decide (leAt e 4 4 % 4096 = 0) && decide (4096 ≤ leAt e 4 4) &&
    decide (leAt e 4 4 + leAt e 8 4 ≤ total)) &&
  (List.range 7).all (fun t => (es.filter (fun e => byteAt e 0 = t + 1)).length = 1) && apart

/-- Check 3: the key matches an unrevoked vendor slot, and the signature is valid. -/
def Chip.signedOk (c : Chip) (b : List Byte) : Bool :=
  let v := slice b 0x270 57
  let s := byteAt b 6
  decide (s < 2) && c.reg (Obj.VENDOR_KEY_STATE + s) = 1 && Config.shake256 v 64 == Config.vendorDigest s &&
  Config.ed448Verify v (ascii "ZELENO-BOOT-1") (slice b 0 0x2B0) (slice b 0x2B0 114)

/-- Check 5: every component's digest. -/
def digestsOk (b : List Byte) : Bool :=
  (List.range 7).all (fun i =>
    let e := compAt b i
    Config.shake256 (slice b (leAt e 4 4) (leAt e 8 4)) 64 == slice e 0x10 64)

/-- A bundle is valid (R445). -/
def Chip.bundleOk (c : Chip) (b : List Byte) : Bool :=
  bundleHeaderOk b && c.signedOk b && decide (c.reg Obj.ROLLBACK_COUNT ≤ byteAt b 8) && digestsOk b

/-- A bank as the factory left it holds a bundle that passes the checks; its security version still has to suffice. -/
def Chip.factoryBank (c : Chip) (b : Nat) : Bool := (List.range 64).all (fun m => (Tbl.find c.flash (64 * b + m)).isNone)

def Chip.bankOk (c : Chip) (b : Nat) : Bool :=
  c.reg (Obj.FW_BANK_STATE + b) = 3 &&
  (if c.factoryBank b then decide (c.reg Obj.ROLLBACK_COUNT ≤ byteAt (c.window b 0) 8) else c.bundleOk (c.bank b))

/-- The measurements of a bundle (R447). -/
def Chip.measure (c : Chip) (b : List Byte) : Chip :=
  let c := c.setBlob modInst Obj.MEASUREMENT (Config.shake256 (slice b 0 0x322) 64)
  (List.range 7).foldl (fun c i =>
    let e := compAt b i
    let t := byteAt e 0
    if 1 ≤ t && t ≤ 7 then c.setBlob modInst (Obj.MEASUREMENT + t) (slice e 0x10 64) else c) c

/-! ### The lease (R401) -/

/-- A change of holder. -/
def Chip.leaseTo (c : Chip) (h : Nat) : Chip :=
  (((c.setReg Obj.LEASE_HOLDER h).bump Obj.CNT_LEASE_CHANGES)).raiseMod 0x0D05 []

/-- A claim: taken when no steward holds the lease, else refused. `b` chooses steward B. -/
def Chip.leaseClaim (c : Chip) (b : Bool) : Chip :=
  if c.reg Obj.LEASE_HOLDER = 0 then
    ((c.setReg Obj.LEASE_TERM (inc32 (c.reg Obj.LEASE_TERM))).setReg Obj.LEASE_FRAME c.frame).leaseTo (if b then 2 else 1)
  else c.bump Obj.CNT_LEASE_REFUSED

/-! ### The boot chain (R366, R443–R446, R450) -/

/-- Writable non-volatile OPERATOR objects: what a factory reset returns to its Default. -/
def factoryKeys : List Nat :=
  [Obj.FAR_SPEED, Obj.LASER_SRC_OVERRIDE, Obj.CFG_LABEL, Obj.TIME_SOURCE, Obj.POWER_LIMIT, Obj.FW_BANK_SELECT]

/-- An armed factory reset acts and disarms itself (R366). -/
def Chip.factoryReset (c : Chip) : Chip :=
  if c.reg Obj.CFG_FACTORY_ARMED = 0 then c
  else
    let drop := fun (k : Nat) => k / 2 ^ 24 = modInst && (factoryKeys.contains (k % 2 ^ 24) ||
      (List.range 8).any (fun e => k % 2 ^ 24 = atIdx Obj.STEER_ACTIVE e))
    { (c.setReg Obj.CFG_FACTORY_ARMED 0) with
      regs := Tbl.dropKeys (c.setReg Obj.CFG_FACTORY_ARMED 0).regs drop, blobs := Tbl.dropKeys c.blobs drop, travSaved := none }

/-- Step 6: the firmware runs. `bank` is FW_BANK_RUNNING. Both stewards claim the lease, A first. -/
def Chip.runBundle (c : Chip) (b : List Byte) (bank : Nat) (fallback applied readable : Bool) : Chip :=
  let c := (c.measure b).setReg Obj.FW_BANK_RUNNING bank
  let c := c.setReg Obj.FW_VERSION (leAt b 0xC 4)
  let c := (List.range 2).foldl (fun c i =>
    if c.reg (Obj.FW_BANK_STATE + i) = 3 then
      (c.setReg (Obj.FW_BANK_SVN + i) (byteAt (c.window i 0) 8)).setReg (Obj.FW_BANK_VERSION + i) (leAt (c.window i 0) 0xC 4)
    else c) c
  let c := c.updSide (fun s => { s with recWanted := false, bootHold := false })
  let c := c.setReg Obj.COMPUTE_BUDGET (c.reg Obj.POWER_LIMIT - 1200)
  let c := (c.setReg Obj.STARTUP_STEP 6).cairnStart readable
  let c := if fallback then (c.bump Obj.CNT_BOOT_FALLBACKS).raiseMod 0x0610 [] else c
  let c := if applied then c.raiseMod 0x0201 [] else c
  (c.leaseClaim false).leaseClaim true

/-- No source remains, or the next is the tray: boot hold, or a recovery bundle is awaited (R443, R445). -/
def Chip.bootWait (c : Chip) (recovery : Bool) : Chip :=
  if recovery then (c.updSide (fun s => { s with recWanted := true })).alert alertRecovery
  else (c.updSide (fun s => { s with bootHold := true })).alert alertHold

/-- Steps 3 to 6: the domains without a fault power up and the chain of BOOT_SRC is tried in order; an L5 that runs a recovery
bundle runs it again. -/
def Chip.boot (c : Chip) (l5 readable : Bool) : Chip :=
  let src := c.reg Obj.BOOT_SRC
  if src = 3 then c.bootWait false
  else
    let armed := c.reg Obj.CFG_FACTORY_ARMED = 1
    let c := (c.setReg Obj.STARTUP_STEP 3).factoryReset
    let c := c.setReg Obj.STARTUP_KIND (if l5 then 1 else 0)
    if l5 && c.reg Obj.FW_BANK_RUNNING = 2 && c.bundleOk c.side.bundle then c.runBundle c.side.bundle 2 false armed readable
    else
      let sel := c.reg Obj.FW_BANK_SELECT
      if src != 2 && c.bankOk sel then c.runBundle (c.bank sel) sel false armed readable
      else if src != 2 && c.bankOk (1 - sel) then c.runBundle (c.bank (1 - sel)) (1 - sel) true armed readable
      else c.bootWait (src != 0)

/-- Bank and recovery results of the running firmware are new; a boot counts in VCT_BOOT_COUNT (R339). -/
def Chip.countBoot (c : Chip) : Chip := c.bump32 Obj.VCT_BOOT_COUNT

/-! ### Power (R382–R384, R465, R467) -/

/-- What the pins and the recorder's flash give a start from power: the straps of R465, and whether the log can be read. -/
def Chip.strapped (c : Chip) (p : Straps) : Chip :=
  let c := (c.setReg Obj.BOARD_ID p.board.toNat).setReg Obj.SLOT_ID p.slot.val
  (c.setReg Obj.LASER_SRC_STRAP (if p.laser then 1 else 0)).setReg Obj.BOOT_SRC p.boot.val

/-- The identity that the fuses and the boot ROM give (R442, R450). -/
def Chip.identity (c : Chip) : Chip :=
  let ser := Config.deviceSerial
  let priv := Config.shake256 (ascii "ZELENO-DEVID-1" ++ Config.identitySeed ++ leBytes 8 ser.toNat) 57
  let c := ((c.setReg Obj.DEVICE_SERIAL ser.toNat).setBlob modInst Obj.PART_NUMBER (ascii "MTF-Z9-01")).setReg Obj.HW_STEPPING Config.hwStepping.toNat
  let c := (c.setBlob modInst Obj.DEVICE_ID_PUBKEY (Config.ed448Public priv)).setBlob modInst Obj.DEVICE_CERT Config.deviceCert
  (List.range 4).foldl (fun c i =>
    if c.reg (Obj.OPKEY_STATE + i) != 0 && (c.blob modInst (Obj.OPKEY_DIGEST + i)).isEmpty then
      c.setBlob modInst (Obj.OPKEY_DIGEST + i) (Config.operatorDigest i) else c) c

/-- Start-up from power, steps 1 to 6; TRAY_RST_L low holds it after step 2. -/
def Chip.powerUp (c : Chip) (p : Straps) : Chip :=
  let c := (((c.survivors false).strapped p).identity).countBoot
  let c := (c.updSide (fun s => { s with power := true, lost := false, hold := if s.rstLow then 1 else 0 })).setReg Obj.STARTUP_STEP 2
  if c.side.rstLow then c else c.boot false p.readable

/-- Every domain but PD18 loses power; READY is cleared (R384). -/
def Chip.losePower (c : Chip) : Chip :=
  let c := c.unready
  let c := (c.survivors true).updSide (fun s => { s with lost := true, hold := 0 })
  c.setReg Obj.STARTUP_STEP 2

/-- The 48 V input, or TRAY_PWR_EN, goes (R384, R467). -/
def Chip.inputLost (c : Chip) : Chip :=
  if !c.side.power || c.side.lost then c
  else (if c.side.cycle then c else c.stub stubInput 0).losePower

/-! ### L5 and L6 (R404, R406, R413) -/

/-- The scope of a reset in the layout of RESET_REQUEST (R406, Table 17.6). -/
def ResetRec.scope (r : ResetRec) : Nat :=
  r.level + (if r.level = 1 then r.ctx * 8 else 0) + (if r.level = 1 || r.level = 3 then r.part * 256 else 0) +
  (if r.level = 2 then r.ridge * 2048 + r.spur * 65536 else 0)

/-- The partition on whose behalf a reset's events are raised. -/
def ResetRec.owner (r : ResetRec) : Nat := if r.level ≤ 3 then r.part else 0xFF

/-- RESET_BEGIN or RESET_END: level, scope, cause and frame. -/
def Chip.resetEvent (c : Chip) (ty : Nat) (r : ResetRec) : Chip :=
  c.raise ty r.owner [(1, r.level), (4, r.scope), (1, r.cause), (8, c.frame)]

/-- A reset is ordered: counted by level, named in RESET_LAST, RESET_BEGIN raised. -/
def Chip.resetBegins (c : Chip) (r : ResetRec) : Chip :=
  let c := { c with resetCounts := Tbl.upd c.resetCounts 0 (r.level * 2 ^ 32 + r.scope) (· + 1) }
  ((c.bump (Obj.CNT_RESETS + (r.level - 1))).setReg Obj.RESET_LAST (c.frame + r.level * 2 ^ 48 + r.cause * 2 ^ 56)).resetEvent 0x0D01 r

/-- Every session closes (R334). -/
def Chip.closeAll (c : Chip) : Chip :=
  let c := c.sess.foldl (fun c p => c.raise 0x0102 p.2.part []) c
  { c with sess := [] }

/-- L6: the request to the tray, the stub entry, and power off but for PD18 and, unless the cause lies there, PD19 (R413). -/
def Chip.enterL6 (c : Chip) (cause : Nat) (pd19 : Bool) : Chip :=
  if c.side.cycle || !c.side.power || c.side.lost then c
  else
    let c := (c.resetBegins { level := 6, cause := cause }).closeAll
    let c := ((c.raiseMod 0x0D08 []).stub stubCycle cause).unready
    let last := c.reg Obj.RESET_LAST
    let c' := (c.survivors true).setReg Obj.RESET_LAST last
    let c' := (List.range 30).foldl (fun c d =>
      if d = 18 || (d = 19 && !pd19) || c.reg (Obj.DOMAIN_STATE + d) = 3 then c else c.setReg (Obj.DOMAIN_STATE + d) 2) c'
    let c' := c'.setReg Obj.STARTUP_STEP (if pd19 || c.reg Obj.STARTUP_STEP < 6 then 2 else 6)
    (c'.updSide (fun s => { s with cycle := true, pd19Off := pd19, hold := 0 })).alert alertCycle

/-- L5 from its entry: every domain but PD18 goes down and comes up again; TRAY_RST_L low holds it at the entry (R404, R468). -/
def Chip.enterL5 (c : Chip) (cause : Nat) (readable : Bool) : Chip :=
  let r : ResetRec := { level := 5, cause := cause }
  if c.side.cycle || !c.side.power then c
  else if c.inL5 then { (c.resetBegins r) with resets := c.resets ++ [r] }
  else
    let c := ((c.resetBegins r).closeAll).unready
    let last := c.reg Obj.RESET_LAST
    let c := (((c.survivors true).setReg Obj.RESET_LAST last).countBoot).updSide (fun s => { s with lost := false, hold := if s.rstLow then 2 else 0 })
    let c := { (c.setReg Obj.STARTUP_STEP 2) with resets := [r] }
    if c.side.rstLow then c else c.boot true readable

end Sys2Proof.Machine
end

