-- ==== Sys2Proof/Machine/Power.lean ====
section
/-! DEFINITION. Power: the budget, points and the power controller, droop, thermal limits and domain faults (R381–R396). -/
namespace Sys2Proof.Machine

/-! ### Domains (R381, R383) -/

/-- A domain's state, which FAULT does not leave. -/
def Chip.setDomain (c : Chip) (d st : Nat) : Chip :=
  if c.reg (Obj.DOMAIN_STATE + d) = 3 then c else c.setReg (Obj.DOMAIN_STATE + d) st

/-- The state of a Ridge's domain: gated when retired, clock-gated when FREE. -/
def Chip.ridgeDomain (c : Chip) (n : Nat) : Chip :=
  c.setDomain n (if c.retired n then 2 else if (c.owner n).isNone then 1 else 0)

/-- The engines of die `d`. -/
def dieEngines (d : Nat) : List Nat := (List.range 8).filter (fun k => dieOf k = d)

/-- A fault of an uncore: its Ridges, stacks, notch chiplet and engines are lost (Table 16.2). -/
def Chip.dieFault (c : Chip) (d : Nat) : Chip :=
  let c := (List.range 8).foldl (fun c i => (c.retireRidge (8 * d + i)).outOfService (8 * d + i)) c
  let c := c.notchFails d
  (dieEngines d).foldl Chip.declareFailed c

/-- DOMAIN_FAULT (R383, Table 16.2). -/
def Chip.domainFault (c : Chip) (d : Nat) : Chip :=
  if c.reg (Obj.DOMAIN_STATE + d) = 3 || !c.side.power then c
  else
    let c := ((c.setReg (Obj.DOMAIN_STATE + d) 3).raiseMod 0x0305 []).alert alertDomain
    if d < 16 then c.retireRidge d
    else if d < 18 then c.dieFault (d - 16)
    else if d < 20 then c.enterL6 9 (d = 19)
    else if d < 22 then (List.range 8).foldl (fun c i =>
      let u := 16 + 8 * (d - 20) + i
      if c.unitState u < 2 then c.outOfService u else c) c
    else c.declareFailed (d - 22)

/-- DOMAIN_FAULT (R383). -/
def execDomainFault (domain : Fin 30) (s : State) : Host.Outcome State Fault Refusal := done (s.on (fun c => c.domainFault domain.val))

/-! ### Points (R385, R386) -/

/-- The voltage of a point in hundredths of a volt (Table 16.3). -/
def pointVolt (q : Nat) : Nat := if q ≤ 20 then 62 + 2 * (q - 10) else if q = 21 then 85 else 88

/-- m(q), clock × voltage² (R388). -/
def pointCost (q : Nat) : Nat := q * (pointVolt q * pointVolt q)

/-- A Ridge's point in force. -/
def Chip.setPoint (c : Chip) (n q : Nat) : Chip :=
  (c.updRidge n (fun r => { r with point := q, goal := q, ramped := false })).setReg (Obj.RIDGE_POINT + n) q

/-- A change of point at a tick edge: down at once, up after its voltage ramp. -/
def Chip.toPoint (c : Chip) (n q : Nat) : Chip :=
  if q ≤ (c.ridge n).point then c.setPoint n q
  else if q = (c.ridge n).goal then c
  else c.updRidge n (fun r => { r with goal := q, ramped := false })

/-- DVFS_RAMP_DONE: the voltage of a step up has been reached; the clock follows at the next tick edge. -/
def execDvfsRampDone (ridge : Fin 16) (s : State) : Host.Outcome State Fault Refusal :=
  done (s.on (fun c => c.updRidge ridge.val (fun r => { r with ramped := decide (r.point < r.goal) })))

/-- At a tick edge a ramped Ridge changes its clock. -/
def Chip.rampEdge (c : Chip) : Chip :=
  (List.range 16).foldl (fun c n => if (c.ridge n).ramped then c.setPoint n (c.ridge n).goal else c) c

/-- The Ridges of a partition that run. -/
def Chip.liveRidges (c : Chip) (k : Nat) : List Nat := (c.ridgeList k).filter (fun n => !c.retired n)

/-- The power controller for one ACTIVE partition: `p` is its measured Ridge power (R388). -/
def Chip.dvfsPart (c : Chip) (k : Nat) (p : W32) : Chip :=
  let live := c.liveRidges k
  if c.wsState k != wsActive || live.isEmpty then c
  else
    let at_ := live.foldl (fun m n => max m (c.ridge n).point) 10
    let eff := (c.part k).share * c.reg Obj.CUT_FACTOR
    let fits := fun (q : Nat) =>
      decide (q ≤ c.get k Obj.CLOCK_MAX) && decide (q ≤ at_ + 1) && decide (at_ ≤ q + 4) &&
      Fv.le (Fv.mul (f32Val p) (.fin false (pointCost q * 256) 0)) (.fin false (eff * pointCost at_) 0)
    let q := match ((List.range 13).map (fun i => 22 - i)).find? fits with
      | some q => q
      | none => max (at_ - 4) 10
    live.foldl (fun c n => c.toPoint n (min q (c.ridge n).thermalCap)) c

/-! ### The limiter and the cut (R390, R392) -/

/-- The limiter acts: every active Ridge above point 11 drops two points. -/
def Chip.limiterDrop (c : Chip) : Chip :=
  (List.range 8).foldl (fun c k => (c.liveRidges k).foldl (fun c n =>
    if (c.ridge n).point > 11 then c.setPoint n ((c.ridge n).point - 2) else c) c) c

/-- Whether the mean of some measurements lies above a limit. -/
def meanAbove (l : List W32) (limit : Nat) : Bool :=
  Fv.lt (.fin false (limit * l.length) 0) (l.foldl (fun a w => Fv.add a (f32Val w)) (.fin false 0 0))

/-- The limiter at a tick edge: a drop found due at the edge before is made; the means over the last 16 ticks are judged. -/
def Chip.limiterEdge (c : Chip) (power current : W32) : Chip :=
  let c := if c.limDue then { c.limiterDrop with limDue := false } else c
  let means := (c.means ++ [(power, current)]).drop (c.means.length + 1 - 16)
  let c := { c with means := means }
  let why := (if meanAbove (means.map (·.1)) (c.reg Obj.POWER_LIMIT) then 1 else 0) + (if meanAbove (means.map (·.2)) 92 then 2 else 0)
  let idle := match c.limAt with | some t => decide (t + 16 * 800 ≤ c.raw) | none => true
  if why = 0 || !idle then c else { c with limDue := true, limAt := some c.raw, limFrame := Nat.lor c.limFrame why }

/-- CUT_FACTOR at a boundary: the frame's limiter and coolant causes, else the rise. -/
def Chip.cutBoundary (c : Chip) (input inlet outlet : W32) : Chip :=
  let lim := c.limFrame
  let cool := f32Lt (BitVec.ofNat 32 (c.reg Obj.COOLANT_INLET_MAX)) inlet || f32Lt (f32OfInt 60) outlet
  let old := c.reg Obj.CUT_FACTOR
  let low := Fv.le (Fv.mul (f32Val input) (.fin false 100 0)) (.fin false (97 * c.reg Obj.POWER_LIMIT) 0)
  let new := if lim != 0 || cool then max 96 (old - (if lim != 0 then 8 else 0) - (if cool then 8 else 0))
    else if low then min 256 (old + 2) else old
  let c := (c.setReg Obj.CUT_FACTOR new).setReg Obj.CUT_CAUSE (lim + (if cool then 4 else 0))
  let c := { c with limFrame := 0 }
  let c := if old = 256 && decide (new < 256) then c.raiseMod 0x0301 []
    else if decide (old < 256) && new = 256 then c.raiseMod 0x0302 [] else c
  if new < 256 then c.bump Obj.CNT_CUT_FRAMES else c

/-! ### Thermal limits (R391) -/

/-- A Ridge's thermal cap at a boundary. It falls from the point it binds at. -/
def Chip.thermalBoundary (c : Chip) (n : Nat) : Chip :=
  let t := BitVec.ofNat 32 (c.reg (Obj.RIDGE_TEMP + n))
  let r := c.ridge n
  if f32Le (f32OfInt 100) t then
    let c := c.updRidge n (fun r => { r with thermalCap := max 10 (min r.thermalCap r.point - 1), hot := true })
    let c := c.count modInst (Obj.CNT_THERMAL_THROTTLE + n) 1
    if r.hot then c else c.raise 0x0303 (c.ownerN n) []
  else if f32Lt t (f32OfInt 95) then
    (if r.thermalCap < 22 || r.hot then c.updRidge n (fun r => { r with thermalCap := min 22 (r.thermalCap + 1), hot := false }) else c)
  else c

/-- THERMAL_TRIP: power goes as R384 lays down, and only L6 brings it back (R391). -/
def Chip.thermalTrip (c : Chip) : Chip :=
  if c.side.cycle || !c.side.power || c.side.lost then c
  else
    let c := (c.raiseMod 0x0304 []).stub stubTrip 0
    ((c.updSide (fun s => { s with trip := true })).alert alertTrip).enterL6 10 true

/-- THERMAL_TRIP (R391). -/
def execThermalTrip (s : State) : Host.Outcome State Fault Refusal := done (s.on Chip.thermalTrip)

/-! ### Droop (R393, R394) -/

/-- DROOP_SAG: step 1 of R393 is entered. -/
def execDroopSag (ridge : Fin 16) (s : State) : Host.Outcome State Fault Refusal :=
  done (s.on (fun c =>
    if c.retired ridge.val then c
    else (c.updRidge ridge.val (fun r => { r with stretching := true, inStretch := true })).count modInst (Obj.CNT_STRETCH + ridge.val) 1))

/-- STRETCH_END: full rate resumes, after so many halved cycles. -/
def execStretchEnd (ridge : Fin 16) (halved : W32) (s : State) : Host.Outcome State Fault Refusal :=
  done (s.on (fun c =>
    if (c.ridge ridge.val).inStretch then
      (c.updRidge ridge.val (fun r => { r with inStretch := false, lost := r.lost + halved.toNat })).count modInst (Obj.CNT_STRETCH_CYCLES + ridge.val) halved.toNat
    else c))

/-- DOMAIN_SAG in a fixed-clock domain. -/
def execDomainSag (domain : Fin 30) (s : State) : Host.Outcome State Fault Refusal :=
  done (s.on (fun c =>
    let d := domain.val
    if d < 16 || c.reg (Obj.DOMAIN_STATE + d) = 3 then c
    else
      let c := c.count modInst (Obj.CNT_DOMAIN_SAG + d) 1
      if c.sagSaid.contains d then c else ({ c with sagSaid := c.sagSaid ++ [d] } : Chip).raiseMod 0x0306 []))

/-! ### The input limit (R387, R403) -/

/-- The sum of the shares of the partitions in CREATING and ACTIVE. -/
def Chip.shares (c : Chip) : Nat :=
  (List.range 8).foldl (fun n k => if c.wsState k = wsCreating || c.wsState k = wsActive then n + (c.part k).share else n) 0

def effPowerLimit : Eff := effOn (fun _ bs c =>
  let v := leNat bs
  if v < 1200 + c.shares then (c, rcRange)
  else if c.reg Obj.LEASE_HOLDER = 0 then (c, rcState)
  else ((c.setReg Obj.POWER_LIMIT v).setReg Obj.COMPUTE_BUDGET (v - 1200), rcOK))

/-- POWER_LIMIT_WRITE (R387). -/
def execPowerLimitWrite (r : Req) (watts : W32) (s : State) : Host.Outcome State Fault Refusal :=
  done (s.rowWrite r Obj.POWER_LIMIT (wr 4 watts.toNat) effPowerLimit)

end Sys2Proof.Machine
end

