-- ==== Sys2Proof/Machine/Tray.lean ====
section
/-! DEFINITION. The tray's side: TRAY_PWR_EN, TRAY_RST_L, the 48 V input, READY, the I3C registers with recovery, and the
PMBus controller (R384, R413, R467–R473, R475). -/
namespace Sys2Proof.Machine

/-! ### Power and reset pins (R384, R467, R468) -/

/-- Input valid and TRAY_PWR_EN asserted: the module starts from power, or orders L5 where PD18 has held up. -/
def Chip.powerBack (c : Chip) (p : Straps) (held : Bool) : Chip :=
  if !(c.side.input && c.side.enable) then c
  else if c.side.power && !c.side.lost then c
  else if c.side.power && held && !c.side.cycle then c.enterL5 13 p.readable
  else c.powerUp p

/-- TRAY_PWR_EN_ASSERT. `held`: PD18 has held up since a loss (R384). -/
def execTrayPwrEnAssert (straps : Straps) (held : Bool) (s : State) : Host.Outcome State Fault Refusal :=
  done (s.on (fun c => (c.updSide (fun x => { x with enable := true })).powerBack straps held))

/-- TRAY_PWR_EN_DEASSERT: treated as loss of input (R467). -/
def execTrayPwrEnDeassert (s : State) : Host.Outcome State Fault Refusal :=
  done (s.on (fun c => (c.inputLost).updSide (fun x => { x with enable := false })))

/-- INPUT_LOST (R384). -/
def execInputLost (s : State) : Host.Outcome State Fault Refusal :=
  done (s.on (fun c => (c.inputLost).updSide (fun x => { x with input := false })))

/-- INPUT_RETURN (R384, R404). -/
def execInputReturn (straps : Straps) (held : Bool) (s : State) : Host.Outcome State Fault Refusal :=
  done (s.on (fun c => (c.updSide (fun x => { x with input := true })).powerBack straps held))

/-- Start-up stops after step 2 (R468): the domains go down again; a reset in progress stays so. -/
def Chip.stopStart (c : Chip) (hold : Nat) : Chip :=
  let rs := c.resets
  let last := c.reg Obj.RESET_LAST
  let c := (c.survivors true).updSide (fun s => { s with hold := hold, recWanted := false, bootHold := false })
  { ((c.setReg Obj.RESET_LAST last).setReg Obj.STARTUP_STEP 2) with resets := rs }

/-- TRAY_RST_L asserted for 10 µs or more (R468). -/
def Chip.resetPin (c : Chip) : Chip :=
  let c := c.updSide (fun s => { s with rstLow := true })
  if !c.side.power || c.side.lost || c.side.cycle then c
  else if c.inL5 && !c.isReady then (c.enterL5 1 true).stopStart 2
  else if c.reg Obj.STARTUP_STEP < 6 then c.stopStart 1
  else c.enterL5 1 true

/-- TRAY_RST_L_ASSERT (R468). -/
def execTrayRstLAssert (s : State) : Host.Outcome State Fault Refusal := done (s.on Chip.resetPin)

/-- TRAY_RST_L_RELEASE: start-up resumes from step 3 of its column (R468). -/
def execTrayRstLRelease (readable : Bool) (s : State) : Host.Outcome State Fault Refusal :=
  done (s.on (fun c =>
    let h := c.side.hold
    let c := c.updSide (fun s => { s with rstLow := false, hold := 0 })
    if h = 0 then c else c.boot (h = 2) readable))

/-- The tray has left TRAY_PWR_EN asserted: the request is repeated (R413). -/
def execL6TrayWaitExpired (s : State) : Host.Outcome State Fault Refusal :=
  done (s.on (fun c =>
    if c.side.cycle && c.side.enable && !c.side.lost then (c.alert alertCycle).bump Obj.CNT_L6_REPEATS else c))

/-! ### READY (R78, R160, R168, R176, R475) -/

/-- A Ridge after self-test (R78): its map, its state, and the positions that failed. -/
def Chip.ridgeUp (c : Chip) (n passed : Nat) : Chip :=
  let dead := c.reg (Obj.DOMAIN_STATE + n) = 3 || c.reg (Obj.DOMAIN_STATE + (16 + n / 8)) = 3
  let ok := setBits 17 passed
  let map := ok.take 16
  let c := c.setReg (Obj.SPUR_FAILED_MASK + n) (maskOf ((List.range 17).filter (fun p => !bitAt passed p)))
  let c := c.updRidge n (fun r => { r with
    spurs := (List.range 17).map (fun p => (p, { (r.spur p) with failed := !bitAt passed p, passed := bitAt passed p })) })
  if dead || map.length < c.reg Obj.RIDGE_MIN_SPURS then
    let c := ((c.setReg (Obj.RIDGE_SPUR_MAP + n) (maskOf map)).setReg (Obj.RIDGE_STATE + n) 2).setDomain n 2
    if dead then c else c.raise 0x0422 0xFF []
  else ((c.setReg (Obj.RIDGE_SPUR_MAP + n) (maskOf map)).setReg (Obj.RIDGE_STATE + n) (if map.length < 16 then 1 else 0)).setDomain n 1

/-- A unit after training with its retired list and erasure marks (R161, R168, R175). -/
def Chip.unitUp (c : Chip) (u bytes : Nat) (marked : Bool) : Chip :=
  let n := (c.unit u).retired.length
  let c := c.updUnit u (fun m => { m with backed := bytes, held := true })
  let c := c.setReg (if u < 16 then Obj.NEAR_RETIRED + u else Obj.FAR_RETIRED + (u - 16)) n
  (c.setReg (unitStateKey u) (if marked then 1 else 0)).setReg (unitBytesKey u) (bytes - 65536 * n)

/-- A unit that fails training, or has no power, is out of service and holds no data (R162, R176, R383). -/
def Chip.unitDown (c : Chip) (u : Nat) (quiet : Bool) : Chip :=
  let c := (c.setReg (unitStateKey u) 2).setReg (unitBytesKey u) 0
  let c := c.updUnit u (fun m => { m with backed := if u < 16 then 48 * 2 ^ 30 else 0, held := false })
  if quiet then c else c.raiseMod 0x0504 []

def Chip.stackUp (c : Chip) (n : Nat) (trained : Bool) : Chip :=
  let dead := c.reg (Obj.DOMAIN_STATE + (16 + n / 8)) = 3
  if dead || !trained then c.unitDown n dead
  else c.unitUp n (48 * 2 ^ 30) ((c.blob modInst (Obj.NEAR_ERASURES + n)).any (· != 0#8))

/-- A channel after the SPD read and training (R160). -/
def Chip.channelUp (c : Chip) (m : Nat) (d : Option DimmUp) : Chip :=
  let dead := c.reg (Obj.DOMAIN_STATE + (20 + m / 8)) = 3
  let c := c.updUnit (16 + m) (fun x => { x with backed := 0, held := false })
  match d with
  | none => c.setReg (Obj.FAR_STATE + m) 3
  | some d =>
    if dead then c.unitDown (16 + m) true
    else if !d.present then c.setReg (Obj.FAR_STATE + m) 3
    else if !d.accepted then (c.setReg (Obj.FAR_STATE + m) 4).raiseMod 0x0505 []
    else if !d.trained then c.unitDown (16 + m) false
    else (c.setReg (Obj.FAR_DIMM_INFO + m) d.info.toNat).unitUp (16 + m) (fld d.info.toNat 15 0 * 2 ^ 30)
      (c.reg (Obj.FAR_ERASURES + m) != 0)

/-- The one speed of the populated channels: the fastest that FAR_SPEED and every accepted DIMM allow (R160). -/
def Chip.farSpeed (c : Chip) (ds : List DimmUp) : Nat :=
  let ok := ds.filter (fun d => d.present && d.accepted && d.trained)
  if ok.isEmpty then 0 else if c.reg Obj.FAR_SPEED != 1 && ok.all (·.fast) then 2 else 1

/-- The figures of the trained groups (R326). -/
def Chip.calUp (c : Chip) (g : Nat) : List CalUp → Chip
  | [] => c
  | x :: t =>
    let c := ((c.setReg (Obj.CAL_LAST_TEMP + g) x.temp.toNat).setReg (Obj.CAL_EYE_WIDTH + g) x.width.toNat).setReg (Obj.CAL_EYE_HEIGHT + g) x.height.toNat
    Chip.calUp ((c.setReg (Obj.CAL_RESIDUAL + g) x.resid.toNat).setReg (Obj.CAL_WORST_LANE + g) x.worst.toNat) (g + 1) t

/-- Steps 8a to 8d and 8f have ended for every usable unit: the extent table takes what they found, and READY is set. -/
def Chip.ready (c : Chip) (b : BringUp) : Chip :=
  let c := (List.range 16).foldl (fun c n => c.ridgeUp n (b.spurs.getD n 0#17).toNat) c
  let live := (List.range 16).filter (fun n => c.reg (Obj.RIDGE_STATE + n) != 2)
  let c := (c.setReg Obj.RIDGES_ACTIVE live.length).setReg Obj.SPURS_ACTIVE (live.foldl (fun t n => t + popCount 17 (c.spurMap n)) 0)
  let c := (List.range 16).foldl (fun c n => c.stackUp n (bitAt b.stackMask.toNat n)) c
  let c := c.setReg Obj.FAR_SPEED_ACTIVE (c.farSpeed b.dimms)
  let c := (List.range 16).foldl (fun c m => c.channelUp m (b.dimms[m]?)) c
  let c := c.calUp 0 (b.cal.take 58)
  ((c.setReg Obj.STARTUP_STEP 9).setReg Obj.STARTUP_TIME b.ms.toNat).alert alertReady

/-- READY: every backed line reads as zeros (R228, R475). -/
def execReady (up : BringUp) (s : State) : Host.Outcome State Fault Refusal :=
  done (if s.chip.reg Obj.STARTUP_STEP = 7 && s.chip.side.power && !s.chip.side.lost && !s.chip.side.cycle then
    (s.withMem {}).on (fun c => c.ready up) else s)

/-! ### I3C (R469–R472) -/

/-- A write of ALERT_CAUSE: ones clear, but for the power-cycle bit while the request stands. -/
def execAlertCauseWrite (value : Byte) (s : State) : Host.Outcome State Fault Refusal :=
  done (s.on (fun c => if !c.side.power then c else c.updSide (fun x =>
    { x with cause := maskOf ((setBits 6 x.cause).filter (fun i => !bitAt value.toNat i || (i = 0 && x.cycle))) })))

/-- A write of ALERT_EN. -/
def execAlertEnWrite (value : Byte) (s : State) : Host.Outcome State Fault Refusal :=
  done (s.on (fun c => if !c.side.power then c else c.updSide (fun x => { x with causeEn := value.toNat % 64 })))

/-- SETDASA or ENTDAA assigns a dynamic address. -/
def execI3cDynamicAddress (address : BitVec 7) (s : State) : Host.Outcome State Fault Refusal :=
  done (s.on (fun c => if !c.side.power then c else c.updSide (fun x => { x with address := some address.toNat })))

/-- The I3C address: the dynamic one, else 0x40 + SLOT_ID. -/
def Chip.i3cAddress (c : Chip) : Nat := c.side.address.getD (0x40 + c.reg Obj.SLOT_ID)

/-- BEGIN. -/
def execRecoveryBegin (s : State) : Host.Outcome State Fault Refusal :=
  done (s.on (fun c => if !c.side.power then c else c.updSide (fun x => { x with recState := 1, recBytes := [] })))

def placeBytes (t : Tbl Byte) (o : Nat) : List Byte → Tbl Byte
  | [] => t
  | b :: bs => placeBytes (Tbl.put t o b) (o + 1) bs

/-- RECOVERY_DATA at RECOVERY_OFFSET, which the tray may have written before; more than 64 MiB discards the transfer. -/
def execRecoveryData (offset : Option W32) (data : List Byte) (s : State) : Host.Outcome State Fault Refusal :=
  done (s.on (fun c => if !c.side.power then c else c.updSide (fun x =>
    let o := match offset with | some v => v.toNat | none => x.recOffset
    let x := { x with recOffset := (o + data.length) % 2 ^ 32 }
    if x.recState != 1 then x
    else if o + data.length > 2 ^ 26 then { x with recState := 0, recBytes := [] }
    else { x with recBytes := placeBytes x.recBytes o data })))

def recBundle (t : Tbl Byte) : List Byte :=
  (List.range (t.foldl (fun n p => max n (p.1 + 1)) 0)).map (fun i => Tbl.get t 0#8 i)

/-- END: the bundle is checked; a boot that awaits one goes on with it (R443, R445, R470). -/
def Chip.recoveryEnd (c : Chip) : Chip :=
  if !c.side.power || c.side.recState != 1 then c
  else
    let b := recBundle c.side.recBytes
    if c.bundleOk b then
      let c := c.updSide (fun x => { x with recState := 3, recBytes := [], bundle := if x.recWanted then b else x.bundle })
      if c.side.recWanted then c.runBundle b 2 true false true else c
    else c.updSide (fun x => { x with recState := 4, recBytes := [] })

def execRecoveryEnd (s : State) : Host.Outcome State Fault Refusal := done (s.on Chip.recoveryEnd)

def Side.discard (x : Side) : Side := if x.recState = 1 then { x with recState := 0, recBytes := [] } else x

/-- ABORT. -/
def execRecoveryAbort (s : State) : Host.Outcome State Fault Refusal := done (s.on (fun c => c.updSide Side.discard))

/-- A transfer idle for 10 s is discarded. -/
def execRecoveryIdleTimeout (s : State) : Host.Outcome State Fault Refusal := done (s.on (fun c => c.updSide Side.discard))

/-! ### PMBus (R395, R471) -/

/-- The controller answers with a word, where the input is present. -/
def Chip.pmbus (c : Chip) (w : W16) : Chip := if c.side.input then c.send (.pmbus (leBytes 2 w.toNat)) else c

def execReadVin (word : W16) (s : State) : Host.Outcome State Fault Refusal := done (s.on (fun c => c.pmbus word))
def execReadIin (word : W16) (s : State) : Host.Outcome State Fault Refusal := done (s.on (fun c => c.pmbus word))
def execReadPin (word : W16) (s : State) : Host.Outcome State Fault Refusal := done (s.on (fun c => c.pmbus word))
def execReadTemperature1 (word : W16) (s : State) : Host.Outcome State Fault Refusal := done (s.on (fun c => c.pmbus word))

/-- STATUS_WORD: the faults the controller has latched, with those it finds now. -/
def execStatusWord (faults : W16) (s : State) : Host.Outcome State Fault Refusal :=
  done (s.on (fun c =>
    if !c.side.input then c
    else
      let w := Nat.lor c.side.pmbusFaults faults.toNat
      (c.updSide (fun x => { x with pmbusFaults := w })).send (.pmbus (leBytes 2 w))))

/-- CLEAR_FAULTS. -/
def execClearFaults (s : State) : Host.Outcome State Fault Refusal :=
  done (s.on (fun c => if c.side.input then c.updSide (fun x => { x with pmbusFaults := 0 }) else c))

end Sys2Proof.Machine
end

