-- ==== Sys2Proof/Machine/Resets.lean ====
section
/-! DEFINITION. Resets L1 to L6: joining, escalation, the Scree sample, the reset of Spurs and Ridges; and the failures of Spur
positions with their remaps (R45, R67, R72, R75–R82, R146–R148, R404–R411). -/
namespace Sys2Proof.Machine

/-! ### Spurs (R45, R72, R76) -/

/-- The noise generators of a Spur are seeded from the owner's SR_SEED (R45). -/
def Chip.seedSpur (c : Chip) (n p : Nat) : Chip :=
  let s := c.get (c.ownerN n) Obj.SR_SEED
  c.updSpur n p (fun x => { x with gens := (List.range 256).map (fun l => (l, Config.noiseSeed s n p l)) })

/-- A Spur's logic is reset: its unit is gone, its SRAM holds undefined data, its generators are seeded (R72, R76). -/
def Chip.resetSpur (c : Chip) (n p : Nat) : Chip :=
  let (g, c) := c.tick1
  let c := c.updSpur n p (fun x => { x with unit := none, part := none, acc := [], vregs := [], undef := g + 1, accUndef := g + 1 })
  (c.spadClear n p).seedSpur n p

/-! ### Scope (R404, R408) -/

/-- Whether a reset rewinds the queues of a context on a Ridge (Table 5.4). -/
def ResetRec.covers (r : ResetRec) (c : Chip) (n ctx : Nat) : Bool :=
  match r.level with
  | 1 => c.owner n == some r.part && r.ctx = ctx
  | 2 => r.ridge = n
  | 3 => c.owner n == some r.part
  | _ => true

/-- Whether reset `b` lies within reset `a`. -/
def ResetRec.holds (a b : ResetRec) (c : Chip) : Bool :=
  decide (b.level ≤ a.level) &&
  (List.range 16).all (fun n => (List.range 16).all (fun x => !b.covers c n x || a.covers c n x))

/-- The Ridges that have a queue in a reset's scope. -/
def ResetRec.touched (r : ResetRec) (c : Chip) : List Nat :=
  (List.range 16).filter (fun n => (List.range 8).any (fun q => r.covers c n (c.qctx n q)))

/-- Whether a reset that is ordered now has anything to act on: the firmware runs, the partition is ACTIVE and the Ridge not in
a teardown, which absorbs it (R226), the Ridge is not RETIRED. -/
def ResetRec.due (r : ResetRec) (c : Chip) : Bool :=
  c.side.power && !c.side.cycle && !c.side.lost &&
  match r.level with
  | 1 | 3 => decide (c.reg Obj.STARTUP_STEP ≥ 6) && decide (r.part < 8) && c.wsState r.part = wsActive
  | 2 => decide (c.reg Obj.STARTUP_STEP ≥ 6) && !c.retired r.ridge && !(List.range 8).any (fun k => c.owner r.ridge == some k && c.wsState k = wsTearing)
  | 6 => true
  | _ => decide (c.reg Obj.STARTUP_STEP ≥ 6)

/-! ### The Scree sample (R409–R411, Table 17.3) -/

/-- A long write under a partition's key, split at frames. -/
def State.writeLong (k : Nat) : Nat → Nat → List Byte → State → State
  | 0, _, _, s => s
  | f + 1, pa, bs, s =>
    if bs.isEmpty then s
    else
      let n := 65536 - pa % 65536
      State.writeLong k f (pa + n) (bs.drop n) (s.writePhys k pa (bs.take n)).1

/-- The first 16 KiB of a scratchpad and `m` chunks of 256 bytes, one from each further 64 KiB. -/
def Chip.headTaps (c : Chip) (n p m : Nat) : List Byte :=
  c.spadBytes n p 0 16384 ++ ((List.range m).map (fun i => c.spadBytes n p (65536 * (i + 1)) 256)).flatten

/-- The region of a Spur position: its diagnostic state, which the spec leaves to Miltofa's format, and its scratchpad. -/
def Chip.spurRegion (c : Chip) (n p gen : Nat) : List Byte :=
  (List.range 256).map (fun i => Config.freeByte 4 gen (256 * p + i)) ++ c.headTaps n p 31

/-- The sample of one Ridge into the slot of the owner's area; the header is written last. -/
def State.screeWrite (s : State) (r : ResetRec) (n k base : Nat) : State :=
  let c := s.chip
  let slot := base + n * 0x100000
  let mute := (c.ridge n).noAnswer
  let extra := match (c.ridge n).remap with | some m => maskOf m.remove | none => 0
  let ps := setBits 17 (Nat.lor (c.spurMap n) extra)
  let seq := inc32 (c.get k Obj.SCREE_SEQ)
  let mask := Nat.land mute (maskOf (17 :: ps))
  let stamp := c.stamp
  let (gen, c) := c.tick1
  let unit := fun (u : Nat) => if bitAt mute u then zeros (if u = 17 then 16384 + 511 * 256 else 0x6000)
    else if u = 17 then c.headTaps n 17 511 else c.spurRegion n u gen
  let s := { s with chip := c }
  let s := State.writeLong k 8 (slot + 0x100) (unit 17) s
  let s := ps.foldl (fun s p => State.writeLong k 4 (slot + 0x24000 + 0x6000 * p) (unit p) s) s
  let head := leBytes 4 seq ++ leBytes 1 r.level ++ leBytes 1 r.cause ++ leBytes 1 n ++ leBytes 1 1 ++ leBytes 8 c.frame ++
    leBytes 8 stamp ++ leBytes 4 (maskOf (17 :: ps)) ++ leBytes 4 mask ++ zeros 0xE0
  let s := State.writeLong k 2 slot head s
  s.on (fun c => ((c.set k Obj.SCREE_SEQ seq).countPart k Obj.CNT_SCREE_UNREACHABLE (popCount 18 mask)).raise 0x0D06 k [(1, n), (4, mask)])

/-- The sample of Ridge n before a reset, where its level is sampled: skipped and counted without an area, with its stack out
of service, or in teardown (R409). -/
def State.scree (s : State) (r : ResetRec) (n : Nat) : State :=
  let c := s.chip
  let s := match c.owner n with
    | none => s
    | some k =>
      let base := c.get k Obj.SCREE_BASE
      if c.retired n || !bitAt (c.get k Obj.SCREE_LEVELS) (r.level - 1) then s
      else if base = 0 || c.unitState (base / 2 ^ 36) > 1 || c.wsState k = wsTearing then
        s.on (fun c => c.countPart k Obj.CNT_SCREE_SKIPPED 1)
      else s.screeWrite r n k base
  s.on (fun c => c.updRidge n (fun x => { x with noAnswer := 0 }))

/-- SCREE_UNIT_TIMEOUT (R411): the unit does not answer the sampler of the next sample of its Ridge. -/
def execScreeUnitTimeout (ridge : Fin 16) (unit : Fin 18) (s : State) : Host.Outcome State Fault Refusal :=
  done (s.on (fun c => c.updRidge ridge.val (fun x => { x with noAnswer := putBit x.noAnswer unit.val true })))

/-! ### Ordering and carrying out (R404–R408) -/

/-- Words of a queue found uncorrectable in a journal copy when a rewind reads it (R75). -/
def Chip.journalBad (c : Chip) (l : List (Fin 16 × Bool × Fin 8)) : Chip :=
  l.foldl (fun c e =>
    let n := e.1.val
    (c.count modInst (Obj.CNT_SRAM_UNCORRECTABLE + n) 1).updRidge n (fun r =>
      if e.2.1 then { r with copy1 := { r.copy1 with bad := e.2.2.val :: r.copy1.bad } }
      else { r with copy0 := { r.copy0 with bad := e.2.2.val :: r.copy0.bad } })) c

/-- What a reset resets beside its queues (Table 17.2). -/
def Chip.resetLogic (c : Chip) (r : ResetRec) : Chip :=
  let ridge := fun (c : Chip) (n : Nat) =>
    let c := (List.range 17).foldl (fun c p => if bitAt (c.spurMap n) p then c.resetSpur n p else c) c
    c.updRidge n (fun x => { x with tlb := [], ptrs := [], dma := [], engParts := [], turnSpur := 0, turnDma := 0 })
  match r.level with
  | 1 => c.dropTlb r.part (fun e => e.ctx = r.ctx) (fun e => e.ctx = r.ctx)
  | 2 => c.resetSpur r.ridge r.spur
  | _ =>
    let ns := (r.touched c).filter (fun n => !c.retired n)
    let c := ns.foldl ridge c
    if r.level = 4 then (ns.filter (fun n => (c.owner n).isNone)).foldl Chip.zeroRidge c else c

/-- A compute reset, from its order to the restored frontiers: a reset within one in progress joins it; a Ridge already sampled
in this episode is not sampled again; a queue that is REWINDING stays in its one rewind (R408). -/
def State.compute (s : State) (r : ResetRec) (bad : List (Fin 16 × Bool × Fin 8)) (prior : List Nat) : State :=
  let c := s.chip
  let joined := c.resets.any (fun a => a.holds r c)
  let seen := prior ++ (c.resets.filter (fun a => a.holds r c || r.holds a c)).flatMap (·.ridges)
  let mine := r.touched c
  let owners := (List.range 8).filter (fun k => mine.any (fun n => c.owner n == some k))
  let c := c.resetBegins { r with part := if r.level = 2 then c.ownerN r.ridge else r.part }
  let c := if joined then c else owners.foldl (fun c k => c.countPart k (Obj.CNT_PART_RESETS + (r.level - 1)) 1) c
  let c := { c with resets := c.resets ++ [{ r with ridges := mine }] }
  let s := (mine.filter (fun n => !seen.contains n)).foldl (fun s n => s.scree r n) { s with chip := c }
  let s := mine.foldl (fun s n => s.traceFlush n true) s
  s.on (fun c =>
    let c := c.journalBad bad
    let c := mine.foldl (fun c n => if c.retired n then c else c.rewindRidge n r.level (fun q => r.covers c n (c.qctx n q))) c
    let c := mine.foldl (fun c n => if (c.ridge n).journalLost then c.retireRidge n else c) c
    let c := c.resetLogic r
    mine.foldl Chip.dispatch c)

/-- The reset one level higher (R407): L1 and L2 go to L3 of the owning partition, or to L4 where no partition owns the Ridge. -/
def ResetRec.higher (r : ResetRec) (c : Chip) (cause : Nat) : ResetRec :=
  let own := if r.level = 2 then c.ownerN r.ridge else r.part
  if r.level ≤ 2 then (if own < 8 then { level := 3, cause := cause, part := own } else { level := 4, cause := cause })
  else { level := r.level + 1, cause := cause }

/-- RESET_ESCALATED (R407). -/
def Chip.escalated (c : Chip) (r : ResetRec) : Chip :=
  (c.bump Obj.CNT_ESCALATIONS).raise 0x0D03 (if r.level = 2 then c.ownerN r.ridge else r.owner) []

/-- A reset is ordered. The next reset of a scope that has had RESET_REPEAT_LIMIT at its level in this epoch is ordered one
level higher (R407). `prior` are the Ridges sampled under a reset that it replaces. -/
def State.orderGo (bad : List (Fin 16 × Bool × Fin 8)) (readable pd19 : Bool) : Nat → ResetRec → List Nat → State → State
  | 0, _, _, s => s
  | f + 1, r, prior, s =>
    if !r.due s.chip then s
    else if r.level ≤ 5 && decide (Tbl.get s.chip.resetCounts 0 (r.level * 2 ^ 32 + r.scope) ≥ s.chip.reg Obj.RESET_REPEAT_LIMIT) then
      State.orderGo bad readable pd19 f (r.higher s.chip 8) prior (s.on (fun c => c.escalated r))
    else if r.level = 6 then s.on (fun c => c.enterL6 r.cause pd19)
    else if r.level = 5 then s.on (fun c => c.enterL5 r.cause readable)
    else s.compute r bad prior

def State.order (s : State) (r : ResetRec) : State := State.orderGo [] true false 6 r [] s

/-- A reset in progress escalates: it ends as such, and the next level takes over (R407). -/
def State.escalate (s : State) (i cause : Nat) : State :=
  match s.chip.resets[i]? with
  | none => s
  | some r =>
    if r.level ≥ 6 then s
    else
      let up := r.higher s.chip cause
      let s := s.on (fun c => ({ c with resets := c.resets.eraseIdx i }).escalated r)
      State.orderGo [] true false 6 up r.ridges s

/-- RESET_L1 (R404). -/
def execResetL1 (part : Fin 8) (ctx : Fin 16) (cause : Byte) (bad : List (Fin 16 × Bool × Fin 8)) (s : State) :
    Host.Outcome State Fault Refusal :=
  done (State.orderGo bad true false 6 { level := 1, cause := cause.toNat, part := part.val, ctx := ctx.val } [] s)

/-- RESET_L2 (R404). -/
def execResetL2 (ridge : Fin 16) (spur : Fin 17) (cause : Byte) (bad : List (Fin 16 × Bool × Fin 8)) (s : State) :
    Host.Outcome State Fault Refusal :=
  done (State.orderGo bad true false 6 { level := 2, cause := cause.toNat, ridge := ridge.val, spur := spur.val } [] s)

/-! ### Failed positions and remaps (R78–R82) -/

/-- The spare of a Ridge: a position that passed self-test, has not failed since and is not in the map (R78). -/
def Chip.spareOf (c : Chip) (n : Nat) : Option Nat :=
  (List.range 17).find? (fun p => (c.spur n p).passed && !bitAt (c.reg (Obj.SPUR_FAILED_MASK + n)) p && !bitAt (c.spurMap n) p)

/-- A position is declared failed: a remap or a removal begins, or joins the one in progress; a spare that fails while gated is
only marked. The result says whether an L2 reset of the position is due (R79, R82). -/
def Chip.failPos (c : Chip) (n p : Nat) : Chip × Bool :=
  let mk := Obj.SPUR_FAILED_MASK + n
  if c.retired n || bitAt (c.reg mk) p then (c, false)
  else
    let c := c.setReg mk (putBit (c.reg mk) p true)
    match (c.ridge n).remap with
    | some m =>
      if m.spare = some p then (c.updRidge n (fun r => { r with remap := some { m with spare := none, tested := true } }), false)
      else if bitAt (c.spurMap n) p then (c.updRidge n (fun r => { r with remap := some { m with remove := m.remove ++ [p] } }), true)
      else (c, false)
    | none =>
      if !bitAt (c.spurMap n) p then (c, false)
      else
        let sp := if c.reg Obj.SPARE_REMAP_EN = 1 then c.spareOf n else none
        let c := c.updRidge n (fun r => { r with remap := some { remove := [p], spare := sp, tested := sp.isNone } })
        (match sp with | some q => c.resetSpur n q | none => c, true)

/-- A failure trigger (Table 3.7): the remap is carried out as an L2 reset of the Spur (R80). -/
def State.failSpur (s : State) (n p : Nat) : State :=
  let (c, reset) := s.chip.failPos n p
  let s := { s with chip := c }
  if reset then s.order { level := 2, cause := 5, ridge := n, spur := p } else s

/-- Step 6 of Table 3.8 at a boundary: the map changes once, with the events of each position's outcome; a Ridge left with too
few Spurs is retired (R80–R82). -/
def Chip.remapBoundary (c : Chip) (n : Nat) : Chip :=
  match (c.ridge n).remap with
  | none => c
  | some m =>
    if !m.tested then c
    else
      let old := c.extSoon (Obj.RIDGE_SPUR_MAP + n)
      let left := m.remove.foldl (fun v p => putBit v p false) old
      let map := match m.spare with | some q => putBit left q true | none => left
      let k := popCount 17 map
      if k < c.reg Obj.RIDGE_MIN_SPURS then c.retireRidge n
      else
        let own := c.ownerN n
        let c := c.updRidge n (fun r => { r with remap := none })
        let c := c.extSet (Obj.RIDGE_SPUR_MAP + n) map
        let c := c.extSet Obj.SPURS_ACTIVE (c.extSoon Obj.SPURS_ACTIVE + k - popCount 17 old)
        let c := if k < 16 then c.extSet (Obj.RIDGE_STATE + n) 1 else c
        let c := match m.spare with
          | some _ => (c.setReg (Obj.CNT_SPUR_REMAPS + n) (inc32 (c.reg (Obj.CNT_SPUR_REMAPS + n)))).raise 0x0420 own []
          | none => c
        (if m.spare.isSome then m.remove.drop 1 else m.remove).foldl (fun c _ => c.raise 0x0421 own []) c

/-- SPUR_FAILED (R79). -/
def execSpurFailed (ridge : Fin 16) (spur : Fin 17) (s : State) : Host.Outcome State Fault Refusal :=
  done (s.failSpur ridge.val spur.val)

/-- SPARE_SELFTEST_DONE (R80, R82): a spare that fails its test leaves the case to R81. -/
def execSpareSelftestDone (ridge : Fin 16) (pass : Bool) (s : State) : Host.Outcome State Fault Refusal :=
  done (s.on (fun c =>
    match (c.ridge ridge.val).remap with
    | some m =>
      match m.spare with
      | some p => if pass then c.updRidge ridge.val (fun r => { r with remap := some { m with tested := true } }) else (c.failPos ridge.val p).1
      | none => c
    | none => c))

/-- SPUR_RETIRE_REQ is written (R79, R86). -/
def effSpurRetire : Eff := fun _ bs s =>
  let v := leNat bs
  let n := fld v 15 8
  let p := fld v 7 0
  let c := s.chip
  if n > 15 ∨ p > 16 then (s, rcRange)
  else if c.retired n || bitAt (c.reg (Obj.SPUR_FAILED_MASK + n)) p || (bitAt (c.spurMap n) p && c.spursActive n = 1) then (s, rcState)
  else (s.failSpur n p, rcOK)

def execSpurRetireReq (r : Req) (value : W16) (s : State) : Host.Outcome State Fault Refusal :=
  done (s.rowWrite r Obj.SPUR_RETIRE_REQ (wr 2 value.toNat) effSpurRetire)

/-- SRAM_CORRECTED (R67, R79): a corrected error of a Spur is counted; too many in an epoch fail the position. -/
def execSramCorrected (ridge : Fin 16) (spur : Fin 17) (s : State) : Host.Outcome State Fault Refusal :=
  let c := (s.chip.count modInst (Obj.CNT_SRAM_CORRECTED + ridge.val) 1).updSpur ridge.val spur.val (fun x => { x with ceEpoch := x.ceEpoch + 1 })
  let s := { s with chip := c }
  done (if (c.spur ridge.val spur.val).ceEpoch > c.reg Obj.SPUR_CE_LIMIT then s.failSpur ridge.val spur.val else s)

/-- SRAM_UNCORRECTABLE (R67, R79): an L2 reset of the Spur, or its failure on the second within an epoch. -/
def execSramUncorrectable (ridge : Fin 16) (spur : Fin 17) (addr : W64) (s : State) : Host.Outcome State Fault Refusal :=
  let n := ridge.val
  let p := spur.val
  let c := (s.chip.count modInst (Obj.CNT_SRAM_UNCORRECTABLE + n) 1).updSpur n p (fun x => { x with ueEpoch := x.ueEpoch + 1 })
  let c := c.raise 0x0423 (c.ownerN n) [(1, n), (8, addr.toNat)]
  let s := { s with chip := c }
  done (if (c.spur n p).ueEpoch ≥ 2 then s.failSpur n p else s.order { level := 2, cause := 3, ridge := n, spur := p })

/-- SPUR_SUSPEND_TIMEOUT (R79): the first within an epoch leads to an L2 reset of that Spur, the second fails it. -/
def execSpurSuspendTimeout (ridge : Fin 16) (spur : Fin 17) (s : State) : Host.Outcome State Fault Refusal :=
  let n := ridge.val
  let p := spur.val
  let c := s.chip.updSpur n p (fun x => { x with hangEpoch := x.hangEpoch + 1 })
  let s := { s with chip := c }
  done (if (c.spur n p).hangEpoch ≥ 2 then s.failSpur n p else s.order { level := 2, cause := 4, ridge := n, spur := p })

/-- RIDGE_SPAD_UNCORRECTABLE (R77): the reading command ends, the line becomes zeros; a second error in the bank within an
epoch retires the Ridge. -/
def execRidgeSpadUncorrectable (ridge : Fin 16) (addr : BitVec 25) (reader : Option (Fin 8 × W32)) (s : State) :
    Host.Outcome State Fault Refusal :=
  let n := ridge.val
  let line := addr.toNat / 128 * 128
  let bank := fld addr.toNat 11 7
  done (s.on (fun c =>
    let c := match reader with
      | some (q, k) => if (c.cmd n q.val k.toNat).any (fun (e : Cmd) => e.cfgRead && !e.finished) then c.endCmd n q.val k.toNat stUncorr else c
      | none => c
    let c := c.count modInst (Obj.CNT_SRAM_UNCORRECTABLE + n) 1
    let c := c.raise 0x0423 (c.ownerN n) [(1, n), (8, line)]
    let c := c.spadWrite n 17 line (zeros 128)
    let again := (c.ridge n).bankUe.contains bank
    let c := c.updRidge n (fun r => { r with bankUe := bank :: r.bankUe })
    if again then c.retireRidge n else c.dispatch n))

/-! ### The rows of L3 to L6, completion and escalation -/

/-- The self-test that L3 and L4 rerun finds positions failed (R405). -/
def State.selfTest (s : State) (failed : List (Fin 16 × Fin 17)) : State :=
  failed.foldl (fun s e => if bitAt (s.chip.spurMap e.1.val) e.2.val then s.failSpur e.1.val e.2.val else s) s

/-- RESET_L3 (R404, R405). -/
def execResetL3 (part : Fin 8) (cause : Byte) (bad : List (Fin 16 × Bool × Fin 8)) (failed : List (Fin 16 × Fin 17)) (s : State) :
    Host.Outcome State Fault Refusal :=
  let r : ResetRec := { level := 3, cause := cause.toNat, part := part.val }
  done (if r.due s.chip then (State.orderGo bad true false 6 r [] s).selfTest (failed.filter (fun e => s.chip.owner e.1.val == some part.val)) else s)

/-- RESET_L4 (R404, R405). -/
def execResetL4 (cause : Byte) (bad : List (Fin 16 × Bool × Fin 8)) (failed : List (Fin 16 × Fin 17)) (s : State) :
    Host.Outcome State Fault Refusal :=
  let r : ResetRec := { level := 4, cause := cause.toNat }
  done (if r.due s.chip then (State.orderGo bad true false 6 r [] s).selfTest failed else s)

/-- RESET_L5 (R404, R406). -/
def execResetL5 (cause : Byte) (readable : Bool) (s : State) : Host.Outcome State Fault Refusal :=
  done (State.orderGo [] readable false 6 { level := 5, cause := cause.toNat } [] s)

/-- RESET_L6 (R413). `pd19`: the cause lies in PD19. -/
def execResetL6 (cause : Byte) (pd19 : Bool) (s : State) : Host.Outcome State Fault Refusal :=
  done (State.orderGo [] true pd19 6 { level := 6, cause := cause.toNat } [] s)

/-- Whether a reset in progress may end: an L5 after start-up, a remap's L2 once the map has changed (R80, R406). -/
def ResetRec.endable (r : ResetRec) (c : Chip) : Bool :=
  match r.level with
  | 2 => r.cause != 5 || (c.ridge r.ridge).remap.isNone
  | 5 => c.isReady
  | _ => true

/-- RESET_END (R406): the reset at a place of the list of those in progress has completed. -/
def execResetEnd (which : Fin 64) (s : State) : Host.Outcome State Fault Refusal :=
  done (s.on (fun c =>
    match c.resets[which.val]? with
    | none => c
    | some r =>
      if r.endable c then
        ({ c with resets := c.resets.eraseIdx which.val }).resetEvent 0x0D02 { r with part := if r.level = 2 then c.ownerN r.ridge else r.part }
      else c))

/-- RESET_BOUND_EXPIRED (R407). -/
def execResetBoundExpired (which : Fin 64) (s : State) : Host.Outcome State Fault Refusal := done (s.escalate which.val 6)

/-- UNACKED_WRITE_TIMEOUT (R147, R407): the first compute reset in progress that rewinds the Ridge escalates. -/
def execUnackedWriteTimeout (ridge : Fin 16) (s : State) : Host.Outcome State Fault Refusal :=
  done (match s.chip.resets.findIdx? (fun r => decide (r.level ≤ 4) && (r.touched s.chip).contains ridge.val) with
    | some i => s.escalate i 7
    | none => s)

/-- Whether a reset in progress still holds a queue in REWINDING (R147). -/
def Chip.held147 (c : Chip) (n q : Nat) : Bool :=
  (c.ridge n).remap.isSome || c.resets.any (fun r => decide (r.level ≤ 4) && r.covers c n (c.qctx n q))

/-! ### The reset objects (R403, R404, R409, Table 17.6) -/

/-- RESET_REQUEST is written: fields that the level does not take are zero. -/
def effResetRequest : Eff := fun _ bs s =>
  let v := leNat bs
  let l := fld v 2 0
  let r : ResetRec := { level := l, cause := 1, ctx := fld v 6 3, part := fld v 10 8, ridge := fld v 14 11, spur := fld v 20 16 }
  if l < 1 ∨ l > 6 ∨ v != r.scope ∨ r.spur > 16 then (s, rcRange)
  else if l ≥ 3 && s.chip.reg Obj.LEASE_HOLDER = 0 then (s, rcState)
  else if (l = 1 || l = 3) && s.chip.wsState r.part != wsActive then (s, rcState)
  else (s.order r, rcOK)

/-- TENANT_RESET_REQUEST is written: L1 or L3 of the session's partition. -/
def effTenantReset : Eff := fun inst bs s =>
  let v := leNat bs
  let l := fld v 2 0
  let r : ResetRec := { level := l, cause := 1, ctx := fld v 6 3, part := inst }
  if !(l = 1 || l = 3) || v != l + (if l = 1 then r.ctx * 8 else 0) then (s, rcRange)
  else if l = 3 && s.chip.reg Obj.LEASE_HOLDER = 0 then (s, rcState)
  else (s.order r, rcOK)

/-- SCREE_BASE is written: zero, or 16 MiB within one owned near stack. -/
def effScreeBase : Eff := effOn (fun inst bs c =>
  let v := leNat bs
  if v != 0 && (v % 2 ^ 20 != 0 || decide (v + 2 ^ 24 > farBase) || !c.owned inst v (2 ^ 24)) then (c, rcRange)
  else (c.set inst Obj.SCREE_BASE v, rcOK))

end Sys2Proof.Machine
end

