-- ==== Sys2Proof/Machine/Watchdog.lean ====
section
/-! DEFINITION. Heartbeats and the watchdog, the restarts of the stewards and of SUP, and the leadership lease (R154,
R397–R403). -/
namespace Sys2Proof.Machine

def agentB : Nat := 0x01
def agentSup : Nat := 0x12

def Chip.agent (c : Chip) (a : Nat) : Agent := Tbl.get c.agents {} a

def Chip.updAgent (c : Chip) (a : Nat) (f : Agent → Agent) : Chip := { c with agents := Tbl.upd c.agents {} a f }

/-! ### Heartbeats (R397, R398, Table 17.1) -/

/-- Whether the watchdog expects a heartbeat of an agent. -/
def Chip.expects (c : Chip) (a : Nat) : Bool :=
  if a ≤ agentB || a = agentSup then !(c.agent a).restarting
  else
    let n := a - 2
    (c.owner n).isSome && !c.retired n && !c.resets.any (fun r => decide (3 ≤ r.level) && r.covers c n 0)

/-- A Ridge sequencer whose hang has ordered the reset that is in progress (Table 17.1). -/
def Chip.hungSeq (c : Chip) (a : Nat) : Bool :=
  decide (2 ≤ a) && a != agentSup && decide ((c.agent a).hangEpoch ≥ 1) &&
  c.resets.any (fun r => decide (3 ≤ r.level) && r.covers c (a - 2) 0)

/-- An agent writes its heartbeat; one in the cycle of the boundary counts for the frame that ends and is a near miss; one after
the watchdog has acted is late. -/
def execHeartbeat (agent : Fin 19) (atLimit : Bool) (s : State) : Host.Outcome State Fault Refusal :=
  let a := agent.val
  done (s.on (fun c =>
    if (c.agent a).restarting || c.hungSeq a then c.late waitBeat
    else (((c.updAgent a (fun x => { x with beat := true, hangEpoch := if a ≤ agentB || a = agentSup then x.hangEpoch else 0 })).setReg (Obj.HB_LAST + a) c.frame).nearMiss waitBeat atLimit)))

/-- The watchdog's check at the boundary that ends a frame: each expected agent without a heartbeat is a miss. -/
def Chip.beatBoundary (c : Chip) : Chip :=
  (List.range 19).foldl (fun c a =>
    if !c.expects a then c.updAgent a (fun x => { x with beat := false, misses := 0 })
    else if (c.agent a).beat then c.updAgent a (fun x => { x with beat := false, misses := 0 })
    else
      let c := (c.updAgent a (fun x => { x with misses := x.misses + 1 })).count modInst (Obj.CNT_HB_MISSED + a) 1
      c.raise 0x0D04 (if a ≤ agentB || a = agentSup then 0xFF else c.ownerN (a - 2)) []) c

/-! ### Hung agents (R398–R400) -/

/-- A hung steward: L5 on a second hang within an epoch, with both hung, or while it serves the other's restart; else its
restart begins. -/
def State.stewardHung (s : State) (a : Nat) : State :=
  let c := s.chip
  let other := 1 - a
  let twice := (c.agent a).hangEpoch ≥ 1
  let both := (c.agent other).restarting || (c.expects other && (c.agent other).misses ≥ c.reg Obj.HB_MISS_LIMIT)
  let s := s.on (fun c => c.updAgent a (fun x => { x with misses := 0, hangEpoch := x.hangEpoch + 1, restarting := true }))
  if twice || both then s.order { level := 5, cause := 11 } else s

/-- A hung SUP: L5 on a second hang within an epoch; else its restart, and swaps that have not reached step 4 are cancelled. -/
def State.supHung (s : State) : State :=
  let twice := (s.chip.agent agentSup).hangEpoch ≥ 1
  let s := s.on (fun c => c.updAgent agentSup (fun x => { x with misses := 0, hangEpoch := x.hangEpoch + 1, restarting := true }))
  if twice then s.order { level := 5, cause := 12 }
  else s.on (fun c => (List.range 10).foldl Chip.cancelSwaps c)

/-- AGENT_HUNG (R398): an expected agent at HB_MISS_LIMIT misses; the action of Table 17.1. -/
def execAgentHung (agent : Fin 19) (s : State) : Host.Outcome State Fault Refusal :=
  let a := agent.val
  done (if !s.chip.expects a || (s.chip.agent a).misses < s.chip.reg Obj.HB_MISS_LIMIT then s
  else if a ≤ agentB then s.stewardHung a
  else if a = agentSup then s.supHung
  else
    let s' := s.on (fun c => c.updAgent a (fun x => { x with misses := 0, hangEpoch := 1 }))
    match s'.chip.owner (a - 2) with
    | some k => s'.order { level := 3, cause := 2, part := k }
    | none => s')

/-- STEWARD_RESTART_DONE (R399): the steward returns as follower, and raises STEWARD_RESTART. -/
def execStewardRestartDone (b : Bool) (s : State) : Host.Outcome State Fault Refusal :=
  let a := if b then 1 else 0
  done (s.on (fun c =>
    if (c.agent a).restarting then (c.updAgent a (fun x => { x with restarting := false, beat := false, misses := 0 })).raiseMod 0x0D09 []
    else c))

/-- SUP returns: its loops that were in TRACK hand over from their held outputs, and its other closed loops search from
theirs; Col moves and swaps that were called for meanwhile start (R400). -/
def Chip.supReturn (c : Chip) : Chip :=
  let c := c.updAgent agentSup (fun x => { x with restarting := false, beat := false, misses := 0 })
  let c := c.loops.foldl (fun c p =>
    if p.1 / 512 != 10 || p.2.mode = modeOpen then c
    else if p.2.mode = modeTrack then c.updLoop 10 (p.1 % 512) (fun l => l.track (c.coef 10 (p.1 % 512)) (c.around 10 (p.1 % 512) 0#32) l.output)
    else if hasSearch 10 (p.1 % 512) then c.seek 10 (p.1 % 512) p.2.output false true
    else c) c
  let c := (List.range 16).foldl (fun c n => c.moveCol n (c.colWanted n)) c
  let dark := (List.range 160).filter (fun i =>
    c.reg (laserKey (i / 16) (i % 16)) = 3 && (c.swapOf (i / 16) (i % 16)).isNone && (c.freeSpare (i / 16)).isSome)
  (dark.foldl (fun c i => c.startSwap (i / 16) (i % 16) true) c).raiseMod 0x0D0A []

/-- SUP_RESTART_DONE (R400). -/
def execSupRestartDone (s : State) : Host.Outcome State Fault Refusal :=
  done (s.on (fun c => if c.supDown then c.supReturn else c))

/-! ### The lease (R401, R402) -/

/-- The holder of the lease in Table 17.6 that a steward is. -/
def holderOf (b : Bool) : Nat := if b then 2 else 1

/-- LEASE_CLAIM (R401). -/
def execLeaseClaim (b : Bool) (s : State) : Host.Outcome State Fault Refusal := done (s.on (fun c => c.leaseClaim b))

/-- LEASE_RENEW (R401): taken with the current term from the holder; one in the cycle of a boundary counts for the frame that
ends and is a near miss (R402). -/
def execLeaseRenew (b : Bool) (term : W32) (atLimit : Bool) (s : State) : Host.Outcome State Fault Refusal :=
  done (s.on (fun c =>
    if c.reg Obj.LEASE_HOLDER = holderOf b && c.reg Obj.LEASE_TERM = term.toNat then
      (c.setReg Obj.LEASE_FRAME c.frame).nearMiss waitBeat atLimit
    else c.bump Obj.CNT_LEASE_REFUSED))

/-- LEASE_LAPSE (R402): no renewal in the last four frames. -/
def execLeaseLapse (s : State) : Host.Outcome State Fault Refusal :=
  done (s.on (fun c =>
    if c.reg Obj.LEASE_HOLDER != 0 && decide (c.reg Obj.LEASE_FRAME + 5 ≤ c.frame) then c.leaseTo 0 else c))

end Sys2Proof.Machine
end

