-- ==== Sys2Proof/Machine/MemErrors.lean ====
section
/-! DEFINITION. Memory errors and what the module does about them: uncorrectable lines, erasure marks, the patrol scrub, soft
retirement, units out of service, stack and DIMM temperatures (R165–R176, R182, R183, R210, R473). -/
namespace Sys2Proof.Machine

/-! ### Uncorrectable lines (R169, R173, R174, Table 6.4) -/

/-- Rows of Table 6.4, from 1. -/
def srcData : Nat := 1
def srcPartial : Nat := 2
def srcWalk : Nat := 3
def srcScrub : Nat := 4
def srcFetch : Nat := 7
def srcRecord : Nat := 8
def srcPool : Nat := 9

/-- How an access met the line: reading data, merging a partial-line write, walking a page table. -/
def howPartial : Nat := 1
def howWalk : Nat := 2

/-- A queue's access meets an uncorrectable line: the line is reported, its frame retired, and `fin` ends the command. A walk
that meets it faults WALK_UNCORRECTABLE (R191, R209). -/
def State.readerEnds (s : State) (pa mask src n q va : Nat) (walk : Bool) (w : Waiter) (fin : Chip → Chip) : State :=
  let k := s.chip.ownerN n
  let ctx := s.chip.qctx n q
  let s := s.on (fun c => c.uncorrLine pa mask (if walk then srcWalk else src) k ctx va)
  let s := if walk then s.fault { part := k, ctx := ctx, va := va, reason := rsUncorr, entry := pa / 8 * 8, value := 0 } w else s.on fin
  s.kick n

/-- The steward's read of a pool ring entry: the entry is discarded as POOL_BAD (R206). -/
def State.poolLine (s : State) (pa mask u : Nat) (big : Bool) : State :=
  let key := poolKey u big
  let k := s.chip.ownerN (u % 16)
  let con := s.chip.reg (key + 3)
  let n := s.chip.reg (key + 1)
  let a := s.chip.reg key + 8 * (con % max n 1)
  if n = 0 || dist32 (s.chip.reg (key + 2)) con = 0 || a / 128 != pa / 128 || k ≥ 8 then s
  else
    let s := s.on (fun c => ((c.uncorrLine pa mask srcPool k 0 0).setReg (key + 3) (inc32 con)).countPart k Obj.CNT_POOL_BAD 1)
    let (id, c) := s.chip.newId k
    ({ s with chip := c } : State).post k { kind := 6, id := id, addr1 := a + 1 }

/-- MEM_UNCORRECTABLE (R169, R173, R174): the reader of the line and how it met it. -/
def execMemUncorrectable (pa : W64) (mask : Fin 16) (reader : UeReader) (how : Fin 3) (va : W48) (s : State) :
    Host.Outcome State Fault Refusal :=
  let c := s.chip
  let a := pa.toNat
  let walk := decide (how.val = howWalk)
  let src := if how.val = howPartial then srcPartial else srcData
  done (if c.accCheck a != .ok then s
  else match reader with
    | .spur n p =>
      match (c.spur n.val p.val).unit with
      | some u =>
        let w := Waiter.tile n.val u.queue u.count u.unit
        s.readerEnds a mask.val src n.val u.queue va.toNat walk w (fun c => c.giveUp stUncorr w)
      | none => s
    | .dma n i =>
      match Tbl.find (c.ridge n.val).dma i.val with
      | some d =>
        let w := Waiter.dma n.val i.val
        s.readerEnds a mask.val src n.val d.queue va.toNat walk w (fun c => c.giveUp stUncorr w)
      | none => s
    | .merge n q k =>
      if (c.cmd n.val q.val k.toNat).any (fun (e : Cmd) => e.cfgRead && !e.finished) then
        s.readerEnds a mask.val src n.val q.val va.toNat walk (.tile n.val q.val k.toNat 0) (fun c => c.endCmd n.val q.val k.toNat stUncorr)
      else s
    | .prog n p =>
      match (c.spur n.val p.val).unit with
      | some u =>
        let w := Waiter.prog n.val u.queue u.count u.unit
        s.readerEnds a mask.val srcFetch n.val u.queue va.toNat walk w (fun c => c.giveUp stUncorr w)
      | none => s
    | .fetch n q =>
      if (c.queue n.val q.val).st = .disabled then s
      else s.readerEnds a mask.val srcFetch n.val q.val va.toNat walk (.fetch n.val q.val) (fun c => c.giveUp stUncorr (.fetch n.val q.val))
    | .record n q =>
      if (c.queue n.val q.val).records.isEmpty then s
      else s.readerEnds a mask.val srcRecord n.val q.val va.toNat walk (.record n.val q.val) (fun c => c.giveUp stUncorr (.record n.val q.val))
    | .pool u big => s.poolLine a mask.val u.val big)

/-! ### Erasure marks (R168, Table 6.7) -/

/-- The erasure word of a group of a unit: a pseudo-channel of a stack, a logical rank of a channel. -/
def Chip.erasureWord (c : Chip) (u g : Nat) : Nat :=
  if u < 16 then leAt (c.blob modInst (Obj.NEAR_ERASURES + u)) (2 * g) 2
  else c.reg (Obj.FAR_ERASURES + (u - 16)) / 2 ^ (16 * g) % 2 ^ 16

def Chip.setErasureWord (c : Chip) (u g v : Nat) : Chip :=
  if u < 16 then c.setBlob modInst (Obj.NEAR_ERASURES + u) (placeAt (fitTo 128 (c.blob modInst (Obj.NEAR_ERASURES + u))) (2 * g) (leBytes 2 v))
  else
    let key := Obj.FAR_ERASURES + (u - 16)
    c.setReg key (c.reg key - c.erasureWord u g * 2 ^ (16 * g) + v * 2 ^ (16 * g))

/-- A source of a group is marked, if it has reached CE_SOURCE_LIMIT and a field is free. -/
def Chip.markErasure (c : Chip) (u g src : Nat) : Chip :=
  let w := c.erasureWord u g
  let one := bitAt w 5
  let two := bitAt w 13
  let have_ := (one && fld w 4 0 = src) || (two && fld w 12 8 = src)
  if g ≥ (if u < 16 then 64 else 4) || c.unitState u > 1 || have_ || (one && two) ||
      decide (Tbl.get (c.unit u).ceSources 0 (g * 32 + src) < c.reg Obj.CE_SOURCE_LIMIT) then c
  else
    let c := c.setErasureWord u g (if one then w + (src + 32) * 256 else w + src + 32)
    (c.setReg (unitStateKey u) 1).raise 0x0503 (c.ownerN (u % 16)) []

/-- ERASURE_MARKED (R168). -/
def execErasureMarked (unit : Fin 32) (group : Fin 64) (source : Fin 20) (s : State) : Host.Outcome State Fault Refusal :=
  done (s.on (fun c => c.markErasure unit.val group.val source.val))

/-- Whether each source field of a word is zero or the value in force. -/
def erasureOk (old new : Nat) : Bool :=
  (new % 256 = 0 || new % 256 = old % 256) && (new / 256 = 0 || new / 256 = old / 256)

/-- An erasure object is written: a SERVICE write clears marks, any other is refused with RANGE. -/
def effErasure (service : Bool) (u : Nat) : Eff := effOn (fun _ bs c =>
  let gs := if u < 16 then List.range 64 else List.range 4
  if !service || !gs.all (fun g => erasureOk (c.erasureWord u g) (leAt bs (2 * g) 2)) then (c, rcRange)
  else (gs.foldl (fun c g => c.setErasureWord u g (leAt bs (2 * g) 2)) c, rcOK))

def erasureKey (u : Nat) : Nat := if u < 16 then Obj.NEAR_ERASURES + u else Obj.FAR_ERASURES + (u - 16)

/-- ERASURE_CLEAR (R168). -/
def execErasureClear (r : Req) (unit : Fin 32) (value : List Byte) (s : State) : Host.Outcome State Fault Refusal :=
  let service := match Tbl.find s.chip.sess r.sess.val with | some se => se.cls = 3 | none => false
  done (s.rowWrite r (erasureKey unit.val) value (effErasure service unit.val))

/-! ### The patrol scrub (R170, R171, R174) -/

/-- PATROL_SCRUB: what a stretch of the scrub of a unit found; whether its pass ran over its period, and whether it ends, which
begins a new scrub period for the counts of R168 and R172. -/
def execPatrolScrub (unit : Fin 32) (ce : List Corr) (uncorr : List (W64 × Fin 16)) (late passEnd : Bool) (s : State) :
    Host.Outcome State Fault Refusal :=
  let u := unit.val
  let mine := fun (pa : Nat) => match unitOf pa with | some (v, o) => v = u && s.chip.unitState u ≤ 1 && decide (o < (s.chip.unit u).backed) | none => false
  done (s.on (fun c =>
    let c := c.corrected (ce.filter (fun e => mine e.addr.toNat))
    let c := (uncorr.filter (fun e => mine e.1.toNat)).foldl (fun c e => c.uncorrLine e.1.toNat e.2.val srcScrub (c.ownerN (u % 16)) 0 0) c
    let c := if late then c.count modInst (Obj.CNT_SCRUB_LATE + u) 1 else c
    if passEnd then c.updUnit u (fun m => { m with ceFrames := [], ceSources := [] }) else c))

/-! ### Soft retirement (R172, R210, R211) -/

/-- A present leaf as the not-present form with NP_KIND BUSY: NP_W, TIER and KEYID kept. -/
def leafBusy (e : Nat) : Nat := fld e 5 3 * 8 + fld e 9 8 * 256 + 3 * 1024 + (if bitAt e 2 then 8192 else 0)

/-- The frame is the host's to move: one RETIRE_REQUEST record. -/
def State.askRetire (s : State) (k pa : Nat) : State :=
  if s.chip.hosts.any (fun h => h.retire && h.info.part = k && h.frame = pa) then s
  else
    let (id, c) := s.chip.newId k
    let s : State := { s with chip := { c with hosts := c.hosts ++ [{ id := id, info := { part := k }, retire := true, frame := pa }] } }
    s.post k { kind := 5, id := id, addr1 := pa }

/-- The steward moves a frame that its reverse map names a leaf for: the leaf goes BUSY, the frame is invalidated, a frame of
the same tier is taken, and the copy begins. -/
def State.softMove (s : State) (k u o leaf : Nat) (big : Bool) : State :=
  let c := s.chip
  let n := if big then 2 ^ 21 else 65536
  let pa := unitBase u + o
  let old := pa / n * n
  let e := s.entryAt k leaf
  if c.accCheck leaf != .ok || !c.owned k leaf 8 || !bitAt e 0 || !bitAt e 1 || entryPA e != old then
    (s.askRetire k pa).on (fun c => c.raise 0x0508 k [])
  else if c.pend.length ≥ 256 then s
  else
    let rest := (c.tierUnits k (if u < 16 then 2 else 3) (u % 16)).filter (· != u)
    match s.takeFrame k (u :: rest) big with
    | (s, .wait) => s
    | (s, .none) => s.on (fun c => c.raise 0x0508 k [])
    | (s, .frame x) =>
      let s := s.setEntry k leaf (leafBusy e)
      let info : FaultInfo := { part := k, va := pa, entry := leaf, value := e, level := if big then 3 else 4, ridge := u % 16 }
      s.on (fun c => { (c.dropFrame k old n) with pend := c.pend ++ [{
        info := info, faults := 0, phase := 2, frame := x, pages := n / 65536, oldPA := old, soft := true, restore := e }] })

/-- FRAME_SOFT_RETIRE (R172): a frame whose corrected errors have reached CE_FRAME_LIMIT. Its count starts again, so that a
deferred retirement is tried at the next crossing. -/
def State.softRetire (s : State) (pa : Nat) : State :=
  match unitOf pa with
  | none => s
  | some (u, o) =>
    let c := s.chip
    let fr := pa / 65536
    if Tbl.get (c.unit u).ceFrames 0 fr < c.reg Obj.CE_FRAME_LIMIT || c.accCheck pa != .ok || c.retiredAny pa ||
        c.pend.any (fun p => p.soft && decide (p.oldPA ≤ pa) && decide (pa < p.oldPA + 65536 * p.pages)) then s
    else
      let s := s.on (fun c => c.updUnit u (fun m => { m with ceFrames := Tbl.put m.ceFrames fr 0 }))
      match c.owner (u % 16) with
      | none => s.on (fun c => c.retire (fr * 65536) false)
      | some k =>
        let base := c.reg (atIdx Obj.RMAP_BASE u)
        let ea := base + 8 * (o / 65536)
        let v := if base = 0 || c.accCheck ea != .ok || !c.owned k ea 8 then 0 else s.entryAt k ea
        if !bitAt v 0 || fld v 2 1 > 1 then s.askRetire k (fr * 65536)
        else s.softMove k u (o / 65536 * 65536) (fld v 51 3 * 8) (fld v 2 1 = 1)

def execFrameSoftRetire (pa : W64) (s : State) : Host.Outcome State Fault Refusal := done (s.softRetire pa.toNat)

/-! ### Units out of service, temperatures (R176, R182, R473) -/

/-- MEM_OUT_OF_SERVICE (R176): the PHY or controller of a trained unit is declared failed. -/
def execMemOutOfService (unit : Fin 32) (s : State) : Host.Outcome State Fault Refusal :=
  done (s.on (fun c => if c.unitState unit.val ≤ 1 then c.outOfService unit.val else c))

/-- Whether a temperature is above a threshold; one in force stays so until 3 °C below it (R182). -/
def hotter (t : W32) (limit : Nat) (was : Bool) : Bool :=
  f32Lt (f32OfInt limit) t || (was && f32Lt (f32OfInt (limit - 3)) t)

/-- STACK_TEMP_SAMPLE (R182, Table 6.6). -/
def Chip.stackTemp (c : Chip) (n : Nat) (t : W32) : Chip :=
  let m := c.unit n
  if c.unitState n ≥ 2 && !m.heatOut then c
  else
    let half := hotter t 95 m.halfRate
    let out := hotter t 105 m.heatOut
    let c := if half && !m.halfRate then c.raise 0x0506 (c.ownerN n) [] else c
    let c := if f32Lt (f32OfInt 95) t then c.count modInst (Obj.CNT_STACK_THERMAL + n) 1 else c
    let c := c.updUnit n (fun m => { m with hotRefresh := hotter t 85 m.hotRefresh, halfRate := half, heatOut := out })
    if out && !m.heatOut then c.outOfService n
    else if m.heatOut && !out then
      let marked := (c.blob modInst (Obj.NEAR_ERASURES + n)).any (· != 0#8)
      (c.setReg (unitStateKey n) (if marked then 1 else 0)).extSet (unitBytesKey n) (m.backed - 65536 * m.retired.length)
    else c

def execStackTempSample (stack : Fin 16) (temp : W32) (s : State) : Host.Outcome State Fault Refusal :=
  done (s.on (fun c => c.stackTemp stack.val temp))

/-- DIMM_TEMP_READ (R182, R473): a reading, and whether it is above the DIMM's SPD limit; or no answer, and with the third in a
row doubled refresh. -/
def execDimmTempRead (channel : Fin 16) (reading : Option (W32 × Bool)) (s : State) : Host.Outcome State Fault Refusal :=
  let m := channel.val
  done (s.on (fun c =>
    if c.unitState (16 + m) = 3 then c
    else match reading with
      | some r => (c.setReg (Obj.DIMM_TEMP + m) r.1.toNat).updUnit (16 + m) (fun x => { x with tempMiss := 0, hotRefresh := r.2 })
      | none => c.updUnit (16 + m) (fun x => { x with tempMiss := x.tempMiss + 1, hotRefresh := x.hotRefresh || decide (x.tempMiss + 1 ≥ 3) })))

end Sys2Proof.Machine
end

