-- ==== Sys2Proof/Machine/Partitions.lean ====
section
/-! DEFINITION. Partitions: WS_CONTROL with its checks, creation, APPLY, teardown, zero-fill, and what a frame boundary does with
them (R218–R229, R387, R403, R476). -/
namespace Sys2Proof.Machine

/-! ### Refusals (R221, R222) -/

def wsBusy : Nat := 1
def wsNotFree : Nat := 2
def wsTaken : Nat := 3
def wsRetired : Nat := 4
def wsLane : Nat := 5
def wsPower : Nat := 6
def wsNotQuiescent : Nat := 7
def wsEmpty : Nat := 8
def wsNotActive : Nat := 9

/-- A refused action changes nothing but its reason. -/
def Chip.wsRefuse (c : Chip) (reason : Nat) : Chip × Nat := ((c.setReg Obj.WS_REFUSE_REASON reason).raiseMod 0x0605 [], rcRefused)

/-! ### Staged values (R221, Table 8.7) -/

def Chip.stagedRidges (c : Chip) (k : Nat) : Nat := c.reg (atIdx Obj.WS_RIDGES k)
def Chip.stagedLanes (c : Chip) (k : Nat) : Nat :=
  (List.range 4).foldl (fun n s => n + c.reg (atIdx Obj.WS_LANES k + s) * 2 ^ (64 * s)) 0
def Chip.stagedVis (c : Chip) (k : Nat) : Nat := c.reg (atIdx Obj.WS_VI_MASK k)
def Chip.stagedShare (c : Chip) (k : Nat) : Nat := c.reg (atIdx Obj.WS_POWER_SHARE k)

/-- Bits of `a` that `b` lacks. -/
def without (n a b : Nat) : Nat := maskOf ((setBits n a).filter (fun i => !bitAt b i))

/-- What the other partitions hold or have claimed by an accepted APPLY. -/
def Chip.othersHold (c : Chip) (k : Nat) (held claimed : Part → Nat) : Nat :=
  (List.range 8).foldl (fun m j => if j = k then m else
    Nat.lor m (Nat.lor (held (c.part j)) (if (c.part j).applying then claimed (c.part j) else 0))) 0

def Chip.othersRidges (c : Chip) (k : Nat) : Nat :=
  (List.range 8).foldl (fun m j => if j = k then m else
    Nat.lor m (Nat.lor (c.ridgesOf j) (if (c.part j).applying then (c.part j).newRidges else 0))) 0

/-- The first reason to refuse additions and the share, in the order of R222; 0 where there is none. -/
def Chip.addReason (c : Chip) (k ridges lanes vis : Nat) : Nat :=
  let mask := fun (i : Nat) => bitAt (c.reg (Obj.LANE_MASK + i / 64)) (i % 64)
  let sum := (List.range 8).foldl (fun n j => if j = k then n else
    n + max (c.part j).share (if (c.part j).applying then (c.part j).newShare else 0)) 0
  if Nat.land ridges (c.othersRidges k) != 0 then wsTaken
  else if (setBits 16 ridges).any c.retired then wsRetired
  else if Nat.land lanes (c.othersHold k Part.lanes Part.newLanes) != 0 then wsTaken
  else if (setBits 256 lanes).any (fun i => !mask i || planMode (c.planByte i) = 2) then wsLane
  else if Nat.land vis (c.othersHold k Part.vis Part.newVis) != 0 then wsTaken
  else if c.stagedShare k < 80 * popCount 16 (c.stagedRidges k) || sum + c.stagedShare k > c.reg Obj.COMPUTE_BUDGET then wsPower
  else 0

/-! ### What a new owner finds (R223) -/

/-- Objects that answer for units come back to their defaults, for the units that `view` gives to partition `k`. -/
def Chip.dropObjs (c view : Chip) (k : Nat) (qp : Bool) : Chip :=
  let mine := fun (key : Nat) =>
    key / 2 ^ 24 = modInst && match objFind (key % 2 ^ 24 / 256) (key % 256) with
      | some r => r.perPart && (match r.unit with
          | .none => false
          | .linkIdx => false
          | .linkSub => false
          | .qp => qp && r.owns view k (key % 2 ^ 24 / 256) (key % 256)
          | _ => r.owns view k (key % 2 ^ 24 / 256) (key % 256))
      | none => false
  { c with regs := Tbl.dropKeys c.regs mine, blobs := Tbl.dropKeys c.blobs mine }

/-- Ridges come to a partition: queues DISABLED, the lowest point, generators seeded, stores of split frames empty. -/
def Chip.giveRidges (c : Chip) (ridges : Nat) : Chip :=
  (setBits 16 ridges).foldl (fun c n =>
    let c := forQueues (fun c q => c.setQueue n q {}) c
    let c := (List.range 17).foldl (fun c p => c.seedSpur n p) c
    let c := (c.updUnit n (fun m => { m with split := [] })).updUnit (16 + n) (fun m => { m with split := [] })
    (c.setPoint n 10).ridgeDomain n) c

/-- Ridges leave a partition: SRAM zeroed, queues empty, the domain clock-gated, or power-gated when retired (R227). -/
def Chip.takeRidges (c : Chip) (ridges : Nat) : Chip :=
  (setBits 16 ridges).foldl (fun c n =>
    let c := forQueues (fun c q => c.setQueue n q {}) c
    (if c.retired n then c else c.zeroRidge n).ridgeDomain n) c

/-- Queue pairs of a partition are gone. -/
def Chip.dropQps (c : Chip) (k : Nat) : Chip := { c with qps := c.qps.filter (fun p => qpPart p.1 != k) }

/-! ### CREATE (R223) -/

/-- Steps 1 to 5 of creation. -/
def Chip.wsBuild (c : Chip) (k : Nat) : Chip :=
  let (g, c) := c.tick1
  let c := c.setPart k { lanes := c.stagedLanes k, vis := c.stagedVis k, share := c.stagedShare k, keyTag := g + 1, stepsDone := true }
  let c := c.setReg (atIdx Obj.WS_APPLIED_RIDGES k) (c.stagedRidges k)
  let c := (c.setReg (Obj.KEY_SLOT_STATE + k) 1).setReg (Obj.WS_KEY_GEN + k) (inc32 (c.reg (Obj.WS_KEY_GEN + k)))
  let mine := fun (key : Nat) => key / 2 ^ 24 = k
  let c := { c with regs := Tbl.dropKeys c.regs mine, blobs := Tbl.dropKeys c.blobs mine }
  let c := (c.dropObjs c k true).dropQps k
  let c := (c.doorbellRegions k).giveRidges (c.ridgesOf k)
  c.setReg (Obj.WS_STATE + k) wsCreating

def Chip.wsCreate (c : Chip) (k : Nat) : Chip × Nat :=
  if c.wsState k != wsFree then c.wsRefuse (if c.wsState k = wsActive && !(c.part k).applying then wsNotFree else wsBusy)
  else if c.stagedRidges k = 0 then c.wsRefuse wsEmpty
  else
    let why := c.addReason k (c.stagedRidges k) (c.stagedLanes k) (c.stagedVis k)
    if why != 0 then c.wsRefuse why else (c.wsBuild k, rcOK)

/-! ### APPLY (R224) -/

/-- Whether everything that an APPLY would remove is quiescent. -/
def Chip.quiescent (c : Chip) (k : Nat) : Bool :=
  let gone := setBits 16 (without 16 (c.ridgesOf k) (c.stagedRidges k))
  let left : Chip := c.updPart k (fun p => { p with lanes := c.stagedLanes k })
  let goneVis := without 64 (c.part k).vis (c.stagedVis k)
  let route := fun (e : Nat × List Byte) =>
    let v := leNat e.2
    decide (ikey k Obj.ROUTE_ENTRY ≤ e.1) && decide (e.1 < ikey k (Obj.ROUTE_ENTRY + 4096)) && bitAt v 72 &&
    (!left.ownsFibre k (fld v 68 64) || (bitAt v 74 && !left.ownsFibre k (fld v 79 75)))
  let pair := fun (e : Nat × List Byte) =>
    decide (ikey modInst (Obj.QP_CONFIG + 1024 * k) ≤ e.1) && decide (e.1 < ikey modInst (Obj.QP_CONFIG + 1024 * (k + 1))) &&
    byteAt e.2 0 != qpReset && bitAt goneVis (byteAt e.2 2)
  gone.all (fun n => (List.range 8).all (fun q => (c.queue n q).st = .disabled) && (c.ridge n).dma.isEmpty) &&
  !c.blobs.any route && !c.blobs.any pair

def Chip.wsApply (c : Chip) (k : Nat) (zero : Bool) : Chip × Nat :=
  let p := c.part k
  if c.wsState k = wsFree then c.wsRefuse wsNotActive
  else if c.wsState k != wsActive || p.applying then c.wsRefuse wsBusy
  else if c.stagedRidges k = 0 then c.wsRefuse wsEmpty
  else
    let why := c.addReason k (without 16 (c.stagedRidges k) (c.ridgesOf k)) (without 256 (c.stagedLanes k) p.lanes)
      (without 64 (c.stagedVis k) p.vis)
    if why != 0 then c.wsRefuse why
    else if !c.quiescent k then c.wsRefuse wsNotQuiescent
    else (c.updPart k (fun p => { p with
      applying := true, applyZero := zero, newRidges := c.stagedRidges k,
      newLanes := c.stagedLanes k, newVis := c.stagedVis k, newShare := c.stagedShare k }), rcOK)

/-! ### Zero-fill (R228) -/

/-- Units of Ridges that are in service, with the bytes to zero-fill. -/
def Chip.fillUnits (c : Chip) (ridges : Nat) : List Nat :=
  ((setBits 16 ridges) ++ (setBits 16 ridges).map (· + 16)).filter (fun u => c.unitState u < 2 && (c.unit u).backed != 0)

def Chip.fillBytes (c : Chip) (u : Nat) : Nat := (c.unit u).backed - 65536 * (c.unit u).retired.length

/-- The controllers of units begin to write zero lines. -/
def Chip.startFill (c : Chip) (k : Nat) (us : List Nat) : Chip :=
  let c := c.updPart k (fun p => { p with zeroUnits := p.zeroUnits ++ us })
  c.setReg (atIdx Obj.WS_ZERO_FILL_LEFT k) (c.reg (atIdx Obj.WS_ZERO_FILL_LEFT k) + us.foldl (fun n u => n + c.fillBytes u) 0)

/-- Every backed line of a unit becomes a zero line; those of a retired frame are never touched (R171). -/
def State.zeroUnit (s : State) (u : Nat) : State :=
  let bad := (s.chip.unit u).retired.map (·.1)
  let m := s.mem
  let old := m.zero (unitBase u) (s.chip.unit u).backed
  let keep := fun (a : Nat) => decide (unitBase u ≤ a) && decide (a < unitBase u + (s.chip.unit u).backed) && bad.contains (a / 65536 * 65536)
  if bad.isEmpty then s.withMem old
  else s.withMem { cells := m.cells.filter (fun p => keep p.1 || (Tbl.find old.cells p.1).isSome),
                   tags := m.tags.filter (fun p => keep (p.1 * 128) || (Tbl.find old.tags p.1).isSome) }

/-- ZERO_FILL_DONE: a unit's controller has written its last zero line. A unit that another partition owns by now is not
touched. -/
def execZeroFillDone (unit : Fin 32) (s : State) : Host.Outcome State Fault Refusal :=
  let u := unit.val
  done (match (List.range 8).find? (fun k => (s.chip.part k).zeroUnits.contains u) with
  | none => s
  | some k =>
    let own := s.chip.owner (u % 16)
    let s := if own.isNone || own = some k then s.zeroUnit u else s
    s.on (fun c =>
      let left := c.reg (atIdx Obj.WS_ZERO_FILL_LEFT k)
      let us := (c.part k).zeroUnits.erase u
      (c.updPart k (fun p => { p with zeroUnits := us })).setReg (atIdx Obj.WS_ZERO_FILL_LEFT k)
        (if us.isEmpty then 0 else left - c.fillBytes u)))

/-! ### TEARDOWN (R226, Table 8.3) -/

/-- A session closes: its transfers and its own objects are gone (R334, R361). -/
def Chip.endSess (c : Chip) (slot : Nat) : Chip :=
  match Tbl.find c.sess slot with
  | none => c
  | some se =>
    let c := (c.count modInst Obj.CNT_BLOCK_DISCARDED se.blocks.length).raise 0x0102 (if se.cls = 1 then se.part else 0xFF) []
    let own := fun (key : Nat) => key / 2 ^ 24 = sessInst slot
    { c with sess := Tbl.del c.sess slot, regs := Tbl.dropKeys c.regs own, blobs := Tbl.dropKeys c.blobs own }

/-- Sessions of a partition close, and opens for it are forgotten. -/
def Chip.closePart (c : Chip) (k : Nat) : Chip :=
  let c := (c.sess.filter (fun p => p.2.cls = 1 && p.2.part = k)).foldl (fun c p => c.endSess p.1) c
  { c with opens := c.opens.filter (fun o => !(o.cls = 1 && o.part = k)) }

/-- Step 3: what the partition has pending is discarded. -/
def Chip.wsDiscard (c : Chip) (k : Nat) : Chip :=
  let at_ := fun (o n key : Nat) => decide (ikey k o ≤ key) && decide (key < ikey k (o + n))
  let c := { c with
    pend := c.pend.filter (fun p => p.info.part != k), pendWait := c.pendWait.filter (fun p => p.1.part != k),
    hosts := c.hosts.filter (fun h => h.info.part != k),
    snap := c.snap.map (fun (x : Snapshot) => { x with parts := Tbl.del x.parts k }),
    regs := Tbl.dropKeys c.regs (at_ Obj.SIGNAL_VALUE 256), blobs := Tbl.dropKeys c.blobs (at_ Obj.ROUTE_ENTRY 4096) }
  c.updPart k (fun p => { p with held := [], waiting := [], rts := [], xfers := [], expired := [], inval := [], traceEn := 0 })

/-- Steps 1 to 5, and the start of step 6. -/
def Chip.wsEnd (c : Chip) (k : Nat) (zero : Bool) : Chip :=
  let rs := c.ridgeList k
  let c := { c with resets := c.resets.filter (fun r => !(decide (r.level ≤ 3) && r.part = k)) }
  let c := rs.foldl (fun c n => forQueues (fun c q => (c.abandonUnits n q (fun _ => true)).setQueue n q {}) c) c
  let c := (c.qps.filter (fun p => qpPart p.1 = k)).foldl (fun c p => (c.qpFail p.1).setQp p.1 {}) c
  let c := ((c.wsDiscard k).rcTeardown k).closePart k
  let c := c.setReg (Obj.KEY_SLOT_STATE + k) 0
  let c := rs.foldl (fun c n => if c.retired n then c else c.zeroRidge n) c
  let c := c.startFill k (if zero then c.fillUnits (c.ridgesOf k) else [])
  c.setReg (Obj.WS_STATE + k) wsTearing

def Chip.wsTeardown (c : Chip) (k : Nat) (zero : Bool) : Chip × Nat :=
  if c.wsState k = wsFree then c.wsRefuse wsNotActive
  else if c.wsState k != wsActive || (c.part k).applying then c.wsRefuse wsBusy
  else (c.wsEnd k zero, rcOK)

/-! ### WS_CONTROL (R221, R403, R476) -/

/-- A write of WS_CONTROL: refused with STATE before READY and while no steward holds the lease. -/
def effWsControl : Eff := effOn (fun _ bs c =>
  let v := leNat bs
  let k := fld v 2 0
  let a := fld v 7 4
  if bitAt v 3 || fld v 31 9 != 0 || a = 0 || a > 3 then (c, rcRange)
  else if !c.isReady || c.reg Obj.LEASE_HOLDER = 0 then (c, rcState)
  else if a = 1 then c.wsCreate k
  else if a = 2 then c.wsApply k (bitAt v 8)
  else c.wsTeardown k (bitAt v 8))

/-- The word of an action. -/
def wsWord (part : Fin 8) (action : Nat) (zero : Bool) : List Byte := wr 4 (part.val + 16 * action + if zero then 256 else 0)

/-- WS_CREATE (R223). -/
def execWsCreate (r : Req) (part : Fin 8) (zero : Bool) (s : State) : Host.Outcome State Fault Refusal :=
  done (s.rowWrite r Obj.WS_CONTROL (wsWord part 1 zero) effWsControl)

/-- WS_APPLY (R224). -/
def execWsApply (r : Req) (part : Fin 8) (zero : Bool) (s : State) : Host.Outcome State Fault Refusal :=
  done (s.rowWrite r Obj.WS_CONTROL (wsWord part 2 zero) effWsControl)

/-- WS_TEARDOWN (R226). -/
def execWsTeardown (r : Req) (part : Fin 8) (zero : Bool) (s : State) : Host.Outcome State Fault Refusal :=
  done (s.rowWrite r Obj.WS_CONTROL (wsWord part 3 zero) effWsControl)

/-! ### At a frame boundary (R221–R226) -/

/-- Lane slots leave a partition: their links lose them. -/
def Chip.dropLanes (c : Chip) (k lanes : Nat) : Chip :=
  let keep := without 256 (c.part k).lanes lanes
  let c := (List.range 64).foldl (fun c l =>
    match Tbl.find c.links l with
    | some x => if x.part = some k && (c.lanes.filter (fun p => p.2.link = some l)).all (fun p => !bitAt keep p.1) then c.linkGone l else c
    | none => c) c
  (setBits 256 lanes).foldl (fun c i =>
    let x := c.lane i
    if x.link.isSome then c.takeLane i laneReady causeSteer true
    else c.updLane i (fun x => { x with waiting := false })) c

/-- An APPLY takes effect. -/
def Chip.wsResize (c : Chip) (k : Nat) : Chip :=
  let p := c.part k
  let old := c.ridgesOf k
  let gone := without 16 old p.newRidges
  let new := without 16 p.newRidges old
  let c := c.dropObjs ((c.setReg (atIdx Obj.WS_APPLIED_RIDGES k) gone).updPart k (fun p => { p with lanes := 0 })) k false
  let c := (setBits 16 gone).foldl (fun c n => (c.updUnit n (fun m => { m with split := [] })).updUnit (16 + n) (fun m => { m with split := [] })) c
  let c := c.dropLanes k (without 256 p.lanes p.newLanes)
  let c := c.setReg (atIdx Obj.WS_APPLIED_RIDGES k) p.newRidges
  let c := c.takeRidges gone
  let c := c.dropTlb k (fun _ => true) (fun _ => true)
  let view := (c.setReg (atIdx Obj.WS_APPLIED_RIDGES k) new).updPart k (fun q => { q with lanes := without 256 p.newLanes p.lanes })
  let c := (c.dropObjs view k false).giveRidges new
  let c := if p.applyZero then c.startFill k (c.fillUnits gone) else c
  let c := c.updPart k (fun q => { q with applying := false, applyZero := false, lanes := q.newLanes, vis := q.newVis, share := q.newShare,
                                           newRidges := 0, newLanes := 0, newVis := 0, newShare := 0 })
  c.raise 0x0602 k []

/-- Step 7 of a teardown. -/
def Chip.wsFreed (c : Chip) (k : Nat) : Chip :=
  let c := c.dropLanes k (c.part k).lanes
  let rs := c.ridgesOf k
  let c := (c.setReg (atIdx Obj.WS_APPLIED_RIDGES k) 0).takeRidges rs
  let cfg := fun (key : Nat) => decide (ikey modInst (Obj.QP_CONFIG + 1024 * k) ≤ key) && decide (key < ikey modInst (Obj.QP_CONFIG + 1024 * (k + 1)))
  let c := { (c.dropQps k) with blobs := Tbl.dropKeys c.blobs (fun key => cfg key ||
    (decide (ikey modInst (atIdx Obj.WS_TENANT_KEY k) ≤ key) && decide (key < ikey modInst (atIdx Obj.WS_TENANT_KEY k) + 4))) }
  let c := c.setPart k {}
  (c.setReg (Obj.WS_STATE + k) wsFree).raise 0x0603 k []

/-- The partitions at a boundary, after the retirements (R225). -/
def Chip.wsBoundary (c : Chip) : Chip :=
  (List.range 8).foldl (fun c k =>
    let st := c.wsState k
    if st = wsCreating then (c.setReg (Obj.WS_STATE + k) wsActive).raise 0x0601 k []
    else if st = wsActive && (c.part k).applying then c.wsResize k
    else if st = wsTearing && (c.part k).zeroUnits.isEmpty then c.wsFreed k
    else c) c

end Sys2Proof.Machine
end

