-- ==== Sys2Proof/Machine/Firmware.lean ====
section
/-! DEFINITION. Staging firmware, rollback, operator keys, the attestation report and the factory reset (R366, R448, R449,
R453–R455). -/
namespace Sys2Proof.Machine

/-! ### Banks (R448) -/

/-- The bank that the module is not running: under a recovery bundle, the one that FW_BANK_SELECT does not name. -/
def Chip.spareBank (c : Chip) : Nat :=
  if c.reg Obj.FW_BANK_RUNNING = 2 then 1 - c.reg Obj.FW_BANK_SELECT else 1 - c.reg Obj.FW_BANK_RUNNING

def bankWriting : Nat := 1
def bankVerifying : Nat := 2
def bankValid : Nat := 3
def bankInvalid : Nat := 4

def Chip.setBank (c : Chip) (b st svn ver : Nat) : Chip :=
  ((c.setReg (Obj.FW_BANK_STATE + b) st).setReg (Obj.FW_BANK_SVN + b) svn).setReg (Obj.FW_BANK_VERSION + b) ver

/-- A window of FW_IMAGE is written: the first write sets the bank to WRITING. -/
def effFwImage (m : Nat) : Eff := effOn (fun _ bs c =>
  let b := c.spareBank
  if c.reg (Obj.FW_BANK_STATE + b) = bankVerifying then (c, rcState)
  else ({ c.setBank b bankWriting 0 0 with flash := Tbl.put c.flash (64 * b + m) bs }, rcOK))

def effFwActivate : Eff := effOn (fun _ bs c =>
  let b := c.spareBank
  if leNat bs != 1 then (c, rcRange)
  else if c.reg (Obj.FW_BANK_STATE + b) = bankVerifying then (c, rcState)
  else (c.setBank b bankVerifying 0 0, rcOK))

/-- FW_ACTIVATE (R448). -/
def execFwActivate (r : Req) (s : State) : Host.Outcome State Fault Refusal :=
  done (s.rowWrite r Obj.FW_ACTIVATE (wr 1 1) effFwActivate)

/-- Whether the bundle of a bank passes R445. -/
def Chip.bankPasses (c : Chip) (b : Nat) : Bool :=
  if c.factoryBank b then decide (c.reg Obj.ROLLBACK_COUNT ≤ byteAt (c.window b 0) 8) else c.bundleOk (c.bank b)

/-- FW_STAGE_RESULT (R448). -/
def execFwStageResult (s : State) : Host.Outcome State Fault Refusal :=
  done (s.on (fun c =>
    match (List.range 2).find? (fun b => c.reg (Obj.FW_BANK_STATE + b) = bankVerifying) with
    | none => c
    | some b =>
      let h := c.window b 0
      let c := if c.bankPasses b then (c.setBank b bankValid (byteAt h 8) (leAt h 0xC 4)).setReg Obj.FW_BANK_SELECT b
        else c.setBank b bankInvalid 0 0
      c.raiseMod 0x0615 []))

def effBankSelect : Eff := effOn (fun _ bs c =>
  let b := leNat bs
  if b > 1 then (c, rcRange)
  else if c.reg (Obj.FW_BANK_STATE + b) != bankValid then (c, rcState)
  else (c.setReg Obj.FW_BANK_SELECT b, rcOK))

/-! ### Rollback (R449) -/

/-- The header of the running bundle. -/
def Chip.runningHeader (c : Chip) : List Byte :=
  if c.reg Obj.FW_BANK_RUNNING = 2 then c.side.bundle else c.window (c.reg Obj.FW_BANK_RUNNING) 0

def effRollback : Eff := effOn (fun _ bs c =>
  let v := leNat bs
  let h := c.runningHeader
  let run := c.reg Obj.FW_BANK_RUNNING
  let flagged := fun (i : Nat) => bitAt (byteAt h 5) i
  if !(decide (c.reg Obj.ROLLBACK_COUNT < v) && decide (v ≤ byteAt h 8)) then (c, rcRange)
  else if run = 2 || c.reg (Obj.FW_BANK_STATE + (1 - run)) != bankValid || decide (c.reg (Obj.FW_BANK_SVN + (1 - run)) < v) then (c, rcState)
  else if (List.range 2).all (fun i => flagged i || c.reg (Obj.VENDOR_KEY_STATE + i) = 2) then (c, rcState)
  else
    let c := (List.range 2).foldl (fun c i => if flagged i then c.setReg (Obj.VENDOR_KEY_STATE + i) 2 else c) (c.setReg Obj.ROLLBACK_COUNT v)
    (c.raiseMod 0x0611 [], rcOK))

/-- ROLLBACK_COMMIT (R449). -/
def execRollbackCommit (r : Req) (count : Byte) (s : State) : Host.Outcome State Fault Refusal :=
  done (s.rowWrite r Obj.ROLLBACK_COMMIT (wr 1 count.toNat) effRollback)

/-! ### Operator keys (R453) -/

def effProvision : Eff := effOn (fun _ bs c =>
  let i := byteAt bs 0
  if i > 3 || byteAt bs 1 = 0 || byteAt bs 1 > 2 || !allZero (slice bs 2 6) then (c, rcRange)
  else if c.reg (Obj.OPKEY_STATE + i) != 0 then (c, rcState)
  else
    let c := (c.setReg (Obj.OPKEY_STATE + i) (byteAt bs 1)).setBlob modInst (Obj.OPKEY_DIGEST + i) (slice bs 8 64)
    (c.raiseMod 0x0613 [], rcOK))

/-- OPKEY_PROVISION (R453). -/
def execOpkeyProvision (r : Req) (value : List Byte) (s : State) : Host.Outcome State Fault Refusal :=
  done (s.rowWrite r Obj.OPKEY_PROVISION value effProvision)

/-- A revocation by the session in `slot`. -/
def effRevoke (slot : Nat) : Eff := effOn (fun _ bs c =>
  let i := leNat bs
  let own := match Tbl.find c.sess slot with | some se => se.keySlot = i | none => false
  if i > 3 then (c, rcRange)
  else if own || !(List.range 4).any (fun j => j != i && c.reg (Obj.OPKEY_STATE + j) = 2) then (c, rcState)
  else ((c.setReg (Obj.OPKEY_STATE + i) 3).raiseMod 0x0612 [], rcOK))

/-- OPKEY_REVOKE (R453). -/
def execOpkeyRevoke (r : Req) (slot : Byte) (s : State) : Host.Outcome State Fault Refusal :=
  done (s.rowWrite r Obj.OPKEY_REVOKE (wr 1 slot.toNat) (effRevoke r.sess.val))

/-! ### Attestation (R450, R454) -/

/-- The private key of the device identity. -/
def devicePrivate : List Byte :=
  Config.shake256 (ascii "ZELENO-DEVID-1" ++ Config.identitySeed ++ leBytes 8 Config.deviceSerial.toNat) 57

/-- The report's account of a partition. -/
def Chip.reportPart (c : Chip) (k : Nat) : List Byte :=
  if k ≥ 8 then 0xFF#8 :: zeros 0x3F
  else
    let p := c.part k
    leBytes 1 k ++ leBytes 1 (c.wsState k) ++ leBytes 2 (c.ridgesOf k) ++ leBytes 4 (c.reg (Obj.WS_KEY_GEN + k)) ++ leBytes 8 p.vis ++
    leBytes 32 p.lanes ++ leBytes 4 p.share ++ zeros 4 ++ leBytes 8 (c.reg (atIdx Obj.LINK_PART_TAG k))

/-- The 664 signed bytes of a report (Table 20.7). -/
def Chip.attestBytes (c : Chip) (nonce : List Byte) (k : Nat) : List Byte :=
  let revoked := (List.range 2).foldl (fun n i => if c.reg (Obj.VENDOR_KEY_STATE + i) = 2 then n + 2 ^ i else n) 0 +
    (List.range 4).foldl (fun n i => if c.reg (Obj.OPKEY_STATE + i) = 3 then n + 2 ^ (2 + i) else n) 0
  leBytes 4 1 ++ leBytes 4 778 ++ leBytes 8 (c.reg Obj.DEVICE_SERIAL) ++ leBytes 4 (c.reg Obj.VCT_BOOT_COUNT) ++
  leBytes 4 (c.reg Obj.FW_VERSION) ++ leBytes 8 c.stamp ++ leBytes 8 c.frame ++ fitTo 32 nonce ++
  leBytes 1 (c.reg Obj.BOOT_SRC) ++ leBytes 1 (c.reg Obj.FW_BANK_RUNNING) ++ leBytes 1 (c.reg Obj.ROLLBACK_COUNT) ++
  leBytes 1 revoked ++ zeros 4 ++ ((List.range 8).map (fun i => fitTo 64 (c.blob modInst (Obj.MEASUREMENT + i)))).flatten ++
  c.reportPart k ++ zeros 8

def effAttest : Eff := effOn (fun inst bs c =>
  let k := byteAt bs 32
  match Tbl.find c.sess (inst - 16) with
  | none => (c, rcNoAccess)
  | some se =>
    if !(k = 0xFF || (if se.cls = 1 then k = se.part else decide (k < 8))) then (c, rcNoAccess)
    else if !allZero (bs.drop 33) then (c, rcRange)
    else
      let r := c.attestBytes (bs.take 32) (if se.cls = 1 then se.part else k)
      let c := c.setBlob inst Obj.ATTEST_REPORT (r ++ fitTo 114 (Config.ed448Sign devicePrivate (ascii "ZELENO-ATTEST-1") r))
      (c.bump Obj.CNT_ATTEST_REPORTS, rcOK))

/-- ATTEST_REQUEST (R454). -/
def execAttestRequest (r : Req) (value : List Byte) (s : State) : Host.Outcome State Fault Refusal :=
  done (s.rowWrite r Obj.ATTEST_REQUEST value effAttest)

/-! ### Factory reset (R366) -/

def effFactory : Eff := effOn (fun _ bs c =>
  if leNat bs = 0x5A5A0001 then (c.setReg Obj.CFG_FACTORY_ARMED 1, rcOK)
  else if leNat bs = 0x5A5A0000 then (c.setReg Obj.CFG_FACTORY_ARMED 0, rcOK)
  else (c, rcRange))

/-- CFG_FACTORY_ARM (R366). -/
def execCfgFactoryArm (r : Req) (s : State) : Host.Outcome State Fault Refusal :=
  done (s.rowWrite r Obj.CFG_FACTORY_RESET (wr 4 0x5A5A0001) effFactory)

/-- CFG_FACTORY_DISARM (R366). -/
def execCfgFactoryDisarm (r : Req) (s : State) : Host.Outcome State Fault Refusal :=
  done (s.rowWrite r Obj.CFG_FACTORY_RESET (wr 4 0x5A5A0000) effFactory)

/-! ### Freezing the counters (R431) -/

def effFreeze : Eff := effOn (fun _ bs c =>
  let f := leNat bs
  if f ≥ 2 ^ 48 || f < c.frame + 2 || f > c.frame + 1048576 then (c, rcRange)
  else ((c.setReg Obj.FREEZE_AT f).setReg Obj.FREEZE_STATE 1, rcOK))

/-- FREEZE_AT (R431). -/
def execFreezeAt (r : Req) (frame : W64) (s : State) : Host.Outcome State Fault Refusal :=
  done (s.rowWrite r Obj.FREEZE_AT (wr 8 frame.toNat) effFreeze)

end Sys2Proof.Machine
end

