-- ==== Sys2Proof/Machine/Views.lean ====
section
/-! DEFINITION. The values that reads return: objects held, and those worked out from the state they show (R351–R353, R358,
R359, R423, R432, R433). -/
namespace Sys2Proof.Machine

/-! ### Queues and DMA (R91, R92, R142, R143, Tables 5.3, 7.7, 19.1) -/

def QState.code : QState → Nat
  | .disabled => 0
  | .running => 1
  | .halted => 2
  | .rewinding => 3

def DmaForm.code : DmaForm → Nat
  | .linear => 0
  | .indexedRead => 1
  | .indexedWrite => 2
  | .fabricOut => 3
  | .fabricIn => 4
  | .watchCopy => 5

def DmaSt.code : DmaSt → Nat
  | .idle => 0
  | .running => 1
  | .faultWait => 2
  | .held => 3
  | .parked => 4

def Chip.dmaView (c : Chip) (n slot : Nat) : List Byte :=
  match Tbl.find (c.ridge n).dma slot with
  | none => zeros 16
  | some d =>
    let per := match c.cmd n d.queue d.count with | some k => k.perSlice | none => 1
    leBytes 16 (d.count + d.unit / per * 2 ^ 32 + d.unit % per * 2 ^ 48 + d.line * 2 ^ 64 + d.queue * 2 ^ 87 + d.form.code * 2 ^ 90 +
      d.st.code * 2 ^ 93 + d.faultId % 65536 * 2 ^ 96)

def Activity.view (a : Activity) : List Byte :=
  leBytes 8 a.array ++ leBytes 8 a.vector ++ leBytes 8 a.bytesIn ++ leBytes 8 a.bytesOut ++ leBytes 8 a.stall ++ leBytes 4 a.seq ++ zeros 4

def Promo.word (p : Promo) : Nat :=
  p.base + p.ctx * 2 ^ 48 + (if p.isB then 2 ^ 52 else 0) + 2 ^ 53 + p.space * 2 ^ 54

/-- One queue's part of a journal copy: the frontier of the last boundary, and what is written at once. -/
def Chip.journalQueue (c : Chip) (n q : Nat) (e : JQueue) : List Byte :=
  let x := c.queue n q
  let st := if x.st = .halted || (x.st = .rewinding && x.resume = .halted) then 2 else 1
  let state := e.qcontext + st * 16 + x.halt * 256 + e.runCount * 2 ^ 16 + (if e.promoted then 2 ^ 20 else 0) + (if e.triggered then 2 ^ 21 else 0)
  let tally := fun (k : Cmd) => leBytes 4 k.count ++ leBytes 2 k.slices ++ leBytes 1 k.flags ++
    leBytes 1 ((if k.replayed then 1 else 0) + (if k.accMark then 2 else 0)) ++ leBytes 8 k.cycles
  let ks := (x.cmds.filter (fun k => !k.committed && k.cfgRead)).take 16
  fitTo 0x1000 (leBytes 8 (e.frontierCount * 2 ^ 32 + e.frontierSlice) ++ leBytes 8 (x.accepted * 2 ^ 32 + x.consumed) ++ leBytes 8 state ++
    zeros 0x28 ++ (ks.map tally).flatten)

/-- The newer complete copy of Ridge n's journal. -/
def Chip.journalView (c : Chip) (n : Nat) : List Byte :=
  let r := c.ridge n
  let one := decide (r.copy1.seq > r.copy0.seq)
  let a := if one then r.copy1 else r.copy0
  let b := if one then r.copy0 else r.copy1
  let j := if a.bad.isEmpty then a else b
  let head := leBytes 8 j.commitFrame ++ leBytes 8 j.seq ++ ((List.range 16).map (fun x => leBytes 8 (Tbl.get j.steps 0 x))).flatten
  fitTo 0x10000 (fitTo 0x100 head ++ fitTo 0xF00 (j.promo.map (fun p => leBytes 16 p.word)).flatten ++
    ((List.range 8).map (fun q => c.journalQueue n q (Tbl.get j.queues {} q))).flatten)

/-! ### Links, loops, the log -/

def Chip.linkView (c : Chip) (l sub : Nat) : Nat :=
  match Tbl.find c.links l with
  | none => 0
  | some x =>
    match sub with
    | 0 => x.state
    | 1 => x.fibre
    | 2 => x.phys
    | 3 => x.peer
    | 4 => maskOf ((c.liveOf l).map (· % 32))
    | 5 => x.part.getD 0xFF
    | 6 => x.version
    | 7 => x.features
    | 8 => x.quar
    | _ => ofSigned 32 x.offset

/-- LOOP_STATUS. -/
def Chip.loopStatus (c : Chip) (core inst : Nat) : Nat :=
  let l := c.loop core inst
  let x := c.core core
  let lvl := c.reg (Obj.CORE_DECIMATION + core)
  let dec := match l.classOf core inst with
    | 0 => false
    | 1 => decide (lvl ≥ 3)
    | _ => decide (lvl ≥ 1)
  let rc := if !(c.coef core inst).rcEn then 0 else if c.reg (Obj.RC_PERIOD + core) = 0 then 1 else if x.rcOutlier then 3 else 2
  l.mode + (if l.stage = 2 then 4 else 0) + (if l.verified then 8 else 0) + (if dec then 16 else 0) + min l.fails 7 * 32 +
  l.tone % 256 * 2 ^ 8 + min l.overruns 255 * 2 ^ 16 + rc * 2 ^ 24

/-- The field of a loop that an object of index 0x9200 + 16c + i / 32 shows; its block where that is the coefficients. -/
def Chip.loopView (c : Chip) (core inst f : Nat) : Nat :=
  let l := c.loop core inst
  match f with
  | 0 => l.mode
  | 1 => l.classOf core inst
  | 3 => l.setpoint.toNat
  | 4 => c.loopStatus core inst
  | 5 => l.pos + l.phase * 2 ^ 16 + l.pipe * 2 ^ 24
  | 6 => l.output.toNat
  | _ => l.input.toNat

/-- A record as a TENANT session sees it. -/
def EvRec.tenantBytes (e : EvRec) : List Byte := ({ e with seq := 0 } : EvRec).bytes

/-- Whole records, as many as fit in 992 bytes. -/
def logPage : Nat → List (List Byte) → List Byte
  | _, [] => []
  | room, r :: t => if r.length ≤ room then r ++ logPage (room - r.length) t else []

/-- CAIRN_READ of a session (R423). -/
def Chip.cairnRead (c : Chip) (slot : Nat) (se : Sess) : List Byte :=
  let cur := c.get (sessInst slot) Obj.CAIRN_CURSOR
  if se.cls = 0 then []
  else if se.cls = 1 then
    logPage 992 ((c.cairn.log.filter (fun e => e.part = se.part && e.keyGen = c.keyGen se.part && decide (cur ≤ e.partSeq))).map EvRec.tenantBytes)
  else logPage 992 ((c.cairn.log.filter (fun e => decide (cur ≤ e.seq))).map EvRec.bytes)

/-! ### Sessions -/

def Sess.info (se : Sess) : Nat := se.id + se.cls * 2 ^ 32 + (if se.cls = 1 then se.part else 0) * 2 ^ 36 + 2 ^ 40

def Chip.streamHead (c : Chip) (se : Sess) : Nat := if se.cls = 0 then 0 else (Tbl.get c.streams {} se.stream).next - 1

/-- Bytes of the transfer pool in use. -/
def Chip.poolUsed (c : Chip) : Nat :=
  c.sess.foldl (fun n s => s.2.blocks.foldl (fun n b => n + b.2.total) n) 0

/-! ### Scalars and blobs that a read works out -/

/-- A scalar that is worked out from the state; none for one that is held as it stands. -/
def Chip.scalarView (c : Chip) (se : Sess) (k idx sub : Nat) : Option Nat :=
  let q := idx - 0x4110
  if 0x4110 ≤ idx && idx ≤ 0x418F then
    let x := c.queue (q / 8) (q % 8)
    if sub = 4 then some x.st.code else if sub = 5 then some x.consumed else if sub = 7 then some x.halt else none
  else if 0x4330 ≤ idx && idx ≤ 0x433F then
    let x := c.queue (idx - 0x4330) sub
    some (x.frontierCount * 2 ^ 32 + x.frontierSlice)
  else if idx = 0x6005 then some (if se.cls = 1 then se.part else 0xFF)
  else if idx = 0x6006 then some (if se.cls = 1 then c.ridgesOf se.part else 0)
  else if 0x7200 ≤ idx && idx ≤ 0x723F then some (c.linkView (idx - 0x7200) sub)
  else if idx = 0x7300 then some (c.lane sub).state
  else if idx = 0x9000 then some (if c.reg (Obj.CORE_STATE + sub) = 0 && sub < 8 && c.laneCore sub != sub then 2 else c.reg (Obj.CORE_STATE + sub))
  else if 0x9200 ≤ idx && idx ≤ 0x92AF then
    some (c.loopView ((idx - 0x9200) / 16) (32 * ((idx - 0x9200) % 16) + sub / 8) (sub % 8))
  else match idx * 256 + sub with
  | 0x100000 => some se.last
  | 0x100001 => some (c.streamHead se)
  | 0x110002 => some (8388608 - c.poolUsed)
  | 0xA00000 => some c.raw
  | 0xA00001 => some c.now
  | 0xA00003 => some c.frame
  | 0x301102 => some ((c.part k).share * c.reg Obj.CUT_FACTOR / 256)
  | _ => if idx = 0x1002 then some (match Tbl.find c.sess sub with | some x => x.info | none => 0) else none

/-- A blob that is worked out from the state. -/
def Chip.blobView (c : Chip) (slot : Nat) (se : Sess) (idx sub : Nat) : Option (List Byte) :=
  if 0x4340 ≤ idx && idx ≤ 0x434F then some (c.journalView (idx - 0x4340))
  else if idx = 0x5014 then
    some ((c.unit sub).retired.map (fun e => leBytes 8 (e.1 * 65536 + if e.2 then 2 ^ 52 else 0))).flatten
  else if 0x5240 ≤ idx && idx ≤ 0x524F then some (c.dmaView (idx - 0x5240) sub)
  else if 0x9120 ≤ idx && idx ≤ 0x912A then
    let b := (c.core (idx - 0x9120)).cap sub
    some (b.pre ++ b.recs).flatten
  else if 0x9200 ≤ idx && idx ≤ 0x92AF then
    let core := (idx - 0x9200) / 16
    let inst := 32 * ((idx - 0x9200) % 16) + sub / 8
    some (c.coefBytes core inst)
  else if idx = 0xB001 then some (c.cairnRead slot se)
  else if idx = 0xB003 then some ((c.cairn.stub[sub]?).getD (zeros 32))
  else if 0xB100 ≤ idx && idx ≤ 0xB10F then some (c.logWindow sub)
  else if 0xCC30 ≤ idx && idx ≤ 0xCC3F then some (c.queue (idx - 0xCC30) sub).act.view
  else if 0xF100 ≤ idx && idx ≤ 0xF11F then some (c.qpCfg (256 * (idx - 0xF100) + sub))
  else none

/-! ### The snapshot (R432, R433) -/

/-- Objects that a freeze copies: every counter, every activity sample, and the newest bottleneck entries. -/
def frozenObj (idx sub : Nat) : Bool :=
  idx / 0x1000 = 0xC &&
  (decide (idx < 0xCC00) || decide (idx ≥ 0xCD00) || (idx = 0xCC10 && sub = 0) || (idx = 0xCC11 && sub = 0) ||
   (decide (0xCC12 ≤ idx) && decide (idx ≤ 0xCC3F)) || idx = 0xCC43)

/-- Whether the snapshot holds the value of an object for partition `k` (0xFF for the module's). -/
def Snapshot.has (x : Snapshot) (c : Chip) (r : ObjRow) (k idx sub : Nat) : Bool :=
  if !r.perPart then true
  else match Tbl.find x.parts k with
    | none => false
    | some ridges =>
      let view := c.setReg (atIdx Obj.WS_APPLIED_RIDGES k) ridges
      match r.unit with
      | .ridgeSub => r.owns view k idx sub
      | .ridgeIdx => r.owns view k idx sub
      | .queueIdx => r.owns view k idx sub
      | .memSub => r.owns view k idx sub
      | .memIdx => r.owns view k idx sub
      | _ => true

/-- A value of the snapshot. -/
def Snapshot.value (x : Snapshot) (r : ObjRow) (inst idx sub : Nat) : List Byte :=
  if 0xCC30 ≤ idx && idx ≤ 0xCC3F then Tbl.get x.acts (zeros 48) (8 * (idx - 0xCC30) + sub)
  else if tyScalar r.ty then
    leBytes (tyBytes r.ty) (match Tbl.find x.regs (ikey inst (idx * 256 + sub)) with | some v => v.toNat | none => objDefault (idx * 256 + sub))
  else fitTo r.maxLen (Tbl.get x.blobs [] (ikey inst (idx * 256 + sub)))

/-! ### One read -/

/-- The bytes of an object that a read finds, where its state allows it. -/
def Chip.value (c : Chip) (slot : Nat) (se : Sess) (part inst idx sub : Nat) (r : ObjRow) : Except Nat (List Byte) :=
  let k := if se.cls = 1 then se.part else part
  let n := if tyScalar r.ty then tyBytes r.ty else r.maxLen
  if frozenObj idx sub && c.get (sessInst slot) Obj.COUNTER_VIEW = 1 then
    match c.snap with
    | none => .error rcState
    | some x => if x.has c r k idx sub then .ok (x.value r inst idx sub) else .error rcState
  else if r.trigger then .ok (zeros n)
  else if 0x9120 ≤ idx && idx ≤ 0x912A && c.reg (capState (idx - 0x9120) sub) != 3 then .error rcState
  else if tyScalar r.ty then .ok (leBytes n ((c.scalarView se k idx sub).getD (c.get inst (idx * 256 + sub))))
  else
    let b := (c.blobView slot se idx sub).getD (c.blob inst (idx * 256 + sub))
    .ok (if r.varLen then b
      else if (idx = 0xCC10 || idx = 0xCC11) && sub = 1 then zeros (n - b.length) ++ b  -- the history's newest entry is its last
      else fitTo n b)

end Sys2Proof.Machine
end

