-- ==== Sys2Proof/Machine/Dictionary.lean ====
section
/-! DEFINITION. The control dictionary's operations: reads, writes, descriptors, block transfers, and the records and groups of a
request (R353–R363). -/
namespace Sys2Proof.Machine

/-! ### What a write does, by its object -/

def between (a b x : Nat) : Bool := decide (a ≤ x) && decide (x ≤ b)

/-- An object that holds what is written. -/
def effPlain (idx sub : Nat) : Eff := effOn (fun inst bs c =>
  match objFind idx sub with
  | some r => if tyScalar r.ty then (c.set inst (idx * 256 + sub) (leNat bs), rcOK) else (c.setBlob inst (idx * 256 + sub) bs, rcOK)
  | none => (c, rcNoObject))

/-- An operator object of the extent table: the write is applied at the next frame boundary (R20). -/
def effExtent (key : Nat) : Eff := effOn (fun _ bs c => (c.extSet key (leNat bs), rcOK))

/-- A ring object of a queue, written only while the queue is DISABLED (R87). -/
def effRing (n q key : Nat) : Eff := effOn (fun inst bs c =>
  if (c.queue n q).st != .disabled then (c, rcState) else (c.set inst key (leNat bs), rcOK))

/-- The effect of a write of an object that is named alone. -/
def effNamed (slot : Nat) (key : Nat) : Option Eff :=
  if key = Obj.DOORBELL then some effDoorbell
  else if key = Obj.TLB_INVAL then some effInval
  else if key = Obj.STEWARD_RING_BASE then some effRingBase
  else if key = Obj.STEWARD_RING_CONSUMER then some effRingConsumer
  else if key = Obj.FAULT_RESOLVE then some (effResolve false)
  else if key = Obj.WS_CONTROL then some effWsControl
  else if key = Obj.SPUR_RETIRE_REQ then some effSpurRetire
  else if key = Obj.LINK_CONTROL then some effLinkControl
  else if key = Obj.STEER_CONTROL then some effSteerControl
  else if key = Obj.COL_FORCE_BYPASS then some effColForce
  else if key = Obj.ENGINE_RETIRE_REQ then some effEngineRetire
  else if key = Obj.ENGINE_FAIL_RECORD then some effFailRecord
  else if key = Obj.OCS_NOTICE then some effOcsNotice
  else if key = Obj.TRAVERSE_STORE then some effTravStore
  else if key = Obj.CAL_REQUEST then some effCalRequest
  else if key = Obj.CAL_ENABLE then some effCalEnable
  else if key = Obj.CFG_FACTORY_RESET then some effFactory
  else if key = Obj.TIME_SET then some effTimeSet
  else if key = Obj.TIME_RATE then some effTimeRate
  else if key = Obj.POWER_LIMIT then some effPowerLimit
  else if key = Obj.RESET_REQUEST then some effResetRequest
  else if key = Obj.TENANT_RESET_REQUEST then some effTenantReset
  else if key = Obj.SCREE_BASE then some effScreeBase
  else if key = Obj.CAIRN_CLEAR then some effCairnClear
  else if key = Obj.FREEZE_AT then some effFreeze
  else if key = Obj.TRACE_EN then some effTraceEn
  else if key = Obj.TRACE_BASE then some effTraceBase
  else if key = Obj.TRACE_BYTES then some effTraceBytes
  else if key = Obj.WATCH_BASE then some effWatchBase
  else if key = Obj.WATCH_BYTES then some effWatchBytes
  else if key = Obj.OPKEY_PROVISION then some effProvision
  else if key = Obj.OPKEY_REVOKE then some (effRevoke slot)
  else if key = Obj.ROLLBACK_COMMIT then some effRollback
  else if key = Obj.FW_BANK_SELECT then some effBankSelect
  else if key = Obj.FW_ACTIVATE then some effFwActivate
  else if key = Obj.ATTEST_REQUEST then some effAttest
  else none

/-- The effect of a write of one field of a loop's window (R317). -/
def effLoop (idx sub : Nat) : Eff :=
  let core := (idx - 0x9200) / 16
  let inst := 32 * ((idx - 0x9200) % 16) + sub / 8
  match sub % 8 with
  | 0 => effLoopMode core inst
  | 1 => effLoopClass core inst
  | 2 => effLoopCoef core inst
  | 3 => effLoopSetpoint core inst
  | _ => effLoopOutput core inst

/-- The effect of a write of an object that has one for each unit. -/
def effUnit (se : Sess) (idx sub : Nat) : Option Eff :=
  let key := idx * 256 + sub
  if idx = 0x2001 then some (effExtent key)
  else if between 0x4110 0x418F idx then
    some (if sub = 6 then effQcontrol ((idx - 0x4110) / 8) ((idx - 0x4110) % 8) else effRing ((idx - 0x4110) / 8) ((idx - 0x4110) % 8) key)
  else if idx = 0x41A0 then some (effSignal sub false)
  else if idx = 0x5010 then some (effErasure (se.cls = 3) sub)
  else if idx = 0x5011 then some (effErasure (se.cls = 3) (16 + sub))
  else if idx = 0x5200 then some (effCtxRoot sub)
  else if idx = 0x6110 then some (effFwImage sub)
  else if between 0x7100 0x710F idx then some (effRouteEntry key)
  else if idx = 0x7400 then some (effExpect Obj.EXPECT_PEER sub)
  else if idx = 0x7401 then some (effExpect Obj.EXPECT_FIBRE sub)
  else if between 0x8100 0x8107 idx && sub = 2 then some (effSteerRatio (idx - 0x8100))
  else if between 0x9100 0x910A idx then some (effInject (idx - 0x9100) sub)
  else if between 0x9110 0x911A idx then some (effCapture (idx - 0x9110) sub)
  else if between 0x9200 0x92AF idx then some (effLoop idx sub)
  else if between 0xF100 0xF11F idx then some (effQpConfig (256 * (idx - 0xF100) + sub))
  else if idx = 0xF200 then some (effMrEntry sub)
  else none

/-- The effect of a write of any object. -/
def effOf (slot : Nat) (se : Sess) (idx sub : Nat) : Eff :=
  match effNamed slot (idx * 256 + sub) with
  | some e => e
  | none => (effUnit se idx sub).getD (effPlain idx sub)

/-! ### Records of a request (Tables 14.4, 14.5, 14.6) -/

/-- One operation record: OP, SUB, INDEX, LENGTH, HANDLE, OFFSET, the data that follows, and whether a reserved field or the
padding is not zero. -/
structure DRec where
  op : Nat
  idx : Nat := 0
  sub : Nat := 0
  len : Nat := 0
  handle : Nat := 0
  off : Nat := 0
  data : List Byte := []
  bad : Bool := false
deriving DecidableEq, Repr

/-- What one operation gives: RESULT, data, HANDLE and OFFSET of its reply record. -/
structure DRes where
  code : Nat
  data : List Byte := []
  handle : Nat := 0
  off : Nat := 0
deriving DecidableEq, Repr

def opRead : Nat := 1
def opWrite : Nat := 2
def opDescribe : Nat := 3
def opOpenRead : Nat := 4
def opOpenWrite : Nat := 5
def opBlockRead : Nat := 6
def opBlockWrite : Nat := 7
def opCommit : Nat := 8
def opClose : Nat := 9

def DRec.fail (r : DRec) (code : Nat) : DRes := { code := code, handle := r.handle, off := r.off }

/-- Whether a record is refused with MALFORMED: an unknown OP, or a field that must be zero and is not (R355, R358). -/
def DRec.malformed (r : DRec) : Bool :=
  r.bad || r.op = 0 || decide (r.op > 9) ||
  (decide (r.op ≤ 5) && r.handle != 0) ||
  (decide (r.op ≥ 6) && (r.idx != 0 || r.sub != 0)) ||
  (r.op != opOpenWrite && r.op != opBlockRead && r.op != opBlockWrite && r.off != 0)

/-! ### Read, write, describe (R358, R359, R362) -/

/-- An object longer than 992 bytes moves only by block transfer. -/
def ObjRow.big (r : ObjRow) : Bool := decide (r.maxLen > 992)

/-- The instance that a read reaches. FW_IMAGE is write only. -/
def Chip.readReach (c : Chip) (slot : Nat) (se : Sess) (part idx sub : Nat) : Except Nat (ObjRow × Nat) :=
  match objFind idx sub with
  | none => .error rcNoObject
  | some r =>
    match c.reach slot se part r idx sub false with
    | .error e => .error e
    | .ok inst => if idx = 0x6110 then .error rcNoAccess else .ok (r, inst)

/-- READ. -/
def Chip.dictRead (c : Chip) (slot : Nat) (se : Sess) (part : Nat) (r : DRec) : DRes :=
  match c.readReach slot se part r.idx r.sub with
  | .error e => r.fail e
  | .ok (o, inst) =>
    if o.big then r.fail rcTooBig
    else if tyScalar o.ty && r.len != tyBytes o.ty then r.fail rcLength
    else match c.value slot se part inst r.idx r.sub o with
      | .error e => r.fail e
      | .ok b => if r.len < b.length then r.fail rcLength else { code := rcOK, data := b }

/-- The checks that a WRITE meets before those of its value. -/
def Chip.dictWriteReach (c : Chip) (slot : Nat) (se : Sess) (part : Nat) (r : DRec) : Except Nat (ObjRow × Nat) :=
  match objFind r.idx r.sub with
  | none => .error rcNoObject
  | some o =>
    match c.writeReach slot se part r.idx r.sub r.len with
    | .error e => .error (if o.big && e = rcLength then rcTooBig else e)
    | .ok x => if o.big then .error rcTooBig else .ok x

/-- WRITE. -/
def State.dictWrite (s : State) (slot : Nat) (se : Sess) (part : Nat) (r : DRec) : State × DRes :=
  match s.chip.dictWriteReach slot se part r with
  | .error e => (s, r.fail e)
  | .ok _ =>
    let (s, e) := s.write1 slot se part r.idx r.sub r.data (effOf slot se r.idx r.sub)
    (s, r.fail e)

/-- The descriptor of Table 14.7. -/
def ObjRow.descriptor (o : ObjRow) : List Byte :=
  leBytes 1 o.ty ++ leBytes 1 o.cls ++ leBytes 1 o.kind ++ zeros 1 ++ leBytes 4 o.maxLen ++ leBytes 8 (if tyScalar o.ty then o.dflt else 0)

/-- DESCRIBE. -/
def dictDescribe (r : DRec) : DRes :=
  match objFind r.idx r.sub with
  | none => r.fail rcNoObject
  | some o => { code := rcOK, data := o.descriptor }

/-! ### Block transfer (R361) -/

def Chip.setSess (c : Chip) (slot : Nat) (se : Sess) : Chip := { c with sess := Tbl.put c.sess slot se }

/-- The lowest handle from `h` upward that is not open; handles are 1 to 65,535. -/
def freeHandle (t : Tbl BlockXfer) : Nat → Nat → Nat
  | 0, h => h
  | f + 1, h => if (Tbl.find t h).isSome then freeHandle t f (h % 65535 + 1) else h

/-- A transfer opens, where there is room for it. -/
def Chip.blockOpen (c : Chip) (slot : Nat) (se : Sess) (r : DRec) (x : BlockXfer) : Chip × DRes :=
  let h := freeHandle se.blocks 5 se.nextHandle
  (c.setSess slot { se with blocks := Tbl.put se.blocks h x, nextHandle := h % 65535 + 1 },
   { code := rcOK, handle := h, off := if x.write then r.off else x.total })

def Chip.blockRoom (c : Chip) (se : Sess) (n : Nat) : Bool :=
  decide (se.blocks.length < 4) && decide (c.poolUsed + n ≤ 8388608)

/-- BLOCK_OPEN_READ: the whole object is copied at one instant. -/
def Chip.blockOpenRead (c : Chip) (slot : Nat) (se : Sess) (part : Nat) (r : DRec) : Chip × DRes :=
  match c.readReach slot se part r.idx r.sub with
  | .error e => (c, r.fail e)
  | .ok (o, inst) =>
    match c.value slot se part inst r.idx r.sub o with
    | .error e => (c, r.fail (if c.blockRoom se 0 then e else rcNoBuffer))
    | .ok b =>
      if !c.blockRoom se b.length then (c, r.fail rcNoBuffer)
      else c.blockOpen slot se r { write := false, idx := r.idx, sub := r.sub, part := part, total := b.length, buf := b }

/-- The refusal that the state gives a write of an object, found before its bytes are known: what a write of the bytes it holds
would be refused with. -/
def State.stateRefuses (s : State) (slot : Nat) (se : Sess) (part inst : Nat) (o : ObjRow) (r : DRec) : Option (State × Nat) :=
  let cur := if tyScalar o.ty then leBytes (tyBytes o.ty) (s.chip.get inst (r.idx * 256 + r.sub)) else fitTo r.off (match s.chip.value slot se part inst r.idx r.sub o with | .ok b => b | .error _ => [])
  if r.idx = 0xB002 then (if s.chip.cairn.clearing then some (s, rcState) else none)
  else
    let (s', e) := s.write1 slot se part r.idx r.sub cur (effOf slot se r.idx r.sub)
    if e = rcState || e = rcRefused then some (s', e) else none

/-- BLOCK_OPEN_WRITE. -/
def State.blockOpenWrite (s : State) (slot : Nat) (se : Sess) (part : Nat) (r : DRec) : State × DRes :=
  match s.chip.writeReach slot se part r.idx r.sub r.off with
  | .error e => (s, r.fail e)
  | .ok (o, inst) =>
    if !s.chip.blockRoom se r.off then (s, r.fail rcNoBuffer)
    else match s.stateRefuses slot se part inst o r with
      | some (s', e) => (s', r.fail e)
      | none =>
        let (c, x) := s.chip.blockOpen slot se r { write := true, idx := r.idx, sub := r.sub, part := part, total := r.off, buf := zeros r.off }
        ({ s with chip := c }, x)

/-- The bytes with `d` placed at an offset. -/
def splice (b : List Byte) (o : Nat) (d : List Byte) : List Byte := b.take o ++ d ++ b.drop (o + d.length)

/-- Whether spans cover every byte from `p` to the end. -/
def spansCover (l : List (Nat × Nat)) (n : Nat) : Nat → Nat → Bool
  | 0, p => decide (n ≤ p)
  | f + 1, p =>
    if n ≤ p then true
    else match l.find? (fun s => decide (s.1 ≤ p) && decide (p < s.2)) with
      | some s => spansCover l n f s.2
      | none => false

def BlockXfer.complete (x : BlockXfer) : Bool := spansCover x.have_ x.total x.have_.length 0

/-- BLOCK_READ and BLOCK_WRITE. -/
def Chip.blockMove (c : Chip) (slot : Nat) (se : Sess) (r : DRec) : Chip × DRes :=
  if r.len = 0 || r.len > 992 then (c, r.fail rcLength)
  else match Tbl.find se.blocks r.handle with
    | none => (c, r.fail rcNoHandle)
    | some x =>
      if r.off + r.len > x.total then (c, r.fail rcLength)
      else if x.write != (r.op = opBlockWrite) then (c, r.fail rcState)
      else if r.op = opBlockRead then
        (c, { code := rcOK, data := (x.buf.drop r.off).take r.len, handle := r.handle, off := r.off })
      else
        let x := { x with buf := splice x.buf r.off r.data, have_ := x.have_ ++ [(r.off, r.off + r.len)] }
        (c.setSess slot { se with blocks := Tbl.put se.blocks r.handle x }, r.fail rcOK)

/-- BLOCK_COMMIT: a whole buffer is written as one WRITE, and the transfer closes whatever the result. -/
def State.blockCommit (s : State) (slot : Nat) (se : Sess) (r : DRec) : State × DRes :=
  match Tbl.find se.blocks r.handle with
  | none => (s, r.fail rcNoHandle)
  | some x =>
    if !x.write then (s, r.fail rcState)
    else if !x.complete then (s, r.fail rcIncomplete)
    else
      let se := { se with blocks := Tbl.del se.blocks r.handle }
      let (s, e) := (s.on (fun c => c.setSess slot se)).write1 slot se x.part x.idx x.sub x.buf (effOf slot se x.idx x.sub)
      (s, r.fail e)

/-- BLOCK_CLOSE. -/
def Chip.blockClose (c : Chip) (slot : Nat) (se : Sess) (r : DRec) : Chip × DRes :=
  match Tbl.find se.blocks r.handle with
  | none => (c, r.fail rcNoHandle)
  | some _ => (c.setSess slot { se with blocks := Tbl.del se.blocks r.handle }, r.fail rcOK)

/-! ### One operation -/

def State.onDict (s : State) (x : Chip × DRes) : State × DRes := ({ s with chip := x.1 }, x.2)

/-- One operation of a session, outside a group. -/
def State.dictOp (s : State) (slot : Nat) (se : Sess) (part : Nat) (r : DRec) : State × DRes :=
  if r.malformed then (s, r.fail rcMalformed)
  else match r.op with
    | 1 => (s, s.chip.dictRead slot se part r)
    | 2 => s.dictWrite slot se part r
    | 3 => (s, dictDescribe r)
    | 4 => s.onDict (s.chip.blockOpenRead slot se part r)
    | 5 => s.blockOpenWrite slot se part r
    | 6 => s.onDict (s.chip.blockMove slot se r)
    | 7 => s.onDict (s.chip.blockMove slot se r)
    | 8 => s.blockCommit slot se r
    | _ => s.onDict (s.chip.blockClose slot se r)

/-! ### Groups (R360) -/

/-- The check of one record of a group ahead of the group's values. -/
def Chip.groupReach (c : Chip) (slot : Nat) (se : Sess) (part : Nat) (r : DRec) : Nat :=
  if r.malformed || decide (r.op > 2) then rcMalformed
  else if r.op = opRead then
    match c.readReach slot se part r.idx r.sub with | .error e => e | .ok (o, _) => if o.big then rcTooBig else rcOK
  else if (match objFind r.idx r.sub with | some o => o.trigger | none => false) then rcMalformed
  else match c.dictWriteReach slot se part r with | .error e => e | .ok _ => rcOK

/-- One write of a group, judged on the group's values. -/
def State.groupWrite (s : State) (ov : Tbl Nat) (slot : Nat) (se : Sess) (part : Nat) (r : DRec) : State × Nat :=
  s.writeG ov slot se part r.idx r.sub r.data (effOf slot se r.idx r.sub)

/-- All writes of a list: those that must wait for a later one are tried again after it, so that their order within the one
instant does not matter. -/
def State.groupAll (ov : Tbl Nat) (slot : Nat) (se : Sess) (part : Nat) : Nat → List DRec → State → State
  | 0, _, s => s
  | f + 1, rs, s =>
    let (s, again) := rs.foldl (fun (x : State × List DRec) r =>
      if r.op != opWrite then x
      else
        let (s', e) := x.1.groupWrite ov slot se part r
        if e = rcOK then (s', x.2) else (x.1, x.2 ++ [r])) (s, [])
    if again.isEmpty || again.length = rs.length then s else State.groupAll ov slot se part f again s

/-- The records of a group with their places. -/
def numbered {α : Type} (l : List α) : List (Nat × α) := (List.range l.length).zip l

/-- The code of each record: its own checks, then a write against the state after the group's other writes, a read against the
state after all. -/
def State.groupCodes (s : State) (ov : Tbl Nat) (slot : Nat) (se : Sess) (part : Nat) (rs : List DRec) : List Nat :=
  let ok := rs.filter (fun r => s.chip.groupReach slot se part r = rcOK)
  let n := rs.length + 1
  rs.map (fun r =>
    let e := s.chip.groupReach slot se part r
    if e != rcOK then e
    else if r.op = opWrite then
      ((State.groupAll ov slot se part n (ok.filter (fun x => x.idx != r.idx || x.sub != r.sub)) s).groupWrite ov slot se part r).2
    else ((State.groupAll ov slot se part n ok s).chip.dictRead slot se part r).code)

/-- GROUP: nothing is performed unless every record would be; then all are, at one instant. -/
def State.dictGroup (s : State) (slot : Nat) (se : Sess) (part : Nat) (rs : List DRec) : State × List DRes :=
  let ov := rs.foldl (fun (t : Tbl Nat) r => if r.op = opWrite then Tbl.put t (r.idx * 256 + r.sub) (leNat r.data) else t) []
  let codes := s.groupCodes ov slot se part rs
  let n := rs.length + 1
  if codes.any (· != rcOK) then
    -- A refusal leaves what it itself sets: a reason object, an event.
    let s := (rs.zip codes).foldl (fun s x =>
      if x.1.op = opWrite && x.2 = rcRefused then
        let (s', e) := s.groupWrite ov slot se part x.1
        if e = x.2 then s' else s
      else s) s
    (s, (rs.zip codes).map (fun x => x.1.fail (if x.2 = rcOK then rcNotDone else x.2)))
  else
    let res := (numbered rs).map (fun x =>
      if x.2.op = opWrite then x.2.fail rcOK
      else (State.groupAll ov slot se part n (rs.take x.1) s).chip.dictRead slot se part x.2)
    (State.groupAll ov slot se part n rs s, res)

/-! ### A whole request (R354–R357) -/

/-- The record at the front of a payload. -/
def recAt (b : List Byte) : Option (DRec × List Byte) :=
  if b.length < 16 then none
  else
    let op := byteAt b 0
    let len := leAt b 4 2
    let n := if op = opWrite || op = opBlockWrite then 8 * ceilDiv len 8 else 0
    let t := b.drop 16
    if t.length < n then none
    else
      some ({ op := op, sub := byteAt b 1, idx := leAt b 2 2, len := len, handle := leAt b 6 2, off := leAt b 8 4
              data := if n = 0 then [] else t.take len
              bad := leAt b 12 4 != 0 || !allZero ((t.take n).drop len) }, t.drop n)

/-- COUNT records that fill a payload. -/
def recsAt : Nat → List Byte → Option (List DRec)
  | 0, b => if b.isEmpty then some [] else none
  | n + 1, b =>
    match recAt b with
    | none => none
    | some (r, t) => (recsAt n t).map (r :: ·)

/-- Bytes of a reply record. -/
def DRec.replyBytes (r : DRec) : Nat :=
  16 + (if r.op = opDescribe then 16 else if r.op = opRead || r.op = opBlockRead then 8 * ceilDiv r.len 8 else 0)

/-- The reply record. -/
def DRec.reply (r : DRec) (x : DRes) : List Byte :=
  leBytes 1 r.op ++ leBytes 1 r.sub ++ leBytes 2 r.idx ++ leBytes 2 x.data.length ++ leBytes 2 x.handle ++ leBytes 4 x.off ++
  leBytes 2 x.code ++ zeros 2 ++ padTo 8 x.data

/-- Records in order: the first that is refused ends the request; a session that closes meanwhile performs no more. -/
def State.dictSeq (slot part : Nat) : List DRec → State → State × List DRes
  | [], s => (s, [])
  | r :: t, s =>
    match Tbl.find s.chip.sess slot with
    | none => (s, (r :: t).map (fun r => r.fail rcNotDone))
    | some se =>
      let (s, x) := s.dictOp slot se part r
      if x.code != rcOK then (s, x :: t.map (fun r => r.fail rcNotDone))
      else
        let (s, xs) := State.dictSeq slot part t s
        (s, x :: xs)

/-- A REQUEST's payload is performed: the STATUS and the payload of its reply. -/
def State.dictRequest (s : State) (slot : Nat) (se : Sess) (b : List Byte) : State × Nat × List Byte :=
  let n := byteAt b 0
  let part := byteAt b 2
  let head := fun (n : Nat) => leBytes 1 n ++ leBytes 1 (byteAt b 1 % 2) ++ leBytes 1 part ++ zeros 5
  let tooLong := (s, 3, ([] : List Byte))
  if b.length < 8 || n = 0 || n > 63 then tooLong
  else match recsAt n (b.drop 8) with
    | none => tooLong
    | some rs =>
      if 8 + rs.foldl (fun t r => t + r.replyBytes) 0 > 1024 then tooLong
      else
        let bad := byteAt b 1 ≥ 2 || leAt b 3 5 != 0
        let rs := match rs with
          | r :: t => { r with bad := r.bad || bad } :: t
          | [] => []
        let (s, xs) := if byteAt b 1 % 2 = 1 then s.dictGroup slot se part rs else State.dictSeq slot part rs s
        let s := s.on (fun c => xs.foldl (fun c x =>
          if x.code = rcOK || x.code = rcNotDone then c else c.bump Obj.CNT_DICT_REFUSED) c)
        let st := ((xs.map DRes.code).find? (· != rcOK)).getD 0
        (s, st, head n ++ ((rs.zip xs).map (fun x => x.1.reply x.2)).flatten)

/-! ### The operations as commands of their own -/

/-- One operation of a session, by itself: its result goes back to the session. -/
def State.dictCmd (s : State) (r : Req) (d : DRec) : State :=
  match Tbl.find s.chip.sess r.sess.val with
  | none => s
  | some se =>
    let (s, x) := s.dictOp r.sess.val se r.part.toNat d
    let data := if x.code != rcOK then []
      else if d.op = opOpenRead || d.op = opOpenWrite then leBytes 2 x.handle ++ leBytes 4 x.off else x.data
    s.on (fun c => c.result r.sess.val d.idx d.sub x.code data)

/-- READ (R359). -/
def execRead (r : Req) (index : W16) (sub : Byte) (length : W16) (s : State) : Host.Outcome State Fault Refusal :=
  done (s.dictCmd r { op := opRead, idx := index.toNat, sub := sub.toNat, len := length.toNat })

/-- WRITE (R359). -/
def execWrite (r : Req) (index : W16) (sub : Byte) (value : List Byte) (s : State) : Host.Outcome State Fault Refusal :=
  done (s.dictCmd r { op := opWrite, idx := index.toNat, sub := sub.toNat, len := value.length, data := value })

/-- DESCRIBE (R362). -/
def execDescribe (r : Req) (index : W16) (sub : Byte) (s : State) : Host.Outcome State Fault Refusal :=
  done (s.dictCmd r { op := opDescribe, idx := index.toNat, sub := sub.toNat })

/-- BLOCK_OPEN_READ (R361). -/
def execBlockOpenRead (r : Req) (index : W16) (sub : Byte) (s : State) : Host.Outcome State Fault Refusal :=
  done (s.dictCmd r { op := opOpenRead, idx := index.toNat, sub := sub.toNat })

/-- BLOCK_OPEN_WRITE (R361). -/
def execBlockOpenWrite (r : Req) (index : W16) (sub : Byte) (total : W32) (s : State) : Host.Outcome State Fault Refusal :=
  done (s.dictCmd r { op := opOpenWrite, idx := index.toNat, sub := sub.toNat, off := total.toNat })

/-- BLOCK_READ (R361). -/
def execBlockRead (r : Req) (handle : W16) (offset : W32) (length : W16) (s : State) : Host.Outcome State Fault Refusal :=
  done (s.dictCmd r { op := opBlockRead, handle := handle.toNat, off := offset.toNat, len := length.toNat })

/-- BLOCK_WRITE (R361). -/
def execBlockWrite (r : Req) (handle : W16) (offset : W32) (data : List Byte) (s : State) : Host.Outcome State Fault Refusal :=
  done (s.dictCmd r { op := opBlockWrite, handle := handle.toNat, off := offset.toNat, len := data.length, data := data })

/-- BLOCK_COMMIT (R361). -/
def execBlockCommit (r : Req) (handle : W16) (s : State) : Host.Outcome State Fault Refusal :=
  done (s.dictCmd r { op := opCommit, handle := handle.toNat })

/-- BLOCK_CLOSE (R361). -/
def execBlockClose (r : Req) (handle : W16) (s : State) : Host.Outcome State Fault Refusal :=
  done (s.dictCmd r { op := opClose, handle := handle.toNat })

/-- BLOCK_IDLE_TIMEOUT (R361). -/
def execBlockIdleTimeout (slot : Fin 64) (handle : W16) (s : State) : Host.Outcome State Fault Refusal :=
  done (s.on (fun c =>
    match Tbl.find c.sess slot.val with
    | none => c
    | some se =>
      match Tbl.find se.blocks handle.toNat with
      | none => c
      | some _ => (c.setSess slot.val { se with blocks := Tbl.del se.blocks handle.toNat }).bump Obj.CNT_BLOCK_DISCARDED))

end Sys2Proof.Machine
end

