-- ==== Sys2Proof/Machine/Vct.lean ====
section
/-! DEFINITION. The Vapel control transport: messages, sessions and their opening, the request sequence, event streams
(R332–R339, R364, R451, R452). -/
namespace Sys2Proof.Machine

/-! ### Messages (R332, R333, Table 13.2) -/

def vctOpen : Nat := 0x01
def vctChallenge : Nat := 0x02
def vctProof : Nat := 0x03
def vctAccept : Nat := 0x04
def vctClose : Nat := 0x05
def vctRequest : Nat := 0x10
def vctReply : Nat := 0x11
def vctEvent : Nat := 0x20
def vctAck : Nat := 0x21
def vctFetch : Nat := 0x22

def msgType (m : List Byte) : Nat := byteAt m 1
def msgSess (m : List Byte) : Nat := leAt m 4 4
def msgSeq (m : List Byte) : Nat := leAt m 8 4
def msgAck (m : List Byte) : Nat := leAt m 0xC 4
def msgLen (m : List Byte) : Nat := leAt m 0x10 2
def msgPayload (m : List Byte) : List Byte := slice m 0x20 (msgLen m)

/-- The types of a session's opening, which carry no tag. -/
def untagged (ty : Nat) : Bool := ty = vctOpen || ty = vctChallenge || ty = vctProof

/-- Whether a message's lengths agree, its VERSION is 1 and its reserved bits are clear; an EVENT_FETCH names 1 to 16 events. -/
def msgOk (m : List Byte) : Bool :=
  byteAt m 0 = 1 && decide (msgLen m ≤ 1024) &&
  decide (m.length = 32 + msgLen m + if untagged (msgType m) then 0 else 32) &&
  decide (leAt m 2 2 < 4) && leAt m 0x15 3 = 0 &&
  (msgType m != vctFetch || (msgLen m = 5 && between 1 16 (byteAt m 0x24)))

/-- The tag of a message: KMAC256 over header and payload (R333). -/
def msgTag (key m : List Byte) : List Byte := fitTo 32 (Config.kmac256 key (m.take (32 + msgLen m)) 32)

/-- Whether the module answers at all: its transport runs from step 6 of start-up (R476). -/
def Chip.vctUp (c : Chip) : Bool := c.side.power && !c.side.lost && decide (c.reg Obj.STARTUP_STEP ≥ 6)

/-- Raw cycles of a second. -/
def rawSecond : Nat := 800000000

/-- Whether something last said at `t` may be said again: once a second. -/
def Chip.sayAgain (c : Chip) (t : Option Nat) : Bool :=
  match t with
  | none => true
  | some t => decide (rawSecond ≤ (c.raw + 2 ^ 64 - t) % 2 ^ 64)

/-- The partition an event of a session is raised for. -/
def Sess.owner (se : Sess) : Nat := if se.cls = 1 then se.part else 0xFF

/-- A message with a wrong tag or an unknown session; sixteen in a row on one session are reported (R333). -/
def Chip.badTag (c : Chip) (slot : Option Nat) : Chip :=
  let c := c.bump Obj.CNT_VCT_BAD_TAG
  match slot with
  | none => c
  | some t =>
    let se := Tbl.get c.sess {} t
    let n := se.badTags + 1
    if n ≥ 16 && c.sayAgain se.badSaid then
      (c.setSess t { se with badTags := 0, badSaid := some c.raw }).raise 0x0101 se.owner []
    else c.setSess t { se with badTags := n }

/-- A tagged message arrives from an address: the slot of its session and the state after its checks, or what drops it. -/
def Chip.authentic (c : Chip) (ty src : Nat) (m : List Byte) : Except Chip (Nat × Chip) :=
  if !c.vctUp || msgType m != ty then .error c
  else if !msgOk m then .error (c.bump Obj.CNT_VCT_MALFORMED)
  else match c.sess.find? (fun p => p.2.id = msgSess m) with
    | none => .error (c.badTag none)
    | some (t, se) =>
      if m.drop (32 + msgLen m) != msgTag se.key m then .error (c.badTag (some t))
      else .ok (t, c.setSess t { se with badTags := 0, addr := src })

/-! ### Opening a session (R334, R451, R452) -/

/-- A tenant key of a partition; zeros where there is none. -/
def Chip.tenantKey (c : Chip) (k j : Nat) : List Byte := fitTo 57 (c.blob modInst (atIdx Obj.WS_TENANT_KEY k + j))

/-- The limits of R334. -/
def Chip.sessLimits (c : Chip) (cls part : Nat) : Nat :=
  if c.sess.length ≥ 64 then 1
  else if cls = 1 && decide ((c.sess.filter (fun p => p.2.cls = 1 && p.2.part = part)).length ≥ 8) then 2
  else 0

/-- RESULT of an open with the shared secret `z`: the first that applies, a bad field first, then the partition, the class and
the key, then the limits, the opens that wait, and an all-zero secret. -/
def Chip.openResult (c : Chip) (p : List Byte) (z : List Byte) : Nat :=
  let cls := byteAt p 0x58
  let part := byteAt p 0x59
  let key := byteAt p 0x5A
  let st := c.reg (Obj.OPKEY_STATE + key)
  if p.length != 0x5B || decide (cls > 3) || decide (key > 3) || (cls = 1 && decide (part > 7)) || (cls != 1 && part != 0) ||
      (cls = 0 && key != 0) then 7
  else if cls = 1 && c.wsState part != wsActive then 4
  else if cls = 1 && (List.range 4).all (fun j => allZero (c.tenantKey part j)) then 5
  else if cls = 1 && allZero (c.tenantKey part key) then 3
  else if cls ≥ 2 && st != 1 && st != 2 then 3
  else if cls = 3 && st != 2 then 5
  else
    let l := c.sessLimits cls part
    if l != 0 then l else if c.opens.length ≥ 16 then 6 else if allZero z then 7 else 0

/-- A refusal is counted, and said at most once a second. -/
def Chip.refuseOpen (c : Chip) : Chip :=
  let c := c.bump Obj.CNT_SESSION_REFUSED
  if c.sayAgain c.refusedAt then ({ c with refusedAt := some c.raw }).raiseMod 0x0614 [] else c

/-- An open is checked and answered (Table 20.6). -/
def Chip.sessOpen (c : Chip) (src : Nat) (p : List Byte) : Chip :=
  let (a, c) := c.tick1
  let (b, c) := c.tick1
  let priv := fitTo 56 (Config.entropy a 56)
  let z := fitTo 56 (Config.x448 priv (p.take 56))
  let res := c.openResult p z
  let pub := if res = 0 then fitTo 56 (Config.x448Public priv) else zeros 56
  let body := pub ++ fitTo 32 (Config.entropy b 32) ++ fitTo 32 (p.drop 0x38) ++ leBytes 1 res ++ zeros 7
  let ch := body ++ fitTo 114 (Config.ed448Sign devicePrivate (ascii "VCT1-CHALLENGE") (Config.shake256 (p ++ body) 64))
  let c := c.send (.vct src 0 vctChallenge 0 0 0 0 0 ch)
  if res != 0 then c.refuseOpen
  else { c with opens := c.opens ++ [{ openMsg := p, challenge := ch, priv := priv, cls := byteAt p 0x58, part := byteAt p 0x59, key := byteAt p 0x5A }] }

/-- SESSION_OPEN (R452). -/
def execSessionOpen (src : W64) (message : List Byte) (s : State) : Host.Outcome State Fault Refusal :=
  done (s.on (fun c =>
    if !c.vctUp || msgType message != vctOpen then c
    else if !msgOk message then c.bump Obj.CNT_VCT_MALFORMED
    else c.sessOpen src.toNat (msgPayload message)))

/-- Whether the key of a proof is the one that its open named, still in force. -/
def Chip.proofKey (c : Chip) (o : PendOpen) (key : List Byte) : Bool :=
  let st := c.reg (Obj.OPKEY_STATE + o.key)
  if o.cls = 1 then !allZero key && key = c.tenantKey o.part o.key
  else (st = 2 || (st = 1 && o.cls = 2)) && Config.shake256 key 64 = c.blob modInst (Obj.OPKEY_DIGEST + o.key)

/-- Whether a proof is valid. -/
def Chip.proofOk (c : Chip) (o : PendOpen) (p : List Byte) : Bool :=
  p.length = 0xD2 && allZero (slice p 0x59 7) &&
  (if o.cls = 0 then allZero (p.drop 0x20)
   else c.proofKey o (slice p 0x20 57) &&
     Config.ed448Verify (slice p 0x20 57) (ascii "VCT1-PROOF") (Config.shake256 (o.openMsg ++ o.challenge ++ p.take 0x60) 64) (slice p 0x60 114))

/-- The newest event of a stream. -/
def Chip.headOf (c : Chip) (k : Nat) : Nat := (Tbl.get c.streams {} k).next - 1

/-- The most request credit a session holds, in millionths of a request (R335). -/
def Chip.creditCap (c : Chip) : Nat := max 1000000 (c.reg Obj.VCT_SESSION_RATE * 128)

/-- A session is accepted: its key, its identifier, its slot. -/
def Chip.sessAccept (c : Chip) (o : PendOpen) (p : List Byte) (src : Nat) : Chip :=
  match (List.range 64).find? (fun t => (Tbl.find c.sess t).isNone) with
  | none => c
  | some t =>
    let z := fitTo 56 (Config.x448 o.priv (o.openMsg.take 56))
    let key := (Config.shake256 (ascii "VCT1-KEY" ++ z ++ Config.shake256 (o.openMsg ++ o.challenge ++ p) 64) 64).take 32
    let se : Sess := {
      id := c.nextSess, cls := o.cls, part := if o.cls = 1 then o.part else 0xFF, addr := src, key := key
      keySlot := if o.cls ≥ 2 then o.key else 0xFF, credit := c.creditCap }
    let se := { se with acked := if o.cls = 0 then 0 else c.headOf se.stream }
    let c := { (c.setSess t se) with nextSess := max 1 (inc32 c.nextSess) }
    c.send (.vct se.addr se.id vctAccept 0 0 0 0 0 (leBytes 4 se.id))

/-- A proof is checked against its open, and the limits again. -/
def Chip.sessProof (c : Chip) (p : List Byte) (src : Nat) : Chip :=
  match c.opens.find? (fun o => slice o.challenge 0x38 32 = p.take 32) with
  | none => c.refuseOpen
  | some o =>
    if !c.proofOk o p then c.refuseOpen
    else
      let c := { c with opens := c.opens.filter (fun x => x.challenge != o.challenge) }
      if c.sessLimits o.cls o.part != 0 then c.refuseOpen else c.sessAccept o p src

/-- SESSION_PROOF (R452). -/
def execSessionProof (src : W64) (message : List Byte) (s : State) : Host.Outcome State Fault Refusal :=
  done (s.on (fun c =>
    if !c.vctUp || msgType message != vctProof then c
    else if !msgOk message then c.bump Obj.CNT_VCT_MALFORMED
    else c.sessProof (msgPayload message) src.toNat))

/-- SESSION_PROOF_TIMEOUT: the open in that place of the pending ones is discarded (R452). -/
def execSessionProofTimeout (which : Fin 16) (s : State) : Host.Outcome State Fault Refusal :=
  done (s.on (fun c => { c with opens := c.opens.eraseIdx which.val }))

/-- SESSION_CLOSE (R334). -/
def execSessionClose (src : W64) (message : List Byte) (s : State) : Host.Outcome State Fault Refusal :=
  done (s.on (fun c => match c.authentic vctClose src.toNat message with
    | .error c => c
    | .ok (t, c) => c.endSess t))

/-- VCT_IDLE_TIMEOUT (R334). -/
def execVctIdleTimeout (slot : Fin 64) (s : State) : Host.Outcome State Fault Refusal := done (s.on (fun c => c.endSess slot.val))

/-! ### Event streams (R337–R339) -/

/-- Whether sequence `a` is at or before `b`. -/
def seqLe (a b : Nat) : Bool := decide ((b + 2 ^ 32 - a) % 2 ^ 32 < 2 ^ 31)

/-- The retained events of a session's stream; a partition's are those of its present key generation. -/
def Chip.sessEvents (c : Chip) (se : Sess) : List EvRec :=
  if se.cls = 0 then []
  else
    let k := se.stream
    (Tbl.get c.streams {} k).events.filter (fun e => k = 8 || e.keyGen = c.keyGen k)

/-- An event is sent to a session. -/
def Chip.sendEvent (c : Chip) (se : Sess) (flags : Nat) (e : EvRec) : Chip :=
  c.send (.vct se.addr se.id vctEvent flags e.seq 0 0 se.stream e.payload)

/-- EVENT_FETCH's events, then the STATUS and the payload of its reply. -/
def Chip.fetchEvents (c : Chip) (se : Sess) (p : List Byte) : Chip × Nat × List Byte :=
  let first := leAt p 0 4
  let evs := c.sessEvents se
  match evs with
  | [] => (c, 0, [])
  | o :: _ =>
    if !seqLe o.seq first then (c, 4, leBytes 4 o.seq)
    else ((evs.filter (fun e => decide ((e.seq + 2 ^ 32 - first) % 2 ^ 32 < byteAt p 4))).foldl (fun c e => c.sendEvent se 2 e) c, 0, [])

/-- An acknowledgement: what it covers is acknowledged; one for events already given up is late. -/
def Chip.ackEvents (c : Chip) (t ack : Nat) (atLimit : Bool) : Chip :=
  match Tbl.find c.sess t with
  | none => c
  | some se =>
    if se.cls = 0 || ack = se.acked || !seqLe se.acked ack || !seqLe ack (c.headOf se.stream) then c
    else
      let n := (se.left.filter (fun x => seqLe x ack)).length
      let open_ := decide (n < (ack + 2 ^ 32 - se.acked) % 2 ^ 32)
      let c := c.setSess t { se with
        acked := ack, left := se.left.filter (fun x => !seqLe x ack), tries := se.tries.filter (fun x => !seqLe x.1 ack) }
      (c.count modInst (Obj.CNT_LATE + waitVct) n).nearMiss waitVct (atLimit && open_)

/-- EVENT_ACK (R338). -/
def execEventAck (src : W64) (message : List Byte) (atLimit : Bool) (s : State) : Host.Outcome State Fault Refusal :=
  done (s.on (fun c => match c.authentic vctAck src.toNat message with
    | .error c => c
    | .ok (t, c) => c.ackEvents t (msgAck message) atLimit))

/-- An event that no acknowledgement covers is sent again, or left for EVENT_FETCH. -/
def Chip.retryEvent (c : Chip) (t seq : Nat) : Chip :=
  match Tbl.find c.sess t with
  | none => c
  | some se =>
    let n := Tbl.get se.tries 0 seq
    if se.cls = 0 || seq = se.acked || !seqLe se.acked seq || !seqLe seq (c.headOf se.stream) || se.left.contains seq then c
    else
      let give := (c.setSess t { se with left := se.left ++ [seq], tries := Tbl.del se.tries seq }).bump Obj.CNT_VCT_EVENT_UNACKED
      match (c.sessEvents se).find? (fun e => e.seq = seq) with
      | none => give
      | some e => if n < c.reg Obj.VCT_EVENT_RETRIES then (c.setSess t { se with tries := Tbl.put se.tries seq (n + 1) }).sendEvent se 1 e else give

/-- EVENT_RETRY_TIMEOUT (R338). -/
def execEventRetryTimeout (slot : Fin 64) (seq : W32) (s : State) : Host.Outcome State Fault Refusal :=
  done (s.on (fun c => c.retryEvent slot.val seq.toNat))

/-! ### The request sequence (R335, R336, Table 13.4) -/

def statusBusy : Nat := 1
def statusWindow : Nat := 2

def Chip.reply (c : Chip) (se : Sess) (flags seq status : Nat) (p : List Byte) : Chip :=
  c.send (.vct se.addr se.id vctReply flags 0 seq status 0 p)

/-- The next request of a session is processed: L becomes its sequence, and its reply is kept and sent, unless the session
closed meanwhile (R364). -/
def State.process (s : State) (t ty seq : Nat) (p : List Byte) : State :=
  match Tbl.find s.chip.sess t with
  | none => s
  | some se =>
    let se := { se with last := seq }
    let s := s.on (fun c => c.setSess t se)
    let (s, st, out) := if ty = vctRequest then s.dictRequest t se p
      else (let (c, st, out) := s.chip.fetchEvents se p; ({ s with chip := c }, st, out))
    s.on (fun c => match Tbl.find c.sess t with
      | none => c
      | some se =>
        let rs := se.replies ++ [(seq, st, out)]
        (c.setSess t { se with replies := rs.drop (rs.length - 64) }).reply se 0 seq st out)

/-- Buffered requests whose gap is filled are processed in turn. -/
def State.processOn (t : Nat) : Nat → State → State
  | 0, s => s
  | f + 1, s =>
    match Tbl.find s.chip.sess t with
    | none => s
    | some se =>
      match se.buffered.find? (fun b => b.1 = inc32 se.last) with
      | none => s
      | some b =>
        let se := { se with buffered := se.buffered.filter (fun x => x.1 != b.1) }
        State.processOn t f ((s.on (fun c => c.setSess t se)).process t b.2.1 b.1 b.2.2)

/-- A REQUEST or EVENT_FETCH with a sequence is handled as Table 13.4 gives. -/
def State.sequence (s : State) (t ty seq : Nat) (p : List Byte) : State :=
  let se := Tbl.get s.chip.sess {} t
  let d := (seq + 2 ^ 32 - se.last) % 2 ^ 32
  if d = 0 || d ≥ 2 ^ 32 - 63 then
    s.on (fun c =>
      let c := c.bump Obj.CNT_VCT_DUP
      match se.replies.find? (fun r => r.1 = seq) with
      | some r => c.reply se 2 seq r.2.1 r.2.2
      | none => c)
  else if d ≥ 18 then
    s.on (fun c => if d < 2 ^ 31 then c.reply se 0 seq statusWindow [] else c.bump Obj.CNT_VCT_DUP)
  else if se.buffered.any (fun b => b.1 = seq) then s
  else if se.credit < 1000000 then s.on (fun c => (c.bump Obj.CNT_VCT_BUSY).reply se 0 seq statusBusy [])
  else
    let se := { se with credit := se.credit - 1000000 }
    if d = 1 then State.processOn t 17 ((s.on (fun c => c.setSess t se)).process t ty seq p)
    else s.on (fun c => c.setSess t { se with buffered := se.buffered ++ [(seq, ty, p)] })

def State.arrive (s : State) (ty : Nat) (src : W64) (m : List Byte) : State :=
  match s.chip.authentic ty src.toNat m with
  | .error c => { s with chip := c }
  | .ok (t, c) => State.sequence { s with chip := c } t ty (msgSeq m) (msgPayload m)

/-- REQUEST (R336). -/
def execRequest (src : W64) (message : List Byte) (s : State) : Host.Outcome State Fault Refusal := done (s.arrive vctRequest src message)

/-- EVENT_FETCH (R339). -/
def execEventFetch (src : W64) (message : List Byte) (s : State) : Host.Outcome State Fault Refusal := done (s.arrive vctFetch src message)

/-- Each frame adds to a session's credit (R335). -/
def Chip.accrue (c : Chip) : Chip :=
  let add := c.reg Obj.VCT_SESSION_RATE * 128
  let cap := c.creditCap
  { c with sess := c.sess.map (fun p => (p.1, { p.2 with credit := min cap (p.2.credit + add) })) }

end Sys2Proof.Machine
end

