-- ==== Sys2Proof/Machine/Frame.lean ====
section
/-! DEFINITION. The frame boundary, slices that overrun, and the tick edge (R20, R129–R145, R155, R377, R379, R390, R432–R435). -/
namespace Sys2Proof.Machine

/-! ### The freeze (R432) -/

/-- The counters, the activity samples and BN_LAST at one instant. -/
def Chip.snapshot (c : Chip) : Snapshot :=
  { regs := c.regs.filter (fun p => p.1 % 2 ^ 24 / 2 ^ 20 = 0xC)
    blobs := c.blobs.filter (fun p => p.1 % 2 ^ 24 / 2 ^ 20 = 0xC)
    acts := c.queues.map (fun p => (p.1, p.2.act.view))
    parts := ((List.range 8).filter (fun k => c.wsState k != wsFree)).map (fun k => (k, c.ridgesOf k)) }

/-- A pending freeze of this frame is taken. -/
def Chip.freeze (c : Chip) : Chip :=
  if c.reg Obj.FREEZE_STATE = 1 && c.reg Obj.FREEZE_AT = c.frame then
    ({ c with snap := some c.snapshot }.setReg Obj.FREEZE_STATE 2).setReg Obj.FREEZE_TAKEN c.frame
  else c

/-! ### The bottleneck indicator (R434, R435) -/

/-- A measured share: class, busy, capacity. -/
abbrev Share := Nat × Nat × Nat

/-- What a counter has gained since its mark; one that was reset since counts from zero. -/
def gained (now mark : Nat) : Nat := if now < mark then now else now - mark

/-- Classes 0 to 2 of one Ridge over the frame just ended. -/
def Chip.ridgeShares (c : Chip) (n : Nat) : List Share :=
  let m := (c.ridge n).bnMark
  let cyc := gained (c.ridge n).cycles (m.getD 3 0)
  let spurs := c.spursActive n * cyc
  [(0, gained (c.reg (Obj.CNT_ARRAY_BUSY + n)) (m.getD 0 0), spurs), (1, gained (c.reg (Obj.CNT_VECTOR_BUSY + n)) (m.getD 1 0), spurs),
   (2, gained (c.reg (Obj.CNT_SPAD_BYTES + n)) (m.getD 2 0), 4096 * cyc)]

/-- The partition whose view a measured share belongs to. -/
def Chip.shareOwner (c : Chip) (s : BnShare) : Option Nat :=
  let cls := s.cls.val
  if cls = 3 || cls = 4 then c.owner (s.inst.val % 16)
  else if cls = 5 || cls = 6 then (c.link s.inst.val).part
  else match s.vi with
    | some v => (List.range 8).find? (fun k => bitAt (c.part k).vis v.val)
    | none => none

def BnShare.share (s : BnShare) : Share := (s.cls.val, s.busy.toNat, s.cap.toNat)

/-- The class bits of a view. -/
def bnBits (l : List Share) : Nat :=
  maskOf ((List.range 8).filter (fun cls => l.any (fun s => s.1 = cls && decide (95 * s.2.2 < 100 * s.2.1))))

/-- The busiest instance of each class in whole percent. -/
def bnUtil (l : List Share) : List Byte :=
  (List.range 8).map (fun cls => BitVec.ofNat 8 (l.foldl (fun m s => if s.1 = cls then max m (min 100 (100 * s.2.1 / s.2.2)) else m) 0))

/-- A history with its next entry, 1,024 entries kept. -/
def bnNext (old : List Byte) (entry : Nat) : List Byte := (old ++ leBytes 8 entry).drop (old.length + 8 - 8192)

/-- The views for the frame `f` just ended. -/
def Chip.bottleneck (c : Chip) (f : Nat) (ss : List BnShare) : Chip :=
  let live := (List.range 16).filter (fun n => (c.owner n).isSome && !c.retired n)
  let count := fun (c : Chip) (inst key bits : Nat) => (setBits 8 bits).foldl (fun c i => c.count inst (key + i) 1) c
  let all := (live.map c.ridgeShares).flatten ++ (ss.filter (fun s => s.vi.isNone && decide (s.cls.val ≥ 3))).map BnShare.share
  let bits := bnBits all
  let entry := f + bits * 2 ^ 48
  let d := c.setBlob modInst Obj.BN_MODULE (leBytes 8 entry)
  let d := d.setBlob modInst (Obj.BN_MODULE + 1) (bnNext (c.blob modInst (Obj.BN_MODULE + 1)) entry)
  let d := count (d.setBlob modInst (Obj.BN_MODULE + 2) (bnUtil all)) modInst Obj.CNT_BN_FRAMES_MODULE bits
  let d := ((List.range 8).filter (fun k => c.wsState k != wsFree)).foldl (fun d k =>
    let own := (live.filter (fun n => bitAt (c.ridgesOf k) n)).map c.ridgeShares
    let own := own.flatten ++ (ss.filter (fun s => c.shareOwner s = some k && decide (s.cls.val ≥ 3))).map BnShare.share
    let bits := bnBits own
    let entry := f + bits * 2 ^ 48
    let d := d.set k Obj.BN_LAST entry
    let d := d.setBlob k Obj.BN_HISTORY (bnNext (c.blob k Obj.BN_HISTORY) entry)
    count (d.setBlob k Obj.BN_UTIL (bnUtil own)) k Obj.CNT_BN_FRAMES bits) d
  (List.range 16).foldl (fun d n => d.updRidge n (fun r => { r with bnMark :=
    [c.reg (Obj.CNT_ARRAY_BUSY + n), c.reg (Obj.CNT_VECTOR_BUSY + n), c.reg (Obj.CNT_SPAD_BYTES + n), r.cycles] })) d

/-! ### Capture and the journal (R134, R139–R145, R155) -/

/-- The trace records of the units that a boundary suspends and resumes (R437). -/
def Chip.splitTrace (c : Chip) (n : Nat) (kind : Nat) : Chip :=
  let r := c.ridge n
  let split := fun (c : Chip) (bit unit : Nat) (p : TracePart) => match c.cmd n p.queue p.count with
    | some k => if k.openSlices.contains p.slice then c.trace n p.queue (k.trec kind bit p.slice unit 0) else c
    | none => c
  let c := r.spurs.foldl (fun c p => match p.2.unit, p.2.part with
    | some _, some o => split c 0 p.1 o
    | _, _ => c) c
  r.engParts.foldl (fun c p => split c 1 (64 + p.1) p.2) c

/-- Commands that the capture commits: those that are finished ahead of the first one that is not. -/
def Queue.newly (x : Queue) : List Nat := ((x.cmds.takeWhile (fun k => k.finished)).filter (fun k => !k.committed)).map (·.count)

/-- A command after the capture: the mark of an MM_ACC stays while a slice at or beyond the frontier has written back (R145). -/
def Cmd.captured (k : Cmd) (fc fs : Nat) (committed : Bool) : Cmd :=
  let wrote := if committed || k.committed then [] else if k.count = fc then k.wrote.filter (fun i => decide (fs ≤ i)) else k.wrote
  { k with committed := k.committed || committed, wrote := wrote, accMark := k.accMark && !wrote.isEmpty }

/-- The journal's entry of a queue (Table 5.3). -/
def Queue.entry (x : Queue) (ctx : Nat) : JQueue :=
  let e : JQueue := { frontierCount := x.frontierCount, frontierSlice := x.frontierSlice, qcontext := ctx }
  match x.cmd x.frontierCount with
  | some k => { e with runCount := k.runCount, promoted := k.promoA || k.promoB, promoA := k.promoA, promoB := k.promoB, triggered := k.triggered }
  | none => e

/-- One queue at capture: the frontier, the splits, the slip; with the commands it commits. A queue that is REWINDING is not captured,
and slips. -/
def Chip.capture1 (n : Nat) (c : Chip) (q : Nat) : Chip :=
  let x := c.queue n q
  let own := c.ownerN n
  match x.st with
  | .disabled => c
  | .rewinding => c.countPart own Obj.CNT_FRAME_SLIPS 1
  | _ =>
    let (fc, fs) := x.frontier
    let moved := fc != x.frontierCount || fs != x.frontierSlice
    let open_ := x.cmds.foldl (fun m k => m + k.openSlices.length) 0
    let new := x.newly
    let c := c.countPart own Obj.CNT_SPLIT_SLICES open_
    let c := if !moved && open_ != 0 then c.countPart own Obj.CNT_FRAME_SLIPS 1 else c
    c.setQueue n q { x with
      frontierCount := fc, frontierSlice := fs, rewinds := if moved then 0 else x.rewinds,
      cmds := x.cmds.map (fun k => k.captured fc fs (new.contains k.count)) }

/-- A copy after the boundary's write: the entries that changed, then the header. -/
def Journal.write (j : Journal) (c : Chip) (n seq : Nat) : Journal :=
  let r := c.ridge n
  let live := (List.range 8).filter (fun q => (c.queue n q).st != .rewinding)
  let entry := fun (q : Nat) => (c.queue n q).entry (c.qctx n q)
  { commitFrame := c.frame, seq := seq, steps := r.steps, promo := r.promo
    queues := live.foldl (fun t q => Tbl.put t q (entry q)) j.queues
    bad := j.bad.filter (fun q => !(live.contains q && decide (entry q ≠ Tbl.get j.queues {} q))) }

/-- Capture and journal write of one Ridge. -/
def Chip.captureRidge (c : Chip) (n : Nat) : Chip :=
  let c := forQueues (Chip.capture1 n) (c.splitTrace n trSuspend)
  let seq := max (c.ridge n).copy0.seq (c.ridge n).copy1.seq + 1
  c.updRidge n (fun r => { r with copy0 := r.copy0.write c n seq, copy1 := r.copy1.write c n seq })

/-! ### Publication (R141) -/

/-- What one newly committed command publishes: the value of a COMMIT signal, and the step boundary of a step source's mark. -/
def Chip.publish (n q : Nat) (c : Chip) (k : Cmd) : Chip :=
  let own := c.ownerN n
  let c := if k.op = opSignal && byteAt k.desc 0x1A = 0 && !k.status.contains stAborted
    then c.signal own (k.field 0x18 2) (k.field 0x10 8) false else c
  match k.stepAt with
  | none => c
  | some f =>
    if k.op != opStep || own ≥ 8 then c
    else
      let step := k.field 0x10 8
      ((c.set own Obj.PARTITION_STEP step).trace n q { kind := trStep, bit := 3, aux := step }).stepBoundary own f

/-- The publication of one queue: `before` is the queue ahead of the capture. Its records become due in completion order (R126). -/
def Chip.publishQueue (n : Nat) (old : Chip) (c : Chip) (q : Nat) : Chip :=
  let x := old.queue n q
  if x.st = .disabled || x.st = .rewinding then c
  else
    let new := x.newly
    let c := (x.cmds.filter (fun k => new.contains k.count)).foldl (Chip.publish n q) c
    c.updQueue n q (fun y => { y with records := y.records ++ x.fin.filter new.contains })

/-! ### Resume (R73, R92, R136, R147) -/

/-- An accepted DISABLE at a boundary at which everything that started is committed: descriptors not started are dropped. -/
def Queue.tryDisable (x : Queue) : Queue :=
  if x.disabling && (x.st = .running || x.st = .halted) && x.cmds.all (fun k => k.committed || !k.cfgRead) then
    { x with st := .disabled, halt := 0, disabling := false, failing := false, replayOnly := [], cmds := x.cmds.filter (·.committed) }
  else x

/-- A hold or its release reaches a queue: a held queue's DMA units stop with their records kept, and a released one's become
ready. -/
def Chip.holdQueue (n : Nat) (c : Chip) (q : Nat) : Chip :=
  let held := decide (c.reg (atIdx Obj.QUEUE_HOLD n + q) = 1)
  let prio := c.reg (atIdx Obj.QUEUE_PRIORITY n + q)
  let was := (c.queue n q).held
  let c := c.updQueue n q (fun x => { x with held := held, prio := prio })
  if held = was then c
  else c.updRidge n (fun r => { r with dma := r.dma.map (fun p =>
    if p.2.queue != q || p.2.form = .fabricIn then p
    else if held && (p.2.st = .running || p.2.st = .parked) then (p.1, { p.2 with st := .held, engine := none })
    else if !held && p.2.st = .held then (p.1, { p.2 with st := .parked })
    else p) })

/-- One queue at resume. -/
def Chip.resume1 (n : Nat) (c : Chip) (q : Nat) : Chip :=
  let c := (Chip.holdQueue n c q).updQueue n q Queue.tryDisable
  if (c.queue n q).st = .rewinding && !c.held147 n q then c.resumeQueue n q else c

/-- The resume phase of one Ridge: a tested remap takes effect, the queues go on, split slices first. -/
def Chip.resumeRidge (c : Chip) (n : Nat) : Chip :=
  let c := c.remapBoundary n
  let c := forQueues (Chip.resume1 n) c
  let c := (List.range 4).foldl (fun c e => c.idleEngine n e) c
  c.splitTrace n trResume

/-! ### The extent table (R20) -/

/-- Every change found during the frame is applied, with one increment and one event. -/
def Chip.extents (c : Chip) : Chip :=
  let new := c.extNext.filter (fun p => p.2 != c.reg p.1)
  let c := { c with extNext := [] }
  if new.isEmpty then c
  else
    let c := new.foldl (fun c p => c.setReg p.1 p.2) c
    let gen := inc32 (c.reg Obj.EXT_GENERATION)
    (c.setReg Obj.EXT_GENERATION gen).raiseMod 0x0202 [(4, gen), (8, c.frame), (2, maskOf (new.map (fun p => p.1 / 256 - 0x2000)))]

/-! ### Power, light and links at a boundary -/

/-- Telemetry of the frame just ended, the cut, the thermal caps and the points, in that order (R388–R392, R395). -/
def Chip.powerBoundary (c : Chip) (f : FrameData) : Chip :=
  let put := fun (c : Chip) (key : Nat) (v : W32) => c.setReg key v.toNat
  let c := put (put (put c Obj.INPUT_POWER f.watts) Obj.COOLANT_INLET_TEMP f.inlet) Obj.COOLANT_OUTLET_TEMP f.outlet
  let c := (List.range 30).foldl (fun c d => put c (Obj.DOMAIN_POWER + d) (f.domains.getD d 0#32)) c
  let c := (List.range 8).foldl (fun c k => if c.wsState k = wsFree then c else c.set k Obj.PARTITION_POWER (f.parts.getD k 0#32).toNat) c
  let c := c.cutBoundary f.watts f.inlet f.outlet
  let c := (List.range 16).foldl (fun c n => if c.retired n then c else c.thermalBoundary n) c
  { ((List.range 8).foldl (fun c k => c.dvfsPart k (f.parts.getD k 0#32)) c) with sagSaid := [] }

/-- Engines with more FAILED lanes than ENGINE_LANE_FAIL_LIMIT are declared failed (Table 10.8). -/
def Chip.laneLimit (c : Chip) : Chip :=
  (List.range 8).foldl (fun c k =>
    if ((engineLanes k).filter (fun i => (c.lane i).state = laneFailed)).length > c.reg Obj.ENGINE_LANE_FAIL_LIMIT then c.declareFailed k
    else c) c

/-- FRAME_MARK on each link that runs it (R379). -/
def Chip.frameMarks (c : Chip) : Chip :=
  (List.range 64).foldl (fun c l =>
    if (c.link l).usable && bitAt (c.link l).features 2 then c.message l 3 msgFrameMark [(8, c.frame), (8, c.now)] else c) c

/-- The light paths and links at a boundary. -/
def Chip.lightBoundary (c : Chip) (drops : List (Fin 10 × Fin 16 × W32)) : Chip :=
  let c := c.joinBoundary.formLinks.colStart
  let c := (List.range 8).foldl (fun c k => (c.steerStep k).notchApply k) c
  let c := if c.supDown then c else drops.foldl (fun c d => c.fade d.1.val d.2.1.val d.2.2) c
  let c := c.laneLimit.swapBoundary.frameMarks
  { c with lanes := c.lanes.map (fun p => (p.1, { p.2 with uncorr := 0 })) }

/-! ### Epochs -/

/-- An epoch begins: what is counted per epoch starts afresh. -/
def Chip.epochBegins (c : Chip) : Chip :=
  { c with
    lanes := c.lanes.map (fun p => (p.1, { p.2 with fails := 0, retrains := 0 }))
    ridges := c.ridges.map (fun p => (p.1, { p.2 with
      bankUe := [], spurs := p.2.spurs.map (fun e => (e.1, { e.2 with ceEpoch := 0, ueEpoch := 0, hangEpoch := 0 })) }))
    units := c.units.map (fun p => (p.1, { p.2 with ueLines := [], ueEpoch := 0 }))
    agents := c.agents.map (fun p => (p.1, { p.2 with hangEpoch := 0 }))
    resetCounts := [], ethFails := [] }

/-! ### FRAME_BOUNDARY -/

/-- The next frame's number; an epoch number that waits for this boundary is fixed (R373). The boundary is also the edge that starts
tick 0. -/
def Chip.nextFrame (c : Chip) : Chip :=
  let f := (c.frame + 1) % 2 ^ 48
  let c := ({ c with frame := f, tick := 0, raw := (c.raw + 800) % 2 ^ 64 } : Chip).updTime (fun t => { t with edge := true })
  match c.time.fixAt with
  | some e => if f % 8192 = 0 then c.fixEpoch e f else c
  | none => c

/-- The Ridges whose sequencers take the boundary. -/
def Chip.running (c : Chip) : List Nat := (List.range 16).filter (fun n => (c.owner n).isSome && !c.retired n)

/-- FRAME_BOUNDARY on the Ridges: suspend, capture and journal write on all, publication, and resume. -/
def Chip.computeBoundary (c : Chip) : Chip :=
  let ns := c.running
  let c := { c with parts := c.parts.map (fun p => (p.1, { p.2 with traceEn := c.get p.1 Obj.TRACE_EN, poolEmptySaid := [] })) }
  let c' := ns.foldl Chip.captureRidge c
  let c' := ns.foldl (fun d n => forQueues (Chip.publishQueue n c) d) c'
  ns.foldl Chip.resumeRidge c'

/-- FRAME_BOUNDARY: everything the boundary brings (R20, R131, R225, R388, R398, R434). -/
def Chip.boundary (c : Chip) (f : FrameData) : Chip :=
  let ended := c.frame
  let c := (c.nextFrame.freeze.bottleneck ended f.shares).computeBoundary
  let c := c.extents.powerBoundary f
  let c := c.wsBoundary
  let c := c.running.foldl (fun c n => forQueues (Chip.fabricBoundary n) c) c
  let c := (c.lightBoundary f.drops).traverseBoundary
  let c := c.beatBoundary.accrue
  let c := if c.frame % 8192 = 0 then c.epochBegins else c
  c.running.foldl Chip.dispatch c

/-- FRAME_BOUNDARY (R131). -/
def execFrameBoundary (f : FrameData) (s : State) : Host.Outcome State Fault Refusal :=
  done (s.on (fun c => if c.time.phased then c.boundary f else c))

/-! ### SLICE_OVERRUN (R135) -/

/-- A slice whose first execution has not finished by the second boundary after its issue. -/
def Chip.sliceOverrun (c : Chip) (n q count slice : Nat) : Chip :=
  match c.cmd n q count with
  | none => c
  | some k =>
    match k.issued.find? (fun p => p.1 = slice) with
    | none => c
    | some p =>
      if k.sliceDone slice || k.ran.contains slice || k.overs.contains slice || c.frame < p.2 + 2 then c
      else
        let own := c.ownerN n
        let c := (c.countPart own Obj.CNT_SLICE_OVERRUN 1).updCmd n q count (fun k => { k with overs := k.overs ++ [slice] })
        if k.overs.isEmpty then c.raise 0x0440 own [(1, n), (1, q), (4, count), (4, slice)] else c

def execSliceOverrun (ridge : Fin 16) (queue : Fin 8) (count slice : W32) (s : State) : Host.Outcome State Fault Refusal :=
  done (s.on (fun c => c.sliceOverrun ridge.val queue.val count.toNat slice.toNat))

/-! ### TICK_EDGE (R290, R377, R386, R390, R391, R395) -/

/-- The counters of one tick that the links and the DMA units keep (R200, R244, R246). -/
def Chip.tickWaits (c : Chip) (t : TickData) : Chip :=
  let c := t.storeWait.foldl (fun c p => c.count modInst (Obj.CNT_DMA_STORE_WAIT + p.1.val) p.2.toNat) c
  t.linkWait.foldl (fun c p =>
    (c.count modInst (Obj.CNT_REPLAY_STALL + p.1.val) p.2.1.toNat).count modInst (Obj.CNT_CREDIT_STALL + p.1.val) p.2.2.toNat) c

/-- The tick that ends, for the Ridges: the cycles they ran, each halved one taking one off, and the end of stretches. -/
def Chip.tickRidges (c : Chip) : Chip :=
  c.running.foldl (fun c n => c.updRidge n (fun r =>
    let lost := min r.lost (100 * r.point)
    { r with cycles := r.cycles + (100 * r.point - lost), lost := r.lost - lost })) c

/-- A tick edge. The one that starts tick 0 comes with its boundary, which has counted it. -/
def Chip.tickEdge (c : Chip) (t : TickData) : Chip :=
  let c := if c.time.edge then c.updTime (fun x => { x with edge := false })
    else { c with raw := (c.raw + 800) % 2 ^ 64, tick := (c.tick + 1) % 128 }
  let c := c.tickRidges
  let load := fun (p : Nat × Ridge) => (p.1, { p.2 with echo := c.raw, stretching := p.2.inStretch })
  let c := { c with ridges := c.ridges.map load }
  let c := (c.setReg Obj.INPUT_VOLTAGE t.volts.toNat).setReg Obj.INPUT_CURRENT t.amps.toNat
  let c := (List.range 16).foldl (fun c n => c.setReg (Obj.RIDGE_TEMP + n) (t.temps.getD n 0#32).toNat) c
  let c := (c.rampEdge.limiterEdge t.watts t.amps).tickWaits t
  c.sampleAll c.swapSkip t.samples

/-- TICK_EDGE (R377). -/
def execTickEdge (t : TickData) (s : State) : Host.Outcome State Fault Refusal := 
  done (s.on (fun c => if c.side.power then c.tickEdge t else c))

end Sys2Proof.Machine
end

