-- ==== Sys2Proof/Machine/Dispatch.lean ====
section
/-! DEFINITION. One arm per command: a direct call of its meaning. -/
namespace Sys2Proof.Machine

def exec (i : Instr) (s : State) : Host.Outcome State Fault Refusal :=
  match i with
  | .frameBoundary f => Sys2Proof.Machine.execFrameBoundary f s
  | .agentHung agent => Sys2Proof.Machine.execAgentHung agent s
  | .swapWindowEnd lost => Sys2Proof.Machine.execSwapWindowEnd lost s
  | .decimationRelax core => Sys2Proof.Machine.execDecimationRelax core s
  | .coreSaturated core => Sys2Proof.Machine.execCoreSaturated core s
  | .sliceOverrun ridge queue count slice => Sys2Proof.Machine.execSliceOverrun ridge queue count slice s
  | .tickEdge t => Sys2Proof.Machine.execTickEdge t s
  | .loopOverrun core inst late => Sys2Proof.Machine.execLoopOverrun core inst late s
  | .loopHold core inst => Sys2Proof.Machine.execLoopHold core inst s
  | .droopSag ridge => Sys2Proof.Machine.execDroopSag ridge s
  | .stretchEnd ridge halved => Sys2Proof.Machine.execStretchEnd ridge halved s
  | .domainSag domain => Sys2Proof.Machine.execDomainSag domain s
  | .dvfsRampDone ridge => Sys2Proof.Machine.execDvfsRampDone ridge s
  | .fsyncEdge cycles => Sys2Proof.Machine.execFsyncEdge cycles s
  | .ptpSync port master domain seq twoStep origin freq corr => Sys2Proof.Machine.execPtpSync port master domain seq twoStep origin freq corr s
  | .ptpFollowUp port master seq origin freq corr => Sys2Proof.Machine.execPtpFollowUp port master seq origin freq corr s
  | .ptpAnnounce port domain a => Sys2Proof.Machine.execPtpAnnounce port domain a s
  | .ptpDelayResp port master seq received => Sys2Proof.Machine.execPtpDelayResp port master seq received s
  | .timeSet r time => Sys2Proof.Machine.execTimeSet r time s
  | .timeRate r rate => Sys2Proof.Machine.execTimeRate r rate s
  | .doorbell part ridge queue count => Sys2Proof.Machine.execDoorbell part ridge queue count s
  | .qcontrolEnable r ridge queue => Sys2Proof.Machine.execQcontrolEnable r ridge queue s
  | .qcontrolResume r ridge queue => Sys2Proof.Machine.execQcontrolResume r ridge queue s
  | .qcontrolSkip r ridge queue => Sys2Proof.Machine.execQcontrolSkip r ridge queue s
  | .qcontrolDisable r ridge queue => Sys2Proof.Machine.execQcontrolDisable r ridge queue s
  | .descriptorFetch ridge queue => Sys2Proof.Machine.execDescriptorFetch ridge queue s
  | .mm ridge spur => Sys2Proof.Machine.execMm ridge spur s
  | .mmAcc ridge spur => Sys2Proof.Machine.execMmAcc ridge spur s
  | .vec ridge spur => Sys2Proof.Machine.execVec ridge spur s
  | .move ridge slot lines => Sys2Proof.Machine.execMove ridge slot lines s
  | .gather ridge slot lines => Sys2Proof.Machine.execGather ridge slot lines s
  | .scatter ridge slot lines => Sys2Proof.Machine.execScatter ridge slot lines s
  | .convert ridge spur => Sys2Proof.Machine.execConvert ridge spur s
  | .send ridge queue => Sys2Proof.Machine.execSend ridge queue s
  | .recv ridge queue => Sys2Proof.Machine.execRecv ridge queue s
  | .reduceRecv ridge queue => Sys2Proof.Machine.execReduceRecv ridge queue s
  | .wait ridge queue => Sys2Proof.Machine.execWait ridge queue s
  | .signal ridge queue atLimit => Sys2Proof.Machine.execSignal ridge queue atLimit s
  | .fence ridge queue => Sys2Proof.Machine.execFence ridge queue s
  | .stepMark ridge queue => Sys2Proof.Machine.execStepMark ridge queue s
  | .watch ridge queue slot lines => Sys2Proof.Machine.execWatch ridge queue slot lines s
  | .waitTimeout ridge queue => Sys2Proof.Machine.execWaitTimeout ridge queue s
  | .signalValueWrite r slot value atLimit => Sys2Proof.Machine.execSignalValueWrite r slot value atLimit s
  | .workUnitDone ridge spur cycles stall => Sys2Proof.Machine.execWorkUnitDone ridge spur cycles stall s
  | .shadowTriggered ridge queue count => Sys2Proof.Machine.execShadowTriggered ridge queue count s
  | .tileLoadDone ridge spur ce => Sys2Proof.Machine.execTileLoadDone ridge spur ce s
  | .tileWriteback ridge spur => Sys2Proof.Machine.execTileWriteback ridge spur s
  | .dmaUnitDone ridge slot ce => Sys2Proof.Machine.execDmaUnitDone ridge slot ce s
  | .completionRecordWrite ridge queue => Sys2Proof.Machine.execCompletionRecordWrite ridge queue s
  | .queueHoldWrite r ridge queue hold => Sys2Proof.Machine.execQueueHoldWrite r ridge queue hold s
  | .fabricTimeout ridge queue count => Sys2Proof.Machine.execFabricTimeout ridge queue count s
  | .rtsReceived link chan tid len => Sys2Proof.Machine.execRtsReceived link chan tid len s
  | .ctsReceived link chan tid vc atLimit => Sys2Proof.Machine.execCtsReceived link chan tid vc atLimit s
  | .completeReceived link chan tid => Sys2Proof.Machine.execCompleteReceived link chan tid s
  | .refuseReceived link chan tid reason => Sys2Proof.Machine.execRefuseReceived link chan tid reason s
  | .segAckReceived link chan tid idx atLimit => Sys2Proof.Machine.execSegAckReceived link chan tid idx atLimit s
  | .segmentReceived link chan tid idx data atLimit => Sys2Proof.Machine.execSegmentReceived link chan tid idx data atLimit s
  | .resetL1 part ctx cause bad => Sys2Proof.Machine.execResetL1 part ctx cause bad s
  | .resetL2 ridge spur cause bad => Sys2Proof.Machine.execResetL2 ridge spur cause bad s
  | .resetL3 part cause bad failed => Sys2Proof.Machine.execResetL3 part cause bad failed s
  | .resetL4 cause bad failed => Sys2Proof.Machine.execResetL4 cause bad failed s
  | .resetL5 cause readable => Sys2Proof.Machine.execResetL5 cause readable s
  | .resetL6 cause pd19 => Sys2Proof.Machine.execResetL6 cause pd19 s
  | .resetEnd which => Sys2Proof.Machine.execResetEnd which s
  | .resetBoundExpired which => Sys2Proof.Machine.execResetBoundExpired which s
  | .replayLimitReached ridge queue => Sys2Proof.Machine.execReplayLimitReached ridge queue s
  | .unackedWriteTimeout ridge => Sys2Proof.Machine.execUnackedWriteTimeout ridge s
  | .screeUnitTimeout ridge unit => Sys2Proof.Machine.execScreeUnitTimeout ridge unit s
  | .sramCorrected ridge spur => Sys2Proof.Machine.execSramCorrected ridge spur s
  | .sramUncorrectable ridge spur addr => Sys2Proof.Machine.execSramUncorrectable ridge spur addr s
  | .ridgeSpadUncorrectable ridge addr reader => Sys2Proof.Machine.execRidgeSpadUncorrectable ridge addr reader s
  | .spurFailed ridge spur => Sys2Proof.Machine.execSpurFailed ridge spur s
  | .spurSuspendTimeout ridge spur => Sys2Proof.Machine.execSpurSuspendTimeout ridge spur s
  | .spurRetireReq r value => Sys2Proof.Machine.execSpurRetireReq r value s
  | .spareSelftestDone ridge pass => Sys2Proof.Machine.execSpareSelftestDone ridge pass s
  | .memUncorrectable pa mask reader how va => Sys2Proof.Machine.execMemUncorrectable pa mask reader how va s
  | .erasureMarked unit group source => Sys2Proof.Machine.execErasureMarked unit group source s
  | .erasureClear r unit value => Sys2Proof.Machine.execErasureClear r unit value s
  | .patrolScrub unit ce uncorr late passEnd => Sys2Proof.Machine.execPatrolScrub unit ce uncorr late passEnd s
  | .frameSoftRetire pa => Sys2Proof.Machine.execFrameSoftRetire pa s
  | .memOutOfService unit => Sys2Proof.Machine.execMemOutOfService unit s
  | .stackTempSample stack temp => Sys2Proof.Machine.execStackTempSample stack temp s
  | .dimmTempRead channel reading => Sys2Proof.Machine.execDimmTempRead channel reading s
  | .ctxRootWrite r ctx root => Sys2Proof.Machine.execCtxRootWrite r ctx root s
  | .walkComplete ridge queue va write ce => Sys2Proof.Machine.execWalkComplete ridge queue va write ce s
  | .tlbInvalPages r pages size ctx va16 => Sys2Proof.Machine.execTlbInvalPages r pages size ctx va16 s
  | .tlbInvalContext r ctx => Sys2Proof.Machine.execTlbInvalContext r ctx s
  | .tlbInvalPartition r => Sys2Proof.Machine.execTlbInvalPartition r s
  | .tlbInvalDone part => Sys2Proof.Machine.execTlbInvalDone part s
  | .stewardFault b => Sys2Proof.Machine.execStewardFault b s
  | .stewardCopyDone b uncorr => Sys2Proof.Machine.execStewardCopyDone b uncorr s
  | .stewardRingBaseWrite r base => Sys2Proof.Machine.execStewardRingBaseWrite r base s
  | .stewardRingConsumerWrite r count => Sys2Proof.Machine.execStewardRingConsumerWrite r count s
  | .faultResolveRetry r id atLimit => Sys2Proof.Machine.execFaultResolveRetry r id atLimit s
  | .faultResolveAbort r id atLimit => Sys2Proof.Machine.execFaultResolveAbort r id atLimit s
  | .faultResolveDone r id => Sys2Proof.Machine.execFaultResolveDone r id s
  | .faultHostLimitExpired part id => Sys2Proof.Machine.execFaultHostLimitExpired part id s
  | .wsCreate r part zero => Sys2Proof.Machine.execWsCreate r part zero s
  | .wsApply r part zero => Sys2Proof.Machine.execWsApply r part zero s
  | .wsTeardown r part zero => Sys2Proof.Machine.execWsTeardown r part zero s
  | .zeroFillDone unit => Sys2Proof.Machine.execZeroFillDone unit s
  | .lightPresent lane => Sys2Proof.Machine.execLightPresent lane s
  | .lightLost fibre => Sys2Proof.Machine.execLightLost fibre s
  | .laneTrainingDone lane pass => Sys2Proof.Machine.execLaneTrainingDone lane pass s
  | .helloSend lane => Sys2Proof.Machine.execHelloSend lane s
  | .helloReceived lane hello => Sys2Proof.Machine.execHelloReceived lane hello s
  | .flitReceived lane flit corrected uncorr bad atLimit => Sys2Proof.Machine.execFlitReceived lane flit corrected uncorr bad atLimit s
  | .ackTimer link => Sys2Proof.Machine.execAckTimer link s
  | .creditReturnTimer link => Sys2Proof.Machine.execCreditReturnTimer link s
  | .linkReplayTimeout link => Sys2Proof.Machine.execLinkReplayTimeout link s
  | .linkRetrainTimeout link => Sys2Proof.Machine.execLinkRetrainTimeout link s
  | .laneDegrade lane cause => Sys2Proof.Machine.execLaneDegrade lane cause s
  | .laneDropReceived link lane cause => Sys2Proof.Machine.execLaneDropReceived link lane cause s
  | .laneAddReceived link lane frame => Sys2Proof.Machine.execLaneAddReceived link lane frame s
  | .swapAnnounceReceived link lane frame => Sys2Proof.Machine.execSwapAnnounceReceived link lane frame s
  | .swapAckReceived link lane frame atLimit => Sys2Proof.Machine.execSwapAckReceived link lane frame atLimit s
  | .swapAckWaitExpired source wave link => Sys2Proof.Machine.execSwapAckWaitExpired source wave link s
  | .frameMarkReceived link frame time arrival delay => Sys2Proof.Machine.execFrameMarkReceived link frame time arrival delay s
  | .linkControlRelease r link => Sys2Proof.Machine.execLinkControlRelease r link s
  | .linkControlRetrain r link => Sys2Proof.Machine.execLinkControlRetrain r link s
  | .linkControlQuarantine r link => Sys2Proof.Machine.execLinkControlQuarantine r link s
  | .expectMapWrite r fibre peer value => Sys2Proof.Machine.execExpectMapWrite r fibre peer value s
  | .routeEntryWrite r handle entry => Sys2Proof.Machine.execRouteEntryWrite r handle entry s
  | .steerControl r engines token => Sys2Proof.Machine.execSteerControl r engines token s
  | .steerRatio r engine ratio => Sys2Proof.Machine.execSteerRatio r engine ratio s
  | .steerDone engine => Sys2Proof.Machine.execSteerDone engine s
  | .ocsNotice r engines ms => Sys2Proof.Machine.execOcsNotice r engines ms s
  | .colForceBypass r mask => Sys2Proof.Machine.execColForceBypass r mask s
  | .colMoved pair => Sys2Proof.Machine.execColMoved pair s
  | .engineFailed engine => Sys2Proof.Machine.execEngineFailed engine s
  | .engineRetireReq r engine => Sys2Proof.Machine.execEngineRetireReq r engine s
  | .notchEngaged engine => Sys2Proof.Machine.execNotchEngaged engine s
  | .notchFailed notch => Sys2Proof.Machine.execNotchFailed notch s
  | .engineFailRecordClear r mask => Sys2Proof.Machine.execEngineFailRecordClear r mask s
  | .spareLocked source spare => Sys2Proof.Machine.execSpareLocked source spare s
  | .laserAbruptFailure source wave => Sys2Proof.Machine.execLaserAbruptFailure source wave s
  | .spareFailed source spare => Sys2Proof.Machine.execSpareFailed source spare s
  | .loopModeOpen r core inst => Sys2Proof.Machine.execLoopModeOpen r core inst s
  | .loopModeSearch r core inst => Sys2Proof.Machine.execLoopModeSearch r core inst s
  | .loopModeTrack r core inst => Sys2Proof.Machine.execLoopModeTrack r core inst s
  | .loopModeHold r core inst => Sys2Proof.Machine.execLoopModeHold r core inst s
  | .loopCoefWrite r core inst block => Sys2Proof.Machine.execLoopCoefWrite r core inst block s
  | .loopClassWrite r core inst cls => Sys2Proof.Machine.execLoopClassWrite r core inst cls s
  | .loopOutputWrite r core inst value => Sys2Proof.Machine.execLoopOutputWrite r core inst value s
  | .searchSweepEnd core inst => Sys2Proof.Machine.execSearchSweepEnd core inst s
  | .handoverFailed core inst => Sys2Proof.Machine.execHandoverFailed core inst s
  | .toneCheckDone core inst tone depth => Sys2Proof.Machine.execToneCheckDone core inst tone depth s
  | .loopCoreFailed core => Sys2Proof.Machine.execLoopCoreFailed core s
  | .rcStepBoundary part frame => Sys2Proof.Machine.execRcStepBoundary part frame s
  | .rcTimeout core => Sys2Proof.Machine.execRcTimeout core s
  | .injectWrite r core gen block => Sys2Proof.Machine.execInjectWrite r core gen block s
  | .captureWrite r core buffer block => Sys2Proof.Machine.execCaptureWrite r core buffer block s
  | .captureTrigger core buffer => Sys2Proof.Machine.execCaptureTrigger core buffer s
  | .captureDone core buffer => Sys2Proof.Machine.execCaptureDone core buffer s
  | .traverseStoreSave r => Sys2Proof.Machine.execTraverseStoreSave r s
  | .traverseStoreErase r => Sys2Proof.Machine.execTraverseStoreErase r s
  | .calTrigger group temp => Sys2Proof.Machine.execCalTrigger group temp s
  | .calRequest r mask => Sys2Proof.Machine.execCalRequest r mask s
  | .calMeasureDone group data => Sys2Proof.Machine.execCalMeasureDone group data s
  | .calNodataTimeout group lane last => Sys2Proof.Machine.execCalNodataTimeout group lane last s
  | .calParamStep group resid => Sys2Proof.Machine.execCalParamStep group resid s
  | .calVerifyDone group data => Sys2Proof.Machine.execCalVerifyDone group data s
  | .calEnableWrite r mask => Sys2Proof.Machine.execCalEnableWrite r mask s
  | .ethLinkUp port => Sys2Proof.Machine.execEthLinkUp port s
  | .ethLinkDown port => Sys2Proof.Machine.execEthLinkDown port s
  | .ethTrainingFailed port => Sys2Proof.Machine.execEthTrainingFailed port s
  | .routerAdvertisement port pfx => Sys2Proof.Machine.execRouterAdvertisement port pfx s
  | .sessionOpen src message => Sys2Proof.Machine.execSessionOpen src message s
  | .sessionProof src message => Sys2Proof.Machine.execSessionProof src message s
  | .sessionProofTimeout which => Sys2Proof.Machine.execSessionProofTimeout which s
  | .sessionClose src message => Sys2Proof.Machine.execSessionClose src message s
  | .vctIdleTimeout slot => Sys2Proof.Machine.execVctIdleTimeout slot s
  | .request src message => Sys2Proof.Machine.execRequest src message s
  | .eventAck src message atLimit => Sys2Proof.Machine.execEventAck src message atLimit s
  | .eventFetch src message => Sys2Proof.Machine.execEventFetch src message s
  | .eventRetryTimeout slot seq => Sys2Proof.Machine.execEventRetryTimeout slot seq s
  | .roceSendReceived qp psn pos data ce => Sys2Proof.Machine.execRoceSendReceived qp psn pos data ce s
  | .roceWriteReceived qp psn pos va rkey len data ce => Sys2Proof.Machine.execRoceWriteReceived qp psn pos va rkey len data ce s
  | .roceReadRequest qp psn va rkey len uncorr ce => Sys2Proof.Machine.execRoceReadRequest qp psn va rkey len uncorr ce s
  | .roceReadResponse qp psn data ce => Sys2Proof.Machine.execRoceReadResponse qp psn data ce s
  | .roceAck qp psn ce => Sys2Proof.Machine.execRoceAck qp psn ce s
  | .roceNak qp psn kind ce => Sys2Proof.Machine.execRoceNak qp psn kind ce s
  | .cnpReceived qp => Sys2Proof.Machine.execCnpReceived qp s
  | .ecnAlphaDecay qp => Sys2Proof.Machine.execEcnAlphaDecay qp s
  | .ecnRateIncrease qp => Sys2Proof.Machine.execEcnRateIncrease qp s
  | .roceRetryTimeout qp => Sys2Proof.Machine.execRoceRetryTimeout qp s
  | .roceFaultWaitExpired qp => Sys2Proof.Machine.execRoceFaultWaitExpired qp s
  | .qpSendProducer qp count => Sys2Proof.Machine.execQpSendProducer qp count s
  | .qpRecvProducer qp count => Sys2Proof.Machine.execQpRecvProducer qp count s
  | .qpCompConsumer qp count => Sys2Proof.Machine.execQpCompConsumer qp count s
  | .qpConfigWrite r qp value => Sys2Proof.Machine.execQpConfigWrite r qp value s
  | .mrEntryWrite r region value => Sys2Proof.Machine.execMrEntryWrite r region value s
  | .workRequestDone qp => Sys2Proof.Machine.execWorkRequestDone qp s
  | .launchTimeReached qp => Sys2Proof.Machine.execLaunchTimeReached qp s
  | .read r index sub length => Sys2Proof.Machine.execRead r index sub length s
  | .write r index sub value => Sys2Proof.Machine.execWrite r index sub value s
  | .describe r index sub => Sys2Proof.Machine.execDescribe r index sub s
  | .blockOpenRead r index sub => Sys2Proof.Machine.execBlockOpenRead r index sub s
  | .blockOpenWrite r index sub total => Sys2Proof.Machine.execBlockOpenWrite r index sub total s
  | .blockRead r handle offset length => Sys2Proof.Machine.execBlockRead r handle offset length s
  | .blockWrite r handle offset data => Sys2Proof.Machine.execBlockWrite r handle offset data s
  | .blockCommit r handle => Sys2Proof.Machine.execBlockCommit r handle s
  | .blockClose r handle => Sys2Proof.Machine.execBlockClose r handle s
  | .blockIdleTimeout slot handle => Sys2Proof.Machine.execBlockIdleTimeout slot handle s
  | .cfgFactoryArm r => Sys2Proof.Machine.execCfgFactoryArm r s
  | .cfgFactoryDisarm r => Sys2Proof.Machine.execCfgFactoryDisarm r s
  | .cairnCommit bad => Sys2Proof.Machine.execCairnCommit bad s
  | .cairnClear r token => Sys2Proof.Machine.execCairnClear r token s
  | .cairnClearDone ok => Sys2Proof.Machine.execCairnClearDone ok s
  | .freezeAt r frame => Sys2Proof.Machine.execFreezeAt r frame s
  | .traceFlush ridge => Sys2Proof.Machine.execTraceFlush ridge s
  | .watchBaseWrite r base => Sys2Proof.Machine.execWatchBaseWrite r base s
  | .fwActivate r => Sys2Proof.Machine.execFwActivate r s
  | .rollbackCommit r count => Sys2Proof.Machine.execRollbackCommit r count s
  | .opkeyProvision r value => Sys2Proof.Machine.execOpkeyProvision r value s
  | .opkeyRevoke r slot => Sys2Proof.Machine.execOpkeyRevoke r slot s
  | .attestRequest r value => Sys2Proof.Machine.execAttestRequest r value s
  | .heartbeat agent atLimit => Sys2Proof.Machine.execHeartbeat agent atLimit s
  | .leaseClaim b => Sys2Proof.Machine.execLeaseClaim b s
  | .leaseRenew b term atLimit => Sys2Proof.Machine.execLeaseRenew b term atLimit s
  | .stewardRestartDone b => Sys2Proof.Machine.execStewardRestartDone b s
  | .trayPwrEnAssert straps held => Sys2Proof.Machine.execTrayPwrEnAssert straps held s
  | .ready up => Sys2Proof.Machine.execReady up s
  | .domainFault domain => Sys2Proof.Machine.execDomainFault domain s
  | .powerLimitWrite r watts => Sys2Proof.Machine.execPowerLimitWrite r watts s
  | .trayRstLRelease readable => Sys2Proof.Machine.execTrayRstLRelease readable s
  | .recoveryData offset data => Sys2Proof.Machine.execRecoveryData offset data s
  | .alertCauseWrite value => Sys2Proof.Machine.execAlertCauseWrite value s
  | .i3cDynamicAddress address => Sys2Proof.Machine.execI3cDynamicAddress address s
  | .readVin word => Sys2Proof.Machine.execReadVin word s
  | .readIin word => Sys2Proof.Machine.execReadIin word s
  | .readPin word => Sys2Proof.Machine.execReadPin word s
  | .readTemperature1 word => Sys2Proof.Machine.execReadTemperature1 word s
  | .statusWord faults => Sys2Proof.Machine.execStatusWord faults s
  | .inputReturn straps held => Sys2Proof.Machine.execInputReturn straps held s
  | .pauseFrameReceived port => Sys2Proof.Machine.execPauseFrameReceived port s
  | .alertEnWrite value => Sys2Proof.Machine.execAlertEnWrite value s
  | .leaseLapse => Sys2Proof.Machine.execLeaseLapse s
  | .thermalTrip => Sys2Proof.Machine.execThermalTrip s
  | .fsyncMissing => Sys2Proof.Machine.execFsyncMissing s
  | .fsyncStartupTimeout => Sys2Proof.Machine.execFsyncStartupTimeout s
  | .refclkLost => Sys2Proof.Machine.execRefclkLost s
  | .refclkReturn => Sys2Proof.Machine.execRefclkReturn s
  | .timeMasterTimeout => Sys2Proof.Machine.execTimeMasterTimeout s
  | .pendingEntryFree => Sys2Proof.Machine.execPendingEntryFree s
  | .ocsNoticeExpire => Sys2Proof.Machine.execOcsNoticeExpire s
  | .cairnFlashTimeout => Sys2Proof.Machine.execCairnFlashTimeout s
  | .fwStageResult => Sys2Proof.Machine.execFwStageResult s
  | .supRestartDone => Sys2Proof.Machine.execSupRestartDone s
  | .l6TrayWaitExpired => Sys2Proof.Machine.execL6TrayWaitExpired s
  | .trayPwrEnDeassert => Sys2Proof.Machine.execTrayPwrEnDeassert s
  | .inputLost => Sys2Proof.Machine.execInputLost s
  | .trayRstLAssert => Sys2Proof.Machine.execTrayRstLAssert s
  | .recoveryBegin => Sys2Proof.Machine.execRecoveryBegin s
  | .recoveryEnd => Sys2Proof.Machine.execRecoveryEnd s
  | .recoveryAbort => Sys2Proof.Machine.execRecoveryAbort s
  | .recoveryIdleTimeout => Sys2Proof.Machine.execRecoveryIdleTimeout s
  | .clearFaults => Sys2Proof.Machine.execClearFaults s
  | .memsDriveSupplyLost => Sys2Proof.Machine.execMemsDriveSupplyLost s

end Sys2Proof.Machine
end

