-- ==== Sys2Proof/Safety.lean ====
section
/-! DEFINITION. The words the statements use: what it is for a command to complete, for a write to be admitted, and for an event
to have been raised. -/
namespace Sys2Proof.Machine

/-- The command completes in `s` and what it leaves satisfies `P`. -/
def Ends (i : Instr) (s : State) (P : State → Prop) : Prop :=
  ∃ t, exec i s = .next t ∧ P t

/-- The newest event of a stream: of partition `k`, or of the module for 8. -/
def Chip.lastOf (c : Chip) (k : Nat) : Option EvRec := (Tbl.get c.streams {} k).events.getLast?

/-- The newest event of the module's stream is of this type, raised for this partition with these fields; a partition's own stream
shows it too. -/
def Chip.said (c : Chip) (ty part : Nat) (fs : List (Nat × Nat)) : Prop :=
  (∃ e, c.lastOf 8 = some e ∧ e.ty = ty ∧ e.part = part ∧ e.data = layFields fs) ∧
  (part < 8 → ∃ e, c.lastOf part = some e ∧ e.ty = ty ∧ e.part = part ∧ e.data = layFields fs)

/-- The module has started, and a write of `bs` to the object `key` passes every check that stands before its own effect; it
reaches the object's instance `inst` (R352, R353, R357–R359). -/
def State.admits (s : State) (r : Req) (key : Nat) (bs : List Byte) (inst : Nat) : Bool :=
  s.chip.reg Obj.STARTUP_STEP = 9 &&
  match Tbl.find s.chip.sess r.sess.val with
  | none => false
  | some se =>
    match s.chip.writeReach r.sess.val se r.part.toNat (key / 256) (key % 256) bs.length with
    | .error _ => false
    | .ok (row, i) =>
      i = inst && (!tyScalar row.ty || leBytes (tyBytes row.ty) (row.scalar bs) == bs) && row.valueOk bs &&
      orderOk (fun k => if k = key then leNat bs else s.chip.reg k) key

/-- The session of a request is answered for the object `key` with this code. -/
def State.answers (t : State) (r : Req) (key code : Nat) : Prop :=
  t.chip.out.getLast? = some (.result r.sess.val (key / 256) (key % 256) code [])

/-- A reset of this level with this cause is in progress. -/
def Chip.resetting (c : Chip) (level cause : Nat) : Prop := ∃ r ∈ c.resets, r.level = level ∧ r.cause = cause

/-- No queue pair has anything to do. -/
def Chip.roceQuiet (c : Chip) : Bool := c.qps.all (fun p => !p.2.ready)

/-- A queue pair that takes packets has nothing under way, and no other has anything to do. -/
def Chip.qpIdle (c : Chip) (q : Nat) : Bool :=
  let x := c.qp q
  c.roceQuiet && c.qpTakes q && x.jobs.isEmpty && x.waitAt = 0 && x.owed.isEmpty && x.sendProd = x.sendCons && x.launch.isNone && !x.deny &&
  x.wrs.all (fun w => w.settled || decide (w.sends ≤ w.off))

/-- The state in which a queue pair takes up a packet that has come. -/
def State.taking (s : State) (q : Nat) (p : Pkt) : State := s.on (fun c => c.setQp q { c.qp q with jobs := [p], ready := false })

/-- A waiter that is a unit, a fetch or a record of a queue. -/
def ofQueue : Waiter → Bool
  | .roce _ => false
  | _ => true

/-- A unit's list of retired frames has room for another (R175). -/
def Chip.roomToRetire (c : Chip) (u : Nat) : Bool := decide ((c.unit u).retired.length < 1024)

/-- The counter of a unit's uncorrectable errors. -/
def ueCounter (u : Nat) : Nat := if u < 16 then Obj.CNT_NEAR_UE + u else Obj.CNT_FAR_UE + (u - 16)

/-- The bytes of a message of Table 9.6. -/
def msgBytes (code : Nat) (fs : List (Nat × Nat)) : List Byte := leBytes 1 code ++ (fs.map (fun f => leBytes f.1 f.2)).flatten

/-- One more flit than in `old` has been submitted to a link, sent or waiting, and one with this payload is among them. -/
def Chip.submitted (c old : Chip) (l : Nat) (payload : List Byte) : Prop :=
  (c.link l).queue.length + (c.link l).held.length = (old.link l).queue.length + (old.link l).held.length + 1 ∧
  ∃ f ∈ (c.link l).queue ++ (c.link l).held, f.payload = payload

end Sys2Proof.Machine
end

