-- ==== Sys2Proof/Certificates/Slice0/Obligations.lean ====
section
/-! DEFINITION. The statements for the provers. -/
open Sys2Proof Sys2Proof.Machine

/-! ### Queues, ordering and steps (chapter 4) -/

/-- A doorbell advances the accepted count, is ignored, or halts the queue on overrun. From the owner, to a queue that is not
DISABLED, a producer count up to 2^31 - 1 ahead that the ring has room for becomes the accepted count, and nothing else of the
module changes; the same count again changes nothing; an older one, one for a DISABLED queue or one from a partition that is not
the owner is counted and ignored; and one beyond the ring halts a RUNNING queue with reason 0x0A. -/
def Obligations.Doorbell : Prop :=
  ∀ (part : Fin 8) (ridge : Fin 16) (queue : Fin 8) (count : W32) (s : State),
    let x := s.chip.queue ridge.val queue.val
    let ahead := dist32 count.toNat x.accepted
    let room := s.chip.reg (qkey Obj.QRING_ENTRIES ridge.val queue.val)
    let ignored := fun (t : State) => t = s.on (fun c => c.countPart part.val Obj.CNT_DOORBELL_IGNORED 1)
    (s.chip.owner ridge.val = some part.val → x.st ≠ .disabled → 0 < ahead → ahead < 2 ^ 31 → dist32 count.toNat x.consumed ≤ room →
      Ends (.doorbell part ridge queue count) s (fun t =>
        t = s.on (fun c => c.setQueue ridge.val queue.val { x with accepted := count.toNat }))) ∧
    (s.chip.owner ridge.val = some part.val → x.st ≠ .disabled → ahead = 0 → Ends (.doorbell part ridge queue count) s (fun t => t = s)) ∧
    (s.chip.owner ridge.val = some part.val → x.st ≠ .disabled → 2 ^ 31 ≤ ahead → Ends (.doorbell part ridge queue count) s ignored) ∧
    (x.st = .disabled → Ends (.doorbell part ridge queue count) s ignored) ∧
    (s.chip.owner ridge.val ≠ some part.val → Ends (.doorbell part ridge queue count) s ignored) ∧
    (s.chip.owner ridge.val = some part.val → x.st = .running → 0 < ahead → ahead < 2 ^ 31 → room < dist32 count.toNat x.consumed →
      Ends (.doorbell part ridge queue count) s (fun t =>
        (t.chip.queue ridge.val queue.val).st = .halted ∧ (t.chip.queue ridge.val queue.val).halt = 0x0A ∧
        (t.chip.queue ridge.val queue.val).accepted = x.accepted ∧ t.mem = s.mem ∧
        t.chip.said 0x0430 part.val [(1, ridge.val), (1, queue.val), (4, count.toNat), (1, 0x0A)]))

/-- QCONTROL actions and QUEUE_HOLD: what an admitted write does in the states it is valid in, and its refusal in the others. ENABLE
takes a DISABLED queue of a Ridge that is not RETIRED to RUNNING; RESUME takes a HALTED queue to RUNNING; SKIP does so for
reasons 0x01 to 0x09 and passes over the halting descriptor; DISABLE marks a RUNNING or HALTED queue; each is answered STATE in
the other states. A write of QUEUE_HOLD sets the object. -/
def Obligations.QueueControl : Prop :=
  ∀ (r : Req) (ridge : Fin 16) (queue : Fin 8) (s : State) (inst : Nat),
    let key := qcontrolKey ridge.val queue.val
    let x := s.chip.queue ridge.val queue.val
    let now := fun (t : State) => t.chip.queue ridge.val queue.val
    (s.admits r key (wr 1 1) inst = true → x.st = .disabled → s.chip.retired ridge.val = false →
      Ends (.qcontrolEnable r ridge queue) s (fun t => (now t).st = .running ∧ (now t).halt = 0 ∧ (now t).disabling = false ∧
        (now t).accepted = x.accepted ∧ t.answers r key rcOK ∧ t.mem = s.mem)) ∧
    (s.admits r key (wr 1 1) inst = true → x.st ≠ .disabled →
      Ends (.qcontrolEnable r ridge queue) s (fun t => (now t).st = x.st ∧ t.answers r key rcState)) ∧
    (s.admits r key (wr 1 2) inst = true → x.st = .halted →
      Ends (.qcontrolResume r ridge queue) s (fun t => (now t).st = .running ∧ (now t).halt = 0 ∧ (now t).failing = false ∧
        (now t).accepted = x.accepted ∧ t.answers r key rcOK ∧ t.mem = s.mem)) ∧
    (s.admits r key (wr 1 2) inst = true → x.st ≠ .halted →
      Ends (.qcontrolResume r ridge queue) s (fun t => (now t).st = x.st ∧ t.answers r key rcState)) ∧
    (s.admits r key (wr 1 3) inst = true → x.st = .halted → haltsAtFetch x.halt = true →
      Ends (.qcontrolSkip r ridge queue) s (fun t => (now t).st = .running ∧ (now t).halt = 0 ∧
        (∀ k ∈ (now t).cmds, k.count ≠ x.haltCount) ∧ t.answers r key rcOK ∧ t.mem = s.mem)) ∧
    (s.admits r key (wr 1 3) inst = true → x.st ≠ .halted ∨ haltsAtFetch x.halt = false →
      Ends (.qcontrolSkip r ridge queue) s (fun t => (now t).st = x.st ∧ t.answers r key rcState)) ∧
    (s.admits r key (wr 1 4) inst = true → x.st = .running ∨ x.st = .halted →
      Ends (.qcontrolDisable r ridge queue) s (fun t => (now t).disabling = true ∧ (now t).st = x.st ∧ t.answers r key rcOK ∧ t.mem = s.mem)) ∧
    (s.admits r key (wr 1 4) inst = true → x.st ≠ .running → x.st ≠ .halted →
      Ends (.qcontrolDisable r ridge queue) s (fun t => (now t).disabling = x.disabling ∧ (now t).st = x.st ∧ t.answers r key rcState)) ∧
    (∀ hold : Bool, s.admits r (atIdx Obj.QUEUE_HOLD ridge.val + queue.val) (wr 1 (if hold then 1 else 0)) inst = true →
      Ends (.queueHoldWrite r ridge queue hold) s (fun t =>
        t.chip.get inst (atIdx Obj.QUEUE_HOLD ridge.val + queue.val) = (if hold then 1 else 0) ∧
        t.chip.queues = s.chip.queues ∧ t.answers r (atIdx Obj.QUEUE_HOLD ridge.val + queue.val) rcOK ∧ t.mem = s.mem))

/-- A descriptor that is read enters its queue or halts it, and a record that is written leaves it. A descriptor that the Ridge
reads for its queue and that passes the checks, or whose command had started before a rewind, is a command of the queue; one
that fails them halts a RUNNING queue with the reason of the check. A record that is written takes its command out of the queue,
and memory is what the write left. -/
def Obligations.FetchAndRecord : Prop :=
  (∀ (ridge : Fin 16) (queue : Fin 8) (s s' : State) (part c : Nat) (d : List Byte),
    let n := ridge.val
    let q := queue.val
    let x := s.chip.queue n q
    let ran := x.cmds.any (fun k => k.count = c && k.cfgRead)
    s.chip.owner n = some part → x.toFetch = some c → x.fetchWait = false →
    s.readVirt n part (s.chip.qctx n q)
      (s.chip.reg (qkey Obj.QRING_BASE n q) + 64 * (c % s.chip.reg (qkey Obj.QRING_ENTRIES n q))) 64 = (s', .ok d) →
    ((ran = true ∨ checkDesc (s'.chip.spursActive n) d = 0) →
      Ends (.descriptorFetch ridge queue) s (fun t => (∃ k ∈ (t.chip.queue n q).cmds, k.count = c ∧ k.desc = d) ∧ t.mem = s'.mem)) ∧
    (ran = false → checkDesc (s'.chip.spursActive n) d ≠ 0 → (s'.chip.queue n q).st = .running →
      Ends (.descriptorFetch ridge queue) s (fun t => (t.chip.queue n q).st = .halted ∧
        (t.chip.queue n q).halt = checkDesc (s'.chip.spursActive n) d ∧ (t.chip.queue n q).haltCount = c ∧ t.mem = s'.mem))) ∧
  (∀ (ridge : Fin 16) (queue : Fin 8) (s s' : State) (part count : Nat) (rest : List Nat) (k : Cmd),
    let n := ridge.val
    let q := queue.val
    let x := s.chip.queue n q
    s.chip.owner n = some part → x.records = count :: rest → x.cmd count = some k → x.recordWait = false →
    s.writeVirt n part (s.chip.qctx n q)
      (s.chip.reg (qkey Obj.CRING_BASE n q) + 16 * (count % s.chip.reg (qkey Obj.QRING_ENTRIES n q))) k.record = (s', none) →
    Ends (.completionRecordWrite ridge queue) s (fun t => (∀ e ∈ (t.chip.queue n q).cmds, e.count ≠ count) ∧
      count ∉ (t.chip.queue n q).records ∧ t.mem = s'.mem))

/-- WAIT, SIGNAL, FENCE, STEP_MARK and their slots: each finishes when its condition holds. A WAIT whose slot has reached its VALUE,
a SIGNAL and a COMPUTE-scope FENCE before which every command has finished, and a STEP_MARK before which every command has been
issued, finish; the SIGNAL in EARLY mode and a write of SIGNAL_VALUE leave the slot at the greater of the two values; the
STEP_MARK with a greater STEP leaves it as the Ridge's step of the context; a WAIT that times out finishes with PEER_TIMEOUT and
is noted as late. -/
def Obligations.OrderingCommands : Prop :=
  (∀ (ridge : Fin 16) (queue : Fin 8) (s : State) (k : Cmd),
    let n := ridge.val
    let q := queue.val
    let x := s.chip.queue n q
    let finished := fun (t : State) => ((t.chip.cmd n q k.count).map (·.finished) = some true ∧ t.mem = s.mem)
    s.chip.cmd n q k.count = some k → k.units = 1 → k.done = [] →
    (s.chip.current n q opWait = some k → k.field 0x10 8 ≤ s.chip.get (s.chip.ownerN n) (Obj.SIGNAL_VALUE + k.field 0x18 2) →
      Ends (.wait ridge queue) s finished) ∧
    (∀ atLimit : Bool, s.chip.current n q opSignal = some k → x.before k.count (·.finished) = true → byteAt k.desc 0x1A = 1 →
      k.field 0x18 2 < 256 → s.chip.ownerN n < 8 →
      Ends (.signal ridge queue atLimit) s (fun t => finished t ∧
        t.chip.get (s.chip.ownerN n) (Obj.SIGNAL_VALUE + k.field 0x18 2) =
          max (s.chip.get (s.chip.ownerN n) (Obj.SIGNAL_VALUE + k.field 0x18 2)) (k.field 0x10 8))) ∧
    (s.chip.current n q opFence = some k → byteAt k.desc 0x10 ≠ 2 → Ends (.fence ridge queue) s finished) ∧
    (s.chip.current n q opStep = some k → x.before k.count Cmd.allIssued = true →
      Tbl.get (s.chip.ridge n).steps 0 (s.chip.qctx n q) < k.field 0x10 8 →
      Ends (.stepMark ridge queue) s (fun t => finished t ∧
        Tbl.get (t.chip.ridge n).steps 0 (s.chip.qctx n q) = k.field 0x10 8))) ∧
  (∀ (ridge : Fin 16) (queue : Fin 8) (s : State) (k : Cmd),
    (s.chip.queue ridge.val queue.val).cmds.find? (fun k => k.op = opWait && k.started && !k.finished) = some k →
    Ends (.waitTimeout ridge queue) s (fun t =>
      (∃ e ∈ (t.chip.queue ridge.val queue.val).cmds, e.count = k.count ∧ e.finished = true ∧ stPeer ∈ e.status) ∧
      (k.field 0x18 2, k.field 0x10 8) ∈ (t.chip.part (s.chip.ownerN ridge.val)).lateWaits ∧ t.mem = s.mem)) ∧
  (∀ (r : Req) (slot : Fin 256) (value : W64) (atLimit : Bool) (s : State) (inst : Nat), inst < 8 →
    s.admits r (Obj.SIGNAL_VALUE + slot.val) (wr 8 value.toNat) inst = true →
    Ends (.signalValueWrite r slot value atLimit) s (fun t =>
      t.chip.get inst (Obj.SIGNAL_VALUE + slot.val) = max (s.chip.get inst (Obj.SIGNAL_VALUE + slot.val)) value.toNat ∧
      t.answers r (Obj.SIGNAL_VALUE + slot.val) rcOK ∧ t.mem = s.mem))

/-! ### Work units (chapters 2 to 4) -/

/-- MM, MM_ACC, VEC and CONVERT: what a loaded unit leaves when it runs. A loaded MM tile leaves in every accumulator the dot
product of its row of A and its row of B as the load converter gives them, from zero, and +0.0 beyond the rows and columns;
MM_ACC the same upon the prior values of D; a VEC unit leaves the registers and generators that its program leaves, a CONVERT
unit its written rows, and both have then written their results. -/
def Obligations.ComputeUnits : Prop :=
  ∀ (ridge : Fin 16) (spur : Fin 17) (w : Work) (s : State),
    let n := ridge.val
    let p := spur.val
    let kk := w.k.field 0x30 4
    let prom := w.k.promoted (w.k.sliceOf w.x.unit)
    let sums := fun (s1 : State) (prior : List (List W32)) (t : State) =>
      let a := loadRows (w.k.load false prom) kk w.x.stageA { gens := (s1.chip.spur n p).gens }
      let b := loadRows (w.k.load true prom) kk w.x.stageB a.2
      (∀ i : Nat, i < 128 → ∀ j : Nat, j < 256 → t.chip.accAt n p (256 * i + j) = (match a.1[i]?, b.1[j]? with
        | some ra, some cb => dotBlocks ((prior.getD i []).getD j (f32Zero false)) ra cb
        | _, _ => f32Zero false)) ∧
      (t.chip.spur n p).gens = b.2.gens ∧ ((t.chip.spur n p).unit.map (·.phase)) = some 2 ∧ t.mem = s1.mem
    let ran := fun (s1 : State) (v : VecSt) (t : State) => (t.chip.spur n p).vregs = v.regs ∧ (t.chip.spur n p).gens = v.num.gens ∧
      ((t.chip.spur n p).unit.map (·.phase)) = some 3 ∧ t.mem = s1.mem
    let v0 : VecSt := { regs := (s.chip.spur n p).vregs, num := { gens := (s.chip.spur n p).gens } }
    s.chip.work n p = some w → w.x.phase = 1 →
    (w.k.op = opMM → spaceOf (w.k.field 0x10 8) ≠ 2 → spaceOf (w.k.field 0x18 8) ≠ 2 → Ends (.mm ridge spur) s (sums s [])) ∧
    (∀ (s1 : State) (prior : List (List W32)), w.k.op = opMMAcc → spaceOf (w.k.field 0x10 8) ≠ 2 → spaceOf (w.k.field 0x18 8) ≠ 2 →
      s.priorRows n p w = (s1, .ok prior) → (s1.chip.spur n p).unit = some w.x → Ends (.mmAcc ridge spur) s (sums s1 prior)) ∧
    (∀ (s1 : State) (v : VecSt), w.k.op = opVec → (s1.chip.spur n p).unit = some w.x →
      State.vecRun n p w ((List.range (w.k.vecRows w.x.unit).2).map ((w.k.vecRows w.x.unit).1 + ·)) v0 s = (s1, none, v) →
      Ends (.vec ridge spur) s (ran s1 v)) ∧
    (∀ (s1 : State) (v : VecSt), w.k.op = 0x18 → (s1.chip.spur n p).unit = some w.x →
      State.convRun n p w (w.k.convSpans w.x.unit) v0 s = (s1, none, v) → Ends (.convert ridge spur) s (ran s1 v))

/-- A unit's operands, its write-back and its end; a shadow run that reaches its limit; a slice that overruns. A matrix tile whose
operand rows and destination pages can be reached has its rows staged; a computed tile that is written back is written; a unit
that ends is done for its command, which has finished when it was the last, and its cycles are counted; the shadow run count
that reaches its limit triggers the command once, with its event, and under a policy promotes it; the first overrun of a slice
is counted and reported. -/
def Obligations.UnitsOfWork : Prop :=
  (∀ (ridge : Fin 16) (spur : Fin 17) (w : Work) (s : State),
    let n := ridge.val
    let p := spur.val
    s.chip.work n p = some w →
    (∀ (s1 s2 s3 : State) (ra rb : List (List Byte)), w.x.phase = 0 → w.k.op = opMM ∨ w.k.op = opMMAcc →
      spaceOf (w.k.field 0x10 8) ≠ 2 → spaceOf (w.k.field 0x18 8) ≠ 2 → s.tileRows n p w false = (s1, .ok ra) →
      s1.tileRows n p w true = (s2, .ok rb) → s2.probeDest n w = (s3, none) → (s3.chip.spur n p).unit = some w.x →
      Ends (.tileLoadDone ridge spur []) s (fun t =>
        (t.chip.spur n p).unit = some { w.x with phase := 1, stageA := ra, stageB := rb } ∧ t.mem = s3.mem)) ∧
    (∀ (s1 s2 : State) (st : NumSt), w.x.phase = 2 → s.probeDest n w = (s1, none) →
      State.writeTile n p w (List.range (w.k.tile w.x.unit).2.2.1) { gens := (s1.chip.spur n p).gens } s1 = (s2, none, st) →
      (s2.chip.spur n p).unit = some w.x →
      Ends (.tileWriteback ridge spur) s (fun t => (t.chip.spur n p).unit = some { w.x with phase := 3 } ∧
        (t.chip.spur n p).gens = st.gens ∧ t.mem = s2.mem)) ∧
    (∀ cycles stall : Nat, w.x.phase = 3 → w.x.unit ∉ w.k.done → w.x.sampled = false →
      let mm := decide (w.k.op = opMM ∨ w.k.op = opMMAcc)
      let busy := (if mm then Obj.CNT_ARRAY_BUSY else Obj.CNT_VECTOR_BUSY) + n
      Ends (.workUnitDone ridge spur cycles stall) s (fun t =>
        (∃ e, t.chip.cmd n w.x.queue w.x.count = some e ∧ w.x.unit ∈ e.done ∧ (w.k.done.length + 1 = w.k.units → e.finished = true)) ∧
        t.chip.reg (Obj.CNT_ARRAY_STALL + n) = (s.chip.reg (Obj.CNT_ARRAY_STALL + n) + stall) % 2 ^ 64 ∧
        t.chip.reg busy = (s.chip.reg busy + (cycles - if mm then stall else 0)) % 2 ^ 64 ∧ t.mem = s.mem))) ∧
  (∀ (ridge : Fin 16) (queue : Fin 8) (count : W32) (k : Cmd) (s : State),
    let n := ridge.val
    let q := queue.val
    let own := s.chip.ownerN n
    s.chip.cmd n q count.toNat = some k →
    (k.triggered = false → k.cfg.runLimit ≤ k.runCount → Ends (.shadowTriggered ridge queue count) s (fun t =>
      t.chip.said 0x0410 own [] ∧ t.mem = s.mem ∧ ∃ e, t.chip.cmd n q count.toNat = some e ∧ e.triggered = true ∧
        (k.cfg.policy = 0 → e.promoA = k.promoA ∧ e.promoB = k.promoB ∧ e.promoFrom = k.promoFrom) ∧
        (k.cfg.policy ≠ 0 → e.promoA = true ∧ e.promoFrom = k.nextSlice))) ∧
    (∀ (slice : W32) (i : Nat × Nat), k.issued.find? (fun p => p.1 = slice.toNat) = some i → k.sliceDone slice.toNat = false →
      slice.toNat ∉ k.ran → k.overs = [] → i.2 + 2 ≤ s.chip.frame → own < 8 → Ends (.sliceOverrun ridge queue count slice) s (fun t =>
        t.chip.said 0x0440 own [(1, n), (1, q), (4, count.toNat), (4, slice.toNat)] ∧
        t.chip.get own Obj.CNT_SLICE_OVERRUN = (s.chip.get own Obj.CNT_SLICE_OVERRUN + 1) % 2 ^ 64 ∧
        (t.chip.cmd n q count.toNat).map (·.overs) = some [slice.toNat] ∧ t.mem = s.mem)))

/-- MOVE, GATHER and SCATTER a line at a time, the end of a DMA unit, and WATCH. A line of a running unit is read from its place and
written to its place, the indexed side at the row that the index array names; an index out of range gives a zero line in a
GATHER and no write in a SCATTER, and is counted at the row's first line; LINE advances. A unit whose lines are all moved is
done for its command. A WATCH for another step, or with no ring, finishes without a dump, the second counted; one that may begin
holds its dump's ring and then copies a line at a time. -/
def Obligations.DmaUnits : Prop :=
  (∀ (ridge : Fin 16) (slot : Fin 32) (part : Nat) (d : DmaUnit) (k : Cmd) (s : State),
    let n := ridge.val
    let ctx := s.chip.qctx n d.queue
    let row := (k.lineAt d.unit d.line).1
    let off := (k.lineAt d.unit d.line).2
    let src := fun (i : Nat) => k.field 0x10 8 + i * k.field 0x30 4 + off
    let dst := fun (i : Nat) => k.field 0x18 8 + i * k.field 0x34 4 + off
    let moved := fun (s2 : State) (t : State) => t.mem = s2.mem ∧
      ((Tbl.find (t.chip.ridge n).dma slot.val).map (fun e => (e.queue, e.count, e.unit, e.line))) = some (d.queue, d.count, d.unit, d.line + 1)
    let counted := fun (t : State) => off = 0 → t.chip.get part Obj.CNT_INDEX_RANGE = (s.chip.get part Obj.CNT_INDEX_RANGE + 1) % 2 ^ 64
    s.chip.owner n = some part → Tbl.find (s.chip.ridge n).dma slot.val = some d → s.chip.cmd n d.queue d.count = some k →
    (d.st = .running → d.line < d.lines →
      (∀ (s1 s2 : State) (bs : List Byte), k.op = opMove → s.readOp n part ctx 0 (src row) 128 = (s1, .ok bs) →
        s1.writeDma n part ctx (dst row) bs = (s2, none) → Ends (.move ridge slot 1) s (moved s2)) ∧
      (∀ (s0 : State) (ib : List Byte), s.readOp n part ctx 0 (k.field 0x20 8 + 4 * row) 4 = (s0, .ok ib) →
        (leNat ib < k.field 0x38 4 → ∀ (s1 s2 : State) (bs : List Byte),
          (k.op = opGather → s0.readOp n part ctx 0 (src (leNat ib)) 128 = (s1, .ok bs) → s1.writeDma n part ctx (dst row) bs = (s2, none) →
            Ends (.gather ridge slot 1) s (moved s2)) ∧
          (k.op = opScatter → s0.readOp n part ctx 0 (src row) 128 = (s1, .ok bs) → s1.writeDma n part ctx (dst (leNat ib)) bs = (s2, none) →
            Ends (.scatter ridge slot 1) s (moved s2))) ∧
        (k.field 0x38 4 ≤ leNat ib →
          (∀ s2 : State, k.op = opGather → s0.writeDma n part ctx (dst row) (zeros 128) = (s2, none) →
            Ends (.gather ridge slot 1) s (fun t => moved s2 t ∧ counted t)) ∧
          (k.op = opScatter → Ends (.scatter ridge slot 1) s (fun t => moved s0 t ∧ counted t))))) ∧
    (d.st = .running → d.lines ≤ d.line → d.form = .linear ∨ d.form = .indexedRead ∨ d.form = .indexedWrite → d.unit ∉ k.done →
      Ends (.dmaUnitDone ridge slot []) s (fun t => t.mem = s.mem ∧ ∃ e, t.chip.cmd n d.queue d.count = some e ∧ d.unit ∈ e.done ∧
        (k.done.length + 1 = k.units → e.finished = true)))) ∧
  (∀ (ridge : Fin 16) (queue : Fin 8) (slot : Fin 32) (lines : Nat) (part : Nat) (k : Cmd) (s : State),
    let n := ridge.val
    let q := queue.val
    let x := s.chip.queue n q
    let want := k.field 0x20 8
    let here := want = watchAll ∨ want = Tbl.get (s.chip.ridge n).steps 0 (s.chip.qctx n q)
    let room := dumpPad (s.chip.get part Obj.WATCH_BYTES) (s.chip.get part Obj.WATCH_PRODUCER) (s.chip.get part Obj.WATCH_CONSUMER)
      (dumpBytes (k.field 0x18 4))
    let ended := fun (t : State) => (t.chip.cmd n q k.count).map (·.finished) = some true ∧ t.mem = s.mem
    s.chip.owner n = some part → s.chip.cmd n q k.count = some k →
    (x.cmds.find? (fun k => k.op = opWatch && !k.finished && x.mayStart k) = some k → k.done = [] →
      (¬here → Ends (.watch ridge queue slot lines) s ended) ∧
      (here → s.chip.get part Obj.WATCH_BASE = 0 → Ends (.watch ridge queue slot lines) s (fun t => ended t ∧
        t.chip.get part Obj.CNT_WATCH_SKIPPED = (s.chip.get part Obj.CNT_WATCH_SKIPPED + 1) % 2 ^ 64)) ∧
      (here → s.chip.get part Obj.WATCH_BASE ≠ 0 → room.isSome = true → Ends (.watch ridge queue slot lines) s (fun t => t.mem = s.mem ∧
        ∃ e, t.chip.cmd n q k.count = some e ∧ e.started = true ∧ ∃ w, e.watch = some w ∧ w.base = s.chip.get part Obj.WATCH_BASE ∧
          w.prod = s.chip.get part Obj.WATCH_PRODUCER ∧ w.step = Tbl.get (s.chip.ridge n).steps 0 (s.chip.qctx n q)))) ∧
    (∀ (d : DmaUnit) (w : WatchDump) (s1 : State) (bs : List Byte),
      let o := 128 * (512 * d.unit + d.line)
      x.cmds.find? (fun k => k.op = opWatch && !k.finished && x.mayStart k) = none → Tbl.find (s.chip.ridge n).dma slot.val = some d →
      d.queue = q → d.count = k.count → d.st = .running → d.line < d.lines → k.op = opWatch → k.watch = some w →
      s.readOp n part (s.chip.qctx n q) 0 (k.field 0x10 8 + o) (min 128 (k.field 0x18 4 - o)) = (s1, .ok bs) →
      Ends (.watch ridge queue slot 1) s (fun t => t.mem = s1.mem ∧
        ((t.chip.cmd n q k.count).bind (·.watch)) = some { w with buf := placeAt w.buf o bs } ∧
        ((Tbl.find (t.chip.ridge n).dma slot.val).map (·.line)) = some (d.line + 1))))

/-- SEND, RECV and REDUCE_RECV: the start, a segment that is sent, a receive that is posted, and a command without progress. A SEND
that may start has its request to send submitted to the link its route names, or finishes with LINK_DOWN; a segment that an
engine holds, once clear to send has come, is read and submitted, and its unit waits for the acknowledgement; a receive that may
start and that no request awaits is posted and its transfer is entered; a fabric command without progress finishes with
PEER_TIMEOUT, a SEND without a usable route with LINK_DOWN, and COLLECTIVE_TIMEOUT is raised. -/
def Obligations.FabricCommands : Prop :=
  (∀ (ridge : Fin 16) (queue : Fin 8) (k : Cmd) (s : State),
    let n := ridge.val
    let q := queue.val
    let x := s.chip.queue n q
    let own := s.chip.ownerN n
    let now := fun (t : State) => t.chip.cmd n q k.count
    s.chip.cmd n q k.count = some k →
    (x.cmds.filter (fun k => k.op = opSend && k.started && !k.finished) = [] →
      x.cmds.find? (fun k => k.op = opSend && !k.started && x.mayStart k) = some k →
      (∀ l, s.chip.resolve own k.routeH = some l → Ends (.send ridge queue) s (fun t => t.mem = s.mem ∧
        t.chip.submitted s.chip l (msgBytes msgRts [(1, k.chan), (4, k.tid), (4, k.len)]) ∧
        ∃ e, now t = some e ∧ e.started = true ∧ e.link = some l ∧ e.rtsAt = s.chip.frame ∧ e.finished = k.finished)) ∧
      (s.chip.resolve own k.routeH = none → Ends (.send ridge queue) s (fun t => t.mem = s.mem ∧ t.chip.links = s.chip.links ∧
        ∃ e, now t = some e ∧ e.finished = true ∧ stLink ∈ e.status))) ∧
    (∀ (slot : Nat) (d : DmaUnit) (l : Nat) (s1 : State) (bs : List Byte),
      (x.cmds.filter (fun k => k.op = opSend && k.started && !k.finished)).findSome?
        (fun k => (s.chip.unsent n q k.count).map (fun d => (k, d))) = some (k, slot, d) → Tbl.find (s.chip.ridge n).dma slot = some d →
      k.link = some l → (s.chip.link l).usable = true →
      s.readOp n own (s.chip.qctx n q) 0 (k.field 0x10 8 + 65536 * d.unit) (k.segLen d.unit) = (s1, .ok bs) →
      Ends (.send ridge queue) s (fun t => t.mem = s1.mem ∧
        (∀ f ∈ segFlits k.vc k.chan k.tid d.unit bs, ∃ g ∈ (t.chip.link l).queue ++ (t.chip.link l).held, g.payload = f.payload ∧ g.vc = k.vc) ∧
        ((Tbl.find (t.chip.ridge n).dma slot).map (fun e => (e.unit, e.line))) = some (d.unit, d.lines))) ∧
    (∀ op : Nat, (op = opRecv ∨ op = opReduce) → (s.chip.ridge n).dma.all (fun d => d.2.form != .fabricIn) = true →
      x.cmds.find? (fun k => k.op = op && !k.started && x.mayStart k) = some k → s.chip.posted own k.chan k.tid = none →
      s.chip.xfer own k.chan k.tid = none → (s.chip.part own).rts.find? (fun r => r.chan = k.chan && r.tid = k.tid) = none → k.link = none →
      Ends (if op = opRecv then .recv ridge queue else .reduceRecv ridge queue) s (fun t => t.mem = s.mem ∧ t.chip.links = s.chip.links ∧
        t.chip.xfer own k.chan k.tid = some { tid := k.tid, total := k.units } ∧
        ∃ e, now t = some e ∧ e.started = true ∧ e.begun = true ∧ e.finished = k.finished)) ∧
    (∀ count : W32, k.count = count.toNat → opFabric k.op = true → k.started = true → k.finished = false →
      Ends (.fabricTimeout ridge queue count) s (fun t => t.mem = s.mem ∧ t.chip.said 0x0D07 own [] ∧ ∃ e, now t = some e ∧ e.finished = true ∧
        (if k.op = opSend ∧ s.chip.resolve own k.routeH = none then stLink else stPeer) ∈ e.status)))

/-- The fabric messages: a request held or granted, clear to send, COMPLETE, REFUSE, a segment and its acknowledgement. On a usable
link of a partition: a request that no receive awaits is held; one that a posted RECV of its length awaits, whose pages
translate, is granted by clear to send; clear to send opens its SEND on the channel it names; COMPLETE finishes it; REFUSE ends
it with FAULT_PERMISSION or has it ask again; an acknowledgement makes its segment's unit done; a segment of a posted RECV is
written, marked, done and acknowledged, and one already marked only counted and acknowledged again. -/
def Obligations.FabricMessages : Prop :=
  ∀ (link : Fin 64) (chan : Byte) (tid : W32) (part : Nat) (s : State),
    let l := link.val
    let c := s.chip
    let ch := chan.toNat
    let id := tid.toNat
    (c.link l).part = some part → (c.link l).usable = true →
    (∀ len : W32, c.posted part ch id = none → c.xfer part ch id = none →
      (c.part part).rts.any (fun r => r.chan = ch && r.tid = id) = false → (c.part part).rts.length < 1024 →
      Ends (.rtsReceived link chan tid len) s (fun t => (t.chip.part part).rts = (c.part part).rts ++ [⟨l, ch, id, len.toNat⟩] ∧
        t.chip.links = c.links ∧ t.mem = s.mem)) ∧
    (∀ (n q : Nat) (k : Cmd) (len : W32) (s1 : State), c.posted part ch id = some (n, q, k) → c.cmd n q k.count = some k → c.ownerN n = part →
      k.op = opRecv → k.len = len.toNat → k.chan = ch → k.tid = id →
      State.probePages n part (c.qctx n q) true (pieces (k.len / 65536 + 2) (addrOf (k.field 0x10 8)) k.len)
        (s.on (fun c => c.updCmd n q k.count (fun k => { k with link := some l }))) = (s1, none) →
      Ends (.rtsReceived link chan tid len) s (fun t => t.mem = s1.mem ∧
        t.chip.submitted s1.chip l (msgBytes msgCts [(1, ch), (4, id), (1, 0)]) ∧
        ((t.chip.cmd n q k.count).map (fun e => (e.cts, e.ctsAt, e.link))) = some (true, some s1.chip.frame, some l))) ∧
    (∀ (n q : Nat) (k : Cmd), c.sender part l ch id = some (n, q, k) → c.cmd n q k.count = some k → k.finished = false →
      (∀ (vc : Fin 4) (atLimit : Bool), k.cts = false → Ends (.ctsReceived link chan tid vc atLimit) s (fun t => t.mem = s.mem ∧
        ((t.chip.cmd n q k.count).map (fun e => (e.cts, e.vc))) = some (true, vc.val) ∧ t.chip.links = c.links)) ∧
      Ends (.completeReceived link chan tid) s (fun t => t.mem = s.mem ∧
        ((t.chip.cmd n q k.count).map (fun e => (e.finished, e.status))) = some (true, k.status)) ∧
      Ends (.refuseReceived link chan tid 1) s (fun t => t.mem = s.mem ∧
        ((t.chip.cmd n q k.count).map (fun e => (e.finished, e.status))) = some (true, k.status ++ [stPermission])) ∧
      Ends (.refuseReceived link chan tid 2) s (fun t => t.mem = s.mem ∧
        ((t.chip.cmd n q k.count).map (fun e => (e.finished, e.rtsRetry))) = some (false, true)) ∧
      (∀ (idx : W16) (atLimit : Bool), idx.toNat ∉ k.done → idx.toNat < k.units →
        Ends (.segAckReceived link chan tid idx atLimit) s (fun t => t.mem = s.mem ∧ t.chip.links = c.links ∧
          ∃ e, t.chip.cmd n q k.count = some e ∧ idx.toNat ∈ e.done ∧ (k.done.length + 1 = k.units → e.finished = true)))) ∧
    (∀ (n q : Nat) (k : Cmd) (x : Xfer) (idx : W16) (data : List Byte) (atLimit : Bool) (s1 : State),
      c.xfer part ch id = some x → idx.toNat ∉ x.marks → c.posted part ch id = some (n, q, k) → c.cmd n q k.count = some k → k.op = opRecv →
      idx.toNat < k.units → data.length = k.segLen idx.toNat →
      s.writeOp n part (c.qctx n q) 0 (k.field 0x10 8 + 65536 * idx.toNat) data = (s1, none) →
      Ends (.segmentReceived link chan tid idx data atLimit) s (fun t => t.mem = s1.mem ∧
        t.chip.submitted s1.chip l (msgBytes msgSegAck [(1, ch), (4, id), (2, idx.toNat)]) ∧
        (∃ y, t.chip.xfer part ch id = some y ∧ idx.toNat ∈ y.marks) ∧ ∃ e, t.chip.cmd n q k.count = some e ∧ idx.toNat ∈ e.done)) ∧
    (∀ (x : Xfer) (idx : W16) (data : List Byte) (atLimit : Bool), c.xfer part ch id = some x → idx.toNat ∈ x.marks → part < 8 →
      Ends (.segmentReceived link chan tid idx data atLimit) s (fun t => t.mem = s.mem ∧ t.chip.queues = c.queues ∧
        t.chip.get part Obj.CNT_DUP_SEGMENTS = (c.get part Obj.CNT_DUP_SEGMENTS + 1) % 2 ^ 64 ∧
        t.chip.submitted c l (msgBytes msgSegAck [(1, ch), (4, id), (2, idx.toNat)])))

/-! ### Frames and ticks (chapters 5 and 15) -/

/-- A frame boundary and a tick edge advance the time and take the measurements; neither reaches memory. A boundary of a phased time
unit begins the next frame at its tick 0, takes the measured power, and takes a pending freeze of that frame; before the phase
is taken it changes nothing. A tick edge of a powered module that does not begin a frame advances the raw cycles and the tick
and takes the measured voltage, current and Ridge temperatures; without power it changes nothing. -/
def Obligations.FrameAndTick : Prop :=
  (∀ (f : FrameData) (s : State),
    let next := (s.chip.frame + 1) % 2 ^ 48
    (s.chip.time.phased = true → s.chip.time.fixAt = none → Ends (.frameBoundary f) s (fun t =>
      t.chip.frame = next ∧ t.chip.tick = 0 ∧ t.chip.raw = (s.chip.raw + 800) % 2 ^ 64 ∧ t.chip.reg Obj.INPUT_POWER = f.watts.toNat ∧
      (s.chip.reg Obj.FREEZE_STATE = 1 → s.chip.reg Obj.FREEZE_AT = next → (∀ p ∈ s.chip.extNext, p.1 ≠ Obj.FREEZE_STATE ∧ p.1 ≠ Obj.FREEZE_TAKEN) →
        t.chip.reg Obj.FREEZE_STATE = 2 ∧ t.chip.reg Obj.FREEZE_TAKEN = next) ∧ t.mem = s.mem)) ∧
    (s.chip.time.phased = false → Ends (.frameBoundary f) s (fun t => t = s))) ∧
  (∀ (d : TickData) (s : State),
    (s.chip.side.power = true → s.chip.time.edge = false → Ends (.tickEdge d) s (fun t =>
      t.chip.raw = (s.chip.raw + 800) % 2 ^ 64 ∧ t.chip.tick = (s.chip.tick + 1) % 128 ∧ t.chip.frame = s.chip.frame ∧
      t.chip.reg Obj.INPUT_VOLTAGE = d.volts.toNat ∧ t.chip.reg Obj.INPUT_CURRENT = d.amps.toNat ∧
      (∀ n : Fin 16, t.chip.reg (Obj.RIDGE_TEMP + n.val) = (d.temps.getD n.val 0#32).toNat) ∧ t.mem = s.mem)) ∧
    (s.chip.side.power = false → Ends (.tickEdge d) s (fun t => t = s)))

/-! ### Memory (chapter 6) -/

/-- What a partition writes it reads back, and no other byte changes for any key. A physical write that the controller performs for
a partition is read back by that partition; every byte outside the one written reads as before under the key of its line; and
memory is unchanged by one that is not performed. -/
def Obligations.MemoryReadBack : Prop :=
  ∀ (s t : State) (k a : Nat) (b : Byte), s.mem.wf = true →
    (s.writePhys k a [b] = (t, none) →
      (t.readPhys k a 1).2.toOption = some [b] ∧
      (∀ x, s.mem.tag x ≠ 0 → x ≠ a → x / 128 ≠ a / 128 ∨ s.mem.tag a = s.chip.keyTag k →
        t.mem.byte (s.mem.tag x) x = s.mem.byte (s.mem.tag x) x)) ∧
    (∀ e, s.writePhys k a [b] = (t, some e) → t.mem = s.mem)

/-- Memory errors: an uncorrectable line, an erasure mark, the scrub, a soft retirement, a unit out of service. An uncorrectable
line that a DMA unit reads is counted for its unit, hard-retires its frame and ends the unit's command with MEM_UNCORRECTABLE;
so does one that the scrub finds, without a command; a scrub pass that ends clears the period's counts; a source over its limit
is marked in the group's erasure word and the unit is DEGRADED; a frame of an unowned unit over CE_FRAME_LIMIT is soft-retired;
a unit declared failed is OUT_OF_SERVICE with no capacity from the next boundary. -/
def Obligations.MemoryErrors : Prop :=
  (∀ (pa : W64) (mask n : Fin 16) (slot : Fin 32) (va : W48) (d : DmaUnit) (u o : Nat) (s : State), s.chip.accCheck pa.toNat = .ok →
    Tbl.find (s.chip.ridge n.val).dma slot.val = some d → unitOf pa.toNat = some (u, o) → s.chip.roomToRetire u = true →
    Ends (.memUncorrectable pa mask (.dma n slot) 0 va) s (fun t => t.chip.retiredHard pa.toNat = true ∧
      t.chip.reg (ueCounter u) = (s.chip.reg (ueCounter u) + 1) % 2 ^ 64 ∧
      (∀ k, s.chip.cmd n.val d.queue d.count = some k →
        ∃ e ∈ (t.chip.queue n.val d.queue).cmds, e.count = d.count ∧ e.finished = true ∧ stUncorr ∈ e.status) ∧ t.mem = s.mem)) ∧
  (∀ (unit : Fin 32) (pa : W64) (mask : Fin 16) (o : Nat) (s : State), unitOf pa.toNat = some (unit.val, o) → s.chip.unitState unit.val ≤ 1 →
    o < (s.chip.unit unit.val).backed → s.chip.roomToRetire unit.val = true →
    Ends (.patrolScrub unit [] [(pa, mask)] false false) s (fun t => t.chip.retiredHard pa.toNat = true ∧
      t.chip.reg (ueCounter unit.val) = (s.chip.reg (ueCounter unit.val) + 1) % 2 ^ 64 ∧ t.chip.queues = s.chip.queues ∧ t.mem = s.mem)) ∧
  (∀ (unit : Fin 32) (s : State), Ends (.patrolScrub unit [] [] true true) s (fun t => (t.chip.unit unit.val).ceFrames = [] ∧
      (t.chip.unit unit.val).ceSources = [] ∧ (t.chip.unit unit.val).retired = (s.chip.unit unit.val).retired ∧
      t.chip.reg (Obj.CNT_SCRUB_LATE + unit.val) = (s.chip.reg (Obj.CNT_SCRUB_LATE + unit.val) + 1) % 2 ^ 64 ∧ t.mem = s.mem)) ∧
  (∀ (unit : Fin 32) (group : Fin 64) (source : Fin 20) (s : State), group.val < (if unit.val < 16 then 64 else 4) →
    s.chip.unitState unit.val ≤ 1 → s.chip.erasureWord unit.val group.val = 0 →
    s.chip.reg Obj.CE_SOURCE_LIMIT ≤ Tbl.get (s.chip.unit unit.val).ceSources 0 (group.val * 32 + source.val) →
    Ends (.erasureMarked unit group source) s (fun t => t.chip.erasureWord unit.val group.val = source.val + 32 ∧
      t.chip.unitState unit.val = 1 ∧ t.chip.said 0x0503 (s.chip.ownerN (unit.val % 16)) [] ∧ t.mem = s.mem)) ∧
  (∀ (pa : W64) (u o : Nat) (s : State), unitOf pa.toNat = some (u, o) → s.chip.accCheck pa.toNat = .ok → s.chip.retiredAny pa.toNat = false →
    s.chip.pend = [] → s.chip.reg Obj.CE_FRAME_LIMIT ≤ Tbl.get (s.chip.unit u).ceFrames 0 (pa.toNat / 65536) →
    (s.chip.owner (u % 16) = none → s.chip.roomToRetire u = true →
      Ends (.frameSoftRetire pa) s (fun t => t.chip.retiredAny pa.toNat = true ∧ t.chip.retiredHard pa.toNat = false ∧ t.mem = s.mem)) ∧
    (∀ k, s.chip.owner (u % 16) = some k → s.chip.reg (atIdx Obj.RMAP_BASE u) = 0 →
      Ends (.frameSoftRetire pa) s (fun t => t.chip.retiredAny pa.toNat = false ∧
        ∃ h ∈ t.chip.hosts, h.retire = true ∧ h.info.part = k ∧ h.frame = pa.toNat / 65536 * 65536))) ∧
  (∀ (unit : Fin 32) (s : State), s.chip.unitState unit.val ≤ 1 →
    Ends (.memOutOfService unit) s (fun t => t.chip.unitState unit.val = 2 ∧ t.chip.extSoon (unitBytesKey unit.val) = 0 ∧
      t.chip.said 0x0504 (s.chip.ownerN (unit.val % 16)) [] ∧ t.mem = s.mem))

/-- Clearing erasure marks, and what a stack's or a DIMM's temperature does. A SERVICE write of a unit's erasure object that clears
marks or repeats them leaves the written words, and any other session's is answered RANGE; a stack above 95 and not 105 degrees
halves its rate with its event and count, one above 105 goes out of service, one at most 95 does neither; a DIMM's reading is
kept, and a read without an answer is counted. -/
def Obligations.ErasureClearAndTemperatures : Prop :=
  (∀ (r : Req) (unit : Fin 32) (value : List Byte) (se : Sess) (s : State) (inst : Nat),
    s.admits r (erasureKey unit.val) value inst = true → Tbl.find s.chip.sess r.sess.val = some se →
    let groups := if unit.val < 16 then 64 else 4
    (se.cls = 3 → (∀ g, g < groups → erasureOk (s.chip.erasureWord unit.val g) (leAt value (2 * g) 2) = true) →
      Ends (.erasureClear r unit value) s (fun t => (∀ g, g < groups → t.chip.erasureWord unit.val g = leAt value (2 * g) 2) ∧
        t.answers r (erasureKey unit.val) rcOK ∧ t.mem = s.mem)) ∧
    (se.cls ≠ 3 → Ends (.erasureClear r unit value) s (fun t => (∀ g, g < groups → t.chip.erasureWord unit.val g = s.chip.erasureWord unit.val g) ∧
        t.answers r (erasureKey unit.val) rcRange ∧ t.mem = s.mem))) ∧
  (∀ (stack : Fin 16) (temp : W32) (s : State), s.chip.unitState stack.val < 2 → (s.chip.unit stack.val).halfRate = false →
    (s.chip.unit stack.val).heatOut = false →
    (f32Lt (f32OfInt 105) temp = true → Ends (.stackTempSample stack temp) s (fun t => t.chip.unitState stack.val = 2 ∧
      (t.chip.unit stack.val).heatOut = true ∧ t.chip.said 0x0504 (s.chip.ownerN stack.val) [] ∧ t.mem = s.mem)) ∧
    (f32Lt (f32OfInt 105) temp = false → f32Lt (f32OfInt 95) temp = true → Ends (.stackTempSample stack temp) s (fun t =>
      t.chip.unitState stack.val = s.chip.unitState stack.val ∧ (t.chip.unit stack.val).halfRate = true ∧
      t.chip.reg (Obj.CNT_STACK_THERMAL + stack.val) = (s.chip.reg (Obj.CNT_STACK_THERMAL + stack.val) + 1) % 2 ^ 64 ∧
      t.chip.said 0x0506 (s.chip.ownerN stack.val) [] ∧ t.mem = s.mem)) ∧
    (f32Lt (f32OfInt 105) temp = false → f32Lt (f32OfInt 95) temp = false → Ends (.stackTempSample stack temp) s (fun t =>
      (t.chip.unit stack.val).halfRate = false ∧ (t.chip.unit stack.val).heatOut = false ∧
      (t.chip.unit stack.val).hotRefresh = hotter temp 85 (s.chip.unit stack.val).hotRefresh ∧ t.chip.regs = s.chip.regs ∧ t.mem = s.mem))) ∧
  (∀ (channel : Fin 16) (temp : W32) (hot : Bool) (s : State), s.chip.unitState (16 + channel.val) ≠ 3 →
    Ends (.dimmTempRead channel (some (temp, hot))) s (fun t => t.chip.reg (Obj.DIMM_TEMP + channel.val) = temp.toNat ∧
      (t.chip.unit (16 + channel.val)).tempMiss = 0 ∧ (t.chip.unit (16 + channel.val)).hotRefresh = hot ∧ t.mem = s.mem) ∧
    Ends (.dimmTempRead channel none) s (fun t => t.chip.regs = s.chip.regs ∧
      (t.chip.unit (16 + channel.val)).tempMiss = (s.chip.unit (16 + channel.val)).tempMiss + 1 ∧ t.mem = s.mem))

/-! ### Translation and faults (chapter 7) -/

/-- CTX_ROOT, the three invalidations and their end, and a walk ahead of a unit. A write of CTX_ROOT while every queue of the
context is DISABLED takes effect and leaves no cached translation of the context, and is answered STATE otherwise; each
TLB_INVAL write enters the partition's requests; a request that is done leaves them and is counted, and what it names is no
longer cached; a walk that ends well leaves what the translation left, one whose fault the steward resolves enters the pending
table, and one whose fault no one resolves is left for the unit. -/
def Obligations.RootsAndInvalidations : Prop :=
  (∀ (r : Req) (ctx : Fin 16) (root : W64) (s : State) (inst : Nat),
    let key := Obj.CTX_ROOT + ctx.val
    let busy := (s.chip.queuesOf inst).any (fun e => s.chip.qctx e.1 e.2 = ctx.val && (s.chip.queue e.1 e.2).st != .disabled)
    s.admits r key (wr 8 root.toNat) inst = true →
    (busy = false → Ends (.ctxRootWrite r ctx root) s (fun t => t.chip.get inst key = root.toNat ∧ t.answers r key rcOK ∧
      (∀ n ∈ s.chip.ridgeList inst, ∀ e ∈ (t.chip.ridge n).tlb, ¬(e.part = inst ∧ e.ctx = ctx.val)) ∧
      t.chip.queues = s.chip.queues ∧ t.mem = s.mem)) ∧
    (busy = true → Ends (.ctxRootWrite r ctx root) s (fun t => t.chip.get inst key = s.chip.get inst key ∧ t.answers r key rcState ∧
      t.chip.ridges = s.chip.ridges ∧ t.mem = s.mem))) ∧
  (∀ (r : Req) (s : State) (inst : Nat),
    let asked := fun (w : Nat) (t : State) => (t.chip.part inst).inval = (s.chip.part inst).inval ++ [w] ∧ t.answers r Obj.TLB_INVAL rcOK ∧
      t.chip.ridges = s.chip.ridges ∧ t.chip.regs = s.chip.regs ∧ t.mem = s.mem
    (∀ (pages : Byte) (size : Fin 3) (ctx : Fin 16) (va16 : W32),
      s.admits r Obj.TLB_INVAL (wr 8 (invalWord pages.toNat 0 size.val ctx.val va16.toNat)) inst = true →
      Ends (.tlbInvalPages r pages size ctx va16) s (asked (invalWord pages.toNat 0 size.val ctx.val va16.toNat))) ∧
    (∀ ctx : Fin 16, s.admits r Obj.TLB_INVAL (wr 8 (invalWord 0 1 0 ctx.val 0)) inst = true →
      Ends (.tlbInvalContext r ctx) s (asked (invalWord 0 1 0 ctx.val 0))) ∧
    (s.admits r Obj.TLB_INVAL (wr 8 (invalWord 0 2 0 0 0)) inst = true → Ends (.tlbInvalPartition r) s (asked (invalWord 0 2 0 0 0)))) ∧
  (∀ (part : Fin 8) (v : Nat) (rest : List Nat) (s : State), (s.chip.part part.val).inval = v :: rest →
    Ends (.tlbInvalDone part) s (fun t => (t.chip.part part.val).inval = rest ∧
      t.chip.get part.val Obj.TLB_INVAL_DONE = inc32 (s.chip.get part.val Obj.TLB_INVAL_DONE) ∧
      (∀ n ∈ s.chip.ridgeList part.val, ∀ e ∈ (t.chip.ridge n).tlb, e.part = part.val →
        fld v 55 54 < 2 ∧ (fld v 55 54 = 1 → e.ctx ≠ fld v 51 48)) ∧ t.mem = s.mem)) ∧
  (∀ (ridge : Fin 16) (queue : Fin 8) (va : W48) (write : Bool) (s s' : State) (part : Nat), s.chip.owner ridge.val = some part →
    (∀ pa, s.translate ridge.val part (s.chip.qctx ridge.val queue.val) va.toNat write = (s', .ok pa) →
      Ends (.walkComplete ridge queue va write []) s (fun t => t = s')) ∧
    (∀ i, s.translate ridge.val part (s.chip.qctx ridge.val queue.val) va.toNat write = (s', .error i) →
      (fatal i.reason = true → Ends (.walkComplete ridge queue va write []) s (fun t => t = s')) ∧
      (i.reason = rsSteward → s'.chip.isPending i = false → s'.chip.pendFull i.part = false →
        Ends (.walkComplete ridge queue va write []) s (fun t => t.chip.pend = s'.chip.pend ++
          [{ info := { i with queue := queue.val, ridge := ridge.val }, restore := i.value }] ∧ t.mem = s'.mem))))

/-- A steward's work on a fault: an entry already valid, a frame taken, the page made present; and a fault that waited for an entry.
Where the page-table entry has become valid, the fault leaves the pending table, is counted, and memory stays; where it is one
the steward allocates and a frame is taken, the entry is marked BUSY and the resolution holds the frame; the end of the zeroing
clears the frame, writes the leaf present and ends the resolution; a fault that waited for a pending entry joins one or gets
one. -/
def Obligations.StewardWork : Prop :=
  (∀ (b : Bool) (p : Pend) (s : State), s.chip.stewardJob b = some p → p.soft = false → p.phase = 0 →
    (s.chip.part p.info.part).waiting = [] → s.chip.roceQuiet = true → p.waiters.all ofQueue = true →
    let e := s.entryAt p.info.part p.info.entry
    (bitAt e 0 = true → Ends (.stewardFault b) s (fun t => (∀ q ∈ t.chip.pend, q.info.entry ≠ p.info.entry) ∧ t.mem = s.mem ∧
      (p.info.part < 8 → t.chip.get p.info.part Obj.CNT_FAULT_STEWARD =
        (s.chip.get p.info.part Obj.CNT_FAULT_STEWARD + p.faults) % 2 ^ 64))) ∧
    (bitAt e 0 = false → npKind e = 1 ∨ npKind e = 2 → ∀ (s' : State) (x : Nat),
      ((s.setEntry p.info.part p.info.entry (busyOf e)).on
        (fun c => c.updPend p.info.entry (fun _ => { p with restore := e, phase := 1 }))).takeFrame p.info.part
          (s.chip.tierUnits p.info.part (fld e 9 8) p.info.ridge) (p.info.level = 3) = (s', .frame x) →
      Ends (.stewardFault b) s (fun t => t.mem = s'.mem ∧
        ((∃ q ∈ s'.chip.pend, q.info.entry = p.info.entry) →
          ∃ q ∈ t.chip.pend, q.info.entry = p.info.entry ∧ q.phase = 2 ∧ q.frame = x)))) ∧
  (∀ (b : Bool) (p : Pend) (u o : Nat) (s : State), s.chip.stewardJob b = some p → p.soft = false → p.phase = 2 → npKind p.restore ≠ 2 →
    unitOf p.frame = some (u, o) → s.chip.reg (atIdx Obj.RMAP_BASE u) = 0 → s.chip.roceQuiet = true → p.waiters.all ofQueue = true →
    Ends (.stewardCopyDone b none) s (fun t => (∀ q ∈ t.chip.pend, q.info.entry ≠ p.info.entry) ∧
      t.mem = (s.mem.clear (s.chip.keyTag p.info.part) p.frame (65536 * p.pages)).write (s.chip.keyTag p.info.part) p.info.entry
        (leBytes 8 (leafOf p.restore p.frame p.info.write)))) ∧
  (∀ (i : FaultInfo) (w : Waiter) (rest : List (FaultInfo × Waiter)) (s : State), s.chip.pendWait = (i, w) :: rest →
    s.chip.pend.any (fun p => p.info.entry = i.entry) = true ∨
      (i.reason = rsSteward ∧ s.chip.isPending i = false ∧ s.chip.pendFull i.part = false) →
    Ends .pendingEntryFree s (fun t => t.chip.pendWait = rest ∧ (∃ q ∈ t.chip.pend, q.info.entry = i.entry ∧ w ∈ q.waiters) ∧ t.mem = s.mem))

/-- The steward ring's base and consumer count, the host's answers, and a fault no one answers in time. With no queue of the
partition RUNNING and no record held, STEWARD_RING_BASE takes its value, with one RUNNING it is answered STATE;
STEWARD_RING_CONSUMER takes its count, and one held record is written when there is room; RETRY and ABORT end the fault they
name, ABORT its unit's command with a translation fault, and DONE ends a retirement request with its frame retired; an answer to
no fault is answered STATE; a written fault whose limit expires ends and is remembered as expired. -/
def Obligations.HostAnswers : Prop :=
  (∀ (r : Req) (base : W64) (s : State) (inst : Nat), s.admits r Obj.STEWARD_RING_BASE (wr 8 base.toNat) inst = true →
    let busy := (s.chip.queuesOf inst).any (fun e => (s.chip.queue e.1 e.2).st = .running)
    (busy = false → (s.chip.part inst).held = [] → (s.chip.part inst).waiting = [] → Ends (.stewardRingBaseWrite r base) s (fun t =>
      t.chip.get inst Obj.STEWARD_RING_BASE = base.toNat ∧ t.answers r Obj.STEWARD_RING_BASE rcOK ∧ t.mem = s.mem)) ∧
    (busy = true → Ends (.stewardRingBaseWrite r base) s (fun t =>
      t.chip.get inst Obj.STEWARD_RING_BASE = s.chip.get inst Obj.STEWARD_RING_BASE ∧ t.answers r Obj.STEWARD_RING_BASE rcState ∧ t.mem = s.mem))) ∧
  (∀ (r : Req) (count : W32) (s : State) (inst : Nat), s.admits r Obj.STEWARD_RING_CONSUMER (wr 4 count.toNat) inst = true →
    (s.chip.part inst).waiting = [] →
    ((s.chip.part inst).held = [] → Ends (.stewardRingConsumerWrite r count) s (fun t =>
      t.chip.get inst Obj.STEWARD_RING_CONSUMER = count.toNat ∧ t.answers r Obj.STEWARD_RING_CONSUMER rcOK ∧ t.mem = s.mem)) ∧
    (∀ bs, (s.chip.part inst).held = [bs] → (s.on (fun c => c.set inst Obj.STEWARD_RING_CONSUMER count.toNat)).chip.ringRoom inst = true →
      inst < 8 → Ends (.stewardRingConsumerWrite r count) s (fun t => (t.chip.part inst).held = [] ∧
        t.chip.get inst Obj.STEWARD_RING_PRODUCER = inc32 (s.chip.get inst Obj.STEWARD_RING_PRODUCER) ∧
        t.answers r Obj.STEWARD_RING_CONSUMER rcOK))) ∧
  (∀ (r : Req) (id : W32) (atLimit : Bool) (s : State) (inst : Nat),
    let gone := fun (t : State) => ∀ h ∈ t.chip.hosts, ¬(h.info.part = inst ∧ h.id = id.toNat)
    (∀ h, s.chip.hosts.find? (fun h => h.info.part = inst && h.id = id.toNat) = some h →
      (s.admits r Obj.FAULT_RESOLVE (wr 8 (id.toNat * 2 ^ 32 + 1)) inst = true → h.retire = false →
        Ends (.faultResolveRetry r id atLimit) s (fun t => gone t ∧ t.answers r Obj.FAULT_RESOLVE rcOK ∧ t.mem = s.mem)) ∧
      (s.admits r Obj.FAULT_RESOLVE (wr 8 (id.toNat * 2 ^ 32 + 2)) inst = true → h.retire = false →
        Ends (.faultResolveAbort r id atLimit) s (fun t => gone t ∧ t.answers r Obj.FAULT_RESOLVE rcOK ∧ t.mem = s.mem ∧
          (∀ n q k u, h.waiters = [.tile n q k u] → (s.chip.cmd n q k).isSome = true →
            ∃ e ∈ (t.chip.queue n q).cmds, e.count = k ∧ e.finished = true ∧ stTranslation ∈ e.status))) ∧
      (s.admits r Obj.FAULT_RESOLVE (wr 8 (id.toNat * 2 ^ 32 + 3)) inst = true → h.retire = true →
        ∀ u o, unitOf h.frame = some (u, o) → s.chip.roomToRetire u = true →
        Ends (.faultResolveDone r id) s (fun t => gone t ∧ t.chip.retiredAny h.frame = true ∧ t.answers r Obj.FAULT_RESOLVE rcOK ∧ t.mem = s.mem))) ∧
    (s.chip.hosts.find? (fun h => h.info.part = inst && h.id = id.toNat) = none →
      s.admits r Obj.FAULT_RESOLVE (wr 8 (id.toNat * 2 ^ 32 + 1)) inst = true →
      Ends (.faultResolveRetry r id atLimit) s (fun t => t.chip.hosts = s.chip.hosts ∧ t.answers r Obj.FAULT_RESOLVE rcState ∧ t.mem = s.mem))) ∧
  (∀ (part : Fin 8) (id : W32) (h : HostFault) (s : State),
    s.chip.hosts.find? (fun h => h.info.part = part.val && h.id = id.toNat) = some h → h.retire = false → h.written = true →
    Ends (.faultHostLimitExpired part id) s (fun t => (∀ x ∈ t.chip.hosts, ¬(x.info.part = part.val ∧ x.id = id.toNat)) ∧
      h.id ∈ (t.chip.part part.val).expired ∧ t.mem = s.mem))

/-! ### Partitions (chapter 8) -/

/-- WS_CONTROL: creation, a change and a teardown that are accepted, and their refusals. On a ready module with a leaseholder: an
accepted CREATE of a FREE partition claims the staged Ridges with a new key and is CREATING; an accepted APPLY holds the staged
values until the boundary; an accepted TEARDOWN disables the partition's queues, takes its key and is TEARING. A CREATE of
nothing, an APPLY that is not quiescent and a TEARDOWN of a FREE partition are REFUSED with their reasons, and change nothing
else of the partition; without a leaseholder every action is answered STATE. -/
def Obligations.WsControl : Prop :=
  (∀ (r : Req) (part : Fin 8) (zero : Bool) (s : State) (inst : Nat), s.chip.reg Obj.LEASE_HOLDER ≠ 0 →
    let k := part.val
    let c := s.chip
    let p := c.part k
    let key := Obj.WS_CONTROL
    let refused := fun (why : Nat) (t : State) => t.chip.reg Obj.WS_REFUSE_REASON = why ∧ t.answers r key rcRefused ∧
      t.chip.said 0x0605 0xFF [] ∧ t.chip.wsState k = c.wsState k ∧ t.chip.ridgesOf k = c.ridgesOf k ∧ t.chip.parts = c.parts ∧ t.mem = s.mem
    (s.admits r key (wsWord part 1 zero) inst = true → c.wsState k = wsFree →
      (c.stagedRidges k ≠ 0 → c.addReason k (c.stagedRidges k) (c.stagedLanes k) (c.stagedVis k) = 0 →
        Ends (.wsCreate r part zero) s (fun t => t.chip.wsState k = wsCreating ∧ t.chip.ridgesOf k = c.stagedRidges k ∧
          t.chip.reg (Obj.KEY_SLOT_STATE + k) = 1 ∧ t.chip.reg (Obj.WS_KEY_GEN + k) = inc32 (c.reg (Obj.WS_KEY_GEN + k)) ∧
          t.answers r key rcOK ∧ t.mem = s.mem)) ∧
      (c.stagedRidges k = 0 → Ends (.wsCreate r part zero) s (refused wsEmpty))) ∧
    (s.admits r key (wsWord part 2 zero) inst = true → c.wsState k = wsActive → p.applying = false → c.stagedRidges k ≠ 0 →
      c.addReason k (without 16 (c.stagedRidges k) (c.ridgesOf k)) (without 256 (c.stagedLanes k) p.lanes) (without 64 (c.stagedVis k) p.vis) = 0 →
      (c.quiescent k = true → Ends (.wsApply r part zero) s (fun t => t.chip.part k = { p with
          applying := true, applyZero := zero, newRidges := c.stagedRidges k, newLanes := c.stagedLanes k, newVis := c.stagedVis k,
          newShare := c.stagedShare k } ∧ t.chip.regs = c.regs ∧ t.answers r key rcOK ∧ t.mem = s.mem)) ∧
      (c.quiescent k = false → Ends (.wsApply r part zero) s (refused wsNotQuiescent))) ∧
    (s.admits r key (wsWord part 3 zero) inst = true →
      (c.wsState k = wsActive → p.applying = false → Ends (.wsTeardown r part zero) s (fun t => t.chip.wsState k = wsTearing ∧
          t.chip.reg (Obj.KEY_SLOT_STATE + k) = 0 ∧ (∀ n ∈ c.ridgeList k, ∀ q, q < 8 → (t.chip.queue n q).st = .disabled) ∧
          (∀ e ∈ t.chip.pend, e.info.part ≠ k) ∧ t.answers r key rcOK ∧ t.mem = s.mem)) ∧
      (c.wsState k = wsFree → Ends (.wsTeardown r part zero) s (refused wsNotActive)))) ∧
  (∀ (r : Req) (part : Fin 8) (zero : Bool) (s : State) (inst : Nat), s.chip.reg Obj.LEASE_HOLDER = 0 →
    let stays := fun (t : State) => t.answers r Obj.WS_CONTROL rcState ∧ t.chip.parts = s.chip.parts ∧
      (∀ k, k < 8 → t.chip.wsState k = s.chip.wsState k ∧ t.chip.ridgesOf k = s.chip.ridgesOf k) ∧ t.mem = s.mem
    (s.admits r Obj.WS_CONTROL (wsWord part 1 zero) inst = true → Ends (.wsCreate r part zero) s stays) ∧
    (s.admits r Obj.WS_CONTROL (wsWord part 2 zero) inst = true → Ends (.wsApply r part zero) s stays) ∧
    (s.admits r Obj.WS_CONTROL (wsWord part 3 zero) inst = true → Ends (.wsTeardown r part zero) s stays))

/-- A zero-fill that ends leaves every backed line of the unit a zero line. When a unit without retired frames that a partition is
zero-filling is done, and no other partition owns it by then, every byte of its backed range reads as zero under any key, the
bytes of the rest of memory read as before, and the partition no longer waits for the unit. -/
def Obligations.ZeroFill : Prop :=
  ∀ (unit : Fin 32) (k : Nat) (s : State), (List.range 8).find? (fun k => (s.chip.part k).zeroUnits.contains unit.val) = some k →
    s.chip.owner (unit.val % 16) = none ∨ s.chip.owner (unit.val % 16) = some k → (s.chip.unit unit.val).retired = [] →
    s.mem.wf = true → (s.chip.unit unit.val).backed % 128 = 0 →
    Ends (.zeroFillDone unit) s (fun t => (t.chip.part k).zeroUnits = (s.chip.part k).zeroUnits.erase unit.val ∧
      (∀ a key, unitBase unit.val ≤ a → a < unitBase unit.val + (s.chip.unit unit.val).backed → t.mem.byte key a = 0#8) ∧
      (∀ a key, a < unitBase unit.val ∨ unitBase unit.val + (s.chip.unit unit.val).backed ≤ a → t.mem.byte key a = s.mem.byte key a))

/-! ### Tensor links (chapter 9) -/

/-- Lanes: light, training, degradation, and the hellos a READY lane sends. Light on a DARK planned lane whose rings track behind an
open collimator starts its training; loss of light on a fibre is counted and reported once, and its READY lane goes DARK;
training that ends well is READY, a failed one is counted and the third fails the lane; a degraded ACTIVE lane is counted,
leaves its link and retrains, a READY lane that loses lock trains again; a READY lane sends its hello and no other lane does. -/
def Obligations.LaneEvents : Prop :=
  (∀ (lane : Fin 256) (s : State), let i := lane.val
    s.chip.tracks (s.chip.addRing i) = true → s.chip.tracks (s.chip.dropRing i) = true → planMode (s.chip.planByte i) = 1 →
    s.chip.colOpen (s.chip.physFibre i) = true → (s.chip.lane i).state = laneDark →
    Ends (.lightPresent lane) s (fun t => (t.chip.lane i).state = laneTraining ∧ (t.chip.lane i).light = true ∧ t.chip.loops = s.chip.loops ∧ t.mem = s.mem)) ∧
  (∀ (fibre : Fin 32) (s : State), fibre.val ∉ s.chip.darkFibres → s.chip.noticed fibre.val = false →
    (s.chip.fibreLanes fibre.val = [] → Ends (.lightLost fibre) s (fun t => fibre.val ∈ t.chip.darkFibres ∧ t.chip.said 0x080B 0xFF [] ∧
      t.chip.reg (Obj.CNT_LIGHT_LOSS + fibre.val) = (s.chip.reg (Obj.CNT_LIGHT_LOSS + fibre.val) + 1) % 2 ^ 64 ∧ t.chip.lanes = s.chip.lanes ∧ t.mem = s.mem)) ∧
    (∀ i, s.chip.fibreLanes fibre.val = [i] → (s.chip.lane i).state = laneReady → (s.chip.lane i).link = none →
      (s.chip.loop (s.chip.dropRing i).1 (s.chip.dropRing i).2).mode = modeHold →
      Ends (.lightLost fibre) s (fun t => (t.chip.lane i).state = laneDark ∧ (t.chip.lane i).light = false ∧
        t.chip.reg (Obj.CNT_LIGHT_LOSS + fibre.val) = (s.chip.reg (Obj.CNT_LIGHT_LOSS + fibre.val) + 1) % 2 ^ 64 ∧ t.mem = s.mem))) ∧
  (∀ (lane : Fin 256) (s : State), let i := lane.val
    (s.chip.lane i).state = laneTraining ∨ (s.chip.lane i).state = laneRetrain →
    Ends (.laneTrainingDone lane true) s (fun t => (t.chip.lane i).state = laneReady ∧ t.chip.links = s.chip.links ∧ t.chip.regs = s.chip.regs ∧ t.mem = s.mem) ∧
    ((s.chip.lane i).fails < 2 → Ends (.laneTrainingDone lane false) s (fun t => (t.chip.lane i).state = (s.chip.lane i).state ∧
      (t.chip.lane i).fails = (s.chip.lane i).fails + 1 ∧ t.chip.regs = s.chip.regs ∧ t.mem = s.mem)) ∧
    (2 ≤ (s.chip.lane i).fails → (s.chip.lane i).link = none → Ends (.laneTrainingDone lane false) s (fun t => (t.chip.lane i).state = laneFailed ∧
      bitAt (t.chip.extSoon (Obj.LANE_MASK + i / 64)) (i % 64) = false ∧ t.chip.said 0x0706 ((s.chip.lanePart i).getD 0xFF) [] ∧ t.mem = s.mem))) ∧
  (∀ (lane : Fin 256) (s : State), let i := lane.val
    ((s.chip.lane i).state = laneActive → (s.chip.lane i).peerSwapAt ≠ some s.chip.frame → (s.chip.lane i).retrains < s.chip.reg Obj.LANE_RETRAIN_LIMIT →
      Ends (.laneDegrade lane 0) s (fun t => (t.chip.lane i).state = laneRetrain ∧ (t.chip.lane i).link = none ∧
        (t.chip.lane i).retrains = (s.chip.lane i).retrains + 1 ∧
        t.chip.reg (Obj.CNT_LANE_DEGRADES + i) = (s.chip.reg (Obj.CNT_LANE_DEGRADES + i) + 1) % 2 ^ 64 ∧ t.mem = s.mem)) ∧
    ((s.chip.lane i).state = laneReady → (s.chip.lane i).link = none →
      Ends (.laneDegrade lane 0) s (fun t => (t.chip.lane i).state = laneTraining ∧ t.chip.regs = s.chip.regs ∧ t.mem = s.mem) ∧
      Ends (.helloSend lane) s (fun t => t = s.on (fun c => c.send (.flit i (flitBytes 0 2 3 {} (s.chip.helloPayload i)))))) ∧
    ((s.chip.lane i).state ≠ laneReady → Ends (.helloSend lane) s (fun t => t = s)))

/-- A hello that passes the map, the tag and the versions brings a link in DISCOVER to UP; a wrong tag quarantines it. A valid hello
with PEER_SEEN, the partition's tag, an expected sender and an overlapping version, on a READY lane of a link in DISCOVER,
brings the link to UP at the greatest common version with the lane ACTIVE and LINK_UP raised; with another tag it brings the
link to QUARANTINE for TAG, with its event. -/
def Obligations.HelloReceived : Prop :=
  ∀ (lane : Fin 256) (h : Hello) (l k : Nat) (s : State),
    let i := lane.val
    let c := s.chip
    let tag := c.reg (atIdx Obj.LINK_PART_TAG k)
    (c.lane i).state = laneReady → helloOk h = true → h.lane.toNat % 16 = laneWave i → (c.lane i).link = some l → c.lanePart i = some k →
    (c.link l).state = linkDiscover → tag ≠ 0 →
    (h.tag.toNat = tag → c.mapCheck (c.logFibre i) h = 0 → bitAt h.flags.toNat 0 = true →
      max (c.reg Obj.LINK_VER_MIN) h.verMin.toNat ≤ min (c.reg Obj.LINK_VER_MAX) h.verMax.toNat →
      Ends (.helloReceived lane h) s (fun t => (t.chip.link l).state = linkUp ∧
        (t.chip.link l).version = min (c.reg Obj.LINK_VER_MAX) h.verMax.toNat ∧ (t.chip.link l).held = [] ∧ (t.chip.lane i).state = laneActive ∧
        t.chip.said 0x0701 ((c.link l).part.getD 0xFF) [] ∧ t.mem = s.mem)) ∧
    (h.tag.toNat ≠ tag → Ends (.helloReceived lane h) s (fun t => (t.chip.link l).state = linkQuar ∧ (t.chip.link l).quar = 3 ∧
        t.chip.said 0x0703 ((c.link l).part.getD 0xFF) [] ∧ t.mem = s.mem))

/-- A flit that fails its checks is counted; one that is expected is taken and the next sequence number is wanted. Every flit's
codewords are counted outside a swap window; a flit with a bad CRC, or bad as the receiver found it, is counted and, on a lane
of no link, changes nothing else; the data flit that a usable link expects next is taken: the link wants the following SEQ and
its bytes join the segment under way on its channel. -/
def Obligations.FlitReceived : Prop :=
  ∀ (lane : Fin 256) (flit : List Byte) (corrected uncorr : Byte) (s : State),
    let i := lane.val
    let h := leAt flit 0 8
    let fec := fun (t : State) =>
      (s.chip.peerWindow i = true → t.chip.reg (Obj.CNT_FEC_CORRECTED + i) = s.chip.reg (Obj.CNT_FEC_CORRECTED + i) ∧
        t.chip.reg (Obj.CNT_FEC_UNCORR + i) = s.chip.reg (Obj.CNT_FEC_UNCORR + i)) ∧
      (s.chip.peerWindow i = false →
        t.chip.reg (Obj.CNT_FEC_CORRECTED + i) = (s.chip.reg (Obj.CNT_FEC_CORRECTED + i) + corrected.toNat) % 2 ^ 64 ∧
        t.chip.reg (Obj.CNT_FEC_UNCORR + i) = (s.chip.reg (Obj.CNT_FEC_UNCORR + i) + uncorr.toNat) % 2 ^ 64) ∧ t.mem = s.mem
    ((s.chip.lane i).link = none → ∀ bad atLimit : Bool, bad = true ∨ crc64 (flit.take 248) ≠ leAt flit 248 8 →
      Ends (.flitReceived lane flit corrected uncorr bad atLimit) s (fun t => fec t ∧
        t.chip.reg (Obj.CNT_FLIT_CRC + i) = (s.chip.reg (Obj.CNT_FLIT_CRC + i) + 1) % 2 ^ 64 ∧ t.chip.links = s.chip.links)) ∧
    (∀ (l : Nat) (atLimit : Bool), (s.chip.lane i).link = some l → (s.chip.lane i).state = laneActive → (s.chip.link l).usable = true →
      crc64 (flit.take 248) = leAt flit 248 8 → headerOk h = true → fld h 15 13 = 0 → fld h 17 16 < 2 → bitAt h 31 = false → fld h 27 18 = 0 →
      fld h 63 48 = (s.chip.link l).want → (s.chip.link l).early = [] → Tbl.get (s.chip.link l).asm [] (fld h 17 16) = [] →
      (s.chip.link l).unacked < 63 → Tbl.get (s.chip.link l).owed 0 (fld h 17 16) < 63 →
      let p := (flit.drop 8).take (fld h 7 0)
      p.length < 16 + leAt p 8 4 →
      Ends (.flitReceived lane flit corrected uncorr false atLimit) s (fun t => fec t ∧ (t.chip.link l).want = (fld h 63 48 + 1) % 65536 ∧
        Tbl.get (t.chip.link l).asm [] (fld h 17 16) = p ∧ (t.chip.link l).unacked = (s.chip.link l).unacked + 1 ∧ t.chip.out = s.chip.out))

/-- The timers of a link and the link messages that reach a lane or its window. The acknowledgement and credit timers send one IDLE
flit, which carries what is owed, where something is; a replay timeout sends the held flits again and counts, and beyond the
limit retrains the link; a RETRAIN that times out takes the link down; LANE_DROP degrades an ACTIVE lane, LANE_ADD names the
frame a READY lane joins at; SWAP_ANNOUNCE is acknowledged; SWAP_ACK confirms the window announced or is late; a frame mark
gives the offset. -/
def Obligations.LinkTimersAndMessages : Prop :=
  (∀ (link : Fin 64) (s : State), let l := link.val
    let idles := fun (t : State) => ∃ i, s.chip.nextLane l = some i ∧ (t.chip.link l).unacked = 0 ∧ t.mem = s.mem ∧ t.chip.regs = s.chip.regs ∧
      t.chip.out = s.chip.out ++ [.flit i (flitBytes (s.chip.link l).next 1 0 ((s.chip.link l).carry false) [])]
    (s.chip.link l).usable = true → (s.chip.nextLane l).isSome = true →
    (0 < (s.chip.link l).unacked → Ends (.ackTimer link) s idles) ∧
    ((s.chip.link l).owed.any (fun p => decide (p.2 > 0)) = true → Ends (.creditReturnTimer link) s idles) ∧
    ((s.chip.link l).unacked = 0 → Ends (.ackTimer link) s (fun t => t = s)) ∧
    ((s.chip.link l).held ≠ [] → (s.chip.link l).replays < s.chip.reg Obj.LINK_REPLAY_LIMIT → Ends (.linkReplayTimeout link) s (fun t =>
      (t.chip.link l).replays = (s.chip.link l).replays + 1 ∧ (t.chip.link l).held = (s.chip.link l).held ∧
      t.chip.out.length = s.chip.out.length + (s.chip.link l).held.length ∧ t.mem = s.mem)) ∧
    ((s.chip.link l).held ≠ [] → s.chip.reg Obj.LINK_REPLAY_LIMIT ≤ (s.chip.link l).replays → Ends (.linkReplayTimeout link) s (fun t =>
      (t.chip.link l).state = linkRetrain ∧ (t.chip.link l).held = [] ∧ t.chip.said 0x0707 ((s.chip.link l).part.getD 0xFF) [] ∧
      t.chip.reg (Obj.CNT_LINK_RETRAINS + l) = (s.chip.reg (Obj.CNT_LINK_RETRAINS + l) + 1) % 2 ^ 64 ∧ t.mem = s.mem))) ∧
  (∀ (link : Fin 64) (s : State), (s.chip.link link.val).state = linkRetrain →
    Ends (.linkRetrainTimeout link) s (fun t => t.chip.links = Tbl.del s.chip.links link.val ∧ (∀ p ∈ t.chip.lanes, p.2.link ≠ some link.val) ∧
      t.chip.said 0x0702 ((s.chip.link link.val).part.getD 0xFF) [] ∧ t.mem = s.mem)) ∧
  (∀ (link : Fin 64) (lane cause : Byte) (frame : W48) (i : Nat) (s : State), s.chip.peerLaneOf link.val lane.toNat = some i →
    ((s.chip.lane i).state = laneActive → (s.chip.lane i).retrains < s.chip.reg Obj.LANE_RETRAIN_LIMIT →
      Ends (.laneDropReceived link lane cause) s (fun t => (t.chip.lane i).state = laneRetrain ∧ t.mem = s.mem)) ∧
    ((s.chip.lane i).state = laneReady →
      Ends (.laneAddReceived link lane frame) s (fun t => t = s.on (fun c => c.updLane i (fun x => { x with joinAt := some frame.toNat })))) ∧
    Ends (.swapAnnounceReceived link lane frame) s (fun t => (t.chip.lane i).peerSwapAt = some frame.toNat ∧ t.mem = s.mem ∧
      ∃ f ∈ (t.chip.link link.val).queue ++ (t.chip.link link.val).held,
        f.payload = leBytes 1 msgSwapAck ++ (leBytes 1 i ++ (leBytes 8 frame.toNat ++ [])) ∧ f.vc = 3) ∧
    (∀ atLimit : Bool,
      ((s.chip.lane i).swapAt = some frame.toNat → Ends (.swapAckReceived link lane frame atLimit) s (fun t =>
        (t.chip.lane i).swapAcked = true ∧ (t.chip.lane i).swapTries = 0 ∧ t.chip.links = s.chip.links ∧ t.mem = s.mem)) ∧
      ((s.chip.lane i).swapAt ≠ some frame.toNat → Ends (.swapAckReceived link lane frame atLimit) s (fun t =>
        t = s.on (fun c => c.late waitCredit))))) ∧
  (∀ (link : Fin 64) (frame : W48) (time : W64) (arrival delay : Int) (s : State), (s.chip.link link.val).usable = true →
    bitAt (s.chip.link link.val).features 2 = true → (s.chip.link link.val).offs = [] → -2147483648 ≤ arrival - delay → arrival - delay ≤ 2147483647 →
    Ends (.frameMarkReceived link frame time arrival delay) s (fun t => (t.chip.link link.val).offset = arrival - delay ∧
      t.chip.regs = s.chip.regs ∧ t.mem = s.mem))

/-- LINK_CONTROL's three actions, the expected maps, and a route entry. RELEASE takes a quarantined link to DISCOVER, RETRAIN a
usable one to RETRAIN with its count and event, QUARANTINE any link that is not DOWN to QUARANTINE for OPERATOR; each is
answered STATE otherwise; a write of an expected map takes its value and releases the fibre's quarantined links; a route entry
within its rules is the entry its handle reads, one with a reserved bit is answered RANGE. -/
def Obligations.LinkOperator : Prop :=
  (∀ (r : Req) (link : Fin 64) (s : State) (inst : Nat), let l := link.val
    let key := Obj.LINK_CONTROL
    let part := (s.chip.link l).part.getD 0xFF
    let stays := fun (t : State) => t.chip.links = s.chip.links ∧ t.answers r key rcState ∧ t.mem = s.mem
    (s.admits r key (wr 2 (l + 1 * 256)) inst = true →
      ((s.chip.link l).state = linkQuar → Ends (.linkControlRelease r link) s (fun t => (t.chip.link l).state = linkDiscover ∧
        (t.chip.link l).quar = 0 ∧ t.answers r key rcOK ∧ t.mem = s.mem)) ∧
      ((s.chip.link l).state ≠ linkQuar → Ends (.linkControlRelease r link) s stays)) ∧
    (s.admits r key (wr 2 (l + 2 * 256)) inst = true →
      ((s.chip.link l).usable = true → Ends (.linkControlRetrain r link) s (fun t => (t.chip.link l).state = linkRetrain ∧
        t.chip.said 0x0707 part [] ∧ t.answers r key rcOK ∧ t.mem = s.mem)) ∧
      ((s.chip.link l).usable = false → Ends (.linkControlRetrain r link) s stays)) ∧
    (s.admits r key (wr 2 (l + 3 * 256)) inst = true →
      ((s.chip.link l).state ≠ linkDown → Ends (.linkControlQuarantine r link) s (fun t => (t.chip.link l).state = linkQuar ∧
        (t.chip.link l).quar = 4 ∧ t.chip.said 0x0703 part [] ∧ t.answers r key rcOK ∧ t.mem = s.mem)) ∧
      ((s.chip.link l).state = linkDown → Ends (.linkControlQuarantine r link) s stays))) ∧
  (∀ (r : Req) (fibre : Fin 32) (peer : Bool) (value : W64) (s : State) (inst : Nat),
    let key := (if peer then Obj.EXPECT_PEER else Obj.EXPECT_FIBRE) + fibre.val
    (peer = false → value.toNat < 256) → s.admits r key (wr (if peer then 8 else 1) value.toNat) inst = true →
    Ends (.expectMapWrite r fibre peer value) s (fun t => t.chip.reg key = value.toNat ∧ t.answers r key rcOK ∧
      (∀ l, l < 64 → (s.chip.link l).fibre = fibre.val → (t.chip.link l).state ≠ linkQuar) ∧ t.mem = s.mem)) ∧
  (∀ (r : Req) (handle : Fin 4096) (entry : BitVec 128) (s : State) (inst : Nat),
    let key := Obj.ROUTE_ENTRY + handle.val
    let e := entry.toNat
    s.admits r key (wr 16 e) inst = true →
    (fld e 127 80 = 0 → fld e 71 69 = 0 → (bitAt e 72 = true → s.chip.ownsFibre inst (fld e 68 64) = true ∧
        (bitAt e 74 = true → s.chip.ownsFibre inst (fld e 79 75) = true)) →
      Ends (.routeEntryWrite r handle entry) s (fun t => t.chip.route inst handle.val = e ∧ t.answers r key rcOK ∧ t.mem = s.mem)) ∧
    (fld e 127 80 ≠ 0 ∨ fld e 71 69 ≠ 0 → Ends (.routeEntryWrite r handle entry) s (fun t =>
      t.chip.route inst handle.val = s.chip.route inst handle.val ∧ t.answers r key rcRange ∧ t.mem = s.mem)))

/-! ### Time (chapter 15) -/

/-- Under MANUAL, TIME_SET and TIME_RATE act at acceptance and PTP is not used; under PTP both are refused. An admitted write of
TIME_SET under MANUAL makes device time the written value, and one of TIME_RATE makes TIME_RATE the written value without a jump
of device time; under PTP both are answered STATE and leave device time and TIME_RATE. Under MANUAL every PTP message and the
PTP timeout leaves the state as it is. -/
def Obligations.ManualTime : Prop :=
  (∀ (r : Req) (time : W64) (s : State) (inst : Nat), s.admits r Obj.TIME_SET (wr 8 time.toNat) inst = true →
    (s.chip.reg Obj.TIME_SOURCE ≠ 0 → Ends (.timeSet r time) s (fun t => t.chip.now = time.toNat ∧ t.answers r Obj.TIME_SET rcOK)) ∧
    (s.chip.reg Obj.TIME_SOURCE = 0 → Ends (.timeSet r time) s (fun t => t.chip.now = s.chip.now ∧ t.answers r Obj.TIME_SET rcState))) ∧
  (∀ (r : Req) (rate : W32) (s : State) (inst : Nat), s.admits r Obj.TIME_RATE (wr 4 rate.toNat) inst = true →
    (s.chip.reg Obj.TIME_SOURCE ≠ 0 → Ends (.timeRate r rate) s (fun t =>
      t.chip.reg Obj.TIME_RATE = rate.toNat ∧ t.chip.now = s.chip.now ∧ t.answers r Obj.TIME_RATE rcOK)) ∧
    (s.chip.reg Obj.TIME_SOURCE = 0 → Ends (.timeRate r rate) s (fun t =>
      t.chip.reg Obj.TIME_RATE = s.chip.reg Obj.TIME_RATE ∧ t.chip.now = s.chip.now ∧ t.answers r Obj.TIME_RATE rcState))) ∧
  (∀ (s : State), s.chip.reg Obj.TIME_SOURCE ≠ 0 →
    (∀ port domain a, Ends (.ptpAnnounce port domain a) s (fun t => t = s)) ∧
    (∀ port master domain sq two origin freq corr, Ends (.ptpSync port master domain sq two origin freq corr) s (fun t => t = s)) ∧
    (∀ port master sq origin freq corr, Ends (.ptpFollowUp port master sq origin freq corr) s (fun t => t = s)) ∧
    (∀ port master sq rcv, Ends (.ptpDelayResp port master sq rcv) s (fun t => t = s)) ∧
    Ends .timeMasterTimeout s (fun t => t = s))

/-- PTP messages of the followed master: what each leaves in the time unit. Under PTP, an Announce of the domain is kept for its
port; a two-step Sync of the followed master in UNSET enters ACQUIRING and keeps its sequence and its time; the Follow_Up that
belongs to it gives the master-to-slave difference and asks for the delay; the Delay_Resp that answers gives the mean path
delay; and a master that falls silent, with no other master known, leaves the unit without a master, in FREE_RUN where it was
LOCKED. -/
def Obligations.PtpCommands : Prop :=
  (∀ (port : Fin 8) (domain : Byte) (a : Announce) (s : State), ptpOn s.chip = true → domain.toNat = s.chip.reg Obj.PTP_DOMAIN →
    Ends (.ptpAnnounce port domain a) s (fun t => Tbl.find t.chip.time.masters port.val = some a ∧ t.mem = s.mem)) ∧
  (∀ (port : Fin 8) (master : W64) (domain : Byte) (sq : W16) (origin : W64) (freq corr : Int) (s : State),
    s.chip.fromMaster port.val master.toNat = true → domain.toNat = s.chip.reg Obj.PTP_DOMAIN → s.chip.reg Obj.TIME_STATE = timeUnset →
    Ends (.ptpSync port master domain sq true origin freq corr) s (fun t => t.chip.reg Obj.TIME_STATE = timeAcquiring ∧
      t.chip.time.twoStep = some (sq.toNat, s.chip.now) ∧ t.chip.now = s.chip.now ∧ t.mem = s.mem)) ∧
  (∀ (port : Fin 8) (master : W64) (sq : W16) (origin : W64) (freq corr : Int) (at_ : Nat) (s : State),
    s.chip.fromMaster port.val master.toNat = true → s.chip.time.twoStep = some (sq.toNat, at_) →
    Ends (.ptpFollowUp port master sq origin freq corr) s (fun t => t.chip.time.twoStep = none ∧
      t.chip.time.ms = (at_ : Int) - origin.toNat ∧ t.chip.time.reqSeq = (s.chip.time.reqSeq + 1) % 65536 ∧
      t.chip.out.getLast? = some (.ptp port.val 1) ∧ t.mem = s.mem)) ∧
  (∀ (port : Fin 8) (master : W64) (sq : W16) (rcv : W64) (t3 : Nat) (s : State),
    s.chip.fromMaster port.val master.toNat = true → s.chip.time.reqAt = some t3 → sq.toNat = s.chip.time.reqSeq →
    Ends (.ptpDelayResp port master sq rcv) s (fun t =>
      t.chip.time.delay = (s.chip.time.ms + ((rcv.toNat : Int) - t3)) / 2 ∧ t.chip.time.reqAt = none ∧ t.chip.regs = s.chip.regs ∧ t.mem = s.mem)) ∧
  (∀ (p : Nat) (s : State), ptpOn s.chip = true → s.chip.time.port = some p → Tbl.del s.chip.time.masters p = [] →
    s.chip.reg Obj.TIME_STATE = timeLocked →
    Ends .timeMasterTimeout s (fun t => t.chip.reg Obj.TIME_STATE = timeFree ∧ t.chip.time.port = none ∧
      t.chip.time.masters = [] ∧ t.mem = s.mem))

/-- FSYNC edges and REFCLK: what each leaves in FSYNC_STATE, the counters and the events. An edge within two reference cycles is
accepted; one further off is counted and, unless edges are LOST, shown as MISPLACED; an epoch without an edge is counted, and
the second in a row makes FSYNC_STATE LOST with its event; the start-up wait of step 7 ends with FSYNC_STATE LOST and its event;
loss of REFCLK raises its event once, and its return is noted. -/
def Obligations.FsyncCommands : Prop :=
  (∀ (cycles : Int) (s : State), s.chip.time.phased = true → cycles.natAbs ≤ 2 → s.chip.reg Obj.EPOCH_FIXED = 1 →
    Ends (.fsyncEdge cycles) s (fun t => t.chip.reg Obj.FSYNC_STATE = 0 ∧ t.chip.time.missed = 0 ∧ t.chip.frame = s.chip.frame ∧ t.mem = s.mem)) ∧
  (∀ (cycles : Int) (s : State), s.chip.time.phased = true → 2 < cycles.natAbs →
    Ends (.fsyncEdge cycles) s (fun t =>
      t.chip.reg Obj.CNT_FSYNC_MISPLACED = (s.chip.reg Obj.CNT_FSYNC_MISPLACED + 1) % 2 ^ 64 ∧
      t.chip.reg Obj.FSYNC_STATE = (if s.chip.reg Obj.FSYNC_STATE = 1 then 1 else 2) ∧ t.chip.frame = s.chip.frame ∧ t.mem = s.mem)) ∧
  (∀ (s : State), s.chip.time.phased = true →
    Ends .fsyncMissing s (fun t => t.chip.reg Obj.CNT_FSYNC_MISSING = (s.chip.reg Obj.CNT_FSYNC_MISSING + 1) % 2 ^ 64 ∧
      t.chip.time.missed = s.chip.time.missed + 1 ∧ (1 ≤ s.chip.time.missed → t.chip.reg Obj.FSYNC_STATE = 1) ∧
      (1 ≤ s.chip.time.missed → s.chip.reg Obj.FSYNC_STATE ≠ 1 → t.chip.said 0x0A04 0xFF []) ∧ t.mem = s.mem)) ∧
  (∀ (s : State), s.chip.time.phased = false → s.chip.reg Obj.STARTUP_STEP = 6 →
    Ends .fsyncStartupTimeout s (fun t => t.chip.reg Obj.FSYNC_STATE = 1 ∧ t.chip.said 0x0A04 0xFF [] ∧ t.mem = s.mem)) ∧
  (∀ (s : State), s.chip.time.refclkLost = false →
    Ends .refclkLost s (fun t => t.chip.time.refclkLost = true ∧ t.chip.said 0x0A06 0xFF [] ∧ t.chip.frame = s.chip.frame ∧ t.mem = s.mem)) ∧
  (∀ (s : State), Ends .refclkReturn s (fun t => t.chip.time.refclkLost = false ∧ t.chip.regs = s.chip.regs ∧ t.mem = s.mem))

/-! ### Light paths (chapter 10) -/

/-- Re-steers: accepted, refused, held, done; ratios and notices. With a leaseholder: a re-steer of engines without a window whose
staged plans break no rule puts them in force, each with its token; one that breaks a rule is REFUSED with its event and changes
no plan; one on an engine with a window is held; STEER_DONE ends a dropped re-steer and reports its classes. A ratio within its
bounds stages its plan, one beyond them is REFUSED with reason 8. A notice of 1 to 1,000 ms names its engines, one of 0 is
answered RANGE, and it expires. -/
def Obligations.Steering : Prop :=
  (∀ (r : Req) (engines : Byte) (token : W16) (s : State) (inst : Nat), let c := s.chip
    let key := Obj.STEER_CONTROL
    let ks := setBits 8 engines.toNat
    s.admits r key (wr 4 (engines.toNat + token.toNat * 65536)) inst = true →
    (c.reg Obj.LEASE_HOLDER = 0 → Ends (.steerControl r engines token) s (fun t => t.chip.blobs = c.blobs ∧ t.chip.engines = c.engines ∧
      t.answers r key rcState ∧ t.mem = s.mem)) ∧
    (c.reg Obj.LEASE_HOLDER ≠ 0 →
      (ks.all (fun k => !c.windowOn k && c.planRefusal k (c.staged k) = 0) = true → Ends (.steerControl r engines token) s (fun t =>
        (∀ k ∈ ks, t.chip.activePlan k = c.staged k ∧ t.chip.reg (atIdx Obj.STEER_TOKEN k) = token.toNat ∧ (t.chip.engine k).steer.isSome = true) ∧
        t.chip.reg Obj.CNT_RESTEERS = (c.reg Obj.CNT_RESTEERS + 1) % 2 ^ 64 ∧ t.answers r key rcOK ∧ t.mem = s.mem)) ∧
      (ks.all (fun k => !c.windowOn k) = true → ks.any (fun k => c.planRefusal k (c.staged k) != 0) = true →
        Ends (.steerControl r engines token) s (fun t => t.chip.blobs = c.blobs ∧ t.chip.engines = c.engines ∧ t.chip.said 0x0802 0xFF [] ∧
          t.answers r key rcRefused ∧ t.mem = s.mem)) ∧
      (∀ k, ks.find? c.windowOn = some k → Ends (.steerControl r engines token) s (fun t => t.chip.blobs = c.blobs ∧
        (t.chip.engine k).held = (c.engine k).held ++ [(engines.toNat, token.toNat)] ∧ t.answers r key rcOK ∧ t.mem = s.mem)))) ∧
  (∀ (r : Req) (engine : Fin 8) (ratio : W32) (s : State) (inst : Nat),
    let key := atIdx Obj.STEER_RATIO engine.val
    let n := fun (i : Nat) => fld ratio.toNat (5 * i + 4) (5 * i)
    let good := n 0 ≤ 16 ∧ n 1 ≤ 16 ∧ n 2 ≤ 16 ∧ n 3 ≤ 16 ∧ n 0 + n 1 + n 2 + n 3 ≤ 32
    s.admits r key (wr 4 ratio.toNat) inst = true → fld ratio.toNat 31 20 = 0 →
    (good → Ends (.steerRatio r engine ratio) s (fun t => t.chip.staged engine.val = fillRatio (n 0) (n 1) (n 2) (n 3) ∧
      t.chip.activePlan engine.val = s.chip.activePlan engine.val ∧ t.answers r key rcOK ∧ t.mem = s.mem)) ∧
    (¬good → Ends (.steerRatio r engine ratio) s (fun t => t.chip.blobs = s.chip.blobs ∧ t.chip.reg Obj.STEER_REFUSE_REASON = 8 ∧
      t.answers r key rcRefused ∧ t.mem = s.mem))) ∧
  (∀ (engine : Fin 8) (st : Steer) (s : State), (s.chip.engine engine.val).steer = some st → st.dropped = true →
    Ends (.steerDone engine) s (fun t => (t.chip.engine engine.val).steer = none ∧ t.chip.lanes = s.chip.lanes ∧ t.mem = s.mem ∧
      t.chip.said 0x0801 0xFF [(1, engine.val), (4, s.chip.reg (atIdx Obj.STEER_GEN engine.val)), (2, st.token),
        (4, t.chip.reg (atIdx Obj.STEER_READY engine.val)), (4, t.chip.reg (atIdx Obj.STEER_AWAIT_LIGHT engine.val)),
        (4, t.chip.reg (atIdx Obj.STEER_SETTLING engine.val)), (4, t.chip.reg (atIdx Obj.STEER_FAILED engine.val))])) ∧
  (∀ (r : Req) (engines : Byte) (ms : W16) (s : State) (inst : Nat),
    s.admits r Obj.OCS_NOTICE (wr 4 (engines.toNat + ms.toNat * 256)) inst = true →
    (1 ≤ ms.toNat → ms.toNat ≤ 1000 → Ends (.ocsNotice r engines ms) s (fun t => t.chip.notice = engines.toNat ∧
      t.answers r Obj.OCS_NOTICE rcOK ∧ t.chip.regs = s.chip.regs ∧ t.mem = s.mem)) ∧
    (ms.toNat = 0 → Ends (.ocsNotice r engines ms) s (fun t => t.chip.notice = s.chip.notice ∧ t.answers r Obj.OCS_NOTICE rcRange ∧ t.mem = s.mem))) ∧
  (∀ s : State, Ends .ocsNoticeExpire s (fun t => t = s.on (fun c => { c with notice := 0 })))

/-- Col pairs, failed engines, notch chiplets and the record of failures. Forcing a pair in ENGINE to bypass starts its move, and a
move that ends is counted with its event; an engine that fails with a notch chiplet standing by is recorded and falls back to
it, without one it is lost at the next boundary with its event; a retirement request declares the engine failed; a fallback that
completes and a notch chiplet that fails leave the states the spec names; a SERVICE write clears the record's bits it writes as
0. -/
def Obligations.ColAndEngines : Prop :=
  (∀ (r : Req) (mask : W16) (s : State) (inst : Nat), s.admits r Obj.COL_FORCE_BYPASS (wr 2 mask.toNat) inst = true → s.chip.supDown = false →
    Ends (.colForceBypass r mask) s (fun t => t.chip.reg Obj.COL_FORCE_BYPASS = mask.toNat ∧ t.answers r Obj.COL_FORCE_BYPASS rcOK ∧ t.mem = s.mem ∧
      ∀ n, n < 16 → bitAt mask.toNat n = true → bitAt (s.chip.reg Obj.COL_FORCE_BYPASS) n = false → s.chip.reg (Obj.COL_STATE + n) = 1 →
        t.chip.reg (Obj.COL_STATE + n) = 3 ∧ Tbl.get t.chip.colTarget 7 n = 0)) ∧
  (∀ (pair : Fin 16) (s : State), s.chip.reg (Obj.COL_STATE + pair.val) = 3 → Tbl.get s.chip.colTarget 0 pair.val < 3 →
    Ends (.colMoved pair) s (fun t => t.chip.reg (Obj.COL_STATE + pair.val) = Tbl.get s.chip.colTarget 0 pair.val ∧
      t.chip.reg Obj.CNT_COL_MOVES = (s.chip.reg Obj.CNT_COL_MOVES + 1) % 2 ^ 64 ∧ t.chip.said 0x0803 0xFF [] ∧ t.mem = s.mem)) ∧
  (∀ (engine : Fin 8) (s : State), let k := engine.val
    (s.chip.engine k).declared = false → s.chip.extSoon (Obj.ENGINE_STATE + k) ≠ 2 →
    (s.chip.reg Obj.NOTCH_EN = 1 → s.chip.reg (Obj.NOTCH_STATE + notchOf k) = 0 → Ends (.engineFailed engine) s (fun t =>
      (t.chip.engine k).declared = true ∧ (t.chip.engine k).fallback = true ∧ t.chip.reg (Obj.NOTCH_STATE + notchOf k) = 1 ∧
      bitAt (t.chip.reg Obj.ENGINE_FAIL_RECORD) k = true ∧ t.mem = s.mem)) ∧
    (s.chip.reg Obj.NOTCH_EN = 0 → Ends (.engineFailed engine) s (fun t => (t.chip.engine k).declared = true ∧
      t.chip.extSoon (Obj.ENGINE_STATE + k) = 2 ∧ bitAt (t.chip.reg Obj.ENGINE_FAIL_RECORD) k = true ∧ t.chip.said 0x0806 0xFF [] ∧ t.mem = s.mem))) ∧
  (∀ (r : Req) (engine : Byte) (s : State) (inst : Nat), s.admits r Obj.ENGINE_RETIRE_REQ (wr 1 engine.toNat) inst = true →
    (engine.toNat < 8 → s.chip.extSoon (Obj.ENGINE_STATE + engine.toNat) ≠ 2 → Ends (.engineRetireReq r engine) s (fun t =>
      (t.chip.engine engine.toNat).declared = true ∧ t.answers r Obj.ENGINE_RETIRE_REQ rcOK ∧ t.mem = s.mem)) ∧
    (8 ≤ engine.toNat → Ends (.engineRetireReq r engine) s (fun t => t.chip.engines = s.chip.engines ∧
      t.answers r Obj.ENGINE_RETIRE_REQ rcRange ∧ t.mem = s.mem))) ∧
  (∀ (engine : Fin 8) (s : State), let k := engine.val
    (s.chip.engine k).fallback = true → s.chip.reg (Obj.NOTCH_STATE + notchOf k) = 1 →
    Ends (.notchEngaged engine) s (fun t => t.chip.reg (Obj.NOTCH_STATE + notchOf k) = 2 ∧ t.chip.reg (Obj.NOTCH_TARGET + notchOf k) = k ∧
      t.chip.extSoon (Obj.ENGINE_STATE + k) = 1 ∧ t.chip.said 0x0805 0xFF [] ∧
      t.chip.reg Obj.CNT_ENGINE_FALLBACKS = (s.chip.reg Obj.CNT_ENGINE_FALLBACKS + 1) % 2 ^ 64 ∧ t.mem = s.mem)) ∧
  (∀ (notch : Fin 2) (s : State), let n := notch.val
    (s.chip.reg (Obj.NOTCH_STATE + n) = 0 → Ends (.notchFailed notch) s (fun t => t = s.on (fun c => c.setReg (Obj.NOTCH_STATE + n) 3))) ∧
    (∀ k, k < 8 → s.chip.reg (Obj.NOTCH_STATE + n) = 2 → s.chip.coreEngine (8 + n) = some k → Ends (.notchFailed notch) s (fun t =>
      t.chip.reg (Obj.NOTCH_STATE + n) = 3 ∧ t.chip.reg (Obj.NOTCH_TARGET + n) = 0xFF ∧ t.chip.extSoon (Obj.ENGINE_STATE + k) = 2 ∧
      t.chip.said 0x0806 0xFF [] ∧ t.mem = s.mem))) ∧
  (∀ (r : Req) (mask : Byte) (s : State) (inst : Nat), s.admits r Obj.ENGINE_FAIL_RECORD (wr 1 mask.toNat) inst = true →
    Ends (.engineFailRecordClear r mask) s (fun t => t.answers r Obj.ENGINE_FAIL_RECORD rcOK ∧ t.mem = s.mem ∧
      ∀ b, b < 8 → bitAt (t.chip.reg Obj.ENGINE_FAIL_RECORD) b = (bitAt (s.chip.reg Obj.ENGINE_FAIL_RECORD) b && bitAt mask.toNat b)))

/-- Lasers and spares: an abrupt failure, a locked and a failed spare, a window's missing acknowledgements and its end. An abrupt
failure of a laser leaves it FAILED and tunes the free spare to its wavelength; a spare that locks for it feeds at once,
counted, with its event, and one that locks for a fade waits for its window; a spare that fails without a swap is out of use; a
lane whose acknowledgements have not come is switched unannounced; at the end of a window its paused lane is ACTIVE and the swap
is counted and over. -/
def Obligations.LaserSwaps : Prop :=
  (∀ (source : Fin 10) (wave : Fin 16) (x : Nat) (s : State), let o := source.val
    let n := wave.val
    s.chip.freeSpare o = some x → (List.range 2).find? (fun x => s.chip.reg (spareKey o x) = n + 0x20) = none → s.chip.swapOf o n = none →
    s.chip.supDown = false →
    Ends (.laserAbruptFailure source wave) s (fun t => t.chip.reg (laserKey o n) = 3 ∧ t.chip.reg (spareKey o x) = n ∧
      t.chip.swaps = s.chip.swaps ++ [{ src := o, wave := n, spare := x, abrupt := true }] ∧ t.mem = s.mem)) ∧
  (∀ (source : Fin 10) (spare : Fin 2) (w : Swap) (s : State), let key := spareKey source.val spare.val
    s.chip.swaps.find? (fun w => w.src = source.val && w.spare = spare.val && w.stage = 0) = some w → w.wave < 16 →
    (w.abrupt = true → Ends (.spareLocked source spare) s (fun t => t.chip.reg key = w.wave + 0x20 ∧ (∀ v ∈ t.chip.swaps, sameSwap v w = false) ∧
      t.chip.reg Obj.CNT_LASER_SWAPS = (s.chip.reg Obj.CNT_LASER_SWAPS + 1) % 2 ^ 64 ∧ t.chip.said 0x0808 0xFF [] ∧ t.mem = s.mem)) ∧
    (w.abrupt = false → Ends (.spareLocked source spare) s (fun t => t.chip.reg key = w.wave + 0x10 ∧
      (∃ v ∈ t.chip.swaps, sameSwap v w = true ∧ v.stage = 1) ∧ t.mem = s.mem))) ∧
  (∀ (source : Fin 10) (spare : Fin 2) (s : State),
    s.chip.swaps.find? (fun w => w.src = source.val && w.spare = spare.val && !w.opened) = none →
    Ends (.spareFailed source spare) s (fun t => t = s.on (fun c => c.setReg (spareKey source.val spare.val) 0xFE))) ∧
  (∀ (source : Fin 10) (wave : Fin 16) (link : Fin 64) (w : Swap) (i : Nat) (s : State), s.chip.swapOf source.val wave.val = some w →
    s.chip.fedLanes source.val wave.val = [i] → (s.chip.lane i).link = some link.val → (s.chip.lane i).swapAcked = false →
    s.chip.reg Obj.SWAP_ACK_WAIT ≤ (s.chip.lane i).swapTries →
    Ends (.swapAckWaitExpired source wave link) s (fun t => (t.chip.lane i).swapAt = none ∧ (t.chip.lane i).swapTries = 0 ∧
      (∃ v ∈ t.chip.swaps, sameSwap v w = true ∧ i ∈ v.unannounced) ∧ t.mem = s.mem)) ∧
  (∀ (w : Swap) (i : Nat) (s : State), s.chip.swaps = [w] → w.opened = true → s.chip.fedLanes w.src w.wave = [i] → i < 256 →
    (s.chip.lane i).state = lanePaused → (∀ p ∈ s.chip.lanes, p.2.peerSwapAt ≠ some s.chip.frame) → (∀ k, k < 8 → (s.chip.engine k).held = []) →
    Ends (.swapWindowEnd []) s (fun t => (t.chip.lane i).state = laneActive ∧ (t.chip.lane i).swapAt = none ∧ t.chip.swaps = [] ∧
      t.chip.reg (Obj.CNT_SWAP_WINDOWS + i) = (s.chip.reg (Obj.CNT_SWAP_WINDOWS + i) + 1) % 2 ^ 64 ∧
      t.chip.reg Obj.CNT_LASER_SWAPS = (s.chip.reg Obj.CNT_LASER_SWAPS + 1) % 2 ^ 64 ∧ t.mem = s.mem))

/-! ### Traverse (chapter 11) -/

/-- The operator's writes to a loop: its mode, its coefficients, class and output, and the saved set. A mode that Table 11.7 allows,
on a loop whose lane nothing is changing and, from OPEN, within the budget, is the loop's mode; a write to no loop is REFUSED;
an OPEN loop takes a coefficient block within its rules, a class within the budget and an output, a loop that is not OPEN
refuses the first two with a count and answers READ_ONLY to the third; the saved set is what differs from the factory, or none. -/
def Obligations.LoopWrites : Prop :=
  (∀ (r : Req) (core : Fin 11) (inst : Fin 512) (s : State) (at_ : Nat), let o := core.val
    let i := inst.val
    let l := s.chip.loop o i
    let key := loopObj Obj.LOOP_MODE o i
    let may := fun (m : Nat) => s.admits r key (wr 1 m) at_ = true ∧ (loopType o i).isSome = true ∧ (isRing o i && s.chip.ringBusy o i) = false ∧
      modeStep l.mode m = true ∧ (l.mode = modeOpen → m ≠ modeOpen → s.chip.budgetWith o i (fun l => { l with mode := m }) = true)
    let is := fun (m : Nat) (t : State) => (t.chip.loop o i).mode = m ∧ t.answers r key rcOK ∧ t.mem = s.mem
    (may modeOpen → Ends (.loopModeOpen r core inst) s (is modeOpen)) ∧
    (may modeSearch → hasSearch o i = true → Ends (.loopModeSearch r core inst) s (is modeSearch)) ∧
    (may modeTrack → Ends (.loopModeTrack r core inst) s (is modeTrack)) ∧
    (may modeHold → Ends (.loopModeHold r core inst) s (is modeHold)) ∧
    (s.admits r key (wr 1 modeHold) at_ = true → loopType o i = none → Ends (.loopModeHold r core inst) s (fun t =>
      t.chip.loops = s.chip.loops ∧ t.chip.reg Obj.TRAVERSE_REFUSE_REASON = trNoLoop ∧ t.answers r key rcRefused ∧ t.mem = s.mem))) ∧
  (∀ (r : Req) (core : Fin 11) (inst : Fin 512) (s : State) (at_ : Nat), let o := core.val
    let i := inst.val
    let l := s.chip.loop o i
    (loopType o i).isSome = true →
    (∀ block, s.admits r (loopObj Obj.LOOP_COEF o i) block at_ = true →
      (l.mode = modeOpen → coefOk block = true → Ends (.loopCoefWrite r core inst block) s (fun t =>
        t.chip.loop o i = { l with coef := some block } ∧ t.answers r (loopObj Obj.LOOP_COEF o i) rcOK ∧ t.mem = s.mem)) ∧
      (l.mode ≠ modeOpen → Ends (.loopCoefWrite r core inst block) s (fun t => t.chip.loops = s.chip.loops ∧
        t.chip.reg (Obj.CNT_COEF_REFUSED + o) = (s.chip.reg (Obj.CNT_COEF_REFUSED + o) + 1) % 2 ^ 64 ∧
        t.chip.reg Obj.TRAVERSE_REFUSE_REASON = trNotOpen ∧ t.answers r (loopObj Obj.LOOP_COEF o i) rcRefused ∧ t.mem = s.mem))) ∧
    (∀ cls : Byte, s.admits r (loopObj Obj.LOOP_CLASS o i) (wr 1 cls.toNat) at_ = true → l.mode = modeOpen → cls.toNat ≤ 2 →
      s.chip.budgetWith o i (fun l => { l with cls := some cls.toNat }) = true → Ends (.loopClassWrite r core inst cls) s (fun t =>
        t.chip.loop o i = { l with cls := some cls.toNat } ∧ t.answers r (loopObj Obj.LOOP_CLASS o i) rcOK ∧ t.mem = s.mem)) ∧
    (∀ value : W32, s.admits r (loopObj Obj.LOOP_OUTPUT o i) (wr 4 value.toNat) at_ = true →
      (l.mode = modeOpen → Ends (.loopOutputWrite r core inst value) s (fun t => t.chip.loop o i = { l with uS := value } ∧
        t.answers r (loopObj Obj.LOOP_OUTPUT o i) rcOK ∧ t.mem = s.mem)) ∧
      (l.mode ≠ modeOpen → Ends (.loopOutputWrite r core inst value) s (fun t => t.chip.loops = s.chip.loops ∧
        t.answers r (loopObj Obj.LOOP_OUTPUT o i) rcReadOnly ∧ t.mem = s.mem)))) ∧
  (∀ (r : Req) (s : State) (at_ : Nat),
    (s.admits r Obj.TRAVERSE_STORE (wr 1 1) at_ = true → Ends (.traverseStoreSave r) s (fun t => t.chip.travSaved = some s.chip.travSet ∧
      t.chip.loops = s.chip.loops ∧ t.answers r Obj.TRAVERSE_STORE rcOK ∧ t.mem = s.mem)) ∧
    (s.admits r Obj.TRAVERSE_STORE (wr 1 2) at_ = true → Ends (.traverseStoreErase r) s (fun t => t.chip.travSaved = none ∧
      t.chip.loops = s.chip.loops ∧ t.answers r Obj.TRAVERSE_STORE rcOK ∧ t.mem = s.mem)))

/-- What a loop and its core do at the end of a sweep, a failed hand-over, a tone check, overruns, and a core's own events. A sweep
whose peak stands 3 dB above its lowest value hands over to TRACK at the peak, one that does not is a lock failure;
HANDOVER_LIMIT failed hand-overs are one, with their event; a matching tone verifies the ring and gives its map the output,
another is a counted mislock; an overrun keeps the output and is counted, the eighth holds the loop; a clean core relaxes its
decimation; a saturated and a failed core are reported once; a step boundary starts a waiting controller, and two periods
without one stop it. -/
def Obligations.LoopEvents : Prop :=
  (∀ (core : Fin 11) (inst : Fin 512) (s : State), let o := core.val
    let i := inst.val
    let l := s.chip.loop o i
    let k := s.chip.coef o i
    let now := fun (t : State) => t.chip.loop o i
    (∀ sig out low, l.mode = modeSearch → l.points k < l.sweep → l.best = some (sig, out) → l.low = some low →
      (f32Le (f32OfInt 3) (f32Sub sig low) = true → Ends (.searchSweepEnd core inst) s (fun t => (now t).mode = modeTrack ∧
        (now t).output = k.limit l.output out ∧ (now t).uS = k.limit l.output out ∧ t.chip.regs = s.chip.regs ∧ t.mem = s.mem)) ∧
      (f32Le (f32OfInt 3) (f32Sub sig low) = false → l.fails < 2 → Ends (.searchSweepEnd core inst) s (fun t =>
        (now t).fails = l.fails + 1 ∧ (now t).start = l.origin ∧ t.chip.regs = s.chip.regs ∧ t.mem = s.mem))) ∧
    (l.mode = modeSearch → s.chip.reg Obj.HANDOVER_LIMIT ≤ l.aborts → s.chip.mayTrigger o i 5 = true → l.fails < 2 →
      Ends (.handoverFailed core inst) s (fun t => (now t).fails = l.fails + 1 ∧ (now t).aborts = 0 ∧ t.chip.said 0x0904 0xFF [] ∧ t.mem = s.mem)) ∧
    (∀ depth : W32, isRing o i = true → l.mode = modeTrack → l.stage = 0 → s.chip.mayTrigger o i 4 = true →
      f32Le (BitVec.ofNat 32 (s.chip.reg Obj.TONE_MIN_DEPTH)) depth = true → ∀ tone : Fin 16,
      (tone.val = i % 128 / 4 % 16 → Ends (.toneCheckDone core inst (some tone) depth) s (fun t => (now t).verified = true ∧
        (now t).tone = tone.val ∧ (now t).output = l.output ∧ t.chip.mapOf o i tone.val = l.output ∧ t.chip.regs = s.chip.regs ∧ t.mem = s.mem)) ∧
      (tone.val ≠ i % 128 / 4 % 16 → l.fails < 2 → Ends (.toneCheckDone core inst (some tone) depth) s (fun t => (now t).verified = false ∧
        (now t).fails = l.fails + 1 ∧ t.chip.reg (Obj.CNT_MISLOCKS + o) = (s.chip.reg (Obj.CNT_MISLOCKS + o) + 1) % 2 ^ 64 ∧ t.mem = s.mem))) ∧
    ((loopType o i).isSome = true → Ends (.loopOverrun core inst false) s (fun t => (now t).overruns = l.overruns + 1 ∧ (now t).output = l.output ∧
      (t.chip.core o).overFrame = true ∧ t.chip.reg (Obj.CNT_OVERRUNS + o) = (s.chip.reg (Obj.CNT_OVERRUNS + o) + 1) % 2 ^ 64 ∧ t.mem = s.mem)) ∧
    (8 ≤ l.overruns → l.mode = modeSearch ∨ l.mode = modeTrack → s.chip.mayTrigger o i 3 = true → Ends (.loopHold core inst) s (fun t =>
      (now t).mode = modeHold ∧ (now t).output = l.output ∧
      t.chip.reg (Obj.CNT_LOOP_HOLDS + o) = (s.chip.reg (Obj.CNT_LOOP_HOLDS + o) + 1) % 2 ^ 64 ∧ t.mem = s.mem))) ∧
  (∀ (core : Fin 11) (s : State), let o := core.val
    let level := s.chip.reg (Obj.CORE_DECIMATION + o)
    let p := s.chip.reg (Obj.RC_PERIOD + o)
    (0 < level → s.chip.reg Obj.DECIM_RELAX ≤ (s.chip.core o).clean → Ends (.decimationRelax core) s (fun t =>
      t.chip.reg (Obj.CORE_DECIMATION + o) = level - 1 ∧ (t.chip.core o).clean = 0 ∧ t.chip.said 0x0905 0xFF [] ∧ t.mem = s.mem)) ∧
    (level = 4 → 128 ≤ (s.chip.core o).satFrames → (s.chip.core o).satSaid = false → Ends (.coreSaturated core) s (fun t =>
      (t.chip.core o).satSaid = true ∧ t.chip.said 0x0906 0xFF [] ∧ t.mem = s.mem)) ∧
    (∀ start, (s.chip.core o).rcStart = some start → p ≠ 0 → start + 2 * p ≤ s.chip.frame → Ends (.rcTimeout core) s (fun t =>
      t.chip.reg (Obj.RC_PERIOD + o) = 0 ∧ (t.chip.core o).rcStart = none ∧ t.chip.loops = s.chip.loops ∧ t.chip.said 0x0908 0xFF [] ∧ t.mem = s.mem)) ∧
    (∀ (part : Fin 8) (frame : W48), s.chip.stepRef o = some part.val → (s.chip.core o).rcStart = none →
      Ends (.rcStepBoundary part frame) s (fun t => (t.chip.core o).rcStart = some frame.toNat ∧ t.mem = s.mem))) ∧
  (∀ (core : Fin 10) (s : State), coreFailed s.chip core.val = false → Ends (.loopCoreFailed core) s (fun t =>
    t.chip.reg (Obj.CORE_STATE + core.val) = 1 ∧ t.mem = s.mem ∧
    (core.val < 8 → s.chip.extSoon (Obj.ENGINE_STATE + core.val) ≠ 2 → (t.chip.engine core.val).declared = true)))

/-- Injection and capture blocks, a capture's trigger and its end. A block for a loop there is, within its rules and the budget, is
kept and starts its generator or arms its buffer afresh; beyond the budget it is REFUSED; an armed buffer is triggered, and one
that is full is DONE with its event. -/
def Obligations.InjectAndCapture : Prop :=
  (∀ (r : Req) (core : Fin 11) (gen : Fin 2) (block : BitVec 256) (s : State) (inst : Nat), let o := core.val
    let key := injKey o gen.val
    let bs := wr 32 block.toNat
    let c' := (s.chip.setBlob modInst key bs).updCore o (fun x => x.setGen gen.val {})
    s.admits r key bs inst = true → (loopType o (leAt bs 0 2)).isSome = true →
    injectOk bs ((s.chip.loop o (leAt bs 0 2)).classOf o (leAt bs 0 2)) = true →
    (byteAt bs 2 = 0 ∨ fits (c'.jobs o false (fun _ l => l)) = true → Ends (.injectWrite r core gen block) s (fun t =>
      t.chip.blob modInst key = bs ∧ (t.chip.core o).gen gen.val = {} ∧ t.answers r key rcOK ∧ t.chip.loops = s.chip.loops ∧ t.mem = s.mem)) ∧
    (byteAt bs 2 ≠ 0 → fits (c'.jobs o false (fun _ l => l)) = false → Ends (.injectWrite r core gen block) s (fun t =>
      t.chip.blobs = s.chip.blobs ∧ t.chip.cores = s.chip.cores ∧ t.chip.reg Obj.TRAVERSE_REFUSE_REASON = trBudget ∧
      t.answers r key rcRefused ∧ t.mem = s.mem))) ∧
  (∀ (r : Req) (core : Fin 11) (buffer : Fin 2) (block : BitVec 128) (s : State) (inst : Nat), let o := core.val
    let g := buffer.val
    let key := capKey o g
    let bs := wr 16 block.toNat
    let c' := (s.chip.setBlob modInst key bs).setReg (capState o g) 1
    s.admits r key bs inst = true → (loopType o (leAt bs 0 2)).isSome = true → captureOk bs = true →
    (byteAt bs 2 = 0 → Ends (.captureWrite r core buffer block) s (fun t => t.chip.blob modInst key = bs ∧ t.chip.reg (capState o g) = 0 ∧
      t.chip.cores = s.chip.cores ∧ t.answers r key rcOK ∧ t.mem = s.mem)) ∧
    (byteAt bs 2 ≠ 0 → fits (c'.jobs o false (fun _ l => l)) = true → Ends (.captureWrite r core buffer block) s (fun t =>
      t.chip.blob modInst key = bs ∧ t.chip.reg (capState o g) = 1 ∧ (t.chip.core o).cap g = {} ∧ t.answers r key rcOK ∧ t.mem = s.mem)) ∧
    (byteAt bs 2 ≠ 0 → fits (c'.jobs o false (fun _ l => l)) = false → Ends (.captureWrite r core buffer block) s (fun t =>
      t.chip.blobs = s.chip.blobs ∧ t.chip.reg (capState o g) = s.chip.reg (capState o g) ∧ t.answers r key rcRefused ∧ t.mem = s.mem))) ∧
  (∀ (core : Fin 11) (buffer : Fin 2) (s : State), let o := core.val
    let g := buffer.val
    (s.chip.reg (capState o g) = 1 → byteAt (s.chip.blob modInst (capKey o g)) 2 ≠ 2 →
      Ends (.captureTrigger core buffer) s (fun t => t = s.on (fun c => c.setReg (capState o g) 2))) ∧
    (s.chip.reg (capState o g) = 2 → 16384 ≤ ((s.chip.core o).cap g).pre.length + ((s.chip.core o).cap g).recs.length →
      Ends (.captureDone core buffer) s (fun t => t.chip.reg (capState o g) = 3 ∧ t.chip.cores = s.chip.cores ∧ t.chip.said 0x0909 0xFF [] ∧ t.mem = s.mem)))

/-! ### Calibration (chapter 12) -/

/-- A calibration run: its start, its measurement, one step, its verification, and what ends it. A temperature that has moved by
more than CAL_TEMP_DELTA starts a run of an idle, enabled group whose unit is there, a smaller change only reads the sensor; a
measured lane within its range goes to APPLY with its steps, none with data ends NODATA with its event, a lane without data
leaves; the last step moves its parameter by one and goes to VERIFY; a verification that passes ends DONE with its event. -/
def Obligations.CalibrationRuns : Prop :=
  (∀ (group : Fin 58) (temp : W32) (s : State), let g := group.val
    let last := BitVec.ofNat 32 (s.chip.reg (Obj.CAL_LAST_TEMP + g))
    let moved := f32Lt (BitVec.ofNat 32 (s.chip.reg Obj.CAL_TEMP_DELTA)) (f32Abs (f32Sub temp last))
    (moved = true → s.chip.calState g = calIdle → bitAt (s.chip.reg Obj.CAL_ENABLE) g = true → s.chip.calBlocked g = false →
      Ends (.calTrigger group temp) s (fun t => t.chip.calState g = calMeasure ∧ (t.chip.calRun g).temp = temp ∧ (t.chip.calRun g).lanes = [] ∧
        t.chip.reg (Obj.CNT_CAL_RUNS + g) = (s.chip.reg (Obj.CNT_CAL_RUNS + g) + 1) % 2 ^ 64 ∧ t.mem = s.mem)) ∧
    (moved = false → Ends (.calTrigger group temp) s (fun t => t = s.on (fun c => { c with calTemps := Tbl.put c.calTemps g temp })))) ∧
  (∀ (group : Fin 58) (d : CalData) (s : State), let g := group.val
    s.chip.calState g = calMeasure →
    (d.data = true → d.lane.toNat ∉ (s.chip.calRun g).gone → d.inRange = true →
      d.steps.all (fun x => decide (x.2.natAbs ≤ s.chip.reg Obj.CAL_MAX_STEPS)) = true →
      Ends (.calMeasureDone group [d]) s (fun t => t.chip.calState g = calApply ∧ t.chip.calVals = s.chip.calVals ∧ t.mem = s.mem ∧
        (t.chip.calRun g).lanes.map (fun l => (l.lane, l.todo)) = [(d.lane.toNat, calTodo d.steps)])) ∧
    Ends (.calMeasureDone group []) s (fun t => t.chip.calState g = calIdle ∧ t.chip.reg (Obj.CAL_LAST_RESULT + g) = calNoData ∧
      t.chip.said 0x0E04 0xFF [] ∧ t.mem = s.mem) ∧
    Ends (.calNodataTimeout group d.lane false) s (fun t => t.chip.calState g = calMeasure ∧
      (t.chip.calRun g).gone = (s.chip.calRun g).gone ++ [d.lane.toNat] ∧ t.mem = s.mem) ∧
    Ends (.calNodataTimeout group d.lane true) s (fun t => t.chip.calState g = calIdle ∧ t.chip.reg (Obj.CAL_LAST_RESULT + g) = calNoData ∧
      t.chip.said 0x0E04 0xFF [] ∧ t.mem = s.mem)) ∧
  (∀ (group : Fin 58) (l : CalLane) (p : Nat) (resid : W32) (s : State), let g := group.val
    s.chip.calState g = calApply → (s.chip.calRun g).lanes = [l] → l.todo = [(p, 1)] → s.chip.calPaused g l.lane = false →
    f32Lt (BitVec.ofNat 32 (s.chip.reg (Obj.CAL_MAX_RESIDUAL + calClass g))) resid = false →
    Ends (.calParamStep group resid) s (fun t => t.chip.calState g = calVerify ∧
      Tbl.get t.chip.calVals 0 (calKey g l.lane p) = Tbl.get s.chip.calVals 0 (calKey g l.lane p) + 1 ∧
      t.chip.reg (Obj.CNT_CAL_STEPS + g) = (s.chip.reg (Obj.CNT_CAL_STEPS + g) + 1) % 2 ^ 64 ∧ t.mem = s.mem)) ∧
  (∀ (group : Fin 58) (l : CalLane) (p : Nat) (resid : W32) (s : State), let g := group.val
    s.chip.calState g = calRollback → (s.chip.calRun g).lanes = [l] → l.moved = [(p, 1)] → s.chip.calPaused g l.lane = false →
    Ends (.calParamStep group resid) s (fun t => t.chip.calState g = calIdle ∧ t.chip.reg (Obj.CAL_LAST_RESULT + g) = calRolledBack ∧
      Tbl.get t.chip.calVals 0 (calKey g l.lane p) = Tbl.get s.chip.calVals 0 (calKey g l.lane p) - 1 ∧ t.chip.said 0x0E03 0xFF [] ∧ t.mem = s.mem)) ∧
  (∀ (group : Fin 58) (data : List CalData) (s : State), let g := group.val
    s.chip.calState g = calVerify →
    ((s.chip.calRun g).lanes.all (fun l => let f := calFigures data l; s.chip.calPasses g l f.1 f.2.1 f.2.2) = true →
      Ends (.calVerifyDone group data) s (fun t => t.chip.calState g = calIdle ∧ t.chip.reg (Obj.CAL_LAST_RESULT + g) = calDone ∧
        t.chip.reg (Obj.CAL_LAST_FRAME + g) = s.chip.frame % 2 ^ 64 ∧ t.chip.said 0x0E01 0xFF [] ∧ t.mem = s.mem)))

/-- CAL_REQUEST starts the idle groups it names, and CAL_ENABLE ends the runs of those it clears. An admitted CAL_REQUEST within 58
groups starts a run of every group it names that is idle, enabled and whose unit is there; an admitted CAL_ENABLE takes its
value and returns to IDLE every group it clears that is measuring or verifying; a CAL_REQUEST beyond 58 groups is answered
RANGE. -/
def Obligations.CalibrationRequests : Prop :=
  ∀ (r : Req) (mask : W64) (s : State) (inst : Nat),
    (s.admits r Obj.CAL_REQUEST (wr 8 mask.toNat) inst = true →
      (mask.toNat < 2 ^ 58 → Ends (.calRequest r mask) s (fun t => t.answers r Obj.CAL_REQUEST rcOK ∧ t.mem = s.mem ∧
        ∀ g, g < 58 → bitAt mask.toNat g = true → s.chip.calState g = calIdle → bitAt (s.chip.reg Obj.CAL_ENABLE) g = true →
          s.chip.calBlocked g = false → t.chip.calState g = calMeasure)) ∧
      (2 ^ 58 ≤ mask.toNat → Ends (.calRequest r mask) s (fun t => t.chip.calRuns = s.chip.calRuns ∧ t.answers r Obj.CAL_REQUEST rcRange ∧ t.mem = s.mem))) ∧
    (s.admits r Obj.CAL_ENABLE (wr 8 mask.toNat) inst = true →
      (mask.toNat < 2 ^ 58 → Ends (.calEnableWrite r mask) s (fun t => t.chip.reg Obj.CAL_ENABLE = mask.toNat ∧
        t.answers r Obj.CAL_ENABLE rcOK ∧ t.mem = s.mem ∧
        ∀ g, g < 58 → bitAt mask.toNat g = false → bitAt (s.chip.reg Obj.CAL_ENABLE) g = true →
          s.chip.calState g = calMeasure ∨ s.chip.calState g = calVerify → t.chip.calState g = calIdle)))

/-! ### Ethernet and RoCE (chapter 13) -/

/-- Ethernet ports: link up and down, training failures, the first router advertisement, pause frames. A TRAINING port whose link
comes up is UP with its event; an UP port that goes down is TRAINING, counted, with its event; a failed training is counted, and
the third of the epoch takes the port DOWN and out of ETH_PORT_MASK at the boundary; the first advertisement gives an UP port
its prefix and a later one changes nothing; a PAUSE frame on an UP port is only counted. -/
def Obligations.EthernetPorts : Prop :=
  ∀ (port : Fin 8) (s : State),
    let p := port.val
    (s.chip.eth p = ethTraining → s.chip.qps = [] →
      Ends (.ethLinkUp port) s (fun t => t.chip.eth p = ethUp ∧ t.chip.said 0x0F02 0xFF [] ∧ t.mem = s.mem)) ∧
    (s.chip.eth p = ethUp →
      Ends (.ethLinkDown port) s (fun t => t.chip.eth p = ethTraining ∧ t.chip.said 0x0F01 0xFF [] ∧
        t.chip.reg (Obj.CNT_ETH_LINK_DOWN + p) = (s.chip.reg (Obj.CNT_ETH_LINK_DOWN + p) + 1) % 2 ^ 64 ∧ t.chip.qps = s.chip.qps ∧ t.mem = s.mem) ∧
      Ends (.pauseFrameReceived port) s (fun t => t = s.on (fun c => c.bump Obj.CNT_PAUSE_IGNORED)) ∧
      (∀ pfx : W64, allZero (s.chip.blob modInst (Obj.ETH_PREFIX + p)) = true →
        Ends (.routerAdvertisement port pfx) s (fun t => t.chip.blob modInst (Obj.ETH_PREFIX + p) = leBytes 8 pfx.toNat ∧
          t.chip.regs = s.chip.regs ∧ t.mem = s.mem)) ∧
      (∀ pfx : W64, allZero (s.chip.blob modInst (Obj.ETH_PREFIX + p)) = false → Ends (.routerAdvertisement port pfx) s (fun t => t = s))) ∧
    (s.chip.eth p = ethTraining → Tbl.get s.chip.ethFails 0 p < 2 →
      Ends (.ethTrainingFailed port) s (fun t => t.chip.eth p = ethTraining ∧ Tbl.get t.chip.ethFails 0 p = Tbl.get s.chip.ethFails 0 p + 1 ∧
        t.chip.regs = s.chip.regs ∧ t.mem = s.mem)) ∧
    (s.chip.eth p = ethTraining → Tbl.get s.chip.ethFails 0 p = 2 →
      Ends (.ethTrainingFailed port) s (fun t => t.chip.eth p = ethDown ∧ bitAt (t.chip.extSoon Obj.ETH_PORT_MASK) p = false ∧ t.mem = s.mem))

/-- What an idle queue pair does with a packet it expects: a SEND, a WRITE, a READ request, and an access its regions do not allow.
The first packet of a SEND goes to the posted buffer and is acknowledged; a WRITE in one packet to a region that allows it is
written and acknowledged; a READ of at most one packet is answered with the bytes; the expected PSN advances; a WRITE or READ
that the regions do not allow is answered with a remote access NAK and changes nothing in memory; a SEND without a posted buffer
is answered receiver not ready. -/
def Obligations.RoceReceive : Prop :=
  ∀ (qp : Fin 8192) (psn : BitVec 24) (s : State),
    let q := qp.val
    let x := s.chip.qp q
    let k := qpPart q
    let said := fun (b : Nat) (t : State) => t.chip.out.getLast? = some (.roce q roceAck psn.toNat [BitVec.ofNat 8 b])
    s.chip.qpIdle q = true → psn.toNat = x.ePsn → x.recv = none → x.write = none →
    (∀ (data : List Byte) (s1 s2 : State) (e : List Byte),
      let p : Pkt := { kind := 0, psn := psn.toNat, pos := 0, data := data }
      let ring := leAt (s.chip.qpCfg q) 0x28 8
      (x.recvProd ≠ x.recvCons → ring ≠ 0 → s.chip.compRoom q = true → data.length = 4096 → 4096 ≤ leAt e 8 4 →
        (s.taking q p).rread k (s.chip.qpCtx q) (ring + 16 * (x.recvCons % s.chip.qpEntries q)) 16 = (s1, .ok e) →
        s1.rwrite k (s.chip.qpCtx q) (leAt e 0 8) data = (s2, .ok ()) →
        Ends (.roceSendReceived qp psn 0 data false) s (fun t => t.mem = s2.mem ∧ said 0 t ∧ (t.chip.qp q).ePsn = psnAdd x.ePsn 1 ∧
          (t.chip.qp q).recvCons = inc32 x.recvCons ∧ ((t.chip.qp q).recv.map (·.left)) = some (leAt e 8 4 - 4096))) ∧
      (x.recvProd = x.recvCons → Ends (.roceSendReceived qp psn 0 data false) s (fun t => t.mem = s.mem ∧ said 0x20 t ∧
        (t.chip.qp q).ePsn = x.ePsn ∧ (t.chip.qp q).recvCons = x.recvCons))) ∧
    (∀ (va : W64) (rkey : W32) (data : List Byte) (m : Msg) (s1 : State),
      let n := data.length
      let p : Pkt := { kind := 1, psn := psn.toNat, pos := 3, va := va.toNat, rkey := rkey.toNat, len := n, data := data }
      n ≤ 4096 →
      (s.chip.regionAccess k rkey.toNat va.toNat n true = some m → m.to_ = 0 → (s.taking q p).rwrite k m.ctx va.toNat data = (s1, .ok ()) →
        Ends (.roceWriteReceived qp psn 3 va rkey (BitVec.ofNat 32 n) data false) s (fun t => t.mem = s1.mem ∧ said 0 t ∧
          (t.chip.qp q).ePsn = psnAdd x.ePsn 1 ∧ (t.chip.qp q).write = none)) ∧
      (s.chip.regionAccess k rkey.toNat va.toNat n true = none →
        Ends (.roceWriteReceived qp psn 3 va rkey (BitVec.ofNat 32 n) data false) s (fun t => t.mem = s.mem ∧ said (0x60 + nakAccess) t ∧
          (t.chip.qp q).ePsn = x.ePsn))) ∧
    (∀ (va : W64) (rkey len : W32) (m : Msg) (s1 : State) (bs : List Byte),
      let p : Pkt := { kind := 2, psn := psn.toNat, va := va.toNat, rkey := rkey.toNat, len := len.toNat }
      len.toNat ≤ 4096 →
      (s.chip.regionAccess k rkey.toNat va.toNat len.toNat false = some m →
        (s.taking q p).rread k m.ctx va.toNat len.toNat = (s1, .ok bs) → bs.length = len.toNat →
        Ends (.roceReadRequest qp psn va rkey len none false) s (fun t => t.mem = s1.mem ∧ (t.chip.qp q).ePsn = psnAdd x.ePsn 1 ∧
          t.chip.out.getLast? = some (.roce q 0x10 psn.toNat bs))) ∧
      (s.chip.regionAccess k rkey.toNat va.toNat len.toNat false = none →
        Ends (.roceReadRequest qp psn va rkey len none false) s (fun t => t.mem = s.mem ∧ said (0x60 + nakAccess) t ∧
          (t.chip.qp q).ePsn = x.ePsn)))

/-- The requester's side of a queue pair: read data, acknowledgements, NAKs, timeouts, a fault waited out, a request done, a launch
time. The one outstanding READ of a packet is settled by its data in local memory; an acknowledgement settles what it covers; a
NAK for an invalid request puts the queue pair in ERROR; a retry beyond the count does so with RETRY; a held request whose fault
is waited out is answered with a remote access NAK; a settled request leaves and, without SIGNAL, owes no completion; a timed
request starts when its time has come. -/
def Obligations.RoceRequester : Prop :=
  ∀ (qp : Fin 8192) (psn : BitVec 24) (s : State),
    let q := qp.val
    let x := s.chip.qp q
    (∀ w : Wr, s.chip.qpIdle q = true → x.wrs = [w] → x.recv = none → w.st = none →
      (∀ (data : List Byte) (s1 : State), w.op = 1 → w.off = 1 → w.una = 0 → w.len = data.length → 1 ≤ data.length → data.length ≤ 4096 →
        w.psn = psn.toNat →
        (s.taking q { kind := 3, psn := psn.toNat, data := data }).rwrite (qpPart q) (s.chip.qpCtx q) w.local_ data = (s1, .ok ()) →
        Ends (.roceReadResponse qp psn data false) s (fun t => t.mem = s1.mem ∧ (t.chip.qp q).wrs = [{ w with una := 1 }])) ∧
      (w.op ≠ 1 → w.off = w.sends → Ends (.roceAck qp psn false) s (fun t =>
        (t.chip.qp q).wrs = [{ w with una := max w.una (w.covered psn.toNat) }] ∧ t.chip.out = s.chip.out ∧ t.mem = s.mem)) ∧
      (∀ kind : Fin 5, kind = 2 ∨ kind = 4 → Ends (.roceNak qp psn kind false) s (fun t => t.chip.qpState q = qpError ∧
        t.chip.said 0x0F03 (qpPart q) [] ∧ (∀ v ∈ (t.chip.qp q).wrs, v.settled = true) ∧ t.mem = s.mem)) ∧
      (w.una < w.off → w.una ≠ w.span → byteAt (s.chip.qpCfg q) 0x3C % 8 ≤ x.retries → Ends (.roceRetryTimeout qp) s (fun t =>
        t.chip.qpState q = qpError ∧ (t.chip.qp q).wrs = [{ w with st := some compRetry }] ∧ t.mem = s.mem))) ∧
    (∀ p : Pkt, s.chip.qpTakes q = true → s.chip.roceQuiet = true → x.waitAt = 1 → x.jobs = [p] → p.kind ≤ 2 → x.owed = [] → x.wrs = [] →
      x.launch = none → x.sendProd = x.sendCons →
      Ends (.roceFaultWaitExpired qp) s (fun t => (t.chip.qp q).waitAt = 0 ∧ (t.chip.qp q).jobs = [] ∧
        t.chip.out.getLast? = some (.roce q roceAck p.psn [BitVec.ofNat 8 (0x60 + nakAccess)]) ∧ t.mem = s.mem)) ∧
    (∀ (w : Wr) (rest : List Wr), s.chip.qpIdle q = true → x.wrs = w :: rest → w.settled = true → bitAt w.flags 0 = false →
      Ends (.workRequestDone qp) s (fun t => (t.chip.qp q).wrs = rest ∧ (t.chip.qp q).sendDone = inc32 x.sendDone ∧
        (t.chip.qp q).owed = [] ∧ t.mem = s.mem)) ∧
    (∀ w : Wr, s.chip.qpTakes q = true → s.chip.roceQuiet = true → x.waitAt = 0 → x.jobs = [] → x.owed = [] → x.wrs = [] → x.launch = some w →
      w.st = none → w.launch ≤ ({ s.chip with raw := s.chip.raw + 800 } : Chip).now → x.deny = false →
      s.chip.reg (Obj.ETH_LINK_STATE + s.chip.qpPort q) ≠ 2 → w.off = 0 → w.una = 0 →
      Ends (.launchTimeReached qp) s (fun t => (t.chip.qp q).launch = none ∧ (t.chip.qp q).wrs = [{ w with psn := x.sPsn }] ∧
        (t.chip.qp q).sPsn = psnAdd x.sPsn w.span ∧ t.mem = s.mem))

/-- The counts, the configuration, the regions and the rate of a queue pair. Of a READY queue pair: its counts take the values its
doorbell words bring, and one that is not READY ignores and counts them; QP_CONFIG brings a RESET pair with valid rings to READY
and is answered STATE for READY from ERROR; a write of MR_ENTRY gives the region a new rkey that begins with its number; a CNP
cuts the rate by alpha over 2, and is dropped where the partition does not own the pair's VI, the decay and the increase follow
the limiter's arithmetic. -/
def Obligations.RoceControl : Prop :=
  (∀ (qp : Fin 8192) (count : W32) (s : State),
    let q := qp.val
    let x := s.chip.qp q
    s.chip.wsState (qpPart q) = wsActive →
    (s.chip.qpIdle q = true →
      (s.chip.compRoom q = false → 0 < dist32 count.toNat x.sendProd → dist32 count.toNat x.sendProd < 2 ^ 31 →
        dist32 count.toNat x.sendDone ≤ s.chip.qpEntries q →
        Ends (.qpSendProducer qp count) s (fun t => (t.chip.qp q).sendProd = count.toNat ∧ t.chip.regs = s.chip.regs ∧ t.mem = s.mem)) ∧
      (0 < dist32 count.toNat x.recvProd → dist32 count.toNat x.recvProd < 2 ^ 31 → dist32 count.toNat x.recvCons ≤ s.chip.qpEntries q →
        Ends (.qpRecvProducer qp count) s (fun t => t.chip.qp q = { x with recvProd := count.toNat } ∧ t.chip.regs = s.chip.regs ∧ t.mem = s.mem)) ∧
      (0 < dist32 count.toNat x.compCons → dist32 count.toNat x.compCons ≤ dist32 x.comps x.compCons →
        Ends (.qpCompConsumer qp count) s (fun t => (t.chip.qp q).compCons = count.toNat ∧ t.chip.regs = s.chip.regs ∧ t.mem = s.mem))) ∧
    (s.chip.qpState q = qpReset → s.chip.roceQuiet = true →
      Ends (.qpSendProducer qp count) s (fun t => t = s.on (fun c => c.countPart (qpPart q) Obj.CNT_DOORBELL_IGNORED 1)))) ∧
  (∀ (r : Req) (qp : Fin 8192) (value : List Byte) (s : State) (inst : Nat), s.admits r (Obj.QP_CONFIG + qp.val) value inst = true →
    qpCfgOk value = true → byteAt value 0 = qpReady →
    (s.chip.qpState qp.val = qpReset → bitAt (s.chip.part (qpPart qp.val)).vis (byteAt value 2) = true →
      s.ringValid (qpPart qp.val) (byteAt value 3) (leAt value 0x20 8) false = true → leAt value 0x28 8 = 0 →
      s.ringValid (qpPart qp.val) (byteAt value 3) (leAt value 0x30 8) true = true →
      Ends (.qpConfigWrite r qp value) s (fun t => t.chip.qpState qp.val = qpReady ∧
        t.chip.qp qp.val = { sPsn := leAt value 8 4, ePsn := leAt value 0xC 4 } ∧ t.answers r (Obj.QP_CONFIG + qp.val) rcOK ∧ t.mem = s.mem)) ∧
    (s.chip.qpState qp.val = qpError → Ends (.qpConfigWrite r qp value) s (fun t => t.chip.qpState qp.val = qpError ∧
      t.chip.qps = s.chip.qps ∧ t.answers r (Obj.QP_CONFIG + qp.val) rcState ∧ t.mem = s.mem))) ∧
  (∀ (r : Req) (region : Byte) (value : List Byte) (s : State) (inst : Nat), s.admits r (Obj.MR_ENTRY + region.toNat) value inst = true →
    value.length = 20 → leAt value 12 4 < 64 → Ends (.mrEntryWrite r region value) s (fun t =>
      (t.chip.region inst region.toNat).take 16 = value.take 16 ∧ leAt (t.chip.region inst region.toNat) 16 4 / 2 ^ 24 = region.toNat ∧
      leAt (t.chip.region inst region.toNat) 16 3 ≠ leAt (s.chip.region inst region.toNat) 16 3 ∧
      t.answers r (Obj.MR_ENTRY + region.toNat) rcOK ∧ t.mem = s.mem)) ∧
  (∀ (qp : Fin 8192) (s : State), s.chip.qpState qp.val = qpReady →
    let x := s.chip.qp qp.val
    ((s.chip.qpOwner qp.val).isSome = true →
      Ends (.cnpReceived qp) s (fun t => t.chip.qp qp.val = x.onCnp (s.chip.reg Obj.ECN_RATE_MIN) ∧
        t.chip.get (qpPart qp.val) Obj.CNT_CNP_RECEIVED = (s.chip.get (qpPart qp.val) Obj.CNT_CNP_RECEIVED + 1) % 2 ^ 64 ∧ t.mem = s.mem)) ∧
    (s.chip.qpOwner qp.val = none → Ends (.cnpReceived qp) s (fun t => t = s)) ∧
    Ends (.ecnAlphaDecay qp) s (fun t => t = s.on (fun c => c.setQp qp.val { x with alpha := x.alpha.decay false })) ∧
    Ends (.ecnRateIncrease qp) s (fun t => t = s.on (fun c => c.setQp qp.val (x.increase (c.reg Obj.ECN_RATE_AI) (c.reg Obj.ECN_RATE_HAI)))))

/-! ### The control transport (chapter 13, 20) -/

/-- Opening a session, its proof, the end of a pending open, and the two ends of a session. A well-formed open is answered with a
challenge that carries its result: with result 0 the open waits for its proof, else it is counted as refused; one that is not
well-formed is counted. A valid proof of a waiting open, within the limits, starts a session in a free slot under the next
identifier and is answered ACCEPT; a proof that is not valid is counted. A pending open that is not proved in time leaves. A
close that is authentic, and the idle limit, end the session with its event, and its own objects are gone. -/
def Obligations.SessionMessages : Prop :=
  (∀ (src : W64) (m : List Byte) (s : State), s.chip.vctUp = true →
    let c := s.chip
    let p := msgPayload m
    (msgType m = vctOpen →
      (msgOk m = true → Ends (.sessionOpen src m) s (fun t =>
        let res := c.openResult p (fitTo 56 (Config.x448 (fitTo 56 (Config.entropy c.fresh 56)) (p.take 56)))
        t.mem = s.mem ∧ t.chip.sess = c.sess ∧
        ∃ ch, Out.vct src.toNat 0 vctChallenge 0 0 0 0 0 ch ∈ t.chip.out ∧ byteAt ch 0x78 = res ∧
          (res = 0 → t.chip.regs = c.regs ∧ ∃ o, t.chip.opens = c.opens ++ [o] ∧ o.openMsg = p ∧ o.challenge = ch ∧ o.cls = byteAt p 0x58 ∧
            o.part = byteAt p 0x59 ∧ o.key = byteAt p 0x5A) ∧
          (res ≠ 0 → t.chip.opens = c.opens ∧ t.chip.reg Obj.CNT_SESSION_REFUSED = (c.reg Obj.CNT_SESSION_REFUSED + 1) % 2 ^ 64))) ∧
      (msgOk m = false → Ends (.sessionOpen src m) s (fun t => t = s.on (fun c => c.bump Obj.CNT_VCT_MALFORMED)))) ∧
    (msgType m = vctProof → msgOk m = true → ∀ o, c.opens.find? (fun o => slice o.challenge 0x38 32 = p.take 32) = some o →
      (∀ k, c.proofOk o p = true → c.sessLimits o.cls o.part = 0 → (List.range 64).find? (fun k => (Tbl.find c.sess k).isNone) = some k →
        Ends (.sessionProof src m) s (fun t => t.mem = s.mem ∧ t.chip.opens = c.opens.filter (fun x => x.challenge != o.challenge) ∧
          t.chip.regs = c.regs ∧ t.chip.nextSess = max 1 (inc32 c.nextSess) ∧
          t.chip.out.getLast? = some (.vct src.toNat c.nextSess vctAccept 0 0 0 0 0 (leBytes 4 c.nextSess)) ∧
          ∃ se, Tbl.find t.chip.sess k = some se ∧ se.id = c.nextSess ∧ se.cls = o.cls ∧ se.part = (if o.cls = 1 then o.part else 0xFF) ∧
            se.addr = src.toNat ∧ se.last = 0)) ∧
      (c.proofOk o p = false → Ends (.sessionProof src m) s (fun t => t.mem = s.mem ∧ t.chip.opens = c.opens ∧ t.chip.sess = c.sess ∧
        t.chip.reg Obj.CNT_SESSION_REFUSED = (c.reg Obj.CNT_SESSION_REFUSED + 1) % 2 ^ 64)))) ∧
  (∀ (which : Fin 16) (s : State), Ends (.sessionProofTimeout which) s (fun t =>
    t.chip.opens = s.chip.opens.eraseIdx which.val ∧ t.chip.sess = s.chip.sess ∧ t.chip.out = s.chip.out ∧ t.mem = s.mem)) ∧
  (∀ (k : Fin 64) (se : Sess) (s : State),
    let ended := fun (c : Chip) (t : State) => t.chip.sess = Tbl.del c.sess k.val ∧ t.chip.said 0x0102 se.owner [] ∧
      (∀ key, key < 2 ^ 24 → Tbl.find t.chip.regs (ikey (sessInst k.val) key) = none) ∧ t.mem = s.mem
    (∀ (src : W64) (m : List Byte) (c : Chip), s.chip.authentic vctClose src.toNat m = .ok (k.val, c) → Tbl.find c.sess k.val = some se →
      Ends (.sessionClose src m) s (ended c)) ∧
    (Tbl.find s.chip.sess k.val = some se → Ends (.vctIdleTimeout k) s (ended s.chip)))

/-- Requests in sequence, repeated, out of the window and without credit; fetched, acknowledged and repeated events. An authentic
request that is next in sequence, with credit, is performed and answered, the session having advanced and paid for it; the last
one repeated is answered with the kept reply and counted; one far ahead is answered WINDOW; one without credit BUSY. EVENT_FETCH
is answered in the same sequence, each retained event it names being sent. An acknowledgement covers the events up to it; an
event that none covers is sent again, and after VCT_EVENT_RETRIES times left for EVENT_FETCH and counted. -/
def Obligations.RequestsAndEvents : Prop :=
  (∀ (src : W64) (m : List Byte) (k : Nat) (c : Chip) (se : Sess) (s : State), Tbl.find c.sess k = some se →
    let seq := msgSeq m
    let d := (seq + 2 ^ 32 - se.last) % 2 ^ 32
    let answered := fun (t : State) (flags st : Nat) (p : List Byte) =>
      t.chip.out.getLast? = some (.vct se.addr se.id vctReply flags 0 seq st 0 p)
    let paid := { se with credit := se.credit - 1000000, last := seq }
    let s1 : State := { s with chip := c.setSess k paid }
    (s.chip.authentic vctRequest src.toNat m = .ok (k, c) →
      (d = 1 → 1000000 ≤ se.credit → se.buffered = [] → ∀ (s2 : State) (st : Nat) (b : List Byte) (se2 : Sess),
        s1.dictRequest k paid (msgPayload m) = (s2, st, b) → Tbl.find s2.chip.sess k = some se2 → se2.addr = se.addr → se2.id = se.id →
        se2.buffered = [] → Ends (.request src m) s (fun t => answered t 0 st b ∧ t.mem = s2.mem ∧ t.chip.regs = s2.chip.regs ∧
          ∃ e, Tbl.find t.chip.sess k = some e ∧ (seq, st, b) ∈ e.replies)) ∧
      (∀ (st : Nat) (b : List Byte), d = 0 → se.replies.find? (fun r => r.1 = seq) = some (seq, st, b) →
        Ends (.request src m) s (fun t => answered t 2 st b ∧ t.chip.reg Obj.CNT_VCT_DUP = (c.reg Obj.CNT_VCT_DUP + 1) % 2 ^ 64 ∧
          t.chip.sess = c.sess ∧ t.mem = s.mem)) ∧
      (18 ≤ d → d < 2 ^ 31 → Ends (.request src m) s (fun t => answered t 0 statusWindow [] ∧ t.chip.sess = c.sess ∧ t.mem = s.mem)) ∧
      (0 < d → d < 18 → se.credit < 1000000 → se.buffered = [] → Ends (.request src m) s (fun t => answered t 0 statusBusy [] ∧
        t.chip.reg Obj.CNT_VCT_BUSY = (c.reg Obj.CNT_VCT_BUSY + 1) % 2 ^ 64 ∧ t.chip.sess = c.sess ∧ t.mem = s.mem))) ∧
    (s.chip.authentic vctFetch src.toNat m = .ok (k, c) → d = 1 → 1000000 ≤ se.credit → se.buffered = [] →
      let x := c.fetchEvents se (msgPayload m)
      Ends (.eventFetch src m) s (fun t => answered t 0 x.2.1 x.2.2 ∧ t.chip.regs = c.regs ∧ t.mem = s.mem ∧
        (x.2.1 = 0 → ∀ e ∈ c.sessEvents se, (e.seq + 2 ^ 32 - leAt (msgPayload m) 0 4) % 2 ^ 32 < byteAt (msgPayload m) 4 →
          Out.vct se.addr se.id vctEvent 2 e.seq 0 0 se.stream e.payload ∈ t.chip.out) ∧
        ∃ e, Tbl.find t.chip.sess k = some e ∧ e.last = seq ∧ e.credit = se.credit - 1000000)) ∧
    (∀ atLimit : Bool, s.chip.authentic vctAck src.toNat m = .ok (k, c) → se.cls ≠ 0 → se.left = [] → se.acked < 2 ^ 32 → msgAck m ≠ se.acked →
      seqLe se.acked (msgAck m) = true → seqLe (msgAck m) (c.headOf se.stream) = true →
      Ends (.eventAck src m atLimit) s (fun t => t.chip.out = c.out ∧ t.mem = s.mem ∧
        t.chip.reg (Obj.CNT_NEAR_MISS + waitVct) = (c.reg (Obj.CNT_NEAR_MISS + waitVct) + (if atLimit then 1 else 0)) % 2 ^ 64 ∧
        ∃ e, Tbl.find t.chip.sess k = some e ∧ e.acked = msgAck m ∧ (∀ x ∈ e.tries, seqLe x.1 (msgAck m) = false)))) ∧
  (∀ (slot : Fin 64) (seq : W32) (se : Sess) (e : EvRec) (s : State), Tbl.find s.chip.sess slot.val = some se → se.cls ≠ 0 →
    seq.toNat ≠ se.acked → seqLe se.acked seq.toNat = true → seqLe seq.toNat (s.chip.headOf se.stream) = true →
    se.left.contains seq.toNat = false → (s.chip.sessEvents se).find? (fun e => e.seq = seq.toNat) = some e →
    let n := Tbl.get se.tries 0 seq.toNat
    (n < s.chip.reg Obj.VCT_EVENT_RETRIES → Ends (.eventRetryTimeout slot seq) s (fun t => t.mem = s.mem ∧ t.chip.regs = s.chip.regs ∧
      t.chip.out.getLast? = some (.vct se.addr se.id vctEvent 1 e.seq 0 0 se.stream e.payload) ∧
      Tbl.find t.chip.sess slot.val = some { se with tries := Tbl.put se.tries seq.toNat (n + 1) })) ∧
    (s.chip.reg Obj.VCT_EVENT_RETRIES ≤ n → Ends (.eventRetryTimeout slot seq) s (fun t => t.mem = s.mem ∧ t.chip.out = s.chip.out ∧
      t.chip.reg Obj.CNT_VCT_EVENT_UNACKED = (s.chip.reg Obj.CNT_VCT_EVENT_UNACKED + 1) % 2 ^ 64 ∧
      (Tbl.find t.chip.sess slot.val).map (·.left) = some (se.left ++ [seq.toNat]))))

/-! ### The control dictionary (chapter 14) -/

/-- READ, WRITE and DESCRIBE of an object by index and subindex, and an object that does not exist. A READ that the session may
make, of the length the object has, returns the object's bytes and changes nothing else; an admitted WRITE is its object's
effect and then the answer, and of an object without rules of its own the object holds what was written; a DESCRIBE returns the
descriptor; of an object that does not exist each is answered NO_OBJECT and counted. -/
def Obligations.DictionaryOperations : Prop :=
  ∀ (r : Req) (index : W16) (sub : Byte) (s : State) (se : Sess), Tbl.find s.chip.sess r.sess.val = some se →
    let slot := r.sess.val
    let idx := index.toNat
    let sb := sub.toNat
    let key := idx * 256 + sb
    (∀ (len : W16) (o : ObjRow) (inst : Nat) (b : List Byte),
      s.chip.readReach slot se r.part.toNat idx sb = .ok (o, inst) → o.big = false → (tyScalar o.ty = true → len.toNat = tyBytes o.ty) →
      s.chip.value slot se r.part.toNat inst idx sb o = .ok b → b.length ≤ len.toNat →
      Ends (.read r index sub len) s (fun t => t = s.on (fun c => c.send (.result slot idx sb rcOK b)))) ∧
    (∀ (value : List Byte) (o : ObjRow) (inst : Nat), s.admits r key value inst = true → objFind idx sb = some o → o.big = false →
      (let x := effOf slot se idx sb inst value s
       Ends (.write r index sub value) s (fun t => t = x.1.on (fun c => c.result slot idx sb x.2 []))) ∧
      (effNamed slot key = none → effUnit se idx sb = none →
        Ends (.write r index sub value) s (fun t => t.answers r key rcOK ∧ t.mem = s.mem ∧ t.chip.streams = s.chip.streams ∧
          if tyScalar o.ty then t.chip.get inst key = leNat value % 2 ^ 64 else t.chip.blob inst key = value))) ∧
    (∀ o : ObjRow, objFind idx sb = some o →
      Ends (.describe r index sub) s (fun t => t = s.on (fun c => c.send (.result slot idx sb rcOK o.descriptor)))) ∧
    (objFind idx sb = none →
      let gone := fun (t : State) => t = s.on (fun c => (c.bump Obj.CNT_DICT_REFUSED).send (.result slot idx sb rcNoObject []))
      (∀ len : W16, Ends (.read r index sub len) s gone) ∧ (∀ value : List Byte, Ends (.write r index sub value) s gone) ∧
      Ends (.describe r index sub) s gone)

/-- Block transfers: open, move, commit, close and the idle limit. An opened read holds a copy of the object under a handle that was
not open, an opened write a buffer of zeros of its length; with no room either is answered NO_BUFFER; a block read returns the
bytes at its offset and a block write places its data; a commit of a whole buffer closes the transfer and performs the write,
that of an unfinished one is answered INCOMPLETE and leaves it open; a close ends the transfer; one left idle ends and is
counted. -/
def Obligations.BlockTransfers : Prop :=
  ∀ (r : Req) (s : State) (se : Sess), Tbl.find s.chip.sess r.sess.val = some se →
    let slot := r.sess.val
    let replied := fun (t : State) (i b code : Nat) (d : List Byte) => t.chip.out.getLast? = some (.result slot i b code d)
    (∀ (index : W16) (sub : Byte),
      let opened := fun (t : State) (x : BlockXfer) => ∃ (h : Nat) (se' : Sess), Tbl.find se.blocks h = none ∧
        Tbl.find t.chip.sess slot = some se' ∧ Tbl.find se'.blocks h = some x ∧
        replied t index.toNat sub.toNat rcOK (leBytes 2 h ++ leBytes 4 x.total) ∧ t.chip.regs = s.chip.regs ∧ t.mem = s.mem
      (∀ (o : ObjRow) (inst : Nat) (b : List Byte), s.chip.readReach slot se r.part.toNat index.toNat sub.toNat = .ok (o, inst) →
        s.chip.value slot se r.part.toNat inst index.toNat sub.toNat o = .ok b →
        (s.chip.blockRoom se b.length = true → Ends (.blockOpenRead r index sub) s (fun t => opened t
          { write := false, idx := index.toNat, sub := sub.toNat, part := r.part.toNat, total := b.length, buf := b })) ∧
        (s.chip.blockRoom se b.length = false → Ends (.blockOpenRead r index sub) s (fun t =>
          replied t index.toNat sub.toNat rcNoBuffer [] ∧ t.chip.sess = s.chip.sess ∧ t.mem = s.mem))) ∧
      (∀ (total : W32) (o : ObjRow) (inst : Nat),
        s.chip.writeReach slot se r.part.toNat index.toNat sub.toNat total.toNat = .ok (o, inst) →
        (s.chip.blockRoom se total.toNat = true →
          s.stateRefuses slot se r.part.toNat inst o (⟨opOpenWrite, index.toNat, sub.toNat, 0, 0, total.toNat, [], false⟩ : DRec) = none →
          Ends (.blockOpenWrite r index sub total) s (fun t => opened t
            { write := true, idx := index.toNat, sub := sub.toNat, part := r.part.toNat, total := total.toNat, buf := zeros total.toNat })) ∧
        (s.chip.blockRoom se total.toNat = false → Ends (.blockOpenWrite r index sub total) s (fun t =>
          replied t index.toNat sub.toNat rcNoBuffer [] ∧ t.chip.sess = s.chip.sess ∧ t.mem = s.mem)))) ∧
    (∀ (handle : W16) (x : BlockXfer), Tbl.find se.blocks handle.toNat = some x →
      let now := fun (t : State) => (Tbl.find t.chip.sess slot).bind (fun e => Tbl.find e.blocks handle.toNat)
      (∀ (offset : W32) (len : W16), x.write = false → 0 < len.toNat → len.toNat ≤ 992 → offset.toNat + len.toNat ≤ x.total →
        Ends (.blockRead r handle offset len) s (fun t =>
          t = s.on (fun c => c.send (.result slot 0 0 rcOK ((x.buf.drop offset.toNat).take len.toNat))))) ∧
      (∀ (offset : W32) (data : List Byte), x.write = true → 0 < data.length → data.length ≤ 992 → offset.toNat + data.length ≤ x.total →
        Ends (.blockWrite r handle offset data) s (fun t => replied t 0 0 rcOK [] ∧ t.mem = s.mem ∧
          now t = some { x with buf := splice x.buf offset.toNat data, have_ := x.have_ ++ [(offset.toNat, offset.toNat + data.length)] })) ∧
      (let se' := { se with blocks := Tbl.del se.blocks handle.toNat }
       let s' := s.on (fun c => c.setSess slot se')
       (x.write = true → x.complete = true →
         let y := s'.write1 slot se' x.part x.idx x.sub x.buf (effOf slot se' x.idx x.sub)
         Ends (.blockCommit r handle) s (fun t => t = y.1.on (fun c => c.result slot 0 0 y.2 []))) ∧
       (x.write = true → x.complete = false → Ends (.blockCommit r handle) s (fun t => replied t 0 0 rcIncomplete [] ∧ now t = some x ∧
         t.mem = s.mem)) ∧
       Ends (.blockClose r handle) s (fun t => t = s'.on (fun c => c.send (.result slot 0 0 rcOK []))) ∧
       Ends (.blockIdleTimeout r.sess handle) s (fun t => t = s'.on (fun c => c.bump Obj.CNT_BLOCK_DISCARDED))))

/-! ### Resets, failures of Spurs, watchdog and lease (chapters 3 and 17) -/

/-- A reset that is due and has not repeated too often begins at its own level. Under RESET_REPEAT_LIMIT, L1 to L4 that are due
enter the list of resets in progress with their level and cause; L5 closes every session and is in progress; L6 requests the
power cycle, closes every session and sets its alert. None of them changes which commands wait. -/
def Obligations.ResetsBegin : Prop :=
  let fresh := fun (s : State) (r : ResetRec) => r.due s.chip = true ∧
    Tbl.get s.chip.resetCounts 0 (r.level * 2 ^ 32 + r.scope) < s.chip.reg Obj.RESET_REPEAT_LIMIT
  (∀ (part : Fin 8) (ctx : Fin 16) (cause : Byte) (bad : List (Fin 16 × Bool × Fin 8)) (s : State),
    fresh s { level := 1, cause := cause.toNat, part := part.val, ctx := ctx.val } →
    Ends (.resetL1 part ctx cause bad) s (fun t => t.chip.resetting 1 cause.toNat ∧ t.pending = s.pending)) ∧
  (∀ (ridge : Fin 16) (spur : Fin 17) (cause : Byte) (bad : List (Fin 16 × Bool × Fin 8)) (s : State),
    fresh s { level := 2, cause := cause.toNat, ridge := ridge.val, spur := spur.val } →
    Ends (.resetL2 ridge spur cause bad) s (fun t => t.chip.resetting 2 cause.toNat ∧ t.pending = s.pending)) ∧
  (∀ (part : Fin 8) (cause : Byte) (bad : List (Fin 16 × Bool × Fin 8)) (s : State),
    fresh s { level := 3, cause := cause.toNat, part := part.val } →
    Ends (.resetL3 part cause bad []) s (fun t => t.chip.resetting 3 cause.toNat ∧ t.pending = s.pending)) ∧
  (∀ (cause : Byte) (bad : List (Fin 16 × Bool × Fin 8)) (s : State), fresh s { level := 4, cause := cause.toNat } →
    Ends (.resetL4 cause bad []) s (fun t => t.chip.resetting 4 cause.toNat ∧ t.pending = s.pending)) ∧
  (∀ (cause : Byte) (readable : Bool) (s : State), fresh s { level := 5, cause := cause.toNat } → s.chip.inL5 = false →
    Ends (.resetL5 cause readable) s (fun t => t.chip.resetting 5 cause.toNat ∧ t.chip.sess = [] ∧ t.pending = s.pending ∧ t.mem = s.mem)) ∧
  (∀ (cause : Byte) (pd19 : Bool) (s : State), ({ level := 6, cause := cause.toNat } : ResetRec).due s.chip = true →
    Ends (.resetL6 cause pd19) s (fun t => t.chip.side.cycle = true ∧ t.chip.sess = [] ∧ bitAt t.chip.side.cause alertCycle = true ∧
      t.pending = s.pending ∧ t.mem = s.mem))

/-- A reset in progress ends, or gives way to the next level; a queue rewound too often gives up its frontier command. An endable
reset leaves the list and raises RESET_END; one whose bound expires, or whose Ridge has a write without acknowledgement, gives
way to a reset of a higher level with cause 6 or 7, an L5 to the power-cycle request; a queue rewound more than REPLAY_LIMIT
times without an advance gives its started frontier command ABORTED_BY_RESET. -/
def Obligations.ResetsEnd : Prop :=
  (∀ (which : Fin 64) (s : State) (r : ResetRec), s.chip.resets[which.val]? = some r → r.endable s.chip = true →
    Ends (.resetEnd which) s (fun t => t.chip.resets = s.chip.resets.eraseIdx which.val ∧
      (t.chip.lastOf 8).map (·.ty) = some 0x0D02 ∧ t.mem = s.mem)) ∧
  (∀ (which : Fin 64) (s : State) (r : ResetRec), s.chip.resets[which.val]? = some r → r.level = 3 →
    ({ level := 4, cause := 6 } : ResetRec).due s.chip = true → Tbl.get s.chip.resetCounts 0 (4 * 2 ^ 32 + 4) < s.chip.reg Obj.RESET_REPEAT_LIMIT →
    Ends (.resetBoundExpired which) s (fun t => t.chip.resetting 4 6)) ∧
  (∀ (which : Fin 64) (s : State) (r : ResetRec), s.chip.resets[which.val]? = some r → r.level = 5 →
    ({ level := 6, cause := 6 } : ResetRec).due s.chip = true →
    Ends (.resetBoundExpired which) s (fun t => t.chip.side.cycle = true ∧ t.chip.sess = [] ∧ t.mem = s.mem)) ∧
  (∀ (ridge : Fin 16) (s : State) (i : Nat) (r : ResetRec),
    s.chip.resets.findIdx? (fun r => decide (r.level ≤ 4) && (r.touched s.chip).contains ridge.val) = some i →
    s.chip.resets[i]? = some r → r.level = 3 → ({ level := 4, cause := 7 } : ResetRec).due s.chip = true →
    Tbl.get s.chip.resetCounts 0 (4 * 2 ^ 32 + 4) < s.chip.reg Obj.RESET_REPEAT_LIMIT →
    Ends (.unackedWriteTimeout ridge) s (fun t => t.chip.resetting 4 7)) ∧
  (∀ (ridge : Fin 16) (queue : Fin 8) (s : State),
    let x := s.chip.queue ridge.val queue.val
    x.st = .rewinding → s.chip.get (s.chip.ownerN ridge.val) Obj.REPLAY_LIMIT < x.rewinds →
    (∃ k ∈ x.cmds, k.count = x.frontierCount ∧ k.cfgRead = true ∧ k.finished = false) →
    Ends (.replayLimitReached ridge queue) s (fun t =>
      (∀ k ∈ (t.chip.queue ridge.val queue.val).cmds, k.count = x.frontierCount → k.finished = true ∧ stAborted ∈ k.status) ∧
      t.chip.said 0x0442 (s.chip.ownerN ridge.val) [(1, abandonLimit)] ∧ t.mem = s.mem))

/-- Errors, hangs and failures of Spurs and of the Ridge scratchpad: counts, resets, remaps. A corrected error within the limit is
counted; the first uncorrectable error or hang of an epoch leads to an L2 reset with its cause; a failed mapped position leads
to one with cause 5, by trigger or by request; a spare that passes its test is noted; an uncorrectable line of the Ridge
scratchpad is counted, reported and reads as zeros afterwards; a unit that does not answer the sampler is noted. -/
def Obligations.SpurFailures : Prop :=
  let l2 := fun (s : State) (cause n p : Nat) => ({ level := 2, cause := cause, ridge := n, spur := p } : ResetRec).due s.chip = true ∧
    Tbl.get s.chip.resetCounts 0 (2 * 2 ^ 32 + ({ level := 2, cause := cause, ridge := n, spur := p } : ResetRec).scope) < s.chip.reg Obj.RESET_REPEAT_LIMIT
  (∀ (ridge : Fin 16) (spur : Fin 17) (s : State), (s.chip.spur ridge.val spur.val).ceEpoch + 1 ≤ s.chip.reg Obj.SPUR_CE_LIMIT →
    Ends (.sramCorrected ridge spur) s (fun t =>
      t.chip.reg (Obj.CNT_SRAM_CORRECTED + ridge.val) = (s.chip.reg (Obj.CNT_SRAM_CORRECTED + ridge.val) + 1) % 2 ^ 64 ∧
      (t.chip.spur ridge.val spur.val).ceEpoch = (s.chip.spur ridge.val spur.val).ceEpoch + 1 ∧ t.chip.resets = s.chip.resets ∧ t.mem = s.mem)) ∧
  (∀ (ridge : Fin 16) (spur : Fin 17) (addr : W64) (s : State), (s.chip.spur ridge.val spur.val).ueEpoch = 0 → l2 s 3 ridge.val spur.val →
    Ends (.sramUncorrectable ridge spur addr) s (fun t => t.chip.resetting 2 3)) ∧
  (∀ (ridge : Fin 16) (spur : Fin 17) (s : State), (s.chip.spur ridge.val spur.val).hangEpoch = 0 → l2 s 4 ridge.val spur.val →
    Ends (.spurSuspendTimeout ridge spur) s (fun t => t.chip.resetting 2 4)) ∧
  (∀ (ridge : Fin 16) (spur : Fin 17) (s : State), bitAt (s.chip.reg (Obj.SPUR_FAILED_MASK + ridge.val)) spur.val = false →
    bitAt (s.chip.spurMap ridge.val) spur.val = true → (s.chip.ridge ridge.val).remap = none → l2 s 5 ridge.val spur.val →
    Ends (.spurFailed ridge spur) s (fun t => t.chip.resetting 2 5)) ∧
  (∀ (r : Req) (ridge : Fin 16) (spur : Fin 17) (s : State) (inst : Nat),
    s.admits r Obj.SPUR_RETIRE_REQ (wr 2 (256 * ridge.val + spur.val)) inst = true →
    bitAt (s.chip.reg (Obj.SPUR_FAILED_MASK + ridge.val)) spur.val = false → bitAt (s.chip.spurMap ridge.val) spur.val = true →
    s.chip.spursActive ridge.val ≠ 1 → (s.chip.ridge ridge.val).remap = none → l2 s 5 ridge.val spur.val →
    Ends (.spurRetireReq r (BitVec.ofNat 16 (256 * ridge.val + spur.val))) s (fun t =>
      t.chip.resetting 2 5 ∧ t.answers r Obj.SPUR_RETIRE_REQ rcOK)) ∧
  (∀ (ridge : Fin 16) (s : State) (m : Remap) (p : Nat), (s.chip.ridge ridge.val).remap = some m → m.spare = some p →
    Ends (.spareSelftestDone ridge true) s (fun t => (t.chip.ridge ridge.val).remap = some { m with tested := true } ∧
      t.chip.regs = s.chip.regs ∧ t.mem = s.mem)) ∧
  (∀ (ridge : Fin 16) (addr : BitVec 25) (s : State), (s.chip.ridge ridge.val).bankUe.contains (fld addr.toNat 11 7) = false →
    Ends (.ridgeSpadUncorrectable ridge addr none) s (fun t =>
      t.chip.spadBytes ridge.val 17 (addr.toNat / 128 * 128) 128 = zeros 128 ∧
      t.chip.reg (Obj.CNT_SRAM_UNCORRECTABLE + ridge.val) = (s.chip.reg (Obj.CNT_SRAM_UNCORRECTABLE + ridge.val) + 1) % 2 ^ 64 ∧
      fld addr.toNat 11 7 ∈ (t.chip.ridge ridge.val).bankUe ∧
      t.chip.said 0x0423 (s.chip.ownerN ridge.val) [(1, ridge.val), (8, addr.toNat / 128 * 128)] ∧ t.mem = s.mem)) ∧
  (∀ (ridge : Fin 16) (unit : Fin 18) (s : State),
    Ends (.screeUnitTimeout ridge unit) s (fun t => bitAt (t.chip.ridge ridge.val).noAnswer unit.val = true ∧ t.chip.regs = s.chip.regs ∧ t.mem = s.mem))

/-- Heartbeats, hung agents and restarts, and the lease operations. A heartbeat of an agent that is not restarting, nor a hung
sequencer under its reset, is noted with its frame; a steward that has reached HB_MISS_LIMIT for the first time in an epoch
restarts, and returns with its event; SUP returns from its restart. A claim of a free lease takes it with the next term, one of
a held lease is refused; a renewal by the holder with the term in force sets LEASE_FRAME, any other is refused; and a lease
without a renewal in four frames lapses. -/
def Obligations.WatchdogAndLease : Prop :=
  (∀ (agent : Fin 19) (atLimit : Bool) (s : State), (s.chip.agent agent.val).restarting = false → s.chip.hungSeq agent.val = false →
    Ends (.heartbeat agent atLimit) s (fun t => (t.chip.agent agent.val).beat = true ∧
      t.chip.reg (Obj.HB_LAST + agent.val) = s.chip.frame % 2 ^ 64 ∧ t.mem = s.mem)) ∧
  (∀ (agent : Fin 19) (s : State), agent.val ≤ agentB → s.chip.expects agent.val = true →
    s.chip.reg Obj.HB_MISS_LIMIT ≤ (s.chip.agent agent.val).misses → (s.chip.agent agent.val).hangEpoch = 0 →
    (s.chip.agent (1 - agent.val)).restarting = false → (s.chip.agent (1 - agent.val)).misses < s.chip.reg Obj.HB_MISS_LIMIT →
    Ends (.agentHung agent) s (fun t => (t.chip.agent agent.val).restarting = true ∧ (t.chip.agent agent.val).hangEpoch = 1 ∧
      (t.chip.agent agent.val).misses = 0 ∧ t.chip.regs = s.chip.regs ∧ t.mem = s.mem)) ∧
  (∀ (b : Bool) (s : State), (s.chip.agent (if b then 1 else 0)).restarting = true →
    Ends (.stewardRestartDone b) s (fun t => (t.chip.agent (if b then 1 else 0)).restarting = false ∧ t.chip.said 0x0D09 0xFF [] ∧
      t.chip.reg Obj.LEASE_HOLDER = s.chip.reg Obj.LEASE_HOLDER ∧ t.mem = s.mem)) ∧
  (∀ (s : State), s.chip.supDown = true →
    Ends .supRestartDone s (fun t => t.chip.said 0x0D0A 0xFF [] ∧ t.mem = s.mem)) ∧
  (∀ (b : Bool) (s : State),
    (s.chip.reg Obj.LEASE_HOLDER = 0 → Ends (.leaseClaim b) s (fun t => t.chip.reg Obj.LEASE_HOLDER = holderOf b ∧
      t.chip.reg Obj.LEASE_TERM = inc32 (s.chip.reg Obj.LEASE_TERM) ∧ t.chip.reg Obj.LEASE_FRAME = s.chip.frame % 2 ^ 64 ∧
      t.chip.reg Obj.CNT_LEASE_CHANGES = (s.chip.reg Obj.CNT_LEASE_CHANGES + 1) % 2 ^ 64 ∧ t.chip.said 0x0D05 0xFF [] ∧ t.mem = s.mem)) ∧
    (s.chip.reg Obj.LEASE_HOLDER ≠ 0 → Ends (.leaseClaim b) s (fun t => t = s.on (fun c => c.bump Obj.CNT_LEASE_REFUSED)))) ∧
  (∀ (b atLimit : Bool) (term : W32) (s : State),
    (s.chip.reg Obj.LEASE_HOLDER = holderOf b → s.chip.reg Obj.LEASE_TERM = term.toNat →
      Ends (.leaseRenew b term atLimit) s (fun t => t.chip.reg Obj.LEASE_FRAME = s.chip.frame % 2 ^ 64 ∧
        t.chip.reg Obj.LEASE_HOLDER = holderOf b ∧ t.chip.reg Obj.LEASE_TERM = term.toNat ∧ t.mem = s.mem)) ∧
    (¬(s.chip.reg Obj.LEASE_HOLDER = holderOf b ∧ s.chip.reg Obj.LEASE_TERM = term.toNat) →
      Ends (.leaseRenew b term atLimit) s (fun t => t = s.on (fun c => c.bump Obj.CNT_LEASE_REFUSED)))) ∧
  (∀ (s : State), s.chip.reg Obj.LEASE_HOLDER ≠ 0 → s.chip.reg Obj.LEASE_FRAME + 5 ≤ s.chip.frame →
    Ends .leaseLapse s (fun t => t.chip.reg Obj.LEASE_HOLDER = 0 ∧ t.chip.reg Obj.LEASE_TERM = s.chip.reg Obj.LEASE_TERM ∧
      t.chip.said 0x0D05 0xFF [] ∧ t.mem = s.mem))

/-! ### The event recorder, the counters and the trace (chapters 18 and 19) -/

/-- The event recorder: commit, a full log, failure, an accepted and a refused clear, and the end of one. In NORMAL, the oldest
staged record is programmed with the next SEQUENCE; where the log has no room for it, LOG_FULL takes that number, the staged
records are counted as lost and CAIRN_STATE is FULL. A flash timeout makes it FAILED with its stub entry. A good clear token
starts CLEARING; a bad one is answered RANGE and leaves the log. A clear that ends well leaves a log that begins with its own
record, numbered 1, and a new log generation; one that does not leaves FAILED. -/
def Obligations.Recorder : Prop :=
  (∀ (s : State) (e : EvRec) (rest : List EvRec), s.chip.reg Obj.CAIRN_STATE = 0 → s.chip.cairn.staging = e :: rest →
    (logAfter (s.chip.reg Obj.CAIRN_USED) e.size + 256 ≤ s.chip.logCapacity → s.chip.cairn.dropTypes = [] →
      Ends (.cairnCommit []) s (fun t => t.chip.cairn.staging = rest ∧
        (∃ p, t.chip.cairn.log = s.chip.cairn.log ++ [{ e with seq := inc32 (s.chip.reg Obj.CAIRN_HEAD_SEQ), partSeq := p }]) ∧
        t.chip.reg Obj.CAIRN_HEAD_SEQ = inc32 (s.chip.reg Obj.CAIRN_HEAD_SEQ) ∧ t.chip.reg Obj.CAIRN_STATE = 0 ∧ t.mem = s.mem)) ∧
    (s.chip.logCapacity < logAfter (s.chip.reg Obj.CAIRN_USED) e.size + 256 →
      Ends (.cairnCommit []) s (fun t => t.chip.cairn.staging = [] ∧ t.chip.reg Obj.CAIRN_STATE = 1 ∧
        (∃ x, t.chip.cairn.log = s.chip.cairn.log ++ [x] ∧ x.ty = 0x0B03 ∧ x.seq = inc32 (s.chip.reg Obj.CAIRN_HEAD_SEQ)) ∧
        t.chip.reg Obj.CNT_CAIRN_LOST = (s.chip.reg Obj.CNT_CAIRN_LOST + (rest.length + 1)) % 2 ^ 64 ∧ t.mem = s.mem))) ∧
  (∀ (s : State), s.chip.reg Obj.CAIRN_STATE ≠ 3 → s.chip.cairn.stub.length < 32 →
    Ends .cairnFlashTimeout s (fun t => t.chip.reg Obj.CAIRN_STATE = 3 ∧ t.chip.reg Obj.CAIRN_FAILED = 1 ∧ t.chip.cairn.staging = [] ∧
      t.chip.cairn.stub = s.chip.cairn.stub ++ [s.chip.stubEntry stubFailed 3] ∧ t.chip.cairn.log = s.chip.cairn.log ∧ t.mem = s.mem)) ∧
  (∀ (r : Req) (token : List Byte) (s : State) (inst : Nat), s.admits r Obj.CAIRN_CLEAR token inst = true → s.chip.reg Obj.CAIRN_STATE ≠ 2 →
    Ends (.cairnClear r token) s (fun t => t.chip.cairn.log = s.chip.cairn.log ∧ t.mem = s.mem ∧
      match s.chip.clearToken token with
      | some i => t.chip.reg Obj.CAIRN_STATE = 2 ∧ t.chip.cairn.clearing = true ∧ t.chip.cairn.clearSlot = i ∧
        t.chip.cairn.clearUpto = leAt token 0x0C 4 ∧ t.answers r Obj.CAIRN_CLEAR rcOK
      | none => t.chip.reg Obj.CAIRN_STATE = s.chip.reg Obj.CAIRN_STATE ∧ t.chip.cairn.clearing = s.chip.cairn.clearing ∧
        t.answers r Obj.CAIRN_CLEAR rcRange)) ∧
  (∀ (s : State), s.chip.reg Obj.CAIRN_STATE = 2 →
    Ends (.cairnClearDone true) s (fun t => t.chip.reg Obj.CAIRN_STATE = 0 ∧ t.chip.reg Obj.CAIRN_FAILED = 0 ∧ t.chip.cairn.clearing = false ∧
      (t.chip.cairn.log.head?).map (fun e => (e.ty, e.seq)) = some (0x0B01, 1) ∧ t.chip.cairn.log.length = s.chip.cairn.stub.length + 1 ∧
      t.chip.cairn.stub = [] ∧ t.chip.reg Obj.CAIRN_LOG_GEN = inc32 (s.chip.reg Obj.CAIRN_LOG_GEN) ∧ t.chip.reg Obj.CNT_CAIRN_LOST = 0 ∧ t.mem = s.mem) ∧
    Ends (.cairnClearDone false) s (fun t => t.chip.reg Obj.CAIRN_STATE = 3 ∧ t.chip.cairn.clearing = false ∧
      t.chip.cairn.log = s.chip.cairn.log ∧ t.mem = s.mem))

/-- FREEZE_AT, the trace's drain and the watch ring's base. An admitted FREEZE_AT from two frames ahead to 2^20 ahead sets the frame
and the state PENDING, one outside is answered RANGE; a Ridge's trace buffer writes each whole line to its ring and advances
TRACE_PRODUCER, or counts its records as dropped where the stack does not take it, and a buffer without a whole line stays; an
admitted write of WATCH_BASE clears the ring, sets an area within an owned near stack with both counts 0, is answered STATE
while the ring is set, and RANGE where the area does not lie in an owned near stack. -/
def Obligations.TraceAndFreeze : Prop :=
  (∀ (r : Req) (frame : W64) (s : State) (inst : Nat), s.admits r Obj.FREEZE_AT (wr 8 frame.toNat) inst = true →
    (s.chip.frame + 2 ≤ frame.toNat → frame.toNat ≤ s.chip.frame + 1048576 → frame.toNat < 2 ^ 48 →
      Ends (.freezeAt r frame) s (fun t => t.chip.reg Obj.FREEZE_AT = frame.toNat ∧ t.chip.reg Obj.FREEZE_STATE = 1 ∧
        t.chip.snap = s.chip.snap ∧ t.answers r Obj.FREEZE_AT rcOK ∧ t.mem = s.mem)) ∧
    (frame.toNat < s.chip.frame + 2 ∨ s.chip.frame + 1048576 < frame.toNat →
      Ends (.freezeAt r frame) s (fun t => t.chip.reg Obj.FREEZE_AT = s.chip.reg Obj.FREEZE_AT ∧
        t.chip.reg Obj.FREEZE_STATE = s.chip.reg Obj.FREEZE_STATE ∧ t.answers r Obj.FREEZE_AT rcRange ∧ t.mem = s.mem))) ∧
  (∀ (ridge : Fin 16) (k : Nat) (s s' : State), s.chip.owner ridge.val = some k →
    let n := ridge.val
    let buf := (s.chip.ridge n).traceBuf
    let prod := s.chip.reg (Obj.TRACE_PRODUCER + n)
    let size := s.chip.ringBytes k
    let s1 := s.on (fun c => c.updRidge n (fun r => { r with traceBuf := buf.drop 4 }))
    (buf.length < 4 → Ends (.traceFlush ridge) s (fun t => t = s)) ∧
    (4 ≤ buf.length → buf.length < 8 → ∀ e,
      s1.writePhys k (s.chip.get k Obj.TRACE_BASE + n * size + prod % max 1 size) (buf.take 4).flatten = (s', e) →
      Ends (.traceFlush ridge) s (fun t => (t.chip.ridge n).traceBuf = buf.drop 4 ∧ t.mem = s'.mem ∧
        t.chip.reg (Obj.TRACE_PRODUCER + n) = (if e = none then (prod + 128) % 2 ^ 64 else prod) ∧
        (e ≠ none → k < 8 → t.chip.get k Obj.CNT_TRACE_DROPPED = (s.chip.get k Obj.CNT_TRACE_DROPPED + 4) % 2 ^ 64)))) ∧
  (∀ (r : Req) (base : W64) (s : State) (inst : Nat), inst < 8 → s.admits r Obj.WATCH_BASE (wr 8 base.toNat) inst = true →
    (base = 0 → Ends (.watchBaseWrite r base) s (fun t => t.chip.get inst Obj.WATCH_BASE = 0 ∧ t.answers r Obj.WATCH_BASE rcOK ∧ t.mem = s.mem)) ∧
    (base ≠ 0 → s.chip.nearArea inst base.toNat (s.chip.get inst Obj.WATCH_BYTES) = true →
      (s.chip.get inst Obj.WATCH_BASE = 0 → Ends (.watchBaseWrite r base) s (fun t => t.chip.get inst Obj.WATCH_BASE = base.toNat ∧
        t.chip.get inst Obj.WATCH_PRODUCER = 0 ∧ t.chip.get inst Obj.WATCH_CONSUMER = 0 ∧ t.answers r Obj.WATCH_BASE rcOK ∧ t.mem = s.mem)) ∧
      (s.chip.get inst Obj.WATCH_BASE ≠ 0 → Ends (.watchBaseWrite r base) s (fun t =>
        t.chip.get inst Obj.WATCH_BASE = s.chip.get inst Obj.WATCH_BASE ∧ t.answers r Obj.WATCH_BASE rcState ∧ t.mem = s.mem))) ∧
    (base ≠ 0 → s.chip.nearArea inst base.toNat (s.chip.get inst Obj.WATCH_BYTES) = false → Ends (.watchBaseWrite r base) s (fun t =>
      t.chip.get inst Obj.WATCH_BASE = s.chip.get inst Obj.WATCH_BASE ∧ t.answers r Obj.WATCH_BASE rcRange ∧ t.mem = s.mem)))

/-! ### Firmware, keys and reports (chapter 20) -/

/-- Firmware activation, the staging result and the rollback count. FW_ACTIVATE takes the spare bank to VERIFYING, and is answered
STATE while it is there already; the staging result of a bank that passes is VALID with the version of its header and selects
it, that of one that fails is INVALID, each with the event; a rollback commit above the count, up to what the running header
allows, with the other bank VALID at it and a vendor key left, sets the count, revokes the keys the header flags and raises its
event; a count that is not above the present one is answered RANGE. -/
def Obligations.FirmwareBanks : Prop :=
  ∀ s : State,
    let c := s.chip
    (∀ (r : Req) (inst : Nat), s.admits r Obj.FW_ACTIVATE (wr 1 1) inst = true →
      let b := c.spareBank
      (c.reg (Obj.FW_BANK_STATE + b) ≠ bankVerifying → Ends (.fwActivate r) s (fun t =>
        t.chip.reg (Obj.FW_BANK_STATE + b) = bankVerifying ∧ t.chip.reg (Obj.FW_BANK_SVN + b) = 0 ∧ t.chip.reg (Obj.FW_BANK_VERSION + b) = 0 ∧
        t.chip.flash = c.flash ∧ t.answers r Obj.FW_ACTIVATE rcOK ∧ t.mem = s.mem)) ∧
      (c.reg (Obj.FW_BANK_STATE + b) = bankVerifying → Ends (.fwActivate r) s (fun t =>
        t.chip.reg (Obj.FW_BANK_STATE + b) = bankVerifying ∧ t.answers r Obj.FW_ACTIVATE rcState ∧ t.mem = s.mem))) ∧
    (∀ b : Fin 2, c.reg (Obj.FW_BANK_STATE + b.val) = bankVerifying → (b.val = 1 → c.reg Obj.FW_BANK_STATE ≠ bankVerifying) →
      let h := c.window b.val 0
      (c.bankPasses b.val = true → Ends .fwStageResult s (fun t => t.chip.reg (Obj.FW_BANK_STATE + b.val) = bankValid ∧
        t.chip.reg (Obj.FW_BANK_SVN + b.val) = byteAt h 8 ∧ t.chip.reg (Obj.FW_BANK_VERSION + b.val) = leAt h 0xC 4 ∧
        t.chip.reg Obj.FW_BANK_SELECT = b.val ∧ t.chip.said 0x0615 0xFF [] ∧ t.mem = s.mem)) ∧
      (c.bankPasses b.val = false → Ends .fwStageResult s (fun t => t.chip.reg (Obj.FW_BANK_STATE + b.val) = bankInvalid ∧
        t.chip.reg Obj.FW_BANK_SELECT = c.reg Obj.FW_BANK_SELECT ∧ t.chip.said 0x0615 0xFF [] ∧ t.mem = s.mem))) ∧
    (∀ (r : Req) (count : Byte) (inst : Nat), s.admits r Obj.ROLLBACK_COMMIT (wr 1 count.toNat) inst = true →
      let v := count.toNat
      let h := c.runningHeader
      let run := c.reg Obj.FW_BANK_RUNNING
      (c.reg Obj.ROLLBACK_COUNT < v → v ≤ byteAt h 8 → run ≠ 2 → c.reg (Obj.FW_BANK_STATE + (1 - run)) = bankValid →
        v ≤ c.reg (Obj.FW_BANK_SVN + (1 - run)) →
        (∃ i : Fin 2, bitAt (byteAt h 5) i.val = false ∧ c.reg (Obj.VENDOR_KEY_STATE + i.val) ≠ 2) →
        Ends (.rollbackCommit r count) s (fun t => t.chip.reg Obj.ROLLBACK_COUNT = v ∧ (∀ i : Fin 2, t.chip.reg (Obj.VENDOR_KEY_STATE + i.val) =
          if bitAt (byteAt h 5) i.val then 2 else c.reg (Obj.VENDOR_KEY_STATE + i.val)) ∧ t.chip.said 0x0611 0xFF [] ∧
          t.answers r Obj.ROLLBACK_COMMIT rcOK ∧ t.mem = s.mem)) ∧
      (v ≤ c.reg Obj.ROLLBACK_COUNT → Ends (.rollbackCommit r count) s (fun t => t.chip.reg Obj.ROLLBACK_COUNT = c.reg Obj.ROLLBACK_COUNT ∧
        t.answers r Obj.ROLLBACK_COMMIT rcRange ∧ t.mem = s.mem)))

/-- Operator keys, the attestation report and the factory reset. A provisioned slot that was EMPTY holds the state and the digest
written, with the event, and a slot that was not is answered STATE; a revocation of another's slot, with an AUTHORITY left,
makes it REVOKED with the event, and one of the session's own slot is answered STATE; an attestation request leaves the report
of the asked partition with its signature and is counted; the factory reset is armed and disarmed by its two words. -/
def Obligations.KeysAndReports : Prop :=
  ∀ (r : Req) (s : State) (inst : Nat),
    let c := s.chip
    (∀ value : List Byte, s.admits r Obj.OPKEY_PROVISION value inst = true →
      let i := byteAt value 0
      i ≤ 3 → byteAt value 1 = 1 ∨ byteAt value 1 = 2 → allZero (slice value 2 6) = true →
      (c.reg (Obj.OPKEY_STATE + i) = 0 → Ends (.opkeyProvision r value) s (fun t => t.chip.reg (Obj.OPKEY_STATE + i) = byteAt value 1 ∧
        t.chip.blob modInst (Obj.OPKEY_DIGEST + i) = slice value 8 64 ∧ t.chip.said 0x0613 0xFF [] ∧ t.answers r Obj.OPKEY_PROVISION rcOK ∧
        t.mem = s.mem)) ∧
      (c.reg (Obj.OPKEY_STATE + i) ≠ 0 → Ends (.opkeyProvision r value) s (fun t =>
        t.chip.reg (Obj.OPKEY_STATE + i) = c.reg (Obj.OPKEY_STATE + i) ∧ t.chip.blobs = c.blobs ∧
        t.answers r Obj.OPKEY_PROVISION rcState ∧ t.mem = s.mem))) ∧
    (∀ (slot : Fin 4) (se : Sess), s.admits r Obj.OPKEY_REVOKE (wr 1 slot.val) inst = true → Tbl.find c.sess r.sess.val = some se →
      (se.keySlot ≠ slot.val → (∃ j : Fin 4, j ≠ slot ∧ c.reg (Obj.OPKEY_STATE + j.val) = 2) →
        Ends (.opkeyRevoke r (BitVec.ofNat 8 slot.val)) s (fun t => t.chip.reg (Obj.OPKEY_STATE + slot.val) = 3 ∧
          t.chip.said 0x0612 0xFF [] ∧ t.answers r Obj.OPKEY_REVOKE rcOK ∧ t.mem = s.mem)) ∧
      (se.keySlot = slot.val → Ends (.opkeyRevoke r (BitVec.ofNat 8 slot.val)) s (fun t =>
        t.chip.reg (Obj.OPKEY_STATE + slot.val) = c.reg (Obj.OPKEY_STATE + slot.val) ∧ t.answers r Obj.OPKEY_REVOKE rcState ∧ t.mem = s.mem))) ∧
    (∀ (value : List Byte) (se : Sess), s.admits r Obj.ATTEST_REQUEST value inst = true → Tbl.find c.sess (inst - 16) = some se →
      byteAt value 32 = 0xFF ∨ (if se.cls = 1 then byteAt value 32 = se.part else byteAt value 32 < 8) → allZero (value.drop 33) = true →
      Ends (.attestRequest r value) s (fun t =>
        let rep := c.attestBytes (value.take 32) (if se.cls = 1 then se.part else byteAt value 32)
        t.chip.blob inst Obj.ATTEST_REPORT = rep ++ fitTo 114 (Config.ed448Sign devicePrivate (ascii "ZELENO-ATTEST-1") rep) ∧
        t.chip.reg Obj.CNT_ATTEST_REPORTS = (c.reg Obj.CNT_ATTEST_REPORTS + 1) % 2 ^ 64 ∧ t.answers r Obj.ATTEST_REQUEST rcOK ∧ t.mem = s.mem)) ∧
    (s.admits r Obj.CFG_FACTORY_RESET (wr 4 0x5A5A0001) inst = true → Ends (.cfgFactoryArm r) s (fun t =>
      t.chip.reg Obj.CFG_FACTORY_ARMED = 1 ∧ t.answers r Obj.CFG_FACTORY_RESET rcOK ∧ t.mem = s.mem)) ∧
    (s.admits r Obj.CFG_FACTORY_RESET (wr 4 0x5A5A0000) inst = true → Ends (.cfgFactoryDisarm r) s (fun t =>
      t.chip.reg Obj.CFG_FACTORY_ARMED = 0 ∧ t.answers r Obj.CFG_FACTORY_RESET rcOK ∧ t.mem = s.mem))

/-! ### Pins, start-up, tray and power (chapters 16, 20 and 22) -/

/-- The power pins, the reset pin, READY and the tray's wait: what each leaves of the module. From an unpowered module with a valid
input, TRAY_PWR_EN powers PD18 up, takes the straps and, where TRAY_RST_L is low, holds start-up after step 2; the return of the
input does the same with TRAY_PWR_EN asserted; their loss takes every domain but PD18, and with it the sessions; TRAY_RST_L
asserted on a running module is an L5 held at its entry, on one that is unpowered only a pin; its release resumes a held start-
up by BOOT_SRC and starts nothing that is not held; READY ends start-up with memory reading as zeros; and a power-cycle request
that the tray ignores is repeated. -/
def Obligations.PowerPins : Prop :=
  (∀ (p : Straps) (held : Bool) (s : State), s.chip.side.input = true → s.chip.side.power = false → s.chip.side.rstLow = true →
    Ends (.trayPwrEnAssert p held) s (fun t => t.chip.side.power = true ∧ t.chip.side.enable = true ∧ t.chip.side.hold = 1 ∧
      t.chip.reg Obj.STARTUP_STEP = 2 ∧ t.chip.reg Obj.BOARD_ID = p.board.toNat ∧ t.chip.reg Obj.SLOT_ID = p.slot.val ∧ t.mem = s.mem)) ∧
  (∀ (p : Straps) (held : Bool) (s : State), s.chip.side.enable = true → s.chip.side.power = false → s.chip.side.rstLow = true →
    Ends (.inputReturn p held) s (fun t => t.chip.side.power = true ∧ t.chip.side.input = true ∧ t.chip.side.hold = 1 ∧
      t.chip.reg Obj.STARTUP_STEP = 2 ∧ t.chip.reg Obj.BOARD_ID = p.board.toNat ∧ t.mem = s.mem)) ∧
  (∀ (s : State), s.chip.side.power = true → s.chip.side.lost = false →
    Ends .trayPwrEnDeassert s (fun t => t.chip.side.lost = true ∧ t.chip.side.enable = false ∧ t.chip.sess = [] ∧ t.chip.links = [] ∧
      t.chip.reg Obj.STARTUP_STEP = 2 ∧ t.mem = s.mem) ∧
    Ends .inputLost s (fun t => t.chip.side.lost = true ∧ t.chip.side.input = false ∧ t.chip.sess = [] ∧ t.chip.links = [] ∧
      t.chip.reg Obj.STARTUP_STEP = 2 ∧ t.mem = s.mem)) ∧
  (∀ (s : State), s.chip.side.power = true → s.chip.side.lost = false → s.chip.side.cycle = false → s.chip.inL5 = false →
    6 ≤ s.chip.reg Obj.STARTUP_STEP →
    Ends .trayRstLAssert s (fun t => t.chip.side.rstLow = true ∧ t.chip.side.hold = 2 ∧ t.chip.resetting 5 1 ∧ t.chip.sess = [] ∧
      t.chip.reg Obj.STARTUP_STEP = 2 ∧ t.mem = s.mem)) ∧
  (∀ (s : State), s.chip.side.power = false →
    Ends .trayRstLAssert s (fun t => t = s.on (fun c => c.updSide (fun x => { x with rstLow := true })))) ∧
  (∀ (readable : Bool) (s : State), s.chip.side.hold = 0 →
    Ends (.trayRstLRelease readable) s (fun t => t = s.on (fun c => c.updSide (fun x => { x with rstLow := false, hold := 0 })))) ∧
  (∀ (readable : Bool) (s : State), s.chip.side.hold ≠ 0 → s.chip.reg Obj.BOOT_SRC = 3 →
    Ends (.trayRstLRelease readable) s (fun t => t.chip.side.rstLow = false ∧ t.chip.side.hold = 0 ∧ t.chip.side.bootHold = true ∧
      bitAt t.chip.side.cause alertHold = true ∧ t.mem = s.mem)) ∧
  (∀ (readable : Bool) (s : State), s.chip.side.hold = 1 → s.chip.reg Obj.BOOT_SRC < 2 → s.chip.reg Obj.CFG_FACTORY_ARMED = 0 →
    s.chip.bankOk (s.chip.reg Obj.FW_BANK_SELECT) = true →
    Ends (.trayRstLRelease readable) s (fun t => t.chip.side.rstLow = false ∧ t.chip.side.hold = 0 ∧ t.chip.reg Obj.STARTUP_STEP = 6 ∧
      t.chip.reg Obj.FW_BANK_RUNNING = s.chip.reg Obj.FW_BANK_SELECT ∧ t.mem = s.mem)) ∧
  (∀ (up : BringUp) (s : State), s.chip.reg Obj.STARTUP_STEP = 7 → s.chip.side.power = true → s.chip.side.lost = false →
    s.chip.side.cycle = false →
    Ends (.ready up) s (fun t => t.chip.reg Obj.STARTUP_STEP = 9 ∧ t.chip.reg Obj.STARTUP_TIME = up.ms.toNat ∧
      bitAt t.chip.side.cause alertReady = true ∧ t.mem = {})) ∧
  (∀ (s : State), s.chip.side.cycle = true → s.chip.side.enable = true → s.chip.side.lost = false →
    Ends .l6TrayWaitExpired s (fun t => bitAt t.chip.side.cause alertCycle = true ∧
      t.chip.reg Obj.CNT_L6_REPEATS = (s.chip.reg Obj.CNT_L6_REPEATS + 1) % 2 ^ 64 ∧ t.mem = s.mem))

/-- I3C, recovery and PMBus commands change the always-on side and the answer alone. On a powered module ALERT_CAUSE clears the ones
written but for a standing power-cycle request, ALERT_EN and the dynamic address take their values, a recovery transfer begins,
takes bytes at its offset, ends with its check (a bundle that the boot awaits and that passes it runs) and is discarded by ABORT
or by ten idle seconds; with the input present, the PMBus controller answers the measured word or its faults, and clears them.
But for a bundle that runs, memory, the other registers and every other part of the module stay as they are. -/
def Obligations.TrayRegisters : Prop :=
  (∀ (value : Byte) (s : State), s.chip.side.power = true →
    Ends (.alertCauseWrite value) s (fun t => t = s.on (fun c => { c with side := t.chip.side }) ∧ t.chip.side.causeEn = s.chip.side.causeEn ∧
      ∀ i < 6, bitAt t.chip.side.cause i = (bitAt s.chip.side.cause i && (!bitAt value.toNat i || (i = 0 && s.chip.side.cycle))))) ∧
  (∀ (value : Byte) (s : State), s.chip.side.power = true →
    Ends (.alertEnWrite value) s (fun t => t = s.on (fun c => { c with side := { c.side with causeEn := value.toNat % 64 } }))) ∧
  (∀ (a : BitVec 7) (s : State), s.chip.side.power = true →
    Ends (.i3cDynamicAddress a) s (fun t => t = s.on (fun c => { c with side := { c.side with address := some a.toNat } }) ∧
      t.chip.i3cAddress = a.toNat)) ∧
  (∀ (s : State), s.chip.side.power = true →
    Ends .recoveryBegin s (fun t => t = s.on (fun c => { c with side := { c.side with recState := 1, recBytes := [] } }))) ∧
  (∀ (offset : Option W32) (data : List Byte) (s : State),
    let o := match offset with
      | some v => v.toNat
      | none => s.chip.side.recOffset
    s.chip.side.power = true → s.chip.side.recState = 1 → o + data.length ≤ 2 ^ 26 →
    Ends (.recoveryData offset data) s (fun t => t = s.on (fun c => { c with side := { c.side with
      recOffset := o + data.length, recBytes := placeBytes c.side.recBytes o data } }))) ∧
  (∀ (s : State), s.chip.side.power = true → s.chip.side.recState = 1 → s.chip.side.recWanted = false →
    Ends .recoveryEnd s (fun t => t = s.on (fun c => { c with side := { c.side with
      recState := if c.bundleOk (recBundle c.side.recBytes) then 3 else 4, recBytes := [] } }))) ∧
  (∀ (s : State), s.chip.side.power = true → s.chip.side.recState = 1 → s.chip.side.recWanted = true →
    Ends .recoveryEnd s (fun t => t.mem = s.mem ∧
      if s.chip.bundleOk (recBundle s.chip.side.recBytes) = true then
        t.chip.reg Obj.STARTUP_STEP = 6 ∧ t.chip.reg Obj.FW_BANK_RUNNING = 2 ∧ t.chip.side.recState = 3 ∧ t.chip.side.recWanted = false
      else t = s.on (fun c => { c with side := { c.side with recState := 4, recBytes := [] } }))) ∧
  (∀ (s : State), s.chip.side.recState = 1 →
    Ends .recoveryAbort s (fun t => t = s.on (fun c => { c with side := { c.side with recState := 0, recBytes := [] } })) ∧
    Ends .recoveryIdleTimeout s (fun t => t = s.on (fun c => { c with side := { c.side with recState := 0, recBytes := [] } }))) ∧
  (∀ (w : W16) (s : State), s.chip.side.input = true →
    let speaks := fun (t : State) => t = s.on (fun c => c.send (.pmbus (leBytes 2 w.toNat)))
    Ends (.readVin w) s speaks ∧ Ends (.readIin w) s speaks ∧ Ends (.readPin w) s speaks ∧ Ends (.readTemperature1 w) s speaks ∧
    Ends (.statusWord w) s (fun t => t = s.on (fun c => ({ c with side := { c.side with pmbusFaults := Nat.lor c.side.pmbusFaults w.toNat } } : Chip).send
      (.pmbus (leBytes 2 (Nat.lor s.chip.side.pmbusFaults w.toNat))))) ∧
    Ends .clearFaults s (fun t => t = s.on (fun c => { c with side := { c.side with pmbusFaults := 0 } })))

/-- Droop, sags, ramps, faults and the power limit. A sag stretches a Ridge that is not RETIRED and is counted, and the stretch ends
with its halved cycles counted; a sag of a fixed-clock domain that is not in FAULT is counted and, once a frame, reported; a
ramp that is done is noted for the next tick edge; a domain that faults is in FAULT with its alert; a thermal trip is a power-
cycle request; an admitted POWER_LIMIT within the shares takes effect with its budget while a steward holds the lease; and the
loss of the MEMS drive supply bypasses the Col pairs it feeds. -/
def Obligations.PowerCommands : Prop :=
  (∀ (ridge : Fin 16) (s : State), s.chip.retired ridge.val = false →
    Ends (.droopSag ridge) s (fun t => (t.chip.ridge ridge.val).stretching = true ∧ (t.chip.ridge ridge.val).inStretch = true ∧
      t.chip.reg (Obj.CNT_STRETCH + ridge.val) = (s.chip.reg (Obj.CNT_STRETCH + ridge.val) + 1) % 2 ^ 64 ∧ t.mem = s.mem)) ∧
  (∀ (ridge : Fin 16) (halved : W32) (s : State), (s.chip.ridge ridge.val).inStretch = true →
    Ends (.stretchEnd ridge halved) s (fun t => (t.chip.ridge ridge.val).inStretch = false ∧
      t.chip.reg (Obj.CNT_STRETCH_CYCLES + ridge.val) = (s.chip.reg (Obj.CNT_STRETCH_CYCLES + ridge.val) + halved.toNat) % 2 ^ 64 ∧
      t.mem = s.mem)) ∧
  (∀ (domain : Fin 30) (s : State), 16 ≤ domain.val → s.chip.reg (Obj.DOMAIN_STATE + domain.val) ≠ 3 →
    Ends (.domainSag domain) s (fun t =>
      t.chip.reg (Obj.CNT_DOMAIN_SAG + domain.val) = (s.chip.reg (Obj.CNT_DOMAIN_SAG + domain.val) + 1) % 2 ^ 64 ∧
      domain.val ∈ t.chip.sagSaid ∧ (domain.val ∉ s.chip.sagSaid → t.chip.said 0x0306 0xFF []) ∧
      (domain.val ∈ s.chip.sagSaid → t.chip.streams = s.chip.streams) ∧ t.mem = s.mem)) ∧
  (∀ (ridge : Fin 16) (s : State), (s.chip.ridge ridge.val).point < (s.chip.ridge ridge.val).goal →
    Ends (.dvfsRampDone ridge) s (fun t => (t.chip.ridge ridge.val).ramped = true ∧
      (t.chip.ridge ridge.val).point = (s.chip.ridge ridge.val).point ∧ t.chip.regs = s.chip.regs ∧ t.mem = s.mem)) ∧
  (∀ (domain : Fin 30) (s : State), s.chip.reg (Obj.DOMAIN_STATE + domain.val) ≠ 3 → s.chip.side.power = true →
    Ends (.domainFault domain) s (fun t => t.chip.reg (Obj.DOMAIN_STATE + domain.val) = 3 ∧
      bitAt t.chip.side.cause alertDomain = true ∧ t.mem = s.mem ∧
      (18 ≤ domain.val → domain.val < 20 → s.chip.side.lost = false → t.chip.side.cycle = true))) ∧
  (∀ (s : State), s.chip.side.power = true → s.chip.side.cycle = false → s.chip.side.lost = false →
    Ends .thermalTrip s (fun t => t.chip.side.trip = true ∧ t.chip.side.cycle = true ∧ t.chip.sess = [] ∧
      bitAt t.chip.side.cause alertTrip = true ∧ t.mem = s.mem)) ∧
  (∀ (r : Req) (watts : W32) (s : State) (inst : Nat), s.admits r Obj.POWER_LIMIT (wr 4 watts.toNat) inst = true →
    (1200 + s.chip.shares ≤ watts.toNat → s.chip.reg Obj.LEASE_HOLDER ≠ 0 →
      Ends (.powerLimitWrite r watts) s (fun t => t.chip.reg Obj.POWER_LIMIT = watts.toNat ∧
        t.chip.reg Obj.COMPUTE_BUDGET = watts.toNat - 1200 ∧ t.answers r Obj.POWER_LIMIT rcOK ∧ t.mem = s.mem)) ∧
    (watts.toNat < 1200 + s.chip.shares →
      Ends (.powerLimitWrite r watts) s (fun t => t.chip.reg Obj.POWER_LIMIT = s.chip.reg Obj.POWER_LIMIT ∧
        t.answers r Obj.POWER_LIMIT rcRange))) ∧
  (∀ (s : State), Ends .memsDriveSupplyLost s (fun t => (∀ n < 16, t.chip.reg (Obj.COL_STATE + n) = 0 ∨
    (t.chip.reg (Obj.COL_STATE + n) = 3 ∧ Tbl.get t.chip.colTarget 0 n = 0)) ∧ t.mem = s.mem))

/-! ### The block as a whole -/

/-- A step runs the command at the front of the queue; the block with no command waiting idles. For every command and state, a step
with the command at the front of the queue is exec of the command with the queue's rest. That the block idles on an empty queue
is the model's choice (log entry 1). -/
def Obligations.StepRunsTheFrontCommand : Prop :=
  (∀ (i : Instr) (rest : List Instr) (s : State), step { s with pending := i :: rest } = exec i { s with pending := rest }) ∧
  (∀ s : State, s.pending = [] → step s = .next s)

/-- Every command completes in every state and leaves the commands that wait as they are. No command of the table ends in a fault or
a refusal, whatever the state and the operands, and none touches the queue of the commands that wait. -/
def Obligations.CommandsComplete : Prop :=
  ∀ (i : Instr) (s : State), Ends i s (fun t => t.pending = s.pending)

/-- Every step keeps memory in its canonical form: one entry a line at most, in order, and none that says what an unlisted line
reads as. For every state whose memory is in canonical form, and whatever command stands at the front of the queue, the memory
after the step is in canonical form. -/
def Obligations.MemoryStaysCanonical : Prop :=
  ∀ s t : State, s.mem.wf = true → step s = .next t → t.mem.wf = true

/-- At reset the memory is in canonical form and empty, no command waits, no session is open, and nothing is powered. The state at
reset has empty canonical memory and an empty queue, no sessions, no resets in progress, every queue DISABLED, every partition
FREE, and every object without a value of the module's own reads as its default. -/
def Obligations.ResetState : Prop :=
  State.reset.mem.wf = true ∧ State.reset.pending = [] ∧ State.reset.chip.sess = [] ∧ State.reset.chip.resets = [] ∧
  State.reset.chip.side.power = false ∧ (∀ n q : Nat, (State.reset.chip.queue n q).st = .disabled) ∧
  (∀ k : Nat, k < 8 → State.reset.chip.wsState k = wsFree) ∧
  (∀ inst key : Nat, Tbl.find factoryRegs (ikey inst key) = none → State.reset.chip.get inst key = objDefault key)

/-- A logical Spur is the position of its set bit in the map, and a Spur address reaches the scratchpad at that position. Logical
Spur l stands at position p exactly when bit p of RIDGE_SPUR_MAP is set with l set bits below it; an address in the Spur part of
the local space names a Spur by that logical number, and no address names one whose bit is clear. -/
def Obligations.LogicalSpurs : Prop :=
  ∀ (c : Chip) (n l p : Nat),
    (c.spurPos n l = some p ↔ p < 17 ∧ bitAt (c.spurMap n) p = true ∧ popCount p (c.spurMap n) = l) ∧
    (∀ a o, ridgeSpad ≤ addrOf a → (c.local1 n a = some (p, o) ↔
      c.spurPos n ((addrOf a - ridgeSpad) / spurSpad) = some p ∧ o = (addrOf a - ridgeSpad) % spurSpad))

/-- ZF3 elements: their values, the zero without a sign that is never written, and no outlier. A ZF3 code is a sign and a magnitude
of 0, 1, 2 or 4 times the block scale, and code 0b100 reads as zero; whatever block a conversion to ZF3 makes, it holds 3-bit
codes and no 0b100, and its metadata carry no outlier; a stored block with an outlier field reads as zeros. -/
def Obligations.Zf3Elements : Prop :=
  (∀ (c : Fin 8) (k : Int), codeVal fmtZF3 c.val k =
    if c.val % 4 = 0 then .fin false 0 0 else .fin (decide (4 ≤ c.val)) ([0, 1, 2, 4].getD (c.val % 4) 0) k) ∧
  (∀ (h : Int) (esc : Bool) (r : Rnd) (lane : Nat) (xs : List Fv) (n : NumSt),
    let b := (toBlock fmtZF3 h esc r lane xs n).1
    (∀ x ∈ b.codes, x < 8 ∧ x ≠ 4) ∧ b.mtd < 255) ∧
  (∀ (b : Block) (n : NumSt),
    (b.mtd < 255 → (ofBlock fmtZF3 b n).1 = b.codes.map (fun c => codeVal fmtZF3 c ((b.mtd : Int) - 127))) ∧
    (fld b.mtd 21 8 ≠ 0 → (ofBlock fmtZF3 b n).1 = List.replicate 32 (.fin false 0 0)))

/-- ALERT_L is low for an enabled cause, a power-cycle request or a thermal trip. On a powered module ALERT_L is low exactly when a
bit is set in both ALERT_CAUSE and ALERT_EN, or a power-cycle request or a thermal trip stands. -/
def Obligations.AlertLine : Prop :=
  ∀ c : Chip, c.side.power = true →
    (c.alertLow = true ↔ (∃ i, bitAt c.side.cause i = true ∧ bitAt c.side.causeEn i = true) ∨ c.side.cycle = true ∨ c.side.trip = true)
end

