-- ==== Sys2Proof/Laws/State.lean ====
section
/-! SUPPORT. What each update of the chip and of the state leaves as it was: one lemma for each field and update. -/
namespace Sys2Proof.Machine

@[simp] theorem State.on_chip (s : State) (f : Chip → Chip) : (s.on f).chip = f s.chip := rfl
@[simp] theorem State.on_mem (s : State) (f : Chip → Chip) : (s.on f).mem = s.mem := rfl
@[simp] theorem State.on_pending (s : State) (f : Chip → Chip) : (s.on f).pending = s.pending := rfl
@[simp] theorem State.withMem_chip (s : State) (m : Memory) : (s.withMem m).chip = s.chip := rfl
@[simp] theorem State.withMem_mem (s : State) (m : Memory) : (s.withMem m).mem = m := rfl
@[simp] theorem State.withMem_pending (s : State) (m : Memory) : (s.withMem m).pending = s.pending := rfl
@[simp] theorem done_eq (s : State) : done s = .next s := rfl

@[simp] theorem Chip.set_blobs (c : Chip) (i k v : Nat) : (c.set i k v).blobs = c.blobs := rfl
@[simp] theorem Chip.set_out (c : Chip) (i k v : Nat) : (c.set i k v).out = c.out := rfl
@[simp] theorem Chip.set_fresh (c : Chip) (i k v : Nat) : (c.set i k v).fresh = c.fresh := rfl
@[simp] theorem Chip.set_extNext (c : Chip) (i k v : Nat) : (c.set i k v).extNext = c.extNext := rfl
@[simp] theorem Chip.set_ridges (c : Chip) (i k v : Nat) : (c.set i k v).ridges = c.ridges := rfl
@[simp] theorem Chip.set_queues (c : Chip) (i k v : Nat) : (c.set i k v).queues = c.queues := rfl
@[simp] theorem Chip.set_spads (c : Chip) (i k v : Nat) : (c.set i k v).spads = c.spads := rfl
@[simp] theorem Chip.set_units (c : Chip) (i k v : Nat) : (c.set i k v).units = c.units := rfl
@[simp] theorem Chip.set_parts (c : Chip) (i k v : Nat) : (c.set i k v).parts = c.parts := rfl
@[simp] theorem Chip.set_pend (c : Chip) (i k v : Nat) : (c.set i k v).pend = c.pend := rfl
@[simp] theorem Chip.set_pendWait (c : Chip) (i k v : Nat) : (c.set i k v).pendWait = c.pendWait := rfl
@[simp] theorem Chip.set_hosts (c : Chip) (i k v : Nat) : (c.set i k v).hosts = c.hosts := rfl
@[simp] theorem Chip.set_streams (c : Chip) (i k v : Nat) : (c.set i k v).streams = c.streams := rfl
@[simp] theorem Chip.set_cairn (c : Chip) (i k v : Nat) : (c.set i k v).cairn = c.cairn := rfl
@[simp] theorem Chip.set_sess (c : Chip) (i k v : Nat) : (c.set i k v).sess = c.sess := rfl
@[simp] theorem Chip.set_resets (c : Chip) (i k v : Nat) : (c.set i k v).resets = c.resets := rfl
@[simp] theorem Chip.set_agents (c : Chip) (i k v : Nat) : (c.set i k v).agents = c.agents := rfl
@[simp] theorem Chip.set_anchorTime (c : Chip) (i k v : Nat) : (c.set i k v).anchorTime = c.anchorTime := rfl
@[simp] theorem Chip.set_anchorRaw (c : Chip) (i k v : Nat) : (c.set i k v).anchorRaw = c.anchorRaw := rfl
@[simp] theorem Chip.set_raw (c : Chip) (i k v : Nat) : (c.set i k v).raw = c.raw := rfl
@[simp] theorem Chip.set_frame (c : Chip) (i k v : Nat) : (c.set i k v).frame = c.frame := rfl
@[simp] theorem Chip.set_tick (c : Chip) (i k v : Nat) : (c.set i k v).tick = c.tick := rfl
@[simp] theorem Chip.set_links (c : Chip) (i k v : Nat) : (c.set i k v).links = c.links := rfl
@[simp] theorem Chip.set_lanes (c : Chip) (i k v : Nat) : (c.set i k v).lanes = c.lanes := rfl
@[simp] theorem Chip.set_linkFull (c : Chip) (i k v : Nat) : (c.set i k v).linkFull = c.linkFull := rfl
@[simp] theorem Chip.set_loops (c : Chip) (i k v : Nat) : (c.set i k v).loops = c.loops := rfl
@[simp] theorem Chip.set_cores (c : Chip) (i k v : Nat) : (c.set i k v).cores = c.cores := rfl
@[simp] theorem Chip.set_resMap (c : Chip) (i k v : Nat) : (c.set i k v).resMap = c.resMap := rfl
@[simp] theorem Chip.set_travSaved (c : Chip) (i k v : Nat) : (c.set i k v).travSaved = c.travSaved := rfl
@[simp] theorem Chip.set_calRuns (c : Chip) (i k v : Nat) : (c.set i k v).calRuns = c.calRuns := rfl
@[simp] theorem Chip.set_calTemps (c : Chip) (i k v : Nat) : (c.set i k v).calTemps = c.calTemps := rfl
@[simp] theorem Chip.set_calVals (c : Chip) (i k v : Nat) : (c.set i k v).calVals = c.calVals := rfl
@[simp] theorem Chip.set_engines (c : Chip) (i k v : Nat) : (c.set i k v).engines = c.engines := rfl
@[simp] theorem Chip.set_swaps (c : Chip) (i k v : Nat) : (c.set i k v).swaps = c.swaps := rfl
@[simp] theorem Chip.set_notice (c : Chip) (i k v : Nat) : (c.set i k v).notice = c.notice := rfl
@[simp] theorem Chip.set_darkFibres (c : Chip) (i k v : Nat) : (c.set i k v).darkFibres = c.darkFibres := rfl
@[simp] theorem Chip.set_laserFlags (c : Chip) (i k v : Nat) : (c.set i k v).laserFlags = c.laserFlags := rfl
@[simp] theorem Chip.set_colTarget (c : Chip) (i k v : Nat) : (c.set i k v).colTarget = c.colTarget := rfl
@[simp] theorem Chip.set_time (c : Chip) (i k v : Nat) : (c.set i k v).time = c.time := rfl
@[simp] theorem Chip.set_side (c : Chip) (i k v : Nat) : (c.set i k v).side = c.side := rfl
@[simp] theorem Chip.set_flash (c : Chip) (i k v : Nat) : (c.set i k v).flash = c.flash := rfl
@[simp] theorem Chip.set_resetCounts (c : Chip) (i k v : Nat) : (c.set i k v).resetCounts = c.resetCounts := rfl
@[simp] theorem Chip.set_sagSaid (c : Chip) (i k v : Nat) : (c.set i k v).sagSaid = c.sagSaid := rfl
@[simp] theorem Chip.set_means (c : Chip) (i k v : Nat) : (c.set i k v).means = c.means := rfl
@[simp] theorem Chip.set_limDue (c : Chip) (i k v : Nat) : (c.set i k v).limDue = c.limDue := rfl
@[simp] theorem Chip.set_limFrame (c : Chip) (i k v : Nat) : (c.set i k v).limFrame = c.limFrame := rfl
@[simp] theorem Chip.set_limAt (c : Chip) (i k v : Nat) : (c.set i k v).limAt = c.limAt := rfl
@[simp] theorem Chip.set_qps (c : Chip) (i k v : Nat) : (c.set i k v).qps = c.qps := rfl
@[simp] theorem Chip.set_ethFails (c : Chip) (i k v : Nat) : (c.set i k v).ethFails = c.ethFails := rfl
@[simp] theorem Chip.set_opens (c : Chip) (i k v : Nat) : (c.set i k v).opens = c.opens := rfl
@[simp] theorem Chip.set_nextSess (c : Chip) (i k v : Nat) : (c.set i k v).nextSess = c.nextSess := rfl
@[simp] theorem Chip.set_refusedAt (c : Chip) (i k v : Nat) : (c.set i k v).refusedAt = c.refusedAt := rfl
@[simp] theorem Chip.set_snap (c : Chip) (i k v : Nat) : (c.set i k v).snap = c.snap := rfl

@[simp] theorem Chip.setReg_blobs (c : Chip) (k v : Nat) : (c.setReg k v).blobs = c.blobs := rfl
@[simp] theorem Chip.setReg_out (c : Chip) (k v : Nat) : (c.setReg k v).out = c.out := rfl
@[simp] theorem Chip.setReg_fresh (c : Chip) (k v : Nat) : (c.setReg k v).fresh = c.fresh := rfl
@[simp] theorem Chip.setReg_extNext (c : Chip) (k v : Nat) : (c.setReg k v).extNext = c.extNext := rfl
@[simp] theorem Chip.setReg_ridges (c : Chip) (k v : Nat) : (c.setReg k v).ridges = c.ridges := rfl
@[simp] theorem Chip.setReg_queues (c : Chip) (k v : Nat) : (c.setReg k v).queues = c.queues := rfl
@[simp] theorem Chip.setReg_spads (c : Chip) (k v : Nat) : (c.setReg k v).spads = c.spads := rfl
@[simp] theorem Chip.setReg_units (c : Chip) (k v : Nat) : (c.setReg k v).units = c.units := rfl
@[simp] theorem Chip.setReg_parts (c : Chip) (k v : Nat) : (c.setReg k v).parts = c.parts := rfl
@[simp] theorem Chip.setReg_pend (c : Chip) (k v : Nat) : (c.setReg k v).pend = c.pend := rfl
@[simp] theorem Chip.setReg_pendWait (c : Chip) (k v : Nat) : (c.setReg k v).pendWait = c.pendWait := rfl
@[simp] theorem Chip.setReg_hosts (c : Chip) (k v : Nat) : (c.setReg k v).hosts = c.hosts := rfl
@[simp] theorem Chip.setReg_streams (c : Chip) (k v : Nat) : (c.setReg k v).streams = c.streams := rfl
@[simp] theorem Chip.setReg_cairn (c : Chip) (k v : Nat) : (c.setReg k v).cairn = c.cairn := rfl
@[simp] theorem Chip.setReg_sess (c : Chip) (k v : Nat) : (c.setReg k v).sess = c.sess := rfl
@[simp] theorem Chip.setReg_resets (c : Chip) (k v : Nat) : (c.setReg k v).resets = c.resets := rfl
@[simp] theorem Chip.setReg_agents (c : Chip) (k v : Nat) : (c.setReg k v).agents = c.agents := rfl
@[simp] theorem Chip.setReg_anchorTime (c : Chip) (k v : Nat) : (c.setReg k v).anchorTime = c.anchorTime := rfl
@[simp] theorem Chip.setReg_anchorRaw (c : Chip) (k v : Nat) : (c.setReg k v).anchorRaw = c.anchorRaw := rfl
@[simp] theorem Chip.setReg_raw (c : Chip) (k v : Nat) : (c.setReg k v).raw = c.raw := rfl
@[simp] theorem Chip.setReg_frame (c : Chip) (k v : Nat) : (c.setReg k v).frame = c.frame := rfl
@[simp] theorem Chip.setReg_tick (c : Chip) (k v : Nat) : (c.setReg k v).tick = c.tick := rfl
@[simp] theorem Chip.setReg_links (c : Chip) (k v : Nat) : (c.setReg k v).links = c.links := rfl
@[simp] theorem Chip.setReg_lanes (c : Chip) (k v : Nat) : (c.setReg k v).lanes = c.lanes := rfl
@[simp] theorem Chip.setReg_linkFull (c : Chip) (k v : Nat) : (c.setReg k v).linkFull = c.linkFull := rfl
@[simp] theorem Chip.setReg_loops (c : Chip) (k v : Nat) : (c.setReg k v).loops = c.loops := rfl
@[simp] theorem Chip.setReg_cores (c : Chip) (k v : Nat) : (c.setReg k v).cores = c.cores := rfl
@[simp] theorem Chip.setReg_resMap (c : Chip) (k v : Nat) : (c.setReg k v).resMap = c.resMap := rfl
@[simp] theorem Chip.setReg_travSaved (c : Chip) (k v : Nat) : (c.setReg k v).travSaved = c.travSaved := rfl
@[simp] theorem Chip.setReg_calRuns (c : Chip) (k v : Nat) : (c.setReg k v).calRuns = c.calRuns := rfl
@[simp] theorem Chip.setReg_calTemps (c : Chip) (k v : Nat) : (c.setReg k v).calTemps = c.calTemps := rfl
@[simp] theorem Chip.setReg_calVals (c : Chip) (k v : Nat) : (c.setReg k v).calVals = c.calVals := rfl
@[simp] theorem Chip.setReg_engines (c : Chip) (k v : Nat) : (c.setReg k v).engines = c.engines := rfl
@[simp] theorem Chip.setReg_swaps (c : Chip) (k v : Nat) : (c.setReg k v).swaps = c.swaps := rfl
@[simp] theorem Chip.setReg_notice (c : Chip) (k v : Nat) : (c.setReg k v).notice = c.notice := rfl
@[simp] theorem Chip.setReg_darkFibres (c : Chip) (k v : Nat) : (c.setReg k v).darkFibres = c.darkFibres := rfl
@[simp] theorem Chip.setReg_laserFlags (c : Chip) (k v : Nat) : (c.setReg k v).laserFlags = c.laserFlags := rfl
@[simp] theorem Chip.setReg_colTarget (c : Chip) (k v : Nat) : (c.setReg k v).colTarget = c.colTarget := rfl
@[simp] theorem Chip.setReg_time (c : Chip) (k v : Nat) : (c.setReg k v).time = c.time := rfl
@[simp] theorem Chip.setReg_side (c : Chip) (k v : Nat) : (c.setReg k v).side = c.side := rfl
@[simp] theorem Chip.setReg_flash (c : Chip) (k v : Nat) : (c.setReg k v).flash = c.flash := rfl
@[simp] theorem Chip.setReg_resetCounts (c : Chip) (k v : Nat) : (c.setReg k v).resetCounts = c.resetCounts := rfl
@[simp] theorem Chip.setReg_sagSaid (c : Chip) (k v : Nat) : (c.setReg k v).sagSaid = c.sagSaid := rfl
@[simp] theorem Chip.setReg_means (c : Chip) (k v : Nat) : (c.setReg k v).means = c.means := rfl
@[simp] theorem Chip.setReg_limDue (c : Chip) (k v : Nat) : (c.setReg k v).limDue = c.limDue := rfl
@[simp] theorem Chip.setReg_limFrame (c : Chip) (k v : Nat) : (c.setReg k v).limFrame = c.limFrame := rfl
@[simp] theorem Chip.setReg_limAt (c : Chip) (k v : Nat) : (c.setReg k v).limAt = c.limAt := rfl
@[simp] theorem Chip.setReg_qps (c : Chip) (k v : Nat) : (c.setReg k v).qps = c.qps := rfl
@[simp] theorem Chip.setReg_ethFails (c : Chip) (k v : Nat) : (c.setReg k v).ethFails = c.ethFails := rfl
@[simp] theorem Chip.setReg_opens (c : Chip) (k v : Nat) : (c.setReg k v).opens = c.opens := rfl
@[simp] theorem Chip.setReg_nextSess (c : Chip) (k v : Nat) : (c.setReg k v).nextSess = c.nextSess := rfl
@[simp] theorem Chip.setReg_refusedAt (c : Chip) (k v : Nat) : (c.setReg k v).refusedAt = c.refusedAt := rfl
@[simp] theorem Chip.setReg_snap (c : Chip) (k v : Nat) : (c.setReg k v).snap = c.snap := rfl

@[simp] theorem Chip.count_blobs (c : Chip) (i k n : Nat) : (c.count i k n).blobs = c.blobs := rfl
@[simp] theorem Chip.count_out (c : Chip) (i k n : Nat) : (c.count i k n).out = c.out := rfl
@[simp] theorem Chip.count_fresh (c : Chip) (i k n : Nat) : (c.count i k n).fresh = c.fresh := rfl
@[simp] theorem Chip.count_extNext (c : Chip) (i k n : Nat) : (c.count i k n).extNext = c.extNext := rfl
@[simp] theorem Chip.count_ridges (c : Chip) (i k n : Nat) : (c.count i k n).ridges = c.ridges := rfl
@[simp] theorem Chip.count_queues (c : Chip) (i k n : Nat) : (c.count i k n).queues = c.queues := rfl
@[simp] theorem Chip.count_spads (c : Chip) (i k n : Nat) : (c.count i k n).spads = c.spads := rfl
@[simp] theorem Chip.count_units (c : Chip) (i k n : Nat) : (c.count i k n).units = c.units := rfl
@[simp] theorem Chip.count_parts (c : Chip) (i k n : Nat) : (c.count i k n).parts = c.parts := rfl
@[simp] theorem Chip.count_pend (c : Chip) (i k n : Nat) : (c.count i k n).pend = c.pend := rfl
@[simp] theorem Chip.count_pendWait (c : Chip) (i k n : Nat) : (c.count i k n).pendWait = c.pendWait := rfl
@[simp] theorem Chip.count_hosts (c : Chip) (i k n : Nat) : (c.count i k n).hosts = c.hosts := rfl
@[simp] theorem Chip.count_streams (c : Chip) (i k n : Nat) : (c.count i k n).streams = c.streams := rfl
@[simp] theorem Chip.count_cairn (c : Chip) (i k n : Nat) : (c.count i k n).cairn = c.cairn := rfl
@[simp] theorem Chip.count_sess (c : Chip) (i k n : Nat) : (c.count i k n).sess = c.sess := rfl
@[simp] theorem Chip.count_resets (c : Chip) (i k n : Nat) : (c.count i k n).resets = c.resets := rfl
@[simp] theorem Chip.count_agents (c : Chip) (i k n : Nat) : (c.count i k n).agents = c.agents := rfl
@[simp] theorem Chip.count_anchorTime (c : Chip) (i k n : Nat) : (c.count i k n).anchorTime = c.anchorTime := rfl
@[simp] theorem Chip.count_anchorRaw (c : Chip) (i k n : Nat) : (c.count i k n).anchorRaw = c.anchorRaw := rfl
@[simp] theorem Chip.count_raw (c : Chip) (i k n : Nat) : (c.count i k n).raw = c.raw := rfl
@[simp] theorem Chip.count_frame (c : Chip) (i k n : Nat) : (c.count i k n).frame = c.frame := rfl
@[simp] theorem Chip.count_tick (c : Chip) (i k n : Nat) : (c.count i k n).tick = c.tick := rfl
@[simp] theorem Chip.count_links (c : Chip) (i k n : Nat) : (c.count i k n).links = c.links := rfl
@[simp] theorem Chip.count_lanes (c : Chip) (i k n : Nat) : (c.count i k n).lanes = c.lanes := rfl
@[simp] theorem Chip.count_linkFull (c : Chip) (i k n : Nat) : (c.count i k n).linkFull = c.linkFull := rfl
@[simp] theorem Chip.count_loops (c : Chip) (i k n : Nat) : (c.count i k n).loops = c.loops := rfl
@[simp] theorem Chip.count_cores (c : Chip) (i k n : Nat) : (c.count i k n).cores = c.cores := rfl
@[simp] theorem Chip.count_resMap (c : Chip) (i k n : Nat) : (c.count i k n).resMap = c.resMap := rfl
@[simp] theorem Chip.count_travSaved (c : Chip) (i k n : Nat) : (c.count i k n).travSaved = c.travSaved := rfl
@[simp] theorem Chip.count_calRuns (c : Chip) (i k n : Nat) : (c.count i k n).calRuns = c.calRuns := rfl
@[simp] theorem Chip.count_calTemps (c : Chip) (i k n : Nat) : (c.count i k n).calTemps = c.calTemps := rfl
@[simp] theorem Chip.count_calVals (c : Chip) (i k n : Nat) : (c.count i k n).calVals = c.calVals := rfl
@[simp] theorem Chip.count_engines (c : Chip) (i k n : Nat) : (c.count i k n).engines = c.engines := rfl
@[simp] theorem Chip.count_swaps (c : Chip) (i k n : Nat) : (c.count i k n).swaps = c.swaps := rfl
@[simp] theorem Chip.count_notice (c : Chip) (i k n : Nat) : (c.count i k n).notice = c.notice := rfl
@[simp] theorem Chip.count_darkFibres (c : Chip) (i k n : Nat) : (c.count i k n).darkFibres = c.darkFibres := rfl
@[simp] theorem Chip.count_laserFlags (c : Chip) (i k n : Nat) : (c.count i k n).laserFlags = c.laserFlags := rfl
@[simp] theorem Chip.count_colTarget (c : Chip) (i k n : Nat) : (c.count i k n).colTarget = c.colTarget := rfl
@[simp] theorem Chip.count_time (c : Chip) (i k n : Nat) : (c.count i k n).time = c.time := rfl
@[simp] theorem Chip.count_side (c : Chip) (i k n : Nat) : (c.count i k n).side = c.side := rfl
@[simp] theorem Chip.count_flash (c : Chip) (i k n : Nat) : (c.count i k n).flash = c.flash := rfl
@[simp] theorem Chip.count_resetCounts (c : Chip) (i k n : Nat) : (c.count i k n).resetCounts = c.resetCounts := rfl
@[simp] theorem Chip.count_sagSaid (c : Chip) (i k n : Nat) : (c.count i k n).sagSaid = c.sagSaid := rfl
@[simp] theorem Chip.count_means (c : Chip) (i k n : Nat) : (c.count i k n).means = c.means := rfl
@[simp] theorem Chip.count_limDue (c : Chip) (i k n : Nat) : (c.count i k n).limDue = c.limDue := rfl
@[simp] theorem Chip.count_limFrame (c : Chip) (i k n : Nat) : (c.count i k n).limFrame = c.limFrame := rfl
@[simp] theorem Chip.count_limAt (c : Chip) (i k n : Nat) : (c.count i k n).limAt = c.limAt := rfl
@[simp] theorem Chip.count_qps (c : Chip) (i k n : Nat) : (c.count i k n).qps = c.qps := rfl
@[simp] theorem Chip.count_ethFails (c : Chip) (i k n : Nat) : (c.count i k n).ethFails = c.ethFails := rfl
@[simp] theorem Chip.count_opens (c : Chip) (i k n : Nat) : (c.count i k n).opens = c.opens := rfl
@[simp] theorem Chip.count_nextSess (c : Chip) (i k n : Nat) : (c.count i k n).nextSess = c.nextSess := rfl
@[simp] theorem Chip.count_refusedAt (c : Chip) (i k n : Nat) : (c.count i k n).refusedAt = c.refusedAt := rfl
@[simp] theorem Chip.count_snap (c : Chip) (i k n : Nat) : (c.count i k n).snap = c.snap := rfl

@[simp] theorem Chip.bump_blobs (c : Chip) (k : Nat) : (c.bump k).blobs = c.blobs := rfl
@[simp] theorem Chip.bump_out (c : Chip) (k : Nat) : (c.bump k).out = c.out := rfl
@[simp] theorem Chip.bump_fresh (c : Chip) (k : Nat) : (c.bump k).fresh = c.fresh := rfl
@[simp] theorem Chip.bump_extNext (c : Chip) (k : Nat) : (c.bump k).extNext = c.extNext := rfl
@[simp] theorem Chip.bump_ridges (c : Chip) (k : Nat) : (c.bump k).ridges = c.ridges := rfl
@[simp] theorem Chip.bump_queues (c : Chip) (k : Nat) : (c.bump k).queues = c.queues := rfl
@[simp] theorem Chip.bump_spads (c : Chip) (k : Nat) : (c.bump k).spads = c.spads := rfl
@[simp] theorem Chip.bump_units (c : Chip) (k : Nat) : (c.bump k).units = c.units := rfl
@[simp] theorem Chip.bump_parts (c : Chip) (k : Nat) : (c.bump k).parts = c.parts := rfl
@[simp] theorem Chip.bump_pend (c : Chip) (k : Nat) : (c.bump k).pend = c.pend := rfl
@[simp] theorem Chip.bump_pendWait (c : Chip) (k : Nat) : (c.bump k).pendWait = c.pendWait := rfl
@[simp] theorem Chip.bump_hosts (c : Chip) (k : Nat) : (c.bump k).hosts = c.hosts := rfl
@[simp] theorem Chip.bump_streams (c : Chip) (k : Nat) : (c.bump k).streams = c.streams := rfl
@[simp] theorem Chip.bump_cairn (c : Chip) (k : Nat) : (c.bump k).cairn = c.cairn := rfl
@[simp] theorem Chip.bump_sess (c : Chip) (k : Nat) : (c.bump k).sess = c.sess := rfl
@[simp] theorem Chip.bump_resets (c : Chip) (k : Nat) : (c.bump k).resets = c.resets := rfl
@[simp] theorem Chip.bump_agents (c : Chip) (k : Nat) : (c.bump k).agents = c.agents := rfl
@[simp] theorem Chip.bump_anchorTime (c : Chip) (k : Nat) : (c.bump k).anchorTime = c.anchorTime := rfl
@[simp] theorem Chip.bump_anchorRaw (c : Chip) (k : Nat) : (c.bump k).anchorRaw = c.anchorRaw := rfl
@[simp] theorem Chip.bump_raw (c : Chip) (k : Nat) : (c.bump k).raw = c.raw := rfl
@[simp] theorem Chip.bump_frame (c : Chip) (k : Nat) : (c.bump k).frame = c.frame := rfl
@[simp] theorem Chip.bump_tick (c : Chip) (k : Nat) : (c.bump k).tick = c.tick := rfl
@[simp] theorem Chip.bump_links (c : Chip) (k : Nat) : (c.bump k).links = c.links := rfl
@[simp] theorem Chip.bump_lanes (c : Chip) (k : Nat) : (c.bump k).lanes = c.lanes := rfl
@[simp] theorem Chip.bump_linkFull (c : Chip) (k : Nat) : (c.bump k).linkFull = c.linkFull := rfl
@[simp] theorem Chip.bump_loops (c : Chip) (k : Nat) : (c.bump k).loops = c.loops := rfl
@[simp] theorem Chip.bump_cores (c : Chip) (k : Nat) : (c.bump k).cores = c.cores := rfl
@[simp] theorem Chip.bump_resMap (c : Chip) (k : Nat) : (c.bump k).resMap = c.resMap := rfl
@[simp] theorem Chip.bump_travSaved (c : Chip) (k : Nat) : (c.bump k).travSaved = c.travSaved := rfl
@[simp] theorem Chip.bump_calRuns (c : Chip) (k : Nat) : (c.bump k).calRuns = c.calRuns := rfl
@[simp] theorem Chip.bump_calTemps (c : Chip) (k : Nat) : (c.bump k).calTemps = c.calTemps := rfl
@[simp] theorem Chip.bump_calVals (c : Chip) (k : Nat) : (c.bump k).calVals = c.calVals := rfl
@[simp] theorem Chip.bump_engines (c : Chip) (k : Nat) : (c.bump k).engines = c.engines := rfl
@[simp] theorem Chip.bump_swaps (c : Chip) (k : Nat) : (c.bump k).swaps = c.swaps := rfl
@[simp] theorem Chip.bump_notice (c : Chip) (k : Nat) : (c.bump k).notice = c.notice := rfl
@[simp] theorem Chip.bump_darkFibres (c : Chip) (k : Nat) : (c.bump k).darkFibres = c.darkFibres := rfl
@[simp] theorem Chip.bump_laserFlags (c : Chip) (k : Nat) : (c.bump k).laserFlags = c.laserFlags := rfl
@[simp] theorem Chip.bump_colTarget (c : Chip) (k : Nat) : (c.bump k).colTarget = c.colTarget := rfl
@[simp] theorem Chip.bump_time (c : Chip) (k : Nat) : (c.bump k).time = c.time := rfl
@[simp] theorem Chip.bump_side (c : Chip) (k : Nat) : (c.bump k).side = c.side := rfl
@[simp] theorem Chip.bump_flash (c : Chip) (k : Nat) : (c.bump k).flash = c.flash := rfl
@[simp] theorem Chip.bump_resetCounts (c : Chip) (k : Nat) : (c.bump k).resetCounts = c.resetCounts := rfl
@[simp] theorem Chip.bump_sagSaid (c : Chip) (k : Nat) : (c.bump k).sagSaid = c.sagSaid := rfl
@[simp] theorem Chip.bump_means (c : Chip) (k : Nat) : (c.bump k).means = c.means := rfl
@[simp] theorem Chip.bump_limDue (c : Chip) (k : Nat) : (c.bump k).limDue = c.limDue := rfl
@[simp] theorem Chip.bump_limFrame (c : Chip) (k : Nat) : (c.bump k).limFrame = c.limFrame := rfl
@[simp] theorem Chip.bump_limAt (c : Chip) (k : Nat) : (c.bump k).limAt = c.limAt := rfl
@[simp] theorem Chip.bump_qps (c : Chip) (k : Nat) : (c.bump k).qps = c.qps := rfl
@[simp] theorem Chip.bump_ethFails (c : Chip) (k : Nat) : (c.bump k).ethFails = c.ethFails := rfl
@[simp] theorem Chip.bump_opens (c : Chip) (k : Nat) : (c.bump k).opens = c.opens := rfl
@[simp] theorem Chip.bump_nextSess (c : Chip) (k : Nat) : (c.bump k).nextSess = c.nextSess := rfl
@[simp] theorem Chip.bump_refusedAt (c : Chip) (k : Nat) : (c.bump k).refusedAt = c.refusedAt := rfl
@[simp] theorem Chip.bump_snap (c : Chip) (k : Nat) : (c.bump k).snap = c.snap := rfl

@[simp] theorem Chip.setBlob_regs (c : Chip) (i k : Nat) (bs : List Byte) : (c.setBlob i k bs).regs = c.regs := rfl
@[simp] theorem Chip.setBlob_out (c : Chip) (i k : Nat) (bs : List Byte) : (c.setBlob i k bs).out = c.out := rfl
@[simp] theorem Chip.setBlob_fresh (c : Chip) (i k : Nat) (bs : List Byte) : (c.setBlob i k bs).fresh = c.fresh := rfl
@[simp] theorem Chip.setBlob_extNext (c : Chip) (i k : Nat) (bs : List Byte) : (c.setBlob i k bs).extNext = c.extNext := rfl
@[simp] theorem Chip.setBlob_ridges (c : Chip) (i k : Nat) (bs : List Byte) : (c.setBlob i k bs).ridges = c.ridges := rfl
@[simp] theorem Chip.setBlob_queues (c : Chip) (i k : Nat) (bs : List Byte) : (c.setBlob i k bs).queues = c.queues := rfl
@[simp] theorem Chip.setBlob_spads (c : Chip) (i k : Nat) (bs : List Byte) : (c.setBlob i k bs).spads = c.spads := rfl
@[simp] theorem Chip.setBlob_units (c : Chip) (i k : Nat) (bs : List Byte) : (c.setBlob i k bs).units = c.units := rfl
@[simp] theorem Chip.setBlob_parts (c : Chip) (i k : Nat) (bs : List Byte) : (c.setBlob i k bs).parts = c.parts := rfl
@[simp] theorem Chip.setBlob_pend (c : Chip) (i k : Nat) (bs : List Byte) : (c.setBlob i k bs).pend = c.pend := rfl
@[simp] theorem Chip.setBlob_pendWait (c : Chip) (i k : Nat) (bs : List Byte) : (c.setBlob i k bs).pendWait = c.pendWait := rfl
@[simp] theorem Chip.setBlob_hosts (c : Chip) (i k : Nat) (bs : List Byte) : (c.setBlob i k bs).hosts = c.hosts := rfl
@[simp] theorem Chip.setBlob_streams (c : Chip) (i k : Nat) (bs : List Byte) : (c.setBlob i k bs).streams = c.streams := rfl
@[simp] theorem Chip.setBlob_cairn (c : Chip) (i k : Nat) (bs : List Byte) : (c.setBlob i k bs).cairn = c.cairn := rfl
@[simp] theorem Chip.setBlob_sess (c : Chip) (i k : Nat) (bs : List Byte) : (c.setBlob i k bs).sess = c.sess := rfl
@[simp] theorem Chip.setBlob_resets (c : Chip) (i k : Nat) (bs : List Byte) : (c.setBlob i k bs).resets = c.resets := rfl
@[simp] theorem Chip.setBlob_agents (c : Chip) (i k : Nat) (bs : List Byte) : (c.setBlob i k bs).agents = c.agents := rfl
@[simp] theorem Chip.setBlob_anchorTime (c : Chip) (i k : Nat) (bs : List Byte) : (c.setBlob i k bs).anchorTime = c.anchorTime := rfl
@[simp] theorem Chip.setBlob_anchorRaw (c : Chip) (i k : Nat) (bs : List Byte) : (c.setBlob i k bs).anchorRaw = c.anchorRaw := rfl
@[simp] theorem Chip.setBlob_raw (c : Chip) (i k : Nat) (bs : List Byte) : (c.setBlob i k bs).raw = c.raw := rfl
@[simp] theorem Chip.setBlob_frame (c : Chip) (i k : Nat) (bs : List Byte) : (c.setBlob i k bs).frame = c.frame := rfl
@[simp] theorem Chip.setBlob_tick (c : Chip) (i k : Nat) (bs : List Byte) : (c.setBlob i k bs).tick = c.tick := rfl
@[simp] theorem Chip.setBlob_links (c : Chip) (i k : Nat) (bs : List Byte) : (c.setBlob i k bs).links = c.links := rfl
@[simp] theorem Chip.setBlob_lanes (c : Chip) (i k : Nat) (bs : List Byte) : (c.setBlob i k bs).lanes = c.lanes := rfl
@[simp] theorem Chip.setBlob_linkFull (c : Chip) (i k : Nat) (bs : List Byte) : (c.setBlob i k bs).linkFull = c.linkFull := rfl
@[simp] theorem Chip.setBlob_loops (c : Chip) (i k : Nat) (bs : List Byte) : (c.setBlob i k bs).loops = c.loops := rfl
@[simp] theorem Chip.setBlob_cores (c : Chip) (i k : Nat) (bs : List Byte) : (c.setBlob i k bs).cores = c.cores := rfl
@[simp] theorem Chip.setBlob_resMap (c : Chip) (i k : Nat) (bs : List Byte) : (c.setBlob i k bs).resMap = c.resMap := rfl
@[simp] theorem Chip.setBlob_travSaved (c : Chip) (i k : Nat) (bs : List Byte) : (c.setBlob i k bs).travSaved = c.travSaved := rfl
@[simp] theorem Chip.setBlob_calRuns (c : Chip) (i k : Nat) (bs : List Byte) : (c.setBlob i k bs).calRuns = c.calRuns := rfl
@[simp] theorem Chip.setBlob_calTemps (c : Chip) (i k : Nat) (bs : List Byte) : (c.setBlob i k bs).calTemps = c.calTemps := rfl
@[simp] theorem Chip.setBlob_calVals (c : Chip) (i k : Nat) (bs : List Byte) : (c.setBlob i k bs).calVals = c.calVals := rfl
@[simp] theorem Chip.setBlob_engines (c : Chip) (i k : Nat) (bs : List Byte) : (c.setBlob i k bs).engines = c.engines := rfl
@[simp] theorem Chip.setBlob_swaps (c : Chip) (i k : Nat) (bs : List Byte) : (c.setBlob i k bs).swaps = c.swaps := rfl
@[simp] theorem Chip.setBlob_notice (c : Chip) (i k : Nat) (bs : List Byte) : (c.setBlob i k bs).notice = c.notice := rfl
@[simp] theorem Chip.setBlob_darkFibres (c : Chip) (i k : Nat) (bs : List Byte) : (c.setBlob i k bs).darkFibres = c.darkFibres := rfl
@[simp] theorem Chip.setBlob_laserFlags (c : Chip) (i k : Nat) (bs : List Byte) : (c.setBlob i k bs).laserFlags = c.laserFlags := rfl
@[simp] theorem Chip.setBlob_colTarget (c : Chip) (i k : Nat) (bs : List Byte) : (c.setBlob i k bs).colTarget = c.colTarget := rfl
@[simp] theorem Chip.setBlob_time (c : Chip) (i k : Nat) (bs : List Byte) : (c.setBlob i k bs).time = c.time := rfl
@[simp] theorem Chip.setBlob_side (c : Chip) (i k : Nat) (bs : List Byte) : (c.setBlob i k bs).side = c.side := rfl
@[simp] theorem Chip.setBlob_flash (c : Chip) (i k : Nat) (bs : List Byte) : (c.setBlob i k bs).flash = c.flash := rfl
@[simp] theorem Chip.setBlob_resetCounts (c : Chip) (i k : Nat) (bs : List Byte) : (c.setBlob i k bs).resetCounts = c.resetCounts := rfl
@[simp] theorem Chip.setBlob_sagSaid (c : Chip) (i k : Nat) (bs : List Byte) : (c.setBlob i k bs).sagSaid = c.sagSaid := rfl
@[simp] theorem Chip.setBlob_means (c : Chip) (i k : Nat) (bs : List Byte) : (c.setBlob i k bs).means = c.means := rfl
@[simp] theorem Chip.setBlob_limDue (c : Chip) (i k : Nat) (bs : List Byte) : (c.setBlob i k bs).limDue = c.limDue := rfl
@[simp] theorem Chip.setBlob_limFrame (c : Chip) (i k : Nat) (bs : List Byte) : (c.setBlob i k bs).limFrame = c.limFrame := rfl
@[simp] theorem Chip.setBlob_limAt (c : Chip) (i k : Nat) (bs : List Byte) : (c.setBlob i k bs).limAt = c.limAt := rfl
@[simp] theorem Chip.setBlob_qps (c : Chip) (i k : Nat) (bs : List Byte) : (c.setBlob i k bs).qps = c.qps := rfl
@[simp] theorem Chip.setBlob_ethFails (c : Chip) (i k : Nat) (bs : List Byte) : (c.setBlob i k bs).ethFails = c.ethFails := rfl
@[simp] theorem Chip.setBlob_opens (c : Chip) (i k : Nat) (bs : List Byte) : (c.setBlob i k bs).opens = c.opens := rfl
@[simp] theorem Chip.setBlob_nextSess (c : Chip) (i k : Nat) (bs : List Byte) : (c.setBlob i k bs).nextSess = c.nextSess := rfl
@[simp] theorem Chip.setBlob_refusedAt (c : Chip) (i k : Nat) (bs : List Byte) : (c.setBlob i k bs).refusedAt = c.refusedAt := rfl
@[simp] theorem Chip.setBlob_snap (c : Chip) (i k : Nat) (bs : List Byte) : (c.setBlob i k bs).snap = c.snap := rfl

@[simp] theorem Chip.send_regs (c : Chip) (o : Out) : (c.send o).regs = c.regs := rfl
@[simp] theorem Chip.send_blobs (c : Chip) (o : Out) : (c.send o).blobs = c.blobs := rfl
@[simp] theorem Chip.send_fresh (c : Chip) (o : Out) : (c.send o).fresh = c.fresh := rfl
@[simp] theorem Chip.send_extNext (c : Chip) (o : Out) : (c.send o).extNext = c.extNext := rfl
@[simp] theorem Chip.send_ridges (c : Chip) (o : Out) : (c.send o).ridges = c.ridges := rfl
@[simp] theorem Chip.send_queues (c : Chip) (o : Out) : (c.send o).queues = c.queues := rfl
@[simp] theorem Chip.send_spads (c : Chip) (o : Out) : (c.send o).spads = c.spads := rfl
@[simp] theorem Chip.send_units (c : Chip) (o : Out) : (c.send o).units = c.units := rfl
@[simp] theorem Chip.send_parts (c : Chip) (o : Out) : (c.send o).parts = c.parts := rfl
@[simp] theorem Chip.send_pend (c : Chip) (o : Out) : (c.send o).pend = c.pend := rfl
@[simp] theorem Chip.send_pendWait (c : Chip) (o : Out) : (c.send o).pendWait = c.pendWait := rfl
@[simp] theorem Chip.send_hosts (c : Chip) (o : Out) : (c.send o).hosts = c.hosts := rfl
@[simp] theorem Chip.send_streams (c : Chip) (o : Out) : (c.send o).streams = c.streams := rfl
@[simp] theorem Chip.send_cairn (c : Chip) (o : Out) : (c.send o).cairn = c.cairn := rfl
@[simp] theorem Chip.send_sess (c : Chip) (o : Out) : (c.send o).sess = c.sess := rfl
@[simp] theorem Chip.send_resets (c : Chip) (o : Out) : (c.send o).resets = c.resets := rfl
@[simp] theorem Chip.send_agents (c : Chip) (o : Out) : (c.send o).agents = c.agents := rfl
@[simp] theorem Chip.send_anchorTime (c : Chip) (o : Out) : (c.send o).anchorTime = c.anchorTime := rfl
@[simp] theorem Chip.send_anchorRaw (c : Chip) (o : Out) : (c.send o).anchorRaw = c.anchorRaw := rfl
@[simp] theorem Chip.send_raw (c : Chip) (o : Out) : (c.send o).raw = c.raw := rfl
@[simp] theorem Chip.send_frame (c : Chip) (o : Out) : (c.send o).frame = c.frame := rfl
@[simp] theorem Chip.send_tick (c : Chip) (o : Out) : (c.send o).tick = c.tick := rfl
@[simp] theorem Chip.send_links (c : Chip) (o : Out) : (c.send o).links = c.links := rfl
@[simp] theorem Chip.send_lanes (c : Chip) (o : Out) : (c.send o).lanes = c.lanes := rfl
@[simp] theorem Chip.send_linkFull (c : Chip) (o : Out) : (c.send o).linkFull = c.linkFull := rfl
@[simp] theorem Chip.send_loops (c : Chip) (o : Out) : (c.send o).loops = c.loops := rfl
@[simp] theorem Chip.send_cores (c : Chip) (o : Out) : (c.send o).cores = c.cores := rfl
@[simp] theorem Chip.send_resMap (c : Chip) (o : Out) : (c.send o).resMap = c.resMap := rfl
@[simp] theorem Chip.send_travSaved (c : Chip) (o : Out) : (c.send o).travSaved = c.travSaved := rfl
@[simp] theorem Chip.send_calRuns (c : Chip) (o : Out) : (c.send o).calRuns = c.calRuns := rfl
@[simp] theorem Chip.send_calTemps (c : Chip) (o : Out) : (c.send o).calTemps = c.calTemps := rfl
@[simp] theorem Chip.send_calVals (c : Chip) (o : Out) : (c.send o).calVals = c.calVals := rfl
@[simp] theorem Chip.send_engines (c : Chip) (o : Out) : (c.send o).engines = c.engines := rfl
@[simp] theorem Chip.send_swaps (c : Chip) (o : Out) : (c.send o).swaps = c.swaps := rfl
@[simp] theorem Chip.send_notice (c : Chip) (o : Out) : (c.send o).notice = c.notice := rfl
@[simp] theorem Chip.send_darkFibres (c : Chip) (o : Out) : (c.send o).darkFibres = c.darkFibres := rfl
@[simp] theorem Chip.send_laserFlags (c : Chip) (o : Out) : (c.send o).laserFlags = c.laserFlags := rfl
@[simp] theorem Chip.send_colTarget (c : Chip) (o : Out) : (c.send o).colTarget = c.colTarget := rfl
@[simp] theorem Chip.send_time (c : Chip) (o : Out) : (c.send o).time = c.time := rfl
@[simp] theorem Chip.send_side (c : Chip) (o : Out) : (c.send o).side = c.side := rfl
@[simp] theorem Chip.send_flash (c : Chip) (o : Out) : (c.send o).flash = c.flash := rfl
@[simp] theorem Chip.send_resetCounts (c : Chip) (o : Out) : (c.send o).resetCounts = c.resetCounts := rfl
@[simp] theorem Chip.send_sagSaid (c : Chip) (o : Out) : (c.send o).sagSaid = c.sagSaid := rfl
@[simp] theorem Chip.send_means (c : Chip) (o : Out) : (c.send o).means = c.means := rfl
@[simp] theorem Chip.send_limDue (c : Chip) (o : Out) : (c.send o).limDue = c.limDue := rfl
@[simp] theorem Chip.send_limFrame (c : Chip) (o : Out) : (c.send o).limFrame = c.limFrame := rfl
@[simp] theorem Chip.send_limAt (c : Chip) (o : Out) : (c.send o).limAt = c.limAt := rfl
@[simp] theorem Chip.send_qps (c : Chip) (o : Out) : (c.send o).qps = c.qps := rfl
@[simp] theorem Chip.send_ethFails (c : Chip) (o : Out) : (c.send o).ethFails = c.ethFails := rfl
@[simp] theorem Chip.send_opens (c : Chip) (o : Out) : (c.send o).opens = c.opens := rfl
@[simp] theorem Chip.send_nextSess (c : Chip) (o : Out) : (c.send o).nextSess = c.nextSess := rfl
@[simp] theorem Chip.send_refusedAt (c : Chip) (o : Out) : (c.send o).refusedAt = c.refusedAt := rfl
@[simp] theorem Chip.send_snap (c : Chip) (o : Out) : (c.send o).snap = c.snap := rfl

@[simp] theorem Chip.extSet_regs (c : Chip) (k v : Nat) : (c.extSet k v).regs = c.regs := rfl
@[simp] theorem Chip.extSet_blobs (c : Chip) (k v : Nat) : (c.extSet k v).blobs = c.blobs := rfl
@[simp] theorem Chip.extSet_out (c : Chip) (k v : Nat) : (c.extSet k v).out = c.out := rfl
@[simp] theorem Chip.extSet_fresh (c : Chip) (k v : Nat) : (c.extSet k v).fresh = c.fresh := rfl
@[simp] theorem Chip.extSet_ridges (c : Chip) (k v : Nat) : (c.extSet k v).ridges = c.ridges := rfl
@[simp] theorem Chip.extSet_queues (c : Chip) (k v : Nat) : (c.extSet k v).queues = c.queues := rfl
@[simp] theorem Chip.extSet_spads (c : Chip) (k v : Nat) : (c.extSet k v).spads = c.spads := rfl
@[simp] theorem Chip.extSet_units (c : Chip) (k v : Nat) : (c.extSet k v).units = c.units := rfl
@[simp] theorem Chip.extSet_parts (c : Chip) (k v : Nat) : (c.extSet k v).parts = c.parts := rfl
@[simp] theorem Chip.extSet_pend (c : Chip) (k v : Nat) : (c.extSet k v).pend = c.pend := rfl
@[simp] theorem Chip.extSet_pendWait (c : Chip) (k v : Nat) : (c.extSet k v).pendWait = c.pendWait := rfl
@[simp] theorem Chip.extSet_hosts (c : Chip) (k v : Nat) : (c.extSet k v).hosts = c.hosts := rfl
@[simp] theorem Chip.extSet_streams (c : Chip) (k v : Nat) : (c.extSet k v).streams = c.streams := rfl
@[simp] theorem Chip.extSet_cairn (c : Chip) (k v : Nat) : (c.extSet k v).cairn = c.cairn := rfl
@[simp] theorem Chip.extSet_sess (c : Chip) (k v : Nat) : (c.extSet k v).sess = c.sess := rfl
@[simp] theorem Chip.extSet_resets (c : Chip) (k v : Nat) : (c.extSet k v).resets = c.resets := rfl
@[simp] theorem Chip.extSet_agents (c : Chip) (k v : Nat) : (c.extSet k v).agents = c.agents := rfl
@[simp] theorem Chip.extSet_anchorTime (c : Chip) (k v : Nat) : (c.extSet k v).anchorTime = c.anchorTime := rfl
@[simp] theorem Chip.extSet_anchorRaw (c : Chip) (k v : Nat) : (c.extSet k v).anchorRaw = c.anchorRaw := rfl
@[simp] theorem Chip.extSet_raw (c : Chip) (k v : Nat) : (c.extSet k v).raw = c.raw := rfl
@[simp] theorem Chip.extSet_frame (c : Chip) (k v : Nat) : (c.extSet k v).frame = c.frame := rfl
@[simp] theorem Chip.extSet_tick (c : Chip) (k v : Nat) : (c.extSet k v).tick = c.tick := rfl
@[simp] theorem Chip.extSet_links (c : Chip) (k v : Nat) : (c.extSet k v).links = c.links := rfl
@[simp] theorem Chip.extSet_lanes (c : Chip) (k v : Nat) : (c.extSet k v).lanes = c.lanes := rfl
@[simp] theorem Chip.extSet_linkFull (c : Chip) (k v : Nat) : (c.extSet k v).linkFull = c.linkFull := rfl
@[simp] theorem Chip.extSet_loops (c : Chip) (k v : Nat) : (c.extSet k v).loops = c.loops := rfl
@[simp] theorem Chip.extSet_cores (c : Chip) (k v : Nat) : (c.extSet k v).cores = c.cores := rfl
@[simp] theorem Chip.extSet_resMap (c : Chip) (k v : Nat) : (c.extSet k v).resMap = c.resMap := rfl
@[simp] theorem Chip.extSet_travSaved (c : Chip) (k v : Nat) : (c.extSet k v).travSaved = c.travSaved := rfl
@[simp] theorem Chip.extSet_calRuns (c : Chip) (k v : Nat) : (c.extSet k v).calRuns = c.calRuns := rfl
@[simp] theorem Chip.extSet_calTemps (c : Chip) (k v : Nat) : (c.extSet k v).calTemps = c.calTemps := rfl
@[simp] theorem Chip.extSet_calVals (c : Chip) (k v : Nat) : (c.extSet k v).calVals = c.calVals := rfl
@[simp] theorem Chip.extSet_engines (c : Chip) (k v : Nat) : (c.extSet k v).engines = c.engines := rfl
@[simp] theorem Chip.extSet_swaps (c : Chip) (k v : Nat) : (c.extSet k v).swaps = c.swaps := rfl
@[simp] theorem Chip.extSet_notice (c : Chip) (k v : Nat) : (c.extSet k v).notice = c.notice := rfl
@[simp] theorem Chip.extSet_darkFibres (c : Chip) (k v : Nat) : (c.extSet k v).darkFibres = c.darkFibres := rfl
@[simp] theorem Chip.extSet_laserFlags (c : Chip) (k v : Nat) : (c.extSet k v).laserFlags = c.laserFlags := rfl
@[simp] theorem Chip.extSet_colTarget (c : Chip) (k v : Nat) : (c.extSet k v).colTarget = c.colTarget := rfl
@[simp] theorem Chip.extSet_time (c : Chip) (k v : Nat) : (c.extSet k v).time = c.time := rfl
@[simp] theorem Chip.extSet_side (c : Chip) (k v : Nat) : (c.extSet k v).side = c.side := rfl
@[simp] theorem Chip.extSet_flash (c : Chip) (k v : Nat) : (c.extSet k v).flash = c.flash := rfl
@[simp] theorem Chip.extSet_resetCounts (c : Chip) (k v : Nat) : (c.extSet k v).resetCounts = c.resetCounts := rfl
@[simp] theorem Chip.extSet_sagSaid (c : Chip) (k v : Nat) : (c.extSet k v).sagSaid = c.sagSaid := rfl
@[simp] theorem Chip.extSet_means (c : Chip) (k v : Nat) : (c.extSet k v).means = c.means := rfl
@[simp] theorem Chip.extSet_limDue (c : Chip) (k v : Nat) : (c.extSet k v).limDue = c.limDue := rfl
@[simp] theorem Chip.extSet_limFrame (c : Chip) (k v : Nat) : (c.extSet k v).limFrame = c.limFrame := rfl
@[simp] theorem Chip.extSet_limAt (c : Chip) (k v : Nat) : (c.extSet k v).limAt = c.limAt := rfl
@[simp] theorem Chip.extSet_qps (c : Chip) (k v : Nat) : (c.extSet k v).qps = c.qps := rfl
@[simp] theorem Chip.extSet_ethFails (c : Chip) (k v : Nat) : (c.extSet k v).ethFails = c.ethFails := rfl
@[simp] theorem Chip.extSet_opens (c : Chip) (k v : Nat) : (c.extSet k v).opens = c.opens := rfl
@[simp] theorem Chip.extSet_nextSess (c : Chip) (k v : Nat) : (c.extSet k v).nextSess = c.nextSess := rfl
@[simp] theorem Chip.extSet_refusedAt (c : Chip) (k v : Nat) : (c.extSet k v).refusedAt = c.refusedAt := rfl
@[simp] theorem Chip.extSet_snap (c : Chip) (k v : Nat) : (c.extSet k v).snap = c.snap := rfl

@[simp] theorem Chip.setRidge_regs (c : Chip) (n : Nat) (r : Ridge) : (c.setRidge n r).regs = c.regs := rfl
@[simp] theorem Chip.setRidge_blobs (c : Chip) (n : Nat) (r : Ridge) : (c.setRidge n r).blobs = c.blobs := rfl
@[simp] theorem Chip.setRidge_out (c : Chip) (n : Nat) (r : Ridge) : (c.setRidge n r).out = c.out := rfl
@[simp] theorem Chip.setRidge_fresh (c : Chip) (n : Nat) (r : Ridge) : (c.setRidge n r).fresh = c.fresh := rfl
@[simp] theorem Chip.setRidge_extNext (c : Chip) (n : Nat) (r : Ridge) : (c.setRidge n r).extNext = c.extNext := rfl
@[simp] theorem Chip.setRidge_queues (c : Chip) (n : Nat) (r : Ridge) : (c.setRidge n r).queues = c.queues := rfl
@[simp] theorem Chip.setRidge_spads (c : Chip) (n : Nat) (r : Ridge) : (c.setRidge n r).spads = c.spads := rfl
@[simp] theorem Chip.setRidge_units (c : Chip) (n : Nat) (r : Ridge) : (c.setRidge n r).units = c.units := rfl
@[simp] theorem Chip.setRidge_parts (c : Chip) (n : Nat) (r : Ridge) : (c.setRidge n r).parts = c.parts := rfl
@[simp] theorem Chip.setRidge_pend (c : Chip) (n : Nat) (r : Ridge) : (c.setRidge n r).pend = c.pend := rfl
@[simp] theorem Chip.setRidge_pendWait (c : Chip) (n : Nat) (r : Ridge) : (c.setRidge n r).pendWait = c.pendWait := rfl
@[simp] theorem Chip.setRidge_hosts (c : Chip) (n : Nat) (r : Ridge) : (c.setRidge n r).hosts = c.hosts := rfl
@[simp] theorem Chip.setRidge_streams (c : Chip) (n : Nat) (r : Ridge) : (c.setRidge n r).streams = c.streams := rfl
@[simp] theorem Chip.setRidge_cairn (c : Chip) (n : Nat) (r : Ridge) : (c.setRidge n r).cairn = c.cairn := rfl
@[simp] theorem Chip.setRidge_sess (c : Chip) (n : Nat) (r : Ridge) : (c.setRidge n r).sess = c.sess := rfl
@[simp] theorem Chip.setRidge_resets (c : Chip) (n : Nat) (r : Ridge) : (c.setRidge n r).resets = c.resets := rfl
@[simp] theorem Chip.setRidge_agents (c : Chip) (n : Nat) (r : Ridge) : (c.setRidge n r).agents = c.agents := rfl
@[simp] theorem Chip.setRidge_anchorTime (c : Chip) (n : Nat) (r : Ridge) : (c.setRidge n r).anchorTime = c.anchorTime := rfl
@[simp] theorem Chip.setRidge_anchorRaw (c : Chip) (n : Nat) (r : Ridge) : (c.setRidge n r).anchorRaw = c.anchorRaw := rfl
@[simp] theorem Chip.setRidge_raw (c : Chip) (n : Nat) (r : Ridge) : (c.setRidge n r).raw = c.raw := rfl
@[simp] theorem Chip.setRidge_frame (c : Chip) (n : Nat) (r : Ridge) : (c.setRidge n r).frame = c.frame := rfl
@[simp] theorem Chip.setRidge_tick (c : Chip) (n : Nat) (r : Ridge) : (c.setRidge n r).tick = c.tick := rfl
@[simp] theorem Chip.setRidge_links (c : Chip) (n : Nat) (r : Ridge) : (c.setRidge n r).links = c.links := rfl
@[simp] theorem Chip.setRidge_lanes (c : Chip) (n : Nat) (r : Ridge) : (c.setRidge n r).lanes = c.lanes := rfl
@[simp] theorem Chip.setRidge_linkFull (c : Chip) (n : Nat) (r : Ridge) : (c.setRidge n r).linkFull = c.linkFull := rfl
@[simp] theorem Chip.setRidge_loops (c : Chip) (n : Nat) (r : Ridge) : (c.setRidge n r).loops = c.loops := rfl
@[simp] theorem Chip.setRidge_cores (c : Chip) (n : Nat) (r : Ridge) : (c.setRidge n r).cores = c.cores := rfl
@[simp] theorem Chip.setRidge_resMap (c : Chip) (n : Nat) (r : Ridge) : (c.setRidge n r).resMap = c.resMap := rfl
@[simp] theorem Chip.setRidge_travSaved (c : Chip) (n : Nat) (r : Ridge) : (c.setRidge n r).travSaved = c.travSaved := rfl
@[simp] theorem Chip.setRidge_calRuns (c : Chip) (n : Nat) (r : Ridge) : (c.setRidge n r).calRuns = c.calRuns := rfl
@[simp] theorem Chip.setRidge_calTemps (c : Chip) (n : Nat) (r : Ridge) : (c.setRidge n r).calTemps = c.calTemps := rfl
@[simp] theorem Chip.setRidge_calVals (c : Chip) (n : Nat) (r : Ridge) : (c.setRidge n r).calVals = c.calVals := rfl
@[simp] theorem Chip.setRidge_engines (c : Chip) (n : Nat) (r : Ridge) : (c.setRidge n r).engines = c.engines := rfl
@[simp] theorem Chip.setRidge_swaps (c : Chip) (n : Nat) (r : Ridge) : (c.setRidge n r).swaps = c.swaps := rfl
@[simp] theorem Chip.setRidge_notice (c : Chip) (n : Nat) (r : Ridge) : (c.setRidge n r).notice = c.notice := rfl
@[simp] theorem Chip.setRidge_darkFibres (c : Chip) (n : Nat) (r : Ridge) : (c.setRidge n r).darkFibres = c.darkFibres := rfl
@[simp] theorem Chip.setRidge_laserFlags (c : Chip) (n : Nat) (r : Ridge) : (c.setRidge n r).laserFlags = c.laserFlags := rfl
@[simp] theorem Chip.setRidge_colTarget (c : Chip) (n : Nat) (r : Ridge) : (c.setRidge n r).colTarget = c.colTarget := rfl
@[simp] theorem Chip.setRidge_time (c : Chip) (n : Nat) (r : Ridge) : (c.setRidge n r).time = c.time := rfl
@[simp] theorem Chip.setRidge_side (c : Chip) (n : Nat) (r : Ridge) : (c.setRidge n r).side = c.side := rfl
@[simp] theorem Chip.setRidge_flash (c : Chip) (n : Nat) (r : Ridge) : (c.setRidge n r).flash = c.flash := rfl
@[simp] theorem Chip.setRidge_resetCounts (c : Chip) (n : Nat) (r : Ridge) : (c.setRidge n r).resetCounts = c.resetCounts := rfl
@[simp] theorem Chip.setRidge_sagSaid (c : Chip) (n : Nat) (r : Ridge) : (c.setRidge n r).sagSaid = c.sagSaid := rfl
@[simp] theorem Chip.setRidge_means (c : Chip) (n : Nat) (r : Ridge) : (c.setRidge n r).means = c.means := rfl
@[simp] theorem Chip.setRidge_limDue (c : Chip) (n : Nat) (r : Ridge) : (c.setRidge n r).limDue = c.limDue := rfl
@[simp] theorem Chip.setRidge_limFrame (c : Chip) (n : Nat) (r : Ridge) : (c.setRidge n r).limFrame = c.limFrame := rfl
@[simp] theorem Chip.setRidge_limAt (c : Chip) (n : Nat) (r : Ridge) : (c.setRidge n r).limAt = c.limAt := rfl
@[simp] theorem Chip.setRidge_qps (c : Chip) (n : Nat) (r : Ridge) : (c.setRidge n r).qps = c.qps := rfl
@[simp] theorem Chip.setRidge_ethFails (c : Chip) (n : Nat) (r : Ridge) : (c.setRidge n r).ethFails = c.ethFails := rfl
@[simp] theorem Chip.setRidge_opens (c : Chip) (n : Nat) (r : Ridge) : (c.setRidge n r).opens = c.opens := rfl
@[simp] theorem Chip.setRidge_nextSess (c : Chip) (n : Nat) (r : Ridge) : (c.setRidge n r).nextSess = c.nextSess := rfl
@[simp] theorem Chip.setRidge_refusedAt (c : Chip) (n : Nat) (r : Ridge) : (c.setRidge n r).refusedAt = c.refusedAt := rfl
@[simp] theorem Chip.setRidge_snap (c : Chip) (n : Nat) (r : Ridge) : (c.setRidge n r).snap = c.snap := rfl

@[simp] theorem Chip.updRidge_regs (c : Chip) (n : Nat) (f : Ridge → Ridge) : (c.updRidge n f).regs = c.regs := rfl
@[simp] theorem Chip.updRidge_blobs (c : Chip) (n : Nat) (f : Ridge → Ridge) : (c.updRidge n f).blobs = c.blobs := rfl
@[simp] theorem Chip.updRidge_out (c : Chip) (n : Nat) (f : Ridge → Ridge) : (c.updRidge n f).out = c.out := rfl
@[simp] theorem Chip.updRidge_fresh (c : Chip) (n : Nat) (f : Ridge → Ridge) : (c.updRidge n f).fresh = c.fresh := rfl
@[simp] theorem Chip.updRidge_extNext (c : Chip) (n : Nat) (f : Ridge → Ridge) : (c.updRidge n f).extNext = c.extNext := rfl
@[simp] theorem Chip.updRidge_queues (c : Chip) (n : Nat) (f : Ridge → Ridge) : (c.updRidge n f).queues = c.queues := rfl
@[simp] theorem Chip.updRidge_spads (c : Chip) (n : Nat) (f : Ridge → Ridge) : (c.updRidge n f).spads = c.spads := rfl
@[simp] theorem Chip.updRidge_units (c : Chip) (n : Nat) (f : Ridge → Ridge) : (c.updRidge n f).units = c.units := rfl
@[simp] theorem Chip.updRidge_parts (c : Chip) (n : Nat) (f : Ridge → Ridge) : (c.updRidge n f).parts = c.parts := rfl
@[simp] theorem Chip.updRidge_pend (c : Chip) (n : Nat) (f : Ridge → Ridge) : (c.updRidge n f).pend = c.pend := rfl
@[simp] theorem Chip.updRidge_pendWait (c : Chip) (n : Nat) (f : Ridge → Ridge) : (c.updRidge n f).pendWait = c.pendWait := rfl
@[simp] theorem Chip.updRidge_hosts (c : Chip) (n : Nat) (f : Ridge → Ridge) : (c.updRidge n f).hosts = c.hosts := rfl
@[simp] theorem Chip.updRidge_streams (c : Chip) (n : Nat) (f : Ridge → Ridge) : (c.updRidge n f).streams = c.streams := rfl
@[simp] theorem Chip.updRidge_cairn (c : Chip) (n : Nat) (f : Ridge → Ridge) : (c.updRidge n f).cairn = c.cairn := rfl
@[simp] theorem Chip.updRidge_sess (c : Chip) (n : Nat) (f : Ridge → Ridge) : (c.updRidge n f).sess = c.sess := rfl
@[simp] theorem Chip.updRidge_resets (c : Chip) (n : Nat) (f : Ridge → Ridge) : (c.updRidge n f).resets = c.resets := rfl
@[simp] theorem Chip.updRidge_agents (c : Chip) (n : Nat) (f : Ridge → Ridge) : (c.updRidge n f).agents = c.agents := rfl
@[simp] theorem Chip.updRidge_anchorTime (c : Chip) (n : Nat) (f : Ridge → Ridge) : (c.updRidge n f).anchorTime = c.anchorTime := rfl
@[simp] theorem Chip.updRidge_anchorRaw (c : Chip) (n : Nat) (f : Ridge → Ridge) : (c.updRidge n f).anchorRaw = c.anchorRaw := rfl
@[simp] theorem Chip.updRidge_raw (c : Chip) (n : Nat) (f : Ridge → Ridge) : (c.updRidge n f).raw = c.raw := rfl
@[simp] theorem Chip.updRidge_frame (c : Chip) (n : Nat) (f : Ridge → Ridge) : (c.updRidge n f).frame = c.frame := rfl
@[simp] theorem Chip.updRidge_tick (c : Chip) (n : Nat) (f : Ridge → Ridge) : (c.updRidge n f).tick = c.tick := rfl
@[simp] theorem Chip.updRidge_links (c : Chip) (n : Nat) (f : Ridge → Ridge) : (c.updRidge n f).links = c.links := rfl
@[simp] theorem Chip.updRidge_lanes (c : Chip) (n : Nat) (f : Ridge → Ridge) : (c.updRidge n f).lanes = c.lanes := rfl
@[simp] theorem Chip.updRidge_linkFull (c : Chip) (n : Nat) (f : Ridge → Ridge) : (c.updRidge n f).linkFull = c.linkFull := rfl
@[simp] theorem Chip.updRidge_loops (c : Chip) (n : Nat) (f : Ridge → Ridge) : (c.updRidge n f).loops = c.loops := rfl
@[simp] theorem Chip.updRidge_cores (c : Chip) (n : Nat) (f : Ridge → Ridge) : (c.updRidge n f).cores = c.cores := rfl
@[simp] theorem Chip.updRidge_resMap (c : Chip) (n : Nat) (f : Ridge → Ridge) : (c.updRidge n f).resMap = c.resMap := rfl
@[simp] theorem Chip.updRidge_travSaved (c : Chip) (n : Nat) (f : Ridge → Ridge) : (c.updRidge n f).travSaved = c.travSaved := rfl
@[simp] theorem Chip.updRidge_calRuns (c : Chip) (n : Nat) (f : Ridge → Ridge) : (c.updRidge n f).calRuns = c.calRuns := rfl
@[simp] theorem Chip.updRidge_calTemps (c : Chip) (n : Nat) (f : Ridge → Ridge) : (c.updRidge n f).calTemps = c.calTemps := rfl
@[simp] theorem Chip.updRidge_calVals (c : Chip) (n : Nat) (f : Ridge → Ridge) : (c.updRidge n f).calVals = c.calVals := rfl
@[simp] theorem Chip.updRidge_engines (c : Chip) (n : Nat) (f : Ridge → Ridge) : (c.updRidge n f).engines = c.engines := rfl
@[simp] theorem Chip.updRidge_swaps (c : Chip) (n : Nat) (f : Ridge → Ridge) : (c.updRidge n f).swaps = c.swaps := rfl
@[simp] theorem Chip.updRidge_notice (c : Chip) (n : Nat) (f : Ridge → Ridge) : (c.updRidge n f).notice = c.notice := rfl
@[simp] theorem Chip.updRidge_darkFibres (c : Chip) (n : Nat) (f : Ridge → Ridge) : (c.updRidge n f).darkFibres = c.darkFibres := rfl
@[simp] theorem Chip.updRidge_laserFlags (c : Chip) (n : Nat) (f : Ridge → Ridge) : (c.updRidge n f).laserFlags = c.laserFlags := rfl
@[simp] theorem Chip.updRidge_colTarget (c : Chip) (n : Nat) (f : Ridge → Ridge) : (c.updRidge n f).colTarget = c.colTarget := rfl
@[simp] theorem Chip.updRidge_time (c : Chip) (n : Nat) (f : Ridge → Ridge) : (c.updRidge n f).time = c.time := rfl
@[simp] theorem Chip.updRidge_side (c : Chip) (n : Nat) (f : Ridge → Ridge) : (c.updRidge n f).side = c.side := rfl
@[simp] theorem Chip.updRidge_flash (c : Chip) (n : Nat) (f : Ridge → Ridge) : (c.updRidge n f).flash = c.flash := rfl
@[simp] theorem Chip.updRidge_resetCounts (c : Chip) (n : Nat) (f : Ridge → Ridge) : (c.updRidge n f).resetCounts = c.resetCounts := rfl
@[simp] theorem Chip.updRidge_sagSaid (c : Chip) (n : Nat) (f : Ridge → Ridge) : (c.updRidge n f).sagSaid = c.sagSaid := rfl
@[simp] theorem Chip.updRidge_means (c : Chip) (n : Nat) (f : Ridge → Ridge) : (c.updRidge n f).means = c.means := rfl
@[simp] theorem Chip.updRidge_limDue (c : Chip) (n : Nat) (f : Ridge → Ridge) : (c.updRidge n f).limDue = c.limDue := rfl
@[simp] theorem Chip.updRidge_limFrame (c : Chip) (n : Nat) (f : Ridge → Ridge) : (c.updRidge n f).limFrame = c.limFrame := rfl
@[simp] theorem Chip.updRidge_limAt (c : Chip) (n : Nat) (f : Ridge → Ridge) : (c.updRidge n f).limAt = c.limAt := rfl
@[simp] theorem Chip.updRidge_qps (c : Chip) (n : Nat) (f : Ridge → Ridge) : (c.updRidge n f).qps = c.qps := rfl
@[simp] theorem Chip.updRidge_ethFails (c : Chip) (n : Nat) (f : Ridge → Ridge) : (c.updRidge n f).ethFails = c.ethFails := rfl
@[simp] theorem Chip.updRidge_opens (c : Chip) (n : Nat) (f : Ridge → Ridge) : (c.updRidge n f).opens = c.opens := rfl
@[simp] theorem Chip.updRidge_nextSess (c : Chip) (n : Nat) (f : Ridge → Ridge) : (c.updRidge n f).nextSess = c.nextSess := rfl
@[simp] theorem Chip.updRidge_refusedAt (c : Chip) (n : Nat) (f : Ridge → Ridge) : (c.updRidge n f).refusedAt = c.refusedAt := rfl
@[simp] theorem Chip.updRidge_snap (c : Chip) (n : Nat) (f : Ridge → Ridge) : (c.updRidge n f).snap = c.snap := rfl

@[simp] theorem Chip.setQueue_regs (c : Chip) (n q : Nat) (x : Queue) : (c.setQueue n q x).regs = c.regs := rfl
@[simp] theorem Chip.setQueue_blobs (c : Chip) (n q : Nat) (x : Queue) : (c.setQueue n q x).blobs = c.blobs := rfl
@[simp] theorem Chip.setQueue_out (c : Chip) (n q : Nat) (x : Queue) : (c.setQueue n q x).out = c.out := rfl
@[simp] theorem Chip.setQueue_fresh (c : Chip) (n q : Nat) (x : Queue) : (c.setQueue n q x).fresh = c.fresh := rfl
@[simp] theorem Chip.setQueue_extNext (c : Chip) (n q : Nat) (x : Queue) : (c.setQueue n q x).extNext = c.extNext := rfl
@[simp] theorem Chip.setQueue_ridges (c : Chip) (n q : Nat) (x : Queue) : (c.setQueue n q x).ridges = c.ridges := rfl
@[simp] theorem Chip.setQueue_spads (c : Chip) (n q : Nat) (x : Queue) : (c.setQueue n q x).spads = c.spads := rfl
@[simp] theorem Chip.setQueue_units (c : Chip) (n q : Nat) (x : Queue) : (c.setQueue n q x).units = c.units := rfl
@[simp] theorem Chip.setQueue_parts (c : Chip) (n q : Nat) (x : Queue) : (c.setQueue n q x).parts = c.parts := rfl
@[simp] theorem Chip.setQueue_pend (c : Chip) (n q : Nat) (x : Queue) : (c.setQueue n q x).pend = c.pend := rfl
@[simp] theorem Chip.setQueue_pendWait (c : Chip) (n q : Nat) (x : Queue) : (c.setQueue n q x).pendWait = c.pendWait := rfl
@[simp] theorem Chip.setQueue_hosts (c : Chip) (n q : Nat) (x : Queue) : (c.setQueue n q x).hosts = c.hosts := rfl
@[simp] theorem Chip.setQueue_streams (c : Chip) (n q : Nat) (x : Queue) : (c.setQueue n q x).streams = c.streams := rfl
@[simp] theorem Chip.setQueue_cairn (c : Chip) (n q : Nat) (x : Queue) : (c.setQueue n q x).cairn = c.cairn := rfl
@[simp] theorem Chip.setQueue_sess (c : Chip) (n q : Nat) (x : Queue) : (c.setQueue n q x).sess = c.sess := rfl
@[simp] theorem Chip.setQueue_resets (c : Chip) (n q : Nat) (x : Queue) : (c.setQueue n q x).resets = c.resets := rfl
@[simp] theorem Chip.setQueue_agents (c : Chip) (n q : Nat) (x : Queue) : (c.setQueue n q x).agents = c.agents := rfl
@[simp] theorem Chip.setQueue_anchorTime (c : Chip) (n q : Nat) (x : Queue) : (c.setQueue n q x).anchorTime = c.anchorTime := rfl
@[simp] theorem Chip.setQueue_anchorRaw (c : Chip) (n q : Nat) (x : Queue) : (c.setQueue n q x).anchorRaw = c.anchorRaw := rfl
@[simp] theorem Chip.setQueue_raw (c : Chip) (n q : Nat) (x : Queue) : (c.setQueue n q x).raw = c.raw := rfl
@[simp] theorem Chip.setQueue_frame (c : Chip) (n q : Nat) (x : Queue) : (c.setQueue n q x).frame = c.frame := rfl
@[simp] theorem Chip.setQueue_tick (c : Chip) (n q : Nat) (x : Queue) : (c.setQueue n q x).tick = c.tick := rfl
@[simp] theorem Chip.setQueue_links (c : Chip) (n q : Nat) (x : Queue) : (c.setQueue n q x).links = c.links := rfl
@[simp] theorem Chip.setQueue_lanes (c : Chip) (n q : Nat) (x : Queue) : (c.setQueue n q x).lanes = c.lanes := rfl
@[simp] theorem Chip.setQueue_linkFull (c : Chip) (n q : Nat) (x : Queue) : (c.setQueue n q x).linkFull = c.linkFull := rfl
@[simp] theorem Chip.setQueue_loops (c : Chip) (n q : Nat) (x : Queue) : (c.setQueue n q x).loops = c.loops := rfl
@[simp] theorem Chip.setQueue_cores (c : Chip) (n q : Nat) (x : Queue) : (c.setQueue n q x).cores = c.cores := rfl
@[simp] theorem Chip.setQueue_resMap (c : Chip) (n q : Nat) (x : Queue) : (c.setQueue n q x).resMap = c.resMap := rfl
@[simp] theorem Chip.setQueue_travSaved (c : Chip) (n q : Nat) (x : Queue) : (c.setQueue n q x).travSaved = c.travSaved := rfl
@[simp] theorem Chip.setQueue_calRuns (c : Chip) (n q : Nat) (x : Queue) : (c.setQueue n q x).calRuns = c.calRuns := rfl
@[simp] theorem Chip.setQueue_calTemps (c : Chip) (n q : Nat) (x : Queue) : (c.setQueue n q x).calTemps = c.calTemps := rfl
@[simp] theorem Chip.setQueue_calVals (c : Chip) (n q : Nat) (x : Queue) : (c.setQueue n q x).calVals = c.calVals := rfl
@[simp] theorem Chip.setQueue_engines (c : Chip) (n q : Nat) (x : Queue) : (c.setQueue n q x).engines = c.engines := rfl
@[simp] theorem Chip.setQueue_swaps (c : Chip) (n q : Nat) (x : Queue) : (c.setQueue n q x).swaps = c.swaps := rfl
@[simp] theorem Chip.setQueue_notice (c : Chip) (n q : Nat) (x : Queue) : (c.setQueue n q x).notice = c.notice := rfl
@[simp] theorem Chip.setQueue_darkFibres (c : Chip) (n q : Nat) (x : Queue) : (c.setQueue n q x).darkFibres = c.darkFibres := rfl
@[simp] theorem Chip.setQueue_laserFlags (c : Chip) (n q : Nat) (x : Queue) : (c.setQueue n q x).laserFlags = c.laserFlags := rfl
@[simp] theorem Chip.setQueue_colTarget (c : Chip) (n q : Nat) (x : Queue) : (c.setQueue n q x).colTarget = c.colTarget := rfl
@[simp] theorem Chip.setQueue_time (c : Chip) (n q : Nat) (x : Queue) : (c.setQueue n q x).time = c.time := rfl
@[simp] theorem Chip.setQueue_side (c : Chip) (n q : Nat) (x : Queue) : (c.setQueue n q x).side = c.side := rfl
@[simp] theorem Chip.setQueue_flash (c : Chip) (n q : Nat) (x : Queue) : (c.setQueue n q x).flash = c.flash := rfl
@[simp] theorem Chip.setQueue_resetCounts (c : Chip) (n q : Nat) (x : Queue) : (c.setQueue n q x).resetCounts = c.resetCounts := rfl
@[simp] theorem Chip.setQueue_sagSaid (c : Chip) (n q : Nat) (x : Queue) : (c.setQueue n q x).sagSaid = c.sagSaid := rfl
@[simp] theorem Chip.setQueue_means (c : Chip) (n q : Nat) (x : Queue) : (c.setQueue n q x).means = c.means := rfl
@[simp] theorem Chip.setQueue_limDue (c : Chip) (n q : Nat) (x : Queue) : (c.setQueue n q x).limDue = c.limDue := rfl
@[simp] theorem Chip.setQueue_limFrame (c : Chip) (n q : Nat) (x : Queue) : (c.setQueue n q x).limFrame = c.limFrame := rfl
@[simp] theorem Chip.setQueue_limAt (c : Chip) (n q : Nat) (x : Queue) : (c.setQueue n q x).limAt = c.limAt := rfl
@[simp] theorem Chip.setQueue_qps (c : Chip) (n q : Nat) (x : Queue) : (c.setQueue n q x).qps = c.qps := rfl
@[simp] theorem Chip.setQueue_ethFails (c : Chip) (n q : Nat) (x : Queue) : (c.setQueue n q x).ethFails = c.ethFails := rfl
@[simp] theorem Chip.setQueue_opens (c : Chip) (n q : Nat) (x : Queue) : (c.setQueue n q x).opens = c.opens := rfl
@[simp] theorem Chip.setQueue_nextSess (c : Chip) (n q : Nat) (x : Queue) : (c.setQueue n q x).nextSess = c.nextSess := rfl
@[simp] theorem Chip.setQueue_refusedAt (c : Chip) (n q : Nat) (x : Queue) : (c.setQueue n q x).refusedAt = c.refusedAt := rfl
@[simp] theorem Chip.setQueue_snap (c : Chip) (n q : Nat) (x : Queue) : (c.setQueue n q x).snap = c.snap := rfl

@[simp] theorem Chip.updQueue_regs (c : Chip) (n q : Nat) (f : Queue → Queue) : (c.updQueue n q f).regs = c.regs := rfl
@[simp] theorem Chip.updQueue_blobs (c : Chip) (n q : Nat) (f : Queue → Queue) : (c.updQueue n q f).blobs = c.blobs := rfl
@[simp] theorem Chip.updQueue_out (c : Chip) (n q : Nat) (f : Queue → Queue) : (c.updQueue n q f).out = c.out := rfl
@[simp] theorem Chip.updQueue_fresh (c : Chip) (n q : Nat) (f : Queue → Queue) : (c.updQueue n q f).fresh = c.fresh := rfl
@[simp] theorem Chip.updQueue_extNext (c : Chip) (n q : Nat) (f : Queue → Queue) : (c.updQueue n q f).extNext = c.extNext := rfl
@[simp] theorem Chip.updQueue_ridges (c : Chip) (n q : Nat) (f : Queue → Queue) : (c.updQueue n q f).ridges = c.ridges := rfl
@[simp] theorem Chip.updQueue_spads (c : Chip) (n q : Nat) (f : Queue → Queue) : (c.updQueue n q f).spads = c.spads := rfl
@[simp] theorem Chip.updQueue_units (c : Chip) (n q : Nat) (f : Queue → Queue) : (c.updQueue n q f).units = c.units := rfl
@[simp] theorem Chip.updQueue_parts (c : Chip) (n q : Nat) (f : Queue → Queue) : (c.updQueue n q f).parts = c.parts := rfl
@[simp] theorem Chip.updQueue_pend (c : Chip) (n q : Nat) (f : Queue → Queue) : (c.updQueue n q f).pend = c.pend := rfl
@[simp] theorem Chip.updQueue_pendWait (c : Chip) (n q : Nat) (f : Queue → Queue) : (c.updQueue n q f).pendWait = c.pendWait := rfl
@[simp] theorem Chip.updQueue_hosts (c : Chip) (n q : Nat) (f : Queue → Queue) : (c.updQueue n q f).hosts = c.hosts := rfl
@[simp] theorem Chip.updQueue_streams (c : Chip) (n q : Nat) (f : Queue → Queue) : (c.updQueue n q f).streams = c.streams := rfl
@[simp] theorem Chip.updQueue_cairn (c : Chip) (n q : Nat) (f : Queue → Queue) : (c.updQueue n q f).cairn = c.cairn := rfl
@[simp] theorem Chip.updQueue_sess (c : Chip) (n q : Nat) (f : Queue → Queue) : (c.updQueue n q f).sess = c.sess := rfl
@[simp] theorem Chip.updQueue_resets (c : Chip) (n q : Nat) (f : Queue → Queue) : (c.updQueue n q f).resets = c.resets := rfl
@[simp] theorem Chip.updQueue_agents (c : Chip) (n q : Nat) (f : Queue → Queue) : (c.updQueue n q f).agents = c.agents := rfl
@[simp] theorem Chip.updQueue_anchorTime (c : Chip) (n q : Nat) (f : Queue → Queue) : (c.updQueue n q f).anchorTime = c.anchorTime := rfl
@[simp] theorem Chip.updQueue_anchorRaw (c : Chip) (n q : Nat) (f : Queue → Queue) : (c.updQueue n q f).anchorRaw = c.anchorRaw := rfl
@[simp] theorem Chip.updQueue_raw (c : Chip) (n q : Nat) (f : Queue → Queue) : (c.updQueue n q f).raw = c.raw := rfl
@[simp] theorem Chip.updQueue_frame (c : Chip) (n q : Nat) (f : Queue → Queue) : (c.updQueue n q f).frame = c.frame := rfl
@[simp] theorem Chip.updQueue_tick (c : Chip) (n q : Nat) (f : Queue → Queue) : (c.updQueue n q f).tick = c.tick := rfl
@[simp] theorem Chip.updQueue_links (c : Chip) (n q : Nat) (f : Queue → Queue) : (c.updQueue n q f).links = c.links := rfl
@[simp] theorem Chip.updQueue_lanes (c : Chip) (n q : Nat) (f : Queue → Queue) : (c.updQueue n q f).lanes = c.lanes := rfl
@[simp] theorem Chip.updQueue_linkFull (c : Chip) (n q : Nat) (f : Queue → Queue) : (c.updQueue n q f).linkFull = c.linkFull := rfl
@[simp] theorem Chip.updQueue_loops (c : Chip) (n q : Nat) (f : Queue → Queue) : (c.updQueue n q f).loops = c.loops := rfl
@[simp] theorem Chip.updQueue_cores (c : Chip) (n q : Nat) (f : Queue → Queue) : (c.updQueue n q f).cores = c.cores := rfl
@[simp] theorem Chip.updQueue_resMap (c : Chip) (n q : Nat) (f : Queue → Queue) : (c.updQueue n q f).resMap = c.resMap := rfl
@[simp] theorem Chip.updQueue_travSaved (c : Chip) (n q : Nat) (f : Queue → Queue) : (c.updQueue n q f).travSaved = c.travSaved := rfl
@[simp] theorem Chip.updQueue_calRuns (c : Chip) (n q : Nat) (f : Queue → Queue) : (c.updQueue n q f).calRuns = c.calRuns := rfl
@[simp] theorem Chip.updQueue_calTemps (c : Chip) (n q : Nat) (f : Queue → Queue) : (c.updQueue n q f).calTemps = c.calTemps := rfl
@[simp] theorem Chip.updQueue_calVals (c : Chip) (n q : Nat) (f : Queue → Queue) : (c.updQueue n q f).calVals = c.calVals := rfl
@[simp] theorem Chip.updQueue_engines (c : Chip) (n q : Nat) (f : Queue → Queue) : (c.updQueue n q f).engines = c.engines := rfl
@[simp] theorem Chip.updQueue_swaps (c : Chip) (n q : Nat) (f : Queue → Queue) : (c.updQueue n q f).swaps = c.swaps := rfl
@[simp] theorem Chip.updQueue_notice (c : Chip) (n q : Nat) (f : Queue → Queue) : (c.updQueue n q f).notice = c.notice := rfl
@[simp] theorem Chip.updQueue_darkFibres (c : Chip) (n q : Nat) (f : Queue → Queue) : (c.updQueue n q f).darkFibres = c.darkFibres := rfl
@[simp] theorem Chip.updQueue_laserFlags (c : Chip) (n q : Nat) (f : Queue → Queue) : (c.updQueue n q f).laserFlags = c.laserFlags := rfl
@[simp] theorem Chip.updQueue_colTarget (c : Chip) (n q : Nat) (f : Queue → Queue) : (c.updQueue n q f).colTarget = c.colTarget := rfl
@[simp] theorem Chip.updQueue_time (c : Chip) (n q : Nat) (f : Queue → Queue) : (c.updQueue n q f).time = c.time := rfl
@[simp] theorem Chip.updQueue_side (c : Chip) (n q : Nat) (f : Queue → Queue) : (c.updQueue n q f).side = c.side := rfl
@[simp] theorem Chip.updQueue_flash (c : Chip) (n q : Nat) (f : Queue → Queue) : (c.updQueue n q f).flash = c.flash := rfl
@[simp] theorem Chip.updQueue_resetCounts (c : Chip) (n q : Nat) (f : Queue → Queue) : (c.updQueue n q f).resetCounts = c.resetCounts := rfl
@[simp] theorem Chip.updQueue_sagSaid (c : Chip) (n q : Nat) (f : Queue → Queue) : (c.updQueue n q f).sagSaid = c.sagSaid := rfl
@[simp] theorem Chip.updQueue_means (c : Chip) (n q : Nat) (f : Queue → Queue) : (c.updQueue n q f).means = c.means := rfl
@[simp] theorem Chip.updQueue_limDue (c : Chip) (n q : Nat) (f : Queue → Queue) : (c.updQueue n q f).limDue = c.limDue := rfl
@[simp] theorem Chip.updQueue_limFrame (c : Chip) (n q : Nat) (f : Queue → Queue) : (c.updQueue n q f).limFrame = c.limFrame := rfl
@[simp] theorem Chip.updQueue_limAt (c : Chip) (n q : Nat) (f : Queue → Queue) : (c.updQueue n q f).limAt = c.limAt := rfl
@[simp] theorem Chip.updQueue_qps (c : Chip) (n q : Nat) (f : Queue → Queue) : (c.updQueue n q f).qps = c.qps := rfl
@[simp] theorem Chip.updQueue_ethFails (c : Chip) (n q : Nat) (f : Queue → Queue) : (c.updQueue n q f).ethFails = c.ethFails := rfl
@[simp] theorem Chip.updQueue_opens (c : Chip) (n q : Nat) (f : Queue → Queue) : (c.updQueue n q f).opens = c.opens := rfl
@[simp] theorem Chip.updQueue_nextSess (c : Chip) (n q : Nat) (f : Queue → Queue) : (c.updQueue n q f).nextSess = c.nextSess := rfl
@[simp] theorem Chip.updQueue_refusedAt (c : Chip) (n q : Nat) (f : Queue → Queue) : (c.updQueue n q f).refusedAt = c.refusedAt := rfl
@[simp] theorem Chip.updQueue_snap (c : Chip) (n q : Nat) (f : Queue → Queue) : (c.updQueue n q f).snap = c.snap := rfl

@[simp] theorem Chip.updSpur_regs (c : Chip) (n p : Nat) (f : Spur → Spur) : (c.updSpur n p f).regs = c.regs := rfl
@[simp] theorem Chip.updSpur_blobs (c : Chip) (n p : Nat) (f : Spur → Spur) : (c.updSpur n p f).blobs = c.blobs := rfl
@[simp] theorem Chip.updSpur_out (c : Chip) (n p : Nat) (f : Spur → Spur) : (c.updSpur n p f).out = c.out := rfl
@[simp] theorem Chip.updSpur_fresh (c : Chip) (n p : Nat) (f : Spur → Spur) : (c.updSpur n p f).fresh = c.fresh := rfl
@[simp] theorem Chip.updSpur_extNext (c : Chip) (n p : Nat) (f : Spur → Spur) : (c.updSpur n p f).extNext = c.extNext := rfl
@[simp] theorem Chip.updSpur_queues (c : Chip) (n p : Nat) (f : Spur → Spur) : (c.updSpur n p f).queues = c.queues := rfl
@[simp] theorem Chip.updSpur_spads (c : Chip) (n p : Nat) (f : Spur → Spur) : (c.updSpur n p f).spads = c.spads := rfl
@[simp] theorem Chip.updSpur_units (c : Chip) (n p : Nat) (f : Spur → Spur) : (c.updSpur n p f).units = c.units := rfl
@[simp] theorem Chip.updSpur_parts (c : Chip) (n p : Nat) (f : Spur → Spur) : (c.updSpur n p f).parts = c.parts := rfl
@[simp] theorem Chip.updSpur_pend (c : Chip) (n p : Nat) (f : Spur → Spur) : (c.updSpur n p f).pend = c.pend := rfl
@[simp] theorem Chip.updSpur_pendWait (c : Chip) (n p : Nat) (f : Spur → Spur) : (c.updSpur n p f).pendWait = c.pendWait := rfl
@[simp] theorem Chip.updSpur_hosts (c : Chip) (n p : Nat) (f : Spur → Spur) : (c.updSpur n p f).hosts = c.hosts := rfl
@[simp] theorem Chip.updSpur_streams (c : Chip) (n p : Nat) (f : Spur → Spur) : (c.updSpur n p f).streams = c.streams := rfl
@[simp] theorem Chip.updSpur_cairn (c : Chip) (n p : Nat) (f : Spur → Spur) : (c.updSpur n p f).cairn = c.cairn := rfl
@[simp] theorem Chip.updSpur_sess (c : Chip) (n p : Nat) (f : Spur → Spur) : (c.updSpur n p f).sess = c.sess := rfl
@[simp] theorem Chip.updSpur_resets (c : Chip) (n p : Nat) (f : Spur → Spur) : (c.updSpur n p f).resets = c.resets := rfl
@[simp] theorem Chip.updSpur_agents (c : Chip) (n p : Nat) (f : Spur → Spur) : (c.updSpur n p f).agents = c.agents := rfl
@[simp] theorem Chip.updSpur_anchorTime (c : Chip) (n p : Nat) (f : Spur → Spur) : (c.updSpur n p f).anchorTime = c.anchorTime := rfl
@[simp] theorem Chip.updSpur_anchorRaw (c : Chip) (n p : Nat) (f : Spur → Spur) : (c.updSpur n p f).anchorRaw = c.anchorRaw := rfl
@[simp] theorem Chip.updSpur_raw (c : Chip) (n p : Nat) (f : Spur → Spur) : (c.updSpur n p f).raw = c.raw := rfl
@[simp] theorem Chip.updSpur_frame (c : Chip) (n p : Nat) (f : Spur → Spur) : (c.updSpur n p f).frame = c.frame := rfl
@[simp] theorem Chip.updSpur_tick (c : Chip) (n p : Nat) (f : Spur → Spur) : (c.updSpur n p f).tick = c.tick := rfl
@[simp] theorem Chip.updSpur_links (c : Chip) (n p : Nat) (f : Spur → Spur) : (c.updSpur n p f).links = c.links := rfl
@[simp] theorem Chip.updSpur_lanes (c : Chip) (n p : Nat) (f : Spur → Spur) : (c.updSpur n p f).lanes = c.lanes := rfl
@[simp] theorem Chip.updSpur_linkFull (c : Chip) (n p : Nat) (f : Spur → Spur) : (c.updSpur n p f).linkFull = c.linkFull := rfl
@[simp] theorem Chip.updSpur_loops (c : Chip) (n p : Nat) (f : Spur → Spur) : (c.updSpur n p f).loops = c.loops := rfl
@[simp] theorem Chip.updSpur_cores (c : Chip) (n p : Nat) (f : Spur → Spur) : (c.updSpur n p f).cores = c.cores := rfl
@[simp] theorem Chip.updSpur_resMap (c : Chip) (n p : Nat) (f : Spur → Spur) : (c.updSpur n p f).resMap = c.resMap := rfl
@[simp] theorem Chip.updSpur_travSaved (c : Chip) (n p : Nat) (f : Spur → Spur) : (c.updSpur n p f).travSaved = c.travSaved := rfl
@[simp] theorem Chip.updSpur_calRuns (c : Chip) (n p : Nat) (f : Spur → Spur) : (c.updSpur n p f).calRuns = c.calRuns := rfl
@[simp] theorem Chip.updSpur_calTemps (c : Chip) (n p : Nat) (f : Spur → Spur) : (c.updSpur n p f).calTemps = c.calTemps := rfl
@[simp] theorem Chip.updSpur_calVals (c : Chip) (n p : Nat) (f : Spur → Spur) : (c.updSpur n p f).calVals = c.calVals := rfl
@[simp] theorem Chip.updSpur_engines (c : Chip) (n p : Nat) (f : Spur → Spur) : (c.updSpur n p f).engines = c.engines := rfl
@[simp] theorem Chip.updSpur_swaps (c : Chip) (n p : Nat) (f : Spur → Spur) : (c.updSpur n p f).swaps = c.swaps := rfl
@[simp] theorem Chip.updSpur_notice (c : Chip) (n p : Nat) (f : Spur → Spur) : (c.updSpur n p f).notice = c.notice := rfl
@[simp] theorem Chip.updSpur_darkFibres (c : Chip) (n p : Nat) (f : Spur → Spur) : (c.updSpur n p f).darkFibres = c.darkFibres := rfl
@[simp] theorem Chip.updSpur_laserFlags (c : Chip) (n p : Nat) (f : Spur → Spur) : (c.updSpur n p f).laserFlags = c.laserFlags := rfl
@[simp] theorem Chip.updSpur_colTarget (c : Chip) (n p : Nat) (f : Spur → Spur) : (c.updSpur n p f).colTarget = c.colTarget := rfl
@[simp] theorem Chip.updSpur_time (c : Chip) (n p : Nat) (f : Spur → Spur) : (c.updSpur n p f).time = c.time := rfl
@[simp] theorem Chip.updSpur_side (c : Chip) (n p : Nat) (f : Spur → Spur) : (c.updSpur n p f).side = c.side := rfl
@[simp] theorem Chip.updSpur_flash (c : Chip) (n p : Nat) (f : Spur → Spur) : (c.updSpur n p f).flash = c.flash := rfl
@[simp] theorem Chip.updSpur_resetCounts (c : Chip) (n p : Nat) (f : Spur → Spur) : (c.updSpur n p f).resetCounts = c.resetCounts := rfl
@[simp] theorem Chip.updSpur_sagSaid (c : Chip) (n p : Nat) (f : Spur → Spur) : (c.updSpur n p f).sagSaid = c.sagSaid := rfl
@[simp] theorem Chip.updSpur_means (c : Chip) (n p : Nat) (f : Spur → Spur) : (c.updSpur n p f).means = c.means := rfl
@[simp] theorem Chip.updSpur_limDue (c : Chip) (n p : Nat) (f : Spur → Spur) : (c.updSpur n p f).limDue = c.limDue := rfl
@[simp] theorem Chip.updSpur_limFrame (c : Chip) (n p : Nat) (f : Spur → Spur) : (c.updSpur n p f).limFrame = c.limFrame := rfl
@[simp] theorem Chip.updSpur_limAt (c : Chip) (n p : Nat) (f : Spur → Spur) : (c.updSpur n p f).limAt = c.limAt := rfl
@[simp] theorem Chip.updSpur_qps (c : Chip) (n p : Nat) (f : Spur → Spur) : (c.updSpur n p f).qps = c.qps := rfl
@[simp] theorem Chip.updSpur_ethFails (c : Chip) (n p : Nat) (f : Spur → Spur) : (c.updSpur n p f).ethFails = c.ethFails := rfl
@[simp] theorem Chip.updSpur_opens (c : Chip) (n p : Nat) (f : Spur → Spur) : (c.updSpur n p f).opens = c.opens := rfl
@[simp] theorem Chip.updSpur_nextSess (c : Chip) (n p : Nat) (f : Spur → Spur) : (c.updSpur n p f).nextSess = c.nextSess := rfl
@[simp] theorem Chip.updSpur_refusedAt (c : Chip) (n p : Nat) (f : Spur → Spur) : (c.updSpur n p f).refusedAt = c.refusedAt := rfl
@[simp] theorem Chip.updSpur_snap (c : Chip) (n p : Nat) (f : Spur → Spur) : (c.updSpur n p f).snap = c.snap := rfl

@[simp] theorem Chip.setPart_regs (c : Chip) (k : Nat) (p : Part) : (c.setPart k p).regs = c.regs := rfl
@[simp] theorem Chip.setPart_blobs (c : Chip) (k : Nat) (p : Part) : (c.setPart k p).blobs = c.blobs := rfl
@[simp] theorem Chip.setPart_out (c : Chip) (k : Nat) (p : Part) : (c.setPart k p).out = c.out := rfl
@[simp] theorem Chip.setPart_fresh (c : Chip) (k : Nat) (p : Part) : (c.setPart k p).fresh = c.fresh := rfl
@[simp] theorem Chip.setPart_extNext (c : Chip) (k : Nat) (p : Part) : (c.setPart k p).extNext = c.extNext := rfl
@[simp] theorem Chip.setPart_ridges (c : Chip) (k : Nat) (p : Part) : (c.setPart k p).ridges = c.ridges := rfl
@[simp] theorem Chip.setPart_queues (c : Chip) (k : Nat) (p : Part) : (c.setPart k p).queues = c.queues := rfl
@[simp] theorem Chip.setPart_spads (c : Chip) (k : Nat) (p : Part) : (c.setPart k p).spads = c.spads := rfl
@[simp] theorem Chip.setPart_units (c : Chip) (k : Nat) (p : Part) : (c.setPart k p).units = c.units := rfl
@[simp] theorem Chip.setPart_pend (c : Chip) (k : Nat) (p : Part) : (c.setPart k p).pend = c.pend := rfl
@[simp] theorem Chip.setPart_pendWait (c : Chip) (k : Nat) (p : Part) : (c.setPart k p).pendWait = c.pendWait := rfl
@[simp] theorem Chip.setPart_hosts (c : Chip) (k : Nat) (p : Part) : (c.setPart k p).hosts = c.hosts := rfl
@[simp] theorem Chip.setPart_streams (c : Chip) (k : Nat) (p : Part) : (c.setPart k p).streams = c.streams := rfl
@[simp] theorem Chip.setPart_cairn (c : Chip) (k : Nat) (p : Part) : (c.setPart k p).cairn = c.cairn := rfl
@[simp] theorem Chip.setPart_sess (c : Chip) (k : Nat) (p : Part) : (c.setPart k p).sess = c.sess := rfl
@[simp] theorem Chip.setPart_resets (c : Chip) (k : Nat) (p : Part) : (c.setPart k p).resets = c.resets := rfl
@[simp] theorem Chip.setPart_agents (c : Chip) (k : Nat) (p : Part) : (c.setPart k p).agents = c.agents := rfl
@[simp] theorem Chip.setPart_anchorTime (c : Chip) (k : Nat) (p : Part) : (c.setPart k p).anchorTime = c.anchorTime := rfl
@[simp] theorem Chip.setPart_anchorRaw (c : Chip) (k : Nat) (p : Part) : (c.setPart k p).anchorRaw = c.anchorRaw := rfl
@[simp] theorem Chip.setPart_raw (c : Chip) (k : Nat) (p : Part) : (c.setPart k p).raw = c.raw := rfl
@[simp] theorem Chip.setPart_frame (c : Chip) (k : Nat) (p : Part) : (c.setPart k p).frame = c.frame := rfl
@[simp] theorem Chip.setPart_tick (c : Chip) (k : Nat) (p : Part) : (c.setPart k p).tick = c.tick := rfl
@[simp] theorem Chip.setPart_links (c : Chip) (k : Nat) (p : Part) : (c.setPart k p).links = c.links := rfl
@[simp] theorem Chip.setPart_lanes (c : Chip) (k : Nat) (p : Part) : (c.setPart k p).lanes = c.lanes := rfl
@[simp] theorem Chip.setPart_linkFull (c : Chip) (k : Nat) (p : Part) : (c.setPart k p).linkFull = c.linkFull := rfl
@[simp] theorem Chip.setPart_loops (c : Chip) (k : Nat) (p : Part) : (c.setPart k p).loops = c.loops := rfl
@[simp] theorem Chip.setPart_cores (c : Chip) (k : Nat) (p : Part) : (c.setPart k p).cores = c.cores := rfl
@[simp] theorem Chip.setPart_resMap (c : Chip) (k : Nat) (p : Part) : (c.setPart k p).resMap = c.resMap := rfl
@[simp] theorem Chip.setPart_travSaved (c : Chip) (k : Nat) (p : Part) : (c.setPart k p).travSaved = c.travSaved := rfl
@[simp] theorem Chip.setPart_calRuns (c : Chip) (k : Nat) (p : Part) : (c.setPart k p).calRuns = c.calRuns := rfl
@[simp] theorem Chip.setPart_calTemps (c : Chip) (k : Nat) (p : Part) : (c.setPart k p).calTemps = c.calTemps := rfl
@[simp] theorem Chip.setPart_calVals (c : Chip) (k : Nat) (p : Part) : (c.setPart k p).calVals = c.calVals := rfl
@[simp] theorem Chip.setPart_engines (c : Chip) (k : Nat) (p : Part) : (c.setPart k p).engines = c.engines := rfl
@[simp] theorem Chip.setPart_swaps (c : Chip) (k : Nat) (p : Part) : (c.setPart k p).swaps = c.swaps := rfl
@[simp] theorem Chip.setPart_notice (c : Chip) (k : Nat) (p : Part) : (c.setPart k p).notice = c.notice := rfl
@[simp] theorem Chip.setPart_darkFibres (c : Chip) (k : Nat) (p : Part) : (c.setPart k p).darkFibres = c.darkFibres := rfl
@[simp] theorem Chip.setPart_laserFlags (c : Chip) (k : Nat) (p : Part) : (c.setPart k p).laserFlags = c.laserFlags := rfl
@[simp] theorem Chip.setPart_colTarget (c : Chip) (k : Nat) (p : Part) : (c.setPart k p).colTarget = c.colTarget := rfl
@[simp] theorem Chip.setPart_time (c : Chip) (k : Nat) (p : Part) : (c.setPart k p).time = c.time := rfl
@[simp] theorem Chip.setPart_side (c : Chip) (k : Nat) (p : Part) : (c.setPart k p).side = c.side := rfl
@[simp] theorem Chip.setPart_flash (c : Chip) (k : Nat) (p : Part) : (c.setPart k p).flash = c.flash := rfl
@[simp] theorem Chip.setPart_resetCounts (c : Chip) (k : Nat) (p : Part) : (c.setPart k p).resetCounts = c.resetCounts := rfl
@[simp] theorem Chip.setPart_sagSaid (c : Chip) (k : Nat) (p : Part) : (c.setPart k p).sagSaid = c.sagSaid := rfl
@[simp] theorem Chip.setPart_means (c : Chip) (k : Nat) (p : Part) : (c.setPart k p).means = c.means := rfl
@[simp] theorem Chip.setPart_limDue (c : Chip) (k : Nat) (p : Part) : (c.setPart k p).limDue = c.limDue := rfl
@[simp] theorem Chip.setPart_limFrame (c : Chip) (k : Nat) (p : Part) : (c.setPart k p).limFrame = c.limFrame := rfl
@[simp] theorem Chip.setPart_limAt (c : Chip) (k : Nat) (p : Part) : (c.setPart k p).limAt = c.limAt := rfl
@[simp] theorem Chip.setPart_qps (c : Chip) (k : Nat) (p : Part) : (c.setPart k p).qps = c.qps := rfl
@[simp] theorem Chip.setPart_ethFails (c : Chip) (k : Nat) (p : Part) : (c.setPart k p).ethFails = c.ethFails := rfl
@[simp] theorem Chip.setPart_opens (c : Chip) (k : Nat) (p : Part) : (c.setPart k p).opens = c.opens := rfl
@[simp] theorem Chip.setPart_nextSess (c : Chip) (k : Nat) (p : Part) : (c.setPart k p).nextSess = c.nextSess := rfl
@[simp] theorem Chip.setPart_refusedAt (c : Chip) (k : Nat) (p : Part) : (c.setPart k p).refusedAt = c.refusedAt := rfl
@[simp] theorem Chip.setPart_snap (c : Chip) (k : Nat) (p : Part) : (c.setPart k p).snap = c.snap := rfl

@[simp] theorem Chip.updPart_regs (c : Chip) (k : Nat) (f : Part → Part) : (c.updPart k f).regs = c.regs := rfl
@[simp] theorem Chip.updPart_blobs (c : Chip) (k : Nat) (f : Part → Part) : (c.updPart k f).blobs = c.blobs := rfl
@[simp] theorem Chip.updPart_out (c : Chip) (k : Nat) (f : Part → Part) : (c.updPart k f).out = c.out := rfl
@[simp] theorem Chip.updPart_fresh (c : Chip) (k : Nat) (f : Part → Part) : (c.updPart k f).fresh = c.fresh := rfl
@[simp] theorem Chip.updPart_extNext (c : Chip) (k : Nat) (f : Part → Part) : (c.updPart k f).extNext = c.extNext := rfl
@[simp] theorem Chip.updPart_ridges (c : Chip) (k : Nat) (f : Part → Part) : (c.updPart k f).ridges = c.ridges := rfl
@[simp] theorem Chip.updPart_queues (c : Chip) (k : Nat) (f : Part → Part) : (c.updPart k f).queues = c.queues := rfl
@[simp] theorem Chip.updPart_spads (c : Chip) (k : Nat) (f : Part → Part) : (c.updPart k f).spads = c.spads := rfl
@[simp] theorem Chip.updPart_units (c : Chip) (k : Nat) (f : Part → Part) : (c.updPart k f).units = c.units := rfl
@[simp] theorem Chip.updPart_pend (c : Chip) (k : Nat) (f : Part → Part) : (c.updPart k f).pend = c.pend := rfl
@[simp] theorem Chip.updPart_pendWait (c : Chip) (k : Nat) (f : Part → Part) : (c.updPart k f).pendWait = c.pendWait := rfl
@[simp] theorem Chip.updPart_hosts (c : Chip) (k : Nat) (f : Part → Part) : (c.updPart k f).hosts = c.hosts := rfl
@[simp] theorem Chip.updPart_streams (c : Chip) (k : Nat) (f : Part → Part) : (c.updPart k f).streams = c.streams := rfl
@[simp] theorem Chip.updPart_cairn (c : Chip) (k : Nat) (f : Part → Part) : (c.updPart k f).cairn = c.cairn := rfl
@[simp] theorem Chip.updPart_sess (c : Chip) (k : Nat) (f : Part → Part) : (c.updPart k f).sess = c.sess := rfl
@[simp] theorem Chip.updPart_resets (c : Chip) (k : Nat) (f : Part → Part) : (c.updPart k f).resets = c.resets := rfl
@[simp] theorem Chip.updPart_agents (c : Chip) (k : Nat) (f : Part → Part) : (c.updPart k f).agents = c.agents := rfl
@[simp] theorem Chip.updPart_anchorTime (c : Chip) (k : Nat) (f : Part → Part) : (c.updPart k f).anchorTime = c.anchorTime := rfl
@[simp] theorem Chip.updPart_anchorRaw (c : Chip) (k : Nat) (f : Part → Part) : (c.updPart k f).anchorRaw = c.anchorRaw := rfl
@[simp] theorem Chip.updPart_raw (c : Chip) (k : Nat) (f : Part → Part) : (c.updPart k f).raw = c.raw := rfl
@[simp] theorem Chip.updPart_frame (c : Chip) (k : Nat) (f : Part → Part) : (c.updPart k f).frame = c.frame := rfl
@[simp] theorem Chip.updPart_tick (c : Chip) (k : Nat) (f : Part → Part) : (c.updPart k f).tick = c.tick := rfl
@[simp] theorem Chip.updPart_links (c : Chip) (k : Nat) (f : Part → Part) : (c.updPart k f).links = c.links := rfl
@[simp] theorem Chip.updPart_lanes (c : Chip) (k : Nat) (f : Part → Part) : (c.updPart k f).lanes = c.lanes := rfl
@[simp] theorem Chip.updPart_linkFull (c : Chip) (k : Nat) (f : Part → Part) : (c.updPart k f).linkFull = c.linkFull := rfl
@[simp] theorem Chip.updPart_loops (c : Chip) (k : Nat) (f : Part → Part) : (c.updPart k f).loops = c.loops := rfl
@[simp] theorem Chip.updPart_cores (c : Chip) (k : Nat) (f : Part → Part) : (c.updPart k f).cores = c.cores := rfl
@[simp] theorem Chip.updPart_resMap (c : Chip) (k : Nat) (f : Part → Part) : (c.updPart k f).resMap = c.resMap := rfl
@[simp] theorem Chip.updPart_travSaved (c : Chip) (k : Nat) (f : Part → Part) : (c.updPart k f).travSaved = c.travSaved := rfl
@[simp] theorem Chip.updPart_calRuns (c : Chip) (k : Nat) (f : Part → Part) : (c.updPart k f).calRuns = c.calRuns := rfl
@[simp] theorem Chip.updPart_calTemps (c : Chip) (k : Nat) (f : Part → Part) : (c.updPart k f).calTemps = c.calTemps := rfl
@[simp] theorem Chip.updPart_calVals (c : Chip) (k : Nat) (f : Part → Part) : (c.updPart k f).calVals = c.calVals := rfl
@[simp] theorem Chip.updPart_engines (c : Chip) (k : Nat) (f : Part → Part) : (c.updPart k f).engines = c.engines := rfl
@[simp] theorem Chip.updPart_swaps (c : Chip) (k : Nat) (f : Part → Part) : (c.updPart k f).swaps = c.swaps := rfl
@[simp] theorem Chip.updPart_notice (c : Chip) (k : Nat) (f : Part → Part) : (c.updPart k f).notice = c.notice := rfl
@[simp] theorem Chip.updPart_darkFibres (c : Chip) (k : Nat) (f : Part → Part) : (c.updPart k f).darkFibres = c.darkFibres := rfl
@[simp] theorem Chip.updPart_laserFlags (c : Chip) (k : Nat) (f : Part → Part) : (c.updPart k f).laserFlags = c.laserFlags := rfl
@[simp] theorem Chip.updPart_colTarget (c : Chip) (k : Nat) (f : Part → Part) : (c.updPart k f).colTarget = c.colTarget := rfl
@[simp] theorem Chip.updPart_time (c : Chip) (k : Nat) (f : Part → Part) : (c.updPart k f).time = c.time := rfl
@[simp] theorem Chip.updPart_side (c : Chip) (k : Nat) (f : Part → Part) : (c.updPart k f).side = c.side := rfl
@[simp] theorem Chip.updPart_flash (c : Chip) (k : Nat) (f : Part → Part) : (c.updPart k f).flash = c.flash := rfl
@[simp] theorem Chip.updPart_resetCounts (c : Chip) (k : Nat) (f : Part → Part) : (c.updPart k f).resetCounts = c.resetCounts := rfl
@[simp] theorem Chip.updPart_sagSaid (c : Chip) (k : Nat) (f : Part → Part) : (c.updPart k f).sagSaid = c.sagSaid := rfl
@[simp] theorem Chip.updPart_means (c : Chip) (k : Nat) (f : Part → Part) : (c.updPart k f).means = c.means := rfl
@[simp] theorem Chip.updPart_limDue (c : Chip) (k : Nat) (f : Part → Part) : (c.updPart k f).limDue = c.limDue := rfl
@[simp] theorem Chip.updPart_limFrame (c : Chip) (k : Nat) (f : Part → Part) : (c.updPart k f).limFrame = c.limFrame := rfl
@[simp] theorem Chip.updPart_limAt (c : Chip) (k : Nat) (f : Part → Part) : (c.updPart k f).limAt = c.limAt := rfl
@[simp] theorem Chip.updPart_qps (c : Chip) (k : Nat) (f : Part → Part) : (c.updPart k f).qps = c.qps := rfl
@[simp] theorem Chip.updPart_ethFails (c : Chip) (k : Nat) (f : Part → Part) : (c.updPart k f).ethFails = c.ethFails := rfl
@[simp] theorem Chip.updPart_opens (c : Chip) (k : Nat) (f : Part → Part) : (c.updPart k f).opens = c.opens := rfl
@[simp] theorem Chip.updPart_nextSess (c : Chip) (k : Nat) (f : Part → Part) : (c.updPart k f).nextSess = c.nextSess := rfl
@[simp] theorem Chip.updPart_refusedAt (c : Chip) (k : Nat) (f : Part → Part) : (c.updPart k f).refusedAt = c.refusedAt := rfl
@[simp] theorem Chip.updPart_snap (c : Chip) (k : Nat) (f : Part → Part) : (c.updPart k f).snap = c.snap := rfl

@[simp] theorem Chip.updUnit_regs (c : Chip) (u : Nat) (f : MemUnit → MemUnit) : (c.updUnit u f).regs = c.regs := rfl
@[simp] theorem Chip.updUnit_blobs (c : Chip) (u : Nat) (f : MemUnit → MemUnit) : (c.updUnit u f).blobs = c.blobs := rfl
@[simp] theorem Chip.updUnit_out (c : Chip) (u : Nat) (f : MemUnit → MemUnit) : (c.updUnit u f).out = c.out := rfl
@[simp] theorem Chip.updUnit_fresh (c : Chip) (u : Nat) (f : MemUnit → MemUnit) : (c.updUnit u f).fresh = c.fresh := rfl
@[simp] theorem Chip.updUnit_extNext (c : Chip) (u : Nat) (f : MemUnit → MemUnit) : (c.updUnit u f).extNext = c.extNext := rfl
@[simp] theorem Chip.updUnit_ridges (c : Chip) (u : Nat) (f : MemUnit → MemUnit) : (c.updUnit u f).ridges = c.ridges := rfl
@[simp] theorem Chip.updUnit_queues (c : Chip) (u : Nat) (f : MemUnit → MemUnit) : (c.updUnit u f).queues = c.queues := rfl
@[simp] theorem Chip.updUnit_spads (c : Chip) (u : Nat) (f : MemUnit → MemUnit) : (c.updUnit u f).spads = c.spads := rfl
@[simp] theorem Chip.updUnit_parts (c : Chip) (u : Nat) (f : MemUnit → MemUnit) : (c.updUnit u f).parts = c.parts := rfl
@[simp] theorem Chip.updUnit_pend (c : Chip) (u : Nat) (f : MemUnit → MemUnit) : (c.updUnit u f).pend = c.pend := rfl
@[simp] theorem Chip.updUnit_pendWait (c : Chip) (u : Nat) (f : MemUnit → MemUnit) : (c.updUnit u f).pendWait = c.pendWait := rfl
@[simp] theorem Chip.updUnit_hosts (c : Chip) (u : Nat) (f : MemUnit → MemUnit) : (c.updUnit u f).hosts = c.hosts := rfl
@[simp] theorem Chip.updUnit_streams (c : Chip) (u : Nat) (f : MemUnit → MemUnit) : (c.updUnit u f).streams = c.streams := rfl
@[simp] theorem Chip.updUnit_cairn (c : Chip) (u : Nat) (f : MemUnit → MemUnit) : (c.updUnit u f).cairn = c.cairn := rfl
@[simp] theorem Chip.updUnit_sess (c : Chip) (u : Nat) (f : MemUnit → MemUnit) : (c.updUnit u f).sess = c.sess := rfl
@[simp] theorem Chip.updUnit_resets (c : Chip) (u : Nat) (f : MemUnit → MemUnit) : (c.updUnit u f).resets = c.resets := rfl
@[simp] theorem Chip.updUnit_agents (c : Chip) (u : Nat) (f : MemUnit → MemUnit) : (c.updUnit u f).agents = c.agents := rfl
@[simp] theorem Chip.updUnit_anchorTime (c : Chip) (u : Nat) (f : MemUnit → MemUnit) : (c.updUnit u f).anchorTime = c.anchorTime := rfl
@[simp] theorem Chip.updUnit_anchorRaw (c : Chip) (u : Nat) (f : MemUnit → MemUnit) : (c.updUnit u f).anchorRaw = c.anchorRaw := rfl
@[simp] theorem Chip.updUnit_raw (c : Chip) (u : Nat) (f : MemUnit → MemUnit) : (c.updUnit u f).raw = c.raw := rfl
@[simp] theorem Chip.updUnit_frame (c : Chip) (u : Nat) (f : MemUnit → MemUnit) : (c.updUnit u f).frame = c.frame := rfl
@[simp] theorem Chip.updUnit_tick (c : Chip) (u : Nat) (f : MemUnit → MemUnit) : (c.updUnit u f).tick = c.tick := rfl
@[simp] theorem Chip.updUnit_links (c : Chip) (u : Nat) (f : MemUnit → MemUnit) : (c.updUnit u f).links = c.links := rfl
@[simp] theorem Chip.updUnit_lanes (c : Chip) (u : Nat) (f : MemUnit → MemUnit) : (c.updUnit u f).lanes = c.lanes := rfl
@[simp] theorem Chip.updUnit_linkFull (c : Chip) (u : Nat) (f : MemUnit → MemUnit) : (c.updUnit u f).linkFull = c.linkFull := rfl
@[simp] theorem Chip.updUnit_loops (c : Chip) (u : Nat) (f : MemUnit → MemUnit) : (c.updUnit u f).loops = c.loops := rfl
@[simp] theorem Chip.updUnit_cores (c : Chip) (u : Nat) (f : MemUnit → MemUnit) : (c.updUnit u f).cores = c.cores := rfl
@[simp] theorem Chip.updUnit_resMap (c : Chip) (u : Nat) (f : MemUnit → MemUnit) : (c.updUnit u f).resMap = c.resMap := rfl
@[simp] theorem Chip.updUnit_travSaved (c : Chip) (u : Nat) (f : MemUnit → MemUnit) : (c.updUnit u f).travSaved = c.travSaved := rfl
@[simp] theorem Chip.updUnit_calRuns (c : Chip) (u : Nat) (f : MemUnit → MemUnit) : (c.updUnit u f).calRuns = c.calRuns := rfl
@[simp] theorem Chip.updUnit_calTemps (c : Chip) (u : Nat) (f : MemUnit → MemUnit) : (c.updUnit u f).calTemps = c.calTemps := rfl
@[simp] theorem Chip.updUnit_calVals (c : Chip) (u : Nat) (f : MemUnit → MemUnit) : (c.updUnit u f).calVals = c.calVals := rfl
@[simp] theorem Chip.updUnit_engines (c : Chip) (u : Nat) (f : MemUnit → MemUnit) : (c.updUnit u f).engines = c.engines := rfl
@[simp] theorem Chip.updUnit_swaps (c : Chip) (u : Nat) (f : MemUnit → MemUnit) : (c.updUnit u f).swaps = c.swaps := rfl
@[simp] theorem Chip.updUnit_notice (c : Chip) (u : Nat) (f : MemUnit → MemUnit) : (c.updUnit u f).notice = c.notice := rfl
@[simp] theorem Chip.updUnit_darkFibres (c : Chip) (u : Nat) (f : MemUnit → MemUnit) : (c.updUnit u f).darkFibres = c.darkFibres := rfl
@[simp] theorem Chip.updUnit_laserFlags (c : Chip) (u : Nat) (f : MemUnit → MemUnit) : (c.updUnit u f).laserFlags = c.laserFlags := rfl
@[simp] theorem Chip.updUnit_colTarget (c : Chip) (u : Nat) (f : MemUnit → MemUnit) : (c.updUnit u f).colTarget = c.colTarget := rfl
@[simp] theorem Chip.updUnit_time (c : Chip) (u : Nat) (f : MemUnit → MemUnit) : (c.updUnit u f).time = c.time := rfl
@[simp] theorem Chip.updUnit_side (c : Chip) (u : Nat) (f : MemUnit → MemUnit) : (c.updUnit u f).side = c.side := rfl
@[simp] theorem Chip.updUnit_flash (c : Chip) (u : Nat) (f : MemUnit → MemUnit) : (c.updUnit u f).flash = c.flash := rfl
@[simp] theorem Chip.updUnit_resetCounts (c : Chip) (u : Nat) (f : MemUnit → MemUnit) : (c.updUnit u f).resetCounts = c.resetCounts := rfl
@[simp] theorem Chip.updUnit_sagSaid (c : Chip) (u : Nat) (f : MemUnit → MemUnit) : (c.updUnit u f).sagSaid = c.sagSaid := rfl
@[simp] theorem Chip.updUnit_means (c : Chip) (u : Nat) (f : MemUnit → MemUnit) : (c.updUnit u f).means = c.means := rfl
@[simp] theorem Chip.updUnit_limDue (c : Chip) (u : Nat) (f : MemUnit → MemUnit) : (c.updUnit u f).limDue = c.limDue := rfl
@[simp] theorem Chip.updUnit_limFrame (c : Chip) (u : Nat) (f : MemUnit → MemUnit) : (c.updUnit u f).limFrame = c.limFrame := rfl
@[simp] theorem Chip.updUnit_limAt (c : Chip) (u : Nat) (f : MemUnit → MemUnit) : (c.updUnit u f).limAt = c.limAt := rfl
@[simp] theorem Chip.updUnit_qps (c : Chip) (u : Nat) (f : MemUnit → MemUnit) : (c.updUnit u f).qps = c.qps := rfl
@[simp] theorem Chip.updUnit_ethFails (c : Chip) (u : Nat) (f : MemUnit → MemUnit) : (c.updUnit u f).ethFails = c.ethFails := rfl
@[simp] theorem Chip.updUnit_opens (c : Chip) (u : Nat) (f : MemUnit → MemUnit) : (c.updUnit u f).opens = c.opens := rfl
@[simp] theorem Chip.updUnit_nextSess (c : Chip) (u : Nat) (f : MemUnit → MemUnit) : (c.updUnit u f).nextSess = c.nextSess := rfl
@[simp] theorem Chip.updUnit_refusedAt (c : Chip) (u : Nat) (f : MemUnit → MemUnit) : (c.updUnit u f).refusedAt = c.refusedAt := rfl
@[simp] theorem Chip.updUnit_snap (c : Chip) (u : Nat) (f : MemUnit → MemUnit) : (c.updUnit u f).snap = c.snap := rfl

@[simp] theorem Chip.updSide_regs (c : Chip) (f : Side → Side) : (c.updSide f).regs = c.regs := rfl
@[simp] theorem Chip.updSide_blobs (c : Chip) (f : Side → Side) : (c.updSide f).blobs = c.blobs := rfl
@[simp] theorem Chip.updSide_out (c : Chip) (f : Side → Side) : (c.updSide f).out = c.out := rfl
@[simp] theorem Chip.updSide_fresh (c : Chip) (f : Side → Side) : (c.updSide f).fresh = c.fresh := rfl
@[simp] theorem Chip.updSide_extNext (c : Chip) (f : Side → Side) : (c.updSide f).extNext = c.extNext := rfl
@[simp] theorem Chip.updSide_ridges (c : Chip) (f : Side → Side) : (c.updSide f).ridges = c.ridges := rfl
@[simp] theorem Chip.updSide_queues (c : Chip) (f : Side → Side) : (c.updSide f).queues = c.queues := rfl
@[simp] theorem Chip.updSide_spads (c : Chip) (f : Side → Side) : (c.updSide f).spads = c.spads := rfl
@[simp] theorem Chip.updSide_units (c : Chip) (f : Side → Side) : (c.updSide f).units = c.units := rfl
@[simp] theorem Chip.updSide_parts (c : Chip) (f : Side → Side) : (c.updSide f).parts = c.parts := rfl
@[simp] theorem Chip.updSide_pend (c : Chip) (f : Side → Side) : (c.updSide f).pend = c.pend := rfl
@[simp] theorem Chip.updSide_pendWait (c : Chip) (f : Side → Side) : (c.updSide f).pendWait = c.pendWait := rfl
@[simp] theorem Chip.updSide_hosts (c : Chip) (f : Side → Side) : (c.updSide f).hosts = c.hosts := rfl
@[simp] theorem Chip.updSide_streams (c : Chip) (f : Side → Side) : (c.updSide f).streams = c.streams := rfl
@[simp] theorem Chip.updSide_cairn (c : Chip) (f : Side → Side) : (c.updSide f).cairn = c.cairn := rfl
@[simp] theorem Chip.updSide_sess (c : Chip) (f : Side → Side) : (c.updSide f).sess = c.sess := rfl
@[simp] theorem Chip.updSide_resets (c : Chip) (f : Side → Side) : (c.updSide f).resets = c.resets := rfl
@[simp] theorem Chip.updSide_agents (c : Chip) (f : Side → Side) : (c.updSide f).agents = c.agents := rfl
@[simp] theorem Chip.updSide_anchorTime (c : Chip) (f : Side → Side) : (c.updSide f).anchorTime = c.anchorTime := rfl
@[simp] theorem Chip.updSide_anchorRaw (c : Chip) (f : Side → Side) : (c.updSide f).anchorRaw = c.anchorRaw := rfl
@[simp] theorem Chip.updSide_raw (c : Chip) (f : Side → Side) : (c.updSide f).raw = c.raw := rfl
@[simp] theorem Chip.updSide_frame (c : Chip) (f : Side → Side) : (c.updSide f).frame = c.frame := rfl
@[simp] theorem Chip.updSide_tick (c : Chip) (f : Side → Side) : (c.updSide f).tick = c.tick := rfl
@[simp] theorem Chip.updSide_links (c : Chip) (f : Side → Side) : (c.updSide f).links = c.links := rfl
@[simp] theorem Chip.updSide_lanes (c : Chip) (f : Side → Side) : (c.updSide f).lanes = c.lanes := rfl
@[simp] theorem Chip.updSide_linkFull (c : Chip) (f : Side → Side) : (c.updSide f).linkFull = c.linkFull := rfl
@[simp] theorem Chip.updSide_loops (c : Chip) (f : Side → Side) : (c.updSide f).loops = c.loops := rfl
@[simp] theorem Chip.updSide_cores (c : Chip) (f : Side → Side) : (c.updSide f).cores = c.cores := rfl
@[simp] theorem Chip.updSide_resMap (c : Chip) (f : Side → Side) : (c.updSide f).resMap = c.resMap := rfl
@[simp] theorem Chip.updSide_travSaved (c : Chip) (f : Side → Side) : (c.updSide f).travSaved = c.travSaved := rfl
@[simp] theorem Chip.updSide_calRuns (c : Chip) (f : Side → Side) : (c.updSide f).calRuns = c.calRuns := rfl
@[simp] theorem Chip.updSide_calTemps (c : Chip) (f : Side → Side) : (c.updSide f).calTemps = c.calTemps := rfl
@[simp] theorem Chip.updSide_calVals (c : Chip) (f : Side → Side) : (c.updSide f).calVals = c.calVals := rfl
@[simp] theorem Chip.updSide_engines (c : Chip) (f : Side → Side) : (c.updSide f).engines = c.engines := rfl
@[simp] theorem Chip.updSide_swaps (c : Chip) (f : Side → Side) : (c.updSide f).swaps = c.swaps := rfl
@[simp] theorem Chip.updSide_notice (c : Chip) (f : Side → Side) : (c.updSide f).notice = c.notice := rfl
@[simp] theorem Chip.updSide_darkFibres (c : Chip) (f : Side → Side) : (c.updSide f).darkFibres = c.darkFibres := rfl
@[simp] theorem Chip.updSide_laserFlags (c : Chip) (f : Side → Side) : (c.updSide f).laserFlags = c.laserFlags := rfl
@[simp] theorem Chip.updSide_colTarget (c : Chip) (f : Side → Side) : (c.updSide f).colTarget = c.colTarget := rfl
@[simp] theorem Chip.updSide_time (c : Chip) (f : Side → Side) : (c.updSide f).time = c.time := rfl
@[simp] theorem Chip.updSide_flash (c : Chip) (f : Side → Side) : (c.updSide f).flash = c.flash := rfl
@[simp] theorem Chip.updSide_resetCounts (c : Chip) (f : Side → Side) : (c.updSide f).resetCounts = c.resetCounts := rfl
@[simp] theorem Chip.updSide_sagSaid (c : Chip) (f : Side → Side) : (c.updSide f).sagSaid = c.sagSaid := rfl
@[simp] theorem Chip.updSide_means (c : Chip) (f : Side → Side) : (c.updSide f).means = c.means := rfl
@[simp] theorem Chip.updSide_limDue (c : Chip) (f : Side → Side) : (c.updSide f).limDue = c.limDue := rfl
@[simp] theorem Chip.updSide_limFrame (c : Chip) (f : Side → Side) : (c.updSide f).limFrame = c.limFrame := rfl
@[simp] theorem Chip.updSide_limAt (c : Chip) (f : Side → Side) : (c.updSide f).limAt = c.limAt := rfl
@[simp] theorem Chip.updSide_qps (c : Chip) (f : Side → Side) : (c.updSide f).qps = c.qps := rfl
@[simp] theorem Chip.updSide_ethFails (c : Chip) (f : Side → Side) : (c.updSide f).ethFails = c.ethFails := rfl
@[simp] theorem Chip.updSide_opens (c : Chip) (f : Side → Side) : (c.updSide f).opens = c.opens := rfl
@[simp] theorem Chip.updSide_nextSess (c : Chip) (f : Side → Side) : (c.updSide f).nextSess = c.nextSess := rfl
@[simp] theorem Chip.updSide_refusedAt (c : Chip) (f : Side → Side) : (c.updSide f).refusedAt = c.refusedAt := rfl
@[simp] theorem Chip.updSide_snap (c : Chip) (f : Side → Side) : (c.updSide f).snap = c.snap := rfl

@[simp] theorem Chip.updTime_regs (c : Chip) (f : TimeUnit → TimeUnit) : (c.updTime f).regs = c.regs := rfl
@[simp] theorem Chip.updTime_blobs (c : Chip) (f : TimeUnit → TimeUnit) : (c.updTime f).blobs = c.blobs := rfl
@[simp] theorem Chip.updTime_out (c : Chip) (f : TimeUnit → TimeUnit) : (c.updTime f).out = c.out := rfl
@[simp] theorem Chip.updTime_fresh (c : Chip) (f : TimeUnit → TimeUnit) : (c.updTime f).fresh = c.fresh := rfl
@[simp] theorem Chip.updTime_extNext (c : Chip) (f : TimeUnit → TimeUnit) : (c.updTime f).extNext = c.extNext := rfl
@[simp] theorem Chip.updTime_ridges (c : Chip) (f : TimeUnit → TimeUnit) : (c.updTime f).ridges = c.ridges := rfl
@[simp] theorem Chip.updTime_queues (c : Chip) (f : TimeUnit → TimeUnit) : (c.updTime f).queues = c.queues := rfl
@[simp] theorem Chip.updTime_spads (c : Chip) (f : TimeUnit → TimeUnit) : (c.updTime f).spads = c.spads := rfl
@[simp] theorem Chip.updTime_units (c : Chip) (f : TimeUnit → TimeUnit) : (c.updTime f).units = c.units := rfl
@[simp] theorem Chip.updTime_parts (c : Chip) (f : TimeUnit → TimeUnit) : (c.updTime f).parts = c.parts := rfl
@[simp] theorem Chip.updTime_pend (c : Chip) (f : TimeUnit → TimeUnit) : (c.updTime f).pend = c.pend := rfl
@[simp] theorem Chip.updTime_pendWait (c : Chip) (f : TimeUnit → TimeUnit) : (c.updTime f).pendWait = c.pendWait := rfl
@[simp] theorem Chip.updTime_hosts (c : Chip) (f : TimeUnit → TimeUnit) : (c.updTime f).hosts = c.hosts := rfl
@[simp] theorem Chip.updTime_streams (c : Chip) (f : TimeUnit → TimeUnit) : (c.updTime f).streams = c.streams := rfl
@[simp] theorem Chip.updTime_cairn (c : Chip) (f : TimeUnit → TimeUnit) : (c.updTime f).cairn = c.cairn := rfl
@[simp] theorem Chip.updTime_sess (c : Chip) (f : TimeUnit → TimeUnit) : (c.updTime f).sess = c.sess := rfl
@[simp] theorem Chip.updTime_resets (c : Chip) (f : TimeUnit → TimeUnit) : (c.updTime f).resets = c.resets := rfl
@[simp] theorem Chip.updTime_agents (c : Chip) (f : TimeUnit → TimeUnit) : (c.updTime f).agents = c.agents := rfl
@[simp] theorem Chip.updTime_anchorTime (c : Chip) (f : TimeUnit → TimeUnit) : (c.updTime f).anchorTime = c.anchorTime := rfl
@[simp] theorem Chip.updTime_anchorRaw (c : Chip) (f : TimeUnit → TimeUnit) : (c.updTime f).anchorRaw = c.anchorRaw := rfl
@[simp] theorem Chip.updTime_raw (c : Chip) (f : TimeUnit → TimeUnit) : (c.updTime f).raw = c.raw := rfl
@[simp] theorem Chip.updTime_frame (c : Chip) (f : TimeUnit → TimeUnit) : (c.updTime f).frame = c.frame := rfl
@[simp] theorem Chip.updTime_tick (c : Chip) (f : TimeUnit → TimeUnit) : (c.updTime f).tick = c.tick := rfl
@[simp] theorem Chip.updTime_links (c : Chip) (f : TimeUnit → TimeUnit) : (c.updTime f).links = c.links := rfl
@[simp] theorem Chip.updTime_lanes (c : Chip) (f : TimeUnit → TimeUnit) : (c.updTime f).lanes = c.lanes := rfl
@[simp] theorem Chip.updTime_linkFull (c : Chip) (f : TimeUnit → TimeUnit) : (c.updTime f).linkFull = c.linkFull := rfl
@[simp] theorem Chip.updTime_loops (c : Chip) (f : TimeUnit → TimeUnit) : (c.updTime f).loops = c.loops := rfl
@[simp] theorem Chip.updTime_cores (c : Chip) (f : TimeUnit → TimeUnit) : (c.updTime f).cores = c.cores := rfl
@[simp] theorem Chip.updTime_resMap (c : Chip) (f : TimeUnit → TimeUnit) : (c.updTime f).resMap = c.resMap := rfl
@[simp] theorem Chip.updTime_travSaved (c : Chip) (f : TimeUnit → TimeUnit) : (c.updTime f).travSaved = c.travSaved := rfl
@[simp] theorem Chip.updTime_calRuns (c : Chip) (f : TimeUnit → TimeUnit) : (c.updTime f).calRuns = c.calRuns := rfl
@[simp] theorem Chip.updTime_calTemps (c : Chip) (f : TimeUnit → TimeUnit) : (c.updTime f).calTemps = c.calTemps := rfl
@[simp] theorem Chip.updTime_calVals (c : Chip) (f : TimeUnit → TimeUnit) : (c.updTime f).calVals = c.calVals := rfl
@[simp] theorem Chip.updTime_engines (c : Chip) (f : TimeUnit → TimeUnit) : (c.updTime f).engines = c.engines := rfl
@[simp] theorem Chip.updTime_swaps (c : Chip) (f : TimeUnit → TimeUnit) : (c.updTime f).swaps = c.swaps := rfl
@[simp] theorem Chip.updTime_notice (c : Chip) (f : TimeUnit → TimeUnit) : (c.updTime f).notice = c.notice := rfl
@[simp] theorem Chip.updTime_darkFibres (c : Chip) (f : TimeUnit → TimeUnit) : (c.updTime f).darkFibres = c.darkFibres := rfl
@[simp] theorem Chip.updTime_laserFlags (c : Chip) (f : TimeUnit → TimeUnit) : (c.updTime f).laserFlags = c.laserFlags := rfl
@[simp] theorem Chip.updTime_colTarget (c : Chip) (f : TimeUnit → TimeUnit) : (c.updTime f).colTarget = c.colTarget := rfl
@[simp] theorem Chip.updTime_side (c : Chip) (f : TimeUnit → TimeUnit) : (c.updTime f).side = c.side := rfl
@[simp] theorem Chip.updTime_flash (c : Chip) (f : TimeUnit → TimeUnit) : (c.updTime f).flash = c.flash := rfl
@[simp] theorem Chip.updTime_resetCounts (c : Chip) (f : TimeUnit → TimeUnit) : (c.updTime f).resetCounts = c.resetCounts := rfl
@[simp] theorem Chip.updTime_sagSaid (c : Chip) (f : TimeUnit → TimeUnit) : (c.updTime f).sagSaid = c.sagSaid := rfl
@[simp] theorem Chip.updTime_means (c : Chip) (f : TimeUnit → TimeUnit) : (c.updTime f).means = c.means := rfl
@[simp] theorem Chip.updTime_limDue (c : Chip) (f : TimeUnit → TimeUnit) : (c.updTime f).limDue = c.limDue := rfl
@[simp] theorem Chip.updTime_limFrame (c : Chip) (f : TimeUnit → TimeUnit) : (c.updTime f).limFrame = c.limFrame := rfl
@[simp] theorem Chip.updTime_limAt (c : Chip) (f : TimeUnit → TimeUnit) : (c.updTime f).limAt = c.limAt := rfl
@[simp] theorem Chip.updTime_qps (c : Chip) (f : TimeUnit → TimeUnit) : (c.updTime f).qps = c.qps := rfl
@[simp] theorem Chip.updTime_ethFails (c : Chip) (f : TimeUnit → TimeUnit) : (c.updTime f).ethFails = c.ethFails := rfl
@[simp] theorem Chip.updTime_opens (c : Chip) (f : TimeUnit → TimeUnit) : (c.updTime f).opens = c.opens := rfl
@[simp] theorem Chip.updTime_nextSess (c : Chip) (f : TimeUnit → TimeUnit) : (c.updTime f).nextSess = c.nextSess := rfl
@[simp] theorem Chip.updTime_refusedAt (c : Chip) (f : TimeUnit → TimeUnit) : (c.updTime f).refusedAt = c.refusedAt := rfl
@[simp] theorem Chip.updTime_snap (c : Chip) (f : TimeUnit → TimeUnit) : (c.updTime f).snap = c.snap := rfl

@[simp] theorem Chip.updAgent_regs (c : Chip) (a : Nat) (f : Agent → Agent) : (c.updAgent a f).regs = c.regs := rfl
@[simp] theorem Chip.updAgent_blobs (c : Chip) (a : Nat) (f : Agent → Agent) : (c.updAgent a f).blobs = c.blobs := rfl
@[simp] theorem Chip.updAgent_out (c : Chip) (a : Nat) (f : Agent → Agent) : (c.updAgent a f).out = c.out := rfl
@[simp] theorem Chip.updAgent_fresh (c : Chip) (a : Nat) (f : Agent → Agent) : (c.updAgent a f).fresh = c.fresh := rfl
@[simp] theorem Chip.updAgent_extNext (c : Chip) (a : Nat) (f : Agent → Agent) : (c.updAgent a f).extNext = c.extNext := rfl
@[simp] theorem Chip.updAgent_ridges (c : Chip) (a : Nat) (f : Agent → Agent) : (c.updAgent a f).ridges = c.ridges := rfl
@[simp] theorem Chip.updAgent_queues (c : Chip) (a : Nat) (f : Agent → Agent) : (c.updAgent a f).queues = c.queues := rfl
@[simp] theorem Chip.updAgent_spads (c : Chip) (a : Nat) (f : Agent → Agent) : (c.updAgent a f).spads = c.spads := rfl
@[simp] theorem Chip.updAgent_units (c : Chip) (a : Nat) (f : Agent → Agent) : (c.updAgent a f).units = c.units := rfl
@[simp] theorem Chip.updAgent_parts (c : Chip) (a : Nat) (f : Agent → Agent) : (c.updAgent a f).parts = c.parts := rfl
@[simp] theorem Chip.updAgent_pend (c : Chip) (a : Nat) (f : Agent → Agent) : (c.updAgent a f).pend = c.pend := rfl
@[simp] theorem Chip.updAgent_pendWait (c : Chip) (a : Nat) (f : Agent → Agent) : (c.updAgent a f).pendWait = c.pendWait := rfl
@[simp] theorem Chip.updAgent_hosts (c : Chip) (a : Nat) (f : Agent → Agent) : (c.updAgent a f).hosts = c.hosts := rfl
@[simp] theorem Chip.updAgent_streams (c : Chip) (a : Nat) (f : Agent → Agent) : (c.updAgent a f).streams = c.streams := rfl
@[simp] theorem Chip.updAgent_cairn (c : Chip) (a : Nat) (f : Agent → Agent) : (c.updAgent a f).cairn = c.cairn := rfl
@[simp] theorem Chip.updAgent_sess (c : Chip) (a : Nat) (f : Agent → Agent) : (c.updAgent a f).sess = c.sess := rfl
@[simp] theorem Chip.updAgent_resets (c : Chip) (a : Nat) (f : Agent → Agent) : (c.updAgent a f).resets = c.resets := rfl
@[simp] theorem Chip.updAgent_anchorTime (c : Chip) (a : Nat) (f : Agent → Agent) : (c.updAgent a f).anchorTime = c.anchorTime := rfl
@[simp] theorem Chip.updAgent_anchorRaw (c : Chip) (a : Nat) (f : Agent → Agent) : (c.updAgent a f).anchorRaw = c.anchorRaw := rfl
@[simp] theorem Chip.updAgent_raw (c : Chip) (a : Nat) (f : Agent → Agent) : (c.updAgent a f).raw = c.raw := rfl
@[simp] theorem Chip.updAgent_frame (c : Chip) (a : Nat) (f : Agent → Agent) : (c.updAgent a f).frame = c.frame := rfl
@[simp] theorem Chip.updAgent_tick (c : Chip) (a : Nat) (f : Agent → Agent) : (c.updAgent a f).tick = c.tick := rfl
@[simp] theorem Chip.updAgent_links (c : Chip) (a : Nat) (f : Agent → Agent) : (c.updAgent a f).links = c.links := rfl
@[simp] theorem Chip.updAgent_lanes (c : Chip) (a : Nat) (f : Agent → Agent) : (c.updAgent a f).lanes = c.lanes := rfl
@[simp] theorem Chip.updAgent_linkFull (c : Chip) (a : Nat) (f : Agent → Agent) : (c.updAgent a f).linkFull = c.linkFull := rfl
@[simp] theorem Chip.updAgent_loops (c : Chip) (a : Nat) (f : Agent → Agent) : (c.updAgent a f).loops = c.loops := rfl
@[simp] theorem Chip.updAgent_cores (c : Chip) (a : Nat) (f : Agent → Agent) : (c.updAgent a f).cores = c.cores := rfl
@[simp] theorem Chip.updAgent_resMap (c : Chip) (a : Nat) (f : Agent → Agent) : (c.updAgent a f).resMap = c.resMap := rfl
@[simp] theorem Chip.updAgent_travSaved (c : Chip) (a : Nat) (f : Agent → Agent) : (c.updAgent a f).travSaved = c.travSaved := rfl
@[simp] theorem Chip.updAgent_calRuns (c : Chip) (a : Nat) (f : Agent → Agent) : (c.updAgent a f).calRuns = c.calRuns := rfl
@[simp] theorem Chip.updAgent_calTemps (c : Chip) (a : Nat) (f : Agent → Agent) : (c.updAgent a f).calTemps = c.calTemps := rfl
@[simp] theorem Chip.updAgent_calVals (c : Chip) (a : Nat) (f : Agent → Agent) : (c.updAgent a f).calVals = c.calVals := rfl
@[simp] theorem Chip.updAgent_engines (c : Chip) (a : Nat) (f : Agent → Agent) : (c.updAgent a f).engines = c.engines := rfl
@[simp] theorem Chip.updAgent_swaps (c : Chip) (a : Nat) (f : Agent → Agent) : (c.updAgent a f).swaps = c.swaps := rfl
@[simp] theorem Chip.updAgent_notice (c : Chip) (a : Nat) (f : Agent → Agent) : (c.updAgent a f).notice = c.notice := rfl
@[simp] theorem Chip.updAgent_darkFibres (c : Chip) (a : Nat) (f : Agent → Agent) : (c.updAgent a f).darkFibres = c.darkFibres := rfl
@[simp] theorem Chip.updAgent_laserFlags (c : Chip) (a : Nat) (f : Agent → Agent) : (c.updAgent a f).laserFlags = c.laserFlags := rfl
@[simp] theorem Chip.updAgent_colTarget (c : Chip) (a : Nat) (f : Agent → Agent) : (c.updAgent a f).colTarget = c.colTarget := rfl
@[simp] theorem Chip.updAgent_time (c : Chip) (a : Nat) (f : Agent → Agent) : (c.updAgent a f).time = c.time := rfl
@[simp] theorem Chip.updAgent_side (c : Chip) (a : Nat) (f : Agent → Agent) : (c.updAgent a f).side = c.side := rfl
@[simp] theorem Chip.updAgent_flash (c : Chip) (a : Nat) (f : Agent → Agent) : (c.updAgent a f).flash = c.flash := rfl
@[simp] theorem Chip.updAgent_resetCounts (c : Chip) (a : Nat) (f : Agent → Agent) : (c.updAgent a f).resetCounts = c.resetCounts := rfl
@[simp] theorem Chip.updAgent_sagSaid (c : Chip) (a : Nat) (f : Agent → Agent) : (c.updAgent a f).sagSaid = c.sagSaid := rfl
@[simp] theorem Chip.updAgent_means (c : Chip) (a : Nat) (f : Agent → Agent) : (c.updAgent a f).means = c.means := rfl
@[simp] theorem Chip.updAgent_limDue (c : Chip) (a : Nat) (f : Agent → Agent) : (c.updAgent a f).limDue = c.limDue := rfl
@[simp] theorem Chip.updAgent_limFrame (c : Chip) (a : Nat) (f : Agent → Agent) : (c.updAgent a f).limFrame = c.limFrame := rfl
@[simp] theorem Chip.updAgent_limAt (c : Chip) (a : Nat) (f : Agent → Agent) : (c.updAgent a f).limAt = c.limAt := rfl
@[simp] theorem Chip.updAgent_qps (c : Chip) (a : Nat) (f : Agent → Agent) : (c.updAgent a f).qps = c.qps := rfl
@[simp] theorem Chip.updAgent_ethFails (c : Chip) (a : Nat) (f : Agent → Agent) : (c.updAgent a f).ethFails = c.ethFails := rfl
@[simp] theorem Chip.updAgent_opens (c : Chip) (a : Nat) (f : Agent → Agent) : (c.updAgent a f).opens = c.opens := rfl
@[simp] theorem Chip.updAgent_nextSess (c : Chip) (a : Nat) (f : Agent → Agent) : (c.updAgent a f).nextSess = c.nextSess := rfl
@[simp] theorem Chip.updAgent_refusedAt (c : Chip) (a : Nat) (f : Agent → Agent) : (c.updAgent a f).refusedAt = c.refusedAt := rfl
@[simp] theorem Chip.updAgent_snap (c : Chip) (a : Nat) (f : Agent → Agent) : (c.updAgent a f).snap = c.snap := rfl

@[simp] theorem Chip.updLink_regs (c : Chip) (l : Nat) (f : Link → Link) : (c.updLink l f).regs = c.regs := rfl
@[simp] theorem Chip.updLink_blobs (c : Chip) (l : Nat) (f : Link → Link) : (c.updLink l f).blobs = c.blobs := rfl
@[simp] theorem Chip.updLink_out (c : Chip) (l : Nat) (f : Link → Link) : (c.updLink l f).out = c.out := rfl
@[simp] theorem Chip.updLink_fresh (c : Chip) (l : Nat) (f : Link → Link) : (c.updLink l f).fresh = c.fresh := rfl
@[simp] theorem Chip.updLink_extNext (c : Chip) (l : Nat) (f : Link → Link) : (c.updLink l f).extNext = c.extNext := rfl
@[simp] theorem Chip.updLink_ridges (c : Chip) (l : Nat) (f : Link → Link) : (c.updLink l f).ridges = c.ridges := rfl
@[simp] theorem Chip.updLink_queues (c : Chip) (l : Nat) (f : Link → Link) : (c.updLink l f).queues = c.queues := rfl
@[simp] theorem Chip.updLink_spads (c : Chip) (l : Nat) (f : Link → Link) : (c.updLink l f).spads = c.spads := rfl
@[simp] theorem Chip.updLink_units (c : Chip) (l : Nat) (f : Link → Link) : (c.updLink l f).units = c.units := rfl
@[simp] theorem Chip.updLink_parts (c : Chip) (l : Nat) (f : Link → Link) : (c.updLink l f).parts = c.parts := rfl
@[simp] theorem Chip.updLink_pend (c : Chip) (l : Nat) (f : Link → Link) : (c.updLink l f).pend = c.pend := rfl
@[simp] theorem Chip.updLink_pendWait (c : Chip) (l : Nat) (f : Link → Link) : (c.updLink l f).pendWait = c.pendWait := rfl
@[simp] theorem Chip.updLink_hosts (c : Chip) (l : Nat) (f : Link → Link) : (c.updLink l f).hosts = c.hosts := rfl
@[simp] theorem Chip.updLink_streams (c : Chip) (l : Nat) (f : Link → Link) : (c.updLink l f).streams = c.streams := rfl
@[simp] theorem Chip.updLink_cairn (c : Chip) (l : Nat) (f : Link → Link) : (c.updLink l f).cairn = c.cairn := rfl
@[simp] theorem Chip.updLink_sess (c : Chip) (l : Nat) (f : Link → Link) : (c.updLink l f).sess = c.sess := rfl
@[simp] theorem Chip.updLink_resets (c : Chip) (l : Nat) (f : Link → Link) : (c.updLink l f).resets = c.resets := rfl
@[simp] theorem Chip.updLink_agents (c : Chip) (l : Nat) (f : Link → Link) : (c.updLink l f).agents = c.agents := rfl
@[simp] theorem Chip.updLink_anchorTime (c : Chip) (l : Nat) (f : Link → Link) : (c.updLink l f).anchorTime = c.anchorTime := rfl
@[simp] theorem Chip.updLink_anchorRaw (c : Chip) (l : Nat) (f : Link → Link) : (c.updLink l f).anchorRaw = c.anchorRaw := rfl
@[simp] theorem Chip.updLink_raw (c : Chip) (l : Nat) (f : Link → Link) : (c.updLink l f).raw = c.raw := rfl
@[simp] theorem Chip.updLink_frame (c : Chip) (l : Nat) (f : Link → Link) : (c.updLink l f).frame = c.frame := rfl
@[simp] theorem Chip.updLink_tick (c : Chip) (l : Nat) (f : Link → Link) : (c.updLink l f).tick = c.tick := rfl
@[simp] theorem Chip.updLink_lanes (c : Chip) (l : Nat) (f : Link → Link) : (c.updLink l f).lanes = c.lanes := rfl
@[simp] theorem Chip.updLink_linkFull (c : Chip) (l : Nat) (f : Link → Link) : (c.updLink l f).linkFull = c.linkFull := rfl
@[simp] theorem Chip.updLink_loops (c : Chip) (l : Nat) (f : Link → Link) : (c.updLink l f).loops = c.loops := rfl
@[simp] theorem Chip.updLink_cores (c : Chip) (l : Nat) (f : Link → Link) : (c.updLink l f).cores = c.cores := rfl
@[simp] theorem Chip.updLink_resMap (c : Chip) (l : Nat) (f : Link → Link) : (c.updLink l f).resMap = c.resMap := rfl
@[simp] theorem Chip.updLink_travSaved (c : Chip) (l : Nat) (f : Link → Link) : (c.updLink l f).travSaved = c.travSaved := rfl
@[simp] theorem Chip.updLink_calRuns (c : Chip) (l : Nat) (f : Link → Link) : (c.updLink l f).calRuns = c.calRuns := rfl
@[simp] theorem Chip.updLink_calTemps (c : Chip) (l : Nat) (f : Link → Link) : (c.updLink l f).calTemps = c.calTemps := rfl
@[simp] theorem Chip.updLink_calVals (c : Chip) (l : Nat) (f : Link → Link) : (c.updLink l f).calVals = c.calVals := rfl
@[simp] theorem Chip.updLink_engines (c : Chip) (l : Nat) (f : Link → Link) : (c.updLink l f).engines = c.engines := rfl
@[simp] theorem Chip.updLink_swaps (c : Chip) (l : Nat) (f : Link → Link) : (c.updLink l f).swaps = c.swaps := rfl
@[simp] theorem Chip.updLink_notice (c : Chip) (l : Nat) (f : Link → Link) : (c.updLink l f).notice = c.notice := rfl
@[simp] theorem Chip.updLink_darkFibres (c : Chip) (l : Nat) (f : Link → Link) : (c.updLink l f).darkFibres = c.darkFibres := rfl
@[simp] theorem Chip.updLink_laserFlags (c : Chip) (l : Nat) (f : Link → Link) : (c.updLink l f).laserFlags = c.laserFlags := rfl
@[simp] theorem Chip.updLink_colTarget (c : Chip) (l : Nat) (f : Link → Link) : (c.updLink l f).colTarget = c.colTarget := rfl
@[simp] theorem Chip.updLink_time (c : Chip) (l : Nat) (f : Link → Link) : (c.updLink l f).time = c.time := rfl
@[simp] theorem Chip.updLink_side (c : Chip) (l : Nat) (f : Link → Link) : (c.updLink l f).side = c.side := rfl
@[simp] theorem Chip.updLink_flash (c : Chip) (l : Nat) (f : Link → Link) : (c.updLink l f).flash = c.flash := rfl
@[simp] theorem Chip.updLink_resetCounts (c : Chip) (l : Nat) (f : Link → Link) : (c.updLink l f).resetCounts = c.resetCounts := rfl
@[simp] theorem Chip.updLink_sagSaid (c : Chip) (l : Nat) (f : Link → Link) : (c.updLink l f).sagSaid = c.sagSaid := rfl
@[simp] theorem Chip.updLink_means (c : Chip) (l : Nat) (f : Link → Link) : (c.updLink l f).means = c.means := rfl
@[simp] theorem Chip.updLink_limDue (c : Chip) (l : Nat) (f : Link → Link) : (c.updLink l f).limDue = c.limDue := rfl
@[simp] theorem Chip.updLink_limFrame (c : Chip) (l : Nat) (f : Link → Link) : (c.updLink l f).limFrame = c.limFrame := rfl
@[simp] theorem Chip.updLink_limAt (c : Chip) (l : Nat) (f : Link → Link) : (c.updLink l f).limAt = c.limAt := rfl
@[simp] theorem Chip.updLink_qps (c : Chip) (l : Nat) (f : Link → Link) : (c.updLink l f).qps = c.qps := rfl
@[simp] theorem Chip.updLink_ethFails (c : Chip) (l : Nat) (f : Link → Link) : (c.updLink l f).ethFails = c.ethFails := rfl
@[simp] theorem Chip.updLink_opens (c : Chip) (l : Nat) (f : Link → Link) : (c.updLink l f).opens = c.opens := rfl
@[simp] theorem Chip.updLink_nextSess (c : Chip) (l : Nat) (f : Link → Link) : (c.updLink l f).nextSess = c.nextSess := rfl
@[simp] theorem Chip.updLink_refusedAt (c : Chip) (l : Nat) (f : Link → Link) : (c.updLink l f).refusedAt = c.refusedAt := rfl
@[simp] theorem Chip.updLink_snap (c : Chip) (l : Nat) (f : Link → Link) : (c.updLink l f).snap = c.snap := rfl

@[simp] theorem Chip.updLane_regs (c : Chip) (i : Nat) (f : Lane → Lane) : (c.updLane i f).regs = c.regs := rfl
@[simp] theorem Chip.updLane_blobs (c : Chip) (i : Nat) (f : Lane → Lane) : (c.updLane i f).blobs = c.blobs := rfl
@[simp] theorem Chip.updLane_out (c : Chip) (i : Nat) (f : Lane → Lane) : (c.updLane i f).out = c.out := rfl
@[simp] theorem Chip.updLane_fresh (c : Chip) (i : Nat) (f : Lane → Lane) : (c.updLane i f).fresh = c.fresh := rfl
@[simp] theorem Chip.updLane_extNext (c : Chip) (i : Nat) (f : Lane → Lane) : (c.updLane i f).extNext = c.extNext := rfl
@[simp] theorem Chip.updLane_ridges (c : Chip) (i : Nat) (f : Lane → Lane) : (c.updLane i f).ridges = c.ridges := rfl
@[simp] theorem Chip.updLane_queues (c : Chip) (i : Nat) (f : Lane → Lane) : (c.updLane i f).queues = c.queues := rfl
@[simp] theorem Chip.updLane_spads (c : Chip) (i : Nat) (f : Lane → Lane) : (c.updLane i f).spads = c.spads := rfl
@[simp] theorem Chip.updLane_units (c : Chip) (i : Nat) (f : Lane → Lane) : (c.updLane i f).units = c.units := rfl
@[simp] theorem Chip.updLane_parts (c : Chip) (i : Nat) (f : Lane → Lane) : (c.updLane i f).parts = c.parts := rfl
@[simp] theorem Chip.updLane_pend (c : Chip) (i : Nat) (f : Lane → Lane) : (c.updLane i f).pend = c.pend := rfl
@[simp] theorem Chip.updLane_pendWait (c : Chip) (i : Nat) (f : Lane → Lane) : (c.updLane i f).pendWait = c.pendWait := rfl
@[simp] theorem Chip.updLane_hosts (c : Chip) (i : Nat) (f : Lane → Lane) : (c.updLane i f).hosts = c.hosts := rfl
@[simp] theorem Chip.updLane_streams (c : Chip) (i : Nat) (f : Lane → Lane) : (c.updLane i f).streams = c.streams := rfl
@[simp] theorem Chip.updLane_cairn (c : Chip) (i : Nat) (f : Lane → Lane) : (c.updLane i f).cairn = c.cairn := rfl
@[simp] theorem Chip.updLane_sess (c : Chip) (i : Nat) (f : Lane → Lane) : (c.updLane i f).sess = c.sess := rfl
@[simp] theorem Chip.updLane_resets (c : Chip) (i : Nat) (f : Lane → Lane) : (c.updLane i f).resets = c.resets := rfl
@[simp] theorem Chip.updLane_agents (c : Chip) (i : Nat) (f : Lane → Lane) : (c.updLane i f).agents = c.agents := rfl
@[simp] theorem Chip.updLane_anchorTime (c : Chip) (i : Nat) (f : Lane → Lane) : (c.updLane i f).anchorTime = c.anchorTime := rfl
@[simp] theorem Chip.updLane_anchorRaw (c : Chip) (i : Nat) (f : Lane → Lane) : (c.updLane i f).anchorRaw = c.anchorRaw := rfl
@[simp] theorem Chip.updLane_raw (c : Chip) (i : Nat) (f : Lane → Lane) : (c.updLane i f).raw = c.raw := rfl
@[simp] theorem Chip.updLane_frame (c : Chip) (i : Nat) (f : Lane → Lane) : (c.updLane i f).frame = c.frame := rfl
@[simp] theorem Chip.updLane_tick (c : Chip) (i : Nat) (f : Lane → Lane) : (c.updLane i f).tick = c.tick := rfl
@[simp] theorem Chip.updLane_links (c : Chip) (i : Nat) (f : Lane → Lane) : (c.updLane i f).links = c.links := rfl
@[simp] theorem Chip.updLane_linkFull (c : Chip) (i : Nat) (f : Lane → Lane) : (c.updLane i f).linkFull = c.linkFull := rfl
@[simp] theorem Chip.updLane_loops (c : Chip) (i : Nat) (f : Lane → Lane) : (c.updLane i f).loops = c.loops := rfl
@[simp] theorem Chip.updLane_cores (c : Chip) (i : Nat) (f : Lane → Lane) : (c.updLane i f).cores = c.cores := rfl
@[simp] theorem Chip.updLane_resMap (c : Chip) (i : Nat) (f : Lane → Lane) : (c.updLane i f).resMap = c.resMap := rfl
@[simp] theorem Chip.updLane_travSaved (c : Chip) (i : Nat) (f : Lane → Lane) : (c.updLane i f).travSaved = c.travSaved := rfl
@[simp] theorem Chip.updLane_calRuns (c : Chip) (i : Nat) (f : Lane → Lane) : (c.updLane i f).calRuns = c.calRuns := rfl
@[simp] theorem Chip.updLane_calTemps (c : Chip) (i : Nat) (f : Lane → Lane) : (c.updLane i f).calTemps = c.calTemps := rfl
@[simp] theorem Chip.updLane_calVals (c : Chip) (i : Nat) (f : Lane → Lane) : (c.updLane i f).calVals = c.calVals := rfl
@[simp] theorem Chip.updLane_engines (c : Chip) (i : Nat) (f : Lane → Lane) : (c.updLane i f).engines = c.engines := rfl
@[simp] theorem Chip.updLane_swaps (c : Chip) (i : Nat) (f : Lane → Lane) : (c.updLane i f).swaps = c.swaps := rfl
@[simp] theorem Chip.updLane_notice (c : Chip) (i : Nat) (f : Lane → Lane) : (c.updLane i f).notice = c.notice := rfl
@[simp] theorem Chip.updLane_darkFibres (c : Chip) (i : Nat) (f : Lane → Lane) : (c.updLane i f).darkFibres = c.darkFibres := rfl
@[simp] theorem Chip.updLane_laserFlags (c : Chip) (i : Nat) (f : Lane → Lane) : (c.updLane i f).laserFlags = c.laserFlags := rfl
@[simp] theorem Chip.updLane_colTarget (c : Chip) (i : Nat) (f : Lane → Lane) : (c.updLane i f).colTarget = c.colTarget := rfl
@[simp] theorem Chip.updLane_time (c : Chip) (i : Nat) (f : Lane → Lane) : (c.updLane i f).time = c.time := rfl
@[simp] theorem Chip.updLane_side (c : Chip) (i : Nat) (f : Lane → Lane) : (c.updLane i f).side = c.side := rfl
@[simp] theorem Chip.updLane_flash (c : Chip) (i : Nat) (f : Lane → Lane) : (c.updLane i f).flash = c.flash := rfl
@[simp] theorem Chip.updLane_resetCounts (c : Chip) (i : Nat) (f : Lane → Lane) : (c.updLane i f).resetCounts = c.resetCounts := rfl
@[simp] theorem Chip.updLane_sagSaid (c : Chip) (i : Nat) (f : Lane → Lane) : (c.updLane i f).sagSaid = c.sagSaid := rfl
@[simp] theorem Chip.updLane_means (c : Chip) (i : Nat) (f : Lane → Lane) : (c.updLane i f).means = c.means := rfl
@[simp] theorem Chip.updLane_limDue (c : Chip) (i : Nat) (f : Lane → Lane) : (c.updLane i f).limDue = c.limDue := rfl
@[simp] theorem Chip.updLane_limFrame (c : Chip) (i : Nat) (f : Lane → Lane) : (c.updLane i f).limFrame = c.limFrame := rfl
@[simp] theorem Chip.updLane_limAt (c : Chip) (i : Nat) (f : Lane → Lane) : (c.updLane i f).limAt = c.limAt := rfl
@[simp] theorem Chip.updLane_qps (c : Chip) (i : Nat) (f : Lane → Lane) : (c.updLane i f).qps = c.qps := rfl
@[simp] theorem Chip.updLane_ethFails (c : Chip) (i : Nat) (f : Lane → Lane) : (c.updLane i f).ethFails = c.ethFails := rfl
@[simp] theorem Chip.updLane_opens (c : Chip) (i : Nat) (f : Lane → Lane) : (c.updLane i f).opens = c.opens := rfl
@[simp] theorem Chip.updLane_nextSess (c : Chip) (i : Nat) (f : Lane → Lane) : (c.updLane i f).nextSess = c.nextSess := rfl
@[simp] theorem Chip.updLane_refusedAt (c : Chip) (i : Nat) (f : Lane → Lane) : (c.updLane i f).refusedAt = c.refusedAt := rfl
@[simp] theorem Chip.updLane_snap (c : Chip) (i : Nat) (f : Lane → Lane) : (c.updLane i f).snap = c.snap := rfl

@[simp] theorem Chip.updLoop_regs (c : Chip) (n i : Nat) (f : Loop → Loop) : (c.updLoop n i f).regs = c.regs := rfl
@[simp] theorem Chip.updLoop_blobs (c : Chip) (n i : Nat) (f : Loop → Loop) : (c.updLoop n i f).blobs = c.blobs := rfl
@[simp] theorem Chip.updLoop_out (c : Chip) (n i : Nat) (f : Loop → Loop) : (c.updLoop n i f).out = c.out := rfl
@[simp] theorem Chip.updLoop_fresh (c : Chip) (n i : Nat) (f : Loop → Loop) : (c.updLoop n i f).fresh = c.fresh := rfl
@[simp] theorem Chip.updLoop_extNext (c : Chip) (n i : Nat) (f : Loop → Loop) : (c.updLoop n i f).extNext = c.extNext := rfl
@[simp] theorem Chip.updLoop_ridges (c : Chip) (n i : Nat) (f : Loop → Loop) : (c.updLoop n i f).ridges = c.ridges := rfl
@[simp] theorem Chip.updLoop_queues (c : Chip) (n i : Nat) (f : Loop → Loop) : (c.updLoop n i f).queues = c.queues := rfl
@[simp] theorem Chip.updLoop_spads (c : Chip) (n i : Nat) (f : Loop → Loop) : (c.updLoop n i f).spads = c.spads := rfl
@[simp] theorem Chip.updLoop_units (c : Chip) (n i : Nat) (f : Loop → Loop) : (c.updLoop n i f).units = c.units := rfl
@[simp] theorem Chip.updLoop_parts (c : Chip) (n i : Nat) (f : Loop → Loop) : (c.updLoop n i f).parts = c.parts := rfl
@[simp] theorem Chip.updLoop_pend (c : Chip) (n i : Nat) (f : Loop → Loop) : (c.updLoop n i f).pend = c.pend := rfl
@[simp] theorem Chip.updLoop_pendWait (c : Chip) (n i : Nat) (f : Loop → Loop) : (c.updLoop n i f).pendWait = c.pendWait := rfl
@[simp] theorem Chip.updLoop_hosts (c : Chip) (n i : Nat) (f : Loop → Loop) : (c.updLoop n i f).hosts = c.hosts := rfl
@[simp] theorem Chip.updLoop_streams (c : Chip) (n i : Nat) (f : Loop → Loop) : (c.updLoop n i f).streams = c.streams := rfl
@[simp] theorem Chip.updLoop_cairn (c : Chip) (n i : Nat) (f : Loop → Loop) : (c.updLoop n i f).cairn = c.cairn := rfl
@[simp] theorem Chip.updLoop_sess (c : Chip) (n i : Nat) (f : Loop → Loop) : (c.updLoop n i f).sess = c.sess := rfl
@[simp] theorem Chip.updLoop_resets (c : Chip) (n i : Nat) (f : Loop → Loop) : (c.updLoop n i f).resets = c.resets := rfl
@[simp] theorem Chip.updLoop_agents (c : Chip) (n i : Nat) (f : Loop → Loop) : (c.updLoop n i f).agents = c.agents := rfl
@[simp] theorem Chip.updLoop_anchorTime (c : Chip) (n i : Nat) (f : Loop → Loop) : (c.updLoop n i f).anchorTime = c.anchorTime := rfl
@[simp] theorem Chip.updLoop_anchorRaw (c : Chip) (n i : Nat) (f : Loop → Loop) : (c.updLoop n i f).anchorRaw = c.anchorRaw := rfl
@[simp] theorem Chip.updLoop_raw (c : Chip) (n i : Nat) (f : Loop → Loop) : (c.updLoop n i f).raw = c.raw := rfl
@[simp] theorem Chip.updLoop_frame (c : Chip) (n i : Nat) (f : Loop → Loop) : (c.updLoop n i f).frame = c.frame := rfl
@[simp] theorem Chip.updLoop_tick (c : Chip) (n i : Nat) (f : Loop → Loop) : (c.updLoop n i f).tick = c.tick := rfl
@[simp] theorem Chip.updLoop_links (c : Chip) (n i : Nat) (f : Loop → Loop) : (c.updLoop n i f).links = c.links := rfl
@[simp] theorem Chip.updLoop_lanes (c : Chip) (n i : Nat) (f : Loop → Loop) : (c.updLoop n i f).lanes = c.lanes := rfl
@[simp] theorem Chip.updLoop_linkFull (c : Chip) (n i : Nat) (f : Loop → Loop) : (c.updLoop n i f).linkFull = c.linkFull := rfl
@[simp] theorem Chip.updLoop_cores (c : Chip) (n i : Nat) (f : Loop → Loop) : (c.updLoop n i f).cores = c.cores := rfl
@[simp] theorem Chip.updLoop_resMap (c : Chip) (n i : Nat) (f : Loop → Loop) : (c.updLoop n i f).resMap = c.resMap := rfl
@[simp] theorem Chip.updLoop_travSaved (c : Chip) (n i : Nat) (f : Loop → Loop) : (c.updLoop n i f).travSaved = c.travSaved := rfl
@[simp] theorem Chip.updLoop_calRuns (c : Chip) (n i : Nat) (f : Loop → Loop) : (c.updLoop n i f).calRuns = c.calRuns := rfl
@[simp] theorem Chip.updLoop_calTemps (c : Chip) (n i : Nat) (f : Loop → Loop) : (c.updLoop n i f).calTemps = c.calTemps := rfl
@[simp] theorem Chip.updLoop_calVals (c : Chip) (n i : Nat) (f : Loop → Loop) : (c.updLoop n i f).calVals = c.calVals := rfl
@[simp] theorem Chip.updLoop_engines (c : Chip) (n i : Nat) (f : Loop → Loop) : (c.updLoop n i f).engines = c.engines := rfl
@[simp] theorem Chip.updLoop_swaps (c : Chip) (n i : Nat) (f : Loop → Loop) : (c.updLoop n i f).swaps = c.swaps := rfl
@[simp] theorem Chip.updLoop_notice (c : Chip) (n i : Nat) (f : Loop → Loop) : (c.updLoop n i f).notice = c.notice := rfl
@[simp] theorem Chip.updLoop_darkFibres (c : Chip) (n i : Nat) (f : Loop → Loop) : (c.updLoop n i f).darkFibres = c.darkFibres := rfl
@[simp] theorem Chip.updLoop_laserFlags (c : Chip) (n i : Nat) (f : Loop → Loop) : (c.updLoop n i f).laserFlags = c.laserFlags := rfl
@[simp] theorem Chip.updLoop_colTarget (c : Chip) (n i : Nat) (f : Loop → Loop) : (c.updLoop n i f).colTarget = c.colTarget := rfl
@[simp] theorem Chip.updLoop_time (c : Chip) (n i : Nat) (f : Loop → Loop) : (c.updLoop n i f).time = c.time := rfl
@[simp] theorem Chip.updLoop_side (c : Chip) (n i : Nat) (f : Loop → Loop) : (c.updLoop n i f).side = c.side := rfl
@[simp] theorem Chip.updLoop_flash (c : Chip) (n i : Nat) (f : Loop → Loop) : (c.updLoop n i f).flash = c.flash := rfl
@[simp] theorem Chip.updLoop_resetCounts (c : Chip) (n i : Nat) (f : Loop → Loop) : (c.updLoop n i f).resetCounts = c.resetCounts := rfl
@[simp] theorem Chip.updLoop_sagSaid (c : Chip) (n i : Nat) (f : Loop → Loop) : (c.updLoop n i f).sagSaid = c.sagSaid := rfl
@[simp] theorem Chip.updLoop_means (c : Chip) (n i : Nat) (f : Loop → Loop) : (c.updLoop n i f).means = c.means := rfl
@[simp] theorem Chip.updLoop_limDue (c : Chip) (n i : Nat) (f : Loop → Loop) : (c.updLoop n i f).limDue = c.limDue := rfl
@[simp] theorem Chip.updLoop_limFrame (c : Chip) (n i : Nat) (f : Loop → Loop) : (c.updLoop n i f).limFrame = c.limFrame := rfl
@[simp] theorem Chip.updLoop_limAt (c : Chip) (n i : Nat) (f : Loop → Loop) : (c.updLoop n i f).limAt = c.limAt := rfl
@[simp] theorem Chip.updLoop_qps (c : Chip) (n i : Nat) (f : Loop → Loop) : (c.updLoop n i f).qps = c.qps := rfl
@[simp] theorem Chip.updLoop_ethFails (c : Chip) (n i : Nat) (f : Loop → Loop) : (c.updLoop n i f).ethFails = c.ethFails := rfl
@[simp] theorem Chip.updLoop_opens (c : Chip) (n i : Nat) (f : Loop → Loop) : (c.updLoop n i f).opens = c.opens := rfl
@[simp] theorem Chip.updLoop_nextSess (c : Chip) (n i : Nat) (f : Loop → Loop) : (c.updLoop n i f).nextSess = c.nextSess := rfl
@[simp] theorem Chip.updLoop_refusedAt (c : Chip) (n i : Nat) (f : Loop → Loop) : (c.updLoop n i f).refusedAt = c.refusedAt := rfl
@[simp] theorem Chip.updLoop_snap (c : Chip) (n i : Nat) (f : Loop → Loop) : (c.updLoop n i f).snap = c.snap := rfl

@[simp] theorem Chip.updCore_regs (c : Chip) (n : Nat) (f : Core → Core) : (c.updCore n f).regs = c.regs := rfl
@[simp] theorem Chip.updCore_blobs (c : Chip) (n : Nat) (f : Core → Core) : (c.updCore n f).blobs = c.blobs := rfl
@[simp] theorem Chip.updCore_out (c : Chip) (n : Nat) (f : Core → Core) : (c.updCore n f).out = c.out := rfl
@[simp] theorem Chip.updCore_fresh (c : Chip) (n : Nat) (f : Core → Core) : (c.updCore n f).fresh = c.fresh := rfl
@[simp] theorem Chip.updCore_extNext (c : Chip) (n : Nat) (f : Core → Core) : (c.updCore n f).extNext = c.extNext := rfl
@[simp] theorem Chip.updCore_ridges (c : Chip) (n : Nat) (f : Core → Core) : (c.updCore n f).ridges = c.ridges := rfl
@[simp] theorem Chip.updCore_queues (c : Chip) (n : Nat) (f : Core → Core) : (c.updCore n f).queues = c.queues := rfl
@[simp] theorem Chip.updCore_spads (c : Chip) (n : Nat) (f : Core → Core) : (c.updCore n f).spads = c.spads := rfl
@[simp] theorem Chip.updCore_units (c : Chip) (n : Nat) (f : Core → Core) : (c.updCore n f).units = c.units := rfl
@[simp] theorem Chip.updCore_parts (c : Chip) (n : Nat) (f : Core → Core) : (c.updCore n f).parts = c.parts := rfl
@[simp] theorem Chip.updCore_pend (c : Chip) (n : Nat) (f : Core → Core) : (c.updCore n f).pend = c.pend := rfl
@[simp] theorem Chip.updCore_pendWait (c : Chip) (n : Nat) (f : Core → Core) : (c.updCore n f).pendWait = c.pendWait := rfl
@[simp] theorem Chip.updCore_hosts (c : Chip) (n : Nat) (f : Core → Core) : (c.updCore n f).hosts = c.hosts := rfl
@[simp] theorem Chip.updCore_streams (c : Chip) (n : Nat) (f : Core → Core) : (c.updCore n f).streams = c.streams := rfl
@[simp] theorem Chip.updCore_cairn (c : Chip) (n : Nat) (f : Core → Core) : (c.updCore n f).cairn = c.cairn := rfl
@[simp] theorem Chip.updCore_sess (c : Chip) (n : Nat) (f : Core → Core) : (c.updCore n f).sess = c.sess := rfl
@[simp] theorem Chip.updCore_resets (c : Chip) (n : Nat) (f : Core → Core) : (c.updCore n f).resets = c.resets := rfl
@[simp] theorem Chip.updCore_agents (c : Chip) (n : Nat) (f : Core → Core) : (c.updCore n f).agents = c.agents := rfl
@[simp] theorem Chip.updCore_anchorTime (c : Chip) (n : Nat) (f : Core → Core) : (c.updCore n f).anchorTime = c.anchorTime := rfl
@[simp] theorem Chip.updCore_anchorRaw (c : Chip) (n : Nat) (f : Core → Core) : (c.updCore n f).anchorRaw = c.anchorRaw := rfl
@[simp] theorem Chip.updCore_raw (c : Chip) (n : Nat) (f : Core → Core) : (c.updCore n f).raw = c.raw := rfl
@[simp] theorem Chip.updCore_frame (c : Chip) (n : Nat) (f : Core → Core) : (c.updCore n f).frame = c.frame := rfl
@[simp] theorem Chip.updCore_tick (c : Chip) (n : Nat) (f : Core → Core) : (c.updCore n f).tick = c.tick := rfl
@[simp] theorem Chip.updCore_links (c : Chip) (n : Nat) (f : Core → Core) : (c.updCore n f).links = c.links := rfl
@[simp] theorem Chip.updCore_lanes (c : Chip) (n : Nat) (f : Core → Core) : (c.updCore n f).lanes = c.lanes := rfl
@[simp] theorem Chip.updCore_linkFull (c : Chip) (n : Nat) (f : Core → Core) : (c.updCore n f).linkFull = c.linkFull := rfl
@[simp] theorem Chip.updCore_loops (c : Chip) (n : Nat) (f : Core → Core) : (c.updCore n f).loops = c.loops := rfl
@[simp] theorem Chip.updCore_resMap (c : Chip) (n : Nat) (f : Core → Core) : (c.updCore n f).resMap = c.resMap := rfl
@[simp] theorem Chip.updCore_travSaved (c : Chip) (n : Nat) (f : Core → Core) : (c.updCore n f).travSaved = c.travSaved := rfl
@[simp] theorem Chip.updCore_calRuns (c : Chip) (n : Nat) (f : Core → Core) : (c.updCore n f).calRuns = c.calRuns := rfl
@[simp] theorem Chip.updCore_calTemps (c : Chip) (n : Nat) (f : Core → Core) : (c.updCore n f).calTemps = c.calTemps := rfl
@[simp] theorem Chip.updCore_calVals (c : Chip) (n : Nat) (f : Core → Core) : (c.updCore n f).calVals = c.calVals := rfl
@[simp] theorem Chip.updCore_engines (c : Chip) (n : Nat) (f : Core → Core) : (c.updCore n f).engines = c.engines := rfl
@[simp] theorem Chip.updCore_swaps (c : Chip) (n : Nat) (f : Core → Core) : (c.updCore n f).swaps = c.swaps := rfl
@[simp] theorem Chip.updCore_notice (c : Chip) (n : Nat) (f : Core → Core) : (c.updCore n f).notice = c.notice := rfl
@[simp] theorem Chip.updCore_darkFibres (c : Chip) (n : Nat) (f : Core → Core) : (c.updCore n f).darkFibres = c.darkFibres := rfl
@[simp] theorem Chip.updCore_laserFlags (c : Chip) (n : Nat) (f : Core → Core) : (c.updCore n f).laserFlags = c.laserFlags := rfl
@[simp] theorem Chip.updCore_colTarget (c : Chip) (n : Nat) (f : Core → Core) : (c.updCore n f).colTarget = c.colTarget := rfl
@[simp] theorem Chip.updCore_time (c : Chip) (n : Nat) (f : Core → Core) : (c.updCore n f).time = c.time := rfl
@[simp] theorem Chip.updCore_side (c : Chip) (n : Nat) (f : Core → Core) : (c.updCore n f).side = c.side := rfl
@[simp] theorem Chip.updCore_flash (c : Chip) (n : Nat) (f : Core → Core) : (c.updCore n f).flash = c.flash := rfl
@[simp] theorem Chip.updCore_resetCounts (c : Chip) (n : Nat) (f : Core → Core) : (c.updCore n f).resetCounts = c.resetCounts := rfl
@[simp] theorem Chip.updCore_sagSaid (c : Chip) (n : Nat) (f : Core → Core) : (c.updCore n f).sagSaid = c.sagSaid := rfl
@[simp] theorem Chip.updCore_means (c : Chip) (n : Nat) (f : Core → Core) : (c.updCore n f).means = c.means := rfl
@[simp] theorem Chip.updCore_limDue (c : Chip) (n : Nat) (f : Core → Core) : (c.updCore n f).limDue = c.limDue := rfl
@[simp] theorem Chip.updCore_limFrame (c : Chip) (n : Nat) (f : Core → Core) : (c.updCore n f).limFrame = c.limFrame := rfl
@[simp] theorem Chip.updCore_limAt (c : Chip) (n : Nat) (f : Core → Core) : (c.updCore n f).limAt = c.limAt := rfl
@[simp] theorem Chip.updCore_qps (c : Chip) (n : Nat) (f : Core → Core) : (c.updCore n f).qps = c.qps := rfl
@[simp] theorem Chip.updCore_ethFails (c : Chip) (n : Nat) (f : Core → Core) : (c.updCore n f).ethFails = c.ethFails := rfl
@[simp] theorem Chip.updCore_opens (c : Chip) (n : Nat) (f : Core → Core) : (c.updCore n f).opens = c.opens := rfl
@[simp] theorem Chip.updCore_nextSess (c : Chip) (n : Nat) (f : Core → Core) : (c.updCore n f).nextSess = c.nextSess := rfl
@[simp] theorem Chip.updCore_refusedAt (c : Chip) (n : Nat) (f : Core → Core) : (c.updCore n f).refusedAt = c.refusedAt := rfl
@[simp] theorem Chip.updCore_snap (c : Chip) (n : Nat) (f : Core → Core) : (c.updCore n f).snap = c.snap := rfl

@[simp] theorem Chip.updEngine_regs (c : Chip) (n : Nat) (f : Engine → Engine) : (c.updEngine n f).regs = c.regs := rfl
@[simp] theorem Chip.updEngine_blobs (c : Chip) (n : Nat) (f : Engine → Engine) : (c.updEngine n f).blobs = c.blobs := rfl
@[simp] theorem Chip.updEngine_out (c : Chip) (n : Nat) (f : Engine → Engine) : (c.updEngine n f).out = c.out := rfl
@[simp] theorem Chip.updEngine_fresh (c : Chip) (n : Nat) (f : Engine → Engine) : (c.updEngine n f).fresh = c.fresh := rfl
@[simp] theorem Chip.updEngine_extNext (c : Chip) (n : Nat) (f : Engine → Engine) : (c.updEngine n f).extNext = c.extNext := rfl
@[simp] theorem Chip.updEngine_ridges (c : Chip) (n : Nat) (f : Engine → Engine) : (c.updEngine n f).ridges = c.ridges := rfl
@[simp] theorem Chip.updEngine_queues (c : Chip) (n : Nat) (f : Engine → Engine) : (c.updEngine n f).queues = c.queues := rfl
@[simp] theorem Chip.updEngine_spads (c : Chip) (n : Nat) (f : Engine → Engine) : (c.updEngine n f).spads = c.spads := rfl
@[simp] theorem Chip.updEngine_units (c : Chip) (n : Nat) (f : Engine → Engine) : (c.updEngine n f).units = c.units := rfl
@[simp] theorem Chip.updEngine_parts (c : Chip) (n : Nat) (f : Engine → Engine) : (c.updEngine n f).parts = c.parts := rfl
@[simp] theorem Chip.updEngine_pend (c : Chip) (n : Nat) (f : Engine → Engine) : (c.updEngine n f).pend = c.pend := rfl
@[simp] theorem Chip.updEngine_pendWait (c : Chip) (n : Nat) (f : Engine → Engine) : (c.updEngine n f).pendWait = c.pendWait := rfl
@[simp] theorem Chip.updEngine_hosts (c : Chip) (n : Nat) (f : Engine → Engine) : (c.updEngine n f).hosts = c.hosts := rfl
@[simp] theorem Chip.updEngine_streams (c : Chip) (n : Nat) (f : Engine → Engine) : (c.updEngine n f).streams = c.streams := rfl
@[simp] theorem Chip.updEngine_cairn (c : Chip) (n : Nat) (f : Engine → Engine) : (c.updEngine n f).cairn = c.cairn := rfl
@[simp] theorem Chip.updEngine_sess (c : Chip) (n : Nat) (f : Engine → Engine) : (c.updEngine n f).sess = c.sess := rfl
@[simp] theorem Chip.updEngine_resets (c : Chip) (n : Nat) (f : Engine → Engine) : (c.updEngine n f).resets = c.resets := rfl
@[simp] theorem Chip.updEngine_agents (c : Chip) (n : Nat) (f : Engine → Engine) : (c.updEngine n f).agents = c.agents := rfl
@[simp] theorem Chip.updEngine_anchorTime (c : Chip) (n : Nat) (f : Engine → Engine) : (c.updEngine n f).anchorTime = c.anchorTime := rfl
@[simp] theorem Chip.updEngine_anchorRaw (c : Chip) (n : Nat) (f : Engine → Engine) : (c.updEngine n f).anchorRaw = c.anchorRaw := rfl
@[simp] theorem Chip.updEngine_raw (c : Chip) (n : Nat) (f : Engine → Engine) : (c.updEngine n f).raw = c.raw := rfl
@[simp] theorem Chip.updEngine_frame (c : Chip) (n : Nat) (f : Engine → Engine) : (c.updEngine n f).frame = c.frame := rfl
@[simp] theorem Chip.updEngine_tick (c : Chip) (n : Nat) (f : Engine → Engine) : (c.updEngine n f).tick = c.tick := rfl
@[simp] theorem Chip.updEngine_links (c : Chip) (n : Nat) (f : Engine → Engine) : (c.updEngine n f).links = c.links := rfl
@[simp] theorem Chip.updEngine_lanes (c : Chip) (n : Nat) (f : Engine → Engine) : (c.updEngine n f).lanes = c.lanes := rfl
@[simp] theorem Chip.updEngine_linkFull (c : Chip) (n : Nat) (f : Engine → Engine) : (c.updEngine n f).linkFull = c.linkFull := rfl
@[simp] theorem Chip.updEngine_loops (c : Chip) (n : Nat) (f : Engine → Engine) : (c.updEngine n f).loops = c.loops := rfl
@[simp] theorem Chip.updEngine_cores (c : Chip) (n : Nat) (f : Engine → Engine) : (c.updEngine n f).cores = c.cores := rfl
@[simp] theorem Chip.updEngine_resMap (c : Chip) (n : Nat) (f : Engine → Engine) : (c.updEngine n f).resMap = c.resMap := rfl
@[simp] theorem Chip.updEngine_travSaved (c : Chip) (n : Nat) (f : Engine → Engine) : (c.updEngine n f).travSaved = c.travSaved := rfl
@[simp] theorem Chip.updEngine_calRuns (c : Chip) (n : Nat) (f : Engine → Engine) : (c.updEngine n f).calRuns = c.calRuns := rfl
@[simp] theorem Chip.updEngine_calTemps (c : Chip) (n : Nat) (f : Engine → Engine) : (c.updEngine n f).calTemps = c.calTemps := rfl
@[simp] theorem Chip.updEngine_calVals (c : Chip) (n : Nat) (f : Engine → Engine) : (c.updEngine n f).calVals = c.calVals := rfl
@[simp] theorem Chip.updEngine_swaps (c : Chip) (n : Nat) (f : Engine → Engine) : (c.updEngine n f).swaps = c.swaps := rfl
@[simp] theorem Chip.updEngine_notice (c : Chip) (n : Nat) (f : Engine → Engine) : (c.updEngine n f).notice = c.notice := rfl
@[simp] theorem Chip.updEngine_darkFibres (c : Chip) (n : Nat) (f : Engine → Engine) : (c.updEngine n f).darkFibres = c.darkFibres := rfl
@[simp] theorem Chip.updEngine_laserFlags (c : Chip) (n : Nat) (f : Engine → Engine) : (c.updEngine n f).laserFlags = c.laserFlags := rfl
@[simp] theorem Chip.updEngine_colTarget (c : Chip) (n : Nat) (f : Engine → Engine) : (c.updEngine n f).colTarget = c.colTarget := rfl
@[simp] theorem Chip.updEngine_time (c : Chip) (n : Nat) (f : Engine → Engine) : (c.updEngine n f).time = c.time := rfl
@[simp] theorem Chip.updEngine_side (c : Chip) (n : Nat) (f : Engine → Engine) : (c.updEngine n f).side = c.side := rfl
@[simp] theorem Chip.updEngine_flash (c : Chip) (n : Nat) (f : Engine → Engine) : (c.updEngine n f).flash = c.flash := rfl
@[simp] theorem Chip.updEngine_resetCounts (c : Chip) (n : Nat) (f : Engine → Engine) : (c.updEngine n f).resetCounts = c.resetCounts := rfl
@[simp] theorem Chip.updEngine_sagSaid (c : Chip) (n : Nat) (f : Engine → Engine) : (c.updEngine n f).sagSaid = c.sagSaid := rfl
@[simp] theorem Chip.updEngine_means (c : Chip) (n : Nat) (f : Engine → Engine) : (c.updEngine n f).means = c.means := rfl
@[simp] theorem Chip.updEngine_limDue (c : Chip) (n : Nat) (f : Engine → Engine) : (c.updEngine n f).limDue = c.limDue := rfl
@[simp] theorem Chip.updEngine_limFrame (c : Chip) (n : Nat) (f : Engine → Engine) : (c.updEngine n f).limFrame = c.limFrame := rfl
@[simp] theorem Chip.updEngine_limAt (c : Chip) (n : Nat) (f : Engine → Engine) : (c.updEngine n f).limAt = c.limAt := rfl
@[simp] theorem Chip.updEngine_qps (c : Chip) (n : Nat) (f : Engine → Engine) : (c.updEngine n f).qps = c.qps := rfl
@[simp] theorem Chip.updEngine_ethFails (c : Chip) (n : Nat) (f : Engine → Engine) : (c.updEngine n f).ethFails = c.ethFails := rfl
@[simp] theorem Chip.updEngine_opens (c : Chip) (n : Nat) (f : Engine → Engine) : (c.updEngine n f).opens = c.opens := rfl
@[simp] theorem Chip.updEngine_nextSess (c : Chip) (n : Nat) (f : Engine → Engine) : (c.updEngine n f).nextSess = c.nextSess := rfl
@[simp] theorem Chip.updEngine_refusedAt (c : Chip) (n : Nat) (f : Engine → Engine) : (c.updEngine n f).refusedAt = c.refusedAt := rfl
@[simp] theorem Chip.updEngine_snap (c : Chip) (n : Nat) (f : Engine → Engine) : (c.updEngine n f).snap = c.snap := rfl

@[simp] theorem Chip.setQp_regs (c : Chip) (q : Nat) (x : Qp) : (c.setQp q x).regs = c.regs := rfl
@[simp] theorem Chip.setQp_blobs (c : Chip) (q : Nat) (x : Qp) : (c.setQp q x).blobs = c.blobs := rfl
@[simp] theorem Chip.setQp_out (c : Chip) (q : Nat) (x : Qp) : (c.setQp q x).out = c.out := rfl
@[simp] theorem Chip.setQp_fresh (c : Chip) (q : Nat) (x : Qp) : (c.setQp q x).fresh = c.fresh := rfl
@[simp] theorem Chip.setQp_extNext (c : Chip) (q : Nat) (x : Qp) : (c.setQp q x).extNext = c.extNext := rfl
@[simp] theorem Chip.setQp_ridges (c : Chip) (q : Nat) (x : Qp) : (c.setQp q x).ridges = c.ridges := rfl
@[simp] theorem Chip.setQp_queues (c : Chip) (q : Nat) (x : Qp) : (c.setQp q x).queues = c.queues := rfl
@[simp] theorem Chip.setQp_spads (c : Chip) (q : Nat) (x : Qp) : (c.setQp q x).spads = c.spads := rfl
@[simp] theorem Chip.setQp_units (c : Chip) (q : Nat) (x : Qp) : (c.setQp q x).units = c.units := rfl
@[simp] theorem Chip.setQp_parts (c : Chip) (q : Nat) (x : Qp) : (c.setQp q x).parts = c.parts := rfl
@[simp] theorem Chip.setQp_pend (c : Chip) (q : Nat) (x : Qp) : (c.setQp q x).pend = c.pend := rfl
@[simp] theorem Chip.setQp_pendWait (c : Chip) (q : Nat) (x : Qp) : (c.setQp q x).pendWait = c.pendWait := rfl
@[simp] theorem Chip.setQp_hosts (c : Chip) (q : Nat) (x : Qp) : (c.setQp q x).hosts = c.hosts := rfl
@[simp] theorem Chip.setQp_streams (c : Chip) (q : Nat) (x : Qp) : (c.setQp q x).streams = c.streams := rfl
@[simp] theorem Chip.setQp_cairn (c : Chip) (q : Nat) (x : Qp) : (c.setQp q x).cairn = c.cairn := rfl
@[simp] theorem Chip.setQp_sess (c : Chip) (q : Nat) (x : Qp) : (c.setQp q x).sess = c.sess := rfl
@[simp] theorem Chip.setQp_resets (c : Chip) (q : Nat) (x : Qp) : (c.setQp q x).resets = c.resets := rfl
@[simp] theorem Chip.setQp_agents (c : Chip) (q : Nat) (x : Qp) : (c.setQp q x).agents = c.agents := rfl
@[simp] theorem Chip.setQp_anchorTime (c : Chip) (q : Nat) (x : Qp) : (c.setQp q x).anchorTime = c.anchorTime := rfl
@[simp] theorem Chip.setQp_anchorRaw (c : Chip) (q : Nat) (x : Qp) : (c.setQp q x).anchorRaw = c.anchorRaw := rfl
@[simp] theorem Chip.setQp_raw (c : Chip) (q : Nat) (x : Qp) : (c.setQp q x).raw = c.raw := rfl
@[simp] theorem Chip.setQp_frame (c : Chip) (q : Nat) (x : Qp) : (c.setQp q x).frame = c.frame := rfl
@[simp] theorem Chip.setQp_tick (c : Chip) (q : Nat) (x : Qp) : (c.setQp q x).tick = c.tick := rfl
@[simp] theorem Chip.setQp_links (c : Chip) (q : Nat) (x : Qp) : (c.setQp q x).links = c.links := rfl
@[simp] theorem Chip.setQp_lanes (c : Chip) (q : Nat) (x : Qp) : (c.setQp q x).lanes = c.lanes := rfl
@[simp] theorem Chip.setQp_linkFull (c : Chip) (q : Nat) (x : Qp) : (c.setQp q x).linkFull = c.linkFull := rfl
@[simp] theorem Chip.setQp_loops (c : Chip) (q : Nat) (x : Qp) : (c.setQp q x).loops = c.loops := rfl
@[simp] theorem Chip.setQp_cores (c : Chip) (q : Nat) (x : Qp) : (c.setQp q x).cores = c.cores := rfl
@[simp] theorem Chip.setQp_resMap (c : Chip) (q : Nat) (x : Qp) : (c.setQp q x).resMap = c.resMap := rfl
@[simp] theorem Chip.setQp_travSaved (c : Chip) (q : Nat) (x : Qp) : (c.setQp q x).travSaved = c.travSaved := rfl
@[simp] theorem Chip.setQp_calRuns (c : Chip) (q : Nat) (x : Qp) : (c.setQp q x).calRuns = c.calRuns := rfl
@[simp] theorem Chip.setQp_calTemps (c : Chip) (q : Nat) (x : Qp) : (c.setQp q x).calTemps = c.calTemps := rfl
@[simp] theorem Chip.setQp_calVals (c : Chip) (q : Nat) (x : Qp) : (c.setQp q x).calVals = c.calVals := rfl
@[simp] theorem Chip.setQp_engines (c : Chip) (q : Nat) (x : Qp) : (c.setQp q x).engines = c.engines := rfl
@[simp] theorem Chip.setQp_swaps (c : Chip) (q : Nat) (x : Qp) : (c.setQp q x).swaps = c.swaps := rfl
@[simp] theorem Chip.setQp_notice (c : Chip) (q : Nat) (x : Qp) : (c.setQp q x).notice = c.notice := rfl
@[simp] theorem Chip.setQp_darkFibres (c : Chip) (q : Nat) (x : Qp) : (c.setQp q x).darkFibres = c.darkFibres := rfl
@[simp] theorem Chip.setQp_laserFlags (c : Chip) (q : Nat) (x : Qp) : (c.setQp q x).laserFlags = c.laserFlags := rfl
@[simp] theorem Chip.setQp_colTarget (c : Chip) (q : Nat) (x : Qp) : (c.setQp q x).colTarget = c.colTarget := rfl
@[simp] theorem Chip.setQp_time (c : Chip) (q : Nat) (x : Qp) : (c.setQp q x).time = c.time := rfl
@[simp] theorem Chip.setQp_side (c : Chip) (q : Nat) (x : Qp) : (c.setQp q x).side = c.side := rfl
@[simp] theorem Chip.setQp_flash (c : Chip) (q : Nat) (x : Qp) : (c.setQp q x).flash = c.flash := rfl
@[simp] theorem Chip.setQp_resetCounts (c : Chip) (q : Nat) (x : Qp) : (c.setQp q x).resetCounts = c.resetCounts := rfl
@[simp] theorem Chip.setQp_sagSaid (c : Chip) (q : Nat) (x : Qp) : (c.setQp q x).sagSaid = c.sagSaid := rfl
@[simp] theorem Chip.setQp_means (c : Chip) (q : Nat) (x : Qp) : (c.setQp q x).means = c.means := rfl
@[simp] theorem Chip.setQp_limDue (c : Chip) (q : Nat) (x : Qp) : (c.setQp q x).limDue = c.limDue := rfl
@[simp] theorem Chip.setQp_limFrame (c : Chip) (q : Nat) (x : Qp) : (c.setQp q x).limFrame = c.limFrame := rfl
@[simp] theorem Chip.setQp_limAt (c : Chip) (q : Nat) (x : Qp) : (c.setQp q x).limAt = c.limAt := rfl
@[simp] theorem Chip.setQp_ethFails (c : Chip) (q : Nat) (x : Qp) : (c.setQp q x).ethFails = c.ethFails := rfl
@[simp] theorem Chip.setQp_opens (c : Chip) (q : Nat) (x : Qp) : (c.setQp q x).opens = c.opens := rfl
@[simp] theorem Chip.setQp_nextSess (c : Chip) (q : Nat) (x : Qp) : (c.setQp q x).nextSess = c.nextSess := rfl
@[simp] theorem Chip.setQp_refusedAt (c : Chip) (q : Nat) (x : Qp) : (c.setQp q x).refusedAt = c.refusedAt := rfl
@[simp] theorem Chip.setQp_snap (c : Chip) (q : Nat) (x : Qp) : (c.setQp q x).snap = c.snap := rfl

@[simp] theorem Chip.updQp_regs (c : Chip) (q : Nat) (f : Qp → Qp) : (c.updQp q f).regs = c.regs := rfl
@[simp] theorem Chip.updQp_blobs (c : Chip) (q : Nat) (f : Qp → Qp) : (c.updQp q f).blobs = c.blobs := rfl
@[simp] theorem Chip.updQp_out (c : Chip) (q : Nat) (f : Qp → Qp) : (c.updQp q f).out = c.out := rfl
@[simp] theorem Chip.updQp_fresh (c : Chip) (q : Nat) (f : Qp → Qp) : (c.updQp q f).fresh = c.fresh := rfl
@[simp] theorem Chip.updQp_extNext (c : Chip) (q : Nat) (f : Qp → Qp) : (c.updQp q f).extNext = c.extNext := rfl
@[simp] theorem Chip.updQp_ridges (c : Chip) (q : Nat) (f : Qp → Qp) : (c.updQp q f).ridges = c.ridges := rfl
@[simp] theorem Chip.updQp_queues (c : Chip) (q : Nat) (f : Qp → Qp) : (c.updQp q f).queues = c.queues := rfl
@[simp] theorem Chip.updQp_spads (c : Chip) (q : Nat) (f : Qp → Qp) : (c.updQp q f).spads = c.spads := rfl
@[simp] theorem Chip.updQp_units (c : Chip) (q : Nat) (f : Qp → Qp) : (c.updQp q f).units = c.units := rfl
@[simp] theorem Chip.updQp_parts (c : Chip) (q : Nat) (f : Qp → Qp) : (c.updQp q f).parts = c.parts := rfl
@[simp] theorem Chip.updQp_pend (c : Chip) (q : Nat) (f : Qp → Qp) : (c.updQp q f).pend = c.pend := rfl
@[simp] theorem Chip.updQp_pendWait (c : Chip) (q : Nat) (f : Qp → Qp) : (c.updQp q f).pendWait = c.pendWait := rfl
@[simp] theorem Chip.updQp_hosts (c : Chip) (q : Nat) (f : Qp → Qp) : (c.updQp q f).hosts = c.hosts := rfl
@[simp] theorem Chip.updQp_streams (c : Chip) (q : Nat) (f : Qp → Qp) : (c.updQp q f).streams = c.streams := rfl
@[simp] theorem Chip.updQp_cairn (c : Chip) (q : Nat) (f : Qp → Qp) : (c.updQp q f).cairn = c.cairn := rfl
@[simp] theorem Chip.updQp_sess (c : Chip) (q : Nat) (f : Qp → Qp) : (c.updQp q f).sess = c.sess := rfl
@[simp] theorem Chip.updQp_resets (c : Chip) (q : Nat) (f : Qp → Qp) : (c.updQp q f).resets = c.resets := rfl
@[simp] theorem Chip.updQp_agents (c : Chip) (q : Nat) (f : Qp → Qp) : (c.updQp q f).agents = c.agents := rfl
@[simp] theorem Chip.updQp_anchorTime (c : Chip) (q : Nat) (f : Qp → Qp) : (c.updQp q f).anchorTime = c.anchorTime := rfl
@[simp] theorem Chip.updQp_anchorRaw (c : Chip) (q : Nat) (f : Qp → Qp) : (c.updQp q f).anchorRaw = c.anchorRaw := rfl
@[simp] theorem Chip.updQp_raw (c : Chip) (q : Nat) (f : Qp → Qp) : (c.updQp q f).raw = c.raw := rfl
@[simp] theorem Chip.updQp_frame (c : Chip) (q : Nat) (f : Qp → Qp) : (c.updQp q f).frame = c.frame := rfl
@[simp] theorem Chip.updQp_tick (c : Chip) (q : Nat) (f : Qp → Qp) : (c.updQp q f).tick = c.tick := rfl
@[simp] theorem Chip.updQp_links (c : Chip) (q : Nat) (f : Qp → Qp) : (c.updQp q f).links = c.links := rfl
@[simp] theorem Chip.updQp_lanes (c : Chip) (q : Nat) (f : Qp → Qp) : (c.updQp q f).lanes = c.lanes := rfl
@[simp] theorem Chip.updQp_linkFull (c : Chip) (q : Nat) (f : Qp → Qp) : (c.updQp q f).linkFull = c.linkFull := rfl
@[simp] theorem Chip.updQp_loops (c : Chip) (q : Nat) (f : Qp → Qp) : (c.updQp q f).loops = c.loops := rfl
@[simp] theorem Chip.updQp_cores (c : Chip) (q : Nat) (f : Qp → Qp) : (c.updQp q f).cores = c.cores := rfl
@[simp] theorem Chip.updQp_resMap (c : Chip) (q : Nat) (f : Qp → Qp) : (c.updQp q f).resMap = c.resMap := rfl
@[simp] theorem Chip.updQp_travSaved (c : Chip) (q : Nat) (f : Qp → Qp) : (c.updQp q f).travSaved = c.travSaved := rfl
@[simp] theorem Chip.updQp_calRuns (c : Chip) (q : Nat) (f : Qp → Qp) : (c.updQp q f).calRuns = c.calRuns := rfl
@[simp] theorem Chip.updQp_calTemps (c : Chip) (q : Nat) (f : Qp → Qp) : (c.updQp q f).calTemps = c.calTemps := rfl
@[simp] theorem Chip.updQp_calVals (c : Chip) (q : Nat) (f : Qp → Qp) : (c.updQp q f).calVals = c.calVals := rfl
@[simp] theorem Chip.updQp_engines (c : Chip) (q : Nat) (f : Qp → Qp) : (c.updQp q f).engines = c.engines := rfl
@[simp] theorem Chip.updQp_swaps (c : Chip) (q : Nat) (f : Qp → Qp) : (c.updQp q f).swaps = c.swaps := rfl
@[simp] theorem Chip.updQp_notice (c : Chip) (q : Nat) (f : Qp → Qp) : (c.updQp q f).notice = c.notice := rfl
@[simp] theorem Chip.updQp_darkFibres (c : Chip) (q : Nat) (f : Qp → Qp) : (c.updQp q f).darkFibres = c.darkFibres := rfl
@[simp] theorem Chip.updQp_laserFlags (c : Chip) (q : Nat) (f : Qp → Qp) : (c.updQp q f).laserFlags = c.laserFlags := rfl
@[simp] theorem Chip.updQp_colTarget (c : Chip) (q : Nat) (f : Qp → Qp) : (c.updQp q f).colTarget = c.colTarget := rfl
@[simp] theorem Chip.updQp_time (c : Chip) (q : Nat) (f : Qp → Qp) : (c.updQp q f).time = c.time := rfl
@[simp] theorem Chip.updQp_side (c : Chip) (q : Nat) (f : Qp → Qp) : (c.updQp q f).side = c.side := rfl
@[simp] theorem Chip.updQp_flash (c : Chip) (q : Nat) (f : Qp → Qp) : (c.updQp q f).flash = c.flash := rfl
@[simp] theorem Chip.updQp_resetCounts (c : Chip) (q : Nat) (f : Qp → Qp) : (c.updQp q f).resetCounts = c.resetCounts := rfl
@[simp] theorem Chip.updQp_sagSaid (c : Chip) (q : Nat) (f : Qp → Qp) : (c.updQp q f).sagSaid = c.sagSaid := rfl
@[simp] theorem Chip.updQp_means (c : Chip) (q : Nat) (f : Qp → Qp) : (c.updQp q f).means = c.means := rfl
@[simp] theorem Chip.updQp_limDue (c : Chip) (q : Nat) (f : Qp → Qp) : (c.updQp q f).limDue = c.limDue := rfl
@[simp] theorem Chip.updQp_limFrame (c : Chip) (q : Nat) (f : Qp → Qp) : (c.updQp q f).limFrame = c.limFrame := rfl
@[simp] theorem Chip.updQp_limAt (c : Chip) (q : Nat) (f : Qp → Qp) : (c.updQp q f).limAt = c.limAt := rfl
@[simp] theorem Chip.updQp_ethFails (c : Chip) (q : Nat) (f : Qp → Qp) : (c.updQp q f).ethFails = c.ethFails := rfl
@[simp] theorem Chip.updQp_opens (c : Chip) (q : Nat) (f : Qp → Qp) : (c.updQp q f).opens = c.opens := rfl
@[simp] theorem Chip.updQp_nextSess (c : Chip) (q : Nat) (f : Qp → Qp) : (c.updQp q f).nextSess = c.nextSess := rfl
@[simp] theorem Chip.updQp_refusedAt (c : Chip) (q : Nat) (f : Qp → Qp) : (c.updQp q f).refusedAt = c.refusedAt := rfl
@[simp] theorem Chip.updQp_snap (c : Chip) (q : Nat) (f : Qp → Qp) : (c.updQp q f).snap = c.snap := rfl

end Sys2Proof.Machine
end

