-- ==== Sys2Proof/Laws/Table.lean ====
section
/-! SUPPORT. Laws of sparse tables: reading after writing, deleting and filtering, and the rising form. -/
namespace Sys2Proof.Machine

variable {α : Type}

@[simp] theorem Tbl.find_nil (k : Nat) : Tbl.find ([] : Tbl α) k = none := rfl

@[simp] theorem Tbl.find_put_same (t : Tbl α) (k : Nat) (v : α) : Tbl.find (Tbl.put t k v) k = some v := by
  induction t with
  | nil => simp [Tbl.put, Tbl.find]
  | cons e t ih =>
    obtain ⟨j, w⟩ := e
    unfold Tbl.put
    split
    · simp [Tbl.find]
    · split
      · simp [Tbl.find]
      · simp [Tbl.find, *]

theorem Tbl.find_put_other (t : Tbl α) {k j : Nat} (v : α) (h : j ≠ k) : Tbl.find (Tbl.put t k v) j = Tbl.find t j := by
  induction t with
  | nil => simp [Tbl.put, Tbl.find, h]
  | cons e t ih =>
    obtain ⟨i, w⟩ := e
    unfold Tbl.put
    split
    · simp [Tbl.find, h]
    · split
      · subst_vars; simp [Tbl.find, h]
      · simp only [Tbl.find, ih]

@[simp] theorem Tbl.get_put_same (t : Tbl α) (d : α) (k : Nat) (v : α) : Tbl.get (Tbl.put t k v) d k = v := by
  simp [Tbl.get]

theorem Tbl.get_put_other (t : Tbl α) (d : α) {k j : Nat} (v : α) (h : j ≠ k) : Tbl.get (Tbl.put t k v) d j = Tbl.get t d j := by
  simp [Tbl.get, Tbl.find_put_other t v h]

theorem Tbl.find_del_other (t : Tbl α) {k j : Nat} (h : j ≠ k) : Tbl.find (Tbl.del t k) j = Tbl.find t j := by
  induction t with
  | nil => rfl
  | cons e t ih =>
    obtain ⟨i, w⟩ := e
    unfold Tbl.del
    split
    · subst_vars; simp [Tbl.find, h]
    · simp only [Tbl.find, ih]

theorem Tbl.find_none_of_below (t : Tbl α) (b k : Nat) (h : Tbl.risingFrom b t = true) (hk : k < b) : Tbl.find t k = none := by
  induction t generalizing b with
  | nil => rfl
  | cons e t ih =>
    obtain ⟨i, w⟩ := e
    simp only [Tbl.risingFrom, Bool.and_eq_true, decide_eq_true_eq] at h
    have : k ≠ i := by omega
    simp only [Tbl.find, this, if_false]
    exact ih (i + 1) h.2 (by omega)

theorem Tbl.find_del_same (t : Tbl α) (b k : Nat) (h : Tbl.risingFrom b t = true) : Tbl.find (Tbl.del t k) k = none := by
  induction t generalizing b with
  | nil => rfl
  | cons e t ih =>
    obtain ⟨i, w⟩ := e
    simp only [Tbl.risingFrom, Bool.and_eq_true, decide_eq_true_eq] at h
    unfold Tbl.del
    split
    · subst_vars; exact Tbl.find_none_of_below t _ _ h.2 (by omega)
    · next hk => simp only [Tbl.find, hk, if_false]; exact ih (i + 1) h.2

theorem Tbl.risingFrom_mono (t : Tbl α) {a b : Nat} (hab : a ≤ b) (h : Tbl.risingFrom b t = true) : Tbl.risingFrom a t = true := by
  cases t with
  | nil => rfl
  | cons e t =>
    obtain ⟨i, w⟩ := e
    simp only [Tbl.risingFrom, Bool.and_eq_true, decide_eq_true_eq] at h ⊢
    exact ⟨by omega, h.2⟩

theorem Tbl.rising_put (t : Tbl α) (b k : Nat) (v : α) (h : Tbl.risingFrom b t = true) (hb : b ≤ k) :
    Tbl.risingFrom b (Tbl.put t k v) = true := by
  induction t generalizing b with
  | nil => simp [Tbl.put, Tbl.risingFrom, hb]
  | cons e t ih =>
    obtain ⟨i, w⟩ := e
    simp only [Tbl.risingFrom, Bool.and_eq_true, decide_eq_true_eq] at h
    unfold Tbl.put
    split
    · next hk => simp only [Tbl.risingFrom, Bool.and_eq_true, decide_eq_true_eq]; exact ⟨hb, by omega, h.2⟩
    · next hk =>
      split
      · next he => subst he; simp only [Tbl.risingFrom, Bool.and_eq_true, decide_eq_true_eq]; exact ⟨hb, h.2⟩
      · next he =>
        simp only [Tbl.risingFrom, Bool.and_eq_true, decide_eq_true_eq]
        exact ⟨h.1, ih (i + 1) h.2 (by omega)⟩

theorem Tbl.rising_del (t : Tbl α) (b k : Nat) (h : Tbl.risingFrom b t = true) : Tbl.risingFrom b (Tbl.del t k) = true := by
  induction t generalizing b with
  | nil => rfl
  | cons e t ih =>
    obtain ⟨i, w⟩ := e
    simp only [Tbl.risingFrom, Bool.and_eq_true, decide_eq_true_eq] at h
    unfold Tbl.del
    split
    · exact Tbl.risingFrom_mono t (by omega) h.2
    · simp only [Tbl.risingFrom, Bool.and_eq_true, decide_eq_true_eq]
      exact ⟨h.1, ih (i + 1) h.2⟩

theorem Tbl.rising_setD [DecidableEq α] (t : Tbl α) (d : α) (k : Nat) (v : α) (h : Tbl.rising t = true) :
    Tbl.rising (Tbl.setD t d k v) = true := by
  unfold Tbl.setD
  split
  · exact Tbl.rising_del t 0 k h
  · exact Tbl.rising_put t 0 k v h (Nat.zero_le k)

theorem Tbl.rising_filter (t : Tbl α) (b : Nat) (p : Nat × α → Bool) (h : Tbl.risingFrom b t = true) :
    Tbl.risingFrom b (List.filter p t) = true := by
  induction t generalizing b with
  | nil => rfl
  | cons e t ih =>
    obtain ⟨i, w⟩ := e
    simp only [Tbl.risingFrom, Bool.and_eq_true, decide_eq_true_eq] at h
    rw [List.filter_cons]
    split
    · simp only [Tbl.risingFrom, Bool.and_eq_true, decide_eq_true_eq]; exact ⟨h.1, ih (i + 1) h.2⟩
    · exact Tbl.risingFrom_mono _ (by omega) (ih (i + 1) h.2)

end Sys2Proof.Machine
end

