-- ==== Sys2Proof/Laws/Ops.lean ====
section
/-! SUPPORT. Laws of the named operations: objects, counters, events, and what each leaves alone. -/
namespace Sys2Proof.Machine

variable {α : Type}

/-! ### Objects -/

theorem ikey_inj {i j k l : Nat} (hk : k < 2 ^ 24) (hl : l < 2 ^ 24) : ikey i k = ikey j l ↔ i = j ∧ k = l := by
  unfold ikey; omega

@[simp] theorem Chip.get_set_same (c : Chip) (i k v : Nat) : (c.set i k v).get i k = v % 2 ^ 64 := by
  simp [Chip.get, Chip.set]

theorem Chip.get_set_other (c : Chip) {i k j l : Nat} (v : Nat) (h : ikey j l ≠ ikey i k) : (c.set i k v).get j l = c.get j l := by
  simp [Chip.get, Chip.set, Tbl.find_put_other _ _ h]

@[simp] theorem Chip.reg_setReg_same (c : Chip) (k v : Nat) : (c.setReg k v).reg k = v % 2 ^ 64 := Chip.get_set_same c modInst k v

theorem Chip.reg_setReg_other (c : Chip) {k l : Nat} (v : Nat) (h : l ≠ k) : (c.setReg k v).reg l = c.reg l :=
  Chip.get_set_other c v (by unfold ikey; omega)

theorem Chip.reg_setReg (c : Chip) (k l v : Nat) : (c.setReg k v).reg l = if l = k then v % 2 ^ 64 else c.reg l := by
  split
  · subst_vars; exact Chip.reg_setReg_same c _ v
  · exact Chip.reg_setReg_other c v ‹_›

theorem Chip.reg_bump (c : Chip) (k l : Nat) : (c.bump k).reg l = if l = k then (c.reg k + 1) % 2 ^ 64 else c.reg l :=
  Chip.reg_setReg c k l (c.reg k + 1)

theorem Chip.reg_count (c : Chip) (k l n : Nat) : (c.count modInst k n).reg l = if l = k then (c.reg k + n) % 2 ^ 64 else c.reg l :=
  Chip.reg_setReg c k l (c.reg k + n)

theorem Chip.get_setReg_part (c : Chip) {i k l : Nat} (v : Nat) (h : i ≠ modInst) (hk : k < 2 ^ 24) (hl : l < 2 ^ 24) :
    (c.setReg k v).get i l = c.get i l :=
  Chip.get_set_other c v (by rw [Ne, ikey_inj hl hk]; exact fun h' => h h'.1)

@[simp] theorem Chip.reg_of_regs {c d : Chip} (h : c.regs = d.regs) (k : Nat) : c.reg k = d.reg k := by
  simp [Chip.reg, Chip.get, h]

/-! ### Ridges, queues, partitions, units -/

@[simp] theorem Chip.queue_setQueue_same (c : Chip) (n q : Nat) (x : Queue) : (c.setQueue n q x).queue n q = x := by
  simp [Chip.queue, Chip.setQueue]

@[simp] theorem Chip.queue_updQueue_same (c : Chip) (n q : Nat) (f : Queue → Queue) : (c.updQueue n q f).queue n q = f (c.queue n q) :=
  Chip.queue_setQueue_same c n q _

theorem Chip.queue_setQueue_other (c : Chip) {n q m r : Nat} (x : Queue) (h : 8 * m + r ≠ 8 * n + q) :
    (c.setQueue n q x).queue m r = c.queue m r := by
  simp [Chip.queue, Chip.setQueue, Tbl.get_put_other _ _ _ h]

@[simp] theorem Chip.ridge_updRidge_same (c : Chip) (n : Nat) (f : Ridge → Ridge) : (c.updRidge n f).ridge n = f (c.ridge n) := by
  simp [Chip.ridge, Chip.updRidge, Chip.setRidge]

theorem Chip.ridge_updRidge_other (c : Chip) {n m : Nat} (f : Ridge → Ridge) (h : m ≠ n) : (c.updRidge n f).ridge m = c.ridge m := by
  simp [Chip.ridge, Chip.updRidge, Chip.setRidge, Tbl.get_put_other _ _ _ h]

@[simp] theorem Ridge.spur_setSpur_same (r : Ridge) (p : Nat) (x : Spur) : (r.setSpur p x).spur p = x := by
  simp [Ridge.spur, Ridge.setSpur]

@[simp] theorem Chip.spur_updSpur_same (c : Chip) (n p : Nat) (f : Spur → Spur) : (c.updSpur n p f).spur n p = f (c.spur n p) := by
  simp [Chip.spur, Chip.updSpur]

@[simp] theorem Chip.part_updPart_same (c : Chip) (k : Nat) (f : Part → Part) : (c.updPart k f).part k = f (c.part k) := by
  simp [Chip.part, Chip.updPart, Chip.setPart]

@[simp] theorem Chip.unit_updUnit_same (c : Chip) (u : Nat) (f : MemUnit → MemUnit) : (c.updUnit u f).unit u = f (c.unit u) := by
  simp [Chip.unit, Chip.updUnit]

/-! ### Events (R337, R418–R420) -/

/-- The counters that the recorder itself moves. -/
def recorderKey (k : Nat) : Bool :=
  k = ikey modInst Obj.CNT_CAIRN_LOST || k = ikey modInst Obj.CNT_CAIRN_DROPPED ||
  (decide (ikey modInst Obj.CNT_CAIRN_UNRECORDED ≤ k) && decide (k ≤ ikey modInst Obj.CNT_CAIRN_UNRECORDED + 15))

theorem recorderKey_unrecorded (x : Nat) (h : x ≤ 15) : recorderKey (ikey modInst (Obj.CNT_CAIRN_UNRECORDED + x)) = true := by
  unfold recorderKey
  rw [Bool.or_eq_true]
  right
  rw [Bool.and_eq_true]
  exact ⟨decide_eq_true (by unfold ikey; omega), decide_eq_true (by unfold ikey; omega)⟩

theorem Chip.sends_shape (l : Tbl Sess) (p : Sess → Bool) (o : Sess → Out) (c : Chip) :
    ∃ ou, l.foldl (fun c s => if p s.2 then c.send (o s.2) else c) c = { c with out := ou } := by
  induction l generalizing c with
  | nil => exact ⟨c.out, rfl⟩
  | cons e l ih =>
    simp only [List.foldl_cons]
    split
    · obtain ⟨ou, h⟩ := ih (c.send (o e.2)); exact ⟨ou, by rw [h]; rfl⟩
    · exact ih c

theorem Chip.onStream_shape (c : Chip) (k : Nat) (e : EvRec) :
    ∃ ou, c.onStream k e = { c with
      streams := Tbl.put c.streams k ⟨inc32 (Tbl.get c.streams {} k).next,
        ((Tbl.get c.streams {} k).events ++ [{ e with seq := (Tbl.get c.streams {} k).next }]).drop
          (((Tbl.get c.streams {} k).events ++ [{ e with seq := (Tbl.get c.streams {} k).next }]).length - 4096)⟩
      out := ou } := by
  unfold Chip.onStream
  obtain ⟨ou, h⟩ := Chip.sends_shape c.sess (fun s => s.cls != 0 && s.stream = k)
    (fun s => .vct s.addr s.id 0x20 1 (Tbl.get c.streams {} k).next 0 0 k
      ({ e with seq := (Tbl.get c.streams {} k).next } : EvRec).payload)
    { c with streams := Tbl.put c.streams k ⟨inc32 (Tbl.get c.streams {} k).next,
        ((Tbl.get c.streams {} k).events ++ [{ e with seq := (Tbl.get c.streams {} k).next }]).drop
          (((Tbl.get c.streams {} k).events ++ [{ e with seq := (Tbl.get c.streams {} k).next }]).length - 4096)⟩ }
  exact ⟨ou, h⟩

theorem Chip.record_shape (c : Chip) (e : EvRec) :
    ∃ cr rg, c.record e = { c with cairn := cr, regs := rg } ∧ ∀ k, recorderKey k = false → Tbl.find rg k = Tbl.find c.regs k := by
  unfold Chip.record
  split
  · exact ⟨c.cairn, c.regs, rfl, fun _ _ => rfl⟩
  · dsimp only
    split
    · refine ⟨c.cairn, (c.bump Obj.CNT_CAIRN_LOST).regs, rfl, fun k hk => ?_⟩
      refine Tbl.find_put_other _ _ ?_
      intro h; subst h; simp [recorderKey] at hk
    · split
      · refine ⟨c.cairn, (c.bump (Obj.CNT_CAIRN_UNRECORDED + e.ty / 256 % 16)).regs, rfl, fun k hk => ?_⟩
        refine Tbl.find_put_other _ _ ?_
        intro h; subst h
        rw [recorderKey_unrecorded _ (by omega)] at hk
        exact Bool.noConfusion hk
      · split
        · exact ⟨_, c.regs, rfl, fun _ _ => rfl⟩
        · refine ⟨c.cairn.drop e.ty, (c.bump Obj.CNT_CAIRN_DROPPED).regs, rfl, fun k hk => ?_⟩
          refine Tbl.find_put_other _ _ ?_
          intro h; subst h; simp [recorderKey] at hk

/-- The newest event of a stream after an event of it. -/
theorem Chip.lastOf_onStream (c : Chip) (k : Nat) (e : EvRec) :
    (c.onStream k e).lastOf k = some { e with seq := (Tbl.get c.streams {} k).next } := by
  obtain ⟨ou, h⟩ := Chip.onStream_shape c k e
  rw [h]
  simp only [Chip.lastOf, Tbl.get_put_same]
  rw [List.getLast?_drop]
  simp

theorem Chip.lastOf_onStream_other (c : Chip) {k j : Nat} (e : EvRec) (hj : j ≠ k) : (c.onStream k e).lastOf j = c.lastOf j := by
  obtain ⟨ou, h⟩ := Chip.onStream_shape c k e
  rw [h]
  simp [Chip.lastOf, Tbl.get_put_other _ _ _ hj]

/-- All that raising an event does: streams, messages, the recorder and its counters; its event is the newest of the module's
stream and of its partition's. -/
theorem Chip.raise_shape (c : Chip) (ty part : Nat) (fs : List (Nat × Nat)) :
    (∃ st cr rg ou, c.raise ty part fs = { c with streams := st, cairn := cr, regs := rg, out := ou } ∧
      ∀ k, recorderKey k = false → Tbl.find rg k = Tbl.find c.regs k) := by
  unfold Chip.raise
  dsimp only
  split
  · obtain ⟨o1, h1⟩ := Chip.onStream_shape c part { ty := ty, part := part, keyGen := c.keyGen part, stamp := c.stamp, data := layFields fs }
    rw [h1]
    obtain ⟨o2, h2⟩ := Chip.onStream_shape ({ c with streams := _, out := o1 } : Chip) 8
      { ty := ty, part := part, keyGen := c.keyGen part, stamp := c.stamp, data := layFields fs }
    rw [h2]
    obtain ⟨cr, rg, h3, h4⟩ := Chip.record_shape ({ c with streams := _, out := o2 } : Chip)
      { ty := ty, part := part, keyGen := c.keyGen part, stamp := c.stamp, data := layFields fs }
    exact ⟨_, cr, rg, o2, h3, h4⟩
  · obtain ⟨o2, h2⟩ := Chip.onStream_shape c 8
      { ty := ty, part := part, keyGen := c.keyGen part, stamp := c.stamp, data := layFields fs }
    rw [h2]
    obtain ⟨cr, rg, h3, h4⟩ := Chip.record_shape ({ c with streams := _, out := o2 } : Chip)
      { ty := ty, part := part, keyGen := c.keyGen part, stamp := c.stamp, data := layFields fs }
    exact ⟨_, cr, rg, o2, h3, h4⟩

theorem Chip.raise_said (c : Chip) (ty part : Nat) (fs : List (Nat × Nat)) : (c.raise ty part fs).said ty part fs := by
  have hr : ∀ (d : Chip) (e : EvRec) (k : Nat), (d.record e).lastOf k = d.lastOf k := by
    intro d e k
    obtain ⟨cr, rg, h, -⟩ := Chip.record_shape d e
    rw [h]; rfl
  unfold Chip.raise
  refine ⟨⟨_, by rw [hr, Chip.lastOf_onStream], rfl, rfl, rfl⟩, fun hp => ?_⟩
  dsimp only
  rw [if_pos hp]
  refine ⟨_, by rw [hr, Chip.lastOf_onStream_other _ _ (by omega), Chip.lastOf_onStream], rfl, rfl, rfl⟩

/-- The fields of the chip that raising an event leaves as they were. -/
theorem Chip.raise_keeps (c : Chip) (ty part : Nat) (fs : List (Nat × Nat)) (f : Chip → α)
    (h : ∀ (st : Tbl Stream) (cr : Cairn) (rg : Tbl W64) (ou : List Out), f { c with streams := st, cairn := cr, regs := rg, out := ou } = f c) :
    f (c.raise ty part fs) = f c := by
  obtain ⟨st, cr, rg, ou, he, -⟩ := Chip.raise_shape c ty part fs
  rw [he, h]

theorem Chip.raise_get (c : Chip) (ty part : Nat) (fs : List (Nat × Nat)) (i k : Nat) (h : recorderKey (ikey i k) = false) :
    (c.raise ty part fs).get i k = c.get i k := by
  obtain ⟨st, cr, rg, ou, he, hk⟩ := Chip.raise_shape c ty part fs
  rw [he]
  simp only [Chip.get, hk _ h]

theorem Chip.raise_reg (c : Chip) (ty part : Nat) (fs : List (Nat × Nat)) (k : Nat) (h : recorderKey (ikey modInst k) = false) :
    (c.raise ty part fs).reg k = c.reg k := Chip.raise_get c ty part fs modInst k h

theorem Chip.raiseMod_reg (c : Chip) (ty : Nat) (fs : List (Nat × Nat)) (k : Nat) (h : recorderKey (ikey modInst k) = false) :
    (c.raiseMod ty fs).reg k = c.reg k := Chip.raise_reg c ty 0xFF fs k h

theorem Chip.raiseMod_keeps (c : Chip) (ty : Nat) (fs : List (Nat × Nat)) (f : Chip → α)
    (h : ∀ (st : Tbl Stream) (cr : Cairn) (rg : Tbl W64) (ou : List Out), f { c with streams := st, cairn := cr, regs := rg, out := ou } = f c) :
    f (c.raiseMod ty fs) = f c := Chip.raise_keeps c ty 0xFF fs f h

theorem Chip.raiseMod_said (c : Chip) (ty : Nat) (fs : List (Nat × Nat)) : (c.raiseMod ty fs).said ty 0xFF fs :=
  Chip.raise_said c ty 0xFF fs

/-! ### The fields that raising an event leaves -/

@[simp] theorem Chip.raise_blobs (c : Chip) (ty p : Nat) (fs : List (Nat × Nat)) : (c.raise ty p fs).blobs = c.blobs :=
  Chip.raise_keeps c ty p fs Chip.blobs fun _ _ _ _ => rfl
@[simp] theorem Chip.raise_fresh (c : Chip) (ty p : Nat) (fs : List (Nat × Nat)) : (c.raise ty p fs).fresh = c.fresh :=
  Chip.raise_keeps c ty p fs Chip.fresh fun _ _ _ _ => rfl
@[simp] theorem Chip.raise_extNext (c : Chip) (ty p : Nat) (fs : List (Nat × Nat)) : (c.raise ty p fs).extNext = c.extNext :=
  Chip.raise_keeps c ty p fs Chip.extNext fun _ _ _ _ => rfl
@[simp] theorem Chip.raise_ridges (c : Chip) (ty p : Nat) (fs : List (Nat × Nat)) : (c.raise ty p fs).ridges = c.ridges :=
  Chip.raise_keeps c ty p fs Chip.ridges fun _ _ _ _ => rfl
@[simp] theorem Chip.raise_queues (c : Chip) (ty p : Nat) (fs : List (Nat × Nat)) : (c.raise ty p fs).queues = c.queues :=
  Chip.raise_keeps c ty p fs Chip.queues fun _ _ _ _ => rfl
@[simp] theorem Chip.raise_spads (c : Chip) (ty p : Nat) (fs : List (Nat × Nat)) : (c.raise ty p fs).spads = c.spads :=
  Chip.raise_keeps c ty p fs Chip.spads fun _ _ _ _ => rfl
@[simp] theorem Chip.raise_units (c : Chip) (ty p : Nat) (fs : List (Nat × Nat)) : (c.raise ty p fs).units = c.units :=
  Chip.raise_keeps c ty p fs Chip.units fun _ _ _ _ => rfl
@[simp] theorem Chip.raise_parts (c : Chip) (ty p : Nat) (fs : List (Nat × Nat)) : (c.raise ty p fs).parts = c.parts :=
  Chip.raise_keeps c ty p fs Chip.parts fun _ _ _ _ => rfl
@[simp] theorem Chip.raise_pend (c : Chip) (ty p : Nat) (fs : List (Nat × Nat)) : (c.raise ty p fs).pend = c.pend :=
  Chip.raise_keeps c ty p fs Chip.pend fun _ _ _ _ => rfl
@[simp] theorem Chip.raise_pendWait (c : Chip) (ty p : Nat) (fs : List (Nat × Nat)) : (c.raise ty p fs).pendWait = c.pendWait :=
  Chip.raise_keeps c ty p fs Chip.pendWait fun _ _ _ _ => rfl
@[simp] theorem Chip.raise_hosts (c : Chip) (ty p : Nat) (fs : List (Nat × Nat)) : (c.raise ty p fs).hosts = c.hosts :=
  Chip.raise_keeps c ty p fs Chip.hosts fun _ _ _ _ => rfl
@[simp] theorem Chip.raise_sess (c : Chip) (ty p : Nat) (fs : List (Nat × Nat)) : (c.raise ty p fs).sess = c.sess :=
  Chip.raise_keeps c ty p fs Chip.sess fun _ _ _ _ => rfl
@[simp] theorem Chip.raise_resets (c : Chip) (ty p : Nat) (fs : List (Nat × Nat)) : (c.raise ty p fs).resets = c.resets :=
  Chip.raise_keeps c ty p fs Chip.resets fun _ _ _ _ => rfl
@[simp] theorem Chip.raise_agents (c : Chip) (ty p : Nat) (fs : List (Nat × Nat)) : (c.raise ty p fs).agents = c.agents :=
  Chip.raise_keeps c ty p fs Chip.agents fun _ _ _ _ => rfl
@[simp] theorem Chip.raise_anchorTime (c : Chip) (ty p : Nat) (fs : List (Nat × Nat)) : (c.raise ty p fs).anchorTime = c.anchorTime :=
  Chip.raise_keeps c ty p fs Chip.anchorTime fun _ _ _ _ => rfl
@[simp] theorem Chip.raise_anchorRaw (c : Chip) (ty p : Nat) (fs : List (Nat × Nat)) : (c.raise ty p fs).anchorRaw = c.anchorRaw :=
  Chip.raise_keeps c ty p fs Chip.anchorRaw fun _ _ _ _ => rfl
@[simp] theorem Chip.raise_raw (c : Chip) (ty p : Nat) (fs : List (Nat × Nat)) : (c.raise ty p fs).raw = c.raw :=
  Chip.raise_keeps c ty p fs Chip.raw fun _ _ _ _ => rfl
@[simp] theorem Chip.raise_frame (c : Chip) (ty p : Nat) (fs : List (Nat × Nat)) : (c.raise ty p fs).frame = c.frame :=
  Chip.raise_keeps c ty p fs Chip.frame fun _ _ _ _ => rfl
@[simp] theorem Chip.raise_tick (c : Chip) (ty p : Nat) (fs : List (Nat × Nat)) : (c.raise ty p fs).tick = c.tick :=
  Chip.raise_keeps c ty p fs Chip.tick fun _ _ _ _ => rfl
@[simp] theorem Chip.raise_links (c : Chip) (ty p : Nat) (fs : List (Nat × Nat)) : (c.raise ty p fs).links = c.links :=
  Chip.raise_keeps c ty p fs Chip.links fun _ _ _ _ => rfl
@[simp] theorem Chip.raise_lanes (c : Chip) (ty p : Nat) (fs : List (Nat × Nat)) : (c.raise ty p fs).lanes = c.lanes :=
  Chip.raise_keeps c ty p fs Chip.lanes fun _ _ _ _ => rfl
@[simp] theorem Chip.raise_linkFull (c : Chip) (ty p : Nat) (fs : List (Nat × Nat)) : (c.raise ty p fs).linkFull = c.linkFull :=
  Chip.raise_keeps c ty p fs Chip.linkFull fun _ _ _ _ => rfl
@[simp] theorem Chip.raise_loops (c : Chip) (ty p : Nat) (fs : List (Nat × Nat)) : (c.raise ty p fs).loops = c.loops :=
  Chip.raise_keeps c ty p fs Chip.loops fun _ _ _ _ => rfl
@[simp] theorem Chip.raise_cores (c : Chip) (ty p : Nat) (fs : List (Nat × Nat)) : (c.raise ty p fs).cores = c.cores :=
  Chip.raise_keeps c ty p fs Chip.cores fun _ _ _ _ => rfl
@[simp] theorem Chip.raise_resMap (c : Chip) (ty p : Nat) (fs : List (Nat × Nat)) : (c.raise ty p fs).resMap = c.resMap :=
  Chip.raise_keeps c ty p fs Chip.resMap fun _ _ _ _ => rfl
@[simp] theorem Chip.raise_travSaved (c : Chip) (ty p : Nat) (fs : List (Nat × Nat)) : (c.raise ty p fs).travSaved = c.travSaved :=
  Chip.raise_keeps c ty p fs Chip.travSaved fun _ _ _ _ => rfl
@[simp] theorem Chip.raise_calRuns (c : Chip) (ty p : Nat) (fs : List (Nat × Nat)) : (c.raise ty p fs).calRuns = c.calRuns :=
  Chip.raise_keeps c ty p fs Chip.calRuns fun _ _ _ _ => rfl
@[simp] theorem Chip.raise_calTemps (c : Chip) (ty p : Nat) (fs : List (Nat × Nat)) : (c.raise ty p fs).calTemps = c.calTemps :=
  Chip.raise_keeps c ty p fs Chip.calTemps fun _ _ _ _ => rfl
@[simp] theorem Chip.raise_calVals (c : Chip) (ty p : Nat) (fs : List (Nat × Nat)) : (c.raise ty p fs).calVals = c.calVals :=
  Chip.raise_keeps c ty p fs Chip.calVals fun _ _ _ _ => rfl
@[simp] theorem Chip.raise_engines (c : Chip) (ty p : Nat) (fs : List (Nat × Nat)) : (c.raise ty p fs).engines = c.engines :=
  Chip.raise_keeps c ty p fs Chip.engines fun _ _ _ _ => rfl
@[simp] theorem Chip.raise_swaps (c : Chip) (ty p : Nat) (fs : List (Nat × Nat)) : (c.raise ty p fs).swaps = c.swaps :=
  Chip.raise_keeps c ty p fs Chip.swaps fun _ _ _ _ => rfl
@[simp] theorem Chip.raise_notice (c : Chip) (ty p : Nat) (fs : List (Nat × Nat)) : (c.raise ty p fs).notice = c.notice :=
  Chip.raise_keeps c ty p fs Chip.notice fun _ _ _ _ => rfl
@[simp] theorem Chip.raise_darkFibres (c : Chip) (ty p : Nat) (fs : List (Nat × Nat)) : (c.raise ty p fs).darkFibres = c.darkFibres :=
  Chip.raise_keeps c ty p fs Chip.darkFibres fun _ _ _ _ => rfl
@[simp] theorem Chip.raise_laserFlags (c : Chip) (ty p : Nat) (fs : List (Nat × Nat)) : (c.raise ty p fs).laserFlags = c.laserFlags :=
  Chip.raise_keeps c ty p fs Chip.laserFlags fun _ _ _ _ => rfl
@[simp] theorem Chip.raise_colTarget (c : Chip) (ty p : Nat) (fs : List (Nat × Nat)) : (c.raise ty p fs).colTarget = c.colTarget :=
  Chip.raise_keeps c ty p fs Chip.colTarget fun _ _ _ _ => rfl
@[simp] theorem Chip.raise_time (c : Chip) (ty p : Nat) (fs : List (Nat × Nat)) : (c.raise ty p fs).time = c.time :=
  Chip.raise_keeps c ty p fs Chip.time fun _ _ _ _ => rfl
@[simp] theorem Chip.raise_side (c : Chip) (ty p : Nat) (fs : List (Nat × Nat)) : (c.raise ty p fs).side = c.side :=
  Chip.raise_keeps c ty p fs Chip.side fun _ _ _ _ => rfl
@[simp] theorem Chip.raise_flash (c : Chip) (ty p : Nat) (fs : List (Nat × Nat)) : (c.raise ty p fs).flash = c.flash :=
  Chip.raise_keeps c ty p fs Chip.flash fun _ _ _ _ => rfl
@[simp] theorem Chip.raise_resetCounts (c : Chip) (ty p : Nat) (fs : List (Nat × Nat)) : (c.raise ty p fs).resetCounts = c.resetCounts :=
  Chip.raise_keeps c ty p fs Chip.resetCounts fun _ _ _ _ => rfl
@[simp] theorem Chip.raise_sagSaid (c : Chip) (ty p : Nat) (fs : List (Nat × Nat)) : (c.raise ty p fs).sagSaid = c.sagSaid :=
  Chip.raise_keeps c ty p fs Chip.sagSaid fun _ _ _ _ => rfl
@[simp] theorem Chip.raise_means (c : Chip) (ty p : Nat) (fs : List (Nat × Nat)) : (c.raise ty p fs).means = c.means :=
  Chip.raise_keeps c ty p fs Chip.means fun _ _ _ _ => rfl
@[simp] theorem Chip.raise_limDue (c : Chip) (ty p : Nat) (fs : List (Nat × Nat)) : (c.raise ty p fs).limDue = c.limDue :=
  Chip.raise_keeps c ty p fs Chip.limDue fun _ _ _ _ => rfl
@[simp] theorem Chip.raise_limFrame (c : Chip) (ty p : Nat) (fs : List (Nat × Nat)) : (c.raise ty p fs).limFrame = c.limFrame :=
  Chip.raise_keeps c ty p fs Chip.limFrame fun _ _ _ _ => rfl
@[simp] theorem Chip.raise_limAt (c : Chip) (ty p : Nat) (fs : List (Nat × Nat)) : (c.raise ty p fs).limAt = c.limAt :=
  Chip.raise_keeps c ty p fs Chip.limAt fun _ _ _ _ => rfl
@[simp] theorem Chip.raise_qps (c : Chip) (ty p : Nat) (fs : List (Nat × Nat)) : (c.raise ty p fs).qps = c.qps :=
  Chip.raise_keeps c ty p fs Chip.qps fun _ _ _ _ => rfl
@[simp] theorem Chip.raise_ethFails (c : Chip) (ty p : Nat) (fs : List (Nat × Nat)) : (c.raise ty p fs).ethFails = c.ethFails :=
  Chip.raise_keeps c ty p fs Chip.ethFails fun _ _ _ _ => rfl
@[simp] theorem Chip.raise_opens (c : Chip) (ty p : Nat) (fs : List (Nat × Nat)) : (c.raise ty p fs).opens = c.opens :=
  Chip.raise_keeps c ty p fs Chip.opens fun _ _ _ _ => rfl
@[simp] theorem Chip.raise_nextSess (c : Chip) (ty p : Nat) (fs : List (Nat × Nat)) : (c.raise ty p fs).nextSess = c.nextSess :=
  Chip.raise_keeps c ty p fs Chip.nextSess fun _ _ _ _ => rfl
@[simp] theorem Chip.raise_refusedAt (c : Chip) (ty p : Nat) (fs : List (Nat × Nat)) : (c.raise ty p fs).refusedAt = c.refusedAt :=
  Chip.raise_keeps c ty p fs Chip.refusedAt fun _ _ _ _ => rfl
@[simp] theorem Chip.raise_snap (c : Chip) (ty p : Nat) (fs : List (Nat × Nat)) : (c.raise ty p fs).snap = c.snap :=
  Chip.raise_keeps c ty p fs Chip.snap fun _ _ _ _ => rfl

/-! ### Device time (R367) -/

theorem Chip.now_congr {c d : Chip} (h1 : c.anchorTime = d.anchorTime) (h2 : c.anchorRaw = d.anchorRaw) (h3 : c.raw = d.raw)
    (h4 : c.reg Obj.TIME_RATE = d.reg Obj.TIME_RATE) : c.now = d.now := by
  simp [Chip.now, Chip.exactTime, h1, h2, h3, h4]

theorem Chip.now_raise (c : Chip) (ty part : Nat) (fs : List (Nat × Nat)) : (c.raise ty part fs).now = c.now :=
  Chip.now_congr (Chip.raise_keeps _ _ _ _ Chip.anchorTime fun _ _ _ _ => rfl) (Chip.raise_keeps _ _ _ _ Chip.anchorRaw fun _ _ _ _ => rfl)
    (Chip.raise_keeps _ _ _ _ Chip.raw fun _ _ _ _ => rfl) (Chip.raise_reg _ _ _ _ _ (by decide))

theorem Chip.now_setReg (c : Chip) (k v : Nat) (h : k ≠ Obj.TIME_RATE) : (c.setReg k v).now = c.now :=
  Chip.now_congr rfl rfl rfl (Chip.reg_setReg_other c v (Ne.symm h))

end Sys2Proof.Machine
end

