-- ==== Sys2Proof/Laws/Access.lean ====
section
/-! SUPPORT. One dictionary write that is admitted: its own effect, then its answer (R359, R363). -/
namespace Sys2Proof.Machine

/-- An admitted write is its effect on its instance and bytes, and then the answer with the effect's code. -/
theorem State.rowWrite_admits {s : State} {r : Req} {key inst : Nat} {bs : List Byte} (h : s.admits r key bs inst = true) (eff : Eff) :
    s.rowWrite r key bs eff =
      (eff inst bs s).1.on (fun c => c.result r.sess.val (key / 256) (key % 256) (eff inst bs s).2 []) := by
  unfold State.admits at h
  rw [Bool.and_eq_true, decide_eq_true_eq] at h
  obtain ⟨hst, h⟩ := h
  cases hse : Tbl.find s.chip.sess r.sess.val with
  | none => simp [hse] at h
  | some se => ?_
  rw [hse] at h
  dsimp only at h
  cases hreach : s.chip.writeReach r.sess.val se r.part.toNat (key / 256) (key % 256) bs.length with
  | error e => simp [hreach] at h
  | ok p => ?_
  obtain ⟨row, i⟩ := p
  rw [hreach] at h
  simp only [Bool.and_eq_true, decide_eq_true_eq, Bool.or_eq_true, Bool.not_eq_true', beq_iff_eq] at h
  obtain ⟨⟨⟨rfl, hnorm⟩, hval⟩, hord⟩ := h
  replace hnorm : tyScalar row.ty = true → leBytes (tyBytes row.ty) (row.scalar bs) = bs := by
    intro ht; rcases hnorm with h | h
    · simp [ht] at h
    · exact h
  have hkey : key / 256 * 256 + key % 256 = key := Nat.div_add_mod' key 256
  have hg : ∀ g : Nat → Nat, (∀ k, g k = if k = key then leNat bs else s.chip.reg k) → orderOk g key = true :=
    fun g he => by rw [show g = _ from funext he]; exact hord
  unfold State.rowWrite
  rw [hse]
  dsimp only
  unfold State.write1 State.writeG
  rw [hreach, hkey]
  dsimp only
  have hbs : (if tyScalar row.ty = true then leBytes (tyBytes row.ty) (row.scalar bs) else bs) = bs := by
    split
    · exact hnorm ‹_›
    · rfl
  rw [hbs, hval, hg _ (fun k => by by_cases hk : k = key <;> simp [Tbl.find, hk])]
  simp [hst]

/-- What a result leaves: only the messages and, for a refusal, CNT_DICT_REFUSED change. -/
theorem Chip.result_ok (c : Chip) (slot idx sub : Nat) (data : List Byte) :
    c.result slot idx sub rcOK data = c.send (.result slot idx sub rcOK data) := rfl

end Sys2Proof.Machine
end

