-- ==== Sys2Proof/Laws/Memory.lean ====
section
/-! SUPPORT. Laws of memory: every operation keeps the canonical form, and what reads after a write. -/
namespace Sys2Proof.Machine

theorem Tbl.all_put {α : Type} (t : Tbl α) (p : Nat × α → Bool) (k : Nat) (v : α) (h : t.all p = true) (hv : p (k, v) = true) :
    (Tbl.put t k v).all p = true := by
  induction t with
  | nil => simp [Tbl.put, hv]
  | cons e t ih =>
    obtain ⟨i, w⟩ := e
    simp only [List.all_cons, Bool.and_eq_true] at h
    unfold Tbl.put
    split
    · simp [hv, h.1, h.2]
    · split
      · simp [hv, h.2]
      · simp [h.1, ih h.2]

theorem Tbl.all_del {α : Type} (t : Tbl α) (p : Nat × α → Bool) (k : Nat) (h : t.all p = true) : (Tbl.del t k).all p = true := by
  induction t with
  | nil => rfl
  | cons e t ih =>
    obtain ⟨i, w⟩ := e
    simp only [List.all_cons, Bool.and_eq_true] at h
    unfold Tbl.del
    split
    · exact h.2
    · simp [h.1, ih h.2]

/-- The canonical form of one of memory's tables. -/
def Tbl.canon {α : Type} [DecidableEq α] (d : α) (t : Tbl α) : Bool := Tbl.rising t && t.all (fun e => e.2 != d)

theorem Tbl.canon_setD {α : Type} [DecidableEq α] (t : Tbl α) (d : α) (k : Nat) (v : α) (h : Tbl.canon d t = true) :
    Tbl.canon d (Tbl.setD t d k v) = true := by
  simp only [Tbl.canon, Bool.and_eq_true] at h ⊢
  refine ⟨Tbl.rising_setD t d k v h.1, ?_⟩
  unfold Tbl.setD
  split
  · exact Tbl.all_del t _ k h.2
  · next hv => exact Tbl.all_put t _ k v h.2 (by simp [hv])

theorem Tbl.canon_filter {α : Type} [DecidableEq α] (t : Tbl α) (d : α) (p : Nat × α → Bool) (h : Tbl.canon d t = true) :
    Tbl.canon d (List.filter p t) = true := by
  simp only [Tbl.canon, Bool.and_eq_true] at h ⊢
  exact ⟨Tbl.rising_filter t 0 p h.1, by rw [List.all_eq_true] at *; intro e he; exact h.2 e (List.mem_of_mem_filter he)⟩

theorem Memory.wf_iff (m : Memory) : m.wf = true ↔ Tbl.canon 0#8 m.cells = true ∧ Tbl.canon 0 m.tags = true := by
  simp only [Memory.wf, Tbl.canon, Bool.and_eq_true]; tauto

theorem Memory.wf_empty : ({} : Memory).wf = true := rfl

theorem Memory.wf_setRaw (m : Memory) (a : Nat) (b : Byte) (h : m.wf = true) : (m.setRaw a b).wf = true := by
  rw [Memory.wf_iff] at *
  exact ⟨Tbl.canon_setD _ _ _ _ h.1, h.2⟩

theorem Memory.wf_setRaws (m : Memory) (a : Nat) (bs : List Byte) (h : m.wf = true) : (m.setRaws a bs).wf = true := by
  induction bs generalizing m a with
  | nil => exact h
  | cons b bs ih => exact ih _ _ (Memory.wf_setRaw m a b h)

theorem Memory.wf_own (m : Memory) (k a : Nat) (h : m.wf = true) : (m.own k a).wf = true := by
  unfold Memory.own
  split
  · exact h
  · have := Memory.wf_setRaws m (a / 128 * 128) (m.bytes k (a / 128 * 128) 128) h
    rw [Memory.wf_iff] at this ⊢
    exact ⟨this.1, Tbl.canon_setD _ _ _ _ this.2⟩

theorem Memory.wf_put (m : Memory) (k a : Nat) (b : Byte) (h : m.wf = true) : (m.put k a b).wf = true :=
  Memory.wf_setRaw _ _ _ (Memory.wf_own m k a h)

theorem Memory.wf_write (m : Memory) (k a : Nat) (bs : List Byte) (h : m.wf = true) : (m.write k a bs).wf = true := by
  induction bs generalizing m a with
  | nil => exact h
  | cons b bs ih => exact ih _ _ (Memory.wf_put m k a b h)

theorem Memory.wf_zero (m : Memory) (a n : Nat) (h : m.wf = true) : (m.zero a n).wf = true := by
  rw [Memory.wf_iff] at *
  exact ⟨Tbl.canon_filter _ _ _ h.1, Tbl.canon_filter _ _ _ h.2⟩

theorem Memory.wf_moveLine (m : Memory) (k src dst : Nat) (h : m.wf = true) : (m.moveLine k src dst).wf = true := by
  unfold Memory.moveLine
  split
  · exact Memory.wf_zero m dst 128 h
  · exact Memory.wf_write m k dst _ h

theorem Memory.wf_moveLines (m : Memory) (k src dst n : Nat) (h : m.wf = true) : (m.moveLines k src dst n).wf = true := by
  induction n generalizing m src dst with
  | zero => exact h
  | succ n ih => exact ih _ _ _ (Memory.wf_moveLine m k src dst h)

/-! ### Reading after writing -/

theorem Memory.raw_setRaw_same (m : Memory) (a : Nat) (b : Byte) (h : m.wf = true) : (m.setRaw a b).raw a = b := by
  simp only [Memory.wf_iff, Tbl.canon, Tbl.rising, Bool.and_eq_true] at h
  simp only [Memory.raw, Memory.setRaw, Tbl.setD]
  split
  · next hb => rw [hb, Tbl.get, Tbl.find_del_same m.cells 0 a h.1.1]; rfl
  · simp

theorem Memory.raw_setRaw_other (m : Memory) {a x : Nat} (b : Byte) (h : x ≠ a) : (m.setRaw a b).raw x = m.raw x := by
  simp only [Memory.raw, Memory.setRaw, Tbl.setD]
  split
  · rw [Tbl.get, Tbl.find_del_other m.cells h]; rfl
  · exact Tbl.get_put_other _ _ _ h

@[simp] theorem Memory.tags_setRaw (m : Memory) (a : Nat) (b : Byte) : (m.setRaw a b).tags = m.tags := rfl

@[simp] theorem Memory.tag_setRaw (m : Memory) (a x : Nat) (b : Byte) : (m.setRaw a b).tag x = m.tag x := rfl

/-- The line of a written byte is a line of the writer's key, and reads as the byte under it. -/
theorem Memory.byte_of_tag (m : Memory) (k a : Nat) (hk : k ≠ 0) (h : m.tag a = k) : m.byte k a = m.raw a := by
  simp [Memory.byte, h, hk]

theorem Memory.tag_own (m : Memory) (k a : Nat) (hk : k ≠ 0) : (m.own k a).tag a = k := by
  unfold Memory.own
  split
  · assumption
  · simp [Memory.tag, Tbl.setD, hk]

/-- A byte that was just put reads back under the same key (R179). -/
theorem Memory.byte_put_same (m : Memory) (k a : Nat) (b : Byte) (hk : k ≠ 0) (h : m.wf = true) : (m.put k a b).byte k a = b := by
  rw [Memory.byte_of_tag _ k a hk (by simp [Memory.put, Memory.tag_own m k a hk])]
  exact Memory.raw_setRaw_same _ a b (Memory.wf_own m k a h)

end Sys2Proof.Machine
end

