-- ==== Sys2Proof/Laws/Vct.lean ====
section
/-! SUPPORT. Messages of the control transport: a message is read from its head, and one whose tag is the session's is authentic. -/
namespace Sys2Proof.Machine

@[simp] theorem length_fitTo (n : Nat) (bs : List Byte) : (fitTo n bs).length = n := by
  simp [fitTo, zeros]; omega

/-- A field that lies within the head of a message is read from it. -/
theorem leAt_append (h t : List Byte) (o n : Nat) (hn : o + n ≤ h.length) : leAt (h ++ t) o n = leAt h o n := by
  unfold leAt
  rw [List.drop_append_of_le_length (by omega), List.take_append_of_le_length (by simp; omega)]

theorem byteAt_append (h t : List Byte) (o : Nat) (hn : o < h.length) : byteAt (h ++ t) o = byteAt h o := by
  simp [byteAt, List.getElem?_append, hn]

/-- What `msgOk` says of a length and of the fields it looks at. -/
def msgOkOf (n v ty fl res len cnt : Nat) : Bool :=
  v = 1 && decide (len ≤ 1024) && decide (n = 32 + len + if untagged ty then 0 else 32) && decide (fl < 4) && res = 0 &&
  (ty != vctFetch || (len = 5 && between 1 16 cnt))

theorem msgOk_eq (m : List Byte) :
    msgOk m = msgOkOf m.length (byteAt m 0) (byteAt m 1) (leAt m 2 2) (leAt m 0x15 3) (leAt m 0x10 2) (byteAt m 0x24) := rfl

/-- A head of the length it names, with 32 bytes behind it, is as well formed as the head with zeros behind it. -/
theorem msgOk_append (h t : List Byte) (ht : t.length = 32) (hh : 0x25 ≤ h.length ∨ msgType h ≠ vctFetch) (hl : 32 ≤ h.length) :
    msgOk (h ++ t) = msgOk (h ++ zeros 32) := by
  have b := fun o (ho : o < h.length) => (byteAt_append h t o ho).trans (byteAt_append h (zeros 32) o ho).symm
  have l := fun o n (ho : o + n ≤ h.length) => (leAt_append h t o n ho).trans (leAt_append h (zeros 32) o n ho).symm
  have n : (h ++ t).length = (h ++ zeros 32).length := by simp [ht, zeros]
  rw [msgOk_eq, msgOk_eq, n, b 0 (by omega), b 1 (by omega), l 2 2 (by omega), l 0x15 3 (by omega), l 0x10 2 (by omega)]
  rcases hh with hh | hh
  · rw [b 0x24 (by omega)]
  · have e : (byteAt (h ++ zeros 32) 1 != vctFetch) = true := by
      rw [byteAt_append h _ 1 (by omega)]; simpa [msgType] using hh
    simp only [msgOkOf, e, Bool.true_or]

/-- A tagged message whose head names its length and its session, and whose tag the session's key gives, is taken. -/
theorem Chip.authentic_signed (c : Chip) (ty src slot : Nat) (h : List Byte) (se : Sess) (up : c.vctUp = true) (hty : msgType h = ty)
    (ok : msgOk (h ++ zeros 32) = true) (hh : 0x25 ≤ h.length ∨ msgType h ≠ vctFetch) (hl : h.length = 32 + msgLen h)
    (hs : c.sess.find? (fun p => p.2.id = msgSess h) = some (slot, se)) :
    c.authentic ty src (h ++ fitTo 32 (Config.kmac256 se.key h 32)) = .ok (slot, c.setSess slot { se with badTags := 0, addr := src }) := by
  have l : msgLen (h ++ fitTo 32 (Config.kmac256 se.key h 32)) = msgLen h := leAt_append h _ _ _ (by omega)
  have t : msgType (h ++ fitTo 32 (Config.kmac256 se.key h 32)) = msgType h := byteAt_append h _ _ (by omega)
  have s : msgSess (h ++ fitTo 32 (Config.kmac256 se.key h 32)) = msgSess h := leAt_append h _ _ _ (by omega)
  have o := (msgOk_append h (fitTo 32 (Config.kmac256 se.key h 32)) (by simp) hh (by omega)).trans ok
  unfold Chip.authentic
  rw [up, t, hty, o, s, hs, l]
  simp [msgTag, l, ← hl]

end Sys2Proof.Machine
end

