-- ==== Sys2Proof/WellFormed.lean ====
section
/-! DEFINITION. Well-formed commands: the bounds the spec sets on a message or an input that its type does not carry. -/
namespace Sys2Proof

/-- The bounds of each command. A command with no check here is bounded by its types alone. -/
def Instr.wf : Instr → Bool
  | .frameBoundary f => decide (f.domains.length = 30) && decide (f.parts.length = 8)
  | .agentHung _ => true
  | .swapWindowEnd _ => true
  | .decimationRelax _ => true
  | .coreSaturated _ => true
  | .sliceOverrun _ _ _ _ => true
  | .tickEdge t => decide (t.temps.length = 16)
  | .loopOverrun _ _ _ => true
  | .loopHold _ _ => true
  | .droopSag _ => true
  | .stretchEnd _ _ => true
  | .domainSag _ => true
  | .dvfsRampDone _ => true
  | .fsyncEdge _ => true
  | .ptpSync _ _ _ _ _ _ _ _ => true
  | .ptpFollowUp _ _ _ _ _ _ => true
  | .ptpAnnounce _ _ _ => true
  | .ptpDelayResp _ _ _ _ => true
  | .timeSet _ _ => true
  | .timeRate _ _ => true
  | .doorbell _ _ _ _ => true
  | .qcontrolEnable _ _ _ => true
  | .qcontrolResume _ _ _ => true
  | .qcontrolSkip _ _ _ => true
  | .qcontrolDisable _ _ _ => true
  | .descriptorFetch _ _ => true
  | .mm _ _ => true
  | .mmAcc _ _ => true
  | .vec _ _ => true
  | .move _ _ _ => true
  | .gather _ _ _ => true
  | .scatter _ _ _ => true
  | .convert _ _ => true
  | .send _ _ => true
  | .recv _ _ => true
  | .reduceRecv _ _ => true
  | .wait _ _ => true
  | .signal _ _ _ => true
  | .fence _ _ => true
  | .stepMark _ _ => true
  | .watch _ _ _ _ => true
  | .waitTimeout _ _ => true
  | .signalValueWrite _ _ _ _ => true
  | .workUnitDone _ _ _ _ => true
  | .shadowTriggered _ _ _ => true
  | .tileLoadDone _ _ _ => true
  | .tileWriteback _ _ => true
  | .dmaUnitDone _ _ _ => true
  | .completionRecordWrite _ _ => true
  | .queueHoldWrite _ _ _ _ => true
  | .fabricTimeout _ _ _ => true
  | .rtsReceived _ _ _ _ => true
  | .ctsReceived _ _ _ _ _ => true
  | .completeReceived _ _ _ => true
  | .refuseReceived _ _ _ _ => true
  | .segAckReceived _ _ _ _ _ => true
  | .segmentReceived _ _ _ _ data _ => decide (data.length ≤ 65536)
  | .resetL1 _ _ _ _ => true
  | .resetL2 _ _ _ _ => true
  | .resetL3 _ _ _ _ => true
  | .resetL4 _ _ _ => true
  | .resetL5 _ _ => true
  | .resetL6 _ _ => true
  | .resetEnd _ => true
  | .resetBoundExpired _ => true
  | .replayLimitReached _ _ => true
  | .unackedWriteTimeout _ => true
  | .screeUnitTimeout _ _ => true
  | .sramCorrected _ _ => true
  | .sramUncorrectable _ _ _ => true
  | .ridgeSpadUncorrectable _ _ _ => true
  | .spurFailed _ _ => true
  | .spurSuspendTimeout _ _ => true
  | .spurRetireReq _ _ => true
  | .spareSelftestDone _ _ => true
  | .memUncorrectable _ _ _ _ _ => true
  | .erasureMarked _ _ _ => true
  | .erasureClear _ unit value => decide (value.length = if unit.val < 16 then 128 else 8)
  | .patrolScrub _ _ _ _ _ => true
  | .frameSoftRetire _ => true
  | .memOutOfService _ => true
  | .stackTempSample _ _ => true
  | .dimmTempRead _ _ => true
  | .ctxRootWrite _ _ _ => true
  | .walkComplete _ _ _ _ _ => true
  | .tlbInvalPages _ _ _ _ _ => true
  | .tlbInvalContext _ _ => true
  | .tlbInvalPartition _ => true
  | .tlbInvalDone _ => true
  | .stewardFault _ => true
  | .stewardCopyDone _ _ => true
  | .stewardRingBaseWrite _ _ => true
  | .stewardRingConsumerWrite _ _ => true
  | .faultResolveRetry _ _ _ => true
  | .faultResolveAbort _ _ _ => true
  | .faultResolveDone _ _ => true
  | .faultHostLimitExpired _ _ => true
  | .wsCreate _ _ _ => true
  | .wsApply _ _ _ => true
  | .wsTeardown _ _ _ => true
  | .zeroFillDone _ => true
  | .lightPresent _ => true
  | .lightLost _ => true
  | .laneTrainingDone _ _ => true
  | .helloSend _ => true
  | .helloReceived _ _ => true
  | .flitReceived _ flit _ _ _ _ => decide (flit.length = 256)
  | .ackTimer _ => true
  | .creditReturnTimer _ => true
  | .linkReplayTimeout _ => true
  | .linkRetrainTimeout _ => true
  | .laneDegrade _ _ => true
  | .laneDropReceived _ _ _ => true
  | .laneAddReceived _ _ _ => true
  | .swapAnnounceReceived _ _ _ => true
  | .swapAckReceived _ _ _ _ => true
  | .swapAckWaitExpired _ _ _ => true
  | .frameMarkReceived _ _ _ _ _ => true
  | .linkControlRelease _ _ => true
  | .linkControlRetrain _ _ => true
  | .linkControlQuarantine _ _ => true
  | .expectMapWrite _ _ _ _ => true
  | .routeEntryWrite _ _ _ => true
  | .steerControl _ _ _ => true
  | .steerRatio _ _ _ => true
  | .steerDone _ => true
  | .ocsNotice _ _ _ => true
  | .colForceBypass _ _ => true
  | .colMoved _ => true
  | .engineFailed _ => true
  | .engineRetireReq _ _ => true
  | .notchEngaged _ => true
  | .notchFailed _ => true
  | .engineFailRecordClear _ _ => true
  | .spareLocked _ _ => true
  | .laserAbruptFailure _ _ => true
  | .spareFailed _ _ => true
  | .loopModeOpen _ _ _ => true
  | .loopModeSearch _ _ _ => true
  | .loopModeTrack _ _ _ => true
  | .loopModeHold _ _ _ => true
  | .loopCoefWrite _ _ _ block => decide (block.length ≤ 992)
  | .loopClassWrite _ _ _ _ => true
  | .loopOutputWrite _ _ _ _ => true
  | .searchSweepEnd _ _ => true
  | .handoverFailed _ _ => true
  | .toneCheckDone _ _ _ _ => true
  | .loopCoreFailed _ => true
  | .rcStepBoundary _ _ => true
  | .rcTimeout _ => true
  | .injectWrite _ _ _ _ => true
  | .captureWrite _ _ _ _ => true
  | .captureTrigger _ _ => true
  | .captureDone _ _ => true
  | .traverseStoreSave _ => true
  | .traverseStoreErase _ => true
  | .calTrigger _ _ => true
  | .calRequest _ _ => true
  | .calMeasureDone _ _ => true
  | .calNodataTimeout _ _ _ => true
  | .calParamStep _ _ => true
  | .calVerifyDone _ _ => true
  | .calEnableWrite _ _ => true
  | .ethLinkUp _ => true
  | .ethLinkDown _ => true
  | .ethTrainingFailed _ => true
  | .routerAdvertisement _ _ => true
  | .sessionOpen _ _ => true
  | .sessionProof _ _ => true
  | .sessionProofTimeout _ => true
  | .sessionClose _ _ => true
  | .vctIdleTimeout _ => true
  | .request _ _ => true
  | .eventAck _ _ _ => true
  | .eventFetch _ _ => true
  | .eventRetryTimeout _ _ => true
  | .roceSendReceived _ _ _ data _ => decide (data.length ≤ 4096)
  | .roceWriteReceived _ _ _ _ _ _ data _ => decide (data.length ≤ 4096)
  | .roceReadRequest _ _ _ _ _ _ _ => true
  | .roceReadResponse _ _ data _ => decide (data.length ≤ 4096)
  | .roceAck _ _ _ => true
  | .roceNak _ _ _ _ => true
  | .cnpReceived _ => true
  | .ecnAlphaDecay _ => true
  | .ecnRateIncrease _ => true
  | .roceRetryTimeout _ => true
  | .roceFaultWaitExpired _ => true
  | .qpSendProducer _ _ => true
  | .qpRecvProducer _ _ => true
  | .qpCompConsumer _ _ => true
  | .qpConfigWrite _ _ value => decide (value.length = 64)
  | .mrEntryWrite _ _ value => decide (value.length = 20)
  | .workRequestDone _ => true
  | .launchTimeReached _ => true
  | .read _ _ _ _ => true
  | .write _ _ _ value => decide (value.length ≤ 992)
  | .describe _ _ _ => true
  | .blockOpenRead _ _ _ => true
  | .blockOpenWrite _ _ _ _ => true
  | .blockRead _ _ _ _ => true
  | .blockWrite _ _ _ data => decide (data.length ≤ 992)
  | .blockCommit _ _ => true
  | .blockClose _ _ => true
  | .blockIdleTimeout _ _ => true
  | .cfgFactoryArm _ => true
  | .cfgFactoryDisarm _ => true
  | .cairnCommit _ => true
  | .cairnClear _ token => decide (token.length = 200)
  | .cairnClearDone _ => true
  | .freezeAt _ _ => true
  | .traceFlush _ => true
  | .watchBaseWrite _ _ => true
  | .fwActivate _ => true
  | .rollbackCommit _ _ => true
  | .opkeyProvision _ value => decide (value.length = 72)
  | .opkeyRevoke _ _ => true
  | .attestRequest _ value => decide (value.length = 40)
  | .heartbeat _ _ => true
  | .leaseClaim _ => true
  | .leaseRenew _ _ _ => true
  | .stewardRestartDone _ => true
  | .trayPwrEnAssert _ _ => true
  | .ready _ => true
  | .domainFault _ => true
  | .powerLimitWrite _ _ => true
  | .trayRstLRelease _ => true
  | .recoveryData _ data => decide (1 ≤ data.length) && decide (data.length ≤ 256)
  | .alertCauseWrite _ => true
  | .i3cDynamicAddress _ => true
  | .readVin _ => true
  | .readIin _ => true
  | .readPin _ => true
  | .readTemperature1 _ => true
  | .statusWord _ => true
  | .inputReturn _ _ => true
  | .pauseFrameReceived _ => true
  | .alertEnWrite _ => true
  | .leaseLapse => true
  | .thermalTrip => true
  | .fsyncMissing => true
  | .fsyncStartupTimeout => true
  | .refclkLost => true
  | .refclkReturn => true
  | .timeMasterTimeout => true
  | .pendingEntryFree => true
  | .ocsNoticeExpire => true
  | .cairnFlashTimeout => true
  | .fwStageResult => true
  | .supRestartDone => true
  | .l6TrayWaitExpired => true
  | .trayPwrEnDeassert => true
  | .inputLost => true
  | .trayRstLAssert => true
  | .recoveryBegin => true
  | .recoveryEnd => true
  | .recoveryAbort => true
  | .recoveryIdleTimeout => true
  | .clearFaults => true
  | .memsDriveSupplyLost => true

/-- A well-formed command. -/
abbrev Instr.WF (i : Instr) : Prop := i.wf = true

end Sys2Proof
end

