-- ==== Sys2Proof/Tests/Slice0.lean ====
section
/-! SUPPORT. Tests: an ill-formed command for each check of WellFormed; operations on values worked out from the spec; and the
witnesses of the statements: a state and operands that meet the premises of each clause, shown by the clause itself, which then
answers a next state. -/
open Sys2Proof Sys2Proof.Machine
section
set_option maxRecDepth 100000
set_option Elab.async false

/-! ### Well-formedness: each check refuses a term that misses it -/

def measured (domains parts : Nat) : FrameData :=
  { watts := 0, domains := List.replicate domains 0, parts := List.replicate parts 0, inlet := 0, outlet := 0, drops := [], shares := [] }
def sampled (temps : Nat) : TickData :=
  { volts := 0, amps := 0, watts := 0, temps := List.replicate temps 0, samples := [], storeWait := [], linkWait := [] }

theorem test_wf_frame_domains : (Instr.frameBoundary (measured 29 8)).wf = false ∧ (Instr.frameBoundary (measured 30 8)).wf = true := by decide
theorem test_wf_frame_parts : (Instr.frameBoundary (measured 30 7)).wf = false := by decide
theorem test_wf_tick_temps : (Instr.tickEdge (sampled 15)).wf = false ∧ (Instr.tickEdge (sampled 16)).wf = true := by decide
theorem test_wf_erasure_near : (Instr.erasureClear ⟨0, 0⟩ 3 (zeros 8)).wf = false := by decide
theorem test_wf_erasure_far : (Instr.erasureClear ⟨0, 0⟩ 16 (zeros 128)).wf = false := by decide
theorem test_wf_flit : (Instr.flitReceived 0 (zeros 255) 0 0 false false).wf = false := by decide
theorem test_wf_loop_coef : (Instr.loopCoefWrite ⟨0, 0⟩ 0 0 (zeros 993)).wf = false := by decide
theorem test_wf_qp_config : (Instr.qpConfigWrite ⟨0, 0⟩ 0 (zeros 63)).wf = false := by decide
theorem test_wf_mr_entry : (Instr.mrEntryWrite ⟨0, 0⟩ 0 (zeros 21)).wf = false := by decide
theorem test_wf_write : (Instr.write ⟨0, 0⟩ 0 0 (zeros 993)).wf = false ∧ (Instr.write ⟨0, 0⟩ 0 0 (zeros 992)).wf = true := by decide
theorem test_wf_block_write : (Instr.blockWrite ⟨0, 0⟩ 0 0 (zeros 993)).wf = false := by decide
theorem test_wf_cairn_clear : (Instr.cairnClear ⟨0, 0⟩ (zeros 199)).wf = false := by decide
theorem test_wf_provision : (Instr.opkeyProvision ⟨0, 0⟩ (zeros 71)).wf = false := by decide
theorem test_wf_attest : (Instr.attestRequest ⟨0, 0⟩ (zeros 41)).wf = false := by decide
theorem test_wf_recovery_data : (Instr.recoveryData none []).wf = false ∧ (Instr.recoveryData none (zeros 257)).wf = false := by decide

/-! ### Values worked out from the spec -/

/-- CRC-64 with the ECMA-182 polynomial, all ones in and out: the published check value for the digits 1 to 9 (R242). -/
theorem test_crc64 : crc64 (ascii "123456789") = 0x62EC59E3F1A4F00A := by decide +kernel
/-- R26: FP32 sums round to nearest, ties to even: 1 + 2^-24 is 1, and 1 + 3·2^-24 is 1 + 2^-22. -/
theorem test_f32_tie : f32Add 0x3F800000#32 0x33800000#32 = 0x3F800000#32 ∧ f32Add 0x3F800000#32 0x34400000#32 = 0x3F800002#32 := by
  decide +kernel
/-- R26: subnormals stay: 2^-126 · 2^-1 is the subnormal 0x00400000. -/
theorem test_f32_subnormal : f32Mul 0x00800000#32 0x3F000000#32 = 0x00400000#32 := by decide +kernel
/-- Table 2.5: ZF4 code 0b0111 is 6 at block scale 1 and 12 at scale 2; code 0b1001 is −0.5. -/
theorem test_zf4 : (codeVal fmtZF4 7 0).toF32 = 0x40C00000#32 ∧ (codeVal fmtZF4 7 1).toF32 = 0x41400000#32 ∧
    (codeVal fmtZF4 9 0).toF32 = 0xBF000000#32 := by decide +kernel
/-- Table 2.2: the largest E4M3 value, code 0x7E, is 448, and 0x7F is a NaN. -/
theorem test_e4m3 : (e4m3Val 0x7E).toF32 = 0x43E00000#32 ∧ e4m3Val 0x7F = .nan := by decide +kernel
/-- Table 2.4: bytes of a block group. -/
theorem test_groups : groupBytes fmtZF4 = 640 ∧ groupBytes fmtZF3 = 512 ∧ groupBytes fmtT2 = 384 ∧ groupBytes 4 = 1152 := by decide
/-- R478: a byte, a word at 4, a byte at 8, a double word at 16; the end on a multiple of 8. -/
theorem test_fields : layFields [(1, 2), (4, 0x30002), (1, 1), (8, 9)] =
    [2, 0, 0, 0, 2, 0, 3, 0, 1, 0, 0, 0, 0, 0, 0, 0, 9, 0, 0, 0, 0, 0, 0, 0] := by decide +kernel
/-- R19: the third set bit of the map 0b11011 is position 3. -/
theorem test_logical_spur : (State.reset.chip.setReg Obj.RIDGE_SPUR_MAP 0b11011).spurPos 0 2 = some 3 := by decide +kernel
/-- Defaults of the tables of chapters 3, 5, 16 and 17. -/
theorem test_defaults : objDefault Obj.POWER_LIMIT = 3600 ∧ objDefault Obj.COMPUTE_BUDGET = 2400 ∧ objDefault Obj.HB_MISS_LIMIT = 2 ∧
    objDefault Obj.RESET_REPEAT_LIMIT = 3 ∧ objDefault Obj.REPLAY_LIMIT = 4 ∧ objDefault Obj.SPUR_CE_LIMIT = 1024 := by decide +kernel
/-- R418: a record does not cross a page of 4,096 bytes. -/
theorem test_log_page : logAfter 4000 96 = 4096 ∧ logAfter 4000 97 = 4193 := by decide
/-- A written line reads back, and writing zeros over it leaves no entry (R158). -/
theorem test_memory : (({} : Memory).write 1 128 [7#8]).cells.length = 1 ∧ ((({} : Memory).write 1 128 [7#8]).write 1 128 [0#8]).cells = [] := by
  decide +kernel
/-- The empty queue idles (log entry 1), and no row of the table has an encoding. -/
theorem test_idle : step State.reset = .next State.reset := rfl
theorem test_no_words (n w : Nat) : decodeTableWord n w = none ∧ State.reset.withFetchWord n w = State.reset := ⟨rfl, rfl⟩

/-! ### Witnesses -/

theorem Sys2Proof.Machine.Ends.completes {i : Instr} {s : State} {P : State → Prop} (h : Ends i s P) : ∃ t, exec i s = .next t := by
  obtain ⟨t, h, _⟩ := h; exact ⟨t, h⟩
abbrev Completes (i : Instr) (s : State) : Prop := ∃ t, exec i s = .next t

/-- Module objects set one after another. -/
def put (c : Chip) (l : List (Nat × Nat)) : Chip := l.foldl (fun c p => c.setReg p.1 p.2) c

/-- A started module with three sessions: an operator in slot 0, a tenant of partition 0 in slot 1, a service session in slot 2.
Partition 0 is ACTIVE with Ridge 0, all its Spurs, a key and a backed stack; the Ridge has page 0 cached. -/
def lab : Chip :=
  { put State.reset.chip [(Obj.STARTUP_STEP, 9), (Obj.WS_STATE, wsActive), (Obj.WS_APPLIED_RIDGES, 1), (Obj.RIDGE_SPUR_MAP, 0x1FFFF),
      (Obj.KEY_SLOT_STATE, 1)] with
    sess := [(0, { id := 1, cls := 2 }), (1, { id := 2, cls := 1, part := 0 }), (2, { id := 3, cls := 3 })]
    parts := [(0, { keyTag := 1 })], units := [(0, { backed := 2 ^ 32 })]
    ridges := [(0, { tlb := [{ part := 0, ctx := 0, va := 0, level := 4, pa := 0x100000, w := true, d := true }] })]
    side := { power := true } }

def operator : Req := ⟨0, 0#8⟩
def tenant : Req := ⟨1, 0#8⟩
def service : Req := ⟨2, 0#8⟩

def st (c : Chip) : State := { chip := c }
/-- Queue 0 of Ridge 0 in a state of the test's choice, its ring of 16 entries. -/
def queued (x : Queue) : State := st ((put lab [(Obj.QRING_ENTRIES, 16)]).setQueue 0 0 x)

/-- A command of the queue that has started, with opcode and descriptor. -/
def cmdOf (o : Nat) (d : List Byte) : Cmd := { op := o, desc := fitTo 64 d, started := true, cfgRead := true }
theorem witness_Doorbell_1 (h : Obligations.Doorbell) : Completes (.doorbell 0 0 0 16#32) (queued { st := .running }) :=
  ((h 0 0 0 16#32 (queued { st := .running })).1 (by decide +kernel) (by decide +kernel) (by decide +kernel) (by decide +kernel) (by decide +kernel)).completes

theorem witness_Doorbell_2 (h : Obligations.Doorbell) : Completes (.doorbell 0 0 0 5#32) (queued { st := .running, accepted := 5 }) :=
  ((h 0 0 0 5#32 (queued { st := .running, accepted := 5 })).2.1 (by decide +kernel) (by decide +kernel) (by decide +kernel)).completes

theorem witness_Doorbell_3 (h : Obligations.Doorbell) : Completes (.doorbell 0 0 0 5#32) (queued { st := .running, accepted := 6 }) :=
  ((h 0 0 0 5#32 (queued { st := .running, accepted := 6 })).2.2.1 (by decide +kernel) (by decide +kernel) (by decide +kernel)).completes

theorem witness_Doorbell_4 (h : Obligations.Doorbell) : Completes (.doorbell 0 0 0 5#32) (queued {}) :=
  ((h 0 0 0 5#32 (queued {})).2.2.2.1 (by decide +kernel)).completes

theorem witness_Doorbell_5 (h : Obligations.Doorbell) : Completes (.doorbell 1 0 0 5#32) (queued {}) :=
  ((h 1 0 0 5#32 (queued {})).2.2.2.2.1 (by decide +kernel)).completes

theorem witness_Doorbell_6 (h : Obligations.Doorbell) : Completes (.doorbell 0 0 0 17#32) (queued { st := .running }) :=
  ((h 0 0 0 17#32 (queued { st := .running })).2.2.2.2.2 (by decide +kernel) (by decide +kernel) (by decide +kernel) (by decide +kernel) (by decide +kernel)).completes

theorem witness_QueueControl_1 (h : Obligations.QueueControl) : Completes (.qcontrolEnable tenant 0 0) (queued {}) :=
  ((h tenant 0 0 (queued {}) modInst).1 (by decide +kernel) (by decide +kernel) (by decide +kernel)).completes

theorem witness_QueueControl_2 (h : Obligations.QueueControl) : Completes (.qcontrolEnable tenant 0 0) (queued { st := .halted }) :=
  ((h tenant 0 0 (queued { st := .halted }) modInst).2.1 (by decide +kernel) (by decide +kernel)).completes

theorem witness_QueueControl_3 (h : Obligations.QueueControl) : Completes (.qcontrolResume tenant 0 0) (queued { st := .halted }) :=
  ((h tenant 0 0 (queued { st := .halted }) modInst).2.2.1 (by decide +kernel) (by decide +kernel)).completes

theorem witness_QueueControl_4 (h : Obligations.QueueControl) : Completes (.qcontrolResume tenant 0 0) (queued {}) :=
  ((h tenant 0 0 (queued {}) modInst).2.2.2.1 (by decide +kernel) (by decide +kernel)).completes

theorem witness_QueueControl_5 (h : Obligations.QueueControl) : Completes (.qcontrolSkip tenant 0 0) (queued { st := .halted, halt := 9 }) :=
  ((h tenant 0 0 (queued { st := .halted, halt := 9 }) modInst).2.2.2.2.1 (by decide +kernel) (by decide +kernel) (by decide +kernel)).completes

theorem witness_QueueControl_6 (h : Obligations.QueueControl) : Completes (.qcontrolSkip tenant 0 0) (queued { st := .halted, halt := 10 }) :=
  ((h tenant 0 0 (queued { st := .halted, halt := 10 }) modInst).2.2.2.2.2.1 (by decide +kernel) (by decide +kernel)).completes

theorem witness_QueueControl_7 (h : Obligations.QueueControl) : Completes (.qcontrolDisable tenant 0 0) (queued { st := .running }) :=
  ((h tenant 0 0 (queued { st := .running }) modInst).2.2.2.2.2.2.1 (by decide +kernel) (by decide +kernel)).completes

theorem witness_QueueControl_8 (h : Obligations.QueueControl) : Completes (.qcontrolDisable tenant 0 0) (queued {}) :=
  ((h tenant 0 0 (queued {}) modInst).2.2.2.2.2.2.2.1 (by decide +kernel) (by decide +kernel) (by decide +kernel)).completes

theorem witness_QueueControl_9 (h : Obligations.QueueControl) : Completes (.queueHoldWrite tenant 0 0 true) (queued {}) :=
  ((h tenant 0 0 (queued {}) modInst).2.2.2.2.2.2.2.2 true (by decide +kernel)).completes

/-- A queue that has one descriptor to fetch: a FENCE of scope 0, or one with an undefined opcode. -/
def fetching (o : Nat) : State :=
  { queued { st := .running, accepted := 1 } with mem := ({} : Memory).write 1 0x100000 [BitVec.ofNat 8 o, 0#8] }

theorem witness_FetchAndRecord_1 (h : Obligations.FetchAndRecord) : Completes (.descriptorFetch 0 0) (fetching 0x32) :=
  ((h.1 0 0 (fetching 0x32) _ 0 0 _ (by decide +kernel) (by decide +kernel) (by decide +kernel) (Prod.ext rfl (by decide +kernel))).1 (by decide +kernel)).completes

theorem witness_FetchAndRecord_2 (h : Obligations.FetchAndRecord) : Completes (.descriptorFetch 0 0) (fetching 0xFF) :=
  ((h.1 0 0 (fetching 0xFF) _ 0 0 _ (by decide +kernel) (by decide +kernel) (by decide +kernel) (Prod.ext rfl (by decide +kernel))).2 (by decide +kernel) (by decide +kernel) (by decide +kernel)).completes

theorem witness_FetchAndRecord_3 (h : Obligations.FetchAndRecord) : Completes (.completionRecordWrite 0 0) (queued { st := .running, accepted := 1, records := [0], cmds := [{ finished := true, committed := true }] }) :=
  (h.2 0 0 (queued { st := .running, accepted := 1, records := [0], cmds := [{ finished := true, committed := true }] }) _ 0 0 [] { finished := true, committed := true } (by decide +kernel) (by decide +kernel) (by decide +kernel) (by decide +kernel) (Prod.ext rfl (by decide +kernel))).completes

def oneCmd (k : Cmd) : State := queued { st := .running, accepted := 1, nextFetch := 1, cmds := [k] }

theorem witness_OrderingCommands_1 (h : Obligations.OrderingCommands) : Completes (.wait 0 0) (oneCmd (cmdOf opWait [])) :=
  ((h.1 0 0 (oneCmd (cmdOf opWait [])) (cmdOf opWait []) (by decide +kernel) (by decide +kernel) (by decide +kernel)).1 (by decide +kernel) (by decide +kernel)).completes

theorem witness_OrderingCommands_2 (h : Obligations.OrderingCommands) : Completes (.signal 0 0 true) (oneCmd (cmdOf opSignal (zeros 16 ++ [7#8, 0#8, 0#8, 0#8, 0#8, 0#8, 0#8, 0#8, 255#8, 0#8, 1#8]))) :=
  ((h.1 0 0 (oneCmd (cmdOf opSignal (zeros 16 ++ [7#8, 0#8, 0#8, 0#8, 0#8, 0#8, 0#8, 0#8, 255#8, 0#8, 1#8]))) (cmdOf opSignal (zeros 16 ++ [7#8, 0#8, 0#8, 0#8, 0#8, 0#8, 0#8, 0#8, 255#8, 0#8, 1#8])) (by decide +kernel) (by decide +kernel) (by decide +kernel)).2.1 true (by decide +kernel) (by decide +kernel) (by decide +kernel) (by decide +kernel) (by decide +kernel)).completes

theorem witness_OrderingCommands_3 (h : Obligations.OrderingCommands) : Completes (.fence 0 0) (oneCmd (cmdOf opFence [])) :=
  ((h.1 0 0 (oneCmd (cmdOf opFence [])) (cmdOf opFence []) (by decide +kernel) (by decide +kernel) (by decide +kernel)).2.2.1 (by decide +kernel) (by decide +kernel)).completes

theorem witness_OrderingCommands_4 (h : Obligations.OrderingCommands) : Completes (.stepMark 0 0) (oneCmd (cmdOf opStep (zeros 16 ++ [1#8]))) :=
  ((h.1 0 0 (oneCmd (cmdOf opStep (zeros 16 ++ [1#8]))) (cmdOf opStep (zeros 16 ++ [1#8])) (by decide +kernel) (by decide +kernel) (by decide +kernel)).2.2.2 (by decide +kernel) (by decide +kernel) (by decide +kernel)).completes

theorem witness_OrderingCommands_5 (h : Obligations.OrderingCommands) : Completes (.waitTimeout 0 0) (oneCmd (cmdOf opWait (zeros 16 ++ [1#8]))) :=
  (h.2.1 0 0 (oneCmd (cmdOf opWait (zeros 16 ++ [1#8]))) (cmdOf opWait (zeros 16 ++ [1#8])) (by decide +kernel)).completes

theorem witness_OrderingCommands_6 (h : Obligations.OrderingCommands) : Completes (.signalValueWrite tenant 255 9#64 false) (st lab) :=
  (h.2.2 tenant 255 9#64 false (st lab) 0 (by decide +kernel) (by decide +kernel)).completes

/-- A command of queue 0 of Ridge 0 whose unit 0 stands on Spur 0. -/
def working (k : Cmd) (x : SpurUnit) : State :=
  st ((lab.setQueue 0 0 { st := .running, cmds := [k] }).updSpur 0 0 (fun s => { s with unit := some x }))

/-- A descriptor of rows, columns and contracted length, all BF16, its operands in the Ridge scratchpad. -/
def mmDesc (o : Nat) : List Byte :=
  leBytes 8 o ++ leBytes 8 0x11 ++ leBytes 8 (2 ^ 62) ++ leBytes 8 (2 ^ 62 + 0x1000) ++ leBytes 8 (2 ^ 62 + 0x2000) ++ leBytes 4 1 ++ leBytes 4 1 ++ leBytes 4 32 ++
  leBytes 4 128 ++ leBytes 4 128 ++ leBytes 4 128
def one64 : List Byte := (List.replicate 32 [0x80#8, 0x3F#8]).flatten
def mmCmd : Cmd := cmdOf opMM (mmDesc opMM)
def accCmd : Cmd := cmdOf opMMAcc (mmDesc opMMAcc)
def loaded : SpurUnit := { phase := 1, stageA := [one64], stageB := [one64] }

theorem witness_ComputeUnits_1 (h : Obligations.ComputeUnits) : Completes (.mm 0 0) (working mmCmd loaded) :=
  ((h 0 0 ⟨loaded, mmCmd, 0, 0⟩ (working mmCmd loaded) (by decide +kernel) (by decide +kernel)).1 (by decide +kernel) (by decide +kernel) (by decide +kernel)).completes

theorem witness_ComputeUnits_2 (h : Obligations.ComputeUnits) : Completes (.mmAcc 0 0) (working accCmd loaded) :=
  ((h 0 0 ⟨loaded, accCmd, 0, 0⟩ (working accCmd loaded) (by decide +kernel) (by decide +kernel)).2.1 ((working accCmd loaded).priorRows 0 0 ⟨loaded, accCmd, 0, 0⟩).1 [[0#32]] (by decide +kernel) (by decide +kernel) (by decide +kernel) (Prod.ext rfl (by decide +kernel)) (by decide +kernel)).completes

/-- A vector program of one instruction: VBCAST of an immediate-free register copy, over one row. -/
def vecCmd : Cmd := { cmdOf opVec (leBytes 8 opVec ++ zeros 48 ++ leBytes 4 1 ++ leBytes 2 1 ++ leBytes 2 1) with
  prog := zeros 64 ++ leBytes 8 1, progRead := true }
def convCmd : Cmd := cmdOf 0x18 (leBytes 8 0x18 ++ leBytes 8 0x01 ++ leBytes 8 (2 ^ 62) ++ leBytes 8 (2 ^ 62 + 0x1000) ++ leBytes 4 1 ++ leBytes 4 64 ++ leBytes 4 128 ++
  leBytes 4 128)

theorem witness_ComputeUnits_3 (h : Obligations.ComputeUnits) : Completes (.vec 0 0) (working vecCmd { phase := 1 }) :=
  ((h 0 0 ⟨{ phase := 1 }, vecCmd, 0, 0⟩ (working vecCmd { phase := 1 }) (by decide +kernel) (by decide +kernel)).2.2.1 (State.vecRun 0 0 ⟨{ phase := 1 }, vecCmd, 0, 0⟩ [0] {} (working vecCmd { phase := 1 })).1 (State.vecRun 0 0 ⟨{ phase := 1 }, vecCmd, 0, 0⟩ [0] {} (working vecCmd { phase := 1 })).2.2 (by decide +kernel) (by decide +kernel) (Prod.ext rfl (Prod.ext (by decide +kernel) rfl))).completes

theorem witness_ComputeUnits_4 (h : Obligations.ComputeUnits) : Completes (.convert 0 0) (working convCmd { phase := 1 }) :=
  ((h 0 0 ⟨{ phase := 1 }, convCmd, 0, 0⟩ (working convCmd { phase := 1 }) (by decide +kernel) (by decide +kernel)).2.2.2 (State.convRun 0 0 ⟨{ phase := 1 }, convCmd, 0, 0⟩ (convCmd.convSpans 0) {} (working convCmd { phase := 1 })).1 (State.convRun 0 0 ⟨{ phase := 1 }, convCmd, 0, 0⟩ (convCmd.convSpans 0) {} (working convCmd { phase := 1 })).2.2 (by decide +kernel) (by decide +kernel) (Prod.ext rfl (Prod.ext (by decide +kernel) rfl))).completes

def mmWork (x : SpurUnit) : Work := ⟨x, mmCmd, 0, 0⟩
def tile0 : State := working mmCmd {}
def staged (x : State × Except AccFail (List (List Byte))) : List (List Byte) := match x.2 with | .ok l => l | .error _ => []

theorem witness_UnitsOfWork_1 (h : Obligations.UnitsOfWork) : Completes (.tileLoadDone 0 0 []) (tile0) :=
  ((h.1 0 0 (mmWork {}) tile0 (by decide +kernel)).1 _ _ _ (staged (tile0.tileRows 0 0 (mmWork {}) false)) (staged ((tile0.tileRows 0 0 (mmWork {}) false).1.tileRows 0 0 (mmWork {}) true)) (by decide +kernel) (by decide +kernel) (by decide +kernel) (by decide +kernel) (Prod.ext rfl (by decide +kernel)) (Prod.ext rfl (by decide +kernel)) (Prod.ext rfl (by decide +kernel)) (by decide +kernel)).completes

theorem witness_UnitsOfWork_2 (h : Obligations.UnitsOfWork) : Completes (.tileWriteback 0 0) (working mmCmd { phase := 2 }) :=
  ((h.1 0 0 (mmWork { phase := 2 }) (working mmCmd { phase := 2 }) (by decide +kernel)).2.1 _ (State.writeTile 0 0 (mmWork { phase := 2 }) [0] {} ((working mmCmd { phase := 2 }).probeDest 0 (mmWork { phase := 2 })).1).1 (State.writeTile 0 0 (mmWork { phase := 2 }) [0] {} ((working mmCmd { phase := 2 }).probeDest 0 (mmWork { phase := 2 })).1).2.2 (by decide +kernel) (Prod.ext rfl (by decide +kernel)) (Prod.ext rfl (Prod.ext (by decide +kernel) rfl)) (by decide +kernel)).completes

theorem witness_UnitsOfWork_3 (h : Obligations.UnitsOfWork) : Completes (.workUnitDone 0 0 100 7) (working mmCmd { phase := 3 }) :=
  ((h.1 0 0 (mmWork { phase := 3 }) (working mmCmd { phase := 3 }) (by decide +kernel)).2.2 100 7 (by decide +kernel) (by decide +kernel) (by decide +kernel)).completes

def runAt (policy : Nat) : Cmd := { mmCmd with runCount := 3, cfg := { runLimit := 3, policy := policy }, issued := [(0, 0)] }

theorem witness_UnitsOfWork_4 (h : Obligations.UnitsOfWork) : Completes (.shadowTriggered 0 0 0#32) (oneCmd (runAt 0)) :=
  ((h.2 0 0 0#32 (runAt 0) (oneCmd (runAt 0)) (by decide +kernel)).1 (by decide +kernel) (by decide +kernel)).completes

theorem witness_UnitsOfWork_5 (h : Obligations.UnitsOfWork) : Completes (.shadowTriggered 0 0 0#32) (oneCmd (runAt 2)) :=
  ((h.2 0 0 0#32 (runAt 2) (oneCmd (runAt 2)) (by decide +kernel)).1 (by decide +kernel) (by decide +kernel)).completes

theorem witness_UnitsOfWork_6 (h : Obligations.UnitsOfWork) : Completes (.sliceOverrun 0 0 0#32 0#32) (st { (oneCmd (runAt 0)).chip with frame := 2 }) :=
  ((h.2 0 0 0#32 (runAt 0) (st { (oneCmd (runAt 0)).chip with frame := 2 }) (by decide +kernel)).2 0#32 (0, 0) (by decide +kernel) (by decide +kernel) (by decide +kernel) (by decide +kernel) (by decide +kernel) (by decide +kernel)).completes

/-- A copy of one row of two lines between places of the Ridge scratchpad, the unit at its first line; the index array is at 0x4000. -/
def copyCmd (o : Nat) : Cmd := cmdOf o (leBytes 8 o ++ zeros 8 ++ leBytes 8 (2 ^ 62) ++ leBytes 8 (2 ^ 62 + 0x1000) ++ leBytes 8 (2 ^ 62 + 0x4000) ++ leBytes 4 256 ++ leBytes 4 1 ++
  leBytes 4 256 ++ leBytes 4 256 ++ leBytes 4 1)
def copying (o idx line : Nat) (form : DmaForm) : State :=
  st (((lab.setQueue 0 0 { st := .running, cmds := [copyCmd o] }).updRidge 0 (fun r => { r with
    dma := [(31, { form := form, line := line, lines := 2, engine := some 0 })] })).spadWrite 0 17 0x4000 (leBytes 4 idx))
def unit2 (form : DmaForm) (line : Nat) : DmaUnit := { form := form, line := line, lines := 2, engine := some 0 }

theorem witness_DmaUnits_1 (h : Obligations.DmaUnits) : Completes (.move 0 31 1) (copying opMove 0 0 .linear) :=
  ((h.1 0 31 0 (unit2 .linear 0) (copyCmd opMove) (copying opMove 0 0 .linear) (by decide +kernel) (by decide +kernel) (by decide +kernel)).1 (by decide +kernel) (by decide +kernel) |>.1 _ _ (zeros 128) (by decide +kernel) (Prod.ext rfl (by decide +kernel)) (Prod.ext rfl (by decide +kernel))).completes

theorem witness_DmaUnits_2 (h : Obligations.DmaUnits) : Completes (.gather 0 31 1) (copying opGather 0 0 .indexedRead) :=
  ((((h.1 0 31 0 (unit2 .indexedRead 0) (copyCmd opGather) (copying opGather 0 0 .indexedRead) (by decide +kernel) (by decide +kernel) (by decide +kernel)).1 (by decide +kernel) (by decide +kernel)).2 _ (zeros 4) (Prod.ext rfl (by decide +kernel))).1 (by decide +kernel) _ _ (zeros 128) |>.1 (by decide +kernel) (Prod.ext rfl (by decide +kernel)) (Prod.ext rfl (by decide +kernel))).completes

theorem witness_DmaUnits_3 (h : Obligations.DmaUnits) : Completes (.scatter 0 31 1) (copying opScatter 0 0 .indexedWrite) :=
  ((((h.1 0 31 0 (unit2 .indexedWrite 0) (copyCmd opScatter) (copying opScatter 0 0 .indexedWrite) (by decide +kernel) (by decide +kernel) (by decide +kernel)).1 (by decide +kernel) (by decide +kernel)).2 _ (zeros 4) (Prod.ext rfl (by decide +kernel))).1 (by decide +kernel) _ _ (zeros 128) |>.2 (by decide +kernel) (Prod.ext rfl (by decide +kernel)) (Prod.ext rfl (by decide +kernel))).completes

theorem witness_DmaUnits_4 (h : Obligations.DmaUnits) : Completes (.gather 0 31 1) (copying opGather 1 0 .indexedRead) :=
  ((((h.1 0 31 0 (unit2 .indexedRead 0) (copyCmd opGather) (copying opGather 1 0 .indexedRead) (by decide +kernel) (by decide +kernel) (by decide +kernel)).1 (by decide +kernel) (by decide +kernel)).2 _ [1#8, 0#8, 0#8, 0#8] (Prod.ext rfl (by decide +kernel))).2 (by decide +kernel) |>.1 _ (by decide +kernel) (Prod.ext rfl (by decide +kernel))).completes

theorem witness_DmaUnits_5 (h : Obligations.DmaUnits) : Completes (.scatter 0 31 1) (copying opScatter 1 0 .indexedWrite) :=
  ((((h.1 0 31 0 (unit2 .indexedWrite 0) (copyCmd opScatter) (copying opScatter 1 0 .indexedWrite) (by decide +kernel) (by decide +kernel) (by decide +kernel)).1 (by decide +kernel) (by decide +kernel)).2 _ [1#8, 0#8, 0#8, 0#8] (Prod.ext rfl (by decide +kernel))).2 (by decide +kernel) |>.2 (by decide +kernel)).completes

theorem witness_DmaUnits_6 (h : Obligations.DmaUnits) : Completes (.dmaUnitDone 0 31 []) (copying opMove 0 2 .linear) :=
  ((h.1 0 31 0 (unit2 .linear 2) (copyCmd opMove) (copying opMove 0 2 .linear) (by decide +kernel) (by decide +kernel) (by decide +kernel)).2 (by decide +kernel) (by decide +kernel) (by decide +kernel) (by decide +kernel)).completes

/-- A WATCH of 128 bytes of the Ridge scratchpad for a step. -/
def watchCmd (step : Nat) : Cmd := { cmdOf opWatch (leBytes 8 opWatch ++ zeros 8 ++ leBytes 8 (2 ^ 62) ++ leBytes 4 128 ++ zeros 4 ++ leBytes 8 step) with
  started := false, cfgRead := false }
def watchRing (k : Cmd) : State := (oneCmd k).on (fun c => (c.set 0 Obj.WATCH_BASE 0x100000).set 0 Obj.WATCH_BYTES 65536)

theorem witness_DmaUnits_7 (h : Obligations.DmaUnits) : Completes (.watch 0 0 0 1) (oneCmd (watchCmd 5)) :=
  ((h.2 0 0 0 1 0 (watchCmd 5) (oneCmd (watchCmd 5)) (by decide +kernel) (by decide +kernel)).1 (by decide +kernel) (by decide +kernel) |>.1 (by decide +kernel)).completes

theorem witness_DmaUnits_8 (h : Obligations.DmaUnits) : Completes (.watch 0 0 0 1) (oneCmd (watchCmd watchAll)) :=
  ((h.2 0 0 0 1 0 (watchCmd watchAll) (oneCmd (watchCmd watchAll)) (by decide +kernel) (by decide +kernel)).1 (by decide +kernel) (by decide +kernel) |>.2.1 (by decide +kernel) (by decide +kernel)).completes

theorem witness_DmaUnits_9 (h : Obligations.DmaUnits) : Completes (.watch 0 0 0 1) (watchRing (watchCmd 0)) :=
  ((h.2 0 0 0 1 0 (watchCmd 0) (watchRing (watchCmd 0)) (by decide +kernel) (by decide +kernel)).1 (by decide +kernel) (by decide +kernel) |>.2.2 (by decide +kernel) (by decide +kernel) (by decide +kernel)).completes

def dumping : Cmd := { watchCmd 0 with started := true, cfgRead := true, watch := some { base := 0x100000, bytes := 65536 } }
def dumpUnit : DmaUnit := { form := .watchCopy, lines := 1, engine := some 3 }
def copyingWatch : State := (oneCmd dumping).on (fun c => c.updRidge 0 (fun r => { r with dma := [(5, dumpUnit)] }))

theorem witness_DmaUnits_10 (h : Obligations.DmaUnits) : Completes (.watch 0 0 5 1) (copyingWatch) :=
  ((h.2 0 0 5 1 0 dumping copyingWatch (by decide +kernel) (by decide +kernel)).2 dumpUnit { base := 0x100000, bytes := 65536 } _ (zeros 128) (by decide +kernel) (by decide +kernel) (by decide +kernel) (by decide +kernel) (by decide +kernel) (by decide +kernel) (by decide +kernel) (by decide +kernel) (Prod.ext rfl (by decide +kernel))).completes

/-- A module whose time unit is phased, with a freeze pending for frame 1. -/
def frozenSoon : State := st (put { lab with time := { phased := true } } [(Obj.FREEZE_STATE, 1), (Obj.FREEZE_AT, 1)])
def quietFrame : FrameData := ⟨0x43480000#32, [], [], 0#32, 0#32, [], []⟩
def quietTick : TickData := ⟨0x42400000#32, 0x3F800000#32, 0x43480000#32, [0x41A00000#32], [], [], []⟩

theorem witness_FrameAndTick_1 (h : Obligations.FrameAndTick) : Completes (.frameBoundary quietFrame) (frozenSoon) :=
  ((h.1 quietFrame frozenSoon).1 (by decide +kernel) (by decide +kernel)).completes

theorem witness_FrameAndTick_2 (h : Obligations.FrameAndTick) : Completes (.frameBoundary quietFrame) (st lab) :=
  ((h.1 quietFrame (st lab)).2 (by decide +kernel)).completes

theorem witness_FrameAndTick_3 (h : Obligations.FrameAndTick) : Completes (.tickEdge quietTick) (st lab) :=
  ((h.2 quietTick (st lab)).1 (by decide +kernel) (by decide +kernel)).completes

theorem witness_FrameAndTick_4 (h : Obligations.FrameAndTick) : Completes (.tickEdge quietTick) (State.reset) :=
  ((h.2 quietTick State.reset).2 (by decide +kernel)).completes

/-- The laboratory with link 5 up for partition 0 to the module 77 and a route 0 to it. -/
def labLink : Chip :=
  { lab.setBlob 0 Obj.ROUTE_ENTRY (leBytes 10 (77 + 3 * 2 ^ 64 + 2 ^ 72)) with
    links := [(5, { part := some 0, state := linkUp, fibre := 3, peer := 77, credit := [(0, 9), (1, 9), (2, 9), (3, 9)] })]
    lanes := [(7, { state := laneActive, link := some 5 })] }
/-- A fabric command of 256 bytes at the start of the Ridge scratchpad, channel 1, transfer 9. -/
def fabCmd (o : Nat) (started : Bool) : Cmd := { cmdOf o (leBytes 8 o ++ zeros 8 ++ leBytes 8 (2 ^ 62) ++ leBytes 8 (2 ^ 62 + 0x1000) ++ leBytes 4 256 ++ leBytes 4 9 ++
  leBytes 2 0 ++ leBytes 2 1) with started := started, link := if started then some 5 else none }
def fabric (c : Chip) (k : Cmd) : State := st (c.setQueue 0 0 { st := .running, accepted := 1, nextFetch := 1, cmds := [k] })

theorem witness_FabricCommands_1 (h : Obligations.FabricCommands) : Completes (.send 0 0) (fabric labLink (fabCmd opSend false)) :=
  ((h 0 0 (fabCmd opSend false) (fabric labLink (fabCmd opSend false)) (by decide +kernel)).1 (by decide +kernel) (by decide +kernel) |>.1 5 (by decide +kernel)).completes

theorem witness_FabricCommands_2 (h : Obligations.FabricCommands) : Completes (.send 0 0) (fabric lab (fabCmd opSend false)) :=
  ((h 0 0 (fabCmd opSend false) (fabric lab (fabCmd opSend false)) (by decide +kernel)).1 (by decide +kernel) (by decide +kernel) |>.2 (by decide +kernel)).completes

def segUnit : DmaUnit := { form := .fabricOut, lines := 2, engine := some 0 }
def sendable : State := fabric (labLink.updRidge 0 (fun r => { r with dma := [(3, segUnit)] })) { fabCmd opSend true with cts := true }

theorem witness_FabricCommands_3 (h : Obligations.FabricCommands) : Completes (.send 0 0) (sendable) :=
  ((h 0 0 { fabCmd opSend true with cts := true } sendable (by decide +kernel)).2.1 3 segUnit 5 (sendable.readOp 0 0 0 0 (2 ^ 62) 256).1 (zeros 256) (by decide +kernel) (by decide +kernel) (by decide +kernel) (by decide +kernel) (Prod.ext rfl (by decide +kernel))).completes

theorem witness_FabricCommands_4 (h : Obligations.FabricCommands) : Completes (.recv 0 0) (fabric labLink (fabCmd opRecv false)) :=
  ((h 0 0 (fabCmd opRecv false) (fabric labLink (fabCmd opRecv false)) (by decide +kernel)).2.2.1 opRecv (by decide +kernel) (by decide +kernel) (by decide +kernel) (by decide +kernel) (by decide +kernel) (by decide +kernel) (by decide +kernel)).completes

theorem witness_FabricCommands_5 (h : Obligations.FabricCommands) : Completes (.reduceRecv 0 0) (fabric labLink (fabCmd opReduce false)) :=
  ((h 0 0 (fabCmd opReduce false) (fabric labLink (fabCmd opReduce false)) (by decide +kernel)).2.2.1 opReduce (by decide +kernel) (by decide +kernel) (by decide +kernel) (by decide +kernel) (by decide +kernel) (by decide +kernel) (by decide +kernel)).completes

theorem witness_FabricCommands_6 (h : Obligations.FabricCommands) : Completes (.fabricTimeout 0 0 0#32) (fabric lab (fabCmd opSend true)) :=
  ((h 0 0 (fabCmd opSend true) (fabric lab (fabCmd opSend true)) (by decide +kernel)).2.2.2 0#32 (by decide +kernel) (by decide +kernel) (by decide +kernel) (by decide +kernel)).completes

theorem witness_FabricCommands_7 (h : Obligations.FabricCommands) : Completes (.fabricTimeout 0 0 0#32) (fabric labLink (fabCmd opSend true)) :=
  ((h 0 0 (fabCmd opSend true) (fabric labLink (fabCmd opSend true)) (by decide +kernel)).2.2.2 0#32 (by decide +kernel) (by decide +kernel) (by decide +kernel) (by decide +kernel)).completes

theorem witness_FabricMessages_1 (h : Obligations.FabricMessages) : Completes (.rtsReceived 5 1 9 256) (st labLink) :=
  ((h 5 1 9 0 (st labLink) (by decide +kernel) (by decide +kernel)).1 256 (by decide +kernel) (by decide +kernel) (by decide +kernel) (by decide +kernel)).completes

def posted : State := fabric (labLink.openXfer 0 1 9 1) { fabCmd opRecv true with link := none }
def probed : State := (State.probePages 0 0 0 true (pieces 2 (addrOf (2 ^ 62)) 256) (posted.on (fun c => c.updCmd 0 0 0 (fun k => { k with link := some 5 })))).1

theorem witness_FabricMessages_2 (h : Obligations.FabricMessages) : Completes (.rtsReceived 5 1 9 256) (posted) :=
  ((h 5 1 9 0 posted (by decide +kernel) (by decide +kernel)).2.1 0 0 { fabCmd opRecv true with link := none } 256 probed (by decide +kernel) (by decide +kernel) (by decide +kernel) (by decide +kernel) (by decide +kernel) (by decide +kernel) (by decide +kernel) (Prod.ext rfl (by decide +kernel))).completes

theorem witness_FabricMessages_3 (h : Obligations.FabricMessages) : Completes (.ctsReceived 5 1 9 0 false) (fabric labLink (fabCmd opSend true)) :=
  (((h 5 1 9 0 (fabric labLink (fabCmd opSend true)) (by decide +kernel) (by decide +kernel)).2.2.1 0 0 (fabCmd opSend true) (by decide +kernel) (by decide +kernel) (by decide +kernel)).1 0 false (by decide +kernel)).completes

theorem witness_FabricMessages_4 (h : Obligations.FabricMessages) : Completes (.completeReceived 5 1 9) (fabric labLink (fabCmd opSend true)) :=
  (((h 5 1 9 0 (fabric labLink (fabCmd opSend true)) (by decide +kernel) (by decide +kernel)).2.2.1 0 0 (fabCmd opSend true) (by decide +kernel) (by decide +kernel) (by decide +kernel)).2.1).completes

theorem witness_FabricMessages_5 (h : Obligations.FabricMessages) : Completes (.refuseReceived 5 1 9 1) (fabric labLink (fabCmd opSend true)) :=
  (((h 5 1 9 0 (fabric labLink (fabCmd opSend true)) (by decide +kernel) (by decide +kernel)).2.2.1 0 0 (fabCmd opSend true) (by decide +kernel) (by decide +kernel) (by decide +kernel)).2.2.1).completes

theorem witness_FabricMessages_6 (h : Obligations.FabricMessages) : Completes (.refuseReceived 5 1 9 2) (fabric labLink (fabCmd opSend true)) :=
  (((h 5 1 9 0 (fabric labLink (fabCmd opSend true)) (by decide +kernel) (by decide +kernel)).2.2.1 0 0 (fabCmd opSend true) (by decide +kernel) (by decide +kernel) (by decide +kernel)).2.2.2.1).completes

theorem witness_FabricMessages_7 (h : Obligations.FabricMessages) : Completes (.segAckReceived 5 1 9 0 false) (sendable) :=
  (((h 5 1 9 0 sendable (by decide +kernel) (by decide +kernel)).2.2.1 0 0 { fabCmd opSend true with cts := true } (by decide +kernel) (by decide +kernel) (by decide +kernel)).2.2.2.2 0 false (by decide +kernel) (by decide +kernel)).completes

def filled : List Byte := List.replicate 256 7#8

theorem witness_FabricMessages_8 (h : Obligations.FabricMessages) : Completes (.segmentReceived 5 1 9 0 filled false) (posted) :=
  ((h 5 1 9 0 posted (by decide +kernel) (by decide +kernel)).2.2.2.1 0 0 { fabCmd opRecv true with link := none } { tid := 9, total := 1 } 0 filled false (posted.writeOp 0 0 0 0 (2 ^ 62) filled).1 (by decide +kernel) (by decide +kernel) (by decide +kernel) (by decide +kernel) (by decide +kernel) (by decide +kernel) (by decide +kernel) (Prod.ext rfl (by decide +kernel))).completes

def markedSeg : State := posted.on (fun c => c.mark 0 1 9 0)

theorem witness_FabricMessages_9 (h : Obligations.FabricMessages) : Completes (.segmentReceived 5 1 9 0 filled false) (markedSeg) :=
  ((h 5 1 9 0 markedSeg (by decide +kernel) (by decide +kernel)).2.2.2.2 { tid := 9, marks := [0], total := 1 } 0 filled false (by decide +kernel) (by decide +kernel) (by decide +kernel)).completes

def moving : DmaUnit := { form := .linear, lines := 4, engine := some 0 }
def movingCmd : Cmd := { cmdOf opMove (leBytes 8 opMove) with started := true }
/-- A copy under way whose source line stands at the start of the stack of Ridge 0. -/
def copyNear : State := st ((lab.setQueue 0 0 { st := .running, cmds := [movingCmd] }).updRidge 0 (fun r => { r with dma := [(3, moving)] }))

theorem witness_MemoryErrors_1 (h : Obligations.MemoryErrors) : Completes (.memUncorrectable 0x80#64 0 (.dma 0 3) 0 0#48) (copyNear) :=
  (h.1 0x80#64 0 0 3 0#48 moving 0 0x80 copyNear (by decide +kernel) (by decide +kernel) (by decide +kernel) (by decide +kernel)).completes

theorem witness_MemoryErrors_2 (h : Obligations.MemoryErrors) : Completes (.patrolScrub 0 [] [(0x80#64, 0)] false false) (copyNear) :=
  (h.2.1 0 0x80#64 0 0x80 copyNear (by decide +kernel) (by decide +kernel) (by decide +kernel) (by decide +kernel)).completes

def counted : State := st (put { lab with units := [(0, { backed := 2 ^ 32, ceFrames := [(0, 9)], ceSources := [(35, 9)] }), (17, { backed := 2 ^ 32, ceSources := [(35, 9)] })] }
  [(Obj.CE_SOURCE_LIMIT, 9), (Obj.CE_FRAME_LIMIT, 9), (Obj.FAR_STATE, 0), (Obj.FAR_STATE + 1, 0), (Obj.FAR_STATE + 15, 0)])

theorem witness_MemoryErrors_3 (h : Obligations.MemoryErrors) : Completes (.patrolScrub 0 [] [] true true) (counted) :=
  (h.2.2.1 0 counted).completes

theorem witness_MemoryErrors_4 (h : Obligations.MemoryErrors) : Completes (.erasureMarked 0 1 3) (counted) :=
  (h.2.2.2.1 0 1 3 counted (by decide +kernel) (by decide +kernel) (by decide +kernel) (by decide +kernel)).completes

theorem witness_MemoryErrors_5 (h : Obligations.MemoryErrors) : Completes (.erasureMarked 17 1 3) (counted) :=
  (h.2.2.2.1 17 1 3 counted (by decide +kernel) (by decide +kernel) (by decide +kernel) (by decide +kernel)).completes

theorem witness_MemoryErrors_6 (h : Obligations.MemoryErrors) : Completes (.frameSoftRetire 0x80#64) (counted) :=
  ((h.2.2.2.2.1 0x80#64 0 0x80 counted (by decide +kernel) (by decide +kernel) (by decide +kernel) (by decide +kernel) (by decide +kernel)).2 0 (by decide +kernel) (by decide +kernel)).completes

def unowned : State := counted.on (fun c => c.setReg Obj.WS_APPLIED_RIDGES 0)

theorem witness_MemoryErrors_7 (h : Obligations.MemoryErrors) : Completes (.frameSoftRetire 0x80#64) (unowned) :=
  ((h.2.2.2.2.1 0x80#64 0 0x80 unowned (by decide +kernel) (by decide +kernel) (by decide +kernel) (by decide +kernel) (by decide +kernel)).1 (by decide +kernel) (by decide +kernel)).completes

theorem witness_MemoryErrors_8 (h : Obligations.MemoryErrors) : Completes (.memOutOfService 0) (counted) :=
  (h.2.2.2.2.2 0 counted (by decide +kernel)).completes

theorem witness_MemoryErrors_9 (h : Obligations.MemoryErrors) : Completes (.memOutOfService 31) (counted) :=
  (h.2.2.2.2.2 31 counted (by decide +kernel)).completes

theorem witness_ErasureClearAndTemperatures_1 (h : Obligations.ErasureClearAndTemperatures) : Completes (.erasureClear service 0 (zeros 128)) (counted) :=
  ((h.1 service 0 (zeros 128) { id := 3, cls := 3 } counted modInst (by decide +kernel) (by decide +kernel)).1 (by decide +kernel) (by decide +kernel)).completes

theorem witness_ErasureClearAndTemperatures_2 (h : Obligations.ErasureClearAndTemperatures) : Completes (.erasureClear operator 17 (zeros 8)) (counted) :=
  ((h.1 operator 17 (zeros 8) { id := 1, cls := 2 } counted modInst (by decide +kernel) (by decide +kernel)).2 (by decide +kernel)).completes

theorem witness_ErasureClearAndTemperatures_3 (h : Obligations.ErasureClearAndTemperatures) : Completes (.stackTempSample 0 (f32OfInt 106)) (counted) :=
  ((h.2.1 0 (f32OfInt 106) counted (by decide +kernel) (by decide +kernel) (by decide +kernel)).1 (by decide +kernel)).completes

theorem witness_ErasureClearAndTemperatures_4 (h : Obligations.ErasureClearAndTemperatures) : Completes (.stackTempSample 0 (f32OfInt 105)) (counted) :=
  ((h.2.1 0 (f32OfInt 105) counted (by decide +kernel) (by decide +kernel) (by decide +kernel)).2.1 (by decide +kernel) (by decide +kernel)).completes

theorem witness_ErasureClearAndTemperatures_5 (h : Obligations.ErasureClearAndTemperatures) : Completes (.stackTempSample 0 (f32OfInt 95)) (counted) :=
  ((h.2.1 0 (f32OfInt 95) counted (by decide +kernel) (by decide +kernel) (by decide +kernel)).2.2 (by decide +kernel) (by decide +kernel)).completes

theorem witness_ErasureClearAndTemperatures_6 (h : Obligations.ErasureClearAndTemperatures) : Completes (.dimmTempRead 0 (some (f32OfInt 40, true))) (counted) :=
  ((h.2.2 0 (f32OfInt 40) true counted (by decide +kernel)).1).completes

theorem witness_ErasureClearAndTemperatures_7 (h : Obligations.ErasureClearAndTemperatures) : Completes (.dimmTempRead 1 none) (counted) :=
  ((h.2.2 1 0#32 false counted (by decide +kernel)).2).completes

theorem witness_MemoryReadBack_1 : State.reset.mem.wf = true ∧ (counted.writePhys 0 0x80 [9#8]).2 = none ∧ (counted.writePhys 8 0x80 [9#8]).2.isSome = true := by decide +kernel

/-- A page-table entry of a page that is not present and that the steward allocates. -/
def npZero : Nat := 2 ^ 10 + 2 ^ 12
/-- Tables of context 0 whose entry of page 1 is `e`, and a ring that gives the frame 0x400000. -/
def tables (e : Nat) : Memory :=
  (((((({} : Memory).write 1 0x200000 (leBytes 8 (1 + 0x201000))).write 1 0x201000 (leBytes 8 (1 + 0x202000))).write 1 0x202000 (leBytes 8 (1 + 0x203000))).write 1
    0x203008 (leBytes 8 e)).write 1 0x300000 (leBytes 8 0x400000))
def labRoot : Chip := (put lab [(atIdx Obj.POOL64_BASE 0, 0x300000), (atIdx Obj.POOL64_BASE 0 + 1, 16), (atIdx Obj.POOL64_BASE 0 + 2, 1)]).set 0 Obj.CTX_ROOT 0x200000
def walking (e : Nat) : State := { chip := labRoot, mem := tables e }
def missing (e : Nat) : FaultInfo := { part := 0, ctx := 0, va := 0x10000, reason := rsSteward, entry := 0x203008, value := e, level := 4, ridge := 0 }

theorem witness_RootsAndInvalidations_1 (h : Obligations.RootsAndInvalidations) : Completes (.ctxRootWrite tenant 0 0x200000) (st lab) :=
  ((h.1 tenant 0 0x200000 (st lab) 0 (by decide +kernel)).1 (by decide +kernel)).completes

theorem witness_RootsAndInvalidations_2 (h : Obligations.RootsAndInvalidations) : Completes (.ctxRootWrite tenant 0 0x200000) (queued { st := .running }) :=
  ((h.1 tenant 0 0x200000 (queued { st := .running }) 0 (by decide +kernel)).2 (by decide +kernel)).completes

theorem witness_RootsAndInvalidations_3 (h : Obligations.RootsAndInvalidations) : Completes (.tlbInvalPages tenant 255 2 15 0xFFFFFFFF) (st lab) :=
  ((h.2.1 tenant (st lab) 0).1 255 2 15 0xFFFFFFFF (by decide +kernel)).completes

theorem witness_RootsAndInvalidations_4 (h : Obligations.RootsAndInvalidations) : Completes (.tlbInvalContext tenant 0) (st lab) :=
  ((h.2.1 tenant (st lab) 0).2.1 0 (by decide +kernel)).completes

theorem witness_RootsAndInvalidations_5 (h : Obligations.RootsAndInvalidations) : Completes (.tlbInvalPartition tenant) (st lab) :=
  ((h.2.1 tenant (st lab) 0).2.2 (by decide +kernel)).completes

def invalidating (v : Nat) : State := st (lab.updPart 0 (fun p => { p with inval := [v] }))

theorem witness_RootsAndInvalidations_6 (h : Obligations.RootsAndInvalidations) : Completes (.tlbInvalDone 0) (invalidating (invalWord 0 1 0 0 0)) :=
  (h.2.2.1 0 (invalWord 0 1 0 0 0) [] (invalidating (invalWord 0 1 0 0 0)) (by decide +kernel)).completes

theorem witness_RootsAndInvalidations_7 (h : Obligations.RootsAndInvalidations) : Completes (.tlbInvalDone 0) (invalidating (invalWord 0 0 0 0 0)) :=
  (h.2.2.1 0 (invalWord 0 0 0 0 0) [] (invalidating (invalWord 0 0 0 0 0)) (by decide +kernel)).completes

theorem witness_RootsAndInvalidations_8 (h : Obligations.RootsAndInvalidations) : Completes (.tlbInvalDone 0) (invalidating (invalWord 0 2 0 0 0)) :=
  (h.2.2.1 0 (invalWord 0 2 0 0 0) [] (invalidating (invalWord 0 2 0 0 0)) (by decide +kernel)).completes

theorem witness_RootsAndInvalidations_9 (h : Obligations.RootsAndInvalidations) : Completes (.walkComplete 0 0 0#48 false []) (st lab) :=
  ((h.2.2.2 0 0 0#48 false (st lab) ((st lab).translate 0 0 0 0 false).1 0 (by decide +kernel)).1 0x100000 (Prod.ext rfl (by decide +kernel))).completes

theorem witness_RootsAndInvalidations_10 (h : Obligations.RootsAndInvalidations) : Completes (.walkComplete 0 0 0x10000#48 false []) (st lab) :=
  (((h.2.2.2 0 0 0x10000#48 false (st lab) ((st lab).translate 0 0 0 0x10000 false).1 0 (by decide +kernel)).2 { missing 0 with reason := rsNoRoot, entry := 0, value := 0, level := 1 } (Prod.ext rfl (by decide +kernel))).1 (by decide +kernel)).completes

theorem witness_RootsAndInvalidations_11 (h : Obligations.RootsAndInvalidations) : Completes (.walkComplete 0 0 0x10000#48 false []) (walking npZero) :=
  (((h.2.2.2 0 0 0x10000#48 false (walking npZero) ((walking npZero).translate 0 0 0 0x10000 false).1 0 (by decide +kernel)).2 (missing npZero) (Prod.ext rfl (by decide +kernel))).2 (by decide +kernel) (by decide +kernel) (by decide +kernel)).completes

def pending (p : Pend) (e : Nat) : State := { chip := { labRoot with pend := [p] }, mem := tables e }
def taken1 : Pend := { info := missing npZero, waiters := [.tile 0 0 0 0], restore := npZero }
def allocated : State × Took := ((((pending taken1 npZero).setEntry 0 0x203008 (busyOf npZero)).on
  (fun c => c.updPend 0x203008 (fun _ => { taken1 with restore := npZero, phase := 1 }))).takeFrame 0 ((pending taken1 npZero).chip.tierUnits 0 (fld npZero 9 8) 0) false)

theorem witness_StewardWork_1 (h : Obligations.StewardWork) : Completes (.stewardFault false) (pending taken1 0x100007) :=
  ((h.1 false taken1 (pending taken1 0x100007) (by decide +kernel) (by decide +kernel) (by decide +kernel) (by decide +kernel) (by decide +kernel) (by decide +kernel)).1 (by decide +kernel)).completes

theorem witness_StewardWork_2 (h : Obligations.StewardWork) : Completes (.stewardFault false) (pending taken1 npZero) :=
  ((h.1 false taken1 (pending taken1 npZero) (by decide +kernel) (by decide +kernel) (by decide +kernel) (by decide +kernel) (by decide +kernel) (by decide +kernel)).2 (by decide +kernel) (by decide +kernel) allocated.1 0x400000 (Prod.ext rfl (by decide +kernel))).completes

def zeroed : Pend := { taken1 with phase := 2, frame := 0x400000 }

theorem witness_StewardWork_3 (h : Obligations.StewardWork) : Completes (.stewardCopyDone false none) (pending zeroed npZero) :=
  (h.2.1 false zeroed 0 0x400000 (pending zeroed npZero) (by decide +kernel) (by decide +kernel) (by decide +kernel) (by decide +kernel) (by decide +kernel) (by decide +kernel) (by decide +kernel) (by decide +kernel)).completes

def waitsEntry (p : List Pend) : State := { chip := { labRoot with pend := p, pendWait := [(missing npZero, .tile 0 0 0 3)] }, mem := tables npZero }

theorem witness_StewardWork_4 (h : Obligations.StewardWork) : Completes (.pendingEntryFree) (waitsEntry [taken1]) :=
  (h.2.2 (missing npZero) (.tile 0 0 0 3) [] (waitsEntry [taken1]) (by decide +kernel) (by decide +kernel)).completes

theorem witness_StewardWork_5 (h : Obligations.StewardWork) : Completes (.pendingEntryFree) (waitsEntry []) :=
  (h.2.2 (missing npZero) (.tile 0 0 0 3) [] (waitsEntry []) (by decide +kernel) (by decide +kernel)).completes

theorem witness_HostAnswers_1 (h : Obligations.HostAnswers) : Completes (.stewardRingBaseWrite tenant 0x500000) (st lab) :=
  ((h.1 tenant 0x500000 (st lab) 0 (by decide +kernel)).1 (by decide +kernel) (by decide +kernel) (by decide +kernel)).completes

theorem witness_HostAnswers_2 (h : Obligations.HostAnswers) : Completes (.stewardRingBaseWrite tenant 0x500000) (queued { st := .running }) :=
  ((h.1 tenant 0x500000 (queued { st := .running }) 0 (by decide +kernel)).2 (by decide +kernel)).completes

theorem witness_HostAnswers_3 (h : Obligations.HostAnswers) : Completes (.stewardRingConsumerWrite tenant 16) (st lab) :=
  ((h.2.1 tenant 16 (st lab) 0 (by decide +kernel) (by decide +kernel)).1 (by decide +kernel)).completes

def heldRec : State := st ((((lab.set 0 Obj.STEWARD_RING_BASE 0x500000).set 0 Obj.STEWARD_RING_ENTRIES 16).set 0 Obj.STEWARD_RING_PRODUCER 16).updPart 0 (fun p => { p with held := [zeros 32] }))

theorem witness_HostAnswers_4 (h : Obligations.HostAnswers) : Completes (.stewardRingConsumerWrite tenant 16) (heldRec) :=
  ((h.2.1 tenant 16 heldRec 0 (by decide +kernel) (by decide +kernel)).2 (zeros 32) (by decide +kernel) (by decide +kernel) (by decide +kernel)).completes

def hostSays (f : HostFault) : State := st { lab.setQueue 0 0 { st := .running, cmds := [{ started := true, cfgRead := true }] } with hosts := [f] }
def asked5 : HostFault := { id := 5, info := missing 0, waiters := [.tile 0 0 0 0], written := true }
def retire5 : HostFault := { id := 5, info := {}, retire := true, frame := 0x100000 }

theorem witness_HostAnswers_5 (h : Obligations.HostAnswers) : Completes (.faultResolveRetry tenant 5 false) (hostSays asked5) :=
  (((h.2.2.1 tenant 5 false (hostSays asked5) 0).1 asked5 (by decide +kernel)).1 (by decide +kernel) (by decide +kernel)).completes

theorem witness_HostAnswers_6 (h : Obligations.HostAnswers) : Completes (.faultResolveAbort tenant 5 false) (hostSays asked5) :=
  (((h.2.2.1 tenant 5 false (hostSays asked5) 0).1 asked5 (by decide +kernel)).2.1 (by decide +kernel) (by decide +kernel)).completes

theorem witness_HostAnswers_7 (h : Obligations.HostAnswers) : Completes (.faultResolveDone tenant 5) (hostSays retire5) :=
  (((h.2.2.1 tenant 5 false (hostSays retire5) 0).1 retire5 (by decide +kernel)).2.2 (by decide +kernel) (by decide +kernel) 0 0x100000 (by decide +kernel) (by decide +kernel)).completes

theorem witness_HostAnswers_8 (h : Obligations.HostAnswers) : Completes (.faultResolveRetry tenant 5 false) (st lab) :=
  ((h.2.2.1 tenant 5 false (st lab) 0).2 (by decide +kernel) (by decide +kernel)).completes

theorem witness_HostAnswers_9 (h : Obligations.HostAnswers) : Completes (.faultHostLimitExpired 0 5) (hostSays asked5) :=
  (h.2.2.2 0 5 asked5 (hostSays asked5) (by decide +kernel) (by decide +kernel) (by decide +kernel)).completes

/-- The laboratory with a leaseholder; Ridge 1 is staged for partition 1, and Ridges `m` for partition 0. -/
def staged1 (m : Nat) : Chip := put lab [(Obj.LEASE_HOLDER, 7), (Obj.COMPUTE_BUDGET, 1000), (atIdx Obj.WS_RIDGES 1, 2), (atIdx Obj.WS_POWER_SHARE 1, 80),
  (atIdx Obj.WS_RIDGES 0, m), (atIdx Obj.WS_POWER_SHARE 0, 160)]
def ridgeBusy : State := st ((staged1 2).setQueue 0 0 { st := .running })

theorem witness_WsControl_1 (h : Obligations.WsControl) : Completes (.wsCreate operator 1 false) (st (staged1 3)) :=
  (((h.1 operator 1 false (st (staged1 3)) modInst (by decide +kernel)).1 (by decide +kernel) (by decide +kernel)).1 (by decide +kernel) (by decide +kernel)).completes

theorem witness_WsControl_2 (h : Obligations.WsControl) : Completes (.wsCreate operator 2 true) (st (staged1 3)) :=
  (((h.1 operator 2 true (st (staged1 3)) modInst (by decide +kernel)).1 (by decide +kernel) (by decide +kernel)).2 (by decide +kernel)).completes

theorem witness_WsControl_3 (h : Obligations.WsControl) : Completes (.wsApply operator 0 false) (st (staged1 5)) :=
  (((h.1 operator 0 false (st (staged1 5)) modInst (by decide +kernel)).2.1 (by decide +kernel) (by decide +kernel) (by decide +kernel) (by decide +kernel) (by decide +kernel)).1 (by decide +kernel)).completes

theorem witness_WsControl_4 (h : Obligations.WsControl) : Completes (.wsApply operator 0 false) (ridgeBusy) :=
  (((h.1 operator 0 false ridgeBusy modInst (by decide +kernel)).2.1 (by decide +kernel) (by decide +kernel) (by decide +kernel) (by decide +kernel) (by decide +kernel)).2 (by decide +kernel)).completes

theorem witness_WsControl_5 (h : Obligations.WsControl) : Completes (.wsTeardown operator 0 false) (ridgeBusy) :=
  (((h.1 operator 0 false ridgeBusy modInst (by decide +kernel)).2.2 (by decide +kernel)).1 (by decide +kernel) (by decide +kernel)).completes

theorem witness_WsControl_6 (h : Obligations.WsControl) : Completes (.wsTeardown operator 2 false) (ridgeBusy) :=
  (((h.1 operator 2 false ridgeBusy modInst (by decide +kernel)).2.2 (by decide +kernel)).2 (by decide +kernel)).completes

theorem witness_WsControl_7 (h : Obligations.WsControl) : Completes (.wsCreate operator 1 false) (st lab) :=
  ((h.2 operator 1 false (st lab) modInst (by decide +kernel)).1 (by decide +kernel)).completes

theorem witness_WsControl_8 (h : Obligations.WsControl) : Completes (.wsApply operator 0 false) (st lab) :=
  ((h.2 operator 0 false (st lab) modInst (by decide +kernel)).2.1 (by decide +kernel)).completes

theorem witness_WsControl_9 (h : Obligations.WsControl) : Completes (.wsTeardown operator 0 false) (st lab) :=
  ((h.2 operator 0 false (st lab) modInst (by decide +kernel)).2.2 (by decide +kernel)).completes

def filling : State := { chip := { lab with units := [(3, { backed := 256 })], parts := [(0, { keyTag := 1, zeroUnits := [3] })] }, mem := ({} : Memory).write 1 (3 * 2 ^ 36) [7#8] }

theorem witness_ZeroFill_1 (h : Obligations.ZeroFill) : Completes (.zeroFillDone 3) (filling) :=
  (h 3 0 filling (by decide +kernel) (by decide +kernel) (by decide +kernel) (by decide +kernel) (by decide +kernel)).completes

/-- The laboratory with lane 0 planned as a link lane in state `x`, its two rings in TRACK, and the collimators open; link 5 in state `y`. -/
def laneLab (x : Lane) (y : Link) : Chip :=
  let c := { (put lab [(Obj.COL_STATE, 1), (Obj.LANE_MASK, 1)]).setBlob modInst (atIdx Obj.STEER_ACTIVE 0) (BitVec.ofNat 8 0x10 :: zeros 31) with
    lanes := [(0, x)], links := [(5, y)] }
  (c.setLoop 0 0 { mode := modeTrack }).setLoop 0 128 { mode := modeTrack }
def laneOnly (x : Lane) : State := st (laneLab x {})
def heldDrop (x : Lane) : State := st ((laneLab x {}).setLoop 0 128 { mode := modeHold })

theorem witness_LaneEvents_1 (h : Obligations.LaneEvents) : Completes (.lightPresent 0) (laneOnly {}) :=
  (h.1 0 (laneOnly {}) (by decide +kernel) (by decide +kernel) (by decide +kernel) (by decide +kernel) (by decide +kernel)).completes

theorem witness_LaneEvents_2 (h : Obligations.LaneEvents) : Completes (.lightLost 0) (st lab) :=
  ((h.2.1 0 (st lab) (by decide +kernel) (by decide +kernel)).1 (by decide +kernel)).completes

theorem witness_LaneEvents_3 (h : Obligations.LaneEvents) : Completes (.lightLost 0) (heldDrop { state := laneReady }) :=
  ((h.2.1 0 (heldDrop { state := laneReady }) (by decide +kernel) (by decide +kernel)).2 0 (by decide +kernel) (by decide +kernel) (by decide +kernel) (by decide +kernel)).completes

theorem witness_LaneEvents_4 (h : Obligations.LaneEvents) : Completes (.laneTrainingDone 0 true) (laneOnly { state := laneRetrain }) :=
  ((h.2.2.1 0 (laneOnly { state := laneRetrain }) (by decide +kernel)).1).completes

theorem witness_LaneEvents_5 (h : Obligations.LaneEvents) : Completes (.laneTrainingDone 0 false) (laneOnly { state := laneTraining, fails := 1 }) :=
  ((h.2.2.1 0 (laneOnly { state := laneTraining, fails := 1 }) (by decide +kernel)).2.1 (by decide +kernel)).completes

theorem witness_LaneEvents_6 (h : Obligations.LaneEvents) : Completes (.laneTrainingDone 0 false) (laneOnly { state := laneTraining, fails := 2 }) :=
  ((h.2.2.1 0 (laneOnly { state := laneTraining, fails := 2 }) (by decide +kernel)).2.2 (by decide +kernel) (by decide +kernel)).completes

theorem witness_LaneEvents_7 (h : Obligations.LaneEvents) : Completes (.laneDegrade 0 0) (laneOnly { state := laneActive }) :=
  ((h.2.2.2 0 (laneOnly { state := laneActive })).1 (by decide +kernel) (by decide +kernel) (by decide +kernel)).completes

theorem witness_LaneEvents_8 (h : Obligations.LaneEvents) : Completes (.laneDegrade 0 0) (laneOnly { state := laneReady }) :=
  (((h.2.2.2 0 (laneOnly { state := laneReady })).2.1 (by decide +kernel) (by decide +kernel)).1).completes

theorem witness_LaneEvents_9 (h : Obligations.LaneEvents) : Completes (.helloSend 0) (laneOnly { state := laneReady }) :=
  (((h.2.2.2 0 (laneOnly { state := laneReady })).2.1 (by decide +kernel) (by decide +kernel)).2).completes

theorem witness_LaneEvents_10 (h : Obligations.LaneEvents) : Completes (.helloSend 0) (laneOnly {}) :=
  ((h.2.2.2 0 (laneOnly {})).2.2 (by decide +kernel)).completes

def hello1 (tag : W64) : Hello := ⟨77, 0, 0, 0, 0, 0, 1, 1, 3, 1, 7, 0, tag, 0⟩
def meeting : State := st ((put (laneLab { state := laneReady, link := some 5 } { part := some 0, state := linkDiscover }) [(atIdx Obj.LINK_PART_TAG 0, 9)]).updPart 0 (fun p => { p with lanes := 1 }))

theorem witness_HelloReceived_1 (h : Obligations.HelloReceived) : Completes (.helloReceived 0 (hello1 9)) (meeting) :=
  ((h 0 (hello1 9) 5 0 meeting (by decide +kernel) (by decide +kernel) (by decide +kernel) (by decide +kernel) (by decide +kernel) (by decide +kernel) (by decide +kernel)).1 (by decide +kernel) (by decide +kernel) (by decide +kernel) (by decide +kernel)).completes

theorem witness_HelloReceived_2 (h : Obligations.HelloReceived) : Completes (.helloReceived 0 (hello1 8)) (meeting) :=
  ((h 0 (hello1 8) 5 0 meeting (by decide +kernel) (by decide +kernel) (by decide +kernel) (by decide +kernel) (by decide +kernel) (by decide +kernel) (by decide +kernel)).2 (by decide +kernel)).completes

def up5 : Link := { part := some 0, state := linkUp, fibre := 3, peer := 77, credit := [(0, 9), (1, 9), (2, 9), (3, 9)], features := 7 }
def linkLab (y : Link) : State := st (laneLab { state := laneActive, link := some 5, peerLane := 8 } y)
def flit0 : List Byte := flitBytes 0 0 0 {} (leBytes 4 9 ++ leBytes 2 0 ++ leBytes 1 1 ++ zeros 1 ++ leBytes 4 256 ++ zeros 4 ++ zeros 224)

theorem witness_FlitReceived_1 (h : Obligations.FlitReceived) : Completes (.flitReceived 3 flit0 2 0 true false) (laneOnly {}) :=
  ((h 3 flit0 2 0 (laneOnly {})).1 (by decide +kernel) true false (by decide +kernel)).completes

theorem witness_FlitReceived_2 (h : Obligations.FlitReceived) : Completes (.flitReceived 3 (flit0.set 9 1#8) 2 1 false false) (laneOnly {}) :=
  ((h 3 (flit0.set 9 1#8) 2 1 (laneOnly {})).1 (by decide +kernel) false false (by decide +kernel)).completes

theorem witness_FlitReceived_3 (h : Obligations.FlitReceived) : Completes (.flitReceived 0 flit0 0 0 false false) (linkLab up5) :=
  ((h 0 flit0 0 0 (linkLab up5)).2 5 false (by decide +kernel) (by decide +kernel) (by decide +kernel) (by decide +kernel) (by decide +kernel) (by decide +kernel) (by decide +kernel) (by decide +kernel) (by decide +kernel) (by decide +kernel) (by decide +kernel) (by decide +kernel) (by decide +kernel) (by decide +kernel) (by decide +kernel)).completes

def holding5 (n : Nat) : Link := { up5 with held := [{ seq := 0, ty := 0, vc := 2, payload := [1#8] }], replays := n, unacked := 1, owed := [(0, 3)] }

theorem witness_LinkTimersAndMessages_1 (h : Obligations.LinkTimersAndMessages) : Completes (.ackTimer 5) (linkLab (holding5 0)) :=
  ((h.1 5 (linkLab (holding5 0)) (by decide +kernel) (by decide +kernel)).1 (by decide +kernel)).completes

theorem witness_LinkTimersAndMessages_2 (h : Obligations.LinkTimersAndMessages) : Completes (.creditReturnTimer 5) (linkLab (holding5 0)) :=
  ((h.1 5 (linkLab (holding5 0)) (by decide +kernel) (by decide +kernel)).2.1 (by decide +kernel)).completes

theorem witness_LinkTimersAndMessages_3 (h : Obligations.LinkTimersAndMessages) : Completes (.ackTimer 5) (linkLab up5) :=
  ((h.1 5 (linkLab up5) (by decide +kernel) (by decide +kernel)).2.2.1 (by decide +kernel)).completes

theorem witness_LinkTimersAndMessages_4 (h : Obligations.LinkTimersAndMessages) : Completes (.linkReplayTimeout 5) (linkLab (holding5 0)) :=
  ((h.1 5 (linkLab (holding5 0)) (by decide +kernel) (by decide +kernel)).2.2.2.1 (by decide +kernel) (by decide +kernel)).completes

theorem witness_LinkTimersAndMessages_5 (h : Obligations.LinkTimersAndMessages) : Completes (.linkReplayTimeout 5) (linkLab (holding5 99)) :=
  ((h.1 5 (linkLab (holding5 99)) (by decide +kernel) (by decide +kernel)).2.2.2.2 (by decide +kernel) (by decide +kernel)).completes

theorem witness_LinkTimersAndMessages_6 (h : Obligations.LinkTimersAndMessages) : Completes (.linkRetrainTimeout 5) (linkLab { up5 with state := linkRetrain }) :=
  (h.2.1 5 (linkLab { up5 with state := linkRetrain }) (by decide +kernel)).completes

theorem witness_LinkTimersAndMessages_7 (h : Obligations.LinkTimersAndMessages) : Completes (.laneDropReceived 5 8 1) (linkLab up5) :=
  ((h.2.2.1 5 8 1 3 0 (linkLab up5) (by decide +kernel)).1 (by decide +kernel) (by decide +kernel)).completes

def readyLane : State := st (laneLab { state := laneReady, link := some 5, peerLane := 8, swapAt := some 3 } up5)

theorem witness_LinkTimersAndMessages_8 (h : Obligations.LinkTimersAndMessages) : Completes (.laneAddReceived 5 8 3) (readyLane) :=
  ((h.2.2.1 5 8 1 3 0 readyLane (by decide +kernel)).2.1 (by decide +kernel)).completes

theorem witness_LinkTimersAndMessages_9 (h : Obligations.LinkTimersAndMessages) : Completes (.swapAnnounceReceived 5 8 3) (linkLab up5) :=
  ((h.2.2.1 5 8 1 3 0 (linkLab up5) (by decide +kernel)).2.2.1).completes

theorem witness_LinkTimersAndMessages_10 (h : Obligations.LinkTimersAndMessages) : Completes (.swapAckReceived 5 8 3 false) (readyLane) :=
  (((h.2.2.1 5 8 1 3 0 readyLane (by decide +kernel)).2.2.2 false).1 (by decide +kernel)).completes

theorem witness_LinkTimersAndMessages_11 (h : Obligations.LinkTimersAndMessages) : Completes (.swapAckReceived 5 8 4 false) (readyLane) :=
  (((h.2.2.1 5 8 1 4 0 readyLane (by decide +kernel)).2.2.2 false).2 (by decide +kernel)).completes

theorem witness_LinkTimersAndMessages_12 (h : Obligations.LinkTimersAndMessages) : Completes (.frameMarkReceived 5 3 0 7 2) (linkLab up5) :=
  (h.2.2.2 5 3 0 7 2 (linkLab up5) (by decide +kernel) (by decide +kernel) (by decide +kernel) (by decide +kernel) (by decide +kernel)).completes

theorem witness_LinkOperator_1 (h : Obligations.LinkOperator) : Completes (.linkControlRelease operator 5) (linkLab { up5 with state := linkQuar }) :=
  (((h.1 operator 5 (linkLab { up5 with state := linkQuar }) modInst).1 (by decide +kernel)).1 (by decide +kernel)).completes

theorem witness_LinkOperator_2 (h : Obligations.LinkOperator) : Completes (.linkControlRelease operator 5) (linkLab up5) :=
  (((h.1 operator 5 (linkLab up5) modInst).1 (by decide +kernel)).2 (by decide +kernel)).completes

theorem witness_LinkOperator_3 (h : Obligations.LinkOperator) : Completes (.linkControlRetrain operator 5) (linkLab up5) :=
  (((h.1 operator 5 (linkLab up5) modInst).2.1 (by decide +kernel)).1 (by decide +kernel)).completes

theorem witness_LinkOperator_4 (h : Obligations.LinkOperator) : Completes (.linkControlRetrain operator 6) (linkLab up5) :=
  (((h.1 operator 6 (linkLab up5) modInst).2.1 (by decide +kernel)).2 (by decide +kernel)).completes

theorem witness_LinkOperator_5 (h : Obligations.LinkOperator) : Completes (.linkControlQuarantine operator 5) (linkLab up5) :=
  (((h.1 operator 5 (linkLab up5) modInst).2.2 (by decide +kernel)).1 (by decide +kernel)).completes

theorem witness_LinkOperator_6 (h : Obligations.LinkOperator) : Completes (.linkControlQuarantine operator 6) (linkLab up5) :=
  (((h.1 operator 6 (linkLab up5) modInst).2.2 (by decide +kernel)).2 (by decide +kernel)).completes

theorem witness_LinkOperator_7 (h : Obligations.LinkOperator) : Completes (.expectMapWrite operator 3 true 78) (linkLab { up5 with state := linkQuar }) :=
  (h.2.1 operator 3 true 78 (linkLab { up5 with state := linkQuar }) modInst (by decide +kernel) (by decide +kernel)).completes

theorem witness_LinkOperator_8 (h : Obligations.LinkOperator) : Completes (.expectMapWrite operator 3 false 255) (linkLab { up5 with state := linkQuar }) :=
  (h.2.1 operator 3 false 255 (linkLab { up5 with state := linkQuar }) modInst (by decide +kernel) (by decide +kernel)).completes

theorem witness_LinkOperator_9 (h : Obligations.LinkOperator) : Completes (.routeEntryWrite tenant 4095 (BitVec.ofNat 128 (77 + 2 ^ 72))) (meeting) :=
  ((h.2.2 tenant 4095 (BitVec.ofNat 128 (77 + 2 ^ 72)) meeting 0 (by decide +kernel)).1 (by decide +kernel) (by decide +kernel) (by decide +kernel)).completes

theorem witness_LinkOperator_10 (h : Obligations.LinkOperator) : Completes (.routeEntryWrite tenant 0 (BitVec.ofNat 128 (2 ^ 80))) (meeting) :=
  ((h.2.2 tenant 0 (BitVec.ofNat 128 (2 ^ 80)) meeting 0 (by decide +kernel)).2 (by decide +kernel)).completes

/-- A module under PTP that follows port 2 and its master 7, with these times noted; and the same module under MANUAL. -/
def ptp (state : Nat) (u : TimeUnit) : State := st { put lab [(Obj.TIME_SOURCE, 0), (Obj.TIME_STATE, state)] with time := u }
def followed : TimeUnit := { port := some 2, src := 7, gm := 7, masters := [(2, ⟨7, 7, 0, 0, 0, 0, 0, 0⟩)] }
def manual : State := st (put lab [(Obj.TIME_SOURCE, 1)])

theorem witness_ManualTime_1 (h : Obligations.ManualTime) : Completes (.timeSet service 1000) (manual) :=
  ((h.1 service 1000 manual modInst (by decide +kernel)).1 (by decide +kernel)).completes

theorem witness_ManualTime_2 (h : Obligations.ManualTime) : Completes (.timeSet service 1000) (ptp 0 {}) :=
  ((h.1 service 1000 (ptp 0 {}) modInst (by decide +kernel)).2 (by decide +kernel)).completes

theorem witness_ManualTime_3 (h : Obligations.ManualTime) : Completes (.timeRate service 5) (manual) :=
  ((h.2.1 service 5 manual modInst (by decide +kernel)).1 (by decide +kernel)).completes

theorem witness_ManualTime_4 (h : Obligations.ManualTime) : Completes (.timeRate service 5) (ptp 0 {}) :=
  ((h.2.1 service 5 (ptp 0 {}) modInst (by decide +kernel)).2 (by decide +kernel)).completes

theorem witness_ManualTime_5 (h : Obligations.ManualTime) : Completes (.ptpAnnounce 2 0 ⟨7, 7, 0, 0, 0, 0, 0, 0⟩) (manual) :=
  ((h.2.2 manual (by decide +kernel)).1 2 0 ⟨7, 7, 0, 0, 0, 0, 0, 0⟩).completes

theorem witness_ManualTime_6 (h : Obligations.ManualTime) : Completes (.ptpSync 2 7 0 3 true 5 0 0) (manual) :=
  ((h.2.2 manual (by decide +kernel)).2.1 2 7 0 3 true 5 0 0).completes

theorem witness_ManualTime_7 (h : Obligations.ManualTime) : Completes (.ptpFollowUp 2 7 3 5 0 0) (manual) :=
  ((h.2.2 manual (by decide +kernel)).2.2.1 2 7 3 5 0 0).completes

theorem witness_ManualTime_8 (h : Obligations.ManualTime) : Completes (.ptpDelayResp 2 7 3 5) (manual) :=
  ((h.2.2 manual (by decide +kernel)).2.2.2.1 2 7 3 5).completes

theorem witness_ManualTime_9 (h : Obligations.ManualTime) : Completes (.timeMasterTimeout) (manual) :=
  ((h.2.2 manual (by decide +kernel)).2.2.2.2).completes

theorem witness_PtpCommands_1 (h : Obligations.PtpCommands) : Completes (.ptpAnnounce 3 (BitVec.ofNat 8 ((ptp 0 {}).chip.reg Obj.PTP_DOMAIN)) ⟨8, 8, 0, 0, 0, 0, 0, 0⟩) (ptp 0 {}) :=
  (h.1 3 (BitVec.ofNat 8 ((ptp 0 {}).chip.reg Obj.PTP_DOMAIN)) ⟨8, 8, 0, 0, 0, 0, 0, 0⟩ (ptp 0 {}) (by decide +kernel) (by decide +kernel)).completes

theorem witness_PtpCommands_2 (h : Obligations.PtpCommands) : Completes (.ptpSync 2 7 (BitVec.ofNat 8 ((ptp 0 {}).chip.reg Obj.PTP_DOMAIN)) 3 true 0 0 0) (ptp timeUnset followed) :=
  (h.2.1 2 7 (BitVec.ofNat 8 ((ptp 0 {}).chip.reg Obj.PTP_DOMAIN)) 3 0 0 0 (ptp timeUnset followed) (by decide +kernel) (by decide +kernel) (by decide +kernel)).completes

theorem witness_PtpCommands_3 (h : Obligations.PtpCommands) : Completes (.ptpFollowUp 2 7 3 90 1 2) (ptp timeAcquiring { followed with twoStep := some (3, 100) }) :=
  (h.2.2.1 2 7 3 90 1 2 100 (ptp timeAcquiring { followed with twoStep := some (3, 100) }) (by decide +kernel) (by decide +kernel)).completes

theorem witness_PtpCommands_4 (h : Obligations.PtpCommands) : Completes (.ptpDelayResp 2 7 4 90) (ptp timeAcquiring { followed with reqSeq := 4, reqAt := some 60, ms := 9 }) :=
  (h.2.2.2.1 2 7 4 90 60 (ptp timeAcquiring { followed with reqSeq := 4, reqAt := some 60, ms := 9 }) (by decide +kernel) (by decide +kernel) (by decide +kernel)).completes

theorem witness_PtpCommands_5 (h : Obligations.PtpCommands) : Completes (.timeMasterTimeout) (ptp timeLocked followed) :=
  (h.2.2.2.2 2 (ptp timeLocked followed) (by decide +kernel) (by decide +kernel) (by decide +kernel) (by decide +kernel)).completes

def phased (m : Nat) : State := st { put lab [(Obj.EPOCH_FIXED, 1)] with time := { phased := true, missed := m } }

theorem witness_FsyncCommands_1 (h : Obligations.FsyncCommands) : Completes (.fsyncEdge (-2)) (phased 1) :=
  (h.1 (-2) (phased 1) (by decide +kernel) (by decide +kernel) (by decide +kernel)).completes

theorem witness_FsyncCommands_2 (h : Obligations.FsyncCommands) : Completes (.fsyncEdge 3) (phased 1) :=
  (h.2.1 3 (phased 1) (by decide +kernel) (by decide +kernel)).completes

theorem witness_FsyncCommands_3 (h : Obligations.FsyncCommands) : Completes (.fsyncMissing) (phased 1) :=
  (h.2.2.1 (phased 1) (by decide +kernel)).completes

theorem witness_FsyncCommands_4 (h : Obligations.FsyncCommands) : Completes (.fsyncStartupTimeout) (st (lab.setReg Obj.STARTUP_STEP 6)) :=
  (h.2.2.2.1 (st (lab.setReg Obj.STARTUP_STEP 6)) (by decide +kernel) (by decide +kernel)).completes

theorem witness_FsyncCommands_5 (h : Obligations.FsyncCommands) : Completes (.refclkLost) (st lab) :=
  (h.2.2.2.2.1 (st lab) (by decide +kernel)).completes

theorem witness_FsyncCommands_6 (h : Obligations.FsyncCommands) : Completes (.refclkReturn) (st lab) :=
  (h.2.2.2.2.2 (st lab)).completes

/-- The laboratory with a leaseholder, the plan 8:8:8:8 staged for engine 0, and the given objects and swaps. -/
def light (l : List (Nat × Nat)) (w : List Swap) : State :=
  st { (put lab ((Obj.LEASE_HOLDER, 7) :: l)).setBlob modInst (atIdx Obj.STEER_STAGED 0) (fillRatio 8 8 8 8) with swaps := w }
def badPlan : State := (light [] []).on (fun c => c.setBlob modInst (atIdx Obj.STEER_STAGED 0) (List.replicate 32 0x10#8))
def swap1 : Swap := { src := 0, wave := 3, spare := 1 }

theorem witness_Steering_1 (h : Obligations.Steering) : Completes (.steerControl operator 1 9) (st lab) :=
  ((h.1 operator 1 9 (st lab) modInst (by decide +kernel)).1 (by decide +kernel)).completes

theorem witness_Steering_2 (h : Obligations.Steering) : Completes (.steerControl operator 1 9) (light [] []) :=
  (((h.1 operator 1 9 (light [] []) modInst (by decide +kernel)).2 (by decide +kernel)).1 (by decide +kernel)).completes

theorem witness_Steering_3 (h : Obligations.Steering) : Completes (.steerControl operator 1 9) (badPlan) :=
  (((h.1 operator 1 9 badPlan modInst (by decide +kernel)).2 (by decide +kernel)).2.1 (by decide +kernel) (by decide +kernel)).completes

theorem witness_Steering_4 (h : Obligations.Steering) : Completes (.steerControl operator 1 9) (light [] [{ swap1 with stage := 1, window := 1 }]) :=
  (((h.1 operator 1 9 (light [] [{ swap1 with stage := 1, window := 1 }]) modInst (by decide +kernel)).2 (by decide +kernel)).2.2 0 (by decide +kernel)).completes

theorem witness_Steering_5 (h : Obligations.Steering) : Completes (.steerRatio operator 0 (BitVec.ofNat 32 (16 + 16 * 32))) (light [] []) :=
  ((h.2.1 operator 0 (BitVec.ofNat 32 (16 + 16 * 32)) (light [] []) modInst (by decide +kernel) (by decide +kernel)).1 (by decide +kernel)).completes

theorem witness_Steering_6 (h : Obligations.Steering) : Completes (.steerRatio operator 0 17) (light [] []) :=
  ((h.2.1 operator 0 17 (light [] []) modInst (by decide +kernel) (by decide +kernel)).2 (by decide +kernel)).completes

def steered : State := (light [] []).on (fun c => c.updEngine 0 (fun e => { e with steer := some { changed := 1, token := 5, dropped := true } }))

theorem witness_Steering_7 (h : Obligations.Steering) : Completes (.steerDone 0) (steered) :=
  (h.2.2.1 0 { changed := 1, token := 5, dropped := true } steered (by decide +kernel) (by decide +kernel)).completes

theorem witness_Steering_8 (h : Obligations.Steering) : Completes (.ocsNotice operator 255 1000) (light [] []) :=
  ((h.2.2.2.1 operator 255 1000 (light [] []) modInst (by decide +kernel)).1 (by decide +kernel) (by decide +kernel)).completes

theorem witness_Steering_9 (h : Obligations.Steering) : Completes (.ocsNotice operator 255 0) (light [] []) :=
  ((h.2.2.2.1 operator 255 0 (light [] []) modInst (by decide +kernel)).2 (by decide +kernel)).completes

theorem witness_Steering_10 (h : Obligations.Steering) : Completes (.ocsNoticeExpire) (light [] []) :=
  (h.2.2.2.2 (light [] [])).completes

theorem witness_ColAndEngines_1 (h : Obligations.ColAndEngines) : Completes (.colForceBypass operator 0x8001) (light [(Obj.COL_STATE, 1), (Obj.COL_STATE + 15, 1)] []) :=
  (h.1 operator 0x8001 (light [(Obj.COL_STATE, 1), (Obj.COL_STATE + 15, 1)] []) modInst (by decide +kernel) (by decide +kernel)).completes

theorem witness_ColAndEngines_2 (h : Obligations.ColAndEngines) : Completes (.colMoved 0) ((light [(Obj.COL_STATE, 3)] []).on (fun c => { c with colTarget := [(0, 1)] })) :=
  (h.2.1 0 ((light [(Obj.COL_STATE, 3)] []).on (fun c => { c with colTarget := [(0, 1)] })) (by decide +kernel) (by decide +kernel)).completes

theorem witness_ColAndEngines_3 (h : Obligations.ColAndEngines) : Completes (.engineFailed 0) (light [(Obj.NOTCH_EN, 1), (Obj.NOTCH_STATE, 0)] []) :=
  ((h.2.2.1 0 (light [(Obj.NOTCH_EN, 1), (Obj.NOTCH_STATE, 0)] []) (by decide +kernel) (by decide +kernel)).1 (by decide +kernel) (by decide +kernel)).completes

theorem witness_ColAndEngines_4 (h : Obligations.ColAndEngines) : Completes (.engineFailed 0) (light [(Obj.NOTCH_EN, 0)] []) :=
  ((h.2.2.1 0 (light [(Obj.NOTCH_EN, 0)] []) (by decide +kernel) (by decide +kernel)).2 (by decide +kernel)).completes

theorem witness_ColAndEngines_5 (h : Obligations.ColAndEngines) : Completes (.engineRetireReq operator 7) (light [] []) :=
  ((h.2.2.2.1 operator 7 (light [] []) modInst (by decide +kernel)).1 (by decide +kernel) (by decide +kernel)).completes

theorem witness_ColAndEngines_6 (h : Obligations.ColAndEngines) : Completes (.engineRetireReq operator 8) (light [] []) :=
  ((h.2.2.2.1 operator 8 (light [] []) modInst (by decide +kernel)).2 (by decide +kernel)).completes

def standsIn : State := (light [(Obj.NOTCH_EN, 1), (Obj.NOTCH_STATE, 1)] []).on (fun c => c.updEngine 0 (fun e => { e with fallback := true }))

theorem witness_ColAndEngines_7 (h : Obligations.ColAndEngines) : Completes (.notchEngaged 0) (standsIn) :=
  (h.2.2.2.2.1 0 standsIn (by decide +kernel) (by decide +kernel)).completes

theorem witness_ColAndEngines_8 (h : Obligations.ColAndEngines) : Completes (.notchFailed 0) (light [(Obj.NOTCH_STATE, 0)] []) :=
  ((h.2.2.2.2.2.1 0 (light [(Obj.NOTCH_STATE, 0)] [])).1 (by decide +kernel)).completes

theorem witness_ColAndEngines_9 (h : Obligations.ColAndEngines) : Completes (.notchFailed 0) (light [(Obj.NOTCH_STATE, 2), (Obj.ENGINE_STATE, 1)] []) :=
  ((h.2.2.2.2.2.1 0 (light [(Obj.NOTCH_STATE, 2), (Obj.ENGINE_STATE, 1)] [])).2 0 (by decide +kernel) (by decide +kernel) (by decide +kernel)).completes

theorem witness_ColAndEngines_10 (h : Obligations.ColAndEngines) : Completes (.engineFailRecordClear service 1) (light [(Obj.ENGINE_FAIL_RECORD, 3)] []) :=
  (h.2.2.2.2.2.2 service 1 (light [(Obj.ENGINE_FAIL_RECORD, 3)] []) modInst (by decide +kernel)).completes

def spares : List (Nat × Nat) := [(spareKey 0 0, 0xFF), (spareKey 0 1, 3)]

theorem witness_LaserSwaps_1 (h : Obligations.LaserSwaps) : Completes (.laserAbruptFailure 0 4) (light spares []) :=
  (h.1 0 4 0 (light spares []) (by decide +kernel) (by decide +kernel) (by decide +kernel) (by decide +kernel)).completes

theorem witness_LaserSwaps_2 (h : Obligations.LaserSwaps) : Completes (.spareLocked 0 1) (light spares [{ swap1 with abrupt := true }]) :=
  ((h.2.1 0 1 { swap1 with abrupt := true } (light spares [{ swap1 with abrupt := true }]) (by decide +kernel) (by decide +kernel)).1 (by decide +kernel)).completes

theorem witness_LaserSwaps_3 (h : Obligations.LaserSwaps) : Completes (.spareLocked 0 1) (light spares [swap1]) :=
  ((h.2.1 0 1 swap1 (light spares [swap1]) (by decide +kernel) (by decide +kernel)).2 (by decide +kernel)).completes

theorem witness_LaserSwaps_4 (h : Obligations.LaserSwaps) : Completes (.spareFailed 0 1) (light spares []) :=
  (h.2.2.1 0 1 (light spares []) (by decide +kernel)).completes

def waitsAck : State := (light (spares ++ [(Obj.SWAP_ACK_WAIT, 3)]) [{ swap1 with stage := 1 }]).on (fun c =>
  { c.setBlob modInst (atIdx Obj.STEER_ACTIVE 0) (List.replicate 32 0x20#8 |>.set 3 0x10#8) with lanes := [(3, { state := laneActive, link := some 5, swapAt := some 2, swapTries := 3 })] })

theorem witness_LaserSwaps_5 (h : Obligations.LaserSwaps) : Completes (.swapAckWaitExpired 0 3 5) (waitsAck) :=
  (h.2.2.2.1 0 3 5 { swap1 with stage := 1 } 3 waitsAck (by decide +kernel) (by decide +kernel) (by decide +kernel) (by decide +kernel) (by decide +kernel)).completes

def inWindow : State := (light spares [{ swap1 with stage := 1, opened := true, window := 9 }]).on (fun c =>
  { c.setBlob modInst (atIdx Obj.STEER_ACTIVE 0) (List.replicate 32 0x20#8 |>.set 3 0x10#8) with lanes := [(3, { state := lanePaused, link := some 5, swapAt := some 9 })] })

theorem witness_LaserSwaps_6 (h : Obligations.LaserSwaps) : Completes (.swapWindowEnd []) (inWindow) :=
  (h.2.2.2.2 { swap1 with stage := 1, opened := true, window := 9 } 3 inWindow (by decide +kernel) (by decide +kernel) (by decide +kernel) (by decide +kernel) (by decide +kernel) (by decide +kernel) (by decide +kernel)).completes

/-- A coefficient block: the law is a biquad of nothing, the outputs lie in 0 to 1, and a sweep has two points. -/
def block0 : List Byte := zeros 0x2C ++ leBytes 4 0x3F800000 ++ zeros 4 ++ leBytes 4 0x3F800000 ++ zeros 4 ++ leBytes 4 0x3F800000 ++ zeros 8 ++ leBytes 4 0x3F800000 ++ leBytes 4 0x3F800000
/-- The laboratory with loop 9 of core 8, a ring no lane has selected, in the state `l`, and the objects `o`. -/
def loopLab (o : List (Nat × Nat)) (l : Loop) : State := st ((put lab o).setLoop 8 9 { l with coef := some block0 })

theorem witness_LoopWrites_1 (h : Obligations.LoopWrites) : Completes (.loopModeOpen operator 8 9) (loopLab [] { mode := modeTrack }) :=
  ((h.1 operator 8 9 (loopLab [] { mode := modeTrack }) modInst).1 ⟨(by decide +kernel), (by decide +kernel), (by decide +kernel), (by decide +kernel), by decide⟩).completes

theorem witness_LoopWrites_2 (h : Obligations.LoopWrites) : Completes (.loopModeSearch operator 8 9) (loopLab [] {}) :=
  ((h.1 operator 8 9 (loopLab [] {}) modInst).2.1 ⟨(by decide +kernel), (by decide +kernel), (by decide +kernel), (by decide +kernel), fun _ _ => (by decide +kernel)⟩ (by decide +kernel)).completes

theorem witness_LoopWrites_3 (h : Obligations.LoopWrites) : Completes (.loopModeTrack operator 8 9) (loopLab [] {}) :=
  ((h.1 operator 8 9 (loopLab [] {}) modInst).2.2.1 ⟨(by decide +kernel), (by decide +kernel), (by decide +kernel), (by decide +kernel), fun _ _ => (by decide +kernel)⟩).completes

theorem witness_LoopWrites_4 (h : Obligations.LoopWrites) : Completes (.loopModeHold operator 8 9) (loopLab [] { mode := modeSearch }) :=
  ((h.1 operator 8 9 (loopLab [] { mode := modeSearch }) modInst).2.2.2.1 ⟨(by decide +kernel), (by decide +kernel), (by decide +kernel), (by decide +kernel), by decide⟩).completes

theorem witness_LoopWrites_5 (h : Obligations.LoopWrites) : Completes (.loopModeHold operator 8 288) (loopLab [] {}) :=
  ((h.1 operator 8 288 (loopLab [] {}) modInst).2.2.2.2 (by decide +kernel) (by decide +kernel)).completes

theorem witness_LoopWrites_6 (h : Obligations.LoopWrites) : Completes (.loopCoefWrite operator 8 9 block0) (loopLab [] {}) :=
  (((h.2.1 operator 8 9 (loopLab [] {}) modInst (by decide +kernel)).1 block0 (by decide +kernel)).1 (by decide +kernel) (by decide +kernel)).completes

theorem witness_LoopWrites_7 (h : Obligations.LoopWrites) : Completes (.loopCoefWrite operator 8 9 block0) (loopLab [] { mode := modeHold }) :=
  (((h.2.1 operator 8 9 (loopLab [] { mode := modeHold }) modInst (by decide +kernel)).1 block0 (by decide +kernel)).2 (by decide +kernel)).completes

theorem witness_LoopWrites_8 (h : Obligations.LoopWrites) : Completes (.loopClassWrite operator 8 9 2) (loopLab [] {}) :=
  ((h.2.1 operator 8 9 (loopLab [] {}) modInst (by decide +kernel)).2.1 2 (by decide +kernel) (by decide +kernel) (by decide +kernel) (by decide +kernel)).completes

theorem witness_LoopWrites_9 (h : Obligations.LoopWrites) : Completes (.loopOutputWrite operator 8 9 0x3F000000) (loopLab [] {}) :=
  (((h.2.1 operator 8 9 (loopLab [] {}) modInst (by decide +kernel)).2.2 0x3F000000 (by decide +kernel)).1 (by decide +kernel)).completes

theorem witness_LoopWrites_10 (h : Obligations.LoopWrites) : Completes (.loopOutputWrite operator 8 9 0x3F000000) (loopLab [] { mode := modeHold }) :=
  (((h.2.1 operator 8 9 (loopLab [] { mode := modeHold }) modInst (by decide +kernel)).2.2 0x3F000000 (by decide +kernel)).2 (by decide +kernel)).completes

theorem witness_LoopWrites_11 (h : Obligations.LoopWrites) : Completes (.traverseStoreSave operator) (loopLab [] {}) :=
  ((h.2.2 operator (loopLab [] {}) modInst).1 (by decide +kernel)).completes

theorem witness_LoopWrites_12 (h : Obligations.LoopWrites) : Completes (.traverseStoreErase operator) (loopLab [] {}) :=
  ((h.2.2 operator (loopLab [] {}) modInst).2 (by decide +kernel)).completes

def swept (low : W32) : State := loopLab [] { mode := modeSearch, sweep := 3, best := some (f32OfInt 3, 0x3F000000), low := some low }

theorem witness_LoopEvents_1 (h : Obligations.LoopEvents) : Completes (.searchSweepEnd 8 9) (swept 0) :=
  (((h.1 8 9 (swept 0)).1 (f32OfInt 3) 0x3F000000 0 (by decide +kernel) (by decide +kernel) (by decide +kernel) (by decide +kernel)).1 (by decide +kernel)).completes

theorem witness_LoopEvents_2 (h : Obligations.LoopEvents) : Completes (.searchSweepEnd 8 9) (swept 0x3F000000) :=
  (((h.1 8 9 (swept 0x3F000000)).1 (f32OfInt 3) 0x3F000000 0x3F000000 (by decide +kernel) (by decide +kernel) (by decide +kernel) (by decide +kernel)).2 (by decide +kernel) (by decide +kernel)).completes

def givenUp : State := loopLab [(Obj.HANDOVER_LIMIT, 3)] { mode := modeSearch, aborts := 3 }
def tracking : State := loopLab [] { mode := modeTrack }

theorem witness_LoopEvents_3 (h : Obligations.LoopEvents) : Completes (.handoverFailed 8 9) (givenUp) :=
  ((h.1 8 9 givenUp).2.1 (by decide +kernel) (by decide +kernel) (by decide +kernel) (by decide +kernel)).completes

theorem witness_LoopEvents_4 (h : Obligations.LoopEvents) : Completes (.toneCheckDone 8 9 (some 2) 0x42C80000) (tracking) :=
  (((h.1 8 9 tracking).2.2.1 0x42C80000 (by decide +kernel) (by decide +kernel) (by decide +kernel) (by decide +kernel) (by decide +kernel) 2).1 (by decide +kernel)).completes

theorem witness_LoopEvents_5 (h : Obligations.LoopEvents) : Completes (.toneCheckDone 8 9 (some 3) 0x42C80000) (tracking) :=
  (((h.1 8 9 tracking).2.2.1 0x42C80000 (by decide +kernel) (by decide +kernel) (by decide +kernel) (by decide +kernel) (by decide +kernel) 3).2 (by decide +kernel) (by decide +kernel)).completes

theorem witness_LoopEvents_6 (h : Obligations.LoopEvents) : Completes (.loopOverrun 8 9 false) (tracking) :=
  ((h.1 8 9 tracking).2.2.2.1 (by decide +kernel)).completes

theorem witness_LoopEvents_7 (h : Obligations.LoopEvents) : Completes (.loopHold 8 9) (loopLab [] { mode := modeTrack, overruns := 8 }) :=
  ((h.1 8 9 (loopLab [] { mode := modeTrack, overruns := 8 })).2.2.2.2 (by decide +kernel) (by decide +kernel) (by decide +kernel)).completes

def coreLab (level : Nat) (x : Core) : State := st { put lab [(Obj.CORE_DECIMATION + 10, level), (Obj.DECIM_RELAX, 64), (Obj.RC_PERIOD + 10, 10), (Obj.RC_STEP_REF + 10, 3)] with cores := [(10, x)], frame := 99 }

theorem witness_LoopEvents_8 (h : Obligations.LoopEvents) : Completes (.decimationRelax 10) (coreLab 1 { clean := 64 }) :=
  ((h.2.1 10 (coreLab 1 { clean := 64 })).1 (by decide +kernel) (by decide +kernel)).completes

theorem witness_LoopEvents_9 (h : Obligations.LoopEvents) : Completes (.coreSaturated 10) (coreLab 4 { satFrames := 128 }) :=
  ((h.2.1 10 (coreLab 4 { satFrames := 128 })).2.1 (by decide +kernel) (by decide +kernel) (by decide +kernel)).completes

theorem witness_LoopEvents_10 (h : Obligations.LoopEvents) : Completes (.rcTimeout 10) (coreLab 0 { rcStart := some 79 }) :=
  ((h.2.1 10 (coreLab 0 { rcStart := some 79 })).2.2.1 79 (by decide +kernel) (by decide +kernel) (by decide +kernel)).completes

theorem witness_LoopEvents_11 (h : Obligations.LoopEvents) : Completes (.rcStepBoundary 3 99) (coreLab 0 {}) :=
  ((h.2.1 10 (coreLab 0 {})).2.2.2 3 99 (by decide +kernel) (by decide +kernel)).completes

theorem witness_LoopEvents_12 (h : Obligations.LoopEvents) : Completes (.loopCoreFailed 7) (coreLab 0 {}) :=
  (h.2.2 7 (coreLab 0 {}) (by decide +kernel)).completes

/-- An injection of amplitude 1 at the input of loop 9, its parameter `p`, and a capture of loop 9. -/
def injBlock (p : Nat) : BitVec 256 := BitVec.ofNat 256 (9 + 2 ^ 16 + 2 * 2 ^ 24 + 0x3F800000 * 2 ^ 32 + p * 2 ^ 64)
def capBlock (trig : Nat) : BitVec 128 := BitVec.ofNat 128 (9 + trig * 2 ^ 16)
/-- A core so full of loops of the slowest law that no other cycle is left. -/
def crowded : State := st { lab with loops := (List.range 250).map (fun i => (loopKey 8 i, { mode := modeTrack, coef := some block0 })) }

theorem witness_InjectAndCapture_1 (h : Obligations.InjectAndCapture) : Completes (.injectWrite service 8 0 (injBlock 0)) (tracking) :=
  ((h.1 service 8 0 (injBlock 0) tracking modInst (by decide +kernel) (by decide +kernel) (by decide +kernel)).1 (by decide +kernel)).completes

theorem witness_InjectAndCapture_2 (h : Obligations.InjectAndCapture) : Completes (.injectWrite service 8 0 (injBlock 0)) (crowded) :=
  ((h.1 service 8 0 (injBlock 0) crowded modInst (by decide +kernel) (by decide +kernel) (by decide +kernel)).2 (by decide +kernel) (by decide +kernel)).completes

theorem witness_InjectAndCapture_3 (h : Obligations.InjectAndCapture) : Completes (.captureWrite service 8 0 (capBlock 0)) (tracking) :=
  ((h.2.1 service 8 0 (capBlock 0) tracking modInst (by decide +kernel) (by decide +kernel) (by decide +kernel)).1 (by decide +kernel)).completes

theorem witness_InjectAndCapture_4 (h : Obligations.InjectAndCapture) : Completes (.captureWrite service 8 0 (capBlock 1)) (tracking) :=
  ((h.2.1 service 8 0 (capBlock 1) tracking modInst (by decide +kernel) (by decide +kernel) (by decide +kernel)).2.1 (by decide +kernel) (by decide +kernel)).completes

theorem witness_InjectAndCapture_5 (h : Obligations.InjectAndCapture) : Completes (.captureWrite service 8 0 (capBlock 1)) (crowded) :=
  ((h.2.1 service 8 0 (capBlock 1) crowded modInst (by decide +kernel) (by decide +kernel) (by decide +kernel)).2.2 (by decide +kernel) (by decide +kernel)).completes

def capturing (state n : Nat) : State := tracking.on (fun c => ((c.setBlob modInst (capKey 8 0) (wr 16 (capBlock 1).toNat)).setReg (capState 8 0) state).updCore 8 (fun x =>
  x.setCap 0 { recs := List.replicate n [] }))

theorem witness_InjectAndCapture_6 (h : Obligations.InjectAndCapture) : Completes (.captureTrigger 8 0) (capturing 1 0) :=
  ((h.2.2 8 0 (capturing 1 0)).1 (by decide +kernel) (by decide +kernel)).completes

theorem witness_InjectAndCapture_7 (h : Obligations.InjectAndCapture) : Completes (.captureDone 8 0) (capturing 2 16384) :=
  ((h.2.2 8 0 (capturing 2 16384)).2 (by decide +kernel) (by decide +kernel)).completes

/-- The laboratory with group 10 enabled, in a state of its run. -/
def calLab (state : Nat) (r : CalRun) : State :=
  st { put lab [(Obj.CAL_ENABLE, 2 ^ 10), (Obj.CAL_STATE + 10, state), (Obj.ENGINE_STATE, 0)] with calRuns := [(10, r)] }
def calDatum : CalData := { lane := 3, data := true, width := 0x42C80000, height := 0x42C80000, resid := 0, inRange := true, steps := [(2, -1)] }
def oneStep (back : Bool) : CalLane := { lane := 3, todo := if back then [] else [(2, 1)], moved := if back then [(2, 1)] else [] }

theorem witness_CalibrationRuns_1 (h : Obligations.CalibrationRuns) : Completes (.calTrigger 10 (f32OfInt 90)) (calLab calIdle {}) :=
  ((h.1 10 (f32OfInt 90) (calLab calIdle {})).1 (by decide +kernel) (by decide +kernel) (by decide +kernel) (by decide +kernel)).completes

theorem witness_CalibrationRuns_2 (h : Obligations.CalibrationRuns) : Completes (.calTrigger 10 (BitVec.ofNat 32 ((calLab 0 {}).chip.reg (Obj.CAL_LAST_TEMP + 10)))) (calLab calIdle {}) :=
  ((h.1 10 (BitVec.ofNat 32 ((calLab 0 {}).chip.reg (Obj.CAL_LAST_TEMP + 10))) (calLab calIdle {})).2 (by decide +kernel)).completes

theorem witness_CalibrationRuns_3 (h : Obligations.CalibrationRuns) : Completes (.calMeasureDone 10 [calDatum]) (calLab calMeasure {}) :=
  ((h.2.1 10 calDatum (calLab calMeasure {}) (by decide +kernel)).1 (by decide +kernel) (by decide +kernel) (by decide +kernel) (by decide +kernel)).completes

theorem witness_CalibrationRuns_4 (h : Obligations.CalibrationRuns) : Completes (.calMeasureDone 10 []) (calLab calMeasure {}) :=
  ((h.2.1 10 calDatum (calLab calMeasure {}) (by decide +kernel)).2.1).completes

theorem witness_CalibrationRuns_5 (h : Obligations.CalibrationRuns) : Completes (.calNodataTimeout 10 3 false) (calLab calMeasure {}) :=
  ((h.2.1 10 calDatum (calLab calMeasure {}) (by decide +kernel)).2.2.1).completes

theorem witness_CalibrationRuns_6 (h : Obligations.CalibrationRuns) : Completes (.calNodataTimeout 10 3 true) (calLab calMeasure {}) :=
  ((h.2.1 10 calDatum (calLab calMeasure {}) (by decide +kernel)).2.2.2).completes

theorem witness_CalibrationRuns_7 (h : Obligations.CalibrationRuns) : Completes (.calParamStep 10 0) (calLab calApply { lanes := [oneStep false] }) :=
  (h.2.2.1 10 (oneStep false) 2 0 (calLab calApply { lanes := [oneStep false] }) (by decide +kernel) (by decide +kernel) (by decide +kernel) (by decide +kernel) (by decide +kernel)).completes

theorem witness_CalibrationRuns_8 (h : Obligations.CalibrationRuns) : Completes (.calParamStep 10 0) (calLab calRollback { lanes := [oneStep true] }) :=
  (h.2.2.2.1 10 (oneStep true) 2 0 (calLab calRollback { lanes := [oneStep true] }) (by decide +kernel) (by decide +kernel) (by decide +kernel) (by decide +kernel)).completes

theorem witness_CalibrationRuns_9 (h : Obligations.CalibrationRuns) : Completes (.calVerifyDone 10 [calDatum]) (calLab calVerify { lanes := [oneStep true] }) :=
  (h.2.2.2.2 10 [calDatum] (calLab calVerify { lanes := [oneStep true] }) (by decide +kernel) (by decide +kernel)).completes

theorem witness_CalibrationRequests_1 (h : Obligations.CalibrationRequests) : Completes (.calRequest service (BitVec.ofNat 64 (2 ^ 10))) (calLab calIdle {}) :=
  ((h service (BitVec.ofNat 64 (2 ^ 10)) (calLab calIdle {}) modInst).1 (by decide +kernel) |>.1 (by decide +kernel)).completes

theorem witness_CalibrationRequests_2 (h : Obligations.CalibrationRequests) : Completes (.calRequest service (BitVec.ofNat 64 (2 ^ 58))) (calLab calIdle {}) :=
  ((h service (BitVec.ofNat 64 (2 ^ 58)) (calLab calIdle {}) modInst).1 (by decide +kernel) |>.2 (by decide +kernel)).completes

theorem witness_CalibrationRequests_3 (h : Obligations.CalibrationRequests) : Completes (.calEnableWrite operator (BitVec.ofNat 64 (2 ^ 57))) (calLab calMeasure {}) :=
  ((h operator (BitVec.ofNat 64 (2 ^ 57)) (calLab calMeasure {}) modInst).2 (by decide +kernel) (by decide +kernel)).completes

/-- The laboratory with an Ethernet port 0 in a state; queue pair 0 of partition 0 is `x`, with configuration `cfg`; region 2 covers page 1 of context 0, which is mapped. -/
def ethLab (port : Nat) (l : List (Nat × Nat)) : State := st { put lab ((Obj.ETH_LINK_STATE, port) :: l) with blobs := [(ikey modInst Obj.ETH_PREFIX, zeros 8)] }

theorem witness_EthernetPorts_1 (h : Obligations.EthernetPorts) : Completes (.ethLinkUp 0) (ethLab ethTraining []) :=
  ((h 0 (ethLab ethTraining [])).1 (by decide +kernel) (by decide +kernel)).completes

theorem witness_EthernetPorts_2 (h : Obligations.EthernetPorts) : Completes (.ethLinkDown 0) (ethLab ethUp []) :=
  (((h 0 (ethLab ethUp [])).2.1 (by decide +kernel)).1).completes

theorem witness_EthernetPorts_3 (h : Obligations.EthernetPorts) : Completes (.pauseFrameReceived 0) (ethLab ethUp []) :=
  (((h 0 (ethLab ethUp [])).2.1 (by decide +kernel)).2.1).completes

theorem witness_EthernetPorts_4 (h : Obligations.EthernetPorts) : Completes (.routerAdvertisement 0 5) (ethLab ethUp []) :=
  (((h 0 (ethLab ethUp [])).2.1 (by decide +kernel)).2.2.1 5 (by decide +kernel)).completes

def prefixed : State := (ethLab ethUp []).on (fun c => c.setBlob modInst Obj.ETH_PREFIX [1#8, 0#8, 0#8, 0#8, 0#8, 0#8, 0#8, 0#8])

theorem witness_EthernetPorts_5 (h : Obligations.EthernetPorts) : Completes (.routerAdvertisement 0 5) (prefixed) :=
  (((h 0 prefixed).2.1 (by decide +kernel)).2.2.2 5 (by decide +kernel)).completes

theorem witness_EthernetPorts_6 (h : Obligations.EthernetPorts) : Completes (.ethTrainingFailed 0) ((ethLab ethTraining []).on (fun c => { c with ethFails := [(0, 1)] })) :=
  ((h 0 ((ethLab ethTraining []).on (fun c => { c with ethFails := [(0, 1)] }))).2.2.1 (by decide +kernel) (by decide +kernel)).completes

theorem witness_EthernetPorts_7 (h : Obligations.EthernetPorts) : Completes (.ethTrainingFailed 0) ((ethLab ethTraining []).on (fun c => { c with ethFails := [(0, 2)] })) :=
  ((h 0 ((ethLab ethTraining []).on (fun c => { c with ethFails := [(0, 2)] }))).2.2.2 (by decide +kernel) (by decide +kernel)).completes

/-- A configuration of a queue pair: its state, the rings in page 1 of context 0, 64 entries. -/
def qpBytes (state : Nat) : List Byte := leBytes 1 state ++ zeros 31 ++ leBytes 8 0x10000 ++ leBytes 8 0x11000 ++ leBytes 8 0x12000 ++ leBytes 4 64 ++ leBytes 1 0x47 ++ zeros 3
def qpNoRecv (state : Nat) : List Byte := leBytes 1 state ++ zeros 31 ++ leBytes 8 0x10000 ++ leBytes 8 0 ++ leBytes 8 0x12000 ++ leBytes 4 64 ++ leBytes 1 0x47 ++ zeros 3
def rkey2 : W32 := BitVec.ofNat 32 (2 * 2 ^ 24 + 5)
def qpLab (state : Nat) (x : Qp) : State :=
  { chip := (((labRoot.setReg (Obj.ETH_LINK_STATE) ethTraining).setBlob modInst Obj.QP_CONFIG (qpBytes state)).setBlob 0 (Obj.MR_ENTRY + 2)
      (leBytes 8 0x10000 ++ leBytes 4 0x10000 ++ leBytes 4 0x30 ++ leBytes 4 rkey2.toNat)).updPart 0 (fun p => { p with vis := 1 }) |>.setQp 0 x
    mem := (tables 0x4000C7).write 1 0x401000 (leBytes 8 0x13000 ++ leBytes 4 8192) }
def pair0 : Qp := {}
def posted1 : Qp := { recvProd := 1 }
def sendPkt : Pkt := { kind := 0, psn := 0, pos := 0, data := zeros 4096 }
def sendEntry : State × RRes (List Byte) := ((qpLab 1 posted1).taking 0 sendPkt).rread 0 0 0x11000 16
def writePkt : Pkt := { kind := 1, psn := 0, pos := 3, va := 0x13000, rkey := rkey2.toNat, len := 4, data := [1#8, 2#8, 3#8, 4#8] }
def readPkt : Pkt := { kind := 2, psn := 0, va := 0x13000, rkey := rkey2.toNat, len := 4 }
def region2 : Msg := { va := 0x13000, ctx := 0, left := 4, total := 4 }

theorem witness_RoceReceive_1 (h : Obligations.RoceReceive) : Completes (.roceSendReceived 0 0 0 (zeros 4096) false) (qpLab 1 posted1) :=
  (((h 0 0 (qpLab 1 posted1) (by decide +kernel) (by decide +kernel) (by decide +kernel) (by decide +kernel)).1 (zeros 4096) sendEntry.1 (sendEntry.1.rwrite 0 0 0x13000 (zeros 4096)).1 (leBytes 8 0x13000 ++ leBytes 4 8192 ++ zeros 4)).1 (by decide +kernel) (by decide +kernel) (by decide +kernel) (by decide +kernel) (by decide +kernel) (Prod.ext rfl (by decide +kernel)) (Prod.ext rfl (by decide +kernel))).completes

theorem witness_RoceReceive_2 (h : Obligations.RoceReceive) : Completes (.roceSendReceived 0 0 0 (zeros 4096) false) (qpLab 1 pair0) :=
  (((h 0 0 (qpLab 1 pair0) (by decide +kernel) (by decide +kernel) (by decide +kernel) (by decide +kernel)).1 (zeros 4096) (qpLab 1 pair0) (qpLab 1 pair0) []).2 (by decide +kernel)).completes

theorem witness_RoceReceive_3 (h : Obligations.RoceReceive) : Completes (.roceWriteReceived 0 0 3 0x13000 rkey2 (BitVec.ofNat 32 4) [1#8, 2#8, 3#8, 4#8] false) (qpLab 1 pair0) :=
  (((h 0 0 (qpLab 1 pair0) (by decide +kernel) (by decide +kernel) (by decide +kernel) (by decide +kernel)).2.1 0x13000 rkey2 [1#8, 2#8, 3#8, 4#8] region2 (((qpLab 1 pair0).taking 0 writePkt).rwrite 0 0 0x13000 [1#8, 2#8, 3#8, 4#8]).1 (by decide +kernel)).1 (by decide +kernel) (by decide +kernel) (Prod.ext rfl (by decide +kernel))).completes

theorem witness_RoceReceive_4 (h : Obligations.RoceReceive) : Completes (.roceWriteReceived 0 0 3 0x1FFFD rkey2 (BitVec.ofNat 32 4) [1#8, 2#8, 3#8, 4#8] false) (qpLab 1 pair0) :=
  (((h 0 0 (qpLab 1 pair0) (by decide +kernel) (by decide +kernel) (by decide +kernel) (by decide +kernel)).2.1 0x1FFFD rkey2 [1#8, 2#8, 3#8, 4#8] region2 (qpLab 1 pair0) (by decide +kernel)).2 (by decide +kernel)).completes

theorem witness_RoceReceive_5 (h : Obligations.RoceReceive) : Completes (.roceReadRequest 0 0 0x13000 rkey2 4 none false) (qpLab 1 pair0) :=
  (((h 0 0 (qpLab 1 pair0) (by decide +kernel) (by decide +kernel) (by decide +kernel) (by decide +kernel)).2.2 0x13000 rkey2 4 region2 (((qpLab 1 pair0).taking 0 readPkt).rread 0 0 0x13000 4).1 (zeros 4) (by decide +kernel)).1 (by decide +kernel) (Prod.ext rfl (by decide +kernel)) (by decide +kernel)).completes

theorem witness_RoceReceive_6 (h : Obligations.RoceReceive) : Completes (.roceReadRequest 0 0 0x13000 0 4 none false) (qpLab 1 pair0) :=
  (((h 0 0 (qpLab 1 pair0) (by decide +kernel) (by decide +kernel) (by decide +kernel) (by decide +kernel)).2.2 0x13000 0 4 region2 (qpLab 1 pair0) [] (by decide +kernel)).2 (by decide +kernel)).completes

def readWr : Wr := { op := 1, len := 4, local_ := 0x13000, off := 1 }
def writeWr : Wr := { op := 0, len := 4, local_ := 0x13000, off := 1, psn := 7 }
def respPkt : Pkt := { kind := 3, psn := 0, data := [1#8, 2#8, 3#8, 4#8] }

theorem witness_RoceRequester_1 (h : Obligations.RoceRequester) : Completes (.roceReadResponse 0 0 [1#8, 2#8, 3#8, 4#8] false) (qpLab 1 { wrs := [readWr] }) :=
  (((h 0 0 (qpLab 1 { wrs := [readWr] })).1 readWr (by decide +kernel) (by decide +kernel) (by decide +kernel) (by decide +kernel)).1 [1#8, 2#8, 3#8, 4#8] (((qpLab 1 { wrs := [readWr] }).taking 0 respPkt).rwrite 0 0 0x13000 [1#8, 2#8, 3#8, 4#8]).1 (by decide +kernel) (by decide +kernel) (by decide +kernel) (by decide +kernel) (by decide +kernel) (by decide +kernel) (by decide +kernel) (Prod.ext rfl (by decide +kernel))).completes

theorem witness_RoceRequester_2 (h : Obligations.RoceRequester) : Completes (.roceAck 0 7 false) (qpLab 1 { wrs := [writeWr] }) :=
  (((h 0 7 (qpLab 1 { wrs := [writeWr] })).1 writeWr (by decide +kernel) (by decide +kernel) (by decide +kernel) (by decide +kernel)).2.1 (by decide +kernel) (by decide +kernel)).completes

theorem witness_RoceRequester_3 (h : Obligations.RoceRequester) : Completes (.roceNak 0 7 2 false) (qpLab 1 { wrs := [writeWr] }) :=
  (((h 0 7 (qpLab 1 { wrs := [writeWr] })).1 writeWr (by decide +kernel) (by decide +kernel) (by decide +kernel) (by decide +kernel)).2.2.1 2 (by decide +kernel)).completes

theorem witness_RoceRequester_4 (h : Obligations.RoceRequester) : Completes (.roceRetryTimeout 0) (qpLab 1 { wrs := [writeWr], retries := 7 }) :=
  (((h 0 7 (qpLab 1 { wrs := [writeWr], retries := 7 })).1 writeWr (by decide +kernel) (by decide +kernel) (by decide +kernel) (by decide +kernel)).2.2.2 (by decide +kernel) (by decide +kernel) (by decide +kernel)).completes

theorem witness_RoceRequester_5 (h : Obligations.RoceRequester) : Completes (.roceFaultWaitExpired 0) (qpLab 1 { waitAt := 1, jobs := [writePkt] }) :=
  ((h 0 0 (qpLab 1 { waitAt := 1, jobs := [writePkt] })).2.1 writePkt (by decide +kernel) (by decide +kernel) (by decide +kernel) (by decide +kernel) (by decide +kernel) (by decide +kernel) (by decide +kernel) (by decide +kernel) (by decide +kernel)).completes

theorem witness_RoceRequester_6 (h : Obligations.RoceRequester) : Completes (.workRequestDone 0) (qpLab 1 { wrs := [{ writeWr with una := 1 }] }) :=
  ((h 0 0 (qpLab 1 { wrs := [{ writeWr with una := 1 }] })).2.2.1 { writeWr with una := 1 } [] (by decide +kernel) (by decide +kernel) (by decide +kernel) (by decide +kernel)).completes

theorem witness_RoceRequester_7 (h : Obligations.RoceRequester) : Completes (.launchTimeReached 0) (qpLab 1 { launch := some { writeWr with off := 0 } }) :=
  ((h 0 0 (qpLab 1 { launch := some { writeWr with off := 0 } })).2.2.2 { writeWr with off := 0 } (by decide +kernel) (by decide +kernel) (by decide +kernel) (by decide +kernel) (by decide +kernel) (by decide +kernel) (by decide +kernel) (by decide +kernel) (by decide +kernel) (by decide +kernel) (by decide +kernel) (by decide +kernel) (by decide +kernel)).completes

theorem witness_RoceControl_1 (h : Obligations.RoceControl) : Completes (.qpSendProducer 0 1) (qpLab 1 { comps := 64 }) :=
  (((h.1 0 1 (qpLab 1 { comps := 64 }) (by decide +kernel)).1 (by decide +kernel)).1 (by decide +kernel) (by decide +kernel) (by decide +kernel) (by decide +kernel)).completes

theorem witness_RoceControl_2 (h : Obligations.RoceControl) : Completes (.qpRecvProducer 0 64) (qpLab 1 pair0) :=
  (((h.1 0 64 (qpLab 1 pair0) (by decide +kernel)).1 (by decide +kernel)).2.1 (by decide +kernel) (by decide +kernel) (by decide +kernel)).completes

theorem witness_RoceControl_3 (h : Obligations.RoceControl) : Completes (.qpCompConsumer 0 2) (qpLab 1 { comps := 2 }) :=
  (((h.1 0 2 (qpLab 1 { comps := 2 }) (by decide +kernel)).1 (by decide +kernel)).2.2 (by decide +kernel) (by decide +kernel)).completes

theorem witness_RoceControl_4 (h : Obligations.RoceControl) : Completes (.qpSendProducer 0 1) (qpLab 0 pair0) :=
  ((h.1 0 1 (qpLab 0 pair0) (by decide +kernel)).2 (by decide +kernel) (by decide +kernel)).completes

theorem witness_RoceControl_5 (h : Obligations.RoceControl) : Completes (.qpConfigWrite tenant 0 (qpNoRecv 1)) (qpLab 0 pair0) :=
  ((h.2.1 tenant 0 (qpNoRecv 1) (qpLab 0 pair0) modInst (by decide +kernel) (by decide +kernel) (by decide +kernel)).1 (by decide +kernel) (by decide +kernel) (by decide +kernel) (by decide +kernel) (by decide +kernel)).completes

theorem witness_RoceControl_6 (h : Obligations.RoceControl) : Completes (.qpConfigWrite tenant 0 (qpNoRecv 1)) (qpLab 2 pair0) :=
  ((h.2.1 tenant 0 (qpNoRecv 1) (qpLab 2 pair0) modInst (by decide +kernel) (by decide +kernel) (by decide +kernel)).2 (by decide +kernel)).completes

def region3 : List Byte := leBytes 8 0x10000 ++ leBytes 4 0x10000 ++ leBytes 4 0x30 ++ zeros 4

theorem witness_RoceControl_7 (h : Obligations.RoceControl) : Completes (.mrEntryWrite tenant 3 region3) (qpLab 1 pair0) :=
  (h.2.2.1 tenant 3 region3 (qpLab 1 pair0) 0 (by decide +kernel) (by decide +kernel) (by decide +kernel)).completes

theorem witness_RoceControl_8 (h : Obligations.RoceControl) : Completes (.cnpReceived 0) (qpLab 1 pair0) :=
  ((h.2.2.2 0 (qpLab 1 pair0) (by decide +kernel)).1 (by decide +kernel)).completes

def qpNoVi : State := (qpLab 1 pair0).on (fun c => c.updPart 0 (fun p => { p with vis := 0 }))

theorem witness_RoceControl_9 (h : Obligations.RoceControl) : Completes (.cnpReceived 0) (qpNoVi) :=
  ((h.2.2.2 0 qpNoVi (by decide +kernel)).2.1 (by decide +kernel)).completes

theorem witness_RoceControl_10 (h : Obligations.RoceControl) : Completes (.ecnAlphaDecay 0) (qpLab 1 pair0) :=
  ((h.2.2.2 0 (qpLab 1 pair0) (by decide +kernel)).2.2.1).completes

theorem witness_RoceControl_11 (h : Obligations.RoceControl) : Completes (.ecnRateIncrease 0) (qpLab 1 pair0) :=
  ((h.2.2.2 0 (qpLab 1 pair0) (by decide +kernel)).2.2.2).completes

/-- A message's head and payload: a type, a session, a sequence, an acknowledgement. -/
def vctHead (ty sess seq ack : Nat) (p : List Byte) : List Byte :=
  leBytes 1 1 ++ leBytes 1 ty ++ zeros 2 ++ leBytes 4 sess ++ leBytes 4 seq ++ leBytes 4 ack ++ leBytes 2 p.length ++ zeros 14 ++ p
/-- The message with the tag of a session whose key is empty. -/
def signed (hd : List Byte) : List Byte := hd ++ fitTo 32 (Config.kmac256 [] hd 32)
def openPayload : List Byte := zeros 0x5B

theorem witness_SessionMessages_1 (h : Obligations.SessionMessages) : Completes (.sessionOpen 9 (vctHead vctOpen 0 0 0 openPayload)) (st lab) :=
  (((h.1 9 (vctHead vctOpen 0 0 0 openPayload) (st lab) (by decide +kernel)).1 (by decide +kernel)).1 (by decide +kernel)).completes

theorem witness_SessionMessages_2 (h : Obligations.SessionMessages) : Completes (.sessionOpen 9 (vctHead vctOpen 0 0 0 openPayload ++ [0#8])) (st lab) :=
  (((h.1 9 (vctHead vctOpen 0 0 0 openPayload ++ [0#8]) (st lab) (by decide +kernel)).1 (by decide +kernel)).2 (by decide +kernel)).completes

/-- An open of class ANY that awaits its proof, and the proof. -/
def opened1 : PendOpen := { openMsg := openPayload, challenge := zeros 0x38 ++ List.replicate 32 7#8 ++ zeros 32, priv := zeros 56, cls := 0, part := 0, key := 0 }
def proof1 (b : Byte) : List Byte := List.replicate 32 7#8 ++ zeros 0xB1 ++ [b]
def awaiting : State := st { lab with opens := [opened1] }

theorem witness_SessionMessages_3 (h : Obligations.SessionMessages) : Completes (.sessionProof 9 (vctHead vctProof 0 0 0 (proof1 0))) (awaiting) :=
  (((h.1 9 (vctHead vctProof 0 0 0 (proof1 0)) awaiting (by decide +kernel)).2 (by decide +kernel) (by decide +kernel) opened1 (by decide +kernel)).1 3 (by decide +kernel) (by decide +kernel) (by decide +kernel)).completes

theorem witness_SessionMessages_4 (h : Obligations.SessionMessages) : Completes (.sessionProof 9 (vctHead vctProof 0 0 0 (proof1 1))) (awaiting) :=
  (((h.1 9 (vctHead vctProof 0 0 0 (proof1 1)) awaiting (by decide +kernel)).2 (by decide +kernel) (by decide +kernel) opened1 (by decide +kernel)).2 (by decide +kernel)).completes

theorem witness_SessionMessages_5 (h : Obligations.SessionMessages) : Completes (.sessionProofTimeout 0) (awaiting) :=
  (h.2.1 0 awaiting).completes

/-- A session of class OPERATOR in slot 0 with credit; four events are in the module's stream. -/
def oper (credit : Nat) : Sess := { id := 1, cls := 2, credit := credit, addr := 9, last := 6, replies := [(6, 0, [5#8])], acked := 1, tries := [(2, 1), (3, 3)] }
def vctLab (se : Sess) : State := st { lab with sess := [(0, se)], streams := [(8, { next := 5, events := [{ seq := 2, ty := 0x0801 }, { seq := 3, ty := 0x0801 }, { seq := 4, ty := 0x0801 }] })] }
def vctNow (se : Sess) : Chip := (vctLab se).chip.setSess 0 { se with badTags := 0, addr := 9 }

theorem witness_SessionMessages_6 (h : Obligations.SessionMessages) : Completes (.sessionClose 9 (signed (vctHead vctClose 1 7 0 []))) (vctLab (oper 0)) :=
  ((h.2.2 0 (oper 0) (vctLab (oper 0))).1 9 (signed (vctHead vctClose 1 7 0 [])) (vctNow (oper 0)) (Chip.authentic_signed _ _ _ 0 _ (oper 0) (by decide +kernel) (by decide +kernel) (by decide +kernel) (.inr (by decide +kernel)) (by decide +kernel) (by decide +kernel)) (by decide +kernel)).completes

theorem witness_SessionMessages_7 (h : Obligations.SessionMessages) : Completes (.vctIdleTimeout 0) (vctLab (oper 0)) :=
  ((h.2.2 0 (oper 0) (vctLab (oper 0))).2 (by decide +kernel)).completes

/-- A request for the first object of the dictionary's descriptor, in one record. -/
def reqHead (seq : Nat) : List Byte := vctHead vctRequest 1 seq 0 (leBytes 8 1 ++ leBytes 2 3 ++ leBytes 2 0x1000 ++ zeros 12)
def asked1 : State × Nat × List Byte :=
  ({ vctLab (oper 1000000) with chip := (vctNow (oper 1000000)).setSess 0 { oper 1000000 with credit := 0, last := 7 } } : State).dictRequest 0 { oper 1000000 with credit := 0, last := 7 } (msgPayload (signed (reqHead 7)))

theorem witness_RequestsAndEvents_1 (h : Obligations.RequestsAndEvents) : Completes (.request 9 (signed (reqHead 7))) (vctLab (oper 1000000)) :=
  ((h.1 9 (signed (reqHead 7)) 0 (vctNow (oper 1000000)) (oper 1000000) (vctLab (oper 1000000)) (by decide +kernel)).1 (Chip.authentic_signed _ _ _ 0 _ (oper 1000000) (by decide +kernel) (by decide +kernel) (by decide +kernel) (.inr (by decide +kernel)) (by decide +kernel) (by decide +kernel)) |>.1 (by decide +kernel) (by decide +kernel) (by decide +kernel) asked1.1 asked1.2.1 asked1.2.2 (Tbl.get asked1.1.chip.sess {} 0) rfl (by decide +kernel) (by decide +kernel) (by decide +kernel) (by decide +kernel)).completes

theorem witness_RequestsAndEvents_2 (h : Obligations.RequestsAndEvents) : Completes (.request 9 (signed (reqHead 6))) (vctLab (oper 0)) :=
  ((h.1 9 (signed (reqHead 6)) 0 (vctNow (oper 0)) (oper 0) (vctLab (oper 0)) (by decide +kernel)).1 (Chip.authentic_signed _ _ _ 0 _ (oper 0) (by decide +kernel) (by decide +kernel) (by decide +kernel) (.inr (by decide +kernel)) (by decide +kernel) (by decide +kernel)) |>.2.1 0 [5#8] (by decide +kernel) (by decide +kernel)).completes

theorem witness_RequestsAndEvents_3 (h : Obligations.RequestsAndEvents) : Completes (.request 9 (signed (reqHead 24))) (vctLab (oper 0)) :=
  ((h.1 9 (signed (reqHead 24)) 0 (vctNow (oper 0)) (oper 0) (vctLab (oper 0)) (by decide +kernel)).1 (Chip.authentic_signed _ _ _ 0 _ (oper 0) (by decide +kernel) (by decide +kernel) (by decide +kernel) (.inr (by decide +kernel)) (by decide +kernel) (by decide +kernel)) |>.2.2.1 (by decide +kernel) (by decide +kernel)).completes

theorem witness_RequestsAndEvents_4 (h : Obligations.RequestsAndEvents) : Completes (.request 9 (signed (reqHead 23))) (vctLab (oper 999999)) :=
  ((h.1 9 (signed (reqHead 23)) 0 (vctNow (oper 999999)) (oper 999999) (vctLab (oper 999999)) (by decide +kernel)).1 (Chip.authentic_signed _ _ _ 0 _ (oper 999999) (by decide +kernel) (by decide +kernel) (by decide +kernel) (.inr (by decide +kernel)) (by decide +kernel) (by decide +kernel)) |>.2.2.2 (by decide +kernel) (by decide +kernel) (by decide +kernel) (by decide +kernel)).completes

def fetchHead (first : Nat) : List Byte := vctHead vctFetch 1 7 0 (leBytes 4 first ++ leBytes 1 2)
def ackHead (upto : Nat) : List Byte := vctHead vctAck 1 7 upto []

theorem witness_RequestsAndEvents_5 (h : Obligations.RequestsAndEvents) : Completes (.eventFetch 9 (signed (fetchHead 3))) (vctLab (oper 1000000)) :=
  ((h.1 9 (signed (fetchHead 3)) 0 (vctNow (oper 1000000)) (oper 1000000) (vctLab (oper 1000000)) (by decide +kernel)).2.1 (Chip.authentic_signed _ _ _ 0 _ (oper 1000000) (by decide +kernel) (by decide +kernel) (by decide +kernel) (.inl (by decide +kernel)) (by decide +kernel) (by decide +kernel)) (by decide +kernel) (by decide +kernel) (by decide +kernel)).completes

theorem witness_RequestsAndEvents_6 (h : Obligations.RequestsAndEvents) : Completes (.eventFetch 9 (signed (fetchHead 1))) (vctLab (oper 1000000)) :=
  ((h.1 9 (signed (fetchHead 1)) 0 (vctNow (oper 1000000)) (oper 1000000) (vctLab (oper 1000000)) (by decide +kernel)).2.1 (Chip.authentic_signed _ _ _ 0 _ (oper 1000000) (by decide +kernel) (by decide +kernel) (by decide +kernel) (.inl (by decide +kernel)) (by decide +kernel) (by decide +kernel)) (by decide +kernel) (by decide +kernel) (by decide +kernel)).completes

theorem witness_RequestsAndEvents_7 (h : Obligations.RequestsAndEvents) : Completes (.eventAck 9 (signed (ackHead 3)) true) (vctLab (oper 0)) :=
  ((h.1 9 (signed (ackHead 3)) 0 (vctNow (oper 0)) (oper 0) (vctLab (oper 0)) (by decide +kernel)).2.2 true (Chip.authentic_signed _ _ _ 0 _ (oper 0) (by decide +kernel) (by decide +kernel) (by decide +kernel) (.inr (by decide +kernel)) (by decide +kernel) (by decide +kernel)) (by decide +kernel) (by decide +kernel) (by decide +kernel) (by decide +kernel) (by decide +kernel) (by decide +kernel)).completes

theorem witness_RequestsAndEvents_8 (h : Obligations.RequestsAndEvents) : Completes (.eventRetryTimeout 0 2) (vctLab (oper 0)) :=
  ((h.2 0 2 (oper 0) { seq := 2, ty := 0x0801 } (vctLab (oper 0)) (by decide +kernel) (by decide +kernel) (by decide +kernel) (by decide +kernel) (by decide +kernel) (by decide +kernel) (by decide +kernel)).1 (by decide +kernel)).completes

theorem witness_RequestsAndEvents_9 (h : Obligations.RequestsAndEvents) : Completes (.eventRetryTimeout 0 3) (vctLab (oper 0)) :=
  ((h.2 0 3 (oper 0) { seq := 3, ty := 0x0801 } (vctLab (oper 0)) (by decide +kernel) (by decide +kernel) (by decide +kernel) (by decide +kernel) (by decide +kernel) (by decide +kernel) (by decide +kernel)).2 (by decide +kernel)).completes

def idleRow : ObjRow := ⟨0x1001, 0x1001, 0x00, 0x00, 1, 3, 2, 30, 0, 4, false, .none, .rng 5 3600⟩
def operSess : Sess := { id := 1, cls := 2 }

theorem witness_DictionaryOperations_1 (h : Obligations.DictionaryOperations) : Completes (.read operator 0x1001 0 4) (st lab) :=
  ((h operator 0x1001 0 (st lab) operSess (by decide +kernel)).1 4 idleRow modInst (leBytes 4 30) (by decide +kernel) (by decide +kernel) (by decide +kernel) (by decide +kernel) (by decide +kernel)).completes

theorem witness_DictionaryOperations_2 (h : Obligations.DictionaryOperations) : Completes (.write operator 0x1001 0 (leBytes 4 60)) (st lab) :=
  (((h operator 0x1001 0 (st lab) operSess (by decide +kernel)).2.1 (leBytes 4 60) idleRow modInst (by decide +kernel) (by decide +kernel) (by decide +kernel)).1).completes

theorem witness_DictionaryOperations_3 (h : Obligations.DictionaryOperations) : Completes (.write operator 0x1001 0 (leBytes 4 60)) (st lab) :=
  (((h operator 0x1001 0 (st lab) operSess (by decide +kernel)).2.1 (leBytes 4 60) idleRow modInst (by decide +kernel) (by decide +kernel) (by decide +kernel)).2 (by decide +kernel) (by decide +kernel)).completes

theorem witness_DictionaryOperations_4 (h : Obligations.DictionaryOperations) : Completes (.describe operator 0x1001 0) (st lab) :=
  ((h operator 0x1001 0 (st lab) operSess (by decide +kernel)).2.2.1 idleRow (by decide +kernel)).completes

theorem witness_DictionaryOperations_5 (h : Obligations.DictionaryOperations) : Completes (.read operator 0x1001 9 4) (st lab) :=
  (((h operator 0x1001 9 (st lab) operSess (by decide +kernel)).2.2.2 (by decide +kernel)).1 4).completes

theorem witness_DictionaryOperations_6 (h : Obligations.DictionaryOperations) : Completes (.write operator 0x1001 9 [0#8]) (st lab) :=
  (((h operator 0x1001 9 (st lab) operSess (by decide +kernel)).2.2.2 (by decide +kernel)).2.1 [0#8]).completes

theorem witness_DictionaryOperations_7 (h : Obligations.DictionaryOperations) : Completes (.describe operator 0x1001 9) (st lab) :=
  (((h operator 0x1001 9 (st lab) operSess (by decide +kernel)).2.2.2 (by decide +kernel)).2.2).completes

def planRow : ObjRow := (objFind (atIdx Obj.STEER_STAGED 0 / 256) (atIdx Obj.STEER_STAGED 0 % 256)).getD idleRow
def planIdx : W16 := BitVec.ofNat 16 (atIdx Obj.STEER_STAGED 0 / 256)
def planSub : Byte := BitVec.ofNat 8 (atIdx Obj.STEER_STAGED 0 % 256)
def planLab (b : Tbl BlockXfer) : State := (light [] []).on (fun c => { c with sess := [(0, { id := 1, cls := 2, blocks := b })] })
def planSess (b : Tbl BlockXfer) : Sess := { id := 1, cls := 2, blocks := b }
def four : Tbl BlockXfer := [1, 2, 3, 4].map (fun h => (h, { write := false, idx := 0, sub := 0, part := 0, total := 0 }))
def reading : BlockXfer := { write := false, idx := 0x8100, sub := 0, part := 0, total := 32, buf := fillRatio 8 8 8 8 }
def writing (n : Nat) : BlockXfer := { write := true, idx := planIdx.toNat, sub := planSub.toNat, part := 0, total := 32, buf := zeros 32, have_ := [(0, n)] }

theorem witness_BlockTransfers_1 (h : Obligations.BlockTransfers) : Completes (.blockOpenRead operator planIdx planSub) (planLab []) :=
  (((h operator (planLab []) (planSess []) (by decide +kernel)).1 planIdx planSub).1 planRow modInst (fillRatio 8 8 8 8) (by decide +kernel) (by decide +kernel) |>.1 (by decide +kernel)).completes

theorem witness_BlockTransfers_2 (h : Obligations.BlockTransfers) : Completes (.blockOpenRead operator planIdx planSub) (planLab four) :=
  (((h operator (planLab four) (planSess four) (by decide +kernel)).1 planIdx planSub).1 planRow modInst (fillRatio 8 8 8 8) (by decide +kernel) (by decide +kernel) |>.2 (by decide +kernel)).completes

theorem witness_BlockTransfers_3 (h : Obligations.BlockTransfers) : Completes (.blockOpenWrite operator planIdx planSub 32) (planLab []) :=
  (((h operator (planLab []) (planSess []) (by decide +kernel)).1 planIdx planSub).2 32 planRow modInst (by decide +kernel) |>.1 (by decide +kernel) (by decide +kernel)).completes

theorem witness_BlockTransfers_4 (h : Obligations.BlockTransfers) : Completes (.blockOpenWrite operator planIdx planSub 32) (planLab four) :=
  (((h operator (planLab four) (planSess four) (by decide +kernel)).1 planIdx planSub).2 32 planRow modInst (by decide +kernel) |>.2 (by decide +kernel)).completes

theorem witness_BlockTransfers_5 (h : Obligations.BlockTransfers) : Completes (.blockRead operator 5 24 8) (planLab [(5, reading)]) :=
  (((h operator (planLab [(5, reading)]) (planSess [(5, reading)]) (by decide +kernel)).2 5 reading (by decide +kernel)).1 24 8 (by decide +kernel) (by decide +kernel) (by decide +kernel) (by decide +kernel)).completes

theorem witness_BlockTransfers_6 (h : Obligations.BlockTransfers) : Completes (.blockWrite operator 5 31 [9#8]) (planLab [(5, writing 31)]) :=
  (((h operator (planLab [(5, writing 31)]) (planSess [(5, writing 31)]) (by decide +kernel)).2 5 (writing 31) (by decide +kernel)).2.1 31 [9#8] (by decide +kernel) (by decide +kernel) (by decide +kernel) (by decide +kernel)).completes

theorem witness_BlockTransfers_7 (h : Obligations.BlockTransfers) : Completes (.blockCommit operator 5) (planLab [(5, writing 32)]) :=
  (((h operator (planLab [(5, writing 32)]) (planSess [(5, writing 32)]) (by decide +kernel)).2 5 (writing 32) (by decide +kernel)).2.2.1 (by decide +kernel) (by decide +kernel)).completes

theorem witness_BlockTransfers_8 (h : Obligations.BlockTransfers) : Completes (.blockCommit operator 5) (planLab [(5, writing 31)]) :=
  (((h operator (planLab [(5, writing 31)]) (planSess [(5, writing 31)]) (by decide +kernel)).2 5 (writing 31) (by decide +kernel)).2.2.2.1 (by decide +kernel) (by decide +kernel)).completes

theorem witness_BlockTransfers_9 (h : Obligations.BlockTransfers) : Completes (.blockClose operator 5) (planLab [(5, reading)]) :=
  (((h operator (planLab [(5, reading)]) (planSess [(5, reading)]) (by decide +kernel)).2 5 reading (by decide +kernel)).2.2.2.2.1).completes

theorem witness_BlockTransfers_10 (h : Obligations.BlockTransfers) : Completes (.blockIdleTimeout 0 5) (planLab [(5, reading)]) :=
  (((h operator (planLab [(5, reading)]) (planSess [(5, reading)]) (by decide +kernel)).2 5 reading (by decide +kernel)).2.2.2.2.2).completes

theorem witness_ResetsBegin_1 (h : Obligations.ResetsBegin) : Completes (.resetL1 0 0 1 []) (st lab) :=
  (h.1 0 0 1 [] (st lab) (by decide +kernel)).completes

theorem witness_ResetsBegin_2 (h : Obligations.ResetsBegin) : Completes (.resetL2 0 3 4 [(0, true, 2)]) (st lab) :=
  (h.2.1 0 3 4 [(0, true, 2)] (st lab) (by decide +kernel)).completes

theorem witness_ResetsBegin_3 (h : Obligations.ResetsBegin) : Completes (.resetL3 0 1 [] []) (st lab) :=
  (h.2.2.1 0 1 [] (st lab) (by decide +kernel)).completes

theorem witness_ResetsBegin_4 (h : Obligations.ResetsBegin) : Completes (.resetL4 1 [] []) (st lab) :=
  (h.2.2.2.1 1 [] (st lab) (by decide +kernel)).completes

theorem witness_ResetsBegin_5 (h : Obligations.ResetsBegin) : Completes (.resetL5 1 true) (st lab) :=
  (h.2.2.2.2.1 1 true (st lab) (by decide +kernel) (by decide +kernel)).completes

theorem witness_ResetsBegin_6 (h : Obligations.ResetsBegin) : Completes (.resetL6 1 false) (st lab) :=
  (h.2.2.2.2.2 1 false (st lab) (by decide +kernel)).completes

/-- An L3 reset of partition 0 in progress, then an L5 reset. -/
def inReset : State := st { lab with resets := [{ level := 3, cause := 1 }, { level := 5, cause := 1 }] }
def tooOften : State := queued { st := .rewinding, rewinds := 300, frontierCount := 5, cmds := [{ cmdOf opMove [] with count := 5 }] }

theorem witness_ResetsEnd_1 (h : Obligations.ResetsEnd) : Completes (.resetEnd 0) (inReset) :=
  (h.1 0 inReset { level := 3, cause := 1 } (by decide +kernel) (by decide +kernel)).completes

theorem witness_ResetsEnd_2 (h : Obligations.ResetsEnd) : Completes (.resetBoundExpired 0) (inReset) :=
  (h.2.1 0 inReset { level := 3, cause := 1 } (by decide +kernel) (by decide +kernel) (by decide +kernel) (by decide +kernel)).completes

theorem witness_ResetsEnd_3 (h : Obligations.ResetsEnd) : Completes (.resetBoundExpired 1) (inReset) :=
  (h.2.2.1 1 inReset { level := 5, cause := 1 } (by decide +kernel) (by decide +kernel) (by decide +kernel)).completes

theorem witness_ResetsEnd_4 (h : Obligations.ResetsEnd) : Completes (.unackedWriteTimeout 0) (inReset) :=
  (h.2.2.2.1 0 inReset 0 { level := 3, cause := 1 } (by decide +kernel) (by decide +kernel) (by decide +kernel) (by decide +kernel) (by decide +kernel)).completes

theorem witness_ResetsEnd_5 (h : Obligations.ResetsEnd) : Completes (.replayLimitReached 0 0) (tooOften) :=
  (h.2.2.2.2 0 0 tooOften (by decide +kernel) (by decide +kernel) (by decide +kernel)).completes

def remapping : State := st (lab.updRidge 0 (fun r => { r with remap := some { remove := [3], spare := some 16 } }))

theorem witness_SpurFailures_1 (h : Obligations.SpurFailures) : Completes (.sramCorrected 0 3) (st lab) :=
  (h.1 0 3 (st lab) (by decide +kernel)).completes

theorem witness_SpurFailures_2 (h : Obligations.SpurFailures) : Completes (.sramUncorrectable 0 3 0x40#64) (st lab) :=
  (h.2.1 0 3 0x40#64 (st lab) (by decide +kernel) (by decide +kernel)).completes

theorem witness_SpurFailures_3 (h : Obligations.SpurFailures) : Completes (.spurSuspendTimeout 0 3) (st lab) :=
  (h.2.2.1 0 3 (st lab) (by decide +kernel) (by decide +kernel)).completes

theorem witness_SpurFailures_4 (h : Obligations.SpurFailures) : Completes (.spurFailed 0 16) (st lab) :=
  (h.2.2.2.1 0 16 (st lab) (by decide +kernel) (by decide +kernel) (by decide +kernel) (by decide +kernel)).completes

theorem witness_SpurFailures_5 (h : Obligations.SpurFailures) : Completes (.spurRetireReq operator (BitVec.ofNat 16 3)) (st lab) :=
  (h.2.2.2.2.1 operator 0 3 (st lab) modInst (by decide +kernel) (by decide +kernel) (by decide +kernel) (by decide +kernel) (by decide +kernel) (by decide +kernel)).completes

theorem witness_SpurFailures_6 (h : Obligations.SpurFailures) : Completes (.spareSelftestDone 0 true) (remapping) :=
  (h.2.2.2.2.2.1 0 remapping { remove := [3], spare := some 16 } 16 (by decide +kernel) (by decide +kernel)).completes

theorem witness_SpurFailures_7 (h : Obligations.SpurFailures) : Completes (.ridgeSpadUncorrectable 0 0x1FFFFFF#25 none) (st lab) :=
  (h.2.2.2.2.2.2.1 0 0x1FFFFFF#25 (st lab) (by decide +kernel)).completes

theorem witness_SpurFailures_8 (h : Obligations.SpurFailures) : Completes (.ridgeSpadUncorrectable 15 0#25 none) (st lab) :=
  (h.2.2.2.2.2.2.1 15 0#25 (st lab) (by decide +kernel)).completes

theorem witness_SpurFailures_9 (h : Obligations.SpurFailures) : Completes (.screeUnitTimeout 15 17) (st lab) :=
  (h.2.2.2.2.2.2.2 15 17 (st lab)).completes

/-- Stewards of which A has missed its limit and B restarts or not, and a restart of SUP; frame 9. -/
def watched (b : Bool) : State := st { put lab [(Obj.LEASE_HOLDER, 2), (Obj.LEASE_TERM, 7), (Obj.LEASE_FRAME, 4)] with
  frame := 9, agents := [(0, { misses := 100 }), (1, { restarting := b }), (18, { restarting := b })] }

theorem witness_WatchdogAndLease_1 (h : Obligations.WatchdogAndLease) : Completes (.heartbeat 18 true) (watched false) :=
  (h.1 18 true (watched false) (by decide +kernel) (by decide +kernel)).completes

theorem witness_WatchdogAndLease_2 (h : Obligations.WatchdogAndLease) : Completes (.heartbeat 2 false) (watched true) :=
  (h.1 2 false (watched true) (by decide +kernel) (by decide +kernel)).completes

theorem witness_WatchdogAndLease_3 (h : Obligations.WatchdogAndLease) : Completes (.agentHung 0) (watched false) :=
  (h.2.1 0 (watched false) (by decide +kernel) (by decide +kernel) (by decide +kernel) (by decide +kernel) (by decide +kernel) (by decide +kernel)).completes

theorem witness_WatchdogAndLease_4 (h : Obligations.WatchdogAndLease) : Completes (.stewardRestartDone true) (watched true) :=
  (h.2.2.1 true (watched true) (by decide +kernel)).completes

theorem witness_WatchdogAndLease_5 (h : Obligations.WatchdogAndLease) : Completes (.supRestartDone) (watched true) :=
  (h.2.2.2.1 (watched true) (by decide +kernel)).completes

theorem witness_WatchdogAndLease_6 (h : Obligations.WatchdogAndLease) : Completes (.leaseClaim true) (st lab) :=
  ((h.2.2.2.2.1 true (st lab)).1 (by decide +kernel)).completes

theorem witness_WatchdogAndLease_7 (h : Obligations.WatchdogAndLease) : Completes (.leaseClaim true) (watched true) :=
  ((h.2.2.2.2.1 true (watched true)).2 (by decide +kernel)).completes

theorem witness_WatchdogAndLease_8 (h : Obligations.WatchdogAndLease) : Completes (.leaseRenew true 7#32 true) (watched true) :=
  ((h.2.2.2.2.2.1 true true 7#32 (watched true)).1 (by decide +kernel) (by decide +kernel)).completes

theorem witness_WatchdogAndLease_9 (h : Obligations.WatchdogAndLease) : Completes (.leaseRenew true 6#32 false) (watched true) :=
  ((h.2.2.2.2.2.1 true false 6#32 (watched true)).2 (by decide +kernel)).completes

theorem witness_WatchdogAndLease_10 (h : Obligations.WatchdogAndLease) : Completes (.leaseLapse) (watched true) :=
  (h.2.2.2.2.2.2 (watched true) (by decide +kernel) (by decide +kernel)).completes

/-- A staged record, a log in some state, a stub entry, and a token for slot 0. -/
def ev1 : EvRec := { ty := 0x0801, part := 0, data := [1, 2] }
def token1 : List Byte := leBytes 8 0x1234 ++ leBytes 4 7 ++ leBytes 4 1 ++ zeros 184
def logging (used state : Nat) : State := st { put lab [(Obj.CAIRN_USED, used), (Obj.CAIRN_STATE, state), (Obj.CAIRN_BAD_PAGES, 2), (Obj.CAIRN_LOG_GEN, 7), (Obj.CNT_CAIRN_LOST, 3)] with
  cairn := { staging := [ev1, ev1], stub := [zeros 16], log := [ev1] } }

theorem witness_Recorder_1 (h : Obligations.Recorder) : Completes (.cairnCommit []) (logging 4000 0) :=
  ((h.1 (logging 4000 0) ev1 [ev1] (by decide +kernel) (by decide +kernel)).1 (by decide +kernel) (by decide +kernel)).completes

theorem witness_Recorder_2 (h : Obligations.Recorder) : Completes (.cairnCommit []) (logging 16769000 0) :=
  ((h.1 (logging 16769000 0) ev1 [ev1] (by decide +kernel) (by decide +kernel)).2 (by decide +kernel)).completes

theorem witness_Recorder_3 (h : Obligations.Recorder) : Completes (.cairnFlashTimeout) (logging 4000 0) :=
  (h.2.1 (logging 4000 0) (by decide +kernel) (by decide +kernel)).completes

theorem witness_Recorder_4 (h : Obligations.Recorder) : Completes (.cairnClear operator token1) (logging 4000 1) :=
  (h.2.2.1 operator token1 (logging 4000 1) modInst (by decide +kernel) (by decide +kernel)).completes

theorem witness_Recorder_5 (h : Obligations.Recorder) : Completes (.cairnClearDone true) (logging 4000 2) :=
  ((h.2.2.2 (logging 4000 2) (by decide +kernel)).1).completes

theorem witness_Recorder_6 (h : Obligations.Recorder) : Completes (.cairnClearDone false) (logging 4000 2) :=
  ((h.2.2.2 (logging 4000 2) (by decide +kernel)).2).completes

/-- Five trace records of Ridge 0; partition 0's trace ring set; frame 100. -/
def traced (n base : Nat) : State := st { ((lab.set 0 Obj.TRACE_BASE base).set 0 Obj.TRACE_BYTES 65536).updRidge 0 (fun r => { r with traceBuf := List.replicate n (zeros 32) }) with frame := 100 }
def watchSet (b : Nat) : State := st ((lab.set 0 Obj.WATCH_BASE b).set 0 Obj.WATCH_BYTES 65536)

theorem witness_TraceAndFreeze_1 (h : Obligations.TraceAndFreeze) : Completes (.freezeAt operator 102#64) (traced 0 0) :=
  ((h.1 operator 102#64 (traced 0 0) modInst (by decide +kernel)).1 (by decide +kernel) (by decide +kernel) (by decide +kernel)).completes

theorem witness_TraceAndFreeze_2 (h : Obligations.TraceAndFreeze) : Completes (.freezeAt operator 1048676#64) (traced 0 0) :=
  ((h.1 operator 1048676#64 (traced 0 0) modInst (by decide +kernel)).1 (by decide +kernel) (by decide +kernel) (by decide +kernel)).completes

theorem witness_TraceAndFreeze_3 (h : Obligations.TraceAndFreeze) : Completes (.freezeAt operator 101#64) (traced 0 0) :=
  ((h.1 operator 101#64 (traced 0 0) modInst (by decide +kernel)).2 (.inl (by decide +kernel))).completes

theorem witness_TraceAndFreeze_4 (h : Obligations.TraceAndFreeze) : Completes (.freezeAt operator 1048677#64) (traced 0 0) :=
  ((h.1 operator 1048677#64 (traced 0 0) modInst (by decide +kernel)).2 (.inr (by decide +kernel))).completes

theorem witness_TraceAndFreeze_5 (h : Obligations.TraceAndFreeze) : Completes (.traceFlush 0) (traced 3 65536) :=
  ((h.2.1 0 0 (traced 3 65536) (traced 3 65536) (by decide +kernel)).1 (by decide +kernel)).completes

def traced1 (base : Nat) : State := (traced 5 base).on (fun c => c.updRidge 0 (fun r => { r with traceBuf := List.replicate 1 (zeros 32) }))
def lines1 : List Byte := (List.replicate 4 (zeros 32)).flatten

theorem witness_TraceAndFreeze_6 (h : Obligations.TraceAndFreeze) : Completes (.traceFlush 0) (traced 5 65536) :=
  ((h.2.1 0 0 (traced 5 65536) ((traced1 65536).writePhys 0 65536 lines1).1 (by decide +kernel)).2 (by decide +kernel) (by decide +kernel) none (Prod.ext rfl (by decide +kernel))).completes

theorem witness_TraceAndFreeze_7 (h : Obligations.TraceAndFreeze) : Completes (.traceFlush 0) (traced 5 (2 ^ 60)) :=
  ((h.2.1 0 0 (traced 5 (2 ^ 60)) ((traced1 (2 ^ 60)).writePhys 0 (2 ^ 60) lines1).1 (by decide +kernel)).2 (by decide +kernel) (by decide +kernel) ((traced1 (2 ^ 60)).writePhys 0 (2 ^ 60) lines1).2 rfl).completes

theorem witness_TraceAndFreeze_8 (h : Obligations.TraceAndFreeze) : Completes (.watchBaseWrite tenant 0#64) (watchSet 65536) :=
  ((h.2.2 tenant 0#64 (watchSet 65536) 0 (by decide +kernel) (by decide +kernel)).1 (by decide +kernel)).completes

theorem witness_TraceAndFreeze_9 (h : Obligations.TraceAndFreeze) : Completes (.watchBaseWrite tenant 131072#64) (watchSet 0) :=
  (((h.2.2 tenant 131072#64 (watchSet 0) 0 (by decide +kernel) (by decide +kernel)).2.1 (by decide +kernel) (by decide +kernel)).1 (by decide +kernel)).completes

theorem witness_TraceAndFreeze_10 (h : Obligations.TraceAndFreeze) : Completes (.watchBaseWrite tenant 131072#64) (watchSet 65536) :=
  (((h.2.2 tenant 131072#64 (watchSet 65536) 0 (by decide +kernel) (by decide +kernel)).2.1 (by decide +kernel) (by decide +kernel)).2 (by decide +kernel)).completes

theorem witness_TraceAndFreeze_11 (h : Obligations.TraceAndFreeze) : Completes (.watchBaseWrite tenant 0x100000000#64) (watchSet 0) :=
  ((h.2.2 tenant 0x100000000#64 (watchSet 0) 0 (by decide +kernel) (by decide +kernel)).2.2 (by decide +kernel) (by decide +kernel)).completes

/-- Flash of bank 1 written with a window whose first byte is wrong; bank 0 runs, its header at security version 5 with bit 0 of its flags. -/
def banks (st0 st1 : Nat) : State := st { put lab [(Obj.FW_BANK_RUNNING, 0), (Obj.FW_BANK_STATE, st0), (Obj.FW_BANK_STATE + 1, st1),
  (Obj.FW_BANK_SVN + 1, 4), (Obj.ROLLBACK_COUNT, 2), (Obj.VENDOR_KEY_STATE, 1), (Obj.VENDOR_KEY_STATE + 1, 1)] with
  flash := [(0, zeros 5 ++ [1#8, 0#8, 0#8, 5#8]), (64, [9#8] ++ zeros 15)] }
def factory : State := st (put lab [(Obj.FW_BANK_STATE, 3), (Obj.FW_BANK_STATE + 1, bankVerifying), (Obj.ROLLBACK_COUNT, 0)])

theorem witness_FirmwareBanks_1 (h : Obligations.FirmwareBanks) : Completes (.fwActivate service) (banks 3 1) :=
  (((h (banks 3 1)).1 service modInst (by decide +kernel)).1 (by decide +kernel)).completes

theorem witness_FirmwareBanks_2 (h : Obligations.FirmwareBanks) : Completes (.fwActivate service) (banks 3 2) :=
  (((h (banks 3 2)).1 service modInst (by decide +kernel)).2 (by decide +kernel)).completes

theorem witness_FirmwareBanks_3 (h : Obligations.FirmwareBanks) : Completes (.fwStageResult) (factory) :=
  (((h factory).2.1 1 (by decide +kernel) (fun _ => by decide +kernel)).1 (by rw [Chip.bankPasses, if_pos (by decide +kernel)]; exact decide_eq_true (Nat.zero_le _))).completes

theorem witness_FirmwareBanks_4 (h : Obligations.FirmwareBanks) : Completes (.fwStageResult) (banks 3 2) :=
  (((h (banks 3 2)).2.1 1 (by decide +kernel) (fun _ => by decide +kernel)).2 (by decide +kernel)).completes

theorem witness_FirmwareBanks_5 (h : Obligations.FirmwareBanks) : Completes (.rollbackCommit service 4) (banks 3 3) :=
  (((h (banks 3 3)).2.2 service 4 modInst (by decide +kernel)).1 (by decide +kernel) (by decide +kernel) (by decide +kernel) (by decide +kernel) (by decide +kernel) ⟨1, by decide +kernel⟩).completes

theorem witness_FirmwareBanks_6 (h : Obligations.FirmwareBanks) : Completes (.rollbackCommit service 3) (banks 3 3) :=
  (((h (banks 3 3)).2.2 service 3 modInst (by decide +kernel)).1 (by decide +kernel) (by decide +kernel) (by decide +kernel) (by decide +kernel) (by decide +kernel) ⟨1, by decide +kernel⟩).completes

theorem witness_FirmwareBanks_7 (h : Obligations.FirmwareBanks) : Completes (.rollbackCommit service 2) (banks 3 3) :=
  (((h (banks 3 3)).2.2 service 2 modInst (by decide +kernel)).2 (by decide +kernel)).completes

def opkeys : State := st (put { lab with sess := [(0, { id := 1, cls := 2, keySlot := 0 }), (1, { id := 2, cls := 1, part := 0 }), (2, { id := 3, cls := 3, keySlot := 0 }), (3, { id := 4, cls := 2, keySlot := 2 })] }
  [(Obj.OPKEY_STATE, 2), (Obj.OPKEY_STATE + 1, 1), (Obj.OPKEY_STATE + 2, 2), (Obj.OPKEY_STATE + 3, 0)])
def newKey (i : Byte) : List Byte := [i, 1#8] ++ zeros 6 ++ List.replicate 64 0xAB#8

theorem witness_KeysAndReports_1 (h : Obligations.KeysAndReports) : Completes (.opkeyProvision service (newKey 3)) (opkeys) :=
  (((h service opkeys modInst).1 (newKey 3) (by decide +kernel) (by decide +kernel) (.inl (by decide +kernel)) (by decide +kernel)).1 (by decide +kernel)).completes

theorem witness_KeysAndReports_2 (h : Obligations.KeysAndReports) : Completes (.opkeyProvision service (newKey 1)) (opkeys) :=
  (((h service opkeys modInst).1 (newKey 1) (by decide +kernel) (by decide +kernel) (.inl (by decide +kernel)) (by decide +kernel)).2 (by decide +kernel)).completes

theorem witness_KeysAndReports_3 (h : Obligations.KeysAndReports) : Completes (.opkeyRevoke service (BitVec.ofNat 8 (2 : Fin 4).val)) (opkeys) :=
  (((h service opkeys modInst).2.1 2 { id := 3, cls := 3, keySlot := 0 } (by decide +kernel) (by decide +kernel)).1 (by decide +kernel) ⟨0, by decide +kernel⟩).completes

theorem witness_KeysAndReports_4 (h : Obligations.KeysAndReports) : Completes (.opkeyRevoke service (BitVec.ofNat 8 (0 : Fin 4).val)) (opkeys) :=
  (((h service opkeys modInst).2.1 0 { id := 3, cls := 3, keySlot := 0 } (by decide +kernel) (by decide +kernel)).2 (by decide +kernel)).completes

theorem witness_KeysAndReports_5 (h : Obligations.KeysAndReports) : Completes (.attestRequest tenant (zeros 40)) (opkeys) :=
  (((h tenant opkeys 17).2.2.1 (zeros 40) { id := 2, cls := 1, part := 0 } (by decide +kernel) (by decide +kernel) (.inr (by decide +kernel)) (by decide +kernel))).completes

theorem witness_KeysAndReports_6 (h : Obligations.KeysAndReports) : Completes (.attestRequest operator (zeros 32 ++ [0xFF#8] ++ zeros 7)) (opkeys) :=
  (((h operator opkeys 16).2.2.1 (zeros 32 ++ [0xFF#8] ++ zeros 7) { id := 1, cls := 2, keySlot := 0 } (by decide +kernel) (by decide +kernel) (.inl (by decide +kernel)) (by decide +kernel))).completes

theorem witness_KeysAndReports_7 (h : Obligations.KeysAndReports) : Completes (.cfgFactoryArm service) (opkeys) :=
  ((h service opkeys modInst).2.2.2.1 (by decide +kernel)).completes

theorem witness_KeysAndReports_8 (h : Obligations.KeysAndReports) : Completes (.cfgFactoryDisarm service) (opkeys) :=
  ((h service opkeys modInst).2.2.2.2 (by decide +kernel)).completes

def straps1 : Straps := { board := 0x15, slot := 3, laser := true, boot := 1, readable := true }
/-- A module without power, and one at an alert, in a hold, in a power cycle, in the recovery of bytes. -/
def dark (x : Side) : State := st { lab with side := x }
def held (h src step : Nat) : State := st { put lab [(Obj.BOOT_SRC, src), (Obj.STARTUP_STEP, step), (Obj.FW_BANK_STATE, 3), (Obj.ROLLBACK_COUNT, 0)] with side := { power := true, enable := true, hold := h, rstLow := true } }

theorem witness_PowerPins_1 (h : Obligations.PowerPins) : Completes (.trayPwrEnAssert straps1 true) (dark { rstLow := true }) :=
  (h.1 straps1 true (dark { rstLow := true }) (by decide +kernel) (by decide +kernel) (by decide +kernel)).completes

theorem witness_PowerPins_2 (h : Obligations.PowerPins) : Completes (.inputReturn straps1 true) (dark { rstLow := true, enable := true, input := false }) :=
  (h.2.1 straps1 true (dark { rstLow := true, enable := true, input := false }) (by decide +kernel) (by decide +kernel) (by decide +kernel)).completes

theorem witness_PowerPins_3 (h : Obligations.PowerPins) : Completes (.trayPwrEnDeassert) (st lab) :=
  ((h.2.2.1 (st lab) (by decide +kernel) (by decide +kernel)).1).completes

theorem witness_PowerPins_4 (h : Obligations.PowerPins) : Completes (.inputLost) (st lab) :=
  ((h.2.2.1 (st lab) (by decide +kernel) (by decide +kernel)).2).completes

theorem witness_PowerPins_5 (h : Obligations.PowerPins) : Completes (.trayRstLAssert) (st lab) :=
  (h.2.2.2.1 (st lab) (by decide +kernel) (by decide +kernel) (by decide +kernel) (by decide +kernel) (by decide +kernel)).completes

theorem witness_PowerPins_6 (h : Obligations.PowerPins) : Completes (.trayRstLAssert) (dark {}) :=
  (h.2.2.2.2.1 (dark {}) (by decide +kernel)).completes

theorem witness_PowerPins_7 (h : Obligations.PowerPins) : Completes (.trayRstLRelease true) (st lab) :=
  (h.2.2.2.2.2.1 true (st lab) (by decide +kernel)).completes

theorem witness_PowerPins_8 (h : Obligations.PowerPins) : Completes (.trayRstLRelease true) (held 1 3 2) :=
  (h.2.2.2.2.2.2.1 true (held 1 3 2) (by decide +kernel) (by decide +kernel)).completes

theorem witness_PowerPins_9 (h : Obligations.PowerPins) : Completes (.trayRstLRelease true) (held 2 3 2) :=
  (h.2.2.2.2.2.2.1 true (held 2 3 2) (by decide +kernel) (by decide +kernel)).completes

theorem witness_PowerPins_10 (h : Obligations.PowerPins) : Completes (.trayRstLRelease true) (held 1 0 2) :=
  (h.2.2.2.2.2.2.2.1 true (held 1 0 2) (by decide +kernel) (by decide +kernel) (by decide +kernel) (by rw [Chip.bankOk, if_pos (by decide +kernel)]; exact (Bool.and_eq_true _ _).mpr ⟨by decide +kernel, decide_eq_true (Nat.zero_le _)⟩)).completes

theorem witness_PowerPins_11 (h : Obligations.PowerPins) : Completes (.ready { spurs := [], stackMask := 0, dimms := [], cal := [], ms := 7 }) (held 0 0 7) :=
  (h.2.2.2.2.2.2.2.2.1 { spurs := [], stackMask := 0, dimms := [], cal := [], ms := 7 } (held 0 0 7) (by decide +kernel) (by decide +kernel) (by decide +kernel) (by decide +kernel)).completes

theorem witness_PowerPins_12 (h : Obligations.PowerPins) : Completes (.l6TrayWaitExpired) (dark { power := true, enable := true, cycle := true }) :=
  (h.2.2.2.2.2.2.2.2.2 (dark { power := true, enable := true, cycle := true }) (by decide +kernel) (by decide +kernel) (by decide +kernel)).completes

theorem witness_TrayRegisters_1 (h : Obligations.TrayRegisters) : Completes (.alertCauseWrite 0xFF) (dark { power := true, cycle := true, cause := 0x3F }) :=
  (h.1 0xFF (dark { power := true, cycle := true, cause := 0x3F }) (by decide +kernel)).completes

theorem witness_TrayRegisters_2 (h : Obligations.TrayRegisters) : Completes (.alertEnWrite 0xFF) (st lab) :=
  (h.2.1 0xFF (st lab) (by decide +kernel)).completes

theorem witness_TrayRegisters_3 (h : Obligations.TrayRegisters) : Completes (.i3cDynamicAddress 0x2A) (st lab) :=
  (h.2.2.1 0x2A (st lab) (by decide +kernel)).completes

theorem witness_TrayRegisters_4 (h : Obligations.TrayRegisters) : Completes (.recoveryBegin) (st lab) :=
  (h.2.2.2.1 (st lab) (by decide +kernel)).completes

def recovering (w : Bool) : State := dark { power := true, recState := 1, recWanted := w, recOffset := 2, recBytes := [(0, 9#8)] }

theorem witness_TrayRegisters_5 (h : Obligations.TrayRegisters) : Completes (.recoveryData none [7#8]) (recovering false) :=
  (h.2.2.2.2.1 none [7#8] (recovering false) (by decide +kernel) (by decide +kernel) (by decide +kernel)).completes

theorem witness_TrayRegisters_6 (h : Obligations.TrayRegisters) : Completes (.recoveryData (some 0x3FFFFFF#32) [7#8]) (recovering false) :=
  (h.2.2.2.2.1 (some 0x3FFFFFF#32) [7#8] (recovering false) (by decide +kernel) (by decide +kernel) (by decide +kernel)).completes

theorem witness_TrayRegisters_7 (h : Obligations.TrayRegisters) : Completes (.recoveryEnd) (recovering false) :=
  (h.2.2.2.2.2.1 (recovering false) (by decide +kernel) (by decide +kernel) (by decide +kernel)).completes

theorem witness_TrayRegisters_8 (h : Obligations.TrayRegisters) : Completes (.recoveryEnd) (recovering true) :=
  (h.2.2.2.2.2.2.1 (recovering true) (by decide +kernel) (by decide +kernel) (by decide +kernel)).completes

theorem witness_TrayRegisters_9 (h : Obligations.TrayRegisters) : Completes (.recoveryAbort) (recovering true) :=
  ((h.2.2.2.2.2.2.2.1 (recovering true) (by decide +kernel)).1).completes

theorem witness_TrayRegisters_10 (h : Obligations.TrayRegisters) : Completes (.recoveryIdleTimeout) (recovering true) :=
  ((h.2.2.2.2.2.2.2.1 (recovering true) (by decide +kernel)).2).completes

theorem witness_TrayRegisters_11 (h : Obligations.TrayRegisters) : Completes (.readVin 7#16) (dark {}) :=
  ((h.2.2.2.2.2.2.2.2 7#16 (dark {}) (by decide +kernel)).1).completes

theorem witness_TrayRegisters_12 (h : Obligations.TrayRegisters) : Completes (.readTemperature1 7#16) (dark {}) :=
  ((h.2.2.2.2.2.2.2.2 7#16 (dark {}) (by decide +kernel)).2.2.2.1).completes

theorem witness_TrayRegisters_13 (h : Obligations.TrayRegisters) : Completes (.statusWord 7#16) (dark { pmbusFaults := 8 }) :=
  ((h.2.2.2.2.2.2.2.2 7#16 (dark { pmbusFaults := 8 }) (by decide +kernel)).2.2.2.2.1).completes

theorem witness_TrayRegisters_14 (h : Obligations.TrayRegisters) : Completes (.clearFaults) (dark { pmbusFaults := 8 }) :=
  ((h.2.2.2.2.2.2.2.2 7#16 (dark { pmbusFaults := 8 }) (by decide +kernel)).2.2.2.2.2).completes

def droopy : State := st ((put lab [(Obj.LEASE_HOLDER, 1)]).updRidge 0 (fun r => { r with inStretch := true, point := 9 }))

theorem witness_PowerCommands_1 (h : Obligations.PowerCommands) : Completes (.droopSag 0) (st lab) :=
  (h.1 0 (st lab) (by decide +kernel)).completes

theorem witness_PowerCommands_2 (h : Obligations.PowerCommands) : Completes (.stretchEnd 0 5) (droopy) :=
  (h.2.1 0 5 droopy (by decide +kernel)).completes

theorem witness_PowerCommands_3 (h : Obligations.PowerCommands) : Completes (.domainSag 16) (droopy) :=
  (h.2.2.1 16 droopy (by decide +kernel) (by decide +kernel)).completes

theorem witness_PowerCommands_4 (h : Obligations.PowerCommands) : Completes (.domainSag 29) (st { lab with sagSaid := [29] }) :=
  (h.2.2.1 29 (st { lab with sagSaid := [29] }) (by decide +kernel) (by decide +kernel)).completes

theorem witness_PowerCommands_5 (h : Obligations.PowerCommands) : Completes (.dvfsRampDone 0) (droopy) :=
  (h.2.2.2.1 0 droopy (by decide +kernel)).completes

theorem witness_PowerCommands_6 (h : Obligations.PowerCommands) : Completes (.domainFault 18) (droopy) :=
  (h.2.2.2.2.1 18 droopy (by decide +kernel) (by decide +kernel)).completes

theorem witness_PowerCommands_7 (h : Obligations.PowerCommands) : Completes (.domainFault 29) (droopy) :=
  (h.2.2.2.2.1 29 droopy (by decide +kernel) (by decide +kernel)).completes

theorem witness_PowerCommands_8 (h : Obligations.PowerCommands) : Completes (.domainFault 0) (droopy) :=
  (h.2.2.2.2.1 0 droopy (by decide +kernel) (by decide +kernel)).completes

theorem witness_PowerCommands_9 (h : Obligations.PowerCommands) : Completes (.domainFault 17) (droopy) :=
  (h.2.2.2.2.1 17 droopy (by decide +kernel) (by decide +kernel)).completes

theorem witness_PowerCommands_10 (h : Obligations.PowerCommands) : Completes (.domainFault 19) (droopy) :=
  (h.2.2.2.2.1 19 droopy (by decide +kernel) (by decide +kernel)).completes

theorem witness_PowerCommands_11 (h : Obligations.PowerCommands) : Completes (.thermalTrip) (droopy) :=
  (h.2.2.2.2.2.1 droopy (by decide +kernel) (by decide +kernel) (by decide +kernel)).completes

theorem witness_PowerCommands_12 (h : Obligations.PowerCommands) : Completes (.powerLimitWrite operator 2000#32) (droopy) :=
  ((h.2.2.2.2.2.2.1 operator 2000#32 droopy modInst (by decide +kernel)).1 (by decide +kernel) (by decide +kernel)).completes

theorem witness_PowerCommands_13 (h : Obligations.PowerCommands) : Completes (.powerLimitWrite operator 3600#32) (droopy) :=
  ((h.2.2.2.2.2.2.1 operator 3600#32 droopy modInst (by decide +kernel)).1 (by decide +kernel) (by decide +kernel)).completes

def shared1 : State := droopy.on (fun c => c.updPart 0 (fun p => { p with share := 1000 }))

theorem witness_PowerCommands_14 (h : Obligations.PowerCommands) : Completes (.powerLimitWrite operator 2200#32) (shared1) :=
  ((h.2.2.2.2.2.2.1 operator 2200#32 shared1 modInst (by decide +kernel)).1 (by decide +kernel) (by decide +kernel)).completes

theorem witness_PowerCommands_15 (h : Obligations.PowerCommands) : Completes (.powerLimitWrite operator 2199#32) (shared1) :=
  ((h.2.2.2.2.2.2.1 operator 2199#32 shared1 modInst (by decide +kernel)).2 (by decide +kernel)).completes

theorem witness_PowerCommands_16 (h : Obligations.PowerCommands) : Completes (.memsDriveSupplyLost) (droopy) :=
  (h.2.2.2.2.2.2.2 droopy).completes

theorem witness_StepRunsTheFrontCommand_1 : State.reset.pending = [] ∧ (st lab).pending = [] := by decide

theorem witness_MemoryStaysCanonical_1 : ∃ t, filling.mem.wf = true ∧ step { filling with pending := [.zeroFillDone 3] } = .next t := ⟨_, by decide +kernel, rfl⟩

theorem witness_ResetState_1 : Tbl.find factoryRegs (ikey modInst Obj.POWER_LIMIT) = none ∧ objDefault Obj.POWER_LIMIT = 3600 := by decide +kernel

theorem witness_LogicalSpurs_1 : ridgeSpad ≤ addrOf ridgeSpad ∧ lab.local1 0 ridgeSpad = some (0, 0) := by decide +kernel

theorem witness_LogicalSpurs_2 : ridgeSpad ≤ addrOf (ridgeSpad + 17 * spurSpad) ∧ lab.local1 0 (ridgeSpad + 17 * spurSpad) = none := by decide +kernel

theorem witness_AlertLine_1 : (dark { power := true, trip := true, causeEn := 0 }).chip.side.power = true ∧ (dark { power := true, trip := true, causeEn := 0 }).chip.alertLow = true := by decide +kernel

theorem witness_AlertLine_2 : (dark { power := true, cause := 1, causeEn := 2 }).chip.side.power = true ∧ (dark { power := true, cause := 1, causeEn := 2 }).chip.alertLow = false := by decide +kernel

theorem witness_Zf3Elements_1 : (⟨[0, 1, 7], 127⟩ : Block).mtd < 255 ∧ fld (⟨[0, 1, 7], 2 ^ 21⟩ : Block).mtd 21 8 ≠ 0 := by decide

end
end

section
/-! PROOF. Logical Spurs (R19) and the Spur part of a Ridge's local space (R70, Table 3.6): a set bit's place in the ascending list
of a map's set bits is the number of set bits below it. -/
namespace Sys2Proof.Machine

theorem length_setBits (n x : Nat) : (setBits n x).length = popCount n x := rfl

/-- Widening the range by one position appends that position when its bit is set. -/
theorem setBits_succ (n x : Nat) : setBits (n + 1) x = setBits n x ++ if bitAt x n then [n] else [] := by
  by_cases hbit : x.testBit n = true <;>
    simp [setBits, bitAt, List.range_succ, hbit]

/-- The entry at place `l` is the position whose bit is set with `l` set bits below it. -/
theorem setBits_getElem?_eq_some_iff (n x l p : Nat) :
    (setBits n x)[l]? = some p ↔ p < n ∧ bitAt x p = true ∧ popCount p x = l := by
  induction n with
  | zero => simp [setBits]
  | succ n ih =>
    have hlen := length_setBits n x
    rw [setBits_succ]
    by_cases hl : l < (setBits n x).length
    · -- an entry of the shorter list: it is not `n`, which has more than `l` set bits below it
      rw [List.getElem?_append_left hl, ih]
      have hn : popCount p x = l → p ≠ n := by rintro h rfl; omega
      constructor
      · rintro ⟨hp, hbit, hcount⟩
        exact ⟨by omega, hbit, hcount⟩
      · rintro ⟨hp, hbit, hcount⟩
        exact ⟨by have := hn hcount; omega, hbit, hcount⟩
    · -- past the shorter list: no position below `n` has `l` set bits below it, so only `n` is left
      have hlow : ¬ (p < n ∧ bitAt x p = true ∧ popCount p x = l) := fun h =>
        hl (List.getElem?_eq_some_iff.mp (ih.mpr h)).1
      rw [List.getElem?_append_right (Nat.le_of_not_lt hl), hlen]
      constructor
      · intro h
        split at h
        next hbit =>
          obtain ⟨hplace, rfl⟩ : l - popCount n x = 0 ∧ n = p := by
            simpa [List.getElem?_singleton] using h
          exact ⟨by omega, hbit, by omega⟩
        next => simp at h
      · rintro ⟨hp, hbit, hcount⟩
        obtain rfl : p = n := by
          by_contra hne
          exact hlow ⟨by omega, hbit, hcount⟩
        simp [hbit, hcount]

/-- Logical Spur `l` stands at the set bit of RIDGE_SPUR_MAP that has `l` set bits below it (R19). -/
theorem Chip.spurPos_eq_some_iff (c : Chip) (n l p : Nat) :
    c.spurPos n l = some p ↔ p < 17 ∧ bitAt (c.spurMap n) p = true ∧ popCount p (c.spurMap n) = l :=
  setBits_getElem?_eq_some_iff 17 (c.spurMap n) l p

/-- Above the Ridge scratchpad a local address names a Spur by its logical number, and the rest is the offset (R70). -/
theorem Chip.local1_eq_some_iff_of_spur (c : Chip) {n a p o : Nat} (ha : ridgeSpad ≤ addrOf a) :
    c.local1 n a = some (p, o) ↔
      c.spurPos n ((addrOf a - ridgeSpad) / spurSpad) = some p ∧ o = (addrOf a - ridgeSpad) % spurSpad := by
  simp [Chip.local1, Nat.not_lt.mpr ha, eq_comm]

/-- Settles O58: the place of a set bit in the list of set bits, and the Spur branch of a local address. -/
theorem logicalSpurs : Obligations.LogicalSpurs := by
  unfold Obligations.LogicalSpurs
  exact fun c n l p => ⟨c.spurPos_eq_some_iff n l p, fun _ _ ha => c.local1_eq_some_iff_of_spur ha⟩

end Sys2Proof.Machine
end

section
/-! PROOF. ZF3 elements (R33): the values of the eight codes, what a conversion to a format without outliers can make (R35–R39),
and how a stored block reads. -/
namespace Sys2Proof.Machine

/-- The search for a magnitude stays within the list it scans. -/
theorem lowIdx_le (ms : List Nat) (p q i : Nat) : lowIdx ms p q i ≤ i + ms.length - 1 := by
  induction ms generalizing i with
  | nil => simp [lowIdx]
  | cons x t ih =>
    have hlater := ih (i + 1)
    rw [lowIdx, List.length_cons]
    split <;> omega

/-- Whatever the mode, a rounded magnitude is a code of the format (R43, R44). -/
theorem roundMag_lt {f : Nat} (hf : mags f ≠ []) (r : Rnd) (lane m : Nat) (e : Int) (n : NumSt) :
    (roundMag f r lane m e n).1 < (mags f).length := by
  have hlen := List.length_pos_of_ne_nil hf
  unfold roundMag
  extract_lets x p q ms top lo
  have hlow : lo ≤ top := by simpa [lo, top, ms] using lowIdx_le (mags f) p q 0
  have htop : top < (mags f).length := by simp only [top, ms]; omega
  split
  · exact htop
  next hlo =>
    have hnext : lo + 1 < (mags f).length := by omega
    repeat' split
    all_goals omega

/-- The next element of a block that is converted without an outlier: its code goes before those already made. -/
def elementStep (f : Nat) (r : Rnd) (lane0 : Nat) (xs : List Fv) (e : Int) (acc : List Nat × NumSt) (i : Nat) : List Nat × NumSt :=
  match xs.getD i (.fin false 0 0) with
  | .fin neg m x =>
    let (c, n) := roundMag f r ((lane0 + i) % 256) m (x - e) acc.2
    (signedCode f neg c :: acc.1, n)
  | _ => (0 :: acc.1, acc.2)

/-- What a conversion to a format without outliers makes: a zero block, or every element's code with the scale as the whole
metadata (R36–R39). -/
theorem toBlock_cases {f : Nat} (hf : f ≠ fmtZF4) (h : Int) (esc : Bool) (r : Rnd) (lane : Nat) (xs : List Fv) (n : NumSt) :
    (toBlock f h esc r lane xs n).1 = zeroBlock ∨
    ∃ e : Int, (toBlock f h esc r lane xs n).1 =
      ⟨((List.range xs.length).foldl (elementStep f r lane xs (clampScale e)) ([], n)).1.reverse, (clampScale e + 127).toNat⟩ := by
  unfold toBlock
  split
  · exact .inl rfl
  split
  split
  · exact .inl rfl
  next =>
    simp only [hf, decide_false, Bool.false_and, Bool.false_eq_true, if_false, Nat.add_zero]
    exact .inr ⟨_, rfl⟩

/-- A zero, or a magnitude code of the format with its sign. -/
def ElementCode (f x : Nat) : Prop := x = 0 ∨ ∃ neg c, c < (mags f).length ∧ x = signedCode f neg c

theorem elementStep_codes {f : Nat} {r : Rnd} {lane : Nat} {xs : List Fv} {e : Int} {acc : List Nat × NumSt} (hf : mags f ≠ [])
    (hacc : ∀ x ∈ acc.1, ElementCode f x) (i : Nat) : ∀ x ∈ (elementStep f r lane xs e acc i).1, ElementCode f x := by
  unfold elementStep
  split
  next neg m y _ =>
    have hc := roundMag_lt hf r ((lane + i) % 256) m (y - e) acc.2
    exact List.forall_mem_cons.mpr ⟨.inr ⟨neg, _, hc, rfl⟩, hacc⟩
  · exact List.forall_mem_cons.mpr ⟨.inl rfl, hacc⟩

/-- A conversion to a format without outliers makes element codes of that format, and its metadata word is a scale other than
the reserved 255 (R35). -/
theorem toBlock_codes_and_scale {f : Nat} (hf : f ≠ fmtZF4) (hm : mags f ≠ []) (h : Int) (esc : Bool) (r : Rnd) (lane : Nat)
    (xs : List Fv) (n : NumSt) :
    (∀ x ∈ (toBlock f h esc r lane xs n).1.codes, ElementCode f x) ∧ (toBlock f h esc r lane xs n).1.mtd < 255 := by
  obtain hzero | ⟨e, hb⟩ := toBlock_cases hf h esc r lane xs n
  · simp [hzero, zeroBlock, ElementCode]
  · have hcodes := List.foldlRecOn (motive := fun acc => ∀ x ∈ acc.1, ElementCode f x) (List.range xs.length)
      (elementStep f r lane xs (clampScale e)) (b := ([], n)) (by simp) (fun _ hacc i _ => elementStep_codes hm hacc i)
    have hscale : clampScale e ≤ 127 := by rw [clampScale]; omega
    rw [hb]
    exact ⟨fun x hx => hcodes x (List.mem_reverse.mp hx), by show (clampScale e + 127).toNat < 255; omega⟩

/-- An element code of ZF3 has three bits and is not a zero with a sign (R33). -/
theorem ElementCode.zf3 {x : Nat} (hx : ElementCode fmtZF3 x) : x < 8 ∧ x ≠ 4 := by
  obtain rfl | ⟨neg, c, hc, rfl⟩ := hx
  · decide
  · have hc : c < 4 := hc
    interval_cases c <;> cases neg <;> decide

/-- A ZF3 code reads as R33 says: the low two bits choose the magnitude, bit 2 the sign, and a zero magnitude has no sign. -/
theorem codeVal_zf3 (c : Fin 8) (k : Int) : codeVal fmtZF3 c.val k =
    if c.val % 4 = 0 then .fin false 0 0 else .fin (decide (4 ≤ c.val)) ([0, 1, 2, 4].getD (c.val % 4) 0) k := by
  fin_cases c <;> rfl

/-- A scale other than 255 alone is well-formed ZF3 metadata, and the elements are read under it (R33, R35). -/
theorem ofBlock_zf3_of_scale {b : Block} (hb : b.mtd < 255) (n : NumSt) :
    (ofBlock fmtZF3 b n).1 = b.codes.map (fun c => codeVal fmtZF3 c ((b.mtd : Int) - 127)) := by
  have hscale : fld b.mtd 7 0 = b.mtd := by simp [fld]; omega
  have hhigh : fld b.mtd 31 22 = 0 := by simp [fld, Nat.shiftRight_eq_div_pow]; omega
  have hout : fld b.mtd 21 8 = 0 := by simp [fld, Nat.shiftRight_eq_div_pow]; omega
  have hgood : blockBad fmtZF3 b.mtd = false := by simp [blockBad, hscale, hhigh, hout, fmtZF3, fmtZF4]; omega
  have hplain : fmtZF3 ≠ fmtZF4 := by decide
  simp [ofBlock, hgood, hscale, hplain]

/-- A malformed block reads as zeros (R35). -/
theorem ofBlock_of_bad {f : Nat} {b : Block} (hb : blockBad f b.mtd = true) (n : NumSt) :
    (ofBlock f b n).1 = List.replicate 32 (.fin false 0 0) := by
  rw [ofBlock, if_pos hb]

/-- ZF3 metadata with an outlier field are malformed (R33, R35). -/
theorem blockBad_zf3_of_outlier {mtd : Nat} (h : fld mtd 21 8 ≠ 0) : blockBad fmtZF3 mtd = true := by
  simp [blockBad, h, fmtZF3, fmtZF4]

/-- Settles O59: the eight codes, the codes and metadata that a conversion makes, and the reading of a stored block. -/
theorem zf3Elements : Obligations.Zf3Elements := by
  unfold Obligations.Zf3Elements
  refine ⟨codeVal_zf3, fun h esc r lane xs n => ?_, fun b n => ?_⟩
  · obtain ⟨hcodes, hscale⟩ := toBlock_codes_and_scale (f := fmtZF3) (by decide) (by decide) h esc r lane xs n
    exact ⟨fun x hx => (hcodes x hx).zf3, hscale⟩
  · exact ⟨fun hb => ofBlock_zf3_of_scale hb n, fun hb => ofBlock_of_bad (blockBad_zf3_of_outlier hb) n⟩

end Sys2Proof.Machine
end

section
/-! PROOF. Units that run (R40–R42, R63, R64, R102–R105, R112): how the accumulators read after a tile, and what MM, MM_ACC, VEC and
CONVERT leave on their Spur. -/
namespace Sys2Proof.Machine

/-! ### Accumulators (R64) -/

/-- Entry `i` of the table of a list's nonzero entries, the first of them at position `b`. -/
theorem find_nonzero_from (l : List W32) (b i : Nat) :
    Tbl.find (((List.range' b l.length).zip l).filter (fun p => p.2 != 0#32)) i =
      if i < b then none else (l[i - b]?).filter (· != 0#32) := by
  induction l generalizing b with
  | nil => simp
  | cons v l ih =>
    rw [List.length_cons, List.range'_succ, List.zip_cons_cons, List.filter_cons]
    obtain hlt | rfl | hgt := Nat.lt_trichotomy i b
    · have hne : i ≠ b := by omega
      have hlt' : i < b + 1 := by omega
      by_cases hv : v = 0#32 <;> simp [Tbl.find, ih, hv, hne, hlt, hlt']
    · by_cases hv : v = 0#32 <;> simp [Tbl.find, ih, hv, Option.filter_some]
    · have hne : i ≠ b := by omega
      have hle : ¬ i < b := by omega
      have hle' : ¬ i < b + 1 := by omega
      have htail : i - b = i - (b + 1) + 1 := by omega
      by_cases hv : v = 0#32 <;> simp [Tbl.find, ih, hv, hne, hle, hle', htail]

theorem find_tblOf (l : List W32) (i : Nat) : Tbl.find (tblOf l) i = (l[i]?).filter (· != 0#32) := by
  simpa [tblOf, List.range_eq_range'] using find_nonzero_from l 0 i

/-- Accumulators that hold the table of a list read as the list, and as zero beyond it. -/
theorem Chip.accAt_of_tblOf {c : Chip} {n p : Nat} {l : List W32} (hacc : (c.spur n p).acc = tblOf l)
    (hundef : (c.spur n p).accUndef = 0) (i : Nat) : c.accAt n p i = l.getD i 0#32 := by
  rw [Chip.accAt, hacc, find_tblOf, hundef, List.getD_eq_getElem?_getD]
  cases hentry : l[i]? with
  | none => rfl
  | some v => by_cases hv : v = 0#32 <;> simp [hv, Option.filter_some]

/-! ### The sums of a tile (R31, R41, R42, R63) -/

/-- The sum that the array forms at row `i` and column `j` of a tile. -/
def tileSum (a b : List (List (List Fv))) (prior : List (List W32)) (i j : Nat) : W32 :=
  match a[i]?, b[j]? with
  | some ra, some cb => dotBlocks ((prior.getD i []).getD j (f32Zero false)) ra cb
  | _, _ => f32Zero false

/-- Entry `j` of the `i`-th of lists of one length, in their concatenation. -/
theorem getElem?_flatten_of_length {α : Type} {w : Nat} (ls : List (List α)) (hls : ∀ l ∈ ls, l.length = w) (i : Nat) {j : Nat}
    (hj : j < w) : ls.flatten[w * i + j]? = ls[i]?.bind (·[j]?) := by
  induction ls generalizing i with
  | nil => simp
  | cons l ls ih =>
    obtain ⟨hl, hrest⟩ := List.forall_mem_cons.mp hls
    rw [List.flatten_cons]
    cases i with
    | zero => rw [Nat.mul_zero, Nat.zero_add, List.getElem?_append_left (by omega)]; rfl
    | succ i =>
      have hplace : w * (i + 1) + j - l.length = w * i + j := by rw [hl, Nat.mul_succ]; omega
      rw [List.getElem?_append_right (by rw [hl, Nat.mul_succ]; omega), hplace, ih hrest]
      rfl

/-- The results of a tile in row-major order are its sums. -/
theorem tileSums_getD (a b : List (List (List Fv))) (prior : List (List W32)) {i j : Nat} (hi : i < 128) (hj : j < 256) :
    (tileSums a b prior).getD (256 * i + j) 0#32 = tileSum a b prior i j := by
  rw [tileSums, List.getD_eq_getElem?_getD, getElem?_flatten_of_length _ _ i hj]
  · cases ha : a[i]? <;> cases hb : b[j]? <;> simp [tileSum, hi, hj, ha, hb, f32Zero, -List.reduceReplicate]
  · intro l hl
    obtain ⟨i, -, rfl⟩ := List.mem_map.mp hl
    split <;> simp [-List.reduceReplicate]

/-! ### What reporting and charging leave as they were -/

@[simp] theorem Chip.countPart_ridges (c : Chip) (k key n : Nat) : (c.countPart k key n).ridges = c.ridges := by
  unfold Chip.countPart; split <;> rfl

@[simp] theorem Chip.countPart_queues (c : Chip) (k key n : Nat) : (c.countPart k key n).queues = c.queues := by
  unfold Chip.countPart; split <;> rfl

@[simp] theorem Chip.countNum_ridges (c : Chip) (part i n : Nat) : (c.countNum part i n).ridges = c.ridges := by
  unfold Chip.countNum
  split
  · rfl
  · exact c.countPart_ridges _ _ _

@[simp] theorem Chip.report_ridges (c : Chip) (n q count part : Nat) (st : NumSt) : (c.report n q count part st).ridges = c.ridges := by
  simp [Chip.report, Chip.updCmd]

theorem Chip.spur_of_ridges {c d : Chip} (h : c.ridges = d.ridges) (n p : Nat) : c.spur n p = d.spur n p := by
  simp [Chip.spur, Chip.ridge, h]

@[simp] theorem Chip.spur_report (c : Chip) (n q count part : Nat) (st : NumSt) (m p : Nat) :
    (c.report n q count part st).spur m p = c.spur m p := Chip.spur_of_ridges (by simp) m p

@[simp] theorem Chip.spur_updCmd (c : Chip) (n q count : Nat) (f : Cmd → Cmd) (m p : Nat) :
    (c.updCmd n q count f).spur m p = c.spur m p := rfl

@[simp] theorem State.charge_mem (s0 : State) (n q : Nat) (s : State) : (s0.charge n q s).mem = s.mem := rfl

@[simp] theorem State.spur_charge (s0 : State) (n q : Nat) (s : State) (m p : Nat) :
    (s0.charge n q s).chip.spur m p = s.chip.spur m p := rfl

@[simp] theorem Chip.spur_updUnitOf (c : Chip) (n p : Nat) (f : SpurUnit → SpurUnit) :
    (c.updUnitOf n p f).spur n p = { c.spur n p with unit := (c.spur n p).unit.map f } :=
  c.spur_updSpur_same n p _

/-! ### Units that run -/

/-- A Spur with work has the unit of that work, under a command of its queue. -/
theorem Chip.work_eq_some {c : Chip} {n p : Nat} {w : Work} (h : c.work n p = some w) :
    (c.spur n p).unit = some w.x ∧ c.owner n = some w.part ∧ c.cmd n w.x.queue w.x.count = some w.k := by
  unfold Chip.work at h
  split at h
  next x part hunit howner =>
    obtain ⟨k, hk, rfl⟩ := Option.map_eq_some_iff.mp h
    exact ⟨hunit, howner, hk⟩
  next => simp at h

/-- A unit in the phase that its command's row runs from is run, and what it moved is charged to its queue. -/
theorem State.runOn_of_work {s : State} {ridge : Fin 16} {spur : Fin 17} {w : Work} {op phase : Nat} (f : Work → State)
    (hw : s.chip.work ridge.val spur.val = some w) (hop : w.k.op = op) (hphase : w.x.phase = phase) :
    s.runOn ridge spur op phase f = s.charge ridge.val w.x.queue (f w) := by
  simp [State.runOn, hw, hop, hphase]

/-- A unit that has run without a fault leaves its registers and generators, and is written (R105, R112). -/
theorem State.ranVec_written (s : State) (n p : Nat) (w : Work) (v : VecSt) :
    (s.ranVec n p w none v).chip.spur n p = { s.chip.spur n p with
      vregs := v.regs, gens := v.num.gens, unit := (s.chip.spur n p).unit.map (fun x => { x with phase := 3 }) } ∧
    (s.ranVec n p w none v).mem = s.mem := by
  simp [State.ranVec]

/-- A vector unit runs its program from the Spur's registers and generators, for each of its rows (R105). -/
theorem State.runVec_of_vecRun {s : State} {n p : Nat} {w : Work} {r : State × Option AccFail × VecSt}
    (hrun : State.vecRun n p w ((List.range (w.k.vecRows w.x.unit).2).map ((w.k.vecRows w.x.unit).1 + ·))
      { regs := (s.chip.spur n p).vregs, num := { gens := (s.chip.spur n p).gens } } s = r) :
    s.runVec n p w = r.1.ranVec n p w r.2.1 r.2.2 := by
  rw [← hrun]; rfl

theorem State.runConv_of_convRun {s : State} {n p : Nat} {w : Work} {r : State × Option AccFail × VecSt}
    (hrun : State.convRun n p w (w.k.convSpans w.x.unit)
      { regs := (s.chip.spur n p).vregs, num := { gens := (s.chip.spur n p).gens } } s = r) :
    s.runConv n p w = r.1.ranVec n p w r.2.1 r.2.2 := by
  rw [← hrun]; rfl

/-- The rows of A of a staged tile as the load converter gives them (R54, R103). -/
def Work.valuesA (w : Work) (gens : Tbl W64) : List (List (List Fv)) × NumSt :=
  loadRows (w.k.load false (w.k.promoted (w.k.sliceOf w.x.unit))) (w.k.field 0x30 4) w.x.stageA { gens := gens }

/-- The rows of B of a staged tile, converted after those of A. -/
def Work.valuesB (w : Work) (gens : Tbl W64) : List (List (List Fv)) × NumSt :=
  loadRows (w.k.load true (w.k.promoted (w.k.sliceOf w.x.unit))) (w.k.field 0x30 4) w.x.stageB (w.valuesA gens).2

/-- What the array leaves on a Spur when it has run a staged tile: the sums, the generators, and the unit computed. -/
structure TileComputed (s : State) (n p : Nat) (w : Work) (prior : List (List W32)) (t : State) : Prop where
  acc : (t.chip.spur n p).acc =
    tblOf (tileSums (w.valuesA (s.chip.spur n p).gens).1 (w.valuesB (s.chip.spur n p).gens).1 prior)
  accUndef : (t.chip.spur n p).accUndef = 0
  gens : (t.chip.spur n p).gens = (w.valuesB (s.chip.spur n p).gens).2.gens
  phase : (t.chip.spur n p).unit.map (·.phase) = (s.chip.spur n p).unit.map (fun _ => 2)
  mem : t.mem = s.mem

theorem State.runTile_staged {s : State} {w : Work} (n p : Nat) (prior : List (List W32)) (ha : spaceOf (w.k.field 0x10 8) ≠ 2)
    (hb : spaceOf (w.k.field 0x18 8) ≠ 2) : TileComputed s n p w prior (s.runTile n p w prior) := by
  constructor <;> simp [State.runTile, ha, hb, Work.valuesA, Work.valuesB, Function.comp_def]

/-- After the array has run, an accumulator reads as the sum of its row and column. -/
theorem TileComputed.accAt {s t : State} {n p : Nat} {w : Work} {prior : List (List W32)} (h : TileComputed s n p w prior t)
    {i j : Nat} (hi : i < 128) (hj : j < 256) : t.chip.accAt n p (256 * i + j) =
      tileSum (w.valuesA (s.chip.spur n p).gens).1 (w.valuesB (s.chip.spur n p).gens).1 prior i j := by
  rw [Chip.accAt_of_tblOf h.acc h.accUndef, tileSums_getD _ _ _ hi hj]

/-- Settles O5: each command runs its loaded unit, and the unit leaves what the array, the program or the conversion made. -/
theorem computeUnits : Obligations.ComputeUnits := by
  unfold Obligations.ComputeUnits
  intro ridge spur w s n p kk prom sums ran v0 hw hphase
  obtain ⟨hunit, -, -⟩ := Chip.work_eq_some hw
  have hsums : ∀ (s1 : State) (prior : List (List W32)), (s1.chip.spur n p).unit = some w.x → spaceOf (w.k.field 0x10 8) ≠ 2 →
      spaceOf (w.k.field 0x18 8) ≠ 2 → sums s1 prior (s.charge n w.x.queue (s1.runTile n p w prior)) := by
    intro s1 prior hunit1 ha hb
    have hrun := State.runTile_staged n p prior ha hb (s := s1)
    exact ⟨fun i hi j hj => hrun.accAt hi hj, hrun.gens, hrun.phase.trans (by rw [hunit1]; rfl), hrun.mem⟩
  have hran : ∀ (s1 : State) (v : VecSt), (s1.chip.spur n p).unit = some w.x →
      ran s1 v (s.charge n w.x.queue (s1.ranVec n p w none v)) := by
    intro s1 v hunit1
    obtain ⟨hspur, hmem⟩ := s1.ranVec_written n p w v
    simp [ran, hspur, hmem, hunit1]
  refine ⟨fun hop ha hb => ⟨_, rfl, ?_⟩, fun s1 prior hop ha hb hprior hunit1 => ⟨_, rfl, ?_⟩,
    fun s1 v hop hunit1 hrun => ⟨_, rfl, ?_⟩, fun s1 v hop hunit1 hrun => ⟨_, rfl, ?_⟩⟩
  · rw [State.runOn_of_work _ hw hop hphase]
    exact hsums s [] hunit ha hb
  · rw [State.runOn_of_work _ hw hop hphase, hprior]
    exact hsums s1 prior hunit1 ha hb
  · rw [State.runOn_of_work _ hw hop hphase, State.runVec_of_vecRun hrun]
    exact hran s1 v hunit1
  · rw [State.runOn_of_work _ hw hop hphase, State.runConv_of_convRun hrun]
    exact hran s1 v hunit1

end Sys2Proof.Machine
end

section
/-! PROOF. What the sequencer's issue on a Ridge leaves as it was (R71, R98, R99, R198): one relation, kept by every step of the issue. -/
namespace Sys2Proof.Machine

/-! ### Single updates of a Ridge, a queue and a counter -/

theorem Ridge.spur_setSpur_other (r : Ridge) {p p' : Nat} (x : Spur) (h : p' ≠ p) : (r.setSpur p x).spur p' = r.spur p' :=
  Tbl.get_put_other _ _ _ h

theorem Chip.spur_updSpur_other (c : Chip) (n : Nat) {p p' : Nat} (f : Spur → Spur) (h : p' ≠ p) :
    (c.updSpur n p f).spur n p' = c.spur n p' := by
  simp [Chip.spur, Chip.updSpur, Ridge.spur_setSpur_other _ _ h]

theorem Chip.cmd_of_queues {c d : Chip} (h : c.queues = d.queues) (n q count : Nat) : c.cmd n q count = d.cmd n q count := by
  simp [Chip.cmd, Chip.queue, h]

theorem Chip.cmd_updQueue_same (c : Chip) (n q count : Nat) (f : Queue → Queue) :
    (c.updQueue n q f).cmd n q count = (f (c.queue n q)).cmd count := by
  simp [Chip.cmd]

theorem Chip.cmd_updQueue_other (c : Chip) (n : Nat) {q q' : Nat} (count : Nat) (f : Queue → Queue) (h : q' ≠ q) :
    (c.updQueue n q f).cmd n q' count = c.cmd n q' count := by
  rw [Chip.cmd, Chip.updQueue, Chip.queue_setQueue_other _ _ (by omega)]; rfl

/-- A change of a queue that leaves its commands leaves every command of the Ridge. -/
theorem Chip.cmd_updQueue_of_cmds (c : Chip) (n q : Nat) {f : Queue → Queue} (hf : ∀ x, (f x).cmds = x.cmds) (q' count : Nat) :
    (c.updQueue n q f).cmd n q' count = c.cmd n q' count := by
  by_cases hq : q' = q
  · subst hq
    rw [Chip.cmd_updQueue_same, Queue.cmd, hf]
    rfl
  · exact c.cmd_updQueue_other n count f hq

/-- Changing the commands of a count, and not their count, is seen when a command is looked up. -/
theorem Queue.cmd_updCmd {count : Nat} {f : Cmd → Cmd} (hf : ∀ k, k.count = count → (f k).count = count) (x : Queue) (j : Nat) :
    (x.updCmd count f).cmd j = (x.cmd j).map (fun k => if k.count = count then f k else k) := by
  have hcount : ∀ k : Cmd, (if k.count = count then f k else k).count = k.count := by
    intro k
    split
    next hk => rw [hf k hk, hk]
    next => rfl
  simp [Queue.cmd, Queue.updCmd, List.find?_map, hcount]

theorem Queue.count_of_cmd {x : Queue} {count : Nat} {k : Cmd} (h : x.cmd count = some k) : k.count = count := by
  simpa using List.find?_some h

/-- A command changed in its own queue. -/
theorem Chip.cmd_updCmd_same {c : Chip} {n q count : Nat} {f : Cmd → Cmd} {k : Cmd} (hk : c.cmd n q count = some k)
    (hf : ∀ k, k.count = count → (f k).count = count) : (c.updCmd n q count f).cmd n q count = some (f k) := by
  rw [Chip.updCmd, Chip.cmd_updQueue_same, Queue.cmd_updCmd hf, show (c.queue n q).cmd count = some k from hk]
  simp [Queue.count_of_cmd hk]

/-- A partition's counter is no object of the module's own. -/
theorem Chip.reg_countPart (c : Chip) (k : Nat) {key : Nat} (hkey : key < 2 ^ 24) (n l : Nat) :
    (c.countPart k key n).reg l = c.reg l := by
  unfold Chip.countPart
  split
  · exact Chip.get_set_other c _ (by unfold ikey modInst; omega)
  · rfl

/-! ### What the sequencer's issue leaves as it was (R71, R99, R198) -/

/-- What issuing on Ridge `n` keeps: the module's objects, the units that Spurs of the Ridge hold, and what is done of each
command of its queues. -/
structure Chip.IssueKeeps (n : Nat) (c d : Chip) : Prop where
  reg : ∀ l, d.reg l = c.reg l
  unit : ∀ p x, (c.spur n p).unit = some x → (d.spur n p).unit = some x
  cmd : ∀ q count k, c.cmd n q count = some k → ∃ e, d.cmd n q count = some e ∧ e.done = k.done ∧ e.finished = k.finished

namespace Chip.IssueKeeps

variable {n : Nat} {b c : Chip}

theorem refl (n : Nat) (c : Chip) : IssueKeeps n c c := ⟨fun _ => rfl, fun _ _ h => h, fun _ _ k h => ⟨k, h, rfl, rfl⟩⟩

theorem trans {d : Chip} (h : IssueKeeps n b c) (h' : IssueKeeps n c d) : IssueKeeps n b d where
  reg l := (h'.reg l).trans (h.reg l)
  unit p x hx := h'.unit p x (h.unit p x hx)
  cmd q count k hk := by
    obtain ⟨e, he, hdone, hfin⟩ := h.cmd q count k hk
    obtain ⟨e', he', hdone', hfin'⟩ := h'.cmd q count e he
    exact ⟨e', he', hdone'.trans hdone, hfin'.trans hfin⟩

theorem ite {p : Prop} [Decidable p] {d : Chip} (h : IssueKeeps n b c) (h' : IssueKeeps n b d) :
    IssueKeeps n b (if p then c else d) := by
  split <;> assumption

theorem updQueue (h : IssueKeeps n b c) {q : Nat} {f : Queue → Queue} (hf : ∀ x, (f x).cmds = x.cmds) :
    IssueKeeps n b (c.updQueue n q f) :=
  h.trans ⟨fun _ => rfl, fun _ _ hx => hx,
    fun q' count k hk => ⟨k, by rwa [Chip.cmd_updQueue_of_cmds c n q hf], rfl, rfl⟩⟩

theorem updCmd (h : IssueKeeps n b c) {q count : Nat} {f : Cmd → Cmd}
    (hf : ∀ k, (f k).count = k.count ∧ (f k).done = k.done ∧ (f k).finished = k.finished) :
    IssueKeeps n b (c.updCmd n q count f) := by
  refine h.trans ⟨fun _ => rfl, fun _ _ hx => hx, fun q' j k hk => ?_⟩
  by_cases hq : q' = q
  · subst hq
    refine ⟨if k.count = count then f k else k, ?_, ?_⟩
    · rw [Chip.updCmd, Chip.cmd_updQueue_same, Queue.cmd_updCmd (fun k hk => (hf k).1.trans hk)]
      exact congrArg _ hk
    · split
      · exact (hf k).2
      · exact ⟨rfl, rfl⟩
  · exact ⟨k, by rwa [Chip.updCmd, Chip.cmd_updQueue_other _ _ _ _ hq], rfl, rfl⟩

theorem updRidge (h : IssueKeeps n b c) {f : Ridge → Ridge} (hf : ∀ r, (f r).spurs = r.spurs) : IssueKeeps n b (c.updRidge n f) := by
  refine h.trans ⟨fun _ => rfl, fun p x hx => ?_, fun _ _ k hk => ⟨k, hk, rfl, rfl⟩⟩
  rw [Chip.spur, Chip.ridge_updRidge_same, Ridge.spur, hf]
  exact hx

theorem countPart (h : IssueKeeps n b c) {k key m : Nat} (hkey : key < 2 ^ 24) : IssueKeeps n b (c.countPart k key m) := by
  refine h.trans ⟨c.reg_countPart k hkey m, fun p x hx => ?_, fun q count j hj => ⟨j, ?_, rfl, rfl⟩⟩
  · rwa [Chip.spur_of_ridges (c.countPart_ridges k key m)]
  · rwa [Chip.cmd_of_queues (c.countPart_queues k key m)]

/-- A Spur that held no unit may be given one. -/
theorem updSpur (h : IssueKeeps n b c) {p : Nat} (hfree : (b.spur n p).unit = none) {f : Spur → Spur} :
    IssueKeeps n b (c.updSpur n p f) where
  reg := h.reg
  unit p' x hx := by
    have hp : p' ≠ p := by rintro rfl; simp [hfree] at hx
    rw [Chip.spur_updSpur_other _ _ _ hp]
    exact h.unit p' x hx
  cmd := h.cmd

theorem trace (h : IssueKeeps n b c) (q : Nat) (t : TraceRec) : IssueKeeps n b (c.trace n q t) := by
  unfold Chip.trace
  extract_lets k room push lost c1
  have hpush : ∀ {c : Chip} (t : TraceRec), IssueKeeps n b c → IssueKeeps n b (push c t) := fun _ h => updRidge h (fun _ => rfl)
  have hlost : IssueKeeps n b c1 := ite (updRidge (hpush _ h) (fun _ => rfl)) h
  exact ite h (ite (hpush t hlost) (updRidge (countPart hlost (by decide)) (fun _ => rfl)))

theorem endPart (h : IssueKeeps n b c) (bit unit : Nat) (p : TracePart) : IssueKeeps n b (c.endPart n bit unit p) := by
  unfold Chip.endPart
  split
  · exact h.trace _ _
  · exact h

theorem takePart (h : IssueKeeps n b c) {bit unit : Nat} {old : Option TracePart} {q : Nat} {k : Cmd} {slice : Nat} {d : Chip}
    {part : TracePart} (htake : c.takePart n bit unit old q k slice = (d, part)) : IssueKeeps n b d := by
  have hd : d = (c.takePart n bit unit old q k slice).1 := by rw [htake]
  subst hd
  unfold Chip.takePart
  cases old with
  | none => exact h.trace _ _
  | some o =>
    dsimp only
    split
    · exact h
    · exact (h.endPart _ _ o).trace _ _

/-- A Spur that ends its part keeps what it holds. -/
theorem idleSpur (h : IssueKeeps n b c) (p : Nat) : IssueKeeps n b (c.idleSpur n p) := by
  unfold Chip.idleSpur
  split
  next hfree _ => exact h.trans (updSpur ((refl n c).endPart _ _ _) hfree)
  next => exact h

theorem startCmd (h : IssueKeeps n b c) (q : Nat) (k : Cmd) : IssueKeeps n b (c.startCmd n q k) := by
  unfold Chip.startCmd
  extract_lets
  refine updQueue (updCmd h ?_) ?_
  · exact fun _ => ⟨rfl, rfl, rfl⟩
  · exact fun _ => rfl

theorem startQueue (h : IssueKeeps n b c) (q fuel : Nat) : IssueKeeps n b (c.startQueue n q fuel) := by
  induction fuel generalizing c with
  | zero => exact h
  | succ fuel ih =>
    unfold Chip.startQueue
    extract_lets x
    split
    · exact h
    · exact ite (ih (h.startCmd q _)) h

/-- Giving a unit out moves the bounds of what a command has issued, and nothing it has done. -/
theorem give_progress (k : Cmd) (u frame cyc : Nat) :
    (k.give u frame cyc).count = k.count ∧ (k.give u frame cyc).done = k.done ∧ (k.give u frame cyc).finished = k.finished := by
  unfold Cmd.give
  dsimp only
  repeat' split
  all_goals exact ⟨rfl, rfl, rfl⟩

theorem giveUnit (h : IssueKeeps n b c) (q count u : Nat) : IssueKeeps n b (c.giveUnit n q count u) := by
  unfold Chip.giveUnit
  extract_lets first c1
  have hfirst : IssueKeeps n b c1 := ite (updQueue h (fun _ => rfl)) h
  exact updCmd hfirst (fun k => give_progress k u _ _)

theorem free_of_freeSpurs {p : Nat} {ps : List Nat} (h : c.freeSpurs n = p :: ps) : (c.spur n p).unit = none := by
  have hmem : p ∈ c.freeSpurs n := h ▸ List.mem_cons_self
  unfold Chip.freeSpurs at hmem
  extract_lets r at hmem
  split at hmem
  · simp at hmem
  · simpa [r, Chip.spur] using (List.mem_filter.mp hmem).2

theorem giveSpurs (h : IssueKeeps n b c) (fuel : Nat) : IssueKeeps n b (c.giveSpurs n fuel) := by
  refine h.trans ?_
  clear h
  induction fuel generalizing c with
  | zero => exact refl n c
  | succ fuel ih =>
    unfold Chip.giveSpurs
    split
    · exact refl n c
    next p _ hspurs =>
    split
    · exact refl n c
    next q _ =>
    split
    · exact refl n c
    next count u _ =>
    extract_lets c1 k
    split
    next d part htake =>
    have hgiven : IssueKeeps n c d := ((refl n c).giveUnit q count u).takePart htake
    extract_lets d1
    have hput : IssueKeeps n c d1 := updSpur hgiven (free_of_freeSpurs hspurs)
    refine trans ?_ ih
    exact updRidge hput (fun _ => rfl)

theorem giveEngines (h : IssueKeeps n b c) (fuel : Nat) : IssueKeeps n b (c.giveEngines n fuel) := by
  induction fuel generalizing c with
  | zero => exact h
  | succ fuel ih =>
    unfold Chip.giveEngines
    extract_lets r
    split
    · exact h
    split
    · exact h
    next e _ =>
    split
    · exact h
    next q _ =>
    extract_lets turn
    have hturn : ∀ {c : Chip}, IssueKeeps n b c → IssueKeeps n b (turn c) := fun h => updRidge h (fun _ => rfl)
    split
    · exact ih (hturn (updRidge h (fun _ => rfl)))
    split
    next count u _ _ =>
      extract_lets k c1
      split
      next d part htake =>
      have hgiven : IssueKeeps n b d := (h.giveUnit q count u).takePart htake
      extract_lets d1
      have hpart : IssueKeeps n b d1 := updRidge hgiven (fun _ => rfl)
      exact ih (hturn (updRidge hpart (fun _ => rfl)))
    · exact h

/-- The sequencer's issue takes no unit from a Spur and undoes nothing of a command. -/
theorem dispatch (h : IssueKeeps n b c) : IssueKeeps n b (c.dispatch n) := by
  have hstart : IssueKeeps n b (forQueues (fun c q => c.startQueue n q 16) c) :=
    List.foldlRecOn _ _ h (fun _ hd q _ => hd.startQueue q 16)
  exact (hstart.giveSpurs 17).giveEngines 4

end Chip.IssueKeeps

end Sys2Proof.Machine
end

section
/-! PROOF. Units of work (R53–R55, R62, R98, R103, R105, R135): a tile's load and write-back, the end of a unit, the shadow run that
reaches its limit, and the first overrun of a slice. -/
namespace Sys2Proof.Machine

/-! ### Tiles loaded and written back (R62, R103) -/

@[simp] theorem State.kick_mem (s : State) (n : Nat) : (s.kick n).mem = s.mem := s.on_mem _

@[simp] theorem State.kick_chip (s : State) (n : Nat) : (s.kick n).chip = s.chip.dispatch n := s.on_chip _

/-- A tile whose rows are read and whose destination can be reached has its rows staged. -/
theorem State.loadTile_reached {s s1 s2 s3 : State} {n p : Nat} {w : Work} {ra rb : List (List Byte)}
    (ha : spaceOf (w.k.field 0x10 8) ≠ 2) (hb : spaceOf (w.k.field 0x18 8) ≠ 2) (hra : s.tileRows n p w false = (s1, .ok ra))
    (hrb : s1.tileRows n p w true = (s2, .ok rb)) (hdest : s2.probeDest n w = (s3, none)) :
    s.loadTile n p w = s3.on (fun c => c.updUnitOf n p (fun x => { x with phase := 1, stageA := ra, stageB := rb })) := by
  simp [State.loadTile, ha, hb, hra, hrb, hdest]

/-- A tile whose destination can be reached and whose rows are written is written, with its generators advanced. -/
theorem State.writeback_written {s s1 s2 : State} {n p : Nat} {w : Work} {st : NumSt} (hdest : s.probeDest n w = (s1, none))
    (hrows : State.writeTile n p w (List.range (w.k.tile w.x.unit).2.2.1) { gens := (s1.chip.spur n p).gens } s1 = (s2, none, st)) :
    (s.writeback n p w).chip.spur n p = { s2.chip.spur n p with
      gens := st.gens, unit := (s2.chip.spur n p).unit.map (fun x => { x with phase := 3 }) } ∧
    (s.writeback n p w).mem = s2.mem := by
  simp [State.writeback, hdest, hrows]

/-! ### The end of a unit (R53, R71, R98, R105) -/

theorem Queue.settle_cmds (x : Queue) : x.settle.cmds = x.cmds := by
  unfold Queue.settle
  dsimp only
  split <;> rfl

@[simp] theorem Chip.cmd_countPart (c : Chip) (k key m n q count : Nat) : (c.countPart k key m).cmd n q count = c.cmd n q count :=
  Chip.cmd_of_queues (c.countPart_queues k key m) n q count

/-- A unit that was not done is done for its command, which has finished when it was the last (R98). -/
theorem Chip.unitDone_of_new {c : Chip} {n q count unit : Nat} {k : Cmd} (hk : c.cmd n q count = some k) (hnew : unit ∉ k.done) :
    (∀ l, (c.unitDone n q count unit).reg l = c.reg l) ∧
    ∃ e, (c.unitDone n q count unit).cmd n q count = some e ∧ unit ∈ e.done ∧
      (k.done.length + 1 = k.units → e.finished = true) := by
  unfold Chip.unitDone
  extract_lets own
  split
  next hnone => simp [hk] at hnone
  next k0 hk0 =>
  obtain rfl : k = k0 := Option.some.inj (hk.symm.trans hk0)
  extract_lets k1 sl full again k2 fin k3 c1
  have hcount : k3.count = count := by
    have := Queue.count_of_cmd hk
    by_cases hfull : full = true <;> simp [k3, k2, k1, hfull, this]
  have hdone : k3.done = k.done ++ [unit] := by by_cases hfull : full = true <;> simp [k3, k2, k1, hfull, hnew]
  have hcmd : c1.cmd n q count = some k3 := by
    rw [show c1 = (c.updCmd n q count (fun _ => k3)).updQueue n q Queue.settle from rfl,
      Chip.cmd_updQueue_of_cmds _ n q Queue.settle_cmds, Chip.cmd_updCmd_same hk (fun _ _ => hcount)]
  have hfin : k.done.length + 1 = k.units → k3.finished = true := by
    intro hlast
    by_cases hfull : full = true <;> simp [k3, fin, k2, k1, hfull, hnew, hlast]
  have hreg : ∀ l, c1.reg l = c.reg l := fun _ => rfl
  have hunit : unit ∈ k3.done := by simp [hdone]
  split
  · exact ⟨fun l => (c1.reg_countPart own (by decide) 1 l).trans (hreg l), k3, by simpa using hcmd, hunit, hfin⟩
  · exact ⟨hreg, k3, hcmd, hunit, hfin⟩

/-- The counters that a finished unit moves: the partition's of long VEC units, and the Ridge's stall and busy cycles. -/
def Chip.unitCounted (c : Chip) (n : Nat) (w : Work) (cycles stall : Nat) : Chip :=
  let mm := w.k.op = opMM || w.k.op = opMMAcc
  let c := if w.k.op = opVec && decide (cycles > 2048) then c.countPart w.part Obj.CNT_VEC_LONG_UNITS 1 else c
  (c.count modInst (Obj.CNT_ARRAY_STALL + n) stall).count modInst
    ((if mm then Obj.CNT_ARRAY_BUSY else Obj.CNT_VECTOR_BUSY) + n) (cycles - (if mm then stall else 0))

theorem Chip.unitCounted_queues (c : Chip) (n : Nat) (w : Work) (cycles stall : Nat) :
    (c.unitCounted n w cycles stall).queues = c.queues := by
  unfold Chip.unitCounted
  extract_lets mm c1
  have hlong : c1.queues = c.queues := by
    unfold c1
    split
    · exact c.countPart_queues _ _ _
    · rfl
  exact hlong

theorem Chip.unitCounted_reg (c : Chip) {n : Nat} (w : Work) (cycles stall : Nat) :
    let mm := decide (w.k.op = opMM ∨ w.k.op = opMMAcc)
    let busy := (if mm then Obj.CNT_ARRAY_BUSY else Obj.CNT_VECTOR_BUSY) + n
    (c.unitCounted n w cycles stall).reg (Obj.CNT_ARRAY_STALL + n) = (c.reg (Obj.CNT_ARRAY_STALL + n) + stall) % 2 ^ 64 ∧
    (c.unitCounted n w cycles stall).reg busy = (c.reg busy + (cycles - if mm then stall else 0)) % 2 ^ 64 := by
  intro mm busy
  unfold Chip.unitCounted
  extract_lets mm' c1
  have hmm : mm' = mm := (Bool.decide_or _ _).symm
  have hlong : ∀ l, c1.reg l = c.reg l := by
    intro l
    unfold c1
    split
    · exact c.reg_countPart _ (by decide) 1 l
    · rfl
  have hdistinct : Obj.CNT_ARRAY_STALL + n ≠ busy := by
    unfold busy
    split <;> simp [Obj.CNT_ARRAY_STALL, Obj.CNT_ARRAY_BUSY, Obj.CNT_VECTOR_BUSY]
  rw [hmm]
  exact ⟨by rw [Chip.reg_count, if_neg hdistinct, Chip.reg_count, if_pos rfl, hlong],
    by rw [Chip.reg_count, if_pos rfl, Chip.reg_count, if_neg hdistinct.symm, hlong]⟩

/-- The Spur's unit ends: it is counted, its Spur is freed, and it is done for its command; `f` brings the queue's activity
sample up to date (R429). -/
def Chip.endUnit (c : Chip) (n p : Nat) (w : Work) (cycles stall : Nat) (f : Queue → Queue) : Chip :=
  (((c.unitCounted n w cycles stall).updQueue n w.x.queue f).updSpur n p (fun sp => { sp with unit := none })).unitDone n
    w.x.queue w.x.count w.x.unit

theorem execWorkUnitDone_of_work {ridge : Fin 16} {spur : Fin 17} {s : State} {w : Work} (cycles stall : Nat)
    (hw : s.chip.work ridge.val spur.val = some w) (hphase : w.x.phase = 3) (hsampled : w.x.sampled = false) :
    ∃ f : Queue → Queue, (∀ x, (f x).cmds = x.cmds) ∧ execWorkUnitDone ridge spur cycles stall s =
      .next (((s.on (fun c => c.endUnit ridge.val spur.val w cycles stall f)).kick ridge.val).on (fun c => c.idleSpur ridge.val spur.val)) := by
  refine ⟨?f, ?hf, ?heq⟩
  case heq =>
    unfold execWorkUnitDone
    simp only [hw, hphase, hsampled, bne_self_eq_false, Bool.false_eq_true, if_false]
    rfl
  case hf => exact fun _ => rfl

/-- What a finished unit leaves: it is done for its command, and the Ridge's cycles are counted. -/
theorem Chip.endUnit_done {c : Chip} {n p : Nat} {w : Work} (cycles stall : Nat) {f : Queue → Queue} (hw : c.work n p = some w)
    (hnew : w.x.unit ∉ w.k.done) (hf : ∀ x, (f x).cmds = x.cmds) :
    (∀ l, (c.endUnit n p w cycles stall f).reg l = (c.unitCounted n w cycles stall).reg l) ∧
    ∃ e, (c.endUnit n p w cycles stall f).cmd n w.x.queue w.x.count = some e ∧ w.x.unit ∈ e.done ∧
      (w.k.done.length + 1 = w.k.units → e.finished = true) := by
  obtain ⟨-, -, hcmd⟩ := Chip.work_eq_some hw
  refine Chip.unitDone_of_new (k := w.k) ?_ hnew
  rw [Chip.cmd_of_queues (Chip.updSpur_queues _ _ _ _), Chip.cmd_updQueue_of_cmds _ _ _ hf,
    Chip.cmd_of_queues (c.unitCounted_queues n w cycles stall), hcmd]

theorem workUnitDone_ends {ridge : Fin 16} {spur : Fin 17} {s : State} {w : Work} (cycles stall : Nat)
    (hw : s.chip.work ridge.val spur.val = some w) (hphase : w.x.phase = 3) (hnew : w.x.unit ∉ w.k.done)
    (hsampled : w.x.sampled = false) :
    let n := ridge.val
    let mm := decide (w.k.op = opMM ∨ w.k.op = opMMAcc)
    let busy := (if mm then Obj.CNT_ARRAY_BUSY else Obj.CNT_VECTOR_BUSY) + n
    Ends (.workUnitDone ridge spur cycles stall) s (fun t =>
      (∃ e, t.chip.cmd n w.x.queue w.x.count = some e ∧ w.x.unit ∈ e.done ∧ (w.k.done.length + 1 = w.k.units → e.finished = true)) ∧
      t.chip.reg (Obj.CNT_ARRAY_STALL + n) = (s.chip.reg (Obj.CNT_ARRAY_STALL + n) + stall) % 2 ^ 64 ∧
      t.chip.reg busy = (s.chip.reg busy + (cycles - if mm then stall else 0)) % 2 ^ 64 ∧ t.mem = s.mem) := by
  intro n mm busy
  obtain ⟨f, hf, hexec⟩ := execWorkUnitDone_of_work cycles stall hw hphase hsampled
  obtain ⟨hreg, e, he, hdone, hfin⟩ := Chip.endUnit_done cycles stall hw hnew hf
  obtain ⟨hstall, hbusy⟩ := s.chip.unitCounted_reg (n := n) w cycles stall
  have hkeeps := ((Chip.IssueKeeps.refl n (s.chip.endUnit n spur.val w cycles stall f)).dispatch).idleSpur spur.val
  obtain ⟨e', he', hdone', hfin'⟩ := hkeeps.cmd _ _ e he
  refine ⟨_, hexec, ?_⟩
  simp only [State.on_chip, State.kick_chip, State.on_mem, State.kick_mem]
  exact ⟨⟨e', he', hdone' ▸ hdone, fun hlast => hfin'.trans (hfin hlast)⟩,
    (hkeeps.reg _).trans ((hreg _).trans hstall), (hkeeps.reg _).trans ((hreg _).trans hbusy), trivial⟩

theorem tileLoadDone_stages {ridge : Fin 16} {spur : Fin 17} {s s1 s2 s3 : State} {w : Work} {ra rb : List (List Byte)}
    (hw : s.chip.work ridge.val spur.val = some w) (hphase : w.x.phase = 0) (hop : w.k.op = opMM ∨ w.k.op = opMMAcc)
    (ha : spaceOf (w.k.field 0x10 8) ≠ 2) (hb : spaceOf (w.k.field 0x18 8) ≠ 2)
    (hra : s.tileRows ridge.val spur.val w false = (s1, .ok ra)) (hrb : s1.tileRows ridge.val spur.val w true = (s2, .ok rb))
    (hdest : s2.probeDest ridge.val w = (s3, none)) (hunit : (s3.chip.spur ridge.val spur.val).unit = some w.x) :
    Ends (.tileLoadDone ridge spur []) s (fun t =>
      (t.chip.spur ridge.val spur.val).unit = some { w.x with phase := 1, stageA := ra, stageB := rb } ∧ t.mem = s3.mem) := by
  have hexec : execTileLoadDone ridge spur [] s =
      .next ((s.charge ridge.val w.x.queue (s.loadTile ridge.val spur.val w)).kick ridge.val) := by
    have hmm : (decide (w.k.op = opMM) || decide (w.k.op = opMMAcc)) = true := by simpa using hop
    simp [execTileLoadDone, hw, hphase, hmm, Chip.corrected, State.on]
  rw [State.loadTile_reached ha hb hra hrb hdest] at hexec
  refine ⟨_, hexec, ?_, by simp⟩
  rw [State.kick_chip]
  exact (Chip.IssueKeeps.refl _ _).dispatch.unit _ _ (by simp [hunit])

theorem tileWriteback_writes {ridge : Fin 16} {spur : Fin 17} {s s1 s2 : State} {w : Work} {st : NumSt}
    (hw : s.chip.work ridge.val spur.val = some w) (hphase : w.x.phase = 2) (hdest : s.probeDest ridge.val w = (s1, none))
    (hrows : State.writeTile ridge.val spur.val w (List.range (w.k.tile w.x.unit).2.2.1)
      { gens := (s1.chip.spur ridge.val spur.val).gens } s1 = (s2, none, st))
    (hunit : (s2.chip.spur ridge.val spur.val).unit = some w.x) :
    Ends (.tileWriteback ridge spur) s (fun t => (t.chip.spur ridge.val spur.val).unit = some { w.x with phase := 3 } ∧
      (t.chip.spur ridge.val spur.val).gens = st.gens ∧ t.mem = s2.mem) := by
  have hexec : execTileWriteback ridge spur s =
      .next (s.charge ridge.val w.x.queue (s.writeback ridge.val spur.val w)) := by
    simp [execTileWriteback, hw, hphase]
  obtain ⟨hspur, hmem⟩ := State.writeback_written hdest hrows
  exact ⟨_, hexec, by simp [hspur, hunit], by simp [hspur], by simpa using hmem⟩

/-! ### Shadow runs that reach their limit (R53–R55) -/

theorem Chip.said_of_streams {c d : Chip} (h : c.streams = d.streams) {ty part : Nat} {fs : List (Nat × Nat)}
    (hd : d.said ty part fs) : c.said ty part fs := by
  simpa only [Chip.said, Chip.lastOf, h] using hd

@[simp] theorem Chip.countPart_streams (c : Chip) (k key n : Nat) : (c.countPart k key n).streams = c.streams := by
  unfold Chip.countPart; split <;> rfl

@[simp] theorem Chip.countNum_queues (c : Chip) (part i n : Nat) : (c.countNum part i n).queues = c.queues := by
  unfold Chip.countNum
  split
  · rfl
  · exact c.countPart_queues _ _ _

@[simp] theorem Chip.countNum_streams (c : Chip) (part i n : Nat) : (c.countNum part i n).streams = c.streams := by
  unfold Chip.countNum
  split
  · rfl
  · exact c.countPart_streams _ _ _

/-- The command is marked triggered, and the event raised (R53). -/
def Chip.triggered (c : Chip) (n q count : Nat) : Chip :=
  (c.updCmd n q count (fun k => { k with triggered := true })).raise 0x0410 (c.ownerN n) []

/-- A run count at its limit triggers its command; under a policy the command is promoted, once the promotion is counted and
the Ridge's table has taken its operand (R53–R55). -/
theorem Chip.shadowTrigger_at_limit {c : Chip} {n q count : Nat} {k : Cmd} (hk : c.cmd n q count = some k)
    (hfirst : k.triggered = false) (hlimit : k.cfg.runLimit ≤ k.runCount) :
    ∃ (d : Chip) (isB : Bool), d.queues = (c.triggered n q count).queues ∧ d.streams = (c.triggered n q count).streams ∧
      c.shadowTrigger n q count = if k.cfg.policy = 0 then c.triggered n q count
        else d.updCmd n q count (fun k => { k with
          promoFrom := k.nextSlice, promoA := true, promoB := k.promoB || k.cfg.policy = 1 || isB }) := by
  unfold Chip.shadowTrigger
  split
  next hnone => simp [hk] at hnone
  next k0 hk0 =>
  obtain rfl : k = k0 := Option.some.inj (hk.symm.trans hk0)
  rw [if_neg (by simp [hfirst, hlimit])]
  extract_lets part c1 c2 c3 isB addr r entry c4
  have hkept : c4.queues = (c.triggered n q count).queues ∧ c4.streams = (c.triggered n q count).streams := by
    have hcounted : c3.queues = (c.triggered n q count).queues ∧ c3.streams = (c.triggered n q count).streams :=
      ⟨c2.countNum_queues _ _ _, c2.countNum_streams _ _ _⟩
    unfold c4
    split
    · exact hcounted
    split
    · exact hcounted
    split
    · exact ⟨(c3.countNum_queues _ _ _).trans hcounted.1, (c3.countNum_streams _ _ _).trans hcounted.2⟩
    · exact hcounted
  exact ⟨c4, isB, hkept.1, hkept.2, rfl⟩

theorem Chip.cmd_triggered {c : Chip} {n q count : Nat} {k : Cmd} (hk : c.cmd n q count = some k) :
    (c.triggered n q count).cmd n q count = some { k with triggered := true } := by
  rw [Chip.triggered, Chip.cmd_of_queues (Chip.raise_queues _ _ _ _), Chip.cmd_updCmd_same hk]
  exact fun _ h => h

theorem shadowTriggered_applies {ridge : Fin 16} {queue : Fin 8} {count : W32} {k : Cmd} {s : State}
    (hk : s.chip.cmd ridge.val queue.val count.toNat = some k) (hfirst : k.triggered = false)
    (hlimit : k.cfg.runLimit ≤ k.runCount) :
    Ends (.shadowTriggered ridge queue count) s (fun t =>
      t.chip.said 0x0410 (s.chip.ownerN ridge.val) [] ∧ t.mem = s.mem ∧
      ∃ e, t.chip.cmd ridge.val queue.val count.toNat = some e ∧ e.triggered = true ∧
        (k.cfg.policy = 0 → e.promoA = k.promoA ∧ e.promoB = k.promoB ∧ e.promoFrom = k.promoFrom) ∧
        (k.cfg.policy ≠ 0 → e.promoA = true ∧ e.promoFrom = k.nextSlice)) := by
  obtain ⟨d, isB, hqueues, hstreams, htrigger⟩ := Chip.shadowTrigger_at_limit hk hfirst hlimit
  have hcmd := Chip.cmd_triggered hk
  have hsaid : (s.chip.triggered ridge.val queue.val count.toNat).said 0x0410 (s.chip.ownerN ridge.val) [] :=
    Chip.raise_said _ _ _ _
  refine ⟨s.on (fun c => c.shadowTrigger ridge.val queue.val count.toNat), rfl, ?_⟩
  simp only [State.on_chip, State.on_mem, htrigger]
  by_cases hpolicy : k.cfg.policy = 0
  · rw [if_pos hpolicy]
    exact ⟨hsaid, trivial, _, hcmd, rfl, fun _ => ⟨rfl, rfl, rfl⟩, fun h => absurd hpolicy h⟩
  · rw [if_neg hpolicy]
    refine ⟨Chip.said_of_streams hstreams hsaid, trivial, _,
      Chip.cmd_updCmd_same ((Chip.cmd_of_queues hqueues _ _ _).trans hcmd) ?_, ?_⟩
    · exact fun _ h => h
    · exact ⟨rfl, fun h => absurd h hpolicy, fun _ => ⟨rfl, rfl⟩⟩

/-! ### Slices that overrun (R135) -/

/-- The recorder moves no counter of a partition. -/
theorem recorderKey_of_part {k key : Nat} (hk : k < 8) (hkey : key < 2 ^ 24) : recorderKey (ikey k key) = false := by
  have hbelow : ∀ x, ikey k key < ikey modInst x := by intro x; unfold ikey modInst; omega
  simp [recorderKey, (hbelow _).ne, hbelow]

/-- The first overrun of a command's slices is counted, noted and reported. -/
theorem Chip.sliceOverrun_first {c : Chip} {n q count slice : Nat} {k : Cmd} {i : Nat × Nat} (hk : c.cmd n q count = some k)
    (hissued : k.issued.find? (fun p => p.1 = slice) = some i) (hopen : k.sliceDone slice = false) (hran : slice ∉ k.ran)
    (hovers : k.overs = []) (hlate : i.2 + 2 ≤ c.frame) :
    c.sliceOverrun n q count slice =
      ((c.countPart (c.ownerN n) Obj.CNT_SLICE_OVERRUN 1).updCmd n q count (fun k => { k with overs := k.overs ++ [slice] })).raise
        0x0440 (c.ownerN n) [(1, n), (1, q), (4, count), (4, slice)] := by
  simp [Chip.sliceOverrun, hk, hissued, hopen, hran, hovers, Nat.not_lt.mpr hlate]

theorem sliceOverrun_reported {ridge : Fin 16} {queue : Fin 8} {count slice : W32} {k : Cmd} {s : State} {i : Nat × Nat}
    (hk : s.chip.cmd ridge.val queue.val count.toNat = some k)
    (hissued : k.issued.find? (fun p => p.1 = slice.toNat) = some i) (hopen : k.sliceDone slice.toNat = false)
    (hran : slice.toNat ∉ k.ran) (hovers : k.overs = []) (hlate : i.2 + 2 ≤ s.chip.frame) (hown : s.chip.ownerN ridge.val < 8) :
    let own := s.chip.ownerN ridge.val
    Ends (.sliceOverrun ridge queue count slice) s (fun t =>
      t.chip.said 0x0440 own [(1, ridge.val), (1, queue.val), (4, count.toNat), (4, slice.toNat)] ∧
      t.chip.get own Obj.CNT_SLICE_OVERRUN = (s.chip.get own Obj.CNT_SLICE_OVERRUN + 1) % 2 ^ 64 ∧
      (t.chip.cmd ridge.val queue.val count.toNat).map (·.overs) = some [slice.toNat] ∧ t.mem = s.mem) := by
  intro own
  refine ⟨s.on (fun c => c.sliceOverrun ridge.val queue.val count.toNat slice.toNat), rfl, ?_⟩
  simp only [State.on_chip, State.on_mem, Chip.sliceOverrun_first hk hissued hopen hran hovers hlate]
  refine ⟨Chip.raise_said _ _ _ _, ?_, ?_, trivial⟩
  · rw [Chip.raise_get _ _ _ _ _ _ (recorderKey_of_part hown (by decide)), Chip.countPart, if_pos hown]
    exact Chip.get_set_same _ _ _ _
  · rw [Chip.cmd_of_queues (Chip.raise_queues _ _ _ _),
      Chip.cmd_updCmd_same ((s.chip.cmd_countPart _ _ _ _ _ _).trans hk)]
    · simp [hovers]
    · exact fun _ h => h

/-- Settles O6: a tile's load and write-back, the end of a unit, a shadow run at its limit, and a slice's first overrun. -/
theorem unitsOfWork : Obligations.UnitsOfWork := by
  unfold Obligations.UnitsOfWork
  refine ⟨fun ridge spur w s => ?unit, fun ridge queue count k s => ?command⟩
  case unit =>
    intro n p hw
    refine ⟨?_, ?_, ?_⟩
    · exact fun s1 s2 s3 ra rb hphase hop ha hb hra hrb hdest hunit => tileLoadDone_stages hw hphase hop ha hb hra hrb hdest hunit
    · exact fun s1 s2 st hphase hdest hrows hunit => tileWriteback_writes hw hphase hdest hrows hunit
    · exact fun cycles stall hphase hnew hsampled => workUnitDone_ends cycles stall hw hphase hnew hsampled
  case command =>
    intro n q own hk
    refine ⟨?_, ?_⟩
    · exact fun hfirst hlimit => shadowTriggered_applies hk hfirst hlimit
    · exact fun slice i hissued hopen hran hovers hlate hown => sliceOverrun_reported hk hissued hopen hran hovers hlate hown

end Sys2Proof.Machine
end

section
/-! PROOF. What the sequencer's issue and its trace can change of the module (R71, R98, R99, R198, R437): queues, Ridges and
counters of partitions, but not what a Ridge remembers of its scratchpad's errors (R77). -/
namespace Sys2Proof.Machine

/-- `d` is `c` after updates of queues and Ridges and counts of partitions; each Ridge's banks with an error are the same. -/
structure Chip.Issued (c d : Chip) : Prop where
  shape : ∃ qs rs gs, d = { c with queues := qs, ridges := rs, regs := gs }
  bankUe : ∀ m, (d.ridge m).bankUe = (c.ridge m).bankUe

namespace Chip.Issued

variable {n : Nat} {b c d : Chip}

theorem refl (c : Chip) : Issued c c := ⟨⟨c.queues, c.ridges, c.regs, rfl⟩, fun _ => rfl⟩

theorem trans (h : Issued b c) (h' : Issued c d) : Issued b d where
  shape := by
    obtain ⟨qs, rs, gs, rfl⟩ := h.shape
    obtain ⟨qs', rs', gs', rfl⟩ := h'.shape
    exact ⟨qs', rs', gs', rfl⟩
  bankUe m := (h'.bankUe m).trans (h.bankUe m)

theorem resets (h : Issued c d) : d.resets = c.resets := by obtain ⟨_, _, _, rfl⟩ := h.shape; rfl

theorem streams (h : Issued c d) : d.streams = c.streams := by obtain ⟨_, _, _, rfl⟩ := h.shape; rfl

theorem spads (h : Issued c d) : d.spads = c.spads := by obtain ⟨_, _, _, rfl⟩ := h.shape; rfl

theorem ite {p : Prop} [Decidable p] (hc : Issued b c) (hd : Issued b d) : Issued b (if p then c else d) := by
  split <;> assumption

theorem updQueue (h : Issued b c) {q : Nat} {f : Queue → Queue} : Issued b (c.updQueue n q f) :=
  h.trans ⟨⟨_, c.ridges, c.regs, rfl⟩, fun _ => rfl⟩

theorem updCmd (h : Issued b c) {q count : Nat} {f : Cmd → Cmd} : Issued b (c.updCmd n q count f) := h.updQueue

theorem updRidge (h : Issued b c) {f : Ridge → Ridge} (hf : ∀ r, (f r).bankUe = r.bankUe) : Issued b (c.updRidge n f) := by
  refine h.trans ⟨⟨c.queues, _, c.regs, rfl⟩, fun m => ?_⟩
  by_cases hm : m = n
  · rw [hm, Chip.ridge_updRidge_same, hf]
  · rw [Chip.ridge_updRidge_other _ _ hm]

theorem countPart (h : Issued b c) {k key m : Nat} : Issued b (c.countPart k key m) :=
  ite (h.trans ⟨⟨c.queues, c.ridges, _, rfl⟩, fun _ => rfl⟩) h

theorem updSpur (h : Issued b c) {p : Nat} {f : Spur → Spur} : Issued b (c.updSpur n p f) := updRidge h (fun _ => rfl)

theorem trace (h : Issued b c) (q : Nat) (t : TraceRec) : Issued b (c.trace n q t) := by
  unfold Chip.trace
  extract_lets k room push lost c1
  have hpush : ∀ {c : Chip} (t : TraceRec), Issued b c → Issued b (push c t) := fun _ h => updRidge h (fun _ => rfl)
  have hlost : Issued b c1 := ite (updRidge (hpush _ h) (fun _ => rfl)) h
  exact ite h (ite (hpush t hlost) (updRidge (countPart hlost) (fun _ => rfl)))

theorem endPart (h : Issued b c) (bit unit : Nat) (p : TracePart) : Issued b (c.endPart n bit unit p) := by
  unfold Chip.endPart
  split
  · exact h.trace _ _
  · exact h

theorem takePart (h : Issued b c) {bit unit : Nat} {old : Option TracePart} {q : Nat} {k : Cmd} {slice : Nat} {part : TracePart}
    (htake : c.takePart n bit unit old q k slice = (d, part)) : Issued b d := by
  obtain rfl : (c.takePart n bit unit old q k slice).1 = d := by rw [htake]
  unfold Chip.takePart
  cases old with
  | none => exact h.trace _ _
  | some o =>
    dsimp only
    split
    · exact h
    · exact (h.endPart _ _ o).trace _ _

theorem startCmd (h : Issued b c) (q : Nat) (k : Cmd) : Issued b (c.startCmd n q k) := by
  unfold Chip.startCmd
  extract_lets
  exact (h.updCmd).updQueue

theorem startQueue (h : Issued b c) (q fuel : Nat) : Issued b (c.startQueue n q fuel) := by
  induction fuel generalizing c with
  | zero => exact h
  | succ fuel ih =>
    unfold Chip.startQueue
    extract_lets x
    split
    · exact h
    · exact ite (ih (h.startCmd q _)) h

theorem giveUnit (h : Issued b c) (q count u : Nat) : Issued b (c.giveUnit n q count u) := by
  unfold Chip.giveUnit
  extract_lets first c1
  have hfirst : Issued b c1 := ite h.updQueue h
  exact hfirst.updCmd

theorem giveSpurs (h : Issued b c) (fuel : Nat) : Issued b (c.giveSpurs n fuel) := by
  induction fuel generalizing c with
  | zero => exact h
  | succ fuel ih =>
    unfold Chip.giveSpurs
    split
    · exact h
    next p _ _ =>
    split
    · exact h
    next q _ =>
    split
    · exact h
    next count u _ =>
    extract_lets c1 k
    split
    next d part htake =>
    have hgiven : Issued b d := (h.giveUnit q count u).takePart htake
    exact ih (updRidge (updSpur hgiven) (fun _ => rfl))

theorem giveEngines (h : Issued b c) (fuel : Nat) : Issued b (c.giveEngines n fuel) := by
  induction fuel generalizing c with
  | zero => exact h
  | succ fuel ih =>
    unfold Chip.giveEngines
    extract_lets r
    split
    · exact h
    split
    · exact h
    next e _ =>
    split
    · exact h
    next q _ =>
    extract_lets turn
    have hturn : ∀ {c : Chip}, Issued b c → Issued b (turn c) := fun h => updRidge h (fun _ => rfl)
    split
    · exact ih (hturn (updRidge h (fun _ => rfl)))
    split
    next count u _ _ =>
      extract_lets k c1
      split
      next d part htake =>
      have hgiven : Issued b d := (h.giveUnit q count u).takePart htake
      extract_lets d1
      have hpart : Issued b d1 := updRidge hgiven (fun _ => rfl)
      exact ih (hturn (updRidge hpart (fun _ => rfl)))
    · exact h

theorem dispatch (h : Issued b c) (n : Nat) : Issued b (c.dispatch n) := by
  have hstart : Issued b (forQueues (fun c q => c.startQueue n q 16) c) :=
    List.foldlRecOn _ _ h (fun _ hd q _ => hd.startQueue q 16)
  exact (hstart.giveSpurs (n := n) 17).giveEngines (n := n) 4

end Chip.Issued

end Sys2Proof.Machine
end

section
/-! PROOF. What a compute reset leaves in progress (R404–R408): the list of resets, kept by every operation that carries a reset out,
and the reset that an order adds to it. -/
namespace Sys2Proof.Machine

/-! ### The list of resets in progress -/

/-- The same resets are in progress in `d` as in `c`. A relation of its own, so that a step is compared by its arguments and not
evaluated down to this field. -/
structure Chip.SameResets (c d : Chip) : Prop where
  eq : d.resets = c.resets

theorem Chip.Issued.sameResets {c d : Chip} (h : Chip.Issued c d) : Chip.SameResets c d := ⟨h.resets⟩

namespace Chip.SameResets

variable {b c d : Chip}

theorem refl (c : Chip) : SameResets c c := ⟨rfl⟩

theorem trans (h : SameResets b c) (h' : SameResets c d) : SameResets b d := ⟨h'.eq.trans h.eq⟩

theorem ite {p : Prop} [Decidable p] (hc : SameResets b c) (hd : SameResets b d) : SameResets b (if p then c else d) := by
  split <;> assumption

/-- What every step of a fold keeps, the fold keeps. -/
theorem foldl {α : Type} (h : SameResets b c) {f : Chip → α → Chip} (hf : ∀ d a, SameResets d (f d a)) (l : List α) :
    SameResets b (l.foldl f c) :=
  List.foldlRecOn l f h (fun _ hd a _ => hd.trans (hf _ a))

theorem updQueue (h : SameResets b c) {n q : Nat} {f : Queue → Queue} : SameResets b (c.updQueue n q f) := h.trans ⟨rfl⟩

theorem updRidge (h : SameResets b c) {n : Nat} {f : Ridge → Ridge} : SameResets b (c.updRidge n f) := h.trans ⟨rfl⟩

theorem set (h : SameResets b c) {inst key v : Nat} : SameResets b (c.set inst key v) := h.trans ⟨rfl⟩

theorem setReg (h : SameResets b c) {key v : Nat} : SameResets b (c.setReg key v) := h.set

theorem extSet (h : SameResets b c) {key v : Nat} : SameResets b (c.extSet key v) := h.trans ⟨rfl⟩

theorem resetSpur (h : SameResets b c) (n p : Nat) : SameResets b (c.resetSpur n p) := h.trans ⟨rfl⟩

theorem countPart (h : SameResets b c) {k key n : Nat} : SameResets b (c.countPart k key n) :=
  h.trans (Issued.refl c).countPart.sameResets

theorem raise (h : SameResets b c) {ty part : Nat} {fs : List (Nat × Nat)} : SameResets b (c.raise ty part fs) :=
  h.trans ⟨c.raise_resets ty part fs⟩

theorem trace (h : SameResets b c) (n q : Nat) (t : TraceRec) : SameResets b (c.trace n q t) :=
  h.trans ((Issued.refl c).trace q t).sameResets

theorem dispatch (h : SameResets b c) (n : Nat) : SameResets b (c.dispatch n) := h.trans ((Issued.refl c).dispatch n).sameResets

theorem dropTlb (h : SameResets b c) (k : Nat) (leaf : TlbEnt → Bool) (ptr : PtrEnt → Bool) : SameResets b (c.dropTlb k leaf ptr) :=
  h.foldl (fun d _ => (refl d).updRidge) _

theorem abandonUnits (h : SameResets b c) (n q : Nat) (mine : Nat → Bool) : SameResets b (c.abandonUnits n q mine) := by
  unfold Chip.abandonUnits
  extract_lets say r c1 c2 gone keep
  have hsay : ∀ (d : Chip) (bit unit count u : Nat), SameResets d (say d bit unit count u) := by
    intro d bit unit count u
    unfold say
    split
    · exact (refl d).trace _ _ _
    · exact refl d
  have hspurs : SameResets b c1 := by
    refine h.foldl (fun d p => ?_) _
    split
    · exact ite (hsay _ _ _ _ _) (refl d)
    · exact refl d
  have hengines : SameResets b c2 := by
    refine hspurs.foldl (fun d p => ?_) _
    split
    · exact ite (hsay _ _ _ _ _) (refl d)
    · exact refl d
  have hwaiters : SameResets b (c2.dropWaiters keep) := hengines.trans ⟨rfl⟩
  exact hwaiters.updRidge

theorem abandon (h : SameResets b c) (n q count reason : Nat) : SameResets b (c.abandon n q count reason) := by
  unfold Chip.abandon
  extract_lets own c1 c2
  have hended : SameResets b c1 := h.updQueue
  have hcounted : SameResets b c2 := ite hended.countPart hended
  exact ite hcounted hcounted.raise

theorem rewindQueue (h : SameResets b c) (n q level : Nat) : SameResets b (c.rewindQueue n q level) := by
  unfold Chip.rewindQueue
  -- the frontier stays opaque, so that the kernel does not evaluate its 32-bit distance
  obtain ⟨restored, hopaque⟩ : ∃ f, f = Queue.restored := ⟨_, rfl⟩
  rw [← hopaque]
  extract_lets x own c1 started c2 live d1 dropped accs
  split
  · exact h
  split
  · have habandoned : SameResets b c2 := (h.abandonUnits n q _).foldl (fun d k => (refl d).abandon n q k 0) _
    exact habandoned.updQueue.updRidge
  next j _ =>
  extract_lets e
  split
  split
  extract_lets kept d2 d3 d4
  have hrewound : SameResets b d2 := (h.abandonUnits n q _).updQueue
  have habandoned : SameResets b d3 := hrewound.foldl (fun d k => (refl d).abandon n q k abandonMMAcc) _
  have hcounted : SameResets b d4 := habandoned.updQueue.countPart
  exact hcounted.countPart.raise

theorem restoreSteps (h : SameResets b c) (n : Nat) (ctxs : List Nat) : SameResets b (c.restoreSteps n ctxs) := by
  unfold Chip.restoreSteps
  split
  · exact h
  · exact h.updRidge

theorem rewindRidge (h : SameResets b c) (n level : Nat) (sel : Nat → Bool) : SameResets b (c.rewindRidge n level sel) := by
  unfold Chip.rewindRidge
  extract_lets qs ctxs c1
  have hqueues : SameResets b c1 := h.foldl (fun d q => (refl d).rewindQueue n q level) _
  exact (ite hqueues (hqueues.restoreSteps n ctxs)).updRidge

theorem spadClear (h : SameResets b c) (n p : Nat) : SameResets b (c.spadClear n p) := h.trans ⟨rfl⟩

theorem zeroRidge (h : SameResets b c) (n : Nat) : SameResets b (c.zeroRidge n) := by
  unfold Chip.zeroRidge
  extract_lets c1
  have hcleared : SameResets b c1 := h.foldl (fun d p => (refl d).spadClear n p) _
  exact hcleared.updRidge

theorem retireRidge (h : SameResets b c) (n : Nat) : SameResets b (c.retireRidge n) := by
  unfold Chip.retireRidge
  split
  · exact h
  extract_lets own c1 c2 c3 c4 c5 c6 c7 c8
  have hqueues : SameResets b c1 := h.foldl (fun d q => ((refl d).abandonUnits n q _).updQueue) _
  have hgated : SameResets b c4 := (hqueues.zeroRidge n).updRidge.setReg
  have hsaid : SameResets b c8 := hgated.extSet.extSet.extSet.raise
  exact ite hsaid.raise hsaid

theorem journalBad (h : SameResets b c) (l : List (Fin 16 × Bool × Fin 8)) : SameResets b (c.journalBad l) := by
  unfold Chip.journalBad
  exact h.foldl (fun d _ => (refl d).setReg.updRidge) _

theorem resetLogic (h : SameResets b c) (r : ResetRec) : SameResets b (c.resetLogic r) := by
  unfold Chip.resetLogic
  extract_lets ridge ns c1
  have hridge : ∀ (d : Chip) (n : Nat), SameResets d (ridge d n) := fun d n =>
    ((refl d).foldl (fun d p => ite ((refl d).resetSpur n p) (refl d)) _).updRidge
  have hridges : SameResets b c1 := h.foldl hridge _
  split
  · exact h.dropTlb _ _ _
  · exact h.resetSpur _ _
  · exact ite (hridges.foldl (fun d n => (refl d).zeroRidge n) _) hridges

theorem access (h : SameResets b c) (part pa : Nat) : SameResets b (c.access part pa).1 := by
  unfold Chip.access
  split
  · exact h
  · dsimp only
    exact h.raise
  · exact setReg h

theorem writePhys {s : State} (h : SameResets b s.chip) (k pa : Nat) (bs : List Byte) : SameResets b (s.writePhys k pa bs).1.chip := by
  unfold State.writePhys
  split
  next c e hanswer =>
  have hkept : SameResets b c := by simpa [hanswer] using h.access k pa
  extract_lets s1
  split
  · exact hkept
  · split <;> exact hkept

theorem writeLong {s : State} (h : SameResets b s.chip) (k fuel pa : Nat) (bs : List Byte) :
    SameResets b (State.writeLong k fuel pa bs s).chip := by
  induction fuel generalizing pa bs s with
  | zero => exact h
  | succ fuel ih =>
    unfold State.writeLong
    split
    · exact h
    · exact ih (h.writePhys _ _ _) _ _

/-- A fold over the state keeps the resets of its chip where every step does. -/
theorem foldlState {α : Type} {s : State} (h : SameResets b s.chip) {f : State → α → State}
    (hf : ∀ t a, SameResets t.chip (f t a).chip) (l : List α) : SameResets b (l.foldl f s).chip :=
  List.foldlRecOn (motive := fun t : State => SameResets b t.chip) l f h (fun _ ht a _ => ht.trans (hf _ a))

theorem screeWrite {s : State} (h : SameResets b s.chip) (r : ResetRec) (n k base : Nat) :
    SameResets b (s.screeWrite r n k base).chip := by
  unfold State.screeWrite
  -- the fresh number and the chip after it stay opaque while the sample is taken apart
  obtain ⟨tick, hopaque⟩ : ∃ f, f = Chip.tick1 := ⟨_, rfl⟩
  rw [← hopaque]
  extract_lets c slot mute extra ps seq mask stamp
  split
  next gen c1 htick =>
  obtain rfl : { c with fresh := c.fresh + 1 } = c1 := by rw [hopaque] at htick; exact (Prod.mk.inj htick).2
  extract_lets unit s1 s2 s3 head s4
  have hticked : SameResets b s1.chip := h.trans ⟨rfl⟩
  have hunits : SameResets b s3.chip := (hticked.writeLong _ _ _ _).foldlState (fun t p => (refl t.chip).writeLong _ _ _ _) _
  have hhead : SameResets b s4.chip := hunits.writeLong _ _ _ _
  have hset : SameResets b (s4.chip.set k Obj.SCREE_SEQ seq) := hhead.set
  rw [State.on_chip]
  exact hset.countPart.raise

theorem scree {s : State} (h : SameResets b s.chip) (r : ResetRec) (n : Nat) : SameResets b (s.scree r n).chip := by
  unfold State.scree
  extract_lets c s1
  have hsampled : SameResets b s1.chip := by
    unfold s1
    split
    · exact h
    next k _ =>
    extract_lets base
    split
    · exact h
    split
    · exact h.countPart
    · exact h.screeWrite r n k base
  rw [State.on_chip]
  exact hsampled.updRidge

theorem traceLines {s : State} (h : SameResets b s.chip) (n k fuel : Nat) : SameResets b (State.traceLines n k fuel s).chip := by
  induction fuel generalizing s with
  | zero => exact h
  | succ fuel ih =>
    unfold State.traceLines
    extract_lets buf prod size pa s1
    split
    · exact h
    have htaken : SameResets b s1.chip := by
      unfold s1
      rw [State.on_chip]
      exact h.updRidge
    split
    next s2 e hwrite =>
    have hwritten : SameResets b s2.chip := by
      have hline := htaken.writePhys k pa (buf.take 4).flatten
      rwa [hwrite] at hline
    refine ih ?_
    split
    · exact hwritten.setReg
    · exact hwritten.countPart

theorem traceFlush {s : State} (h : SameResets b s.chip) (n : Nat) (drain : Bool) : SameResets b (s.traceFlush n drain).chip := by
  unfold State.traceFlush
  split
  · exact h
  next k _ =>
  extract_lets s1 m
  have hlines : SameResets b s1.chip := h.traceLines n k 64
  split
  · rw [State.on_chip]
    exact hlines.countPart.updRidge
  · exact hlines

theorem resetBegins (h : SameResets b c) (r : ResetRec) : SameResets b (c.resetBegins r) := by
  unfold Chip.resetBegins Chip.resetEvent
  extract_lets c1
  have hcounted : SameResets b c1 := h.trans ⟨rfl⟩
  exact hcounted.setReg.setReg.raise

end Chip.SameResets

/-- A compute reset that is carried out is in progress afterwards, with the Ridges it touches (R404, R408). -/
theorem State.compute_resets (s : State) (r : ResetRec) (bad : List (Fin 16 × Bool × Fin 8)) (prior : List Nat) :
    (s.compute r bad prior).chip.resets = s.chip.resets ++ [{ r with ridges := r.touched s.chip }] := by
  unfold State.compute
  extract_lets c joined seen mine owners c1 c2 c3 s1 s2
  have hbegun : Chip.SameResets c c1 := (Chip.SameResets.refl c).resetBegins _
  have hcounted : Chip.SameResets c c2 := .ite hbegun (hbegun.foldl (fun d k => (Chip.SameResets.refl d).countPart) _)
  have hsampled : Chip.SameResets c3 s1.chip :=
    Chip.SameResets.foldlState (s := { s with chip := c3 }) (.refl c3) (fun t n => (Chip.SameResets.refl t.chip).scree r n) _
  have hflushed : Chip.SameResets c3 s2.chip := hsampled.foldlState (fun t n => (Chip.SameResets.refl t.chip).traceFlush n true) _
  rw [State.on_chip]
  extract_lets d1 d2 d3 d4
  have hrewound : Chip.SameResets c3 d2 := (hflushed.journalBad bad).foldl
    (fun d n => .ite (.refl d) ((Chip.SameResets.refl d).rewindRidge n r.level _)) _
  have hretired : Chip.SameResets c3 d3 := hrewound.foldl (fun d n => .ite ((Chip.SameResets.refl d).retireRidge n) (.refl d)) _
  have hissued : Chip.SameResets c3 (mine.foldl Chip.dispatch d4) :=
    (hretired.resetLogic r).foldl (fun d n => (Chip.SameResets.refl d).dispatch n) _
  rw [hissued.eq]
  exact congrArg (· ++ [{ r with ridges := mine }]) hcounted.eq

/-! ### Orders (R404, R407) -/

/-- Whether a compute reset that is ordered is carried out at its own level: it is due, and its scope has not had
RESET_REPEAT_LIMIT at this level in this epoch. -/
def ResetRec.ordered (r : ResetRec) (c : Chip) : Prop :=
  r.due c = true ∧ Tbl.get c.resetCounts 0 (r.level * 2 ^ 32 + r.scope) < c.reg Obj.RESET_REPEAT_LIMIT

theorem State.order_resetting {s : State} {r : ResetRec} (hlevel : r.level ≤ 4) (h : r.ordered s.chip) :
    (s.order r).chip.resetting r.level r.cause := by
  obtain ⟨hdue, hcount⟩ := h
  have horder : s.order r = s.compute r [] [] := by
    have h5 : r.level ≠ 5 := by omega
    have h6 : r.level ≠ 6 := by omega
    have hroom : ¬ Tbl.get s.chip.resetCounts 0 (r.level * 2 ^ 32 + r.scope) ≥ s.chip.reg Obj.RESET_REPEAT_LIMIT := by omega
    unfold State.order State.orderGo
    rw [hdue, decide_eq_false hroom, Bool.and_false, if_neg h5, if_neg h6]
    rfl
  refine ⟨{ r with ridges := r.touched s.chip }, ?_, rfl, rfl⟩
  rw [horder, State.compute_resets]
  exact List.mem_append_right _ (List.mem_singleton_self _)

/-- Outside their subject the recorder moves no counter of the module. -/
theorem recorderKey_of_subject {key : Nat} (hkey : key / 2 ^ 16 ≠ 0xCB) : recorderKey (ikey modInst key) = false := by
  simp only [recorderKey, Bool.or_eq_false_iff, Bool.and_eq_false_iff, decide_eq_false_iff_not]
  simp only [ikey, modInst, Obj.CNT_CAIRN_LOST, Obj.CNT_CAIRN_DROPPED, Obj.CNT_CAIRN_UNRECORDED]
  omega

/-- The subjects of objects that decide about an order: Ridge states, start-up, partitions, resets. -/
def orderSubject (key : Nat) : Bool := [0x20, 0x22, 0x60, 0xD0].contains (key / 2 ^ 16)

/-- `d` decides about an order as `c` does. -/
structure Chip.OrdersLike (c d : Chip) : Prop where
  side : d.side = c.side
  extNext : d.extNext = c.extNext
  resetCounts : d.resetCounts = c.resetCounts
  reg : ∀ key, orderSubject key → d.reg key = c.reg key

namespace Chip.OrdersLike

variable {b c d : Chip}

theorem refl (c : Chip) : OrdersLike c c := ⟨rfl, rfl, rfl, fun _ _ => rfl⟩

theorem trans (h : OrdersLike b c) (h' : OrdersLike c d) : OrdersLike b d :=
  ⟨h'.side.trans h.side, h'.extNext.trans h.extNext, h'.resetCounts.trans h.resetCounts,
    fun key hk => (h'.reg key hk).trans (h.reg key hk)⟩

theorem setReg (h : OrdersLike b c) {key : Nat} (hkey : ¬ orderSubject key) (v : Nat) : OrdersLike b (c.setReg key v) :=
  h.trans ⟨rfl, rfl, rfl, fun l hl => c.reg_setReg_other v (by rintro rfl; exact hkey hl)⟩

theorem count (h : OrdersLike b c) {key : Nat} (hkey : ¬ orderSubject key) (n : Nat) : OrdersLike b (c.count modInst key n) :=
  h.setReg hkey _

theorem updRidge (h : OrdersLike b c) (n : Nat) (f : Ridge → Ridge) : OrdersLike b (c.updRidge n f) :=
  h.trans ⟨rfl, rfl, rfl, fun _ _ => rfl⟩

theorem updSpur (h : OrdersLike b c) (n p : Nat) (f : Spur → Spur) : OrdersLike b (c.updSpur n p f) := h.updRidge n _

theorem resetSpur (h : OrdersLike b c) (n p : Nat) : OrdersLike b (c.resetSpur n p) :=
  h.trans ⟨rfl, rfl, rfl, fun _ _ => rfl⟩

theorem raise (h : OrdersLike b c) (ty part : Nat) (fs : List (Nat × Nat)) : OrdersLike b (c.raise ty part fs) := by
  refine h.trans ⟨c.raise_side ty part fs, c.raise_extNext ty part fs, c.raise_resetCounts ty part fs, fun key hk => ?_⟩
  simp only [orderSubject, List.contains_iff_mem, List.mem_cons, List.not_mem_nil, or_false] at hk
  exact c.raise_reg ty part fs key (recorderKey_of_subject (by omega))

theorem owner (h : OrdersLike c d) (n : Nat) : d.owner n = c.owner n := by
  have hridges : ∀ k ∈ List.range 8, bitAt (d.ridgesOf k) n = bitAt (c.ridgesOf k) n := by
    intro k hk
    have hkey : orderSubject (atIdx Obj.WS_APPLIED_RIDGES k) := by
      have hlt := List.mem_range.mp hk
      simp [orderSubject, atIdx, Obj.WS_APPLIED_RIDGES]
      omega
    rw [Chip.ridgesOf, h.reg _ hkey, Chip.ridgesOf]
  exact List.find?_congr hridges

theorem ownerN (h : OrdersLike c d) (n : Nat) : d.ownerN n = c.ownerN n := by
  rw [Chip.ownerN, h.owner, Chip.ownerN]

theorem retired (h : OrdersLike c d) {n : Nat} (hn : n < 16) : d.retired n = c.retired n := by
  have hkey : orderSubject (Obj.RIDGE_STATE + n) := by simp [orderSubject, Obj.RIDGE_STATE]; omega
  unfold Chip.retired Chip.extSoon
  rw [h.extNext, h.reg _ hkey]

theorem wsState (h : OrdersLike c d) {k : Nat} (hk : k < 8) : d.wsState k = c.wsState k :=
  h.reg _ (by simp [orderSubject, Obj.WS_STATE]; omega)

theorem due_l2 (h : OrdersLike c d) {r : ResetRec} (hlevel : r.level = 2) (hridge : r.ridge < 16) : r.due d = r.due c := by
  have hstep : d.reg Obj.STARTUP_STEP = c.reg Obj.STARTUP_STEP := h.reg _ (by decide)
  have htearing : (List.range 8).any (fun k => d.owner r.ridge == some k && d.wsState k = wsTearing) =
      (List.range 8).any (fun k => c.owner r.ridge == some k && c.wsState k = wsTearing) := by
    rw [Bool.eq_iff_iff, List.any_eq_true, List.any_eq_true]
    exact exists_congr fun k => and_congr_right fun hk => by rw [h.owner, h.wsState (List.mem_range.mp hk)]
  simp only [ResetRec.due, hlevel]
  rw [h.side, hstep, h.retired hridge, htearing]

theorem ordered_l2 (h : OrdersLike c d) {r : ResetRec} (hlevel : r.level = 2) (hridge : r.ridge < 16) (hr : r.ordered c) :
    r.ordered d := by
  obtain ⟨hdue, hcount⟩ := hr
  refine ⟨(h.due_l2 hlevel hridge).trans hdue, ?_⟩
  rwa [h.resetCounts, h.reg _ (by decide)]

end Chip.OrdersLike

end Sys2Proof.Machine
end

section
/-! PROOF. Failures of Spurs and of the Ridge scratchpad (R67, R77, R79, R80, R82, R411): what is counted, which failures order an L2
reset, and the line that reads as zeros after an uncorrectable error. -/
namespace Sys2Proof.Machine

/-! ### Lines of a scratchpad (R77) -/

theorem spadKey_inj {n p o o' : Nat} : spadKey n p o = spadKey n p o' ↔ o = o' := by
  unfold spadKey; omega

/-- Bytes put at an offset leave those before it. -/
theorem find_spadPut_before (n p : Nat) (bs : List Byte) {o j : Nat} (hj : j < o) (t : Tbl Byte) :
    Tbl.find (spadPut n p o bs t) (spadKey n p j) = Tbl.find t (spadKey n p j) := by
  induction bs generalizing o t with
  | nil => rfl
  | cons b bs ih =>
    rw [spadPut, ih (by omega), Tbl.find_put_other]
    rw [Ne, spadKey_inj]
    omega

theorem find_spadPut (n p : Nat) (bs : List Byte) (o : Nat) {i : Nat} (hi : i < bs.length) (t : Tbl Byte) :
    Tbl.find (spadPut n p o bs t) (spadKey n p (o + i)) = some bs[i] := by
  induction bs generalizing o i t with
  | nil => simp at hi
  | cons b bs ih =>
    rw [spadPut]
    cases i with
    | zero => exact (find_spadPut_before n p bs (Nat.lt_add_one o) _).trans (Tbl.find_put_same _ _ _)
    | succ i =>
      have hplace : o + (i + 1) = o + 1 + i := by omega
      rw [hplace, ih (o + 1) (by simpa using hi)]
      rfl

/-- Bytes written to a scratchpad are read back. -/
theorem Chip.spadBytes_spadWrite (c : Chip) (n p o : Nat) {bs : List Byte} {k : Nat} (hk : bs.length = k) :
    (c.spadWrite n p o bs).spadBytes n p o k = bs := by
  subst hk
  refine List.ext_getElem (by simp [Chip.spadBytes]) fun i hi hi' => ?_
  simp [Chip.spadBytes, Chip.spadByte, Chip.spadWrite, find_spadPut n p bs o hi']

/-- What the Ridge scratchpad reads depends on the scratchpads alone. -/
theorem Chip.ridgeSpadBytes_of_spads {c d : Chip} (h : d.spads = c.spads) (n o k : Nat) :
    d.spadBytes n 17 o k = c.spadBytes n 17 o k := by
  simp [Chip.spadBytes, Chip.spadByte, h]

@[simp] theorem Chip.ridge_spadWrite (c : Chip) (n p o : Nat) (bs : List Byte) (m : Nat) : (c.spadWrite n p o bs).ridge m = c.ridge m := rfl

@[simp] theorem Chip.reg_spadWrite (c : Chip) (n p o : Nat) (bs : List Byte) (l : Nat) : (c.spadWrite n p o bs).reg l = c.reg l := rfl

@[simp] theorem Chip.streams_spadWrite (c : Chip) (n p o : Nat) (bs : List Byte) : (c.spadWrite n p o bs).streams = c.streams := rfl

/-! ### Corrected errors (R67) -/

/-- A corrected error of a Spur is counted, for its Ridge and for its epoch. -/
def Chip.sramCounted (c : Chip) (n p : Nat) : Chip :=
  (c.count modInst (Obj.CNT_SRAM_CORRECTED + n) 1).updSpur n p (fun x => { x with ceEpoch := x.ceEpoch + 1 })

theorem Chip.sramCounted_reg (c : Chip) (n p l : Nat) : (c.sramCounted n p).reg l =
    if l = Obj.CNT_SRAM_CORRECTED + n then (c.reg (Obj.CNT_SRAM_CORRECTED + n) + 1) % 2 ^ 64 else c.reg l :=
  c.reg_count _ _ _

theorem Chip.sramCounted_ceEpoch (c : Chip) (n p : Nat) : ((c.sramCounted n p).spur n p).ceEpoch = (c.spur n p).ceEpoch + 1 := by
  rw [Chip.sramCounted, Chip.spur_updSpur_same]
  rfl

/-- A corrected error within SPUR_CE_LIMIT does no more than count. -/
theorem execSramCorrected_within_limit {ridge : Fin 16} {spur : Fin 17} {s : State}
    (hlimit : (s.chip.spur ridge.val spur.val).ceEpoch + 1 ≤ s.chip.reg Obj.SPUR_CE_LIMIT) :
    execSramCorrected ridge spur s = .next (s.on (fun c => c.sramCounted ridge.val spur.val)) := by
  have hwithin : ¬ ((s.chip.sramCounted ridge.val spur.val).spur ridge.val spur.val).ceEpoch >
      (s.chip.sramCounted ridge.val spur.val).reg Obj.SPUR_CE_LIMIT := by
    have hkey : Obj.SPUR_CE_LIMIT ≠ Obj.CNT_SRAM_CORRECTED + ridge.val := by
      simp only [Obj.SPUR_CE_LIMIT, Obj.CNT_SRAM_CORRECTED]; omega
    rw [Chip.sramCounted_ceEpoch, Chip.sramCounted_reg, if_neg hkey]
    omega
  exact congrArg done (if_neg hwithin)

theorem sramCorrected_counts {ridge : Fin 16} {spur : Fin 17} {s : State}
    (hlimit : (s.chip.spur ridge.val spur.val).ceEpoch + 1 ≤ s.chip.reg Obj.SPUR_CE_LIMIT) :
    Ends (.sramCorrected ridge spur) s (fun t =>
      t.chip.reg (Obj.CNT_SRAM_CORRECTED + ridge.val) = (s.chip.reg (Obj.CNT_SRAM_CORRECTED + ridge.val) + 1) % 2 ^ 64 ∧
      (t.chip.spur ridge.val spur.val).ceEpoch = (s.chip.spur ridge.val spur.val).ceEpoch + 1 ∧ t.chip.resets = s.chip.resets ∧
      t.mem = s.mem) := by
  refine ⟨_, execSramCorrected_within_limit hlimit, ?_, s.chip.sramCounted_ceEpoch _ _, rfl, rfl⟩
  rw [State.on_chip, Chip.sramCounted_reg, if_pos rfl]

/-! ### Failures that order an L2 reset (R79, R80) -/

/-- The L2 reset of a Spur position. -/
def l2Reset (cause n p : Nat) : ResetRec := { level := 2, cause := cause, ridge := n, spur := p }

/-- An L2 reset that is ordered on a chip that decides as one on which it is carried out is in progress afterwards. -/
theorem State.order_l2_resetting {c : Chip} {t : State} {cause n p : Nat} (hn : n < 16) (hlike : c.OrdersLike t.chip)
    (hordered : (l2Reset cause n p).ordered c) : (t.order (l2Reset cause n p)).chip.resetting 2 cause :=
  State.order_resetting (r := l2Reset cause n p) (by simp [l2Reset]) (hlike.ordered_l2 rfl hn hordered)

theorem ResetRec.not_retired_of_ordered {c : Chip} {cause n p : Nat} (h : (l2Reset cause n p).ordered c) : c.retired n = false := by
  obtain ⟨hdue, -⟩ := h
  simp only [ResetRec.due, l2Reset, Bool.and_eq_true, Bool.not_eq_true'] at hdue
  obtain ⟨-, ⟨-, hretired⟩, -⟩ := hdue
  exact hretired

/-- An uncorrectable error of a Spur is counted, for its Ridge and for its epoch, and reported. -/
def Chip.sramLost (c : Chip) (n p : Nat) (addr : W64) : Chip :=
  let c := (c.count modInst (Obj.CNT_SRAM_UNCORRECTABLE + n) 1).updSpur n p (fun x => { x with ueEpoch := x.ueEpoch + 1 })
  c.raise 0x0423 (c.ownerN n) [(1, n), (8, addr.toNat)]

theorem Chip.sramLost_ueEpoch (c : Chip) (n p : Nat) (addr : W64) :
    ((c.sramLost n p addr).spur n p).ueEpoch = (c.spur n p).ueEpoch + 1 := by
  rw [Chip.sramLost, Chip.spur_of_ridges (Chip.raise_ridges _ _ _ _), Chip.spur_updSpur_same]
  rfl

/-- The counter of uncorrectable errors decides about no order. -/
theorem not_orderSubject_sramUncorrectable {n : Nat} (hn : n < 16) : ¬ orderSubject (Obj.CNT_SRAM_UNCORRECTABLE + n) = true := by
  simp [orderSubject, Obj.CNT_SRAM_UNCORRECTABLE]
  omega

theorem Chip.sramLost_ordersLike (c : Chip) {n : Nat} (hn : n < 16) (p : Nat) (addr : W64) : c.OrdersLike (c.sramLost n p addr) :=
  (((Chip.OrdersLike.refl c).count (not_orderSubject_sramUncorrectable hn) 1).updSpur n p _).raise _ _ _

/-- The first uncorrectable error of an epoch orders the reset of its Spur. -/
theorem execSramUncorrectable_first {ridge : Fin 16} {spur : Fin 17} (addr : W64) {s : State}
    (hfirst : (s.chip.spur ridge.val spur.val).ueEpoch = 0) : execSramUncorrectable ridge spur addr s =
      .next ((s.on (fun c => c.sramLost ridge.val spur.val addr)).order (l2Reset 3 ridge.val spur.val)) := by
  have honce : ¬ ((s.chip.sramLost ridge.val spur.val addr).spur ridge.val spur.val).ueEpoch ≥ 2 := by
    rw [Chip.sramLost_ueEpoch]
    omega
  exact congrArg done (if_neg honce)

theorem sramUncorrectable_resets {ridge : Fin 16} {spur : Fin 17} (addr : W64) {s : State}
    (hfirst : (s.chip.spur ridge.val spur.val).ueEpoch = 0) (hordered : (l2Reset 3 ridge.val spur.val).ordered s.chip) :
    Ends (.sramUncorrectable ridge spur addr) s (fun t => t.chip.resetting 2 3) :=
  ⟨_, execSramUncorrectable_first addr hfirst,
    State.order_l2_resetting ridge.isLt (s.chip.sramLost_ordersLike ridge.isLt spur.val addr) hordered⟩

/-- A hang of a Spur is counted for its epoch. -/
def Chip.hangCounted (c : Chip) (n p : Nat) : Chip := c.updSpur n p (fun x => { x with hangEpoch := x.hangEpoch + 1 })

theorem Chip.hangCounted_ordersLike (c : Chip) (n p : Nat) : c.OrdersLike (c.hangCounted n p) :=
  (Chip.OrdersLike.refl c).updSpur n p _

/-- The first hang of an epoch orders the reset of its Spur. -/
theorem execSpurSuspendTimeout_first {ridge : Fin 16} {spur : Fin 17} {s : State}
    (hfirst : (s.chip.spur ridge.val spur.val).hangEpoch = 0) : execSpurSuspendTimeout ridge spur s =
      .next ((s.on (fun c => c.hangCounted ridge.val spur.val)).order (l2Reset 4 ridge.val spur.val)) := by
  have honce : ¬ ((s.chip.hangCounted ridge.val spur.val).spur ridge.val spur.val).hangEpoch ≥ 2 := by
    rw [Chip.hangCounted, Chip.spur_updSpur_same]
    simp [hfirst]
  exact congrArg done (if_neg honce)

theorem spurSuspendTimeout_resets {ridge : Fin 16} {spur : Fin 17} {s : State}
    (hfirst : (s.chip.spur ridge.val spur.val).hangEpoch = 0) (hordered : (l2Reset 4 ridge.val spur.val).ordered s.chip) :
    Ends (.spurSuspendTimeout ridge spur) s (fun t => t.chip.resetting 2 4) :=
  ⟨_, execSpurSuspendTimeout_first hfirst,
    State.order_l2_resetting ridge.isLt (s.chip.hangCounted_ordersLike ridge.val spur.val) hordered⟩

/-- A mapped position that fails outside a remap begins one, and its L2 reset is due; what decides about the order stays as it
was (R79, R80). -/
theorem Chip.failPos_mapped {c : Chip} {n p : Nat} (hn : n < 16) (hretired : c.retired n = false)
    (hfresh : bitAt (c.reg (Obj.SPUR_FAILED_MASK + n)) p = false) (hmapped : bitAt (c.spurMap n) p = true)
    (hremap : (c.ridge n).remap = none) : ∃ d, c.failPos n p = (d, true) ∧ c.OrdersLike d := by
  have hkey : ¬ orderSubject (Obj.SPUR_FAILED_MASK + n) = true := by simp [orderSubject, Obj.SPUR_FAILED_MASK]; omega
  unfold Chip.failPos
  extract_lets mk c1 sp c2
  have hmarked : c.OrdersLike c1 := (Chip.OrdersLike.refl c).setReg hkey _
  have hmap : bitAt (c1.spurMap n) p = true := by
    rw [Chip.spurMap, hmarked.reg _ (by simp [orderSubject, Obj.RIDGE_SPUR_MAP]; omega)]
    exact hmapped
  have hnone : (c1.ridge n).remap = none := hremap
  have hbegun : c.OrdersLike c2 := hmarked.updRidge n _
  rw [if_neg (by simp [hretired, mk, hfresh]), hnone]
  simp only [hmap, Bool.not_true, Bool.false_eq_true, if_false]
  refine ⟨_, rfl, ?_⟩
  cases sp with
  | some q => exact hbegun.resetSpur n q
  | none => exact hbegun

/-- A failure that makes an L2 reset due orders it (R80). -/
theorem State.failSpur_of_failPos {s : State} {n p : Nat} {c : Chip} (h : s.chip.failPos n p = (c, true)) :
    s.failSpur n p = (s.on (fun _ => c)).order (l2Reset 5 n p) := by
  simp only [State.failSpur, h, if_true]
  rfl

theorem State.failSpur_resetting {s : State} {n p : Nat} (hn : n < 16) (hfresh : bitAt (s.chip.reg (Obj.SPUR_FAILED_MASK + n)) p = false)
    (hmapped : bitAt (s.chip.spurMap n) p = true) (hremap : (s.chip.ridge n).remap = none) (hordered : (l2Reset 5 n p).ordered s.chip) :
    (s.failSpur n p).chip.resetting 2 5 := by
  obtain ⟨c, hfail, hlike⟩ := Chip.failPos_mapped hn (ResetRec.not_retired_of_ordered hordered) hfresh hmapped hremap
  rw [State.failSpur_of_failPos hfail]
  exact State.order_l2_resetting hn hlike hordered

theorem spurFailed_resets {ridge : Fin 16} {spur : Fin 17} {s : State}
    (hfresh : bitAt (s.chip.reg (Obj.SPUR_FAILED_MASK + ridge.val)) spur.val = false)
    (hmapped : bitAt (s.chip.spurMap ridge.val) spur.val = true) (hremap : (s.chip.ridge ridge.val).remap = none)
    (hordered : (l2Reset 5 ridge.val spur.val).ordered s.chip) : Ends (.spurFailed ridge spur) s (fun t => t.chip.resetting 2 5) :=
  ⟨_, rfl, State.failSpur_resetting ridge.isLt hfresh hmapped hremap hordered⟩

/-- The request to retire a position names its Ridge in the high byte and its position in the low one. -/
theorem effSpurRetire_of_mapped {inst n p : Nat} {s : State} (hn : n < 16) (hp : p < 17) (hretired : s.chip.retired n = false)
    (hfresh : bitAt (s.chip.reg (Obj.SPUR_FAILED_MASK + n)) p = false) (hactive : s.chip.spursActive n ≠ 1) :
    effSpurRetire inst (wr 2 (256 * n + p)) s = (s.failSpur n p, rcOK) := by
  have hvalue : leNat (wr 2 (256 * n + p)) = 256 * n + p := by
    simp [wr, leBytes, leNat]
    omega
  have hridge : fld (256 * n + p) 15 8 = n := by simp [fld, Nat.shiftRight_eq_div_pow]; omega
  have hspur : fld (256 * n + p) 7 0 = p := by simp [fld]; omega
  unfold effSpurRetire
  simp only [hvalue, hridge, hspur]
  rw [if_neg (by omega), if_neg (by simp [hretired, hfresh, hactive])]

theorem spurRetireReq_resets {r : Req} {ridge : Fin 16} {spur : Fin 17} {s : State} {inst : Nat}
    (hadmits : s.admits r Obj.SPUR_RETIRE_REQ (wr 2 (256 * ridge.val + spur.val)) inst = true)
    (hfresh : bitAt (s.chip.reg (Obj.SPUR_FAILED_MASK + ridge.val)) spur.val = false)
    (hmapped : bitAt (s.chip.spurMap ridge.val) spur.val = true) (hactive : s.chip.spursActive ridge.val ≠ 1)
    (hremap : (s.chip.ridge ridge.val).remap = none) (hordered : (l2Reset 5 ridge.val spur.val).ordered s.chip) :
    Ends (.spurRetireReq r (BitVec.ofNat 16 (256 * ridge.val + spur.val))) s (fun t =>
      t.chip.resetting 2 5 ∧ t.answers r Obj.SPUR_RETIRE_REQ rcOK) := by
  have hvalue : (BitVec.ofNat 16 (256 * ridge.val + spur.val)).toNat = 256 * ridge.val + spur.val := by
    rw [BitVec.toNat_ofNat]
    omega
  have hexec : execSpurRetireReq r (BitVec.ofNat 16 (256 * ridge.val + spur.val)) s =
      .next ((s.failSpur ridge.val spur.val).on (fun c =>
        c.result r.sess.val (Obj.SPUR_RETIRE_REQ / 256) (Obj.SPUR_RETIRE_REQ % 256) rcOK [])) := by
    rw [execSpurRetireReq, hvalue, State.rowWrite_admits hadmits,
      effSpurRetire_of_mapped ridge.isLt spur.isLt (ResetRec.not_retired_of_ordered hordered) hfresh hactive]
    rfl
  refine ⟨_, hexec, ?_, ?_⟩
  · rw [State.on_chip, Chip.result_ok]
    exact State.failSpur_resetting ridge.isLt hfresh hmapped hremap hordered
  · rw [State.answers, State.on_chip, Chip.result_ok]
    exact List.getLast?_concat

/-! ### The spare's test (R80) -/

theorem spareSelftestDone_noted {ridge : Fin 16} {s : State} {m : Remap} {p : Nat} (hremap : (s.chip.ridge ridge.val).remap = some m)
    (hspare : m.spare = some p) : Ends (.spareSelftestDone ridge true) s (fun t =>
      (t.chip.ridge ridge.val).remap = some { m with tested := true } ∧ t.chip.regs = s.chip.regs ∧ t.mem = s.mem) := by
  have hexec : execSpareSelftestDone ridge true s =
      .next (s.on (fun c => c.updRidge ridge.val (fun r => { r with remap := some { m with tested := true } }))) := by
    simp [execSpareSelftestDone, State.on, hremap, hspare]
  refine ⟨_, hexec, ?_, rfl, rfl⟩
  rw [State.on_chip, Chip.ridge_updRidge_same]

/-! ### An uncorrectable line of the Ridge scratchpad (R77) -/

/-- The error is counted and reported. -/
def Chip.spadErrorSaid (c : Chip) (n line : Nat) : Chip :=
  let c := c.count modInst (Obj.CNT_SRAM_UNCORRECTABLE + n) 1
  c.raise 0x0423 (c.ownerN n) [(1, n), (8, line)]

theorem Chip.spadErrorSaid_reg (c : Chip) {n : Nat} (hn : n < 16) (line : Nat) :
    (c.spadErrorSaid n line).reg (Obj.CNT_SRAM_UNCORRECTABLE + n) = (c.reg (Obj.CNT_SRAM_UNCORRECTABLE + n) + 1) % 2 ^ 64 := by
  have hrecorder : recorderKey (ikey modInst (Obj.CNT_SRAM_UNCORRECTABLE + n)) = false :=
    recorderKey_of_subject (by simp only [Obj.CNT_SRAM_UNCORRECTABLE]; omega)
  rw [Chip.spadErrorSaid, Chip.raise_reg _ _ _ _ _ hrecorder, Chip.reg_count, if_pos rfl]

theorem Chip.spadErrorSaid_said (c : Chip) {n : Nat} (hn : n < 16) (line : Nat) :
    (c.spadErrorSaid n line).said 0x0423 (c.ownerN n) [(1, n), (8, line)] := by
  rw [← ((Chip.OrdersLike.refl c).count (not_orderSubject_sramUncorrectable hn) 1).ownerN n]
  exact Chip.raise_said _ _ _ _

theorem Chip.spadErrorSaid_bankUe (c : Chip) (n line : Nat) : ((c.spadErrorSaid n line).ridge n).bankUe = (c.ridge n).bankUe := by
  simp [Chip.spadErrorSaid, Chip.ridge]

/-- After the error the line holds zeros, and its bank is noted for its epoch. -/
def Chip.spadLineLost (c : Chip) (n line bank : Nat) : Chip :=
  ((c.spadErrorSaid n line).spadWrite n 17 line (zeros 128)).updRidge n (fun r => { r with bankUe := bank :: r.bankUe })

theorem Chip.spadLineLost_reads_zero (c : Chip) (n line bank : Nat) :
    (c.spadLineLost n line bank).spadBytes n 17 line 128 = zeros 128 := by
  rw [Chip.spadLineLost, Chip.ridgeSpadBytes_of_spads (Chip.updRidge_spads _ _ _)]
  exact Chip.spadBytes_spadWrite _ _ _ _ List.length_replicate

theorem Chip.spadLineLost_bankUe (c : Chip) (n line bank : Nat) :
    ((c.spadLineLost n line bank).ridge n).bankUe = bank :: (c.ridge n).bankUe := by
  rw [Chip.spadLineLost, Chip.ridge_updRidge_same, Chip.ridge_spadWrite, Chip.spadErrorSaid_bankUe]

theorem Chip.spadLineLost_reg (c : Chip) {n : Nat} (hn : n < 16) (line bank : Nat) :
    (c.spadLineLost n line bank).reg (Obj.CNT_SRAM_UNCORRECTABLE + n) = (c.reg (Obj.CNT_SRAM_UNCORRECTABLE + n) + 1) % 2 ^ 64 := by
  rw [Chip.spadLineLost, Chip.reg_of_regs (Chip.updRidge_regs _ _ _), Chip.reg_spadWrite, Chip.spadErrorSaid_reg _ hn]

theorem Chip.spadLineLost_said (c : Chip) {n : Nat} (hn : n < 16) (line bank : Nat) :
    (c.spadLineLost n line bank).said 0x0423 (c.ownerN n) [(1, n), (8, line)] := by
  refine Chip.said_of_streams ?_ (c.spadErrorSaid_said hn line)
  rw [Chip.spadLineLost, Chip.updRidge_streams, Chip.streams_spadWrite]

/-- The first error of a bank in its epoch leaves the Ridge at work. -/
theorem execRidgeSpadUncorrectable_first {ridge : Fin 16} {addr : BitVec 25} {s : State}
    (hfirst : (s.chip.ridge ridge.val).bankUe.contains (fld addr.toNat 11 7) = false) :
    execRidgeSpadUncorrectable ridge addr none s = .next (s.on (fun c =>
      (c.spadLineLost ridge.val (addr.toNat / 128 * 128) (fld addr.toNat 11 7)).dispatch ridge.val)) := by
  have honce : ¬ (((s.chip.spadErrorSaid ridge.val (addr.toNat / 128 * 128)).spadWrite ridge.val 17 (addr.toNat / 128 * 128)
      (zeros 128)).ridge ridge.val).bankUe.contains (fld addr.toNat 11 7) = true := by
    rw [Chip.ridge_spadWrite, Chip.spadErrorSaid_bankUe, hfirst]
    exact Bool.false_ne_true
  unfold execRidgeSpadUncorrectable
  extract_lets n line bank
  refine congrArg (fun c => Host.Outcome.next { s with chip := c }) ?_
  exact if_neg honce

/-- What the lost line has left stays when the Ridge goes on issuing. -/
theorem Chip.spadLineLost_dispatch (c : Chip) {n : Nat} (hn : n < 16) (line bank : Nat) :
    let d := (c.spadLineLost n line bank).dispatch n
    d.spadBytes n 17 line 128 = zeros 128 ∧
    d.reg (Obj.CNT_SRAM_UNCORRECTABLE + n) = (c.reg (Obj.CNT_SRAM_UNCORRECTABLE + n) + 1) % 2 ^ 64 ∧
    bank ∈ (d.ridge n).bankUe ∧ d.said 0x0423 (c.ownerN n) [(1, n), (8, line)] := by
  have hissued := (Chip.Issued.refl (c.spadLineLost n line bank)).dispatch n
  have hkeeps := (Chip.IssueKeeps.refl n (c.spadLineLost n line bank)).dispatch
  refine ⟨?_, ?_, ?_, Chip.said_of_streams hissued.streams (c.spadLineLost_said hn line bank)⟩
  · rw [Chip.ridgeSpadBytes_of_spads hissued.spads, Chip.spadLineLost_reads_zero]
  · rw [hkeeps.reg, Chip.spadLineLost_reg c hn]
  · rw [hissued.bankUe, Chip.spadLineLost_bankUe]
    exact List.mem_cons_self

theorem ridgeSpadUncorrectable_reads_zero {ridge : Fin 16} {addr : BitVec 25} {s : State}
    (hfirst : (s.chip.ridge ridge.val).bankUe.contains (fld addr.toNat 11 7) = false) :
    Ends (.ridgeSpadUncorrectable ridge addr none) s (fun t =>
      t.chip.spadBytes ridge.val 17 (addr.toNat / 128 * 128) 128 = zeros 128 ∧
      t.chip.reg (Obj.CNT_SRAM_UNCORRECTABLE + ridge.val) = (s.chip.reg (Obj.CNT_SRAM_UNCORRECTABLE + ridge.val) + 1) % 2 ^ 64 ∧
      fld addr.toNat 11 7 ∈ (t.chip.ridge ridge.val).bankUe ∧
      t.chip.said 0x0423 (s.chip.ownerN ridge.val) [(1, ridge.val), (8, addr.toNat / 128 * 128)] ∧ t.mem = s.mem) := by
  obtain ⟨hzero, hcount, hbank, hsaid⟩ :=
    s.chip.spadLineLost_dispatch ridge.isLt (addr.toNat / 128 * 128) (fld addr.toNat 11 7)
  refine ⟨_, execRidgeSpadUncorrectable_first hfirst, ?_⟩
  simp only [State.on_chip, State.on_mem]
  exact ⟨hzero, hcount, hbank, hsaid, trivial⟩

/-! ### Units that do not answer the sampler (R411) -/

theorem bitAt_putBit_same (x i : Nat) : bitAt (putBit x i true) i = true := by
  unfold bitAt putBit
  rw [if_pos rfl, if_pos rfl]
  split
  · assumption
  next hclear => rw [Nat.add_comm, Nat.testBit_two_pow_add_eq, Bool.eq_false_of_not_eq_true hclear]; rfl

theorem screeUnitTimeout_noted (ridge : Fin 16) (unit : Fin 18) (s : State) :
    Ends (.screeUnitTimeout ridge unit) s (fun t =>
      bitAt (t.chip.ridge ridge.val).noAnswer unit.val = true ∧ t.chip.regs = s.chip.regs ∧ t.mem = s.mem) := by
  refine ⟨_, rfl, ?_, rfl, rfl⟩
  rw [State.on_chip, Chip.ridge_updRidge_same]
  exact bitAt_putBit_same _ _

/-- Settles O45: the counts, the L2 resets with their causes, the spare's test, the lost line and the mute unit. -/
theorem spurFailures : Obligations.SpurFailures := by
  unfold Obligations.SpurFailures
  intro l2
  refine ⟨fun ridge spur s hlimit => sramCorrected_counts hlimit,
    fun ridge spur addr s hfirst hordered => sramUncorrectable_resets addr hfirst hordered,
    fun ridge spur s hfirst hordered => spurSuspendTimeout_resets hfirst hordered,
    fun ridge spur s hfresh hmapped hremap hordered => spurFailed_resets hfresh hmapped hremap hordered,
    fun r ridge spur s inst hadmits hfresh hmapped hactive hremap hordered =>
      spurRetireReq_resets hadmits hfresh hmapped hactive hremap hordered,
    fun ridge s m p hremap hspare => spareSelftestDone_noted hremap hspare,
    fun ridge addr s hfirst => ridgeSpadUncorrectable_reads_zero hfirst,
    screeUnitTimeout_noted⟩

end Sys2Proof.Machine
end

section
/-! PROOF. What the sequencer's issue never changes (R71, R98, R99, R198): a queue and its commands but for how far each has been
issued, the progress of DMA units, the step numbers of a Ridge, and every object but the count of dropped trace records. -/
namespace Sys2Proof.Machine

/-! ### Commands, queues and DMA units across the issue -/

/-- A command without the fields that starting it and giving out its units write. -/
def Cmd.fixed (k : Cmd) : Cmd :=
  { k with started := false, begun := false, nextUnit := 0, again := [], startCycle := 0, cfg := {}, cfgRead := false,
           afterMM := false, promoFrom := 0, promoA := false, promoB := false, issued := [] }

/-- `e` is `k` after some of its work was issued: what it has started stays started. -/
structure Cmd.IssuedTo (k e : Cmd) : Prop where
  fixed : e.fixed = k.fixed
  started : k.started = true → e.started = true
  begun : k.begun = true → e.begun = true

namespace Cmd.IssuedTo

variable {k e e' : Cmd}

theorem refl (k : Cmd) : IssuedTo k k := ⟨rfl, id, id⟩

theorem trans (h : IssuedTo k e) (h' : IssuedTo e e') : IssuedTo k e' :=
  ⟨h'.fixed.trans h.fixed, h'.started ∘ h.started, h'.begun ∘ h.begun⟩

theorem count (h : IssuedTo k e) : e.count = k.count := (congrArg Cmd.count h.fixed :)
theorem desc (h : IssuedTo k e) : e.desc = k.desc := (congrArg Cmd.desc h.fixed :)
theorem units (h : IssuedTo k e) : e.units = k.units := (congrArg Cmd.units h.fixed :)
theorem done (h : IssuedTo k e) : e.done = k.done := (congrArg Cmd.done h.fixed :)
theorem finished (h : IssuedTo k e) : e.finished = k.finished := (congrArg Cmd.finished h.fixed :)
theorem status (h : IssuedTo k e) : e.status = k.status := (congrArg Cmd.status h.fixed :)
theorem link (h : IssuedTo k e) : e.link = k.link := (congrArg Cmd.link h.fixed :)
theorem rtsAt (h : IssuedTo k e) : e.rtsAt = k.rtsAt := (congrArg Cmd.rtsAt h.fixed :)
theorem cts (h : IssuedTo k e) : e.cts = k.cts := (congrArg Cmd.cts h.fixed :)
theorem vc (h : IssuedTo k e) : e.vc = k.vc := (congrArg Cmd.vc h.fixed :)
theorem watch (h : IssuedTo k e) : e.watch = k.watch := (congrArg Cmd.watch h.fixed :)

/-- Giving out a unit begins its command and moves the bounds of what it has issued. -/
theorem give (k : Cmd) (u frame cyc : Nat) : IssuedTo k (k.give u frame cyc) := by
  unfold Cmd.give
  dsimp only
  repeat' split
  all_goals exact ⟨rfl, id, fun _ => by simp [*]⟩

end Cmd.IssuedTo

/-- `y` is `x` after some work of its commands was issued. -/
def Queue.IssuedTo (x y : Queue) : Prop :=
  ∃ g m a, (∀ k, Cmd.IssuedTo k (g k)) ∧ y = { x with cmds := x.cmds.map g, mmSince := m, act := a }

namespace Queue.IssuedTo

variable {x y z : Queue}

theorem refl (x : Queue) : IssuedTo x x := ⟨id, x.mmSince, x.act, .refl, by simp⟩

theorem trans (h : IssuedTo x y) (h' : IssuedTo y z) : IssuedTo x z := by
  obtain ⟨g, _, _, hg, rfl⟩ := h
  obtain ⟨g', m, a, hg', rfl⟩ := h'
  exact ⟨g' ∘ g, m, a, fun k => (hg k).trans (hg' _), by simp⟩

theorem st (h : IssuedTo x y) : y.st = x.st := by obtain ⟨_, _, _, _, rfl⟩ := h; rfl
theorem halt (h : IssuedTo x y) : y.halt = x.halt := by obtain ⟨_, _, _, _, rfl⟩ := h; rfl
theorem accepted (h : IssuedTo x y) : y.accepted = x.accepted := by obtain ⟨_, _, _, _, rfl⟩ := h; rfl
theorem disabling (h : IssuedTo x y) : y.disabling = x.disabling := by obtain ⟨_, _, _, _, rfl⟩ := h; rfl
theorem failing (h : IssuedTo x y) : y.failing = x.failing := by obtain ⟨_, _, _, _, rfl⟩ := h; rfl
theorem records (h : IssuedTo x y) : y.records = x.records := by obtain ⟨_, _, _, _, rfl⟩ := h; rfl

theorem mmSince (x : Queue) (m : Bool) : IssuedTo x { x with mmSince := m } := ⟨id, m, x.act, .refl, by simp⟩

theorem act (x : Queue) (a : Activity) : IssuedTo x { x with act := a } := ⟨id, x.mmSince, a, .refl, by simp⟩

theorem updCmd (x : Queue) (count : Nat) {f : Cmd → Cmd} (hf : ∀ k, Cmd.IssuedTo k (f k)) : IssuedTo x (x.updCmd count f) := by
  refine ⟨fun k => if k.count = count then f k else k, x.mmSince, x.act, fun k => ?_, rfl⟩
  dsimp only
  split
  · exact hf k
  · exact .refl k

/-- A command is found after the issue where it was found before. -/
theorem cmd (h : IssuedTo x y) {count : Nat} {k : Cmd} (hk : x.cmd count = some k) : ∃ e, y.cmd count = some e ∧ Cmd.IssuedTo k e := by
  obtain ⟨g, _, _, hg, rfl⟩ := h
  refine ⟨g k, ?_, hg k⟩
  have hcount : ((fun e : Cmd => decide (e.count = count)) ∘ g) = fun e => decide (e.count = count) := by
    funext e
    simp [(hg e).count]
  rw [Queue.cmd, List.find?_map, hcount]
  exact congrArg (Option.map g) hk

theorem mem (h : IssuedTo x y) {k : Cmd} (hk : k ∈ x.cmds) : ∃ e ∈ y.cmds, Cmd.IssuedTo k e := by
  obtain ⟨g, _, _, hg, rfl⟩ := h
  exact ⟨g k, List.mem_map_of_mem hk, hg k⟩

theorem of_mem (h : IssuedTo x y) {e : Cmd} (he : e ∈ y.cmds) : ∃ k ∈ x.cmds, Cmd.IssuedTo k e := by
  obtain ⟨g, _, _, hg, rfl⟩ := h
  obtain ⟨k, hk, rfl⟩ := List.mem_map.mp he
  exact ⟨k, hk, hg k⟩

end Queue.IssuedTo

/-- What a DMA unit's record says of its work, without its state and its engine. -/
def DmaUnit.work (d : DmaUnit) : DmaUnit := { d with st := .running, engine := none }

/-- `d` is `c` after work was issued on its Ridges. -/
structure Chip.IssuedTo (c d : Chip) : Prop where
  queue : ∀ m q, Queue.IssuedTo (c.queue m q) (d.queue m q)
  dma : ∀ m i u, Tbl.find (c.ridge m).dma i = some u → ∃ v, Tbl.find (d.ridge m).dma i = some v ∧ v.work = u.work
  steps : ∀ m, (d.ridge m).steps = (c.ridge m).steps
  get : ∀ i key, key < 2 ^ 24 → key ≠ Obj.CNT_TRACE_DROPPED → d.get i key = c.get i key

/-! ### Each step of the issue -/

theorem Chip.queue_updQueue_other (c : Chip) {n q m r : Nat} (f : Queue → Queue) (h : 8 * m + r ≠ 8 * n + q) :
    (c.updQueue n q f).queue m r = c.queue m r := Chip.queue_setQueue_other c _ h

theorem Chip.queue_congr (c : Chip) {n q m r : Nat} (h : 8 * m + r = 8 * n + q) : c.queue m r = c.queue n q := by
  rw [Chip.queue, h, Chip.queue]

/-- Changing one queue changes each queue as the change of it says, or not at all. -/
theorem Chip.queue_updQueue (c : Chip) (n q m r : Nat) (f : Queue → Queue) :
    (c.updQueue n q f).queue m r = if 8 * m + r = 8 * n + q then f (c.queue m r) else c.queue m r := by
  split
  next h => rw [Chip.queue_congr _ h, Chip.queue_updQueue_same, Chip.queue_congr c h]
  next h => exact c.queue_updQueue_other f h

/-- A partition's counter goes up, and no other object changes. -/
theorem Chip.get_countPart_other (c : Chip) (k : Nat) {key i l : Nat} (n : Nat) (hkey : key < 2 ^ 24) (hl : l < 2 ^ 24) (h : l ≠ key) :
    (c.countPart k key n).get i l = c.get i l := by
  unfold Chip.countPart
  split
  · exact Chip.get_set_other c _ (by rw [Ne, ikey_inj hl hkey]; exact fun h' => h h'.2)
  · rfl

theorem Chip.get_of_regs {c d : Chip} (h : d.regs = c.regs) (i key : Nat) : d.get i key = c.get i key := by
  rw [Chip.get, h, Chip.get]

theorem Chip.queue_of_queues {c d : Chip} (h : d.queues = c.queues) (m q : Nat) : d.queue m q = c.queue m q := by
  rw [Chip.queue, h, Chip.queue]

theorem Chip.ridge_of_ridges {c d : Chip} (h : d.ridges = c.ridges) (m : Nat) : d.ridge m = c.ridge m := by
  rw [Chip.ridge, h, Chip.ridge]

theorem Tbl.find_eq_none_of_all {α : Type} {t : Tbl α} {i : Nat} (h : ∀ p ∈ t, p.1 ≠ i) : Tbl.find t i = none := by
  induction t with
  | nil => rfl
  | cons p t ih =>
    obtain ⟨hp, ht⟩ := List.forall_mem_cons.mp h
    rw [Tbl.find, if_neg (Ne.symm hp), ih ht]

/-- A free record slot holds no unit. -/
theorem Ridge.find_freeSlot {r : Ridge} {i : Nat} (h : r.freeSlot = some i) : Tbl.find r.dma i = none := by
  have hfree := List.find?_some h
  exact Tbl.find_eq_none_of_all fun p hp hi => by
    simp at hfree
    exact hfree _ _ hp hi

/-- A trace record leaves the DMA units of its Ridge. -/
theorem Chip.dma_trace (c : Chip) (n q : Nat) (t : TraceRec) : ((c.trace n q t).ridge n).dma = (c.ridge n).dma := by
  unfold Chip.trace
  extract_lets k room push lost c1
  have hpush : ∀ (d : Chip) (t : TraceRec), ((push d t).ridge n).dma = (d.ridge n).dma := fun d t => by simp [push]
  have hlost : (c1.ridge n).dma = (c.ridge n).dma := by
    unfold c1
    split
    · rw [Chip.ridge_updRidge_same]
      exact hpush _ _
    · rfl
  split
  · rfl
  split
  · rw [hpush, hlost]
  · rw [Chip.ridge_updRidge_same, ← hlost, ← Chip.ridge_of_ridges (c1.countPart_ridges k Obj.CNT_TRACE_DROPPED 1)]

theorem Chip.dma_endPart (c : Chip) (n bit unit : Nat) (p : TracePart) : ((c.endPart n bit unit p).ridge n).dma = (c.ridge n).dma := by
  unfold Chip.endPart
  split
  · exact c.dma_trace _ _ _
  · rfl

theorem Chip.dma_takePart (c : Chip) (n bit unit : Nat) (old : Option TracePart) (q : Nat) (k : Cmd) (slice : Nat) :
    ((c.takePart n bit unit old q k slice).1.ridge n).dma = (c.ridge n).dma := by
  unfold Chip.takePart
  cases old with
  | none => exact c.dma_trace _ _ _
  | some o =>
    dsimp only
    split
    · rfl
    · rw [Chip.dma_trace, Chip.dma_endPart]

@[simp] theorem Chip.giveUnit_ridges (c : Chip) (n q count u : Nat) : (c.giveUnit n q count u).ridges = c.ridges := by
  unfold Chip.giveUnit
  extract_lets first c1
  have hfirst : c1.ridges = c.ridges := by unfold c1; split <;> rfl
  exact hfirst

namespace Chip.IssuedTo

variable {n : Nat} {b c d : Chip}

theorem refl (c : Chip) : IssuedTo c c := ⟨fun _ _ => .refl _, fun _ _ u hu => ⟨u, hu, rfl⟩, fun _ => rfl, fun _ _ _ _ => rfl⟩

theorem trans (h : IssuedTo b c) (h' : IssuedTo c d) : IssuedTo b d where
  queue m q := (h.queue m q).trans (h'.queue m q)
  dma m i u hu := by
    obtain ⟨v, hv, hwork⟩ := h.dma m i u hu
    obtain ⟨v', hv', hwork'⟩ := h'.dma m i v hv
    exact ⟨v', hv', hwork'.trans hwork⟩
  steps m := (h'.steps m).trans (h.steps m)
  get i key hkey hne := (h'.get i key hkey hne).trans (h.get i key hkey hne)

theorem cmd (h : IssuedTo c d) {q count : Nat} {k : Cmd} (hk : c.cmd n q count = some k) :
    ∃ e, d.cmd n q count = some e ∧ Cmd.IssuedTo k e := (h.queue n q).cmd hk

theorem ite {p : Prop} [Decidable p] (hc : IssuedTo b c) (hd : IssuedTo b d) : IssuedTo b (if p then c else d) := by
  split <;> assumption

theorem updQueue (h : IssuedTo b c) {q : Nat} {f : Queue → Queue} (hf : ∀ x, Queue.IssuedTo x (f x)) : IssuedTo b (c.updQueue n q f) := by
  refine h.trans ⟨fun m r => ?_, fun _ _ u hu => ⟨u, hu, rfl⟩, fun _ => rfl, fun _ _ _ _ => rfl⟩
  rw [Chip.queue_updQueue]
  split
  · exact hf _
  · exact .refl _

theorem updCmd (h : IssuedTo b c) {q count : Nat} {f : Cmd → Cmd} (hf : ∀ k, Cmd.IssuedTo k (f k)) : IssuedTo b (c.updCmd n q count f) :=
  h.updQueue fun x => .updCmd x count hf

/-- A Ridge may change while its step numbers stay and its DMA units keep their work. -/
theorem updRidge (h : IssuedTo b c) {f : Ridge → Ridge} (hsteps : ∀ r, (f r).steps = r.steps)
    (hdma : ∀ i u, Tbl.find (c.ridge n).dma i = some u → ∃ v, Tbl.find (f (c.ridge n)).dma i = some v ∧ v.work = u.work) :
    IssuedTo b (c.updRidge n f) := by
  refine h.trans ⟨fun _ _ => .refl _, fun m i u hu => ?_, fun m => ?_, fun _ _ _ _ => rfl⟩
  all_goals by_cases hm : m = n
  · subst hm
    rw [Chip.ridge_updRidge_same]
    exact hdma i u hu
  · rw [Chip.ridge_updRidge_other _ _ hm]
    exact ⟨u, hu, rfl⟩
  · rw [hm, Chip.ridge_updRidge_same, hsteps]
  · rw [Chip.ridge_updRidge_other _ _ hm]

theorem updRidge_of_dma (h : IssuedTo b c) {f : Ridge → Ridge} (hsteps : ∀ r, (f r).steps = r.steps) (hdma : ∀ r, (f r).dma = r.dma) :
    IssuedTo b (c.updRidge n f) :=
  h.updRidge hsteps fun i u hu => ⟨u, by rwa [hdma], rfl⟩

theorem updSpur (h : IssuedTo b c) {p : Nat} {f : Spur → Spur} : IssuedTo b (c.updSpur n p f) :=
  h.updRidge_of_dma (fun _ => rfl) (fun _ => rfl)

/-- A DMA unit's record takes another state or engine. -/
theorem updDma (h : IssuedTo b c) {i : Nat} {f : DmaUnit → DmaUnit} (hf : ∀ u, (f u).work = u.work) :
    IssuedTo b (c.updRidge n (fun r => { r with dma := Tbl.upd r.dma {} i f })) := by
  refine h.updRidge (fun _ => rfl) fun j u hu => ?_
  by_cases hj : j = i
  · subst hj
    exact ⟨f u, by simp [Tbl.upd, Tbl.get, hu], hf u⟩
  · exact ⟨u, by rwa [Tbl.upd, Tbl.find_put_other _ _ hj], rfl⟩

/-- A free record slot takes a DMA unit. -/
theorem putDma (h : IssuedTo b c) {i : Nat} (hfree : Tbl.find (c.ridge n).dma i = none) (v : DmaUnit) :
    IssuedTo b (c.updRidge n (fun r => { r with dma := Tbl.put r.dma i v })) := by
  refine h.updRidge (fun _ => rfl) fun j u hu => ?_
  have hj : j ≠ i := by rintro rfl; rw [hfree] at hu; cases hu
  exact ⟨u, by rwa [Tbl.find_put_other _ _ hj], rfl⟩

theorem traceDropped (h : IssuedTo b c) {k m : Nat} : IssuedTo b (c.countPart k Obj.CNT_TRACE_DROPPED m) := by
  refine h.trans ⟨fun m q => ?_, fun m i u hu => ⟨u, ?_, rfl⟩, fun m => ?_, fun i key hkey hne => ?_⟩
  · rw [Chip.queue_of_queues (c.countPart_queues _ _ _)]
    exact .refl _
  · rwa [Chip.ridge_of_ridges (c.countPart_ridges _ _ _)]
  · rw [Chip.ridge_of_ridges (c.countPart_ridges _ _ _)]
  · exact c.get_countPart_other k _ (by decide) hkey hne

theorem trace (h : IssuedTo b c) (q : Nat) (t : TraceRec) : IssuedTo b (c.trace n q t) := by
  unfold Chip.trace
  extract_lets k room push lost c1
  have hpush : ∀ {c : Chip} (t : TraceRec), IssuedTo b c → IssuedTo b (push c t) :=
    fun _ h => h.updRidge_of_dma (fun _ => rfl) (fun _ => rfl)
  have hlost : IssuedTo b c1 := ite ((hpush _ h).updRidge_of_dma (fun _ => rfl) (fun _ => rfl)) h
  exact ite h (ite (hpush t hlost) (hlost.traceDropped.updRidge_of_dma (fun _ => rfl) (fun _ => rfl)))

theorem endPart (h : IssuedTo b c) (bit unit : Nat) (p : TracePart) : IssuedTo b (c.endPart n bit unit p) := by
  unfold Chip.endPart
  split
  · exact h.trace _ _
  · exact h

theorem takePart (h : IssuedTo b c) {bit unit : Nat} {old : Option TracePart} {q : Nat} {k : Cmd} {slice : Nat} {part : TracePart}
    (htake : c.takePart n bit unit old q k slice = (d, part)) : IssuedTo b d := by
  obtain rfl : (c.takePart n bit unit old q k slice).1 = d := by rw [htake]
  unfold Chip.takePart
  cases old with
  | none => exact h.trace _ _
  | some o =>
    dsimp only
    split
    · exact h
    · exact (h.endPart _ _ o).trace _ _

/-- An engine that ends its part changes nothing of its Ridge's units. -/
theorem idleEngine (h : IssuedTo b c) (e : Nat) : IssuedTo b (c.idleEngine n e) := by
  unfold Chip.idleEngine
  split
  · exact h
  split
  · exact (h.endPart _ _ _).updRidge_of_dma (fun _ => rfl) (fun _ => rfl)
  · exact h

theorem startCmd (h : IssuedTo b c) (q : Nat) (k : Cmd) : IssuedTo b (c.startCmd n q k) := by
  unfold Chip.startCmd
  extract_lets
  refine (h.updCmd ?_).updQueue ?_
  · exact fun _ => ⟨rfl, fun _ => rfl, id⟩
  · exact fun x => .mmSince x _

theorem startQueue (h : IssuedTo b c) (q fuel : Nat) : IssuedTo b (c.startQueue n q fuel) := by
  induction fuel generalizing c with
  | zero => exact h
  | succ fuel ih =>
    unfold Chip.startQueue
    extract_lets x
    split
    · exact h
    · exact ite (ih (h.startCmd q _)) h

theorem giveUnit (h : IssuedTo b c) (q count u : Nat) : IssuedTo b (c.giveUnit n q count u) := by
  unfold Chip.giveUnit
  extract_lets first c1
  have hfirst : IssuedTo b c1 := ite (h.updQueue fun x => .act x _) h
  exact hfirst.updCmd fun k => .give k u _ _

theorem giveSpurs (h : IssuedTo b c) (fuel : Nat) : IssuedTo b (c.giveSpurs n fuel) := by
  induction fuel generalizing c with
  | zero => exact h
  | succ fuel ih =>
    unfold Chip.giveSpurs
    split
    · exact h
    next p _ _ =>
    split
    · exact h
    next q _ =>
    split
    · exact h
    next count u _ =>
    extract_lets c1 k
    split
    next d part htake =>
    have hgiven : IssuedTo b d := (h.giveUnit q count u).takePart htake
    exact ih (hgiven.updSpur.updRidge_of_dma (fun _ => rfl) (fun _ => rfl))

theorem giveEngines (h : IssuedTo b c) (fuel : Nat) : IssuedTo b (c.giveEngines n fuel) := by
  induction fuel generalizing c with
  | zero => exact h
  | succ fuel ih =>
    unfold Chip.giveEngines
    extract_lets r
    split
    · exact h
    split
    · exact h
    next e _ =>
    split
    · exact h
    next q _ =>
    extract_lets turn
    have hturn : ∀ {c : Chip}, IssuedTo b c → IssuedTo b (turn c) := fun h => h.updRidge_of_dma (fun _ => rfl) (fun _ => rfl)
    split
    · exact ih (hturn (h.updDma (fun _ => rfl)))
    split
    next i count u hslot _ =>
      extract_lets k c1
      split
      next d part htake =>
      have hgiven : IssuedTo b d := (h.giveUnit q count u).takePart htake
      have hdma : (d.ridge n).dma = r.dma := by
        have htaken := c1.dma_takePart n 1 (64 + e) (Tbl.find (c1.ridge n).engParts e) q k (k.sliceOf u)
        rwa [htake, Chip.ridge_of_ridges (c.giveUnit_ridges n q count u)] at htaken
      extract_lets d1
      have hpart : IssuedTo b d1 := hgiven.updRidge_of_dma (fun _ => rfl) (fun _ => rfl)
      have hfree : Tbl.find (d1.ridge n).dma i = none := by
        rw [Chip.ridge_updRidge_same]
        exact hdma ▸ Ridge.find_freeSlot hslot
      exact ih (hturn (hpart.putDma hfree _))
    · exact h

/-- The sequencer's issue on a Ridge. -/
theorem dispatch (h : IssuedTo b c) (n : Nat) : IssuedTo b (c.dispatch n) := by
  have hstart : IssuedTo b (forQueues (fun c q => c.startQueue n q 16) c) :=
    List.foldlRecOn _ _ h (fun _ hd q _ => hd.startQueue q 16)
  exact (hstart.giveSpurs (n := n) 17).giveEngines (n := n) 4

end Chip.IssuedTo
end Sys2Proof.Machine
end

section
/-! PROOF. Queues (R87–R94, R125–R127, R136): doorbells, QCONTROL, the hold of a queue, a descriptor that is read and a record that
is written. -/
namespace Sys2Proof.Machine

/-! ### What the issue keeps of a queue, its Ridge and the module -/

@[simp] theorem Chip.dispatch_links (c : Chip) (n : Nat) : (c.dispatch n).links = c.links := by
  obtain ⟨_, _, _, h⟩ := ((Issued.refl c).dispatch n).shape
  rw [h]

@[simp] theorem Chip.dispatch_parts (c : Chip) (n : Nat) : (c.dispatch n).parts = c.parts := by
  obtain ⟨_, _, _, h⟩ := ((Issued.refl c).dispatch n).shape
  rw [h]

@[simp] theorem Chip.dispatch_streams (c : Chip) (n : Nat) : (c.dispatch n).streams = c.streams := ((Issued.refl c).dispatch n).streams

theorem Chip.dispatch_issuedTo (c : Chip) (n : Nat) : c.IssuedTo (c.dispatch n) := (IssuedTo.refl c).dispatch n

/-! ### Doorbells (R88, R90) -/

section
variable {c : Chip} {w n q p : Nat}

theorem Chip.doorbell_of_disabled (h : (c.queue n q).st = .disabled) :
    c.doorbell w n q p = c.countPart w Obj.CNT_DOORBELL_IGNORED 1 := by
  simp [Chip.doorbell, h]

theorem Chip.doorbell_of_not_owner (h : c.owner n ≠ some w) : c.doorbell w n q p = c.countPart w Obj.CNT_DOORBELL_IGNORED 1 := by
  simp [Chip.doorbell, h]

variable (howner : c.owner n = some w) (hst : (c.queue n q).st ≠ .disabled)
include howner hst

theorem Chip.doorbell_of_same (h : dist32 p (c.queue n q).accepted = 0) : c.doorbell w n q p = c := by
  simp [Chip.doorbell, howner, hst, h]

theorem Chip.doorbell_of_older (h : 2 ^ 31 ≤ dist32 p (c.queue n q).accepted) :
    c.doorbell w n q p = c.countPart w Obj.CNT_DOORBELL_IGNORED 1 := by
  have hpos : dist32 p (c.queue n q).accepted ≠ 0 := by omega
  have h' : dist32 p (c.queue n q).accepted ≥ 2 ^ 31 := h
  unfold Chip.doorbell
  extract_lets x ign
  rw [if_neg (by simp [x, howner, hst]), if_neg hpos, if_pos h']

variable (hpos : 0 < dist32 p (c.queue n q).accepted) (hnear : dist32 p (c.queue n q).accepted < 2 ^ 31)
include hpos hnear

/-- A newer producer count is accepted, or finds the ring too small (R90). -/
theorem Chip.doorbell_of_newer : c.doorbell w n q p =
    if dist32 p (c.queue n q).consumed > c.reg (qkey Obj.QRING_ENTRIES n q) then
      (if (c.queue n q).st = .running then c.halt n q 0x0A p else c.countPart w Obj.CNT_DOORBELL_IGNORED 1)
    else c.setQueue n q { c.queue n q with accepted := p % 2 ^ 32 } := by
  unfold Chip.doorbell
  extract_lets x ign
  rw [if_neg (by simp [x, howner, hst]), if_neg (Nat.ne_of_gt hpos), if_neg (Nat.not_le.mpr hnear)]

end

/-- A RUNNING queue that halts: the reason and the count are recorded, and the event says them (R93). -/
theorem Chip.halt_of_running {c : Chip} {n q : Nat} (reason count : Nat) (h : (c.queue n q).st = .running) :
    c.halt n q reason count =
      (c.setQueue n q { c.queue n q with st := .halted, halt := reason, haltCount := count, resume := .halted }).raise 0x0430 (c.ownerN n)
        [(1, n), (1, q), (4, count), (1, reason)] := by
  unfold Chip.halt
  extract_lets x say
  rw [show x.st = .running from h]
  rfl

theorem Chip.queue_halt_of_running {c : Chip} {n q : Nat} (reason count : Nat) (h : (c.queue n q).st = .running) :
    (c.halt n q reason count).queue n q =
      { c.queue n q with st := .halted, halt := reason, haltCount := count, resume := .halted } := by
  rw [Chip.halt_of_running reason count h, Chip.queue_of_queues (Chip.raise_queues _ _ _ _), Chip.queue_setQueue_same]

theorem doorbell_ends {part : Fin 8} {ridge : Fin 16} {queue : Fin 8} {count : W32} {s : State} {c : Chip} {P : State → Prop}
    (h : s.chip.doorbell part.val ridge.val queue.val count.toNat = c) (hP : P { s with chip := c }) :
    Ends (.doorbell part ridge queue count) s P := by
  subst h
  exact ⟨_, rfl, hP⟩

/-- Settles O1, by the distance of the producer count from the accepted one. -/
theorem doorbell : Obligations.Doorbell := by
  unfold Obligations.Doorbell
  intro part ridge queue count s x ahead room ignored
  refine ⟨fun howner hst hpos hnear hroom => ?newer, fun howner hst hsame => ?same, fun howner hst holder => ?older,
    fun hst => ?disabled, fun howner => ?other, fun howner hst hpos hnear hroom => ?overrun⟩
  case newer =>
    refine doorbell_ends ((Chip.doorbell_of_newer howner hst hpos hnear).trans (if_neg (Nat.not_lt.mpr hroom))) ?_
    rw [Nat.mod_eq_of_lt count.isLt]
    rfl
  case same => exact doorbell_ends (Chip.doorbell_of_same howner hst hsame) rfl
  case older => exact doorbell_ends (Chip.doorbell_of_older howner hst holder) rfl
  case disabled => exact doorbell_ends (Chip.doorbell_of_disabled hst) rfl
  case other => exact doorbell_ends (Chip.doorbell_of_not_owner howner) rfl
  case overrun =>
    have hrunning : x.st ≠ .disabled := by rw [hst]; decide
    have hhalt : s.chip.doorbell part.val ridge.val queue.val count.toNat = s.chip.halt ridge.val queue.val 0x0A count.toNat := by
      rw [Chip.doorbell_of_newer howner hrunning hpos hnear, if_pos hroom, if_pos hst]
    refine doorbell_ends hhalt ?_
    rw [Chip.queue_halt_of_running 0x0A count.toNat hst]
    refine ⟨rfl, rfl, rfl, rfl, ?_⟩
    rw [Chip.halt_of_running 0x0A count.toNat hst, show s.chip.ownerN ridge.val = part.val by simp [Chip.ownerN, howner]]
    exact Chip.raise_said _ _ _ _

/-! ### QCONTROL and QUEUE_HOLD (R92, R94, R136) -/

@[simp] theorem Chip.result_queues (c : Chip) (slot idx sub code : Nat) (data : List Byte) :
    (c.result slot idx sub code data).queues = c.queues := by
  unfold Chip.result
  split <;> rfl

theorem Chip.result_last (c : Chip) (slot idx sub code : Nat) (data : List Byte) :
    (c.result slot idx sub code data).out.getLast? = some (.result slot idx sub code data) := by
  unfold Chip.result
  exact List.getLast?_concat

/-- An admitted write of an effect on one queue: the queue is as the effect leaves it, but for work that is then issued, and the
session has its answer. -/
theorem effQueue_ends {s : State} {i : Instr} {r : Req} {key inst n q code : Nat} {bs : List Byte} {f : Chip → Nat → Nat → Chip × Nat}
    {c : Chip} {P : State → Prop} (hexec : exec i s = .next (s.rowWrite r key bs (effQueue n q f)))
    (hadmits : s.admits r key bs inst = true) (hf : f s.chip n q = (c, code))
    (hP : ∀ t : State, (c.queue n q).IssuedTo (t.chip.queue n q) → t.answers r key code → t.mem = s.mem → P t) : Ends i s P := by
  refine ⟨_, hexec, hP _ ?_ ?_ ?_⟩
  all_goals rw [State.rowWrite_admits hadmits]
  all_goals simp only [effQueue, hf, State.on_chip, State.on_mem, State.kick_chip, State.kick_mem]
  · rw [Chip.queue_of_queues (Chip.result_queues _ _ _ _ _ _)]
    exact (c.dispatch_issuedTo n).queue n q
  · exact Chip.result_last _ _ _ _ _ _

/-- Passing over descriptors moves the bounds of a queue and leaves the rest of it. -/
theorem Queue.advance_shape (f : Nat) (x : Queue) :
    ∃ rs ss n, x.advance f = { x with recorded := rs, skipped := ss, consumed := n } := by
  induction f generalizing x with
  | zero => exact ⟨_, _, _, rfl⟩
  | succ f ih =>
    unfold Queue.advance
    split
    · obtain ⟨rs, ss, n, h⟩ := ih { x with recorded := _, skipped := _, consumed := _ }
      exact ⟨rs, ss, n, h⟩
    · exact ⟨_, _, _, rfl⟩

section
variable {c : Chip} {n q : Nat}

theorem Chip.qEnable_of_disabled (h : (c.queue n q).st = .disabled) (hretired : c.retired n = false) :
    c.qEnable n q = (c.setQueue n q { c.queue n q with
      st := .running, halt := 0, resume := .running, nextFetch := (c.queue n q).next, disabling := false, failing := false,
      replayOnly := [] }, rcOK) := by
  simp [Chip.qEnable, h, hretired]

theorem Chip.qEnable_refused (h : (c.queue n q).st ≠ .disabled) : c.qEnable n q = (c, rcState) := by
  simp [Chip.qEnable, h]

theorem Chip.qResume_of_halted (h : (c.queue n q).st = .halted) : c.qResume n q = (c.setQueue n q (c.queue n q).unhalt, rcOK) := by
  simp [Chip.qResume, h]

theorem Chip.qResume_refused (h : (c.queue n q).st ≠ .halted) : c.qResume n q = (c, rcState) := by
  simp [Chip.qResume, h]

/-- The queue that SKIP leaves: running, without the command of the halting descriptor. -/
theorem Chip.qSkip_of_halted (h : (c.queue n q).st = .halted) (hfetch : haltsAtFetch (c.queue n q).halt = true) :
    ∃ rs ss m f, c.qSkip n q = (c.setQueue n q { (c.queue n q).unhalt with
      cmds := (c.queue n q).cmds.filter (fun d => d.count != (c.queue n q).haltCount), recorded := rs, skipped := ss, consumed := m,
      nextFetch := f }, rcOK) := by
  unfold Chip.qSkip
  extract_lets x k y z
  obtain ⟨rs, ss, m, hy⟩ := Queue.advance_shape (z.recorded.length + z.skipped.length) z
  rw [if_neg (by simp [x, h, hfetch]), hy]
  exact ⟨rs, ss, m, _, rfl⟩

theorem Chip.qSkip_refused (h : (c.queue n q).st ≠ .halted ∨ haltsAtFetch (c.queue n q).halt = false) :
    c.qSkip n q = (c, rcState) := by
  unfold Chip.qSkip
  exact if_pos (by simpa using h)

theorem Chip.qDisable_of_live (h : (c.queue n q).st = .running ∨ (c.queue n q).st = .halted) :
    c.qDisable n q = (c.setQueue n q { c.queue n q with disabling := true }, rcOK) := by
  unfold Chip.qDisable
  exact if_pos (by simpa using h)

theorem Chip.qDisable_refused (hrunning : (c.queue n q).st ≠ .running) (hhalted : (c.queue n q).st ≠ .halted) :
    c.qDisable n q = (c, rcState) := by
  simp [Chip.qDisable, hrunning, hhalted]

end

theorem queueHold_written {s : State} {r : Req} {key inst : Nat} {hold : Bool}
    (hadmits : s.admits r key (wr 1 (if hold then 1 else 0)) inst = true) :
    let t := s.rowWrite r key (wr 1 (if hold then 1 else 0)) (effSet key)
    t.chip.get inst key = (if hold then 1 else 0) ∧ t.chip.queues = s.chip.queues ∧ t.answers r key rcOK ∧ t.mem = s.mem := by
  intro t
  have ht : t = _ := State.rowWrite_admits hadmits (effSet key)
  rw [ht]
  refine ⟨?_, rfl, Chip.result_last _ _ _ _ _ _, rfl⟩
  have hget : (s.chip.set inst key (leNat (wr 1 (if hold then 1 else 0)))).get inst key = if hold then 1 else 0 := by
    rw [Chip.get_set_same]
    cases hold <;> rfl
  exact hget

/-- Settles O2: each action in the states it is valid in and in the others, and the hold. -/
theorem queueControl : Obligations.QueueControl := by
  unfold Obligations.QueueControl
  intro r ridge queue s inst key x now
  refine ⟨fun hadmits hst hretired => ?enable, fun hadmits hst => ?enableRefused, fun hadmits hst => ?resume,
    fun hadmits hst => ?resumeRefused, fun hadmits hst hfetch => ?skip, fun hadmits hst => ?skipRefused,
    fun hadmits hst => ?disable, fun hadmits hrunning hhalted => ?disableRefused, fun hold hadmits => ?hold⟩
  case enable =>
    refine effQueue_ends rfl hadmits (Chip.qEnable_of_disabled hst hretired) fun t hqueue hanswers hmem => ?_
    rw [Chip.queue_setQueue_same] at hqueue
    exact ⟨hqueue.st, hqueue.halt, hqueue.disabling, hqueue.accepted, hanswers, hmem⟩
  case enableRefused =>
    exact effQueue_ends rfl hadmits (Chip.qEnable_refused hst) fun t hqueue hanswers _ => ⟨hqueue.st, hanswers⟩
  case resume =>
    refine effQueue_ends rfl hadmits (Chip.qResume_of_halted hst) fun t hqueue hanswers hmem => ?_
    rw [Chip.queue_setQueue_same] at hqueue
    exact ⟨hqueue.st, hqueue.halt, hqueue.failing, hqueue.accepted, hanswers, hmem⟩
  case resumeRefused =>
    exact effQueue_ends rfl hadmits (Chip.qResume_refused hst) fun t hqueue hanswers _ => ⟨hqueue.st, hanswers⟩
  case skip =>
    obtain ⟨rs, ss, m, f, hskip⟩ := Chip.qSkip_of_halted hst hfetch
    refine effQueue_ends rfl hadmits hskip fun t hqueue hanswers hmem => ?_
    rw [Chip.queue_setQueue_same] at hqueue
    refine ⟨hqueue.st, hqueue.halt, fun k hk => ?_, hanswers, hmem⟩
    obtain ⟨e, he, hissued⟩ := hqueue.of_mem hk
    rw [hissued.count]
    simpa using (List.mem_filter.mp he).2
  case skipRefused =>
    exact effQueue_ends rfl hadmits (Chip.qSkip_refused hst) fun t hqueue hanswers _ => ⟨hqueue.st, hanswers⟩
  case disable =>
    refine effQueue_ends rfl hadmits (Chip.qDisable_of_live hst) fun t hqueue hanswers hmem => ?_
    rw [Chip.queue_setQueue_same] at hqueue
    exact ⟨hqueue.disabling, hqueue.st, hanswers, hmem⟩
  case disableRefused =>
    exact effQueue_ends rfl hadmits (Chip.qDisable_refused hrunning hhalted) fun t hqueue hanswers _ =>
      ⟨hqueue.disabling, hqueue.st, hanswers⟩
  case hold => exact ⟨_, rfl, queueHold_written hadmits⟩

/-! ### A descriptor that is read (R89, R93) -/

/-- A descriptor that was read halts its queue where a check fails it, and else is accepted; a command that had started before a
rewind is not checked anew. -/
theorem State.fetch_of_read {s s' : State} {n q part c : Nat} {d : List Byte} (howner : s.chip.owner n = some part)
    (hnext : (s.chip.queue n q).toFetch = some c) (hwait : (s.chip.queue n q).fetchWait = false)
    (hread : s.readVirt n part (s.chip.qctx n q)
      (s.chip.reg (qkey Obj.QRING_BASE n q) + 64 * (c % s.chip.reg (qkey Obj.QRING_ENTRIES n q))) 64 = (s', .ok d)) :
    s.fetch n q =
      if !(s.chip.queue n q).cmds.any (fun k => k.count = c && k.cfgRead) && checkDesc (s'.chip.spursActive n) d != 0 then
        s'.on (fun ch => ch.halt n q (checkDesc (s'.chip.spursActive n) d) c)
      else (s'.on (fun ch => ch.updQueue n q (fun x => x.accept c d))).kick n := by
  unfold State.fetch
  simp only [howner, hnext, hwait, hread]
  cases (s.chip.queue n q).cmds.any (fun k => k.count = c && k.cfgRead) <;> rfl

theorem Queue.accept_mem (x : Queue) (c : Nat) (d : List Byte) : ∃ k ∈ (x.accept c d).cmds, k.count = c ∧ k.desc = d := by
  unfold Queue.accept
  split
  next h =>
    obtain ⟨k, hk, hcount⟩ := List.any_eq_true.mp h
    refine ⟨_, List.mem_map_of_mem hk, ?_⟩
    rw [if_pos (of_decide_eq_true hcount)]
    dsimp only
    split
    · exact ⟨of_decide_eq_true hcount, rfl⟩
    · exact ⟨rfl, rfl⟩
  next => exact ⟨newCmd c d, List.mem_append_right _ (List.mem_singleton_self _), rfl, rfl⟩

theorem State.accepted_mem (s : State) (n q c : Nat) (d : List Byte) :
    ∃ k ∈ (((s.on (fun ch => ch.updQueue n q (fun x => x.accept c d))).kick n).chip.queue n q).cmds, k.count = c ∧ k.desc = d := by
  obtain ⟨k, hk, hcount, hdesc⟩ := Queue.accept_mem (s.chip.queue n q) c d
  have hissued := (Chip.dispatch_issuedTo (s.chip.updQueue n q (fun x => x.accept c d)) n).queue n q
  rw [Chip.queue_updQueue_same] at hissued
  obtain ⟨e, he, hke⟩ := hissued.mem hk
  exact ⟨e, by simpa using he, hke.count.trans hcount, hke.desc.trans hdesc⟩

/-! ### A record that is written (R126, R127) -/

theorem Queue.passRecord_cmds (x : Queue) (k : Nat) : (x.passRecord k).cmds = x.cmds.filter (fun c => c.count != k) := by
  unfold Queue.passRecord
  extract_lets y
  obtain ⟨_, _, _, hy⟩ := Queue.advance_shape (y.recorded.length + y.skipped.length) y
  rw [hy]

theorem Queue.passRecord_records (x : Queue) (k : Nat) : (x.passRecord k).records = x.records.filter (· != k) := by
  unfold Queue.passRecord
  extract_lets y
  obtain ⟨_, _, _, hy⟩ := Queue.advance_shape (y.recorded.length + y.skipped.length) y
  rw [hy]

@[simp] theorem Chip.numericEvent_queues (c : Chip) (n : Nat) (k : Cmd) : (c.numericEvent n k).queues = c.queues := by
  unfold Chip.numericEvent
  split
  · exact Chip.raise_queues _ _ _ _
  · rfl

/-- A halt changes a queue's state, and neither its commands nor its records. -/
theorem Chip.queue_halt (c : Chip) (n q reason count : Nat) :
    ∃ st h k r, (c.halt n q reason count).queue n q = { c.queue n q with st := st, halt := h, haltCount := k, resume := r } := by
  unfold Chip.halt
  extract_lets x say
  split
  · exact ⟨_, _, _, _, by rw [Chip.queue_of_queues (Chip.raise_queues _ _ _ _), Chip.queue_setQueue_same]⟩
  · exact ⟨_, _, _, _, by rw [Chip.queue_of_queues (Chip.raise_queues _ _ _ _), Chip.queue_setQueue_same]⟩
  · exact ⟨_, _, _, _, rfl⟩

theorem Chip.failHalt_keeps (c : Chip) (n q : Nat) :
    ((c.failHalt n q).queue n q).cmds = (c.queue n q).cmds ∧ ((c.failHalt n q).queue n q).records = (c.queue n q).records := by
  unfold Chip.failHalt
  extract_lets x
  split
  · obtain ⟨_, _, _, _, hhalt⟩ := (c.setQueue n q { x with failing := false }).queue_halt n q 0x0B x.failCount
    rw [hhalt, Chip.queue_setQueue_same]
    exact ⟨rfl, rfl⟩
  · exact ⟨rfl, rfl⟩

/-- A record that was written is passed: its command leaves the queue, its events are raised, and a queue with a failed command
may halt. -/
theorem State.writeRecord_of_written {s s' : State} {n q part count : Nat} {rest : List Nat} {k : Cmd}
    (howner : s.chip.owner n = some part) (hrecords : (s.chip.queue n q).records = count :: rest)
    (hk : (s.chip.queue n q).cmd count = some k) (hwait : (s.chip.queue n q).recordWait = false)
    (hwrite : s.writeVirt n part (s.chip.qctx n q)
      (s.chip.reg (qkey Obj.CRING_BASE n q) + 16 * (count % s.chip.reg (qkey Obj.QRING_ENTRIES n q))) k.record = (s', none)) :
    ∃ c : Chip, c.queues = (s'.chip.updQueue n q (fun x => x.passRecord count)).queues ∧
      s.writeRecord n q = ({ s' with chip := c.failHalt n q } : State).kick n := by
  unfold State.writeRecord
  simp only [howner, hrecords, hk, hwait, hwrite]
  have hsaid := (s'.chip.updQueue n q (fun x => x.passRecord count)).numericEvent_queues n k
  cases hnotify : k.notify with
  | false => exact ⟨_, hsaid, rfl⟩
  | true => exact ⟨_, (Chip.raise_queues _ _ _ _).trans hsaid, rfl⟩

theorem completionRecordWrite_passes {ridge : Fin 16} {queue : Fin 8} {s s' : State} {part count : Nat} {rest : List Nat} {k : Cmd}
    (howner : s.chip.owner ridge.val = some part) (hrecords : (s.chip.queue ridge.val queue.val).records = count :: rest)
    (hk : (s.chip.queue ridge.val queue.val).cmd count = some k) (hwait : (s.chip.queue ridge.val queue.val).recordWait = false)
    (hwrite : s.writeVirt ridge.val part (s.chip.qctx ridge.val queue.val)
      (s.chip.reg (qkey Obj.CRING_BASE ridge.val queue.val) + 16 * (count % s.chip.reg (qkey Obj.QRING_ENTRIES ridge.val queue.val)))
      k.record = (s', none)) :
    Ends (.completionRecordWrite ridge queue) s (fun t => (∀ e ∈ (t.chip.queue ridge.val queue.val).cmds, e.count ≠ count) ∧
      count ∉ (t.chip.queue ridge.val queue.val).records ∧ t.mem = s'.mem) := by
  obtain ⟨c, hqueues, hexec⟩ := State.writeRecord_of_written howner hrecords hk hwait hwrite
  have hqueue : c.queue ridge.val queue.val = (s'.chip.queue ridge.val queue.val).passRecord count := by
    rw [Chip.queue_of_queues hqueues, Chip.queue_updQueue_same]
  obtain ⟨hcmds, hrecs⟩ := c.failHalt_keeps ridge.val queue.val
  have hissued := ((c.failHalt ridge.val queue.val).dispatch_issuedTo ridge.val).queue ridge.val queue.val
  refine ⟨_, congrArg Host.Outcome.next hexec, ?_⟩
  simp only [State.kick_chip, State.kick_mem]
  refine ⟨fun e he => ?_, ?_, trivial⟩
  · obtain ⟨k', hk', hissuedCmd⟩ := hissued.of_mem he
    rw [hcmds, hqueue, Queue.passRecord_cmds] at hk'
    rw [hissuedCmd.count]
    simpa using (List.mem_filter.mp hk').2
  · rw [hissued.records, hrecs, hqueue, Queue.passRecord_records]
    simp

/-- Settles O3: a descriptor that passes or fails its checks, and a record that is passed. -/
theorem fetchAndRecord : Obligations.FetchAndRecord := by
  unfold Obligations.FetchAndRecord
  refine ⟨?fetch, fun ridge queue s s' part count rest k howner hrecords hk hwait hwrite =>
    completionRecordWrite_passes howner hrecords hk hwait hwrite⟩
  case fetch =>
    intro ridge queue s s' part c d n q x ran howner hnext hwait hread
    have hexec := State.fetch_of_read howner hnext hwait hread
    refine ⟨fun hpass => ?accepted, fun hran hfail hst => ?refused⟩
    case accepted =>
      rw [if_neg (by rcases hpass with hran | hok <;> simp_all [ran, x])] at hexec
      refine ⟨_, congrArg Host.Outcome.next hexec, s'.accepted_mem n q c d, ?_⟩
      rw [State.kick_mem, State.on_mem]
    case refused =>
      rw [if_pos (by simp_all [ran, x])] at hexec
      refine ⟨_, congrArg Host.Outcome.next hexec, ?_⟩
      simp only [State.on_chip, Chip.queue_halt_of_running _ _ hst]
      exact ⟨trivial, trivial, trivial, rfl⟩

end Sys2Proof.Machine
end

section
/-! PROOF. How a unit of a command and a command end (R10, R98, R127, R201): the command is found again with what it has done, and
Ridges, links, partitions and most counters are as they were. -/
namespace Sys2Proof.Machine

/-! ### Objects and owners of chips with the same objects -/

theorem Chip.reg_of_same_regs {c d : Chip} (h : d.regs = c.regs) (key : Nat) : d.reg key = c.reg key := Chip.get_of_regs h modInst key

theorem Chip.owner_of_regs {c d : Chip} (h : d.regs = c.regs) (n : Nat) : d.owner n = c.owner n := by
  simp only [Chip.owner, Chip.ridgesOf, Chip.reg_of_same_regs h]

theorem Chip.ownerN_of_regs {c d : Chip} (h : d.regs = c.regs) (n : Nat) : d.ownerN n = c.ownerN n := by
  rw [Chip.ownerN, Chip.owner_of_regs h, Chip.ownerN]

theorem Chip.qctx_of_regs {c d : Chip} (h : d.regs = c.regs) (n q : Nat) : d.qctx n q = c.qctx n q := Chip.reg_of_same_regs h _

theorem Chip.ownerN_of_owner {c : Chip} {n part : Nat} (h : c.owner n = some part) : c.ownerN n = part := by
  rw [Chip.ownerN, h, Option.getD_some]

theorem Chip.owner_lt {c : Chip} {n part : Nat} (h : c.owner n = some part) : part < 8 :=
  List.mem_range.mp (List.mem_of_find?_eq_some h)

/-! ### Commands changed in place -/

/-- Where a command is found after the commands of one count were changed in one queue. -/
theorem Chip.cmd_updCmd (c : Chip) {n q count : Nat} {f : Cmd → Cmd} (hf : ∀ k, k.count = count → (f k).count = count) (m r j : Nat) :
    (c.updCmd n q count f).cmd m r j =
      (c.cmd m r j).map (fun k => if 8 * m + r = 8 * n + q ∧ k.count = count then f k else k) := by
  rw [Chip.cmd, Chip.updCmd, Chip.queue_updQueue]
  by_cases hq : 8 * m + r = 8 * n + q
  · rw [if_pos hq, Queue.cmd_updCmd hf]
    simp only [hq, true_and, Chip.cmd]
  · simp [hq, Chip.cmd]

theorem Chip.cmd_settle (c : Chip) (n q m r j : Nat) : (c.updQueue n q Queue.settle).cmd m r j = c.cmd m r j := by
  rw [Chip.cmd, Chip.queue_updQueue]
  split
  · rw [Queue.cmd, Queue.settle_cmds]; rfl
  · rfl

/-! ### A unit is done (R98, R143) -/

/-- What a command is once `unit` of it is done. -/
structure Cmd.DoneTo (unit : Nat) (k e : Cmd) : Prop where
  count : e.count = k.count
  done : e.done = if k.done.contains unit then k.done else k.done ++ [unit]
  finished : e.finished = (k.finished || decide (e.done.length = k.units))

theorem Cmd.DoneTo.mem {unit : Nat} {k e : Cmd} (h : Cmd.DoneTo unit k e) : unit ∈ e.done := by
  rw [h.done]
  split
  next hin => simpa using hin
  next => exact List.mem_append_right _ (List.mem_singleton_self _)

/-- The command is replaced by the one with its unit done, its queue settles, and a slice that ran again may be counted. -/
theorem Chip.unitDone_eq {c : Chip} {n q count unit : Nat} {k : Cmd} (hk : c.cmd n q count = some k) :
    ∃ (e : Cmd) (again : Bool), Cmd.DoneTo unit k e ∧ c.unitDone n q count unit =
      let d := (c.updCmd n q count (fun _ => e)).updQueue n q Queue.settle
      if again then d.countPart (c.ownerN n) Obj.CNT_REPLAYED_SLICES 1 else d := by
  unfold Chip.unitDone
  extract_lets own
  split
  next hnone => simp [hk] at hnone
  next k0 hk0 =>
  obtain rfl : k = k0 := Option.some.inj (hk.symm.trans hk0)
  extract_lets k1 sl full again k2 fin k3 c1
  refine ⟨k3, again, ?_, rfl⟩
  by_cases hfull : full = true <;> constructor <;> simp [k3, fin, k2, k1, hfull]

theorem Chip.unitDone_of_none {c : Chip} {n q count : Nat} (unit : Nat) (h : c.cmd n q count = none) : c.unitDone n q count unit = c := by
  unfold Chip.unitDone
  rw [h]

section
variable (c : Chip) (n q count unit : Nat)

@[simp] theorem Chip.unitDone_ridges : (c.unitDone n q count unit).ridges = c.ridges := by
  cases hk : c.cmd n q count with
  | none => rw [Chip.unitDone_of_none unit hk]
  | some k =>
    obtain ⟨e, again, -, heq⟩ := Chip.unitDone_eq (unit := unit) hk
    rw [heq]
    cases again
    · rfl
    · exact Chip.countPart_ridges _ _ _ _

theorem Chip.unitDone_issued : c.Issued (c.unitDone n q count unit) := by
  cases hk : c.cmd n q count with
  | none => rw [Chip.unitDone_of_none unit hk]; exact .refl c
  | some k =>
    obtain ⟨e, again, -, heq⟩ := Chip.unitDone_eq (unit := unit) hk
    have hdone := (((Issued.refl c).updCmd (n := n) (q := q) (count := count) (f := fun _ => e)).updQueue (n := n) (q := q) (f := Queue.settle))
    rw [heq]
    exact .ite hdone.countPart hdone

@[simp] theorem Chip.unitDone_links : (c.unitDone n q count unit).links = c.links := by
  obtain ⟨_, _, _, h⟩ := (c.unitDone_issued n q count unit).shape
  rw [h]

@[simp] theorem Chip.unitDone_parts : (c.unitDone n q count unit).parts = c.parts := by
  obtain ⟨_, _, _, h⟩ := (c.unitDone_issued n q count unit).shape
  rw [h]

theorem Chip.get_unitDone (i : Nat) {key : Nat} (hkey : key < 2 ^ 24) (hne : key ≠ Obj.CNT_REPLAYED_SLICES) :
    (c.unitDone n q count unit).get i key = c.get i key := by
  cases hk : c.cmd n q count with
  | none => rw [Chip.unitDone_of_none unit hk]
  | some k =>
    obtain ⟨e, again, -, heq⟩ := Chip.unitDone_eq (unit := unit) hk
    rw [heq]
    cases again
    · rfl
    · exact Chip.get_countPart_other _ _ 1 (by decide) hkey hne

end

/-- Where a command is found after a unit of one command is done. -/
theorem Chip.cmd_unitDone {c : Chip} {n q count unit : Nat} {k : Cmd} (hk : c.cmd n q count = some k) :
    ∃ e, Cmd.DoneTo unit k e ∧ ∀ m r j, (c.unitDone n q count unit).cmd m r j =
      if 8 * m + r = 8 * n + q ∧ j = count then some e else c.cmd m r j := by
  obtain ⟨e, again, hdone, heq⟩ := Chip.unitDone_eq (unit := unit) hk
  refine ⟨e, hdone, fun m r j => ?_⟩
  have hcount : e.count = count := hdone.count.trans (Queue.count_of_cmd hk)
  have hcmd : (c.unitDone n q count unit).cmd m r j = (c.updCmd n q count (fun _ => e)).cmd m r j := by
    rw [heq]
    cases again
    · exact Chip.cmd_settle _ _ _ _ _ _
    · exact (Chip.cmd_countPart _ _ _ _ _ _ _).trans (Chip.cmd_settle _ _ _ _ _ _)
  rw [hcmd, Chip.cmd_updCmd c fun _ _ => hcount]
  by_cases hq : 8 * m + r = 8 * n + q
  · have hsame : c.cmd m r j = c.cmd n q j := by rw [Chip.cmd, Chip.queue_congr c hq, Chip.cmd]
    by_cases hj : j = count
    · subst hj
      simp [hsame, hk, hq, Queue.count_of_cmd hk]
    · cases hfound : c.cmd m r j with
      | none => simp [hj]
      | some k' => simp [hj, Queue.count_of_cmd hfound]
  · simp [hq]

theorem Chip.cmd_unitDone_same {c : Chip} {n q count unit : Nat} {k : Cmd} (hk : c.cmd n q count = some k) :
    ∃ e, (c.unitDone n q count unit).cmd n q count = some e ∧ Cmd.DoneTo unit k e := by
  obtain ⟨e, hdone, hcmd⟩ := Chip.cmd_unitDone (unit := unit) hk
  exact ⟨e, by rw [hcmd, if_pos ⟨rfl, rfl⟩], hdone⟩

/-! ### A command ends with a status (R10, R201) -/

/-- What a command is once it has ended with a status. -/
structure Cmd.EndedTo (st : Nat) (k e : Cmd) : Prop where
  count : e.count = k.count
  finished : e.finished = true
  status : e.status = if st = stOK then k.status else k.status ++ [st]

/-- A command that ends with a status after so many cycles of its Ridge. -/
def Cmd.endWith (st cycles : Nat) (k : Cmd) : Cmd :=
  { k with
    status := if st = stOK then k.status else k.status ++ [st], finished := true, started := true, again := [],
    slices := min 65535 (k.slices + k.openSlices.length), nextUnit := k.units,
    cycles := if k.begun then cycles - k.startCycle else k.cycles }

theorem Cmd.endedTo_endWith (st cycles : Nat) (k : Cmd) : Cmd.EndedTo st k (k.endWith st cycles) := ⟨rfl, rfl, rfl⟩

theorem Chip.cmds_endCmd (c : Chip) (n q count st : Nat) :
    ∃ cycles, ((c.endCmd n q count st).queue n q).cmds = ((c.queue n q).updCmd count (Cmd.endWith st cycles)).cmds := by
  unfold Chip.endCmd
  extract_lets slots c1 c2 c3
  refine ⟨(c2.ridge n).cycles, ?_⟩
  rw [Chip.queue_updQueue_same, Queue.settle_cmds]
  unfold c3 Chip.updCmd
  rw [Chip.queue_updQueue_same]
  rfl

theorem Chip.cmd_endCmd {c : Chip} {n q count : Nat} {k : Cmd} (st : Nat) (hk : c.cmd n q count = some k) :
    ∃ e, (c.endCmd n q count st).cmd n q count = some e ∧ Cmd.EndedTo st k e := by
  obtain ⟨cycles, hcmds⟩ := c.cmds_endCmd n q count st
  refine ⟨k.endWith st cycles, ?_, k.endedTo_endWith st cycles⟩
  have hfound := Queue.cmd_updCmd (count := count) (f := Cmd.endWith st cycles) (fun _ h => h) (c.queue n q) count
  rw [show (c.queue n q).cmd count = some k from hk, Option.map_some, if_pos (Queue.count_of_cmd hk)] at hfound
  rwa [Queue.cmd, ← hcmds] at hfound

theorem Chip.mem_endCmd {c : Chip} {n q : Nat} {k : Cmd} (st : Nat) (hk : k ∈ (c.queue n q).cmds) :
    ∃ e ∈ ((c.endCmd n q k.count st).queue n q).cmds, Cmd.EndedTo st k e := by
  obtain ⟨cycles, hcmds⟩ := c.cmds_endCmd n q k.count st
  refine ⟨k.endWith st cycles, ?_, k.endedTo_endWith st cycles⟩
  rw [hcmds]
  exact List.mem_map.mpr ⟨k, hk, if_pos rfl⟩

theorem Cmd.EndedTo.mem {st : Nat} {k e : Cmd} (h : Cmd.EndedTo st k e) (hst : st ≠ stOK) : st ∈ e.status := by
  rw [h.status, if_neg hst]
  exact List.mem_append_right _ (List.mem_singleton_self _)

end Sys2Proof.Machine
end

section
/-! PROOF. The ordering commands (R119–R123, R154): a command that begins, the signal slots and the WAITs they reach, and the step
number that a STEP_MARK leaves. -/
namespace Sys2Proof.Machine

/-! ### Numbers of bytes -/

theorem leNat_lt (bs : List Byte) : leNat bs < 256 ^ bs.length := by
  induction bs with
  | nil => simp [leNat]
  | cons b bs ih =>
    have hb := b.isLt
    rw [leNat, List.length_cons, Nat.pow_succ]
    omega

theorem leNat_leBytes (n v : Nat) : leNat (leBytes n v) = v % 256 ^ n := by
  induction n generalizing v with
  | zero => simp [leBytes, leNat, Nat.mod_one]
  | succ n ih => rw [leBytes, leNat, ih, BitVec.toNat_ofNat, show 256 ^ (n + 1) = 256 * 256 ^ n from Nat.pow_succ', Nat.mod_mul]

theorem Cmd.field_lt (k : Cmd) (o n : Nat) : k.field o n < 256 ^ n :=
  (leNat_lt _).trans_le (Nat.pow_le_pow_right (by decide) (by simp))

theorem objDefault_lt (key : Nat) : objDefault key < 2 ^ 64 := by
  have hrows : ∀ r ∈ objTable, r.dflt < 2 ^ 64 := by decide +kernel
  unfold objDefault
  split
  next r hr => exact hrows r (List.mem_of_find?_eq_some hr)
  next => decide

theorem Chip.get_lt (c : Chip) (i key : Nat) : c.get i key < 2 ^ 64 := by
  unfold Chip.get
  split
  next v _ => exact v.isLt
  next => exact objDefault_lt key

/-! ### A command begins (R99) -/

theorem Chip.begin_regs (c : Chip) (n q : Nat) (k : Cmd) : (c.begin n q k).regs = c.regs := by
  unfold Chip.begin Chip.giveUnit
  split
  · rfl
  · dsimp only
    split <;> split <;> rfl

theorem Chip.begin_ridges (c : Chip) (n q : Nat) (k : Cmd) : (c.begin n q k).ridges = c.ridges := by
  unfold Chip.begin
  split
  · rfl
  · exact Chip.giveUnit_ridges _ _ _ _ _

theorem Chip.begin_issuedTo (c : Chip) (n q : Nat) (k : Cmd) : c.IssuedTo (c.begin n q k) :=
  .ite (.refl c) (((IssuedTo.refl c).startCmd q k).giveUnit q k.count 0)

/-! ### A command of one unit that finishes (R121–R123) -/

/-- A command that has finished, or finishes with its one unit. -/
def Cmd.Last (k : Cmd) : Prop := k.finished = true ∨ k.units = 1 ∧ k.done = []

theorem Cmd.Last.of_issuedTo {k e : Cmd} (h : k.Last) (hissued : Cmd.IssuedTo k e) : e.Last := by
  unfold Cmd.Last
  rwa [hissued.finished, hissued.units, hissued.done]

/-- Unit 0 finishes it. -/
theorem Cmd.Last.finished_of_doneTo {k e : Cmd} (h : k.Last) (hdone : Cmd.DoneTo 0 k e) : e.finished = true := by
  rw [hdone.finished]
  rcases h with hfin | ⟨hunits, hnone⟩
  · rw [hfin, Bool.true_or]
  · simp [hdone.done, hnone, hunits]

/-- The command of a count in one queue is found, and has finished or finishes with its one unit. -/
def Chip.LastAt (c : Chip) (n q count : Nat) : Prop := ∃ e, c.cmd n q count = some e ∧ e.Last

theorem Chip.LastAt.of_issuedTo {c d : Chip} {n q count : Nat} (h : c.LastAt n q count) (hissued : c.IssuedTo d) : d.LastAt n q count := by
  obtain ⟨k, hk, hlast⟩ := h
  obtain ⟨e, he, hke⟩ := hissued.cmd hk
  exact ⟨e, he, hlast.of_issuedTo hke⟩

theorem Chip.LastAt.of_queues {c d : Chip} {n q count : Nat} (h : c.LastAt n q count) (hqueues : d.queues = c.queues) :
    d.LastAt n q count := by
  obtain ⟨k, hk, hlast⟩ := h
  exact ⟨k, (Chip.cmd_of_queues hqueues n q count).trans hk, hlast⟩

/-- Whichever command has its unit 0 done. -/
theorem Chip.LastAt.unitDone {c : Chip} {n q count : Nat} (h : c.LastAt n q count) (m r j : Nat) : (c.unitDone m r j 0).LastAt n q count := by
  cases hother : c.cmd m r j with
  | none => rwa [Chip.unitDone_of_none 0 hother]
  | some k' =>
    obtain ⟨k, hk, hlast⟩ := h
    obtain ⟨e, hdone, hcmd⟩ := Chip.cmd_unitDone (unit := 0) hother
    by_cases hsame : 8 * n + q = 8 * m + r ∧ count = j
    · obtain ⟨hq, rfl⟩ := hsame
      obtain rfl : k' = k := by
        have hqueue : c.cmd m r count = c.cmd n q count := by rw [Chip.cmd, ← Chip.queue_congr c hq, Chip.cmd]
        exact Option.some.inj (hother.symm.trans (hqueue.trans hk))
      exact ⟨e, by rw [hcmd, if_pos ⟨hq, rfl⟩], .inl (hlast.finished_of_doneTo hdone)⟩
    · exact ⟨k, by rw [hcmd, if_neg hsame, hk], hlast⟩

/-- A command whose one unit is done, and which its Ridge's issue then finds. -/
theorem Chip.LastAt.finished {c d : Chip} {n q count : Nat} (h : c.LastAt n q count) (hissued : (c.unitDone n q count 0).IssuedTo d) :
    (d.cmd n q count).map (·.finished) = some true := by
  obtain ⟨k, hk, hlast⟩ := h
  obtain ⟨e, he, hdone⟩ := Chip.cmd_unitDone_same (unit := 0) hk
  obtain ⟨e', he', hissuedCmd⟩ := hissued.cmd he
  rw [he', Option.map_some, hissuedCmd.finished, hlast.finished_of_doneTo hdone]

/-! ### WAIT and FENCE (R121, R122) -/

section
variable {c : Chip} {n q : Nat} {k : Cmd}

theorem Chip.doWait_of_reached (h : c.current n q opWait = some k)
    (hvalue : k.field 0x10 8 ≤ c.get (c.ownerN n) (Obj.SIGNAL_VALUE + k.field 0x18 2)) :
    c.doWait n q = (c.begin n q k).unitDone n q k.count 0 := by
  have hregs := c.begin_regs n q k
  unfold Chip.doWait
  simp only [h]
  rw [Chip.ownerN_of_regs hregs, Chip.get_of_regs hregs, if_pos hvalue]

theorem Chip.doFence_of_scope (h : c.current n q opFence = some k) (hscope : byteAt k.desc 0x10 ≠ 2) :
    c.doFence n q = (c.begin n q k).unitDone n q k.count 0 := by
  unfold Chip.doFence
  simp [h, hscope]

end

/-! ### Signal slots (R119, R154) -/

theorem signalValue_lt {slot : Nat} (h : slot < 256) : Obj.SIGNAL_VALUE + slot < 2 ^ 24 := by unfold Obj.SIGNAL_VALUE; omega

/-- What the writing of a signal slot keeps: commands about to finish, and each partition's slots once the slot is written. -/
structure Chip.SignalKeeps (c d : Chip) : Prop where
  last : ∀ n q count, c.LastAt n q count → d.LastAt n q count
  slot : ∀ part s, part < 8 → s < 256 → d.get part (Obj.SIGNAL_VALUE + s) = c.get part (Obj.SIGNAL_VALUE + s)

namespace Chip.SignalKeeps

variable {b c d : Chip}

theorem refl (c : Chip) : SignalKeeps c c := ⟨fun _ _ _ h => h, fun _ _ _ _ => rfl⟩

theorem trans (h : SignalKeeps b c) (h' : SignalKeeps c d) : SignalKeeps b d :=
  ⟨fun n q count hlast => h'.last n q count (h.last n q count hlast),
    fun part s hpart hs => (h'.slot part s hpart hs).trans (h.slot part s hpart hs)⟩

theorem of_issuedTo (h : c.IssuedTo d) : SignalKeeps c d where
  last _ _ _ hlast := hlast.of_issuedTo h
  slot _ s _ hs := h.get _ _ (signalValue_lt hs) (by unfold Obj.SIGNAL_VALUE Obj.CNT_TRACE_DROPPED; omega)

theorem bump {key : Nat} (hkey : key < 2 ^ 24) (c : Chip) : SignalKeeps c (c.bump key) where
  last _ _ _ hlast := hlast.of_queues rfl
  slot _ s hpart hs := Chip.get_setReg_part c _ (by unfold modInst; omega) hkey (signalValue_lt hs)

theorem unitDone (c : Chip) (n q count : Nat) : SignalKeeps c (c.unitDone n q count 0) where
  last _ _ _ hlast := hlast.unitDone n q count
  slot part s _ hs := c.get_unitDone n q count 0 part (signalValue_lt hs) (by unfold Obj.SIGNAL_VALUE Obj.CNT_REPLAYED_SLICES; omega)

theorem foldl {α : Type} {f : Chip → α → Chip} (hf : ∀ d a, SignalKeeps d (f d a)) (l : List α) (c : Chip) : SignalKeeps c (l.foldl f c) :=
  List.foldlRecOn l f (.refl c) (fun _ hd a _ => hd.trans (hf _ a))

theorem satisfy (slot new : Nat) (atLimit : Bool) (n : Nat) (c : Chip) (q : Nat) : SignalKeeps c (c.satisfy slot new atLimit n q) := by
  unfold Chip.satisfy
  refine foldl (fun d k => ?_) _ c
  have hmiss : SignalKeeps d (d.nearMiss waitSignal atLimit) := by
    unfold Chip.nearMiss
    split
    · exact bump (by decide) d
    · exact .refl d
  split
  · exact .refl d
  split
  · exact hmiss.trans (unitDone _ _ _ _)
  · exact .refl d

theorem lateSignals (c : Chip) (part slot new : Nat) : SignalKeeps c (c.lateSignals part slot new) := by
  unfold Chip.lateSignals
  extract_lets due m
  have hpart : ∀ f, SignalKeeps c (c.updPart part f) := fun f => ⟨fun _ _ _ hlast => hlast.of_queues rfl, fun _ _ _ _ => rfl⟩
  exact (hpart _).trans (foldl (fun d _ => bump (by decide) d) _ _)

theorem dispatchAll (c : Chip) (part : Nat) : SignalKeeps c (c.dispatchAll part) :=
  foldl (fun d n => of_issuedTo (d.dispatch_issuedTo n)) _ c

end Chip.SignalKeeps

theorem Chip.dispatchAll_issuedTo (c : Chip) (part : Nat) : c.IssuedTo (c.dispatchAll part) :=
  List.foldlRecOn _ _ (.refl c) (fun _ hd n _ => hd.dispatch n)

theorem Chip.signal_keeps (c : Chip) (part slot v : Nat) (atLimit : Bool) :
    (c.set part (Obj.SIGNAL_VALUE + slot) (max (c.get part (Obj.SIGNAL_VALUE + slot)) v)).SignalKeeps (c.signal part slot v atLimit) := by
  unfold Chip.signal
  extract_lets old new c1
  exact (Chip.SignalKeeps.lateSignals _ part slot new).trans
    (.foldl (fun d n => .foldl (fun d q => .satisfy slot new atLimit n d q) _ d) _ _)

theorem Chip.LastAt.signal {c : Chip} {n q count : Nat} (h : c.LastAt n q count) (part slot v : Nat) (atLimit : Bool) :
    (c.signal part slot v atLimit).LastAt n q count :=
  (c.signal_keeps part slot v atLimit).last n q count (h.of_queues rfl)

/-- A slot that is written holds the greater of its value and the written one. -/
theorem Chip.get_signal (c : Chip) {part slot v : Nat} (hpart : part < 8) (hslot : slot < 256) (hv : v < 2 ^ 64) (atLimit : Bool) :
    (c.signal part slot v atLimit).get part (Obj.SIGNAL_VALUE + slot) = max (c.get part (Obj.SIGNAL_VALUE + slot)) v := by
  rw [(c.signal_keeps part slot v atLimit).slot part slot hpart hslot, Chip.get_set_same]
  exact Nat.mod_eq_of_lt (max_lt (c.get_lt _ _) hv)

/-! ### SIGNAL (R120) -/

theorem Queue.IssuedTo.before_finished {x y : Queue} (h : x.IssuedTo y) (count : Nat) :
    y.before count (·.finished) = x.before count (·.finished) := by
  obtain ⟨g, _, _, hg, rfl⟩ := h
  have hcount : ∀ k, (g k).count = k.count := fun k => (hg k).count
  have hfinished : ∀ k, (g k).finished = k.finished := fun k => (hg k).finished
  simp [Queue.before, List.takeWhile_map, Function.comp_def, hcount, hfinished]

theorem Chip.doSignal_early {c : Chip} {n q : Nat} {k : Cmd} (atLimit : Bool) (h : c.current n q opSignal = some k)
    (hbefore : (c.queue n q).before k.count (·.finished) = true) (hearly : byteAt k.desc 0x1A = 1) :
    c.doSignal n q atLimit =
      (((c.begin n q k).signal (c.ownerN n) (k.field 0x18 2) (k.field 0x10 8) atLimit).unitDone n q k.count 0).dispatchAll
        (c.ownerN n) := by
  have hbegun : ((c.begin n q k).queue n q).before k.count (·.finished) = true := by
    rw [((c.begin_issuedTo n q k).queue n q).before_finished, hbefore]
  unfold Chip.doSignal
  simp [h, hbegun, hearly, Chip.ownerN_of_regs (c.begin_regs n q k)]

/-! ### STEP_MARK (R123) -/

/-- A greater STEP becomes the step number of the context. -/
theorem Chip.stepMark_steps {c : Chip} {n q : Nat} {k : Cmd}
    (h : Tbl.get (c.ridge n).steps 0 (c.qctx n q) < k.field 0x10 8) :
    Tbl.get ((c.stepMark n q k).ridge n).steps 0 (c.qctx n q) = k.field 0x10 8 := by
  unfold Chip.stepMark
  extract_lets part ctx r step cur c1
  have hmarked : Tbl.get (c1.ridge n).steps 0 ctx = step := by
    unfold c1
    rw [Chip.ridge_updRidge_same, Tbl.get_put_same]
  rw [if_neg (Nat.ne_of_gt h), if_neg (Nat.not_lt.mpr h.le)]
  split
  · exact hmarked
  · exact hmarked

/-- Commands changed one by one, each keeping its count and what makes it finish. -/
theorem Chip.LastAt.mapCmds {c : Chip} {n q count : Nat} (h : c.LastAt n q count) {f : Queue → Queue} {g : Cmd → Cmd}
    (hf : ∀ x, (f x).cmds = x.cmds.map g) (hg : ∀ e, (g e).count = e.count ∧ (e.Last → (g e).Last)) :
    (c.updQueue n q f).LastAt n q count := by
  obtain ⟨e, he, hlast⟩ := h
  have hcount : ((fun e : Cmd => decide (e.count = count)) ∘ g) = fun e => decide (e.count = count) := by
    funext e
    simp [(hg e).1]
  refine ⟨g e, ?_, (hg e).2 hlast⟩
  rw [Chip.cmd_updQueue_same, Queue.cmd, hf, List.find?_map, hcount]
  exact congrArg (Option.map g) he

theorem Chip.LastAt.stepMark {c : Chip} {n q count : Nat} (h : c.LastAt n q count) (k : Cmd) : (c.stepMark n q k).LastAt n q count := by
  unfold Chip.stepMark
  extract_lets part ctx r step cur c1
  split
  · exact h
  split
  · exact h.of_queues (Chip.countPart_queues _ _ _ _)
  have hmarked : c1.LastAt n q count := h.of_queues rfl
  split
  · refine hmarked.mapCmds (fun _ => rfl) fun e => ?_
    split
    · exact ⟨rfl, id⟩
    split
    · exact ⟨rfl, id⟩
    · exact ⟨rfl, id⟩
  · exact hmarked

theorem Chip.doStep_of_issued {c : Chip} {n q : Nat} {k : Cmd} (h : c.current n q opStep = some k)
    (hbefore : (c.queue n q).before k.count Cmd.allIssued = true) :
    c.doStep n q = ((c.begin n q k).stepMark n q k).unitDone n q k.count 0 := by
  unfold Chip.doStep
  simp [h, hbefore]

/-! ### A WAIT that times out (R121) -/

theorem waitTimeout_ends {ridge : Fin 16} {queue : Fin 8} {s : State} {k : Cmd}
    (hfind : (s.chip.queue ridge.val queue.val).cmds.find? (fun k => k.op = opWait && k.started && !k.finished) = some k) :
    Ends (.waitTimeout ridge queue) s (fun t =>
      (∃ e ∈ (t.chip.queue ridge.val queue.val).cmds, e.count = k.count ∧ e.finished = true ∧ stPeer ∈ e.status) ∧
      (k.field 0x18 2, k.field 0x10 8) ∈ (t.chip.part (s.chip.ownerN ridge.val)).lateWaits ∧ t.mem = s.mem) := by
  refine ⟨_, rfl, ?_⟩
  simp only [State.kick_chip, State.kick_mem, State.on_chip, State.on_mem, hfind]
  obtain ⟨e, he, hended⟩ := Chip.mem_endCmd stPeer (List.mem_of_find?_eq_some hfind)
  have hissued := (Chip.dispatch_issuedTo ((s.chip.endCmd ridge.val queue.val k.count stPeer).updPart (s.chip.ownerN ridge.val)
    (fun p => { p with lateWaits := p.lateWaits ++ [(k.field 0x18 2, k.field 0x10 8)] })) ridge.val).queue ridge.val queue.val
  obtain ⟨e', he', hcmd⟩ := hissued.mem he
  refine ⟨⟨e', he', hcmd.count.trans hended.count, hcmd.finished.trans hended.finished, ?_⟩, ?_, trivial⟩
  · rw [hcmd.status]
    exact hended.mem (by decide)
  · rw [Chip.part, Chip.dispatch_parts, ← Chip.part, Chip.part_updPart_same]
    exact List.mem_append_right _ (List.mem_singleton_self _)

/-! ### A slot that is written (R119) -/

theorem signalValueWrite_ends {r : Req} {slot : Fin 256} {value : W64} (atLimit : Bool) {s : State} {inst : Nat} (hinst : inst < 8)
    (hadmits : s.admits r (Obj.SIGNAL_VALUE + slot.val) (wr 8 value.toNat) inst = true) :
    Ends (.signalValueWrite r slot value atLimit) s (fun t =>
      t.chip.get inst (Obj.SIGNAL_VALUE + slot.val) = max (s.chip.get inst (Obj.SIGNAL_VALUE + slot.val)) value.toNat ∧
      t.answers r (Obj.SIGNAL_VALUE + slot.val) rcOK ∧ t.mem = s.mem) := by
  have hvalue : leNat (wr 8 value.toNat) = value.toNat := by
    rw [wr, leNat_leBytes]
    exact Nat.mod_eq_of_lt value.isLt
  refine ⟨_, rfl, ?_⟩
  rw [State.rowWrite_admits hadmits]
  refine ⟨?_, Chip.result_last _ _ _ _ _ _, rfl⟩
  have hslot : ((s.chip.signal inst slot.val (leNat (wr 8 value.toNat)) atLimit).dispatchAll inst).get inst (Obj.SIGNAL_VALUE + slot.val) =
      max (s.chip.get inst (Obj.SIGNAL_VALUE + slot.val)) value.toNat := by
    rw [(Chip.SignalKeeps.dispatchAll _ inst).slot inst slot.val hinst slot.isLt, hvalue,
      Chip.get_signal _ hinst slot.isLt value.isLt]
  exact hslot

theorem signal_ends {ridge : Fin 16} {queue : Fin 8} (atLimit : Bool) {s : State} {k : Cmd}
    (hlast : s.chip.LastAt ridge.val queue.val k.count) (hcurrent : s.chip.current ridge.val queue.val opSignal = some k)
    (hbefore : (s.chip.queue ridge.val queue.val).before k.count (·.finished) = true) (hearly : byteAt k.desc 0x1A = 1)
    (hslot : k.field 0x18 2 < 256) (hown : s.chip.ownerN ridge.val < 8) :
    Ends (.signal ridge queue atLimit) s (fun t =>
      ((t.chip.cmd ridge.val queue.val k.count).map (·.finished) = some true ∧ t.mem = s.mem) ∧
      t.chip.get (s.chip.ownerN ridge.val) (Obj.SIGNAL_VALUE + k.field 0x18 2) =
        max (s.chip.get (s.chip.ownerN ridge.val) (Obj.SIGNAL_VALUE + k.field 0x18 2)) (k.field 0x10 8)) := by
  refine ⟨_, rfl, ?_⟩
  simp only [State.kick_chip, State.kick_mem, State.on_chip, State.on_mem, Chip.doSignal_early atLimit hcurrent hbefore hearly]
  set part := s.chip.ownerN ridge.val
  set c := (s.chip.begin ridge.val queue.val k).signal part (k.field 0x18 2) (k.field 0x10 8) atLimit
  have hissued := ((c.unitDone ridge.val queue.val k.count 0).dispatchAll_issuedTo part).dispatch ridge.val
  have hsignalled : c.LastAt ridge.val queue.val k.count := (hlast.of_issuedTo (s.chip.begin_issuedTo _ _ k)).signal _ _ _ _
  have hkeeps := (Chip.SignalKeeps.unitDone c ridge.val queue.val k.count).trans (.of_issuedTo hissued)
  refine ⟨⟨hsignalled.finished hissued, trivial⟩, ?_⟩
  rw [hkeeps.slot part _ hown hslot, Chip.get_signal _ hown hslot (k.field_lt 0x10 8), Chip.get_of_regs (s.chip.begin_regs _ _ k)]

theorem stepMark_ends {ridge : Fin 16} {queue : Fin 8} {s : State} {k : Cmd}
    (hlast : s.chip.LastAt ridge.val queue.val k.count) (hcurrent : s.chip.current ridge.val queue.val opStep = some k)
    (hbefore : (s.chip.queue ridge.val queue.val).before k.count Cmd.allIssued = true)
    (hstep : Tbl.get (s.chip.ridge ridge.val).steps 0 (s.chip.qctx ridge.val queue.val) < k.field 0x10 8) :
    Ends (.stepMark ridge queue) s (fun t =>
      ((t.chip.cmd ridge.val queue.val k.count).map (·.finished) = some true ∧ t.mem = s.mem) ∧
      Tbl.get (t.chip.ridge ridge.val).steps 0 (s.chip.qctx ridge.val queue.val) = k.field 0x10 8) := by
  refine ⟨_, rfl, ?_⟩
  simp only [State.kick_chip, State.kick_mem, State.on_chip, State.on_mem, Chip.doStep_of_issued hcurrent hbefore]
  have hissued := Chip.dispatch_issuedTo
    (((s.chip.begin ridge.val queue.val k).stepMark ridge.val queue.val k).unitDone ridge.val queue.val k.count 0) ridge.val
  have hctx := Chip.qctx_of_regs (s.chip.begin_regs ridge.val queue.val k) ridge.val queue.val
  refine ⟨⟨((hlast.of_issuedTo (s.chip.begin_issuedTo _ _ k)).stepMark k).finished hissued, trivial⟩, ?_⟩
  rw [hissued.steps, Chip.ridge_of_ridges (Chip.unitDone_ridges _ _ _ _ _), ← hctx]
  refine Chip.stepMark_steps ?_
  rwa [hctx, Chip.ridge_of_ridges (s.chip.begin_ridges _ _ k)]

/-- Settles O4: each command begins and its one unit is done; a slot that is written reaches WAITs and keeps its value. -/
theorem orderingCommands : Obligations.OrderingCommands := by
  unfold Obligations.OrderingCommands
  refine ⟨?commands, fun ridge queue s k hfind => waitTimeout_ends hfind,
    fun r slot value atLimit s inst hinst hadmits => signalValueWrite_ends atLimit hinst hadmits⟩
  case commands =>
    intro ridge queue s k n q x finished hk hunits hnone
    have hlast : s.chip.LastAt n q k.count := ⟨k, hk, .inr ⟨hunits, hnone⟩⟩
    have hbegun : (s.chip.begin n q k).LastAt n q k.count := hlast.of_issuedTo (s.chip.begin_issuedTo n q k)
    have hends : ((((s.chip.begin n q k).unitDone n q k.count 0).dispatch n).cmd n q k.count).map (·.finished) = some true :=
      hbegun.finished (Chip.dispatch_issuedTo _ n)
    refine ⟨fun hcurrent hvalue => ?wait, fun atLimit hcurrent hbefore hearly hslot hown => ?signal, fun hcurrent hscope => ?fence,
      fun hcurrent hbefore hstep => ?step⟩
    case wait =>
      refine ⟨_, rfl, ?_⟩
      simp only [finished, State.kick_chip, State.kick_mem, State.on_chip, State.on_mem]
      rw [Chip.doWait_of_reached hcurrent hvalue]
      exact ⟨hends, trivial⟩
    case signal => exact signal_ends atLimit hlast hcurrent hbefore hearly hslot hown
    case fence =>
      refine ⟨_, rfl, ?_⟩
      simp only [finished, State.kick_chip, State.kick_mem, State.on_chip, State.on_mem]
      rw [Chip.doFence_of_scope hcurrent hscope]
      exact ⟨hends, trivial⟩
    case step => exact stepMark_ends hlast hcurrent hbefore hstep

end Sys2Proof.Machine
end

section
/-! PROOF. What an access through a Ridge's translation unit changes of the module (R161, R162, R191–R193, R201, R428): caches,
counters of the module, events and scratchpads; queues, DMA units, partitions, links and partitions' objects stay. -/
namespace Sys2Proof.Machine

/-- `d` is `c` after accesses. -/
structure Chip.Accessed (c d : Chip) : Prop where
  shape : ∃ rs gs st cr ou sp, d = { c with ridges := rs, regs := gs, streams := st, cairn := cr, out := ou, spads := sp }
  dma : ∀ m, (d.ridge m).dma = (c.ridge m).dma
  get : ∀ i key, i < 8 → key < 2 ^ 24 → d.get i key = c.get i key

theorem Ridge.cachePtr_dma (r : Ridge) (e : PtrEnt) : (r.cachePtr e).dma = r.dma := by unfold Ridge.cachePtr; simp only

theorem Ridge.cacheLeaf_dma (r : Ridge) (e : TlbEnt) : (r.cacheLeaf e).dma = r.dma := by unfold Ridge.cacheLeaf; simp only

namespace Chip.Accessed

variable {b c d : Chip} {s : State}

theorem refl (c : Chip) : Accessed c c := ⟨⟨_, _, _, _, _, _, rfl⟩, fun _ => rfl, fun _ _ _ _ => rfl⟩

theorem trans (h : Accessed b c) (h' : Accessed c d) : Accessed b d where
  shape := by
    obtain ⟨_, _, _, _, _, _, rfl⟩ := h.shape
    obtain ⟨_, _, _, _, _, _, rfl⟩ := h'.shape
    exact ⟨_, _, _, _, _, _, rfl⟩
  dma m := (h'.dma m).trans (h.dma m)
  get i key hi hkey := (h'.get i key hi hkey).trans (h.get i key hi hkey)

theorem queues (h : Accessed c d) : d.queues = c.queues := by obtain ⟨_, _, _, _, _, _, rfl⟩ := h.shape; rfl

theorem parts (h : Accessed c d) : d.parts = c.parts := by obtain ⟨_, _, _, _, _, _, rfl⟩ := h.shape; rfl

theorem count (h : Accessed b c) (key n : Nat) : Accessed b (c.count modInst key n) :=
  h.trans ⟨⟨_, _, _, _, _, _, rfl⟩, fun _ => rfl,
    fun i l hi hl => Chip.get_set_other c _ (by unfold ikey modInst; omega)⟩

theorem bump (h : Accessed b c) (key : Nat) : Accessed b (c.bump key) := h.count key 1

theorem raise (h : Accessed b c) (ty part : Nat) (fs : List (Nat × Nat)) : Accessed b (c.raise ty part fs) := by
  refine h.trans ⟨?_, fun m => ?_, fun i key hi hkey => c.raise_get ty part fs i key (recorderKey_of_part hi hkey)⟩
  · obtain ⟨st, cr, rg, ou, heq, -⟩ := c.raise_shape ty part fs
    exact ⟨c.ridges, rg, st, cr, ou, c.spads, heq⟩
  · rw [Chip.ridge_of_ridges (c.raise_ridges ty part fs)]

theorem updRidge (h : Accessed b c) (n : Nat) {f : Ridge → Ridge} (hf : ∀ r, (f r).dma = r.dma) : Accessed b (c.updRidge n f) := by
  refine h.trans ⟨⟨_, _, _, _, _, _, rfl⟩, fun m => ?_, fun _ _ _ _ => rfl⟩
  by_cases hm : m = n
  · rw [hm, Chip.ridge_updRidge_same, hf]
  · rw [Chip.ridge_updRidge_other _ _ hm]

theorem spadWrite (h : Accessed b c) (n p o : Nat) (bs : List Byte) : Accessed b (c.spadWrite n p o bs) :=
  h.trans ⟨⟨_, _, _, _, _, _, rfl⟩, fun _ => rfl, fun _ _ _ _ => rfl⟩

theorem spadServed (h : Accessed b c) (n q k : Nat) : Accessed b (c.spadServed n q k) := by
  unfold Chip.spadServed
  split
  · exact h.count _ _
  · exact h

/-! ### Physical accesses (R161, R162) -/

theorem access (h : Accessed b c) (part pa : Nat) : Accessed b (c.access part pa).1 := by
  unfold Chip.access
  split
  · exact h
  · dsimp only
    exact h.raise _ _ _
  · exact h.count _ _

theorem readPhys (h : Accessed b s.chip) (k pa n : Nat) : Accessed b (s.readPhys k pa n).1.chip := by
  have haccess := h.access k pa
  unfold State.readPhys
  dsimp only
  split
  · exact haccess
  · split <;> exact haccess

theorem writePhys (h : Accessed b s.chip) (k pa : Nat) (bs : List Byte) : Accessed b (s.writePhys k pa bs).1.chip := by
  have haccess := h.access k pa
  unfold State.writePhys
  dsimp only
  split
  · exact haccess
  · split <;> exact haccess

theorem portBytes (h : Accessed b c) (n pa k : Nat) (out : Bool) : Accessed b (c.portBytes n pa k out) := by
  unfold Chip.portBytes
  extract_lets c1 c2
  have hport : Accessed b c1 := h.count _ _
  split
  · exact hport
  split
  · exact hport
  split
  · exact (hport.count _ _).count _ _
  · exact hport.count _ _

/-! ### Translation (R191–R193) -/

theorem walkFrom (h : Accessed b s.chip) (n part ctx va : Nat) (write : Bool) (fuel table : Nat) :
    Accessed b (State.walkFrom n part ctx va write fuel table s).1.chip := by
  induction fuel generalizing s table with
  | zero => exact h
  | succ fuel ih =>
    unfold State.walkFrom
    extract_lets level fault ea known s1 tag e kind reason next s2 e1 e2 s3 ent s4
    split
    · exact h
    cases known with
    | some p => exact ih h _
    | none =>
      have hread : Accessed b s1.chip := h.count _ _
      dsimp only
      split
      · exact hread
      next u _ => exact hread.bump (Obj.CNT_RETIRED_ACCESS + u)
      split
      · exact hread
      split
      · exact hread
      split
      · exact ih (s := s2) (hread.updRidge n (fun r => r.cachePtr_dma ⟨part, ctx, ea, next⟩)) _
      split
      · exact hread
      split
      · exact hread
      split
      · exact hread
      have hset : Accessed b s3.chip := by unfold s3; split <;> exact hread
      exact hset.updRidge n (fun r => r.cacheLeaf_dma ent)

theorem walk (h : Accessed b s.chip) (n part ctx va : Nat) (write : Bool) : Accessed b (s.walk n part ctx va write).1.chip := by
  unfold State.walk
  extract_lets root
  split
  · exact h
  · exact h.walkFrom _ _ _ _ _ _ _

theorem translate (h : Accessed b s.chip) (n part ctx va : Nat) (write : Bool) :
    Accessed b (s.translate n part ctx va write).1.chip := by
  unfold State.translate
  split
  · split
    · exact h.walk _ _ _ _ _
    · exact h
  · extract_lets s1
    have hmiss : Accessed b s1.chip := h.count _ _
    exact hmiss.walk _ _ _ _ _

/-! ### Virtual accesses and operands (R70, R97, R201) -/

theorem readVirtGo (h : Accessed b s.chip) (n part ctx : Nat) (l : List (Nat × Nat)) :
    Accessed b (State.readVirtGo n part ctx l s).1.chip := by
  induction l generalizing s with
  | nil => exact h
  | cons p t ih =>
    obtain ⟨va, k⟩ := p
    unfold State.readVirtGo
    have htranslate := h.translate n part ctx va false
    split
    next s1 i heq => rwa [heq] at htranslate
    next s1 pa heq =>
    rw [heq] at htranslate
    have hread := htranslate.readPhys part pa k
    split
    next s2 st heq => rwa [heq] at hread
    next s2 bs heq =>
    rw [heq] at hread
    extract_lets s3
    have hport : Accessed b s3.chip := hread.portBytes n pa k false
    have hrest := ih hport
    split
    next s4 r heq => rwa [heq] at hrest
    next s4 e heq => rwa [heq] at hrest

theorem writeVirtGo (h : Accessed b s.chip) (n part ctx : Nat) (l : List (Nat × Nat)) (bs : List Byte) :
    Accessed b (State.writeVirtGo n part ctx l bs s).1.chip := by
  induction l generalizing s bs with
  | nil => exact h
  | cons p t ih =>
    obtain ⟨va, k⟩ := p
    unfold State.writeVirtGo
    have htranslate := h.translate n part ctx va true
    split
    next s1 i heq => rwa [heq] at htranslate
    next s1 pa heq =>
    rw [heq] at htranslate
    have hwrite := htranslate.writePhys part pa (bs.take k)
    split
    next s2 st heq => rwa [heq] at hwrite
    next s2 heq =>
    rw [heq] at hwrite
    exact ih (hwrite.portBytes n pa k true) _

theorem readOp (h : Accessed b s.chip) (n part ctx p a len : Nat) : Accessed b (s.readOp n part ctx p a len).1.chip := by
  unfold State.readOp
  split
  · exact h.readVirtGo _ _ _ _
  · split
    · exact h.spadServed _ _ _
    · exact h
  · exact h

theorem writeOp (h : Accessed b s.chip) (n part ctx p a : Nat) (bs : List Byte) : Accessed b (s.writeOp n part ctx p a bs).1.chip := by
  unfold State.writeOp
  split
  · exact h.writeVirtGo _ _ _ _ _
  · split
    · exact (h.spadWrite _ _ _ _).spadServed _ _ _
    · exact h
  · exact h.spadWrite _ _ _ _

theorem writeDma (h : Accessed b s.chip) (n part ctx a : Nat) (bs : List Byte) : Accessed b (s.writeDma n part ctx a bs).1.chip := by
  unfold State.writeDma
  split
  · exact List.foldlRecOn _ _ h (fun _ hd p _ => hd.spadWrite n p _ _)
  · exact h.writeOp _ _ _ _ _ _

theorem probePages (h : Accessed b s.chip) (n part ctx : Nat) (write : Bool) (l : List (Nat × Nat)) :
    Accessed b (State.probePages n part ctx write l s).1.chip := by
  induction l generalizing s with
  | nil => exact h
  | cons p t ih =>
    obtain ⟨va, k⟩ := p
    unfold State.probePages
    have htranslate := h.translate n part ctx va write
    split
    next s1 i heq => rwa [heq] at htranslate
    next s1 pa heq =>
    rw [heq] at htranslate
    exact ih htranslate

end Chip.Accessed

theorem State.readOp_accessed {s s' : State} {n part ctx p a len : Nat} {r : Except AccFail (List Byte)}
    (h : s.readOp n part ctx p a len = (s', r)) : s.chip.Accessed s'.chip := by
  simpa only [h] using (Chip.Accessed.refl s.chip).readOp n part ctx p a len

theorem State.writeOp_accessed {s s' : State} {n part ctx p a : Nat} {bs : List Byte} {r : Option AccFail}
    (h : s.writeOp n part ctx p a bs = (s', r)) : s.chip.Accessed s'.chip := by
  simpa only [h] using (Chip.Accessed.refl s.chip).writeOp n part ctx p a bs

theorem State.writeDma_accessed {s s' : State} {n part ctx a : Nat} {bs : List Byte} {r : Option AccFail}
    (h : s.writeDma n part ctx a bs = (s', r)) : s.chip.Accessed s'.chip := by
  simpa only [h] using (Chip.Accessed.refl s.chip).writeDma n part ctx a bs

theorem State.probePages_accessed {s s' : State} {n part ctx : Nat} {write : Bool} {l : List (Nat × Nat)} {r : Option FaultInfo}
    (h : State.probePages n part ctx write l s = (s', r)) : s.chip.Accessed s'.chip := by
  simpa only [h] using (Chip.Accessed.refl s.chip).probePages n part ctx write l

end Sys2Proof.Machine
end

section
/-! PROOF. DMA units and WATCH (R110, R111, R124, R197, R198, R200, R440): a line of a unit that is moved, a unit that ends, a WATCH
that finishes or begins its dump, and a line of a dump. -/
namespace Sys2Proof.Machine

theorem Ends.imp {i : Instr} {s : State} {P Q : State → Prop} (h : Ends i s P) (hPQ : ∀ t, P t → Q t) : Ends i s Q := by
  obtain ⟨t, hexec, hP⟩ := h
  exact ⟨t, hexec, hPQ t hP⟩

theorem State.charge_issuedTo (s0 : State) (n q : Nat) (s : State) : s.chip.IssuedTo (s0.charge n q s).chip :=
  (Chip.IssuedTo.refl s.chip).updQueue fun x => .act x _

/-! ### A line of a unit (R111, R198) -/

/-- LINE of the record in a slot advances. -/
def Chip.advanceLine (c : Chip) (n slot : Nat) : Chip :=
  c.updRidge n (fun r => { r with dma := Tbl.upd r.dma {} slot (fun d => { d with line := d.line + 1 }) })

theorem Chip.find_advanceLine {c : Chip} {n slot : Nat} {d : DmaUnit} (h : Tbl.find (c.ridge n).dma slot = some d) :
    Tbl.find ((c.advanceLine n slot).ridge n).dma slot = some { d with line := d.line + 1 } := by
  simp [Chip.advanceLine, Tbl.upd, Tbl.get, h]

/-- What moving a line leaves once it has read and written: an index out of range is counted at the row's first line, and LINE
advances. -/
def State.lineMoved (s : State) (n part slot : Nat) (out : Bool) : State :=
  (if out then s.on (fun c => c.countPart part Obj.CNT_INDEX_RANGE 1) else s).on (fun c => c.advanceLine n slot)

theorem State.mem_lineMoved (s : State) (n part slot : Nat) (out : Bool) : (s.lineMoved n part slot out).mem = s.mem := by
  cases out <;> rfl

theorem State.find_lineMoved {s : State} {n slot : Nat} {d : DmaUnit} (part : Nat) (out : Bool)
    (h : Tbl.find (s.chip.ridge n).dma slot = some d) :
    Tbl.find ((s.lineMoved n part slot out).chip.ridge n).dma slot = some { d with line := d.line + 1 } := by
  refine Chip.find_advanceLine ?_
  cases out
  · exact h
  · exact (congrArg (fun r => Tbl.find r.dma slot) (Chip.ridge_of_ridges (Chip.countPart_ridges _ _ _ _) n)).trans h

theorem Chip.get_countPart_same (c : Chip) {k : Nat} (hk : k < 8) (key n : Nat) :
    (c.countPart k key n).get k key = (c.get k key + n) % 2 ^ 64 := by
  rw [Chip.countPart, if_pos hk]
  exact c.get_set_same k key _

theorem State.get_lineMoved (s : State) (n : Nat) {part : Nat} (slot : Nat) (hpart : part < 8) :
    (s.lineMoved n part slot true).chip.get part Obj.CNT_INDEX_RANGE = (s.chip.get part Obj.CNT_INDEX_RANGE + 1) % 2 ^ 64 :=
  s.chip.get_countPart_same hpart _ 1

section
variable {s s0 s1 s2 : State} {n part ctx slot idx src dst : Nat} {d : DmaUnit} {k : Cmd} {bs : List Byte} {out : Bool}
  (hidx : s.rowIdx n part ctx k (k.lineAt d.unit d.line).1 = (s0, .ok idx))
include hidx

theorem State.moveLine_copied
    (hop : k.lineOp (k.lineAt d.unit d.line).1 (k.lineAt d.unit d.line).2 idx = { src := some src, dst := some dst, outRange := out })
    (hread : s0.readOp n part ctx 0 src 128 = (s1, .ok bs)) (hwrite : s1.writeDma n part ctx dst bs = (s2, none)) :
    s.moveLine n part ctx slot d k = (s2.lineMoved n part slot out, none) := by
  unfold State.moveLine
  simp only [hidx, hop, hread, hwrite]
  rfl

theorem State.moveLine_zeroed
    (hop : k.lineOp (k.lineAt d.unit d.line).1 (k.lineAt d.unit d.line).2 idx = { src := none, dst := some dst, outRange := out })
    (hwrite : s0.writeDma n part ctx dst (zeros 128) = (s2, none)) :
    s.moveLine n part ctx slot d k = (s2.lineMoved n part slot out, none) := by
  unfold State.moveLine
  simp only [hidx, hop, hwrite]
  rfl

theorem State.moveLine_skipped
    (hop : k.lineOp (k.lineAt d.unit d.line).1 (k.lineAt d.unit d.line).2 idx = { src := none, dst := none, outRange := out }) :
    s.moveLine n part ctx slot d k = (s0.lineMoved n part slot out, none) := by
  unfold State.moveLine
  simp only [hidx, hop]
  rfl

end

theorem State.rowIdx_of_move (s : State) (n part ctx row : Nat) {k : Cmd} (hop : k.op = opMove) :
    s.rowIdx n part ctx k row = (s, .ok 0) := if_pos hop

theorem State.rowIdx_of_read {s s0 : State} {n part ctx row : Nat} {k : Cmd} {ib : List Byte} (hop : k.op ≠ opMove)
    (hread : s.readOp n part ctx 0 (k.field 0x20 8 + 4 * row) 4 = (s0, .ok ib)) : s.rowIdx n part ctx k row = (s0, .ok (leNat ib)) := by
  unfold State.rowIdx
  rw [if_neg hop, hread]

/-- One line of the running unit in a slot. -/
theorem State.moveLines_one {s t : State} {n part slot op : Nat} {d : DmaUnit} {k : Cmd} (howner : s.chip.owner n = some part)
    (hd : Tbl.find (s.chip.ridge n).dma slot = some d) (hk : s.chip.cmd n d.queue d.count = some k) (hrun : d.st = .running)
    (hop : k.op = op) (hline : d.line < d.lines) (hmove : s.moveLine n part (s.chip.qctx n d.queue) slot d k = (t, none)) :
    State.moveLines n slot op 1 s = s.charge n d.queue t := by
  unfold State.moveLines
  simp only [howner, hd, hk]
  rw [if_neg (by simp [hrun, hop, hline]), hmove]
  rfl

/-- An instruction that moves one line of the unit in a slot: LINE advances, and an index out of range is counted. -/
theorem line_ends {i : Instr} {s s2 : State} {n part slot op : Nat} {d : DmaUnit} {k : Cmd} {out : Bool}
    (hexec : exec i s = .next ((State.moveLines n slot op 1 s).kick n)) (howner : s.chip.owner n = some part)
    (hd : Tbl.find (s.chip.ridge n).dma slot = some d) (hk : s.chip.cmd n d.queue d.count = some k) (hrun : d.st = .running)
    (hop : k.op = op) (hline : d.line < d.lines)
    (hmove : s.moveLine n part (s.chip.qctx n d.queue) slot d k = (s2.lineMoved n part slot out, none))
    (haccess : s.chip.Accessed s2.chip) :
    Ends i s (fun t => (t.mem = s2.mem ∧
      ((Tbl.find (t.chip.ridge n).dma slot).map (fun e => (e.queue, e.count, e.unit, e.line))) =
        some (d.queue, d.count, d.unit, d.line + 1)) ∧
      (out = true → t.chip.get part Obj.CNT_INDEX_RANGE = (s.chip.get part Obj.CNT_INDEX_RANGE + 1) % 2 ^ 64)) := by
  rw [State.moveLines_one howner hd hk hrun hop hline hmove] at hexec
  have hissued := (s.charge_issuedTo n d.queue (s2.lineMoved n part slot out)).dispatch n
  have hfind := State.find_lineMoved part out ((congrArg (fun t => Tbl.find t slot) (haccess.dma n)).trans hd)
  obtain ⟨v, hv, hwork⟩ := hissued.dma n slot _ hfind
  refine ⟨_, hexec, ?_⟩
  simp only [State.kick_mem, State.kick_chip, State.charge_mem, State.mem_lineMoved, hv]
  refine ⟨⟨trivial, ?_⟩, ?_⟩
  · have hfields := congrArg (fun e : DmaUnit => (e.queue, e.count, e.unit, e.line)) hwork
    exact congrArg some hfields
  · rintro rfl
    have hpart := Chip.owner_lt howner
    rw [hissued.get _ _ (by decide) (by decide), s2.get_lineMoved n slot hpart, haccess.get _ _ hpart (by decide)]

/-! ### Where a line is read and written (R111) -/

section
variable {k : Cmd} (row off : Nat) {idx : Nat}

theorem Cmd.lineOp_move (hop : k.op = opMove) : k.lineOp row off idx =
    { src := some (k.field 0x10 8 + row * k.field 0x30 4 + off), dst := some (k.field 0x18 8 + row * k.field 0x34 4 + off),
      outRange := false } := if_pos hop

theorem Cmd.lineOp_gather (hop : k.op = opGather) : k.lineOp row off idx =
    { src := if k.field 0x38 4 ≤ idx then none else some (k.field 0x10 8 + idx * k.field 0x30 4 + off),
      dst := some (k.field 0x18 8 + row * k.field 0x34 4 + off), outRange := decide (k.field 0x38 4 ≤ idx) && decide (off = 0) } := by
  simp [Cmd.lineOp, hop, opGather, opMove]

theorem Cmd.lineOp_scatter (hop : k.op = opScatter) : k.lineOp row off idx =
    { src := if k.field 0x38 4 ≤ idx then none else some (k.field 0x10 8 + row * k.field 0x30 4 + off),
      dst := if k.field 0x38 4 ≤ idx then none else some (k.field 0x18 8 + idx * k.field 0x34 4 + off),
      outRange := decide (k.field 0x38 4 ≤ idx) && decide (off = 0) } := by
  simp [Cmd.lineOp, hop, opScatter, opGather, opMove]

end

/-! ### The end of a unit (R199, R200) -/

theorem dmaUnitDone_ends {ridge : Fin 16} {slot : Fin 32} {s : State} {d : DmaUnit} {k : Cmd}
    (hd : Tbl.find (s.chip.ridge ridge.val).dma slot.val = some d) (hk : s.chip.cmd ridge.val d.queue d.count = some k)
    (hrun : d.st = .running) (hlines : d.lines ≤ d.line) (hform : d.form = .linear ∨ d.form = .indexedRead ∨ d.form = .indexedWrite)
    (hnew : d.unit ∉ k.done) :
    Ends (.dmaUnitDone ridge slot []) s (fun t => t.mem = s.mem ∧ ∃ e, t.chip.cmd ridge.val d.queue d.count = some e ∧
      d.unit ∈ e.done ∧ (k.done.length + 1 = k.units → e.finished = true)) := by
  obtain ⟨hout, hin, hwatch⟩ : d.form ≠ .fabricOut ∧ d.form ≠ .fabricIn ∧ d.form ≠ .watchCopy := by
    rcases hform with h | h | h <;> rw [h] <;> decide
  have hunit : s.watchUnit ridge.val d = s := by
    unfold State.watchUnit
    simp [hk, hwatch]
  have hfreed : (s.chip.freeSlotOf ridge.val slot.val).cmd ridge.val d.queue d.count = some k := hk
  obtain ⟨-, e, he, hdone, hfin⟩ := Chip.unitDone_of_new hfreed hnew
  have hissued := (Chip.dispatch_issuedTo ((s.chip.freeSlotOf ridge.val slot.val).unitDone ridge.val d.queue d.count d.unit)
    ridge.val).idleEngine (n := ridge.val) (d.engine.getD 0)
  obtain ⟨e', he', hcmd⟩ := hissued.cmd he
  have hlive : (d.st != .running || decide (d.line < d.lines) || decide (d.form = .fabricOut) || decide (d.form = .fabricIn)) = false := by
    simp [hrun, hlines, hout, hin]
  refine ⟨_, rfl, ?_⟩
  simp only [hd, hunit, hlive, Bool.false_eq_true, if_false, State.on_chip, State.on_mem, State.kick_chip, State.kick_mem,
    Chip.corrected, List.foldl_nil]
  exact ⟨trivial, e', he', hcmd.done ▸ hdone, fun hlast => hcmd.finished.trans (hfin hlast)⟩

/-! ### A command that starts (R99) -/

theorem Chip.cmd_startCmd {c : Chip} {n q : Nat} {k : Cmd} (hk : c.cmd n q k.count = some k) :
    ∃ e, (c.startCmd n q k).cmd n q k.count = some e ∧ Cmd.IssuedTo k e ∧ e.started = true := by
  unfold Chip.startCmd
  extract_lets
  rw [Chip.cmd_updQueue_of_cmds _ n q, Chip.cmd_updCmd_same hk]
  · exact ⟨_, rfl, ⟨rfl, fun _ => rfl, id⟩, rfl⟩
  · exact fun _ h => h
  · exact fun _ => rfl

/-! ### WATCH (R124, R440) -/

section
variable {c : Chip} {n q : Nat} {k : Cmd}

theorem Chip.watchOver_eq : c.watchOver n q k =
    if k.units = 1 then (c.begin n q k).unitDone n q k.count 0 else (c.begin n q k).endCmd n q k.count stOK := rfl

/-- WATCH finishes without a dump, as its one unit or as a whole. -/
theorem Chip.watchOver_finished (hk : c.cmd n q k.count = some k) (hnone : k.done = []) {d : Chip}
    (hissued : (c.watchOver n q k).IssuedTo d) : (d.cmd n q k.count).map (·.finished) = some true := by
  rw [Chip.watchOver_eq] at hissued
  split at hissued
  next hunits =>
    have hlast : c.LastAt n q k.count := ⟨k, hk, .inr ⟨hunits, hnone⟩⟩
    exact (hlast.of_issuedTo (c.begin_issuedTo n q k)).finished hissued
  next =>
    obtain ⟨e, he, -⟩ := (c.begin_issuedTo n q k).cmd hk
    obtain ⟨e', he', hended⟩ := Chip.cmd_endCmd stOK he
    obtain ⟨e'', he'', hcmd⟩ := hissued.cmd he'
    rw [he'', Option.map_some, hcmd.finished, hended.finished]

theorem Chip.get_watchOver (i : Nat) {key : Nat} (hkey : key < 2 ^ 24) (hne : key ≠ Obj.CNT_REPLAYED_SLICES) :
    (c.watchOver n q k).get i key = c.get i key := by
  rw [Chip.watchOver_eq, ← Chip.get_of_regs (c.begin_regs n q k)]
  split
  · exact Chip.get_unitDone _ _ _ _ _ _ hkey hne
  · rfl

/-- The step that WATCH is for is the Ridge's step of the context, or any. -/
def Cmd.watchesStep (c : Chip) (n q : Nat) (k : Cmd) : Prop :=
  k.field 0x20 8 = watchAll ∨ k.field 0x20 8 = Tbl.get (c.ridge n).steps 0 (c.qctx n q)

theorem Chip.watchBegin_of_other_step (h : ¬ k.watchesStep c n q) : c.watchBegin n q k = c.watchOver n q k := by
  unfold Cmd.watchesStep at h
  unfold Chip.watchBegin
  extract_lets own step want
  exact if_pos (by simpa [step, want] using h)

theorem Chip.watchBegin_of_no_ring (h : k.watchesStep c n q) (hbase : c.get (c.ownerN n) Obj.WATCH_BASE = 0) :
    c.watchBegin n q k = (c.countPart (c.ownerN n) Obj.CNT_WATCH_SKIPPED 1).watchOver n q k := by
  unfold Cmd.watchesStep at h
  unfold Chip.watchBegin
  extract_lets own step want size prod bytes fits
  rw [if_neg (by simp only [step, want]; simp; tauto), if_pos (by simp [fits, own, hbase])]

theorem Chip.watchBegin_of_room (h : k.watchesStep c n q) (hbase : c.get (c.ownerN n) Obj.WATCH_BASE ≠ 0)
    (hroom : (dumpPad (c.get (c.ownerN n) Obj.WATCH_BYTES) (c.get (c.ownerN n) Obj.WATCH_PRODUCER)
      (c.get (c.ownerN n) Obj.WATCH_CONSUMER) (dumpBytes (k.field 0x18 4))).isSome = true) :
    ∃ w : WatchDump, w.base = c.get (c.ownerN n) Obj.WATCH_BASE ∧ w.prod = c.get (c.ownerN n) Obj.WATCH_PRODUCER ∧
      w.step = Tbl.get (c.ridge n).steps 0 (c.qctx n q) ∧
      c.watchBegin n q k = (c.startCmd n q k).updCmd n q k.count (fun k => { k with watch := some w }) := by
  unfold Cmd.watchesStep at h
  unfold Chip.watchBegin
  extract_lets own step want size prod bytes fits old
  rw [if_neg (by simp only [step, want]; simp; tauto), if_neg (by simp [fits, own, size, prod, bytes, hbase, hroom])]
  exact ⟨_, rfl, rfl, rfl, rfl⟩

end

/-- WATCH of a command that may begin its dump. -/
theorem exec_watch_begin {ridge : Fin 16} {queue : Fin 8} {k : Cmd} {s : State} (slot : Fin 32) (lines : Nat)
    (hfind : (s.chip.queue ridge.val queue.val).cmds.find?
      (fun k => k.op = opWatch && !k.finished && (s.chip.queue ridge.val queue.val).mayStart k) = some k) :
    exec (.watch ridge queue slot lines) s = .next ((s.on (fun c => c.watchBegin ridge.val queue.val k)).kick ridge.val) := by
  show execWatch ridge queue slot lines s = _
  unfold execWatch
  simp only [hfind, done_eq]

/-- WATCH with no command that may begin: the engine copies lines of the unit in a slot. -/
theorem exec_watch_lines {ridge : Fin 16} {queue : Fin 8} {s : State} (slot : Fin 32) (lines : Nat)
    (hfind : (s.chip.queue ridge.val queue.val).cmds.find?
      (fun k => k.op = opWatch && !k.finished && (s.chip.queue ridge.val queue.val).mayStart k) = none) :
    exec (.watch ridge queue slot lines) s = .next ((State.watchLines ridge.val slot.val lines s).kick ridge.val) := by
  show execWatch ridge queue slot lines s = _
  unfold execWatch
  simp only [hfind, done_eq]

/-- What a line of a dump that was read leaves: its bytes are in the dump, and LINE advances. -/
def State.watchMoved (s : State) (n slot q count o : Nat) (bs : List Byte) : State :=
  s.on (fun c => (c.updCmd n q count (fun k => { k with watch := k.watch.map (fun w => { w with buf := placeAt w.buf o bs }) })).advanceLine
    n slot)

/-- One line of the running watch unit in a slot. -/
theorem State.watchLines_one {s s1 : State} {n part slot : Nat} {d : DmaUnit} {k : Cmd} {bs : List Byte}
    (howner : s.chip.owner n = some part) (hd : Tbl.find (s.chip.ridge n).dma slot = some d)
    (hk : s.chip.cmd n d.queue d.count = some k) (hrun : d.st = .running) (hop : k.op = opWatch) (hline : d.line < d.lines)
    (hread : s.readOp n part (s.chip.qctx n d.queue) 0 (k.field 0x10 8 + 128 * (512 * d.unit + d.line))
      (min 128 (k.field 0x18 4 - 128 * (512 * d.unit + d.line))) = (s1, .ok bs)) :
    State.watchLines n slot 1 s = s.charge n d.queue (s1.watchMoved n slot d.queue d.count (128 * (512 * d.unit + d.line)) bs) := by
  have hmove : s.watchLine n part (s.chip.qctx n d.queue) slot d k =
      (s1.watchMoved n slot d.queue d.count (128 * (512 * d.unit + d.line)) bs, none) := by
    unfold State.watchLine
    simp only [hread]
    rfl
  unfold State.watchLines
  simp only [howner, hd, hk]
  rw [if_neg (by simp [hrun, hop, hline]), hmove]
  rfl

theorem watchLine_ends {ridge : Fin 16} {queue : Fin 8} {slot : Fin 32} {part : Nat} {k : Cmd} {s s1 : State} {d : DmaUnit}
    {w : WatchDump} {bs : List Byte} (howner : s.chip.owner ridge.val = some part)
    (hk : s.chip.cmd ridge.val d.queue d.count = some k)
    (hfind : (s.chip.queue ridge.val queue.val).cmds.find?
      (fun k => k.op = opWatch && !k.finished && (s.chip.queue ridge.val queue.val).mayStart k) = none)
    (hd : Tbl.find (s.chip.ridge ridge.val).dma slot.val = some d) (hrun : d.st = .running) (hline : d.line < d.lines)
    (hop : k.op = opWatch) (hwatch : k.watch = some w)
    (hread : s.readOp ridge.val part (s.chip.qctx ridge.val d.queue) 0 (k.field 0x10 8 + 128 * (512 * d.unit + d.line))
      (min 128 (k.field 0x18 4 - 128 * (512 * d.unit + d.line))) = (s1, .ok bs)) :
    Ends (.watch ridge queue slot 1) s (fun t => t.mem = s1.mem ∧
      ((t.chip.cmd ridge.val d.queue d.count).bind (·.watch)) = some { w with buf := placeAt w.buf (128 * (512 * d.unit + d.line)) bs } ∧
      ((Tbl.find (t.chip.ridge ridge.val).dma slot.val).map (·.line)) = some (d.line + 1)) := by
  have hexec := exec_watch_lines slot 1 hfind
  rw [State.watchLines_one howner hd hk hrun hop hline hread] at hexec
  have haccess := State.readOp_accessed hread
  set t := s1.watchMoved ridge.val slot.val d.queue d.count (128 * (512 * d.unit + d.line)) bs
  have hissued := (s.charge_issuedTo ridge.val d.queue t).dispatch ridge.val
  have hcmd : t.chip.cmd ridge.val d.queue d.count =
      some { k with watch := k.watch.map (fun w => { w with buf := placeAt w.buf (128 * (512 * d.unit + d.line)) bs }) } :=
    Chip.cmd_updCmd_same ((Chip.cmd_of_queues haccess.queues _ _ _).trans hk) (fun _ h => h)
  have hfindDma : Tbl.find (t.chip.ridge ridge.val).dma slot.val = some { d with line := d.line + 1 } :=
    Chip.find_advanceLine ((congrArg (fun t => Tbl.find t slot.val) (haccess.dma ridge.val)).trans hd)
  obtain ⟨e, he, hcmdIssued⟩ := hissued.cmd hcmd
  obtain ⟨v, hv, hwork⟩ := hissued.dma _ _ _ hfindDma
  refine ⟨_, hexec, ?_⟩
  simp only [State.kick_mem, State.kick_chip, State.charge_mem, he, hv, Option.bind_some, Option.map_some]
  refine ⟨rfl, ?_, congrArg some (congrArg DmaUnit.line hwork :)⟩
  rw [hcmdIssued.watch, hwatch, Option.map_some]

/-- A WATCH that finishes without a dump. -/
theorem watch_over {ridge : Fin 16} {queue : Fin 8} (slot : Fin 32) (lines : Nat) {k : Cmd} {s : State}
    (hk : s.chip.cmd ridge.val queue.val k.count = some k) (hnone : k.done = [])
    (hfind : (s.chip.queue ridge.val queue.val).cmds.find?
      (fun k => k.op = opWatch && !k.finished && (s.chip.queue ridge.val queue.val).mayStart k) = some k) {c : Chip}
    (hc : c.queues = s.chip.queues) (hover : s.chip.watchBegin ridge.val queue.val k = c.watchOver ridge.val queue.val k) :
    Ends (.watch ridge queue slot lines) s (fun t =>
      ((t.chip.cmd ridge.val queue.val k.count).map (·.finished) = some true ∧ t.mem = s.mem) ∧
      ∀ i key, key < 2 ^ 24 → key ≠ Obj.CNT_REPLAYED_SLICES → key ≠ Obj.CNT_TRACE_DROPPED → t.chip.get i key = c.get i key) := by
  have hissued := (c.watchOver ridge.val queue.val k).dispatch_issuedTo ridge.val
  refine ⟨_, exec_watch_begin slot lines hfind, ?_⟩
  simp only [State.kick_mem, State.kick_chip, State.on_chip, State.on_mem, hover]
  refine ⟨⟨Chip.watchOver_finished ((Chip.cmd_of_queues hc _ _ _).trans hk) hnone hissued, trivial⟩, fun i key hkey hne hne' => ?_⟩
  rw [hissued.get i key hkey hne', Chip.get_watchOver i hkey hne]

/-- A WATCH that begins its dump holds the ring as it stands. -/
theorem watch_begins {ridge : Fin 16} {queue : Fin 8} (slot : Fin 32) (lines : Nat) {k : Cmd} {s : State}
    (hk : s.chip.cmd ridge.val queue.val k.count = some k)
    (hfind : (s.chip.queue ridge.val queue.val).cmds.find?
      (fun k => k.op = opWatch && !k.finished && (s.chip.queue ridge.val queue.val).mayStart k) = some k) {w : WatchDump}
    (hbegin : s.chip.watchBegin ridge.val queue.val k =
      (s.chip.startCmd ridge.val queue.val k).updCmd ridge.val queue.val k.count (fun k => { k with watch := some w })) :
    Ends (.watch ridge queue slot lines) s (fun t => t.mem = s.mem ∧
      ∃ e, t.chip.cmd ridge.val queue.val k.count = some e ∧ e.started = true ∧ e.watch = some w) := by
  obtain ⟨e, he, hcount, hstarted⟩ := Chip.cmd_startCmd hk
  have hwatched : ((s.chip.startCmd ridge.val queue.val k).updCmd ridge.val queue.val k.count
      (fun k => { k with watch := some w })).cmd ridge.val queue.val k.count = some { e with watch := some w } :=
    Chip.cmd_updCmd_same he (fun _ h => h)
  obtain ⟨e', he', hcmd⟩ := (Chip.dispatch_issuedTo _ ridge.val).cmd hwatched
  refine ⟨_, exec_watch_begin slot lines hfind, ?_⟩
  simp only [State.kick_mem, State.kick_chip, State.on_chip, State.on_mem, hbegin]
  exact ⟨trivial, e', he', hcmd.started hstarted, hcmd.watch⟩

/-- Settles O7: a line by where its row's index sends it, the end of a unit, and WATCH by its step and its ring. -/
theorem dmaUnits : Obligations.DmaUnits := by
  unfold Obligations.DmaUnits
  refine ⟨?units, ?watch⟩
  case units =>
    intro ridge slot part d k s n ctx row off src dst moved counted howner hd hk
    refine ⟨fun hrun hline => ⟨fun s1 s2 bs hop hread hwrite => ?move, fun s0 ib hindex =>
      ⟨fun hin s1 s2 bs => ⟨fun hop hread hwrite => ?gather, fun hop hread hwrite => ?scatter⟩,
        fun hout => ⟨fun s2 hop hwrite => ?gatherOut, fun hop => ?scatterOut⟩⟩⟩,
      fun hrun hlines hform hnew => dmaUnitDone_ends hd hk hrun hlines hform hnew⟩
    case move =>
      have hmove := State.moveLine_copied (slot := slot.val) (s.rowIdx_of_move n part ctx row hop) (k.lineOp_move row off hop) hread hwrite
      exact (line_ends rfl howner hd hk hrun hop hline hmove
        ((State.readOp_accessed hread).trans (State.writeDma_accessed hwrite))).imp fun t ht => ht.1
    case gather =>
      have hidx := State.rowIdx_of_read (by rw [hop]; decide) hindex
      have hmove := State.moveLine_copied (slot := slot.val) hidx
        (by rw [k.lineOp_gather row off hop, if_neg (Nat.not_le.mpr hin)]) hread hwrite
      exact (line_ends rfl howner hd hk hrun hop hline hmove (((State.readOp_accessed hindex).trans
        (State.readOp_accessed hread)).trans (State.writeDma_accessed hwrite))).imp fun t ht => ht.1
    case scatter =>
      have hidx := State.rowIdx_of_read (by rw [hop]; decide) hindex
      have hmove := State.moveLine_copied (slot := slot.val) hidx
        (by rw [k.lineOp_scatter row off hop, if_neg (Nat.not_le.mpr hin), if_neg (Nat.not_le.mpr hin)]) hread hwrite
      exact (line_ends rfl howner hd hk hrun hop hline hmove (((State.readOp_accessed hindex).trans
        (State.readOp_accessed hread)).trans (State.writeDma_accessed hwrite))).imp fun t ht => ht.1
    case gatherOut =>
      have hidx := State.rowIdx_of_read (by rw [hop]; decide) hindex
      have hmove := State.moveLine_zeroed (slot := slot.val) hidx (by rw [k.lineOp_gather row off hop, if_pos hout]) hwrite
      exact (line_ends rfl howner hd hk hrun hop hline hmove ((State.readOp_accessed hindex).trans
        (State.writeDma_accessed hwrite))).imp fun t ht => ⟨ht.1, fun hoff => ht.2 (by simp [hout, off, hoff])⟩
    case scatterOut =>
      have hidx := State.rowIdx_of_read (by rw [hop]; decide) hindex
      have hmove := State.moveLine_skipped (slot := slot.val) (ctx := ctx) (part := part) hidx
        (by rw [k.lineOp_scatter row off hop, if_pos hout, if_pos hout])
      exact (line_ends rfl howner hd hk hrun hop hline hmove (State.readOp_accessed hindex)).imp
        fun t ht => ⟨ht.1, fun hoff => ht.2 (by simp [hout, off, hoff])⟩
  case watch =>
    intro ridge queue slot lines part k s n q x want here room ended howner hk
    have hown : s.chip.ownerN n = part := Chip.ownerN_of_owner howner
    refine ⟨fun hfind hnone => ⟨fun hother => ?other, fun hhere hbase => ?noRing, fun hhere hbase hroom => ?begins⟩,
      ?line⟩
    case other =>
      exact (watch_over slot lines hk hnone hfind rfl (Chip.watchBegin_of_other_step hother)).imp fun t ht => ht.1
    case noRing =>
      have hover := Chip.watchBegin_of_no_ring hhere (by rwa [hown])
      refine (watch_over slot lines hk hnone hfind (Chip.countPart_queues _ _ _ _) hover).imp fun t ht => ⟨ht.1, ?_⟩
      rw [ht.2 _ _ (by decide) (by decide) (by decide), hown]
      exact Chip.get_countPart_same _ (Chip.owner_lt howner) _ _
    case begins =>
      obtain ⟨w, hw, hprod, hstep, hbegin⟩ := Chip.watchBegin_of_room hhere (by rwa [hown]) (by rwa [hown])
      rw [hown] at hw hprod
      exact (watch_begins slot lines hk hfind hbegin).imp fun t ⟨hmem, e, he, hstarted, hwatch⟩ =>
        ⟨hmem, e, he, hstarted, w, hwatch, hw, hprod, hstep⟩
    case line =>
      intro d w s1 bs o hfind hd hqueue hcount hrun hline hop hwatch hread
      rw [← hqueue, ← hcount] at hk
      have hends := watchLine_ends howner hk hfind hd hrun hline hop hwatch (by rw [hqueue]; exact hread)
      simpa only [hqueue, hcount] using hends

end Sys2Proof.Machine
end

section
/-! PROOF. Flits submitted to a link (R242–R247): each waits or is sent and held, none is lost, and nothing but links and what goes
out changes. -/
namespace Sys2Proof.Machine

@[simp] theorem Chip.link_updLink_same (c : Chip) (l : Nat) (f : Link → Link) : (c.updLink l f).link l = f (c.link l) := by
  simp [Chip.link, Chip.updLink]

theorem Chip.link_of_links {c d : Chip} (h : d.links = c.links) (l : Nat) : d.link l = c.link l := by
  rw [Chip.link, h, Chip.link]

/-- The flits of a link that are sent and not acknowledged, or wait. -/
def Link.flits (x : Link) : List Flit := x.queue ++ x.held

/-- `d` is `c` after flits of link `l` were sent: they are held, with their numbers. -/
structure Chip.Pumped (l : Nat) (c d : Chip) : Prop where
  shape : ∃ ls ou, d = { c with links := ls, out := ou }
  size : (d.link l).flits.length = (c.link l).flits.length
  kept : ∀ f ∈ (c.link l).flits, ∃ g ∈ (d.link l).flits, g.payload = f.payload ∧ g.vc = f.vc

/-- A list cut at the first of an element, without it. -/
theorem takeWhile_append_drop_dropWhile {α : Type} [DecidableEq α] (a : α) (as : List α) :
    as.takeWhile (· != a) ++ (as.dropWhile (· != a)).drop 1 = as.erase a := by
  induction as with
  | nil => rfl
  | cons b as ih =>
    by_cases hb : b = a
    · simp [hb]
    · rw [List.erase_cons_tail (by simpa using hb), ← ih]
      simp [hb]

namespace Chip.Pumped

variable {l : Nat} {b c d : Chip}

theorem refl (l : Nat) (c : Chip) : Pumped l c c := ⟨⟨c.links, c.out, rfl⟩, rfl, fun f hf => ⟨f, hf, rfl, rfl⟩⟩

theorem trans (h : Pumped l b c) (h' : Pumped l c d) : Pumped l b d where
  shape := by
    obtain ⟨_, _, rfl⟩ := h.shape
    obtain ⟨_, _, rfl⟩ := h'.shape
    exact ⟨_, _, rfl⟩
  size := h'.size.trans h.size
  kept f hf := by
    obtain ⟨g, hg, hpayload, hvc⟩ := h.kept f hf
    obtain ⟨g', hg', hpayload', hvc'⟩ := h'.kept g hg
    exact ⟨g', hg', hpayload'.trans hpayload, hvc'.trans hvc⟩

/-- A flit on the wire stays where it is held. -/
theorem wire (c : Chip) (l seq ty vc : Nat) (nak : Bool) (payload : List Byte) : Pumped l c (c.wire l seq ty vc nak payload) := by
  unfold Chip.wire
  split
  · exact refl l c
  next i _ =>
    extract_lets k c1
    have hflits : ((c1.send (.flit i (flitBytes seq ty vc k payload))).link l).flits = (c.link l).flits := by
      rw [Chip.link_of_links (Chip.send_links _ _)]
      unfold c1
      rw [Chip.link_updLink_same]
      rfl
    exact ⟨⟨_, _, rfl⟩, by rw [hflits], fun f hf => ⟨f, by rwa [hflits], rfl, rfl⟩⟩

/-- The first waiting flit whose channel has a credit is held, and no longer waits. -/
theorem take {q : Flit} {f : Link → Link} (hq : q ∈ (c.link l).queue) (seq : Nat)
    (hqueue : (f (c.link l)).queue = (c.link l).queue.erase q)
    (hheld : (f (c.link l)).held = (c.link l).held ++ [{ q with seq := seq }]) : Pumped l c (c.updLink l f) := by
  refine ⟨⟨_, _, rfl⟩, ?_, fun g hg => ?_⟩
  all_goals rw [Chip.link_updLink_same, Link.flits, hqueue, hheld]
  · have hpos := List.length_pos_of_mem hq
    simp [Link.flits, List.length_erase_of_mem hq]
    omega
  · by_cases hsame : g = q
    · exact ⟨{ q with seq := seq }, by simp, by rw [hsame], by rw [hsame]⟩
    · refine ⟨g, ?_, rfl, rfl⟩
      rcases List.mem_append.mp hg with hwaits | hheld'
      · exact List.mem_append_left _ ((List.mem_erase_of_ne hsame).mpr hwaits)
      · exact List.mem_append_right _ (List.mem_append_left _ hheld')

theorem pumpLink (l fuel : Nat) (c : Chip) : Pumped l c (Chip.pumpLink l fuel c) := by
  induction fuel generalizing c with
  | zero => exact refl l c
  | succ fuel ih =>
    unfold Chip.pumpLink
    extract_lets x
    split
    · exact refl l c
    split
    · exact refl l c
    next q hq =>
    extract_lets fl rest c1
    have htaken : Pumped l c c1 := take (List.mem_of_find?_eq_some hq) x.next (takeWhile_append_drop_dropWhile q x.queue) rfl
    exact (htaken.trans (wire c1 l _ _ _ _ _)).trans (ih _)

end Chip.Pumped

/-! ### What is submitted (R114, R244) -/

section
variable (c : Chip) (l : Nat)

theorem Chip.submit_shape (fs : List Flit) : ∃ ls ou, c.submit l fs = { c with links := ls, out := ou } := by
  unfold Chip.submit
  extract_lets c1
  obtain ⟨ls, ou, h⟩ := (Chip.Pumped.pumpLink l ((c1.link l).queue.length) c1).shape
  exact ⟨ls, ou, h⟩

theorem Chip.submit_length (fs : List Flit) : ((c.submit l fs).link l).flits.length = (c.link l).flits.length + fs.length := by
  unfold Chip.submit
  extract_lets c1
  rw [(Chip.Pumped.pumpLink l _ c1).size, Chip.link_updLink_same]
  simp [Link.flits]
  omega

theorem Chip.submit_flit {fs : List Flit} {f : Flit} (hf : f ∈ fs) :
    ∃ g ∈ ((c.submit l fs).link l).flits, g.payload = f.payload ∧ g.vc = f.vc := by
  unfold Chip.submit
  extract_lets c1
  refine (Chip.Pumped.pumpLink l _ c1).kept f ?_
  rw [Chip.link_updLink_same]
  exact List.mem_append_left _ (List.mem_append_right _ hf)

theorem Chip.message_shape (vc code : Nat) (fs : List (Nat × Nat)) :
    ∃ ls ou, c.message l vc code fs = { c with links := ls, out := ou } := c.submit_shape l _

@[simp] theorem Chip.message_queues (vc code : Nat) (fs : List (Nat × Nat)) : (c.message l vc code fs).queues = c.queues := by
  obtain ⟨_, _, h⟩ := c.message_shape l vc code fs
  rw [h]

@[simp] theorem Chip.message_parts (vc code : Nat) (fs : List (Nat × Nat)) : (c.message l vc code fs).parts = c.parts := by
  obtain ⟨_, _, h⟩ := c.message_shape l vc code fs
  rw [h]

@[simp] theorem Chip.message_regs (vc code : Nat) (fs : List (Nat × Nat)) : (c.message l vc code fs).regs = c.regs := by
  obtain ⟨_, _, h⟩ := c.message_shape l vc code fs
  rw [h]

/-- A message of Table 9.6 goes out on its link. -/
theorem Chip.message_submitted (vc code : Nat) (fs : List (Nat × Nat)) : (c.message l vc code fs).submitted c l (msgBytes code fs) := by
  have hmessage : c.message l vc code fs =
      c.submit l [{ ty := if vc = 3 then 3 else 0, vc := vc, payload := msgBytes code fs }] := rfl
  rw [hmessage]
  refine ⟨?_, ?_⟩
  · simpa [Link.flits] using c.submit_length l [{ ty := if vc = 3 then 3 else 0, vc := vc, payload := msgBytes code fs }]
  · obtain ⟨g, hg, hpayload, -⟩ := c.submit_flit l (List.mem_singleton_self
      ({ ty := if vc = 3 then 3 else 0, vc := vc, payload := msgBytes code fs } : Flit))
    exact ⟨g, hg, hpayload⟩

end

theorem Chip.submitted_of_links {c d old : Chip} {l : Nat} {payload : List Byte} (h : c.submitted old l payload) (hlinks : d.links = c.links) :
    d.submitted old l payload := by
  simpa only [Chip.submitted, Chip.link_of_links hlinks] using h

/-- What was submitted since a chip with the same links. -/
theorem Chip.submitted_since {c old old' : Chip} {l : Nat} {payload : List Byte} (h : c.submitted old l payload) (hlinks : old'.links = old.links) :
    c.submitted old' l payload := by
  simpa only [Chip.submitted, Chip.link_of_links hlinks] using h

end Sys2Proof.Machine
end

section
/-! PROOF. The fabric commands (R114–R118, R258, R412): a SEND that starts and a segment that it sends, a receive that is posted, and
a command without progress. -/
namespace Sys2Proof.Machine

/-! ### A SEND that starts (R114, R118, R258) -/

section
variable {c : Chip} {n q : Nat} {k : Cmd}

theorem Chip.startSend_of_resolve {l : Nat} (h : c.resolve (c.ownerN n) k.routeH = some l) :
    c.startSend n q k = (c.startCmd n q k).sendRts n q k l := by
  have hroute : (c.startCmd n q k).resolve ((c.startCmd n q k).ownerN n) k.routeH = some l := h
  unfold Chip.startSend
  simp only [hroute]

theorem Chip.startSend_of_no_route (h : c.resolve (c.ownerN n) k.routeH = none) :
    c.startSend n q k = (c.startCmd n q k).endCmd n q k.count stLink := by
  have hroute : (c.startCmd n q k).resolve ((c.startCmd n q k).ownerN n) k.routeH = none := h
  unfold Chip.startSend
  simp only [hroute]

end

theorem State.doSend_of_start {s : State} {n q : Nat} {k : Cmd}
    (hlive : (s.chip.queue n q).cmds.filter (fun k => k.op = opSend && k.started && !k.finished) = [])
    (hfind : (s.chip.queue n q).cmds.find? (fun k => k.op = opSend && !k.started && (s.chip.queue n q).mayStart k) = some k) :
    s.doSend n q = s.on (fun c => c.startSend n q k) := by
  unfold State.doSend
  simp only [hlive, List.findSome?_nil, hfind]

/-- The request to send goes out, and its command remembers link and frame. -/
theorem Chip.sendRts_submitted {c : Chip} {n q : Nat} {k e : Cmd} (l : Nat) (he : c.cmd n q k.count = some e) :
    (c.sendRts n q k l).submitted c l (msgBytes msgRts [(1, k.chan), (4, k.tid), (4, k.len)]) ∧
    (c.sendRts n q k l).cmd n q k.count = some { e with link := some l, rtsAt := c.frame, rtsRetry := false } := by
  have hmessage := c.message_submitted l 2 msgRts [(1, k.chan), (4, k.tid), (4, k.len)]
  have hfound := (Chip.cmd_of_queues (c.message_queues l 2 msgRts [(1, k.chan), (4, k.tid), (4, k.len)]) n q k.count).trans he
  exact ⟨Chip.submitted_of_links hmessage rfl, Chip.cmd_updCmd_same hfound (fun _ h => h)⟩

theorem send_starts {ridge : Fin 16} {queue : Fin 8} {k : Cmd} {s : State} {l : Nat}
    (hk : s.chip.cmd ridge.val queue.val k.count = some k)
    (hlive : (s.chip.queue ridge.val queue.val).cmds.filter (fun k => k.op = opSend && k.started && !k.finished) = [])
    (hfind : (s.chip.queue ridge.val queue.val).cmds.find?
      (fun k => k.op = opSend && !k.started && (s.chip.queue ridge.val queue.val).mayStart k) = some k)
    (hroute : s.chip.resolve (s.chip.ownerN ridge.val) k.routeH = some l) :
    Ends (.send ridge queue) s (fun t => t.mem = s.mem ∧
      t.chip.submitted s.chip l (msgBytes msgRts [(1, k.chan), (4, k.tid), (4, k.len)]) ∧
      ∃ e, t.chip.cmd ridge.val queue.val k.count = some e ∧ e.started = true ∧ e.link = some l ∧ e.rtsAt = s.chip.frame ∧
        e.finished = k.finished) := by
  have hexec : exec (.send ridge queue) s = .next ((s.doSend ridge.val queue.val).kick ridge.val) := rfl
  rw [State.doSend_of_start hlive hfind] at hexec
  obtain ⟨e, he, hissued, hstarted⟩ := Chip.cmd_startCmd hk
  obtain ⟨hsubmitted, hsent⟩ := Chip.sendRts_submitted l he
  obtain ⟨e', he', hcmd⟩ := (Chip.dispatch_issuedTo _ ridge.val).cmd hsent
  refine ⟨_, hexec, ?_⟩
  simp only [State.kick_mem, State.kick_chip, State.on_chip, State.on_mem, Chip.startSend_of_resolve hroute]
  refine ⟨trivial, ?_, e', he', hcmd.started hstarted, hcmd.link, hcmd.rtsAt, hcmd.finished.trans hissued.finished⟩
  exact Chip.submitted_of_links (Chip.submitted_since hsubmitted rfl) (Chip.dispatch_links _ _)

theorem send_without_route {ridge : Fin 16} {queue : Fin 8} {k : Cmd} {s : State}
    (hk : s.chip.cmd ridge.val queue.val k.count = some k)
    (hlive : (s.chip.queue ridge.val queue.val).cmds.filter (fun k => k.op = opSend && k.started && !k.finished) = [])
    (hfind : (s.chip.queue ridge.val queue.val).cmds.find?
      (fun k => k.op = opSend && !k.started && (s.chip.queue ridge.val queue.val).mayStart k) = some k)
    (hroute : s.chip.resolve (s.chip.ownerN ridge.val) k.routeH = none) :
    Ends (.send ridge queue) s (fun t => t.mem = s.mem ∧ t.chip.links = s.chip.links ∧
      ∃ e, t.chip.cmd ridge.val queue.val k.count = some e ∧ e.finished = true ∧ stLink ∈ e.status) := by
  have hexec : exec (.send ridge queue) s = .next ((s.doSend ridge.val queue.val).kick ridge.val) := rfl
  rw [State.doSend_of_start hlive hfind] at hexec
  obtain ⟨e, he, -⟩ := Chip.cmd_startCmd hk
  obtain ⟨e', he', hended⟩ := Chip.cmd_endCmd stLink he
  obtain ⟨e'', he'', hcmd⟩ := (Chip.dispatch_issuedTo _ ridge.val).cmd he'
  refine ⟨_, hexec, ?_⟩
  simp only [State.kick_mem, State.kick_chip, State.on_chip, State.on_mem, Chip.startSend_of_no_route hroute, Chip.dispatch_links]
  exact ⟨trivial, rfl, e'', he'', hcmd.finished.trans hended.finished, hcmd.status ▸ hended.mem (by decide)⟩

/-! ### A segment that is sent (R115, R247) -/

theorem segFlits_vc {vc chan tid idx : Nat} {data : List Byte} {f : Flit} (hf : f ∈ segFlits vc chan tid idx data) : f.vc = vc := by
  obtain ⟨p, -, rfl⟩ := List.mem_map.mp hf
  rfl

@[simp] theorem Chip.trace_links (c : Chip) (n q : Nat) (t : TraceRec) : (c.trace n q t).links = c.links := by
  obtain ⟨_, _, _, h⟩ := ((Issued.refl c).trace (n := n) q t).shape
  rw [h]

/-- What sending a segment leaves of the module: its flits are submitted, a trace record says so, and its unit has no line to go. -/
def Chip.segmentSent (c : Chip) (n q slot l : Nat) (fs : List Flit) (t : TraceRec) : Chip :=
  ((c.submit l fs).trace n q t).updRidge n (fun r => { r with dma := Tbl.upd r.dma {} slot (fun d => { d with line := d.lines }) })

theorem Chip.find_segmentSent {c : Chip} {n slot : Nat} {d : DmaUnit} (q l : Nat) (fs : List Flit) (t : TraceRec)
    (h : Tbl.find (c.ridge n).dma slot = some d) :
    Tbl.find ((c.segmentSent n q slot l fs t).ridge n).dma slot = some { d with line := d.lines } := by
  have hsubmitted : (c.submit l fs).ridges = c.ridges := by
    obtain ⟨_, _, heq⟩ := c.submit_shape l fs
    rw [heq]
  have hdma : Tbl.find (((c.submit l fs).trace n q t).ridge n).dma slot = some d := by
    rwa [Chip.dma_trace, Chip.ridge_of_ridges hsubmitted]
  rw [Chip.segmentSent, Chip.ridge_updRidge_same]
  simp [Tbl.upd, Tbl.get, hdma]

theorem State.doSend_of_segment {s s1 : State} {n q slot l : Nat} {k : Cmd} {d : DmaUnit} {bs : List Byte}
    (hunsent : ((s.chip.queue n q).cmds.filter (fun k => k.op = opSend && k.started && !k.finished)).findSome?
      (fun k => (s.chip.unsent n q k.count).map (fun d => (k, d))) = some (k, slot, d))
    (hlink : k.link = some l) (husable : (s.chip.link l).usable = true)
    (hread : s.readOp n (s.chip.ownerN n) (s.chip.qctx n q) 0 (k.field 0x10 8 + 65536 * d.unit) (k.segLen d.unit) = (s1, .ok bs)) :
    ∃ t, s.doSend n q = s1.on (fun c => c.segmentSent n q slot l (segFlits k.vc k.chan k.tid d.unit bs) t) := by
  unfold State.doSend
  simp only [hunsent, hlink, husable, if_true]
  unfold State.sendSegment
  simp only [hread]
  exact ⟨_, rfl⟩

theorem send_segment {ridge : Fin 16} {queue : Fin 8} {k : Cmd} {s s1 : State} {slot l : Nat} {d : DmaUnit} {bs : List Byte}
    (hunsent : ((s.chip.queue ridge.val queue.val).cmds.filter (fun k => k.op = opSend && k.started && !k.finished)).findSome?
      (fun k => (s.chip.unsent ridge.val queue.val k.count).map (fun d => (k, d))) = some (k, slot, d))
    (hd : Tbl.find (s.chip.ridge ridge.val).dma slot = some d) (hlink : k.link = some l) (husable : (s.chip.link l).usable = true)
    (hread : s.readOp ridge.val (s.chip.ownerN ridge.val) (s.chip.qctx ridge.val queue.val) 0 (k.field 0x10 8 + 65536 * d.unit)
      (k.segLen d.unit) = (s1, .ok bs)) :
    Ends (.send ridge queue) s (fun t => t.mem = s1.mem ∧
      (∀ f ∈ segFlits k.vc k.chan k.tid d.unit bs, ∃ g ∈ (t.chip.link l).queue ++ (t.chip.link l).held,
        g.payload = f.payload ∧ g.vc = k.vc) ∧
      ((Tbl.find (t.chip.ridge ridge.val).dma slot).map (fun e => (e.unit, e.line))) = some (d.unit, d.lines)) := by
  have hexec : exec (.send ridge queue) s = .next ((s.doSend ridge.val queue.val).kick ridge.val) := rfl
  obtain ⟨r, hsent⟩ := State.doSend_of_segment hunsent hlink husable hread
  rw [hsent] at hexec
  set fs := segFlits k.vc k.chan k.tid d.unit bs
  have hlinks : ((s1.chip.segmentSent ridge.val queue.val slot l fs r).dispatch ridge.val).links = (s1.chip.submit l fs).links :=
    (Chip.dispatch_links _ _).trans (Chip.trace_links _ _ _ _)
  have hfind := Chip.find_segmentSent queue.val l fs r
    ((congrArg (fun t => Tbl.find t slot) ((State.readOp_accessed hread).dma ridge.val)).trans hd)
  obtain ⟨v, hv, hwork⟩ := (Chip.dispatch_issuedTo _ ridge.val).dma _ _ _ hfind
  refine ⟨_, hexec, ?_⟩
  simp only [State.kick_mem, State.kick_chip, State.on_chip, State.on_mem, hv]
  refine ⟨trivial, fun f hf => ?_, congrArg some (congrArg (fun e : DmaUnit => (e.unit, e.line)) hwork)⟩
  obtain ⟨g, hg, hpayload, hvc⟩ := s1.chip.submit_flit l hf
  rw [Chip.link_of_links hlinks]
  exact ⟨g, hg, hpayload, hvc.trans (segFlits_vc hf)⟩

/-! ### A receive that is posted (R114, R116) -/

theorem Chip.openXfer_shape (c : Chip) (part chan tid total : Nat) : ∃ ps, c.openXfer part chan tid total = { c with parts := ps } := by
  unfold Chip.openXfer
  split
  · exact ⟨c.parts, rfl⟩
  · exact ⟨_, rfl⟩

/-- A new transfer is the channel's most recent, and found by its TRANSFER_ID. -/
theorem Chip.xfer_openXfer {c : Chip} {part chan tid : Nat} (total : Nat) (h : c.xfer part chan tid = none) :
    (c.openXfer part chan tid total).xfer part chan tid = some { tid := tid, total := total } := by
  have hnone := List.find?_eq_none.mp h
  unfold Chip.openXfer
  simp only [h]
  rw [Chip.xfer, Chip.part_updPart_same, Tbl.get_put_same, List.drop_append_of_le_length (by simp), List.find?_append,
    List.find?_eq_none.mpr (fun x hx => hnone x (List.mem_of_mem_drop hx))]
  simp

theorem Chip.rts_openXfer (c : Chip) (part chan tid total : Nat) : ((c.openXfer part chan tid total).part part).rts = (c.part part).rts := by
  unfold Chip.openXfer
  split
  · rfl
  · rw [Chip.part_updPart_same]

/-- What posting a receive leaves of the module: it has started and begun, and its transfer is entered. -/
def Chip.receivePosted (c : Chip) (n q : Nat) (k : Cmd) : Chip :=
  ((c.startCmd n q k).openXfer (c.ownerN n) k.chan k.tid k.units).updCmd n q k.count (fun e => { e with
    begun := true,
    startCycle := if e.begun then e.startCycle
      else (((c.startCmd n q k).openXfer (c.ownerN n) k.chan k.tid k.units).ridge n).cycles })

section
variable {c : Chip} {n q : Nat} {k : Cmd}

theorem Chip.receivePosted_links : (c.receivePosted n q k).links = c.links := by
  obtain ⟨_, h⟩ := (c.startCmd n q k).openXfer_shape (c.ownerN n) k.chan k.tid k.units
  unfold Chip.receivePosted
  rw [h]
  rfl

theorem Chip.xfer_receivePosted (h : c.xfer (c.ownerN n) k.chan k.tid = none) :
    (c.receivePosted n q k).xfer (c.ownerN n) k.chan k.tid = some { tid := k.tid, total := k.units } :=
  Chip.xfer_openXfer (c := c.startCmd n q k) k.units h

theorem Chip.cmd_receivePosted (hk : c.cmd n q k.count = some k) :
    ∃ e, (c.receivePosted n q k).cmd n q k.count = some e ∧ e.started = true ∧ e.begun = true ∧ e.finished = k.finished := by
  obtain ⟨e, he, hissued, hstarted⟩ := Chip.cmd_startCmd hk
  obtain ⟨_, h⟩ := (c.startCmd n q k).openXfer_shape (c.ownerN n) k.chan k.tid k.units
  have hopened : ((c.startCmd n q k).openXfer (c.ownerN n) k.chan k.tid k.units).cmd n q k.count = some e := by
    rw [h]
    exact he
  exact ⟨_, Chip.cmd_updCmd_same hopened (fun _ h => h), hstarted, rfl, hissued.finished⟩

end

/-- A receive of a new transfer that no request awaits. -/
theorem State.post1_of_new {s : State} {n q : Nat} {k : Cmd} (hposted : s.chip.posted (s.chip.ownerN n) k.chan k.tid = none)
    (hxfer : s.chip.xfer (s.chip.ownerN n) k.chan k.tid = none)
    (hrts : (s.chip.part (s.chip.ownerN n)).rts.find? (fun r => r.chan = k.chan && r.tid = k.tid) = none) (hlink : k.link = none) :
    s.post1 n q k = s.on (fun c => c.receivePosted n q k) := by
  have hmarks : (((s.chip.receivePosted n q k).xfer (s.chip.ownerN n) k.chan k.tid).map (·.marks)).getD [] = [] := by
    rw [Chip.xfer_receivePosted hxfer]
    rfl
  have hwaits : ((s.chip.receivePosted n q k).part (s.chip.ownerN n)).rts.find? (fun r => r.chan = k.chan && r.tid = k.tid) = none := by
    rw [← hrts]
    exact congrArg (List.find? _) ((s.chip.startCmd n q k).rts_openXfer _ _ _ _)
  unfold State.post1
  extract_lets part s1 s2 marks s3
  have hs2 : s2 = s.on (fun c => c.receivePosted n q k) := rfl
  have hs3 : s3 = s2 := by
    have hnone : marks = [] := hmarks
    simp only [s3, hnone, List.foldl_nil]
    rfl
  rw [if_neg (by simp [part, hposted]), hs3, hs2]
  simp only [State.on_chip, part, hwaits, hlink]

theorem State.doRecv_of_post {s : State} {n q op : Nat} {k : Cmd}
    (hready : (s.chip.ridge n).dma.all (fun d => d.2.form != .fabricIn) = true)
    (hfind : (s.chip.queue n q).cmds.find? (fun k => k.op = op && !k.started && (s.chip.queue n q).mayStart k) = some k) :
    s.doRecv n q op = s.post1 n q k := by
  have hform : ∀ p ∈ (s.chip.ridge n).dma, p.2.form ≠ .fabricIn := fun p hp => by simpa using List.all_eq_true.mp hready p hp
  unfold State.doRecv
  extract_lets ready
  have hnone : ready = none := List.find?_eq_none.mpr fun p hp => by simp [hform p hp]
  simp only [hnone, hfind]

theorem receive_posts {i : Instr} {ridge : Fin 16} {queue : Fin 8} {op : Nat} {k : Cmd} {s : State}
    (hexec : exec i s = .next ((s.doRecv ridge.val queue.val op).kick ridge.val))
    (hk : s.chip.cmd ridge.val queue.val k.count = some k)
    (hready : (s.chip.ridge ridge.val).dma.all (fun d => d.2.form != .fabricIn) = true)
    (hfind : (s.chip.queue ridge.val queue.val).cmds.find?
      (fun k => k.op = op && !k.started && (s.chip.queue ridge.val queue.val).mayStart k) = some k)
    (hposted : s.chip.posted (s.chip.ownerN ridge.val) k.chan k.tid = none)
    (hxfer : s.chip.xfer (s.chip.ownerN ridge.val) k.chan k.tid = none)
    (hrts : (s.chip.part (s.chip.ownerN ridge.val)).rts.find? (fun r => r.chan = k.chan && r.tid = k.tid) = none)
    (hlink : k.link = none) :
    Ends i s (fun t => t.mem = s.mem ∧ t.chip.links = s.chip.links ∧
      t.chip.xfer (s.chip.ownerN ridge.val) k.chan k.tid = some { tid := k.tid, total := k.units } ∧
      ∃ e, t.chip.cmd ridge.val queue.val k.count = some e ∧ e.started = true ∧ e.begun = true ∧ e.finished = k.finished) := by
  rw [State.doRecv_of_post hready hfind, State.post1_of_new hposted hxfer hrts hlink] at hexec
  obtain ⟨e, he, hstarted, hbegun, hfinished⟩ := Chip.cmd_receivePosted hk
  obtain ⟨e', he', hcmd⟩ := (Chip.dispatch_issuedTo _ ridge.val).cmd he
  refine ⟨_, hexec, ?_⟩
  simp only [State.kick_mem, State.kick_chip, State.on_chip, State.on_mem, Chip.dispatch_links, Chip.receivePosted_links]
  refine ⟨trivial, trivial, ?_, e', he', hcmd.started hstarted, hcmd.begun hbegun, hcmd.finished.trans hfinished⟩
  rw [Chip.xfer, Chip.part, Chip.dispatch_parts]
  exact Chip.xfer_receivePosted hxfer

/-! ### A command without progress (R118, R412) -/

theorem fabricTimeout_ends {ridge : Fin 16} {queue : Fin 8} {count : W32} {k : Cmd} {s : State}
    (hk : s.chip.cmd ridge.val queue.val k.count = some k) (hcount : k.count = count.toNat) (hop : opFabric k.op = true)
    (hstarted : k.started = true) (hlive : k.finished = false) :
    Ends (.fabricTimeout ridge queue count) s (fun t => t.mem = s.mem ∧ t.chip.said 0x0D07 (s.chip.ownerN ridge.val) [] ∧
      ∃ e, t.chip.cmd ridge.val queue.val k.count = some e ∧ e.finished = true ∧
        (if k.op = opSend ∧ s.chip.resolve (s.chip.ownerN ridge.val) k.routeH = none then stLink else stPeer) ∈ e.status) := by
  set st := if k.op = opSend ∧ s.chip.resolve (s.chip.ownerN ridge.val) k.routeH = none then stLink else stPeer with hst
  have hends : exec (.fabricTimeout ridge queue count) s = .next ((s.on (fun c =>
      (c.endCmd ridge.val queue.val k.count st).raise 0x0D07 (s.chip.ownerN ridge.val) [])).kick ridge.val) := by
    show execFabricTimeout ridge queue count s = _
    unfold execFabricTimeout
    simp only [State.on, ← hcount, hk, hop, hstarted, hlive, hst, done_eq]
    simp [Option.isNone_iff_eq_none]
  have hfailure : st ≠ stOK := by
    rw [hst]
    split <;> decide
  obtain ⟨e, he, hended⟩ := Chip.cmd_endCmd st hk
  obtain ⟨e', he', hcmd⟩ := (Chip.dispatch_issuedTo ((s.chip.endCmd ridge.val queue.val k.count st).raise 0x0D07
    (s.chip.ownerN ridge.val) []) ridge.val).cmd ((Chip.cmd_of_queues (Chip.raise_queues _ _ _ _) _ _ _).trans he)
  refine ⟨_, hends, ?_⟩
  simp only [State.kick_mem, State.kick_chip, State.on_chip, State.on_mem]
  exact ⟨trivial, Chip.said_of_streams (Chip.dispatch_streams _ _) (Chip.raise_said _ _ _ _), e', he',
    hcmd.finished.trans hended.finished, hcmd.status ▸ hended.mem hfailure⟩

/-- Settles O8: a SEND by its route, a segment once clear to send has come, a receive of a new transfer, and a timeout. -/
theorem fabricCommands : Obligations.FabricCommands := by
  unfold Obligations.FabricCommands
  intro ridge queue k s n q x own now hk
  refine ⟨fun hlive hfind => ⟨fun l hroute => send_starts hk hlive hfind hroute, fun hroute => send_without_route hk hlive hfind hroute⟩,
    fun slot d l s1 bs hunsent hd hlink husable hread => send_segment hunsent hd hlink husable hread,
    fun op hop hready hfind hposted hxfer hrts hlink => ?_,
    fun count hcount hop hstarted hlive => fabricTimeout_ends hk hcount hop hstarted hlive⟩
  refine receive_posts (op := op) ?_ hk hready hfind hposted hxfer hrts hlink
  rcases hop with rfl | rfl <;> rfl

end Sys2Proof.Machine
end

section
/-! PROOF. The fabric messages (R114–R117, R154, R203): a request held or granted, clear to send, COMPLETE, REFUSE, an
acknowledgement, and a segment that is new or already marked. -/
namespace Sys2Proof.Machine

theorem State.onLink_of_usable {s : State} {l part : Nat} (f : Nat → State) (hpart : (s.chip.link l).part = some part)
    (husable : (s.chip.link l).usable = true) : s.onLink l f = f part := by
  unfold State.onLink
  simp only [hpart, husable, if_true]

/-! ### Changes in place that are made twice -/

theorem Tbl.put_put {α : Type} (t : Tbl α) (k : Nat) (v w : α) : Tbl.put (Tbl.put t k v) k w = Tbl.put t k w := by
  induction t with
  | nil => simp [Tbl.put]
  | cons e t ih =>
    obtain ⟨j, u⟩ := e
    by_cases hlt : k < j
    · simp [Tbl.put, hlt]
    · by_cases heq : k = j
      · simp [Tbl.put, heq]
      · simp [Tbl.put, hlt, heq, ih]

theorem Chip.updQueue_twice (c : Chip) (n q : Nat) (f g : Queue → Queue) :
    (c.updQueue n q f).updQueue n q g = c.updQueue n q (g ∘ f) := by
  rw [Chip.updQueue, Chip.queue_updQueue_same]
  simp only [Chip.updQueue, Chip.setQueue, Tbl.put_put, Function.comp_apply]

/-- A change of a command that has no further effect when it is made again. -/
theorem Chip.updCmd_again (c : Chip) (n q count : Nat) {f : Cmd → Cmd} (hf : ∀ k, f (f k) = f k) (hcount : ∀ k, (f k).count = k.count) :
    (c.updCmd n q count f).updCmd n q count f = c.updCmd n q count f := by
  have htwice : (fun x => Queue.updCmd x count f) ∘ (fun x => Queue.updCmd x count f) = fun x => Queue.updCmd x count f := by
    funext x
    simp only [Function.comp_apply, Queue.updCmd, List.map_map]
    congr 1
    refine List.map_congr_left fun k _ => ?_
    by_cases hk : k.count = count <;> simp [hk, hcount, hf]
  rw [Chip.updCmd, Chip.updCmd, Chip.updQueue_twice, htwice]

/-! ### A request to send (R114, R203) -/

theorem State.rtsIn_of_new {s : State} {l chan tid part : Nat} (len : Nat) (hpart : (s.chip.link l).part = some part)
    (husable : (s.chip.link l).usable = true) (hposted : s.chip.posted part chan tid = none) (hxfer : s.chip.xfer part chan tid = none)
    (hnew : (s.chip.part part).rts.any (fun r => r.chan = chan && r.tid = tid) = false) (hroom : (s.chip.part part).rts.length < 1024) :
    s.rtsIn l chan tid len =
      s.on (fun c => c.updPart part (fun p => { p with rts := p.rts ++ [⟨l, chan, tid, len⟩] })) := by
  unfold State.rtsIn
  rw [State.onLink_of_usable _ hpart husable]
  simp only [hposted, hxfer, hnew, Bool.false_eq_true, if_false, if_neg (Nat.not_le.mpr hroom)]

theorem request_held {link : Fin 64} {chan : Byte} {tid : W32} {part : Nat} {s : State} (len : W32)
    (hpart : (s.chip.link link.val).part = some part) (husable : (s.chip.link link.val).usable = true)
    (hposted : s.chip.posted part chan.toNat tid.toNat = none) (hxfer : s.chip.xfer part chan.toNat tid.toNat = none)
    (hnew : (s.chip.part part).rts.any (fun r => r.chan = chan.toNat && r.tid = tid.toNat) = false)
    (hroom : (s.chip.part part).rts.length < 1024) :
    Ends (.rtsReceived link chan tid len) s (fun t =>
      (t.chip.part part).rts = (s.chip.part part).rts ++ [⟨link.val, chan.toNat, tid.toNat, len.toNat⟩] ∧
      t.chip.links = s.chip.links ∧ t.mem = s.mem) := by
  have hexec : exec (.rtsReceived link chan tid len) s = .next (s.rtsIn link.val chan.toNat tid.toNat len.toNat) := rfl
  rw [State.rtsIn_of_new len.toNat hpart husable hposted hxfer hnew hroom] at hexec
  refine ⟨_, hexec, ?_⟩
  simp only [State.on_chip, State.on_mem, Chip.part_updPart_same]
  exact ⟨trivial, rfl, trivial⟩

/-- What a grant leaves of the module: clear to send goes out, and the receive remembers link and frame. -/
def Chip.granted (c : Chip) (n q : Nat) (k : Cmd) (l : Nat) : Chip :=
  (c.message l 2 msgCts [(1, k.chan), (4, k.tid), (1, 0)]).updCmd n q k.count (fun k => { k with
    link := some l, cts := true, ctsAt := some c.frame })

theorem State.grant_of_pages {s s1 : State} {n q : Nat} {k : Cmd} (l : Nat) (hop : k.op = opRecv)
    (hpages : State.probePages n (s.chip.ownerN n) (s.chip.qctx n q) true
      (pieces (k.len / 65536 + 2) (addrOf (k.field 0x10 8)) k.len) s = (s1, none)) :
    s.grant n q k l = s1.on (fun c => c.granted n q k l) := by
  have hrecv : ¬ k.op = opReduce := by rw [hop]; decide
  unfold State.grant
  simp only [hpages, hrecv, if_false, Chip.dataVc, decide_false, Bool.false_and, Bool.false_eq_true]
  rfl

theorem State.rtsIn_of_posted {s s1 : State} {l chan tid part n q : Nat} {k : Cmd} (hpart : (s.chip.link l).part = some part)
    (husable : (s.chip.link l).usable = true) (hposted : s.chip.posted part chan tid = some (n, q, k)) (howner : s.chip.ownerN n = part)
    (hop : k.op = opRecv)
    (hpages : State.probePages n part (s.chip.qctx n q) true (pieces (k.len / 65536 + 2) (addrOf (k.field 0x10 8)) k.len)
      (s.on (fun c => c.updCmd n q k.count (fun k => { k with link := some l }))) = (s1, none)) :
    s.rtsIn l chan tid k.len = s1.on (fun c => c.granted n q k l) := by
  unfold State.rtsIn
  rw [State.onLink_of_usable _ hpart husable]
  simp only [hposted]
  unfold State.matchRts
  rw [if_neg (by simp)]
  have hagain : (s.on (fun c => c.updCmd n q k.count (fun k => { k with link := some l }))).on
      (fun c => c.updCmd n q k.count (fun k => { k with link := some l })) =
      s.on (fun c => c.updCmd n q k.count (fun k => { k with link := some l })) :=
    congrArg (fun c : Chip => s.on fun _ => c) (s.chip.updCmd_again n q k.count (fun _ => rfl) (fun _ => rfl))
  rw [hagain]
  exact State.grant_of_pages l hop (howner ▸ hpages)

theorem request_granted {link : Fin 64} {chan : Byte} {tid : W32} {part : Nat} {s s1 : State} {n q : Nat} {k : Cmd} {len : W32}
    (hpart : (s.chip.link link.val).part = some part) (husable : (s.chip.link link.val).usable = true)
    (hposted : s.chip.posted part chan.toNat tid.toNat = some (n, q, k)) (hk : s.chip.cmd n q k.count = some k)
    (howner : s.chip.ownerN n = part) (hop : k.op = opRecv) (hlen : k.len = len.toNat)
    (hpages : State.probePages n part (s.chip.qctx n q) true (pieces (k.len / 65536 + 2) (addrOf (k.field 0x10 8)) k.len)
      (s.on (fun c => c.updCmd n q k.count (fun k => { k with link := some link.val }))) = (s1, none)) :
    Ends (.rtsReceived link chan tid len) s (fun t => t.mem = s1.mem ∧
      t.chip.submitted s1.chip link.val (msgBytes msgCts [(1, k.chan), (4, k.tid), (1, 0)]) ∧
      ((t.chip.cmd n q k.count).map (fun e => (e.cts, e.ctsAt, e.link))) = some (true, some s1.chip.frame, some link.val)) := by
  have hexec : exec (.rtsReceived link chan tid len) s = .next (s.rtsIn link.val chan.toNat tid.toNat len.toNat) := rfl
  rw [← hlen, State.rtsIn_of_posted hpart husable hposted howner hop hpages] at hexec
  have hlinked := Chip.cmd_updCmd_same (f := fun k => { k with link := some link.val }) hk (fun _ h => h)
  have hfound := (Chip.cmd_of_queues (State.probePages_accessed hpages).queues n q k.count).trans hlinked
  have hmessage := Chip.message_queues s1.chip link.val 2 msgCts [(1, k.chan), (4, k.tid), (1, 0)]
  have hgranted : (s1.chip.granted n q k link.val).cmd n q k.count = some _ :=
    Chip.cmd_updCmd_same ((Chip.cmd_of_queues hmessage n q k.count).trans hfound) (fun _ h => h)
  refine ⟨_, hexec, ?_⟩
  simp only [State.on_chip, State.on_mem, hgranted]
  exact ⟨trivial, Chip.submitted_of_links (Chip.message_submitted _ _ _ _ _) rfl, rfl⟩

/-! ### Clear to send, COMPLETE, REFUSE and acknowledgements (R114–R116, R154) -/

@[simp] theorem Chip.nearMiss_queues (c : Chip) (cls : Nat) (atLimit : Bool) : (c.nearMiss cls atLimit).queues = c.queues := by
  cases atLimit <;> rfl

@[simp] theorem Chip.nearMiss_links (c : Chip) (cls : Nat) (atLimit : Bool) : (c.nearMiss cls atLimit).links = c.links := by
  cases atLimit <;> rfl

section
variable {c : Chip} {part l chan tid n q : Nat} {k : Cmd} (hsender : c.sender part l chan tid = some (n, q, k)) (hlive : k.finished = false)
include hsender hlive

theorem Chip.ctsIn_of_live (vc : Nat) (atLimit : Bool) (hcts : k.cts = false) : c.ctsIn part l chan tid vc atLimit =
    ((c.nearMiss waitDma atLimit).updCmd n q k.count (fun k => { k with cts := true, vc := vc })).dispatch n := by
  unfold Chip.ctsIn
  simp only [hsender, hlive, hcts, Bool.false_eq_true, if_false]

theorem Chip.completeIn_of_live : c.completeIn part l chan tid = (c.endCmd n q k.count stOK).dispatch n := by
  unfold Chip.completeIn
  simp only [hsender, hlive, Bool.false_eq_true, if_false]

theorem Chip.refuseIn_for_good : c.refuseIn part l chan tid 1 = (c.endCmd n q k.count stPermission).dispatch n := by
  unfold Chip.refuseIn
  simp only [hsender, hlive, Bool.false_eq_true, if_false, if_true]

theorem Chip.refuseIn_for_now : c.refuseIn part l chan tid 2 = c.updCmd n q k.count (fun k => { k with rtsRetry := true }) := by
  unfold Chip.refuseIn
  simp only [hsender, hlive, Bool.false_eq_true, if_false]
  rfl

theorem Chip.segAckIn_of_open {idx : Nat} (atLimit : Bool) (hopen : idx ∉ k.done) (hidx : idx < k.units) :
    c.segAckIn part l chan tid idx atLimit =
      (((c.nearMiss waitDma atLimit).updRidge n (fun r => { r with
        dma := r.dma.filter (fun d => !(d.2.queue = q && d.2.count = k.count && d.2.unit = idx)) })).unitDone n q k.count idx).dispatch n := by
  have hact : ¬(k.done.contains idx || idx ≥ k.units) = true := by simp [hopen, hidx]
  unfold Chip.segAckIn
  simp only [hsender, hlive, Bool.false_eq_true, if_false, if_neg hact]

end

section
variable {link : Fin 64} {chan : Byte} {tid : W32} {part : Nat} {s : State} {n q : Nat} {k : Cmd}
  (hpart : (s.chip.link link.val).part = some part) (husable : (s.chip.link link.val).usable = true)
  (hsender : s.chip.sender part link.val chan.toNat tid.toNat = some (n, q, k)) (hk : s.chip.cmd n q k.count = some k)
  (hlive : k.finished = false)
include hpart husable hk

/-- A message that ends its SEND with a status. -/
theorem sender_ends {i : Instr} {f : Chip → Nat → Chip} (st : Nat) (hexec : exec i s = .next (s.onLink link.val fun k => s.on fun c => f c k))
    (hends : f s.chip part = (s.chip.endCmd n q k.count st).dispatch n) :
    Ends i s (fun t => t.mem = s.mem ∧ ((t.chip.cmd n q k.count).map (fun e => (e.finished, e.status))) =
      some (true, if st = stOK then k.status else k.status ++ [st])) := by
  rw [State.onLink_of_usable _ hpart husable] at hexec
  obtain ⟨e, he, hended⟩ := Chip.cmd_endCmd st hk
  obtain ⟨e', he', hissued⟩ := (Chip.dispatch_issuedTo _ n).cmd he
  refine ⟨_, hexec, ?_⟩
  simp only [State.on_chip, State.on_mem, hends, he', Option.map_some, hissued.finished, hissued.status, hended.finished, hended.status]
  exact ⟨trivial, trivial⟩

include hsender hlive

theorem clearToSend_opens (vc : Fin 4) (atLimit : Bool) (hcts : k.cts = false) :
    Ends (.ctsReceived link chan tid vc atLimit) s (fun t => t.mem = s.mem ∧
      ((t.chip.cmd n q k.count).map (fun e => (e.cts, e.vc))) = some (true, vc.val) ∧ t.chip.links = s.chip.links) := by
  have hexec : exec (.ctsReceived link chan tid vc atLimit) s = .next (s.onLink link.val (fun k => s.on (fun c =>
      c.ctsIn k link.val chan.toNat tid.toNat vc.val atLimit))) := rfl
  rw [State.onLink_of_usable _ hpart husable] at hexec
  have hfound := (Chip.cmd_of_queues (s.chip.nearMiss_queues waitDma atLimit) n q k.count).trans hk
  obtain ⟨e, he, hissued⟩ := (Chip.dispatch_issuedTo _ n).cmd
    (Chip.cmd_updCmd_same (f := fun k => { k with cts := true, vc := vc.val }) hfound (fun _ h => h))
  refine ⟨_, hexec, ?_⟩
  simp only [State.on_chip, State.on_mem, Chip.ctsIn_of_live hsender hlive vc.val atLimit hcts, he, Option.map_some, hissued.cts, hissued.vc,
    Chip.dispatch_links]
  exact ⟨trivial, trivial, s.chip.nearMiss_links waitDma atLimit⟩

theorem request_refused_for_now : Ends (.refuseReceived link chan tid 2) s (fun t => t.mem = s.mem ∧
    ((t.chip.cmd n q k.count).map (fun e => (e.finished, e.rtsRetry))) = some (false, true)) := by
  have hexec : exec (.refuseReceived link chan tid 2) s = .next (s.onLink link.val (fun k => s.on (fun c =>
      c.refuseIn k link.val chan.toNat tid.toNat 2))) := rfl
  rw [State.onLink_of_usable _ hpart husable] at hexec
  have hretry := Chip.cmd_updCmd_same (f := fun k => { k with rtsRetry := true }) hk (fun _ h => h)
  refine ⟨_, hexec, ?_⟩
  simp only [State.on_chip, State.on_mem, Chip.refuseIn_for_now hsender hlive, hretry, Option.map_some, hlive]
  exact ⟨trivial, trivial⟩

theorem segment_acknowledged {idx : W16} (atLimit : Bool) (hopen : idx.toNat ∉ k.done) (hidx : idx.toNat < k.units) :
    Ends (.segAckReceived link chan tid idx atLimit) s (fun t => t.mem = s.mem ∧ t.chip.links = s.chip.links ∧
      ∃ e, t.chip.cmd n q k.count = some e ∧ idx.toNat ∈ e.done ∧ (k.done.length + 1 = k.units → e.finished = true)) := by
  have hexec : exec (.segAckReceived link chan tid idx atLimit) s = .next (s.onLink link.val (fun k => s.on (fun c =>
      c.segAckIn k link.val chan.toNat tid.toNat idx.toNat atLimit))) := rfl
  rw [State.onLink_of_usable _ hpart husable] at hexec
  set c := (s.chip.nearMiss waitDma atLimit).updRidge n (fun r => { r with
    dma := r.dma.filter (fun d => !(d.2.queue = q && d.2.count = k.count && d.2.unit = idx.toNat)) })
  have hfound : c.cmd n q k.count = some k := (Chip.cmd_of_queues (s.chip.nearMiss_queues waitDma atLimit) n q k.count).trans hk
  obtain ⟨e, he, hdone⟩ := Chip.cmd_unitDone_same (unit := idx.toNat) hfound
  obtain ⟨e', he', hissued⟩ := (Chip.dispatch_issuedTo _ n).cmd he
  refine ⟨_, hexec, ?_⟩
  simp only [State.on_chip, State.on_mem, Chip.segAckIn_of_open hsender hlive atLimit hopen hidx, Chip.dispatch_links, Chip.unitDone_links]
  refine ⟨trivial, s.chip.nearMiss_links waitDma atLimit, e', he', hissued.done ▸ hdone.mem, fun hlast => ?_⟩
  have hlength : e.done.length = k.units := by
    rw [hdone.done, if_neg (by simpa using hopen), List.length_append, List.length_singleton, hlast]
  rw [hissued.finished, hdone.finished, hlength]
  simp

end

/-! ### Segments (R115–R117) -/

theorem Chip.nearMiss_issued (c : Chip) (cls : Nat) (atLimit : Bool) : c.Issued (c.nearMiss cls atLimit) := by
  refine .ite ⟨⟨c.queues, c.ridges, _, rfl⟩, fun _ => rfl⟩ (.refl c)

theorem Chip.countNum_issued (c : Chip) (part i n : Nat) : c.Issued (c.countNum part i n) := by
  have hcounted : ∀ d : Chip, d.Issued (d.count modInst (Obj.CNT_MODULE_NUMERIC + i) n) := fun d =>
    ⟨⟨d.queues, d.ridges, _, rfl⟩, fun _ => rfl⟩
  exact .ite (.refl c) ((Issued.refl c).countPart.trans (hcounted _))

theorem Chip.report_issued (c : Chip) (n q count part : Nat) (st : NumSt) : c.Issued (c.report n q count part st) :=
  (((c.countNum_issued _ _ _).trans (Chip.countNum_issued _ _ _ _)).trans (Chip.countNum_issued _ _ _ _)).updCmd

theorem Cmd.flag_count (k : Cmd) (b : Nat) (on : Bool) : (k.flag b on).count = k.count := by
  cases on <;> rfl

theorem Chip.cmd_report {c : Chip} {n q count : Nat} {k : Cmd} (part : Nat) (st : NumSt) (hk : c.cmd n q count = some k) :
    ∃ e, (c.report n q count part st).cmd n q count = some e := by
  have hfound : (((c.countNum part 0 st.nanInf).countNum part 1 st.malformed).countNum part 2 st.saturated).cmd n q count = some k :=
    (Chip.cmd_of_queues (by simp only [Chip.countNum_queues]) n q count).trans hk
  exact ⟨_, Chip.cmd_updCmd_same hfound fun k h => by simp only [Cmd.flag_count, h]⟩

/-- A transfer once a segment of a TRANSFER_ID is marked. -/
def Xfer.markAt (tid i : Nat) (x : Xfer) : Xfer := if x.tid = tid && !x.marks.contains i then { x with marks := x.marks ++ [i] } else x

theorem Xfer.markAt_tid (tid i : Nat) (x : Xfer) : (x.markAt tid i).tid = x.tid := by
  unfold Xfer.markAt
  split <;> rfl

theorem Xfer.mem_markAt (i : Nat) (x : Xfer) : i ∈ (x.markAt x.tid i).marks := by
  by_cases hi : i ∈ x.marks <;> simp [Xfer.markAt, hi]

theorem Chip.mark_eq (c : Chip) (part chan tid i : Nat) : c.mark part chan tid i = c.updPart part (fun p => { p with
    xfers := Tbl.put p.xfers chan ((Tbl.get p.xfers [] chan).map (Xfer.markAt tid i)) }) := rfl

/-- A marked segment is found in the transfer of its TRANSFER_ID. -/
theorem Chip.xfer_mark {c : Chip} {part chan tid : Nat} {x : Xfer} (i : Nat) (hx : c.xfer part chan tid = some x) :
    (c.mark part chan tid i).xfer part chan tid = some (x.markAt tid i) := by
  have hfind : (fun y : Xfer => decide (y.tid = tid)) ∘ Xfer.markAt tid i = fun y => decide (y.tid = tid) := by
    funext y
    simp [Xfer.markAt_tid]
  rw [Chip.xfer, Chip.mark_eq, Chip.part_updPart_same, Tbl.get_put_same, List.find?_map, hfind]
  exact congrArg (Option.map (Xfer.markAt tid i)) hx

theorem Chip.xfer_of_parts {c d : Chip} (h : d.parts = c.parts) (part chan tid : Nat) : d.xfer part chan tid = c.xfer part chan tid := by
  rw [Chip.xfer, Chip.part, h, Chip.xfer, Chip.part]

/-- What taking a segment leaves of the module before it is marked: its unit's record is gone. -/
def Chip.segmentFreed (c : Chip) (n q part idx : Nat) (k : Cmd) (atLimit : Bool) : Chip :=
  ((c.nearMiss waitDma atLimit).report n q k.count part { saturated := 0 }).updRidge n (fun r => { r with
    dma := r.dma.filter (fun d => !(d.2.queue = q && d.2.count = k.count && d.2.unit = idx && d.2.form = .fabricIn)) })

/-- What taking a segment leaves of the module before its unit is done: it is marked, given out and traced. -/
def Chip.segmentMarked (c : Chip) (n q part chan tid idx : Nat) (k : Cmd) (atLimit : Bool) : Chip :=
  (((c.segmentFreed n q part idx k atLimit).mark part chan tid idx).giveUnit n q k.count idx).trace n q
    { (k.trec trSegRx 2 idx 64 0) with tid := tid }

/-- What taking a segment leaves of the module: its unit is done and it is acknowledged. -/
def Chip.segmentTaken (c : Chip) (n q l part chan tid idx : Nat) (k : Cmd) (atLimit : Bool) : Chip :=
  ((c.segmentMarked n q part chan tid idx k atLimit).unitDone n q k.count idx).ackSeg l chan tid idx

section
variable (c : Chip) (n q l part chan tid idx : Nat) (k : Cmd) (atLimit : Bool)

theorem Chip.segmentFreed_issued : c.Issued (c.segmentFreed n q part idx k atLimit) :=
  Issued.updRidge ((c.nearMiss_issued waitDma atLimit).trans (Chip.report_issued _ n q k.count part { saturated := 0 })) (fun _ => rfl)

theorem Chip.segmentMarked_shape : ∃ qs rs gs, c.segmentMarked n q part chan tid idx k atLimit =
    { c.mark part chan tid idx with queues := qs, ridges := rs, regs := gs } := by
  obtain ⟨_, _, _, hfreed⟩ := (c.segmentFreed_issued n q part idx k atLimit).shape
  have hissued := ((Issued.refl ((c.segmentFreed n q part idx k atLimit).mark part chan tid idx)).giveUnit (n := n) q k.count idx).trace (n := n) q
    { (k.trec trSegRx 2 idx 64 0) with tid := tid }
  obtain ⟨qs, rs, gs, hmarked⟩ := hissued.shape
  refine ⟨qs, rs, gs, hmarked.trans ?_⟩
  rw [hfreed]
  rfl

theorem Chip.segmentTaken_submitted : (c.segmentTaken n q l part chan tid idx k atLimit).submitted c l
    (msgBytes msgSegAck [(1, chan), (4, tid), (2, idx)]) := by
  obtain ⟨_, _, _, hmarked⟩ := c.segmentMarked_shape n q part chan tid idx k atLimit
  refine Chip.submitted_since (Chip.message_submitted _ l _ _ _) ?_
  rw [Chip.unitDone_links, hmarked]
  rfl

variable {c part chan tid}

theorem Chip.xfer_segmentTaken {x : Xfer} (hx : c.xfer part chan tid = some x) :
    (c.segmentTaken n q l part chan tid idx k atLimit).xfer part chan tid = some (x.markAt tid idx) := by
  obtain ⟨_, _, _, hmarked⟩ := c.segmentMarked_shape n q part chan tid idx k atLimit
  rw [← Chip.xfer_mark idx hx]
  refine Chip.xfer_of_parts ?_ part chan tid
  rw [Chip.segmentTaken, Chip.ackSeg, Chip.message_parts, Chip.unitDone_parts, hmarked]

variable (part chan tid) {n q k}

theorem Chip.cmd_segmentTaken (hk : c.cmd n q k.count = some k) :
    ∃ e, (c.segmentTaken n q l part chan tid idx k atLimit).cmd n q k.count = some e ∧ idx ∈ e.done := by
  obtain ⟨e, he⟩ := Chip.cmd_report part { saturated := 0 } ((Chip.cmd_of_queues (c.nearMiss_queues waitDma atLimit) n q k.count).trans hk)
  have hmarked : ((c.segmentFreed n q part idx k atLimit).mark part chan tid idx).cmd n q k.count = some e := he
  obtain ⟨e', he', -⟩ := (((Chip.IssuedTo.refl _).giveUnit (n := n) q k.count idx).trace q
    { (k.trec trSegRx 2 idx 64 0) with tid := tid }).cmd hmarked
  obtain ⟨e'', he'', hdone⟩ := Chip.cmd_unitDone_same (unit := idx) he'
  exact ⟨e'', (Chip.cmd_of_queues (Chip.message_queues _ _ _ _ _) _ _ _).trans he'', hdone.mem⟩

end

section
variable {s : State} {l chan tid part : Nat} (hpart : (s.chip.link l).part = some part) (husable : (s.chip.link l).usable = true)
include hpart husable

theorem State.segIn_of_marked {x : Xfer} {idx : Nat} (data : List Byte) (atLimit : Bool) (hx : s.chip.xfer part chan tid = some x)
    (hmarked : idx ∈ x.marks) :
    s.segIn l chan tid idx data atLimit = s.on (fun c => (c.countPart part Obj.CNT_DUP_SEGMENTS 1).ackSeg l chan tid idx) := by
  unfold State.segIn
  rw [State.onLink_of_usable _ hpart husable]
  simp only [hx, List.contains_iff_mem.mpr hmarked, if_true]

theorem State.segIn_of_new {s1 : State} {n q idx : Nat} {x : Xfer} {k : Cmd} {data : List Byte} (atLimit : Bool)
    (hx : s.chip.xfer part chan tid = some x) (hmarked : idx ∉ x.marks) (hposted : s.chip.posted part chan tid = some (n, q, k))
    (hop : k.op = opRecv) (hidx : idx < k.units) (hdata : data.length = k.segLen idx)
    (hwrite : s.writeOp n part (s.chip.qctx n q) 0 (k.field 0x10 8 + 65536 * idx) data = (s1, none)) :
    s.segIn l chan tid idx data atLimit = (s1.on (fun c => c.segmentTaken n q l part chan tid idx k atLimit)).kick n := by
  have hrecv : ¬ k.op = opReduce := by rw [hop]; decide
  have hfits : ¬(decide (idx ≥ k.units) || data.length != k.segLen idx) = true := by simp [hdata, hidx]
  have hnew : ¬ x.marks.contains idx = true := by simpa using hmarked
  unfold State.segIn
  rw [State.onLink_of_usable _ hpart husable]
  simp only [hx, if_neg hnew, hposted, if_neg hfits, if_neg hrecv, hwrite]
  rfl

end

section
variable {link : Fin 64} {chan : Byte} {tid : W32} {part : Nat} {s : State} {x : Xfer} {idx : W16} {data : List Byte} (atLimit : Bool)
  (hpart : (s.chip.link link.val).part = some part) (husable : (s.chip.link link.val).usable = true)
  (hx : s.chip.xfer part chan.toNat tid.toNat = some x)
include hpart husable hx

theorem segment_taken {s1 : State} {n q : Nat} {k : Cmd} (hmarked : idx.toNat ∉ x.marks)
    (hposted : s.chip.posted part chan.toNat tid.toNat = some (n, q, k)) (hk : s.chip.cmd n q k.count = some k) (hop : k.op = opRecv)
    (hidx : idx.toNat < k.units) (hdata : data.length = k.segLen idx.toNat)
    (hwrite : s.writeOp n part (s.chip.qctx n q) 0 (k.field 0x10 8 + 65536 * idx.toNat) data = (s1, none)) :
    Ends (.segmentReceived link chan tid idx data atLimit) s (fun t => t.mem = s1.mem ∧
      t.chip.submitted s1.chip link.val (msgBytes msgSegAck [(1, chan.toNat), (4, tid.toNat), (2, idx.toNat)]) ∧
      (∃ y, t.chip.xfer part chan.toNat tid.toNat = some y ∧ idx.toNat ∈ y.marks) ∧
      ∃ e, t.chip.cmd n q k.count = some e ∧ idx.toNat ∈ e.done) := by
  have hexec : exec (.segmentReceived link chan tid idx data atLimit) s =
    .next (s.segIn link.val chan.toNat tid.toNat idx.toNat data atLimit) := rfl
  rw [State.segIn_of_new hpart husable atLimit hx hmarked hposted hop hidx hdata hwrite] at hexec
  have haccessed := State.writeOp_accessed hwrite
  have hx1 := (Chip.xfer_of_parts haccessed.parts part chan.toNat tid.toNat).trans hx
  have htid : x.tid = tid.toNat := by simpa using List.find?_some hx
  obtain ⟨e, he, hdone⟩ := Chip.cmd_segmentTaken link.val part chan.toNat tid.toNat idx.toNat atLimit
    ((Chip.cmd_of_queues haccessed.queues n q k.count).trans hk)
  obtain ⟨e', he', hissued⟩ := (Chip.dispatch_issuedTo _ n).cmd he
  refine ⟨_, hexec, ?_⟩
  simp only [State.kick_mem, State.kick_chip, State.on_chip, State.on_mem]
  refine ⟨trivial, Chip.submitted_of_links (Chip.segmentTaken_submitted _ _ _ _ _ _ _ _ _ _) (Chip.dispatch_links _ _),
    ⟨x.markAt tid.toNat idx.toNat, ?_, htid ▸ x.mem_markAt idx.toNat⟩, e', he', hissued.done ▸ hdone⟩
  rw [Chip.xfer_of_parts (Chip.dispatch_parts _ _)]
  exact Chip.xfer_segmentTaken n q link.val idx.toNat k atLimit hx1

theorem segment_repeated (hmarked : idx.toNat ∈ x.marks) (hcounts : part < 8) :
    Ends (.segmentReceived link chan tid idx data atLimit) s (fun t => t.mem = s.mem ∧ t.chip.queues = s.chip.queues ∧
      t.chip.get part Obj.CNT_DUP_SEGMENTS = (s.chip.get part Obj.CNT_DUP_SEGMENTS + 1) % 2 ^ 64 ∧
      t.chip.submitted s.chip link.val (msgBytes msgSegAck [(1, chan.toNat), (4, tid.toNat), (2, idx.toNat)])) := by
  have hexec : exec (.segmentReceived link chan tid idx data atLimit) s =
    .next (s.segIn link.val chan.toNat tid.toNat idx.toNat data atLimit) := rfl
  rw [State.segIn_of_marked hpart husable data atLimit hx hmarked] at hexec
  have hlinks : (s.chip.countPart part Obj.CNT_DUP_SEGMENTS 1).links = s.chip.links := by
    rw [Chip.countPart, if_pos hcounts]
    rfl
  refine ⟨_, hexec, ?_⟩
  simp only [State.on_chip, State.on_mem, Chip.ackSeg, Chip.message_queues, Chip.countPart_queues]
  refine ⟨trivial, trivial, ?_, Chip.submitted_since (Chip.message_submitted _ _ _ _ _) hlinks.symm⟩
  rw [Chip.get_of_regs (Chip.message_regs _ _ _ _ _), Chip.get_countPart_same _ hcounts]

end

/-- Settles O9: each message on a usable link, by what meets it there: a posted receive, a SEND in progress, a marked segment. -/
theorem fabricMessages : Obligations.FabricMessages := by
  unfold Obligations.FabricMessages
  intro link chan tid part s l c ch id hpart husable
  refine ⟨fun len hposted hxfer hnew hroom => request_held len hpart husable hposted hxfer hnew hroom, ?_, ?_,
    fun n q k x idx data atLimit s1 hx hmarked hposted hk hop hidx hdata hwrite =>
      segment_taken atLimit hpart husable hx hmarked hposted hk hop hidx hdata hwrite,
    fun x idx data atLimit hx hmarked hcounts => segment_repeated atLimit hpart husable hx hmarked hcounts⟩
  · intro n q k len s1 hposted hk howner hop hlen hchan htid hpages
    rw [← hchan, ← htid]
    exact request_granted hpart husable hposted hk howner hop hlen hpages
  · intro n q k hsender hk hlive
    refine ⟨fun vc atLimit hcts => clearToSend_opens hpart husable hsender hk hlive vc atLimit hcts, ?_, ?_,
      request_refused_for_now hpart husable hsender hk hlive,
      fun idx atLimit hopen hidx => segment_acknowledged hpart husable hsender hk hlive atLimit hopen hidx⟩
    · exact sender_ends hpart husable hk stOK rfl (Chip.completeIn_of_live hsender hlive)
    · exact sender_ends hpart husable hk stPermission rfl (Chip.refuseIn_for_good hsender hlive)

end Sys2Proof.Machine
end

section
/-! PROOF. The frame boundary against a swap record of a light source that does not exist (R131, R286, R432): the boundary switches the
record's laser off at the object that its numbers name, and that can be the frame of the freeze. -/
namespace Sys2Proof.Machine

/-- A boundary of a phased time unit is the boundary's work on the module. -/
theorem exec_frameBoundary_of_phased (f : FrameData) {s : State} (h : s.chip.time.phased = true) :
    exec (.frameBoundary f) s = .next (s.on fun c => c.boundary f) := by
  change Host.Outcome.next (s.on fun c => if c.time.phased then c.boundary f else c) = _
  rw [State.on, h, if_pos rfl, State.on]

/-- A planned swap whose window is frame 1. There are ten light sources; this record names the source 0x4700. -/
def straySwap : Swap := { src := 0x4700, wave := 2, spare := 0, stage := 1, window := 1 }

/-- A module with a freeze pending for frame 1, and the record beside it. -/
def frozenSoonStraySwap : State := frozenSoon.on fun c => { c with swaps := [straySwap] }

/-- Nothing bounds the source of a record, so the state of its laser can stand at the place of another object. -/
theorem laserKey_straySwap : laserKey straySwap.src straySwap.wave = Obj.FREEZE_TAKEN := by decide

/-- The boundary opens the record's window, no lane being fed by it, and marks its laser as replaced, with 2, after the freeze. -/
theorem boundary_replaces_straySwap_laser :
    (frozenSoonStraySwap.chip.boundary quietFrame).reg (laserKey straySwap.src straySwap.wave) = 2 := by decide +kernel

/-- Refutes O10: a freeze of frame 1 is pending, and FREEZE_TAKEN reads 2 after the boundary that begins frame 1. The state holds a swap
record of a source that is not there; the statement bounds the extent table's changes and leaves such records in. -/
theorem not_frameAndTick : ¬ Obligations.FrameAndTick := by
  unfold Obligations.FrameAndTick
  intro h
  have hphased : frozenSoonStraySwap.chip.time.phased = true := by decide
  obtain ⟨t, hexec, -, -, -, -, hfreeze, -⟩ := (h.1 quietFrame frozenSoonStraySwap).1 hphased (by decide)
  have ht : frozenSoonStraySwap.on (fun c => c.boundary quietFrame) = t :=
    Host.Outcome.next.inj ((exec_frameBoundary_of_phased quietFrame hphased).symm.trans hexec)
  have htaken : t.chip.reg Obj.FREEZE_TAKEN = 1 := (hfreeze (by decide +kernel) (by decide +kernel) (by decide +kernel)).2
  have hreplaced : t.chip.reg Obj.FREEZE_TAKEN = 2 := by
    subst ht
    simpa only [State.on_chip, laserKey_straySwap] using boundary_replaces_straySwap_laser
  omega

end Sys2Proof.Machine
end

section
/-! PROOF. What every command keeps of the state around its chip (R158, R159, R475): the commands that wait, and memory in its canonical
form. One rule for each operation on memory; here physical memory, translation, faults, and access through translation. -/
namespace Sys2Proof.Machine

/-- What every command keeps of the state around its chip: the commands that wait, and the canonical form of memory. -/
structure State.Keeps (s t : State) : Prop where
  pending : t.pending = s.pending
  wf : s.mem.wf = true → t.mem.wf = true

namespace State.Keeps

variable {s0 s : State}

theorem refl (s : State) : s.Keeps s := ⟨rfl, id⟩

theorem on (h : s0.Keeps s) (f : Chip → Chip) : s0.Keeps (s.on f) := ⟨h.pending, h.wf⟩

theorem withChip (h : s0.Keeps s) (c : Chip) : s0.Keeps { s with chip := c } := ⟨h.pending, h.wf⟩

theorem withMem (h : s0.Keeps s) {m : Memory} (hm : s.mem.wf = true → m.wf = true) : s0.Keeps (s.withMem m) :=
  ⟨h.pending, hm ∘ h.wf⟩

theorem write (h : s0.Keeps s) (k a : Nat) (bs : List Byte) : s0.Keeps (s.withMem (s.mem.write k a bs)) :=
  h.withMem (Memory.wf_write _ _ _ _)

theorem ite {p : Prop} [Decidable p] {t u : State} (ht : s0.Keeps t) (hu : s0.Keeps u) : s0.Keeps (if p then t else u) := by
  split <;> assumption

theorem on_if (h : s0.Keeps s) {p : Prop} [Decidable p] (f : Chip → Chip) : s0.Keeps (if p then s.on f else s) := .ite (h.on f) h

theorem on_unless (h : s0.Keeps s) {p : Prop} [Decidable p] (f : Chip → Chip) : s0.Keeps (if p then s else s.on f) := .ite h (h.on f)

theorem pair {α : Type} (h : s0.Keeps s) (a : α) : s0.Keeps (s, a).1 := h

theorem fst_on {α : Type} (h : s0.Keeps s) {f : Chip → Chip} {a : α} : s0.Keeps (s.on f, a).1 := h.on f

/-- A choice between results that carry a state. -/
theorem fst_ite {α : Type} {p : Prop} [Decidable p] {x y : State × α} (hx : s0.Keeps x.1) (hy : s0.Keeps y.1) :
    s0.Keeps (if p then x else y).1 := by
  split <;> assumption

/-- The state that a match takes out of a result. -/
theorem of_eq {α : Type} {x : State × α} {t : State} {a : α} (h : s0.Keeps x.1) (hx : x = (t, a)) : s0.Keeps t := by
  subst hx
  exact h

theorem foldl {α : Type} {f : State → α → State} (h : s0.Keeps s) (hf : ∀ t a, s0.Keeps t → s0.Keeps (f t a)) (l : List α) :
    s0.Keeps (l.foldl f s) :=
  List.foldlRecOn l f h (fun t ht a _ => hf t a ht)

theorem foldl_fst {α β : Type} {f : State × β → α → State × β} {x : State × β} (h : s0.Keeps x.1)
    (hf : ∀ y a, s0.Keeps y.1 → s0.Keeps (f y a).1) (l : List α) : s0.Keeps (l.foldl f x).1 :=
  List.foldlRecOn l f h (fun y hy a _ => hf y a hy)

/-! ### Physical memory -/

theorem readPhys (h : s0.Keeps s) (k pa n : Nat) : s0.Keeps (s.readPhys k pa n).1 := by
  unfold State.readPhys
  grind [withChip]

theorem writePhys (h : s0.Keeps s) (k pa : Nat) (bs : List Byte) : s0.Keeps (s.writePhys k pa bs).1 := by
  rcases haccess : s.chip.access k pa with ⟨c, e⟩
  have hc := h.withChip c
  simp only [State.writePhys, haccess]
  cases e with
  | some st => exact hc
  | none => exact .fst_ite hc (hc.write _ _ _)

theorem setEntry (h : s0.Keeps s) (k ea v : Nat) : s0.Keeps (s.setEntry k ea v) := h.write _ _ _

/-! ### Translation (R191–R193): a walk sets the accessed and dirty bits of its leaf -/

theorem walkFrom (h : s0.Keeps s) (n part ctx va : Nat) (write : Bool) (fuel table : Nat) :
    s0.Keeps (State.walkFrom n part ctx va write fuel table s).1 := by
  induction fuel generalizing s table with
  | zero => exact h
  | succ fuel ih =>
    unfold State.walkFrom
    refine .fst_ite h ?_
    have hcounted := h.on (fun c => c.count modInst (Obj.CNT_WALK_READS + n) 1)
    dsimp only
    split
    · exact ih h _
    split
    · exact hcounted
    · exact hcounted.fst_on
    · exact .fst_ite hcounted (.fst_ite hcounted (.fst_ite (ih (hcounted.on _) _) (.fst_ite hcounted (.fst_ite hcounted
        (.fst_ite hcounted (.pair ((Keeps.ite hcounted (hcounted.write _ _ _)).on _) _))))))

theorem walk (h : s0.Keeps s) (n part ctx va : Nat) (write : Bool) : s0.Keeps (s.walk n part ctx va write).1 :=
  .fst_ite h (h.walkFrom ..)

theorem translate (h : s0.Keeps s) (n part ctx va : Nat) (write : Bool) : s0.Keeps (s.translate n part ctx va write).1 := by
  unfold State.translate
  split
  · exact .fst_ite (h.walk ..) h
  · exact (h.on _).walk ..

/-! ### Steward records and faults (R208, R209, R212) -/

theorem ringWrite (h : s0.Keeps s) (k : Nat) (bs : List Byte) : s0.Keeps (s.ringWrite k bs) := by
  unfold State.ringWrite
  exact (((h.writePhys ..).on _).on _).on _

theorem ringDrain (h : s0.Keeps s) (k fuel : Nat) : s0.Keeps (State.ringDrain k fuel s) := by
  induction fuel generalizing s with
  | zero => exact h
  | succ fuel ih =>
    unfold State.ringDrain
    refine .ite h ?_
    split
    · exact h.on _
    · exact ih ((h.on _).ringWrite _ _)

theorem post (h : s0.Keeps s) (k : Nat) (r : Rec) : s0.Keeps (s.post k r) :=
  .ite (h.ringWrite _ _) ((h.on_unless _).on _)

theorem hostFault (h : s0.Keeps s) (i : FaultInfo) (w : List Waiter) : s0.Keeps (s.hostFault i w) := by
  unfold State.hostFault
  split
  · exact (h.on _).on _
  · exact (((((h.withChip _).on _).on _).post _ _).on _).on _

theorem fatalFault (h : s0.Keeps s) (i : FaultInfo) (w : Waiter) : s0.Keeps (s.fatalFault i w) := by
  unfold State.fatalFault
  exact (((h.withChip _).post _ _).on_if _).on _

theorem enterFault (h : s0.Keeps s) (i : FaultInfo) (w : List Waiter) : s0.Keeps (s.enterFault i w) :=
  .ite (h.on _) (h.hostFault _ _)

theorem fault (h : s0.Keeps s) (i : FaultInfo) (w : Waiter) : s0.Keeps (s.fault i w) :=
  .ite (h.fatalFault _ _) (.ite (h.on _) (h.enterFault _ _))

theorem fail (h : s0.Keeps s) (f : AccFail) (w : Waiter) : s0.Keeps (s.fail f w) := by
  unfold State.fail
  split
  · exact h.fault _ _
  · exact h.on _

/-! ### Access through translation -/

theorem readVirtGo (h : s0.Keeps s) (n part ctx : Nat) (l : List (Nat × Nat)) : s0.Keeps (State.readVirtGo n part ctx l s).1 := by
  induction l generalizing s with
  | nil => exact h
  | cons p l ih =>
    unfold State.readVirtGo
    grind [on, translate, readPhys]

theorem readVirt (h : s0.Keeps s) (n part ctx va len : Nat) : s0.Keeps (s.readVirt n part ctx va len).1 := h.readVirtGo ..

theorem writeVirtGo (h : s0.Keeps s) (n part ctx : Nat) (l : List (Nat × Nat)) (bs : List Byte) :
    s0.Keeps (State.writeVirtGo n part ctx l bs s).1 := by
  induction l generalizing s bs with
  | nil => exact h
  | cons p l ih =>
    unfold State.writeVirtGo
    grind [on, translate, writePhys]

theorem writeVirt (h : s0.Keeps s) (n part ctx va : Nat) (bs : List Byte) : s0.Keeps (s.writeVirt n part ctx va bs).1 :=
  h.writeVirtGo ..

theorem charge (h : s0.Keeps s) (s1 : State) (n q : Nat) : s0.Keeps (s1.charge n q s) := by
  unfold State.charge
  exact h.on _

theorem kick (h : s0.Keeps s) (n : Nat) : s0.Keeps (s.kick n) := h.on _

theorem readOp (h : s0.Keeps s) (n part ctx p a len : Nat) : s0.Keeps (s.readOp n part ctx p a len).1 := by
  unfold State.readOp
  grind [on, readVirt]

theorem writeOp (h : s0.Keeps s) (n part ctx p a : Nat) (bs : List Byte) : s0.Keeps (s.writeOp n part ctx p a bs).1 := by
  unfold State.writeOp
  grind [on, writeVirt]

theorem writeDma (h : s0.Keeps s) (n part ctx a : Nat) (bs : List Byte) : s0.Keeps (s.writeDma n part ctx a bs).1 :=
  .fst_ite (h.fst_on) (h.writeOp ..)

theorem readRows (h : s0.Keeps s) (n part ctx p a stride len cnt : Nat) :
    s0.Keeps (State.readRows n part ctx p a stride len cnt s).1 := by
  induction cnt generalizing s a with
  | zero => exact h
  | succ cnt ih =>
    unfold State.readRows
    grind [readOp]

/-! ### Descriptors and records (R89, R126) -/

theorem fetch (h : s0.Keeps s) (n q : Nat) : s0.Keeps (s.fetch n q) := by
  unfold State.fetch
  grind [on, kick, fail, readVirt]

theorem writeRecord (h : s0.Keeps s) (n q : Nat) : s0.Keeps (s.writeRecord n q) := by
  simp only [State.writeRecord]
  split
  · split
    · exact h
    refine .ite h ?_
    split
    next hw => exact ((h.writeVirt ..).of_eq hw).fail _ _
    next hw => exact ((((((h.writeVirt ..).of_eq hw).on _).on _).on_if _).on _).kick n
  · exact h

end State.Keeps
end Sys2Proof.Machine
end

section
/-! PROOF. The same of the units of compute work (R102–R112): tiles, vector programs and conversions. -/
namespace Sys2Proof.Machine
namespace State.Keeps

variable {s0 s : State}

/-! ### Units on Spurs (R102–R112) -/

theorem probeGo (h : s0.Keeps s) (n part ctx : Nat) (write : Bool) (l : List (Nat × Nat)) :
    s0.Keeps (State.probeGo n part ctx write l s).1 := by
  induction l generalizing s with
  | nil => exact h
  | cons p l ih =>
    unfold State.probeGo
    grind [translate]

theorem probe (h : s0.Keeps s) (n part ctx a len : Nat) (write : Bool) : s0.Keeps (s.probe n part ctx a len write).1 :=
  .fst_ite (h.probeGo ..) h

theorem probeRows (h : s0.Keeps s) (n part ctx len stride : Nat) (write : Bool) (cnt a : Nat) :
    s0.Keeps (State.probeRows n part ctx len stride write cnt a s).1 := by
  induction cnt generalizing s a with
  | zero => exact h
  | succ cnt ih =>
    unfold State.probeRows
    grind [probe]

theorem writePieces (h : s0.Keeps s) (n part ctx p a : Nat) (l : List (Nat × List Byte)) :
    s0.Keeps (State.writePieces n part ctx p a l s).1 := by
  induction l generalizing s with
  | nil => exact h
  | cons x l ih =>
    unfold State.writePieces
    grind [writeOp]

theorem tileRows (h : s0.Keeps s) (n p : Nat) (w : Work) (isB : Bool) : s0.Keeps (s.tileRows n p w isB).1 := by
  unfold State.tileRows
  exact h.readRows ..

theorem probeDest (h : s0.Keeps s) (n : Nat) (w : Work) : s0.Keeps (s.probeDest n w).1 := by
  unfold State.probeDest
  exact h.probeRows ..

theorem loadTile (h : s0.Keeps s) (n p : Nat) (w : Work) : s0.Keeps (s.loadTile n p w) := by
  have hstage : ∀ {s1 : State} (q : Prop) [Decidable q] (isB : Bool), s0.Keeps s1 →
      s0.Keeps (if q then (s1, (Except.ok [] : Except AccFail (List (List Byte)))) else s1.tileRows n p w isB).1 :=
    fun _ _ _ h1 => .fst_ite h1 (h1.tileRows ..)
  simp only [State.loadTile]
  split
  next ha => exact ((hstage _ _ h).of_eq ha).fail _ _
  next ha =>
    have ha := (hstage _ _ h).of_eq ha
    split
    next hb => exact ((hstage _ _ ha).of_eq hb).fail _ _
    next hb =>
      have hb := (hstage _ _ ha).of_eq hb
      split
      next hd => exact ((hb.probeDest ..).of_eq hd).fail _ _
      next hd => exact ((hb.probeDest ..).of_eq hd).on _

theorem priorRows (h : s0.Keeps s) (n p : Nat) (w : Work) : s0.Keeps (s.priorRows n p w).1 := by
  unfold State.priorRows
  grind [readRows]

theorem runTile (h : s0.Keeps s) (n p : Nat) (w : Work) (prior : List (List W32)) : s0.Keeps (s.runTile n p w prior) := by
  have hrows : ∀ {s1 : State} (q : Prop) [Decidable q] (isB : Bool) (st : List (List Byte)), s0.Keeps s1 →
      s0.Keeps (if q then s1.tileRows n p w isB else (s1, (Except.ok st : Except AccFail (List (List Byte))))).1 :=
    fun _ _ _ _ h1 => .fst_ite (h1.tileRows ..) h1
  simp only [State.runTile]
  split
  next ha => exact ((hrows _ _ _ h).of_eq ha).fail _ _
  next ha =>
    have ha := (hrows _ _ _ h).of_eq ha
    split
    next hb => exact ((hrows _ _ _ ha).of_eq hb).fail _ _
    next hb => exact ((((hrows _ _ _ ha).of_eq hb).on _).on _).on _

theorem writeTile (h : s0.Keeps s) (n p : Nat) (w : Work) (l : List Nat) (st : NumSt) :
    s0.Keeps (State.writeTile n p w l st s).1 := by
  induction l generalizing s st with
  | nil => exact h
  | cons i l ih =>
    simp only [State.writeTile]
    split
    next hw => exact (h.writePieces ..).of_eq hw
    next hw => exact ih ((h.writePieces ..).of_eq hw) _

theorem writeback (h : s0.Keeps s) (n p : Nat) (w : Work) : s0.Keeps (s.writeback n p w) := by
  simp only [State.writeback]
  split
  next hd => exact ((h.probeDest ..).of_eq hd).fail _ _
  next hd =>
    have hd := (h.probeDest ..).of_eq hd
    split
    · exact ((((hd.writeTile ..).on _).on _).on _).fail _ _
    · exact ((((hd.writeTile ..).on _).on _).on _).on _

theorem probeVec (h : s0.Keeps s) (n : Nat) (w : Work) (l : List Nat) : s0.Keeps (State.probeVec n w l s).1 := by
  induction l generalizing s with
  | nil => exact h
  | cons i l ih =>
    unfold State.probeVec
    refine .fst_ite (ih h) ?_
    split
    next hp => exact (h.probeRows ..).of_eq hp
    next hp => exact ih ((h.probeRows ..).of_eq hp)

theorem loadVec (h : s0.Keeps s) (n p : Nat) (w : Work) : s0.Keeps (s.loadVec n p w) := by
  have hready : ∀ {s1 : State} (w : Work), s0.Keeps s1 → s0.Keeps (match State.probeVec n w [0, 1, 2, 3] s1 with
      | (s, some f) => s.fail f (w.waiter n)
      | (s, none) => s.on (fun c => c.updUnitOf n p (fun x => { x with phase := 1 }))) := by
    intro s1 w h1
    split
    next hp => exact ((h1.probeVec ..).of_eq hp).fail _ _
    next hp => exact ((h1.probeVec ..).of_eq hp).on _
  unfold State.loadVec
  refine .ite (hready w h) ?_
  split
  next hr => exact ((h.readOp ..).of_eq hr).fail _ _
  next hr =>
    have hr := (h.readOp ..).of_eq hr
    exact .ite (hr.on _) (hready _ (hr.on _))

theorem vecStep (h : s0.Keeps s) (n p : Nat) (w : Work) (row : Nat) (v : VecSt) (i : Nat) :
    s0.Keeps (s.vecStep n p w row v i).1 := by
  unfold State.vecStep
  refine .fst_ite ?_ (.fst_ite (h.writePieces ..) (.fst_ite h h))
  split
  next hr => exact (h.readOp ..).of_eq hr
  next hr => exact (h.readOp ..).of_eq hr

theorem vecRow (h : s0.Keeps s) (n p : Nat) (w : Work) (row : Nat) (l : List Nat) (v : VecSt) :
    s0.Keeps (State.vecRow n p w row l v s).1 := by
  induction l generalizing s v with
  | nil => exact h
  | cons i l ih =>
    unfold State.vecRow
    grind [vecStep]

theorem vecRun (h : s0.Keeps s) (n p : Nat) (w : Work) (l : List Nat) (v : VecSt) : s0.Keeps (State.vecRun n p w l v s).1 := by
  induction l generalizing s v with
  | nil => exact h
  | cons r l ih =>
    unfold State.vecRun
    grind [vecRow]

theorem ranVec (h : s0.Keeps s) (n p : Nat) (w : Work) (f : Option AccFail) (v : VecSt) : s0.Keeps (s.ranVec n p w f v) := by
  have hreported := (h.on (fun c => c.report n w.x.queue w.x.count w.part v.num)).on
    (fun c => c.updSpur n p (fun sp => { sp with vregs := v.regs, gens := v.num.gens }))
  unfold State.ranVec
  split
  · exact hreported.fail _ _
  · exact hreported.on _

theorem runVec (h : s0.Keeps s) (n p : Nat) (w : Work) : s0.Keeps (s.runVec n p w) := (h.vecRun ..).ranVec ..

theorem probeConv (h : s0.Keeps s) (n : Nat) (w : Work) (l : List (Nat × Nat × Nat)) :
    s0.Keeps (State.probeConv n w l s).1 := by
  induction l generalizing s with
  | nil => exact h
  | cons x l ih =>
    unfold State.probeConv
    grind [probe]

theorem convRun (h : s0.Keeps s) (n p : Nat) (w : Work) (l : List (Nat × Nat × Nat)) (v : VecSt) :
    s0.Keeps (State.convRun n p w l v s).1 := by
  induction l generalizing s v with
  | nil => exact h
  | cons x l ih =>
    simp only [State.convRun]
    split
    next hr => exact (h.readOp ..).of_eq hr
    next hr =>
      have hr := (h.readOp ..).of_eq hr
      split
      next hw => exact (hr.writeOp ..).of_eq hw
      next hw => exact ih ((hr.writeOp ..).of_eq hw) _

theorem runConv (h : s0.Keeps s) (n p : Nat) (w : Work) : s0.Keeps (s.runConv n p w) := (h.convRun ..).ranVec ..

theorem runOn (h : s0.Keeps s) (ridge : Fin 16) (spur : Fin 17) (op phase : Nat) {f : Work → State} (hf : ∀ w, s0.Keeps (f w)) :
    s0.Keeps (s.runOn ridge spur op phase f) := by
  unfold State.runOn
  split
  · exact .ite ((hf _).charge ..) h
  · exact h

end State.Keeps
end Sys2Proof.Machine
end

section
/-! PROOF. The same of the RoCE queue pairs, of trace and watch lines, and of the lines that a DMA unit moves (R110, R111, R330–R344). -/
namespace Sys2Proof.Machine
namespace State.Keeps

variable {s0 s : State}

/-! ### RoCE (R340–R346) -/

theorem rwalk (h : s0.Keeps s) (k ctx va : Nat) (write : Bool) : s0.Keeps (s.rwalk k ctx va write).1 := by
  unfold State.rwalk
  exact .pair ((h.walk 16 k ctx va write).withChip _) _

theorem rpages (h : s0.Keeps s) (k ctx : Nat) (write : Bool) (l : List (Nat × Nat)) :
    s0.Keeps (State.rpages k ctx write l s).1 := by
  induction l generalizing s with
  | nil => exact h
  | cons p l ih =>
    unfold State.rpages
    grind [on, rwalk]

theorem rrange (h : s0.Keeps s) (k ctx va n : Nat) (write : Bool) : s0.Keeps (s.rrange k ctx va n write).1 := h.rpages ..

theorem rreads (h : s0.Keeps s) (k : Nat) (l : List (Nat × Nat)) : s0.Keeps (State.rreads k l s).1 := by
  induction l generalizing s with
  | nil => exact h
  | cons p l ih =>
    unfold State.rreads
    split
    next hr => exact (h.readPhys ..).of_eq hr
    next hr =>
      have hrest := ih ((h.readPhys ..).of_eq hr)
      split
      next he => exact hrest.of_eq he
      next => exact hrest

theorem rread (h : s0.Keeps s) (k ctx va n : Nat) : s0.Keeps (s.rread k ctx va n).1 := by
  unfold State.rread
  grind [rrange, rreads]

theorem rwrites (h : s0.Keeps s) (k : Nat) (l : List (Nat × Nat)) (bs : List Byte) : s0.Keeps (State.rwrites k l bs s).1 := by
  induction l generalizing s bs with
  | nil => exact h
  | cons p l ih =>
    unfold State.rwrites
    grind [writePhys]

theorem rwrite (h : s0.Keeps s) (k ctx va : Nat) (bs : List Byte) : s0.Keeps (s.rwrite k ctx va bs).1 := by
  unfold State.rwrite
  grind [rrange, rwrites]

theorem invalid (h : s0.Keeps s) (q psn : Nat) : s0.Keeps (s.invalid q psn).1 := by
  unfold State.invalid
  exact h.fst_on

theorem sendInto (h : s0.Keeps s) (q : Nat) (p : Pkt) (m : Msg) (first : Bool) : s0.Keeps (s.sendInto q p m first).1 := by
  simp only [State.sendInto]
  refine .fst_ite (h.invalid ..) ?_
  split
  next hw => exact (h.rwrite ..).of_eq hw
  next hw => exact ((h.rwrite ..).of_eq hw).fst_on
  next hw => exact ((h.rwrite ..).of_eq hw).fst_on

theorem sendIn (h : s0.Keeps s) (q : Nat) (p : Pkt) : s0.Keeps (s.sendIn q p).1 := by
  simp only [State.sendIn]
  refine .fst_ite (h.invalid ..) (.fst_ite (.fst_ite (h.invalid ..) (.fst_ite (h.fst_on) ?_)) ?_)
  · split
    next hr => exact (h.rread ..).of_eq hr
    next hr => exact ((h.rread ..).of_eq hr).fst_on
    next hr => exact ((h.rread ..).of_eq hr).sendInto ..
  · split
    · exact h.sendInto ..
    · exact h.invalid ..

theorem writeInto (h : s0.Keeps s) (q : Nat) (p : Pkt) (m : Msg) : s0.Keeps (s.writeInto q p m).1 := by
  simp only [State.writeInto]
  refine .fst_ite (h.invalid ..) (.fst_ite (h.fst_on) (.fst_ite (.pair ((h.on _).on _) _) ?_))
  split
  next hw => exact (h.rwrite ..).of_eq hw
  next hw => exact ((h.rwrite ..).of_eq hw).fst_on
  next hw => exact ((h.rwrite ..).of_eq hw).fst_on

theorem writeIn (h : s0.Keeps s) (q : Nat) (p : Pkt) : s0.Keeps (s.writeIn q p).1 := by
  unfold State.writeIn
  grind [on, invalid, writeInto]

theorem readIn (h : s0.Keeps s) (q : Nat) (p : Pkt) (again : Bool) : s0.Keeps (s.readIn q p again).1 := by
  unfold State.readIn
  grind [on, rread]

theorem responseIn (h : s0.Keeps s) (q : Nat) (p : Pkt) : s0.Keeps (s.responseIn q p).1 := by
  unfold State.responseIn
  grind [on, rwrite]

theorem packet (h : s0.Keeps s) (q : Nat) (p : Pkt) : s0.Keeps (s.packet q p).1 := by
  simp only [State.packet]
  refine .fst_ite (h.responseIn ..) (.fst_ite (.fst_ite (h.readIn ..) (h.fst_on))
    (.fst_ite (.pair (h.on_unless _) _) ?_))
  split
  · exact h.sendIn ..
  · exact h.writeIn ..
  · exact h.readIn ..

theorem qpStep (h : s0.Keeps s) (q : Nat) : s0.Keeps (s.qpStep q).1 := by
  simp only [State.qpStep]
  refine .fst_ite h ?_
  split
  · split
    next hp => exact ((h.packet ..).of_eq hp).fst_on
    next hp => exact ((h.packet ..).of_eq hp).fst_on
  split
  · split
    next hw => exact ((h.rwrite ..).of_eq hw).fst_on
    next hw => exact ((h.rwrite ..).of_eq hw).fst_on
    next hw => exact ((h.rwrite ..).of_eq hw).fst_on
  · exact h
  split
  · refine .fst_ite h (.fst_ite (h.fst_on) ?_)
    split
    next hr => exact ((h.rread ..).of_eq hr).fst_on
    next hr => exact ((h.rread ..).of_eq hr).fst_on
    next hr => exact ((h.rread ..).of_eq hr).fst_on
  · refine .fst_ite h ?_
    split
    next hr => exact ((h.rread ..).of_eq hr).fst_on
    next hr => exact ((h.rread ..).of_eq hr).fst_on
    next hr => exact ((h.rread ..).of_eq hr).fst_on

theorem qpRun (h : s0.Keeps s) (q fuel : Nat) : s0.Keeps (State.qpRun q fuel s) := by
  induction fuel generalizing s with
  | zero => exact h
  | succ fuel ih =>
    unfold State.qpRun
    grind [qpStep]

theorem qpDeny (h : s0.Keeps s) (q : Nat) : s0.Keeps (s.qpDeny q) := by
  unfold State.qpDeny
  grind [on]

theorem qpServe (h : s0.Keeps s) (fuel : Nat) : s0.Keeps (State.qpServe fuel s) := by
  induction fuel generalizing s with
  | zero => exact h
  | succ fuel ih =>
    unfold State.qpServe
    split
    · exact h
    · exact ih ((Keeps.ite ((h.on _).qpDeny _) (h.on _)).qpRun _ _)

theorem roceRun (h : s0.Keeps s) : s0.Keeps s.roceRun := h.qpServe _

theorem qpKick (h : s0.Keeps s) (q : Nat) : s0.Keeps (s.qpKick q) := (h.on _).roceRun

theorem receive (h : s0.Keeps s) (q : Nat) (p : Pkt) (ce : Bool) : s0.Keeps (s.receive q p ce) :=
  .ite h ((h.on _).qpKick q)

theorem qpCount (h : s0.Keeps s) (q code count : Nat) : s0.Keeps (s.qpCount q code count) := .ite h (h.on _).roceRun

/-! ### Traces, watches and copies (R110, R111, R124, R436–R441) -/

theorem traceLines (h : s0.Keeps s) (n k fuel : Nat) : s0.Keeps (State.traceLines n k fuel s) := by
  induction fuel generalizing s with
  | zero => exact h
  | succ fuel ih =>
    simp only [State.traceLines]
    refine .ite h (ih ?_)
    split
    · exact ((h.on _).writePhys ..).on _
    · exact ((h.on _).writePhys ..).on _

theorem traceFlush (h : s0.Keeps s) (n : Nat) (drain : Bool) : s0.Keeps (s.traceFlush n drain) := by
  unfold State.traceFlush
  split
  · exact h
  · exact (h.traceLines ..).on_if _

theorem watchLine (h : s0.Keeps s) (n part ctx slot : Nat) (d : DmaUnit) (k : Cmd) :
    s0.Keeps (s.watchLine n part ctx slot d k).1 := by
  unfold State.watchLine
  grind [on, readOp]

theorem watchLines (h : s0.Keeps s) (n slot fuel : Nat) : s0.Keeps (State.watchLines n slot fuel s) := by
  induction fuel generalizing s with
  | zero => exact h
  | succ fuel ih =>
    simp only [State.watchLines]
    split
    · split
      · exact h
      refine .ite h ?_
      split
      next hl => exact (((h.watchLine ..).of_eq hl).charge ..).fail _ _
      next hl => exact ih (((h.watchLine ..).of_eq hl).charge ..)
    · exact h

theorem areaWrite (h : s0.Keeps s) (k fuel pa : Nat) (bs : List Byte) : s0.Keeps (State.areaWrite k fuel pa bs s).1 := by
  induction fuel generalizing s pa bs with
  | zero => exact h
  | succ fuel ih =>
    unfold State.areaWrite
    grind [writePhys]

theorem watchEnd (h : s0.Keeps s) (n q : Nat) (k : Cmd) : s0.Keeps (s.watchEnd n q k) := by
  simp only [State.watchEnd]
  split
  · exact h
  split
  · exact h.on _
  · have hpad : ∀ {s1 : State} (q : Prop) [Decidable q] (k fuel pa : Nat) (bs : List Byte), s0.Keeps s1 →
        s0.Keeps (if q then s1 else (State.areaWrite k fuel pa bs s1).1) := fun _ _ _ _ _ _ h1 => .ite h1 (h1.areaWrite ..)
    exact .ite ((hpad _ _ _ _ _ ((h.areaWrite ..).areaWrite ..)).on _) ((hpad _ _ _ _ _ ((h.areaWrite ..).areaWrite ..)).on _)

theorem watchUnit (h : s0.Keeps s) (n : Nat) (d : DmaUnit) : s0.Keeps (s.watchUnit n d) := by
  unfold State.watchUnit
  split
  · exact .ite (h.watchEnd ..) h
  · exact h

theorem rowIdx (h : s0.Keeps s) (n part ctx : Nat) (k : Cmd) (row : Nat) : s0.Keeps (s.rowIdx n part ctx k row).1 := by
  unfold State.rowIdx
  grind [readOp]

theorem moveLine (h : s0.Keeps s) (n part ctx slot : Nat) (d : DmaUnit) (k : Cmd) :
    s0.Keeps (s.moveLine n part ctx slot d k).1 := by
  have hread : ∀ {s1 : State} (o : Option Nat), s0.Keeps s1 → s0.Keeps (match o with
      | some a => s1.readOp n part ctx 0 a 128
      | none => (s1, .ok (zeros 128))).1 := by
    intro s1 o h1
    cases o
    · exact h1
    · exact h1.readOp ..
  have hwritten : ∀ {s1 : State} (o : Option Nat) (bs : List Byte), s0.Keeps s1 → s0.Keeps (match o with
      | some a => s1.writeDma n part ctx a bs
      | none => (s1, none)).1 := by
    intro s1 o bs h1
    cases o
    · exact h1
    · exact h1.writeDma ..
  unfold State.moveLine
  split
  split
  next hi => exact (h.rowIdx ..).of_eq hi
  next hi =>
    have hi := (h.rowIdx ..).of_eq hi
    dsimp only
    split
    · exact hread _ hi
    split
    · exact hwritten _ _ (hread _ hi)
    · exact .fst_on (.on_if (hwritten _ _ (hread _ hi)) _)

theorem moveLines (h : s0.Keeps s) (n slot op fuel : Nat) : s0.Keeps (State.moveLines n slot op fuel s) := by
  induction fuel generalizing s with
  | zero => exact h
  | succ fuel ih =>
    simp only [State.moveLines]
    split
    · split
      · exact h
      refine .ite h ?_
      split
      next hl => exact (((h.moveLine ..).of_eq hl).charge ..).fail _ _
      next hl => exact ih (((h.moveLine ..).of_eq hl).charge ..)
    · exact h

end State.Keeps
end Sys2Proof.Machine
end

section
/-! PROOF. The same of the fabric and its links, the stewards, memory errors and resets (R114–R117, R168–R176, R206–R211, R404–R411). -/
namespace Sys2Proof.Machine

theorem Tbl.canon_foldl_setD {α : Type} [DecidableEq α] (d v : α) (key : Nat → Nat) (l : List Nat) (t : Tbl α)
    (h : Tbl.canon d t = true) : Tbl.canon d (l.foldl (fun t i => Tbl.setD t d (key i) v) t) = true := by
  induction l generalizing t with
  | nil => exact h
  | cons i l ih => exact ih _ (Tbl.canon_setD t d (key i) v h)

theorem Memory.wf_clear (m : Memory) (k a n : Nat) (h : m.wf = true) : (m.clear k a n).wf = true := by
  have hz := Memory.wf_zero m a n h
  rw [Memory.wf_iff] at hz ⊢
  exact ⟨hz.1, Tbl.canon_foldl_setD 0 k _ _ _ hz.2⟩

namespace State.Keeps

variable {s0 s : State}

/-! ### Fabric transfers and the flits that bring them (R114–R117, R242, R243, R247) -/

theorem sendSegment (h : s0.Keeps s) (n q : Nat) (k : Cmd) (slot : Nat) (d : DmaUnit) (l : Nat) :
    s0.Keeps (s.sendSegment n q k slot d l) := by
  unfold State.sendSegment
  grind [on, fail, readOp]

theorem doSend (h : s0.Keeps s) (n q : Nat) : s0.Keeps (s.doSend n q) := by
  simp only [State.doSend]
  split
  · split
    · exact .ite (h.sendSegment ..) h
    · exact h
  · split
    · exact h.on _
    · exact h

theorem probePages (h : s0.Keeps s) (n part ctx : Nat) (write : Bool) (l : List (Nat × Nat)) :
    s0.Keeps (State.probePages n part ctx write l s).1 := by
  induction l generalizing s with
  | nil => exact h
  | cons p l ih =>
    unfold State.probePages
    grind [translate]

/-- A fabric unit's fault holds it in a record, where one is free (R203). -/
theorem holdUnit (h : s0.Keeps s) (n : Nat) (d : DmaUnit) (i : FaultInfo) : s0.Keeps (match (s.chip.ridge n).freeSlot with
    | none => s
    | some slot => (s.on (fun c => c.updRidge n (fun r => { r with dma := Tbl.put r.dma slot d }))).fault i (.dma n slot)) := by
  split
  · exact h
  · exact (h.on _).fault _ _

theorem grant (h : s0.Keeps s) (n q : Nat) (k : Cmd) (l : Nat) : s0.Keeps (s.grant n q k l) := by
  simp only [State.grant]
  split
  next hd => exact ((h.probePages ..).of_eq hd).holdUnit ..
  next hd =>
    have hd := (h.probePages ..).of_eq hd
    split
    next ho => exact ((fst_ite (hd.probePages ..) (hd.pair none)).of_eq ho).holdUnit ..
    next ho => exact ((fst_ite (hd.probePages ..) (hd.pair none)).of_eq ho).on _

theorem matchRts (h : s0.Keeps s) (n q : Nat) (k : Cmd) (l len : Nat) : s0.Keeps (s.matchRts n q k l len) :=
  .ite (h.on _) ((h.on _).grant ..)

theorem post1 (h : s0.Keeps s) (n q : Nat) (k : Cmd) : s0.Keeps (s.post1 n q k) := by
  simp only [State.post1]
  refine .ite (h.on _) ?_
  split
  · split
    · exact .ite ((((h.on _).on _).on _).grant ..) (((h.on _).on _).on _)
    · exact ((h.on _).on _).on _
  · exact .ite (((((h.on _).on _).on _).on _).on _) (((((h.on _).on _).on _).on _).matchRts ..)

theorem doRecv (h : s0.Keeps s) (n q op : Nat) : s0.Keeps (s.doRecv n q op) := by
  simp only [State.doRecv]
  split
  · split
    · exact (h.on _).grant ..
    · exact h.on _
  · split
    · exact h.post1 ..
    · exact h

theorem onLink (h : s0.Keeps s) (l : Nat) {f : Nat → State} (hf : ∀ k, s0.Keeps (f k)) : s0.Keeps (s.onLink l f) := by
  unfold State.onLink
  split
  · exact .ite (hf _) h
  · exact h

theorem rtsIn (h : s0.Keeps s) (l chan tid len : Nat) : s0.Keeps (s.rtsIn l chan tid len) := by
  unfold State.rtsIn
  refine h.onLink l (fun part => ?_)
  dsimp only
  split
  · exact (h.on _).matchRts ..
  · exact .ite (h.on _) (.ite (h.on _) (.ite (h.on _) (h.on _)))

theorem segIn (h : s0.Keeps s) (l chan tid idx : Nat) (data : List Byte) (atLimit : Bool) :
    s0.Keeps (s.segIn l chan tid idx data atLimit) := by
  have hstop : ∀ {s1 : State} (n q count : Nat) (d : DmaUnit) (f : AccFail), s0.Keeps s1 → s0.Keeps (match f with
      | .status st => s1.on (fun c => c.endCmd n q count st)
      | .fault i => match (s1.chip.ridge n).freeSlot with
        | none => s1
        | some slot => (s1.on (fun c => c.updRidge n (fun r => { r with dma := Tbl.put r.dma slot d }))).fault i (.dma n slot)) := by
    intro s1 n q count d f h1
    cases f
    · exact h1.holdUnit ..
    · exact h1.on _
  have hlocal : ∀ (p : Prop) [Decidable p] (n part ctx a : Nat) (k : Cmd), s0.Keeps (if p then
      match s.readOp n part ctx 0 a data.length with
      | (s, .error f) => (s, (.error f : Except AccFail (List Byte × Nat)))
      | (s, .ok loc) => (s, .ok (reduceBytes k loc data))
      else (s, .ok (data, 0))).1 := by
    intro p _ n part ctx a k
    refine .fst_ite ?_ h
    split
    next hr => exact (h.readOp ..).of_eq hr
    next hr => exact (h.readOp ..).of_eq hr
  unfold State.segIn
  refine h.onLink l (fun part => ?_)
  dsimp only
  refine .ite (h.on _) ?_
  split
  · exact h.on _
  refine .ite h ?_
  split
  · exact hstop _ _ _ _ _ (hlocal ..)
  split
  next hw => exact hstop _ _ _ _ _ (((hlocal ..).writeOp ..).of_eq hw)
  next hw => exact ((((hlocal ..).writeOp ..).of_eq hw).on _).kick _

theorem ctlMessage (h : s0.Keeps s) (l : Nat) (p : List Byte) (atLimit : Bool) : s0.Keeps (s.ctlMessage l p atLimit) := by
  simp only [State.ctlMessage]
  split
  · exact h.rtsIn ..
  · exact h.on _
  · exact h.on _
  · exact h.on _
  · exact h.on _
  · exact h

theorem dataIn (h : s0.Keeps s) (l vc : Nat) (p : List Byte) (atLimit : Bool) : s0.Keeps (s.dataIn l vc p atLimit) :=
  .ite (h.on _) ((h.on _).segIn ..)

theorem deliver (h : s0.Keeps s) (l : Nat) (f : Flit) (atLimit : Bool) : s0.Keeps (s.deliver l f atLimit) :=
  (Keeps.ite ((h.on _).on _) (.ite ((h.on _).ctlMessage ..) ((h.on _).dataIn ..))).on _

theorem deliverEarly (h : s0.Keeps s) (l : Nat) (atLimit : Bool) (fuel : Nat) :
    s0.Keeps (State.deliverEarly l atLimit fuel s) := by
  induction fuel generalizing s with
  | zero => exact h
  | succ fuel ih =>
    simp only [State.deliverEarly]
    split
    · exact h
    · exact ih ((h.on _).deliver ..)

theorem seqIn (h : s0.Keeps s) (i l : Nat) (f : Flit) (atLimit : Bool) : s0.Keeps (s.seqIn i l f atLimit) :=
  .ite (((h.on _).deliver ..).deliverEarly ..) (.ite (h.on _) (.on_if ((h.on _).on_unless _) _))

theorem flitIn (h : s0.Keeps s) (i : Nat) (bs : List Byte) (corrected uncorr : Nat) (bad atLimit : Bool) :
    s0.Keeps (s.flitIn i bs corrected uncorr bad atLimit) := by
  simp only [State.flitIn]
  refine .ite ((h.on _).on _) (.ite (.on_if (h.on _) _) ?_)
  split
  · exact h.on _
  · exact .ite (.on_if (((h.on _).on _).on _) _) (((h.on _).on _).seqIn ..)

/-! ### The stewards (R206–R211) -/

theorem poolBad (h : s0.Keeps s) (k addr : Nat) : s0.Keeps (s.poolBad k addr) := by
  unfold State.poolBad
  exact ((h.withChip _).on _).post _ _

theorem ringEntry (h : s0.Keeps s) {k u : Nat} {big : Bool} {t : State} {e : Except Nat Nat}
    (ht : s.ringEntry k u big = some (t, e)) : s0.Keeps t := by
  unfold State.ringEntry at ht
  grind [on]

theorem takeRing (h : s0.Keeps s) (k u : Nat) (big : Bool) (fuel : Nat) : s0.Keeps (State.takeRing k u big fuel s).1 := by
  induction fuel generalizing s with
  | zero => exact h
  | succ fuel ih =>
    unfold State.takeRing
    split
    · exact h
    next hr => exact h.ringEntry hr
    next hr => exact .fst_ite (ih ((h.ringEntry hr).poolBad _ _)) ((h.ringEntry hr).poolBad _ _)

theorem takeSplit (h : s0.Keeps s) (u : Nat) : s0.Keeps (s.takeSplit u).1 := by
  unfold State.takeSplit
  split
  · exact h
  · exact h.fst_on

theorem takeFirst {g : Nat → State → State × Took} (hg : ∀ u {s : State}, s0.Keeps s → s0.Keeps (g u s).1) (h : s0.Keeps s)
    (us : List Nat) : s0.Keeps (State.takeFirst g us s).1 := by
  induction us generalizing s with
  | nil => exact h
  | cons u us ih =>
    unfold State.takeFirst
    split
    next hu => exact ih ((hg u h).of_eq hu)
    · exact hg u h

theorem takeFrame (h : s0.Keeps s) (k : Nat) (us : List Nat) (big : Bool) : s0.Keeps (s.takeFrame k us big).1 := by
  have hring : ∀ (b : Bool) (u : Nat) {s1 : State}, s0.Keeps s1 → s0.Keeps (State.takeRing k u b 65536 s1).1 :=
    fun b u _ h1 => h1.takeRing k u b _
  have hsmall : ∀ (u : Nat) {s1 : State}, s0.Keeps s1 →
      s0.Keeps (match s1.takeSplit u with | (s, .none) => State.takeRing k u false 65536 s | r => r).1 := by
    intro u s1 h1
    split
    next hu => exact hring _ _ ((h1.takeSplit u).of_eq hu)
    · exact h1.takeSplit u
  simp only [State.takeFrame]
  refine .fst_ite (.takeFirst (hring true) h us) ?_
  have hfirst := takeFirst hsmall h us
  split
  next hs =>
    have hsecond := takeFirst (hring true) (hfirst.of_eq hs) us
    split
    next hb =>
      split
      · exact (hsecond.of_eq hb).fst_on
      · exact hsecond.of_eq hb
    · exact hsecond
  · exact hfirst

theorem toHost (h : s0.Keeps s) (p : Pend) (reason : Nat) : s0.Keeps (s.toHost p reason) := by
  unfold State.toHost
  grind [on, hostFault]

theorem allocate (h : s0.Keeps s) (p : Pend) : s0.Keeps (s.allocate p) := by
  simp only [State.allocate]
  split
  next ht => exact ((h.takeFrame ..).of_eq ht).on _
  next ht => exact (h.takeFrame ..).of_eq ht
  next ht => exact (((h.takeFrame ..).of_eq ht).setEntry ..).toHost ..

theorem stewardTake (h : s0.Keeps s) (b : Bool) : s0.Keeps (s.stewardTake b) := by
  unfold State.stewardTake
  split
  · exact h
  · exact .ite h (.ite (h.allocate _) (.ite h (.ite (h.on _) (.ite (h.toHost ..) (.ite (h.toHost ..)
      (((h.setEntry ..).on _).allocate _))))))

theorem setRmap (h : s0.Keeps s) (k pa pages ea : Nat) : s0.Keeps (s.setRmap k pa pages ea) := by
  unfold State.setRmap
  split
  · exact h
  · exact .ite h (h.foldl (fun _ _ ht => ht.writePhys ..) _)

theorem clearRmap (h : s0.Keeps s) (k pa pages : Nat) : s0.Keeps (s.clearRmap k pa pages) := by
  unfold State.clearRmap
  split
  · exact h
  · exact .ite h (h.foldl (fun _ _ ht => ht.writePhys ..) _)

theorem resolve (h : s0.Keeps s) (p : Pend) : s0.Keeps (s.resolve p) := by
  have hfilled : ∀ (q : Prop) [Decidable q] (k src dst n : Nat),
      s0.Keeps (s.withMem (if q then s.mem.moveLines k src dst (n / 128) else s.mem.clear k dst n)) := by
    intro q _ k src dst n
    refine h.withMem (fun hm => ?_)
    split
    · exact Memory.wf_moveLines _ _ _ _ _ hm
    · exact Memory.wf_clear _ _ _ _ hm
  unfold State.resolve
  exact .ite ((((((hfilled ..).setEntry ..).setRmap ..).on _).withChip _).post _ _) ((((hfilled ..).setEntry ..).setRmap ..).on _)

theorem remapped (h : s0.Keeps s) (p : Pend) (bad : Nat) : s0.Keeps (s.remapped p bad) := by
  unfold State.remapped
  exact ((((((h.withMem (Memory.wf_moveLines _ _ _ _ _)).setEntry ..).clearRmap ..).setRmap ..).withChip _).post _ _).on _

/-! ### Memory errors (R172–R174, R206) -/

theorem readerEnds (h : s0.Keeps s) (pa mask src n q va : Nat) (walk : Bool) (w : Waiter) (fin : Chip → Chip) :
    s0.Keeps (s.readerEnds pa mask src n q va walk w fin) :=
  (Keeps.ite ((h.on _).fault _ _) ((h.on _).on _)).kick _

theorem poolLine (h : s0.Keeps s) (pa mask u : Nat) (big : Bool) : s0.Keeps (s.poolLine pa mask u big) :=
  .ite h (((h.on _).withChip _).post _ _)

theorem askRetire (h : s0.Keeps s) (k pa : Nat) : s0.Keeps (s.askRetire k pa) := .ite h ((h.withChip _).post _ _)

theorem softMove (h : s0.Keeps s) (k u o leaf : Nat) (big : Bool) : s0.Keeps (s.softMove k u o leaf big) := by
  simp only [State.softMove]
  refine .ite ((h.askRetire ..).on _) (.ite h ?_)
  split
  next ht => exact (h.takeFrame ..).of_eq ht
  next ht => exact ((h.takeFrame ..).of_eq ht).on _
  next ht => exact (((h.takeFrame ..).of_eq ht).setEntry ..).on _

theorem softRetire (h : s0.Keeps s) (pa : Nat) : s0.Keeps (s.softRetire pa) := by
  simp only [State.softRetire]
  split
  · exact h
  refine .ite h ?_
  split
  · exact (h.on _).on _
  · exact .ite ((h.on _).askRetire ..) ((h.on _).softMove ..)

theorem zeroUnit (h : s0.Keeps s) (u : Nat) : s0.Keeps (s.zeroUnit u) := by
  unfold State.zeroUnit
  refine .ite (h.withMem (Memory.wf_zero _ _ _)) (h.withMem (fun hm => ?_))
  rw [Memory.wf_iff] at hm ⊢
  exact ⟨Tbl.canon_filter _ _ _ hm.1, Tbl.canon_filter _ _ _ hm.2⟩

/-! ### Resets (R404–R411) -/

theorem writeLong (h : s0.Keeps s) (k fuel pa : Nat) (bs : List Byte) : s0.Keeps (State.writeLong k fuel pa bs s) := by
  induction fuel generalizing s pa bs with
  | zero => exact h
  | succ fuel ih => exact .ite h (ih (h.writePhys ..) _ _)

theorem screeWrite (h : s0.Keeps s) (r : ResetRec) (n k base : Nat) : s0.Keeps (s.screeWrite r n k base) := by
  unfold State.screeWrite
  exact ((((h.withChip _).writeLong ..).foldl (fun _ _ ht => ht.writeLong ..) _).writeLong ..).on _

theorem scree (h : s0.Keeps s) (r : ResetRec) (n : Nat) : s0.Keeps (s.scree r n) := by
  simp only [State.scree]
  split
  · exact h.on _
  · exact (Keeps.ite h (.ite (h.on _) (h.screeWrite ..))).on _

theorem compute (h : s0.Keeps s) (r : ResetRec) (bad : List (Fin 16 × Bool × Fin 8)) (prior : List Nat) :
    s0.Keeps (s.compute r bad prior) := by
  unfold State.compute
  exact (((h.withChip _).foldl (fun _ _ ht => ht.scree ..) _).foldl (fun _ _ ht => ht.traceFlush ..) _).on _

theorem orderGo (h : s0.Keeps s) (bad : List (Fin 16 × Bool × Fin 8)) (readable pd19 : Bool) (fuel : Nat) (r : ResetRec)
    (prior : List Nat) : s0.Keeps (State.orderGo bad readable pd19 fuel r prior s) := by
  induction fuel generalizing s r prior with
  | zero => exact h
  | succ fuel ih => exact .ite h (.ite (ih (h.on _) _ _) (.ite (h.on _) (.ite (h.on _) (h.compute ..))))

theorem order (h : s0.Keeps s) (r : ResetRec) : s0.Keeps (s.order r) := h.orderGo ..

theorem escalate (h : s0.Keeps s) (i cause : Nat) : s0.Keeps (s.escalate i cause) := by
  unfold State.escalate
  split
  · exact h
  · exact .ite h ((h.on _).orderGo ..)

theorem failSpur (h : s0.Keeps s) (n p : Nat) : s0.Keeps (s.failSpur n p) := by
  unfold State.failSpur
  exact .ite ((h.withChip _).order _) (h.withChip _)

theorem selfTest (h : s0.Keeps s) (failed : List (Fin 16 × Fin 17)) : s0.Keeps (s.selfTest failed) :=
  h.foldl (fun _ _ ht => .ite (ht.failSpur ..) ht) _

theorem stewardHung (h : s0.Keeps s) (a : Nat) : s0.Keeps (s.stewardHung a) := .ite ((h.on _).order _) (h.on _)

theorem supHung (h : s0.Keeps s) : s0.Keeps s.supHung := .ite ((h.on _).order _) ((h.on _).on _)

end State.Keeps
end Sys2Proof.Machine
end

section
/-! PROOF. The same of a control dictionary's writes (R359–R364): every object's effect, and the requests that carry the writes. -/
namespace Sys2Proof.Machine

/-- A write's effect that keeps what every command keeps. -/
def Eff.Keeps (e : Eff) : Prop := ∀ (inst : Nat) (bs : List Byte) {s0 s : State}, s0.Keeps s → s0.Keeps (e inst bs s).1

/-- The same of the effect of an object that may have none of its own. -/
def Eff.KeepsAny (o : Option Eff) : Prop := ∀ e, o = some e → Eff.Keeps e

namespace Eff.Keeps

/-- An effect on the chip alone. -/
theorem chip (f : Nat → List Byte → Chip → Chip × Nat) : Eff.Keeps (effOn f) := fun _ _ _ _ h => h.withChip _

theorem queue (n q : Nat) (f : Chip → Nat → Nat → Chip × Nat) : Eff.Keeps (effQueue n q f) :=
  fun _ _ _ _ h => (h.withChip _).kick n

theorem qcontrol (n q : Nat) : Eff.Keeps (effQcontrol n q) := by
  intro inst bs s0 s h
  unfold effQcontrol
  split
  · exact queue _ _ _ _ _ h
  · exact queue _ _ _ _ _ h
  · exact queue _ _ _ _ _ h
  · exact queue _ _ _ _ _ h
  · exact h

theorem ringBase : Eff.Keeps effRingBase := fun _ _ _ _ h => .fst_ite h ((h.on _).ringDrain ..)

theorem ringConsumer : Eff.Keeps effRingConsumer := fun _ _ _ _ h => (h.on _).ringDrain ..

theorem qpConfig (q : Nat) : Eff.Keeps (effQpConfig q) :=
  fun _ _ _ _ h => .fst_ite h (.fst_ite h (.fst_ite h.fst_on (.fst_ite h (.fst_ite h h.fst_on))))

theorem spurRetire : Eff.Keeps effSpurRetire := fun _ _ _ _ h => .fst_ite h (.fst_ite h (h.failSpur ..))

theorem resetRequest : Eff.Keeps effResetRequest := fun _ _ _ _ h => .fst_ite h (.fst_ite h (.fst_ite h (h.order _)))

theorem tenantReset : Eff.Keeps effTenantReset := fun _ _ _ _ h => .fst_ite h (.fst_ite h (h.order _))

end Eff.Keeps

namespace Eff.KeepsAny

theorem none : Eff.KeepsAny none := fun _ h => nomatch h

theorem some {e : Eff} (h : Eff.Keeps e) : Eff.KeepsAny (some e) := fun _ he => Option.some.inj he ▸ h

theorem ite {p : Prop} [Decidable p] {e : Eff} {o : Option Eff} (h : Eff.Keeps e) (ho : Eff.KeepsAny o) :
    Eff.KeepsAny (if p then Option.some e else o) := by
  split
  · exact some h
  · exact ho

open Eff.Keeps in
theorem effNamed (slot key : Nat) : Eff.KeepsAny (effNamed slot key) :=
  .ite (chip _) <| .ite (chip _) <| .ite ringBase <| .ite ringConsumer <| .ite (chip _) <| .ite (chip _) <| .ite spurRetire <|
  .ite (chip _) <| .ite (chip _) <| .ite (chip _) <| .ite (chip _) <| .ite (chip _) <| .ite (chip _) <| .ite (chip _) <|
  .ite (chip _) <| .ite (chip _) <| .ite (chip _) <| .ite (chip _) <| .ite (chip _) <| .ite (chip _) <|
  .ite resetRequest <| .ite tenantReset <| .ite (chip _) <| .ite (chip _) <| .ite (chip _) <| .ite (chip _) <| .ite (chip _) <|
  .ite (chip _) <| .ite (chip _) <| .ite (chip _) <| .ite (chip _) <| .ite (chip _) <| .ite (chip _) <| .ite (chip _) <|
  .ite (chip _) <| .ite (chip _) .none

end Eff.KeepsAny

theorem effLoop_keeps (idx sub : Nat) : Eff.Keeps (effLoop idx sub) := by
  simp only [effLoop]
  split <;> exact .chip _

open Eff.Keeps in
theorem effUnit_keeps (se : Sess) (idx sub : Nat) : Eff.KeepsAny (effUnit se idx sub) := by
  have hqueue : Eff.Keeps (if sub = 6 then effQcontrol ((idx - 0x4110) / 8) ((idx - 0x4110) % 8)
      else effRing ((idx - 0x4110) / 8) ((idx - 0x4110) % 8) (idx * 256 + sub)) := by
    split
    · exact qcontrol _ _
    · exact chip _
  exact .ite (chip _) <| .ite hqueue <| .ite (chip _) <| .ite (chip _) <| .ite (chip _) <| .ite (chip _) <| .ite (chip _) <|
    .ite (chip _) <| .ite (chip _) <| .ite (chip _) <| .ite (chip _) <| .ite (chip _) <| .ite (chip _) <|
    .ite (effLoop_keeps _ _) <| .ite (qpConfig _) <| .ite (chip _) .none

/-- The effect of an object that has none of its own: the value is stored. -/
theorem effPlain_keeps (idx sub : Nat) : Eff.Keeps (effPlain idx sub) := .chip _

/-- The effect of a write of any object. -/
theorem effOf_keeps (slot : Nat) (se : Sess) (idx sub : Nat) : Eff.Keeps (effOf slot se idx sub) := by
  unfold effOf
  split
  next he => exact Eff.KeepsAny.effNamed _ _ _ he
  next =>
    cases he : effUnit se idx sub with
    | none => exact effPlain_keeps idx sub
    | some e => exact effUnit_keeps _ _ _ _ he

namespace State.Keeps

variable {s0 s : State}

/-! ### The control dictionary (R359–R364) -/

theorem writeG (h : s0.Keeps s) (ov : Tbl Nat) (slot : Nat) (se : Sess) (part idx sub : Nat) (bs : List Byte) {eff : Eff}
    (heff : Eff.Keeps eff) : s0.Keeps (s.writeG ov slot se part idx sub bs eff).1 := by
  unfold State.writeG
  split
  · exact h
  · exact .fst_ite h (.fst_ite h (heff _ _ h))

theorem write1 (h : s0.Keeps s) (slot : Nat) (se : Sess) (part idx sub : Nat) (bs : List Byte) {eff : Eff}
    (heff : Eff.Keeps eff) : s0.Keeps (s.write1 slot se part idx sub bs eff).1 := h.writeG _ _ _ _ _ _ _ heff

theorem rowWrite (h : s0.Keeps s) (r : Req) (key : Nat) (bs : List Byte) {eff : Eff} (heff : Eff.Keeps eff) :
    s0.Keeps (s.rowWrite r key bs eff) := by
  unfold State.rowWrite
  split
  · exact h
  · exact (h.write1 _ _ _ _ _ _ heff).on _

theorem dictWrite (h : s0.Keeps s) (slot : Nat) (se : Sess) (part : Nat) (r : DRec) : s0.Keeps (s.dictWrite slot se part r).1 := by
  unfold State.dictWrite
  split
  · exact h
  · exact h.write1 _ _ _ _ _ _ (effOf_keeps _ _ _ _)

/-- A refusal found ahead of a block transfer leaves what a refused write leaves. -/
theorem stateRefuses (h : s0.Keeps s) {slot : Nat} {se : Sess} {part inst : Nat} {o : ObjRow} {r : DRec} {t : State} {e : Nat}
    (ht : s.stateRefuses slot se part inst o r = some (t, e)) : s0.Keeps t := by
  have hwritten := fun bs => h.write1 slot se part r.idx r.sub bs (effOf_keeps slot se r.idx r.sub)
  unfold State.stateRefuses at ht
  grind

theorem blockOpenWrite (h : s0.Keeps s) (slot : Nat) (se : Sess) (part : Nat) (r : DRec) :
    s0.Keeps (s.blockOpenWrite slot se part r).1 := by
  unfold State.blockOpenWrite
  split
  · exact h
  refine .fst_ite h ?_
  split
  next ht => exact h.stateRefuses ht
  next => exact .pair (h.withChip _) _

theorem blockCommit (h : s0.Keeps s) (slot : Nat) (se : Sess) (r : DRec) : s0.Keeps (s.blockCommit slot se r).1 := by
  unfold State.blockCommit
  split
  · exact h
  · exact .fst_ite h (.fst_ite h ((h.on _).write1 _ _ _ _ _ _ (effOf_keeps _ _ _ _)))

theorem onDict (h : s0.Keeps s) (x : Chip × DRes) : s0.Keeps (s.onDict x).1 := h.withChip _

theorem dictOp (h : s0.Keeps s) (slot : Nat) (se : Sess) (part : Nat) (r : DRec) : s0.Keeps (s.dictOp slot se part r).1 := by
  unfold State.dictOp
  refine .fst_ite h ?_
  split
  · exact h
  · exact h.dictWrite ..
  · exact h
  · exact h.onDict _
  · exact h.blockOpenWrite ..
  · exact h.onDict _
  · exact h.onDict _
  · exact h.blockCommit ..
  · exact h.onDict _

theorem groupWrite (h : s0.Keeps s) (ov : Tbl Nat) (slot : Nat) (se : Sess) (part : Nat) (r : DRec) :
    s0.Keeps (s.groupWrite ov slot se part r).1 := h.writeG _ _ _ _ _ _ _ (effOf_keeps _ _ _ _)

theorem groupAll (h : s0.Keeps s) (ov : Tbl Nat) (slot : Nat) (se : Sess) (part fuel : Nat) (rs : List DRec) :
    s0.Keeps (State.groupAll ov slot se part fuel rs s) := by
  induction fuel generalizing s rs with
  | zero => exact h
  | succ fuel ih =>
    have hwritten : ∀ {x : State × List DRec}, s0.Keeps x.1 → s0.Keeps (rs.foldl (fun (x : State × List DRec) r =>
        if r.op != opWrite then x
        else
          let (s', e) := x.1.groupWrite ov slot se part r
          if e = rcOK then (s', x.2) else (x.1, x.2 ++ [r])) x).1 :=
      fun hx => foldl_fst hx (fun y r hy => .fst_ite hy (.fst_ite (hy.groupWrite ..) (.pair hy _))) rs
    exact .ite (hwritten h) (ih (hwritten h) _)

theorem dictGroup (h : s0.Keeps s) (slot : Nat) (se : Sess) (part : Nat) (rs : List DRec) :
    s0.Keeps (s.dictGroup slot se part rs).1 := by
  simp only [State.dictGroup]
  refine .fst_ite (.pair (h.foldl (fun t x ht => ?_) _) _) (.pair (h.groupAll ..) _)
  exact .ite (.ite (ht.groupWrite ..) ht) ht

theorem dictSeq (h : s0.Keeps s) (slot part : Nat) (rs : List DRec) : s0.Keeps (State.dictSeq slot part rs s).1 := by
  induction rs generalizing s with
  | nil => exact h
  | cons r rs ih =>
    unfold State.dictSeq
    split
    · exact h
    · exact .fst_ite (h.dictOp ..) (ih (h.dictOp ..))

theorem dictRequest (h : s0.Keeps s) (slot : Nat) (se : Sess) (b : List Byte) : s0.Keeps (s.dictRequest slot se b).1 := by
  simp only [State.dictRequest]
  refine .fst_ite h ?_
  split
  · exact h
  · exact .fst_ite h (.fst_on (.fst_ite (h.dictGroup ..) (h.dictSeq ..)))

theorem dictCmd (h : s0.Keeps s) (r : Req) (d : DRec) : s0.Keeps (s.dictCmd r d) := by
  unfold State.dictCmd
  split
  · exact h
  · exact (h.dictOp ..).on _

theorem process (h : s0.Keeps s) (t ty seq : Nat) (p : List Byte) : s0.Keeps (s.process t ty seq p) := by
  unfold State.process
  split
  · exact h
  · exact (fst_ite ((h.on _).dictRequest ..) (.pair ((h.on _).withChip _) _)).on _

theorem processOn (h : s0.Keeps s) (t fuel : Nat) : s0.Keeps (State.processOn t fuel s) := by
  induction fuel generalizing s with
  | zero => exact h
  | succ fuel ih =>
    unfold State.processOn
    split
    · exact h
    split
    · exact h
    · exact ih ((h.on _).process ..)

theorem sequence (h : s0.Keeps s) (t ty seq : Nat) (p : List Byte) : s0.Keeps (s.sequence t ty seq p) :=
  .ite (h.on _) (.ite (h.on _) (.ite h (.ite (h.on _) (.ite (((h.on _).process ..).processOn ..) (h.on _)))))

theorem arrive (h : s0.Keeps s) (ty : Nat) (src : W64) (m : List Byte) : s0.Keeps (s.arrive ty src m) := by
  unfold State.arrive
  split
  · exact h.withChip _
  · exact (h.withChip _).sequence ..

end State.Keeps
end Sys2Proof.Machine
end

section
/-! PROOF. The same of every command, and so of every step (R158, R159, R475). -/
namespace Sys2Proof.Machine

/-- A command is carried out, and what every command keeps is kept. -/
def State.Carries (s : State) (o : Host.Outcome State Fault Refusal) : Prop := ∃ t, o = .next t ∧ s.Keeps t

theorem State.Keeps.carries {s t : State} (h : s.Keeps t) : s.Carries (done t) := ⟨t, rfl, h⟩

namespace State.Carries

variable (s : State)

/-! ### The commands whose course forks -/

theorem mmAcc (ridge : Fin 16) (spur : Fin 17) : s.Carries (execMmAcc ridge spur s) := by
  refine ((Keeps.refl s).runOn _ _ _ _ (fun w => ?_)).carries
  have hprior := (Keeps.refl s).priorRows ridge.val spur.val w
  split
  next hp => exact (hprior.of_eq hp).fail _ _
  next hp => exact (hprior.of_eq hp).runTile ..

theorem tileLoadDone (ridge : Fin 16) (spur : Fin 17) (ce : List Corr) : s.Carries (execTileLoadDone ridge spur ce s) := by
  refine Keeps.carries ?_
  split
  · exact Keeps.refl s
  next w _ =>
  have hce := (Keeps.refl s).on (fun c => c.corrected ce)
  refine .ite (Keeps.refl s) (((Keeps.ite (hce.loadTile ..) (.ite (hce.loadVec ..) ?_)).charge ..).kick _)
  split
  next hp => exact ((hce.probeConv ..).of_eq hp).fail _ _
  next hp => exact ((hce.probeConv ..).of_eq hp).on _

theorem tileWriteback (ridge : Fin 16) (spur : Fin 17) : s.Carries (execTileWriteback ridge spur s) := by
  refine Keeps.carries ?_
  split
  · exact .ite (((Keeps.refl s).writeback ..).charge ..) (Keeps.refl s)
  · exact Keeps.refl s

theorem workUnitDone (ridge : Fin 16) (spur : Fin 17) (cycles stall : Nat) :
    s.Carries (execWorkUnitDone ridge spur cycles stall s) := by
  refine Keeps.carries ?_
  split
  · exact Keeps.refl s
  · exact .ite (Keeps.refl s) ((((Keeps.refl s).on _).kick _).on _)

theorem dmaUnitDone (ridge : Fin 16) (slot : Fin 32) (ce : List Corr) : s.Carries (execDmaUnitDone ridge slot ce s) := by
  refine Keeps.carries ?_
  split
  · exact Keeps.refl s
  · exact .ite (Keeps.refl s) (((((Keeps.refl s).watchUnit ..).on _).kick _).on _)

theorem watch (ridge : Fin 16) (queue : Fin 8) (slot : Fin 32) (lines : Nat) : s.Carries (execWatch ridge queue slot lines s) := by
  refine Keeps.carries ?_
  split
  · exact ((Keeps.refl s).on _).kick _
  · exact ((Keeps.refl s).watchLines ..).kick _

theorem walkComplete (ridge : Fin 16) (queue : Fin 8) (va : W48) (write : Bool) (ce : List Corr) :
    s.Carries (execWalkComplete ridge queue va write ce s) := by
  refine Keeps.carries ?_
  have hce := (Keeps.refl s).on (fun c => c.corrected ce)
  split
  · exact hce
  split
  next hw => exact (hce.translate ..).of_eq hw
  next hw =>
    have hwalked := (hce.translate ..).of_eq hw
    exact .ite hwalked (.ite hwalked (.ite (hwalked.on _) (hwalked.hostFault _ _)))

theorem stewardCopyDone (b : Bool) (uncorr : Option (W64 × Fin 16)) : s.Carries (execStewardCopyDone b uncorr s) := by
  refine (Keeps.roceRun ?_).carries
  split
  · exact Keeps.refl s
  refine .ite (Keeps.refl s) ?_
  split
  · exact ((Keeps.refl s).setEntry ..).on _
  · exact .ite ((Keeps.refl s).remapped _ _) ((Keeps.refl s).resolve _)

theorem pendingEntryFree : s.Carries (execPendingEntryFree s) := by
  refine Keeps.carries ?_
  split
  · exact Keeps.refl s
  · exact ((Keeps.refl s).on _).enterFault _ _

theorem memUncorrectable (pa : W64) (mask : Fin 16) (reader : UeReader) (how : Fin 3) (va : W48) :
    s.Carries (execMemUncorrectable pa mask reader how va s) := by
  have hends := (Keeps.refl s).readerEnds
  refine (Keeps.ite (Keeps.refl s) ?_).carries
  split
  · split
    · exact hends ..
    · exact Keeps.refl s
  · split
    · exact hends ..
    · exact Keeps.refl s
  · exact .ite (hends ..) (Keeps.refl s)
  · split
    · exact hends ..
    · exact Keeps.refl s
  · exact .ite (Keeps.refl s) (hends ..)
  · exact .ite (Keeps.refl s) (hends ..)
  · exact (Keeps.refl s).poolLine ..

theorem zeroFillDone (unit : Fin 32) : s.Carries (execZeroFillDone unit s) := by
  refine Keeps.carries ?_
  split
  · exact Keeps.refl s
  · exact (Keeps.ite ((Keeps.refl s).zeroUnit _) (Keeps.refl s)).on _

theorem unackedWriteTimeout (ridge : Fin 16) : s.Carries (execUnackedWriteTimeout ridge s) := by
  refine Keeps.carries ?_
  split
  · exact (Keeps.refl s).escalate ..
  · exact Keeps.refl s

theorem agentHung (agent : Fin 19) : s.Carries (execAgentHung agent s) := by
  refine (Keeps.ite (Keeps.refl s) (.ite ((Keeps.refl s).stewardHung _) (.ite (Keeps.refl s).supHung ?_))).carries
  dsimp only
  split
  · exact ((Keeps.refl s).on _).order _
  · exact (Keeps.refl s).on _

theorem workRequestDone (qp : Fin 8192) : s.Carries (execWorkRequestDone qp s) := by
  simp only [execWorkRequestDone]
  split
  · split
    · exact (Keeps.refl s).carries
    · exact (((Keeps.refl s).on _).qpKick _).carries
  · exact (Keeps.refl s).carries

theorem launchTimeReached (qp : Fin 8192) : s.Carries (execLaunchTimeReached qp s) := by
  simp only [execLaunchTimeReached]
  split
  · split
    · exact (((Keeps.refl s).on _).qpKick _).carries
    · exact (Keeps.refl s).carries
  · exact (Keeps.refl s).carries

end State.Carries

/-- Every command is carried out; none touches the commands that wait, and none takes memory out of its canonical form. -/
theorem exec_carries (i : Instr) (s : State) : s.Carries (exec i s) := by
  have hs := State.Keeps.refl s
  cases i
  case frameBoundary | swapWindowEnd | decimationRelax | coreSaturated | sliceOverrun | tickEdge | loopOverrun | loopHold |
      droopSag | stretchEnd | domainSag | dvfsRampDone | fsyncEdge | ptpSync | ptpFollowUp | ptpAnnounce | ptpDelayResp |
      doorbell | shadowTriggered | resetEnd | replayLimitReached | screeUnitTimeout | ridgeSpadUncorrectable |
      spareSelftestDone | erasureMarked | patrolScrub | memOutOfService | stackTempSample | dimmTempRead | tlbInvalDone |
      faultHostLimitExpired | lightPresent | lightLost | laneTrainingDone | helloSend | helloReceived | ackTimer |
      creditReturnTimer | linkReplayTimeout | linkRetrainTimeout | laneDegrade | laneDropReceived | laneAddReceived |
      swapAnnounceReceived | swapAckReceived | swapAckWaitExpired | frameMarkReceived | steerDone | colMoved | engineFailed
      | notchEngaged | notchFailed | spareLocked | laserAbruptFailure | spareFailed | searchSweepEnd | handoverFailed |
      toneCheckDone | loopCoreFailed | rcStepBoundary | rcTimeout | captureTrigger | captureDone | calTrigger |
      calMeasureDone | calNodataTimeout | calParamStep | calVerifyDone | ethLinkDown | ethTrainingFailed |
      routerAdvertisement | sessionOpen | sessionProof | sessionProofTimeout | sessionClose | vctIdleTimeout | eventAck |
      eventRetryTimeout | cnpReceived | ecnAlphaDecay | ecnRateIncrease | blockIdleTimeout | cairnCommit | cairnClearDone |
      heartbeat | leaseClaim | leaseRenew | stewardRestartDone | trayPwrEnAssert | domainFault | trayRstLRelease |
      recoveryData | alertCauseWrite | i3cDynamicAddress | readVin | readIin | readPin | readTemperature1 | statusWord |
      inputReturn | pauseFrameReceived | alertEnWrite | leaseLapse | thermalTrip | fsyncMissing | fsyncStartupTimeout |
      refclkLost | refclkReturn | timeMasterTimeout | ocsNoticeExpire | cairnFlashTimeout | fwStageResult | supRestartDone |
      l6TrayWaitExpired | trayPwrEnDeassert | inputLost | trayRstLAssert | recoveryBegin | recoveryEnd | recoveryAbort |
      recoveryIdleTimeout | clearFaults | memsDriveSupplyLost =>
    exact (hs.on _).carries
  case timeSet | timeRate | signalValueWrite | queueHoldWrite | erasureClear | ctxRootWrite | tlbInvalPages |
      tlbInvalContext | tlbInvalPartition | faultResolveRetry | faultResolveAbort | faultResolveDone | wsCreate | wsApply |
      wsTeardown | expectMapWrite | routeEntryWrite | steerControl | steerRatio | ocsNotice | colForceBypass |
      engineRetireReq | engineFailRecordClear | loopCoefWrite | loopClassWrite | loopOutputWrite | injectWrite |
      captureWrite | traverseStoreSave | traverseStoreErase | calRequest | calEnableWrite | mrEntryWrite | cfgFactoryArm |
      cfgFactoryDisarm | cairnClear | freezeAt | watchBaseWrite | fwActivate | rollbackCommit | opkeyProvision | opkeyRevoke
      | attestRequest | powerLimitWrite | linkControlRelease | linkControlRetrain | linkControlQuarantine | loopModeOpen |
      loopModeSearch | loopModeTrack | loopModeHold =>
    exact (hs.rowWrite _ _ _ (.chip _)).carries
  case qcontrolEnable | qcontrolResume | qcontrolSkip | qcontrolDisable =>
    exact (hs.rowWrite _ _ _ (.queue _ _ _)).carries
  case spurRetireReq =>
    exact (hs.rowWrite _ _ _ .spurRetire).carries
  case stewardRingBaseWrite =>
    exact (hs.rowWrite _ _ _ .ringBase).carries
  case stewardRingConsumerWrite =>
    exact (hs.rowWrite _ _ _ .ringConsumer).carries
  case qpConfigWrite =>
    exact (hs.rowWrite _ _ _ (.qpConfig _)).carries
  case read | write | describe | blockOpenRead | blockOpenWrite | blockRead | blockWrite | blockCommit | blockClose =>
    exact (hs.dictCmd ..).carries
  case request | eventFetch =>
    exact (hs.arrive ..).carries
  case descriptorFetch =>
    exact (hs.fetch ..).carries
  case completionRecordWrite =>
    exact (hs.writeRecord ..).carries
  case mm =>
    exact (hs.runOn _ _ _ _ (fun _ => hs.runTile ..)).carries
  case mmAcc =>
    exact .mmAcc ..
  case vec =>
    exact (hs.runOn _ _ _ _ (fun _ => hs.runVec ..)).carries
  case convert =>
    exact (hs.runOn _ _ _ _ (fun _ => hs.runConv ..)).carries
  case tileLoadDone =>
    exact .tileLoadDone ..
  case tileWriteback =>
    exact .tileWriteback ..
  case workUnitDone =>
    exact .workUnitDone ..
  case move | gather | scatter =>
    exact ((hs.moveLines ..).kick _).carries
  case dmaUnitDone =>
    exact .dmaUnitDone ..
  case watch =>
    exact .watch ..
  case send =>
    exact ((hs.doSend ..).kick _).carries
  case recv | reduceRecv =>
    exact ((hs.doRecv ..).kick _).carries
  case wait | signal | fence | stepMark | waitTimeout | fabricTimeout =>
    exact ((hs.on _).kick _).carries
  case rtsReceived =>
    exact (hs.rtsIn ..).carries
  case ctsReceived | completeReceived | refuseReceived | segAckReceived =>
    exact (hs.onLink _ (fun _ => hs.on _)).carries
  case segmentReceived =>
    exact (hs.segIn ..).carries
  case flitReceived =>
    exact (hs.flitIn ..).carries
  case walkComplete =>
    exact .walkComplete ..
  case stewardFault =>
    exact (hs.stewardTake _).roceRun.carries
  case stewardCopyDone =>
    exact .stewardCopyDone ..
  case pendingEntryFree =>
    exact .pendingEntryFree s
  case memUncorrectable =>
    exact .memUncorrectable ..
  case frameSoftRetire =>
    exact (hs.softRetire _).carries
  case zeroFillDone =>
    exact .zeroFillDone ..
  case resetL1 | resetL2 | resetL5 | resetL6 =>
    exact (hs.orderGo ..).carries
  case resetL3 | resetL4 =>
    exact (State.Keeps.ite ((hs.orderGo ..).selfTest _) hs).carries
  case resetBoundExpired =>
    exact (hs.escalate ..).carries
  case unackedWriteTimeout =>
    exact .unackedWriteTimeout ..
  case sramCorrected =>
    exact (State.Keeps.ite ((hs.withChip _).failSpur ..) (hs.withChip _)).carries
  case sramUncorrectable | spurSuspendTimeout =>
    exact (State.Keeps.ite ((hs.withChip _).failSpur ..) ((hs.withChip _).order _)).carries
  case spurFailed =>
    exact (hs.failSpur ..).carries
  case agentHung =>
    exact .agentHung ..
  case ethLinkUp =>
    exact (State.Keeps.ite hs (hs.on _).roceRun).carries
  case roceSendReceived | roceWriteReceived | roceReadRequest | roceReadResponse =>
    exact (hs.receive ..).carries
  case roceAck | roceNak =>
    exact (State.Keeps.ite hs ((hs.on _).qpKick _)).carries
  case roceRetryTimeout =>
    exact (State.Keeps.ite ((hs.on _).qpKick _) hs).carries
  case roceFaultWaitExpired =>
    exact (State.Keeps.ite hs (((hs.on _).qpDeny _).qpKick _)).carries
  case qpSendProducer | qpRecvProducer | qpCompConsumer =>
    exact (hs.qpCount ..).carries
  case workRequestDone =>
    exact .workRequestDone ..
  case launchTimeReached =>
    exact .launchTimeReached ..
  case traceFlush =>
    exact (hs.traceFlush ..).carries
  case ready =>
    exact (State.Keeps.ite ((hs.withMem (fun _ => Memory.wf_empty)).on _) hs).carries

/-- Settles O56, by one rule per operation that can reach memory, put together for each command. -/
theorem memoryStaysCanonical : Obligations.MemoryStaysCanonical := by
  unfold Obligations.MemoryStaysCanonical
  intro s t hwf hstep
  unfold step at hstep
  split at hstep
  next => exact Host.Outcome.next.inj hstep ▸ hwf
  next i rest _ =>
    obtain ⟨u, hexec, hkeeps⟩ := exec_carries i { s with pending := rest }
    rw [hexec] at hstep
    exact Host.Outcome.next.inj hstep ▸ hkeeps.wf hwf

end Sys2Proof.Machine
end

section
/-! PROOF. A byte that a partition writes (R162, R169, R177, R178): its own line alone is rewritten, and it is read back. -/
namespace Sys2Proof.Machine

/-! ### What one written byte leaves (R169, R177, R178) -/

theorem Memory.raw_setRaws_outside (m : Memory) (a x : Nat) (bs : List Byte) (h : x < a ∨ a + bs.length ≤ x) :
    (m.setRaws a bs).raw x = m.raw x := by
  induction bs generalizing m a with
  | nil => rfl
  | cons b bs ih =>
    rw [List.length_cons] at h
    exact (ih (m.setRaw a b) (a + 1) (by omega)).trans (m.raw_setRaw_other b (by omega))

@[simp] theorem Memory.tags_setRaws (m : Memory) (a : Nat) (bs : List Byte) : (m.setRaws a bs).tags = m.tags := by
  induction bs generalizing m a with
  | nil => rfl
  | cons b bs ih => exact ih _ _

theorem Memory.own_of_tag (m : Memory) {k a : Nat} (h : m.tag a = k) : m.own k a = m := if_pos h

/-- Taking a line for a key rewrites that line alone. -/
theorem Memory.raw_own_other_line (m : Memory) (k : Nat) {a x : Nat} (h : x / 128 ≠ a / 128) : (m.own k a).raw x = m.raw x := by
  unfold Memory.own
  split
  · rfl
  · exact m.raw_setRaws_outside _ x _ (by simp only [Memory.bytes, List.length_map, List.length_range]; omega)

theorem Tbl.get_setD_other {α : Type} [DecidableEq α] (t : Tbl α) (d v : α) {k j : Nat} (h : j ≠ k) :
    Tbl.get (Tbl.setD t d k v) d j = Tbl.get t d j := by
  unfold Tbl.setD
  split
  · rw [Tbl.get, Tbl.find_del_other t h]; rfl
  · exact Tbl.get_put_other _ _ _ h

theorem Memory.tag_own_other_line (m : Memory) (k : Nat) {a x : Nat} (h : x / 128 ≠ a / 128) : (m.own k a).tag x = m.tag x := by
  unfold Memory.own
  split
  · rfl
  · simp only [Memory.tag, Memory.tags_setRaws]
    exact Tbl.get_setD_other _ _ _ h

/-- A byte put under a key leaves every other byte of a written line, read under that line's key, where it does not take a line from
another key. -/
theorem Memory.byte_put_other (m : Memory) (k : Nat) {a x : Nat} (b : Byte) (htag : m.tag x ≠ 0) (hne : x ≠ a)
    (hline : x / 128 ≠ a / 128 ∨ m.tag a = k) : (m.put k a b).byte (m.tag x) x = m.byte (m.tag x) x := by
  have hown : (m.own k a).tag x = m.tag x ∧ (m.own k a).raw x = m.raw x := by
    rcases hline with hother | hmine
    · exact ⟨m.tag_own_other_line k hother, m.raw_own_other_line k hother⟩
    · rw [m.own_of_tag hmine]
      exact ⟨rfl, rfl⟩
  have hput : (m.put k a b).tag x = m.tag x := hown.1
  rw [Memory.byte_of_tag _ _ _ htag hput, Memory.byte_of_tag _ _ _ htag rfl]
  exact (Memory.raw_setRaw_other _ b hne).trans hown.2

/-! ### A physical write and the read after it (R162, R175, R178) -/

/-- A write that is performed passed the controller's check, was made under a live key, and changes memory alone. -/
theorem State.writePhys_performed {s t : State} {k a : Nat} {bs : List Byte} (h : s.writePhys k a bs = (t, none)) :
    s.chip.accCheck a = .ok ∧ s.chip.keyTag k ≠ 0 ∧ t = s.withMem (s.mem.write (s.chip.keyTag k) a bs) := by
  cases hcheck : s.chip.accCheck a with
  | invalid => simp [State.writePhys, Chip.access, hcheck] at h
  | refused u => simp [State.writePhys, Chip.access, hcheck] at h
  | ok =>
    simp only [State.writePhys, Chip.access, hcheck] at h
    split at h
    · cases h
    next hkey => exact ⟨rfl, hkey, (congrArg Prod.fst h).symm⟩

/-- A write that is not performed is one the controller answered, and leaves memory as it was. -/
theorem State.writePhys_refused {s t : State} {k a e : Nat} {bs : List Byte} (h : s.writePhys k a bs = (t, some e)) :
    t.mem = s.mem := by
  rcases haccess : s.chip.access k a with ⟨c, _ | st⟩
  · simp only [State.writePhys, haccess] at h
    split at h
    · rw [← (Prod.mk.inj h).1]
    · cases h
  · simp only [State.writePhys, haccess] at h
    rw [← (Prod.mk.inj h).1]

/-- A read that passes the controller's check under a live key yields what the key reads there. -/
theorem State.readPhys_performed {s : State} {k a : Nat} (n : Nat) (hcheck : s.chip.accCheck a = .ok) (hkey : s.chip.keyTag k ≠ 0) :
    (s.readPhys k a n).2 = .ok (s.mem.bytes (s.chip.keyTag k) a n) := by
  simp only [State.readPhys, Chip.access, hcheck, if_neg hkey]

/-- Settles O11: the byte put under the partition's key is what that key reads, and putting it rewrites no other line. -/
theorem memoryReadBack : Obligations.MemoryReadBack := by
  unfold Obligations.MemoryReadBack
  intro s t k a b hwf
  refine ⟨fun hwrite => ?_, fun e hwrite => State.writePhys_refused hwrite⟩
  obtain ⟨hcheck, hkey, rfl⟩ := State.writePhys_performed hwrite
  refine ⟨?_, fun x htag hne hline => s.mem.byte_put_other _ b htag hne hline⟩
  have hread := State.readPhys_performed (s := s.withMem (s.mem.put (s.chip.keyTag k) a b)) 1 hcheck hkey
  exact (congrArg Except.toOption hread).trans (congrArg (fun v => some [v]) (s.mem.byte_put_same _ a b hkey hwf))

end Sys2Proof.Machine
end

section
/-! PROOF. The erasure words of a unit (R168, Table 6.7): each of a unit's groups has its own two bytes of the unit's object. -/
namespace Sys2Proof.Machine

/-! ### Words of two bytes in a byte list -/

theorem leAt_two (bs : List Byte) (o : Nat) : leAt bs o 2 = byteAt bs o + 256 * byteAt bs (o + 1) := by
  have hbyte : ∀ i, byteAt bs (o + i) = byteAt (bs.drop o) i := fun i => by
    simp only [byteAt, List.getD_eq_getElem?_getD, List.getElem?_drop]
  rw [leAt, hbyte 1, show byteAt bs o = byteAt (bs.drop o) 0 from hbyte 0]
  rcases bs.drop o with _ | ⟨a, _ | ⟨b, t⟩⟩ <;> simp [leNat, byteAt]

theorem leAt_two_lt (bs : List Byte) (o : Nat) : leAt bs o 2 < 2 ^ 16 := by
  rw [leAt_two]
  have ha := (bs.getD o 0#8).isLt
  have hb := (bs.getD (o + 1) 0#8).isLt
  simp only [byteAt]
  omega

theorem byteAt_fitTo {n i : Nat} (bs : List Byte) (h : i < n) : byteAt (fitTo n bs) i = byteAt bs i := by
  simp only [byteAt, fitTo, zeros, List.getD_eq_getElem?_getD, List.getElem?_append, List.getElem?_take, List.getElem?_replicate,
    List.length_take]
  grind

theorem byteAt_placeAt_outside (bs new : List Byte) {o i : Nat} (h : i < o ∨ o + new.length ≤ i) :
    byteAt (placeAt bs o new) i = byteAt bs i := by
  rcases h with hbefore | hafter
  · rw [← byteAt_fitTo bs hbefore]
    simp only [byteAt, placeAt, List.append_assoc, List.getD_eq_getElem?_getD]
    rw [List.getElem?_append_left (by simpa using hbefore)]
  · simp only [byteAt, placeAt, List.getD_eq_getElem?_getD]
    rw [List.getElem?_append_right (by simpa using hafter), List.getElem?_drop]
    simp only [List.length_append, length_fitTo, Nat.add_sub_cancel' hafter]

theorem byteAt_placeAt_inside (bs new : List Byte) (o : Nat) {i : Nat} (h : i < new.length) :
    byteAt (placeAt bs o new) (o + i) = byteAt new i := by
  simp only [byteAt, placeAt, List.append_assoc, List.getD_eq_getElem?_getD]
  rw [List.getElem?_append_right (by simp), List.getElem?_append_left (by simpa using h)]
  simp

/-- A word placed among the words of a byte list is read back, and leaves the others. -/
theorem leAt_placeAt_words (bs : List Byte) {g g' v : Nat} (hv : v < 2 ^ 16) :
    leAt (placeAt bs (2 * g) (leBytes 2 v)) (2 * g') 2 = if g' = g then v else leAt bs (2 * g') 2 := by
  rw [leAt_two]
  split
  next hsame =>
    subst hsame
    have hlow := byteAt_placeAt_inside bs (leBytes 2 v) (2 * g') (i := 0) (by simp [leBytes])
    rw [Nat.add_zero] at hlow
    rw [hlow, byteAt_placeAt_inside bs (leBytes 2 v) (2 * g') (i := 1) (by simp [leBytes])]
    simp only [byteAt, leBytes, List.getD_cons_zero, List.getD_cons_succ, BitVec.toNat_ofNat]
    omega
  next hother =>
    rw [leAt_two, byteAt_placeAt_outside _ _ (by simp only [leBytes, List.length_cons, List.length_nil]; omega),
      byteAt_placeAt_outside _ _ (by simp only [leBytes, List.length_cons, List.length_nil]; omega)]

/-- A word replaced among the four of a 64-bit register is read back, and leaves the others. -/
theorem digit_replace {x g g' v : Nat} (hx : x < 2 ^ 64) (hg : g < 4) (hg' : g' < 4) (hv : v < 2 ^ 16) :
    (x - x / 2 ^ (16 * g) % 2 ^ 16 * 2 ^ (16 * g) + v * 2 ^ (16 * g)) % 2 ^ 64 / 2 ^ (16 * g') % 2 ^ 16 =
      if g' = g then v else x / 2 ^ (16 * g') % 2 ^ 16 := by
  interval_cases g <;> interval_cases g' <;> norm_num <;> omega

/-! ### The erasure words of a unit (R168, Table 6.7) -/

/-- The groups of a unit: the pseudo-channels of a stack, the logical ranks of a channel. -/
def erasureGroups (u : Nat) : Nat := if u < 16 then 64 else 4

theorem Chip.reg_farErasures_lt (c : Chip) {i : Nat} (hi : i < 16) : c.reg (Obj.FAR_ERASURES + i) < 2 ^ 64 := by
  have hdefault : ∀ i < 16, objDefault (Obj.FAR_ERASURES + i) < 2 ^ 64 := by decide
  unfold Chip.reg Chip.get
  split
  · exact BitVec.isLt _
  · exact hdefault i hi

theorem Chip.erasureWord_setErasureWord (c : Chip) {u g g' v : Nat} (hu : u < 32) (hg : g < erasureGroups u)
    (hg' : g' < erasureGroups u) (hv : v < 2 ^ 16) :
    (c.setErasureWord u g v).erasureWord u g' = if g' = g then v else c.erasureWord u g' := by
  unfold erasureGroups at hg hg'
  by_cases hnear : u < 16
  · rw [if_pos hnear] at hg hg'
    have hpad : ∀ bs : List Byte, leAt (fitTo 128 bs) (2 * g') 2 = leAt bs (2 * g') 2 := fun bs => by
      rw [leAt_two, leAt_two, byteAt_fitTo bs (by omega), byteAt_fitTo bs (by omega)]
    simp only [Chip.setErasureWord, Chip.erasureWord, if_pos hnear, Chip.blob, Chip.setBlob, Tbl.get_put_same]
    rw [leAt_placeAt_words _ hv, hpad]
  · rw [if_neg hnear] at hg hg'
    simp only [Chip.setErasureWord, Chip.erasureWord, if_neg hnear, Chip.reg_setReg_same]
    exact digit_replace (c.reg_farErasures_lt (by omega)) hg hg' hv

/-- The words set for a list of groups, each to its own value. -/
theorem Chip.erasureWord_foldl (c : Chip) {u : Nat} (hu : u < 32) (w : Nat → Nat) (hw : ∀ g, w g < 2 ^ 16) (gs : List Nat)
    (hgs : ∀ g ∈ gs, g < erasureGroups u) {g : Nat} (hg : g < erasureGroups u) :
    (gs.foldl (fun c g => c.setErasureWord u g (w g)) c).erasureWord u g = if g ∈ gs then w g else c.erasureWord u g := by
  induction gs generalizing c with
  | nil => simp
  | cons g0 gs ih =>
    rw [List.foldl_cons, ih _ (fun x hx => hgs x (List.mem_cons_of_mem g0 hx)),
      c.erasureWord_setErasureWord hu (hgs g0 List.mem_cons_self) hg (hw g0)]
    grind

/-- The words of a unit that a change of other objects leaves. -/
theorem Chip.erasureWord_congr {c d : Chip} (u g : Nat) (hblobs : d.blobs = c.blobs)
    (hreg : ¬ u < 16 → d.reg (Obj.FAR_ERASURES + (u - 16)) = c.reg (Obj.FAR_ERASURES + (u - 16))) :
    d.erasureWord u g = c.erasureWord u g := by
  unfold Chip.erasureWord
  split
  · simp only [Chip.blob, hblobs]
  next hfar => rw [hreg hfar]

end Sys2Proof.Machine
end

section
/-! PROOF. What the report of a memory error can change of the module (R168, R172–R176): one relation, kept by every step of a report. -/
namespace Sys2Proof.Machine

/-! ### What a memory error or a temperature reports (R168, R172–R176, R182) -/

/-- The rows of objects that such a report can write after its own counter: the states of units, their retired counts, the
calibration of a unit's group, and the recorder's counters. -/
def reportRow (row : Nat) : Bool :=
  row / 256 = 0xCB || [0x5000, 0x5001, 0x5012, 0x5013, 0xE001, 0xE002, 0xE007, 0xE008, 0xCE01].contains row

/-- Nothing changes but units, their capacity to come, events, calibration runs and the registers of the report. -/
structure Chip.Reported (c d : Chip) : Prop where
  shape : ∃ us ex st cr rg ou ca, d = { c with units := us, extNext := ex, streams := st, cairn := cr, regs := rg, out := ou, calRuns := ca }
  reg : ∀ key, reportRow (key / 256) = false → d.reg key = c.reg key

theorem unitOf_lt {pa u o : Nat} (h : unitOf pa = some (u, o)) : u < 32 := by
  have hfar : farBase = 2 ^ 40 := rfl
  unfold unitOf at h
  split at h
  · obtain ⟨rfl, -⟩ := Prod.mk.inj (Option.some.inj h)
    omega
  split at h
  · obtain ⟨rfl, -⟩ := Prod.mk.inj (Option.some.inj h)
    omega
  · cases h

namespace Chip.Reported

variable {b c d : Chip}

theorem refl (c : Chip) : Reported c c := ⟨⟨_, _, _, _, _, _, _, rfl⟩, fun _ _ => rfl⟩

theorem queues (h : Reported c d) : d.queues = c.queues := by obtain ⟨_, _, _, _, _, _, _, rfl⟩ := h.shape; rfl

theorem ridges (h : Reported c d) : d.ridges = c.ridges := by obtain ⟨_, _, _, _, _, _, _, rfl⟩ := h.shape; rfl

theorem ite {p : Prop} [Decidable p] (hc : Reported b c) (hd : Reported b d) : Reported b (if p then c else d) := by
  split <;> assumption

theorem raise (h : Reported b c) (ty part : Nat) (fs : List (Nat × Nat)) : Reported b (c.raise ty part fs) where
  shape := by
    obtain ⟨_, _, _, _, _, _, _, rfl⟩ := h.shape
    obtain ⟨_, _, _, _, he, -⟩ := Chip.raise_shape _ ty part fs
    exact ⟨_, _, _, _, _, _, _, he⟩
  reg key hkey := by
    refine (c.raise_reg ty part fs key (recorderKey_of_subject ?_)).trans (h.reg key hkey)
    simp only [reportRow, Bool.or_eq_false_iff, decide_eq_false_iff_not] at hkey
    omega

theorem setReg (h : Reported b c) (row i v : Nat) (hrow : reportRow row = true) (hi : i < 256) :
    Reported b (c.setReg (row * 256 + i) v) where
  shape := by
    obtain ⟨_, _, _, _, _, _, _, rfl⟩ := h.shape
    exact ⟨_, _, _, _, _, _, _, rfl⟩
  reg l hl := by
    refine (c.reg_setReg_other v ?_).trans (h.reg l hl)
    rintro rfl
    rw [show (row * 256 + i) / 256 = row by omega, hrow] at hl
    cases hl

theorem extSet (h : Reported b c) (key v : Nat) : Reported b (c.extSet key v) where
  shape := by
    obtain ⟨_, _, _, _, _, _, _, rfl⟩ := h.shape
    exact ⟨_, _, _, _, _, _, _, rfl⟩
  reg := h.reg

theorem updUnit (h : Reported b c) (u : Nat) (f : MemUnit → MemUnit) : Reported b (c.updUnit u f) where
  shape := by
    obtain ⟨_, _, _, _, _, _, _, rfl⟩ := h.shape
    exact ⟨_, _, _, _, _, _, _, rfl⟩
  reg := h.reg

theorem setCal (h : Reported b c) {g : Nat} (hg : g < 256) (st : Nat) (r : CalRun) : Reported b (c.setCal g st r) := by
  have hset := h.setReg 0xE001 g st (by decide) hg
  refine ⟨?_, hset.reg⟩
  obtain ⟨_, _, _, _, _, _, _, rfl⟩ := h.shape
  exact ⟨_, _, _, _, _, _, _, rfl⟩

/-- A rejected run goes IDLE with its result and is counted. -/
theorem calReject (h : Reported b c) {g : Nat} (hg : g < 256) : Reported b (c.calReject g) :=
  .ite h (((((h.setCal hg calIdle {}).setReg 0xE002 g _ (by decide) hg).setReg 0xE007 g _ (by decide) hg).setReg 0xE008 g _
    (by decide) hg).setReg 0xCE01 g _ (by decide) hg)

theorem unitState (h : Reported b c) {u : Nat} (hu : u < 32) (v : Nat) : Reported b (c.setReg (unitStateKey u) v) := by
  unfold unitStateKey
  split
  · exact h.setReg 0x5000 u v (by decide) (by omega)
  · exact h.setReg 0x5001 (u - 16) v (by decide) (by omega)

theorem outOfService (h : Reported b c) {u : Nat} (hu : u < 32) : Reported b (c.outOfService u) :=
  .ite h ((((h.unitState hu 2).extSet _ 0).calReject (by split <;> omega)).raise _ _ _)

theorem retiredCount (h : Reported b c) {u : Nat} (hu : u < 32) (n : Nat) :
    Reported b (c.setReg (if u < 16 then Obj.NEAR_RETIRED + u else Obj.FAR_RETIRED + (u - 16)) n) := by
  split
  · exact h.setReg 0x5012 u n (by decide) (by omega)
  · exact h.setReg 0x5013 (u - 16) n (by decide) (by omega)

theorem retire (h : Reported b c) (pa : Nat) (hard : Bool) : Reported b (c.retire pa hard) := by
  unfold Chip.retire
  split
  · exact h
  next u o hpa =>
  have hu := unitOf_lt hpa
  dsimp only
  refine .ite (h.updUnit _ _) (.ite (.ite (h.outOfService hu) h) ?_)
  exact .ite (((((h.updUnit u _).retiredCount hu _).extSet _ _).raise _ _ _).raise _ _ _)
    ((((h.updUnit u _).retiredCount hu _).extSet _ _).raise _ _ _)

theorem ownerN (h : Reported c d) (n : Nat) : d.ownerN n = c.ownerN n := by
  have hridges : ∀ k ∈ List.range 8, bitAt (d.ridgesOf k) n = bitAt (c.ridgesOf k) n := by
    intro k hk
    have hlt := List.mem_range.mp hk
    have hrow : reportRow (atIdx Obj.WS_APPLIED_RIDGES k / 256) = false := by
      interval_cases k <;> decide
    rw [Chip.ridgesOf, h.reg _ hrow, Chip.ridgesOf]
  rw [Chip.ownerN, Chip.owner, List.find?_congr hridges]
  rfl

end Chip.Reported
end Sys2Proof.Machine
end

section
/-! PROOF. A unit that goes out of service, and the temperatures of stacks and DIMMs (R176, R182, R473). -/
namespace Sys2Proof.Machine

/-! ### A unit goes out of service (R176) -/

section
variable {c : Chip} {u : Nat}

theorem unitStateKey_row (hu : u < 32) : unitStateKey u / 256 = 0x5000 ∨ unitStateKey u / 256 = 0x5001 := by
  simp only [unitStateKey, Obj.NEAR_STATE, Obj.FAR_STATE]
  split <;> omega

/-- A unit's state is not in another row of objects. -/
theorem Chip.unitState_setReg (c : Chip) (hu : u < 32) (row g v : Nat) (hg : g < 256) (hrow : 0x5001 < row) :
    (c.setReg (row * 256 + g) v).unitState u = c.unitState u :=
  c.reg_setReg_other v (by have hstate := unitStateKey_row hu; omega)

theorem Chip.unitState_calReject (c : Chip) (hu : u < 32) {g : Nat} (hg : g < 256) : (c.calReject g).unitState u = c.unitState u := by
  unfold Chip.calReject
  split
  · rfl
  · have hset := fun (d : Chip) row v hrow => d.unitState_setReg hu row g v hg hrow
    exact (hset _ 0xCE01 _ (by decide)).trans ((hset _ 0xE008 _ (by decide)).trans ((hset _ 0xE007 _ (by decide)).trans
      ((hset _ 0xE002 _ (by decide)).trans (hset c 0xE001 calIdle (by decide)))))

theorem Chip.unitState_raise (c : Chip) (hu : u < 32) (ty part : Nat) (fs : List (Nat × Nat)) :
    (c.raise ty part fs).unitState u = c.unitState u :=
  c.raise_reg ty part fs _ (recorderKey_of_subject (by have hstate := unitStateKey_row hu; omega))

theorem Chip.outOfService_eq (h : c.unitState u ≠ 2) :
    c.outOfService u = (((c.setReg (unitStateKey u) 2).extSet (unitBytesKey u) 0).calReject (if u < 16 then 42 + u else 26 + (u - 16))).raise
      0x0504 ((((c.setReg (unitStateKey u) 2).extSet (unitBytesKey u) 0).calReject
        (if u < 16 then 42 + u else 26 + (u - 16))).ownerN (u % 16)) [] := if_neg h

theorem Chip.unitState_outOfService (c : Chip) (hu : u < 32) : (c.outOfService u).unitState u = 2 := by
  by_cases h : c.unitState u = 2
  · rw [Chip.outOfService, if_pos h, h]
  · rw [Chip.outOfService_eq h, Chip.unitState_raise _ hu, Chip.unitState_calReject _ hu (by split <;> omega)]
    exact Chip.reg_setReg_same c _ 2

theorem Chip.calReject_extNext (c : Chip) (g : Nat) : (c.calReject g).extNext = c.extNext := by
  unfold Chip.calReject
  split <;> rfl

theorem Chip.calReject_units (c : Chip) (g : Nat) : (c.calReject g).units = c.units := by
  unfold Chip.calReject
  split <;> rfl

@[simp] theorem Chip.outOfService_units (c : Chip) (u : Nat) : (c.outOfService u).units = c.units := by
  unfold Chip.outOfService
  split
  · rfl
  · exact (Chip.raise_units ..).trans (Chip.calReject_units ..)

theorem Chip.extSoon_outOfService (h : c.unitState u ≠ 2) : (c.outOfService u).extSoon (unitBytesKey u) = 0 := by
  rw [Chip.outOfService_eq h, Chip.extSoon, Chip.raise_extNext, Chip.calReject_extNext]
  exact Tbl.get_put_same ..

theorem Chip.outOfService_said (h : c.unitState u ≠ 2) (hu : u < 32) :
    (c.outOfService u).said 0x0504 (c.ownerN (u % 16)) [] := by
  have hsame := ((((Chip.Reported.refl c).unitState hu 2).extSet (unitBytesKey u) 0).calReject
    (g := if u < 16 then 42 + u else 26 + (u - 16)) (by split <;> omega)).ownerN (u % 16)
  rw [Chip.outOfService_eq h, hsame]
  exact Chip.raise_said ..

end

/-! ### Temperatures (R182, R473) -/

/-- A reading above 95 °C that is the first: its event, and its count. -/
def Chip.thermal (c : Chip) (n : Nat) (t : W32) : Chip :=
  if f32Lt (f32OfInt 95) t then (c.raise 0x0506 (c.ownerN n) []).count modInst (Obj.CNT_STACK_THERMAL + n) 1 else c

/-- A unit with the thresholds of a reading, none of which was in force. -/
def MemUnit.heated (t : W32) : MemUnit → MemUnit := fun m =>
  { m with hotRefresh := hotter t 85 m.hotRefresh, halfRate := f32Lt (f32OfInt 95) t, heatOut := f32Lt (f32OfInt 105) t }

/-- A reading of a stack in service that is neither slowed nor out for its heat. -/
theorem Chip.stackTemp_of_cool {c : Chip} {n : Nat} (t : W32) (hstate : c.unitState n < 2) (hhalf : (c.unit n).halfRate = false)
    (hout : (c.unit n).heatOut = false) : c.stackTemp n t =
      if f32Lt (f32OfInt 105) t then ((c.thermal n t).updUnit n (MemUnit.heated t)).outOfService n
      else (c.thermal n t).updUnit n (MemUnit.heated t) := by
  have hwarm : ∀ limit, hotter t limit false = f32Lt (f32OfInt limit) t := fun limit => by simp [hotter]
  simp only [Chip.stackTemp, hhalf, hout, hwarm, Chip.thermal]
  have hserves : ¬ 2 ≤ c.unitState n := by omega
  have hheated : MemUnit.heated t = fun m =>
    { m with hotRefresh := hotter t 85 m.hotRefresh, halfRate := f32Lt (f32OfInt 95) t, heatOut := f32Lt (f32OfInt 105) t } := rfl
  by_cases h95 : f32Lt (f32OfInt 95) t = true <;> by_cases h105 : f32Lt (f32OfInt 105) t = true <;> simp [hserves, h95, h105, hheated]

theorem Chip.thermal_unitState (c : Chip) {n : Nat} (hn : n < 32) (t : W32) : (c.thermal n t).unitState n = c.unitState n := by
  unfold Chip.thermal
  split
  · exact (Chip.unitState_setReg _ hn 0xC506 n _ (by omega) (by decide)).trans (Chip.unitState_raise c hn ..)
  · rfl

theorem Chip.thermal_ownerN (c : Chip) {n : Nat} (hn : n < 16) (t : W32) (m : Nat) : (c.thermal n t).ownerN m = c.ownerN m := by
  have hkey : ¬ orderSubject (Obj.CNT_STACK_THERMAL + n) := by interval_cases n <;> decide
  unfold Chip.thermal
  split
  · exact (((Chip.OrdersLike.refl c).raise ..).count hkey 1).ownerN m
  · rfl

/-- The event of a reading above 95 °C, and its count. -/
theorem Chip.thermal_said (c : Chip) {n : Nat} {t : W32} (hn : n < 16) (hwarm : f32Lt (f32OfInt 95) t = true) :
    (c.thermal n t).said 0x0506 (c.ownerN n) [] ∧
    (c.thermal n t).reg (Obj.CNT_STACK_THERMAL + n) = (c.reg (Obj.CNT_STACK_THERMAL + n) + 1) % 2 ^ 64 := by
  rw [Chip.thermal, if_pos hwarm]
  refine ⟨Chip.said_of_streams rfl (Chip.raise_said c 0x0506 (c.ownerN n) []), ?_⟩
  rw [Chip.reg_count, if_pos rfl, Chip.raise_reg]
  exact recorderKey_of_subject (by simp only [Obj.CNT_STACK_THERMAL]; omega)

section
variable {stack : Fin 16} {temp : W32} {s : State}

theorem stackTempSample_hot (hstate : s.chip.unitState stack.val < 2) (hhalf : (s.chip.unit stack.val).halfRate = false)
    (hout : (s.chip.unit stack.val).heatOut = false) (hhot : f32Lt (f32OfInt 105) temp = true) :
    Ends (.stackTempSample stack temp) s (fun t => t.chip.unitState stack.val = 2 ∧
      (t.chip.unit stack.val).heatOut = true ∧ t.chip.said 0x0504 (s.chip.ownerN stack.val) [] ∧ t.mem = s.mem) := by
  have hn : stack.val < 32 := by omega
  refine ⟨_, rfl, ?_⟩
  simp only [State.on_chip, State.on_mem, Chip.stackTemp_of_cool temp hstate hhalf hout, if_pos hhot]
  set c := (s.chip.thermal stack.val temp).updUnit stack.val (MemUnit.heated temp)
  have hserves : c.unitState stack.val ≠ 2 := by
    have hkept : c.unitState stack.val = s.chip.unitState stack.val := s.chip.thermal_unitState hn temp
    omega
  have howner : c.ownerN stack.val = s.chip.ownerN stack.val := s.chip.thermal_ownerN stack.isLt temp stack.val
  have hsaid := Chip.outOfService_said hserves hn
  rw [Nat.mod_eq_of_lt stack.isLt, howner] at hsaid
  refine ⟨c.unitState_outOfService hn, ?_, hsaid, trivial⟩
  rw [Chip.unit, Chip.outOfService_units]
  have hheated : (c.unit stack.val).heatOut = f32Lt (f32OfInt 105) temp := by
    rw [Chip.unit_updUnit_same]
    rfl
  exact hheated.trans hhot

theorem stackTempSample_warm (hstate : s.chip.unitState stack.val < 2) (hhalf : (s.chip.unit stack.val).halfRate = false)
    (hout : (s.chip.unit stack.val).heatOut = false) (hcool : f32Lt (f32OfInt 105) temp = false)
    (hwarm : f32Lt (f32OfInt 95) temp = true) : Ends (.stackTempSample stack temp) s (fun t =>
      t.chip.unitState stack.val = s.chip.unitState stack.val ∧ (t.chip.unit stack.val).halfRate = true ∧
      t.chip.reg (Obj.CNT_STACK_THERMAL + stack.val) = (s.chip.reg (Obj.CNT_STACK_THERMAL + stack.val) + 1) % 2 ^ 64 ∧
      t.chip.said 0x0506 (s.chip.ownerN stack.val) [] ∧ t.mem = s.mem) := by
  obtain ⟨hsaid, hcount⟩ := s.chip.thermal_said stack.isLt hwarm
  refine ⟨_, rfl, ?_⟩
  simp only [State.on_chip, State.on_mem, Chip.stackTemp_of_cool temp hstate hhalf hout, hcool, Bool.false_eq_true, if_false,
    Chip.unit_updUnit_same]
  exact ⟨s.chip.thermal_unitState (by omega) temp, hwarm, hcount, Chip.said_of_streams rfl hsaid, trivial⟩

theorem stackTempSample_cool (hstate : s.chip.unitState stack.val < 2) (hhalf : (s.chip.unit stack.val).halfRate = false)
    (hout : (s.chip.unit stack.val).heatOut = false) (hcool : f32Lt (f32OfInt 105) temp = false)
    (hmild : f32Lt (f32OfInt 95) temp = false) : Ends (.stackTempSample stack temp) s (fun t =>
      (t.chip.unit stack.val).halfRate = false ∧ (t.chip.unit stack.val).heatOut = false ∧
      (t.chip.unit stack.val).hotRefresh = hotter temp 85 (s.chip.unit stack.val).hotRefresh ∧ t.chip.regs = s.chip.regs ∧
      t.mem = s.mem) := by
  have hthermal : s.chip.thermal stack.val temp = s.chip := if_neg (by simp [hmild])
  refine ⟨_, rfl, ?_⟩
  simp only [State.on_chip, State.on_mem, Chip.stackTemp_of_cool temp hstate hhalf hout, hcool, Bool.false_eq_true, if_false,
    Chip.unit_updUnit_same, hthermal]
  exact ⟨hmild, hcool, rfl, rfl, trivial⟩

end

theorem dimmTempRead_answered {channel : Fin 16} (temp : W32) (hot : Bool) {s : State} (hstate : s.chip.unitState (16 + channel.val) ≠ 3) :
    Ends (.dimmTempRead channel (some (temp, hot))) s (fun t => t.chip.reg (Obj.DIMM_TEMP + channel.val) = temp.toNat ∧
      (t.chip.unit (16 + channel.val)).tempMiss = 0 ∧ (t.chip.unit (16 + channel.val)).hotRefresh = hot ∧ t.mem = s.mem) := by
  refine ⟨_, rfl, ?_⟩
  simp only [State.on_chip, State.on_mem, if_neg hstate, Chip.unit_updUnit_same]
  refine ⟨?_, trivial, trivial, trivial⟩
  have hfits : temp.toNat < 2 ^ 64 := by omega
  exact (Chip.reg_setReg_same _ _ _).trans (Nat.mod_eq_of_lt hfits)

theorem dimmTempRead_unanswered {channel : Fin 16} {s : State} (hstate : s.chip.unitState (16 + channel.val) ≠ 3) :
    Ends (.dimmTempRead channel none) s (fun t => t.chip.regs = s.chip.regs ∧
      (t.chip.unit (16 + channel.val)).tempMiss = (s.chip.unit (16 + channel.val)).tempMiss + 1 ∧ t.mem = s.mem) := by
  refine ⟨_, rfl, ?_⟩
  simp only [State.on_chip, State.on_mem, if_neg hstate, Chip.unit_updUnit_same, Chip.updUnit_regs, and_self]

end Sys2Proof.Machine
end

section
/-! PROOF. Erasure marks that a session clears (R168, R473, Table 6.7). -/
namespace Sys2Proof.Machine

/-! ### Erasure marks are cleared (R168, Table 6.7) -/

/-- An admitted write of an effect on the chip: the chip is as the effect leaves it and then answers with its code. -/
theorem effOn_ends {s : State} {i : Instr} {r : Req} {key inst code : Nat} {bs : List Byte} {f : Nat → List Byte → Chip → Chip × Nat}
    {c : Chip} {P : State → Prop} (hexec : exec i s = .next (s.rowWrite r key bs (effOn f))) (hadmits : s.admits r key bs inst = true)
    (hf : f inst bs s.chip = (c, code))
    (hP : ∀ t : State, t.chip = c.result r.sess.val (key / 256) (key % 256) code [] → t.answers r key code → t.mem = s.mem → P t) :
    Ends i s P := by
  have heff : effOn f inst bs s = ({ s with chip := c }, code) := by simp only [effOn, hf]
  refine ⟨_, hexec, ?_⟩
  rw [State.rowWrite_admits hadmits, heff]
  exact hP _ rfl (Chip.result_last _ _ _ _ _ _) rfl

/-- An answer changes no erasure word. -/
theorem Chip.erasureWord_result (c : Chip) {u : Nat} (hu : u < 32) (g slot idx sub code : Nat) (data : List Byte) :
    (c.result slot idx sub code data).erasureWord u g = c.erasureWord u g := by
  unfold Chip.result
  split
  · exact Chip.erasureWord_congr u g rfl (fun _ => rfl)
  · refine Chip.erasureWord_congr u g rfl (fun _ => (c.reg_bump _ _).trans (if_neg ?_))
    simp only [Obj.FAR_ERASURES, Obj.CNT_DICT_REFUSED]
    omega

/-- The groups of a unit, as the effect of a write counts them. -/
theorem erasureGroups_range (u : Nat) : (if u < 16 then List.range 64 else List.range 4) = List.range (erasureGroups u) := by
  unfold erasureGroups
  split <;> rfl

section
variable {r : Req} {unit : Fin 32} {value : List Byte} {se : Sess} {s : State} {inst : Nat}

theorem execErasureClear_eq (hse : Tbl.find s.chip.sess r.sess.val = some se) : exec (.erasureClear r unit value) s =
    .next (s.rowWrite r (erasureKey unit.val) value (effErasure (se.cls = 3) unit.val)) := by
  change execErasureClear r unit value s = _
  simp only [execErasureClear, hse, done_eq]

/-- A SERVICE write that clears marks, or repeats them, leaves the words that it wrote. -/
theorem erasureClear_service (hadmits : s.admits r (erasureKey unit.val) value inst = true)
    (hse : Tbl.find s.chip.sess r.sess.val = some se) (hservice : se.cls = 3)
    (hclears : ∀ g, g < erasureGroups unit.val → erasureOk (s.chip.erasureWord unit.val g) (leAt value (2 * g) 2) = true) :
    Ends (.erasureClear r unit value) s (fun t =>
      (∀ g, g < erasureGroups unit.val → t.chip.erasureWord unit.val g = leAt value (2 * g) 2) ∧
      t.answers r (erasureKey unit.val) rcOK ∧ t.mem = s.mem) := by
  have hall : (List.range (erasureGroups unit.val)).all
      (fun g => erasureOk (s.chip.erasureWord unit.val g) (leAt value (2 * g) 2)) = true :=
    List.all_eq_true.mpr (fun g hg => hclears g (List.mem_range.mp hg))
  refine effOn_ends (execErasureClear_eq hse) hadmits (code := rcOK)
    (c := (List.range (erasureGroups unit.val)).foldl (fun c g => c.setErasureWord unit.val g (leAt value (2 * g) 2)) s.chip)
    (by simp [erasureGroups_range, hservice, hall]) ?_
  intro t ht hanswers hmem
  refine ⟨fun g hg => ?_, hanswers, hmem⟩
  rw [ht, Chip.erasureWord_result _ unit.isLt, Chip.erasureWord_foldl s.chip unit.isLt (fun g => leAt value (2 * g) 2)
    (fun g => leAt_two_lt value _) _ (fun x hx => List.mem_range.mp hx) hg, if_pos (List.mem_range.mpr hg)]

/-- Any other session's write is out of range and changes no word. -/
theorem erasureClear_other (hadmits : s.admits r (erasureKey unit.val) value inst = true)
    (hse : Tbl.find s.chip.sess r.sess.val = some se) (hother : se.cls ≠ 3) : Ends (.erasureClear r unit value) s (fun t =>
      (∀ g, g < erasureGroups unit.val → t.chip.erasureWord unit.val g = s.chip.erasureWord unit.val g) ∧
      t.answers r (erasureKey unit.val) rcRange ∧ t.mem = s.mem) := by
  refine effOn_ends (execErasureClear_eq hse) hadmits (c := s.chip) (code := rcRange) (by simp [hother]) ?_
  intro t ht hanswers hmem
  exact ⟨fun g _ => by rw [ht, Chip.erasureWord_result _ unit.isLt], hanswers, hmem⟩

end

/-- Settles O13: a fold over the groups sets each word once, and the thresholds of a reading decide what a stack does. -/
theorem erasureClearAndTemperatures : Obligations.ErasureClearAndTemperatures := by
  unfold Obligations.ErasureClearAndTemperatures
  refine ⟨fun r unit value se s inst hadmits hse => ?_, fun stack temp s hstate hhalf hout => ?_, fun channel temp hot s hstate => ?_⟩
  · exact ⟨erasureClear_service hadmits hse, erasureClear_other hadmits hse⟩
  · exact ⟨stackTempSample_hot hstate hhalf hout, stackTempSample_warm hstate hhalf hout, stackTempSample_cool hstate hhalf hout⟩
  · exact ⟨dimmTempRead_answered temp hot hstate, dimmTempRead_unanswered hstate⟩

end Sys2Proof.Machine
end

section
/-! PROOF. Frames that retire, uncorrectable lines and their readers, the scrub and the marks (R168, R170–R176). -/
namespace Sys2Proof.Machine

/-! ### Frames that are retired (R172–R176) -/

theorem Chip.unit_of_units {c d : Chip} (h : d.units = c.units) (u : Nat) : d.unit u = c.unit u := by
  rw [Chip.unit, h, Chip.unit]

theorem Chip.retiredHard_of_units {c d : Chip} (h : d.units = c.units) (pa : Nat) : d.retiredHard pa = c.retiredHard pa := by
  simp only [Chip.retiredHard, Chip.unit_of_units h]

theorem Chip.retiredAny_of_unit {pa u o : Nat} (hpa : unitOf pa = some (u, o)) (c : Chip) :
    c.retiredAny pa = (c.unit u).retired.any (fun e => e.1 = pa / 65536) := by
  simp only [Chip.retiredAny, hpa]

theorem Chip.retiredHard_of_unit {pa u o : Nat} (hpa : unitOf pa = some (u, o)) (c : Chip) :
    c.retiredHard pa = (c.unit u).retired.any (fun e => e.1 = pa / 65536 && e.2) := by
  simp only [Chip.retiredHard, hpa]

/-! ### A line that is found (R173, R174) -/

/-- A line that is found is counted, and has its event where the epoch does not know it. -/
def Chip.noteLine (c : Chip) (u line part : Nat) (fs : List (Nat × Nat)) : Chip :=
  let c := c.bump (ueCounter u)
  if (c.unit u).ueLines.contains line then c
  else (c.updUnit u (fun x => { x with ueLines := x.ueLines ++ [line], ueEpoch := x.ueEpoch + 1 })).raise 0x0501 part fs

theorem Chip.bump_ueCounter (c : Chip) (u : Nat) :
    c.bump (ueCounter u) = if u < 16 then c.bump (Obj.CNT_NEAR_UE + u) else c.bump (Obj.CNT_FAR_UE + (u - 16)) := by
  unfold ueCounter
  split <;> rfl

theorem Chip.noteLine_reported (c : Chip) (u line part : Nat) (fs : List (Nat × Nat)) :
    (c.bump (ueCounter u)).Reported (c.noteLine u line part fs) :=
  .ite (.refl _) (((Chip.Reported.refl _).updUnit u _).raise 0x0501 part fs)

theorem Chip.noteLine_retired (c : Chip) (u line part : Nat) (fs : List (Nat × Nat)) :
    ((c.noteLine u line part fs).unit u).retired = (c.unit u).retired := by
  simp only [Chip.noteLine]
  split
  · rfl
  · rw [Chip.unit_of_units (Chip.raise_units ..), Chip.unit_updUnit_same]
    rfl

/-! ### Its frame -/

section
variable {c : Chip} {pa u o : Nat} (hpa : unitOf pa = some (u, o))
include hpa

/-- A frame that is already listed keeps its one entry, which a hard retirement makes hard. -/
theorem Chip.retire_of_listed (hard : Bool) (hlisted : c.retiredAny pa = true) :
    ((c.retire pa hard).unit u).retired =
      (c.unit u).retired.map (fun e => if e.1 = pa / 65536 then (pa / 65536, e.2 || hard) else e) := by
  rw [Chip.retiredAny_of_unit hpa] at hlisted
  simp only [Chip.retire, hpa, if_pos hlisted, Chip.unit_updUnit_same]

/-- A frame that is not listed gets an entry, where the list has room. -/
theorem Chip.retire_of_unlisted (hard : Bool) (hunlisted : c.retiredAny pa = false) (hroom : c.roomToRetire u = true) :
    ((c.retire pa hard).unit u).retired = (c.unit u).retired ++ [(pa / 65536, hard)] := by
  rw [Chip.retiredAny_of_unit hpa] at hunlisted
  rw [Chip.roomToRetire, decide_eq_true_eq] at hroom
  have hunits : (c.retire pa hard).units =
      (c.updUnit u (fun x => { x with retired := x.retired ++ [(pa / 65536, hard)] })).units := by
    simp only [Chip.retire, hpa, hunlisted, Bool.false_eq_true, if_false, if_neg (Nat.not_le.mpr hroom), apply_ite Chip.units,
      Chip.raise_units, ite_self]
    rfl
  rw [Chip.unit_of_units hunits, Chip.unit_updUnit_same]

/-- Hard retirement, where the list has room for one more frame. -/
theorem Chip.retiredHard_retire (hroom : c.roomToRetire u = true) : (c.retire pa true).retiredHard pa = true := by
  rw [Chip.retiredHard_of_unit hpa]
  cases hlisted : c.retiredAny pa with
  | false =>
    rw [Chip.retire_of_unlisted hpa true hlisted hroom]
    simp
  | true =>
    rw [Chip.retire_of_listed hpa true hlisted, List.any_map]
    rw [Chip.retiredAny_of_unit hpa, List.any_eq_true] at hlisted
    obtain ⟨e, he, hframe⟩ := hlisted
    refine List.any_eq_true.mpr ⟨e, he, ?_⟩
    simp [decide_eq_true_eq.mp hframe]

/-! ### Uncorrectable lines (R173, R174, R176) -/

/-- Once the line is noted its frame retires, and with too many of them the unit goes out of service. -/
theorem Chip.uncorrLine_eq (c : Chip) (mask src part ctx va : Nat) : c.uncorrLine pa mask src part ctx va =
    let d := (c.noteLine u (pa / 128) part
      [(1, 1 + u / 16), (1, u % 16), (8, pa / 128 * 128), (1, mask), (1, src), (1, part), (1, ctx), (8, va)]).retire pa true
    if (d.unit u).ueEpoch > d.reg Obj.UE_EPOCH_LIMIT then d.outOfService u else d := by
  simp only [Chip.uncorrLine, hpa, Chip.noteLine, Chip.bump_ueCounter]

theorem Chip.uncorrLine_reported (c : Chip) (mask src part ctx va : Nat) :
    (c.bump (ueCounter u)).Reported (c.uncorrLine pa mask src part ctx va) := by
  rw [Chip.uncorrLine_eq hpa]
  exact .ite (((c.noteLine_reported ..).retire pa true).outOfService (unitOf_lt hpa)) ((c.noteLine_reported ..).retire pa true)

theorem Chip.uncorrLine_counts (c : Chip) (mask src part ctx va : Nat) :
    (c.uncorrLine pa mask src part ctx va).reg (ueCounter u) = (c.reg (ueCounter u) + 1) % 2 ^ 64 := by
  have hu := unitOf_lt hpa
  have hrow : reportRow (ueCounter u / 256) = false := by interval_cases u <;> decide
  rw [(c.uncorrLine_reported hpa mask src part ctx va).reg _ hrow, Chip.reg_bump, if_pos rfl]

theorem Chip.uncorrLine_retires (hroom : c.roomToRetire u = true) (mask src part ctx va : Nat) :
    (c.uncorrLine pa mask src part ctx va).retiredHard pa = true := by
  have hretires := fun line fs => Chip.retiredHard_retire hpa (c := c.noteLine u line part fs)
    (by rwa [Chip.roomToRetire, c.noteLine_retired])
  rw [Chip.uncorrLine_eq hpa]
  dsimp only
  split
  · exact (Chip.retiredHard_of_units (Chip.outOfService_units ..) pa).trans (hretires ..)
  · exact hretires ..

end

theorem Chip.endCmd_units (c : Chip) (n q count st : Nat) : (c.endCmd n q count st).units = c.units := rfl

theorem Chip.endCmd_regs (c : Chip) (n q count st : Nat) : (c.endCmd n q count st).regs = c.regs := rfl

theorem Chip.dispatch_units (c : Chip) (n : Nat) : (c.dispatch n).units = c.units := by
  obtain ⟨_, _, _, hshape⟩ := ((Chip.Issued.refl c).dispatch n).shape
  rw [hshape]

/-- A command that ended is found ended after the issue that follows. -/
theorem Chip.ended_after_dispatch {c : Chip} {n q count st : Nat} {k : Cmd} (hk : c.cmd n q count = some k) (hst : st ≠ stOK) :
    ∃ e ∈ (((c.endCmd n q count st).dispatch n).queue n q).cmds, e.count = count ∧ e.finished = true ∧ st ∈ e.status := by
  obtain ⟨e1, he1, hended⟩ := Chip.cmd_endCmd st hk
  obtain ⟨e2, he2, hissued⟩ := ((c.endCmd n q count st).dispatch_issuedTo n).cmd he1
  rw [Chip.cmd] at he2
  have hcount := Queue.count_of_cmd he2
  rw [Queue.cmd] at he2
  refine ⟨e2, List.mem_of_find?_eq_some he2, hcount, hissued.finished.trans hended.finished, ?_⟩
  rw [hissued.status]
  exact hended.mem hst

/-- The reader of the line is a unit of DMA work: the line is noted, and the unit's command ends. -/
theorem exec_memUncorrectable_dma {pa : W64} (mask : Fin 16) {n : Fin 16} {slot : Fin 32} (va : W48) {d : DmaUnit} {u o : Nat} {s : State}
    (hcheck : s.chip.accCheck pa.toNat = .ok) (hunit : Tbl.find (s.chip.ridge n.val).dma slot.val = some d)
    (hpa : unitOf pa.toNat = some (u, o)) : exec (.memUncorrectable pa mask (.dma n slot) 0 va) s =
      .next ((s.on fun c => (c.uncorrLine pa.toNat mask.val srcData (c.ownerN n.val) (c.qctx n.val d.queue) va.toNat).endCmd
        n.val d.queue d.count stUncorr).kick n.val) := by
  have hends := fun mask src part ctx va => show (s.chip.uncorrLine pa.toNat mask src part ctx va).giveUp stUncorr (.dma n.val slot.val) =
      (s.chip.uncorrLine pa.toNat mask src part ctx va).endCmd n.val d.queue d.count stUncorr by
    have hridges := (s.chip.uncorrLine_reported hpa mask src part ctx va).ridges.trans (Chip.count_ridges ..)
    simp only [Chip.giveUp, Chip.ridge_of_ridges hridges n.val, hunit]
  change execMemUncorrectable pa mask (.dma n slot) 0 va s = _
  simp only [execMemUncorrectable, hcheck, hunit]
  exact congrArg (fun x : Chip => Host.Outcome.next ((s.on fun _ => x).kick n.val))
    (hends mask.val srcData (s.chip.ownerN n.val) (s.chip.qctx n.val d.queue) va.toNat)

/-- The frame is retired, the error counted, and the unit's command ended. -/
theorem memUncorrectable_dma {pa : W64} {mask n : Fin 16} {slot : Fin 32} {va : W48} {d : DmaUnit} {u o : Nat} {s : State}
    (hcheck : s.chip.accCheck pa.toNat = .ok) (hunit : Tbl.find (s.chip.ridge n.val).dma slot.val = some d)
    (hpa : unitOf pa.toNat = some (u, o)) (hroom : s.chip.roomToRetire u = true) :
    Ends (.memUncorrectable pa mask (.dma n slot) 0 va) s (fun t => t.chip.retiredHard pa.toNat = true ∧
      t.chip.reg (ueCounter u) = (s.chip.reg (ueCounter u) + 1) % 2 ^ 64 ∧
      (∀ k, s.chip.cmd n.val d.queue d.count = some k →
        ∃ e ∈ (t.chip.queue n.val d.queue).cmds, e.count = d.count ∧ e.finished = true ∧ stUncorr ∈ e.status) ∧ t.mem = s.mem) := by
  refine ⟨_, exec_memUncorrectable_dma mask va hcheck hunit hpa, ?_⟩
  simp only [State.kick_chip, State.kick_mem, State.on_chip, State.on_mem]
  have hqueues := (s.chip.uncorrLine_reported hpa mask.val srcData (s.chip.ownerN n.val) (s.chip.qctx n.val d.queue) va.toNat).queues
  have hretired := Chip.uncorrLine_retires hpa hroom mask.val srcData (s.chip.ownerN n.val) (s.chip.qctx n.val d.queue) va.toNat
  have hcounted := s.chip.uncorrLine_counts hpa mask.val srcData (s.chip.ownerN n.val) (s.chip.qctx n.val d.queue) va.toNat
  generalize s.chip.uncorrLine pa.toNat mask.val srcData (s.chip.ownerN n.val) (s.chip.qctx n.val d.queue) va.toNat = c at *
  refine ⟨?_, ?_, fun k hk => ?_, trivial⟩
  · rw [Chip.retiredHard_of_units (Chip.dispatch_units ..), Chip.retiredHard_of_units (Chip.endCmd_units ..), hretired]
  · rw [((Chip.IssueKeeps.refl n.val _).dispatch).reg, Chip.reg_of_same_regs (Chip.endCmd_regs ..), hcounted]
  · exact Chip.ended_after_dispatch ((Chip.cmd_of_queues hqueues ..).trans hk) (by decide)

/-! ### The patrol scrub (R170, R171, R174) -/

theorem patrolScrub_uncorrectable {unit : Fin 32} {pa : W64} {mask : Fin 16} {o : Nat} {s : State}
    (hpa : unitOf pa.toNat = some (unit.val, o)) (hstate : s.chip.unitState unit.val ≤ 1) (hbacked : o < (s.chip.unit unit.val).backed)
    (hroom : s.chip.roomToRetire unit.val = true) : Ends (.patrolScrub unit [] [(pa, mask)] false false) s (fun t =>
      t.chip.retiredHard pa.toNat = true ∧
      t.chip.reg (ueCounter unit.val) = (s.chip.reg (ueCounter unit.val) + 1) % 2 ^ 64 ∧ t.chip.queues = s.chip.queues ∧
      t.mem = s.mem) := by
  have hexec : exec (.patrolScrub unit [] [(pa, mask)] false false) s = .next (s.on fun c =>
      c.uncorrLine pa.toNat mask.val srcScrub (c.ownerN (unit.val % 16)) 0 0) := by
    change execPatrolScrub unit [] [(pa, mask)] false false s = _
    simp [execPatrolScrub, hpa, hstate, hbacked, Chip.corrected]
  exact ⟨_, hexec, Chip.uncorrLine_retires hpa hroom .., s.chip.uncorrLine_counts hpa .., (s.chip.uncorrLine_reported hpa ..).queues, rfl⟩

theorem patrolScrub_passEnd (unit : Fin 32) (s : State) : Ends (.patrolScrub unit [] [] true true) s (fun t =>
    (t.chip.unit unit.val).ceFrames = [] ∧ (t.chip.unit unit.val).ceSources = [] ∧
    (t.chip.unit unit.val).retired = (s.chip.unit unit.val).retired ∧
    t.chip.reg (Obj.CNT_SCRUB_LATE + unit.val) = (s.chip.reg (Obj.CNT_SCRUB_LATE + unit.val) + 1) % 2 ^ 64 ∧ t.mem = s.mem) := by
  refine ⟨_, rfl, ?_⟩
  simp only [State.on_chip, State.on_mem, List.filter_nil, List.foldl_nil, if_true, Chip.unit_updUnit_same]
  exact ⟨trivial, trivial, rfl, (Chip.reg_count ..).trans (if_pos rfl), trivial⟩

/-! ### A source that is marked (R168) -/

theorem Chip.ownerN_setErasureWord (c : Chip) {u : Nat} (hu : u < 32) (g v n : Nat) :
    (c.setErasureWord u g v).ownerN n = c.ownerN n := by
  unfold Chip.setErasureWord
  split
  · rfl
  · refine ((Chip.OrdersLike.refl c).setReg ?_ _).ownerN n
    interval_cases u <;> decide

theorem erasureMarked_marks {unit : Fin 32} {group : Fin 64} {source : Fin 20} {s : State} (hgroup : group.val < erasureGroups unit.val)
    (hstate : s.chip.unitState unit.val ≤ 1) (hfree : s.chip.erasureWord unit.val group.val = 0)
    (hlimit : s.chip.reg Obj.CE_SOURCE_LIMIT ≤ Tbl.get (s.chip.unit unit.val).ceSources 0 (group.val * 32 + source.val)) :
    Ends (.erasureMarked unit group source) s (fun t => t.chip.erasureWord unit.val group.val = source.val + 32 ∧
      t.chip.unitState unit.val = 1 ∧ t.chip.said 0x0503 (s.chip.ownerN (unit.val % 16)) [] ∧ t.mem = s.mem) := by
  have hu := unit.isLt
  have hword : (s.chip.setErasureWord unit.val group.val (source.val + 32)).erasureWord unit.val group.val = source.val + 32 :=
    (s.chip.erasureWord_setErasureWord hu hgroup hgroup (by omega)).trans (if_pos rfl)
  have hmarks : s.chip.markErasure unit.val group.val source.val =
      ((s.chip.setErasureWord unit.val group.val (source.val + 32)).setReg (unitStateKey unit.val) 1).raise 0x0503
        ((s.chip.setErasureWord unit.val group.val (source.val + 32)).ownerN (unit.val % 16)) [] := by
    have hfits : ¬ erasureGroups unit.val ≤ group.val := Nat.not_le.mpr hgroup
    rw [erasureGroups] at hfits
    simp [Chip.markErasure, hfree, bitAt, hfits, Nat.not_lt.mpr hstate, Nat.not_lt.mpr hlimit]
  refine ⟨_, rfl, ?_⟩
  simp only [State.on_chip, State.on_mem, hmarks]
  rw [s.chip.ownerN_setErasureWord hu]
  generalize s.chip.setErasureWord unit.val group.val (source.val + 32) = c at hword
  refine ⟨?_, (Chip.unitState_raise _ hu ..).trans (Chip.reg_setReg_same ..), Chip.raise_said .., trivial⟩
  refine (Chip.erasureWord_congr _ _ ((Chip.raise_blobs ..).trans (Chip.setReg_blobs c ..)) (fun _ => ?_)).trans hword
  rw [Chip.raise_reg _ _ _ _ _ (recorderKey_of_subject (by simp only [Obj.FAR_ERASURES]; omega))]
  refine Chip.reg_setReg_other c 1 ?_
  have hrow := unitStateKey_row hu
  simp only [Obj.FAR_ERASURES]
  omega

/-! ### A unit that failed (R176) -/

theorem memOutOfService_ends {unit : Fin 32} {s : State} (hstate : s.chip.unitState unit.val ≤ 1) :
    Ends (.memOutOfService unit) s (fun t => t.chip.unitState unit.val = 2 ∧ t.chip.extSoon (unitBytesKey unit.val) = 0 ∧
      t.chip.said 0x0504 (s.chip.ownerN (unit.val % 16)) [] ∧ t.mem = s.mem) := by
  have hserves : s.chip.unitState unit.val ≠ 2 := by omega
  refine ⟨_, rfl, ?_⟩
  simp only [State.on_chip, State.on_mem, if_pos hstate]
  exact ⟨s.chip.unitState_outOfService unit.isLt, Chip.extSoon_outOfService hserves, Chip.outOfService_said hserves unit.isLt, trivial⟩

end Sys2Proof.Machine
end

section
/-! PROOF. Soft retirement (R172, R208, R210, R214), and the memory errors together. -/
namespace Sys2Proof.Machine

/-! ### A record to a steward changes no unit and drops no request of the host's (R208, R214) -/

/-- Some request to the host is to move this frame of the partition. -/
def Chip.asksRetire (c : Chip) (k pa : Nat) : Prop := ∃ h ∈ c.hosts, h.retire = true ∧ h.info.part = k ∧ h.frame = pa

/-- What a record that is posted leaves: every unit, and every request to move a frame. -/
structure Chip.Posted (c d : Chip) : Prop where
  units : d.units = c.units
  asks : ∀ k pa, c.asksRetire k pa → d.asksRetire k pa

namespace Chip.Posted

variable {b c d : Chip}

theorem trans (h : Posted b c) (h' : Posted c d) : Posted b d := ⟨h'.units.trans h.units, fun k pa => h'.asks k pa ∘ h.asks k pa⟩

theorem of_hosts (hunits : d.units = c.units) (hhosts : d.hosts = c.hosts) : Posted c d :=
  ⟨hunits, fun k pa h => by rwa [Chip.asksRetire, hhosts]⟩

theorem refl (c : Chip) : Posted c c := .of_hosts rfl rfl

theorem raise (c : Chip) (ty part : Nat) (fs : List (Nat × Nat)) : Posted c (c.raise ty part fs) :=
  .of_hosts (Chip.raise_units ..) (Chip.raise_hosts ..)

theorem set (c : Chip) (i key v : Nat) : Posted c (c.set i key v) := .of_hosts (Chip.set_units ..) (Chip.set_hosts ..)

theorem countPart (c : Chip) (k key n : Nat) : Posted c (c.countPart k key n) := by
  unfold Chip.countPart
  split
  · exact set ..
  · exact refl c

theorem updPart (c : Chip) (k : Nat) (f : Part → Part) : Posted c (c.updPart k f) := .of_hosts rfl rfl

/-- A request whose record is written stays the same request. -/
theorem written (c : Chip) (p : HostFault → Prop) [DecidablePred p] :
    Posted c { c with hosts := c.hosts.map (fun h => if p h then { h with written := true } else h) } := by
  refine ⟨rfl, fun k pa ⟨h, hmem, hretire, hpart, hframe⟩ => ⟨_, List.mem_map_of_mem hmem, ?_⟩⟩
  split <;> exact ⟨hretire, hpart, hframe⟩

theorem access (c : Chip) (k pa : Nat) : Posted c (c.access k pa).1 := by
  unfold Chip.access
  split
  · exact refl c
  · exact raise c 0x0507 k [(8, pa)]
  · exact set c _ _ _

theorem writePhys (s : State) (k pa : Nat) (bs : List Byte) : Posted s.chip (s.writePhys k pa bs).1.chip := by
  have haccess := access s.chip k pa
  unfold State.writePhys
  dsimp only
  split
  · exact haccess
  · split <;> exact haccess

theorem ringWrite (s : State) (k : Nat) (bs : List Byte) : Posted s.chip (s.ringWrite k bs).chip := by
  have hcounted : ∀ c : Chip, Posted c (if byteAt bs 0 = 1 then c.countPart k Obj.CNT_FAULT_HOST 1
      else if byteAt bs 0 = 2 then c.countPart k Obj.CNT_FAULT_FATAL 1 else c) := fun c => by
    split
    · exact countPart ..
    split
    · exact countPart ..
    · exact refl c
  exact (((writePhys ..).trans (written _ _)).trans (hcounted _)).trans (set ..)

theorem post (s : State) (k : Nat) (r : Rec) : Posted s.chip (s.post k r).chip := by
  unfold State.post
  dsimp only
  split
  · exact ringWrite ..
  · rw [State.on_chip]
    split
    · exact updPart ..
    rw [State.on_chip]
    exact ((updPart ..).trans (raise ..)).trans (updPart ..)

end Chip.Posted

/-! ### Soft retirement (R172, R210) -/

/-- The host is asked once to move the frame. -/
theorem State.askRetire_asks (s : State) (k pa : Nat) : (s.askRetire k pa).chip.asksRetire k pa := by
  unfold State.askRetire
  split
  next hasked =>
    obtain ⟨h, hmem, hsame⟩ := List.any_eq_true.mp hasked
    simp only [Bool.and_eq_true, decide_eq_true_eq] at hsame
    exact ⟨h, hmem, hsame.1.1, hsame.1.2, hsame.2⟩
  next =>
    refine (Chip.Posted.post ..).asks k pa ⟨_, List.mem_append_right _ (List.mem_singleton_self _), ?_⟩
    exact ⟨rfl, rfl, rfl⟩

theorem State.askRetire_units (s : State) (k pa : Nat) : (s.askRetire k pa).chip.units = s.chip.units := by
  unfold State.askRetire
  split
  · rfl
  · exact (Chip.Posted.post ..).units

/-- The first byte of a frame lies in the frame's unit. -/
theorem unitOf_frame {pa u o : Nat} (h : unitOf pa = some (u, o)) : ∃ o', unitOf (pa / 65536 * 65536) = some (u, o') := by
  have hfar : farBase = 2 ^ 40 := rfl
  unfold unitOf at h ⊢
  split at h
  · obtain ⟨rfl, -⟩ := Prod.mk.inj (Option.some.inj h)
    rw [if_pos (by omega)]
    exact ⟨_, by rw [show pa / 65536 * 65536 / 2 ^ 36 = pa / 2 ^ 36 by omega]⟩
  split at h
  · obtain ⟨rfl, -⟩ := Prod.mk.inj (Option.some.inj h)
    rw [if_neg (by omega), if_pos (by omega)]
    exact ⟨_, by rw [show (pa / 65536 * 65536 - farBase) / 2 ^ 38 = (pa - farBase) / 2 ^ 38 by omega]⟩
  · cases h

/-- A crossing of the limit on a frame that nothing moves yet begins its count again, and turns to the unit's owner. -/
theorem State.softRetire_crossed {pa u o : Nat} {s : State} (hpa : unitOf pa = some (u, o)) (hcheck : s.chip.accCheck pa = .ok)
    (hfresh : s.chip.retiredAny pa = false) (hidle : s.chip.pend = [])
    (hlimit : s.chip.reg Obj.CE_FRAME_LIMIT ≤ Tbl.get (s.chip.unit u).ceFrames 0 (pa / 65536)) :
    let t := s.on (fun c => c.updUnit u (fun m => { m with ceFrames := Tbl.put m.ceFrames (pa / 65536) 0 }))
    (s.chip.owner (u % 16) = none → s.softRetire pa = t.on (fun c => c.retire (pa / 65536 * 65536) false)) ∧
    (∀ k, s.chip.owner (u % 16) = some k → s.chip.reg (atIdx Obj.RMAP_BASE u) = 0 →
      s.softRetire pa = t.askRetire k (pa / 65536 * 65536)) := by
  have hcrossed : ¬ Tbl.get (s.chip.unit u).ceFrames 0 (pa / 65536) < s.chip.reg Obj.CE_FRAME_LIMIT := Nat.not_lt.mpr hlimit
  refine ⟨fun howner => ?_, fun k howner hmap => ?_⟩
  · simp [State.softRetire, hpa, hcheck, hfresh, hidle, hcrossed, howner]
  · simp [State.softRetire, hpa, hcheck, hfresh, hidle, hcrossed, howner, hmap, bitAt]

section
variable {pa : W64} {u o : Nat} {s : State}

theorem frameSoftRetire_unowned (hpa : unitOf pa.toNat = some (u, o)) (hcheck : s.chip.accCheck pa.toNat = .ok)
    (hfresh : s.chip.retiredAny pa.toNat = false) (hidle : s.chip.pend = [])
    (hlimit : s.chip.reg Obj.CE_FRAME_LIMIT ≤ Tbl.get (s.chip.unit u).ceFrames 0 (pa.toNat / 65536))
    (howner : s.chip.owner (u % 16) = none) (hroom : s.chip.roomToRetire u = true) :
    Ends (.frameSoftRetire pa) s (fun t => t.chip.retiredAny pa.toNat = true ∧ t.chip.retiredHard pa.toNat = false ∧ t.mem = s.mem) := by
  obtain ⟨o', hframe⟩ := unitOf_frame hpa
  have hsame : pa.toNat / 65536 * 65536 / 65536 = pa.toNat / 65536 := Nat.mul_div_cancel _ (by decide)
  refine ⟨_, congrArg Host.Outcome.next ((State.softRetire_crossed hpa hcheck hfresh hidle hlimit).1 howner), ?_⟩
  simp only [State.on_chip, State.on_mem]
  set c := s.chip.updUnit u (fun m => { m with ceFrames := Tbl.put m.ceFrames (pa.toNat / 65536) 0 })
  have hlist : (c.unit u).retired = (s.chip.unit u).retired := by
    rw [Chip.unit_updUnit_same]
  rw [Chip.retiredAny_of_unit hpa] at hfresh
  have hunlisted : c.retiredAny (pa.toNat / 65536 * 65536) = false := by
    rw [Chip.retiredAny_of_unit hframe, hlist, hsame, hfresh]
  have hretired := Chip.retire_of_unlisted hframe false hunlisted (by rwa [Chip.roomToRetire, hlist])
  rw [hsame, hlist] at hretired
  refine ⟨?_, ?_, trivial⟩
  · rw [Chip.retiredAny_of_unit hpa, hretired]
    simp
  · rw [Chip.retiredHard_of_unit hpa, hretired, List.any_eq_false]
    intro e he
    rcases List.mem_append.mp he with hold | hnew
    · have hother := List.any_eq_false.mp hfresh e hold
      simp only [decide_eq_true_eq] at hother
      simp [hother]
    · simp [List.mem_singleton.mp hnew]

theorem frameSoftRetire_owned (hpa : unitOf pa.toNat = some (u, o)) (hcheck : s.chip.accCheck pa.toNat = .ok)
    (hfresh : s.chip.retiredAny pa.toNat = false) (hidle : s.chip.pend = [])
    (hlimit : s.chip.reg Obj.CE_FRAME_LIMIT ≤ Tbl.get (s.chip.unit u).ceFrames 0 (pa.toNat / 65536)) {k : Nat}
    (howner : s.chip.owner (u % 16) = some k) (hmap : s.chip.reg (atIdx Obj.RMAP_BASE u) = 0) :
    Ends (.frameSoftRetire pa) s (fun t => t.chip.retiredAny pa.toNat = false ∧
      ∃ h ∈ t.chip.hosts, h.retire = true ∧ h.info.part = k ∧ h.frame = pa.toNat / 65536 * 65536) := by
  refine ⟨_, congrArg Host.Outcome.next ((State.softRetire_crossed hpa hcheck hfresh hidle hlimit).2 k howner hmap), ?_,
    State.askRetire_asks ..⟩
  rw [Chip.retiredAny_of_unit hpa] at hfresh ⊢
  rw [Chip.unit_of_units (State.askRetire_units ..), State.on_chip, Chip.unit_updUnit_same, hfresh]

end

/-- Settles O12: a line that is found retires its frame whoever reads it, and what its report writes is neither the unit's counter nor
a queue; a mark, a retirement and an outage each by the rule of its operation. -/
theorem memoryErrors : Obligations.MemoryErrors := by
  unfold Obligations.MemoryErrors
  refine ⟨fun pa mask n slot va d u o s hcheck hunit hpa hroom => memUncorrectable_dma hcheck hunit hpa hroom,
    fun unit pa mask o s hpa hstate hbacked hroom => patrolScrub_uncorrectable hpa hstate hbacked hroom, patrolScrub_passEnd,
    fun unit group source s hgroup hstate hfree hlimit => erasureMarked_marks hgroup hstate hfree hlimit, ?_,
    fun unit s hstate => memOutOfService_ends hstate⟩
  intro pa u o s hpa hcheck hfresh hidle hlimit
  exact ⟨frameSoftRetire_unowned hpa hcheck hfresh hidle hlimit,
    fun k howner hmap => frameSoftRetire_owned hpa hcheck hfresh hidle hlimit howner hmap⟩

end Sys2Proof.Machine
end

section
/-! PROOF. Roots and invalidations of translation (R184, R191, R194): a dictionary write and its answer, cached translations that are
dropped, and a walk that is made ahead of a unit. -/
namespace Sys2Proof.Machine

/-! ### A dictionary write and its answer (R359, R363) -/

/-- `t` is `u` after a session has its answer: a message more, and with a refusal its count. -/
structure State.AnsweredFrom (u t : State) (r : Req) (key code : Nat) : Prop where
  shape : ∃ gs ou, t.chip = { u.chip with regs := gs, out := ou }
  get : ∀ i k, k < 2 ^ 24 → k ≠ Obj.CNT_DICT_REFUSED → t.chip.get i k = u.chip.get i k
  regs : code = rcOK → t.chip.regs = u.chip.regs
  answers : t.answers r key code
  mem : t.mem = u.mem

namespace State.AnsweredFrom

variable {u t : State} {r : Req} {key code : Nat}

theorem queues (h : u.AnsweredFrom t r key code) : t.chip.queues = u.chip.queues := by obtain ⟨_, _, h⟩ := h.shape; rw [h]
theorem ridges (h : u.AnsweredFrom t r key code) : t.chip.ridges = u.chip.ridges := by obtain ⟨_, _, h⟩ := h.shape; rw [h]
theorem parts (h : u.AnsweredFrom t r key code) : t.chip.parts = u.chip.parts := by obtain ⟨_, _, h⟩ := h.shape; rw [h]
theorem hosts (h : u.AnsweredFrom t r key code) : t.chip.hosts = u.chip.hosts := by obtain ⟨_, _, h⟩ := h.shape; rw [h]
theorem units (h : u.AnsweredFrom t r key code) : t.chip.units = u.chip.units := by obtain ⟨_, _, h⟩ := h.shape; rw [h]

theorem result (u : State) (r : Req) (key code : Nat) :
    u.AnsweredFrom (u.on (fun c => c.result r.sess.val (key / 256) (key % 256) code [])) r key code where
  shape := by
    rw [State.on_chip, Chip.result]
    split <;> exact ⟨_, _, rfl⟩
  get i k hk hne := by
    rw [State.on_chip, Chip.result]
    split
    · rfl
    · exact Chip.get_set_other _ _ (by rw [Ne, ikey_inj hk (by decide)]; exact fun h => hne h.2)
  regs hcode := by rw [State.on_chip, hcode, Chip.result_ok, Chip.send_regs]
  answers := Chip.result_last ..
  mem := rfl

end State.AnsweredFrom

/-- An admitted write ends with its effect answered. -/
theorem rowWrite_ends {i : Instr} {s u : State} {r : Req} {key inst code : Nat} {bs : List Byte} {eff : Eff} {P : State → Prop}
    (hexec : exec i s = .next (s.rowWrite r key bs eff)) (hadmits : s.admits r key bs inst = true) (heff : eff inst bs s = (u, code))
    (hP : ∀ t, u.AnsweredFrom t r key code → P t) : Ends i s P := by
  refine ⟨_, hexec, hP _ ?_⟩
  rw [State.rowWrite_admits hadmits, heff]
  exact .result u r key code

/-- An admitted write whose effect is on the chip alone. -/
theorem rowWriteOn_ends {i : Instr} {s : State} {c : Chip} {r : Req} {key inst code : Nat} {bs : List Byte}
    {f : Nat → List Byte → Chip → Chip × Nat} {P : State → Prop} (hexec : exec i s = .next (s.rowWrite r key bs (effOn f)))
    (hadmits : s.admits r key bs inst = true) (heff : f inst bs s.chip = (c, code))
    (hP : ∀ t, (s.on fun _ => c).AnsweredFrom t r key code → P t) : Ends i s P :=
  rowWrite_ends hexec hadmits (by rw [effOn, heff]; rfl) hP

theorem leNat_wr {n v : Nat} (h : v < 256 ^ n) : leNat (wr n v) = v := by rw [wr, leNat_leBytes, Nat.mod_eq_of_lt h]

/-! ### Cached translations that are dropped (R184, R194) -/

/-- A drop changes the Ridges alone. -/
theorem Chip.dropTlb_shape (c : Chip) (part : Nat) (leaf : TlbEnt → Bool) (ptr : PtrEnt → Bool) :
    ∃ rs, c.dropTlb part leaf ptr = { c with ridges := rs } :=
  List.foldlRecOn (motive := fun d => ∃ rs, d = { c with ridges := rs }) _ _ ⟨_, rfl⟩
    (fun _ ⟨_, hd⟩ _ _ => ⟨_, by rw [hd]; rfl⟩)

@[simp] theorem Chip.dropTlb_regs (c : Chip) (part : Nat) (leaf : TlbEnt → Bool) (ptr : PtrEnt → Bool) :
    (c.dropTlb part leaf ptr).regs = c.regs := by
  obtain ⟨_, h⟩ := c.dropTlb_shape part leaf ptr
  rw [h]

@[simp] theorem Chip.dropTlb_queues (c : Chip) (part : Nat) (leaf : TlbEnt → Bool) (ptr : PtrEnt → Bool) :
    (c.dropTlb part leaf ptr).queues = c.queues := by
  obtain ⟨_, h⟩ := c.dropTlb_shape part leaf ptr
  rw [h]

@[simp] theorem Chip.dropTlb_parts (c : Chip) (part : Nat) (leaf : TlbEnt → Bool) (ptr : PtrEnt → Bool) :
    (c.dropTlb part leaf ptr).parts = c.parts := by
  obtain ⟨_, h⟩ := c.dropTlb_shape part leaf ptr
  rw [h]

/-- A leaf stays on a Ridge unless the Ridge is the partition's and the leaf is named. -/
theorem Chip.mem_tlb_dropTlb {c : Chip} {part : Nat} {leaf : TlbEnt → Bool} {ptr : PtrEnt → Bool} {n : Nat} {e : TlbEnt} :
    e ∈ ((c.dropTlb part leaf ptr).ridge n).tlb ↔
      e ∈ (c.ridge n).tlb ∧ ¬ (n ∈ c.ridgeList part ∧ e.part = part ∧ leaf e = true) := by
  unfold Chip.dropTlb
  generalize c.ridgeList part = l
  induction l generalizing c with
  | nil => simp
  | cons m l ih =>
    rw [List.foldl_cons, ih]
    by_cases hm : n = m
    · subst hm
      simp only [Chip.ridge_updRidge_same, Ridge.dropTlb, List.mem_filter, List.mem_cons, true_or, true_and, Bool.not_eq_true',
        Bool.and_eq_false_iff, decide_eq_false_iff_not]
      grind
    · simp [Chip.ridge_updRidge_other _ _ hm, hm]

@[simp] theorem Chip.invalidate_regs (c : Chip) (k v : Nat) : (c.invalidate k v).regs = c.regs := by
  unfold Chip.invalidate
  dsimp only
  split <;> exact Chip.dropTlb_regs ..

@[simp] theorem Chip.invalidate_parts (c : Chip) (k v : Nat) : (c.invalidate k v).parts = c.parts := by
  unfold Chip.invalidate
  dsimp only
  split <;> exact Chip.dropTlb_parts ..

/-- What an invalidation of a context or of the partition leaves cached on the partition's Ridges. -/
theorem Chip.kept_of_invalidate {c : Chip} {k v n : Nat} {e : TlbEnt} (hn : n ∈ c.ridgeList k)
    (he : e ∈ ((c.invalidate k v).ridge n).tlb) (hpart : e.part = k) :
    fld v 55 54 < 2 ∧ (fld v 55 54 = 1 → e.ctx ≠ fld v 51 48) := by
  unfold Chip.invalidate at he
  dsimp only at he
  split at he
  next hpages => simp [hpages]
  next hcontext =>
    have hctx := (Chip.mem_tlb_dropTlb.mp he).2
    simp only [hn, hpart, true_and, decide_eq_true_eq] at hctx
    exact ⟨by omega, fun _ => hctx⟩
  next => exact absurd ⟨hn, hpart, rfl⟩ (Chip.mem_tlb_dropTlb.mp he).2

/-! ### CTX_ROOT (R184) -/

/-- Whether a queue of the partition that uses the context is not DISABLED. -/
def Chip.ctxBusy (c : Chip) (inst ctx : Nat) : Bool :=
  (c.queuesOf inst).any (fun e => c.qctx e.1 e.2 = ctx && (c.queue e.1 e.2).st != .disabled)

section
variable {r : Req} {ctx : Fin 16} {root : W64} {s : State} {inst : Nat}
  (hadmits : s.admits r (Obj.CTX_ROOT + ctx.val) (wr 8 root.toNat) inst = true)
include hadmits

theorem ctxRootWrite_taken (hidle : s.chip.ctxBusy inst ctx.val = false) : Ends (.ctxRootWrite r ctx root) s (fun t =>
    t.chip.get inst (Obj.CTX_ROOT + ctx.val) = root.toNat ∧ t.answers r (Obj.CTX_ROOT + ctx.val) rcOK ∧
    (∀ n ∈ s.chip.ridgeList inst, ∀ e ∈ (t.chip.ridge n).tlb, ¬(e.part = inst ∧ e.ctx = ctx.val)) ∧
    t.chip.queues = s.chip.queues ∧ t.mem = s.mem) := by
  set written := s.chip.set inst (Obj.CTX_ROOT + ctx.val) root.toNat with hwritten
  rw [Chip.ctxBusy] at hidle
  refine rowWriteOn_ends (c := written.dropTlb inst (fun e => e.ctx = ctx.val) (fun e => e.ctx = ctx.val)) (code := rcOK) rfl hadmits
    (by rw [leNat_wr (n := 8) root.isLt]; simp only [hidle]; rfl) fun t ht => ?_
  have hroot : written.get inst (Obj.CTX_ROOT + ctx.val) = root.toNat := by
    rw [hwritten, Chip.get_set_same, Nat.mod_eq_of_lt root.isLt]
  have hlist : written.ridgeList inst = s.chip.ridgeList inst := by
    rw [Chip.ridgeList, Chip.ridgesOf, Chip.reg, hwritten,
      Chip.get_set_other _ _ (by simp only [ikey, atIdx, modInst, Obj.CTX_ROOT, Obj.WS_APPLIED_RIDGES]; omega)]
    rfl
  refine ⟨?_, ht.answers, fun n hn e he => ?_, ?_, ht.mem⟩
  · rw [ht.get _ _ (by simp only [Obj.CTX_ROOT]; omega) (by simp only [Obj.CTX_ROOT, Obj.CNT_DICT_REFUSED]; omega), State.on_chip,
      Chip.get_of_regs (Chip.dropTlb_regs ..)]
    exact hroot
  · rw [Chip.ridge_of_ridges ht.ridges] at he
    simpa [hlist, hn] using (Chip.mem_tlb_dropTlb.mp he).2
  · rw [ht.queues, State.on_chip, Chip.dropTlb_queues]
    rfl

theorem ctxRootWrite_refused (hbusy : s.chip.ctxBusy inst ctx.val = true) : Ends (.ctxRootWrite r ctx root) s (fun t =>
    t.chip.get inst (Obj.CTX_ROOT + ctx.val) = s.chip.get inst (Obj.CTX_ROOT + ctx.val) ∧
    t.answers r (Obj.CTX_ROOT + ctx.val) rcState ∧ t.chip.ridges = s.chip.ridges ∧ t.mem = s.mem) := by
  rw [Chip.ctxBusy] at hbusy
  refine rowWriteOn_ends (c := s.chip) (code := rcState) rfl hadmits (if_pos hbusy) fun t ht => ⟨?_, ht.answers, ht.ridges, ht.mem⟩
  exact ht.get _ _ (by simp only [Obj.CTX_ROOT]; omega) (by simp only [Obj.CTX_ROOT, Obj.CNT_DICT_REFUSED]; omega)

end

/-! ### TLB_INVAL (R194, Table 7.11) -/

/-- The fields of a request's word that its acceptance turns on. -/
theorem invalWord_accepted {pages scope size ctx va16 : Nat} (hpages : pages < 256) (hscope : scope < 3) (hsize : size < 3)
    (hctx : ctx < 16) (hva : va16 < 2 ^ 32) :
    let v := invalWord pages scope size ctx va16
    v < 2 ^ 64 ∧ fld v 55 54 = scope ∧ fld v 53 52 = size ∧ fld v 15 0 = 0 := by
  simp only [invalWord, fld, Nat.shiftRight_eq_div_pow, Nat.reducePow, Nat.reduceAdd, Nat.reduceSub] at *
  refine ⟨?_, ?_, ?_, ?_⟩ <;> omega

/-- A request that is well formed enters its partition's requests, whichever row makes it. -/
theorem tlbInval_ends {i : Instr} {r : Req} {s : State} {inst pages scope size ctx va16 : Nat} (hpages : pages < 256) (hscope : scope < 3)
    (hsize : size < 3) (hctx : ctx < 16) (hva : va16 < 2 ^ 32)
    (hexec : exec i s = .next (s.rowWrite r Obj.TLB_INVAL (wr 8 (invalWord pages scope size ctx va16)) effInval))
    (hadmits : s.admits r Obj.TLB_INVAL (wr 8 (invalWord pages scope size ctx va16)) inst = true) :
    Ends i s (fun t => (t.chip.part inst).inval = (s.chip.part inst).inval ++ [invalWord pages scope size ctx va16] ∧
      t.answers r Obj.TLB_INVAL rcOK ∧ t.chip.ridges = s.chip.ridges ∧ t.chip.regs = s.chip.regs ∧ t.mem = s.mem) := by
  obtain ⟨hword, hscope', hsize', hlow⟩ := invalWord_accepted hpages hscope hsize hctx hva
  generalize invalWord pages scope size ctx va16 = v at *
  refine rowWriteOn_ends (c := s.chip.updPart inst (fun p => { p with inval := p.inval ++ [v] })) (code := rcOK) hexec hadmits ?_
    fun t ht => ⟨?_, ht.answers, ht.ridges, ht.regs rfl, ht.mem⟩
  · simp only [leNat_wr (n := 8) hword]
    exact if_neg (by simp [hscope', hsize', hlow]; omega)
  · rw [Chip.part, ht.parts, ← Chip.part, State.on_chip, Chip.part_updPart_same]

theorem tlbInvalDone_ends {part : Fin 8} {v : Nat} {rest : List Nat} {s : State} (holdest : (s.chip.part part.val).inval = v :: rest) :
    Ends (.tlbInvalDone part) s (fun t => (t.chip.part part.val).inval = rest ∧
      t.chip.get part.val Obj.TLB_INVAL_DONE = inc32 (s.chip.get part.val Obj.TLB_INVAL_DONE) ∧
      (∀ n ∈ s.chip.ridgeList part.val, ∀ e ∈ (t.chip.ridge n).tlb, e.part = part.val →
        fld v 55 54 < 2 ∧ (fld v 55 54 = 1 → e.ctx ≠ fld v 51 48)) ∧ t.mem = s.mem) := by
  set taken := s.chip.updPart part.val (fun p => { p with inval := rest }) with htaken
  have hexec : exec (.tlbInvalDone part) s = .next (s.on fun _ =>
      (taken.invalidate part.val v).set part.val Obj.TLB_INVAL_DONE
        (inc32 ((taken.invalidate part.val v).get part.val Obj.TLB_INVAL_DONE))) := by
    change execTlbInvalDone part s = _
    simp only [execTlbInvalDone, State.on, holdest]
    rfl
  have hcount : inc32 (s.chip.get part.val Obj.TLB_INVAL_DONE) < 2 ^ 64 := by unfold inc32; omega
  refine ⟨_, hexec, ?_, ?_, fun n hn e he hpart => Chip.kept_of_invalidate (c := taken) hn he hpart, rfl⟩
  · rw [State.on_chip, Chip.part, Chip.set_parts, Chip.invalidate_parts, ← Chip.part, htaken, Chip.part_updPart_same]
  · rw [State.on_chip, Chip.get_set_same, Chip.get_of_regs (Chip.invalidate_regs ..)]
    exact Nat.mod_eq_of_lt hcount

/-! ### A walk ahead of a unit (R191, R204) -/

section
variable {ridge : Fin 16} {queue : Fin 8} {va : W48} {write : Bool} {s s' : State} {part : Nat}
  (howner : s.chip.owner ridge.val = some part)
include howner

theorem exec_walkComplete_ok {pa : Nat}
    (hwalk : s.translate ridge.val part (s.chip.qctx ridge.val queue.val) va.toNat write = (s', .ok pa)) :
    exec (.walkComplete ridge queue va write []) s = .next s' := by
  change execWalkComplete ridge queue va write [] s = _
  simp [execWalkComplete, Chip.corrected, State.on, howner, hwalk]

theorem exec_walkComplete_error {i : FaultInfo}
    (hwalk : s.translate ridge.val part (s.chip.qctx ridge.val queue.val) va.toNat write = (s', .error i)) :
    let placed := { i with queue := queue.val, ridge := ridge.val }
    exec (.walkComplete ridge queue va write []) s = .next
      (if fatal i.reason then s' else if s'.chip.isPending i || s'.chip.pendFull i.part then s'
      else if i.reason = rsSteward then s'.on (fun c => { c with pend := c.pend ++ [{ info := placed, restore := i.value }] })
      else s'.hostFault placed []) := by
  change execWalkComplete ridge queue va write [] s = _
  simp only [execWalkComplete, Chip.corrected, State.on, List.foldl_nil, howner, hwalk]
  rfl

end

/-- Settles O14: a write of a root drops its context's leaves, an invalidation those it names, and a walk's fault goes where its
reason says. -/
theorem rootsAndInvalidations : Obligations.RootsAndInvalidations := by
  unfold Obligations.RootsAndInvalidations
  refine ⟨?root, ?requests, fun part v rest s holdest => tlbInvalDone_ends holdest, ?walk⟩
  case root => exact fun r ctx root s inst hadmits => ⟨ctxRootWrite_taken hadmits, ctxRootWrite_refused hadmits⟩
  case requests =>
    refine fun r s inst => ⟨fun pages size ctx va16 => ?_, fun ctx => ?_, ?_⟩
    · exact tlbInval_ends pages.isLt (by decide) size.isLt ctx.isLt va16.isLt rfl
    · exact tlbInval_ends (by decide) (by decide) (by decide) ctx.isLt (by decide) rfl
    · exact tlbInval_ends (by decide) (by decide) (by decide) (by decide) (by decide) rfl
  case walk =>
    refine fun ridge queue va write s s' part howner => ⟨fun pa hwalk => ⟨s', exec_walkComplete_ok howner hwalk, rfl⟩,
      fun i hwalk => ⟨fun hfatal => ?_, fun hsteward hnew hroom => ?_⟩⟩
    all_goals refine ⟨_, exec_walkComplete_error howner hwalk, ?_⟩
    · exact if_pos hfatal
    · have hresolved : ¬ fatal i.reason = true := by rw [hsteward]; decide
      have hfree : ¬ (s'.chip.isPending i || s'.chip.pendFull i.part) = true := by simp [hnew, hroom]
      rw [if_neg hresolved, if_neg hfree, if_pos hsteward]
      exact ⟨rfl, rfl⟩

end Sys2Proof.Machine
end

section
/-! PROOF. The stewards' work (R206–R208): units that go on once their fault is resolved, frames taken from the pools, an entry that has
become valid or gets its frame, a page made present, and a fault that waited for a pending entry. -/
namespace Sys2Proof.Machine

/-! ### Units that go on (R204, R207) -/

/-- `d` is `c` after units of queues went on: no object of theirs changes but the counts of restarted tiles and of dropped trace
records. -/
structure Chip.Resumed (c d : Chip) : Prop where
  shape : ∃ qs rs gs, d = { c with queues := qs, ridges := rs, regs := gs }
  get : ∀ i key, key < 2 ^ 24 → key ≠ Obj.CNT_TRACE_DROPPED → key ≠ Obj.CNT_TILE_RESTARTS → d.get i key = c.get i key

namespace Chip.Resumed

variable {b c d : Chip}

theorem refl (c : Chip) : Resumed c c := ⟨⟨_, _, _, rfl⟩, fun _ _ _ _ _ => rfl⟩

theorem trans (h : Resumed b c) (h' : Resumed c d) : Resumed b d where
  shape := by
    obtain ⟨_, _, _, rfl⟩ := h.shape
    obtain ⟨_, _, _, rfl⟩ := h'.shape
    exact ⟨_, _, _, rfl⟩
  get i key hkey hdropped hrestarts := (h'.get i key hkey hdropped hrestarts).trans (h.get i key hkey hdropped hrestarts)

theorem pend (h : Resumed c d) : d.pend = c.pend := by obtain ⟨_, _, _, rfl⟩ := h.shape; rfl
theorem pendWait (h : Resumed c d) : d.pendWait = c.pendWait := by obtain ⟨_, _, _, rfl⟩ := h.shape; rfl
theorem qps (h : Resumed c d) : d.qps = c.qps := by obtain ⟨_, _, _, rfl⟩ := h.shape; rfl

theorem updQueue (h : Resumed b c) (n q : Nat) (f : Queue → Queue) : Resumed b (c.updQueue n q f) :=
  h.trans ⟨⟨_, _, _, rfl⟩, fun _ _ _ _ _ => rfl⟩

theorem updRidge (h : Resumed b c) (n : Nat) (f : Ridge → Ridge) : Resumed b (c.updRidge n f) :=
  h.trans ⟨⟨_, _, _, rfl⟩, fun _ _ _ _ _ => rfl⟩

theorem restarts (h : Resumed b c) (k n : Nat) : Resumed b (c.countPart k Obj.CNT_TILE_RESTARTS n) := by
  refine h.trans ⟨?_, fun i key hkey _ hne => c.get_countPart_other k n (by decide) hkey hne⟩
  unfold Chip.countPart
  split <;> exact ⟨_, _, _, rfl⟩

theorem dispatch (h : Resumed b c) (n : Nat) : Resumed b (c.dispatch n) :=
  h.trans ⟨((Issued.refl c).dispatch n).shape, fun i key hkey hne _ => (c.dispatch_issuedTo n).get i key hkey hne⟩

theorem again (h : Resumed b c) (n q k u : Nat) : Resumed b (c.again n q k u) := by
  unfold Chip.again Chip.updCmd
  exact h.updQueue n q _

theorem release (h : Resumed b c) {w : Waiter} (hw : ofQueue w = true) : Resumed b (c.release w) := by
  unfold Chip.release
  cases w with
  | tile n q k u => exact (h.again n q k u).restarts _ 1
  | prog n q k u => exact h.again n q k u
  | dma n i => exact h.updRidge n _
  | fetch n q => exact h.updQueue n q _
  | record n q => exact h.updQueue n q _
  | roce qp => simp [ofQueue] at hw

theorem releaseAll (h : Resumed b c) {ws : List Waiter} (hws : ws.all ofQueue = true) : Resumed b (c.releaseAll ws) := by
  have hreleased : Resumed b (ws.foldl Chip.release c) :=
    List.foldlRecOn _ _ h (fun _ hd w hw => hd.release (List.all_eq_true.mp hws w hw))
  exact List.foldlRecOn _ _ hreleased (fun _ hd w _ => hd.dispatch (waiterRidge w))

end Chip.Resumed

/-! ### Queue pairs with nothing to do -/

theorem Chip.roceQuiet_of_qps {c d : Chip} (h : d.qps = c.qps) : d.roceQuiet = c.roceQuiet := by
  rw [Chip.roceQuiet, h, Chip.roceQuiet]

/-- With nothing to do, serving the queue pairs changes nothing. -/
theorem State.roceRun_of_quiet {s : State} (h : s.chip.roceQuiet = true) : s.roceRun = s := by
  have hnone : s.chip.qps.find? (fun p => p.2.ready) = none := by
    rw [List.find?_eq_none]
    simpa [Chip.roceQuiet] using h
  have hserve : ∀ fuel, State.qpServe fuel s = s := fun fuel => by
    cases fuel with
    | zero => rfl
    | succ fuel => rw [State.qpServe, hnone]
  exact hserve _

/-- A partition's counter is an object, and nothing else of the module changes with it. -/
theorem Chip.countPart_shape (c : Chip) (k key n : Nat) : ∃ gs, c.countPart k key n = { c with regs := gs } := by
  unfold Chip.countPart
  split <;> exact ⟨_, rfl⟩

@[simp] theorem Chip.countPart_qps (c : Chip) (k key n : Nat) : (c.countPart k key n).qps = c.qps := by
  obtain ⟨_, h⟩ := c.countPart_shape k key n
  rw [h]

@[simp] theorem Chip.countPart_pend (c : Chip) (k key n : Nat) : (c.countPart k key n).pend = c.pend := by
  obtain ⟨_, h⟩ := c.countPart_shape k key n
  rw [h]

/-! ### A record in the steward ring (R212) -/

/-- Writing a record makes an access, marks its fault as written and counts it. -/
theorem State.ringWrite_shape (s : State) (k : Nat) (bs : List Byte) : ∃ rs gs st cr ou sp hs, (s.ringWrite k bs).chip =
    { s.chip with ridges := rs, regs := gs, streams := st, cairn := cr, out := ou, spads := sp, hosts := hs } := by
  have hcounted : ∀ c : Chip, ∃ gs, (if byteAt bs 0 = 1 then c.countPart k Obj.CNT_FAULT_HOST 1
      else if byteAt bs 0 = 2 then c.countPart k Obj.CNT_FAULT_FATAL 1 else c) = { c with regs := gs } := fun c => by
    split
    · exact c.countPart_shape ..
    split
    · exact c.countPart_shape ..
    · exact ⟨_, rfl⟩
  obtain ⟨_, _, _, _, _, _, hwritten⟩ := ((Chip.Accessed.refl s.chip).writePhys k
    (s.chip.get k Obj.STEWARD_RING_BASE + 32 * (s.chip.get k Obj.STEWARD_RING_PRODUCER % s.chip.get k Obj.STEWARD_RING_ENTRIES)) bs).shape
  unfold State.ringWrite
  simp only [State.on_chip, hwritten]
  obtain ⟨_, hgs⟩ := hcounted _
  rw [hgs]
  exact ⟨_, _, _, _, _, _, _, rfl⟩

@[simp] theorem State.ringWrite_qps (s : State) (k : Nat) (bs : List Byte) : (s.ringWrite k bs).chip.qps = s.chip.qps := by
  obtain ⟨_, _, _, _, _, _, _, h⟩ := s.ringWrite_shape k bs
  rw [h]

@[simp] theorem State.ringWrite_parts (s : State) (k : Nat) (bs : List Byte) : (s.ringWrite k bs).chip.parts = s.chip.parts := by
  obtain ⟨_, _, _, _, _, _, _, h⟩ := s.ringWrite_shape k bs
  rw [h]

/-! ### Frames taken from the pools (R206): no queue pair is touched -/

@[simp] theorem State.post_qps (s : State) (k : Nat) (r : Rec) : (s.post k r).chip.qps = s.chip.qps := by
  unfold State.post
  dsimp only
  split
  · exact s.ringWrite_qps ..
  · rw [State.on_chip, Chip.updPart_qps]
    split
    · rfl
    · rw [State.on_chip, Chip.raise_qps, Chip.updPart_qps]

theorem State.poolBad_qps (s : State) (k addr : Nat) : (s.poolBad k addr).chip.qps = s.chip.qps := by
  rw [State.poolBad, State.post_qps, State.on_chip, Chip.countPart_qps]
  rfl

theorem State.ringEntry_qps {s t : State} {k u : Nat} {big : Bool} {e : Except Nat Nat} (h : s.ringEntry k u big = some (t, e)) :
    t.chip.qps = s.chip.qps := by
  unfold State.ringEntry at h
  grind [State.on_chip, Chip.setReg_qps]

theorem State.takeRing_qps (s : State) (k u : Nat) (big : Bool) (fuel : Nat) :
    (State.takeRing k u big fuel s).1.chip.qps = s.chip.qps := by
  induction fuel generalizing s with
  | zero => rfl
  | succ fuel ih =>
    unfold State.takeRing
    split
    · rfl
    next hentry => exact State.ringEntry_qps hentry
    next hentry =>
      dsimp only
      split
      · rw [ih, State.poolBad_qps, State.ringEntry_qps hentry]
      · rw [State.poolBad_qps, State.ringEntry_qps hentry]

theorem State.takeSplit_qps (s : State) (u : Nat) : (s.takeSplit u).1.chip.qps = s.chip.qps := by
  unfold State.takeSplit
  split <;> rfl

/-- The queue pairs of the state that a match takes out of a result. -/
theorem State.qps_of_eq {α : Type} {x : State × α} {t : State} {a : α} {qps : Tbl Qp} (h : x.1.chip.qps = qps) (hx : x = (t, a)) :
    t.chip.qps = qps := by
  subst hx
  exact h

theorem State.takeFirst_qps {g : Nat → State → State × Took} (hg : ∀ u s, (g u s).1.chip.qps = s.chip.qps) (us : List Nat) (s : State) :
    (State.takeFirst g us s).1.chip.qps = s.chip.qps := by
  induction us generalizing s with
  | nil => rfl
  | cons u us ih =>
    have hu := hg u s
    unfold State.takeFirst
    split
    next hnone => rw [ih, ← hu, hnone]
    next => exact hu

theorem State.takeFrame_qps (s : State) (k : Nat) (us : List Nat) (big : Bool) : (s.takeFrame k us big).1.chip.qps = s.chip.qps := by
  have hring : ∀ (b : Bool) u (s : State), (State.takeRing k u b 65536 s).1.chip.qps = s.chip.qps := fun b u s => s.takeRing_qps k u b _
  have hsmall : ∀ u (s : State),
      (match s.takeSplit u with | (s, .none) => State.takeRing k u false 65536 s | r => r).1.chip.qps = s.chip.qps := by
    intro u s
    have hsplit := s.takeSplit_qps u
    split
    next hnone => rw [hring, ← hsplit, hnone]
    next => exact hsplit
  have hfirst := State.takeFirst_qps hsmall us s
  simp only [State.takeFrame]
  split
  · exact State.takeFirst_qps (hring true) us s
  split
  next s1 hnone =>
    have hsecond := (State.takeFirst_qps (hring true) us s1).trans (State.qps_of_eq hfirst hnone)
    split
    next hbig =>
      have htook := State.qps_of_eq hsecond hbig
      split <;> exact htook
    · exact hsecond
  · exact hfirst

/-! ### The steward takes a fault (R207 steps 1 and 2) -/

theorem Chip.mem_pend_dropPend {c : Chip} {ea : Nat} {q : Pend} (h : q ∈ (c.dropPend ea).pend) : q.info.entry ≠ ea := by
  simpa using (List.mem_filter.mp h).2

/-- A resolution that holds its frame `x`, and the page it moves. -/
def Pend.holding (p : Pend) (x : Nat) (q : Pend) : Pend :=
  { q with phase := 2, frame := x, pages := if p.info.level = 3 then 32 else 1,
           oldPA := if npKind p.restore = 2 then entryPA p.restore else 0 }

theorem State.allocate_of_frame {s s' : State} {p : Pend} {x : Nat}
    (htook : s.takeFrame p.info.part (s.chip.tierUnits p.info.part (fld p.restore 9 8) p.info.ridge) (p.info.level = 3) = (s', .frame x)) :
    s.allocate p = s'.on (fun c => c.updPend p.info.entry (p.holding x)) := by
  simp only [State.allocate, htook]
  rfl

/-- A fault whose entry has become valid leaves the table, is counted, and its units go on. -/
def Chip.faultOver (c : Chip) (p : Pend) : Chip :=
  ((c.dropPend p.info.entry).countPart p.info.part Obj.CNT_FAULT_STEWARD p.faults).releaseAll p.waiters

theorem Chip.faultOver_resumed (c : Chip) {p : Pend} (hwaiters : p.waiters.all ofQueue = true) :
    ((c.dropPend p.info.entry).countPart p.info.part Obj.CNT_FAULT_STEWARD p.faults).Resumed (c.faultOver p) :=
  (Chip.Resumed.refl _).releaseAll hwaiters

section
variable {b : Bool} {p : Pend} {s : State} (hjob : s.chip.stewardJob b = some p) (hhard : p.soft = false) (hphase : p.phase = 0)
  (hclear : (s.chip.part p.info.part).waiting = [])
include hjob hhard hphase hclear

theorem State.stewardTake_of_valid (hvalid : bitAt (s.entryAt p.info.part p.info.entry) 0 = true) :
    s.stewardTake b = s.on (fun c => c.faultOver p) := by
  simp [State.stewardTake, hjob, hhard, hphase, hclear, hvalid, Chip.faultOver]

/-- The entry is marked BUSY, and the resolution knows what to restore. -/
theorem State.stewardTake_of_absent (habsent : bitAt (s.entryAt p.info.part p.info.entry) 0 = false)
    (hkind : npKind (s.entryAt p.info.part p.info.entry) = 1 ∨ npKind (s.entryAt p.info.part p.info.entry) = 2) :
    let q := { p with restore := s.entryAt p.info.part p.info.entry, phase := 1 }
    s.stewardTake b = ((s.setEntry p.info.part p.info.entry (busyOf (s.entryAt p.info.part p.info.entry))).on
      (fun c => c.updPend p.info.entry (fun _ => q))).allocate q := by
  have hsteward : npKind (s.entryAt p.info.part p.info.entry) ≠ 3 ∧ npKind (s.entryAt p.info.part p.info.entry) ≠ 0 := by omega
  simp [State.stewardTake, hjob, hhard, hphase, hclear, habsent, hsteward]

theorem stewardFault_valid (hquiet : s.chip.roceQuiet = true) (hwaiters : p.waiters.all ofQueue = true)
    (hvalid : bitAt (s.entryAt p.info.part p.info.entry) 0 = true) : Ends (.stewardFault b) s (fun t =>
      (∀ q ∈ t.chip.pend, q.info.entry ≠ p.info.entry) ∧ t.mem = s.mem ∧
      (p.info.part < 8 → t.chip.get p.info.part Obj.CNT_FAULT_STEWARD =
        (s.chip.get p.info.part Obj.CNT_FAULT_STEWARD + p.faults) % 2 ^ 64)) := by
  have hresumed := s.chip.faultOver_resumed hwaiters
  have hstill : (s.on (fun c => c.faultOver p)).chip.roceQuiet = true :=
    (Chip.roceQuiet_of_qps (hresumed.qps.trans (Chip.countPart_qps ..))).trans hquiet
  have hexec : exec (.stewardFault b) s = .next (s.on (fun c => c.faultOver p)) := by
    change done (s.stewardTake b).roceRun = _
    rw [State.stewardTake_of_valid hjob hhard hphase hclear hvalid, State.roceRun_of_quiet hstill]
    rfl
  refine ⟨_, hexec, fun q hq => ?_, rfl, fun hpart => ?_⟩
  · rw [State.on_chip, hresumed.pend, Chip.countPart_pend] at hq
    exact Chip.mem_pend_dropPend hq
  · rw [State.on_chip, hresumed.get _ _ (by decide) (by decide) (by decide), Chip.countPart, if_pos hpart, Chip.count, Chip.get_set_same]
    rfl

theorem stewardFault_allocates (hquiet : s.chip.roceQuiet = true) (habsent : bitAt (s.entryAt p.info.part p.info.entry) 0 = false)
    (hkind : npKind (s.entryAt p.info.part p.info.entry) = 1 ∨ npKind (s.entryAt p.info.part p.info.entry) = 2) {s' : State} {x : Nat}
    (htook : ((s.setEntry p.info.part p.info.entry (busyOf (s.entryAt p.info.part p.info.entry))).on
      (fun c => c.updPend p.info.entry (fun _ => { p with restore := s.entryAt p.info.part p.info.entry, phase := 1 }))).takeFrame
        p.info.part (s.chip.tierUnits p.info.part (fld (s.entryAt p.info.part p.info.entry) 9 8) p.info.ridge) (p.info.level = 3) =
          (s', .frame x)) :
    Ends (.stewardFault b) s (fun t => t.mem = s'.mem ∧ ((∃ q ∈ s'.chip.pend, q.info.entry = p.info.entry) →
      ∃ q ∈ t.chip.pend, q.info.entry = p.info.entry ∧ q.phase = 2 ∧ q.frame = x)) := by
  set e := s.entryAt p.info.part p.info.entry
  set q : Pend := { p with restore := e, phase := 1 }
  set begun := (s.setEntry p.info.part p.info.entry (busyOf e)).on (fun c => c.updPend p.info.entry (fun _ => q))
  have htake : s.stewardTake b = s'.on (fun c => c.updPend p.info.entry (q.holding x)) :=
    (State.stewardTake_of_absent hjob hhard hphase hclear habsent hkind).trans (State.allocate_of_frame (s := begun) (p := q) htook)
  have hqps : s'.chip.qps = s.chip.qps := State.qps_of_eq (begun.takeFrame_qps ..) htook
  have hstill : (s'.on (fun c => c.updPend p.info.entry (q.holding x))).chip.roceQuiet = true :=
    (Chip.roceQuiet_of_qps hqps).trans hquiet
  have hexec : exec (.stewardFault b) s = .next (s'.on (fun c => c.updPend p.info.entry (q.holding x))) := by
    change done (s.stewardTake b).roceRun = _
    rw [htake, State.roceRun_of_quiet hstill]
    rfl
  refine ⟨_, hexec, rfl, fun ⟨r, hr, hentry⟩ => ⟨q.holding x r, ?_, hentry, rfl, rfl⟩⟩
  rw [State.on_chip, Chip.updPend]
  exact List.mem_map.mpr ⟨r, hr, if_pos hentry⟩

end

/-! ### The page is made present (R207 steps 3 to 5) -/

/-- Memory once a page of `p` is zeroed and its leaf written. -/
def Pend.zeroedIn (p : Pend) (s : State) : Memory :=
  (s.mem.clear (s.chip.keyTag p.info.part) p.frame (65536 * p.pages)).write (s.chip.keyTag p.info.part) p.info.entry
    (leBytes 8 (leafOf p.restore p.frame p.info.write))

/-- A fault that is resolved by a zeroed page leaves the table, is counted twice, and its units go on. -/
def Chip.zeroAllocated (c : Chip) (p : Pend) : Chip :=
  (((c.dropPend p.info.entry).countPart p.info.part Obj.CNT_FAULT_STEWARD p.faults).countPart p.info.part Obj.CNT_ZERO_ALLOCS 1).releaseAll
    p.waiters

theorem State.setRmap_of_unmapped {s : State} {pa u o : Nat} (hunit : unitOf pa = some (u, o))
    (hmap : s.chip.reg (atIdx Obj.RMAP_BASE u) = 0) (k pages ea : Nat) : s.setRmap k pa pages ea = s := by
  simp [State.setRmap, hunit, hmap]

theorem State.resolve_of_zeroed {s : State} {p : Pend} {u o : Nat} (hzero : npKind p.restore ≠ 2) (hunit : unitOf p.frame = some (u, o))
    (hmap : s.chip.reg (atIdx Obj.RMAP_BASE u) = 0) :
    s.resolve p = (s.withMem (p.zeroedIn s)).on (fun c => c.zeroAllocated p) := by
  have hleaf : ((s.withMem (s.mem.clear (s.chip.keyTag p.info.part) p.frame (65536 * p.pages))).setEntry p.info.part p.info.entry
      (leafOf p.restore p.frame p.info.write)).setRmap p.info.part p.frame p.pages p.info.entry = s.withMem (p.zeroedIn s) :=
    State.setRmap_of_unmapped (s := s.withMem (p.zeroedIn s)) hunit hmap ..
  simp only [State.resolve, hzero, if_false, hleaf]
  rfl

theorem stewardCopyDone_zeroed {b : Bool} {p : Pend} {u o : Nat} {s : State} (hjob : s.chip.stewardJob b = some p) (hhard : p.soft = false)
    (hphase : p.phase = 2) (hzero : npKind p.restore ≠ 2) (hunit : unitOf p.frame = some (u, o))
    (hmap : s.chip.reg (atIdx Obj.RMAP_BASE u) = 0) (hquiet : s.chip.roceQuiet = true) (hwaiters : p.waiters.all ofQueue = true) :
    Ends (.stewardCopyDone b none) s (fun t => (∀ q ∈ t.chip.pend, q.info.entry ≠ p.info.entry) ∧ t.mem = p.zeroedIn s) := by
  have hresumed : Chip.Resumed _ (s.chip.zeroAllocated p) := (Chip.Resumed.refl _).releaseAll hwaiters
  have hqps : (s.chip.zeroAllocated p).qps = s.chip.qps := by
    rw [hresumed.qps, Chip.countPart_qps, Chip.countPart_qps]
    rfl
  have hexec : exec (.stewardCopyDone b none) s = .next ((s.withMem (p.zeroedIn s)).on (fun c => c.zeroAllocated p)) := by
    change execStewardCopyDone b none s = _
    simp only [execStewardCopyDone, hjob, hphase, hhard, State.resolve_of_zeroed hzero hunit hmap]
    exact congrArg Host.Outcome.next (State.roceRun_of_quiet ((Chip.roceQuiet_of_qps hqps).trans hquiet))
  refine ⟨_, hexec, fun q hq => ?_, rfl⟩
  rw [State.on_chip, State.withMem_chip, hresumed.pend, Chip.countPart_pend, Chip.countPart_pend] at hq
  exact Chip.mem_pend_dropPend hq

/-! ### A fault that waited for a pending entry (R208) -/

/-- Parking a unit changes its queue or its Ridge alone. -/
theorem Chip.park_resumed (c : Chip) (id : Nat) (w : Waiter) : c.Resumed (c.park id w) := by
  have hrefl := Chip.Resumed.refl c
  unfold Chip.park
  cases w with
  | tile n q k u => exact hrefl.updRidge n _
  | prog n q k u => exact hrefl.updRidge n _
  | dma n i => exact hrefl.updRidge n _
  | fetch n q => exact hrefl.updQueue n q _
  | record n q => exact hrefl.updQueue n q _
  | roce qp => exact hrefl

/-- A fault of the steward's joins the resolution of its entry or begins one. -/
theorem Chip.stewardFault_enters (c : Chip) (i : FaultInfo) (w : Waiter) :
    (c.stewardFault i w).pendWait = c.pendWait ∧ ∃ q ∈ (c.stewardFault i w).pend, q.info.entry = i.entry ∧ w ∈ q.waiters := by
  unfold Chip.stewardFault
  split
  next p hfound =>
    have hentry : p.info.entry = i.entry := by simpa using List.find?_some hfound
    rw [(Chip.park_resumed _ 0 w).pend, (Chip.park_resumed _ 0 w).pendWait]
    refine ⟨rfl, _, List.mem_map_of_mem (List.mem_of_find?_eq_some hfound), ?_⟩
    rw [if_pos hentry]
    exact ⟨hentry, List.mem_append_right _ (List.mem_singleton_self w)⟩
  next =>
    rw [(Chip.park_resumed _ 0 w).pend, (Chip.park_resumed _ 0 w).pendWait]
    exact ⟨rfl, _, List.mem_append_right _ (List.mem_singleton_self _), rfl, List.mem_singleton_self w⟩

theorem pendingEntryFree_ends {i : FaultInfo} {w : Waiter} {rest : List (FaultInfo × Waiter)} {s : State}
    (hfirst : s.chip.pendWait = (i, w) :: rest) (hentry : s.chip.pend.any (fun p => p.info.entry = i.entry) = true ∨
      (i.reason = rsSteward ∧ s.chip.isPending i = false ∧ s.chip.pendFull i.part = false)) :
    Ends .pendingEntryFree s (fun t => t.chip.pendWait = rest ∧ (∃ q ∈ t.chip.pend, q.info.entry = i.entry ∧ w ∈ q.waiters) ∧
      t.mem = s.mem) := by
  have hmay : (s.chip.isPending i || !s.chip.pendFull i.part) = true := by
    rcases hentry with hpending | ⟨-, -, hroom⟩
    · simp [Chip.isPending, hpending]
    · simp [hroom]
  have hsteward : (s.chip.pend.any (fun p => p.info.entry = i.entry) || (i.reason = rsSteward && !s.chip.isPending i)) = true := by
    rcases hentry with hpending | ⟨hreason, hnew, -⟩
    · simp [hpending]
    · simp [hreason, hnew]
  have hexec : exec .pendingEntryFree s = .next (s.on (fun c => ({ c with pendWait := rest } : Chip).stewardFault i w)) := by
    change execPendingEntryFree s = _
    simp only [execPendingEntryFree, State.on, hfirst, List.find?_cons, hmay, List.takeWhile_cons, Bool.not_true, Bool.false_eq_true,
      if_false, List.length_nil, List.nil_append, List.drop_succ_cons, List.drop_zero]
    exact congrArg Host.Outcome.next (if_pos hsteward)
  obtain ⟨hrest, hentered⟩ := ({ s.chip with pendWait := rest } : Chip).stewardFault_enters i w
  exact ⟨_, hexec, hrest, hentered, rfl⟩

/-- Settles O15: a fault that is over leaves the table with its units released, a frame that is taken is held, a page that is zeroed is
made present, and a fault that waited enters the table. -/
theorem stewardWork : Obligations.StewardWork := by
  unfold Obligations.StewardWork
  refine ⟨fun b p s hjob hhard hphase hclear hquiet hwaiters => ⟨fun hvalid => ?_, fun habsent hkind s' x htook => ?_⟩,
    fun b p u o s hjob hhard hphase hzero hunit hmap hquiet hwaiters =>
      stewardCopyDone_zeroed hjob hhard hphase hzero hunit hmap hquiet hwaiters,
    fun i w rest s hfirst hentry => pendingEntryFree_ends hfirst hentry⟩
  · exact stewardFault_valid hjob hhard hphase hclear hquiet hwaiters hvalid
  · exact stewardFault_allocates hjob hhard hphase hclear hquiet habsent hkind htook

end Sys2Proof.Machine
end

section
/-! PROOF. The steward ring and the host's answers (R212–R214): records that are held, units given up or released, and requests that
end. -/
namespace Sys2Proof.Machine

/-! ### Units whose fault has ended (R201, R204, R213) -/

/-- `d` is `c` after units went on or were given up: partitions stay, and what waits on the host is what waited on it, whichever units
still do. -/
structure Chip.Unblocked (c d : Chip) : Prop where
  parts : d.parts = c.parts
  hosts : ∀ h ∈ d.hosts, ∃ g ∈ c.hosts, g.info = h.info ∧ g.id = h.id

namespace Chip.Unblocked

variable {b c d : Chip}

theorem of_same (hparts : d.parts = c.parts) (hhosts : d.hosts = c.hosts) : Unblocked c d :=
  ⟨hparts, fun h hh => ⟨h, hhosts ▸ hh, rfl, rfl⟩⟩

theorem refl (c : Chip) : Unblocked c c := of_same rfl rfl

theorem trans (h : Unblocked b c) (h' : Unblocked c d) : Unblocked b d where
  parts := h'.parts.trans h.parts
  hosts x hx := by
    obtain ⟨y, hy, hinfo, hid⟩ := h'.hosts x hx
    obtain ⟨z, hz, hinfo', hid'⟩ := h.hosts y hy
    exact ⟨z, hz, hinfo'.trans hinfo, hid'.trans hid⟩

theorem dropWaiters (c : Chip) (keep : Waiter → Bool) : Unblocked c (c.dropWaiters keep) where
  parts := rfl
  hosts x hx := by
    obtain ⟨y, hy, rfl⟩ := List.mem_map.mp hx
    exact ⟨y, hy, rfl, rfl⟩

theorem setQueue (c : Chip) (n q : Nat) (x : Queue) : Unblocked c (c.setQueue n q x) := of_same rfl rfl

theorem updQueue (c : Chip) (n q : Nat) (f : Queue → Queue) : Unblocked c (c.updQueue n q f) := setQueue ..

theorem dropUnits (c : Chip) (n q count : Nat) : Unblocked c (c.dropUnits n q count) := of_same rfl rfl

theorem endCmd (c : Chip) (n q count st : Nat) : Unblocked c (c.endCmd n q count st) := by
  unfold Chip.endCmd Chip.updCmd
  extract_lets slots c1 c2 c3
  have hdropped : Unblocked c c2 := (dropWaiters c _).trans (dropUnits c1 n q count)
  exact (hdropped.trans (updQueue c2 n q _)).trans (updQueue c3 n q _)

theorem unissue (c : Chip) (n q count : Nat) : Unblocked c (c.unissue n q count) := by
  unfold Chip.unissue Chip.updCmd
  extract_lets c1 c2
  have hdropped : Unblocked c c2 := (dropWaiters c _).trans (dropUnits c1 n q count)
  exact hdropped.trans (updQueue c2 n q _)

theorem raise (c : Chip) (ty part : Nat) (fs : List (Nat × Nat)) : Unblocked c (c.raise ty part fs) :=
  of_same (Chip.raise_parts ..) (Chip.raise_hosts ..)

theorem halt (c : Chip) (n q reason count : Nat) : Unblocked c (c.halt n q reason count) := by
  unfold Chip.halt
  dsimp only
  split
  · exact (setQueue ..).trans (raise ..)
  · exact (setQueue ..).trans (raise ..)
  · exact refl c

theorem numericEvent (c : Chip) (n : Nat) (k : Cmd) : Unblocked c (c.numericEvent n k) := by
  unfold Chip.numericEvent
  split
  · exact raise ..
  · exact refl c

theorem giveUp (c : Chip) (st : Nat) (w : Waiter) : Unblocked c (c.giveUp st w) := by
  unfold Chip.giveUp
  cases w with
  | tile n q k u => exact endCmd ..
  | prog n q k u => exact (unissue ..).trans (halt ..)
  | dma n i =>
    dsimp only
    split
    · exact endCmd ..
    · exact refl c
  | fetch n q => exact (updQueue ..).trans (halt ..)
  | record n q => exact ((numericEvent ..).trans (updQueue ..)).trans (halt ..)
  | roce qp => exact of_same rfl rfl

theorem of_resumed (h : c.Resumed d) : Unblocked c d := by
  obtain ⟨_, _, _, rfl⟩ := h.shape
  exact of_same rfl rfl

theorem release (c : Chip) (w : Waiter) : Unblocked c (c.release w) := by
  cases hw : ofQueue w with
  | true => exact of_resumed ((Chip.Resumed.refl c).release hw)
  | false =>
    cases w with
    | roce qp => exact of_same rfl rfl
    | _ => simp [ofQueue] at hw

theorem dispatch (c : Chip) (n : Nat) : Unblocked c (c.dispatch n) := of_resumed ((Chip.Resumed.refl c).dispatch n)

theorem foldl (h : Unblocked b c) {f : Chip → Waiter → Chip} (hf : ∀ c w, Unblocked c (f c w)) (ws : List Waiter) :
    Unblocked b (ws.foldl f c) :=
  List.foldlRecOn _ _ h (fun d hd w _ => hd.trans (hf d w))

theorem releaseAll (c : Chip) (ws : List Waiter) : Unblocked c (c.releaseAll ws) :=
  ((refl c).foldl release ws).foldl (fun c w => dispatch c (waiterRidge w)) ws

theorem giveUpAll (c : Chip) (st : Nat) (ws : List Waiter) : Unblocked c (c.giveUpAll st ws) :=
  ((refl c).foldl (fun c w => giveUp c st w) ws).foldl (fun c w => dispatch c (waiterRidge w)) ws

end Chip.Unblocked

/-! ### The steward ring (R212) -/

theorem State.ringWrite_producer (s : State) (k : Nat) (bs : List Byte) :
    (s.ringWrite k bs).chip.get k Obj.STEWARD_RING_PRODUCER = inc32 (s.chip.get k Obj.STEWARD_RING_PRODUCER) := by
  have hlt : inc32 (s.chip.get k Obj.STEWARD_RING_PRODUCER) < 2 ^ 64 := by unfold inc32; omega
  exact (Chip.get_set_same ..).trans (Nat.mod_eq_of_lt hlt)

/-- With no record held there is nothing to write. -/
theorem State.ringDrain_of_unheld {s : State} {k : Nat} (hheld : (s.chip.part k).held = []) (fuel : Nat) :
    ∃ c, State.ringDrain k fuel s = s.on (fun _ => c) ∧ c.regs = s.chip.regs ∧ (c.part k).held = [] := by
  cases fuel with
  | zero => exact ⟨s.chip, rfl, rfl, hheld⟩
  | succ fuel =>
    unfold State.ringDrain
    dsimp only
    split
    · exact ⟨s.chip, rfl, rfl, hheld⟩
    · rw [hheld]
      exact ⟨_, rfl, rfl, by rw [Chip.part_updPart_same]; exact hheld⟩

/-- The one held record is written, where there is room. -/
theorem State.ringDrain_of_held_one {s : State} {k : Nat} {bs : List Byte} (hroom : s.chip.ringRoom k = true)
    (hheld : (s.chip.part k).held = [bs]) (hwaiting : (s.chip.part k).waiting = []) (fuel : Nat) :
    let u := State.ringDrain k (fuel + 1) s
    (u.chip.part k).held = [] ∧
    u.chip.get k Obj.STEWARD_RING_PRODUCER = inc32 (s.chip.get k Obj.STEWARD_RING_PRODUCER) := by
  intro u
  set taken := s.on (fun c => c.updPart k (fun p => { p with held := [] ++ p.waiting.take 1, waiting := p.waiting.drop 1 }))
  have hempty : ((taken.ringWrite k bs).chip.part k).held = [] := by
    rw [Chip.part, State.ringWrite_parts, ← Chip.part, State.on_chip, Chip.part_updPart_same, hwaiting]
    rfl
  have hdrain : u = State.ringDrain k fuel (taken.ringWrite k bs) := by
    simp only [u, State.ringDrain, hroom, hheld]
    rfl
  obtain ⟨c, hrest, hregs, hnone⟩ := State.ringDrain_of_unheld hempty fuel
  rw [hdrain, hrest]
  exact ⟨hnone, (Chip.get_of_regs hregs ..).trans (taken.ringWrite_producer k bs)⟩

/-- Whether a queue of the partition is RUNNING. -/
def Chip.anyRunning (c : Chip) (inst : Nat) : Bool := (c.queuesOf inst).any (fun e => (c.queue e.1 e.2).st = .running)

theorem stewardRingBaseWrite_taken {r : Req} {base : W64} {s : State} {inst : Nat}
    (hadmits : s.admits r Obj.STEWARD_RING_BASE (wr 8 base.toNat) inst = true) (hidle : s.chip.anyRunning inst = false)
    (hheld : (s.chip.part inst).held = []) : Ends (.stewardRingBaseWrite r base) s (fun t =>
      t.chip.get inst Obj.STEWARD_RING_BASE = base.toNat ∧ t.answers r Obj.STEWARD_RING_BASE rcOK ∧ t.mem = s.mem) := by
  rw [Chip.anyRunning] at hidle
  obtain ⟨c, hdrain, hregs, -⟩ := State.ringDrain_of_unheld (s := s.on (fun c => c.set inst Obj.STEWARD_RING_BASE base.toNat)) hheld
    ((s.chip.part inst).held.length + (s.chip.part inst).waiting.length + 1)
  have heff : effRingBase inst (wr 8 base.toNat) s = (s.on fun _ => c, rcOK) := by
    simp only [effRingBase, hidle, leNat_wr (n := 8) base.isLt]
    exact congrArg (·, rcOK) hdrain
  refine rowWrite_ends rfl hadmits heff fun t ht => ⟨?_, ht.answers, ht.mem⟩
  rw [ht.get _ _ (by decide) (by decide), State.on_chip, Chip.get_of_regs hregs, State.on_chip, Chip.get_set_same,
    Nat.mod_eq_of_lt base.isLt]

theorem stewardRingBaseWrite_refused {r : Req} {base : W64} {s : State} {inst : Nat}
    (hadmits : s.admits r Obj.STEWARD_RING_BASE (wr 8 base.toNat) inst = true) (hbusy : s.chip.anyRunning inst = true) :
    Ends (.stewardRingBaseWrite r base) s (fun t =>
      t.chip.get inst Obj.STEWARD_RING_BASE = s.chip.get inst Obj.STEWARD_RING_BASE ∧ t.answers r Obj.STEWARD_RING_BASE rcState ∧
      t.mem = s.mem) :=
  rowWrite_ends rfl hadmits (if_pos hbusy) fun _ ht => ⟨ht.get _ _ (by decide) (by decide), ht.answers, ht.mem⟩

section
variable {r : Req} {count : W32} {s : State} {inst : Nat}
  (hadmits : s.admits r Obj.STEWARD_RING_CONSUMER (wr 4 count.toNat) inst = true)
include hadmits

theorem stewardRingConsumerWrite_taken (hheld : (s.chip.part inst).held = []) : Ends (.stewardRingConsumerWrite r count) s (fun t =>
    t.chip.get inst Obj.STEWARD_RING_CONSUMER = count.toNat ∧ t.answers r Obj.STEWARD_RING_CONSUMER rcOK ∧ t.mem = s.mem) := by
  obtain ⟨c, hdrain, hregs, -⟩ := State.ringDrain_of_unheld (s := s.on (fun c => c.set inst Obj.STEWARD_RING_CONSUMER count.toNat)) hheld
    ((s.chip.part inst).held.length + (s.chip.part inst).waiting.length + 1)
  have heff : effRingConsumer inst (wr 4 count.toNat) s = (s.on fun _ => c, rcOK) := by
    simp only [effRingConsumer, leNat_wr (n := 4) count.isLt]
    exact congrArg (·, rcOK) hdrain
  have hlt := count.isLt
  refine rowWrite_ends rfl hadmits heff fun t ht => ⟨?_, ht.answers, ht.mem⟩
  rw [ht.get _ _ (by decide) (by decide), State.on_chip, Chip.get_of_regs hregs, State.on_chip, Chip.get_set_same]
  omega

theorem stewardRingConsumerWrite_writes {bs : List Byte} (hwaiting : (s.chip.part inst).waiting = [])
    (hheld : (s.chip.part inst).held = [bs])
    (hroom : (s.on (fun c => c.set inst Obj.STEWARD_RING_CONSUMER count.toNat)).chip.ringRoom inst = true) :
    Ends (.stewardRingConsumerWrite r count) s (fun t => (t.chip.part inst).held = [] ∧
      t.chip.get inst Obj.STEWARD_RING_PRODUCER = inc32 (s.chip.get inst Obj.STEWARD_RING_PRODUCER) ∧
      t.answers r Obj.STEWARD_RING_CONSUMER rcOK) := by
  set counted := s.on (fun c => c.set inst Obj.STEWARD_RING_CONSUMER count.toNat)
  have heff : effRingConsumer inst (wr 4 count.toNat) s =
      (State.ringDrain inst ((s.chip.part inst).held.length + (s.chip.part inst).waiting.length + 1) counted, rcOK) := by
    simp only [effRingConsumer, leNat_wr (n := 4) count.isLt]
    rfl
  obtain ⟨hempty, hproducer⟩ := State.ringDrain_of_held_one hroom hheld hwaiting
    ((s.chip.part inst).held.length + (s.chip.part inst).waiting.length)
  refine rowWrite_ends rfl hadmits heff fun t ht => ⟨?_, ?_, ht.answers⟩
  · rwa [Chip.part, ht.parts, ← Chip.part]
  · rw [ht.get _ _ (by decide) (by decide), hproducer]
    exact congrArg inc32 (Chip.get_set_other _ _ (by unfold ikey; simp only [Obj.STEWARD_RING_PRODUCER, Obj.STEWARD_RING_CONSUMER]; omega))

end

/-! ### The host's answers (R210, R213) -/

/-- The bytes of an answer `act` to the fault `id`. -/
structure ResolveWord (bs : List Byte) (id act : Nat) : Prop where
  id : fld (leNat bs) 63 32 = id
  act : fld (leNat bs) 1 0 = act
  clear : fld (leNat bs) 31 2 = 0

theorem resolveWord_wr {id act : Nat} (hid : id < 2 ^ 32) (hact : act < 4) : ResolveWord (wr 8 (id * 2 ^ 32 + act)) id act := by
  constructor
  all_goals simp only [fld, Nat.shiftRight_eq_div_pow, Nat.reducePow, Nat.reduceAdd, Nat.reduceSub] at *
  all_goals rw [leNat_wr (n := 8) (by omega)]
  all_goals omega

/-- No request of the partition bears the number. -/
def Chip.noHost (c : Chip) (inst id : Nat) : Prop := ∀ h ∈ c.hosts, ¬(h.info.part = inst ∧ h.id = id)

theorem Chip.noHost_dropHost (c : Chip) (inst id : Nat) : (c.dropHost inst id).noHost inst id := by
  rintro h hh ⟨rfl, rfl⟩
  simpa using (List.mem_filter.mp hh).2

theorem Chip.noHost_of_hosts {c d : Chip} {inst id : Nat} (hhosts : d.hosts = c.hosts) (h : c.noHost inst id) : d.noHost inst id := by
  rwa [Chip.noHost, hhosts]

theorem Chip.Unblocked.noHost {c d : Chip} (h : Unblocked c d) {inst id : Nat} (hc : c.noHost inst id) : d.noHost inst id := by
  intro x hx hnamed
  obtain ⟨y, hy, hinfo, hid⟩ := h.hosts x hx
  exact hc y hy (by rwa [hinfo, hid])

/-- A fault that the host answered is gone, and an answer at its limit is counted. -/
def Chip.hostAnswered (c : Chip) (inst id : Nat) (atLimit : Bool) : Chip := (c.dropHost inst id).nearMiss waitVct atLimit

theorem Chip.noHost_hostAnswered (c : Chip) (inst id : Nat) (atLimit : Bool) : (c.hostAnswered inst id atLimit).noHost inst id := by
  unfold Chip.hostAnswered Chip.nearMiss
  split <;> exact Chip.noHost_dropHost _ _ _

theorem Chip.hostAnswered_queues (c : Chip) (inst id : Nat) (atLimit : Bool) : (c.hostAnswered inst id atLimit).queues = c.queues := by
  unfold Chip.hostAnswered Chip.nearMiss
  split <;> rfl

theorem Chip.giveUpAll_tile (c : Chip) (st n q k u : Nat) : c.giveUpAll st [.tile n q k u] = (c.endCmd n q k st).dispatch n := by
  unfold Chip.giveUpAll
  simp only [List.foldl_cons, List.foldl_nil, Chip.giveUp, waiterRidge]

/-- A frame that retires is listed, where its unit's list has room. -/
theorem Chip.retiredAny_retire {c : Chip} {pa u o : Nat} (hpa : unitOf pa = some (u, o)) (hroom : c.roomToRetire u = true) (hard : Bool) :
    (c.retire pa hard).retiredAny pa = true := by
  rw [Chip.retiredAny_of_unit hpa]
  cases hlisted : c.retiredAny pa with
  | false =>
    rw [Chip.retire_of_unlisted hpa hard hlisted hroom]
    simp
  | true =>
    rw [Chip.retire_of_listed hpa hard hlisted, List.any_map]
    rw [Chip.retiredAny_of_unit hpa, List.any_eq_true] at hlisted
    obtain ⟨e, he, hframe⟩ := hlisted
    refine List.any_eq_true.mpr ⟨e, he, ?_⟩
    simp [decide_eq_true_eq.mp hframe]

section
variable {bs : List Byte} {inst id : Nat} {atLimit : Bool} {s : State} {h : HostFault}

theorem effResolve_retry (hword : ResolveWord bs id 1) (hfound : s.chip.hosts.find? (fun h => h.info.part = inst && h.id = id) = some h)
    (hfault : h.retire = false) : effResolve atLimit inst bs s =
      (s.on fun c => (c.hostAnswered inst id atLimit).releaseAll h.waiters, rcOK) := by
  unfold effResolve effOn
  simp only [hword.id, hword.act, hword.clear, hfound, hfault]
  rfl

theorem effResolve_abort (hword : ResolveWord bs id 2) (hfound : s.chip.hosts.find? (fun h => h.info.part = inst && h.id = id) = some h)
    (hfault : h.retire = false) : effResolve atLimit inst bs s =
      (s.on fun c => (c.hostAnswered inst id atLimit).giveUpAll stTranslation h.waiters, rcOK) := by
  unfold effResolve effOn
  simp only [hword.id, hword.act, hword.clear, hfound, hfault]
  rfl

theorem effResolve_done (hword : ResolveWord bs id 3) (hfound : s.chip.hosts.find? (fun h => h.info.part = inst && h.id = id) = some h)
    (hretire : h.retire = true) : effResolve atLimit inst bs s =
      (s.on fun c => (c.dropHost inst id).retire h.frame false, rcOK) := by
  unfold effResolve effOn
  simp only [hword.id, hword.act, hword.clear, hfound, hretire]
  rfl

theorem effResolve_unknown (hword : ResolveWord bs id 1)
    (hnone : s.chip.hosts.find? (fun h => h.info.part = inst && h.id = id) = none) : effResolve atLimit inst bs s =
      (s.on fun c => if (c.part inst).expired.contains id then c.late waitVct else c, rcState) := by
  unfold effResolve effOn
  simp only [hword.id, hword.act, hword.clear, hnone]
  rfl

end

section
variable {r : Req} {id : W32} {atLimit : Bool} {s : State} {inst : Nat} {h : HostFault}

theorem faultResolveRetry_unknown (hadmits : s.admits r Obj.FAULT_RESOLVE (wr 8 (id.toNat * 2 ^ 32 + 1)) inst = true)
    (hnone : s.chip.hosts.find? (fun h => h.info.part = inst && h.id = id.toNat) = none) :
    Ends (.faultResolveRetry r id atLimit) s (fun t => t.chip.hosts = s.chip.hosts ∧ t.answers r Obj.FAULT_RESOLVE rcState ∧
      t.mem = s.mem) := by
  refine rowWrite_ends rfl hadmits (effResolve_unknown (resolveWord_wr id.isLt (by decide)) hnone) fun t ht => ⟨?_, ht.answers, ht.mem⟩
  rw [ht.hosts, State.on_chip]
  split <;> rfl

variable (hfound : s.chip.hosts.find? (fun h => h.info.part = inst && h.id = id.toNat) = some h)
include hfound

theorem faultResolveRetry_ends (hadmits : s.admits r Obj.FAULT_RESOLVE (wr 8 (id.toNat * 2 ^ 32 + 1)) inst = true)
    (hfault : h.retire = false) : Ends (.faultResolveRetry r id atLimit) s (fun t =>
      t.chip.noHost inst id.toNat ∧ t.answers r Obj.FAULT_RESOLVE rcOK ∧ t.mem = s.mem) := by
  refine rowWrite_ends rfl hadmits (effResolve_retry (resolveWord_wr id.isLt (by decide)) hfound hfault) fun t ht =>
    ⟨Chip.noHost_of_hosts ht.hosts ?_, ht.answers, ht.mem⟩
  exact (Chip.Unblocked.releaseAll ..).noHost (Chip.noHost_hostAnswered _ _ _ _)

theorem faultResolveAbort_ends (hadmits : s.admits r Obj.FAULT_RESOLVE (wr 8 (id.toNat * 2 ^ 32 + 2)) inst = true)
    (hfault : h.retire = false) : Ends (.faultResolveAbort r id atLimit) s (fun t =>
      t.chip.noHost inst id.toNat ∧ t.answers r Obj.FAULT_RESOLVE rcOK ∧ t.mem = s.mem ∧
      (∀ n q k u, h.waiters = [.tile n q k u] → (s.chip.cmd n q k).isSome = true →
        ∃ e ∈ (t.chip.queue n q).cmds, e.count = k ∧ e.finished = true ∧ stTranslation ∈ e.status)) := by
  refine rowWrite_ends rfl hadmits (effResolve_abort (resolveWord_wr id.isLt (by decide)) hfound hfault) fun t ht =>
    ⟨Chip.noHost_of_hosts ht.hosts ?_, ht.answers, ht.mem, fun n q k u hone hcmd => ?_⟩
  · exact (Chip.Unblocked.giveUpAll ..).noHost (Chip.noHost_hostAnswered _ _ _ _)
  · obtain ⟨x, hx⟩ := Option.isSome_iff_exists.mp hcmd
    rw [Chip.queue_of_queues ht.queues, State.on_chip, hone, Chip.giveUpAll_tile]
    exact Chip.ended_after_dispatch ((Chip.cmd_of_queues (s.chip.hostAnswered_queues ..) n q k).trans hx) (by decide)

theorem faultResolveDone_ends (hadmits : s.admits r Obj.FAULT_RESOLVE (wr 8 (id.toNat * 2 ^ 32 + 3)) inst = true)
    (hretire : h.retire = true) {u o : Nat} (hframe : unitOf h.frame = some (u, o)) (hroom : s.chip.roomToRetire u = true) :
    Ends (.faultResolveDone r id) s (fun t => t.chip.noHost inst id.toNat ∧ t.chip.retiredAny h.frame = true ∧
      t.answers r Obj.FAULT_RESOLVE rcOK ∧ t.mem = s.mem) := by
  refine rowWrite_ends rfl hadmits (effResolve_done (resolveWord_wr id.isLt (by decide)) hfound hretire) fun t ht =>
    ⟨Chip.noHost_of_hosts ht.hosts ?_, ?_, ht.answers, ht.mem⟩
  · obtain ⟨_, _, _, _, _, _, _, hretired⟩ := ((Chip.Reported.refl (s.chip.dropHost inst id.toNat)).retire h.frame false).shape
    refine Chip.noHost_of_hosts ?_ (s.chip.noHost_dropHost inst id.toNat)
    rw [State.on_chip, hretired]
  · rw [Chip.retiredAny_of_unit hframe, Chip.unit_of_units ht.units, ← Chip.retiredAny_of_unit hframe]
    exact Chip.retiredAny_retire (c := s.chip.dropHost inst id.toNat) hframe hroom false

end

/-! ### A fault that no one answers (R214) -/

theorem faultHostLimitExpired_ends {part : Fin 8} {id : W32} {h : HostFault} {s : State}
    (hfound : s.chip.hosts.find? (fun h => h.info.part = part.val && h.id = id.toNat) = some h) (hfault : h.retire = false)
    (hwritten : h.written = true) : Ends (.faultHostLimitExpired part id) s (fun t => t.chip.noHost part.val id.toNat ∧
      h.id ∈ (t.chip.part part.val).expired ∧ t.mem = s.mem) := by
  set noted := (s.chip.dropHost part.val h.id).updPart part.val (fun p => { p with expired := p.expired ++ [h.id] }) with hnoted
  have hid : h.id = id.toNat := by
    have hnamed := List.find?_some hfound
    simp only [Bool.and_eq_true, decide_eq_true_eq] at hnamed
    exact hnamed.2
  have hexec : exec (.faultHostLimitExpired part id) s = .next (s.on fun _ => noted.giveUpAll stTranslation h.waiters) := by
    change execFaultHostLimitExpired part id s = _
    simp only [execFaultHostLimitExpired, State.on, hfound, hfault, hwritten]
    rfl
  have hended := Chip.Unblocked.giveUpAll noted stTranslation h.waiters
  refine ⟨_, hexec, ?_, ?_, rfl⟩
  · exact hended.noHost (hid ▸ s.chip.noHost_dropHost part.val h.id)
  · rw [State.on_chip, Chip.part, hended.parts, ← Chip.part, hnoted, Chip.part_updPart_same]
    exact List.mem_append_right _ (List.mem_singleton_self _)

/-- Settles O16: the ring's two registers with what is held, each answer by the request that it names, and a limit that expires. -/
theorem hostAnswers : Obligations.HostAnswers := by
  unfold Obligations.HostAnswers
  refine ⟨?base, ?consumer, ?answers, fun part id h s hfound hfault hwritten => faultHostLimitExpired_ends hfound hfault hwritten⟩
  case base =>
    exact fun r base s inst hadmits => ⟨fun hidle hheld _ => stewardRingBaseWrite_taken hadmits hidle hheld,
      stewardRingBaseWrite_refused hadmits⟩
  case consumer =>
    exact fun r count s inst hadmits hwaiting => ⟨stewardRingConsumerWrite_taken hadmits,
      fun bs hheld hroom _ => stewardRingConsumerWrite_writes hadmits hwaiting hheld hroom⟩
  case answers =>
    exact fun r id atLimit s inst => ⟨fun h hfound => ⟨faultResolveRetry_ends hfound, faultResolveAbort_ends hfound,
      fun hadmits hretire u o => faultResolveDone_ends hfound hadmits hretire⟩,
      fun hnone hadmits => faultResolveRetry_unknown hadmits hnone⟩

end Sys2Proof.Machine
end

section
/-! PROOF. A zero-fill that ends (R171, R228): the unit's backed lines are zero lines, and every other line is what it was. -/
namespace Sys2Proof.Machine

/-! ### Entries that are dropped from a table -/

theorem Tbl.find_dropKeys {α : Type} (t : Tbl α) (p : Nat → Bool) (k : Nat) :
    Tbl.find (Tbl.dropKeys t p) k = if p k then none else Tbl.find t k := by
  unfold Tbl.dropKeys
  induction t with
  | nil => simp
  | cons e t ih =>
    rw [List.filter_cons]
    by_cases hk : k = e.1
    · subst hk
      cases hp : p e.1 <;> simp [Tbl.find, ih, hp]
    · split <;> simp [Tbl.find, ih, hk]

theorem Tbl.get_dropKeys {α : Type} (t : Tbl α) (d : α) (p : Nat → Bool) (k : Nat) :
    Tbl.get (Tbl.dropKeys t p) d k = if p k then d else Tbl.get t d k := by
  rw [Tbl.get, Tbl.find_dropKeys]
  split <;> rfl

/-! ### A range of lines that is zeroed (R228) -/

theorem Memory.tag_zero (m : Memory) (a n x : Nat) :
    (m.zero a n).tag x = if a ≤ x / 128 * 128 ∧ x / 128 * 128 < a + n then 0 else m.tag x := by
  simp [Memory.tag, Memory.zero, Tbl.get_dropKeys]

theorem Memory.raw_zero (m : Memory) (a n x : Nat) : (m.zero a n).raw x = if a ≤ x ∧ x < a + n then 0#8 else m.raw x := by
  simp [Memory.raw, Memory.zero, Tbl.get_dropKeys]

section
variable (m : Memory) (k : Nat) {a n x : Nat} (hstart : a % 128 = 0)
include hstart

/-- A byte of the range lies in a line that begins in the range. -/
theorem Memory.byte_zero_inside (hlow : a ≤ x) (hhigh : x < a + n) : (m.zero a n).byte k x = 0#8 := by
  have htag : (m.zero a n).tag x = 0 := (m.tag_zero a n x).trans (if_pos (by omega))
  rw [Memory.byte, if_pos htag]

theorem Memory.byte_zero_outside (hend : n % 128 = 0) (hout : x < a ∨ a + n ≤ x) : (m.zero a n).byte k x = m.byte k x := by
  have htag : (m.zero a n).tag x = m.tag x := (m.tag_zero a n x).trans (if_neg (by omega))
  have hraw : (m.zero a n).raw x = m.raw x := (m.raw_zero a n x).trans (if_neg (by omega))
  rw [Memory.byte, Memory.byte, htag, hraw]

end

theorem unitBase_aligned (u : Nat) : unitBase u % 128 = 0 := by
  unfold unitBase farBase
  split <;> omega

theorem State.zeroUnit_of_unretired {s : State} {u : Nat} (h : (s.chip.unit u).retired = []) :
    s.zeroUnit u = s.withMem (s.mem.zero (unitBase u) (s.chip.unit u).backed) := by
  simp [State.zeroUnit, h]

/-! ### The end of a zero-fill (R228) -/

theorem zeroFillDone_ends {unit : Fin 32} {k : Nat} {s : State}
    (hfilling : (List.range 8).find? (fun k => (s.chip.part k).zeroUnits.contains unit.val) = some k)
    (howner : s.chip.owner (unit.val % 16) = none ∨ s.chip.owner (unit.val % 16) = some k) :
    Ends (.zeroFillDone unit) s (fun t => (t.chip.part k).zeroUnits = (s.chip.part k).zeroUnits.erase unit.val ∧
      t.mem = (s.zeroUnit unit.val).mem) := by
  have hmine : ((s.chip.owner (unit.val % 16)).isNone || s.chip.owner (unit.val % 16) = some k) = true := by
    rcases howner with hfree | hown
    · simp [hfree]
    · simp [hown]
  have hchip : (s.zeroUnit unit.val).chip = s.chip := by
    unfold State.zeroUnit
    dsimp only
    split <;> rfl
  refine ⟨_, rfl, ?_⟩
  simp only [hfilling, hmine, if_true]
  refine ⟨?_, rfl⟩
  rw [State.on_chip, hchip, Chip.part, Chip.setReg_parts, ← Chip.part, Chip.part_updPart_same]

/-- Settles O18: without retired frames the unit's whole backed range is zeroed, and the range begins and ends on a line. -/
theorem zeroFill : Obligations.ZeroFill := by
  unfold Obligations.ZeroFill
  intro unit k s hfilling howner hretired _ haligned
  have hstart := unitBase_aligned unit.val
  obtain ⟨t, hexec, hunits, hmem⟩ := zeroFillDone_ends hfilling howner
  rw [State.zeroUnit_of_unretired hretired] at hmem
  refine ⟨t, hexec, hunits, fun a key hlow hhigh => ?_, fun a key hout => ?_⟩
  · rw [hmem]
    exact Memory.byte_zero_inside _ key hstart hlow hhigh
  · rw [hmem]
    exact Memory.byte_zero_outside _ key hstart haligned hout

end Sys2Proof.Machine
end

section
/-! PROOF. WS_CONTROL (R221, R403, R476): its word, an action that is taken up, and an action that is refused. -/
namespace Sys2Proof.Machine

/-! ### The word of an action (Table 8.7) -/

theorem wsWord_fields (part : Fin 8) {a : Nat} (hlow : 1 ≤ a) (hhigh : a ≤ 3) (zero : Bool) :
    let v := leNat (wsWord part a zero)
    fld v 2 0 = part.val ∧ fld v 7 4 = a ∧ bitAt v 3 = false ∧ fld v 31 9 = 0 ∧ bitAt v 8 = zero := by
  have hwords : ∀ (part : Fin 8) (a : Fin 4) (zero : Bool), let v := leNat (wsWord part a zero)
      fld v 2 0 = part.val ∧ fld v 7 4 = a.val ∧ bitAt v 3 = false ∧ fld v 31 9 = 0 ∧ bitAt v 8 = zero := by decide
  exact hwords part ⟨a, by omega⟩ zero

/-- What an action that a steward may take does to the module, with its result. -/
def Chip.wsAct (c : Chip) (k a : Nat) (zero : Bool) : Chip × Nat :=
  if a = 1 then c.wsCreate k else if a = 2 then c.wsApply k zero else c.wsTeardown k zero

section
variable {part : Fin 8} {a : Nat} {zero : Bool} {s : State} (hlow : 1 ≤ a) (hhigh : a ≤ 3)
include hlow hhigh

theorem effWsControl_leased (inst : Nat) (hstarted : s.chip.reg Obj.STARTUP_STEP = 9) (hlease : s.chip.reg Obj.LEASE_HOLDER ≠ 0) :
    effWsControl inst (wsWord part a zero) s = (s.on fun c => (c.wsAct part.val a zero).1, (s.chip.wsAct part.val a zero).2) := by
  obtain ⟨hpart, haction, hclear, hhighClear, hzero⟩ := wsWord_fields part hlow hhigh zero
  have hvalid : ¬ (a = 0 ∨ 3 < a) := by omega
  simp only [effWsControl, effOn, hpart, haction, hclear, hhighClear, hzero]
  simp [Chip.isReady, hstarted, hlease, hvalid, Chip.wsAct, State.on]

theorem effWsControl_unleased (inst : Nat) (hlease : s.chip.reg Obj.LEASE_HOLDER = 0) :
    effWsControl inst (wsWord part a zero) s = (s, rcState) := by
  obtain ⟨-, haction, hclear, hhighClear, -⟩ := wsWord_fields part hlow hhigh zero
  have hvalid : ¬ (a = 0 ∨ 3 < a) := by omega
  simp only [effWsControl, effOn, haction, hclear, hhighClear]
  simp [hlease, hvalid]

end

/-! ### An action that is admitted (R221, R403, R476) -/

theorem State.admits_started {s : State} {r : Req} {key inst : Nat} {bs : List Byte} (h : s.admits r key bs inst = true) :
    s.chip.reg Obj.STARTUP_STEP = 9 := by
  rw [State.admits, Bool.and_eq_true, decide_eq_true_eq] at h
  exact h.1

namespace State.AnsweredFrom

variable {u t : State} {r : Req} {key code : Nat}

theorem streams (h : u.AnsweredFrom t r key code) : t.chip.streams = u.chip.streams := by obtain ⟨_, _, h⟩ := h.shape; rw [h]
theorem pend (h : u.AnsweredFrom t r key code) : t.chip.pend = u.chip.pend := by obtain ⟨_, _, h⟩ := h.shape; rw [h]

theorem reg (h : u.AnsweredFrom t r key code) {k : Nat} (hk : k < Obj.CNT_DICT_REFUSED) : t.chip.reg k = u.chip.reg k :=
  h.get modInst k (by simp only [Obj.CNT_DICT_REFUSED] at hk; omega) (by omega)

theorem wsState (h : u.AnsweredFrom t r key code) {k : Nat} (hk : k < 8) : t.chip.wsState k = u.chip.wsState k :=
  h.reg (by simp only [Obj.WS_STATE, Obj.CNT_DICT_REFUSED]; omega)

theorem ridgesOf (h : u.AnsweredFrom t r key code) {k : Nat} (hk : k < 8) : t.chip.ridgesOf k = u.chip.ridgesOf k :=
  h.reg (by simp only [atIdx, Obj.WS_APPLIED_RIDGES, Obj.CNT_DICT_REFUSED]; omega)

end State.AnsweredFrom

/-- A refused action: its reason, its event and its answer, and the partition as it was. -/
def State.wsRefused (s t : State) (r : Req) (k why : Nat) : Prop :=
  t.chip.reg Obj.WS_REFUSE_REASON = why ∧ t.answers r Obj.WS_CONTROL rcRefused ∧ t.chip.said 0x0605 0xFF [] ∧
  t.chip.wsState k = s.chip.wsState k ∧ t.chip.ridgesOf k = s.chip.ridgesOf k ∧ t.chip.parts = s.chip.parts ∧ t.mem = s.mem

/-- An action that no steward may take. -/
def State.wsStays (s t : State) (r : Req) : Prop :=
  t.answers r Obj.WS_CONTROL rcState ∧ t.chip.parts = s.chip.parts ∧
  (∀ k, k < 8 → t.chip.wsState k = s.chip.wsState k ∧ t.chip.ridgesOf k = s.chip.ridgesOf k) ∧ t.mem = s.mem

theorem Chip.wsRefuse_reg (c : Chip) (why : Nat) {key : Nat} (hkey : key ≠ Obj.WS_REFUSE_REASON)
    (hrecorder : recorderKey (ikey modInst key) = false) : (c.wsRefuse why).1.reg key = c.reg key :=
  (Chip.raiseMod_reg _ _ _ _ hrecorder).trans (Chip.reg_setReg_other _ _ hkey)

theorem Chip.wsRefuse_reason (c : Chip) {why : Nat} (hwhy : why < 2 ^ 64) : (c.wsRefuse why).1.reg Obj.WS_REFUSE_REASON = why :=
  (Chip.raiseMod_reg _ _ _ _ (by decide)).trans ((Chip.reg_setReg_same ..).trans (Nat.mod_eq_of_lt hwhy))

theorem Chip.wsRefuse_wsState (c : Chip) (why : Nat) {k : Nat} (hk : k < 8) : (c.wsRefuse why).1.wsState k = c.wsState k := by
  have hkeys : ∀ k < 8, Obj.WS_STATE + k ≠ Obj.WS_REFUSE_REASON ∧ recorderKey (ikey modInst (Obj.WS_STATE + k)) = false := by decide
  exact c.wsRefuse_reg why (hkeys k hk).1 (hkeys k hk).2

theorem Chip.wsRefuse_ridgesOf (c : Chip) (why : Nat) {k : Nat} (hk : k < 8) : (c.wsRefuse why).1.ridgesOf k = c.ridgesOf k := by
  have hkeys : ∀ k < 8, atIdx Obj.WS_APPLIED_RIDGES k ≠ Obj.WS_REFUSE_REASON ∧
      recorderKey (ikey modInst (atIdx Obj.WS_APPLIED_RIDGES k)) = false := by decide
  exact c.wsRefuse_reg why (hkeys k hk).1 (hkeys k hk).2

section
variable {i : Instr} {r : Req} {part : Fin 8} {a inst : Nat} {zero : Bool} {s : State} (hlow : 1 ≤ a) (hhigh : a ≤ 3)
  (hexec : exec i s = .next (s.rowWrite r Obj.WS_CONTROL (wsWord part a zero) effWsControl))
  (hadmits : s.admits r Obj.WS_CONTROL (wsWord part a zero) inst = true)
include hlow hhigh hexec hadmits

theorem wsControl_ends (hlease : s.chip.reg Obj.LEASE_HOLDER ≠ 0) {c : Chip} {code : Nat}
    (hact : s.chip.wsAct part.val a zero = (c, code)) {P : State → Prop}
    (hP : ∀ t, (s.on fun _ => c).AnsweredFrom t r Obj.WS_CONTROL code → P t) : Ends i s P := by
  refine rowWrite_ends hexec hadmits (u := s.on fun _ => c) ?_ hP
  rw [effWsControl_leased hlow hhigh inst (State.admits_started hadmits) hlease, hact, State.on, hact]
  rfl

theorem wsControl_refused (hlease : s.chip.reg Obj.LEASE_HOLDER ≠ 0) {why : Nat} (hwhy : why < 2 ^ 64)
    (hact : s.chip.wsAct part.val a zero = s.chip.wsRefuse why) : Ends i s (fun t => s.wsRefused t r part.val why) := by
  refine wsControl_ends hlow hhigh hexec hadmits hlease (hact.trans rfl) fun t ht => ⟨?_, ht.answers, ?_, ?_, ?_, ?_, ht.mem⟩
  · exact (ht.reg (by decide)).trans (s.chip.wsRefuse_reason hwhy)
  · exact Chip.said_of_streams ht.streams (Chip.raiseMod_said ..)
  · exact (ht.wsState part.isLt).trans (s.chip.wsRefuse_wsState why part.isLt)
  · exact (ht.ridgesOf part.isLt).trans (s.chip.wsRefuse_ridgesOf why part.isLt)
  · exact ht.parts.trans (Chip.raise_parts ..)

theorem wsControl_unleased (hlease : s.chip.reg Obj.LEASE_HOLDER = 0) : Ends i s (fun t => s.wsStays t r) :=
  rowWrite_ends hexec hadmits (effWsControl_unleased hlow hhigh inst hlease) fun _ ht =>
    ⟨ht.answers, ht.parts, fun _ hk => ⟨ht.wsState hk, ht.ridgesOf hk⟩, ht.mem⟩

end
end Sys2Proof.Machine
end

section
/-! PROOF. Creation of a partition (R223): what the module records of it once it is claimed, and what the rest of creation leaves of
that record. -/
namespace Sys2Proof.Machine

/-! ### Objects that the later steps of creation leave (R45, R223, R381) -/

theorem Chip.reg_of_dropKeys {c d : Chip} {p : Nat → Bool} {key : Nat} (hregs : d.regs = Tbl.dropKeys c.regs p)
    (hkept : p (ikey modInst key) = false) : d.reg key = c.reg key := by
  rw [Chip.reg, Chip.get, hregs, Tbl.find_dropKeys, hkept]
  rfl

/-- An object that the module holds once, for all partitions. -/
def heldOnce (key : Nat) : Bool :=
  match objFind (key / 256) (key % 256) with
  | some r => !r.perPart
  | none => true

/-- Objects that come back to their defaults for a new owner are the partitions' own. -/
theorem Chip.reg_dropObjs (c view : Chip) (k : Nat) (qp : Bool) {key : Nat} (hkey : key < 2 ^ 24) (hone : heldOnce key = true) :
    (c.dropObjs view k qp).reg key = c.reg key := by
  unfold Chip.dropObjs
  extract_lets mine
  refine Chip.reg_of_dropKeys (p := mine) rfl ?_
  have hobject : ikey modInst key % 2 ^ 24 = key ∧ ikey modInst key % 256 = key % 256 := by unfold ikey; omega
  cases hrow : objFind (key / 256) (key % 256) with
  | none => simp only [mine, hobject, hrow, Bool.and_false]
  | some row =>
    have hmodule : row.perPart = false := by simpa [heldOnce, hrow] using hone
    simp only [mine, hobject, hrow, hmodule, Bool.false_and, Bool.and_false]

@[simp] theorem Chip.seedSpur_regs (c : Chip) (n p : Nat) : (c.seedSpur n p).regs = c.regs := rfl

@[simp] theorem Chip.dropQps_regs (c : Chip) (k : Nat) : (c.dropQps k).regs = c.regs := rfl

@[simp] theorem Chip.doorbellRegions_regs (c : Chip) (k : Nat) : (c.doorbellRegions k).regs = c.regs := rfl

theorem Chip.reg_ridgeDomain (c : Chip) {n key : Nat} (hkey : key ≠ Obj.DOMAIN_STATE + n) : (c.ridgeDomain n).reg key = c.reg key := by
  unfold Chip.ridgeDomain Chip.setDomain
  split
  · rfl
  · exact Chip.reg_setReg_other _ _ hkey

theorem Chip.reg_setPoint (c : Chip) (q : Nat) {n key : Nat} (hkey : key ≠ Obj.RIDGE_POINT + n) : (c.setPoint n q).reg key = c.reg key :=
  Chip.reg_setReg_other _ _ hkey

theorem Chip.foldl_regs {α : Type} {f : Chip → α → Chip} (hf : ∀ d a, (f d a).regs = d.regs) (l : List α) (c : Chip) :
    (l.foldl f c).regs = c.regs :=
  List.foldlRecOn (motive := fun d : Chip => d.regs = c.regs) l f rfl fun d hd a _ => (hf d a).trans hd

theorem Chip.forQueues_regs {f : Chip → Nat → Chip} (hf : ∀ d q, (f d q).regs = d.regs) (c : Chip) : (forQueues f c).regs = c.regs :=
  Chip.foldl_regs hf (List.range 8) c

/-- Ridges that come to a partition have their own objects written, which lie below the partitions'. -/
theorem Chip.reg_giveRidges (c : Chip) (ridges : Nat) {key : Nat} (hkey : Obj.RIDGE_POINT + 16 ≤ key) :
    (c.giveRidges ridges).reg key = c.reg key := by
  unfold Chip.giveRidges
  refine List.foldlRecOn (motive := fun d : Chip => d.reg key = c.reg key) _ _ rfl fun d hd n hn => ?_
  have hn16 : n < 16 := List.mem_range.mp (List.mem_filter.mp hn).1
  extract_lets d1 d2 d3
  have hseeded : ∀ e : Chip, ((List.range 17).foldl (fun e p => e.seedSpur n p) e).regs = e.regs :=
    Chip.foldl_regs (fun e p => e.seedSpur_regs n p) _
  have hregs : d3.regs = d.regs := by
    simp only [d3, d2, d1, Chip.updUnit_regs, hseeded, Chip.forQueues_regs fun e q => e.setQueue_regs n q {}]
  rw [Obj.RIDGE_POINT] at hkey
  rw [Chip.reg_ridgeDomain _ (by rw [Obj.DOMAIN_STATE]; omega), Chip.reg_setPoint _ _ (by rw [Obj.RIDGE_POINT]; omega),
    Chip.reg_of_regs hregs, hd]

/-! ### The record of a partition (R221, R223) -/

/-- Where the module records a partition's Ridges, its key and the key's generation. -/
def partRecord (k : Nat) : List Nat := [atIdx Obj.WS_APPLIED_RIDGES k, Obj.KEY_SLOT_STATE + k, Obj.WS_KEY_GEN + k]

theorem partRecord_objects {k key : Nat} (hk : k < 8) (hkey : key ∈ partRecord k) :
    key < 2 ^ 24 ∧ Obj.RIDGE_POINT + 16 ≤ key ∧ heldOnce key = true ∧ key ≠ Obj.WS_STATE + k := by
  have hall : ∀ k < 8, ∀ key ∈ partRecord k,
      key < 2 ^ 24 ∧ Obj.RIDGE_POINT + 16 ≤ key ∧ heldOnce key = true ∧ key ≠ Obj.WS_STATE + k := by decide +kernel
  exact hall k hk key hkey

/-- The partition is claimed: its table, its Ridges and its key. -/
def Chip.wsClaimed (c : Chip) (k : Nat) : Chip :=
  let owned : Part := { lanes := c.stagedLanes k, vis := c.stagedVis k, share := c.stagedShare k, keyTag := c.fresh + 1, stepsDone := true }
  let d := (c.tick1.2.setPart k owned).setReg (atIdx Obj.WS_APPLIED_RIDGES k) (c.stagedRidges k)
  (d.setReg (Obj.KEY_SLOT_STATE + k) 1).setReg (Obj.WS_KEY_GEN + k) (inc32 (d.reg (Obj.WS_KEY_GEN + k)))

/-- What an owner before it left in the partition's own objects is gone. -/
def Chip.wsForgotten (c : Chip) (k : Nat) : Chip :=
  let mine := fun (key : Nat) => decide (key / 2 ^ 24 = k)
  { c with regs := Tbl.dropKeys c.regs mine, blobs := Tbl.dropKeys c.blobs mine }

theorem Chip.reg_wsForgotten (c : Chip) {k key : Nat} (hk : k < 8) (hkey : key < 2 ^ 24) :
    (c.wsForgotten k).reg key = c.reg key := by
  refine Chip.reg_of_dropKeys (p := fun key => decide (key / 2 ^ 24 = k)) rfl ?_
  rw [decide_eq_false_iff_not, ikey, modInst]
  omega

theorem Chip.wsBuild_eq (c : Chip) (k : Nat) :
    let d := ((c.wsClaimed k).wsForgotten k).dropObjs ((c.wsClaimed k).wsForgotten k) k true |>.dropQps k
    c.wsBuild k = ((d.doorbellRegions k).giveRidges (d.ridgesOf k)).setReg (Obj.WS_STATE + k) wsCreating := rfl

/-- The later steps of creation leave the record of the partition. -/
theorem Chip.wsBuild_record (c : Chip) {k key : Nat} (hk : k < 8) (hkey : key ∈ partRecord k) :
    (c.wsBuild k).reg key = (c.wsClaimed k).reg key := by
  obtain ⟨hsmall, hhigh, hone, hstate⟩ := partRecord_objects hk hkey
  rw [Chip.wsBuild_eq, Chip.reg_setReg_other _ _ hstate, Chip.reg_giveRidges _ _ hhigh,
    Chip.reg_of_regs (Chip.doorbellRegions_regs ..), Chip.reg_of_regs (Chip.dropQps_regs ..), Chip.reg_dropObjs _ _ k true hsmall hone,
    Chip.reg_wsForgotten _ hk hsmall]

theorem Chip.wsClaimed_record (c : Chip) {k : Nat} (hk : k < 8) :
    (c.wsClaimed k).reg (atIdx Obj.WS_APPLIED_RIDGES k) = c.stagedRidges k ∧ (c.wsClaimed k).reg (Obj.KEY_SLOT_STATE + k) = 1 ∧
    (c.wsClaimed k).reg (Obj.WS_KEY_GEN + k) = inc32 (c.reg (Obj.WS_KEY_GEN + k)) := by
  have hstaged : c.stagedRidges k < 2 ^ 64 := c.get_lt ..
  have hgen : inc32 (c.reg (Obj.WS_KEY_GEN + k)) < 2 ^ 64 := by unfold inc32; omega
  have hne : atIdx Obj.WS_APPLIED_RIDGES k ≠ Obj.KEY_SLOT_STATE + k ∧ atIdx Obj.WS_APPLIED_RIDGES k ≠ Obj.WS_KEY_GEN + k ∧
      Obj.KEY_SLOT_STATE + k ≠ Obj.WS_KEY_GEN + k := by
    simp only [atIdx, Obj.WS_APPLIED_RIDGES, Obj.KEY_SLOT_STATE, Obj.WS_KEY_GEN]
    omega
  unfold Chip.wsClaimed
  dsimp only
  refine ⟨?_, ?_, ?_⟩
  · rw [Chip.reg_setReg_other _ _ hne.2.1, Chip.reg_setReg_other _ _ hne.1, Chip.reg_setReg_same, Nat.mod_eq_of_lt hstaged]
  · exact (Chip.reg_setReg_other _ _ hne.2.2).trans (Chip.reg_setReg_same ..)
  · rw [Chip.reg_setReg_same, Chip.reg_setReg_other _ _ hne.2.1.symm]
    exact Nat.mod_eq_of_lt hgen

/-! ### CREATE (R221–R223) -/

section
variable {c : Chip} {k : Nat} (hfree : c.wsState k = wsFree)
include hfree

theorem Chip.wsCreate_taken (hsome : c.stagedRidges k ≠ 0)
    (hreason : c.addReason k (c.stagedRidges k) (c.stagedLanes k) (c.stagedVis k) = 0) : c.wsCreate k = (c.wsBuild k, rcOK) := by
  simp [Chip.wsCreate, hfree, hsome, hreason]

theorem Chip.wsCreate_empty (hnone : c.stagedRidges k = 0) : c.wsCreate k = c.wsRefuse wsEmpty := by
  simp [Chip.wsCreate, hfree, hnone]

end

theorem wsCreate_ends {r : Req} {part : Fin 8} {zero : Bool} {s : State} {inst : Nat} (hlease : s.chip.reg Obj.LEASE_HOLDER ≠ 0)
    (hadmits : s.admits r Obj.WS_CONTROL (wsWord part 1 zero) inst = true) (hfree : s.chip.wsState part.val = wsFree)
    (hsome : s.chip.stagedRidges part.val ≠ 0)
    (hreason : s.chip.addReason part.val (s.chip.stagedRidges part.val) (s.chip.stagedLanes part.val) (s.chip.stagedVis part.val) = 0) :
    Ends (.wsCreate r part zero) s (fun t => t.chip.wsState part.val = wsCreating ∧
      t.chip.ridgesOf part.val = s.chip.stagedRidges part.val ∧
      t.chip.reg (Obj.KEY_SLOT_STATE + part.val) = 1 ∧
      t.chip.reg (Obj.WS_KEY_GEN + part.val) = inc32 (s.chip.reg (Obj.WS_KEY_GEN + part.val)) ∧
      t.answers r Obj.WS_CONTROL rcOK ∧ t.mem = s.mem) := by
  have hk := part.isLt
  obtain ⟨hridges, hslot, hgen⟩ := s.chip.wsClaimed_record hk
  refine wsControl_ends (a := 1) (by decide) (by decide) rfl hadmits hlease (Chip.wsCreate_taken hfree hsome hreason) fun t ht => ?_
  have hrecord : ∀ key ∈ partRecord part.val, t.chip.reg key = (s.chip.wsClaimed part.val).reg key := fun key hkey =>
    (ht.get modInst key (partRecord_objects hk hkey).1 (by
      have hall : ∀ k < 8, Obj.CNT_DICT_REFUSED ∉ partRecord k := by decide
      exact fun h => hall part.val hk (h ▸ hkey))).trans (s.chip.wsBuild_record hk hkey)
  refine ⟨?_, (hrecord _ ?_).trans hridges, (hrecord _ ?_).trans hslot, (hrecord _ ?_).trans hgen, ht.answers, ht.mem⟩
  · exact (ht.wsState hk).trans (Chip.reg_setReg_same ..)
  all_goals simp [partRecord]

end Sys2Proof.Machine
end

section
/-! PROOF. A change of a partition and its teardown (R224, R226, Table 8.3): what teardown ends on the partition's Ridges, what it
discards, and what the rest of it leaves alone. -/
namespace Sys2Proof.Machine

/-! ### APPLY (R224) -/

/-- The partition with its staged values claimed until the boundary. -/
def Chip.wsApplying (c : Chip) (k : Nat) (zero : Bool) : Part :=
  { c.part k with applying := true, applyZero := zero, newRidges := c.stagedRidges k, newLanes := c.stagedLanes k,
                  newVis := c.stagedVis k, newShare := c.stagedShare k }

section
variable {c : Chip} {k : Nat} {zero : Bool} (hactive : c.wsState k = wsActive) (hidle : (c.part k).applying = false)
  (hsome : c.stagedRidges k ≠ 0)
  (hreason : c.addReason k (without 16 (c.stagedRidges k) (c.ridgesOf k)) (without 256 (c.stagedLanes k) (c.part k).lanes)
    (without 64 (c.stagedVis k) (c.part k).vis) = 0)
include hactive hidle hsome hreason

theorem Chip.wsApply_taken (hquiet : c.quiescent k = true) :
    c.wsApply k zero = (c.setPart k (c.wsApplying k zero), rcOK) := by
  simp [Chip.wsApply, Chip.updPart, Chip.wsApplying, hactive, hidle, hsome, hreason, hquiet, wsActive, wsFree]

theorem Chip.wsApply_unquiet (hbusy : c.quiescent k = false) : c.wsApply k zero = c.wsRefuse wsNotQuiescent := by
  simp [Chip.wsApply, hactive, hidle, hsome, hreason, hbusy, wsActive, wsFree]

end

theorem wsApply_ends {r : Req} {part : Fin 8} {zero : Bool} {s : State} {inst : Nat} (hlease : s.chip.reg Obj.LEASE_HOLDER ≠ 0)
    (hadmits : s.admits r Obj.WS_CONTROL (wsWord part 2 zero) inst = true)
    (htaken : s.chip.wsApply part.val zero = (s.chip.setPart part.val (s.chip.wsApplying part.val zero), rcOK)) :
    Ends (.wsApply r part zero) s (fun t => t.chip.part part.val = s.chip.wsApplying part.val zero ∧ t.chip.regs = s.chip.regs ∧
      t.answers r Obj.WS_CONTROL rcOK ∧ t.mem = s.mem) := by
  refine wsControl_ends (a := 2) (by decide) (by decide) rfl hadmits hlease htaken fun t ht => ⟨?_, ht.regs rfl, ht.answers, ht.mem⟩
  rw [Chip.part, ht.parts]
  exact Tbl.get_put_same ..

/-! ### Steps of a teardown that end no work and begin none (R226) -/

/-- Queues are what they were, and no translation pends that did not. -/
structure Chip.SameWork (c d : Chip) : Prop where
  queues : d.queues = c.queues
  pend : ∀ p ∈ d.pend, ∃ p' ∈ c.pend, p'.info = p.info

namespace Chip.SameWork

variable {b c d : Chip}

theorem of_same (hqueues : d.queues = c.queues) (hpend : d.pend = c.pend) : SameWork c d :=
  ⟨hqueues, fun p hp => ⟨p, hpend ▸ hp, rfl⟩⟩

theorem refl (c : Chip) : SameWork c c := of_same rfl rfl

theorem trans (h : SameWork b c) (h' : SameWork c d) : SameWork b d where
  queues := h'.queues.trans h.queues
  pend p hp := by
    obtain ⟨p', hp', hinfo'⟩ := h'.pend p hp
    obtain ⟨p'', hp'', hinfo⟩ := h.pend p' hp'
    exact ⟨p'', hp'', hinfo.trans hinfo'⟩

theorem ite {p : Prop} [Decidable p] (hc : SameWork b c) (hd : SameWork b d) : SameWork b (if p then c else d) := by
  split <;> assumption

theorem foldl {α : Type} {f : Chip → α → Chip} (hf : ∀ d a, SameWork d (f d a)) (l : List α) (c : Chip) : SameWork c (l.foldl f c) :=
  List.foldlRecOn l f (refl c) fun d hd a _ => hd.trans (hf d a)

theorem raise (c : Chip) (ty part : Nat) (fs : List (Nat × Nat)) : SameWork c (c.raise ty part fs) :=
  of_same (Chip.raise_queues ..) (Chip.raise_pend ..)

theorem setReg (c : Chip) (key v : Nat) : SameWork c (c.setReg key v) := of_same rfl rfl

theorem count (c : Chip) (inst key n : Nat) : SameWork c (c.count inst key n) := of_same rfl rfl

theorem spadClear (c : Chip) (n p : Nat) : SameWork c (c.spadClear n p) := of_same rfl rfl

theorem setQp (c : Chip) (q : Nat) (x : Qp) : SameWork c (c.setQp q x) := of_same rfl rfl

theorem updRidge (c : Chip) (n : Nat) (f : Ridge → Ridge) : SameWork c (c.updRidge n f) := of_same rfl rfl

theorem countPart (c : Chip) (k key n : Nat) : SameWork c (c.countPart k key n) :=
  of_same (Chip.countPart_queues ..) (Chip.countPart_pend ..)

theorem dropWaiters (c : Chip) (keep : Waiter → Bool) : SameWork c (c.dropWaiters keep) where
  queues := rfl
  pend p hp := by
    obtain ⟨p', hp', rfl⟩ := List.mem_map.mp hp
    exact ⟨p', hp', rfl⟩

theorem trace (c : Chip) (n q : Nat) (t : TraceRec) : SameWork c (c.trace n q t) := by
  unfold Chip.trace
  extract_lets k room push lost c1
  have hlost : SameWork c c1 := ite ((updRidge ..).trans (updRidge ..)) (refl c)
  exact ite (refl c) (ite (hlost.trans (updRidge ..)) (hlost.trans ((countPart ..).trans (updRidge ..))))

theorem abandonUnits (c : Chip) (n q : Nat) (mine : Nat → Bool) : SameWork c (c.abandonUnits n q mine) := by
  unfold Chip.abandonUnits
  extract_lets say r c1 c2 gone keep
  have hsay : ∀ (d : Chip) (bit unit count u : Nat), SameWork d (say d bit unit count u) := by
    intro d bit unit count u
    unfold say
    split
    · exact trace ..
    · exact refl d
  have hspurs : SameWork c c1 := foldl (fun d p => by
    split
    · exact ite (hsay ..) (refl d)
    · exact refl d) _ c
  have hengines : SameWork c1 c2 := foldl (fun d p => by
    split
    · exact ite (hsay ..) (refl d)
    · exact refl d) _ c1
  exact (hspurs.trans hengines).trans ((dropWaiters c2 keep).trans (updRidge ..))

theorem qpFail (c : Chip) (q : Nat) : SameWork c (c.qpFail q) := by
  unfold Chip.qpFail
  split
  · exact refl c
  · extract_lets x c1 flush part c2
    have hfailed : SameWork c (c.setQpState q qpError) := of_same rfl rfl
    have hdropped : SameWork c c1 := hfailed.trans (dropWaiters ..)
    have hflushed : SameWork c1 c2 := of_same rfl rfl
    exact (hdropped.trans hflushed).trans (raise ..)

theorem rcTeardown (c : Chip) (k : Nat) : SameWork c (c.rcTeardown k) := by
  refine foldl (fun d core => ite ?_ (refl d)) _ c
  unfold Chip.rcWait
  extract_lets p d1
  have hcore : SameWork d d1 := of_same rfl rfl
  exact ite hcore (hcore.trans ((setReg d1 _ _).trans (raise ..)))

theorem endSess (c : Chip) (slot : Nat) : SameWork c (c.endSess slot) := by
  unfold Chip.endSess
  split
  · exact refl c
  · extract_lets c1 own
    have hclosed : SameWork c c1 := (count ..).trans (raise ..)
    exact hclosed.trans (of_same rfl rfl)

theorem closePart (c : Chip) (k : Nat) : SameWork c (c.closePart k) :=
  (foldl (fun d (p : Nat × Sess) => endSess d p.1) _ c).trans (of_same rfl rfl)

theorem startFill (c : Chip) (k : Nat) (us : List Nat) : SameWork c (c.startFill k us) := of_same rfl rfl

theorem wsDiscard (c : Chip) (k : Nat) : SameWork c (c.wsDiscard k) := ⟨rfl, fun p hp => ⟨p, List.mem_of_mem_filter hp, rfl⟩⟩

theorem zeroRidge (c : Chip) (n : Nat) : SameWork c (c.zeroRidge n) := by
  unfold Chip.zeroRidge
  exact (foldl (fun d p => spadClear d n p) _ c).trans (updRidge ..)

end Chip.SameWork

@[simp] theorem Chip.spadClear_regs (c : Chip) (n p : Nat) : (c.spadClear n p).regs = c.regs := rfl

@[simp] theorem Chip.zeroRidge_regs (c : Chip) (n : Nat) : (c.zeroRidge n).regs = c.regs := by
  unfold Chip.zeroRidge
  rw [Chip.updRidge_regs]
  exact Chip.foldl_regs (fun d p => d.spadClear_regs n p) _ c

/-! ### What a teardown ends (R226, steps 1 to 5) -/

/-- A teardown ends the work of a queue and disables it. -/
def Chip.queueEnded (c : Chip) (n q : Nat) : Chip := (c.abandonUnits n q (fun _ => true)).setQueue n q {}

theorem Chip.queueEnded_disabled (c : Chip) (n q : Nat) : ((c.queueEnded n q).queue n q).st = .disabled := by
  rw [Chip.queueEnded, Chip.queue_setQueue_same]

theorem Chip.queueEnded_keeps {c : Chip} {n q : Nat} (h : (c.queue n q).st = .disabled) (m r : Nat) :
    ((c.queueEnded m r).queue n q).st = .disabled := by
  by_cases hsame : 8 * n + q = 8 * m + r
  · rw [Chip.queue, hsame, ← Chip.queue]
    exact c.queueEnded_disabled m r
  · rw [Chip.queueEnded, Chip.queue_setQueue_other _ _ hsame, Chip.queue_of_queues (Chip.SameWork.abandonUnits ..).queues, h]

/-- What one step of a fold brings about and every step keeps holds after the fold. -/
theorem foldl_of_mem {α β : Type} {f : β → α → β} {p : β → Prop} {a : α} (hset : ∀ b, p (f b a)) (hkeeps : ∀ b x, p b → p (f b x))
    {l : List α} (ha : a ∈ l) (b : β) : p (l.foldl f b) := by
  induction l generalizing b with
  | nil => cases ha
  | cons x l ih =>
    rcases List.mem_cons.mp ha with rfl | hrest
    · exact List.foldlRecOn l f (hset b) fun d hd y _ => hkeeps d y hd
    · exact ih hrest (f b x)

theorem Chip.queuesEnded_disabled (c : Chip) {ridges : List Nat} {n q : Nat} (hn : n ∈ ridges) (hq : q < 8) :
    ((ridges.foldl (fun c n => forQueues (fun c q => c.queueEnded n q) c) c).queue n q).st = .disabled := by
  refine foldl_of_mem (p := fun d : Chip => (d.queue n q).st = .disabled) (fun d => ?_) (fun d m hd => ?_) hn c
  · exact foldl_of_mem (p := fun d : Chip => (d.queue n q).st = .disabled) (fun d => d.queueEnded_disabled n q)
      (fun _ r hd => Chip.queueEnded_keeps hd n r) (List.mem_range.mpr hq) d
  · exact List.foldlRecOn (motive := fun d : Chip => (d.queue n q).st = .disabled) _ _ hd fun _ hd r _ => Chip.queueEnded_keeps hd m r

theorem Chip.not_pending_wsDiscard {c : Chip} {k : Nat} {p : Pend} (hp : p ∈ (c.wsDiscard k).pend) : p.info.part ≠ k := by
  simpa using (List.mem_filter.mp hp).2

/-- The rest of a teardown leaves the ended queues DISABLED, makes no translation pend, and leaves the key's slot empty. -/
theorem Chip.wsEnd_ended (c : Chip) {k : Nat} (hk : k < 8) (zero : Bool) :
    (∀ n ∈ c.ridgeList k, ∀ q, q < 8 → ((c.wsEnd k zero).queue n q).st = .disabled) ∧
    (∀ e ∈ (c.wsEnd k zero).pend, e.info.part ≠ k) ∧
    (c.wsEnd k zero).reg (Obj.KEY_SLOT_STATE + k) = 0 := by
  unfold Chip.wsEnd
  extract_lets rs c0 c1 c2 c3 c4 c5 c6
  have hqps : SameWork c1 c2 := .foldl (fun d (p : Nat × Qp) => (SameWork.qpFail d p.1).trans (.setQp _ p.1 {})) _ c1
  have hclosed : SameWork (c2.wsDiscard k) c3 := (SameWork.rcTeardown ..).trans (SameWork.closePart ..)
  have herased : SameWork c3 c5 := (SameWork.setReg ..).trans (.foldl (fun d n => .ite (.refl d) (.zeroRidge d n)) _ c4)
  have hrest : SameWork (c2.wsDiscard k) (c6.setReg (Obj.WS_STATE + k) wsTearing) :=
    (hclosed.trans herased).trans ((SameWork.startFill ..).trans (.setReg ..))
  refine ⟨fun n hn q hq => ?_, fun e he => ?_, ?_⟩
  · rw [Chip.queue_of_queues (hqps.trans ((SameWork.wsDiscard c2 k).trans hrest)).queues]
    exact c0.queuesEnded_disabled hn hq
  · obtain ⟨p, hp, hinfo⟩ := hrest.pend e he
    exact hinfo ▸ Chip.not_pending_wsDiscard hp
  · have hregs : c5.regs = c4.regs := Chip.foldl_regs (fun d n => by split <;> simp) rs c4
    have hfilled : c6.reg (Obj.KEY_SLOT_STATE + k) = c5.reg (Obj.KEY_SLOT_STATE + k) :=
      Chip.reg_setReg_other _ _ (by simp only [atIdx, Obj.KEY_SLOT_STATE, Obj.WS_ZERO_FILL_LEFT]; omega)
    rw [Chip.reg_setReg_other _ _ (by simp only [Obj.KEY_SLOT_STATE, Obj.WS_STATE]; omega), hfilled, Chip.reg_of_regs hregs]
    exact Chip.reg_setReg_same ..

/-! ### TEARDOWN (R221, R226) -/

theorem Chip.wsTeardown_taken {c : Chip} {k : Nat} (zero : Bool) (hactive : c.wsState k = wsActive)
    (hidle : (c.part k).applying = false) : c.wsTeardown k zero = (c.wsEnd k zero, rcOK) := by
  simp [Chip.wsTeardown, hactive, hidle, wsActive, wsFree]

theorem wsTeardown_ends {r : Req} {part : Fin 8} {zero : Bool} {s : State} {inst : Nat} (hlease : s.chip.reg Obj.LEASE_HOLDER ≠ 0)
    (hadmits : s.admits r Obj.WS_CONTROL (wsWord part 3 zero) inst = true) (hactive : s.chip.wsState part.val = wsActive)
    (hidle : (s.chip.part part.val).applying = false) :
    Ends (.wsTeardown r part zero) s (fun t => t.chip.wsState part.val = wsTearing ∧ t.chip.reg (Obj.KEY_SLOT_STATE + part.val) = 0 ∧
      (∀ n ∈ s.chip.ridgeList part.val, ∀ q, q < 8 → (t.chip.queue n q).st = .disabled) ∧
      (∀ e ∈ t.chip.pend, e.info.part ≠ part.val) ∧ t.answers r Obj.WS_CONTROL rcOK ∧ t.mem = s.mem) := by
  obtain ⟨hqueues, hpend, hslot⟩ := s.chip.wsEnd_ended part.isLt zero
  refine wsControl_ends (a := 3) (by decide) (by decide) rfl hadmits hlease (Chip.wsTeardown_taken zero hactive hidle) fun t ht =>
    ⟨?_, ?_, fun n hn q hq => ?_, fun e he => hpend e (ht.pend ▸ he), ht.answers, ht.mem⟩
  · exact (ht.wsState part.isLt).trans (Chip.reg_setReg_same ..)
  · exact (ht.reg (by simp only [Obj.KEY_SLOT_STATE, Obj.CNT_DICT_REFUSED]; omega)).trans hslot
  · rw [Chip.queue_of_queues ht.queues]
    exact hqueues n hn q hq

/-- Settles O17: each action by what it does to the module when it is taken up, by its reason when it is refused, and without a
leaseholder by the check that stands before it. -/
theorem wsControl : Obligations.WsControl := by
  unfold Obligations.WsControl
  refine ⟨fun r part zero s inst hlease => ⟨?create, ?apply, ?teardown⟩, fun r part zero s inst hlease => ?unleased⟩
  case create =>
    exact fun hadmits hfree => ⟨wsCreate_ends hlease hadmits hfree,
      fun hnone => wsControl_refused (a := 1) (by decide) (by decide) rfl hadmits hlease (by decide) (Chip.wsCreate_empty hfree hnone)⟩
  case apply =>
    exact fun hadmits hactive hidle hsome hreason =>
      ⟨fun hquiet => wsApply_ends hlease hadmits (Chip.wsApply_taken hactive hidle hsome hreason hquiet),
      fun hbusy => wsControl_refused (a := 2) (by decide) (by decide) rfl hadmits hlease (by decide)
        (Chip.wsApply_unquiet hactive hidle hsome hreason hbusy)⟩
  case teardown =>
    exact fun hadmits => ⟨wsTeardown_ends hlease hadmits,
      fun hfree => wsControl_refused (a := 3) (by decide) (by decide) rfl hadmits hlease (by decide) (if_pos hfree)⟩
  case unleased =>
    exact ⟨fun hadmits => wsControl_unleased (a := 1) (by decide) (by decide) rfl hadmits hlease,
      fun hadmits => wsControl_unleased (a := 2) (by decide) (by decide) rfl hadmits hlease,
      fun hadmits => wsControl_unleased (a := 3) (by decide) (by decide) rfl hadmits hlease⟩

end Sys2Proof.Machine
end

section
/-! PROOF. Lanes and links as they change (R238–R241, R253–R257): single updates, what a lane that leaves its link can change of the
module, and the link that stops, retrains, is quarantined or goes down. -/
namespace Sys2Proof.Machine

/-! ### A command that acts on the chip alone -/

theorem ends_on {i : Instr} {s : State} {c : Chip} {f : Chip → Chip} {P : State → Prop} (hexec : exec i s = .next (s.on f))
    (hchip : f s.chip = c) (hP : ∀ t : State, t.chip = c → t.mem = s.mem → P t) : Ends i s P :=
  ⟨_, hexec, hP _ hchip rfl⟩

/-! ### Single updates of lanes and links -/

@[simp] theorem Chip.lane_updLane_same (c : Chip) (i : Nat) (f : Lane → Lane) : (c.updLane i f).lane i = f (c.lane i) := by
  simp [Chip.lane, Chip.updLane]

theorem Chip.lanePart_of_parts {c d : Chip} (h : d.parts = c.parts) (i : Nat) : d.lanePart i = c.lanePart i := by
  simp only [Chip.lanePart, Chip.part, h]

theorem Chip.lane_of_lanes {c d : Chip} (h : d.lanes = c.lanes) (i : Nat) : d.lane i = c.lane i := by
  rw [Chip.lane, h, Chip.lane]

/-- An event moves no object below the recorder's own counters. -/
theorem Chip.raise_reg_of_lt (c : Chip) (ty part : Nat) (fs : List (Nat × Nat)) {key : Nat} (hkey : key < Obj.CNT_CAIRN_LOST) :
    (c.raise ty part fs).reg key = c.reg key :=
  c.raise_reg ty part fs key (recorderKey_of_subject (by simp only [Obj.CNT_CAIRN_LOST] at hkey; omega))

theorem Chip.reg_setReg_self (c : Chip) (k l : Nat) : (c.setReg k (c.reg k)).reg l = c.reg l := by
  rw [Chip.reg_setReg]
  split
  next h => rw [h]; exact Nat.mod_eq_of_lt (c.get_lt modInst k)
  next => rfl

/-- Where a value is found after those of a kind were changed in place. -/
theorem Tbl.find_map_if {α : Type} (t : Tbl α) (p : α → Prop) [DecidablePred p] (f : α → α) (k : Nat) :
    Tbl.find (t.map fun e => if p e.2 then (e.1, f e.2) else e) k = (Tbl.find t k).map fun v => if p v then f v else v := by
  induction t with
  | nil => rfl
  | cons e t ih =>
    obtain ⟨j, v⟩ := e
    by_cases hp : p v <;> by_cases hk : k = j <;> simp [Tbl.find, hp, hk, ih]

/-- A value that is not of the kind is read as before. -/
theorem Tbl.get_map_if_not {α : Type} {t : Tbl α} {p : α → Prop} [DecidablePred p] (f : α → α) {d : α} {k : Nat}
    (h : ¬ p (Tbl.get t d k)) :
    Tbl.get (t.map fun e => if p e.2 then (e.1, f e.2) else e) d k = Tbl.get t d k := by
  unfold Tbl.get at h ⊢
  rw [Tbl.find_map_if]
  cases hfound : Tbl.find t k with
  | none => rfl
  | some v =>
    rw [hfound, Option.getD_some] at h
    simp only [Option.map_some, Option.getD_some, if_neg h]

/-! ### Calibration runs that a lane leaves (R325) -/

theorem Chip.calLeave_shape (c : Chip) (i : Nat) : ∃ rg ca, c.calLeave i = { c with regs := rg, calRuns := ca } := by
  unfold Chip.calLeave
  extract_lets g r
  split
  · exact ⟨c.regs, c.calRuns, rfl⟩
  · exact ⟨_, _, rfl⟩

/-- The state of a run is written as it is. -/
theorem Chip.calLeave_reg (c : Chip) (i key : Nat) : (c.calLeave i).reg key = c.reg key := by
  unfold Chip.calLeave
  extract_lets g r
  split
  · rfl
  · exact c.reg_setReg_self (Obj.CAL_STATE + g) key

@[simp] theorem Chip.calLeave_lanes (c : Chip) (i : Nat) : (c.calLeave i).lanes = c.lanes := by
  obtain ⟨_, _, h⟩ := c.calLeave_shape i
  rw [h]

@[simp] theorem Chip.calLeave_lane (c : Chip) (i j : Nat) : (c.calLeave i).lane j = c.lane j := Chip.lane_of_lanes (c.calLeave_lanes i) j

theorem Chip.calLeave_extNext (c : Chip) (i : Nat) : (c.calLeave i).extNext = c.extNext := by
  obtain ⟨_, _, h⟩ := c.calLeave_shape i
  rw [h]

theorem Chip.calLeave_parts (c : Chip) (i : Nat) : (c.calLeave i).parts = c.parts := by
  obtain ⟨_, _, h⟩ := c.calLeave_shape i
  rw [h]

/-! ### Lanes that fall quiet (R256) -/

theorem Chip.foldl_calLeave (l : List Nat) (c : Chip) :
    (∃ rg ca, l.foldl Chip.calLeave c = { c with regs := rg, calRuns := ca }) ∧ ∀ key, (l.foldl Chip.calLeave c).reg key = c.reg key := by
  induction l generalizing c with
  | nil => exact ⟨⟨c.regs, c.calRuns, rfl⟩, fun _ => rfl⟩
  | cons i l ih =>
    obtain ⟨⟨rg, ca, hshape⟩, hreg⟩ := ih (c.calLeave i)
    obtain ⟨_, _, hi⟩ := c.calLeave_shape i
    exact ⟨⟨rg, ca, by rw [List.foldl_cons, hshape, hi]⟩, fun key => (hreg key).trans (c.calLeave_reg i key)⟩

/-- A lane of a link that stops: READY where it was in use, with no join and no window ahead of it. -/
def Lane.quieted (x : Lane) : Lane :=
  { x with state := if x.state = laneActive || x.state = lanePaused then laneReady else x.state, joinAt := none, swapAt := none,
           swapAcked := false }

section
variable (c : Chip) (l : Nat)

theorem Chip.quietLanes_shape : ∃ rg ca la, c.quietLanes l = { c with regs := rg, calRuns := ca, lanes := la } := by
  obtain ⟨rg, ca, h⟩ := (Chip.foldl_calLeave (c.liveOf l) c).1
  exact ⟨rg, ca, _, by rw [Chip.quietLanes, h]⟩

theorem Chip.quietLanes_reg (key : Nat) : (c.quietLanes l).reg key = c.reg key := (Chip.foldl_calLeave (c.liveOf l) c).2 key

theorem Chip.quietLanes_links : (c.quietLanes l).links = c.links := by
  obtain ⟨_, _, _, h⟩ := c.quietLanes_shape l
  rw [h]

theorem Chip.quietLanes_streams : (c.quietLanes l).streams = c.streams := by
  obtain ⟨_, _, _, h⟩ := c.quietLanes_shape l
  rw [h]

theorem Chip.quietLanes_link (m : Nat) : (c.quietLanes l).link m = c.link m := Chip.link_of_links (c.quietLanes_links l) m

variable {c l} in
theorem Chip.quietLanes_lane {i : Nat} (h : (c.lane i).link ≠ some l) : (c.quietLanes l).lane i = c.lane i := by
  obtain ⟨rg, ca, hleft⟩ := (Chip.foldl_calLeave (c.liveOf l) c).1
  rw [Chip.quietLanes, hleft]
  exact Tbl.get_map_if_not (p := fun x : Lane => x.link = some l) Lane.quieted h

/-! ### A link that stops (R241, R253, R257) -/

theorem Chip.linkStop_link (st : Nat) : (c.linkStop l st).link l = { (c.link l).clear with state := st } := by
  rw [Chip.linkStop, Chip.link_updLink_same, Chip.quietLanes_link]

theorem Chip.linkStop_reg (st key : Nat) : (c.linkStop l st).reg key = c.reg key := c.quietLanes_reg l key

/-- The event of a link is raised for its partition. -/
theorem Chip.linkEvent_said {c d : Chip} {l : Nat} (ty : Nat) (hpart : (d.link l).part = (c.link l).part) :
    (d.linkEvent l ty []).said ty ((c.link l).part.getD 0xFF) [] := by
  rw [← hpart]
  exact Chip.raise_said ..

theorem Chip.linkEvent_link (d : Chip) (ty m : Nat) (fs : List (Nat × Nat)) : (d.linkEvent l ty fs).link m = d.link m :=
  Chip.link_of_links (Chip.raise_links ..) m

theorem Chip.quarantine_link (reason : Nat) :
    (c.quarantine l reason).link l = { (c.link l).clear with state := linkQuar, quar := reason } := by
  rw [Chip.quarantine, Chip.linkEvent_link, Chip.link_updLink_same, Chip.linkStop_link]

theorem Chip.quarantine_said (reason : Nat) : (c.quarantine l reason).said 0x0703 ((c.link l).part.getD 0xFF) [] := by
  refine Chip.linkEvent_said 0x0703 ?_
  rw [Chip.link_updLink_same, Chip.linkStop_link]
  rfl

variable {c l}

theorem Chip.linkRetrainNow_link (h : (c.link l).usable = true) :
    (c.linkRetrainNow l).link l = { (c.link l).clear with state := linkRetrain } := by
  rw [Chip.linkRetrainNow, if_pos h, Chip.linkEvent_link]
  exact c.linkStop_link l linkRetrain

theorem Chip.linkRetrainNow_said (h : (c.link l).usable = true) : (c.linkRetrainNow l).said 0x0707 ((c.link l).part.getD 0xFF) [] := by
  rw [Chip.linkRetrainNow, if_pos h]
  refine Chip.linkEvent_said 0x0707 ?_
  rw [show ((c.linkStop l linkRetrain).bump (Obj.CNT_LINK_RETRAINS + l)).link l = _ from c.linkStop_link l linkRetrain]
  rfl

theorem Chip.linkRetrainNow_count (h : (c.link l).usable = true) (hl : l < 64) :
    (c.linkRetrainNow l).reg (Obj.CNT_LINK_RETRAINS + l) = (c.reg (Obj.CNT_LINK_RETRAINS + l) + 1) % 2 ^ 64 := by
  rw [Chip.linkRetrainNow, if_pos h, Chip.linkEvent,
    Chip.raise_reg_of_lt _ _ _ _ (by simp only [Obj.CNT_LINK_RETRAINS, Obj.CNT_CAIRN_LOST]; omega), Chip.reg_bump, if_pos rfl, Chip.linkStop_reg]

/-- A link that is gone: its index is free, no lane belongs to it, and LINK_DOWN is the newest event. -/
theorem Chip.linkGone_spec (c : Chip) (l : Nat) : (c.linkGone l).links = Tbl.del c.links l ∧
    (∀ p ∈ (c.linkGone l).lanes, p.2.link ≠ some l) ∧ (c.linkGone l).said 0x0702 ((c.link l).part.getD 0xFF) [] := by
  have hlinks : ((c.linkEvent l 0x0702 []).quietLanes l).links = c.links := (Chip.quietLanes_links ..).trans (Chip.raise_links ..)
  refine ⟨congrArg (Tbl.del · l) hlinks, fun p hp => ?_, ?_⟩
  · obtain ⟨e, -, rfl⟩ := List.mem_map.mp hp
    by_cases h : e.2.link = some l <;> simp [h]
  · have hstreams : (c.linkGone l).streams = (c.linkEvent l 0x0702 []).streams := Chip.quietLanes_streams (c.linkEvent l 0x0702 []) l
    exact Chip.said_of_streams hstreams (Chip.linkEvent_said 0x0702 rfl)

end

/-! ### What a lane that leaves its link can change (R238, R241, R254) -/

/-- `d` is `c` after work on lanes and links: lanes, links, the lanes of the next frame, calibration runs, events and messages may
differ, and of the objects the recorder's counters alone. -/
structure Chip.LaneWork (c d : Chip) : Prop where
  shape : ∃ la li en ca st cr rg ou, d =
    { c with lanes := la, links := li, extNext := en, calRuns := ca, streams := st, cairn := cr, regs := rg, out := ou }
  reg : ∀ key < Obj.CNT_CAIRN_LOST, d.reg key = c.reg key

namespace Chip.LaneWork

variable {b c d : Chip}

theorem refl (c : Chip) : LaneWork c c := ⟨⟨_, _, _, _, _, _, _, _, rfl⟩, fun _ _ => rfl⟩

theorem trans (h : LaneWork b c) (h' : LaneWork c d) : LaneWork b d where
  shape := by
    obtain ⟨_, _, _, _, _, _, _, _, rfl⟩ := h.shape
    obtain ⟨_, _, _, _, _, _, _, _, rfl⟩ := h'.shape
    exact ⟨_, _, _, _, _, _, _, _, rfl⟩
  reg key hkey := (h'.reg key hkey).trans (h.reg key hkey)

/-- A change of fields that are lanes' and links' own. -/
theorem of_shape {la : Tbl Lane} {li : Tbl Link} {en : Tbl Nat} {ou : List Out}
    (h : d = { c with lanes := la, links := li, extNext := en, out := ou }) : LaneWork c d := by
  subst h
  exact ⟨⟨_, _, _, _, _, _, _, _, rfl⟩, fun _ _ => rfl⟩

theorem updLane (c : Chip) (i : Nat) (f : Lane → Lane) : LaneWork c (c.updLane i f) := of_shape rfl

theorem updLink (c : Chip) (l : Nat) (f : Link → Link) : LaneWork c (c.updLink l f) := of_shape rfl

theorem extSet (c : Chip) (key v : Nat) : LaneWork c (c.extSet key v) := of_shape rfl

theorem message (c : Chip) (l vc code : Nat) (fs : List (Nat × Nat)) : LaneWork c (c.message l vc code fs) := by
  obtain ⟨_, _, h⟩ := c.message_shape l vc code fs
  exact of_shape h

theorem raise (c : Chip) (ty part : Nat) (fs : List (Nat × Nat)) : LaneWork c (c.raise ty part fs) where
  shape := by
    obtain ⟨_, _, _, _, h, -⟩ := c.raise_shape ty part fs
    exact ⟨_, _, _, _, _, _, _, _, h⟩
  reg _ hkey := c.raise_reg_of_lt ty part fs hkey

theorem calLeave (c : Chip) (i : Nat) : LaneWork c (c.calLeave i) where
  shape := by
    obtain ⟨_, _, h⟩ := c.calLeave_shape i
    exact ⟨_, _, _, _, _, _, _, _, h⟩
  reg key _ := c.calLeave_reg i key

theorem quietLanes (c : Chip) (l : Nat) : LaneWork c (c.quietLanes l) where
  shape := by
    obtain ⟨_, _, _, h⟩ := c.quietLanes_shape l
    exact ⟨_, _, _, _, _, _, _, _, h⟩
  reg key _ := c.quietLanes_reg l key

theorem linkGone (c : Chip) (l : Nat) : LaneWork c (c.linkGone l) :=
  ((raise c _ _ _).trans (quietLanes _ l)).trans (of_shape rfl)

theorem linkLost (c : Chip) (l : Nat) : LaneWork c (c.linkLost l) := by
  unfold Chip.linkLost
  extract_lets x
  split
  · exact refl c
  split
  · exact linkGone c l
  · exact updLink c l _

theorem takeLane (c : Chip) (i st cause : Nat) (tell : Bool) : LaneWork c (c.takeLane i st cause tell) := by
  unfold Chip.takeLane
  split
  · exact updLane c i _
  next l _ =>
    extract_lets c1 c2
    refine ((updLane c i _).trans (?_ : LaneWork c1 c2)).trans (linkLost c2 l)
    unfold c2
    split
    · exact message c1 l _ _ _
    · exact refl c1

theorem failLane (c : Chip) (i : Nat) : LaneWork c (c.failLane i) := by
  unfold Chip.failLane
  extract_lets x c1 c2 c3 c4
  split
  · exact refl c
  have hfailed : LaneWork c c4 := ((updLane c i _).trans (extSet c1 _ _)).trans ((calLeave c2 i).trans (raise c3 _ _ _))
  split
  next l _ => exact hfailed.trans (linkLost c4 l)
  · exact hfailed

/-- The rest of a lane's removal once it is counted. -/
theorem degradeLane (c : Chip) (i cause : Nat) (tell : Bool) (h : (c.lane i).state = laneActive ∨ (c.lane i).state = lanePaused) :
    LaneWork (c.bump (Obj.CNT_LANE_DEGRADES + i)) (c.degradeLane i cause tell) := by
  unfold Chip.degradeLane
  extract_lets x c1 c2
  rw [if_neg (by simpa [x] using fun hactive => h.resolve_left hactive)]
  have htaken : LaneWork (c.bump (Obj.CNT_LANE_DEGRADES + i)) c2 :=
    ((raise _ _ _ _).trans (takeLane c1 i _ _ _)).trans (calLeave _ i)
  split
  · exact htaken.trans (failLane c2 i)
  · exact htaken.trans (updLane c2 i _)

theorem agents (h : LaneWork c d) : d.agents = c.agents := by obtain ⟨_, _, _, _, _, _, _, _, rfl⟩ := h.shape; rfl
theorem swaps (h : LaneWork c d) : d.swaps = c.swaps := by obtain ⟨_, _, _, _, _, _, _, _, rfl⟩ := h.shape; rfl

end Chip.LaneWork

/-! ### The lane that is taken from its link -/

theorem Chip.linkGone_lane {c : Chip} {i l : Nat} (h : (c.lane i).link ≠ some l) : (c.linkGone l).lane i = c.lane i := by
  have hraised : (c.linkEvent l 0x0702 []).lane i = c.lane i := Chip.lane_of_lanes (Chip.raise_lanes ..) i
  have hquiet := (Chip.quietLanes_lane (c := c.linkEvent l 0x0702 []) (l := l) (i := i) (hraised ▸ h)).trans hraised
  exact (Tbl.get_map_if_not (p := fun x : Lane => x.link = some l) (fun x => { x with link := none })
    (by rw [← Chip.lane, hquiet]; exact h)).trans hquiet

theorem Chip.linkLost_lane {c : Chip} {i l : Nat} (h : (c.lane i).link ≠ some l) : (c.linkLost l).lane i = c.lane i := by
  unfold Chip.linkLost
  extract_lets x
  split
  · rfl
  split
  · exact Chip.linkGone_lane h
  · rfl

theorem Chip.message_lanes (c : Chip) (l vc code : Nat) (fs : List (Nat × Nat)) : (c.message l vc code fs).lanes = c.lanes := by
  obtain ⟨_, _, h⟩ := c.message_shape l vc code fs
  rw [h]

theorem Chip.takeLane_lane (c : Chip) (i st cause : Nat) (tell : Bool) :
    ((c.takeLane i st cause tell).lane i).state = st ∧ ((c.takeLane i st cause tell).lane i).link = none ∧
    ((c.takeLane i st cause tell).lane i).retrains = (c.lane i).retrains := by
  unfold Chip.takeLane
  split
  next hlink => simp [hlink]
  next l _ =>
    extract_lets c1 c2
    have hlane : c2.lane i = c1.lane i := by
      unfold c2
      split
      · exact Chip.lane_of_lanes (Chip.message_lanes ..) i
      · rfl
    rw [Chip.linkLost_lane (by rw [hlane]; simp [c1]), hlane]
    simp [c1]

/-- A lane with retrains to spare goes to RETRAIN, out of its link (R254). -/
theorem Chip.degradeLane_lane {c : Chip} {i : Nat} (cause : Nat) (tell : Bool) (hactive : (c.lane i).state = laneActive)
    (hlimit : (c.lane i).retrains < c.reg Obj.LANE_RETRAIN_LIMIT) :
    ((c.degradeLane i cause tell).lane i).state = laneRetrain ∧ ((c.degradeLane i cause tell).lane i).link = none ∧
    ((c.degradeLane i cause tell).lane i).retrains = (c.lane i).retrains + 1 := by
  unfold Chip.degradeLane
  extract_lets x c1 c2
  have hlane : c1.lane i = c.lane i := Chip.lane_of_lanes (Chip.raise_lanes ..) i
  have hreg : c2.reg Obj.LANE_RETRAIN_LIMIT = c.reg Obj.LANE_RETRAIN_LIMIT := by
    have htaken : Chip.LaneWork (c.bump (Obj.CNT_LANE_DEGRADES + i)) c2 :=
      ((Chip.LaneWork.raise ..).trans (.takeLane c1 ..)).trans (.calLeave _ i)
    rw [htaken.reg _ (by decide), Chip.reg_bump, if_neg (by simp only [Obj.LANE_RETRAIN_LIMIT, Obj.CNT_LANE_DEGRADES]; omega)]
  obtain ⟨hstate, hlink, hretrains⟩ := c1.takeLane_lane i laneRetrain cause tell
  rw [if_neg (by simp [x, hactive]), if_neg (by rw [hreg]; exact Nat.not_le.mpr hlimit)]
  rw [Chip.lane_updLane_same, Chip.calLeave_lane]
  exact ⟨hstate, hlink, by rw [hretrains, hlane]⟩

end Sys2Proof.Machine
end

section
/-! PROOF. Events of a lane (R238, R249, R250, R254, R275): light that comes and goes, training, degradation, and hellos. -/
namespace Sys2Proof.Machine

/-! ### The plan of a lane stands (R261, R265) -/

section
variable {c d : Chip} (hblobs : d.blobs = c.blobs) (hengines : d.engines = c.engines)
include hblobs hengines

theorem Chip.planByte_congr (i : Nat) : d.planByte i = c.planByte i := by
  simp only [Chip.planByte, Chip.blob, Chip.engine, hblobs, hengines]

theorem Chip.physFibre_congr (i : Nat) : d.physFibre i = c.physFibre i := by
  simp only [Chip.physFibre, Chip.planByte_congr hblobs hengines]

theorem Chip.fibreLanes_congr (f : Nat) : d.fibreLanes f = c.fibreLanes f := by
  simp only [Chip.fibreLanes, Chip.physFibre_congr hblobs hengines, Chip.planByte_congr hblobs hengines]

omit hblobs in
theorem Chip.laneCore_congr (hstate : ∀ k < 8, d.reg (Obj.ENGINE_STATE + k) = c.reg (Obj.ENGINE_STATE + k)) {k : Nat} (hk : k < 8) :
    d.laneCore k = c.laneCore k := by
  unfold Chip.laneCore Chip.engine
  rw [hengines, hstate k hk]

end

theorem Chip.dropRing_congr {c d : Chip} (hblobs : d.blobs = c.blobs) (hengines : d.engines = c.engines)
    (hstate : ∀ k < 8, d.reg (Obj.ENGINE_STATE + k) = c.reg (Obj.ENGINE_STATE + k)) {i : Nat} (hi : i / 32 < 8) :
    d.dropRing i = c.dropRing i := by
  simp only [Chip.dropRing, Chip.planByte_congr hblobs hengines, Chip.laneCore_congr hengines hstate hi]

theorem Chip.fibreLanes_engine {c : Chip} {f i : Nat} (h : i ∈ c.fibreLanes f) : i / 32 = f / 4 := by
  obtain ⟨b, hb, rfl⟩ := List.mem_map.mp (List.mem_filter.mp h).1
  have := List.mem_range.mp hb
  omega

/-! ### Light comes (R238) -/

theorem Chip.tryTrain_trains {c : Chip} {i : Nat} (hdark : (c.lane i).state = laneDark) (hlight : (c.lane i).light = true)
    (hplan : planMode (c.planByte i) = 1) (hadd : c.tracks (c.addRing i) = true) (hdrop : c.tracks (c.dropRing i) = true)
    (hopen : c.colOpen (c.physFibre i) = true) :
    c.tryTrain i = c.updLane i fun x => { x with state := laneTraining, seen := false, peerSeen := false } :=
  if_pos (by simp [hdark, hlight, hplan, hadd, hdrop, hopen])

/-- A drop ring in TRACK stays as it is when light comes. -/
theorem Chip.lightOn_of_tracks {c : Chip} {i : Nat} (hdrop : c.tracks (c.dropRing i) = true) : c.lightOn i =
    (({ c with darkFibres := c.darkFibres.filter (· != c.physFibre i) } : Chip).updLane i fun x => { x with light := true }).tryTrain i := by
  have htrack : (c.loop (c.dropRing i).1 (c.dropRing i).2).mode = modeTrack := of_decide_eq_true hdrop
  refine congrArg (Chip.tryTrain · i) (if_neg ?_)
  rw [Bool.and_eq_true, Bool.and_eq_true, decide_eq_true_eq]
  rintro ⟨⟨hhold, -⟩, -⟩
  exact absurd (htrack.symm.trans hhold) (by decide)

theorem lightPresent_trains {lane : Fin 256} {s : State} (hadd : s.chip.tracks (s.chip.addRing lane.val) = true)
    (hdrop : s.chip.tracks (s.chip.dropRing lane.val) = true) (hplan : planMode (s.chip.planByte lane.val) = 1)
    (hopen : s.chip.colOpen (s.chip.physFibre lane.val) = true) (hdark : (s.chip.lane lane.val).state = laneDark) :
    Ends (.lightPresent lane) s (fun t => (t.chip.lane lane.val).state = laneTraining ∧ (t.chip.lane lane.val).light = true ∧
      t.chip.loops = s.chip.loops ∧ t.mem = s.mem) := by
  have htrains := (Chip.lightOn_of_tracks hdrop).trans (Chip.tryTrain_trains (by rw [Chip.lane_updLane_same]; exact hdark)
    (by rw [Chip.lane_updLane_same]) hplan hadd hdrop hopen)
  refine ends_on rfl htrains fun t hchip hmem => ?_
  rw [hchip, Chip.lane_updLane_same, Chip.lane_updLane_same]
  exact ⟨rfl, rfl, rfl, hmem⟩

/-! ### Light goes (R275) -/

/-- The first loss of light on a fibre: noted, counted and reported. -/
def Chip.lossNoted (c : Chip) (f : Nat) : Chip :=
  (({ c with darkFibres := c.darkFibres ++ [f] } : Chip).bump (Obj.CNT_LIGHT_LOSS + f)).raiseMod 0x080B []

section
variable (c : Chip) (f : Nat)

theorem Chip.lossNoted_shape : ∃ st cr rg ou, c.lossNoted f =
    { c with darkFibres := c.darkFibres ++ [f], streams := st, cairn := cr, regs := rg, out := ou } := by
  obtain ⟨_, _, _, _, h, -⟩ := (({ c with darkFibres := c.darkFibres ++ [f] } : Chip).bump (Obj.CNT_LIGHT_LOSS + f)).raise_shape 0x080B 0xFF []
  exact ⟨_, _, _, _, h⟩

theorem Chip.lossNoted_reg {key : Nat} (hkey : key < Obj.CNT_CAIRN_LOST) : (c.lossNoted f).reg key =
    if key = Obj.CNT_LIGHT_LOSS + f then (c.reg (Obj.CNT_LIGHT_LOSS + f) + 1) % 2 ^ 64 else c.reg key := by
  rw [Chip.lossNoted, Chip.raiseMod, Chip.raise_reg_of_lt _ _ _ _ hkey, Chip.reg_bump]
  rfl

theorem Chip.lossNoted_dropRing {i : Nat} (hi : i / 32 < 8) : (c.lossNoted f).dropRing i = c.dropRing i := by
  refine Chip.dropRing_congr ?_ ?_ (fun k hk => ?_) hi
  · exact Chip.raise_blobs ..
  · exact Chip.raise_engines ..
  · rw [c.lossNoted_reg f (by simp only [Obj.ENGINE_STATE, Obj.CNT_CAIRN_LOST]; omega),
      if_neg (by simp only [Obj.ENGINE_STATE, Obj.CNT_LIGHT_LOSS]; omega)]

variable {c f}

theorem Chip.lightLost_first (hlit : f ∉ c.darkFibres) (hnotice : c.noticed f = false) :
    c.lightLost f = (c.fibreLanes f).foldl Chip.lightOff (c.lossNoted f) := by
  have hfirst : (!c.darkFibres.contains f) = true := by simp [hlit]
  have hlost : c.lightLost f = ((c.lossNoted f).fibreLanes f).foldl Chip.lightOff (c.lossNoted f) := by
    simp only [Chip.lightLost, Chip.lossNoted, hfirst, Chip.noticed] at hnotice ⊢
    simp [hnotice]
  have hlanes : (c.lossNoted f).fibreLanes f = c.fibreLanes f := Chip.fibreLanes_congr (Chip.raise_blobs ..) (Chip.raise_engines ..) f
  rw [hlost, hlanes]

/-- A READY lane of no link whose drop ring holds already. -/
theorem Chip.lightOff_ready {i : Nat} (hready : (c.lane i).state = laneReady) (hlink : (c.lane i).link = none)
    (hhold : (c.loop (c.dropRing i).1 (c.dropRing i).2).mode = modeHold) : c.lightOff i =
    (c.updLane i fun x => { x with light := false }).updLane i fun x =>
      { x with state := laneDark, joinAt := none, waiting := false, seen := false } := by
  have hdark : ∀ d : Chip, d = c.updLane i (fun x => { x with light := false }) → c.lightOff i = d.takeLane i laneDark causeRing false := by
    rintro _ rfl
    have hloop : ((c.updLane i fun x => { x with light := false }).loop ((c.updLane i fun x => { x with light := false }).dropRing i).1
      ((c.updLane i fun x => { x with light := false }).dropRing i).2).mode = modeHold := hhold
    simp [Chip.lightOff, hloop, hready, modeTrack, modeSearch, modeHold, laneReady, laneActive, laneTraining]
  rw [hdark _ rfl, Chip.takeLane, Chip.lane_updLane_same, hlink]

end

theorem lightLost_unused {fibre : Fin 32} {s : State} (hlit : fibre.val ∉ s.chip.darkFibres) (hnotice : s.chip.noticed fibre.val = false)
    (hlanes : s.chip.fibreLanes fibre.val = []) : Ends (.lightLost fibre) s (fun t => fibre.val ∈ t.chip.darkFibres ∧
      t.chip.said 0x080B 0xFF [] ∧
      t.chip.reg (Obj.CNT_LIGHT_LOSS + fibre.val) = (s.chip.reg (Obj.CNT_LIGHT_LOSS + fibre.val) + 1) % 2 ^ 64 ∧
      t.chip.lanes = s.chip.lanes ∧ t.mem = s.mem) := by
  refine ends_on (c := s.chip.lossNoted fibre.val) rfl ?_ fun t hchip hmem => ?_
  · rw [Chip.lightLost_first hlit hnotice, hlanes, List.foldl_nil]
  rw [hchip]
  refine ⟨?_, Chip.raiseMod_said .., ?_, Chip.raise_lanes .., hmem⟩
  · obtain ⟨_, _, _, _, h⟩ := s.chip.lossNoted_shape fibre.val
    simp [h]
  · rw [s.chip.lossNoted_reg fibre.val (by simp only [Obj.CNT_LIGHT_LOSS, Obj.CNT_CAIRN_LOST]; omega), if_pos rfl]

theorem lightLost_ready {fibre : Fin 32} {i : Nat} {s : State} (hlit : fibre.val ∉ s.chip.darkFibres)
    (hnotice : s.chip.noticed fibre.val = false) (hlanes : s.chip.fibreLanes fibre.val = [i]) (hready : (s.chip.lane i).state = laneReady)
    (hlink : (s.chip.lane i).link = none) (hhold : (s.chip.loop (s.chip.dropRing i).1 (s.chip.dropRing i).2).mode = modeHold) :
    Ends (.lightLost fibre) s (fun t => (t.chip.lane i).state = laneDark ∧ (t.chip.lane i).light = false ∧
      t.chip.reg (Obj.CNT_LIGHT_LOSS + fibre.val) = (s.chip.reg (Obj.CNT_LIGHT_LOSS + fibre.val) + 1) % 2 ^ 64 ∧ t.mem = s.mem) := by
  have hi : i / 32 < 8 := by
    have := Chip.fibreLanes_engine (hlanes ▸ List.mem_singleton_self i : i ∈ s.chip.fibreLanes fibre.val)
    omega
  have hlane : (s.chip.lossNoted fibre.val).lane i = s.chip.lane i := Chip.lane_of_lanes (Chip.raise_lanes ..) i
  have hring : ((s.chip.lossNoted fibre.val).loop ((s.chip.lossNoted fibre.val).dropRing i).1
      ((s.chip.lossNoted fibre.val).dropRing i).2).mode = modeHold := by
    have hloops : (s.chip.lossNoted fibre.val).loops = s.chip.loops := Chip.raise_loops ..
    rw [s.chip.lossNoted_dropRing fibre.val hi, Chip.loop, hloops]
    exact hhold
  refine ends_on rfl (Chip.lightLost_first hlit hnotice) fun t hchip hmem => ?_
  rw [hchip, hlanes, List.foldl_cons, List.foldl_nil, Chip.lightOff_ready (hlane ▸ hready) (hlane ▸ hlink) hring,
    Chip.lane_updLane_same, Chip.lane_updLane_same]
  refine ⟨rfl, rfl, ?_, hmem⟩
  rw [Chip.reg_of_same_regs (c := s.chip.lossNoted fibre.val) (by rw [Chip.updLane_regs, Chip.updLane_regs]),
    Chip.lossNoted_reg _ _ (by simp only [Obj.CNT_LIGHT_LOSS, Obj.CNT_CAIRN_LOST]; omega), if_pos rfl]

/-! ### Training (R238, R249, Table 9.2) -/

theorem bitAt_putBit_clear (x i : Nat) : bitAt (putBit x i false) i = false := by
  unfold bitAt putBit
  split
  next hset =>
    have hsplit := Nat.testBit_two_pow_add_eq (x - 2 ^ i) i
    rw [Nat.add_sub_cancel' (Nat.ge_two_pow_of_testBit hset), hset] at hsplit
    simpa using hsplit.symm
  next hclear => simpa using hclear

/-- A lane of no link that fails: FAILED, out of LANE_MASK at the next boundary, with its event (R20, R238). -/
theorem Chip.failLane_alone {c : Chip} {i : Nat} (hstate : (c.lane i).state ≠ laneFailed) (hlink : (c.lane i).link = none) :
    ((c.failLane i).lane i).state = laneFailed ∧ bitAt ((c.failLane i).extSoon (Obj.LANE_MASK + i / 64)) (i % 64) = false ∧
    (c.failLane i).said 0x0706 ((c.lanePart i).getD 0xFF) [] := by
  unfold Chip.failLane
  extract_lets x c1 c2 c3 c4
  rw [if_neg hstate]
  simp only [x, hlink]
  refine ⟨?_, ?_, ?_⟩
  · have hlane : c4.lane i = c1.lane i :=
      (Chip.lane_of_lanes (Chip.raise_lanes ..) i).trans ((c2.calLeave_lane i i).trans (Chip.lane_of_lanes (Chip.extSet_lanes ..) i))
    rw [hlane, Chip.lane_updLane_same]
  · have hext : c4.extNext = c2.extNext := (Chip.raise_extNext ..).trans (c2.calLeave_extNext i)
    rw [Chip.extSoon, hext]
    unfold c2 Chip.extSet
    rw [Tbl.get_put_same]
    exact bitAt_putBit_clear _ _
  · have hpart : c3.lanePart i = c.lanePart i := (Chip.lanePart_of_parts (c2.calLeave_parts i) i).trans rfl
    rw [← hpart]
    exact Chip.raise_said ..

section
variable {lane : Fin 256} {s : State} (htrains : (s.chip.lane lane.val).state = laneTraining ∨ (s.chip.lane lane.val).state = laneRetrain)
include htrains

theorem Chip.trainingDone_trains (pass : Bool) : s.chip.trainingDone lane.val pass =
    if pass then s.chip.updLane lane.val fun x => { x with state := laneReady, seen := false, peerSeen := false }
    else s.chip.checkFailed lane.val :=
  if_neg (by rcases htrains with h | h <;> simp [h])

theorem laneTrainingDone_ready : Ends (.laneTrainingDone lane true) s (fun t => (t.chip.lane lane.val).state = laneReady ∧
    t.chip.links = s.chip.links ∧ t.chip.regs = s.chip.regs ∧ t.mem = s.mem) := by
  refine ends_on rfl (Chip.trainingDone_trains htrains true) fun t hchip hmem => ?_
  rw [hchip, if_pos rfl, Chip.lane_updLane_same]
  exact ⟨rfl, rfl, rfl, hmem⟩

theorem laneTrainingDone_again (hfails : (s.chip.lane lane.val).fails < 2) : Ends (.laneTrainingDone lane false) s (fun t =>
    (t.chip.lane lane.val).state = (s.chip.lane lane.val).state ∧ (t.chip.lane lane.val).fails = (s.chip.lane lane.val).fails + 1 ∧
    t.chip.regs = s.chip.regs ∧ t.mem = s.mem) := by
  refine ends_on rfl (Chip.trainingDone_trains htrains false) fun t hchip hmem => ?_
  rw [hchip, if_neg Bool.false_ne_true, Chip.checkFailed, if_neg (by rw [Chip.lane_updLane_same]; dsimp only; omega),
    Chip.lane_updLane_same]
  exact ⟨rfl, rfl, rfl, hmem⟩

theorem laneTrainingDone_fails (hfails : 2 ≤ (s.chip.lane lane.val).fails) (hlink : (s.chip.lane lane.val).link = none) :
    Ends (.laneTrainingDone lane false) s (fun t => (t.chip.lane lane.val).state = laneFailed ∧
      bitAt (t.chip.extSoon (Obj.LANE_MASK + lane.val / 64)) (lane.val % 64) = false ∧
      t.chip.said 0x0706 ((s.chip.lanePart lane.val).getD 0xFF) [] ∧ t.mem = s.mem) := by
  have hcounted : (s.chip.updLane lane.val fun x => { x with fails := x.fails + 1 }).lane lane.val =
      { s.chip.lane lane.val with fails := (s.chip.lane lane.val).fails + 1 } := Chip.lane_updLane_same ..
  obtain ⟨hstate, hmask, hsaid⟩ := Chip.failLane_alone (c := s.chip.updLane lane.val fun x => { x with fails := x.fails + 1 })
    (i := lane.val) (by rw [hcounted]; rcases htrains with h | h <;> simp [h, laneFailed, laneTraining, laneRetrain]) (by rw [hcounted]; exact hlink)
  refine ends_on rfl (Chip.trainingDone_trains htrains false) fun t hchip hmem => ?_
  rw [hchip, if_neg Bool.false_ne_true, Chip.checkFailed, if_pos (by rw [hcounted]; dsimp only; omega)]
  exact ⟨hstate, hmask, hsaid, hmem⟩

end

/-! ### Degradation (R254) -/

theorem laneDegrade_active {lane : Fin 256} {s : State} (hactive : (s.chip.lane lane.val).state = laneActive)
    (hwindow : (s.chip.lane lane.val).peerSwapAt ≠ some s.chip.frame)
    (hlimit : (s.chip.lane lane.val).retrains < s.chip.reg Obj.LANE_RETRAIN_LIMIT) :
    Ends (.laneDegrade lane 0) s (fun t => (t.chip.lane lane.val).state = laneRetrain ∧ (t.chip.lane lane.val).link = none ∧
      (t.chip.lane lane.val).retrains = (s.chip.lane lane.val).retrains + 1 ∧
      t.chip.reg (Obj.CNT_LANE_DEGRADES + lane.val) = (s.chip.reg (Obj.CNT_LANE_DEGRADES + lane.val) + 1) % 2 ^ 64 ∧ t.mem = s.mem) := by
  have hfails : s.chip.laneFails lane.val 1 = s.chip.degradeLane lane.val 1 true := by
    simp [Chip.laneFails, hactive, Chip.peerWindow, hwindow, laneActive, laneReady]
  obtain ⟨hstate, hlink, hretrains⟩ := Chip.degradeLane_lane 1 true hactive hlimit
  have hcount := (Chip.LaneWork.degradeLane s.chip lane.val 1 true (.inl hactive)).reg (Obj.CNT_LANE_DEGRADES + lane.val)
    (by simp only [Obj.CNT_LANE_DEGRADES, Obj.CNT_CAIRN_LOST]; omega)
  rw [Chip.reg_bump, if_pos rfl] at hcount
  refine ends_on (f := fun c => c.laneFails lane.val 1) rfl hfails fun t hchip hmem => ?_
  rw [hchip]
  exact ⟨hstate, hlink, hretrains, hcount, hmem⟩

section
variable {lane : Fin 256} {s : State} (hready : (s.chip.lane lane.val).state = laneReady) (hlink : (s.chip.lane lane.val).link = none)
include hready hlink

theorem laneDegrade_ready : Ends (.laneDegrade lane 0) s (fun t => (t.chip.lane lane.val).state = laneTraining ∧
    t.chip.regs = s.chip.regs ∧ t.mem = s.mem) := by
  have hfails : s.chip.laneFails lane.val 1 = s.chip.takeLane lane.val laneTraining causeLock false := by
    simp [Chip.laneFails, hready, causeLock]
  refine ends_on (f := fun c => c.laneFails lane.val 1) rfl hfails fun t hchip hmem => ?_
  rw [hchip]
  refine ⟨(s.chip.takeLane_lane lane.val laneTraining causeLock false).1, ?_, hmem⟩
  simp [Chip.takeLane, hlink]

/-! ### Hellos (R250, Table 9.7) -/

theorem helloSend_ready : Ends (.helloSend lane) s (fun t =>
    t = s.on (fun c => c.send (.flit lane.val (flitBytes 0 2 3 {} (s.chip.helloPayload lane.val))))) := by
  refine ⟨_, rfl, ?_⟩
  simp [State.on, Chip.helloSend, hready, hlink]

end

theorem helloSend_other {lane : Fin 256} {s : State} (hother : (s.chip.lane lane.val).state ≠ laneReady) :
    Ends (.helloSend lane) s (fun t => t = s) := by
  refine ⟨_, rfl, ?_⟩
  simp [State.on, Chip.helloSend, hother]

/-- Settles O19: light, training, degradation and hellos, each by what its event makes of the lane. -/
theorem laneEvents : Obligations.LaneEvents := by
  unfold Obligations.LaneEvents
  refine ⟨fun lane s => ?light, fun fibre s hlit hnotice => ?loss, fun lane s htrains => ?training, fun lane s => ?degrade⟩
  case light => exact lightPresent_trains
  case loss =>
    exact ⟨lightLost_unused hlit hnotice, fun i => lightLost_ready hlit hnotice⟩
  case training =>
    exact ⟨laneTrainingDone_ready htrains, laneTrainingDone_again htrains, laneTrainingDone_fails htrains⟩
  case degrade =>
    exact ⟨laneDegrade_active, fun hready hlink => ⟨laneDegrade_ready hready hlink, helloSend_ready hready hlink⟩, helloSend_other⟩

end Sys2Proof.Machine
end

section
/-! PROOF. A hello on a READY lane of a link in DISCOVER (R251–R253): the judgement of its tag, and the handshake that brings the link
to UP. -/
namespace Sys2Proof.Machine

/-- What a lane keeps of its peer's hello (R249). -/
def Lane.heard (x : Lane) (h : Hello) : Lane :=
  { x with seen := true, peer := h.serial.toNat, peerLane := h.lane.toNat, peerFibre := h.logFibre.toNat, peerPhys := h.physFibre.toNat,
           verMin := h.verMin.toNat, verMax := h.verMax.toNat, features := h.features.toNat, peerSeen := bitAt h.flags.toNat 0 }

section
variable {c : Chip} {i l k : Nat} {h : Hello}

/-- A hello on a READY lane that has its link is judged, whether or not it is the lane's first. -/
theorem Chip.helloIn_judged (hready : (c.lane i).state = laneReady) (hok : helloOk h = true) (hwave : h.lane.toNat % 16 = laneWave i)
    (hlink : (c.lane i).link = some l) (hpart : c.lanePart i = some k) (htag : c.reg (atIdx Obj.LINK_PART_TAG k) ≠ 0) :
    c.helloIn i h = (c.updLane i fun x => x.heard h).judge i l k h (!(c.lane i).seen || (c.lane i).peer != h.serial.toNat) := by
  have hpart' : (c.updLane i fun x => x.heard h).lanePart i = some k := hpart
  have htag' : (c.updLane i fun x => x.heard h).reg (atIdx Obj.LINK_PART_TAG k) ≠ 0 := htag
  have hlane : ((c.updLane i fun x => x.heard h).lane i).link = some l := by
    rw [Chip.lane_updLane_same]
    exact hlink
  have hplaced : (c.updLane i fun x => x.heard h).placeLane i k = c.updLane i fun x => x.heard h := if_pos (by rw [hlane]; rfl)
  unfold Chip.helloIn
  extract_lets x r c1 first c2
  rw [if_neg (by simp [x, hready, hok]), if_neg (by simp [hwave])]
  have hc2 : c2 = c.updLane i fun x => x.heard h := rfl
  rw [hc2, hpart']
  simp only [htag', if_false, hplaced, hlane]
  rfl

variable (hdiscover : (c.link l).state = linkDiscover)
include hdiscover

/-- Another tag than the partition's: the link is quarantined (R253). -/
theorem Chip.judge_tag (first : Bool) (htag : h.tag.toNat ≠ c.reg (atIdx Obj.LINK_PART_TAG k)) :
    c.judge i l k h first = c.quarantine l 3 := by
  unfold Chip.judge
  extract_lets c1
  have hc1 : c1 = c := if_neg (by rw [hdiscover]; decide)
  rw [hc1, if_pos (by simpa using htag), Chip.helloFails, if_pos hdiscover]

/-- The tag and the map as expected, with PEER_SEEN: the two ends shake hands (R251). -/
theorem Chip.judge_shakes (first : Bool) (htag : h.tag.toNat = c.reg (atIdx Obj.LINK_PART_TAG k)) (hmap : c.mapCheck (c.logFibre i) h = 0)
    (hseen : bitAt h.flags.toNat 0 = true) : c.judge i l k h first = c.shake i l h := by
  unfold Chip.judge
  extract_lets c1 engine seen c2
  have hc1 : c1 = c := if_neg (by rw [hdiscover]; decide)
  have hseen' : seen = true := hseen
  rw [hc1, if_neg (by simp [htag]), if_neg (by rw [hdiscover]; decide)]
  simp only [hmap, hseen', if_true]

/-- A handshake over a version that both ends speak brings the link to UP (R251, Table 9.8). -/
theorem Chip.shake_up (hversions : max (c.reg Obj.LINK_VER_MIN) h.verMin.toNat ≤ min (c.reg Obj.LINK_VER_MAX) h.verMax.toNat) :
    ∃ d, c.shake i l h = d ∧ (d.link l).state = linkUp ∧ (d.link l).version = min (c.reg Obj.LINK_VER_MAX) h.verMax.toNat ∧
      (d.link l).held = [] ∧ (d.lane i).state = laneActive ∧ d.said 0x0701 ((c.link l).part.getD 0xFF) [] := by
  refine ⟨_, rfl, ?_⟩
  unfold Chip.shake
  extract_lets st v want have_ c1 c2 c3
  rw [if_pos hdiscover, if_neg (Nat.not_lt.mpr hversions)]
  have hlink1 : c1.link l = c.link l := by
    unfold c1
    split
    · rfl
    · exact Chip.linkEvent_link ..
  have hlink3 : c3.link l = { (c.link l).clear with state := linkUp, version := v, features := maskOf have_, full := 1 } := by
    rw [show c3.link l = c2.link l from rfl, Chip.link_updLink_same, hlink1]
  have hlane : ((c3.linkEvent l 0x0701 []).lane i).state = laneActive := by
    have hraised : (c3.linkEvent l 0x0701 []).lane i = c3.lane i := Chip.lane_of_lanes (Chip.raise_lanes ..) i
    rw [hraised, Chip.lane_updLane_same]
  have hsaid : (c3.linkEvent l 0x0701 []).said 0x0701 ((c.link l).part.getD 0xFF) [] :=
    Chip.linkEvent_said 0x0701 (by rw [hlink3]; rfl)
  rw [Chip.linkEvent_link, hlink3]
  exact ⟨rfl, rfl, rfl, hlane, hsaid⟩

end

section
variable {lane : Fin 256} {h : Hello} {l k : Nat} {s : State} (hready : (s.chip.lane lane.val).state = laneReady) (hok : helloOk h = true)
  (hwave : h.lane.toNat % 16 = laneWave lane.val) (hlink : (s.chip.lane lane.val).link = some l) (hpart : s.chip.lanePart lane.val = some k)
  (hdiscover : (s.chip.link l).state = linkDiscover) (htag : s.chip.reg (atIdx Obj.LINK_PART_TAG k) ≠ 0)
include hready hok hwave hlink hpart hdiscover htag

theorem helloReceived_up (hsame : h.tag.toNat = s.chip.reg (atIdx Obj.LINK_PART_TAG k))
    (hmap : s.chip.mapCheck (s.chip.logFibre lane.val) h = 0) (hseen : bitAt h.flags.toNat 0 = true)
    (hversions : max (s.chip.reg Obj.LINK_VER_MIN) h.verMin.toNat ≤ min (s.chip.reg Obj.LINK_VER_MAX) h.verMax.toNat) :
    Ends (.helloReceived lane h) s (fun t => (t.chip.link l).state = linkUp ∧
      (t.chip.link l).version = min (s.chip.reg Obj.LINK_VER_MAX) h.verMax.toNat ∧ (t.chip.link l).held = [] ∧
      (t.chip.lane lane.val).state = laneActive ∧ t.chip.said 0x0701 ((s.chip.link l).part.getD 0xFF) [] ∧ t.mem = s.mem) := by
  have hjudged := Chip.helloIn_judged hready hok hwave hlink hpart htag
  rw [Chip.judge_shakes (c := s.chip.updLane lane.val fun x => x.heard h) hdiscover _ hsame hmap hseen] at hjudged
  obtain ⟨d, hshake, hstate, hversion, hheld, hactive, hsaid⟩ :=
    Chip.shake_up (c := s.chip.updLane lane.val fun x => x.heard h) (i := lane.val) hdiscover hversions
  refine ends_on rfl (hjudged.trans hshake) fun t hchip hmem => ?_
  rw [hchip]
  exact ⟨hstate, hversion, hheld, hactive, hsaid, hmem⟩

theorem helloReceived_quarantined (hother : h.tag.toNat ≠ s.chip.reg (atIdx Obj.LINK_PART_TAG k)) :
    Ends (.helloReceived lane h) s (fun t => (t.chip.link l).state = linkQuar ∧ (t.chip.link l).quar = 3 ∧
      t.chip.said 0x0703 ((s.chip.link l).part.getD 0xFF) [] ∧ t.mem = s.mem) := by
  have hjudged := Chip.helloIn_judged hready hok hwave hlink hpart htag
  rw [Chip.judge_tag (c := s.chip.updLane lane.val fun x => x.heard h) hdiscover _ hother] at hjudged
  refine ends_on rfl hjudged fun t hchip hmem => ?_
  rw [hchip, Chip.quarantine_link]
  exact ⟨rfl, rfl, (s.chip.updLane lane.val fun x => x.heard h).quarantine_said l 3, hmem⟩

end

/-- Settles O20: the hello is judged; its tag decides between QUARANTINE and the handshake. -/
theorem helloReceived : Obligations.HelloReceived := by
  unfold Obligations.HelloReceived
  intro lane h l k s i c tag hready hok hwave hlink hpart hdiscover htag
  exact ⟨helloReceived_up hready hok hwave hlink hpart hdiscover htag,
    helloReceived_quarantined hready hok hwave hlink hpart hdiscover htag⟩

end Sys2Proof.Machine
end

section
/-! PROOF. A flit that arrives on a lane (R237, R242, R243, R245): what is counted of it, and the data flit that its link expects next. -/
namespace Sys2Proof.Machine

/-! ### Codewords (R237, R255) -/

/-- The module after the codewords of a flit are counted, but for those of a swap window. -/
def Chip.fecCounted (c : Chip) (i corrected uncorr : Nat) : Chip :=
  if c.peerWindow i then c
  else ((c.count modInst (Obj.CNT_FEC_CORRECTED + i) corrected).count modInst (Obj.CNT_FEC_UNCORR + i) uncorr).updLane i
    (fun x => { x with uncorr := x.uncorr + uncorr })

/-- The two counters of a lane after a flit. -/
def Chip.FecCounts (c d : Chip) (i corrected uncorr : Nat) : Prop :=
  (c.peerWindow i = true → d.reg (Obj.CNT_FEC_CORRECTED + i) = c.reg (Obj.CNT_FEC_CORRECTED + i) ∧
    d.reg (Obj.CNT_FEC_UNCORR + i) = c.reg (Obj.CNT_FEC_UNCORR + i)) ∧
  (c.peerWindow i = false → d.reg (Obj.CNT_FEC_CORRECTED + i) = (c.reg (Obj.CNT_FEC_CORRECTED + i) + corrected) % 2 ^ 64 ∧
    d.reg (Obj.CNT_FEC_UNCORR + i) = (c.reg (Obj.CNT_FEC_UNCORR + i) + uncorr) % 2 ^ 64)

section
variable (c : Chip) (i corrected uncorr : Nat)

@[simp] theorem Chip.fecCounted_links : (c.fecCounted i corrected uncorr).links = c.links := by
  unfold Chip.fecCounted
  split <;> rfl

@[simp] theorem Chip.fecCounted_out : (c.fecCounted i corrected uncorr).out = c.out := by
  unfold Chip.fecCounted
  split <;> rfl

theorem Chip.fecCounted_lane : ((c.fecCounted i corrected uncorr).lane i).link = (c.lane i).link ∧
    ((c.fecCounted i corrected uncorr).lane i).state = (c.lane i).state := by
  unfold Chip.fecCounted
  split
  · exact ⟨rfl, rfl⟩
  · rw [Chip.lane_updLane_same]
    exact ⟨rfl, rfl⟩

theorem Chip.fecCounted_counts : c.FecCounts (c.fecCounted i corrected uncorr) i corrected uncorr := by
  have hkeys : Obj.CNT_FEC_CORRECTED + i ≠ Obj.CNT_FEC_UNCORR + i := by simp only [Obj.CNT_FEC_CORRECTED, Obj.CNT_FEC_UNCORR]; omega
  unfold Chip.fecCounted
  refine ⟨fun hwindow => ?_, fun hwindow => ?_⟩
  · rw [if_pos hwindow]
    exact ⟨rfl, rfl⟩
  · rw [if_neg (by simp [hwindow])]
    set counted := c.count modInst (Obj.CNT_FEC_CORRECTED + i) corrected with hcounted
    have hreg : ∀ key, ((counted.count modInst (Obj.CNT_FEC_UNCORR + i) uncorr).updLane i
        (fun x => { x with uncorr := x.uncorr + uncorr })).reg key =
        if key = Obj.CNT_FEC_UNCORR + i then (counted.reg (Obj.CNT_FEC_UNCORR + i) + uncorr) % 2 ^ 64 else counted.reg key :=
      fun key => Chip.reg_count counted _ key uncorr
    refine ⟨?_, ?_⟩
    · rw [hreg, if_neg hkeys, hcounted, Chip.reg_count, if_pos rfl]
    · rw [hreg, if_pos rfl, hcounted, Chip.reg_count, if_neg hkeys.symm]

variable {c i corrected uncorr} in
/-- Counts stand while neither counter of the lane moves. -/
theorem Chip.FecCounts.congr {d e : Chip} (h : c.FecCounts d i corrected uncorr)
    (hcorrected : e.reg (Obj.CNT_FEC_CORRECTED + i) = d.reg (Obj.CNT_FEC_CORRECTED + i))
    (huncorr : e.reg (Obj.CNT_FEC_UNCORR + i) = d.reg (Obj.CNT_FEC_UNCORR + i)) : c.FecCounts e i corrected uncorr := by
  rwa [Chip.FecCounts, hcorrected, huncorr]

end

/-! ### A flit that fails its checks (R242) -/

theorem State.flitIn_failed {s : State} {i : Nat} {flit : List Byte} {corrected uncorr : Nat} {bad atLimit : Bool}
    (hlink : (s.chip.lane i).link = none) (hbad : bad = true ∨ crc64 (flit.take 248) ≠ leAt flit 248 8) :
    s.flitIn i flit corrected uncorr bad atLimit =
      s.on fun c => (c.fecCounted i corrected uncorr).bump (Obj.CNT_FLIT_CRC + i) := by
  have hfails : (bad || crc64 (flit.take 248) != leAt flit 248 8 || !headerOk (leAt flit 0 8)) = true := by
    rcases hbad with h | h <;> simp [h]
  have hcounted : ((s.chip.fecCounted i corrected uncorr).lane i).link = none := (s.chip.fecCounted_lane i corrected uncorr).1.trans hlink
  unfold State.flitIn
  extract_lets s1 h lane use
  rw [if_pos hfails]
  have huse : use = none := by
    have hlane : lane.link = none := hcounted
    simp [use, hlane]
  rw [huse]
  rfl

theorem flitReceived_failed {lane : Fin 256} {flit : List Byte} (corrected uncorr : Byte) {s : State} (hlink : (s.chip.lane lane.val).link = none)
    {bad : Bool} (atLimit : Bool) (hbad : bad = true ∨ crc64 (flit.take 248) ≠ leAt flit 248 8) :
    Ends (.flitReceived lane flit corrected uncorr bad atLimit) s (fun t =>
      s.chip.FecCounts t.chip lane.val corrected.toNat uncorr.toNat ∧ t.mem = s.mem ∧
      t.chip.reg (Obj.CNT_FLIT_CRC + lane.val) = (s.chip.reg (Obj.CNT_FLIT_CRC + lane.val) + 1) % 2 ^ 64 ∧ t.chip.links = s.chip.links) := by
  have hcrc : ∀ key, Obj.CNT_FLIT_CRC + lane.val ≠ key →
      ((s.chip.fecCounted lane.val corrected.toNat uncorr.toNat).bump (Obj.CNT_FLIT_CRC + lane.val)).reg key =
      (s.chip.fecCounted lane.val corrected.toNat uncorr.toNat).reg key :=
    fun key hkey => (Chip.reg_bump ..).trans (if_neg hkey.symm)
  have hkept : (s.chip.fecCounted lane.val corrected.toNat uncorr.toNat).reg (Obj.CNT_FLIT_CRC + lane.val) =
      s.chip.reg (Obj.CNT_FLIT_CRC + lane.val) := by
    unfold Chip.fecCounted
    split
    · rfl
    · refine (Chip.reg_count _ (Obj.CNT_FEC_UNCORR + lane.val) _ _).trans ((if_neg ?_).trans ((Chip.reg_count ..).trans (if_neg ?_)))
      all_goals simp only [Obj.CNT_FLIT_CRC, Obj.CNT_FEC_CORRECTED, Obj.CNT_FEC_UNCORR]; omega
  refine ends_on (congrArg Host.Outcome.next (State.flitIn_failed hlink hbad)) rfl fun t hchip hmem => ?_
  rw [hchip]
  refine ⟨(s.chip.fecCounted_counts _ _ _).congr (hcrc _ ?_) (hcrc _ ?_), hmem, ?_, s.chip.fecCounted_links _ _ _⟩
  · simp only [Obj.CNT_FLIT_CRC, Obj.CNT_FEC_CORRECTED]; omega
  · simp only [Obj.CNT_FLIT_CRC, Obj.CNT_FEC_UNCORR]; omega
  · rw [Chip.reg_bump, if_pos rfl, hkept]

/-! ### The data flit that is expected (R243, R247) -/

/-- A link that has taken a data flit: the next is wanted, its buffer is owed back, and its bytes are the segment under way. -/
def Link.taken (x : Link) (f : Flit) : Link :=
  { x with want := (f.seq + 1) % 65536, got := true, nakAt := none, unacked := x.unacked + 1,
           owed := Tbl.put x.owed f.vc (Tbl.get x.owed 0 f.vc + 1), asm := Tbl.put x.asm f.vc f.payload }

theorem Chip.updLink_twice (c : Chip) (l : Nat) (f g : Link → Link) : (c.updLink l f).updLink l g = c.updLink l (g ∘ f) := by
  rw [Chip.updLink, Chip.link_updLink_same]
  simp only [Chip.updLink, Tbl.put_put, Function.comp_apply]

theorem State.on_updLink_twice (s : State) (l : Nat) (f g : Link → Link) :
    (s.on fun c => c.updLink l f).on (fun c => c.updLink l g) = s.on fun c => c.updLink l (g ∘ f) :=
  congrArg (fun c : Chip => { s with chip := c }) (s.chip.updLink_twice l f g)

/-- Bytes that begin a segment and do not complete it wait for the rest (R247). -/
theorem State.dataIn_begins {s : State} {l vc : Nat} {p : List Byte} (atLimit : Bool) (hasm : Tbl.get (s.chip.link l).asm [] vc = [])
    (hshort : p.length < 16 + leAt p 8 4) :
    s.dataIn l vc p atLimit = s.on fun c => c.updLink l fun x => { x with asm := Tbl.put x.asm vc p } := by
  unfold State.dataIn
  simp only [hasm, List.nil_append]
  exact if_pos (by simp [hshort])

section
variable {s : State} {l : Nat} {f : Flit} (atLimit : Bool) (hdata : f.ty = 0) (hvc : f.vc < 2)
  (hasm : Tbl.get (s.chip.link l).asm [] f.vc = []) (hunacked : (s.chip.link l).unacked < 63)
  (howed : Tbl.get (s.chip.link l).owed 0 f.vc < 63) (hshort : f.payload.length < 16 + leAt f.payload 8 4)
include hdata hvc hasm hunacked howed hshort

/-- Nothing is acknowledged yet, and no credit goes back. -/
theorem State.deliver_data : s.deliver l f atLimit = s.on fun c => c.updLink l fun x => x.taken f := by
  unfold State.deliver
  extract_lets s1 s2
  have hlink : s1.chip.link l = { s.chip.link l with
      want := (f.seq + 1) % 65536, got := true, nakAt := none, unacked := (s.chip.link l).unacked + 1,
      owed := Tbl.put (s.chip.link l).owed f.vc (Tbl.get (s.chip.link l).owed 0 f.vc + 1) } := Chip.link_updLink_same ..
  have htaken : s2 = s.on fun c => c.updLink l fun x => x.taken f := by
    unfold s2
    rw [if_neg (by rw [hdata]; decide), if_neg (by omega), State.dataIn_begins atLimit (by rw [hlink]; exact hasm) hshort]
    exact s.on_updLink_twice l _ _
  rw [htaken]
  refine congrArg (fun c : Chip => { s with chip := c }) (if_neg ?_)
  rw [State.on_chip, Chip.link_updLink_same]
  simp only [Link.taken, Tbl.get_put_same, Bool.or_eq_true, decide_eq_true_eq, not_or, not_le, ge_iff_le]
  omega

end

section
variable {s : State} {i l : Nat} {f : Flit} (atLimit : Bool) (hdata : f.ty = 0) (hvc : f.vc < 2) (hwant : f.seq = (s.chip.link l).want)
  (hearly : (s.chip.link l).early = []) (hasm : Tbl.get (s.chip.link l).asm [] f.vc = []) (hunacked : (s.chip.link l).unacked < 63)
  (howed : Tbl.get (s.chip.link l).owed 0 f.vc < 63) (hshort : f.payload.length < 16 + leAt f.payload 8 4)
include hdata hvc hwant hearly hasm hunacked howed hshort

theorem State.seqIn_expected : s.seqIn i l f atLimit =
    s.on fun c => c.updLink l fun x => ({ x with high := Tbl.put x.high i f.seq } : Link).taken f := by
  unfold State.seqIn
  extract_lets s1 x d s2 s3
  have hlink : s1.chip.link l = { s.chip.link l with high := Tbl.put (s.chip.link l).high i f.seq } := Chip.link_updLink_same ..
  have hahead : d = 0 := by
    have hx : x.want = f.seq := (congrArg Link.want hlink).trans hwant.symm
    simp [d, ahead, hx]
  have hs2 : s2 = s.on fun c => c.updLink l fun x => ({ x with high := Tbl.put x.high i f.seq } : Link).taken f := by
    unfold s2
    rw [State.deliver_data atLimit hdata hvc (by rw [hlink]; exact hasm) (by rw [hlink]; exact hunacked) (by rw [hlink]; exact howed) hshort]
    exact s.on_updLink_twice l _ _
  have hnone : (s2.chip.link l).early.length = 0 := by
    rw [hs2, State.on_chip, Chip.link_updLink_same]
    exact congrArg List.length hearly
  rw [if_pos hahead, hnone, State.deliverEarly, hs2]

end

/-- A flit in order on an ACTIVE lane of a usable link, with neither an acknowledgement nor credits. -/
theorem State.flitIn_data {s : State} {i l : Nat} {flit : List Byte} (corrected uncorr : Nat) (atLimit : Bool)
    (hlink : (s.chip.lane i).link = some l) (hactive : (s.chip.lane i).state = laneActive) (husable : (s.chip.link l).usable = true)
    (hcrc : crc64 (flit.take 248) = leAt flit 248 8) (hheader : headerOk (leAt flit 0 8) = true) (hdata : fld (leAt flit 0 8) 15 13 = 0)
    (hack : bitAt (leAt flit 0 8) 31 = false) (hcredits : fld (leAt flit 0 8) 27 18 = 0) :
    s.flitIn i flit corrected uncorr false atLimit = (s.on fun c => c.fecCounted i corrected uncorr).seqIn i l
      { seq := fld (leAt flit 0 8) 63 48, ty := 0, vc := fld (leAt flit 0 8) 17 16,
        payload := (flit.drop 8).take (fld (leAt flit 0 8) 7 0) } atLimit := by
  obtain ⟨hlane, hstate⟩ := s.chip.fecCounted_lane i corrected uncorr
  have hlinks := Chip.link_of_links (s.chip.fecCounted_links i corrected uncorr) l
  unfold State.flitIn
  extract_lets s1 h lane use ty p whole
  rw [if_neg (by simp [h, hcrc, hheader])]
  have huse : use = some l := by
    have hon : lane.link = some l := hlane.trans hlink
    have hrun : lane.state = laneActive := hstate.trans hactive
    have hup : (s1.chip.link l).usable = true := (congrArg Link.usable hlinks).trans husable
    simp [use, hon, hrun, hup]
  have hty : ty = 0 := hdata
  rw [huse, if_neg (by rw [hty]; decide)]
  simp only [h, hack, hcredits, hty]
  rfl

theorem flitReceived_expected {lane : Fin 256} {flit : List Byte} (corrected uncorr : Byte) {s : State} {l : Nat} (atLimit : Bool)
    (hlink : (s.chip.lane lane.val).link = some l) (hactive : (s.chip.lane lane.val).state = laneActive)
    (husable : (s.chip.link l).usable = true) (hcrc : crc64 (flit.take 248) = leAt flit 248 8) (hheader : headerOk (leAt flit 0 8) = true)
    (hdata : fld (leAt flit 0 8) 15 13 = 0) (hvc : fld (leAt flit 0 8) 17 16 < 2) (hack : bitAt (leAt flit 0 8) 31 = false)
    (hcredits : fld (leAt flit 0 8) 27 18 = 0) (hwant : fld (leAt flit 0 8) 63 48 = (s.chip.link l).want)
    (hearly : (s.chip.link l).early = []) (hasm : Tbl.get (s.chip.link l).asm [] (fld (leAt flit 0 8) 17 16) = [])
    (hunacked : (s.chip.link l).unacked < 63) (howed : Tbl.get (s.chip.link l).owed 0 (fld (leAt flit 0 8) 17 16) < 63)
    (hshort : ((flit.drop 8).take (fld (leAt flit 0 8) 7 0)).length < 16 + leAt ((flit.drop 8).take (fld (leAt flit 0 8) 7 0)) 8 4) :
    Ends (.flitReceived lane flit corrected uncorr false atLimit) s (fun t =>
      s.chip.FecCounts t.chip lane.val corrected.toNat uncorr.toNat ∧ t.mem = s.mem ∧
      (t.chip.link l).want = (fld (leAt flit 0 8) 63 48 + 1) % 65536 ∧
      Tbl.get (t.chip.link l).asm [] (fld (leAt flit 0 8) 17 16) = (flit.drop 8).take (fld (leAt flit 0 8) 7 0) ∧
      (t.chip.link l).unacked = (s.chip.link l).unacked + 1 ∧ t.chip.out = s.chip.out) := by
  have hlinks := Chip.link_of_links (s.chip.fecCounted_links lane.val corrected.toNat uncorr.toNat) l
  have htaken := State.flitIn_data corrected.toNat uncorr.toNat atLimit hlink hactive husable hcrc hheader hdata hack hcredits
  rw [State.seqIn_expected atLimit rfl hvc (by rw [State.on_chip, hlinks]; exact hwant) (by rw [State.on_chip, hlinks]; exact hearly)
    (by rw [State.on_chip, hlinks]; exact hasm) (by rw [State.on_chip, hlinks]; exact hunacked)
    (by rw [State.on_chip, hlinks]; exact howed) hshort] at htaken
  refine ⟨_, congrArg Host.Outcome.next htaken, ?_⟩
  simp only [State.on_chip, State.on_mem, Chip.link_updLink_same, Link.taken, Tbl.get_put_same, hlinks]
  exact ⟨(s.chip.fecCounted_counts _ _ _).congr rfl rfl, trivial, trivial, trivial, trivial, s.chip.fecCounted_out _ _ _⟩

/-- Settles O21: the codewords are counted first; then the flit fails its checks, or it is the one that its link wants. -/
theorem flitReceived : Obligations.FlitReceived := by
  unfold Obligations.FlitReceived
  intro lane flit corrected uncorr s i h fec
  refine ⟨fun hlink bad atLimit hbad => ?failed, fun l atLimit hlink hactive husable hcrc hheader hdata hvc hack hcredits hwant hearly hasm
    hunacked howed hshort => ?expected⟩
  case failed =>
    exact (flitReceived_failed corrected uncorr hlink atLimit hbad).imp fun t ⟨⟨hwindow, hcounts⟩, hmem, hcrc, hlinks⟩ =>
      ⟨⟨hwindow, hcounts, hmem⟩, hcrc, hlinks⟩
  case expected =>
    exact (flitReceived_expected corrected uncorr atLimit hlink hactive husable hcrc hheader hdata hvc hack hcredits hwant hearly hasm
      hunacked howed hshort).imp fun t ⟨⟨hwindow, hcounts⟩, hmem, htaken⟩ => ⟨⟨hwindow, hcounts, hmem⟩, htaken⟩

end Sys2Proof.Machine
end

section
/-! PROOF. The timers of a link and the messages that reach its lanes and windows (R241, R244–R246, R251, R254, R255, R379). -/
namespace Sys2Proof.Machine

/-! ### A flit on the wire (R243–R245) -/

theorem Chip.nextLane_isSome (c : Chip) (l : Nat) : (c.nextLane l).isSome = !(c.activeOf l).isEmpty := by
  unfold Chip.nextLane
  dsimp only
  cases hact : c.activeOf l with
  | nil => rfl
  | cons i act =>
    split
    next => rfl
    next => rfl

/-- A link after one of its flits has gone out on lane `i`. -/
def Link.wired (x : Link) (i : Nat) (k : Carry) : Link :=
  { x with deal := i + 1, unacked := 0, owed := Tbl.put x.owed k.vc (Tbl.get x.owed 0 k.vc - k.count) }

section
variable {c : Chip} {l i : Nat} (hnext : c.nextLane l = some i) (seq ty vc : Nat) (nak : Bool) (payload : List Byte)
include hnext

theorem Chip.wire_of_next : c.wire l seq ty vc nak payload = (c.updLink l fun x => x.wired i ((c.link l).carry nak)).send
    (.flit i (flitBytes seq ty vc ((c.link l).carry nak) payload)) := by
  unfold Chip.wire
  rw [hnext]
  rfl

theorem Chip.wire_link : (c.wire l seq ty vc nak payload).link l = (c.link l).wired i ((c.link l).carry nak) := by
  rw [Chip.wire_of_next hnext, Chip.link_of_links (Chip.send_links ..), Chip.link_updLink_same]

theorem Chip.wire_out : (c.wire l seq ty vc nak payload).out =
    c.out ++ [.flit i (flitBytes seq ty vc ((c.link l).carry nak) payload)] := by
  rw [Chip.wire_of_next hnext]
  rfl

theorem Chip.wire_nextLane : ((c.wire l seq ty vc nak payload).nextLane l).isSome = true := by
  rw [Chip.nextLane_isSome, Chip.wire_of_next hnext, ← Option.isSome_of_eq_some hnext, Chip.nextLane_isSome]
  rfl

end

theorem Chip.wire_shape (c : Chip) (l seq ty vc : Nat) (nak : Bool) (payload : List Byte) :
    ∃ ls ou, c.wire l seq ty vc nak payload = { c with links := ls, out := ou } := (Chip.Pumped.wire c l seq ty vc nak payload).shape

theorem Chip.idle_offset (c : Chip) (l : Nat) (nak : Bool) : ((c.idle l nak).link l).offset = (c.link l).offset := by
  cases hnext : c.nextLane l with
  | none => simp only [Chip.idle, Chip.wire, hnext]
  | some i => rw [Chip.idle, Chip.wire_link hnext, Link.wired]

@[simp] theorem Chip.idle_regs (c : Chip) (l : Nat) (nak : Bool) : (c.idle l nak).regs = c.regs := by
  obtain ⟨_, _, h⟩ := c.wire_shape l (c.link l).next 1 0 nak []
  rw [Chip.idle, h]

/-- A command that sends one IDLE flit. -/
theorem idle_ends {i : Instr} {s : State} {l : Nat} {f : Chip → Chip} (hexec : exec i s = .next (s.on f))
    (hidle : f s.chip = s.chip.idle l false) (hlane : (s.chip.nextLane l).isSome = true) :
    Ends i s (fun t => ∃ i, s.chip.nextLane l = some i ∧ (t.chip.link l).unacked = 0 ∧ t.mem = s.mem ∧ t.chip.regs = s.chip.regs ∧
      t.chip.out = s.chip.out ++ [.flit i (flitBytes (s.chip.link l).next 1 0 ((s.chip.link l).carry false) [])]) := by
  obtain ⟨i, hnext⟩ := Option.isSome_iff_exists.mp hlane
  refine ends_on hexec hidle fun t hchip hmem => ⟨i, hnext, ?_, hmem, ?_, ?_⟩
  all_goals rw [hchip]
  · rw [Chip.idle, Chip.wire_link hnext]
    rfl
  · exact Chip.idle_regs ..
  · exact Chip.wire_out hnext ..

/-! ### Timers (R241, R244–R246) -/

/-- Flits sent in turn each go out once, and the link holds what it held. -/
theorem Chip.foldl_wire {l : Nat} (fs : List Flit) {c : Chip} (hlane : (c.nextLane l).isSome = true) :
    (fs.foldl (fun c f => c.wire l f.seq f.ty f.vc false f.payload) c).out.length = c.out.length + fs.length ∧
    ((fs.foldl (fun c f => c.wire l f.seq f.ty f.vc false f.payload) c).link l).held = (c.link l).held ∧
    ((fs.foldl (fun c f => c.wire l f.seq f.ty f.vc false f.payload) c).link l).replays = (c.link l).replays := by
  induction fs generalizing c with
  | nil => exact ⟨rfl, rfl, rfl⟩
  | cons f fs ih =>
    obtain ⟨i, hnext⟩ := Option.isSome_iff_exists.mp hlane
    obtain ⟨hout, hheld, hreplays⟩ := ih (Chip.wire_nextLane hnext f.seq f.ty f.vc false f.payload)
    rw [Chip.wire_link hnext] at hheld hreplays
    rw [Chip.wire_out hnext] at hout
    refine ⟨hout.trans ?_, hheld, hreplays⟩
    simp only [List.length_append, List.length_cons, List.length_nil]
    omega

section
variable {link : Fin 64} {s : State} (husable : (s.chip.link link.val).usable = true)
include husable

theorem ackTimer_idles (hlane : (s.chip.nextLane link.val).isSome = true) (howes : 0 < (s.chip.link link.val).unacked) :
    Ends (.ackTimer link) s (fun t => ∃ i, s.chip.nextLane link.val = some i ∧ (t.chip.link link.val).unacked = 0 ∧ t.mem = s.mem ∧
      t.chip.regs = s.chip.regs ∧ t.chip.out = s.chip.out ++
        [.flit i (flitBytes (s.chip.link link.val).next 1 0 ((s.chip.link link.val).carry false) [])]) :=
  idle_ends rfl (if_pos (by simp [husable, howes])) hlane

theorem creditReturnTimer_idles (hlane : (s.chip.nextLane link.val).isSome = true)
    (howes : (s.chip.link link.val).owed.any (fun p => decide (p.2 > 0)) = true) :
    Ends (.creditReturnTimer link) s (fun t => ∃ i, s.chip.nextLane link.val = some i ∧ (t.chip.link link.val).unacked = 0 ∧
      t.mem = s.mem ∧ t.chip.regs = s.chip.regs ∧ t.chip.out = s.chip.out ++
        [.flit i (flitBytes (s.chip.link link.val).next 1 0 ((s.chip.link link.val).carry false) [])]) :=
  idle_ends rfl (if_pos (by rw [husable, howes]; rfl)) hlane

theorem linkReplayTimeout_replays (hlane : (s.chip.nextLane link.val).isSome = true) (hheld : (s.chip.link link.val).held ≠ [])
    (hlimit : (s.chip.link link.val).replays < s.chip.reg Obj.LINK_REPLAY_LIMIT) : Ends (.linkReplayTimeout link) s (fun t =>
      (t.chip.link link.val).replays = (s.chip.link link.val).replays + 1 ∧ (t.chip.link link.val).held = (s.chip.link link.val).held ∧
      t.chip.out.length = s.chip.out.length + (s.chip.link link.val).held.length ∧ t.mem = s.mem) := by
  have hreplays : s.chip.replayTimeout link.val =
      (s.chip.updLink link.val fun x => { x with replays := x.replays + 1 }).replayHeld link.val := by
    unfold Chip.replayTimeout
    extract_lets x
    rw [if_neg (by simp [x, husable, hheld]), if_neg (Nat.not_le.mpr hlimit)]
  have hlane' : ((s.chip.updLink link.val fun x => { x with replays := x.replays + 1 }).nextLane link.val).isSome = true := by
    rw [Chip.nextLane_isSome] at hlane ⊢
    exact hlane
  obtain ⟨hout, hkept, hcount⟩ := Chip.foldl_wire (s.chip.link link.val).held hlane'
  rw [Chip.link_updLink_same] at hkept hcount
  refine ends_on rfl hreplays fun t hchip hmem => ?_
  rw [hchip, Chip.replayHeld, Chip.link_updLink_same]
  exact ⟨hcount, hkept, hout, hmem⟩

theorem linkReplayTimeout_retrains (hheld : (s.chip.link link.val).held ≠ [])
    (hlimit : s.chip.reg Obj.LINK_REPLAY_LIMIT ≤ (s.chip.link link.val).replays) : Ends (.linkReplayTimeout link) s (fun t =>
      (t.chip.link link.val).state = linkRetrain ∧ (t.chip.link link.val).held = [] ∧
      t.chip.said 0x0707 ((s.chip.link link.val).part.getD 0xFF) [] ∧
      t.chip.reg (Obj.CNT_LINK_RETRAINS + link.val) = (s.chip.reg (Obj.CNT_LINK_RETRAINS + link.val) + 1) % 2 ^ 64 ∧ t.mem = s.mem) := by
  have hretrains : s.chip.replayTimeout link.val = s.chip.linkRetrainNow link.val := by
    unfold Chip.replayTimeout
    extract_lets x
    rw [if_neg (by simp [x, husable, hheld]), if_pos hlimit]
  refine ends_on rfl hretrains fun t hchip hmem => ?_
  rw [hchip, Chip.linkRetrainNow_link husable]
  exact ⟨rfl, rfl, Chip.linkRetrainNow_said husable, Chip.linkRetrainNow_count husable link.isLt, hmem⟩

end

theorem ackTimer_rests {link : Fin 64} {s : State} (hnone : (s.chip.link link.val).unacked = 0) :
    Ends (.ackTimer link) s (fun t => t = s) := by
  refine ⟨_, rfl, ?_⟩
  simp [State.on, hnone]

theorem linkRetrainTimeout_down {link : Fin 64} {s : State} (hretrain : (s.chip.link link.val).state = linkRetrain) :
    Ends (.linkRetrainTimeout link) s (fun t => t.chip.links = Tbl.del s.chip.links link.val ∧
      (∀ p ∈ t.chip.lanes, p.2.link ≠ some link.val) ∧ t.chip.said 0x0702 ((s.chip.link link.val).part.getD 0xFF) [] ∧ t.mem = s.mem) := by
  obtain ⟨hlinks, hlanes, hsaid⟩ := s.chip.linkGone_spec link.val
  refine ends_on rfl (if_pos hretrain) fun t hchip hmem => ?_
  rw [hchip]
  exact ⟨hlinks, hlanes, hsaid, hmem⟩

/-! ### Messages about lanes and windows (R251, R254, R255) -/

theorem Chip.nearMiss_lanes (c : Chip) (cls : Nat) (atLimit : Bool) : (c.nearMiss cls atLimit).lanes = c.lanes := by
  cases atLimit <;> rfl

section
variable {link : Fin 64} {lane : Byte} {i : Nat} {s : State} (hpeer : s.chip.peerLaneOf link.val lane.toNat = some i)
include hpeer

theorem laneDropReceived_degrades (cause : Byte) (hactive : (s.chip.lane i).state = laneActive)
    (hlimit : (s.chip.lane i).retrains < s.chip.reg Obj.LANE_RETRAIN_LIMIT) :
    Ends (.laneDropReceived link lane cause) s (fun t => (t.chip.lane i).state = laneRetrain ∧ t.mem = s.mem) := by
  have hdrop : s.chip.laneDropIn link.val lane.toNat = s.chip.degradeLane i causeLock false := by
    unfold Chip.laneDropIn
    rw [hpeer]
    exact if_neg (by rw [hactive]; decide)
  refine ends_on rfl hdrop fun t hchip hmem => ?_
  rw [hchip]
  exact ⟨(Chip.degradeLane_lane causeLock false hactive hlimit).1, hmem⟩

theorem laneAddReceived_joins (frame : W48) (hready : (s.chip.lane i).state = laneReady) : Ends (.laneAddReceived link lane frame) s (fun t =>
    t = s.on (fun c => c.updLane i (fun x => { x with joinAt := some frame.toNat }))) := by
  refine ⟨_, rfl, ?_⟩
  simp [State.on, Chip.laneAddIn, hpeer, hready]

theorem swapAnnounceReceived_acknowledges (frame : W48) : Ends (.swapAnnounceReceived link lane frame) s (fun t =>
    (t.chip.lane i).peerSwapAt = some frame.toNat ∧ t.mem = s.mem ∧
    ∃ f ∈ (t.chip.link link.val).queue ++ (t.chip.link link.val).held,
      f.payload = leBytes 1 msgSwapAck ++ (leBytes 1 i ++ (leBytes 8 frame.toNat ++ [])) ∧ f.vc = 3) := by
  have hannounced : s.chip.announceIn link.val lane.toNat frame.toNat =
      (s.chip.updLane i fun x => { x with peerSwapAt := some frame.toNat }).message link.val 3 msgSwapAck [(1, i), (8, frame.toNat)] := by
    unfold Chip.announceIn
    rw [hpeer]
  refine ends_on rfl hannounced fun t hchip hmem => ?_
  rw [hchip]
  refine ⟨?_, hmem, ?_⟩
  · rw [Chip.lane_of_lanes (Chip.message_lanes ..), Chip.lane_updLane_same]
  · exact Chip.submit_flit _ link.val (f := { ty := 3, vc := 3, payload := msgBytes msgSwapAck [(1, i), (8, frame.toNat)] })
      (List.mem_singleton_self _)

theorem swapAckReceived_confirms {frame : W48} (atLimit : Bool) (hwindow : (s.chip.lane i).swapAt = some frame.toNat) :
    Ends (.swapAckReceived link lane frame atLimit) s (fun t => (t.chip.lane i).swapAcked = true ∧ (t.chip.lane i).swapTries = 0 ∧
      t.chip.links = s.chip.links ∧ t.mem = s.mem) := by
  have hacked : s.chip.swapAckIn link.val lane.toNat frame.toNat atLimit =
      (s.chip.updLane i fun x => { x with swapAcked := true, swapTries := 0 }).nearMiss waitCredit atLimit := by
    unfold Chip.swapAckIn
    rw [hpeer]
    exact if_pos hwindow
  refine ends_on rfl hacked fun t hchip hmem => ?_
  have hlane : ((s.chip.updLane i fun x => { x with swapAcked := true, swapTries := 0 }).nearMiss waitCredit atLimit).lane i =
      { s.chip.lane i with swapAcked := true, swapTries := 0 } :=
    (Chip.lane_of_lanes (Chip.nearMiss_lanes ..) i).trans (Chip.lane_updLane_same ..)
  rw [hchip, hlane]
  exact ⟨rfl, rfl, Chip.nearMiss_links .., hmem⟩

theorem swapAckReceived_late {frame : W48} (atLimit : Bool) (hwindow : (s.chip.lane i).swapAt ≠ some frame.toNat) :
    Ends (.swapAckReceived link lane frame atLimit) s (fun t => t = s.on (fun c => c.late waitCredit)) := by
  refine ⟨_, rfl, ?_⟩
  simp [State.on, Chip.swapAckIn, hpeer, hwindow]

end

/-! ### Frame marks (R379) -/

theorem frameMarkReceived_measures {link : Fin 64} (frame : W48) (time : W64) {arrival delay : Int} {s : State}
    (husable : (s.chip.link link.val).usable = true) (hmarks : bitAt (s.chip.link link.val).features 2 = true)
    (hfirst : (s.chip.link link.val).offs = []) (hlow : -2147483648 ≤ arrival - delay) (hhigh : arrival - delay ≤ 2147483647) :
    Ends (.frameMarkReceived link frame time arrival delay) s (fun t => (t.chip.link link.val).offset = arrival - delay ∧
      t.chip.regs = s.chip.regs ∧ t.mem = s.mem) := by
  have hmark : s.chip.markIn link.val arrival delay =
      (s.chip.updLink link.val fun x => { x with offs := [arrival - delay], offset := arrival - delay }).idle link.val false := by
    have hclamped : max (-2147483648) (min 2147483647 (arrival - delay)) = arrival - delay := by omega
    unfold Chip.markIn
    extract_lets x offs m
    have hoffs : offs = [arrival - delay] := by simp [offs, x, hfirst]
    have hmean : m = arrival - delay := by simp [m, hoffs]
    rw [if_neg (by simp [x, husable, hmarks]), hoffs, hmean, hclamped]
  refine ends_on rfl hmark fun t hchip hmem => ?_
  rw [hchip]
  refine ⟨?_, Chip.idle_regs .., hmem⟩
  rw [Chip.idle_offset, Chip.link_updLink_same]

/-- Settles O22: the timers of a link, then the messages by the lane they name, then the mark. -/
theorem linkTimersAndMessages : Obligations.LinkTimersAndMessages := by
  unfold Obligations.LinkTimersAndMessages
  refine ⟨fun link s husable hlane => ?timers, fun link s => ?retrain, fun link lane cause frame i s hpeer => ?messages,
    fun link frame time arrival delay s => ?mark⟩
  case timers =>
    exact ⟨ackTimer_idles husable hlane, creditReturnTimer_idles husable hlane, ackTimer_rests, linkReplayTimeout_replays husable hlane,
      linkReplayTimeout_retrains husable⟩
  case retrain => exact linkRetrainTimeout_down
  case messages =>
    exact ⟨laneDropReceived_degrades hpeer cause, laneAddReceived_joins hpeer frame, swapAnnounceReceived_acknowledges hpeer frame,
      fun atLimit => ⟨swapAckReceived_confirms hpeer atLimit, swapAckReceived_late hpeer atLimit⟩⟩
  case mark => exact frameMarkReceived_measures frame time

end Sys2Proof.Machine
end

section
/-! PROOF. The operator's writes about links (R241, R253, R258): LINK_CONTROL, the expected maps, and route entries. -/
namespace Sys2Proof.Machine

theorem State.AnsweredFrom.links {u t : State} {r : Req} {key code : Nat} (h : u.AnsweredFrom t r key code) : t.chip.links = u.chip.links := by
  obtain ⟨_, _, h⟩ := h.shape
  rw [h]

theorem State.AnsweredFrom.blobs {u t : State} {r : Req} {key code : Nat} (h : u.AnsweredFrom t r key code) : t.chip.blobs = u.chip.blobs := by
  obtain ⟨_, _, h⟩ := h.shape
  rw [h]

/-! ### Links that are released (R253) -/

theorem Chip.link_updLink_other (c : Chip) {l m : Nat} (f : Link → Link) (h : m ≠ l) : (c.updLink l f).link m = c.link m := by
  simp [Chip.link, Chip.updLink, Tbl.get_put_other _ _ _ h]

theorem Chip.releaseLink_regs (c : Chip) (l : Nat) : (c.releaseLink l).regs = c.regs := by
  unfold Chip.releaseLink
  extract_lets c1
  split <;> rfl

theorem Chip.releaseLink_links {c : Chip} {l : Nat} (h : (c.link l).state = linkQuar) :
    (c.releaseLink l).links = (c.updLink l fun x => { x with state := linkDiscover, quar := 0 }).links := by
  rw [Chip.releaseLink, if_neg (by rw [h]; decide)]

theorem Chip.releaseLink_same (c : Chip) (l : Nat) : ((c.releaseLink l).link l).state ≠ linkQuar := by
  by_cases h : (c.link l).state = linkQuar
  · rw [Chip.link_of_links (Chip.releaseLink_links h), Chip.link_updLink_same]
    show linkDiscover ≠ linkQuar
    decide
  · rw [Chip.releaseLink, if_pos (by simpa using h)]
    exact h

theorem Chip.releaseLink_keeps {c : Chip} (l : Nat) {m : Nat} (hm : (c.link m).state ≠ linkQuar) :
    ((c.releaseLink l).link m).state ≠ linkQuar := by
  by_cases h : (c.link l).state = linkQuar
  · rw [Chip.link_of_links (Chip.releaseLink_links h), Chip.link_updLink_other c _ (fun hsame : m = l => hm (hsame ▸ h))]
    exact hm
  · rw [Chip.releaseLink, if_pos (by simpa using h)]
    exact hm

/-! ### LINK_CONTROL (R241, R253) -/

/-- What an action of LINK_CONTROL does to the module, with its result: 1 RELEASE, 2 RETRAIN, 3 QUARANTINE. -/
def Chip.linkAct (c : Chip) (l a : Nat) : Chip × Nat :=
  if a = 1 then (if (c.link l).state = linkQuar then (c.releaseLink l, rcOK) else (c, rcState))
  else if a = 2 then (if (c.link l).usable then (c.linkRetrainNow l, rcOK) else (c, rcState))
  else if (c.link l).state = linkDown then (c, rcState) else (c.quarantine l 4, rcOK)

theorem linkWord_fields {l a : Nat} (hl : l < 64) (ha : a ≤ 3) : let v := leNat (wr 2 (l + a * 256))
    fld v 5 0 = l ∧ fld v 9 8 = a ∧ fld v 15 10 = 0 ∧ fld v 7 6 = 0 := by
  rw [leNat_wr (by omega)]
  simp only [fld, Nat.shiftRight_eq_div_pow]
  omega

section
variable {i : Instr} {r : Req} {link : Fin 64} {a inst : Nat} {s : State} (hlow : 1 ≤ a) (hhigh : a ≤ 3)
  (hexec : exec i s = .next (linkControl r link.val a s))
  (hadmits : s.admits r Obj.LINK_CONTROL (wr 2 (link.val + a * 256)) inst = true)
include hlow hhigh hexec hadmits

theorem linkControl_ends {c : Chip} {code : Nat} (hact : s.chip.linkAct link.val a = (c, code)) {P : State → Prop}
    (hP : ∀ t, (s.on fun _ => c).AnsweredFrom t r Obj.LINK_CONTROL code → P t) : Ends i s P := by
  obtain ⟨hlink, haction, hclear, hclear'⟩ := linkWord_fields link.isLt hhigh
  refine rowWriteOn_ends hexec hadmits ?_ hP
  rw [← hact]
  simp only [hlink, haction, hclear, hclear']
  rw [if_neg (by simp; omega)]
  rfl

theorem linkControl_stays (hact : s.chip.linkAct link.val a = (s.chip, rcState)) : Ends i s (fun t =>
    t.chip.links = s.chip.links ∧ t.answers r Obj.LINK_CONTROL rcState ∧ t.mem = s.mem) :=
  linkControl_ends hlow hhigh hexec hadmits hact fun _ ht => ⟨ht.links, ht.answers, ht.mem⟩

end

section
variable {r : Req} {link : Fin 64} {s : State} {inst : Nat}

theorem linkControlRelease_releases (hadmits : s.admits r Obj.LINK_CONTROL (wr 2 (link.val + 1 * 256)) inst = true)
    (hquar : (s.chip.link link.val).state = linkQuar) : Ends (.linkControlRelease r link) s (fun t =>
      (t.chip.link link.val).state = linkDiscover ∧ (t.chip.link link.val).quar = 0 ∧ t.answers r Obj.LINK_CONTROL rcOK ∧ t.mem = s.mem) := by
  refine linkControl_ends (by decide) (by decide) rfl hadmits (if_pos hquar) fun t ht => ?_
  rw [Chip.link_of_links (ht.links.trans (Chip.releaseLink_links hquar)), Chip.link_updLink_same]
  exact ⟨rfl, rfl, ht.answers, ht.mem⟩

theorem linkControlRetrain_retrains (hadmits : s.admits r Obj.LINK_CONTROL (wr 2 (link.val + 2 * 256)) inst = true)
    (husable : (s.chip.link link.val).usable = true) : Ends (.linkControlRetrain r link) s (fun t =>
      (t.chip.link link.val).state = linkRetrain ∧ t.chip.said 0x0707 ((s.chip.link link.val).part.getD 0xFF) [] ∧
      t.answers r Obj.LINK_CONTROL rcOK ∧ t.mem = s.mem) := by
  refine linkControl_ends (by decide) (by decide) rfl hadmits (if_pos husable) fun t ht => ?_
  rw [Chip.link_of_links ht.links, State.on_chip, Chip.linkRetrainNow_link husable]
  exact ⟨rfl, Chip.said_of_streams ht.streams (Chip.linkRetrainNow_said husable), ht.answers, ht.mem⟩

theorem linkControlQuarantine_quarantines (hadmits : s.admits r Obj.LINK_CONTROL (wr 2 (link.val + 3 * 256)) inst = true)
    (hstate : (s.chip.link link.val).state ≠ linkDown) : Ends (.linkControlQuarantine r link) s (fun t =>
      (t.chip.link link.val).state = linkQuar ∧ (t.chip.link link.val).quar = 4 ∧
      t.chip.said 0x0703 ((s.chip.link link.val).part.getD 0xFF) [] ∧ t.answers r Obj.LINK_CONTROL rcOK ∧ t.mem = s.mem) := by
  refine linkControl_ends (by decide) (by decide) rfl hadmits (if_neg hstate) fun t ht => ?_
  rw [Chip.link_of_links ht.links, State.on_chip, Chip.quarantine_link]
  exact ⟨rfl, rfl, Chip.said_of_streams ht.streams (Chip.quarantine_said ..), ht.answers, ht.mem⟩

end

/-! ### The expected maps (R253) -/

theorem expectMapWrite_takes {r : Req} {fibre : Fin 32} {peer : Bool} {value : W64} {s : State} {inst : Nat}
    (hvalue : peer = false → value.toNat < 256)
    (hadmits : s.admits r ((if peer then Obj.EXPECT_PEER else Obj.EXPECT_FIBRE) + fibre.val)
      (wr (if peer then 8 else 1) value.toNat) inst = true) :
    Ends (.expectMapWrite r fibre peer value) s (fun t =>
      t.chip.reg ((if peer then Obj.EXPECT_PEER else Obj.EXPECT_FIBRE) + fibre.val) = value.toNat ∧
      t.answers r ((if peer then Obj.EXPECT_PEER else Obj.EXPECT_FIBRE) + fibre.val) rcOK ∧
      (∀ l, l < 64 → (s.chip.link l).fibre = fibre.val → (t.chip.link l).state ≠ linkQuar) ∧ t.mem = s.mem) := by
  set key := (if peer then Obj.EXPECT_PEER else Obj.EXPECT_FIBRE) + fibre.val with hkey
  have hword : leNat (wr (if peer then 8 else 1) value.toNat) = value.toNat := by
    cases peer with
    | true => exact leNat_wr value.isLt
    | false => exact leNat_wr (hvalue rfl)
  refine rowWriteOn_ends rfl hadmits (c := ((List.range 64).filter fun l =>
    ((s.chip.setReg key value.toNat).link l).fibre = fibre.val).foldl Chip.releaseLink (s.chip.setReg key value.toNat)) (code := rcOK) (by rw [hword]) fun t ht =>
    ⟨?_, ht.answers, fun l hl hfibre => ?_, ht.mem⟩
  · rw [Chip.reg_of_same_regs (ht.regs rfl), State.on_chip, Chip.reg_of_same_regs (Chip.foldl_regs Chip.releaseLink_regs _ _),
      Chip.reg_setReg_same, Nat.mod_eq_of_lt value.isLt]
  · have hmapped : l ∈ (List.range 64).filter fun l => ((s.chip.setReg key value.toNat).link l).fibre = fibre.val :=
      List.mem_filter.mpr ⟨List.mem_range.mpr hl, decide_eq_true hfibre⟩
    rw [Chip.link_of_links ht.links, State.on_chip]
    exact foldl_of_mem (p := fun c : Chip => (c.link l).state ≠ linkQuar) (fun c => c.releaseLink_same l)
      (fun _ m hkept => Chip.releaseLink_keeps m hkept) hmapped _

/-! ### Route entries (R258) -/

section
variable {r : Req} {handle : Fin 4096} {entry : BitVec 128} {s : State} {inst : Nat}
  (hadmits : s.admits r (Obj.ROUTE_ENTRY + handle.val) (wr 16 entry.toNat) inst = true)
include hadmits

theorem routeEntryWrite_ends {c : Chip} {code : Nat} {P : State → Prop}
    (heff : effRouteEntry (Obj.ROUTE_ENTRY + handle.val) inst (wr 16 entry.toNat) s = (s.on fun _ => c, code))
    (hP : ∀ t, (s.on fun _ => c).AnsweredFrom t r (Obj.ROUTE_ENTRY + handle.val) code → P t) : Ends (.routeEntryWrite r handle entry) s P := by
  have hkey : Obj.ROUTE_ENTRY + handle.val / 256 * 256 + handle.val % 256 = Obj.ROUTE_ENTRY + handle.val := by omega
  refine rowWrite_ends ?_ hadmits heff hP
  rw [← hkey]
  rfl

theorem routeEntryWrite_taken (hclear : fld entry.toNat 127 80 = 0) (hclear' : fld entry.toNat 71 69 = 0)
    (howned : bitAt entry.toNat 72 = true → s.chip.ownsFibre inst (fld entry.toNat 68 64) = true ∧
      (bitAt entry.toNat 74 = true → s.chip.ownsFibre inst (fld entry.toNat 79 75) = true)) :
    Ends (.routeEntryWrite r handle entry) s (fun t => t.chip.route inst handle.val = entry.toNat ∧
      t.answers r (Obj.ROUTE_ENTRY + handle.val) rcOK ∧ t.mem = s.mem) := by
  have hword : leNat (wr 16 entry.toNat) = entry.toNat := leNat_wr entry.isLt
  have hfibres : ¬ (bitAt entry.toNat 72 && (!s.chip.ownsFibre inst (fld entry.toNat 68 64) ||
      (bitAt entry.toNat 74 && !s.chip.ownsFibre inst (fld entry.toNat 79 75)))) = true := by
    cases hvalid : bitAt entry.toNat 72 <;> cases hbackup : bitAt entry.toNat 74 <;> simp_all
  refine routeEntryWrite_ends hadmits (c := s.chip.setBlob inst (Obj.ROUTE_ENTRY + handle.val) (wr 16 entry.toNat)) ?_
    fun t ht => ⟨?_, ht.answers, ht.mem⟩
  · simp only [effRouteEntry, effOn, hword]
    rw [if_neg (by simp [hclear, hclear']), if_neg hfibres]
    rfl
  · have hkey : Obj.ROUTE_ENTRY + handle.val / 256 * 256 + handle.val % 256 = Obj.ROUTE_ENTRY + handle.val := by omega
    rw [Chip.route, Chip.blob, ht.blobs, hkey]
    simp [Chip.setBlob, hword]

theorem routeEntryWrite_reserved (hset : fld entry.toNat 127 80 ≠ 0 ∨ fld entry.toNat 71 69 ≠ 0) :
    Ends (.routeEntryWrite r handle entry) s (fun t => t.chip.route inst handle.val = s.chip.route inst handle.val ∧
      t.answers r (Obj.ROUTE_ENTRY + handle.val) rcRange ∧ t.mem = s.mem) := by
  have hword : leNat (wr 16 entry.toNat) = entry.toNat := leNat_wr entry.isLt
  refine routeEntryWrite_ends hadmits (c := s.chip) ?_ fun t ht => ⟨?_, ht.answers, ht.mem⟩
  · simp only [effRouteEntry, effOn, hword]
    rw [if_pos (by simpa using hset)]
    rfl
  · simp only [Chip.route, Chip.blob, ht.blobs]
    rfl

end

/-- Settles O23: each action of LINK_CONTROL where it acts and where it is refused, then the maps and the routes. -/
theorem linkOperator : Obligations.LinkOperator := by
  unfold Obligations.LinkOperator
  refine ⟨fun r link s inst => ⟨fun hadmits => ?release, fun hadmits => ?retrain, fun hadmits => ?quarantine⟩,
    fun r fibre peer value s inst => expectMapWrite_takes, fun r handle entry s inst hadmits => ?route⟩
  case release =>
    exact ⟨linkControlRelease_releases hadmits,
      fun hstate => linkControl_stays (a := 1) (by decide) (by decide) rfl hadmits (if_neg hstate)⟩
  case retrain =>
    exact ⟨linkControlRetrain_retrains hadmits,
      fun hdown => linkControl_stays (a := 2) (by decide) (by decide) rfl hadmits
        (if_neg (c := (s.chip.link link.val).usable = true) (by rw [hdown]; decide))⟩
  case quarantine =>
    exact ⟨linkControlQuarantine_quarantines hadmits,
      fun hdown => linkControl_stays (a := 3) (by decide) (by decide) rfl hadmits (if_pos hdown)⟩
  case route =>
    exact ⟨routeEntryWrite_taken hadmits, routeEntryWrite_reserved hadmits⟩

end Sys2Proof.Machine
end

section
/-! PROOF. Lasers and their spares (R255, R283–R286): a source that fails at once, a spare that locks or fails, acknowledgements that do
not come, and the end of a window. -/
namespace Sys2Proof.Machine

/-! ### What the steps of a swap leave as it was -/

/-- The objects of lasers and spares stand below the lanes' counters. -/
theorem laserKey_lt {o n : Nat} (ho : o < 10) (hn : n < 16) : laserKey o n < Obj.CNT_LANE_DEGRADES := by
  simp only [laserKey, atIdx, Obj.LASER_STATE, Obj.CNT_LANE_DEGRADES]; omega

theorem spareKey_lt {o x : Nat} (ho : o < 10) (hx : x < 2) : spareKey o x < Obj.CNT_LANE_DEGRADES := by
  simp only [spareKey, atIdx, Obj.SPARE_STATE, Obj.CNT_LANE_DEGRADES]; omega

theorem laserKey_ne_spareKey (o : Nat) {n x : Nat} (hn : n < 16) : laserKey o n ≠ spareKey o x := by
  simp only [laserKey, spareKey, atIdx, Obj.LASER_STATE, Obj.SPARE_STATE]; omega

theorem sameSwap_self (w : Swap) : sameSwap w w = true := by simp [sameSwap]

/-- Lanes that are degraded touch no swap, no steward and no object below the lanes' counters. -/
structure Chip.LasersStand (c d : Chip) : Prop where
  swaps : d.swaps = c.swaps
  agents : d.agents = c.agents
  reg : ∀ key < Obj.CNT_LANE_DEGRADES, d.reg key = c.reg key

theorem Chip.LasersStand.degradeLane (c : Chip) (i cause : Nat) (tell : Bool) : LasersStand c (c.degradeLane i cause tell) := by
  by_cases hlive : (c.lane i).state = laneActive ∨ (c.lane i).state = lanePaused
  · have hwork := Chip.LaneWork.degradeLane c i cause tell hlive
    refine ⟨hwork.swaps, hwork.agents, fun key hkey => ?_⟩
    rw [hwork.reg key (hkey.trans (by decide)), Chip.reg_bump, if_neg (by omega)]
  · have hstays : c.degradeLane i cause tell = c := if_pos (by simpa using hlive)
    rw [hstays]
    exact ⟨rfl, rfl, fun _ _ => rfl⟩

theorem Chip.LasersStand.foldl_degradeLane (c : Chip) (cause : Nat) (tell : Bool) (l : List Nat) :
    LasersStand c (l.foldl (fun c i => c.degradeLane i cause tell) c) :=
  List.foldlRecOn (motive := LasersStand c) l _ ⟨rfl, rfl, fun _ _ => rfl⟩ fun d hd i _ =>
    have hnext := degradeLane d i cause tell
    ⟨hnext.swaps.trans hd.swaps, hnext.agents.trans hd.agents, fun key hkey => (hnext.reg key hkey).trans (hd.reg key hkey)⟩

/-- Lanes changed in place. -/
theorem Chip.foldl_updLane_shape (g : Lane → Lane) (l : List Nat) (c : Chip) :
    ∃ la, l.foldl (fun c i => c.updLane i g) c = { c with lanes := la } :=
  List.foldlRecOn (motive := fun d : Chip => ∃ la, d = { c with lanes := la }) l _ ⟨_, rfl⟩ fun d ⟨_, hd⟩ i _ =>
    ⟨(d.updLane i g).lanes, by rw [hd]; rfl⟩

/-! ### A source that fails at once (R283, R285) -/

theorem Chip.seek_shape (c : Chip) (core inst : Nat) (start : W32) (half full : Bool) :
    ∃ lo, c.seek core inst start half full = { c with loops := lo } := by
  unfold Chip.seek
  extract_lets origin
  split <;> exact ⟨_, rfl⟩

/-- A free spare is tuned to the wavelength. -/
theorem Chip.startSwap_tunes {c : Chip} {o n x : Nat} (abrupt : Bool) (hfree : c.freeSpare o = some x) (hnone : c.swapOf o n = none)
    (hup : c.supDown = false) : ∃ lo, c.startSwap o n abrupt =
      { c.setReg (spareKey o x) n with loops := lo, swaps := c.swaps ++ [{ src := o, wave := n, spare := x, abrupt := abrupt }] } := by
  obtain ⟨lo, hseek⟩ := (c.setReg (spareKey o x) n).seek_shape 10 (18 * o + (16 + x))
    ((c.setReg (spareKey o x) n).loop 10 (18 * o + (16 + x))).output false true
  refine ⟨lo, ?_⟩
  unfold Chip.startSwap
  rw [hnone]
  simp only [hup, Bool.false_eq_true, if_false, hfree, Chip.seekLaser, hseek]

section
variable {o n x : Nat} {c : Chip} (hn : n < 16) (ho : o < 10) (hfree : c.freeSpare o = some x)
  (hown : (List.range 2).find? (fun x => c.reg (spareKey o x) = n + 0x20) = none) (hnone : c.swapOf o n = none) (hup : c.supDown = false)
include hn ho hfree hown hnone hup

theorem Chip.abruptFailure_spec : (c.abruptFailure o n).reg (laserKey o n) = 3 ∧ (c.abruptFailure o n).reg (spareKey o x) = n ∧
    (c.abruptFailure o n).swaps = c.swaps ++ [{ src := o, wave := n, spare := x, abrupt := true }] := by
  set failed := c.setReg (laserKey o n) 3 with hfailed
  set left := (failed.fedLanes o n).foldl (fun c i => c.degradeLane i causeLock true) failed with hleft
  have hstand : Chip.LasersStand failed left := Chip.LasersStand.foldl_degradeLane ..
  have hspare : ∀ x < 2, left.reg (spareKey o x) = c.reg (spareKey o x) := fun x hx =>
    (hstand.reg _ (spareKey_lt ho hx)).trans (Chip.reg_setReg_other _ _ (laserKey_ne_spareKey o hn).symm)
  have hfree' : left.freeSpare o = some x :=
    (List.find?_congr fun x hx => by rw [hspare x (List.mem_range.mp hx)]).trans hfree
  have hswaps : left.swaps = c.swaps := hstand.swaps
  have hnone' : left.swapOf o n = none := by rw [Chip.swapOf, hswaps]; exact hnone
  have hup' : left.supDown = false := by rw [Chip.supDown, hstand.agents]; exact hup
  obtain ⟨lo, hstart⟩ := Chip.startSwap_tunes true hfree' hnone' hup'
  have hx : x < 2 := List.mem_range.mp (List.mem_of_find?_eq_some hfree)
  have htuned : (left.startSwap o n true).swapOf o n = some { src := o, wave := n, spare := x, abrupt := true } := by
    rw [Chip.swapOf, hswaps] at hnone'
    rw [hstart, Chip.swapOf, hswaps, List.find?_append, hnone']
    simp
  have hfails : c.abruptFailure o n = left.startSwap o n true := by
    unfold Chip.abruptFailure
    rw [hown]
    simp only [← hfailed, ← hleft, htuned]
    rfl
  have hreg : ∀ key, (left.startSwap o n true).reg key = (left.setReg (spareKey o x) n).reg key := fun key => by rw [hstart]; rfl
  rw [hfails, hreg, hreg]
  refine ⟨?_, ?_, by rw [hstart, hswaps]⟩
  · rw [Chip.reg_setReg_other _ _ (laserKey_ne_spareKey o hn), hstand.reg _ (laserKey_lt ho hn), hfailed, Chip.reg_setReg_same]
    rfl
  · rw [Chip.reg_setReg_same, Nat.mod_eq_of_lt (by omega)]

end

/-! ### A spare that locks (R284, R285) -/

/-- The combiner turns the spare on, and moves no counter. -/
theorem Chip.combiner_spec (c : Chip) {w : Swap} (hsrc : w.src < 10) (hwave : w.wave < 16) (hspare : w.spare < 2) :
    (c.combiner w).reg (spareKey w.src w.spare) = w.wave + 0x20 ∧
    (∀ key, Obj.CNT_LANE_DEGRADES ≤ key → (c.combiner w).reg key = c.reg key) ∧ (c.combiner w).swaps = c.swaps := by
  unfold Chip.combiner
  extract_lets old c1
  have hoff : (∀ key, Obj.CNT_LANE_DEGRADES ≤ key → c1.reg key = c.reg key) ∧ c1.swaps = c.swaps := by
    unfold c1 old
    split
    next x hx =>
      have hlt := spareKey_lt hsrc (List.mem_range.mp (List.mem_of_find?_eq_some hx))
      exact ⟨fun key hkey => Chip.reg_setReg_other c 0xFE (by omega), rfl⟩
    next =>
      have hlt := laserKey_lt hsrc hwave
      exact ⟨fun key hkey => Chip.reg_setReg_other c 2 (by omega), rfl⟩
  have hlt := spareKey_lt hsrc hspare
  refine ⟨?_, fun key hkey => ?_, hoff.2⟩
  · rw [Chip.reg_setReg_same, Nat.mod_eq_of_lt (by omega)]
  · rw [Chip.reg_setReg_other _ _ (by omega), hoff.1 key hkey]

/-- A swap that has switched: counted, reported, and gone from the list. -/
theorem Chip.swapDone_spec (c : Chip) (w : Swap) : (c.swapDone w).swaps = c.swaps.filter (fun v => !sameSwap v w) ∧
    (c.swapDone w).said 0x0808 0xFF [] ∧ ∀ key < Obj.CNT_CAIRN_LOST, (c.swapDone w).reg key =
      if key = Obj.CNT_LASER_SWAPS then (c.reg Obj.CNT_LASER_SWAPS + 1) % 2 ^ 64 else c.reg key := by
  refine ⟨?_, ?_, fun key hkey => ?_⟩
  · exact congrArg (List.filter _) (Chip.raise_swaps ..)
  · exact Chip.said_of_streams (d := (c.bump Obj.CNT_LASER_SWAPS).raiseMod 0x0808 []) rfl (Chip.raiseMod_said ..)
  · exact ((c.bump Obj.CNT_LASER_SWAPS).raise_reg_of_lt 0x0808 0xFF [] hkey).trans (Chip.reg_bump ..)

/-- A spare that locks after an abrupt failure feeds its wavelength at once. -/
theorem Chip.switchNow_spec (c : Chip) {w : Swap} (hsrc : w.src < 10) (hwave : w.wave < 16) (hspare : w.spare < 2) :
    (c.switchNow w).reg (spareKey w.src w.spare) = w.wave + 0x20 ∧ (∀ v ∈ (c.switchNow w).swaps, sameSwap v w = false) ∧
    (c.switchNow w).reg Obj.CNT_LASER_SWAPS = (c.reg Obj.CNT_LASER_SWAPS + 1) % 2 ^ 64 ∧ (c.switchNow w).said 0x0808 0xFF [] := by
  unfold Chip.switchNow
  extract_lets n c1
  obtain ⟨hfeeds, hcounters, -⟩ := c1.combiner_spec hsrc hwave hspare
  obtain ⟨hswaps, hsaid, hreg⟩ := ((c1.combiner w).count modInst Obj.CNT_UNANNOUNCED_SWAPS n).swapDone_spec w
  have hlt := spareKey_lt hsrc hspare
  have hkeys : Obj.CNT_LANE_DEGRADES < Obj.CNT_LASER_SWAPS ∧ Obj.CNT_LASER_SWAPS < Obj.CNT_UNANNOUNCED_SWAPS ∧
      Obj.CNT_UNANNOUNCED_SWAPS < Obj.CNT_CAIRN_LOST := by decide
  have hkept : c1.reg Obj.CNT_LASER_SWAPS = c.reg Obj.CNT_LASER_SWAPS := by
    obtain ⟨_, hlanes⟩ := Chip.foldl_updLane_shape (fun x => { x with swapAt := none, swapAcked := false, swapTries := 0 })
      (c.fedLanes w.src w.wave) c
    rw [show c1 = _ from hlanes]
    rfl
  refine ⟨?_, fun v hv => ?_, ?_, hsaid⟩
  · rw [hreg _ (by omega), if_neg (by omega), Chip.reg_count, if_neg (by omega), hfeeds]
  · rw [hswaps] at hv
    simpa using (List.mem_filter.mp hv).2
  · rw [hreg _ (by omega), if_pos rfl, Chip.reg_count, if_neg (by omega), hcounters _ (by omega), hkept]

/-- Announcing a window keeps the objects, and the swap in the list with its stage. -/
theorem Chip.announce_spec {c : Chip} {w : Swap} (hw : w ∈ c.swaps) : (c.announce w).regs = c.regs ∧
    ∃ v ∈ (c.announce w).swaps, sameSwap v w = true ∧ v.stage = w.stage := by
  unfold Chip.announce
  split
  · exact ⟨rfl, w, hw, sameSwap_self w, rfl⟩
  extract_lets n c1
  have hset : { w with window := n } ∈ c1.swaps := List.mem_map.mpr ⟨w, hw, if_pos (by simp [sameSwap])⟩
  refine List.foldlRecOn (motive := fun d : Chip => d.regs = c.regs ∧ ∃ v ∈ d.swaps, sameSwap v w = true ∧ v.stage = w.stage) _ _
    ⟨rfl, _, hset, by simp [sameSwap], rfl⟩ fun d hd i _ => ?_
  split
  · exact hd
  · obtain ⟨_, _, hsent⟩ := Chip.message_shape _ _ 3 msgSwapAnnounce [(1, i), (8, n)]
    rw [hsent]
    exact hd

section
variable {source : Fin 10} {spare : Fin 2} {w : Swap} {s : State}
  (hfound : s.chip.swaps.find? (fun w => w.src = source.val && w.spare = spare.val && w.stage = 0) = some w) (hwave : w.wave < 16)
include hfound

/-- The swap that a locked spare was tuned for. -/
theorem spareLocked_swap : (w.src = source.val ∧ w.spare = spare.val) ∧ w ∈ s.chip.swaps := by
  have hmatch := List.find?_some hfound
  simp only [Bool.and_eq_true, decide_eq_true_eq] at hmatch
  exact ⟨hmatch.1, List.mem_of_find?_eq_some hfound⟩

theorem spareLocked_eq : s.chip.spareLocked source.val spare.val =
    let locked := (s.chip.setSwap { w with stage := 1 }).setReg (spareKey source.val spare.val) (w.wave + 0x10)
    if w.abrupt then locked.switchNow { w with stage := 1 } else locked.announce { w with stage := 1 } := by
  unfold Chip.spareLocked
  rw [hfound]

include hwave

theorem spareLocked_abrupt (habrupt : w.abrupt = true) : Ends (.spareLocked source spare) s (fun t =>
    t.chip.reg (spareKey source.val spare.val) = w.wave + 0x20 ∧ (∀ v ∈ t.chip.swaps, sameSwap v w = false) ∧
    t.chip.reg Obj.CNT_LASER_SWAPS = (s.chip.reg Obj.CNT_LASER_SWAPS + 1) % 2 ^ 64 ∧ t.chip.said 0x0808 0xFF [] ∧ t.mem = s.mem) := by
  obtain ⟨⟨hsrc, hspare⟩, -⟩ := spareLocked_swap hfound
  obtain ⟨hfeeds, hgone, hcount, hsaid⟩ := Chip.switchNow_spec
    ((s.chip.setSwap { w with stage := 1 }).setReg (spareKey source.val spare.val) (w.wave + 0x10)) (w := { w with stage := 1 })
    (by rw [hsrc]; exact source.isLt) hwave (by rw [hspare]; exact spare.isLt)
  have hlt := spareKey_lt source.isLt spare.isLt
  rw [Chip.reg_setReg_other _ _ (by simp only [Obj.CNT_LASER_SWAPS, Obj.CNT_LANE_DEGRADES] at hlt ⊢; omega)] at hcount
  have hkey : spareKey w.src w.spare = spareKey source.val spare.val := by rw [hsrc, hspare]
  refine ends_on rfl ((spareLocked_eq hfound).trans (if_pos habrupt)) fun t hchip hmem => ?_
  rw [hchip]
  exact ⟨(congrArg (Chip.reg _) hkey.symm).trans hfeeds, hgone, hcount, hsaid, hmem⟩

theorem spareLocked_fade (hfade : w.abrupt = false) : Ends (.spareLocked source spare) s (fun t =>
    t.chip.reg (spareKey source.val spare.val) = w.wave + 0x10 ∧ (∃ v ∈ t.chip.swaps, sameSwap v w = true ∧ v.stage = 1) ∧
    t.mem = s.mem) := by
  have hin : { w with stage := 1 } ∈ (s.chip.setSwap { w with stage := 1 }).swaps :=
    List.mem_map.mpr ⟨w, (spareLocked_swap hfound).2, if_pos (by simp [sameSwap])⟩
  obtain ⟨hregs, hwaits⟩ := Chip.announce_spec
    (c := (s.chip.setSwap { w with stage := 1 }).setReg (spareKey source.val spare.val) (w.wave + 0x10)) hin
  refine ends_on rfl ((spareLocked_eq hfound).trans (if_neg (by rw [hfade]; decide))) fun t hchip hmem => ?_
  rw [hchip, Chip.reg_of_same_regs hregs, Chip.reg_setReg_same]
  exact ⟨Nat.mod_eq_of_lt (by omega), hwaits, hmem⟩

end

/-! ### A spare that fails, and acknowledgements that do not come (R284, R286) -/

theorem spareFailed_idle {source : Fin 10} {spare : Fin 2} {s : State}
    (hnone : s.chip.swaps.find? (fun w => w.src = source.val && w.spare = spare.val && !w.opened) = none) :
    Ends (.spareFailed source spare) s (fun t => t = s.on (fun c => c.setReg (spareKey source.val spare.val) 0xFE)) := by
  have hfails : s.chip.spareFailed source.val spare.val = s.chip.setReg (spareKey source.val spare.val) 0xFE := by
    unfold Chip.spareFailed
    rw [hnone]
  exact ⟨_, rfl, congrArg (fun c : Chip => { s with chip := c }) hfails⟩

theorem swapAckWaitExpired_gives_up {source : Fin 10} {wave : Fin 16} {link : Fin 64} {w : Swap} {i : Nat} {s : State}
    (hswap : s.chip.swapOf source.val wave.val = some w) (hfed : s.chip.fedLanes source.val wave.val = [i])
    (hlink : (s.chip.lane i).link = some link.val) (hacked : (s.chip.lane i).swapAcked = false)
    (htries : s.chip.reg Obj.SWAP_ACK_WAIT ≤ (s.chip.lane i).swapTries) : Ends (.swapAckWaitExpired source wave link) s (fun t =>
      (t.chip.lane i).swapAt = none ∧ (t.chip.lane i).swapTries = 0 ∧
      (∃ v ∈ t.chip.swaps, sameSwap v w = true ∧ i ∈ v.unannounced) ∧ t.mem = s.mem) := by
  have hover : s.chip.ackWaitOver source.val wave.val link.val =
      (s.chip.updLane i fun x => { x with swapAt := none, swapTries := 0 }).setSwap { w with unannounced := w.unannounced ++ [i] } := by
    unfold Chip.ackWaitOver
    rw [hswap]
    simp [hfed, hlink, hacked, htries]
  have hin : { w with unannounced := w.unannounced ++ [i] } ∈ (s.chip.setSwap { w with unannounced := w.unannounced ++ [i] }).swaps :=
    List.mem_map.mpr ⟨w, List.mem_of_find?_eq_some hswap, if_pos (by simp [sameSwap])⟩
  have hlane : ((s.chip.updLane i fun x => { x with swapAt := none, swapTries := 0 }).setSwap
      { w with unannounced := w.unannounced ++ [i] }).lane i = { s.chip.lane i with swapAt := none, swapTries := 0 } :=
    s.chip.lane_updLane_same i fun x => { x with swapAt := none, swapTries := 0 }
  refine ends_on rfl hover fun t hchip hmem => ?_
  rw [hchip, hlane]
  exact ⟨rfl, rfl, ⟨_, hin, by simp [sameSwap], by simp⟩, hmem⟩

/-! ### The end of a window (R255, R284) -/

/-- The lanes that a source feeds go by its plan and by the engines that stand in. -/
theorem Chip.fedLanes_congr {c d : Chip} (hblobs : d.blobs = c.blobs) (hengines : d.engines = c.engines)
    (hstate : ∀ k < 8, d.reg (Obj.ENGINE_STATE + k) = c.reg (Obj.ENGINE_STATE + k)) (o n : Nat) : d.fedLanes o n = c.fedLanes o n := by
  have hsource : d.sourceEngine o = c.sourceEngine o := by
    unfold Chip.sourceEngine Chip.coreEngine
    split
    next ho => rw [Chip.laneCore_congr hengines hstate ho]
    next => exact List.find?_congr fun k hk => by rw [Chip.laneCore_congr hengines hstate (List.mem_range.mp hk)]
  unfold Chip.fedLanes
  rw [hsource]
  split
  · rfl
  · simp only [Chip.planByte_congr hblobs hengines]

theorem Tbl.mem_put {α : Type} {t : Tbl α} {k : Nat} {v : α} {e : Nat × α} (h : e ∈ Tbl.put t k v) : e = (k, v) ∨ e ∈ t := by
  induction t with
  | nil => exact .inl (List.mem_singleton.mp h)
  | cons d t ih =>
    obtain ⟨j, u⟩ := d
    unfold Tbl.put at h
    split at h
    · exact List.mem_cons.mp h
    split at h
    · exact (List.mem_cons.mp h).imp_right (List.mem_cons_of_mem _)
    · rcases List.mem_cons.mp h with rfl | hrest
      · exact .inr List.mem_cons_self
      · exact (ih hrest).imp_right (List.mem_cons_of_mem _)

theorem Tbl.mem_of_find {α : Type} {t : Tbl α} {k : Nat} {v : α} (h : Tbl.find t k = some v) : (k, v) ∈ t := by
  induction t with
  | nil => cases h
  | cons e t ih =>
    obtain ⟨j, u⟩ := e
    unfold Tbl.find at h
    split at h
    next hk => rw [hk, Option.some.inj h]; exact List.mem_cons_self
    next => exact List.mem_cons_of_mem _ (ih h)

/-- No window that a peer has announced falls in this frame (R255). -/
def Chip.NoPeerWindow (c : Chip) : Prop := ∀ p ∈ c.lanes, p.2.peerSwapAt ≠ some c.frame

theorem Chip.NoPeerWindow.updLane {c : Chip} (h : c.NoPeerWindow) (i : Nat) {g : Lane → Lane} (hg : ∀ x, (g x).peerSwapAt = x.peerSwapAt) :
    (c.updLane i g).NoPeerWindow := by
  intro p hp
  rcases Tbl.mem_put hp with rfl | hold
  · show (g (c.lane i)).peerSwapAt ≠ some c.frame
    rw [hg, Chip.lane, Tbl.get]
    cases hfound : Tbl.find c.lanes i with
    | none => simp
    | some x => exact h _ (Tbl.mem_of_find hfound)
  · exact h p hold

theorem Chip.NoPeerWindow.peers {c : Chip} (h : c.NoPeerWindow) : c.lanes.filter (fun p => p.2.peerSwapAt = some c.frame) = [] :=
  List.filter_eq_nil_iff.mpr fun p hp => by simpa using h p hp

/-- A lane whose window is over is ACTIVE (R255). -/
def Lane.resumed (x : Lane) (frame : Nat) : Lane :=
  { x with state := laneActive, swapAt := none, swapAcked := false, windowAt := some frame }

/-- A lane that has no part in a swap any more. -/
def Lane.unswapped (x : Lane) : Lane := { x with swapAt := none, swapAcked := false, swapTries := 0 }

/-- The module after the window of a swap with one paused lane is over. -/
def Chip.windowOver (c : Chip) (w : Swap) (i : Nat) : Chip :=
  (((c.bump (Obj.CNT_SWAP_WINDOWS + i)).updLane i fun x => x.resumed c.frame).updLane i Lane.unswapped).swapDone w

/-- Flits that waited for a window's end go out: links and messages alone change. -/
theorem Chip.foldl_pump_shape (l : List Nat) (c : Chip) : ∃ ls ou,
    l.foldl (fun c l => if (c.link l).usable then Chip.pumpLink l ((c.link l).queue.length) c else c) c = { c with links := ls, out := ou } :=
  List.foldlRecOn (motive := fun d : Chip => ∃ ls ou, d = { c with links := ls, out := ou }) l _ ⟨_, _, rfl⟩ fun d ⟨_, _, hd⟩ m _ => by
    obtain ⟨_, _, hpumped⟩ := (Chip.Pumped.pumpLink m (d.link m).queue.length d).shape
    split
    · exact ⟨_, _, by rw [hpumped, hd]⟩
    · exact ⟨_, _, hd⟩

/-- Engines that hold no STEER_CONTROL write have nothing to accept (R276). -/
theorem foldl_no_held (f : Chip → Nat → Chip) (l : List Nat) (c : Chip) (hheld : ∀ k ∈ l, (c.engine k).held = []) :
    l.foldl (fun c k => if (c.engine k).held.isEmpty || c.windowOn k then c else f c k) c = c :=
  List.foldlRecOn (motive := fun d => d = c) l _ rfl fun d hd k hk => by
    rw [hd]
    exact if_pos (by rw [hheld k hk]; rfl)

section
variable {c : Chip} {w : Swap} {i : Nat} (hswaps : c.swaps = [w]) (hopened : w.opened = true) (hfed : c.fedLanes w.src w.wave = [i])
  (hpaused : (c.lane i).state = lanePaused) (hpeers : c.NoPeerWindow) (hheld : ∀ k < 8, (c.engine k).held = [])

theorem Chip.windowOver_shape (c : Chip) (w : Swap) (i : Nat) : ∃ la sw st cr rg ou lf, c.windowOver w i =
    { c with lanes := la, swaps := sw, streams := st, cairn := cr, regs := rg, out := ou, laserFlags := lf } := by
  obtain ⟨_, _, _, _, h, -⟩ := ((((c.bump (Obj.CNT_SWAP_WINDOWS + i)).updLane i fun x => x.resumed c.frame).updLane i
    Lane.unswapped).bump Obj.CNT_LASER_SWAPS).raise_shape 0x0808 0xFF []
  exact ⟨_, _, _, _, _, _, _, by rw [Chip.windowOver, Chip.swapDone, Chip.raiseMod, h]; rfl⟩

theorem Chip.windowOver_lanes (c : Chip) (w : Swap) (i : Nat) : (c.windowOver w i).lanes =
    (((c.bump (Obj.CNT_SWAP_WINDOWS + i)).updLane i fun x => x.resumed c.frame).updLane i Lane.unswapped).lanes :=
  Chip.raise_lanes ..

include hswaps hopened hfed hpaused hpeers hheld

/-- With one swap in its window and nothing else to do, the window's end is the end of that swap. -/
theorem Chip.windowEnd_one : ∃ ls ou, c.windowEnd [] = { c.windowOver w i with links := ls, out := ou } := by
  set resumed := (c.bump (Obj.CNT_SWAP_WINDOWS + i)).updLane i fun x => x.resumed c.frame with hresumed
  have hfed' : resumed.fedLanes w.src w.wave = [i] := by
    refine (Chip.fedLanes_congr (c := c) (d := resumed) rfl rfl (fun k hk => ?_) _ _).trans hfed
    refine (Chip.reg_bump c (Obj.CNT_SWAP_WINDOWS + i) _).trans (if_neg ?_)
    simp only [Obj.ENGINE_STATE, Obj.CNT_SWAP_WINDOWS]
    omega
  have hlanes : (c.fedLanes w.src w.wave).filter (fun i => (c.lane i).state = lanePaused) = [i] := by simp [hfed, hpaused]
  obtain ⟨_, _, _, _, _, _, _, hshape⟩ := c.windowOver_shape w i
  unfold Chip.windowEnd
  extract_lets mine c1 peers c2 c3
  have hmine : mine = [w] := by simp [mine, hswaps, hopened]
  have hc1 : c1 = c.windowOver w i := by
    unfold c1
    rw [hmine, List.foldl_cons, List.foldl_nil]
    dsimp only
    rw [hlanes, List.foldl_cons, List.foldl_nil]
    simp only [List.contains_nil, Bool.false_eq_true, if_false]
    change (List.foldl _ resumed (resumed.fedLanes w.src w.wave)).swapDone w = _
    rw [hfed']
    rfl
  have hc2 : c2 = c.windowOver w i := by
    have hnone : peers = [] := by
      have hstill : (c.windowOver w i).NoPeerWindow := by
        have hbefore := (Chip.NoPeerWindow.updLane (c := c.bump (Obj.CNT_SWAP_WINDOWS + i)) hpeers i (g := fun x => x.resumed c.frame)
          fun _ => rfl).updLane i (g := Lane.unswapped) fun _ => rfl
        intro p hp
        rw [Chip.windowOver_lanes] at hp
        rw [show (c.windowOver w i).frame = c.frame from by rw [hshape]]
        exact hbefore p hp
      unfold peers
      rw [hc1, hstill.peers]
      rfl
    unfold c2
    rw [hnone, hc1]
    rfl
  obtain ⟨ls, ou, hc3⟩ := Chip.foldl_pump_shape (List.range 64) (c.windowOver w i)
  have hengines : c3 = { c.windowOver w i with links := ls, out := ou } := by
    unfold c3
    rw [hc2, hc3]
  refine ⟨ls, ou, ?_⟩
  rw [← hengines]
  refine foldl_no_held _ (List.range 8) c3 fun k hk => ?_
  rw [hengines, hshape]
  exact hheld k (List.mem_range.mp hk)

end

theorem swapWindowEnd_closes {w : Swap} {i : Nat} {s : State} (hswaps : s.chip.swaps = [w]) (hopened : w.opened = true)
    (hfed : s.chip.fedLanes w.src w.wave = [i]) (hi : i < 256) (hpaused : (s.chip.lane i).state = lanePaused)
    (hpeers : s.chip.NoPeerWindow) (hheld : ∀ k < 8, (s.chip.engine k).held = []) : Ends (.swapWindowEnd []) s (fun t =>
      (t.chip.lane i).state = laneActive ∧ (t.chip.lane i).swapAt = none ∧ t.chip.swaps = [] ∧
      t.chip.reg (Obj.CNT_SWAP_WINDOWS + i) = (s.chip.reg (Obj.CNT_SWAP_WINDOWS + i) + 1) % 2 ^ 64 ∧
      t.chip.reg Obj.CNT_LASER_SWAPS = (s.chip.reg Obj.CNT_LASER_SWAPS + 1) % 2 ^ 64 ∧ t.mem = s.mem) := by
  obtain ⟨ls, ou, hend⟩ := Chip.windowEnd_one hswaps hopened hfed hpaused hpeers hheld
  set before := ((s.chip.bump (Obj.CNT_SWAP_WINDOWS + i)).updLane i fun x => x.resumed s.chip.frame).updLane i Lane.unswapped with hbefore
  obtain ⟨hgone, -, hreg⟩ := before.swapDone_spec w
  have hover : s.chip.windowOver w i = before.swapDone w := rfl
  have hcounted : ∀ key, before.reg key = if key = Obj.CNT_SWAP_WINDOWS + i then (s.chip.reg (Obj.CNT_SWAP_WINDOWS + i) + 1) % 2 ^ 64
      else s.chip.reg key := Chip.reg_bump s.chip (Obj.CNT_SWAP_WINDOWS + i)
  have hkeys : Obj.CNT_SWAP_WINDOWS + i < Obj.CNT_LASER_SWAPS ∧ Obj.CNT_LASER_SWAPS < Obj.CNT_CAIRN_LOST :=
    ⟨by simp only [Obj.CNT_SWAP_WINDOWS, Obj.CNT_LASER_SWAPS]; omega, by decide⟩
  refine ends_on (c := { before.swapDone w with links := ls, out := ou }) rfl (hover ▸ hend) fun t hchip hmem => ?_
  have hlane : t.chip.lane i = ((s.chip.lane i).resumed s.chip.frame).unswapped := by
    have hlanes : t.chip.lanes = before.lanes := (congrArg Chip.lanes hchip).trans (s.chip.windowOver_lanes w i)
    rw [Chip.lane_of_lanes hlanes, hbefore, Chip.lane_updLane_same, Chip.lane_updLane_same]
    rfl
  have hregs : ∀ key, t.chip.reg key = (before.swapDone w).reg key := fun key => by rw [hchip]; rfl
  rw [hlane, hregs, hregs, hreg _ (by omega), hreg _ hkeys.2, if_neg (by omega), if_pos rfl, hcounted, hcounted, if_pos rfl, if_neg (by omega)]
  refine ⟨rfl, rfl, ?_, rfl, rfl, hmem⟩
  rw [hchip]
  refine hgone.trans ?_
  rw [show before.swaps = [w] from hswaps]
  simp [sameSwap_self]

/-- Settles O29: the failed source, the locked spare in its two uses, the failed spare, the missing acknowledgements, and the window's
end. -/
theorem laserSwaps : Obligations.LaserSwaps := by
  unfold Obligations.LaserSwaps
  refine ⟨fun source wave x s hfree hown hnone hup => ?failure, fun source spare w s hfound hwave => ?locked, fun source spare s => ?spare,
    fun source wave link w i s => ?acks, fun w i s hswaps hopened hfed hi hpaused hpeers hheld => ?window⟩
  case failure =>
    obtain ⟨hlaser, hspare, hswaps⟩ := Chip.abruptFailure_spec wave.isLt source.isLt hfree hown hnone hup
    refine ends_on rfl rfl fun t hchip hmem => ?_
    rw [hchip]
    exact ⟨hlaser, hspare, hswaps, hmem⟩
  case locked => exact ⟨spareLocked_abrupt hfound hwave, spareLocked_fade hfound hwave⟩
  case spare => exact spareFailed_idle
  case acks => exact swapAckWaitExpired_gives_up
  case window => exact swapWindowEnd_closes hswaps hopened hfed hi hpaused hpeers (fun k hk => hheld k hk)

end Sys2Proof.Machine
end

section
/-! PROOF. Work on light paths (R272, R277–R279): what lanes that are taken, Col pairs that move, swaps that are cancelled and calibration
runs that are rejected leave as it was. -/
namespace Sys2Proof.Machine

/-! ### Lanes that are taken from their links -/

theorem Chip.linkLost_extNext (c : Chip) (l : Nat) : (c.linkLost l).extNext = c.extNext := by
  unfold Chip.linkLost
  extract_lets x
  split
  · rfl
  split
  · obtain ⟨_, _, _, hquiet⟩ := (c.linkEvent l 0x0702 []).quietLanes_shape l
    have hgone : (c.linkGone l).extNext = ((c.linkEvent l 0x0702 []).quietLanes l).extNext := rfl
    rw [hgone, hquiet]
    exact Chip.raise_extNext ..
  · rfl

theorem Chip.takeLane_extNext (c : Chip) (i st cause : Nat) (tell : Bool) : (c.takeLane i st cause tell).extNext = c.extNext := by
  unfold Chip.takeLane
  split
  · rfl
  next l _ =>
    extract_lets c1 c2
    rw [c2.linkLost_extNext l]
    unfold c2
    split
    · obtain ⟨_, _, hsent⟩ := c1.message_shape l 3 msgLaneDrop [(1, i), (1, cause)]
      rw [hsent]
      rfl
    · rfl

/-- A lane that fails leaves its bit of LANE_MASK to the next boundary, and nothing else. -/
theorem Chip.failLane_extNext (c : Chip) (i : Nat) {key : Nat} (hkey : key < Obj.LANE_MASK) :
    Tbl.find (c.failLane i).extNext key = Tbl.find c.extNext key := by
  unfold Chip.failLane
  extract_lets x c1 c2 c3 c4
  have hfailed : Tbl.find c4.extNext key = Tbl.find c.extNext key := by
    rw [show c4.extNext = c2.extNext from (Chip.raise_extNext ..).trans (c2.calLeave_extNext i)]
    exact Tbl.find_put_other _ _ (by omega)
  split
  · rfl
  split
  next l _ => rw [c4.linkLost_extNext l, hfailed]
  · exact hfailed

/-- Work on lanes alone: nothing is left to the next boundary. -/
structure Chip.LanesTaken (c d : Chip) : Prop where
  work : LaneWork c d
  extNext : d.extNext = c.extNext

namespace Chip.LanesTaken

variable {b c d : Chip}

theorem refl (c : Chip) : LanesTaken c c := ⟨.refl c, rfl⟩

theorem trans (h : LanesTaken b c) (h' : LanesTaken c d) : LanesTaken b d := ⟨h.work.trans h'.work, h'.extNext.trans h.extNext⟩

theorem foldl {α : Type} {f : Chip → α → Chip} (hf : ∀ d a, LanesTaken d (f d a)) (l : List α) (c : Chip) : LanesTaken c (l.foldl f c) :=
  List.foldlRecOn l f (refl c) fun d hd a _ => hd.trans (hf d a)

theorem updLane (c : Chip) (i : Nat) (f : Lane → Lane) : LanesTaken c (c.updLane i f) := ⟨.updLane c i f, rfl⟩

theorem takeLane (c : Chip) (i st cause : Nat) (tell : Bool) : LanesTaken c (c.takeLane i st cause tell) :=
  ⟨.takeLane c i st cause tell, c.takeLane_extNext i st cause tell⟩

end Chip.LanesTaken

namespace Chip.LaneWork

variable {c d : Chip}

theorem engines (h : LaneWork c d) : d.engines = c.engines := by obtain ⟨_, _, _, _, _, _, _, _, rfl⟩ := h.shape; rfl
theorem colTarget (h : LaneWork c d) : d.colTarget = c.colTarget := by obtain ⟨_, _, _, _, _, _, _, _, rfl⟩ := h.shape; rfl

end Chip.LaneWork

/-! ### Col pairs that move (R272) -/

/-- A Col pair that is MOVING to a state. -/
def Chip.colMoving (c : Chip) (n target : Nat) : Chip :=
  { (c.setReg (Obj.COL_STATE + n) 3) with colTarget := Tbl.put c.colTarget n target }

/-- A pair that is where it should be, or on its way there, stays; another begins its move, and its lanes go DARK. -/
theorem Chip.moveColNow_cases (c : Chip) (n target : Nat) :
    c.moveColNow n target = c ∧
      (c.reg (Obj.COL_STATE + n) = target ∨ c.reg (Obj.COL_STATE + n) = 3 ∧ Tbl.get c.colTarget 0 n = target) ∨
    LanesTaken (c.colMoving n target) (c.moveColNow n target) := by
  unfold Chip.moveColNow
  extract_lets st c1 c2
  split
  next hthere => exact .inl ⟨rfl, by simpa [st] using hthere⟩
  next =>
    refine .inr (.foldl (fun d i => ?_) _ c2)
    extract_lets s
    split
    · exact .refl d
    · exact .takeLane d i _ _ _

theorem Chip.moveCol_cases (c : Chip) (n target : Nat) : c.moveCol n target = c ∨ LanesTaken (c.colMoving n target) (c.moveCol n target) := by
  unfold Chip.moveCol
  split
  · exact .inl rfl
  · exact (c.moveColNow_cases n target).imp_left And.left

/-! ### What work on light paths leaves as it was -/

/-- `d` is `c` after lanes, Col pairs, swaps and calibration runs have changed: the engines and the agents stand, and so do the objects
from COL_FORCE_BYPASS to NOTCH_TARGET and what the next boundary brings to the objects before LANE_MASK. -/
structure Chip.PathWork (c d : Chip) : Prop where
  engines : d.engines = c.engines
  agents : d.agents = c.agents
  reg : ∀ key, Obj.COL_FORCE_BYPASS ≤ key → key < Obj.LASER_STATE → d.reg key = c.reg key
  next : ∀ key < Obj.LANE_MASK, Tbl.find d.extNext key = Tbl.find c.extNext key

namespace Chip.PathWork

variable {b c d : Chip}

theorem refl (c : Chip) : PathWork c c := ⟨rfl, rfl, fun _ _ _ => rfl, fun _ _ => rfl⟩

theorem trans (h : PathWork b c) (h' : PathWork c d) : PathWork b d where
  engines := h'.engines.trans h.engines
  agents := h'.agents.trans h.agents
  reg key hlow hhigh := (h'.reg key hlow hhigh).trans (h.reg key hlow hhigh)
  next key hkey := (h'.next key hkey).trans (h.next key hkey)

theorem foldl {α : Type} {f : Chip → α → Chip} {l : List α} (hf : ∀ d, ∀ a ∈ l, PathWork d (f d a)) (c : Chip) :
    PathWork c (l.foldl f c) :=
  List.foldlRecOn l f (refl c) fun d hd a ha => hd.trans (hf d a ha)

theorem of_laneWork (h : LaneWork c d) (hnext : ∀ key < Obj.LANE_MASK, Tbl.find d.extNext key = Tbl.find c.extNext key) : PathWork c d where
  engines := h.engines
  agents := h.agents
  reg key _ hhigh := h.reg key (hhigh.trans (by decide))
  next := hnext

theorem of_lanesTaken (h : LanesTaken c d) : PathWork c d := of_laneWork h.work fun key _ => by rw [h.extNext]

theorem failLane (c : Chip) (i : Nat) : PathWork c (c.failLane i) := of_laneWork (.failLane c i) fun _ hkey => c.failLane_extNext i hkey

theorem setReg (c : Chip) {key : Nat} (v : Nat) (hkey : key < Obj.COL_FORCE_BYPASS ∨ Obj.LASER_STATE ≤ key) :
    PathWork c (c.setReg key v) where
  engines := rfl
  agents := rfl
  reg _ _ _ := Chip.reg_setReg_other c v (by omega)
  next _ _ := rfl

theorem raise (c : Chip) (ty part : Nat) (fs : List (Nat × Nat)) : PathWork c (c.raise ty part fs) :=
  of_lanesTaken ⟨.raise c ty part fs, Chip.raise_extNext ..⟩

/-- A pair that moves. -/
theorem moveCol (c : Chip) {n : Nat} (hn : n < 256) (target : Nat) : PathWork c (c.moveCol n target) := by
  rcases c.moveCol_cases n target with hstays | hmoves
  · rw [hstays]
    exact refl c
  · have hbegun : PathWork c (c.colMoving n target) :=
      have hset := setReg c (key := Obj.COL_STATE + n) 3 (.inl (by simp only [Obj.COL_STATE, Obj.COL_FORCE_BYPASS]; omega))
      ⟨hset.engines, hset.agents, hset.reg, hset.next⟩
    exact hbegun.trans (of_lanesTaken hmoves)

theorem moveEngineCols (c : Chip) {k : Nat} (hk : k < 8) :
    PathWork c ([2 * k, 2 * k + 1].foldl (fun c n => c.moveCol n (c.colWanted n)) c) :=
  foldl (fun d n hn => moveCol d (by simp only [List.mem_cons, List.not_mem_nil, or_false] at hn; omega) _) c

/-- A run that ends with its unit. -/
theorem calReject (c : Chip) (g : Nat) : PathWork c (c.calReject g) := by
  unfold Chip.calReject
  split
  · exact refl c
  have hstate : PathWork c (c.setCal g calIdle {}) :=
    have hset := setReg c (key := Obj.CAL_STATE + g) calIdle (.inr (by simp only [Obj.LASER_STATE, Obj.CAL_STATE]; omega))
    ⟨hset.engines, hset.agents, hset.reg, hset.next⟩
  have htemp := hstate.trans (setReg _ (key := Obj.CAL_LAST_TEMP + g) (c.calRun g).temp.toNat
    (.inr (by simp only [Obj.LASER_STATE, Obj.CAL_LAST_TEMP]; omega)))
  have hresult := htemp.trans (setReg _ (key := Obj.CAL_LAST_RESULT + g) calRejected
    (.inr (by simp only [Obj.LASER_STATE, Obj.CAL_LAST_RESULT]; omega)))
  have hframe := hresult.trans (setReg _ (key := Obj.CAL_LAST_FRAME + g) c.frame
    (.inr (by simp only [Obj.LASER_STATE, Obj.CAL_LAST_FRAME]; omega)))
  exact hframe.trans (setReg _ (key := Obj.CNT_CAL_REJECTED + g) _ (.inr (by simp only [Obj.LASER_STATE, Obj.CNT_CAL_REJECTED]; omega)))

/-- Swaps that are cancelled: their spares are free, and their lanes have no window. -/
theorem cancelSwaps (c : Chip) (o : Nat) : PathWork c (c.cancelSwaps o) := by
  unfold Chip.cancelSwaps
  extract_lets ws c1 c2
  have hspares : PathWork c c1 := foldl (fun d w _ => setReg d _
    (.inr (by simp only [spareKey, atIdx, Obj.LASER_STATE, Obj.SPARE_STATE]; omega))) c
  have hlanes : LanesTaken c1 c2 := .foldl (fun d w => .foldl (fun e i => .updLane e i _) _ d) ws c1
  have hall : PathWork c c2 := hspares.trans (of_lanesTaken hlanes)
  exact ⟨hall.engines, hall.agents, hall.reg, hall.next⟩

end Chip.PathWork

end Sys2Proof.Machine
end

section
/-! PROOF. Col pairs (R272): pairs that are forced to BYPASS, and a move that ends. -/
namespace Sys2Proof.Machine

theorem State.AnsweredFrom.colTarget {u t : State} {r : Req} {key code : Nat} (h : u.AnsweredFrom t r key code) :
    t.chip.colTarget = u.chip.colTarget := by
  obtain ⟨_, _, h⟩ := h.shape
  rw [h]

/-! ### Pairs that are forced to BYPASS -/

/-- `d` is `c` after work on light paths that leaves Col pair `n` where it was. -/
structure Chip.PairKept (n : Nat) (c d : Chip) : Prop where
  path : PathWork c d
  state : d.reg (Obj.COL_STATE + n) = c.reg (Obj.COL_STATE + n)
  target : Tbl.find d.colTarget n = Tbl.find c.colTarget n

namespace Chip.PairKept

variable {n : Nat} {b c d : Chip}

theorem refl (n : Nat) (c : Chip) : PairKept n c c := ⟨.refl c, rfl, rfl⟩

theorem trans (h : PairKept n b c) (h' : PairKept n c d) : PairKept n b d :=
  ⟨h.path.trans h'.path, h'.state.trans h.state, h'.target.trans h.target⟩

theorem supDown (h : PairKept n c d) : d.supDown = c.supDown := by rw [Chip.supDown, h.path.agents, Chip.supDown]

end Chip.PairKept

section
variable {c : Chip} {n : Nat} (hn : n < 256)
include hn

theorem Chip.PairKept.moveCol {m : Nat} (hm : m < 256) (hother : n ≠ m) (target : Nat) : PairKept n c (c.moveCol m target) := by
  rcases c.moveCol_cases m target with hstays | hmoves
  · rw [hstays]
    exact .refl n c
  refine ⟨.moveCol c hm target, ?_, ?_⟩
  · rw [hmoves.work.reg _ (by simp only [Obj.COL_STATE, Obj.CNT_CAIRN_LOST]; omega)]
    exact Chip.reg_setReg_other c 3 (by omega)
  · rw [hmoves.work.colTarget]
    exact Tbl.find_put_other _ _ hother

/-- A pair in ENGINE begins its move to BYPASS while SUP is up. -/
theorem Chip.moveCol_bypass (hengine : c.reg (Obj.COL_STATE + n) = 1) (hup : c.supDown = false) :
    (c.moveCol n 0).reg (Obj.COL_STATE + n) = 3 ∧ Tbl.find (c.moveCol n 0).colTarget n = some 0 := by
  have hnow : c.moveCol n 0 = c.moveColNow n 0 := if_neg (by rw [hup]; decide)
  rcases c.moveColNow_cases n 0 with ⟨-, hthere | ⟨hmoving, -⟩⟩ | hmoves
  · omega
  · omega
  · rw [hnow, hmoves.work.reg _ (by simp only [Obj.COL_STATE, Obj.CNT_CAIRN_LOST]; omega), hmoves.work.colTarget]
    exact ⟨Chip.reg_setReg_same .., Tbl.find_put_same ..⟩

end

/-- What a write of COL_FORCE_BYPASS does to a pair: one whose bit changes goes where it is wanted. -/
def Chip.forcePair (old v : Nat) (c : Chip) (n : Nat) : Chip := if bitAt old n = bitAt v n then c else c.moveCol n (c.colWanted n)

theorem Chip.PathWork.forcePair (old v : Nat) (c : Chip) {n : Nat} (hn : n < 256) : PathWork c (c.forcePair old v n) := by
  unfold Chip.forcePair
  split
  · exact .refl c
  · exact .moveCol c hn _

theorem Chip.PairKept.foldl_forcePair (old v : Nat) {n : Nat} (hn : n < 256) {l : List Nat} (hl : ∀ m ∈ l, m < 256 ∧ n ≠ m) (c : Chip) :
    PairKept n c (l.foldl (Chip.forcePair old v) c) :=
  List.foldlRecOn l _ (.refl n c) fun d hd m hm => hd.trans <| by
    unfold Chip.forcePair
    split
    · exact .refl n d
    · exact .moveCol hn (hl m hm).1 (hl m hm).2 _

/-- Among the sixteen pairs one that is newly forced, and stood in ENGINE, begins its move to BYPASS. -/
theorem Chip.foldl_forcePair_bypass {c : Chip} {old v n : Nat} (hn : n < 16) (hold : bitAt old n = false) (hnew : bitAt v n = true)
    (hforced : c.reg Obj.COL_FORCE_BYPASS = v) (hengine : c.reg (Obj.COL_STATE + n) = 1) (hup : c.supDown = false) :
    ((List.range 16).foldl (Chip.forcePair old v) c).reg (Obj.COL_STATE + n) = 3 ∧
    Tbl.find ((List.range 16).foldl (Chip.forcePair old v) c).colTarget n = some 0 := by
  obtain ⟨before, after, hsplit⟩ := List.append_of_mem (List.mem_range.mpr hn)
  have hothers : (∀ m ∈ before, m < 256 ∧ n ≠ m) ∧ ∀ m ∈ after, m < 256 ∧ n ≠ m := by
    have hbound : ∀ m ∈ before ++ n :: after, m < 16 := fun m hm => List.mem_range.mp (hsplit ▸ hm)
    have hnodup : (before ++ n :: after).Nodup := hsplit ▸ List.nodup_range
    have habsent : n ∉ before ++ after := (List.nodup_middle.mp hnodup).notMem
    simp only [List.mem_append, not_or, List.mem_cons] at habsent hbound
    exact ⟨fun m hm => ⟨by have := hbound m (.inl hm); omega, fun h => habsent.1 (h ▸ hm)⟩,
      fun m hm => ⟨by have := hbound m (.inr (.inr hm)); omega, fun h => habsent.2 (h ▸ hm)⟩⟩
  rw [hsplit, List.foldl_append, List.foldl_cons]
  have hbefore := Chip.PairKept.foldl_forcePair old v (by omega) hothers.1 c
  set d := before.foldl (Chip.forcePair old v) c
  have hwanted : d.colWanted n = 0 := by
    rw [Chip.colWanted, hbefore.path.reg _ le_rfl (by decide), hforced]
    exact if_pos hnew
  have hmoves : d.forcePair old v n = d.moveCol n 0 := by
    rw [Chip.forcePair, if_neg (by rw [hold, hnew]; decide), hwanted]
  have hafter := Chip.PairKept.foldl_forcePair old v (by omega) hothers.2 (d.forcePair old v n)
  rw [hafter.state, hafter.target, hmoves]
  exact Chip.moveCol_bypass (by omega) (hbefore.state.trans hengine) (hbefore.supDown.trans hup)

theorem colForceBypass_moves {r : Req} {mask : W16} {s : State} {inst : Nat}
    (hadmits : s.admits r Obj.COL_FORCE_BYPASS (wr 2 mask.toNat) inst = true) (hup : s.chip.supDown = false) :
    Ends (.colForceBypass r mask) s (fun t =>
      t.chip.reg Obj.COL_FORCE_BYPASS = mask.toNat ∧ t.answers r Obj.COL_FORCE_BYPASS rcOK ∧ t.mem = s.mem ∧
      ∀ n, n < 16 → bitAt mask.toNat n = true → bitAt (s.chip.reg Obj.COL_FORCE_BYPASS) n = false → s.chip.reg (Obj.COL_STATE + n) = 1 →
        t.chip.reg (Obj.COL_STATE + n) = 3 ∧ Tbl.get t.chip.colTarget 7 n = 0) := by
  set old := s.chip.reg Obj.COL_FORCE_BYPASS with hold
  set written := s.chip.setReg Obj.COL_FORCE_BYPASS mask.toNat with hwritten
  have hforced : written.reg Obj.COL_FORCE_BYPASS = mask.toNat := by
    rw [hwritten, Chip.reg_setReg_same, Nat.mod_eq_of_lt (by omega)]
  refine rowWriteOn_ends (c := (List.range 16).foldl (Chip.forcePair old mask.toNat) written) (code := rcOK) rfl hadmits
    (by rw [leNat_wr (n := 2) mask.isLt]; rfl) fun t ht => ⟨?_, ht.answers, ht.mem, fun n hn hnew hclear hengine => ?_⟩
  · have hpath : Chip.PathWork written ((List.range 16).foldl (Chip.forcePair old mask.toNat) written) :=
      .foldl (fun d m hm => .forcePair old mask.toNat d (by have := List.mem_range.mp hm; omega)) written
    rw [Chip.reg_of_same_regs (ht.regs rfl), State.on_chip, hpath.reg _ le_rfl (by decide), hforced]
  · have hstood : written.reg (Obj.COL_STATE + n) = 1 :=
      (Chip.reg_setReg_other _ _ (by simp only [Obj.COL_STATE, Obj.COL_FORCE_BYPASS]; omega)).trans hengine
    obtain ⟨hstate, htarget⟩ := Chip.foldl_forcePair_bypass hn hclear hnew hforced hstood hup
    rw [Chip.reg_of_same_regs (ht.regs rfl), ht.colTarget]
    exact ⟨hstate, by rw [Tbl.get, State.on_chip, htarget]; rfl⟩

/-! ### A move that ends -/

theorem Chip.foldl_tryTrain_shape (l : List Nat) (c : Chip) : ∃ la, l.foldl Chip.tryTrain c = { c with lanes := la } :=
  List.foldlRecOn (motive := fun d : Chip => ∃ la, d = { c with lanes := la }) l _ ⟨_, rfl⟩ fun d ⟨_, hd⟩ i _ => by
    unfold Chip.tryTrain
    extract_lets x
    split
    · exact ⟨(d.updLane i fun x => { x with state := laneTraining, seen := false, peerSeen := false }).lanes, by rw [hd]; rfl⟩
    · exact ⟨_, hd⟩

theorem colMoved_ends {pair : Fin 16} {s : State} (hmoving : s.chip.reg (Obj.COL_STATE + pair.val) = 3)
    (htarget : Tbl.get s.chip.colTarget 0 pair.val < 3) : Ends (.colMoved pair) s (fun t =>
      t.chip.reg (Obj.COL_STATE + pair.val) = Tbl.get s.chip.colTarget 0 pair.val ∧
      t.chip.reg Obj.CNT_COL_MOVES = (s.chip.reg Obj.CNT_COL_MOVES + 1) % 2 ^ 64 ∧ t.chip.said 0x0803 0xFF [] ∧ t.mem = s.mem) := by
  set target := Tbl.get s.chip.colTarget 0 pair.val
  set counted := (s.chip.setReg (Obj.COL_STATE + pair.val) target).bump Obj.CNT_COL_MOVES with hcounted
  obtain ⟨la, htrained⟩ := Chip.foldl_tryTrain_shape
    ((counted.raiseMod 0x0803 []).fibreLanes (2 * pair.val) ++ (counted.raiseMod 0x0803 []).fibreLanes (2 * pair.val + 1))
    (counted.raiseMod 0x0803 [])
  have hends : s.chip.colMoved pair.val = { counted.raiseMod 0x0803 [] with lanes := la } := by
    rw [← htrained, Chip.colMoved, if_neg (by rw [hmoving]; decide)]
  refine ends_on rfl hends fun t hchip hmem => ?_
  have hreg : ∀ key < Obj.CNT_CAIRN_LOST, t.chip.reg key = counted.reg key := fun key hkey => by
    rw [hchip]
    exact counted.raise_reg_of_lt 0x0803 0xFF [] hkey
  have hkeys : Obj.COL_STATE + pair.val < Obj.CNT_COL_MOVES := by simp only [Obj.COL_STATE, Obj.CNT_COL_MOVES]; omega
  have hbelow : Obj.CNT_COL_MOVES < Obj.CNT_CAIRN_LOST := by decide
  refine ⟨?_, ?_, ?_, hmem⟩
  · rw [hreg _ (hkeys.trans hbelow), hcounted, Chip.reg_bump, if_neg hkeys.ne, Chip.reg_setReg_same, Nat.mod_eq_of_lt (by omega)]
  · rw [hreg _ hbelow, hcounted, Chip.reg_bump, if_pos rfl, Chip.reg_setReg_other _ _ hkeys.ne']
  · exact Chip.said_of_streams (by rw [hchip]) (counted.raiseMod_said 0x0803 [])

end Sys2Proof.Machine
end

section
/-! PROOF. Failed engines, notch chiplets and the record of failures (R277–R279): an engine that is declared failed falls back or is lost,
a fallback that completes, a notch chiplet that fails, and the record's bits that are cleared. -/
namespace Sys2Proof.Machine

theorem State.AnsweredFrom.engines {u t : State} {r : Req} {key code : Nat} (h : u.AnsweredFrom t r key code) :
    t.chip.engines = u.chip.engines := by
  obtain ⟨_, _, h⟩ := h.shape
  rw [h]

@[simp] theorem Chip.engine_updEngine_same (c : Chip) (k : Nat) (f : Engine → Engine) : (c.updEngine k f).engine k = f (c.engine k) := by
  simp [Chip.engine, Chip.updEngine]

theorem Chip.engine_of_engines {c d : Chip} (h : d.engines = c.engines) (k : Nat) : d.engine k = c.engine k := by
  rw [Chip.engine, h, Chip.engine]

theorem Chip.extSoon_setReg (c : Chip) {k l : Nat} (v : Nat) (h : l ≠ k) : (c.setReg k v).extSoon l = c.extSoon l := by
  rw [Chip.extSoon, Chip.reg_setReg_other c v h, Chip.setReg_extNext, Chip.extSoon]

theorem notchOf_lt (k : Nat) : notchOf k < 2 := by
  unfold notchOf
  split <;> decide

/-! ### An engine that is lost (R279) -/

section
variable (c : Chip) {k : Nat} (hk : k < 8)
include hk

theorem Chip.loseEngine_path : PathWork (c.extSet (Obj.ENGINE_STATE + k) 2) (c.loseEngine k) := by
  unfold Chip.loseEngine
  extract_lets c1 c2 c3
  have hfailed : PathWork c1 c2 := .foldl (fun d i _ => .failLane d i) c1
  exact (hfailed.trans (.moveEngineCols c2 hk)).trans (.raise c3 _ _ _)

/-- An engine that is lost is FAILED from the next boundary. -/
theorem Chip.loseEngine_extSoon : (c.loseEngine k).extSoon (Obj.ENGINE_STATE + k) = 2 := by
  rw [Chip.extSoon, Tbl.get, (c.loseEngine_path hk).next _ (by simp only [Obj.ENGINE_STATE, Obj.LANE_MASK]; omega)]
  simp [Chip.extSet]

omit hk in
theorem Chip.loseEngine_said (k : Nat) : (c.loseEngine k).said 0x0806 0xFF [] := Chip.raiseMod_said ..

/-- A lost engine's swaps are cancelled first; engines and the objects of fallback stand. -/
theorem Chip.loseEngine_cancelled (o : Nat) : ((c.cancelSwaps o).loseEngine k).engines = c.engines ∧
    ∀ key, Obj.COL_FORCE_BYPASS ≤ key → key < Obj.LASER_STATE → ((c.cancelSwaps o).loseEngine k).reg key = c.reg key := by
  have hlost := (c.cancelSwaps o).loseEngine_path hk
  have hcancelled := PathWork.cancelSwaps c o
  exact ⟨hlost.engines.trans hcancelled.engines, fun key hlow hhigh => (hlost.reg key hlow hhigh).trans (hcancelled.reg key hlow hhigh)⟩

/-! ### An engine that falls back (R278) -/

/-- An engine's fallback begins: the notch chiplet is ENGAGING, and the record of failures stands. -/
theorem Chip.fallback_begins : (c.fallback k).engine k = { c.engine k with fallback := true, applied := false } ∧
    (c.fallback k).reg (Obj.NOTCH_STATE + notchOf k) = 1 ∧ (c.fallback k).reg Obj.ENGINE_FAIL_RECORD = c.reg Obj.ENGINE_FAIL_RECORD := by
  unfold Chip.fallback
  extract_lets c1 c2 c3 c4 c5
  have hlanes : LanesTaken c c1 := .foldl (fun d i => by
    extract_lets st
    split
    · exact .refl d
    split
    · exact .updLane d i _
    · exact (LanesTaken.takeLane d i laneDark causeFallback true).trans (.updLane _ i _)) _ c
  have hbefore : PathWork c c3 :=
    ((PathWork.of_lanesTaken hlanes).trans (.cancelSwaps c1 k)).trans ((PathWork.calReject c2 k).trans (.calReject _ (10 + k)))
  have hcols := PathWork.moveEngineCols c5 hk
  generalize [2 * k, 2 * k + 1].foldl (fun c n => c.moveCol n (c.colWanted n)) c5 = d at hcols ⊢
  have hengine : c4.engine k = c.engine k :=
    Chip.engine_of_engines ((Chip.setReg_engines ..).trans hbefore.engines) k
  have hreg : ∀ key, Obj.COL_FORCE_BYPASS ≤ key → key < Obj.LASER_STATE → d.reg key = c4.reg key := fun key hlow hhigh =>
    (hcols.reg key hlow hhigh).trans (Chip.reg_of_same_regs (c4.updEngine_regs k _) key)
  have hnotch := notchOf_lt k
  refine ⟨?_, ?_, ?_⟩
  · rw [Chip.engine_of_engines hcols.engines, Chip.engine_updEngine_same, hengine]
  · rw [hreg _ (by simp only [Obj.COL_FORCE_BYPASS, Obj.NOTCH_STATE]; omega) (by simp only [Obj.NOTCH_STATE, Obj.LASER_STATE]; omega),
      Chip.reg_setReg_same]
    rfl
  · rw [hreg _ (by decide) (by decide), Chip.reg_setReg_other c3 1 (by simp only [Obj.ENGINE_FAIL_RECORD, Obj.NOTCH_STATE]; omega),
      hbefore.reg _ (by decide) (by decide)]

end

/-! ### An engine that is declared failed (R277) -/

/-- The module with a failed engine recorded, reported and gated. -/
def Chip.engineDeclared (c : Chip) (k : Nat) : Chip :=
  (((c.setReg Obj.ENGINE_FAIL_RECORD (putBit (c.reg Obj.ENGINE_FAIL_RECORD) k true)).raiseMod 0x0804 []).updEngine k fun e =>
    { e with declared := true, steer := e.steer.map fun st => { st with failed := true } }).gateEngine k

theorem Chip.PathWork.gateEngine (c : Chip) {k : Nat} (hk : k < 8) : PathWork c (c.gateEngine k) := by
  unfold Chip.gateEngine
  split
  · exact .refl c
  · exact .setReg c 2 (.inl (by simp only [Obj.DOMAIN_STATE, Obj.COL_FORCE_BYPASS]; omega))

section
variable {c : Chip} {k : Nat} (hk : k < 8)
include hk

theorem Chip.engineDeclared_spec : ((c.engineDeclared k).engine k).declared = true ∧
    bitAt ((c.engineDeclared k).reg Obj.ENGINE_FAIL_RECORD) k = true ∧
    ∀ key, Obj.COL_FORCE_BYPASS ≤ key → key < Obj.LASER_STATE → key ≠ Obj.ENGINE_FAIL_RECORD →
      (c.engineDeclared k).reg key = c.reg key := by
  set recorded := c.setReg Obj.ENGINE_FAIL_RECORD (putBit (c.reg Obj.ENGINE_FAIL_RECORD) k true) with hrecorded
  set declared := (recorded.raiseMod 0x0804 []).updEngine k fun e =>
    { e with declared := true, steer := e.steer.map fun st => { st with failed := true } } with hdeclared
  have hgated : Chip.PathWork declared (c.engineDeclared k) := .gateEngine declared hk
  have hreg : ∀ key, Obj.COL_FORCE_BYPASS ≤ key → key < Obj.LASER_STATE → (c.engineDeclared k).reg key = recorded.reg key :=
    fun key hlow hhigh => (hgated.reg key hlow hhigh).trans ((Chip.PathWork.raise recorded 0x0804 0xFF []).reg key hlow hhigh)
  refine ⟨?_, ?_, fun key hlow hhigh hother => ?_⟩
  · rw [Chip.engine_of_engines hgated.engines, hdeclared, Chip.engine_updEngine_same]
  · rw [hreg _ (by decide) (by decide), hrecorded, Chip.reg_setReg_same, bitAt, Nat.testBit_mod_two_pow]
    have hset : (putBit (c.reg Obj.ENGINE_FAIL_RECORD) k true).testBit k = true := bitAt_putBit_same _ _
    rw [hset, decide_eq_true (show k < 64 by omega)]
    rfl
  · rw [hreg key hlow hhigh, hrecorded, Chip.reg_setReg_other _ _ hother]

variable (hsoon : c.extSoon (Obj.ENGINE_STATE + k) ≠ 2)
include hsoon

section
variable (hfresh : (c.engine k).declared = false)
include hfresh

omit hk in
theorem Chip.declareFailed_fresh : c.declareFailed k =
    if (c.engineDeclared k).reg Obj.NOTCH_EN = 1 && (c.engineDeclared k).reg (Obj.NOTCH_STATE + notchOf k) = 0 then
      (c.engineDeclared k).fallback k
    else ((c.engineDeclared k).cancelSwaps k).loseEngine k :=
  if_neg (by simp [hfresh, hsoon])

theorem Chip.declareFailed_fallsBack (hen : c.reg Obj.NOTCH_EN = 1) (hstandby : c.reg (Obj.NOTCH_STATE + notchOf k) = 0) :
    c.declareFailed k = (c.engineDeclared k).fallback k := by
  obtain ⟨-, -, hreg⟩ := Chip.engineDeclared_spec (c := c) hk
  have hnotch := notchOf_lt k
  rw [Chip.declareFailed_fresh hsoon hfresh, hreg _ (by decide) (by decide) (by decide), hen,
    hreg _ (by simp only [Obj.COL_FORCE_BYPASS, Obj.NOTCH_STATE]; omega) (by simp only [Obj.NOTCH_STATE, Obj.LASER_STATE]; omega)
      (by simp only [Obj.NOTCH_STATE, Obj.ENGINE_FAIL_RECORD]; omega), hstandby]
  exact if_pos (by decide)

theorem Chip.declareFailed_loses (hen : c.reg Obj.NOTCH_EN = 0) :
    c.declareFailed k = ((c.engineDeclared k).cancelSwaps k).loseEngine k := by
  obtain ⟨-, -, hreg⟩ := Chip.engineDeclared_spec (c := c) hk
  rw [Chip.declareFailed_fresh hsoon hfresh, hreg _ (by decide) (by decide) (by decide), hen]
  exact if_neg (by simp)

end

/-- However a failed engine goes on, it is declared failed. -/
theorem Chip.declareFailed_declared : ((c.declareFailed k).engine k).declared = true := by
  by_cases hdeclared : (c.engine k).declared = true
  · rw [show c.declareFailed k = c from if_pos (by simp [hdeclared])]
    exact hdeclared
  rw [Chip.declareFailed_fresh hsoon (by simpa using hdeclared)]
  obtain ⟨hengine, -, -⟩ := Chip.engineDeclared_spec (c := c) hk
  split
  · rw [((c.engineDeclared k).fallback_begins hk).1]
    exact hengine
  · rw [Chip.engine_of_engines ((c.engineDeclared k).loseEngine_cancelled hk k).1]
    exact hengine

end

section
variable {engine : Fin 8} {s : State} (hfresh : (s.chip.engine engine.val).declared = false)
  (hsoon : s.chip.extSoon (Obj.ENGINE_STATE + engine.val) ≠ 2)
include hfresh hsoon

theorem engineFailed_fallsBack (hen : s.chip.reg Obj.NOTCH_EN = 1) (hstandby : s.chip.reg (Obj.NOTCH_STATE + notchOf engine.val) = 0) :
    Ends (.engineFailed engine) s (fun t => (t.chip.engine engine.val).declared = true ∧ (t.chip.engine engine.val).fallback = true ∧
      t.chip.reg (Obj.NOTCH_STATE + notchOf engine.val) = 1 ∧ bitAt (t.chip.reg Obj.ENGINE_FAIL_RECORD) engine.val = true ∧
      t.mem = s.mem) := by
  obtain ⟨hdeclared, hrecord, -⟩ := Chip.engineDeclared_spec (c := s.chip) engine.isLt
  obtain ⟨hengine, hnotch, hkept⟩ := (s.chip.engineDeclared engine.val).fallback_begins engine.isLt
  refine ends_on rfl (Chip.declareFailed_fallsBack engine.isLt hsoon hfresh hen hstandby) fun t hchip hmem => ?_
  rw [hchip, hengine, hnotch, hkept]
  exact ⟨hdeclared, rfl, rfl, hrecord, hmem⟩

theorem engineFailed_lost (hen : s.chip.reg Obj.NOTCH_EN = 0) : Ends (.engineFailed engine) s (fun t =>
    (t.chip.engine engine.val).declared = true ∧ t.chip.extSoon (Obj.ENGINE_STATE + engine.val) = 2 ∧
    bitAt (t.chip.reg Obj.ENGINE_FAIL_RECORD) engine.val = true ∧ t.chip.said 0x0806 0xFF [] ∧ t.mem = s.mem) := by
  obtain ⟨hdeclared, hrecord, -⟩ := Chip.engineDeclared_spec (c := s.chip) engine.isLt
  obtain ⟨hengines, hreg⟩ := (s.chip.engineDeclared engine.val).loseEngine_cancelled engine.isLt engine.val
  refine ends_on rfl (Chip.declareFailed_loses engine.isLt hsoon hfresh hen) fun t hchip hmem => ?_
  rw [hchip, Chip.engine_of_engines hengines, Chip.loseEngine_extSoon _ engine.isLt, hreg _ (by decide) (by decide)]
  exact ⟨hdeclared, rfl, hrecord, Chip.loseEngine_said .., hmem⟩

end

/-! ### A request to retire an engine (R277) -/

section
variable {r : Req} {engine : Byte} {s : State} {inst : Nat} (hadmits : s.admits r Obj.ENGINE_RETIRE_REQ (wr 1 engine.toNat) inst = true)
include hadmits

theorem engineRetireReq_declares (hengine : engine.toNat < 8) (hsoon : s.chip.extSoon (Obj.ENGINE_STATE + engine.toNat) ≠ 2) :
    Ends (.engineRetireReq r engine) s (fun t => (t.chip.engine engine.toNat).declared = true ∧
      t.answers r Obj.ENGINE_RETIRE_REQ rcOK ∧ t.mem = s.mem) := by
  refine rowWriteOn_ends (c := s.chip.declareFailed engine.toNat) (code := rcOK) rfl hadmits
    (by rw [leNat_wr (n := 1) engine.isLt]; exact if_neg (by omega)) fun t ht => ⟨?_, ht.answers, ht.mem⟩
  rw [Chip.engine_of_engines ht.engines]
  exact Chip.declareFailed_declared hengine hsoon

theorem engineRetireReq_range (hengine : 8 ≤ engine.toNat) : Ends (.engineRetireReq r engine) s (fun t =>
    t.chip.engines = s.chip.engines ∧ t.answers r Obj.ENGINE_RETIRE_REQ rcRange ∧ t.mem = s.mem) :=
  rowWriteOn_ends (c := s.chip) (code := rcRange) rfl hadmits (by rw [leNat_wr (n := 1) engine.isLt]; exact if_pos hengine)
    fun _ ht => ⟨ht.engines, ht.answers, ht.mem⟩

end

/-! ### A fallback that completes (R278) -/

theorem notchEngaged_ends {engine : Fin 8} {s : State} (hfallback : (s.chip.engine engine.val).fallback = true)
    (hengaging : s.chip.reg (Obj.NOTCH_STATE + notchOf engine.val) = 1) : Ends (.notchEngaged engine) s (fun t =>
      t.chip.reg (Obj.NOTCH_STATE + notchOf engine.val) = 2 ∧ t.chip.reg (Obj.NOTCH_TARGET + notchOf engine.val) = engine.val ∧
      t.chip.extSoon (Obj.ENGINE_STATE + engine.val) = 1 ∧ t.chip.said 0x0805 0xFF [] ∧
      t.chip.reg Obj.CNT_ENGINE_FALLBACKS = (s.chip.reg Obj.CNT_ENGINE_FALLBACKS + 1) % 2 ^ 64 ∧ t.mem = s.mem) := by
  set n := notchOf engine.val
  have hn : n < 2 := notchOf_lt _
  set standing := (s.chip.setReg (Obj.NOTCH_STATE + n) 2).setReg (Obj.NOTCH_TARGET + n) engine.val with hstanding
  set counted := (standing.extSet (Obj.ENGINE_STATE + engine.val) 1).bump Obj.CNT_ENGINE_FALLBACKS with hcounted
  have hends : s.chip.notchEngaged engine.val = counted.raiseMod 0x0805 [] := if_pos (by simp [hfallback, hengaging, n])
  have hreg : ∀ key < Obj.CNT_CAIRN_LOST, (counted.raiseMod 0x0805 []).reg key =
      if key = Obj.CNT_ENGINE_FALLBACKS then (standing.reg Obj.CNT_ENGINE_FALLBACKS + 1) % 2 ^ 64 else standing.reg key :=
    fun key hkey => (counted.raise_reg_of_lt 0x0805 0xFF [] hkey).trans (Chip.reg_bump ..)
  have hkeys : Obj.NOTCH_STATE + n < Obj.NOTCH_TARGET ∧ Obj.NOTCH_TARGET + n < Obj.CNT_ENGINE_FALLBACKS ∧
      Obj.CNT_ENGINE_FALLBACKS < Obj.CNT_CAIRN_LOST := by
    refine ⟨?_, ?_, by decide⟩
    · simp only [Obj.NOTCH_STATE, Obj.NOTCH_TARGET]; omega
    · simp only [Obj.NOTCH_TARGET, Obj.CNT_ENGINE_FALLBACKS]; omega
  refine ends_on rfl hends fun t hchip hmem => ?_
  rw [hchip]
  refine ⟨?_, ?_, ?_, Chip.raiseMod_said .., ?_, hmem⟩
  · rw [hreg _ (by omega), if_neg (by omega), hstanding, Chip.reg_setReg_other _ _ (by omega), Chip.reg_setReg_same]
    rfl
  · rw [hreg _ (by omega), if_neg (by omega), hstanding, Chip.reg_setReg_same, Nat.mod_eq_of_lt (by omega)]
  · have hnext : (counted.raiseMod 0x0805 []).extNext = Tbl.put standing.extNext (Obj.ENGINE_STATE + engine.val) 1 := Chip.raise_extNext ..
    rw [Chip.extSoon, hnext, Tbl.get_put_same]
  · rw [hreg _ hkeys.2.2, if_pos rfl, hstanding, Chip.reg_setReg_other _ _ (by omega), Chip.reg_setReg_other _ _ (by omega)]

/-! ### A notch chiplet that fails (R279) -/

section
variable {notch : Fin 2} {s : State}

theorem notchFailed_standby (hstandby : s.chip.reg (Obj.NOTCH_STATE + notch.val) = 0) :
    Ends (.notchFailed notch) s (fun t => t = s.on (fun c => c.setReg (Obj.NOTCH_STATE + notch.val) 3)) := by
  have hfails : s.chip.notchFails notch.val = s.chip.setReg (Obj.NOTCH_STATE + notch.val) 3 := by
    simp only [Chip.notchFails, hstandby]
    rw [if_neg (by decide)]
    split <;> rfl
  exact ⟨_, rfl, congrArg (fun c : Chip => { s with chip := c }) hfails⟩

theorem notchFailed_engaged {k : Nat} (hk : k < 8) (hengaged : s.chip.reg (Obj.NOTCH_STATE + notch.val) = 2)
    (hserves : s.chip.coreEngine (8 + notch.val) = some k) : Ends (.notchFailed notch) s (fun t =>
      t.chip.reg (Obj.NOTCH_STATE + notch.val) = 3 ∧ t.chip.reg (Obj.NOTCH_TARGET + notch.val) = 0xFF ∧
      t.chip.extSoon (Obj.ENGINE_STATE + k) = 2 ∧ t.chip.said 0x0806 0xFF [] ∧ t.mem = s.mem) := by
  set failed := s.chip.setReg (Obj.NOTCH_STATE + notch.val) 3 with hfailed
  set lost := ((failed.raiseMod 0x080C []).cancelSwaps (8 + notch.val)).loseEngine k with hlost
  have hfails : s.chip.notchFails notch.val = lost.setReg (Obj.NOTCH_TARGET + notch.val) 0xFF := by
    simp only [Chip.notchFails, hengaged, hserves]
    rfl
  obtain ⟨-, hreg⟩ := (failed.raiseMod 0x080C []).loseEngine_cancelled hk (8 + notch.val)
  have hstate : lost.reg (Obj.NOTCH_STATE + notch.val) = 3 := by
    rw [hreg _ (by simp only [Obj.COL_FORCE_BYPASS, Obj.NOTCH_STATE]; omega) (by simp only [Obj.NOTCH_STATE, Obj.LASER_STATE]; omega),
      Chip.raiseMod, Chip.raise_reg_of_lt _ _ _ _ (by simp only [Obj.NOTCH_STATE, Obj.CNT_CAIRN_LOST]; omega), hfailed, Chip.reg_setReg_same]
    rfl
  have hsoon : lost.extSoon (Obj.ENGINE_STATE + k) = 2 := Chip.loseEngine_extSoon _ hk
  refine ends_on rfl hfails fun t hchip hmem => ?_
  rw [hchip]
  refine ⟨?_, ?_, ?_, Chip.said_of_streams (Chip.setReg_streams ..) (Chip.loseEngine_said ..), hmem⟩
  · rw [Chip.reg_setReg_other _ _ (by simp only [Obj.NOTCH_STATE, Obj.NOTCH_TARGET]; omega), hstate]
  · rw [Chip.reg_setReg_same, Nat.mod_eq_of_lt (by decide)]
  · rw [Chip.extSoon_setReg lost 0xFF (by simp only [Obj.ENGINE_STATE, Obj.NOTCH_TARGET]; omega)]
    exact hsoon

end

/-! ### The record of failures (R279) -/

theorem testBit_add_two_pow {x i : Nat} (hclear : x.testBit i = false) (b : Nat) :
    (x + 2 ^ i).testBit b = (x.testBit b || decide (b = i)) := by
  induction i generalizing x b with
  | zero =>
    have heven : x % 2 = 0 := by simpa using hclear
    cases b with
    | zero => simp; omega
    | succ b => simp [Nat.testBit_succ, show (x + 1) / 2 = x / 2 by omega]
  | succ i ih =>
    rw [Nat.testBit_succ] at hclear
    have hhalf : (x + 2 ^ (i + 1)) / 2 = x / 2 + 2 ^ i := by omega
    cases b with
    | zero => simp; omega
    | succ b => rw [Nat.testBit_succ, hhalf, ih hclear, Nat.testBit_succ]; simp

theorem testBit_putBit (x i b : Nat) : (putBit x i true).testBit b = (x.testBit b || decide (b = i)) := by
  unfold putBit
  rw [if_pos rfl, if_pos rfl]
  split
  next hset => by_cases hb : b = i <;> simp [hb, hset]
  next hclear => exact testBit_add_two_pow (by simpa using hclear) b

theorem testBit_maskOf (l : List Nat) (b : Nat) : (maskOf l).testBit b = decide (b ∈ l) := by
  have hfold : ∀ m, (l.foldl (fun m i => putBit m i true) m).testBit b = (m.testBit b || decide (b ∈ l)) := by
    induction l with
    | nil => simp
    | cons i l ih => intro m; rw [List.foldl_cons, ih, testBit_putBit]; simp [Bool.or_assoc]
  rw [maskOf, hfold, Nat.zero_testBit, Bool.false_or]

theorem engineFailRecordClear_clears {r : Req} {mask : Byte} {s : State} {inst : Nat}
    (hadmits : s.admits r Obj.ENGINE_FAIL_RECORD (wr 1 mask.toNat) inst = true) :
    Ends (.engineFailRecordClear r mask) s (fun t => t.answers r Obj.ENGINE_FAIL_RECORD rcOK ∧ t.mem = s.mem ∧
      ∀ b, b < 8 → bitAt (t.chip.reg Obj.ENGINE_FAIL_RECORD) b = (bitAt (s.chip.reg Obj.ENGINE_FAIL_RECORD) b && bitAt mask.toNat b)) := by
  set kept := maskOf ((setBits 8 (s.chip.reg Obj.ENGINE_FAIL_RECORD)).filter (bitAt mask.toNat)) with hkept
  refine rowWriteOn_ends (c := s.chip.setReg Obj.ENGINE_FAIL_RECORD kept) (code := rcOK) rfl hadmits
    (by rw [leNat_wr (n := 1) mask.isLt]) fun t ht => ⟨ht.answers, ht.mem, fun b hb => ?_⟩
  rw [Chip.reg_of_same_regs (ht.regs rfl), State.on_chip, Chip.reg_setReg_same, bitAt, Nat.testBit_mod_two_pow, hkept, testBit_maskOf]
  simp [setBits, bitAt, hb, show b < 64 by omega, Bool.and_comm]

/-- Settles O28: pairs by their moves, a failed engine by whether a notch chiplet stands by, a notch chiplet by what it did, and the record
by its bits. -/
theorem colAndEngines : Obligations.ColAndEngines := by
  unfold Obligations.ColAndEngines
  refine ⟨fun r mask s inst => colForceBypass_moves, fun pair s => colMoved_ends, fun engine s hfresh hsoon => ?failed,
    fun r engine s inst hadmits => ?retired, fun engine s => notchEngaged_ends, fun notch s => ?notch,
    fun r mask s inst => engineFailRecordClear_clears⟩
  case failed => exact ⟨engineFailed_fallsBack hfresh hsoon, engineFailed_lost hfresh hsoon⟩
  case retired => exact ⟨engineRetireReq_declares hadmits, engineRetireReq_range hadmits⟩
  case notch => exact ⟨notchFailed_standby, fun k hk => notchFailed_engaged hk⟩

end Sys2Proof.Machine
end

section
/-! PROOF. A STEER_CONTROL write that names no engine (R266, R273): it is answered OK and changes no object. -/
namespace Sys2Proof.Machine

/-- A command has one end. -/
theorem Ends.common {i : Instr} {s : State} {P Q : State → Prop} (h : Ends i s P) (h' : Ends i s Q) : ∃ t, P t ∧ Q t := by
  obtain ⟨t, hexec, hP⟩ := h
  obtain ⟨t', hexec', hQ⟩ := h'
  obtain rfl : t = t' := Host.Outcome.next.inj (hexec.symm.trans hexec')
  exact ⟨t, hP, hQ⟩

theorem Chip.steerControl_unnamed (c : Chip) {v : Nat} (hnone : setBits 8 v = []) : c.steerControl v = (c, rcOK) := by
  simp [Chip.steerControl, hnone]

theorem setBits_of_high {n m : Nat} (h : n ≤ m) (x : Nat) : setBits n (x * 2 ^ m) = [] := by
  refine List.filter_eq_nil_iff.mpr fun i hi => ?_
  have hlow : i < m := (List.mem_range.mp hi).trans_le h
  simp [Nat.testBit_mul_two_pow, hlow]

/-- The word of a write with the engine mask 0 holds the token alone. -/
theorem leNat_steerWord_unnamed (token : W16) : leNat (wr 4 ((0 : Byte).toNat + token.toNat * 65536)) = token.toNat * 2 ^ 16 := by
  have hmask : (0 : Byte).toNat = 0 := rfl
  rw [hmask, Nat.zero_add, leNat_wr (by omega), show 65536 = 2 ^ 16 from rfl]

theorem steerControl_unnamed {r : Req} {token : W16} {s : State} {inst : Nat} (hlease : s.chip.reg Obj.LEASE_HOLDER ≠ 0)
    (hadmits : s.admits r Obj.STEER_CONTROL (wr 4 ((0 : Byte).toNat + token.toNat * 65536)) inst = true) :
    Ends (.steerControl r 0 token) s (fun t => t.chip.regs = s.chip.regs) := by
  have hclear : fld (token.toNat * 2 ^ 16) 15 8 = 0 := by
    simp only [fld, Nat.shiftRight_eq_div_pow]
    omega
  refine rowWriteOn_ends (c := s.chip) (code := rcOK) rfl hadmits ?_ fun t ht => ht.regs rfl
  rw [leNat_steerWord_unnamed, hclear, if_neg (by decide), if_neg hlease]
  exact s.chip.steerControl_unnamed (setBits_of_high (by decide) _)

/-- Refutes O27: a leaseholder's STEER_CONTROL write with token 9 that names no engine breaks no rule, since there is no plan to check,
and CNT_RESTEERS reads after it what it read before. The statement counts every such write; the model counts those that name an
engine. -/
theorem not_steering : ¬ Obligations.Steering := by
  unfold Obligations.Steering
  intro h
  have hadmits : (light [] []).admits operator Obj.STEER_CONTROL (wr 4 ((0 : Byte).toNat + (9 : W16).toNat * 65536)) modInst = true := by
    decide +kernel
  have hlease : (light [] []).chip.reg Obj.LEASE_HOLDER ≠ 0 := by decide +kernel
  have hcounts := ((h.1 operator 0 9 (light [] []) modInst hadmits).2 hlease).1 (by decide)
  obtain ⟨t, ⟨-, hcounted, -⟩, hsame⟩ := hcounts.common (steerControl_unnamed hlease hadmits)
  rw [Chip.reg_of_regs hsame] at hcounted
  omega

end Sys2Proof.Machine
end

section
/-! PROOF. The operator's writes to Traverse loops (R297–R301, R317): the mode, the coefficient block, the class and the output of a
loop, and the saved set. -/
namespace Sys2Proof.Machine

theorem State.AnsweredFrom.loops {u t : State} {r : Req} {key code : Nat} (h : u.AnsweredFrom t r key code) : t.chip.loops = u.chip.loops := by
  obtain ⟨_, _, h⟩ := h.shape
  rw [h]

theorem State.AnsweredFrom.travSaved {u t : State} {r : Req} {key code : Nat} (h : u.AnsweredFrom t r key code) :
    t.chip.travSaved = u.chip.travSaved := by
  obtain ⟨_, _, h⟩ := h.shape
  rw [h]

/-! ### Single updates of loops -/

@[simp] theorem Chip.loop_updLoop_same (c : Chip) (core inst : Nat) (f : Loop → Loop) :
    (c.updLoop core inst f).loop core inst = f (c.loop core inst) := by
  simp [Chip.loop, Chip.updLoop, Chip.setLoop]

theorem Chip.loop_of_loops {c d : Chip} (h : d.loops = c.loops) (core inst : Nat) : d.loop core inst = c.loop core inst := by
  rw [Chip.loop, h, Chip.loop]

/-- A write is refused for want of a loop only where the type of the loop is none. -/
theorem loopType_not_isNone {core inst : Nat} (h : (loopType core inst).isSome = true) : ¬ (loopType core inst).isNone = true := by
  simpa using Option.isSome_iff_ne_none.mp h

/-! ### A ring that leaves TRACK (R254) -/

theorem Chip.LaneWork.loops {c d : Chip} (h : LaneWork c d) : d.loops = c.loops := by
  obtain ⟨_, _, _, _, _, _, _, _, rfl⟩ := h.shape
  rfl

theorem Chip.degradeLane_loops (c : Chip) (i cause : Nat) (tell : Bool) : (c.degradeLane i cause tell).loops = c.loops := by
  by_cases hlive : (c.lane i).state = laneActive ∨ (c.lane i).state = lanePaused
  · exact (Chip.LaneWork.degradeLane c i cause tell hlive).loops
  · have hstays : c.degradeLane i cause tell = c := if_pos (by simpa using hlive)
    rw [hstays]

/-- The lane of a ring that has left TRACK may be degraded or train again; no loop is touched. -/
theorem Chip.ringLeft_loops (c : Chip) (core inst : Nat) : (c.ringLeft core inst).loops = c.loops := by
  unfold Chip.ringLeft
  split
  · rfl
  next i _ =>
    extract_lets left st
    have hleft : left.loops = c.loops := (Chip.LaneWork.calLeave c i).loops
    split
    · exact (left.degradeLane_loops i _ _).trans hleft
    split
    · exact (Chip.LaneWork.takeLane left i _ _ _).loops.trans hleft
    · exact hleft

/-! ### LOOP_MODE (R300, R301, Table 11.7) -/

theorem Loop.preload_mode (l : Loop) (k : Coef) (a : Around) : (l.preload k a).mode = l.mode := by
  unfold Loop.preload
  split <;> rfl

theorem Loop.track_mode (l : Loop) (k : Coef) (a : Around) (u : W32) : (l.track k a u).mode = modeTrack := Loop.preload_mode ..

/-- A loop is in the mode that the operator has written, whether it was there before or not. -/
theorem Chip.modeTo_mode (c : Chip) (core inst : Nat) {m : Nat} (hm : m ≤ modeHold) : ((c.modeTo core inst m).loop core inst).mode = m := by
  unfold Chip.modeTo
  extract_lets l st c1
  split
  · assumption
  have htaken : (c1.loop core inst).mode = m := by
    rw [show c1.loop core inst = _ from Chip.loop_updLoop_same ..]
    obtain rfl | rfl | rfl | rfl : m = modeOpen ∨ m = modeSearch ∨ m = modeTrack ∨ m = modeHold := by
      simp only [modeOpen, modeSearch, modeTrack, modeHold] at hm ⊢
      omega
    · rfl
    · rfl
    · exact Loop.track_mode ..
    · rfl
  split
  · rw [Chip.loop_of_loops (Chip.ringLeft_loops ..)]
    exact htaken
  · exact htaken

section
variable {i : Instr} {r : Req} {core inst at_ m : Nat} {s : State}
  (hadmits : s.admits r (loopObj Obj.LOOP_MODE core inst) (wr 1 m) at_ = true)
  (hexec : exec i s = .next (loopModeWrite r core inst m s))
include hadmits hexec

theorem loopMode_taken (hm : m ≤ modeHold) (hsearch : m = modeSearch → hasSearch core inst = true)
    (hloop : (loopType core inst).isSome = true) (hidle : (isRing core inst && s.chip.ringBusy core inst) = false)
    (hstep : modeStep (s.chip.loop core inst).mode m = true)
    (hbudget : (s.chip.loop core inst).mode = modeOpen → m ≠ modeOpen →
      s.chip.budgetWith core inst (fun l => { l with mode := m }) = true) :
    Ends i s (fun t => (t.chip.loop core inst).mode = m ∧ t.answers r (loopObj Obj.LOOP_MODE core inst) rcOK ∧ t.mem = s.mem) := by
  have hword : leNat (wr 1 m) = m := leNat_wr (hm.trans_lt (by decide))
  refine rowWriteOn_ends (c := s.chip.modeTo core inst m) (code := rcOK) hexec hadmits ?_ fun t ht => ⟨?_, ht.answers, ht.mem⟩
  · simp only [hword]
    rw [if_neg (loopType_not_isNone hloop), if_neg (show ¬ m > 3 from Nat.not_lt.mpr hm),
      if_neg (by simpa using hsearch), if_neg (by simp [hidle]), if_neg (by simp [hstep]), if_neg (by simpa using hbudget)]
  · rw [Chip.loop_of_loops ht.loops]
    exact s.chip.modeTo_mode core inst hm

theorem loopMode_without_loop (hnone : loopType core inst = none) : Ends i s (fun t => t.chip.loops = s.chip.loops ∧
    t.chip.reg Obj.TRAVERSE_REFUSE_REASON = trNoLoop ∧ t.answers r (loopObj Obj.LOOP_MODE core inst) rcRefused ∧ t.mem = s.mem) := by
  refine rowWriteOn_ends (c := s.chip.setReg Obj.TRAVERSE_REFUSE_REASON trNoLoop) (code := rcRefused) hexec hadmits
    (if_pos (by simp [hnone])) fun t ht => ⟨ht.loops, ?_, ht.answers, ht.mem⟩
  rw [ht.reg (by decide), State.on_chip, Chip.reg_setReg_same]
  rfl

end

/-! ### LOOP_COEF, LOOP_CLASS and LOOP_OUTPUT (R297–R299) -/

theorem f32At_wr (v : W32) : f32At (wr 4 v.toNat) 0 = v := by
  rw [f32At, show leAt (wr 4 v.toNat) 0 4 = leNat (wr 4 v.toNat) from rfl, leNat_wr v.isLt, BitVec.ofNat_toNat, BitVec.setWidth_eq]

section
variable {r : Req} {core : Fin 11} {inst : Fin 512} {at_ : Nat} {s : State} (hloop : (loopType core.val inst.val).isSome = true)
include hloop

section
variable {block : List Byte} (hadmits : s.admits r (loopObj Obj.LOOP_COEF core.val inst.val) block at_ = true)
include hadmits

theorem loopCoef_taken (hopen : (s.chip.loop core.val inst.val).mode = modeOpen) (hok : coefOk block = true) :
    Ends (.loopCoefWrite r core inst block) s (fun t =>
      t.chip.loop core.val inst.val = { s.chip.loop core.val inst.val with coef := some block } ∧
      t.answers r (loopObj Obj.LOOP_COEF core.val inst.val) rcOK ∧ t.mem = s.mem) := by
  refine rowWriteOn_ends (c := s.chip.updLoop core.val inst.val fun l => { l with coef := some block }) (code := rcOK) rfl hadmits ?_
    fun t ht => ⟨?_, ht.answers, ht.mem⟩
  · rw [if_neg (loopType_not_isNone hloop), if_neg (by simp [hopen]), if_neg (by simp [hok])]
  · rw [Chip.loop_of_loops ht.loops]
    exact Chip.loop_updLoop_same ..

/-- The count of refused writes and the reason are different objects. -/
theorem loopCoef_closed (hclosed : (s.chip.loop core.val inst.val).mode ≠ modeOpen) :
    Ends (.loopCoefWrite r core inst block) s (fun t => t.chip.loops = s.chip.loops ∧
      t.chip.reg (Obj.CNT_COEF_REFUSED + core.val) = (s.chip.reg (Obj.CNT_COEF_REFUSED + core.val) + 1) % 2 ^ 64 ∧
      t.chip.reg Obj.TRAVERSE_REFUSE_REASON = trNotOpen ∧ t.answers r (loopObj Obj.LOOP_COEF core.val inst.val) rcRefused ∧
      t.mem = s.mem) := by
  have hkeys : Obj.TRAVERSE_REFUSE_REASON < Obj.CNT_DICT_REFUSED ∧ Obj.CNT_DICT_REFUSED < Obj.CNT_COEF_REFUSED ∧
      Obj.CNT_COEF_REFUSED + core.val < 2 ^ 24 := ⟨by decide, by decide, by simp only [Obj.CNT_COEF_REFUSED]; omega⟩
  refine rowWriteOn_ends (c := (s.chip.bump (Obj.CNT_COEF_REFUSED + core.val)).setReg Obj.TRAVERSE_REFUSE_REASON trNotOpen)
    (code := rcRefused) rfl hadmits ?_ fun t ht => ⟨ht.loops, ?_, ?_, ht.answers, ht.mem⟩
  · rw [if_neg (loopType_not_isNone hloop), if_pos (by simpa using hclosed)]
    rfl
  · rw [Chip.reg, ht.get _ _ hkeys.2.2 (by omega), State.on_chip, ← Chip.reg, Chip.reg_setReg_other _ _ (by omega), Chip.reg_bump, if_pos rfl]
  · rw [ht.reg hkeys.1, State.on_chip, Chip.reg_setReg_same]
    rfl

end

theorem loopClass_taken {cls : Byte} (hadmits : s.admits r (loopObj Obj.LOOP_CLASS core.val inst.val) (wr 1 cls.toNat) at_ = true)
    (hopen : (s.chip.loop core.val inst.val).mode = modeOpen) (hcls : cls.toNat ≤ 2)
    (hbudget : s.chip.budgetWith core.val inst.val (fun l => { l with cls := some cls.toNat }) = true) :
    Ends (.loopClassWrite r core inst cls) s (fun t =>
      t.chip.loop core.val inst.val = { s.chip.loop core.val inst.val with cls := some cls.toNat } ∧
      t.answers r (loopObj Obj.LOOP_CLASS core.val inst.val) rcOK ∧ t.mem = s.mem) := by
  refine rowWriteOn_ends (c := s.chip.updLoop core.val inst.val fun l => { l with cls := some cls.toNat }) (code := rcOK) rfl hadmits ?_
    fun t ht => ⟨?_, ht.answers, ht.mem⟩
  · rw [if_neg (loopType_not_isNone hloop), if_neg (by simp [hopen]), leNat_wr (n := 1) cls.isLt, if_neg (Nat.not_lt.mpr hcls),
      if_neg (by simp [hbudget])]
  · rw [Chip.loop_of_loops ht.loops]
    exact Chip.loop_updLoop_same ..

section
variable {value : W32} (hadmits : s.admits r (loopObj Obj.LOOP_OUTPUT core.val inst.val) (wr 4 value.toNat) at_ = true)
include hadmits

theorem loopOutput_taken (hopen : (s.chip.loop core.val inst.val).mode = modeOpen) :
    Ends (.loopOutputWrite r core inst value) s (fun t =>
      t.chip.loop core.val inst.val = { s.chip.loop core.val inst.val with uS := value } ∧
      t.answers r (loopObj Obj.LOOP_OUTPUT core.val inst.val) rcOK ∧ t.mem = s.mem) := by
  refine rowWriteOn_ends (c := s.chip.updLoop core.val inst.val fun l => { l with uS := value }) (code := rcOK) rfl hadmits ?_
    fun t ht => ⟨?_, ht.answers, ht.mem⟩
  · rw [if_neg (loopType_not_isNone hloop), if_neg (by simp [hopen]), f32At_wr]
  · rw [Chip.loop_of_loops ht.loops]
    exact Chip.loop_updLoop_same ..

theorem loopOutput_closed (hclosed : (s.chip.loop core.val inst.val).mode ≠ modeOpen) :
    Ends (.loopOutputWrite r core inst value) s (fun t => t.chip.loops = s.chip.loops ∧
      t.answers r (loopObj Obj.LOOP_OUTPUT core.val inst.val) rcReadOnly ∧ t.mem = s.mem) := by
  refine rowWriteOn_ends (c := s.chip) (code := rcReadOnly) rfl hadmits ?_ fun t ht => ⟨ht.loops, ht.answers, ht.mem⟩
  rw [if_neg (loopType_not_isNone hloop), if_pos (by simpa using hclosed)]

end

end

/-! ### The saved set (R317) -/

section
variable {r : Req} {s : State} {at_ : Nat}

theorem traverseStoreSave_ends (hadmits : s.admits r Obj.TRAVERSE_STORE (wr 1 1) at_ = true) :
    Ends (.traverseStoreSave r) s (fun t => t.chip.travSaved = some s.chip.travSet ∧ t.chip.loops = s.chip.loops ∧
      t.answers r Obj.TRAVERSE_STORE rcOK ∧ t.mem = s.mem) :=
  rowWriteOn_ends (c := { s.chip with travSaved := some s.chip.travSet }) (code := rcOK) rfl hadmits rfl
    fun _ ht => ⟨ht.travSaved, ht.loops, ht.answers, ht.mem⟩

theorem traverseStoreErase_ends (hadmits : s.admits r Obj.TRAVERSE_STORE (wr 1 2) at_ = true) :
    Ends (.traverseStoreErase r) s (fun t => t.chip.travSaved = none ∧ t.chip.loops = s.chip.loops ∧
      t.answers r Obj.TRAVERSE_STORE rcOK ∧ t.mem = s.mem) :=
  rowWriteOn_ends (c := { s.chip with travSaved := none }) (code := rcOK) rfl hadmits rfl
    fun _ ht => ⟨ht.travSaved, ht.loops, ht.answers, ht.mem⟩

end

/-- Settles O30: the mode that is written is the loop's mode whichever it is, each other write by whether the loop is OPEN, and the two
writes of the saved set. -/
theorem loopWrites : Obligations.LoopWrites := by
  unfold Obligations.LoopWrites
  refine ⟨fun r core inst s at_ => ⟨?toOpen, ?toSearch, ?toTrack, ?toHold, fun hadmits => loopMode_without_loop hadmits rfl⟩,
    fun r core inst s at_ hloop => ⟨fun block hadmits => ?coef, fun cls => loopClass_taken hloop, fun value hadmits => ?output⟩,
    fun r s at_ => ⟨traverseStoreSave_ends, traverseStoreErase_ends⟩⟩
  case toOpen =>
    rintro ⟨hadmits, hloop, hidle, hstep, hbudget⟩
    exact loopMode_taken hadmits rfl (by decide) (absurd · (by decide)) hloop hidle hstep hbudget
  case toSearch =>
    rintro ⟨hadmits, hloop, hidle, hstep, hbudget⟩ hsearch
    exact loopMode_taken hadmits rfl (by decide) (fun _ => hsearch) hloop hidle hstep hbudget
  case toTrack =>
    rintro ⟨hadmits, hloop, hidle, hstep, hbudget⟩
    exact loopMode_taken hadmits rfl (by decide) (absurd · (by decide)) hloop hidle hstep hbudget
  case toHold =>
    rintro ⟨hadmits, hloop, hidle, hstep, hbudget⟩
    exact loopMode_taken hadmits rfl (by decide) (absurd · (by decide)) hloop hidle hstep hbudget
  case coef => exact ⟨loopCoef_taken hloop hadmits, loopCoef_closed hloop hadmits⟩
  case output => exact ⟨loopOutput_taken hloop hadmits, loopOutput_closed hloop hadmits⟩

end Sys2Proof.Machine
end

section
/-! PROOF. A failed loop core against a swap record of a spare laser that does not exist (R277, R286, R295): the failure cancels the swap
and frees its spare at the object that the record's numbers name, and that can be the state of the core. -/
namespace Sys2Proof.Machine

/-- A planned swap of wavelength 3. A light source has two spares; this record names the spare 0xAFFF0 of source 0. -/
def straySpareSwap : Swap := { src := 0, wave := 3, spare := 0xAFFF0 }

/-- A module at work with the record beside it. -/
def straySpare : State := (st lab).on fun c => { c with swaps := [straySpareSwap] }

/-- Nothing bounds the spare of a record, so the state of the spare can stand at the place of another object. -/
theorem spareKey_straySpareSwap : spareKey straySpareSwap.src straySpareSwap.spare = Obj.CORE_STATE := by decide

theorem exec_loopCoreFailed (core : Fin 10) (s : State) :
    exec (.loopCoreFailed core) s = .next (s.on fun c => c.loopCoreFailed core.val) := rfl

/-- Core 0 fails and engine 0 with it, whose swaps are cancelled: the record's spare is marked as free, with 0xFF, after the core is
marked as failed. -/
theorem loopCoreFailed_frees_straySpare : Ends (.loopCoreFailed 0) straySpare (fun t =>
    t.chip.reg (spareKey straySpareSwap.src straySpareSwap.spare) = 0xFF) :=
  ⟨_, exec_loopCoreFailed 0 straySpare, by decide +kernel⟩

/-- Refutes O31: core 0 is not failed, it is declared failed, and CORE_STATE reads 0xFF after it, not 1. The state holds a swap record of
a spare that is not there; the statement's last clause speaks of every state and leaves such records in. -/
theorem not_loopEvents : ¬ Obligations.LoopEvents := by
  unfold Obligations.LoopEvents
  rintro ⟨-, -, hfails⟩
  have hmarks := hfails 0 straySpare (by decide +kernel)
  obtain ⟨t, ⟨hmarked, -⟩, hfreed⟩ := hmarks.common loopCoreFailed_frees_straySpare
  rw [spareKey_straySpareSwap] at hfreed
  have hfailed : t.chip.reg Obj.CORE_STATE = 1 := hmarked
  omega

end Sys2Proof.Machine
end

section
/-! PROOF. Injection generators and capture buffers (R315, R316, Table 11.8): a block that is kept, turned off or refused, a trigger, and
a buffer that is full. -/
namespace Sys2Proof.Machine

theorem State.AnsweredFrom.cores {u t : State} {r : Req} {key code : Nat} (h : u.AnsweredFrom t r key code) : t.chip.cores = u.chip.cores := by
  obtain ⟨_, _, h⟩ := h.shape
  rw [h]

@[simp] theorem Chip.core_updCore_same (c : Chip) (n : Nat) (f : Core → Core) : (c.updCore n f).core n = f (c.core n) := by
  simp [Chip.core, Chip.updCore]

theorem Chip.core_of_cores {c d : Chip} (h : d.cores = c.cores) (n : Nat) : d.core n = c.core n := by
  rw [Chip.core, h, Chip.core]

@[simp] theorem Core.gen_setGen_same (x : Core) (g : Nat) (v : Gen) : (x.setGen g v).gen g = v := by
  unfold Core.setGen Core.gen
  split <;> rfl

@[simp] theorem Core.cap_setCap_same (x : Core) (g : Nat) (v : Cap) : (x.setCap g v).cap g = v := by
  unfold Core.setCap Core.cap
  split <;> rfl

@[simp] theorem Chip.blob_setBlob_same (c : Chip) (i k : Nat) (bs : List Byte) : (c.setBlob i k bs).blob i k = bs := by
  simp [Chip.blob, Chip.setBlob]

theorem Chip.blob_of_blobs {c d : Chip} (h : d.blobs = c.blobs) (i k : Nat) : d.blob i k = c.blob i k := by
  rw [Chip.blob, h, Chip.blob]

/-- Whether a core keeps its budget as it is, at TRACK cost (R291). -/
def Chip.coreFits (c : Chip) (core : Nat) : Bool := fits (c.jobs core false (fun _ l => l))

/-! ### Injection (R315, Table 11.8) -/

/-- A block is kept and its generator starts afresh. -/
def Chip.injected (c : Chip) (core g : Nat) (bs : List Byte) : Chip :=
  (c.setBlob modInst (injKey core g) bs).updCore core fun x => x.setGen g {}

section
variable {r : Req} {core : Fin 11} {gen : Fin 2} {block : BitVec 256} {s : State} {inst : Nat}
  (hadmits : s.admits r (injKey core.val gen.val) (wr 32 block.toNat) inst = true)
  (hloop : (loopType core.val (leAt (wr 32 block.toNat) 0 2)).isSome = true)
  (hok : injectOk (wr 32 block.toNat)
    ((s.chip.loop core.val (leAt (wr 32 block.toNat) 0 2)).classOf core.val (leAt (wr 32 block.toNat) 0 2)) = true)
include hadmits hloop hok

/-- A block within its rules is judged by the budget of its core alone. -/
theorem injectWrite_ends {c : Chip} {code : Nat} {P : State → Prop}
    (heff : (if byteAt (wr 32 block.toNat) 2 != 0 && !(s.chip.injected core.val gen.val (wr 32 block.toNat)).coreFits core.val then
      s.chip.travRefuse trBudget else (s.chip.injected core.val gen.val (wr 32 block.toNat), rcOK)) = (c, code))
    (hP : ∀ t, (s.on fun _ => c).AnsweredFrom t r (injKey core.val gen.val) code → P t) : Ends (.injectWrite r core gen block) s P := by
  refine rowWriteOn_ends rfl hadmits ?_ hP
  rw [if_neg (loopType_not_isNone hloop), if_neg (by simp [hok])]
  exact heff

theorem injectWrite_kept (hfits : byteAt (wr 32 block.toNat) 2 = 0 ∨
      (s.chip.injected core.val gen.val (wr 32 block.toNat)).coreFits core.val = true) :
    Ends (.injectWrite r core gen block) s (fun t => t.chip.blob modInst (injKey core.val gen.val) = wr 32 block.toNat ∧
      (t.chip.core core.val).gen gen.val = {} ∧ t.answers r (injKey core.val gen.val) rcOK ∧ t.chip.loops = s.chip.loops ∧
      t.mem = s.mem) := by
  refine injectWrite_ends hadmits hloop hok (if_neg ?_) fun t ht => ⟨?_, ?_, ht.answers, ht.loops, ht.mem⟩
  · rcases hfits with hoff | hfits
    · simp [hoff]
    · simp [hfits]
  · exact (Chip.blob_of_blobs ht.blobs _ _).trans (Chip.blob_setBlob_same ..)
  · rw [Chip.core_of_cores ht.cores, State.on_chip, Chip.injected, Chip.core_updCore_same, Core.gen_setGen_same]

theorem injectWrite_refused (hon : byteAt (wr 32 block.toNat) 2 ≠ 0)
    (hfull : (s.chip.injected core.val gen.val (wr 32 block.toNat)).coreFits core.val = false) :
    Ends (.injectWrite r core gen block) s (fun t => t.chip.blobs = s.chip.blobs ∧ t.chip.cores = s.chip.cores ∧
      t.chip.reg Obj.TRAVERSE_REFUSE_REASON = trBudget ∧ t.answers r (injKey core.val gen.val) rcRefused ∧ t.mem = s.mem) := by
  refine injectWrite_ends hadmits hloop hok (if_pos (by simp [hon, hfull])) fun t ht => ⟨ht.blobs, ht.cores, ?_, ht.answers, ht.mem⟩
  rw [ht.reg (by decide), State.on_chip, Chip.reg_setReg_same]
  rfl

end

/-! ### Capture blocks (R316) -/

/-- A capture block is kept and its buffer goes to a state: 0 off, 1 armed. -/
def Chip.captureSet (c : Chip) (core g : Nat) (bs : List Byte) (state : Nat) : Chip :=
  (c.setBlob modInst (capKey core g) bs).setReg (capState core g) state

theorem Chip.captureSet_blob (c : Chip) (core g : Nat) (bs : List Byte) (state : Nat) :
    (c.captureSet core g bs state).blob modInst (capKey core g) = bs := Chip.blob_setBlob_same ..

theorem Chip.captureSet_state (c : Chip) (core g : Nat) (bs : List Byte) {state : Nat} (hstate : state < 2) :
    (c.captureSet core g bs state).reg (capState core g) = state := by
  rw [Chip.captureSet, Chip.reg_setReg_same, Nat.mod_eq_of_lt (hstate.trans (by decide))]

/-- The states of the buffers stand between the reason of a refusal and the counters of the dictionary. -/
theorem capState_between (core : Fin 11) (g : Fin 2) :
    Obj.TRAVERSE_REFUSE_REASON < capState core.val g.val ∧ capState core.val g.val < Obj.CNT_DICT_REFUSED := by
  simp only [capState, atIdx, Obj.CAPTURE_STATE, Obj.TRAVERSE_REFUSE_REASON, Obj.CNT_DICT_REFUSED]
  omega

section
variable {r : Req} {core : Fin 11} {buffer : Fin 2} {block : BitVec 128} {s : State} {inst : Nat}
  (hadmits : s.admits r (capKey core.val buffer.val) (wr 16 block.toNat) inst = true)
  (hloop : (loopType core.val (leAt (wr 16 block.toNat) 0 2)).isSome = true) (hok : captureOk (wr 16 block.toNat) = true)
include hadmits hloop hok

theorem captureWrite_off (hoff : byteAt (wr 16 block.toNat) 2 = 0) :
    Ends (.captureWrite r core buffer block) s (fun t => t.chip.blob modInst (capKey core.val buffer.val) = wr 16 block.toNat ∧
      t.chip.reg (capState core.val buffer.val) = 0 ∧ t.chip.cores = s.chip.cores ∧ t.answers r (capKey core.val buffer.val) rcOK ∧
      t.mem = s.mem) := by
  refine rowWriteOn_ends (c := s.chip.captureSet core.val buffer.val (wr 16 block.toNat) 0) (code := rcOK) rfl hadmits ?_
    fun t ht => ⟨?_, ?_, ht.cores, ht.answers, ht.mem⟩
  · rw [if_neg (loopType_not_isNone hloop), if_neg (by simp [hok]), hoff]
    rfl
  · rw [Chip.blob_of_blobs ht.blobs]
    exact Chip.captureSet_blob ..
  · rw [ht.reg (capState_between core buffer).2]
    exact Chip.captureSet_state _ _ _ _ (by decide)

/-- A block that is switched on is judged by the budget of its core with the buffer armed. -/
theorem captureWrite_on {c : Chip} {code : Nat} {P : State → Prop} (hon : byteAt (wr 16 block.toNat) 2 ≠ 0)
    (heff : (if !(s.chip.captureSet core.val buffer.val (wr 16 block.toNat) 1).coreFits core.val then s.chip.travRefuse trBudget
      else ((s.chip.captureSet core.val buffer.val (wr 16 block.toNat) 1).updCore core.val (fun x => x.setCap buffer.val {}), rcOK)) =
      (c, code))
    (hP : ∀ t, (s.on fun _ => c).AnsweredFrom t r (capKey core.val buffer.val) code → P t) : Ends (.captureWrite r core buffer block) s P := by
  refine rowWriteOn_ends rfl hadmits ?_ hP
  rw [if_neg (loopType_not_isNone hloop), if_neg (by simp [hok]), if_neg hon]
  exact heff

theorem captureWrite_armed (hon : byteAt (wr 16 block.toNat) 2 ≠ 0)
    (hfits : (s.chip.captureSet core.val buffer.val (wr 16 block.toNat) 1).coreFits core.val = true) :
    Ends (.captureWrite r core buffer block) s (fun t => t.chip.blob modInst (capKey core.val buffer.val) = wr 16 block.toNat ∧
      t.chip.reg (capState core.val buffer.val) = 1 ∧ (t.chip.core core.val).cap buffer.val = {} ∧
      t.answers r (capKey core.val buffer.val) rcOK ∧ t.mem = s.mem) := by
  refine captureWrite_on hadmits hloop hok hon (if_neg (by simp [hfits])) fun t ht => ⟨?_, ?_, ?_, ht.answers, ht.mem⟩
  · rw [Chip.blob_of_blobs ht.blobs]
    exact s.chip.captureSet_blob core.val buffer.val _ 1
  · rw [ht.reg (capState_between core buffer).2]
    exact s.chip.captureSet_state _ _ _ (by decide)
  · rw [Chip.core_of_cores ht.cores, State.on_chip, Chip.core_updCore_same, Core.cap_setCap_same]

theorem captureWrite_refused (hon : byteAt (wr 16 block.toNat) 2 ≠ 0)
    (hfull : (s.chip.captureSet core.val buffer.val (wr 16 block.toNat) 1).coreFits core.val = false) :
    Ends (.captureWrite r core buffer block) s (fun t => t.chip.blobs = s.chip.blobs ∧
      t.chip.reg (capState core.val buffer.val) = s.chip.reg (capState core.val buffer.val) ∧
      t.answers r (capKey core.val buffer.val) rcRefused ∧ t.mem = s.mem) := by
  obtain ⟨habove, hbelow⟩ := capState_between core buffer
  refine captureWrite_on hadmits hloop hok hon (if_pos (by simp [hfull])) fun t ht => ⟨ht.blobs, ?_, ht.answers, ht.mem⟩
  rw [ht.reg hbelow]
  exact Chip.reg_setReg_other _ _ habove.ne'

end

/-! ### A trigger, and a buffer that is full (R316) -/

section
variable {core : Fin 11} {buffer : Fin 2} {s : State}

theorem captureTrigger_ends (harmed : s.chip.reg (capState core.val buffer.val) = 1)
    (hnow : byteAt (s.chip.blob modInst (capKey core.val buffer.val)) 2 ≠ 2) :
    Ends (.captureTrigger core buffer) s (fun t => t = s.on (fun c => c.setReg (capState core.val buffer.val) 2)) := by
  have htriggers : s.chip.captureTrigger core.val buffer.val = s.chip.setReg (capState core.val buffer.val) 2 :=
    if_pos (by simp [harmed, hnow])
  exact ⟨_, rfl, congrArg (fun c : Chip => { s with chip := c }) htriggers⟩

theorem captureDone_ends (hrunning : s.chip.reg (capState core.val buffer.val) = 2)
    (hfull : 16384 ≤ ((s.chip.core core.val).cap buffer.val).pre.length + ((s.chip.core core.val).cap buffer.val).recs.length) :
    Ends (.captureDone core buffer) s (fun t => t.chip.reg (capState core.val buffer.val) = 3 ∧ t.chip.cores = s.chip.cores ∧
      t.chip.said 0x0909 0xFF [] ∧ t.mem = s.mem) := by
  have hends : s.chip.captureDone core.val buffer.val = (s.chip.setReg (capState core.val buffer.val) 3).raiseMod 0x0909 [] :=
    if_pos (by simp [hrunning, hfull])
  refine ends_on rfl hends fun t hchip hmem => ?_
  rw [hchip]
  refine ⟨?_, Chip.raise_cores .., Chip.raiseMod_said .., hmem⟩
  rw [Chip.raiseMod, Chip.raise_reg_of_lt _ _ _ _ ((capState_between core buffer).2.trans (by decide)), Chip.reg_setReg_same]
  rfl

end

/-- Settles O32: a block by whether it is switched on and whether its core keeps the budget, then the trigger and the end. -/
theorem injectAndCapture : Obligations.InjectAndCapture := by
  unfold Obligations.InjectAndCapture
  refine ⟨fun r core gen block s inst hadmits hloop hok => ?inject, fun r core buffer block s inst hadmits hloop hok => ?capture,
    fun core buffer s => ⟨captureTrigger_ends, captureDone_ends⟩⟩
  case inject => exact ⟨injectWrite_kept hadmits hloop hok, injectWrite_refused hadmits hloop hok⟩
  case capture =>
    exact ⟨captureWrite_off hadmits hloop hok, captureWrite_armed hadmits hloop hok, captureWrite_refused hadmits hloop hok⟩

end Sys2Proof.Machine
end

section
/-! PROOF. The block as a whole (R351, R359, R475): a step runs the command at the front of the queue, every command completes, and the
state at reset; and the alert line (R472). -/
namespace Sys2Proof.Machine

/-- Settles O54: a step takes the front of the queue and performs it, and idles on an empty queue. -/
theorem stepRunsTheFrontCommand : Obligations.StepRunsTheFrontCommand := by
  unfold Obligations.StepRunsTheFrontCommand
  refine ⟨fun i rest s => rfl, fun s hidle => ?_⟩
  rw [step, hidle]

/-- Settles O55: every command answers a next state with the commands that wait as they were. -/
theorem commandsComplete : Obligations.CommandsComplete := by
  unfold Obligations.CommandsComplete
  intro i s
  obtain ⟨t, hexec, hkeeps⟩ := exec_carries i s
  exact ⟨t, hexec, hkeeps.pending⟩

/-- An object that nothing has changed reads as its default (R351). -/
theorem Chip.get_of_unset {c : Chip} {inst key : Nat} (h : Tbl.find c.regs (ikey inst key) = none) : c.get inst key = objDefault key := by
  rw [Chip.get, h]

theorem reset_regs : State.reset.chip.regs = factoryRegs := rfl

/-- An object that the factory gave no value of its own reads as its default at reset. -/
theorem reset_get_of_unset {inst key : Nat} (h : Tbl.find factoryRegs (ikey inst key) = none) :
    State.reset.chip.get inst key = objDefault key :=
  Chip.get_of_unset (by rw [reset_regs, h])

/-- No partition's state is a value of the factory's. -/
theorem wsState_unset {k : Nat} (hk : k < 8) : Tbl.find factoryRegs (ikey modInst (Obj.WS_STATE + k)) = none := by
  interval_cases k <;> rfl

theorem wsState_default {k : Nat} (hk : k < 8) : objDefault (Obj.WS_STATE + k) = wsFree := by
  interval_cases k <;> decide +kernel

/-- Settles O57: the reset state's tables are empty, and its objects are the factory's values and the defaults. -/
theorem resetState : Obligations.ResetState := by
  unfold Obligations.ResetState
  exact ⟨rfl, rfl, rfl, rfl, rfl, fun _ _ => rfl, fun k hk => (reset_get_of_unset (wsState_unset hk)).trans (wsState_default hk),
    fun _ _ => reset_get_of_unset⟩

/-- A number is not zero exactly when one of its bits is set. -/
theorem land_ne_zero_iff (a b : Nat) : Nat.land a b ≠ 0 ↔ ∃ i, bitAt a i = true ∧ bitAt b i = true := by
  have hbit : ∀ i, (Nat.land a b).testBit i = (a.testBit i && b.testBit i) := fun i => Nat.testBit_land a b i
  constructor
  · intro hne
    obtain ⟨i, hi⟩ := Nat.exists_testBit_of_ne_zero hne
    rw [hbit, Bool.and_eq_true] at hi
    exact ⟨i, hi⟩
  · rintro ⟨i, ha, hb⟩ hzero
    have hi := hbit i
    rw [hzero, Nat.zero_testBit] at hi
    simp_all [bitAt]

/-- Settles O60: the mask of ALERT_EN over ALERT_CAUSE is not empty where they share a bit. -/
theorem alertLine : Obligations.AlertLine := by
  unfold Obligations.AlertLine
  intro c hpower
  simp only [Chip.alertLow, hpower, Bool.true_and, Bool.or_eq_true, bne_iff_ne, land_ne_zero_iff, or_assoc]

end Sys2Proof.Machine
end

section
/-! PROOF. Time under MANUAL (R367, R371): a step of device time, a change of its rate, and PTP that is not used. -/
namespace Sys2Proof.Machine

/-- A step makes device time the value it steps to. -/
theorem Chip.now_stepTime (c : Chip) {ns : Nat} (hns : ns < 2 ^ 64) (cause : Nat) : (c.stepTime ns cause).now = ns := by
  rw [Chip.stepTime, Chip.raiseMod, Chip.now_raise]
  simp only [Chip.now, Chip.exactTime, Chip.bump, Chip.count_anchorTime, Chip.count_anchorRaw, Chip.count_raw]
  rw [Nat.add_sub_cancel_left, Nat.mod_self, Nat.zero_mul, Nat.add_zero, Nat.mul_div_cancel _ (by decide), Nat.mod_eq_of_lt hns]

/-- A state of the time unit that is entered leaves device time. -/
theorem Chip.now_timeTo (c : Chip) (st : Nat) : (c.timeTo st).now = c.now := by
  have hset : (c.setReg Obj.TIME_STATE st).now = c.now := Chip.now_setReg _ _ _ (by decide)
  unfold Chip.timeTo
  split_ifs
  · rfl
  · exact (Chip.now_raise ..).trans hset
  · exact (Chip.now_raise ..).trans hset
  · exact hset

/-- A change of rate does not let device time jump. -/
theorem Chip.now_setRate (c : Chip) (rate : Int) : (c.setRate rate).now = c.now := by
  have hsame : (c.setRate rate).exactTime = c.exactTime := by
    rw [Chip.exactTime, show (c.setRate rate).raw = c.raw from rfl, show (c.setRate rate).anchorRaw = c.raw from rfl,
      Nat.add_sub_cancel_left, Nat.mod_self, Nat.zero_mul, Nat.add_zero, show (c.setRate rate).anchorTime = c.exactTime from rfl]
  rw [Chip.now, hsame, Chip.now]

theorem ofSigned_toSigned {v : Nat} (h : v < 2 ^ 32) : ofSigned 32 (toSigned 32 v) = v := by
  simp only [ofSigned, toSigned, Nat.mod_eq_of_lt h]
  split <;> omega

theorem Chip.rate_setRate (c : Chip) {v : Nat} (h : v < 2 ^ 32) : (c.setRate (toSigned 32 v)).reg Obj.TIME_RATE = v := by
  rw [Chip.setRate, Chip.reg_setReg_same, ofSigned_toSigned h, Nat.mod_eq_of_lt (by omega)]

/-- An answer leaves device time. -/
theorem State.AnsweredFrom.now {u t : State} {r : Req} {key code : Nat} (h : u.AnsweredFrom t r key code) : t.chip.now = u.chip.now := by
  obtain ⟨gs, ou, hchip⟩ := h.shape
  refine Chip.now_congr ?_ ?_ ?_ (h.reg (by decide)) <;> rw [hchip]

/-- PTP is used under its own source alone. -/
theorem ptpOn_of_manual {c : Chip} (h : c.reg Obj.TIME_SOURCE ≠ 0) : ptpOn c = false := by simp [ptpOn, h]

theorem Chip.fromMaster_of_manual {c : Chip} (h : c.reg Obj.TIME_SOURCE ≠ 0) (port master : Nat) : c.fromMaster port master = false := by
  simp [Chip.fromMaster, ptpOn_of_manual h]

/-- A command that leaves the chip leaves the state. -/
theorem ends_same {i : Instr} {s : State} {f : Chip → Chip} (hexec : exec i s = .next (s.on f)) (hf : f s.chip = s.chip) :
    Ends i s (fun t => t = s) :=
  ⟨_, hexec, by rw [State.on, hf]⟩

section
variable {r : Req} {time : W64} {rate : W32} {s : State} {inst : Nat}

theorem timeSet_manual (hadmits : s.admits r Obj.TIME_SET (wr 8 time.toNat) inst = true) (hmanual : s.chip.reg Obj.TIME_SOURCE ≠ 0) :
    Ends (.timeSet r time) s (fun t => t.chip.now = time.toNat ∧ t.answers r Obj.TIME_SET rcOK) := by
  refine rowWriteOn_ends rfl hadmits (if_neg hmanual) fun t ht => ⟨ht.now.trans ?_, ht.answers⟩
  rw [leNat_wr time.isLt]
  exact (Chip.now_timeTo ..).trans (Chip.now_stepTime _ time.isLt _)

theorem timeSet_ptp (hadmits : s.admits r Obj.TIME_SET (wr 8 time.toNat) inst = true) (hptp : s.chip.reg Obj.TIME_SOURCE = 0) :
    Ends (.timeSet r time) s (fun t => t.chip.now = s.chip.now ∧ t.answers r Obj.TIME_SET rcState) :=
  rowWriteOn_ends rfl hadmits (if_pos hptp) fun _ ht => ⟨ht.now, ht.answers⟩

theorem timeRate_manual (hadmits : s.admits r Obj.TIME_RATE (wr 4 rate.toNat) inst = true) (hmanual : s.chip.reg Obj.TIME_SOURCE ≠ 0) :
    Ends (.timeRate r rate) s (fun t =>
      t.chip.reg Obj.TIME_RATE = rate.toNat ∧ t.chip.now = s.chip.now ∧ t.answers r Obj.TIME_RATE rcOK) := by
  refine rowWriteOn_ends rfl hadmits (if_neg hmanual) fun t ht => ⟨(ht.reg (by decide)).trans ?_, ht.now.trans ?_, ht.answers⟩
  all_goals rw [leNat_wr rate.isLt]
  · exact Chip.rate_setRate _ rate.isLt
  · exact Chip.now_setRate ..

theorem timeRate_ptp (hadmits : s.admits r Obj.TIME_RATE (wr 4 rate.toNat) inst = true) (hptp : s.chip.reg Obj.TIME_SOURCE = 0) :
    Ends (.timeRate r rate) s (fun t =>
      t.chip.reg Obj.TIME_RATE = s.chip.reg Obj.TIME_RATE ∧ t.chip.now = s.chip.now ∧ t.answers r Obj.TIME_RATE rcState) :=
  rowWriteOn_ends rfl hadmits (if_pos hptp) fun _ ht => ⟨ht.reg (by decide), ht.now, ht.answers⟩

end

/-- Settles O24: each write by the source of time, and PTP by its being off under MANUAL. -/
theorem manualTime : Obligations.ManualTime := by
  unfold Obligations.ManualTime
  refine ⟨fun r time s inst hadmits => ⟨timeSet_manual hadmits, timeSet_ptp hadmits⟩,
    fun r rate s inst hadmits => ⟨timeRate_manual hadmits, timeRate_ptp hadmits⟩, fun s hmanual => ⟨?announce, ?sync, ?followUp, ?delayResp, ?timeout⟩⟩
  case announce => exact fun port domain a => ends_same rfl (by simp [ptpOn_of_manual hmanual])
  case sync =>
    exact fun port master domain sq two origin freq corr =>
      ends_same rfl (by simp [Chip.syncIn, Chip.fromMaster_of_manual hmanual])
  case followUp =>
    exact fun port master sq origin freq corr => ends_same rfl (by unfold Chip.followUp; split <;> simp [Chip.fromMaster_of_manual hmanual])
  case delayResp =>
    exact fun port master sq rcv => ends_same rfl (by unfold Chip.delayResp; split <;> simp [Chip.fromMaster_of_manual hmanual])
  case timeout => exact ends_same rfl (by unfold Chip.masterTimeout; split <;> simp [ptpOn_of_manual hmanual])

end Sys2Proof.Machine
end

section
/-! PROOF. The time unit under PTP (R368–R370): the best master's selection, a Sync, its Follow_Up, the delay, and a master that falls
silent; and FSYNC with REFCLK (R372–R375, R466). -/
namespace Sys2Proof.Machine

/-! ### What the time unit's steps leave of its record and its objects -/

@[simp] theorem Chip.timeTo_time (c : Chip) (st : Nat) : (c.timeTo st).time = c.time := by
  unfold Chip.timeTo
  split_ifs <;> simp [Chip.raiseMod]

@[simp] theorem Chip.stepTime_time (c : Chip) (ns cause : Nat) : (c.stepTime ns cause).time = c.time := by
  simp [Chip.stepTime, Chip.raiseMod]

@[simp] theorem Chip.setRate_time (c : Chip) (rate : Int) : (c.setRate rate).time = c.time := rfl

theorem Chip.now_updTime (c : Chip) (f : TimeUnit → TimeUnit) : (c.updTime f).now = c.now := Chip.now_congr rfl rfl rfl rfl

/-- The state that is entered is the state. -/
theorem Chip.state_timeTo (c : Chip) {st : Nat} (hst : st < 2 ^ 64) : (c.timeTo st).reg Obj.TIME_STATE = st := by
  have hset : (c.setReg Obj.TIME_STATE st).reg Obj.TIME_STATE = st := by rw [Chip.reg_setReg_same, Nat.mod_eq_of_lt hst]
  unfold Chip.timeTo
  split_ifs with hsame
  · exact hsame
  · exact (Chip.raiseMod_reg _ _ _ _ (by decide)).trans hset
  · exact (Chip.raiseMod_reg _ _ _ _ (by decide)).trans hset
  · exact hset

/-- The selection keeps the masters that are known. -/
theorem Chip.selectMaster_masters (c : Chip) : c.selectMaster.time.masters = c.time.masters := by
  unfold Chip.selectMaster
  split
  · simp [Chip.updTime]
  · dsimp only
    split_ifs <;> simp [Chip.updTime]

/-- An estimate leaves the master, the sequence and the difference. -/
structure TimeUnit.Followed (t u : TimeUnit) : Prop where
  twoStep : u.twoStep = t.twoStep
  ms : u.ms = t.ms
  reqSeq : u.reqSeq = t.reqSeq
  port : u.port = t.port

theorem Chip.estimate_followed (c : Chip) (off freq corr : Int) : c.time.Followed (c.estimate off freq corr).time := by
  unfold Chip.estimate
  dsimp only
  split_ifs <;> constructor <;> simp [Chip.updTime]

/-- A known send time: the difference, and a request for the delay on the master's port. -/
theorem Chip.synced_spec (c : Chip) (recv origin : Nat) (freq corr : Int) {p : Nat} (hport : c.time.port = some p) :
    (c.synced recv origin freq corr).time.twoStep = c.time.twoStep ∧ (c.synced recv origin freq corr).time.ms = (recv : Int) - origin ∧
    (c.synced recv origin freq corr).time.reqSeq = (c.time.reqSeq + 1) % 65536 ∧
    (c.synced recv origin freq corr).out.getLast? = some (.ptp p 1) := by
  obtain ⟨htwo, hms, hreq, hp⟩ := (c.updTime fun t => { t with ms := (recv : Int) - origin }).estimate_followed
    ((recv : Int) - origin - c.time.delay) freq corr
  replace hp := hp.trans hport
  unfold Chip.synced
  dsimp only [Chip.updTime] at htwo hms hreq hp ⊢
  rw [hp]
  dsimp only [Chip.send]
  exact ⟨htwo, hms, by rw [hreq], List.getLast?_concat⟩

/-- A message of the followed master came in on the port that is followed. -/
theorem Chip.port_of_fromMaster {c : Chip} {port master : Nat} (h : c.fromMaster port master = true) : c.time.port = some port := by
  simp only [Chip.fromMaster, Bool.and_eq_true, decide_eq_true_eq] at h
  exact h.1.2

/-! ### The messages -/

theorem ptpAnnounce_kept {port : Fin 8} {domain : Byte} {a : Announce} {s : State} (hon : ptpOn s.chip = true)
    (hdomain : domain.toNat = s.chip.reg Obj.PTP_DOMAIN) :
    Ends (.ptpAnnounce port domain a) s (fun t => Tbl.find t.chip.time.masters port.val = some a ∧ t.mem = s.mem) := by
  refine ends_on rfl (if_pos (by simp [hon, hdomain])) fun t hchip hmem => ⟨?_, hmem⟩
  rw [hchip, Chip.selectMaster_masters]
  exact Tbl.find_put_same ..

theorem ptpSync_acquires {port : Fin 8} {master : W64} {domain : Byte} {sq : W16} {origin : W64} {freq corr : Int} {s : State}
    (hfrom : s.chip.fromMaster port.val master.toNat = true) (hdomain : domain.toNat = s.chip.reg Obj.PTP_DOMAIN)
    (hunset : s.chip.reg Obj.TIME_STATE = timeUnset) :
    Ends (.ptpSync port master domain sq true origin freq corr) s (fun t => t.chip.reg Obj.TIME_STATE = timeAcquiring ∧
      t.chip.time.twoStep = some (sq.toNat, s.chip.now) ∧ t.chip.now = s.chip.now ∧ t.mem = s.mem) := by
  refine ends_on rfl (if_pos hdomain) fun t hchip hmem => ?_
  let acquiring := (s.chip.timeTo timeAcquiring).updTime fun t => { t with firstSync := false, good := 0 }
  have hnow : acquiring.now = s.chip.now := (Chip.now_updTime ..).trans (s.chip.now_timeTo timeAcquiring)
  have hsync : t.chip = acquiring.updTime fun t => { t with twoStep := some (sq.toNat, acquiring.now) } := by
    rw [hchip, Chip.syncIn, hfrom, Bool.not_true, if_neg Bool.false_ne_true, if_pos hunset, if_pos rfl]
  rw [hsync, hnow]
  exact ⟨s.chip.state_timeTo (by decide), rfl, (Chip.now_updTime ..).trans hnow, hmem⟩

theorem ptpFollowUp_estimates {port : Fin 8} {master : W64} {sq : W16} {origin : W64} {freq corr : Int} {at_ : Nat} {s : State}
    (hfrom : s.chip.fromMaster port.val master.toNat = true) (hsync : s.chip.time.twoStep = some (sq.toNat, at_)) :
    Ends (.ptpFollowUp port master sq origin freq corr) s (fun t => t.chip.time.twoStep = none ∧
      t.chip.time.ms = (at_ : Int) - origin.toNat ∧ t.chip.time.reqSeq = (s.chip.time.reqSeq + 1) % 65536 ∧
      t.chip.out.getLast? = some (.ptp port.val 1) ∧ t.mem = s.mem) := by
  refine ends_on (c := (s.chip.updTime fun t => { t with twoStep := none }).synced at_ origin.toNat freq corr) rfl ?_ fun t hchip hmem => ?_
  · simp [Chip.followUp, hsync, hfrom]
  · obtain ⟨htwo, hms, hreq, hout⟩ := (s.chip.updTime fun t => { t with twoStep := none }).synced_spec at_ origin.toNat freq corr
      (Chip.port_of_fromMaster hfrom)
    rw [hchip]
    exact ⟨htwo, hms, hreq, hout, hmem⟩

theorem ptpDelayResp_delays {port : Fin 8} {master : W64} {sq : W16} {rcv : W64} {t3 : Nat} {s : State}
    (hfrom : s.chip.fromMaster port.val master.toNat = true) (hasked : s.chip.time.reqAt = some t3) (hseq : sq.toNat = s.chip.time.reqSeq) :
    Ends (.ptpDelayResp port master sq rcv) s (fun t =>
      t.chip.time.delay = (s.chip.time.ms + ((rcv.toNat : Int) - t3)) / 2 ∧ t.chip.time.reqAt = none ∧ t.chip.regs = s.chip.regs ∧ t.mem = s.mem) := by
  refine ends_on (c := s.chip.updTime fun t => { t with delay := (t.ms + ((rcv.toNat : Int) - t3)) / 2, reqAt := none }) rfl ?_
    fun t hchip hmem => ?_
  · simp [Chip.delayResp, hasked, hfrom, hseq]
  · rw [hchip]
    exact ⟨rfl, rfl, rfl, hmem⟩

theorem timeMasterTimeout_frees {p : Nat} {s : State} (hon : ptpOn s.chip = true) (hport : s.chip.time.port = some p)
    (halone : Tbl.del s.chip.time.masters p = []) (hlocked : s.chip.reg Obj.TIME_STATE = timeLocked) :
    Ends .timeMasterTimeout s (fun t => t.chip.reg Obj.TIME_STATE = timeFree ∧ t.chip.time.port = none ∧
      t.chip.time.masters = [] ∧ t.mem = s.mem) := by
  let free := (s.chip.timeTo timeFree).updTime fun t => { t with masters := [], port := none }
  refine ends_on (c := free.selectMaster) rfl ?_ fun t hchip hmem => ?_
  · simp [free, Chip.masterTimeout, hport, hon, hlocked, Chip.updTime, halone]
  · have hnone : free.bestPort = none := rfl
    have hselect : free.selectMaster = (free.updTime fun t => { t with port := none }).setReg Obj.TIME_MASTER_ID 0 := by
      rw [Chip.selectMaster, hnone]
    rw [hchip, hselect]
    exact ⟨(Chip.reg_setReg_other _ _ (by decide)).trans (s.chip.state_timeTo (by decide)), rfl, rfl, hmem⟩

/-- Settles O25: each message by what the time unit makes of it. -/
theorem ptpCommands : Obligations.PtpCommands := by
  unfold Obligations.PtpCommands
  exact ⟨fun _ _ _ _ => ptpAnnounce_kept, fun _ _ _ _ _ _ _ _ => ptpSync_acquires, fun _ _ _ _ _ _ _ _ => ptpFollowUp_estimates,
    fun _ _ _ _ _ _ => ptpDelayResp_delays, fun _ _ => timeMasterTimeout_frees⟩

/-! ### FSYNC and REFCLK (R372–R375, R466) -/

section
variable {cycles : Int} {s : State}

theorem fsyncEdge_accepted (hphased : s.chip.time.phased = true) (hnear : cycles.natAbs ≤ 2) (hfixed : s.chip.reg Obj.EPOCH_FIXED = 1) :
    Ends (.fsyncEdge cycles) s (fun t =>
      t.chip.reg Obj.FSYNC_STATE = 0 ∧ t.chip.time.missed = 0 ∧ t.chip.frame = s.chip.frame ∧ t.mem = s.mem) := by
  refine ends_on (c := (s.chip.setReg Obj.FSYNC_STATE 0).updTime fun t => { t with missed := 0, said := false }) rfl ?_
    fun t hchip hmem => ?_
  · have hstill : (s.chip.setReg Obj.FSYNC_STATE 0).reg Obj.EPOCH_FIXED = 1 := (Chip.reg_setReg_other _ _ (by decide)).trans hfixed
    have hstill' : ((s.chip.setReg Obj.FSYNC_STATE 0).updTime fun t => { t with missed := 0, said := false }).reg Obj.EPOCH_FIXED = 1 := hstill
    simp [Chip.fsyncEdge, hphased, hnear, hstill']
  · rw [hchip]
    exact ⟨Chip.reg_setReg_same _ _ 0, rfl, rfl, hmem⟩

/-- FSYNC_STATE after an edge too far off. -/
def Chip.misplaced (c : Chip) : Chip :=
  let d := c.bump Obj.CNT_FSYNC_MISPLACED
  if d.reg Obj.FSYNC_STATE = 1 then d else d.setReg Obj.FSYNC_STATE 2

theorem Chip.misplaced_spec (c : Chip) :
    c.misplaced.reg Obj.CNT_FSYNC_MISPLACED = (c.reg Obj.CNT_FSYNC_MISPLACED + 1) % 2 ^ 64 ∧
    c.misplaced.reg Obj.FSYNC_STATE = (if c.reg Obj.FSYNC_STATE = 1 then 1 else 2) ∧ c.misplaced.frame = c.frame := by
  have hstate : (c.bump Obj.CNT_FSYNC_MISPLACED).reg Obj.FSYNC_STATE = c.reg Obj.FSYNC_STATE := Chip.reg_setReg_other _ _ (by decide)
  have hcount : (c.bump Obj.CNT_FSYNC_MISPLACED).reg Obj.CNT_FSYNC_MISPLACED = (c.reg Obj.CNT_FSYNC_MISPLACED + 1) % 2 ^ 64 :=
    Chip.reg_setReg_same ..
  simp only [Chip.misplaced, hstate]
  split_ifs with hlost
  · exact ⟨hcount, hstate.trans hlost, rfl⟩
  · exact ⟨(Chip.reg_setReg_other _ _ (by decide)).trans hcount, Chip.reg_setReg_same .., rfl⟩

theorem fsyncEdge_misplaced (hphased : s.chip.time.phased = true) (hfar : 2 < cycles.natAbs) :
    Ends (.fsyncEdge cycles) s (fun t =>
      t.chip.reg Obj.CNT_FSYNC_MISPLACED = (s.chip.reg Obj.CNT_FSYNC_MISPLACED + 1) % 2 ^ 64 ∧
      t.chip.reg Obj.FSYNC_STATE = (if s.chip.reg Obj.FSYNC_STATE = 1 then 1 else 2) ∧ t.chip.frame = s.chip.frame ∧ t.mem = s.mem) := by
  obtain ⟨hcount, hstate, hframe⟩ := s.chip.misplaced_spec
  refine ends_on (c := if s.chip.misplaced.time.said then s.chip.misplaced
    else (s.chip.misplaced.updTime fun t => { t with said := true }).raiseMod 0x0A05 []) rfl ?_ fun t hchip hmem => ?_
  · rw [Chip.fsyncEdge, hphased, Bool.not_true, if_neg Bool.false_ne_true, if_neg (by omega)]
    rfl
  · rw [hchip]
    split
    · exact ⟨hcount, hstate, hframe, hmem⟩
    · exact ⟨(Chip.raiseMod_reg _ _ _ _ (by decide)).trans hcount, (Chip.raiseMod_reg _ _ _ _ (by decide)).trans hstate,
        (Chip.raise_frame ..).trans hframe, hmem⟩

theorem fsyncMissing_counts (hphased : s.chip.time.phased = true) :
    Ends .fsyncMissing s (fun t => t.chip.reg Obj.CNT_FSYNC_MISSING = (s.chip.reg Obj.CNT_FSYNC_MISSING + 1) % 2 ^ 64 ∧
      t.chip.time.missed = s.chip.time.missed + 1 ∧ (1 ≤ s.chip.time.missed → t.chip.reg Obj.FSYNC_STATE = 1) ∧
      (1 ≤ s.chip.time.missed → s.chip.reg Obj.FSYNC_STATE ≠ 1 → t.chip.said 0x0A04 0xFF []) ∧ t.mem = s.mem) := by
  let counted := (s.chip.bump Obj.CNT_FSYNC_MISSING).updTime fun t => { t with missed := t.missed + 1 }
  have hcount : counted.reg Obj.CNT_FSYNC_MISSING = (s.chip.reg Obj.CNT_FSYNC_MISSING + 1) % 2 ^ 64 := Chip.reg_setReg_same ..
  have hstate : counted.reg Obj.FSYNC_STATE = s.chip.reg Obj.FSYNC_STATE := Chip.reg_setReg_other _ _ (by decide)
  refine ends_on (c := if counted.time.missed ≥ 2 && counted.reg Obj.FSYNC_STATE != 1
    then (counted.setReg Obj.FSYNC_STATE 1).raiseMod 0x0A04 [] else counted) rfl ?_ fun t hchip hmem => ?_
  · rw [Chip.fsyncMissing, hphased, Bool.not_true, if_neg Bool.false_ne_true]
  · have hmissed : counted.time.missed = s.chip.time.missed + 1 := rfl
    rw [hchip]
    split_ifs with hlost
    · refine ⟨(Chip.raiseMod_reg _ _ _ _ (by decide)).trans ((Chip.reg_setReg_other _ _ (by decide)).trans hcount), ?_,
        fun _ => (Chip.raiseMod_reg _ _ _ _ (by decide)).trans (Chip.reg_setReg_same ..), fun _ _ => Chip.raise_said .., hmem⟩
      rw [Chip.raiseMod, Chip.raise_time, Chip.setReg_time, hmissed]
    · rw [hmissed, hstate, Bool.and_eq_true, decide_eq_true_eq, bne_iff_ne, not_and, not_not] at hlost
      exact ⟨hcount, hmissed, fun hone => hstate.trans (hlost (by omega)), fun hone hne => absurd (hlost (by omega)) hne, hmem⟩

theorem fsyncStartupTimeout_lost (hphased : s.chip.time.phased = false) (hstep : s.chip.reg Obj.STARTUP_STEP = 6) :
    Ends .fsyncStartupTimeout s (fun t => t.chip.reg Obj.FSYNC_STATE = 1 ∧ t.chip.said 0x0A04 0xFF [] ∧ t.mem = s.mem) := by
  refine ends_on rfl (if_pos (by simp [hphased, hstep])) fun t hchip hmem => ?_
  rw [hchip]
  exact ⟨(Chip.raiseMod_reg _ _ _ _ (by decide)).trans (Chip.reg_setReg_same ..), Chip.raise_said .., hmem⟩

theorem refclkLost_reports (hlost : s.chip.time.refclkLost = false) :
    Ends .refclkLost s (fun t =>
      t.chip.time.refclkLost = true ∧ t.chip.said 0x0A06 0xFF [] ∧ t.chip.frame = s.chip.frame ∧ t.mem = s.mem) := by
  refine ends_on rfl (if_neg (by simp [hlost])) fun t hchip hmem => ?_
  rw [hchip, Chip.raiseMod, Chip.raise_time, Chip.raise_frame]
  exact ⟨rfl, Chip.raise_said .., rfl, hmem⟩

end

/-- Settles O26: the edge by its distance, a missing one by the count of those before it, and REFCLK. -/
theorem fsyncCommands : Obligations.FsyncCommands := by
  unfold Obligations.FsyncCommands
  exact ⟨fun _ _ => fsyncEdge_accepted, fun _ _ => fsyncEdge_misplaced, fun _ => fsyncMissing_counts, fun _ => fsyncStartupTimeout_lost,
    fun _ => refclkLost_reports, fun _ => ends_on rfl rfl fun t hchip hmem => by rw [hchip]; exact ⟨rfl, rfl, hmem⟩⟩

end Sys2Proof.Machine
end

section
/-! PROOF. Heartbeats, hung stewards and restarts, and the lease (R154, R397–R402). -/
namespace Sys2Proof.Machine

@[simp] theorem Chip.agent_updAgent_same (c : Chip) (a : Nat) (f : Agent → Agent) : (c.updAgent a f).agent a = f (c.agent a) := by
  simp [Chip.agent, Chip.updAgent, Tbl.upd]

/-- A near miss moves its own count alone. -/
theorem Chip.nearMiss_reg (c : Chip) (cls : Nat) (atLimit : Bool) {key : Nat} (hkey : key ≠ Obj.CNT_NEAR_MISS + cls) :
    (c.nearMiss cls atLimit).reg key = c.reg key := by
  unfold Chip.nearMiss
  split
  · exact Chip.reg_setReg_other _ _ hkey
  · rfl

theorem Chip.nearMiss_agents (c : Chip) (cls : Nat) (atLimit : Bool) : (c.nearMiss cls atLimit).agents = c.agents := by
  unfold Chip.nearMiss
  split <;> rfl

theorem heartbeat_noted {agent : Fin 19} {atLimit : Bool} {s : State} (hrunning : (s.chip.agent agent.val).restarting = false)
    (hsequences : s.chip.hungSeq agent.val = false) :
    Ends (.heartbeat agent atLimit) s (fun t => (t.chip.agent agent.val).beat = true ∧
      t.chip.reg (Obj.HB_LAST + agent.val) = s.chip.frame % 2 ^ 64 ∧ t.mem = s.mem) := by
  have hkey : Obj.HB_LAST + agent.val ≠ Obj.CNT_NEAR_MISS + waitBeat := by
    have := agent.isLt
    simp only [Obj.HB_LAST, Obj.CNT_NEAR_MISS, waitBeat]
    omega
  refine ends_on rfl (if_neg (by simp [hrunning, hsequences])) fun t hchip hmem => ?_
  rw [hchip]
  refine ⟨?_, (Chip.nearMiss_reg _ _ _ hkey).trans (Chip.reg_setReg_same ..), hmem⟩
  rw [Chip.agent, Chip.nearMiss_agents, Chip.setReg_agents]
  exact congrArg Agent.beat (Chip.agent_updAgent_same ..)

theorem agentHung_restarts {agent : Fin 19} {s : State} (hsteward : agent.val ≤ agentB) (hexpects : s.chip.expects agent.val = true)
    (hmisses : s.chip.reg Obj.HB_MISS_LIMIT ≤ (s.chip.agent agent.val).misses) (hfirst : (s.chip.agent agent.val).hangEpoch = 0)
    (hother : (s.chip.agent (1 - agent.val)).restarting = false)
    (hbeats : (s.chip.agent (1 - agent.val)).misses < s.chip.reg Obj.HB_MISS_LIMIT) :
    Ends (.agentHung agent) s (fun t => (t.chip.agent agent.val).restarting = true ∧ (t.chip.agent agent.val).hangEpoch = 1 ∧
      (t.chip.agent agent.val).misses = 0 ∧ t.chip.regs = s.chip.regs ∧ t.mem = s.mem) := by
  refine ⟨s.on fun c => c.updAgent agent.val fun x => { x with misses := 0, hangEpoch := x.hangEpoch + 1, restarting := true }, ?_, ?_⟩
  · rw [show exec (.agentHung agent) s = execAgentHung agent s from rfl, execAgentHung, done_eq]
    rw [if_neg (by simp [hexpects, hmisses]), if_pos hsteward, State.stewardHung, if_neg (by simp [hfirst, hother, hbeats])]
  · dsimp only
    rw [State.on_chip, Chip.agent_updAgent_same, hfirst]
    exact ⟨rfl, rfl, rfl, rfl, rfl⟩

theorem stewardRestartDone_returns {b : Bool} {s : State} (hrestarting : (s.chip.agent (if b then 1 else 0)).restarting = true) :
    Ends (.stewardRestartDone b) s (fun t => (t.chip.agent (if b then 1 else 0)).restarting = false ∧ t.chip.said 0x0D09 0xFF [] ∧
      t.chip.reg Obj.LEASE_HOLDER = s.chip.reg Obj.LEASE_HOLDER ∧ t.mem = s.mem) := by
  refine ends_on rfl (if_pos hrestarting) fun t hchip hmem => ?_
  rw [hchip]
  refine ⟨?_, Chip.raise_said .., Chip.raiseMod_reg _ _ _ _ (by decide), hmem⟩
  rw [Chip.agent, Chip.raiseMod, Chip.raise_agents]
  exact congrArg Agent.restarting (Chip.agent_updAgent_same ..)

theorem supRestartDone_returns {s : State} (hdown : s.chip.supDown = true) :
    Ends .supRestartDone s (fun t => t.chip.said 0x0D0A 0xFF [] ∧ t.mem = s.mem) := by
  refine ends_on rfl (if_pos hdown) fun t hchip hmem => ⟨?_, hmem⟩
  rw [hchip, Chip.supReturn]
  exact Chip.raise_said ..

/-! ### The lease (R401, R402) -/

/-- A change of holder: the holder and the count of changes, with the event, and no other object but the recorder's counters. -/
theorem Chip.leaseTo_spec (c : Chip) {h : Nat} (hh : h < 2 ^ 64) : (c.leaseTo h).reg Obj.LEASE_HOLDER = h ∧
    (c.leaseTo h).reg Obj.CNT_LEASE_CHANGES = (c.reg Obj.CNT_LEASE_CHANGES + 1) % 2 ^ 64 ∧ (c.leaseTo h).said 0x0D05 0xFF [] := by
  refine ⟨?_, ?_, Chip.raise_said ..⟩
  all_goals rw [Chip.leaseTo, Chip.raiseMod_reg _ _ _ _ (by decide), Chip.reg_bump]
  · rw [if_neg (by decide), Chip.reg_setReg_same, Nat.mod_eq_of_lt hh]
  · rw [if_pos rfl, Chip.reg_setReg_other _ _ (by decide)]

theorem Chip.leaseTo_reg (c : Chip) (h : Nat) {key : Nat} (hkey : recorderKey (ikey modInst key) = false) (hholder : key ≠ Obj.LEASE_HOLDER)
    (hchanges : key ≠ Obj.CNT_LEASE_CHANGES) : (c.leaseTo h).reg key = c.reg key := by
  rw [Chip.leaseTo, Chip.raiseMod_reg _ _ _ _ hkey, Chip.reg_bump, if_neg hchanges, Chip.reg_setReg_other _ _ hholder]

section
variable {b atLimit : Bool} {term : W32} {s : State}

theorem leaseClaim_takes (hfree : s.chip.reg Obj.LEASE_HOLDER = 0) :
    Ends (.leaseClaim b) s (fun t => t.chip.reg Obj.LEASE_HOLDER = holderOf b ∧
      t.chip.reg Obj.LEASE_TERM = inc32 (s.chip.reg Obj.LEASE_TERM) ∧ t.chip.reg Obj.LEASE_FRAME = s.chip.frame % 2 ^ 64 ∧
      t.chip.reg Obj.CNT_LEASE_CHANGES = (s.chip.reg Obj.CNT_LEASE_CHANGES + 1) % 2 ^ 64 ∧ t.chip.said 0x0D05 0xFF [] ∧ t.mem = s.mem) := by
  have hholder : holderOf b < 2 ^ 64 := by cases b <;> decide
  have hterm : inc32 (s.chip.reg Obj.LEASE_TERM) < 2 ^ 64 := (Nat.mod_lt _ (by decide)).trans (by decide)
  refine ends_on (c := ((s.chip.setReg Obj.LEASE_TERM (inc32 (s.chip.reg Obj.LEASE_TERM))).setReg Obj.LEASE_FRAME s.chip.frame).leaseTo
    (holderOf b)) rfl (if_pos hfree) fun t hchip hmem => ?_
  obtain ⟨hto, hchanges, hsaid⟩ := Chip.leaseTo_spec ((s.chip.setReg Obj.LEASE_TERM (inc32 (s.chip.reg Obj.LEASE_TERM))).setReg
    Obj.LEASE_FRAME s.chip.frame) hholder
  rw [hchip]
  refine ⟨hto, ?_, ?_, hchanges.trans ?_, hsaid, hmem⟩
  · rw [Chip.leaseTo_reg _ _ (by decide) (by decide) (by decide), Chip.reg_setReg_other _ _ (by decide), Chip.reg_setReg_same,
      Nat.mod_eq_of_lt hterm]
  · rw [Chip.leaseTo_reg _ _ (by decide) (by decide) (by decide), Chip.reg_setReg_same]
  · rw [Chip.reg_setReg_other _ _ (by decide), Chip.reg_setReg_other _ _ (by decide)]

theorem leaseClaim_refused (hheld : s.chip.reg Obj.LEASE_HOLDER ≠ 0) :
    Ends (.leaseClaim b) s (fun t => t = s.on (fun c => c.bump Obj.CNT_LEASE_REFUSED)) :=
  ⟨_, rfl, congrArg (fun c : Chip => { s with chip := c }) (if_neg hheld)⟩

theorem leaseRenew_renews (hholder : s.chip.reg Obj.LEASE_HOLDER = holderOf b) (hterm : s.chip.reg Obj.LEASE_TERM = term.toNat) :
    Ends (.leaseRenew b term atLimit) s (fun t => t.chip.reg Obj.LEASE_FRAME = s.chip.frame % 2 ^ 64 ∧
      t.chip.reg Obj.LEASE_HOLDER = holderOf b ∧ t.chip.reg Obj.LEASE_TERM = term.toNat ∧ t.mem = s.mem) := by
  refine ends_on rfl (if_pos (by simp [hholder, hterm])) fun t hchip hmem => ?_
  rw [hchip]
  refine ⟨(Chip.nearMiss_reg _ _ _ (by decide)).trans (Chip.reg_setReg_same ..), ?_, ?_, hmem⟩
  · exact (Chip.nearMiss_reg _ _ _ (by decide)).trans ((Chip.reg_setReg_other _ _ (by decide)).trans hholder)
  · exact (Chip.nearMiss_reg _ _ _ (by decide)).trans ((Chip.reg_setReg_other _ _ (by decide)).trans hterm)

theorem leaseRenew_refused (h : ¬(s.chip.reg Obj.LEASE_HOLDER = holderOf b ∧ s.chip.reg Obj.LEASE_TERM = term.toNat)) :
    Ends (.leaseRenew b term atLimit) s (fun t => t = s.on (fun c => c.bump Obj.CNT_LEASE_REFUSED)) :=
  ⟨_, rfl, congrArg (fun c : Chip => { s with chip := c }) (if_neg (by simpa using h))⟩

theorem leaseLapse_lapses (hheld : s.chip.reg Obj.LEASE_HOLDER ≠ 0) (hlate : s.chip.reg Obj.LEASE_FRAME + 5 ≤ s.chip.frame) :
    Ends .leaseLapse s (fun t => t.chip.reg Obj.LEASE_HOLDER = 0 ∧ t.chip.reg Obj.LEASE_TERM = s.chip.reg Obj.LEASE_TERM ∧
      t.chip.said 0x0D05 0xFF [] ∧ t.mem = s.mem) := by
  refine ends_on rfl (if_pos (by simp [hheld, hlate])) fun t hchip hmem => ?_
  obtain ⟨hto, -, hsaid⟩ := s.chip.leaseTo_spec (h := 0) (by decide)
  rw [hchip]
  exact ⟨hto, Chip.leaseTo_reg _ _ (by decide) (by decide) (by decide), hsaid, hmem⟩

end

/-- Settles O46: agents by what they are at, then the lease by who holds it. -/
theorem watchdogAndLease : Obligations.WatchdogAndLease := by
  unfold Obligations.WatchdogAndLease
  exact ⟨fun _ _ _ => heartbeat_noted, fun _ _ => agentHung_restarts, fun _ _ => stewardRestartDone_returns,
    fun _ => supRestartDone_returns, fun _ _ => ⟨leaseClaim_takes, leaseClaim_refused⟩,
    fun _ _ _ _ => ⟨leaseRenew_renews, leaseRenew_refused⟩, fun _ => leaseLapse_lapses⟩

end Sys2Proof.Machine
end

section
/-! PROOF. Calibration runs (R318–R325): what a group's calibration can move of the objects, and how a run starts, steps and ends. -/
namespace Sys2Proof.Machine

/-! ### The rows of the calibration objects: one object a group -/

/-- The rows of objects that a group's runs move: its states and results, and its counters. -/
def calRow (k : Nat) : Prop := k % 256 = 0 ∧ (k / 2 ^ 16 = 0xCE ∨ 0xE001 ≤ k / 256 ∧ k / 256 ≤ 0xE008)

theorem Chip.reg_setReg_row (c : Chip) {k l : Nat} (g v : Nat) (h : l ≠ k) : (c.setReg (k + g) v).reg (l + g) = c.reg (l + g) :=
  c.reg_setReg_other v (by omega)

theorem Chip.reg_bump_row (c : Chip) {k l : Nat} (g : Nat) (h : l ≠ k) : (c.bump (k + g)).reg (l + g) = c.reg (l + g) :=
  c.reg_setReg_row g _ h

theorem Chip.raiseMod_row (c : Chip) (ty : Nat) (fs : List (Nat × Nat)) {k g : Nat} (hk : calRow k) (hg : g < 58) :
    (c.raiseMod ty fs).reg (k + g) = c.reg (k + g) :=
  Chip.raiseMod_reg _ _ _ _ (recorderKey_of_subject (by simp only [calRow] at hk; omega))

/-- The object `key` is not one that a run of group `g` moves. -/
def calApart (g key : Nat) : Prop := key / 2 ^ 16 ≠ 0xCB ∧ ¬(calRow (key - g) ∧ g ≤ key)

/-- What a calibration operation on group `g` moves of the module: its group's objects, the runs, and what an event moves. -/
structure Chip.CalWork (g : Nat) (c d : Chip) : Prop where
  reg : ∀ key, calApart g key → d.reg key = c.reg key
  engines : d.engines = c.engines
  runs : ∀ h, h ≠ g → d.calRun h = c.calRun h
  vals : d.calVals = c.calVals

namespace Chip.CalWork

variable {g : Nat} {c d e : Chip}

theorem refl (g : Nat) (c : Chip) : CalWork g c c := ⟨fun _ _ => rfl, rfl, fun _ _ => rfl, rfl⟩

theorem trans (h : CalWork g c d) (h' : CalWork g d e) : CalWork g c e :=
  ⟨fun key hkey => (h'.reg key hkey).trans (h.reg key hkey), h'.engines.trans h.engines,
    fun i hi => (h'.runs i hi).trans (h.runs i hi), h'.vals.trans h.vals⟩

theorem setReg (c : Chip) {k : Nat} (v : Nat) (hk : calRow k) : CalWork g c (c.setReg (k + g) v) := by
  refine ⟨fun key hkey => Chip.reg_setReg_other _ _ ?_, rfl, fun _ _ => rfl, rfl⟩
  rintro rfl
  exact hkey.2 ⟨by rwa [Nat.add_sub_cancel], Nat.le_add_left ..⟩

theorem bump (c : Chip) {k : Nat} (hk : calRow k) : CalWork g c (c.bump (k + g)) := setReg c _ hk

theorem setCal (c : Chip) (st : Nat) (r : CalRun) : CalWork g c (c.setCal g st r) := by
  have hset : CalWork g c (c.setReg (Obj.CAL_STATE + g) st) := setReg c st (by simp [calRow, Obj.CAL_STATE])
  exact ⟨hset.reg, rfl, fun h hh => Tbl.get_put_other _ _ _ hh, rfl⟩

theorem raiseMod (c : Chip) (ty : Nat) (fs : List (Nat × Nat)) : CalWork g c (c.raiseMod ty fs) :=
  ⟨fun _ hkey => Chip.raiseMod_reg _ _ _ _ (recorderKey_of_subject hkey.1), Chip.raise_engines ..,
    fun h _ => by rw [Chip.calRun, Chip.raiseMod, Chip.raise_calRuns, Chip.calRun], Chip.raise_calVals ..⟩

theorem ite {p : Prop} [Decidable p] (hd : CalWork g c d) (he : CalWork g c e) : CalWork g c (if p then d else e) := by
  split <;> assumption

/-! Another group's state, and the enables -/

theorem calState (h : CalWork g c d) {i : Nat} (hi : i < 58) (hg : g < 58) (hne : i ≠ g) : d.calState i = c.calState i := by
  refine h.reg _ ⟨?_, ?_⟩ <;> simp only [calRow, Obj.CAL_STATE] <;> omega

theorem enable (h : CalWork g c d) (hg : g < 58) : d.reg Obj.CAL_ENABLE = c.reg Obj.CAL_ENABLE := by
  refine h.reg _ ⟨?_, ?_⟩ <;> simp only [calRow, Obj.CAL_ENABLE] <;> omega

/-- Whether a unit is there is a matter of its own objects. -/
theorem calBlocked (h : CalWork g c d) (hg : g < 58) {i : Nat} (hi : i < 58) : d.calBlocked i = c.calBlocked i := by
  have hrow : ∀ k n, k < 0xCA0000 → n < 58 → d.reg (k + n) = c.reg (k + n) := fun k n hk hn =>
    h.reg _ ⟨by omega, by simp only [calRow]; omega⟩
  have hmask : d.reg Obj.ETH_PORT_MASK = c.reg Obj.ETH_PORT_MASK := hrow Obj.ETH_PORT_MASK 0 (by decide) (by decide)
  simp only [Chip.calBlocked, h.engines, hmask, hrow Obj.ENGINE_STATE i (by decide) hi, hrow Obj.NOTCH_STATE (i - 8) (by decide) (by omega),
    hrow Obj.ENGINE_STATE (i - 10) (by decide) (by omega), hrow Obj.FAR_STATE (i - 26) (by decide) (by omega),
    hrow Obj.FAR_CHANNEL_BYTES (i - 26) (by decide) (by omega), hrow Obj.NEAR_STATE (i - 42) (by decide) (by omega),
    hrow Obj.NEAR_STACK_BYTES (i - 42) (by decide) (by omega)]

end Chip.CalWork

/-! ### A run starts (R319) -/

theorem Chip.calState_setCal (c : Chip) (g : Nat) {st : Nat} (hst : st < 2 ^ 64) (r : CalRun) : (c.setCal g st r).calState g = st := by
  have hset : (c.setReg (Obj.CAL_STATE + g) st).reg (Obj.CAL_STATE + g) = st := by rw [Chip.reg_setReg_same, Nat.mod_eq_of_lt hst]
  exact hset

@[simp] theorem Chip.calRun_setCal (c : Chip) (g st : Nat) (r : CalRun) : (c.setCal g st r).calRun g = r := Tbl.get_put_same ..

theorem Chip.setCal_row (c : Chip) (g st : Nat) (r : CalRun) {k : Nat} (hk : k ≠ Obj.CAL_STATE) :
    (c.setCal g st r).reg (k + g) = c.reg (k + g) := c.reg_setReg_row g st hk

/-- A run may start of this group. -/
def Chip.calReady (c : Chip) (g : Nat) : Bool := c.calState g = calIdle && bitAt (c.reg Obj.CAL_ENABLE) g && !c.calBlocked g

theorem Chip.calStart_of_ready {c : Chip} {g : Nat} (temp : W32) (h : c.calReady g = true) :
    c.calStart g temp = (c.setCal g calMeasure { temp := temp }).bump (Obj.CNT_CAL_RUNS + g) := if_pos h

theorem Chip.calStart_measures {c : Chip} {g : Nat} (temp : W32) (h : c.calReady g = true) : (c.calStart g temp).calState g = calMeasure := by
  rw [Chip.calStart_of_ready temp h, Chip.calState, Chip.reg_bump_row _ _ (by decide)]
  exact c.calState_setCal g (by decide) _

theorem Chip.CalWork.calStart (c : Chip) (g : Nat) (temp : W32) : CalWork g c (c.calStart g temp) :=
  .ite ((setCal c _ _).trans (bump _ (by simp [calRow, Obj.CNT_CAL_RUNS]))) (refl g c)

/-- A start of a group leaves its state at MEASURE or as it was. -/
theorem Chip.calStart_keeps_measure {c : Chip} {g : Nat} (temp : W32) (h : c.calState g = calMeasure) :
    (c.calStart g temp).calState g = calMeasure := by
  rw [Chip.calStart, if_neg (by simp [h, calIdle, calMeasure]), h]

/-! ### A run ends (R319, R322, R324) -/

/-- The results of a run that has ended, before its count and its event. -/
def Chip.calEnded (c : Chip) (g result : Nat) : Chip :=
  (((c.setCal g calIdle {}).setReg (Obj.CAL_LAST_TEMP + g) (c.calRun g).temp.toNat).setReg (Obj.CAL_LAST_RESULT + g) result).setReg
    (Obj.CAL_LAST_FRAME + g) c.frame

theorem Chip.CalWork.calEnded (c : Chip) (g result : Nat) : CalWork g c (c.calEnded g result) :=
  (((setCal c _ _).trans (setReg _ _ (by simp [calRow, Obj.CAL_LAST_TEMP]))).trans (setReg _ _ (by simp [calRow, Obj.CAL_LAST_RESULT]))).trans
    (setReg _ _ (by simp [calRow, Obj.CAL_LAST_FRAME]))

theorem Chip.calEnded_spec (c : Chip) (g : Nat) {result : Nat} (hresult : result < 2 ^ 64) : (c.calEnded g result).calState g = calIdle ∧
    (c.calEnded g result).reg (Obj.CAL_LAST_RESULT + g) = result ∧ (c.calEnded g result).reg (Obj.CAL_LAST_FRAME + g) = c.frame % 2 ^ 64 := by
  refine ⟨?_, ?_, Chip.reg_setReg_same ..⟩
  · rw [Chip.calState, Chip.calEnded, Chip.reg_setReg_row _ _ _ (by decide), Chip.reg_setReg_row _ _ _ (by decide),
      Chip.reg_setReg_row _ _ _ (by decide)]
    exact c.calState_setCal g (by decide) _
  · rw [Chip.calEnded, Chip.reg_setReg_row _ _ _ (by decide), Chip.reg_setReg_same, Nat.mod_eq_of_lt hresult]

/-- What a run that has ended leaves: IDLE, its result and its frame, its event, and what it had moved. -/
structure Chip.CalEnds (c d : Chip) (g result ty : Nat) : Prop where
  idle : d.calState g = calIdle
  result : d.reg (Obj.CAL_LAST_RESULT + g) = result
  frame : d.reg (Obj.CAL_LAST_FRAME + g) = c.frame % 2 ^ 64
  said : d.said ty 0xFF []
  vals : d.calVals = c.calVals

/-- A count of a result, then its event. -/
theorem Chip.calEnds_of_counted (c : Chip) {d : Chip} {g result : Nat} (ty : Nat) (hg : g < 58) (hresult : result < 2 ^ 64)
    (hd : ∀ k, calRow k → k / 2 ^ 16 = 0xE0 → d.reg (k + g) = (c.calEnded g result).reg (k + g)) (hvals : d.calVals = c.calVals) :
    c.CalEnds (d.raiseMod ty []) g result ty := by
  obtain ⟨hidle, hres, hframe⟩ := c.calEnded_spec g hresult
  have hrow : ∀ k, calRow k → k / 2 ^ 16 = 0xE0 → (d.raiseMod ty []).reg (k + g) = (c.calEnded g result).reg (k + g) :=
    fun k hk hk' => (Chip.raiseMod_row _ _ _ hk hg).trans (hd k hk hk')
  exact ⟨(hrow _ (by simp [calRow, Obj.CAL_STATE]) (by decide)).trans hidle, (hrow _ (by simp [calRow, Obj.CAL_LAST_RESULT]) (by decide)).trans hres,
    (hrow _ (by simp [calRow, Obj.CAL_LAST_FRAME]) (by decide)).trans hframe, Chip.raise_said .., (Chip.raise_calVals ..).trans hvals⟩

section
variable (c : Chip) {g : Nat} (hg : g < 58)
include hg

theorem Chip.calEnd_done : c.CalEnds (c.calEnd g calDone) g calDone 0x0E01 :=
  c.calEnds_of_counted (d := c.calEnded g calDone) 0x0E01 hg (by decide) (fun _ _ _ => rfl) rfl

theorem Chip.calEnd_rolledBack : c.CalEnds (c.calEnd g calRolledBack) g calRolledBack 0x0E03 :=
  c.calEnds_of_counted (d := (c.calEnded g calRolledBack).bump (Obj.CNT_CAL_ROLLBACKS + g)) 0x0E03 hg (by decide)
    (fun k _ hk => Chip.reg_bump_row _ _ (by simp only [Obj.CNT_CAL_ROLLBACKS]; omega)) rfl

theorem Chip.calEnd_noData : c.CalEnds (c.calEnd g calNoData) g calNoData 0x0E04 :=
  c.calEnds_of_counted (d := (c.calEnded g calNoData).bump (Obj.CNT_CAL_REJECTED + g)) 0x0E04 hg (by decide)
    (fun k _ hk => Chip.reg_bump_row _ _ (by simp only [Obj.CNT_CAL_REJECTED]; omega)) rfl

end

theorem Chip.CalWork.calEnd (c : Chip) (g result : Nat) : CalWork g c (c.calEnd g result) := by
  have hended := Chip.CalWork.calEnded c g result
  unfold Chip.calEnd
  extract_lets t c1 c2 c3 c4
  split
  · exact hended.trans (raiseMod ..)
  · exact hended.trans (bump _ (by simp [calRow, Obj.CNT_CAL_REJECTED]))
  · exact (hended.trans (bump _ (by simp [calRow, Obj.CNT_CAL_ROLLBACKS]))).trans (raiseMod ..)
  · exact (hended.trans (bump _ (by simp [calRow, Obj.CNT_CAL_REJECTED]))).trans (raiseMod ..)

/-! ### A step of a run with one lane (R323) -/

/-- A step of the one lane of a run that is not paused: its parameter, the count, and what the lane has still to move. -/
theorem Chip.calStepAll_one {c : Chip} {g : Nat} {l l' : CalLane} {p : Nat} {by_ : Int} {f : CalLane → Option (Nat × Int × CalLane)}
    (hlanes : (c.calRun g).lanes = [l]) (hgo : c.calPaused g l.lane = false) (hf : f l = some (p, by_, l')) :
    c.calStepAll g f = (c.calMove g l.lane p by_).setCal g (c.calState g) { c.calRun g with lanes := [l'] } := by
  have hstate : (c.calMove g l.lane p by_).calState g = c.calState g := Chip.reg_bump_row _ _ (by decide)
  have hrun : (c.calMove g l.lane p by_).calRun g = c.calRun g := rfl
  rw [Chip.calStepAll, hlanes, List.foldl_cons, List.foldl_nil, if_neg (by simp [hgo]), hf]
  dsimp only
  rw [hstate, hrun, hlanes, List.map_cons, List.map_nil, if_pos rfl]

/-- One parameter has moved by `by_`, and is counted. -/
structure Chip.CalMoved (c d : Chip) (g lane p : Nat) (by_ : Int) : Prop where
  value : Tbl.get d.calVals 0 (calKey g lane p) = Tbl.get c.calVals 0 (calKey g lane p) + by_
  count : d.reg (Obj.CNT_CAL_STEPS + g) = (c.reg (Obj.CNT_CAL_STEPS + g) + 1) % 2 ^ 64

theorem Chip.calMove_moved (c : Chip) (g lane p : Nat) (by_ : Int) : c.CalMoved (c.calMove g lane p by_) g lane p by_ :=
  ⟨Tbl.get_put_same .., Chip.reg_setReg_same ..⟩

theorem Chip.CalMoved.setCal {c d : Chip} {g lane p : Nat} {by_ : Int} (h : c.CalMoved d g lane p by_) (st : Nat) (r : CalRun) :
    c.CalMoved (d.setCal g st r) g lane p by_ :=
  ⟨h.value, (Chip.setCal_row _ _ _ _ (by decide)).trans h.count⟩

end Sys2Proof.Machine
end

section
/-! PROOF. The calibration commands (R318–R325): a trigger, the end of MEASURE, one step, the end of VERIFY, and the two requests. -/
namespace Sys2Proof.Machine

/-! ### A trigger (R319) -/

section
variable {group : Fin 58} {temp : W32} {s : State}

/-- The chip with the group's sensor read. -/
def Chip.calSensed (c : Chip) (g : Nat) (temp : W32) : Chip := { c with calTemps := Tbl.put c.calTemps g temp }

/-- Whether a temperature has moved by more than CAL_TEMP_DELTA. -/
def Chip.calMoved (c : Chip) (g : Nat) (temp : W32) : Bool :=
  f32Lt (BitVec.ofNat 32 (c.reg Obj.CAL_TEMP_DELTA)) (f32Abs (f32Sub temp (BitVec.ofNat 32 (c.reg (Obj.CAL_LAST_TEMP + g)))))

theorem calTrigger_starts (hmoved : s.chip.calMoved group.val temp = true) (hready : s.chip.calReady group.val = true) :
    Ends (.calTrigger group temp) s (fun t => t.chip.calState group.val = calMeasure ∧ (t.chip.calRun group.val).temp = temp ∧
      (t.chip.calRun group.val).lanes = [] ∧
      t.chip.reg (Obj.CNT_CAL_RUNS + group.val) = (s.chip.reg (Obj.CNT_CAL_RUNS + group.val) + 1) % 2 ^ 64 ∧ t.mem = s.mem) := by
  have hsensed : (s.chip.calSensed group.val temp).calReady group.val = true := hready
  refine ends_on (c := (s.chip.calSensed group.val temp).calStart group.val temp) rfl (if_pos hmoved) fun t hchip hmem => ?_
  rw [hchip]
  refine ⟨Chip.calStart_measures temp hsensed, ?_, ?_, ?_, hmem⟩
  all_goals rw [Chip.calStart_of_ready temp hsensed]
  · exact congrArg CalRun.temp (Chip.calRun_setCal (s.chip.calSensed group.val temp) group.val calMeasure { temp := temp })
  · exact congrArg CalRun.lanes (Chip.calRun_setCal (s.chip.calSensed group.val temp) group.val calMeasure { temp := temp })
  · rw [Chip.reg_bump, if_pos rfl, Chip.setCal_row _ _ _ _ (by decide)]
    rfl

theorem calTrigger_reads (hstill : s.chip.calMoved group.val temp = false) :
    Ends (.calTrigger group temp) s (fun t => t = s.on (fun c => { c with calTemps := Tbl.put c.calTemps group.val temp })) :=
  ⟨_, rfl, congrArg (fun c : Chip => { s with chip := c }) (if_neg (by rw [Bool.not_eq_true]; exact hstill))⟩

end

/-! ### The end of MEASURE (R320–R322) -/

section
variable {group : Fin 58} {d : CalData} {s : State} (hmeasure : s.chip.calState group.val = calMeasure)
include hmeasure

/-- The lane that one measurement within its range gives to the run. -/
def calSolved (d : CalData) : CalLane :=
  { lane := d.lane.toNat, todo := calTodo d.steps, width := d.width, height := d.height, resid := d.resid }

theorem calMeasureDone_applies (hdata : d.data = true) (hthere : d.lane.toNat ∉ (s.chip.calRun group.val).gone)
    (hrange : d.inRange = true) (hsteps : d.steps.all (fun x => decide (x.2.natAbs ≤ s.chip.reg Obj.CAL_MAX_STEPS)) = true) :
    Ends (.calMeasureDone group [d]) s (fun t => t.chip.calState group.val = calApply ∧ t.chip.calVals = s.chip.calVals ∧ t.mem = s.mem ∧
      (t.chip.calRun group.val).lanes.map (fun l => (l.lane, l.todo)) = [(d.lane.toNat, calTodo d.steps)]) := by
  refine ends_on (c := s.chip.setCal group.val calApply { s.chip.calRun group.val with lanes := [calSolved d], said := false }) rfl ?_
    fun t hchip hmem => ?_
  · have hkept : [d].filter (fun d => d.data && !(s.chip.calRun group.val).gone.contains d.lane.toNat) = [d] := by
      simp [hdata, hthere]
    have hok : [d].filter (fun d => d.inRange && d.steps.all (fun x => decide (x.2.natAbs ≤ s.chip.reg Obj.CAL_MAX_STEPS))) = [d] := by
      simp only [List.filter_cons, hrange, hsteps, Bool.and_self, if_true, List.filter_nil]
    rw [if_pos hmeasure, Chip.calSolve]
    dsimp only
    rw [hkept, hok]
    rfl
  · rw [hchip]
    refine ⟨Chip.calState_setCal _ _ (by decide) _, rfl, hmem, ?_⟩
    rw [Chip.calRun_setCal]
    rfl

theorem calMeasureDone_noData :
    Ends (.calMeasureDone group []) s (fun t => t.chip.calState group.val = calIdle ∧
      t.chip.reg (Obj.CAL_LAST_RESULT + group.val) = calNoData ∧ t.chip.said 0x0E04 0xFF [] ∧ t.mem = s.mem) := by
  have hends := s.chip.calEnd_noData group.isLt
  refine ends_on (c := s.chip.calEnd group.val calNoData) rfl (if_pos hmeasure) fun t hchip hmem => ?_
  rw [hchip]
  exact ⟨hends.idle, hends.result, hends.said, hmem⟩

theorem calNodataTimeout_leaves : Ends (.calNodataTimeout group d.lane false) s (fun t => t.chip.calState group.val = calMeasure ∧
    (t.chip.calRun group.val).gone = (s.chip.calRun group.val).gone ++ [d.lane.toNat] ∧ t.mem = s.mem) := by
  refine ends_on rfl (if_pos hmeasure) fun t hchip hmem => ?_
  rw [if_neg Bool.false_ne_true] at hchip
  rw [hchip]
  exact ⟨Chip.calState_setCal _ _ (by decide) _, congrArg CalRun.gone (Chip.calRun_setCal ..), hmem⟩

theorem calNodataTimeout_ends : Ends (.calNodataTimeout group d.lane true) s (fun t => t.chip.calState group.val = calIdle ∧
    t.chip.reg (Obj.CAL_LAST_RESULT + group.val) = calNoData ∧ t.chip.said 0x0E04 0xFF [] ∧ t.mem = s.mem) := by
  have hends := s.chip.calEnd_noData group.isLt
  refine ends_on (c := s.chip.calEnd group.val calNoData) rfl ((if_pos hmeasure).trans (if_pos rfl)) fun t hchip hmem => ?_
  rw [hchip]
  exact ⟨hends.idle, hends.result, hends.said, hmem⟩

end

/-! ### A step, forward or back (R323, R324) -/

section
variable {group : Fin 58} {l : CalLane} {p : Nat} {resid : W32} {s : State} (hlanes : (s.chip.calRun group.val).lanes = [l])
  (hgo : s.chip.calPaused group.val l.lane = false)
include hlanes hgo

theorem calParamStep_verifies (happly : s.chip.calState group.val = calApply) (hlast : l.todo = [(p, 1)])
    (hresid : f32Lt (BitVec.ofNat 32 (s.chip.reg (Obj.CAL_MAX_RESIDUAL + calClass group.val))) resid = false) :
    Ends (.calParamStep group resid) s (fun t => t.chip.calState group.val = calVerify ∧
      Tbl.get t.chip.calVals 0 (calKey group.val l.lane p) = Tbl.get s.chip.calVals 0 (calKey group.val l.lane p) + 1 ∧
      t.chip.reg (Obj.CNT_CAL_STEPS + group.val) = (s.chip.reg (Obj.CNT_CAL_STEPS + group.val) + 1) % 2 ^ 64 ∧ t.mem = s.mem) := by
  let l' : CalLane := { l with todo := [], moved := (p, 1) :: l.moved }
  let stepped := (s.chip.calMove group.val l.lane p 1).setCal group.val (s.chip.calState group.val) { s.chip.calRun group.val with lanes := [l'] }
  have hstep : s.chip.calStepAll group.val CalLane.next = stepped :=
    Chip.calStepAll_one hlanes hgo (by rw [CalLane.next, hlast]; rfl)
  have hlimit : stepped.reg (Obj.CAL_MAX_RESIDUAL + calClass group.val) = s.chip.reg (Obj.CAL_MAX_RESIDUAL + calClass group.val) := by
    have hgroup := group.isLt
    refine (Chip.reg_setReg_other _ _ ?_).trans (Chip.reg_setReg_other _ _ ?_)
    all_goals simp only [Obj.CAL_MAX_RESIDUAL, Obj.CAL_STATE, Obj.CNT_CAL_STEPS]; omega
  have hrun : stepped.calRun group.val = { s.chip.calRun group.val with lanes := [l'] } := Chip.calRun_setCal ..
  have hmoved := ((s.chip.calMove_moved group.val l.lane p 1).setCal (s.chip.calState group.val) { s.chip.calRun group.val with lanes := [l'] }).setCal
    calVerify (stepped.calRun group.val)
  refine ends_on (c := stepped.setCal group.val calVerify (stepped.calRun group.val)) rfl ?_ fun t hchip hmem => ?_
  · rw [Chip.calStep, if_pos happly, hstep]
    dsimp only
    rw [hlimit, hresid, if_neg Bool.false_ne_true, if_pos (by rw [hrun]; rfl)]
  · rw [hchip]
    exact ⟨Chip.calState_setCal _ _ (by decide) _, hmoved.value, hmoved.count, hmem⟩

theorem calParamStep_rolledBack (hback : s.chip.calState group.val = calRollback) (hlast : l.moved = [(p, 1)]) :
    Ends (.calParamStep group resid) s (fun t => t.chip.calState group.val = calIdle ∧
      t.chip.reg (Obj.CAL_LAST_RESULT + group.val) = calRolledBack ∧
      Tbl.get t.chip.calVals 0 (calKey group.val l.lane p) = Tbl.get s.chip.calVals 0 (calKey group.val l.lane p) - 1 ∧
      t.chip.said 0x0E03 0xFF [] ∧ t.mem = s.mem) := by
  let l' : CalLane := { l with moved := [] }
  let stepped := (s.chip.calMove group.val l.lane p (-1)).setCal group.val (s.chip.calState group.val) { s.chip.calRun group.val with lanes := [l'] }
  have hstep : s.chip.calStepAll group.val CalLane.back = stepped :=
    Chip.calStepAll_one hlanes hgo (by rw [CalLane.back, hlast])
  have hrun : stepped.calRun group.val = { s.chip.calRun group.val with lanes := [l'] } := Chip.calRun_setCal ..
  have hstate : stepped.calState group.val = calRollback := by
    rw [Chip.calState_setCal _ _ (by rw [hback]; decide), hback]
  have hends := stepped.calEnd_rolledBack group.isLt
  refine ends_on (c := stepped.calEnd group.val calRolledBack) rfl ?_ fun t hchip hmem => ?_
  · rw [Chip.calStep, if_neg (by rw [hback]; decide), if_pos hback, hstep, Chip.calSettle, if_pos]
    rw [hstate, hrun]
    rfl
  · rw [hchip]
    exact ⟨hends.idle, hends.result, (congrArg (Tbl.get · 0 _) hends.vals).trans (s.chip.calMove_moved group.val l.lane p (-1)).value,
      hends.said, hmem⟩

end

/-! ### The end of VERIFY (R322, R326) -/

/-- The quality objects of a group move none of the limits that its figures are judged by. -/
theorem Chip.calQuality_limits (c : Chip) {g : Nat} (hg : g < 58) (fs : List (Nat × W32 × W32 × W32)) {key : Nat} (hkey : 0xE01000 ≤ key) :
    (c.calQuality g fs).reg key = c.reg key := by
  unfold Chip.calQuality
  split
  · rfl
  · simp only [Obj.CAL_WORST_LANE, Obj.CAL_EYE_WIDTH, Obj.CAL_EYE_HEIGHT, Obj.CAL_RESIDUAL]
    rw [Chip.reg_setReg_other _ _ (by omega), Chip.reg_setReg_other _ _ (by omega), Chip.reg_setReg_other _ _ (by omega),
      Chip.reg_setReg_other _ _ (by omega)]

theorem Chip.calQuality_frame (c : Chip) (g : Nat) (fs : List (Nat × W32 × W32 × W32)) : (c.calQuality g fs).frame = c.frame := by
  unfold Chip.calQuality
  split <;> rfl

/-- A lane is judged by the limits alone. -/
theorem Chip.calPasses_quality (c : Chip) {g : Nat} (hg : g < 58) (fs : List (Nat × W32 × W32 × W32)) (l : CalLane) (w h r : W32) :
    (c.calQuality g fs).calPasses g l w h r = c.calPasses g l w h r := by
  have hlimit : ∀ k, 0xE01000 ≤ k → (c.calQuality g fs).reg (k + calClass g) = c.reg (k + calClass g) := fun k hk =>
    c.calQuality_limits hg fs (by omega)
  simp only [Chip.calPasses, hlimit Obj.CAL_MIN_EYE_WIDTH (by decide), hlimit Obj.CAL_MIN_EYE_HEIGHT (by decide),
    hlimit Obj.CAL_MAX_RESIDUAL (by decide)]

theorem calVerifyDone_ends {group : Fin 58} {data : List CalData} {s : State} (hverify : s.chip.calState group.val = calVerify)
    (hpass : (s.chip.calRun group.val).lanes.all (fun l => let f := calFigures data l; s.chip.calPasses group.val l f.1 f.2.1 f.2.2) = true) :
    Ends (.calVerifyDone group data) s (fun t => t.chip.calState group.val = calIdle ∧
      t.chip.reg (Obj.CAL_LAST_RESULT + group.val) = calDone ∧
      t.chip.reg (Obj.CAL_LAST_FRAME + group.val) = s.chip.frame % 2 ^ 64 ∧ t.chip.said 0x0E01 0xFF [] ∧ t.mem = s.mem) := by
  let figures := (s.chip.calRun group.val).lanes.map (fun l => (l.lane, calFigures data l))
  have hends := (s.chip.calQuality group.val figures).calEnd_done group.isLt
  refine ends_on (c := (s.chip.calQuality group.val figures).calEnd group.val calDone) rfl ((if_pos hverify).trans (if_pos ?_))
    fun t hchip hmem => ?_
  · simp only [Chip.calPasses_quality _ group.isLt]
    exact hpass
  · rw [hchip]
    exact ⟨hends.idle, hends.result, hends.frame.trans (by rw [Chip.calQuality_frame]), hends.said, hmem⟩

/-- Settles O33: a run by the state it is in and what comes to it. -/
theorem calibrationRuns : Obligations.CalibrationRuns := by
  unfold Obligations.CalibrationRuns
  refine ⟨fun group temp s => ⟨fun hmoved hidle henabled hthere => ?start, calTrigger_reads⟩, fun group d s hmeasure => ?measure,
    fun group l p resid s happly hlanes hlast hgo hresid => calParamStep_verifies hlanes hgo happly hlast hresid,
    fun group l p resid s hback hlanes hlast hgo => calParamStep_rolledBack hlanes hgo hback hlast,
    fun group data s hverify hpass => calVerifyDone_ends hverify hpass⟩
  case start => exact calTrigger_starts hmoved (by simp [Chip.calReady, hidle, henabled, hthere])
  case measure =>
    exact ⟨calMeasureDone_applies hmeasure, calMeasureDone_noData hmeasure, calNodataTimeout_leaves hmeasure,
      calNodataTimeout_ends hmeasure⟩

/-! ### The two requests (R319, R325) -/

/-- What the one step of a fold that concerns `a` brings about from `P`, and the others keep. -/
theorem foldl_of_mem_from {α β : Type} {f : β → α → β} {P Q : β → Prop} {a : α} {l : List α} (hset : ∀ b, P b → Q (f b a))
    (hbefore : ∀ b x, x ∈ l → x ≠ a → P b → P (f b x)) (hafter : ∀ b x, x ∈ l → Q b → Q (f b x)) (ha : a ∈ l) {b : β} (hb : P b) :
    Q (l.foldl f b) := by
  induction l generalizing b with
  | nil => cases ha
  | cons x l ih =>
    by_cases hx : x = a
    · subst hx
      exact List.foldlRecOn l f (hset b hb) fun d hd y hy => hafter d y (List.mem_cons_of_mem _ hy) hd
    · exact ih (fun b y hy => hbefore b y (List.mem_cons_of_mem _ hy)) (fun b y hy => hafter b y (List.mem_cons_of_mem _ hy))
        ((List.mem_cons.mp ha).resolve_left (Ne.symm hx)) (hbefore b x (List.mem_cons_self ..) hx hb)

theorem mem_setBits {n x i : Nat} : i ∈ setBits n x ↔ i < n ∧ bitAt x i = true := by
  simp [setBits, bitAt]

theorem Chip.CalWork.calReady {c d : Chip} {g i : Nat} (h : CalWork g c d) (hg : g < 58) (hi : i < 58) (hne : i ≠ g)
    (hready : c.calReady i = true) : d.calReady i = true := by
  rw [Chip.calReady, h.calState hi hg hne, h.enable hg, h.calBlocked hg hi]
  exact hready

/-- The starts that a request asks for. -/
def Chip.calStarts (c : Chip) (v : Nat) : Chip :=
  (setBits 58 v).foldl (fun c g => c.calStart g (Tbl.get c.calTemps (BitVec.ofNat 32 (c.reg (Obj.CAL_LAST_TEMP + g))) g)) c

theorem Chip.calStarts_measures {c : Chip} {v g : Nat} (hg : g < 58) (hnamed : bitAt v g = true) (hready : c.calReady g = true) :
    (c.calStarts v).calState g = calMeasure := by
  refine foldl_of_mem_from (P := fun d : Chip => d.calReady g = true) (Q := fun d : Chip => d.calState g = calMeasure) (a := g)
    (fun d hd => Chip.calStart_measures _ hd) (fun d i hi hne hd => ?_) (fun d i hi hd => ?_) (mem_setBits.mpr ⟨hg, hnamed⟩) hready
  · exact (Chip.CalWork.calStart d i _).calReady (mem_setBits.mp hi).1 hg hne.symm hd
  · by_cases hsame : i = g
    · subst hsame
      exact Chip.calStart_keeps_measure _ hd
    · exact ((Chip.CalWork.calStart d i _).calState hg (mem_setBits.mp hi).1 (Ne.symm hsame)).trans hd

theorem Chip.CalWork.calSettle (c : Chip) (g : Nat) : CalWork g c (c.calSettle g) := .ite (.calEnd ..) (refl g c)

theorem Chip.CalWork.calDisable (c : Chip) (g : Nat) : CalWork g c (c.calDisable g) :=
  .ite ((setCal c _ _).trans (calSettle ..)) (.ite (refl g c) (setCal c _ _))

/-- Runs that a cleared enable ends at once (Table 12.3). -/
def Chip.calEndable (c : Chip) (g : Nat) : Prop := c.calState g = calMeasure ∨ c.calState g = calVerify

theorem Chip.calDisable_idle {c : Chip} {g : Nat} (h : c.calEndable g) : (c.calDisable g).calState g = calIdle := by
  have hends : c.calDisable g = c.setCal g calIdle {} := by
    unfold Chip.calDisable
    rcases h with h | h <;> rw [h] <;> rfl
  rw [hends, Chip.calState_setCal _ _ (by decide)]

/-- The runs that a new enable ends. -/
def Chip.calDisables (c : Chip) (v : Nat) : Chip :=
  ((setBits 58 (c.reg Obj.CAL_ENABLE)).filter (fun g => !bitAt v g)).foldl Chip.calDisable (c.setReg Obj.CAL_ENABLE v)

theorem Chip.calDisables_idle {c : Chip} {v g : Nat} (hg : g < 58) (hcleared : bitAt v g = false)
    (hset : bitAt (c.reg Obj.CAL_ENABLE) g = true) (hends : c.calEndable g) : (c.calDisables v).calState g = calIdle := by
  have hlt : ∀ {i}, i ∈ (setBits 58 (c.reg Obj.CAL_ENABLE)).filter (fun g => !bitAt v g) → i < 58 := fun hi =>
    (mem_setBits.mp (List.mem_of_mem_filter hi)).1
  have hsame : (c.setReg Obj.CAL_ENABLE v).calState g = c.calState g := Chip.reg_setReg_other _ _ (by simp only [Obj.CAL_STATE, Obj.CAL_ENABLE]; omega)
  refine foldl_of_mem_from (P := fun d : Chip => d.calEndable g) (Q := fun d : Chip => d.calState g = calIdle) (a := g)
    (fun d hd => Chip.calDisable_idle hd) (fun d i hi hne hd => ?_) (fun d i hi hd => ?_)
    (List.mem_filter.mpr ⟨mem_setBits.mpr ⟨hg, hset⟩, by simp [hcleared]⟩) ?_
  · rw [Chip.calEndable, (Chip.CalWork.calDisable d i).calState hg (hlt hi) hne.symm]
    exact hd
  · by_cases hi' : i = g
    · subst hi'
      have hstays : d.calDisable i = d := by rw [Chip.calDisable, hd]; rfl
      rw [hstays, hd]
    · exact ((Chip.CalWork.calDisable d i).calState hg (hlt hi) (Ne.symm hi')).trans hd
  · rw [Chip.calEndable, hsame]
    exact hends

theorem Chip.calDisables_enable (c : Chip) {v : Nat} (hv : v < 2 ^ 64) : (c.calDisables v).reg Obj.CAL_ENABLE = v := by
  refine List.foldlRecOn (motive := fun d : Chip => d.reg Obj.CAL_ENABLE = v) _ _ ?_ fun d hd i hi => ?_
  · rw [Chip.reg_setReg_same, Nat.mod_eq_of_lt hv]
  · exact ((Chip.CalWork.calDisable d i).enable (mem_setBits.mp (List.mem_of_mem_filter hi)).1).trans hd

section
variable {r : Req} {mask : W64} {s : State} {inst : Nat}

/-- A group's state is not an object that an answer moves. -/
theorem State.AnsweredFrom.calState {u t : State} {key code : Nat} (h : u.AnsweredFrom t r key code) {g : Nat} (hg : g < 58) :
    t.chip.calState g = u.chip.calState g :=
  h.get modInst _ (by simp only [Obj.CAL_STATE]; omega) (by simp only [Obj.CAL_STATE, Obj.CNT_DICT_REFUSED]; omega)

theorem State.AnsweredFrom.calRuns {u t : State} {key code : Nat} (h : u.AnsweredFrom t r key code) : t.chip.calRuns = u.chip.calRuns := by
  obtain ⟨_, _, h⟩ := h.shape
  rw [h]

theorem calRequest_starts (hadmits : s.admits r Obj.CAL_REQUEST (wr 8 mask.toNat) inst = true) (hgroups : mask.toNat < 2 ^ 58) :
    Ends (.calRequest r mask) s (fun t => t.answers r Obj.CAL_REQUEST rcOK ∧ t.mem = s.mem ∧
      ∀ g, g < 58 → bitAt mask.toNat g = true → s.chip.calState g = calIdle → bitAt (s.chip.reg Obj.CAL_ENABLE) g = true →
        s.chip.calBlocked g = false → t.chip.calState g = calMeasure) := by
  have heff := leNat_wr (n := 8) mask.isLt
  refine rowWriteOn_ends rfl hadmits (c := s.chip.calStarts (leNat (wr 8 mask.toNat))) (if_neg (by rw [heff]; omega)) fun t ht =>
    ⟨ht.answers, ht.mem, fun g hg hnamed hidle henabled hthere => (ht.calState hg).trans ?_⟩
  exact Chip.calStarts_measures hg (by rw [heff]; exact hnamed) (by simp [Chip.calReady, hidle, henabled, hthere])

theorem calRequest_refused (hadmits : s.admits r Obj.CAL_REQUEST (wr 8 mask.toNat) inst = true) (hgroups : 2 ^ 58 ≤ mask.toNat) :
    Ends (.calRequest r mask) s (fun t => t.chip.calRuns = s.chip.calRuns ∧ t.answers r Obj.CAL_REQUEST rcRange ∧ t.mem = s.mem) := by
  have heff := leNat_wr (n := 8) mask.isLt
  exact rowWriteOn_ends rfl hadmits (if_pos (by rw [heff]; exact hgroups)) fun t ht => ⟨ht.calRuns, ht.answers, ht.mem⟩

theorem calEnableWrite_ends (hadmits : s.admits r Obj.CAL_ENABLE (wr 8 mask.toNat) inst = true) (hgroups : mask.toNat < 2 ^ 58) :
    Ends (.calEnableWrite r mask) s (fun t => t.chip.reg Obj.CAL_ENABLE = mask.toNat ∧
      t.answers r Obj.CAL_ENABLE rcOK ∧ t.mem = s.mem ∧
      ∀ g, g < 58 → bitAt mask.toNat g = false → bitAt (s.chip.reg Obj.CAL_ENABLE) g = true →
        s.chip.calState g = calMeasure ∨ s.chip.calState g = calVerify → t.chip.calState g = calIdle) := by
  have heff := leNat_wr (n := 8) mask.isLt
  refine rowWriteOn_ends rfl hadmits (c := s.chip.calDisables (leNat (wr 8 mask.toNat))) (if_neg (by rw [heff]; omega)) fun t ht =>
    ⟨?_, ht.answers, ht.mem, fun g hg hcleared hset hends => (ht.calState hg).trans ?_⟩
  · refine (ht.get modInst Obj.CAL_ENABLE (by decide) (by decide)).trans ?_
    rw [heff]
    exact Chip.calDisables_enable _ mask.isLt
  · exact Chip.calDisables_idle hg (by rw [heff]; exact hcleared) hset hends

end

/-- Settles O34: each group of a request by itself, since a run moves its own group's objects alone. -/
theorem calibrationRequests : Obligations.CalibrationRequests := by
  unfold Obligations.CalibrationRequests
  exact fun r mask s inst => ⟨fun hadmits => ⟨calRequest_starts hadmits, calRequest_refused hadmits⟩, calEnableWrite_ends⟩

end Sys2Proof.Machine
end

section
/-! PROOF. The Ethernet ports (R327–R330). -/
namespace Sys2Proof.Machine

section
variable {port : Fin 8} {s : State}

/-- A port's state is written. -/
theorem Chip.eth_setReg (c : Chip) (p : Nat) {st : Nat} (hst : st < 2 ^ 64) : (c.setReg (Obj.ETH_LINK_STATE + p) st).eth p = st := by
  rw [Chip.eth, Chip.reg_setReg_same, Nat.mod_eq_of_lt hst]

/-- An event leaves a port's state. -/
theorem Chip.eth_raise (c : Chip) (ty part : Nat) (fs : List (Nat × Nat)) : (c.raise ty part fs).eth port.val = c.eth port.val := by
  refine Chip.raise_reg _ _ _ _ _ (recorderKey_of_subject ?_)
  have := port.isLt
  simp only [Obj.ETH_LINK_STATE]
  omega

theorem ethLinkUp_up (htraining : s.chip.eth port.val = ethTraining) (hquiet : s.chip.qps = []) :
    Ends (.ethLinkUp port) s (fun t => t.chip.eth port.val = ethUp ∧ t.chip.said 0x0F02 0xFF [] ∧ t.mem = s.mem) := by
  let up := (s.chip.setReg (Obj.ETH_LINK_STATE + port.val) ethUp).raiseMod 0x0F02 []
  have hnone : (up.ethWake port.val).qps = [] := by
    rw [Chip.ethWake, show up.qps = [] from (Chip.raise_qps ..).trans hquiet, List.map_nil]
  have hstate : up.eth port.val = ethUp := (Chip.eth_raise ..).trans (s.chip.eth_setReg port.val (by decide))
  refine ⟨s.on fun _ => up.ethWake port.val, ?_, hstate, Chip.raise_said .., rfl⟩
  have hquiet' : (s.on fun _ => up.ethWake port.val).chip.roceQuiet = true := by
    rw [State.on_chip, Chip.roceQuiet, hnone, List.all_nil]
  rw [show exec (.ethLinkUp port) s = execEthLinkUp port s from rfl, execEthLinkUp, done_eq]
  rw [if_neg (by simp [htraining])]
  exact congrArg Host.Outcome.next (State.roceRun_of_quiet hquiet')

theorem ethLinkDown_trains (hup : s.chip.eth port.val = ethUp) :
    Ends (.ethLinkDown port) s (fun t => t.chip.eth port.val = ethTraining ∧ t.chip.said 0x0F01 0xFF [] ∧
      t.chip.reg (Obj.CNT_ETH_LINK_DOWN + port.val) = (s.chip.reg (Obj.CNT_ETH_LINK_DOWN + port.val) + 1) % 2 ^ 64 ∧
      t.chip.qps = s.chip.qps ∧ t.mem = s.mem) := by
  have hport := port.isLt
  have hkeys : Obj.ETH_LINK_STATE + port.val ≠ Obj.CNT_ETH_LINK_DOWN + port.val := by
    simp only [Obj.ETH_LINK_STATE, Obj.CNT_ETH_LINK_DOWN]; omega
  refine ends_on rfl (if_neg (by simp [hup])) fun t hchip hmem => ?_
  rw [hchip]
  refine ⟨?_, Chip.raise_said .., ?_, Chip.raise_qps .., hmem⟩
  · rw [Chip.raiseMod, Chip.eth_raise, Chip.eth, Chip.reg_bump, if_neg hkeys]
    exact s.chip.eth_setReg port.val (by decide)
  · rw [Chip.raiseMod_reg _ _ _ _ (recorderKey_of_subject (by simp only [Obj.CNT_ETH_LINK_DOWN]; omega)), Chip.reg_bump, if_pos rfl,
      Chip.reg_setReg_other _ _ hkeys.symm]

theorem pauseFrameReceived_counts (hup : s.chip.eth port.val = ethUp) :
    Ends (.pauseFrameReceived port) s (fun t => t = s.on (fun c => c.bump Obj.CNT_PAUSE_IGNORED)) :=
  ⟨_, rfl, congrArg (fun c : Chip => { s with chip := c }) (if_pos hup)⟩

theorem routerAdvertisement_first (hup : s.chip.eth port.val = ethUp) (pfx : W64)
    (hnone : allZero (s.chip.blob modInst (Obj.ETH_PREFIX + port.val)) = true) :
    Ends (.routerAdvertisement port pfx) s (fun t => t.chip.blob modInst (Obj.ETH_PREFIX + port.val) = leBytes 8 pfx.toNat ∧
      t.chip.regs = s.chip.regs ∧ t.mem = s.mem) := by
  refine ends_on rfl (if_pos (by simp [hup, hnone])) fun t hchip hmem => ?_
  rw [hchip]
  exact ⟨Chip.blob_setBlob_same .., rfl, hmem⟩

theorem routerAdvertisement_later (pfx : W64) (hset : allZero (s.chip.blob modInst (Obj.ETH_PREFIX + port.val)) = false) :
    Ends (.routerAdvertisement port pfx) s (fun t => t = s) :=
  ends_same rfl (if_neg (by simp [hset]))

/-- One more failed training of a port. -/
def Chip.ethFailed (c : Chip) (p : Nat) : Chip := { c with ethFails := Tbl.put c.ethFails p (Tbl.get c.ethFails 0 p + 1) }

theorem ethTrainingFailed_again (htraining : s.chip.eth port.val = ethTraining) (hfew : Tbl.get s.chip.ethFails 0 port.val < 2) :
    Ends (.ethTrainingFailed port) s (fun t => t.chip.eth port.val = ethTraining ∧
      Tbl.get t.chip.ethFails 0 port.val = Tbl.get s.chip.ethFails 0 port.val + 1 ∧ t.chip.regs = s.chip.regs ∧ t.mem = s.mem) := by
  refine ends_on (c := s.chip.ethFailed port.val) rfl ((if_neg (by simp [htraining])).trans (if_pos (by omega))) fun t hchip hmem => ?_
  rw [hchip]
  exact ⟨htraining, Tbl.get_put_same .., rfl, hmem⟩

theorem ethTrainingFailed_down (htraining : s.chip.eth port.val = ethTraining) (hthird : Tbl.get s.chip.ethFails 0 port.val = 2) :
    Ends (.ethTrainingFailed port) s (fun t =>
      t.chip.eth port.val = ethDown ∧ bitAt (t.chip.extSoon Obj.ETH_PORT_MASK) port.val = false ∧ t.mem = s.mem) := by
  refine ends_on (c := ((s.chip.ethFailed port.val).setReg (Obj.ETH_LINK_STATE + port.val) ethDown).extSet Obj.ETH_PORT_MASK
    (putBit (s.chip.extSoon Obj.ETH_PORT_MASK) port.val false)) rfl ((if_neg (by simp [htraining])).trans (if_neg (by omega)))
    fun t hchip hmem => ?_
  rw [hchip]
  refine ⟨(s.chip.ethFailed port.val).eth_setReg port.val (by decide), ?_, hmem⟩
  have hsoon : ∀ (c : Chip) (v : Nat), (c.extSet Obj.ETH_PORT_MASK v).extSoon Obj.ETH_PORT_MASK = v := fun c v => Tbl.get_put_same ..
  rw [hsoon]
  exact bitAt_putBit_clear ..

end

/-- Settles O35: a port by its state and what comes to it. -/
theorem ethernetPorts : Obligations.EthernetPorts := by
  unfold Obligations.EthernetPorts
  exact fun port s => ⟨ethLinkUp_up, fun hup => ⟨ethLinkDown_trains hup, pauseFrameReceived_counts hup, routerAdvertisement_first hup,
    routerAdvertisement_later⟩, ethTrainingFailed_again, ethTrainingFailed_down⟩

end Sys2Proof.Machine
end

section
/-! PROOF. RoCE queue pairs as they are served (R340–R344): one queue pair that has something to do, the pieces of its work, and a queue
pair that has nothing left to do. -/
namespace Sys2Proof.Machine

/-! ### Queue pairs by number -/

/-- What is found by its kind after one entry of it was put among others that are not of it. -/
theorem Tbl.find?_put {α : Type} {t : Tbl α} {p : α → Bool} (k : Nat) {v : α} (ht : t.all (fun e => !p e.2) = true) (hv : p v = true) :
    (Tbl.put t k v).find? (fun e => p e.2) = some (k, v) := by
  induction t with
  | nil => simp [Tbl.put, hv]
  | cons e t ih =>
    obtain ⟨j, u⟩ := e
    simp only [List.all_cons, Bool.and_eq_true, Bool.not_eq_true'] at ht
    by_cases hlt : k < j
    · simp [Tbl.put, hlt, hv]
    · by_cases heq : k = j
      · simp [Tbl.put, heq, hv]
      · simp [Tbl.put, hlt, heq, ht.1, ih ht.2]

@[simp] theorem Chip.qp_setQp_same (c : Chip) (q : Nat) (x : Qp) : (c.setQp q x).qp q = x := Tbl.get_put_same ..

@[simp] theorem Chip.qp_updQp_same (c : Chip) (q : Nat) (f : Qp → Qp) : (c.updQp q f).qp q = f (c.qp q) := Chip.qp_setQp_same ..

@[simp] theorem Chip.setQp_setQp (c : Chip) (q : Nat) (x y : Qp) : (c.setQp q x).setQp q y = c.setQp q y := by
  simp only [Chip.setQp, Tbl.put_put]

theorem Chip.qp_of_qps {c d : Chip} (h : d.qps = c.qps) (q : Nat) : d.qp q = c.qp q := by rw [Chip.qp, h, Chip.qp]

theorem Chip.updQp_setQp (c : Chip) (q : Nat) (x : Qp) (f : Qp → Qp) : (c.setQp q x).updQp q f = c.setQp q (f x) := by
  rw [Chip.updQp, Chip.qp_setQp_same, Chip.setQp_setQp]

theorem Chip.roceQuiet_setQp {c : Chip} (h : c.roceQuiet = true) (q : Nat) {x : Qp} (hx : x.ready = false) : (c.setQp q x).roceQuiet = true :=
  Tbl.all_put _ _ _ _ h (by simp [hx])

/-- Where no queue pair has anything to do, none is ready. -/
theorem Chip.not_ready_of_quiet {c : Chip} (h : c.roceQuiet = true) (q : Nat) : (c.qp q).ready = false := by
  unfold Chip.qp Tbl.get
  cases hfound : Tbl.find c.qps q with
  | none => rfl
  | some x =>
    have hall := List.all_eq_true.mp h (q, x) (Tbl.mem_of_find hfound)
    simpa using hall

/-! ### What is configured does not change as queue pairs are served -/

section
variable {c d : Chip} (h : d.blobs = c.blobs) (q : Nat)
include h

theorem Chip.qpCfg_of_blobs : d.qpCfg q = c.qpCfg q := by simp only [Chip.qpCfg, Chip.blob_of_blobs h]
theorem Chip.qpState_of_blobs : d.qpState q = c.qpState q := by rw [Chip.qpState, Chip.qpCfg_of_blobs h, Chip.qpState]

end

theorem Chip.qpOwner_of {c d : Chip} (hblobs : d.blobs = c.blobs) (hparts : d.parts = c.parts) (q : Nat) : d.qpOwner q = c.qpOwner q := by
  have hpart : d.part (qpPart q) = c.part (qpPart q) := by rw [Chip.part, hparts, Chip.part]
  simp only [Chip.qpOwner, hpart, Chip.qpCfg_of_blobs hblobs]

theorem Chip.qpTakes_of {c d : Chip} (hblobs : d.blobs = c.blobs) (hparts : d.parts = c.parts) (q : Nat) : d.qpTakes q = c.qpTakes q := by
  simp only [Chip.qpTakes, Chip.qpState_of_blobs hblobs, Chip.qpOwner_of hblobs hparts]

/-! ### A queue pair with nothing left to do -/

/-- The request that a queue pair would send a packet of. -/
def Qp.sending (x : Qp) : Option Wr := x.wrs.find? (fun w => !w.settled && decide (w.off < w.sends))

/-- A queue pair has no packet, owes no completion, sends nothing and fetches nothing. -/
structure Chip.QpRests (c : Chip) (q : Nat) : Prop where
  jobs : (c.qp q).jobs = []
  owed : (c.qp q).owed = []
  sends : c.qpState q = qpReady → (c.qp q).sending = none
  fetches : (c.qp q).sendProd = (c.qp q).sendCons ∨ c.compRoom q = false

theorem State.qpStep_of_rests {s : State} {q : Nat} (h : s.chip.QpRests q) : s.qpStep q = (s, false) := by
  have hsends : (if s.chip.qpState q = qpReady then (s.chip.qp q).sending else none) = none := by
    split
    · exact h.sends ‹_›
    · rfl
  have hfetches : ((s.chip.qp q).sendProd = (s.chip.qp q).sendCons || (s.chip.qp q).launch.isSome || !s.chip.compRoom q ||
      decide (((s.chip.qp q).wrs.filter (fun w => w.op = 1 && !w.settled)).length ≥ 16)) = true := by
    rcases h.fetches with h | h <;> simp [h]
  unfold State.qpStep
  extract_lets c x k ctx st n
  split
  · rfl
  rw [h.jobs]
  dsimp only
  rw [h.owed]
  dsimp only
  rw [show (if st = qpReady then x.wrs.find? (fun w => !w.settled && decide (w.off < w.sends)) else none) = none from hsends]
  exact if_pos hfetches

theorem State.qpRun_of_rests {s : State} {q : Nat} (h : s.chip.QpRests q) (f : Nat) : State.qpRun q f s = s := by
  cases f with
  | zero => rfl
  | succ f => rw [State.qpRun, State.qpStep_of_rests h]

/-! ### One queue pair is served -/

/-- The chip in which a queue pair is served: it is not ready again until something new comes. -/
def Chip.serving (c : Chip) (q : Nat) : Chip := c.setQp q { c.qp q with ready := false }

/-- The one queue pair that is ready is served, and then what is ready. -/
theorem State.roceRun_of_ready {s : State} {q : Nat} {x : Qp} (hquiet : s.chip.roceQuiet = true) (hready : x.ready = true)
    (hdeny : x.deny = false) : ∃ f, (s.on fun c => c.setQp q x).roceRun =
      State.qpServe f (State.qpRun q (2 ^ 40) (s.on fun c => c.setQp q { x with ready := false })) := by
  have hfind : (s.on fun c => c.setQp q x).chip.qps.find? (fun p => p.2.ready) = some (q, x) :=
    Tbl.find?_put (p := Qp.ready) q hquiet hready
  have hserving : (s.on fun c => c.setQp q x).on (fun c => c.updQp q fun x => { x with ready := false }) =
      s.on fun c => c.setQp q { x with ready := false } := congrArg (fun c : Chip => { s with chip := c }) (Chip.updQp_setQp ..)
  have hserve : ∀ f, State.qpServe (f + 1) (s.on fun c => c.setQp q x) =
      State.qpServe f (State.qpRun q (2 ^ 40) (s.on fun c => c.setQp q { x with ready := false })) := fun f => by
    rw [State.qpServe, hfind]
    dsimp only
    rw [hserving, hdeny, if_neg Bool.false_ne_true]
  refine ⟨2 ^ 16 - 1, ?_⟩
  rw [State.roceRun, show (2 : Nat) ^ 16 = (2 ^ 16 - 1) + 1 from rfl]
  exact hserve _

theorem State.qpServe_of_quiet {s : State} (h : s.chip.roceQuiet = true) (f : Nat) : State.qpServe f s = s := by
  have hnone : s.chip.qps.find? (fun p => p.2.ready) = none := by
    rw [List.find?_eq_none]
    simpa [Chip.roceQuiet] using h
  cases f with
  | zero => rfl
  | succ f => rw [State.qpServe, hnone]

/-- A queue pair that is ready and has nothing to do is left as it is, not ready. -/
theorem State.roceRun_of_rests {s : State} {q : Nat} {x : Qp} (hquiet : s.chip.roceQuiet = true) (hready : x.ready = true)
    (hdeny : x.deny = false) (hrests : (s.chip.setQp q { x with ready := false }).QpRests q) :
    (s.on fun c => c.setQp q x).roceRun = s.on fun c => c.setQp q { x with ready := false } := by
  obtain ⟨f, hrun⟩ := State.roceRun_of_ready hquiet hready hdeny
  rw [hrun, State.qpRun_of_rests hrests]
  exact State.qpServe_of_quiet (Chip.roceQuiet_setQp hquiet q rfl) f

/-- A queue pair takes up the one packet that it has, and has nothing left to do after it. -/
theorem State.qpKick_of_packet {s u : State} {q : Nat} {p : Pkt} {y : Qp} (hquiet : s.chip.roceQuiet = true)
    (hdeny : (s.chip.qp q).deny = false) (hwait : (s.chip.qp q).waitAt = 0) (htakes : s.chip.qpTakes q = true)
    (hjobs : (s.chip.qp q).jobs = [p]) (hpacket : (s.on fun c => c.serving q).packet q p = (u, none))
    (hqps : u.chip.qps = Tbl.put s.chip.qps q y) (hready : y.ready = false)
    (hrests : (u.chip.setQp q { y with jobs := [] }).QpRests q) :
    s.qpKick q = u.on fun c => c.setQp q { y with jobs := [] } := by
  simp only [Chip.qpTakes, Bool.and_eq_true, decide_eq_true_eq] at htakes
  obtain ⟨hstate, howner⟩ := htakes
  have hqp : u.chip.qp q = y := by rw [Chip.qp, hqps, Tbl.get_put_same]
  obtain ⟨f, hrun⟩ := State.roceRun_of_ready (s := s) (q := q) (x := { s.chip.qp q with ready := true }) hquiet rfl hdeny
  have hidle : ((s.on fun c => c.serving q).chip.qp q).waitAt = 0 := (congrArg Qp.waitAt (Chip.qp_setQp_same ..)).trans hwait
  have hjob : ((s.on fun c => c.serving q).chip.qp q).jobs = [p] := (congrArg Qp.jobs (Chip.qp_setQp_same ..)).trans hjobs
  have hstep : (s.on fun c => c.serving q).qpStep q = (u.on fun c => c.setQp q { y with jobs := [] }, true) := by
    rw [State.qpStep]
    dsimp only
    rw [if_neg, hjob]
    · dsimp only
      rw [hpacket]
      dsimp only
      rw [State.on, State.on, Chip.updQp, hqp, ite_self]
    · have hst : (s.on fun c => c.serving q).chip.qpState q = qpReady := hstate
      have hown : ((s.on fun c => c.serving q).chip.qpOwner q).isSome = true := howner
      rw [hidle, hst]
      cases hnone : (s.on fun c => c.serving q).chip.qpOwner q with
      | none => rw [hnone] at hown; cases hown
      | some k => simp [qpReady, qpReset]
  have hrun' : ∀ f, State.qpRun q (f + 1) (s.on fun c => c.serving q) = u.on fun c => c.setQp q { y with jobs := [] } := fun f => by
    rw [State.qpRun, hstep]
    exact State.qpRun_of_rests hrests f
  have hquiet' : (u.on fun c => c.setQp q { y with jobs := [] }).chip.roceQuiet = true := by
    have hall : u.chip.roceQuiet = true := by rw [Chip.roceQuiet, hqps]; exact Tbl.all_put _ _ _ _ hquiet (by simp [hready])
    exact Chip.roceQuiet_setQp hall q hready
  refine hrun.trans ?_
  rw [show (2 : Nat) ^ 40 = (2 ^ 40 - 1) + 1 from rfl]
  exact (congrArg (State.qpServe f) (hrun' _)).trans (State.qpServe_of_quiet hquiet' f)

end Sys2Proof.Machine
end

section
/-! PROOF. Packets that a queue pair receives (R340–R344): what an access for it can change of the module, and a SEND, a WRITE and a READ
request that it expects. -/
namespace Sys2Proof.Machine

/-! ### Accesses for a queue pair (R178, R344) -/

/-- `d` is `c` after accesses for queue pairs: counters, events and what translation keeps; no queue pair and no configuration. -/
structure Chip.RoceAccessed (c d : Chip) : Prop where
  qps : d.qps = c.qps
  blobs : d.blobs = c.blobs
  parts : d.parts = c.parts

namespace Chip.RoceAccessed

variable {b c d : Chip} {s : State}

theorem refl (c : Chip) : RoceAccessed c c := ⟨rfl, rfl, rfl⟩

theorem trans (h : RoceAccessed b c) (h' : RoceAccessed c d) : RoceAccessed b d :=
  ⟨h'.qps.trans h.qps, h'.blobs.trans h.blobs, h'.parts.trans h.parts⟩

theorem of_accessed (h : Accessed c d) : RoceAccessed c d := by
  obtain ⟨_, _, _, _, _, _, rfl⟩ := h.shape
  exact ⟨rfl, rfl, rfl⟩

theorem countPart (h : RoceAccessed b c) (k key n : Nat) : RoceAccessed b (c.countPart k key n) := by
  obtain ⟨_, heq⟩ := c.countPart_shape k key n
  rw [heq]
  exact ⟨h.qps, h.blobs, h.parts⟩

theorem rwalk (h : RoceAccessed b s.chip) (k ctx va : Nat) (write : Bool) : RoceAccessed b (s.rwalk k ctx va write).1.chip := by
  have hwalk := h.trans (of_accessed ((Accessed.refl s.chip).walk 16 k ctx va write))
  exact ⟨hwalk.qps, hwalk.blobs, hwalk.parts⟩

theorem rpages (h : RoceAccessed b s.chip) (k ctx : Nat) (write : Bool) (l : List (Nat × Nat)) :
    RoceAccessed b (State.rpages k ctx write l s).1.chip := by
  induction l generalizing s with
  | nil => exact h
  | cons p l ih =>
    obtain ⟨va, n⟩ := p
    have hwalk := h.rwalk k ctx va write
    unfold State.rpages
    split
    next u pa hu =>
      rw [hu] at hwalk
      have hrest := ih hwalk
      split
      · next w l hw => rw [hw] at hrest; exact hrest
      · exact hrest
    next u i hu =>
      rw [hu] at hwalk
      dsimp only
      split <;> exact hwalk.countPart ..

theorem rreads (h : RoceAccessed b s.chip) (k : Nat) (l : List (Nat × Nat)) : RoceAccessed b (State.rreads k l s).1.chip := by
  induction l generalizing s with
  | nil => exact h
  | cons p l ih =>
    obtain ⟨pa, n⟩ := p
    have hread := h.trans (of_accessed ((Accessed.refl s.chip).readPhys k pa n))
    unfold State.rreads
    split
    next u e hu => rw [hu] at hread; exact hread
    next u bs hu =>
      rw [hu] at hread
      have hrest := ih hread
      split
      · next w r hw => rw [hw] at hrest; exact hrest
      · exact hrest

theorem rwrites (h : RoceAccessed b s.chip) (k : Nat) (l : List (Nat × Nat)) (bs : List Byte) :
    RoceAccessed b (State.rwrites k l bs s).1.chip := by
  induction l generalizing s bs with
  | nil => exact h
  | cons p l ih =>
    obtain ⟨pa, n⟩ := p
    have hwrite := h.trans (of_accessed ((Accessed.refl s.chip).writePhys k pa (bs.take n)))
    unfold State.rwrites
    split
    next u e hu => rw [hu] at hwrite; exact hwrite
    next u hu => rw [hu] at hwrite; exact ih hwrite _

theorem rread (h : RoceAccessed b s.chip) (k ctx va n : Nat) : RoceAccessed b (s.rread k ctx va n).1.chip := by
  have hrange : RoceAccessed b (s.rrange k ctx va n false).1.chip := h.rpages ..
  unfold State.rread
  split
  next u l hu => rw [hu] at hrange; exact hrange.rreads ..
  next u i hu => rw [hu] at hrange; exact hrange
  next u hu => rw [hu] at hrange; exact hrange

theorem rwrite (h : RoceAccessed b s.chip) (k ctx va : Nat) (bs : List Byte) : RoceAccessed b (s.rwrite k ctx va bs).1.chip := by
  have hrange : RoceAccessed b (s.rrange k ctx va bs.length true).1.chip := h.rpages ..
  unfold State.rwrite
  split
  next u l hu => rw [hu] at hrange; exact hrange.rwrites ..
  next u i hu => rw [hu] at hrange; exact hrange
  next u hu => rw [hu] at hrange; exact hrange

end Chip.RoceAccessed

theorem State.rread_accessed {s t : State} {k ctx va n : Nat} {r : RRes (List Byte)} (h : s.rread k ctx va n = (t, r)) :
    s.chip.RoceAccessed t.chip := by
  simpa only [h] using (Chip.RoceAccessed.refl s.chip).rread k ctx va n

theorem State.rwrite_accessed {s t : State} {k ctx va : Nat} {bs : List Byte} {r : RRes Unit} (h : s.rwrite k ctx va bs = (t, r)) :
    s.chip.RoceAccessed t.chip := by
  simpa only [h] using (Chip.RoceAccessed.refl s.chip).rwrite k ctx va bs

/-! ### A queue pair that takes packets and has nothing under way -/

/-- What an idle queue pair is, clause by clause. -/
structure Chip.QpIdle (c : Chip) (q : Nat) : Prop where
  quiet : c.roceQuiet = true
  takes : c.qpTakes q = true
  jobs : (c.qp q).jobs = []
  waitAt : (c.qp q).waitAt = 0
  owed : (c.qp q).owed = []
  fetched : (c.qp q).sendProd = (c.qp q).sendCons
  launch : (c.qp q).launch = none
  deny : (c.qp q).deny = false
  sent : ∀ w ∈ (c.qp q).wrs, w.settled = true ∨ w.sends ≤ w.off

theorem Chip.qpIdle_iff (c : Chip) (q : Nat) : c.qpIdle q = true ↔ c.QpIdle q := by
  simp only [Chip.qpIdle, Bool.and_eq_true, decide_eq_true_eq, List.isEmpty_iff, Option.isNone_iff_eq_none, Bool.not_eq_true',
    List.all_eq_true, Bool.or_eq_true]
  constructor
  · rintro ⟨⟨⟨⟨⟨⟨⟨⟨hquiet, htakes⟩, hjobs⟩, hwait⟩, howed⟩, hfetched⟩, hlaunch⟩, hdeny⟩, hsent⟩
    exact ⟨hquiet, htakes, hjobs, hwait, howed, hfetched, hlaunch, hdeny, hsent⟩
  · rintro ⟨hquiet, htakes, hjobs, hwait, howed, hfetched, hlaunch, hdeny, hsent⟩
    exact ⟨⟨⟨⟨⟨⟨⟨⟨hquiet, htakes⟩, hjobs⟩, hwait⟩, howed⟩, hfetched⟩, hlaunch⟩, hdeny⟩, hsent⟩

/-- Nothing is to be sent of requests that are settled or sent whole. -/
theorem Qp.sending_of_sent {x : Qp} (h : ∀ w ∈ x.wrs, w.settled = true ∨ w.sends ≤ w.off) : x.sending = none := by
  rw [Qp.sending, List.find?_eq_none]
  intro w hw
  rcases h w hw with h | h <;> simp [h]

/-- A queue pair that has its requests sent and owes nothing rests. -/
theorem Chip.qpRests_setQp (c : Chip) (q : Nat) {y : Qp} (hjobs : y.jobs = []) (howed : y.owed = [])
    (hsent : ∀ w ∈ y.wrs, w.settled = true ∨ w.sends ≤ w.off) (hfetched : y.sendProd = y.sendCons) : (c.setQp q y).QpRests q := by
  refine ⟨?_, ?_, fun _ => ?_, .inl ?_⟩
  all_goals rw [Chip.qp_setQp_same]
  · exact hjobs
  · exact howed
  · exact Qp.sending_of_sent hsent
  · exact hfetched

/-! ### A packet that an idle queue pair takes up -/

section
variable {s u : State} {q : Nat} {p : Pkt} {y : Qp}

theorem State.taking_qp (s : State) (q : Nat) (p : Pkt) : (s.taking q p).chip.qp q = { s.chip.qp q with jobs := [p], ready := false } :=
  Chip.qp_setQp_same ..

/-- An idle queue pair takes up a packet, and rests when it is done with it. -/
theorem State.receive_of_idle (hidle : s.chip.QpIdle q) (hpacket : (s.taking q p).packet q p = (u, none))
    (hqps : u.chip.qps = Tbl.put s.chip.qps q y) (hready : y.ready = false) (howed : y.owed = []) (hfetched : y.sendProd = y.sendCons)
    (hsent : ∀ w ∈ y.wrs, w.settled = true ∨ w.sends ≤ w.off) :
    s.receive q p false = u.on fun c => c.setQp q { y with jobs := [] } := by
  let joined : Qp := { s.chip.qp q with jobs := [p] }
  have hstart : s.receive q p false = (s.on fun c => c.setQp q joined).qpKick q := by
    have hjoined : ({ s.chip.qp q with jobs := (s.chip.qp q).jobs ++ [p] } : Qp) = joined := by rw [hidle.jobs]; rfl
    rw [State.receive, hidle.takes, Bool.not_true, if_neg Bool.false_ne_true]
    rw [State.on, if_neg Bool.false_ne_true, Chip.updQp, hjoined]
    rfl
  have hjoin : (s.on fun c => c.setQp q joined).chip.qp q = joined := Chip.qp_setQp_same ..
  have hserve : (s.on fun c => c.setQp q joined).on (fun c => c.serving q) = s.taking q p := by
    show (s.on fun c => (c.setQp q joined).setQp q { (c.setQp q joined).qp q with ready := false }) = s.taking q p
    simp only [Chip.qp_setQp_same, Chip.setQp_setQp]
    rfl
  rw [hstart]
  refine State.qpKick_of_packet (Chip.roceQuiet_setQp hidle.quiet q (Chip.not_ready_of_quiet hidle.quiet q)) ?_ ?_ ?_ ?_ (hserve ▸ hpacket)
    ?_ hready (Chip.qpRests_setQp _ _ rfl howed hsent hfetched)
  · rw [hjoin]; exact hidle.deny
  · rw [hjoin]; exact hidle.waitAt
  · exact (Chip.qpTakes_of rfl rfl q).trans hidle.takes
  · rw [hjoin]
  · exact hqps.trans (Tbl.put_put ..).symm

/-- What is left of a packet that was answered last: the memory, the answer and the queue pair. -/
theorem ends_received {i : Instr} {P : State → Prop} (hidle : s.chip.QpIdle q) (hexec : exec i s = .next (s.receive q p false))
    (hpacket : (s.taking q p).packet q p = (u, none)) (hqps : u.chip.qps = Tbl.put s.chip.qps q y) (hready : y.ready = false)
    (howed : y.owed = []) (hfetched : y.sendProd = y.sendCons) (hsent : ∀ w ∈ y.wrs, w.settled = true ∨ w.sends ≤ w.off)
    (hP : ∀ t : State, t.mem = u.mem → t.chip.out = u.chip.out → t.chip.qp q = { y with jobs := [] } → P t) : Ends i s P := by
  refine ⟨_, hexec, ?_⟩
  rw [State.receive_of_idle hidle hpacket hqps hready howed hfetched hsent]
  exact hP _ rfl rfl (Chip.qp_setQp_same ..)

/-- A packet with the expected PSN is not one seen before, nor one ahead. -/
theorem psnDist_self {a : Nat} (h : a < 2 ^ 24) : psnDist a a = 0 := by
  rw [psnDist, Nat.mod_eq_of_lt h, Nat.add_sub_cancel_left, Nat.mod_self]

section
variable (hlt : p.psn < 2 ^ 24) (hexpected : p.psn = (s.chip.qp q).ePsn)
include hlt hexpected

theorem State.psnDist_taking : psnDist p.psn ((s.taking q p).chip.qp q).ePsn = 0 := by
  rw [State.taking_qp]
  exact hexpected ▸ psnDist_self hlt

theorem State.packet_send (hkind : p.kind = 0) : (s.taking q p).packet q p = (s.taking q p).sendIn q p := by
  rw [State.packet, hkind, State.psnDist_taking hlt hexpected]
  rfl

theorem State.packet_write (hkind : p.kind = 1) : (s.taking q p).packet q p = (s.taking q p).writeIn q p := by
  rw [State.packet, hkind, State.psnDist_taking hlt hexpected]
  rfl

theorem State.packet_read (hkind : p.kind = 2) : (s.taking q p).packet q p = (s.taking q p).readIn q p false := by
  rw [State.packet, hkind, State.psnDist_taking hlt hexpected]
  rfl

end

end

/-! ### The packets (R342, R343) -/

/-- The message of an access that a region allows. -/
theorem Chip.regionAccess_some {c : Chip} {k rkey va len : Nat} {w : Bool} {m : Msg} (h : c.regionAccess k rkey va len w = some m) :
    m.va = va ∧ m.left = len := by
  simp only [Chip.regionAccess, Option.ite_none_left_eq_some] at h
  obtain ⟨_, h⟩ := h
  split at h
  all_goals
    obtain rfl := Option.some.inj h
    exact ⟨rfl, rfl⟩

section
variable {qp : Fin 8192} {psn : BitVec 24} {s : State}

/-- A queue pair whose packet is done with, with its PSN advanced. -/
def Qp.advanced (x : Qp) (p : Pkt) : Qp := { x with jobs := [p], ready := false, ePsn := psnAdd x.ePsn 1, nakSent := false }

theorem Chip.qpNext_of_taking {c : Chip} {s : State} {q : Nat} {p : Pkt} (h : (s.taking q p).chip.RoceAccessed c) (f : Qp → Qp) :
    (c.qpNext q 1 f).qps = Tbl.put s.chip.qps q (f ((s.chip.qp q).advanced p)) := by
  have hqp : c.qp q = { s.chip.qp q with jobs := [p], ready := false } := (Chip.qp_of_qps h.qps q).trans (State.taking_qp s q p)
  rw [Chip.qpNext, Chip.updQp, hqp]
  exact (congrArg (Tbl.put · q _) h.qps).trans (Tbl.put_put ..)

/-- A queue pair that answers a packet and keeps its PSN. -/
theorem State.answered_of_taking (s : State) (q : Nat) (p : Pkt) :
    (s.taking q p).chip.qps = Tbl.put s.chip.qps q { s.chip.qp q with jobs := [p], ready := false } := rfl

/-- A READ of at most a packet is one packet. -/
theorem packetsOf_small {n : Nat} (h : n ≤ 4096) : packetsOf n = 1 := by
  rw [packetsOf, ceilDiv]
  omega

theorem Chip.readReply_one (c : Chip) (q psn : Nat) {bs : List Byte} (h : bs.length ≤ 4096) (hpsn : psn < 2 ^ 24) :
    c.readReply q psn bs = c.send (.roce q 0x10 psn bs) := by
  rw [Chip.readReply, packetsOf_small h]
  simp [psnAdd, Chip.readReply.slice4096, Nat.mod_eq_of_lt (show psn < 16777216 from hpsn), List.take_of_length_le h]

section
variable (hidle : s.chip.QpIdle qp.val) (hpsn : psn.toNat = (s.chip.qp qp.val).ePsn)
include hidle hpsn

theorem roceSend_placed {data e : List Byte} {s1 s2 : State} (hnone : (s.chip.qp qp.val).recv = none) (hwrite : (s.chip.qp qp.val).write = none)
    (hposted : (s.chip.qp qp.val).recvProd ≠ (s.chip.qp qp.val).recvCons) (hring : leAt (s.chip.qpCfg qp.val) 0x28 8 ≠ 0)
    (hroom : s.chip.compRoom qp.val = true) (hlength : data.length = 4096) (hfits : 4096 ≤ leAt e 8 4)
    (hread : (s.taking qp.val { kind := 0, psn := psn.toNat, pos := 0, data := data }).rread (qpPart qp.val) (s.chip.qpCtx qp.val)
      (leAt (s.chip.qpCfg qp.val) 0x28 8 + 16 * ((s.chip.qp qp.val).recvCons % s.chip.qpEntries qp.val)) 16 = (s1, .ok e))
    (hplaced : s1.rwrite (qpPart qp.val) (s.chip.qpCtx qp.val) (leAt e 0 8) data = (s2, .ok ())) :
    Ends (.roceSendReceived qp psn 0 data false) s (fun t => t.mem = s2.mem ∧
      t.chip.out.getLast? = some (.roce qp.val roceAck psn.toNat [BitVec.ofNat 8 0]) ∧
      (t.chip.qp qp.val).ePsn = psnAdd (s.chip.qp qp.val).ePsn 1 ∧ (t.chip.qp qp.val).recvCons = inc32 (s.chip.qp qp.val).recvCons ∧
      ((t.chip.qp qp.val).recv.map (·.left)) = some (leAt e 8 4 - 4096)) := by
  let p : Pkt := { kind := 0, psn := psn.toNat, pos := 0, data := data }
  let m : Msg := { va := leAt e 0 8, ctx := s.chip.qpCtx qp.val, left := leAt e 8 4, id := leAt e 12 4 }
  let m' : Msg := { m with va := m.va + data.length, left := m.left - data.length, total := m.total + data.length }
  let place : Qp → Qp := fun x => { x with recvCons := inc32 x.recvCons, recv := some m' }
  have haccessed := (State.rread_accessed hread).trans (State.rwrite_accessed hplaced)
  have hqp := State.taking_qp s qp.val p
  have hroom' : (s.taking qp.val p).chip.compRoom qp.val = true := by
    rw [Chip.compRoom, hqp]
    exact hroom
  have hpacket : (s.taking qp.val p).packet qp.val p =
      (s2.on fun c => (c.qpNext qp.val 1 place).rack qp.val psn.toNat, none) := by
    rw [State.packet_send psn.isLt hpsn rfl]
    rw [State.sendIn]
    rw [if_neg (by simp [p]), if_pos (by simp [p]), hqp, hnone, hwrite, if_neg (by simp), hroom', hidle.owed]
    rw [if_neg (by simpa using ⟨hring, hposted⟩)]
    erw [hread]
    dsimp only
    rw [State.sendInto]
    dsimp only
    rw [if_neg (by simp [p, hlength, hfits])]
    erw [hplaced]
    rfl
  refine ends_received hidle rfl hpacket (Chip.qpNext_of_taking haccessed place) rfl hidle.owed hidle.fetched hidle.sent
    fun t hmem hout hqp => ⟨hmem, ?_, ?_, ?_, ?_⟩
  · rw [hout]
    exact List.getLast?_concat
  all_goals rw [hqp]
  · rfl
  · rfl
  · exact congrArg some (congrArg (leAt e 8 4 - ·) hlength)

theorem roceSend_notReady {data : List Byte} (hnone : (s.chip.qp qp.val).recv = none) (hwrite : (s.chip.qp qp.val).write = none)
    (hunposted : (s.chip.qp qp.val).recvProd = (s.chip.qp qp.val).recvCons) :
    Ends (.roceSendReceived qp psn 0 data false) s (fun t => t.mem = s.mem ∧
      t.chip.out.getLast? = some (.roce qp.val roceAck psn.toNat [BitVec.ofNat 8 0x20]) ∧
      (t.chip.qp qp.val).ePsn = (s.chip.qp qp.val).ePsn ∧ (t.chip.qp qp.val).recvCons = (s.chip.qp qp.val).recvCons) := by
  let p : Pkt := { kind := 0, psn := psn.toNat, pos := 0, data := data }
  have hqp := State.taking_qp s qp.val p
  have hpacket : (s.taking qp.val p).packet qp.val p = ((s.taking qp.val p).on fun c => c.rnr qp.val psn.toNat, none) := by
    rw [State.packet_send psn.isLt hpsn rfl]
    rw [State.sendIn]
    rw [if_neg (by simp [p]), if_pos (by simp [p]), hqp, hnone, hwrite, if_neg (by decide), if_pos (by simp [hunposted])]
  refine ends_received hidle rfl hpacket (s.answered_of_taking qp.val p) rfl hidle.owed hidle.fetched hidle.sent
    fun t hmem hout hqp => ⟨hmem, ?_, ?_, ?_⟩
  · rw [hout]
    exact List.getLast?_concat
  all_goals rw [hqp]

section
variable {va : W64} {rkey : W32} {data : List Byte}

theorem roceWrite_written {m : Msg} {s1 : State} (hnone : (s.chip.qp qp.val).recv = none) (hwrite : (s.chip.qp qp.val).write = none)
    (hlength : data.length ≤ 4096) (hregion : s.chip.regionAccess (qpPart qp.val) rkey.toNat va.toNat data.length true = some m)
    (hmemory : m.to_ = 0)
    (hplaced : (s.taking qp.val { kind := 1, psn := psn.toNat, pos := 3, va := va.toNat, rkey := rkey.toNat, len := data.length, data := data }).rwrite
      (qpPart qp.val) m.ctx va.toNat data = (s1, .ok ())) :
    Ends (.roceWriteReceived qp psn 3 va rkey (BitVec.ofNat 32 data.length) data false) s (fun t => t.mem = s1.mem ∧
      t.chip.out.getLast? = some (.roce qp.val roceAck psn.toNat [BitVec.ofNat 8 0]) ∧
      (t.chip.qp qp.val).ePsn = psnAdd (s.chip.qp qp.val).ePsn 1 ∧ (t.chip.qp qp.val).write = none) := by
  let p : Pkt := { kind := 1, psn := psn.toNat, pos := 3, va := va.toNat, rkey := rkey.toNat, len := data.length, data := data }
  have hlen : (BitVec.ofNat 32 data.length).toNat = data.length := by
    rw [BitVec.toNat_ofNat, Nat.mod_eq_of_lt (by omega)]
  obtain ⟨hva, hleft⟩ : m.va = va.toNat ∧ m.left = data.length := by
    exact Chip.regionAccess_some hregion
  have hqp := State.taking_qp s qp.val p
  have hpacket : (s.taking qp.val p).packet qp.val p =
      (s1.on fun c => (c.qpNext qp.val 1 fun x => { x with write := none }).rack qp.val psn.toNat, none) := by
    rw [State.packet_write psn.isLt hpsn rfl]
    rw [State.writeIn]
    rw [if_pos (by simp [p]), hqp, hnone, hwrite, if_neg (by decide)]
    erw [hregion]
    dsimp only
    rw [State.writeInto]
    dsimp only
    rw [hleft, if_neg (by simp [p, formFits, hlength]), hmemory, if_neg (by decide), if_neg (by decide), hva]
    erw [hplaced]
    rfl
  refine ends_received hidle (p := p) (congrArg (fun n => Host.Outcome.next (s.receive qp.val { p with len := n } false)) hlen) hpacket
    (Chip.qpNext_of_taking (State.rwrite_accessed hplaced) fun x => { x with write := none }) rfl hidle.owed hidle.fetched hidle.sent
    fun t hmem hout hqp => ⟨hmem, ?_, ?_, ?_⟩
  · rw [hout]
    exact List.getLast?_concat
  all_goals rw [hqp]
  rfl

theorem roceWrite_denied (hnone : (s.chip.qp qp.val).recv = none) (hwrite : (s.chip.qp qp.val).write = none)
    (hlength : data.length ≤ 4096) (hregion : s.chip.regionAccess (qpPart qp.val) rkey.toNat va.toNat data.length true = none) :
    Ends (.roceWriteReceived qp psn 3 va rkey (BitVec.ofNat 32 data.length) data false) s (fun t => t.mem = s.mem ∧
      t.chip.out.getLast? = some (.roce qp.val roceAck psn.toNat [BitVec.ofNat 8 (0x60 + nakAccess)]) ∧
      (t.chip.qp qp.val).ePsn = (s.chip.qp qp.val).ePsn) := by
  let p : Pkt := { kind := 1, psn := psn.toNat, pos := 3, va := va.toNat, rkey := rkey.toNat, len := data.length, data := data }
  have hlen : (BitVec.ofNat 32 data.length).toNat = data.length := by
    rw [BitVec.toNat_ofNat, Nat.mod_eq_of_lt (by omega)]
  have hqp := State.taking_qp s qp.val p
  have hpacket : (s.taking qp.val p).packet qp.val p = ((s.taking qp.val p).on fun c => c.rnak qp.val psn.toNat nakAccess, none) := by
    rw [State.packet_write psn.isLt hpsn rfl]
    rw [State.writeIn]
    rw [if_pos (by simp [p]), hqp, hnone, hwrite, if_neg (by decide)]
    erw [hregion]
  refine ends_received hidle (p := p) (congrArg (fun n => Host.Outcome.next (s.receive qp.val { p with len := n } false)) hlen) hpacket
    (s.answered_of_taking qp.val p) rfl hidle.owed hidle.fetched hidle.sent fun t hmem hout hqp => ⟨hmem, ?_, ?_⟩
  · rw [hout]
    exact List.getLast?_concat
  · rw [hqp]

end

section
variable {va : W64} {rkey len : W32}

theorem roceRead_answered {m : Msg} {s1 : State} {bs : List Byte} (hlen : len.toNat ≤ 4096)
    (hregion : s.chip.regionAccess (qpPart qp.val) rkey.toNat va.toNat len.toNat false = some m)
    (hread : (s.taking qp.val { kind := 2, psn := psn.toNat, va := va.toNat, rkey := rkey.toNat, len := len.toNat }).rread
      (qpPart qp.val) m.ctx va.toNat len.toNat = (s1, .ok bs)) (hbytes : bs.length = len.toNat) :
    Ends (.roceReadRequest qp psn va rkey len none false) s (fun t => t.mem = s1.mem ∧
      (t.chip.qp qp.val).ePsn = psnAdd (s.chip.qp qp.val).ePsn 1 ∧ t.chip.out.getLast? = some (.roce qp.val 0x10 psn.toNat bs)) := by
  let p : Pkt := { kind := 2, psn := psn.toNat, va := va.toNat, rkey := rkey.toNat, len := len.toNat }
  have hpacket : (s.taking qp.val p).packet qp.val p =
      (s1.on fun c => (c.qpNext qp.val 1 id).send (.roce qp.val 0x10 psn.toNat bs), none) := by
    rw [State.packet_read psn.isLt hpsn rfl]
    rw [State.readIn]
    dsimp only
    erw [hregion]
    dsimp only
    erw [hread]
    dsimp only
    rw [packetsOf_small hlen]
    refine congrArg (fun c : Chip => (({ s1 with chip := c } : State), (none : Option FaultInfo))) ?_
    exact Chip.readReply_one _ _ _ (hbytes.trans_le hlen) psn.isLt
  refine ends_received hidle rfl hpacket (Chip.qpNext_of_taking (State.rread_accessed hread) id) rfl hidle.owed hidle.fetched hidle.sent
    fun t hmem hout hqp => ⟨hmem, ?_, ?_⟩
  · rw [hqp]
    rfl
  · rw [hout]
    exact List.getLast?_concat

theorem roceRead_denied (hregion : s.chip.regionAccess (qpPart qp.val) rkey.toNat va.toNat len.toNat false = none) :
    Ends (.roceReadRequest qp psn va rkey len none false) s (fun t => t.mem = s.mem ∧
      t.chip.out.getLast? = some (.roce qp.val roceAck psn.toNat [BitVec.ofNat 8 (0x60 + nakAccess)]) ∧
      (t.chip.qp qp.val).ePsn = (s.chip.qp qp.val).ePsn) := by
  let p : Pkt := { kind := 2, psn := psn.toNat, va := va.toNat, rkey := rkey.toNat, len := len.toNat }
  have hpacket : (s.taking qp.val p).packet qp.val p = ((s.taking qp.val p).on fun c => c.rnak qp.val psn.toNat nakAccess, none) := by
    rw [State.packet_read psn.isLt hpsn rfl]
    rw [State.readIn]
    dsimp only
    erw [hregion]
  refine ends_received hidle rfl hpacket (s.answered_of_taking qp.val p) rfl hidle.owed hidle.fetched hidle.sent
    fun t hmem hout hqp => ⟨hmem, ?_, ?_⟩
  · rw [hout]
    exact List.getLast?_concat
  · rw [hqp]

end

end

end

/-- Settles O36: each packet by its kind and what it meets; an idle queue pair rests again after it. -/
theorem roceReceive : Obligations.RoceReceive := by
  unfold Obligations.RoceReceive
  intro qp psn s q x k said hidle hpsn hrecv hwrite
  rw [Chip.qpIdle_iff] at hidle
  refine ⟨fun data s1 s2 e => ⟨?placed, roceSend_notReady hidle hpsn hrecv hwrite⟩, ?writes,
    fun va rkey len m s1 bs hlen => ⟨roceRead_answered hidle hpsn hlen, roceRead_denied hidle hpsn⟩⟩
  case placed => exact roceSend_placed hidle hpsn hrecv hwrite
  case writes =>
    intro va rkey data m s1 n p hlength
    exact ⟨roceWrite_written hidle hpsn hrecv hwrite hlength, roceWrite_denied hidle hpsn hrecv hwrite hlength⟩

end Sys2Proof.Machine
end

section
/-! PROOF. The requester's side of a queue pair (R340–R342, R344, R346): what a queue pair that is served again is left as, one that
enters ERROR, and the events of its requests. -/
namespace Sys2Proof.Machine

/-! ### A queue pair that is changed and served -/

/-- A queue pair of a module in which none has anything to do is changed to `x`, which has nothing to do either. -/
structure Chip.QpLeft (b c : Chip) (q : Nat) (x : Qp) : Prop where
  quiet : b.roceQuiet = true
  qps : c.qps = Tbl.put b.qps q x
  ready : x.ready = false
  deny : x.deny = false
  jobs : x.jobs = []
  owed : x.owed = []

namespace Chip.QpLeft

variable {b : Chip} {s : State} {q : Nat} {x : Qp}

theorem qp (h : QpLeft b s.chip q x) : s.chip.qp q = x := by rw [Chip.qp, h.qps, Tbl.get_put_same]

theorem serving (h : QpLeft b s.chip q x) : s.chip.serving q = s.chip.setQp q x := by
  rw [Chip.serving, h.qp, ← h.ready]

theorem roceQuiet (h : QpLeft b s.chip q x) : s.chip.roceQuiet = true := by
  rw [Chip.roceQuiet, h.qps]
  exact Tbl.all_put _ _ _ _ h.quiet (by simp [h.ready])

/-- It is served, and one step of its work finds nothing to do. -/
theorem kick (h : QpLeft b s.chip q x) (hstep : (s.on fun c => c.setQp q x).qpStep q = (s.on fun c => c.setQp q x, false)) :
    s.qpKick q = s.on fun c => c.setQp q x := by
  have hrun : ∀ f, State.qpRun q f (s.on fun c => c.setQp q x) = s.on fun c => c.setQp q x := by
    intro f
    cases f with
    | zero => rfl
    | succ f => rw [State.qpRun, hstep]
  obtain ⟨f, hkick⟩ := State.roceRun_of_ready (x := { x with ready := true }) h.roceQuiet rfl (q := q) h.deny
  have hstart : s.qpKick q = (s.on fun c => c.setQp q { x with ready := true }).roceRun := by
    rw [State.qpKick, State.on, State.on, Chip.updQp, h.qp]
  have hserving : (s.on fun c => c.setQp q { ({ x with ready := true } : Qp) with ready := false }) = s.on fun c => c.setQp q x := by
    rw [← h.ready]
  rw [hstart, hkick, hserving, hrun]
  exact State.qpServe_of_quiet (Chip.roceQuiet_setQp h.roceQuiet q h.ready) f

/-- It has sent all, or is not READY, and has fetched all. -/
theorem kick_of_rests (h : QpLeft b s.chip q x) (hsent : s.chip.qpState q = qpReady → x.sending = none)
    (hfetched : x.sendProd = x.sendCons) : s.qpKick q = s.on fun c => c.setQp q x := by
  have hqp : (s.chip.setQp q x).qp q = x := Chip.qp_setQp_same ..
  refine h.kick (State.qpStep_of_rests ⟨?_, ?_, fun hready => ?_, .inl ?_⟩)
  all_goals rw [State.on_chip, hqp]
  · exact h.jobs
  · exact h.owed
  · exact hsent hready
  · exact hfetched

/-- A command that leaves a queue pair so. -/
theorem ends {i : Instr} {s₀ : State} {P : State → Prop} (h : QpLeft b s.chip q x) (hexec : exec i s₀ = .next (s.qpKick q))
    (hsent : s.chip.qpState q = qpReady → x.sending = none) (hfetched : x.sendProd = x.sendCons)
    (hP : P (s.on fun c => c.setQp q x)) : Ends i s₀ P := ⟨_, hexec, by rwa [h.kick_of_rests hsent hfetched]⟩

end Chip.QpLeft

/-- An idle queue pair that is changed in its requests and counts alone. -/
theorem Chip.QpIdle.left {b c : Chip} {q : Nat} {x : Qp} (h : b.QpIdle q) (hqps : c.qps = Tbl.put b.qps q x)
    (hready : x.ready = (b.qp q).ready) (hdeny : x.deny = (b.qp q).deny) (hjobs : x.jobs = (b.qp q).jobs)
    (howed : x.owed = (b.qp q).owed) : QpLeft b c q x where
  quiet := h.quiet
  qps := hqps
  ready := hready.trans (Chip.not_ready_of_quiet h.quiet q)
  deny := hdeny.trans h.deny
  jobs := hjobs.trans h.jobs
  owed := howed.trans h.owed

theorem Chip.QpIdle.qpState {c : Chip} {q : Nat} (h : c.QpIdle q) : c.qpState q = qpReady := by
  have htakes := h.takes
  simp only [Chip.qpTakes, Bool.and_eq_true, decide_eq_true_eq] at htakes
  exact htakes.1

/-! ### ERROR (R341, R342) -/

theorem byteAt_placeAt_first (l : List Byte) {n : Nat} (h : n < 256) : byteAt (placeAt l 0 (leBytes 1 n)) 0 = n := by
  simp [byteAt, placeAt, fitTo, leBytes, zeros, Nat.mod_eq_of_lt h]

theorem Chip.qpState_of_blob {c : Chip} {q : Nat} {l : List Byte} (h : c.blob modInst (Obj.QP_CONFIG + q) = l) (hne : l ≠ []) :
    c.qpState q = byteAt l 0 := by
  have hempty : l.isEmpty = false := by simpa using hne
  rw [Chip.qpState, Chip.qpCfg, h, hempty, if_neg Bool.false_ne_true]

theorem Chip.qpState_setQpState (c : Chip) (q : Nat) {n : Nat} (h : n < 256) : (c.setQpState q n).qpState q = n := by
  refine (Chip.qpState_of_blob (Chip.blob_setBlob_same ..) ?_).trans (byteAt_placeAt_first _ h)
  simp [placeAt, leBytes]

/-- A work request that is not settled ends with FLUSHED. -/
def Wr.flushed (w : Wr) : Wr := if w.settled then w else { w with st := some compFlushed }

theorem Wr.settled_flushed (w : Wr) : w.flushed.settled = true := by
  unfold Wr.flushed
  split
  · assumption
  · simp [Wr.settled]

/-- A queue pair in ERROR that received no message. -/
def Qp.failed (x : Qp) : Qp :=
  { x with wrs := (x.wrs ++ x.launch.toList).map Wr.flushed, launch := none, recv := none, write := none, jobs := [], waitAt := 0, deny := false }

/-- What a queue pair that enters ERROR leaves. -/
theorem Chip.qpFail_spec {c : Chip} {q : Nat} (hready : c.qpState q = qpReady) (hnone : (c.qp q).recv = none) :
    (c.qpFail q).qps = Tbl.put c.qps q (c.qp q).failed ∧ (c.qpFail q).qpState q = qpError ∧ (c.qpFail q).said 0x0F03 (qpPart q) [] := by
  rw [Chip.qpFail, hready, if_neg (by decide)]
  refine ⟨?_, ?_, Chip.raise_said ..⟩
  · rw [Chip.raise_qps, hnone]
    dsimp only
    rw [List.append_nil]
    rfl
  · rw [Chip.qpState_of_blobs (Chip.raise_blobs ..)]
    exact Chip.qpState_setQpState c q (by decide)

/-! ### Acknowledged requests (R340, R341) -/

/-- A queue pair after an acknowledgement. -/
def Qp.acked (x : Qp) (psn : Nat) : Qp :=
  let ws := x.wrs.map fun w => if w.op = 1 || w.st.isSome then w else { w with una := max w.una (w.covered psn) }
  { x with wrs := ws, retries := if ws = x.wrs then x.retries else 0 }

theorem Qp.acked_wrs {x : Qp} {w : Wr} (hwrs : x.wrs = [w]) (hopen : w.st = none) (hop : w.op ≠ 1) (psn : Nat) :
    (x.acked psn).wrs = [{ w with una := max w.una (w.covered psn) }] := by
  simp [Qp.acked, hwrs, hopen, hop]

/-! ### The requests of an idle queue pair -/

section
variable {qp : Fin 8192} {psn : BitVec 24} {s : State} {w : Wr}

/-- A change to a queue pair's own entry alone. -/
theorem Chip.updQp_qps (c : Chip) (q : Nat) (f : Qp → Qp) : (c.updQp q f).qps = Tbl.put c.qps q (f (c.qp q)) := rfl

section
variable (hidle : s.chip.QpIdle qp.val) (hwrs : (s.chip.qp qp.val).wrs = [w]) (hopen : w.st = none)
include hidle hwrs hopen

theorem roceReadResponse_settles {data : List Byte} {s1 : State} (hop : w.op = 1) (hoff : w.off = 1) (huna : w.una = 0)
    (hlen : w.len = data.length) (hfits : data.length ≤ 4096) (hpsn : w.psn = psn.toNat)
    (hplaced : (s.taking qp.val { kind := 3, psn := psn.toNat, data := data }).rwrite (qpPart qp.val) (s.chip.qpCtx qp.val) w.local_ data =
      (s1, .ok ())) :
    Ends (.roceReadResponse qp psn data false) s (fun t => t.mem = s1.mem ∧ (t.chip.qp qp.val).wrs = [{ w with una := 1 }]) := by
  let p : Pkt := { kind := 3, psn := psn.toNat, data := data }
  have hspan : w.span = 1 := by rw [Wr.span, hlen, packetsOf_small hfits]
  have hunsettled : w.settled = false := by simp [Wr.settled, hopen, huna, hspan]
  have htaking := State.taking_qp s qp.val p
  have hfind : (s.chip.qp qp.val).wrs.find? (fun w => w.op = 1 && !w.settled && w.off = 1) = some w := by
    rw [hwrs]
    simp [hop, hunsettled, hoff]
  let answered : Qp := { s.chip.qp qp.val with jobs := [p], ready := false, retries := 0, wrs := [{ w with una := 1 }] }
  have hqp1 : s1.chip.qp qp.val = { s.chip.qp qp.val with jobs := [p], ready := false } :=
    (Chip.qp_of_qps (State.rwrite_accessed hplaced).qps qp.val).trans htaking
  have hpacket : (s.taking qp.val p).packet qp.val p = (s1.on fun c =>
      (c.ackUpTo qp.val (psnAdd w.psn (2 ^ 24 - 1))).updQp qp.val fun x =>
        { x with retries := 0, wrs := x.wrs.map fun v => if v.psn = w.psn then { v with una := v.una + 1 } else v }, none) := by
    rw [State.packet, if_pos rfl, State.responseIn, htaking]
    dsimp only
    rw [hfind]
    dsimp only
    rw [if_neg, huna]
    · erw [hplaced]
    · simp [p, huna, hpsn, hlen, psnAdd, Nat.mod_eq_of_lt psn.isLt, hfits]
  refine ends_received (y := answered) hidle rfl hpacket ?_ rfl hidle.owed hidle.fetched ?_ fun t hmem _ hqp => ⟨hmem, ?_⟩
  · have hset : (s1.chip.ackUpTo qp.val (psnAdd w.psn (2 ^ 24 - 1))).qp qp.val =
        { s.chip.qp qp.val with jobs := [p], ready := false } := by
      rw [Chip.ackUpTo, Chip.qp_updQp_same, hqp1]
      simp [hwrs, hop]
    rw [State.on_chip, Chip.updQp_qps, hset, Chip.ackUpTo, Chip.updQp_qps, Tbl.put_put, (State.rwrite_accessed hplaced).qps]
    refine (Tbl.put_put ..).trans (congrArg (Tbl.put s.chip.qps qp.val) ?_)
    simp [answered, hwrs, huna]
  · intro v hv
    obtain rfl := List.mem_singleton.mp hv
    exact .inl (by simp [Wr.settled, Wr.span] at hspan ⊢; simp [hspan])
  · rw [hqp]

theorem roceAck_covers (hop : w.op ≠ 1) (hoff : w.off = w.sends) : Ends (.roceAck qp psn false) s (fun t =>
    (t.chip.qp qp.val).wrs = [{ w with una := max w.una (w.covered psn.toNat) }] ∧ t.chip.out = s.chip.out ∧ t.mem = s.mem) := by
  have hleft := hidle.left (c := s.chip.ackUpTo qp.val psn.toNat) (x := (s.chip.qp qp.val).acked psn.toNat) rfl rfl rfl rfl rfl
  have hacked := Qp.acked_wrs hwrs hopen hop psn.toNat
  refine hleft.ends (s := s.on fun c => c.ackUpTo qp.val psn.toNat) ?_ (fun _ => Qp.sending_of_sent ?_) hidle.fetched ⟨?_, rfl, rfl⟩
  · show Host.Outcome.next (if !s.chip.qpTakes qp.val then s else _) = _
    rw [hidle.takes, Bool.not_true, if_neg Bool.false_ne_true]
    rfl
  · rw [hacked]
    intro v hv
    obtain rfl := List.mem_singleton.mp hv
    exact .inr hoff.ge
  · exact (congrArg Qp.wrs (Chip.qp_setQp_same ..)).trans hacked

omit hwrs hopen in
theorem roceNak_fails (hnone : (s.chip.qp qp.val).recv = none) {kind : Fin 5} (hkind : kind = 2 ∨ kind = 4) :
    Ends (.roceNak qp psn kind false) s (fun t => t.chip.qpState qp.val = qpError ∧ t.chip.said 0x0F03 (qpPart qp.val) [] ∧
      (∀ v ∈ (t.chip.qp qp.val).wrs, v.settled = true) ∧ t.mem = s.mem) := by
  let before := psnAdd psn.toNat (2 ^ 24 - 1)
  let c := s.chip.ackUpTo qp.val before
  have hqp : c.qp qp.val = (s.chip.qp qp.val).acked before := Chip.qp_setQp_same ..
  obtain ⟨hqps, hstate, hsaid⟩ := Chip.qpFail_spec (c := c) (q := qp.val) hidle.qpState ((congrArg Qp.recv hqp).trans hnone)
  have hleft : Chip.QpLeft c (c.qpFail qp.val) qp.val (c.qp qp.val).failed := {
    quiet := Chip.roceQuiet_setQp hidle.quiet qp.val (Chip.not_ready_of_quiet hidle.quiet qp.val)
    qps := hqps
    ready := (congrArg Qp.ready hqp).trans (Chip.not_ready_of_quiet hidle.quiet qp.val)
    deny := rfl
    jobs := rfl
    owed := (congrArg Qp.owed hqp).trans hidle.owed }
  refine hleft.ends (s := s.on fun _ => c.qpFail qp.val) ?_ (fun hready => ?_) ?_ ⟨hstate, hsaid, fun v hv => ?_, rfl⟩
  · show Host.Outcome.next (if !s.chip.qpTakes qp.val then s else _) = _
    rw [hidle.takes, Bool.not_true, if_neg Bool.false_ne_true]
    rcases hkind with rfl | rfl <;> rfl
  · rw [State.on_chip, hstate] at hready
    cases hready
  · exact (congrArg Qp.sendProd hqp).trans (hidle.fetched.trans (congrArg Qp.sendCons hqp).symm)
  · rw [State.on_chip, Chip.qp_setQp_same] at hv
    obtain ⟨u, _, rfl⟩ := List.mem_map.mp hv
    exact u.settled_flushed

theorem roceRetryTimeout_givesUp (hnone : (s.chip.qp qp.val).recv = none) (hsent : w.una < w.off) (hopen' : w.una ≠ w.span)
    (hretries : byteAt (s.chip.qpCfg qp.val) 0x3C % 8 ≤ (s.chip.qp qp.val).retries) : Ends (.roceRetryTimeout qp) s (fun t =>
      t.chip.qpState qp.val = qpError ∧ (t.chip.qp qp.val).wrs = [{ w with st := some compRetry }] ∧ t.mem = s.mem) := by
  have hunsettled : w.settled = false := by simp [Wr.settled, hopen, hopen']
  let given : Qp := { s.chip.qp qp.val with wrs := [{ w with st := some compRetry }] }
  let c := s.chip.setQp qp.val given
  have hqp : c.qp qp.val = given := Chip.qp_setQp_same ..
  have hretry : s.chip.qpRetry qp.val = c.qpFail qp.val := by
    rw [Chip.qpRetry, if_pos hretries, Chip.qpGiveUp, hwrs]
    simp [hunsettled, c, given]
  obtain ⟨hqps, hstate, -⟩ := Chip.qpFail_spec (c := c) (q := qp.val) hidle.qpState ((congrArg Qp.recv hqp).trans hnone)
  have hleft : Chip.QpLeft c (c.qpFail qp.val) qp.val (c.qp qp.val).failed := {
    quiet := Chip.roceQuiet_setQp hidle.quiet qp.val (Chip.not_ready_of_quiet hidle.quiet qp.val)
    qps := hqps
    ready := (congrArg Qp.ready hqp).trans (Chip.not_ready_of_quiet hidle.quiet qp.val)
    deny := rfl
    jobs := rfl
    owed := (congrArg Qp.owed hqp).trans hidle.owed }
  refine hleft.ends (s := s.on fun _ => c.qpFail qp.val) ?_ (fun hready => ?_) ?_ ⟨hstate, ?_, rfl⟩
  · have hany : (s.chip.qp qp.val).wrs.any (fun w => !w.settled && decide (w.una < w.off || (w.op = 1 && w.off = 1))) = true := by
      rw [hwrs]
      simp [hunsettled, hsent]
    show Host.Outcome.next (if s.chip.qpTakes qp.val && _ then _ else s) = _
    rw [hidle.takes, hany, ← hretry]
    rfl
  · rw [State.on_chip, hstate] at hready
    cases hready
  · exact (congrArg Qp.sendProd hqp).trans (hidle.fetched.trans (congrArg Qp.sendCons hqp).symm)
  · rw [State.on_chip, Chip.qp_setQp_same, hqp]
    simp [Qp.failed, given, hidle.launch, Wr.flushed, Wr.settled]

end

theorem workRequestDone_leaves {rest : List Wr} (hidle : s.chip.QpIdle qp.val) (hwrs : (s.chip.qp qp.val).wrs = w :: rest)
    (hsettled : w.settled = true) (hsilent : bitAt w.flags 0 = false) : Ends (.workRequestDone qp) s (fun t =>
      (t.chip.qp qp.val).wrs = rest ∧ (t.chip.qp qp.val).sendDone = inc32 (s.chip.qp qp.val).sendDone ∧ (t.chip.qp qp.val).owed = [] ∧
      t.mem = s.mem) := by
  let x : Qp := { s.chip.qp qp.val with wrs := rest, sendDone := inc32 (s.chip.qp qp.val).sendDone }
  have hqp : ∀ c : Chip, (c.setQp qp.val x).qp qp.val = x := fun c => Chip.qp_setQp_same ..
  refine (hidle.left (c := s.chip.setQp qp.val x) (x := x) rfl rfl rfl rfl rfl).ends (s := s.on fun c => c.setQp qp.val x) ?_
    (fun _ => Qp.sending_of_sent fun v hv => ?_) hidle.fetched ⟨?_, ?_, ?_, rfl⟩
  · show execWorkRequestDone qp s = _
    unfold execWorkRequestDone
    dsimp only
    rw [hwrs]
    simp [hsettled, hsilent, x]
  · exact hidle.sent v (by rw [hwrs]; exact .tail _ hv)
  all_goals rw [State.on_chip, hqp]
  exact hidle.owed

theorem roceFaultWaitExpired_answers {p : Pkt} (hquiet : s.chip.roceQuiet = true) (hwait : (s.chip.qp qp.val).waitAt = 1)
    (hjobs : (s.chip.qp qp.val).jobs = [p]) (hkind : p.kind ≤ 2) (howed : (s.chip.qp qp.val).owed = [])
    (hwrs : (s.chip.qp qp.val).wrs = []) (hfetched : (s.chip.qp qp.val).sendProd = (s.chip.qp qp.val).sendCons) :
    Ends (.roceFaultWaitExpired qp) s (fun t => (t.chip.qp qp.val).waitAt = 0 ∧ (t.chip.qp qp.val).jobs = [] ∧
      t.chip.out.getLast? = some (.roce qp.val roceAck p.psn [BitVec.ofNat 8 (0x60 + nakAccess)]) ∧ t.mem = s.mem) := by
  let x := s.chip.qp qp.val
  let y : Qp := { x with waitAt := 0, deny := false, jobs := [] }
  let z : Qp := { y with write := if p.kind = 1 then none else x.write, recv := if p.kind = 0 then none else x.recv }
  let dropped := s.on fun c => c.dropWaiters (fun w => w != Waiter.roce qp.val)
  let denied := dropped.on fun c => ((c.setQp qp.val y).rnak qp.val p.psn nakAccess).setQp qp.val z
  have hdenied : dropped.qpDeny qp.val = denied := by
    have hqp : dropped.chip.qp qp.val = x := rfl
    have hjob : (dropped.chip.updQp qp.val fun x => { x with waitAt := 0, deny := false }).updQp qp.val (fun x => { x with jobs := [] }) =
        dropped.chip.setQp qp.val y := Chip.updQp_setQp ..
    have hanswer : ((dropped.chip.setQp qp.val y).rnak qp.val p.psn nakAccess).qp qp.val = y := Chip.qp_setQp_same dropped.chip qp.val y
    rw [State.qpDeny, hqp]
    dsimp only
    rw [if_pos hwait, show x.jobs = [p] from hjobs]
    refine congrArg (fun c => { dropped with chip := c }) ?_
    rw [State.on_chip]
    dsimp only
    rw [hjob, if_neg (show ¬ p.kind = 3 by omega), Chip.updQp, hanswer]
  have hleft : Chip.QpLeft s.chip denied.chip qp.val z := {
    quiet := hquiet
    qps := Tbl.put_put ..
    ready := Chip.not_ready_of_quiet hquiet qp.val
    deny := rfl
    jobs := rfl
    owed := howed }
  refine hleft.ends (s := denied) ?_ (fun _ => Qp.sending_of_sent fun v hv => ?_) hfetched ⟨?_, ?_, List.getLast?_concat, rfl⟩
  · show Host.Outcome.next (if (s.chip.qp qp.val).waitAt = 0 then s else (dropped.qpDeny qp.val).qpKick qp.val) = _
    rw [hwait, if_neg (by decide), hdenied]
  · rw [show z.wrs = [] from hwrs] at hv
    cases hv
  all_goals rw [State.on_chip, Chip.qp_setQp_same]

omit qp psn in
/-- A queue pair whose port is not up sends nothing. -/
theorem State.qpStep_of_down {q : Nat} {y : Qp} (hqp : s.chip.qp q = y) (htakes : s.chip.qpTakes q = true) (hwait : y.waitAt = 0)
    (hjobs : y.jobs = []) (howed : y.owed = []) (hdown : s.chip.reg (Obj.ETH_LINK_STATE + s.chip.qpPort q) ≠ 2)
    (hsending : y.sending = some w) : s.qpStep q = (s, false) := by
  simp only [Chip.qpTakes, Bool.and_eq_true, decide_eq_true_eq] at htakes
  obtain ⟨hstate, howner⟩ := htakes
  rw [State.qpStep, hqp, hwait, hjobs, howed, hstate]
  dsimp only
  rw [if_neg, if_pos rfl, show y.wrs.find? (fun w => !w.settled && decide (w.off < w.sends)) = some w from hsending]
  · dsimp only
    rw [decide_eq_false hdown, Bool.not_false, if_pos rfl]
  · cases hnone : s.chip.qpOwner q with
    | none => rw [hnone] at howner; cases howner
    | some k => simp [qpReady, qpReset]

theorem launchTimeReached_starts (htakes : s.chip.qpTakes qp.val = true) (hquiet : s.chip.roceQuiet = true)
    (hwait : (s.chip.qp qp.val).waitAt = 0) (hjobs : (s.chip.qp qp.val).jobs = []) (howed : (s.chip.qp qp.val).owed = [])
    (hwrs : (s.chip.qp qp.val).wrs = []) (hlaunch : (s.chip.qp qp.val).launch = some w) (hopen : w.st = none)
    (hdue : w.launch ≤ ({ s.chip with raw := s.chip.raw + 800 } : Chip).now) (hdeny : (s.chip.qp qp.val).deny = false)
    (hdown : s.chip.reg (Obj.ETH_LINK_STATE + s.chip.qpPort qp.val) ≠ 2) (hoff : w.off = 0) (huna : w.una = 0) :
    Ends (.launchTimeReached qp) s (fun t => (t.chip.qp qp.val).launch = none ∧
      (t.chip.qp qp.val).wrs = [{ w with psn := (s.chip.qp qp.val).sPsn }] ∧
      (t.chip.qp qp.val).sPsn = psnAdd (s.chip.qp qp.val).sPsn w.span ∧ t.mem = s.mem) := by
  let x := s.chip.qp qp.val
  let y : Qp := { x with launch := none, wrs := [{ w with psn := x.sPsn }], sPsn := psnAdd x.sPsn w.span }
  let started := s.on fun c => c.setQp qp.val y
  have hstarted : (s.on fun c => c.wrStart qp.val w) = started := by
    refine congrArg (fun y => { s with chip := s.chip.setQp qp.val y }) ?_
    simp [y, x, hwrs, hopen]
  have hleft : Chip.QpLeft s.chip started.chip qp.val y := {
    quiet := hquiet
    qps := rfl
    ready := Chip.not_ready_of_quiet hquiet qp.val
    deny := hdeny
    jobs := hjobs
    owed := howed }
  have hopen' : w.settled = false := by
    have hspan : 1 ≤ w.span := le_max_left ..
    simp only [Wr.settled, hopen, huna, Option.isSome_none, Bool.false_or, decide_eq_false_iff_not]
    omega
  have hqp : (started.on fun c => c.setQp qp.val y).chip.qp qp.val = y := Chip.qp_setQp_same ..
  have hsends : 0 < w.sends := by
    unfold Wr.sends
    split
    · exact Nat.one_pos
    · exact Nat.lt_of_lt_of_le Nat.one_pos (le_max_left ..)
  have hsending : y.sending = some { w with psn := x.sPsn } := by
    show [({ w with psn := x.sPsn } : Wr)].find? (fun w => !w.settled && decide (w.off < w.sends)) = _
    rw [List.find?_cons_of_pos]
    show (!w.settled && decide (w.off < w.sends)) = true
    rw [hopen', hoff]
    simpa using hsends
  have hstep : (started.on fun c => c.setQp qp.val y).qpStep qp.val = (started.on fun c => c.setQp qp.val y, false) :=
    State.qpStep_of_down hqp htakes hwait hjobs howed hdown hsending
  refine ⟨started.on fun c => c.setQp qp.val y, ?_, ?_⟩
  · show execLaunchTimeReached qp s = _
    unfold execLaunchTimeReached
    dsimp only
    rw [hlaunch]
    dsimp only
    rw [if_pos hdue, hstarted, hleft.kick hstep]
    rfl
  · dsimp only
    rw [State.on_chip, Chip.qp_setQp_same]
    exact ⟨rfl, rfl, rfl, rfl⟩

end

/-- Settles O37: each event of the requester's side by what it leaves of the queue pair, which has nothing to do after it. -/
theorem roceRequester : Obligations.RoceRequester := by
  unfold Obligations.RoceRequester
  intro qp psn s q x
  refine ⟨fun w hidle hwrs hnone hopen => ?_, fun p _ hquiet hwait hjobs hkind howed _ _ hfetched => ?waited,
    fun w rest hidle => workRequestDone_leaves ((Chip.qpIdle_iff ..).mp hidle), ?timed⟩
  · rw [Chip.qpIdle_iff] at hidle
    exact ⟨fun data s1 hop hoff huna hlen _ => roceReadResponse_settles hidle hwrs hopen hop hoff huna hlen, roceAck_covers hidle hwrs hopen,
      fun kind => roceNak_fails hidle hnone, roceRetryTimeout_givesUp hidle hwrs hopen hnone⟩
  case waited => exact roceFaultWaitExpired_answers hquiet hwait hjobs hkind howed ‹_› hfetched
  case timed =>
    intro w htakes hquiet hwait hjobs howed hwrs hlaunch hopen hdue hdeny hdown hoff huna
    exact launchTimeReached_starts htakes hquiet hwait hjobs howed hwrs hlaunch hopen hdue hdeny hdown hoff huna

end Sys2Proof.Machine
end

section
/-! PROOF. The counts, the configuration, the regions and the rate of a queue pair (R341–R343, R345). -/
namespace Sys2Proof.Machine

theorem State.AnsweredFrom.qps {u t : State} {r : Req} {key code : Nat} (h : u.AnsweredFrom t r key code) : t.chip.qps = u.chip.qps := by
  obtain ⟨_, _, h⟩ := h.shape
  rw [h]

/-! ### Doorbell words (R342) -/

section
variable {qp : Fin 8192} {count : W32} {s : State}

/-- A word of the doorbell page of a partition that is ACTIVE. -/
theorem State.qpCount_of_active {q : Nat} (h : s.chip.wsState (qpPart q) = wsActive) (code n : Nat) :
    s.qpCount q code n = (s.on fun c => c.qpDoorbell q code n).roceRun := by
  rw [State.qpCount, if_neg (by simp [h])]

section
variable (hactive : s.chip.wsState (qpPart qp.val) = wsActive) (hidle : s.chip.QpIdle qp.val)
include hactive

theorem qpSendProducer_ignored (hreset : s.chip.qpState qp.val = qpReset) (hquiet : s.chip.roceQuiet = true) :
    Ends (.qpSendProducer qp count) s (fun t => t = s.on (fun c => c.countPart (qpPart qp.val) Obj.CNT_DOORBELL_IGNORED 1)) := by
  have hword : s.chip.qpDoorbell qp.val 0 count.toNat = s.chip.countPart (qpPart qp.val) Obj.CNT_DOORBELL_IGNORED 1 := by
    rw [Chip.qpDoorbell, if_neg (by decide), if_pos (by simp [hreset, qpReset, qpReady])]
  refine ⟨_, congrArg Host.Outcome.next (State.qpCount_of_active hactive ..), ?_⟩
  rw [State.roceRun_of_quiet]
  · exact congrArg (fun c => { s with chip := c }) hword
  · exact (Chip.roceQuiet_of_qps ((congrArg Chip.qps hword).trans (Chip.countPart_qps ..))).trans hquiet

include hidle

theorem qpSendProducer_taken (hfull : s.chip.compRoom qp.val = false) (hnew : 0 < dist32 count.toNat (s.chip.qp qp.val).sendProd)
    (hahead : dist32 count.toNat (s.chip.qp qp.val).sendProd < 2 ^ 31)
    (hfits : dist32 count.toNat (s.chip.qp qp.val).sendDone ≤ s.chip.qpEntries qp.val) :
    Ends (.qpSendProducer qp count) s (fun t => (t.chip.qp qp.val).sendProd = count.toNat ∧ t.chip.regs = s.chip.regs ∧ t.mem = s.mem) := by
  let x : Qp := { s.chip.qp qp.val with sendProd := count.toNat, ready := true }
  have hword : s.chip.qpDoorbell qp.val 0 count.toNat = s.chip.setQp qp.val x := by
    rw [Chip.qpDoorbell, if_neg (by decide), hidle.qpState, if_neg (by decide), if_neg (by decide)]
    dsimp only
    rw [if_pos rfl, if_pos rfl, if_neg (by omega), if_neg (by omega), if_neg (by omega)]
    rfl
  have hqp : (s.chip.setQp qp.val { x with ready := false }).qp qp.val = { x with ready := false } := Chip.qp_setQp_same ..
  have hrests : (s.chip.setQp qp.val { x with ready := false }).QpRests qp.val := by
    refine ⟨?_, ?_, fun _ => ?_, .inr ?_⟩
    · rw [hqp]; exact hidle.jobs
    · rw [hqp]; exact hidle.owed
    · rw [hqp]; exact Qp.sending_of_sent hidle.sent
    · rw [Chip.compRoom, hqp]; exact hfull
  have hrun := State.roceRun_of_rests (s := s) (x := x) hidle.quiet rfl hidle.deny hrests
  refine ⟨_, (congrArg Host.Outcome.next (State.qpCount_of_active hactive ..)).trans
    (congrArg Host.Outcome.next ((congrArg (fun c => State.roceRun { s with chip := c }) hword).trans hrun)), ?_, rfl, rfl⟩
  exact congrArg Qp.sendProd hqp

theorem qpRecvProducer_taken (hnew : 0 < dist32 count.toNat (s.chip.qp qp.val).recvProd)
    (hahead : dist32 count.toNat (s.chip.qp qp.val).recvProd < 2 ^ 31)
    (hfits : dist32 count.toNat (s.chip.qp qp.val).recvCons ≤ s.chip.qpEntries qp.val) :
    Ends (.qpRecvProducer qp count) s (fun t => t.chip.qp qp.val = { s.chip.qp qp.val with recvProd := count.toNat } ∧
      t.chip.regs = s.chip.regs ∧ t.mem = s.mem) := by
  let x : Qp := { s.chip.qp qp.val with recvProd := count.toNat }
  have hword : s.chip.qpDoorbell qp.val 1 count.toNat = s.chip.setQp qp.val x := by
    rw [Chip.qpDoorbell, if_neg (by decide), hidle.qpState, if_neg (by decide), if_neg (by decide)]
    dsimp only
    rw [if_neg Nat.one_ne_zero, if_neg Nat.one_ne_zero, if_neg (by omega), if_neg (by omega), if_neg (by omega), if_neg Nat.one_ne_zero]
  have hquiet : (s.on fun c => c.setQp qp.val x).chip.roceQuiet = true :=
    Chip.roceQuiet_setQp hidle.quiet qp.val (Chip.not_ready_of_quiet hidle.quiet qp.val)
  exact ⟨_, (congrArg Host.Outcome.next (State.qpCount_of_active hactive ..)).trans
    (congrArg Host.Outcome.next ((congrArg (fun c => State.roceRun { s with chip := c }) hword).trans (State.roceRun_of_quiet hquiet))),
    Chip.qp_setQp_same .., rfl, rfl⟩

theorem qpCompConsumer_taken (hnew : 0 < dist32 count.toNat (s.chip.qp qp.val).compCons)
    (hfits : dist32 count.toNat (s.chip.qp qp.val).compCons ≤ dist32 (s.chip.qp qp.val).comps (s.chip.qp qp.val).compCons) :
    Ends (.qpCompConsumer qp count) s (fun t => (t.chip.qp qp.val).compCons = count.toNat ∧ t.chip.regs = s.chip.regs ∧ t.mem = s.mem) := by
  let x : Qp := { s.chip.qp qp.val with compCons := count.toNat, ready := true }
  have hword : s.chip.qpDoorbell qp.val 2 count.toNat = s.chip.setQp qp.val x := by
    rw [Chip.qpDoorbell, if_neg (by decide), hidle.qpState, if_neg (by decide), if_pos rfl, if_neg (by omega), if_neg (by omega)]
  have hrests := Chip.qpRests_setQp s.chip qp.val (y := { x with ready := false }) hidle.jobs hidle.owed hidle.sent hidle.fetched
  have hrun := State.roceRun_of_rests (s := s) (x := x) hidle.quiet rfl hidle.deny hrests
  refine ⟨_, (congrArg Host.Outcome.next (State.qpCount_of_active hactive ..)).trans
    (congrArg Host.Outcome.next ((congrArg (fun c => State.roceRun { s with chip := c }) hword).trans hrun)), ?_, rfl, rfl⟩
  exact congrArg Qp.compCons (Chip.qp_setQp_same ..)

end
end

/-! ### QP_CONFIG and MR_ENTRY (R341, R343) -/

section
variable {r : Req} {qp : Fin 8192} {value : List Byte} {s : State} {inst : Nat}

theorem qpConfigWrite_ready (hadmits : s.admits r (Obj.QP_CONFIG + qp.val) value inst = true) (hok : qpCfgOk value = true)
    (hto : byteAt value 0 = qpReady) (hreset : s.chip.qpState qp.val = qpReset)
    (hvi : bitAt (s.chip.part (qpPart qp.val)).vis (byteAt value 2) = true)
    (hsend : s.ringValid (qpPart qp.val) (byteAt value 3) (leAt value 0x20 8) false = true) (hrecv : leAt value 0x28 8 = 0)
    (hcomp : s.ringValid (qpPart qp.val) (byteAt value 3) (leAt value 0x30 8) true = true) :
    Ends (.qpConfigWrite r qp value) s (fun t => t.chip.qpState qp.val = qpReady ∧
      t.chip.qp qp.val = { sPsn := leAt value 8 4, ePsn := leAt value 0xC 4 } ∧ t.answers r (Obj.QP_CONFIG + qp.val) rcOK ∧ t.mem = s.mem) := by
  have hold : byteAt (s.chip.qpCfg qp.val) 0 = 0 := hreset
  refine rowWrite_ends rfl hadmits (u := s.on fun c => (c.setQp qp.val { sPsn := leAt value 8 4, ePsn := leAt value 0xC 4 }).setBlob modInst
    (Obj.QP_CONFIG + qp.val) value) (code := rcOK) ?_ fun t ht => ⟨?_, ?_, ht.answers, ht.mem⟩
  · rw [effQpConfig]
    rw [hok, hold, hto, hvi, hsend, hrecv, hcomp]
    rfl
  · rw [Chip.qpState_of_blobs ht.blobs]
    refine (Chip.qpState_of_blob (Chip.blob_setBlob_same ..) ?_).trans hto
    rintro rfl
    cases hto
  · rw [Chip.qp_of_qps ht.qps]
    exact Chip.qp_setQp_same ..

theorem qpConfigWrite_error (hadmits : s.admits r (Obj.QP_CONFIG + qp.val) value inst = true) (hok : qpCfgOk value = true)
    (hto : byteAt value 0 = qpReady) (herror : s.chip.qpState qp.val = qpError) :
    Ends (.qpConfigWrite r qp value) s (fun t => t.chip.qpState qp.val = qpError ∧ t.chip.qps = s.chip.qps ∧
      t.answers r (Obj.QP_CONFIG + qp.val) rcState ∧ t.mem = s.mem) := by
  have hold : byteAt (s.chip.qpCfg qp.val) 0 = 2 := herror
  refine rowWrite_ends rfl hadmits (u := s) (code := rcState) ?_ fun t ht =>
    ⟨(Chip.qpState_of_blobs ht.blobs _).trans herror, ht.qps, ht.answers, ht.mem⟩
  rw [effQpConfig]
  rw [hok, hold, hto, if_neg (by decide), if_pos (by simp [qpReset, qpReady, qpError])]

end

/-- The key of a region written anew begins with the region's number, and its tag is not the one before. -/
theorem Chip.newRkey_spec (c : Chip) (k r : Nat) :
    c.newRkey k r / 2 ^ 24 = r ∧ c.newRkey k r % 2 ^ 24 ≠ leAt (c.region k r) 16 3 := by
  have hlt : (Config.rkeyTag c.fresh).toNat < 2 ^ 24 := (Config.rkeyTag c.fresh).isLt
  rw [Chip.newRkey]
  split <;> omega

section
variable {bs : List Byte} {n : Nat} (hlength : bs.length = 20)
include hlength

/-- A region of 20 bytes whose last four are its key. -/
theorem fitTo_keyed (key : Nat) : fitTo 20 (bs.take 16 ++ leBytes 4 key) = bs.take 16 ++ leBytes 4 key := by
  simp [fitTo, hlength, leBytes, zeros]

theorem leAt_keyed (key : Nat) : leAt (bs.take 16 ++ leBytes 4 key) 16 4 = key % 256 ^ 4 := by
  rw [← leNat_leBytes]
  simp [leAt, hlength, leBytes]

theorem leAt_keyed_tag (key : Nat) : leAt (bs.take 16 ++ leBytes 4 key) 16 3 = key % 256 ^ 3 := by
  rw [← leNat_leBytes]
  simp [leAt, hlength, leBytes]

end

theorem mrEntryWrite_keyed {r : Req} {region : Byte} {value : List Byte} {s : State} {inst : Nat}
    (hadmits : s.admits r (Obj.MR_ENTRY + region.toNat) value inst = true) (hlength : value.length = 20) (hword : leAt value 12 4 < 64) :
    Ends (.mrEntryWrite r region value) s (fun t =>
      (t.chip.region inst region.toNat).take 16 = value.take 16 ∧ leAt (t.chip.region inst region.toNat) 16 4 / 2 ^ 24 = region.toNat ∧
      leAt (t.chip.region inst region.toNat) 16 3 ≠ leAt (s.chip.region inst region.toNat) 16 3 ∧
      t.answers r (Obj.MR_ENTRY + region.toNat) rcOK ∧ t.mem = s.mem) := by
  refine rowWriteOn_ends rfl hadmits (c := s.chip.setRegion inst region.toNat value) (code := rcOK) (if_neg (by omega)) fun t ht => ?_
  obtain ⟨hindex, htag⟩ := s.chip.newRkey_spec inst region.toNat
  have hregion : t.chip.region inst region.toNat = value.take 16 ++ leBytes 4 (s.chip.newRkey inst region.toNat) := by
    rw [Chip.region, Chip.blob_of_blobs ht.blobs, ← fitTo_keyed hlength]
    exact congrArg (fitTo 20) (Chip.blob_setBlob_same ..)
  have hlt := region.isLt
  refine ⟨?_, ?_, ?_, ht.answers, ht.mem⟩
  all_goals rw [hregion]
  · simp [hlength]
  · rw [leAt_keyed hlength]
    omega
  · rw [leAt_keyed_tag hlength]
    exact htag

/-! ### The rate (R345) -/

theorem cnpReceived_cuts {qp : Fin 8192} {s : State} (hready : s.chip.qpState qp.val = qpReady)
    (howner : (s.chip.qpOwner qp.val).isSome = true) : Ends (.cnpReceived qp) s (fun t =>
      t.chip.qp qp.val = (s.chip.qp qp.val).onCnp (s.chip.reg Obj.ECN_RATE_MIN) ∧
      t.chip.get (qpPart qp.val) Obj.CNT_CNP_RECEIVED = (s.chip.get (qpPart qp.val) Obj.CNT_CNP_RECEIVED + 1) % 2 ^ 64 ∧ t.mem = s.mem) := by
  have hpart : qpPart qp.val < 8 := by
    have := qp.isLt
    rw [qpPart]
    omega
  have htakes : s.chip.qpTakes qp.val = true := by simp [Chip.qpTakes, hready, howner]
  let cut := s.chip.updQp qp.val fun x => x.onCnp (s.chip.reg Obj.ECN_RATE_MIN)
  refine ends_on rfl (c := cut.countPart (qpPart qp.val) Obj.CNT_CNP_RECEIVED 1) (if_neg (by simp [htakes])) fun t hchip hmem => ⟨?_, ?_, hmem⟩
  · rw [hchip, Chip.qp_of_qps (Chip.countPart_qps ..)]
    exact Chip.qp_setQp_same ..
  · rw [hchip, Chip.get_countPart_same _ hpart]
    rfl

/-- Settles O38: each word, write and message by what it does to the pair's entry, its configuration or its region. -/
theorem roceControl : Obligations.RoceControl := by
  refine ⟨?counts, fun r qp value s inst hadmits hok hto => ⟨qpConfigWrite_ready hadmits hok hto, qpConfigWrite_error hadmits hok hto⟩,
    fun r region value s inst => mrEntryWrite_keyed, ?rate⟩
  case counts =>
    intro qp count s q x hactive
    refine ⟨fun hidle => ?_, qpSendProducer_ignored hactive⟩
    rw [Chip.qpIdle_iff] at hidle
    exact ⟨qpSendProducer_taken hactive hidle, qpRecvProducer_taken hactive hidle, qpCompConsumer_taken hactive hidle⟩
  case rate =>
    intro qp s hready x
    refine ⟨cnpReceived_cuts hready, fun hnone => ?dropped, ?decay, ?increase⟩
    case dropped => exact ends_same rfl (if_pos (by simp [Chip.qpTakes, hnone]))
    all_goals exact ⟨_, rfl, congrArg (fun c => { s with chip := c }) (if_neg (by simp [hready]))⟩

end Sys2Proof.Machine
end

section
/-! PROOF. Start-up, L5 and L6 (R384, R404, R406, R413, R443–R446, R468): what the recorder, the claims of the lease, a bundle that runs
and a loss of the domains leave of the module. -/
namespace Sys2Proof.Machine

/-! ### Records, claims and refusals: objects of chapters 17 to 20 alone -/

/-- `c` is `b` after records, claims of the lease and their counts: no object before those of the recorder has changed, and neither has
the always-on side, nor sessions, links and resets in progress. -/
structure Chip.Recorded (b c : Chip) : Prop where
  side : c.side = b.side
  sess : c.sess = b.sess
  links : c.links = b.links
  resets : c.resets = b.resets
  reg : ∀ key, key < Obj.CAIRN_STATE → c.reg key = b.reg key

namespace Chip.Recorded

variable {b c d : Chip}

theorem refl (c : Chip) : Recorded c c := ⟨rfl, rfl, rfl, rfl, fun _ _ => rfl⟩

theorem trans (h : Recorded b c) (h' : Recorded c d) : Recorded b d :=
  ⟨h'.side.trans h.side, h'.sess.trans h.sess, h'.links.trans h.links, h'.resets.trans h.resets,
    fun key hk => (h'.reg key hk).trans (h.reg key hk)⟩

theorem setReg (h : Recorded b c) {key : Nat} (hkey : Obj.CAIRN_STATE ≤ key) (v : Nat) : Recorded b (c.setReg key v) :=
  h.trans ⟨rfl, rfl, rfl, rfl, fun l hl => c.reg_setReg_other v (by omega)⟩

theorem bump (h : Recorded b c) {key : Nat} (hkey : Obj.CAIRN_STATE ≤ key) : Recorded b (c.bump key) := h.setReg hkey _

theorem cairn (h : Recorded b c) (r : Cairn) : Recorded b { c with cairn := r } := h.trans ⟨rfl, rfl, rfl, rfl, fun _ _ => rfl⟩

theorem raise (h : Recorded b c) (ty part : Nat) (fs : List (Nat × Nat)) : Recorded b (c.raise ty part fs) :=
  h.trans ⟨c.raise_side .., c.raise_sess .., c.raise_links .., c.raise_resets ..,
    fun key hk => c.raise_reg_of_lt ty part fs (hk.trans (by decide))⟩

theorem raiseMod (h : Recorded b c) (ty : Nat) (fs : List (Nat × Nat)) : Recorded b (c.raiseMod ty fs) := h.raise ty 0xFF fs

theorem record (h : Recorded b c) (e : EvRec) : Recorded b (c.record e) := by
  obtain ⟨cr, rg, heq, hreg⟩ := c.record_shape e
  rw [heq]
  refine h.trans ⟨rfl, rfl, rfl, rfl, fun key hk => ?_⟩
  have hkept : recorderKey (ikey modInst key) = false := recorderKey_of_subject (by simp only [Obj.CAIRN_STATE] at hk; omega)
  simp only [Chip.reg, Chip.get, hreg _ hkept]

theorem foldl {α : Type} (h : Recorded b c) {f : Chip → α → Chip} (hf : ∀ d a, Recorded d (f d a)) (l : List α) :
    Recorded b (l.foldl f c) :=
  List.foldlRecOn (motive := Recorded b) l f h (fun _ hd a _ => hd.trans (hf _ a))

theorem ite {p : Prop} [Decidable p] (h : Recorded b c) (h' : Recorded b d) : Recorded b (if p then c else d) := by
  split <;> assumption

theorem commit (h : Recorded b c) (e : EvRec) : Recorded b (c.commit e) :=
  ((h.cairn _).setReg (by decide) _).setReg (by decide) _

theorem stub (h : Recorded b c) (kind cause : Nat) : Recorded b (c.stub kind cause) :=
  ite ((h.cairn _).cairn _) ((h.cairn _).bump (by decide))

theorem cairnFail (h : Recorded b c) (cause : Nat) : Recorded b (c.cairnFail cause) :=
  ite h ((((h.stub _ _).setReg (by decide) _).raiseMod _ _).setReg (by decide) _)

theorem cleared (h : Recorded b c) : Recorded b c.cleared := by
  unfold Chip.cleared
  extract_lets r last data e c1 c2 c3 c4 c5 c6
  have hfirst : Recorded b c2 := (((h.cairn _).setReg (by decide) _).setReg (by decide) _).commit e
  have hstub : Recorded b c3 := hfirst.foldl (fun d _ => (refl d).commit _) _
  have hcounts : Recorded b c5 := (((hstub.setReg (by decide) _).setReg (by decide) _).setReg (by decide) _).setReg (by decide) _
  have hunrecorded : Recorded b c6 := hcounts.foldl (fun d a => (refl d).setReg (Nat.le_add_right_of_le (by decide)) 0) _
  exact hunrecorded.setReg (by decide) 0

theorem cairnStart (h : Recorded b c) (readable : Bool) : Recorded b (c.cairnStart readable) := by
  unfold Chip.cairnStart
  extract_lets _ c1 fresh c2 _
  have hcleared : Recorded b c1 := ite (h.cairn _).cleared h
  have hstaged : Recorded b c2 := hcleared.foldl (fun d _ => (refl d).record _) _
  exact ite (hcleared.cairnFail 4) (ite hcleared (hstaged.cairn _))

theorem leaseClaim (h : Recorded b c) (st : Bool) : Recorded b (c.leaseClaim st) :=
  ite (((((h.setReg (by decide) _).setReg (by decide) _).setReg (by decide) _).bump (by decide)).raiseMod _ _) (h.bump (by decide))

end Chip.Recorded

@[simp] theorem Chip.updSide_reg (c : Chip) (f : Side → Side) (key : Nat) : (c.updSide f).reg key = c.reg key := rfl

/-! ### A bundle runs, and the boot chain (R443–R446) -/

/-- `c` is `b` after steps of start-up: sessions, links, resets in progress and the always-on side as they were, but for what the boot
waits for and its alerts. -/
structure Chip.Booted (b c : Chip) : Prop where
  sess : c.sess = b.sess
  links : c.links = b.links
  resets : c.resets = b.resets
  side : ∃ hold wanted cause, c.side = { b.side with bootHold := hold, recWanted := wanted, cause := cause }

namespace Chip.Booted

variable {b c d : Chip}

theorem refl (c : Chip) : Booted c c := ⟨rfl, rfl, rfl, _, _, _, rfl⟩

theorem trans (h : Booted b c) (h' : Booted c d) : Booted b d := by
  obtain ⟨_, _, _, hside⟩ := h.side
  obtain ⟨_, _, _, hside'⟩ := h'.side
  exact ⟨h'.sess.trans h.sess, h'.links.trans h.links, h'.resets.trans h.resets, _, _, _, hside'.trans (by rw [hside])⟩

theorem recorded (h : Booted b c) (h' : Recorded c d) : Booted b d := h.trans ⟨h'.sess, h'.links, h'.resets, _, _, _, h'.side⟩

theorem setReg (h : Booted b c) (key v : Nat) : Booted b (c.setReg key v) := h.trans ⟨rfl, rfl, rfl, _, _, _, rfl⟩

theorem setBlob (h : Booted b c) (i key : Nat) (bs : List Byte) : Booted b (c.setBlob i key bs) := h.trans ⟨rfl, rfl, rfl, _, _, _, rfl⟩

theorem foldl {α : Type} (h : Booted b c) {f : Chip → α → Chip} (hf : ∀ d a, Booted d (f d a)) (l : List α) : Booted b (l.foldl f c) :=
  List.foldlRecOn (motive := Booted b) l f h (fun _ hd a _ => hd.trans (hf _ a))

theorem ite {p : Prop} [Decidable p] (h : Booted b c) (h' : Booted b d) : Booted b (if p then c else d) := by
  split <;> assumption

theorem measure (h : Booted b c) (bundle : List Byte) : Booted b (c.measure bundle) :=
  (h.setBlob _ _ _).foldl (fun d _ => ite ((refl d).setBlob _ _ _) (refl d)) _

/-- The boot waits for nothing. -/
theorem noWait (h : Booted b c) : Booted b (c.updSide fun s => { s with recWanted := false, bootHold := false }) :=
  h.trans ⟨rfl, rfl, rfl, _, _, _, rfl⟩

theorem bootWait (h : Booted b c) (recovery : Bool) : Booted b (c.bootWait recovery) := by
  refine h.trans ?_
  cases recovery <;> exact ⟨rfl, rfl, rfl, _, _, _, rfl⟩

theorem factoryReset (h : Booted b c) : Booted b c.factoryReset := ite h (h.trans ⟨rfl, rfl, rfl, _, _, _, rfl⟩)

end Chip.Booted

/-- The chip as the firmware takes over: its measurements and its objects. -/
def Chip.takingOver (c : Chip) (b : List Byte) (bank : Nat) : Chip :=
  let c := (c.measure b).setReg Obj.FW_BANK_RUNNING bank
  let c := c.setReg Obj.FW_VERSION (leAt b 0xC 4)
  let c := (List.range 2).foldl (fun c i =>
    if c.reg (Obj.FW_BANK_STATE + i) = 3 then
      (c.setReg (Obj.FW_BANK_SVN + i) (byteAt (c.window i 0) 8)).setReg (Obj.FW_BANK_VERSION + i) (leAt (c.window i 0) 0xC 4)
    else c) c
  let c := c.updSide (fun s => { s with recWanted := false, bootHold := false })
  let c := c.setReg Obj.COMPUTE_BUDGET (c.reg Obj.POWER_LIMIT - 1200)
  c.setReg Obj.STARTUP_STEP 6

theorem Chip.takingOver_booted (c : Chip) (b : List Byte) (bank : Nat) : c.Booted (c.takingOver b bank) := by
  unfold Chip.takingOver
  extract_lets c1 c2 c3 c4 c5
  have hmeasured : c.Booted c2 := (((Booted.refl c).measure b).setReg _ _).setReg _ _
  have hbanks : c.Booted c3 := hmeasured.foldl (fun d i => .ite (((Booted.refl d).setReg _ _).setReg _ _) (.refl d)) _
  exact (hbanks.noWait.setReg _ _).setReg _ _

theorem Chip.takingOver_side (c : Chip) (b : List Byte) (bank : Nat) :
    (c.takingOver b bank).side = { c.side with recWanted := false, bootHold := false } := by
  unfold Chip.takingOver
  extract_lets c1 c2 c3 c4 c5
  have hmeasured : (c.measure b).side = c.side :=
    List.foldlRecOn (motive := fun d : Chip => d.side = c.side) _ _ rfl fun d hd i _ => by dsimp only; split <;> exact hd
  have hbanks : c3.side = c2.side :=
    List.foldlRecOn (motive := fun d : Chip => d.side = c2.side) _ _ rfl fun d hd i _ => by split <;> exact hd
  show ({ c3.side with recWanted := false, bootHold := false } : Side) = _
  rw [hbanks]
  show ({ (c.measure b).side with recWanted := false, bootHold := false } : Side) = _
  rw [hmeasured]

theorem Chip.takingOver_reg (c : Chip) (b : List Byte) {bank : Nat} (hbank : bank < 2 ^ 64) :
    (c.takingOver b bank).reg Obj.STARTUP_STEP = 6 ∧ (c.takingOver b bank).reg Obj.FW_BANK_RUNNING = bank := by
  unfold Chip.takingOver
  extract_lets c1 c2 c3 c4 c5
  have hbanks : c3.reg Obj.FW_BANK_RUNNING = c2.reg Obj.FW_BANK_RUNNING :=
    List.foldlRecOn (motive := fun d : Chip => d.reg Obj.FW_BANK_RUNNING = c2.reg Obj.FW_BANK_RUNNING) _ _ rfl fun d hd i _ => by
      split
      · rw [Chip.reg_setReg_other _ _ (by simp only [Obj.FW_BANK_RUNNING, Obj.FW_BANK_VERSION]; omega),
          Chip.reg_setReg_other _ _ (by simp only [Obj.FW_BANK_RUNNING, Obj.FW_BANK_SVN]; omega)]
        exact hd
      · exact hd
  refine ⟨by rw [Chip.reg_setReg_same]; rfl, ?_⟩
  rw [Chip.reg_setReg_other _ _ (by decide), Chip.reg_setReg_other _ _ (by decide), Chip.updSide_reg, hbanks]
  rw [Chip.reg_setReg_other _ _ (by decide), Chip.reg_setReg_same, Nat.mod_eq_of_lt hbank]

theorem Chip.runBundle_recorded (c : Chip) (b : List Byte) (bank : Nat) (fallback applied readable : Bool) :
    (c.takingOver b bank).Recorded (c.runBundle b bank fallback applied readable) := by
  unfold Chip.runBundle
  extract_lets c1 c2 c3 c4 c5 c6 c7 c8
  have hstarted : (c.takingOver b bank).Recorded c6 := (Recorded.refl _).cairnStart readable
  have hfallback : (c.takingOver b bank).Recorded c7 := .ite ((hstarted.bump (by decide)).raiseMod _ _) hstarted
  have happlied : (c.takingOver b bank).Recorded c8 := .ite (hfallback.raiseMod _ _) hfallback
  exact (happlied.leaseClaim false).leaseClaim true

theorem Chip.Booted.runBundle {b c : Chip} (h : b.Booted c) (bundle : List Byte) (bank : Nat) (fallback applied readable : Bool) :
    b.Booted (c.runBundle bundle bank fallback applied readable) :=
  (h.trans (c.takingOver_booted bundle bank)).recorded (c.runBundle_recorded bundle bank fallback applied readable)

theorem Chip.boot_booted (c : Chip) (l5 readable : Bool) : c.Booted (c.boot l5 readable) := by
  unfold Chip.boot
  extract_lets src armed c1 c2 sel
  have hstart : c.Booted c2 := (((Booted.refl c).setReg _ _).factoryReset).setReg _ _
  exact .ite ((Booted.refl c).bootWait false) (.ite (hstart.runBundle _ _ _ _ _)
    (.ite (hstart.runBundle _ _ _ _ _) (.ite (hstart.runBundle _ _ _ _ _) (hstart.bootWait _))))

end Sys2Proof.Machine
end

section
/-! PROOF. L5 and L6 from their entry, and resets that begin (R404, R406, R407, R413). -/
namespace Sys2Proof.Machine

/-! ### What a loss of the domains leaves (R384) -/

theorem Chip.survivors_spec (c : Chip) (pd18 : Bool) : (c.survivors pd18).sess = [] ∧ (c.survivors pd18).links = [] ∧
    (c.survivors pd18).resets = [] ∧ (c.survivors pd18).side =
      if pd18 then c.side else { input := c.side.input, enable := c.side.enable, rstLow := c.side.rstLow } := by
  unfold Chip.survivors
  extract_lets c'
  refine List.foldlRecOn (motive := fun d : Chip => d.sess = [] ∧ d.links = [] ∧ d.resets = [] ∧ d.side =
    if pd18 then c.side else { input := c.side.input, enable := c.side.enable, rstLow := c.side.rstLow }) _ _ ⟨rfl, rfl, rfl, rfl⟩ ?_
  intro d hd i _
  dsimp only
  split <;> exact hd

theorem Tbl.find_modKeys {α : Type} (t : Tbl α) (keep : Nat → α → Bool) {key : Nat} (hkey : key < 2 ^ 24)
    (hkeep : ∀ v, Tbl.find t (ikey modInst key) = some v → keep key v = true) :
    Tbl.find (modKeys t keep) (ikey modInst key) = Tbl.find t (ikey modInst key) := by
  have hmod : ikey modInst key % 2 ^ 24 = key := by unfold ikey; omega
  have hinst : ikey modInst key / 2 ^ 24 = modInst := by unfold ikey; omega
  induction t with
  | nil => rfl
  | cons e t ih =>
    obtain ⟨j, v⟩ := e
    by_cases hj : ikey modInst key = j
    · have hkept : keep key v = true := hkeep v (by simp [Tbl.find, hj])
      have hhead : (decide (j / 2 ^ 24 = modInst) && keep (j % 2 ^ 24) v) = true := by
        rw [← hj, hmod, hinst, hkept]
        simp
      rw [modKeys, List.filter_cons]
      split
      · simp [Tbl.find, hj]
      next hnot => exact absurd hhead hnot
    · have htail := ih fun u hu => hkeep u (by rw [Tbl.find, if_neg hj]; exact hu)
      rw [Tbl.find, if_neg hj, ← htail, modKeys, List.filter_cons]
      split
      · rw [Tbl.find, if_neg hj]
        rfl
      · rfl

/-- An object that outlives the loss keeps its value; the states of banks being written or verified are told apart. -/
theorem Chip.survivors_reg (c : Chip) {pd18 : Bool} {key : Nat} (hkey : key < 2 ^ 24) (hbank : key / 256 ≠ Obj.FW_BANK_STATE / 256)
    (hkeep : keepsReg pd18 key (c.reg key) = true) : (c.survivors pd18).reg key = c.reg key := by
  unfold Chip.survivors
  extract_lets _ c'
  have hkept : c'.reg key = c.reg key := by
    have hfind : Tbl.find c'.regs (ikey modInst key) = Tbl.find c.regs (ikey modInst key) := by
      refine Tbl.find_modKeys c.regs (fun k v => keepsReg pd18 k v.toNat) hkey fun v hv => ?_
      have hvalue : c.reg key = v.toNat := by simp only [Chip.reg, Chip.get, hv]
      rwa [← hvalue]
    simp only [Chip.reg, Chip.get, hfind]
  refine List.foldlRecOn (motive := fun d : Chip => d.reg key = c.reg key) _ _ hkept ?_
  intro d hd i hi
  have hi' := List.mem_range.mp hi
  dsimp only
  split
  · rw [Chip.reg_setReg_other _ _ (by rintro rfl; exact hbank (by simp only [Obj.FW_BANK_STATE]; omega))]
    exact hd
  · exact hd

/-! ### L6 and L5 (R404, R406, R413) -/

theorem Chip.resetBegins_recorded (c : Chip) (r : ResetRec) : c.Recorded (c.resetBegins r) := by
  unfold Chip.resetBegins
  extract_lets c1
  have hcounts : c.Recorded c1 := ⟨rfl, rfl, rfl, rfl, fun _ _ => rfl⟩
  exact ((hcounts.bump (by simp only [Obj.CAIRN_STATE, Obj.CNT_RESETS]; omega)).setReg (by decide) _).raise _ _ _

/-- Every session closes, with its event. -/
theorem Chip.closeAll_spec (c : Chip) : ∃ d, c.Recorded d ∧ c.closeAll = { d with sess := [] } :=
  ⟨_, (Recorded.refl c).foldl (fun d _ => (Recorded.refl d).raise _ _ _) _, rfl⟩

/-- A bit that is set stays set as another is set. -/
theorem bitAt_putBit_of_bitAt {x i : Nat} (b : Nat) (h : bitAt x i = true) : bitAt (putBit x b true) i = true := by
  rw [bitAt] at h
  rw [bitAt, testBit_putBit, h, Bool.true_or]

/-- READY cleared leaves the tray's alert of it. -/
theorem Chip.unready_spec (c : Chip) : (∃ alerts, c.unready.side = { c.side with cause := alerts } ∧
    ∀ i, bitAt c.side.cause i = true → bitAt alerts i = true) ∧ ∀ key, c.unready.reg key = c.reg key := by
  unfold Chip.unready
  split
  · exact ⟨⟨putBit c.side.cause alertReady true, rfl, fun i hi => bitAt_putBit_of_bitAt alertReady hi⟩, fun _ => rfl⟩
  · exact ⟨⟨c.side.cause, rfl, fun _ hi => hi⟩, fun _ => rfl⟩

section
variable {c : Chip}

/-- The chip as L6 takes its domains down: counted, its sessions closed, its stub entry written. -/
def Chip.l6Down (c : Chip) (cause : Nat) : Chip :=
  (((c.resetBegins { level := 6, cause := cause }).closeAll.raiseMod 0x0D08 []).stub stubCycle cause).unready

/-- What survives of a chip whose domains are off for L6. -/
def Chip.l6Off (c : Chip) (pd19 : Bool) : Chip :=
  (List.range 30).foldl (fun c d =>
    if d = 18 || (d = 19 && !pd19) || c.reg (Obj.DOMAIN_STATE + d) = 3 then c else c.setReg (Obj.DOMAIN_STATE + d) 2)
    ((c.survivors true).setReg Obj.RESET_LAST (c.reg Obj.RESET_LAST))

theorem Chip.enterL6_eq (cause : Nat) (pd19 : Bool) (hcycle : c.side.cycle = false) (hpower : c.side.power = true)
    (hlost : c.side.lost = false) : ∃ step, c.enterL6 cause pd19 = ((((c.l6Down cause).l6Off pd19).setReg Obj.STARTUP_STEP step).updSide
      (fun s => { s with cycle := true, pd19Off := pd19, hold := 0 })).alert alertCycle := by
  rw [Chip.enterL6, hcycle, hpower, hlost, if_neg (by decide)]
  exact ⟨_, rfl⟩

theorem Chip.l6Down_spec (c : Chip) (cause : Nat) : (∃ alerts, (c.l6Down cause).side = { c.side with cause := alerts } ∧
      ∀ i, bitAt c.side.cause i = true → bitAt alerts i = true) ∧
    ∀ key < Obj.CAIRN_STATE, (c.l6Down cause).reg key = c.reg key := by
  obtain ⟨d, hclosed, heq⟩ := (c.resetBegins { level := 6, cause := cause }).closeAll_spec
  have hbegun : c.Recorded d := (c.resetBegins_recorded _).trans hclosed
  have hsaid : ({ d with sess := [] } : Chip).Recorded ((({ d with sess := [] } : Chip).raiseMod 0x0D08 []).stub stubCycle cause) :=
    ((Recorded.refl _).raiseMod _ _).stub _ _
  obtain ⟨⟨alerts, hunready, hkept⟩, hreg⟩ := ((({ d with sess := [] } : Chip).raiseMod 0x0D08 []).stub stubCycle cause).unready_spec
  have hside := hsaid.side.trans hbegun.side
  rw [Chip.l6Down, heq]
  refine ⟨⟨alerts, by rw [hunready, hside], fun i hi => hkept i (by rwa [hside])⟩, fun key hkey => ?_⟩
  exact (hreg key).trans ((hsaid.reg key hkey).trans (hbegun.reg key hkey))

theorem Chip.l6Off_spec (c : Chip) (pd19 : Bool) : (c.l6Off pd19).sess = [] ∧ (c.l6Off pd19).side = c.side ∧
    ∀ d < 30, c.reg (Obj.DOMAIN_STATE + d) = 3 → (c.l6Off pd19).reg (Obj.DOMAIN_STATE + d) = 3 := by
  obtain ⟨hsess, -, -, hside⟩ := c.survivors_spec true
  have hkept : (c.l6Off pd19).sess = [] ∧ (c.l6Off pd19).side = c.side :=
    List.foldlRecOn (motive := fun d : Chip => d.sess = [] ∧ d.side = c.side) _ _ ⟨hsess, hside⟩ fun d hd i _ => by
      split <;> exact hd
  refine ⟨hkept.1, hkept.2, fun d hd hfault => ?_⟩
  have hkeep : keepsReg true (Obj.DOMAIN_STATE + d) (c.reg (Obj.DOMAIN_STATE + d)) = true := by
    rw [hfault]
    simp [keepsReg]
    omega
  refine List.foldlRecOn (motive := fun e : Chip => e.reg (Obj.DOMAIN_STATE + d) = 3) _ _ ?_ fun e he i _ => ?_
  · rw [Chip.reg_setReg_other _ _ (by simp only [Obj.DOMAIN_STATE, Obj.RESET_LAST]; omega),
      c.survivors_reg (by simp only [Obj.DOMAIN_STATE]; omega) (by simp only [Obj.DOMAIN_STATE, Obj.FW_BANK_STATE]; omega) hkeep]
    exact hfault
  · split
    · exact he
    next hstate =>
      rw [Chip.reg_setReg_other _ _ fun hi => hstate (by simp [show i = d by omega, he])]
      exact he

/-- L6 is entered: the request stands, every session is closed; alerts that stood stand, and a domain in FAULT stays so. -/
theorem Chip.enterL6_spec (cause : Nat) (pd19 : Bool) (hcycle : c.side.cycle = false) (hpower : c.side.power = true)
    (hlost : c.side.lost = false) : (c.enterL6 cause pd19).sess = [] ∧ (∃ alerts, (c.enterL6 cause pd19).side =
      { c.side with cycle := true, pd19Off := pd19, hold := 0, cause := alerts } ∧ bitAt alerts alertCycle = true ∧
      ∀ i, bitAt c.side.cause i = true → bitAt alerts i = true) ∧
    ∀ d < 30, c.reg (Obj.DOMAIN_STATE + d) = 3 → (c.enterL6 cause pd19).reg (Obj.DOMAIN_STATE + d) = 3 := by
  obtain ⟨step, heq⟩ := Chip.enterL6_eq cause pd19 hcycle hpower hlost
  obtain ⟨⟨alerts, hside, hkept⟩, hreg⟩ := c.l6Down_spec cause
  obtain ⟨hsess, hside', hdomains⟩ := (c.l6Down cause).l6Off_spec pd19
  rw [heq]
  generalize (c.l6Down cause).l6Off pd19 = off at *
  refine ⟨hsess, ⟨putBit alerts alertCycle true, ?_, bitAt_putBit_same .., fun i hi => bitAt_putBit_of_bitAt alertCycle (hkept i hi)⟩,
    fun d hd hfault => ?_⟩
  · simp only [Chip.alert, Chip.updSide, Chip.setReg, Chip.set, hside', hside]
  · have hlt : Obj.DOMAIN_STATE + d < Obj.CAIRN_STATE := by simp only [Obj.DOMAIN_STATE, Obj.CAIRN_STATE]; omega
    rw [Chip.alert, Chip.updSide_reg, Chip.updSide_reg, Chip.reg_setReg_other _ _ (by simp only [Obj.DOMAIN_STATE, Obj.STARTUP_STEP]; omega)]
    exact hdomains d hd ((hreg _ hlt).trans hfault)

/-- What survives of a chip whose domains are down for L5, at the entry of it: the boot is counted, and the reset is in progress. -/
def Chip.l5Held (c : Chip) (last cause : Nat) : Chip :=
  let d := ((c.setReg Obj.RESET_LAST last).countBoot).updSide (fun s => { s with lost := false, hold := if s.rstLow then 2 else 0 })
  { (d.setReg Obj.STARTUP_STEP 2) with resets := [{ level := 5, cause := cause }] }

/-- The chip at the entry of an L5: every domain but PD18 down, and the reset in progress. -/
def Chip.l5Entry (c : Chip) (cause : Nat) : Chip :=
  let c := ((c.resetBegins { level := 5, cause := cause }).closeAll).unready
  (c.survivors true).l5Held (c.reg Obj.RESET_LAST) cause

theorem Chip.enterL5_eq (cause : Nat) (readable : Bool) (hcycle : c.side.cycle = false) (hpower : c.side.power = true)
    (hfirst : c.inL5 = false) : c.enterL5 cause readable =
      if (c.l5Entry cause).side.rstLow then c.l5Entry cause else (c.l5Entry cause).boot true readable := by
  rw [Chip.enterL5, hcycle, hpower, hfirst, if_neg (by decide), if_neg (by decide)]
  rfl

theorem Chip.l5Held_spec (c : Chip) (last cause : Nat) : (c.l5Held last cause).sess = c.sess ∧
    (c.l5Held last cause).resets = [{ level := 5, cause := cause }] ∧ (c.l5Held last cause).side.rstLow = c.side.rstLow ∧
    (c.l5Held last cause).side.hold = (if c.side.rstLow then 2 else 0) ∧ (c.l5Held last cause).reg Obj.STARTUP_STEP = 2 := by
  refine ⟨rfl, rfl, rfl, rfl, ?_⟩
  rw [Chip.l5Held]
  exact (Chip.reg_setReg_same _ _ _).trans rfl

theorem Chip.l5Entry_spec (c : Chip) (cause : Nat) : (c.l5Entry cause).sess = [] ∧
    (c.l5Entry cause).resets = [{ level := 5, cause := cause }] ∧ (c.l5Entry cause).side.rstLow = c.side.rstLow ∧
    (c.l5Entry cause).side.hold = (if c.side.rstLow then 2 else 0) ∧ (c.l5Entry cause).reg Obj.STARTUP_STEP = 2 := by
  unfold Chip.l5Entry
  extract_lets down
  obtain ⟨d, hclosed, heq⟩ := (c.resetBegins { level := 5, cause := cause }).closeAll_spec
  obtain ⟨⟨alerts, hunready, -⟩, -⟩ := (c.resetBegins { level := 5, cause := cause }).closeAll.unready_spec
  obtain ⟨hsess, -, -, hside⟩ := down.survivors_spec true
  obtain ⟨hsess', hresets, hrst, hhold, hstep⟩ := (down.survivors true).l5Held_spec (down.reg Obj.RESET_LAST) cause
  have hdown : (down.survivors true).side.rstLow = c.side.rstLow := by
    refine (congrArg Side.rstLow (hside.trans hunready)).trans ?_
    rw [heq]
    show d.side.rstLow = c.side.rstLow
    rw [((c.resetBegins_recorded _).trans hclosed).side]
  exact ⟨hsess'.trans hsess, hresets, hrst.trans hdown, by rw [hhold, hdown], hstep⟩

/-- L5 is entered: every session is closed, and it alone is in progress; TRAY_RST_L low holds it at its entry. -/
theorem Chip.enterL5_spec (cause : Nat) (readable : Bool) (hcycle : c.side.cycle = false) (hpower : c.side.power = true)
    (hfirst : c.inL5 = false) : (c.enterL5 cause readable).sess = [] ∧
    (c.enterL5 cause readable).resets = [{ level := 5, cause := cause }] ∧
    (c.side.rstLow = true → (c.enterL5 cause readable).side.rstLow = true ∧ (c.enterL5 cause readable).side.hold = 2 ∧
      (c.enterL5 cause readable).reg Obj.STARTUP_STEP = 2) := by
  obtain ⟨hsess, hresets, hrst, hhold, hstep⟩ := c.l5Entry_spec cause
  rw [Chip.enterL5_eq cause readable hcycle hpower hfirst]
  split
  next hlow =>
    refine ⟨hsess, hresets, fun hheld => ⟨hlow, ?_, hstep⟩⟩
    rw [hhold, if_pos hheld]
  next hhigh =>
    have hbooted := (c.l5Entry cause).boot_booted true readable
    exact ⟨hbooted.sess.trans hsess, hbooted.resets.trans hresets, fun hlow => absurd (hrst.trans hlow) hhigh⟩

end

/-! ### Orders that are carried out (R404, R407) -/

section
variable {s : State} {r : ResetRec} {bad : List (Fin 16 × Bool × Fin 8)}

theorem State.orderGo_resetting {f : Nat} {readable pd19 : Bool} {prior : List Nat} (hlevel : r.level ≤ 4) (h : r.ordered s.chip) :
    (State.orderGo bad readable pd19 (f + 1) r prior s).chip.resetting r.level r.cause := by
  obtain ⟨hdue, hcount⟩ := h
  have horder : State.orderGo bad readable pd19 (f + 1) r prior s = s.compute r bad prior := by
    have hroom : ¬ Tbl.get s.chip.resetCounts 0 (r.level * 2 ^ 32 + r.scope) ≥ s.chip.reg Obj.RESET_REPEAT_LIMIT := by omega
    rw [State.orderGo, hdue, decide_eq_false hroom, Bool.and_false, if_neg (by decide), if_neg (by decide), if_neg (by omega), if_neg (by omega)]
  refine ⟨{ r with ridges := r.touched s.chip }, ?_, rfl, rfl⟩
  rw [horder, State.compute_resets]
  exact List.mem_append_right _ (List.mem_singleton_self _)

theorem State.orderGo_l5 {f : Nat} {readable pd19 : Bool} {prior : List Nat} (hlevel : r.level = 5) (h : r.ordered s.chip) :
    State.orderGo bad readable pd19 (f + 1) r prior s = s.on fun c => c.enterL5 r.cause readable := by
  obtain ⟨hdue, hcount⟩ := h
  have hroom : ¬ Tbl.get s.chip.resetCounts 0 (r.level * 2 ^ 32 + r.scope) ≥ s.chip.reg Obj.RESET_REPEAT_LIMIT := by omega
  rw [State.orderGo, hdue, decide_eq_false hroom, Bool.and_false, if_neg (by decide), if_neg (by decide), if_neg (by omega), if_pos hlevel]

theorem State.orderGo_l6 {f : Nat} {readable pd19 : Bool} {prior : List Nat} (hlevel : r.level = 6) (hdue : r.due s.chip = true) :
    State.orderGo bad readable pd19 (f + 1) r prior s = s.on fun c => c.enterL6 r.cause pd19 := by
  rw [State.orderGo, hdue, if_neg (by decide), if_neg (by simp [hlevel]), if_pos hlevel]

/-- What stands where a reset is due: power, and no power-cycle request. -/
theorem ResetRec.power_of_due {c : Chip} (h : r.due c = true) : c.side.power = true ∧ c.side.cycle = false ∧ c.side.lost = false := by
  simp only [ResetRec.due, Bool.and_eq_true, Bool.not_eq_true'] at h
  exact ⟨h.1.1.1, h.1.1.2, h.1.2⟩

end

end Sys2Proof.Machine
end

section
/-! PROOF. A reset that is due and has not repeated too often begins at its own level (R404, R406, R407, R413, Table 17.2). -/
namespace Sys2Proof.Machine

/-- A command leaves the commands that wait as they are. -/
theorem Ends.pending {i : Instr} {s : State} {P : State → Prop} (h : Ends i s P) : Ends i s (fun t => P t ∧ t.pending = s.pending) := by
  obtain ⟨t, hexec, ht⟩ := h
  obtain ⟨u, hu, hpending⟩ := commandsComplete i s
  rw [hexec] at hu
  obtain rfl := Host.Outcome.next.inj hu
  exact ⟨t, hexec, ht, hpending⟩

/-- Settles O43: L1 to L4 are orders that are carried out, L5 and L6 their entries. -/
theorem resetsBegin : Obligations.ResetsBegin := by
  unfold Obligations.ResetsBegin
  refine ⟨fun part ctx cause bad s h => .pending ⟨_, rfl, State.orderGo_resetting (by simp) h⟩,
    fun ridge spur cause bad s h => .pending ⟨_, rfl, State.orderGo_resetting (by simp) h⟩,
    fun part cause bad s h => .pending ⟨_, congrArg Host.Outcome.next (if_pos h.1),
      State.orderGo_resetting (r := { level := 3, cause := cause.toNat, part := part.val }) (by simp) h⟩,
    fun cause bad s h => .pending ⟨_, congrArg Host.Outcome.next (if_pos h.1),
      State.orderGo_resetting (r := { level := 4, cause := cause.toNat }) (by simp) h⟩,
    fun cause readable s h hfirst => ?l5, fun cause pd19 s hdue => ?l6⟩
  case l5 =>
    obtain ⟨hpower, hcycle, -⟩ := ResetRec.power_of_due h.1
    obtain ⟨hsess, hresets, -⟩ := Chip.enterL5_spec cause.toNat readable hcycle hpower hfirst
    refine ⟨_, congrArg Host.Outcome.next (State.orderGo_l5 rfl h), ?_, hsess, rfl, rfl⟩
    exact ⟨{ level := 5, cause := cause.toNat }, by rw [State.on_chip, hresets]; exact List.mem_singleton_self _, rfl, rfl⟩
  case l6 =>
    obtain ⟨hpower, hcycle, hlost⟩ := ResetRec.power_of_due hdue
    obtain ⟨hsess, ⟨alerts, hside, halert, -⟩, -⟩ := Chip.enterL6_spec cause.toNat pd19 hcycle hpower hlost
    refine ⟨_, congrArg Host.Outcome.next (State.orderGo_l6 rfl hdue), ?_, hsess, ?_, rfl, rfl⟩
    · rw [State.on_chip, hside]
    · rw [State.on_chip, hside]
      exact halert

end Sys2Proof.Machine
end

section
/-! PROOF. Resets that end, or give way to the next level (R406, R407), and a queue rewound too often (R147, R152). -/
namespace Sys2Proof.Machine

/-! ### The next level (R407) -/

/-- A reset that escalates leaves the list with its event; nothing that decides about an order has changed. -/
theorem Chip.OrdersLike.escalated (c : Chip) (i : Nat) (r : ResetRec) :
    OrdersLike c (({ c with resets := c.resets.eraseIdx i } : Chip).escalated r) := by
  have herased : OrdersLike c ({ c with resets := c.resets.eraseIdx i } : Chip) := ⟨rfl, rfl, rfl, fun _ _ => rfl⟩
  exact (herased.count (by decide) 1).raise _ _ _

/-- An order of L4 is decided by the always-on side and the start-up alone. -/
theorem Chip.OrdersLike.ordered_l4 {c d : Chip} (h : OrdersLike c d) {cause : Nat} (hdue : ({ level := 4, cause := cause } : ResetRec).due c = true)
    (hcount : Tbl.get c.resetCounts 0 (4 * 2 ^ 32 + 4) < c.reg Obj.RESET_REPEAT_LIMIT) :
    ({ level := 4, cause := cause } : ResetRec).ordered d := by
  refine ⟨?_, ?_⟩
  · have hstep : d.reg Obj.STARTUP_STEP = c.reg Obj.STARTUP_STEP := h.reg _ (by decide)
    simp only [ResetRec.due] at hdue ⊢
    rwa [h.side, hstep]
  · rw [h.resetCounts, h.reg _ (by decide)]
    exact hcount

section
variable {s : State} {i cause : Nat} {r : ResetRec}

/-- An L3 that escalates gives way to L4. -/
theorem State.escalate_l4 (hr : s.chip.resets[i]? = some r) (hlevel : r.level = 3)
    (hdue : ({ level := 4, cause := cause } : ResetRec).due s.chip = true)
    (hcount : Tbl.get s.chip.resetCounts 0 (4 * 2 ^ 32 + 4) < s.chip.reg Obj.RESET_REPEAT_LIMIT) :
    (s.escalate i cause).chip.resetting 4 cause := by
  have hup : r.higher s.chip cause = { level := 4, cause := cause } := by simp [ResetRec.higher, hlevel]
  rw [State.escalate, hr]
  dsimp only
  rw [if_neg (by omega), hup]
  exact State.orderGo_resetting (r := { level := 4, cause := cause }) (by simp) ((Chip.OrdersLike.escalated s.chip i r).ordered_l4 hdue hcount)

/-- An L5 that escalates gives way to the power-cycle request. -/
theorem State.escalate_l6 (hr : s.chip.resets[i]? = some r) (hlevel : r.level = 5)
    (hdue : ({ level := 6, cause := cause } : ResetRec).due s.chip = true) :
    (s.escalate i cause).chip.side.cycle = true ∧ (s.escalate i cause).chip.sess = [] ∧ (s.escalate i cause).mem = s.mem := by
  have hup : r.higher s.chip cause = { level := 6, cause := cause } := by simp [ResetRec.higher, hlevel]
  let c := ({ s.chip with resets := s.chip.resets.eraseIdx i } : Chip).escalated r
  have hlike : s.chip.OrdersLike c := Chip.OrdersLike.escalated s.chip i r
  have hdue' : ({ level := 6, cause := cause } : ResetRec).due c = true := by
    simp only [ResetRec.due] at hdue ⊢
    rwa [hlike.side]
  obtain ⟨hpower, hcycle, hlost⟩ := ResetRec.power_of_due hdue'
  obtain ⟨hsess, ⟨_, hside, -⟩, -⟩ := Chip.enterL6_spec cause false hcycle hpower hlost
  have hescalated : s.escalate i cause = { s with chip := c.enterL6 cause false } := by
    rw [State.escalate, hr]
    dsimp only
    rw [if_neg (by omega), hup]
    exact State.orderGo_l6 rfl hdue'
  rw [hescalated]
  exact ⟨congrArg Side.cycle hside, hsess, rfl⟩

end

/-! ### The end of a reset (R406), and a queue rewound too often (R152) -/

theorem resetEnd_leaves {which : Fin 64} {s : State} {r : ResetRec} (hr : s.chip.resets[which.val]? = some r)
    (hendable : r.endable s.chip = true) : Ends (.resetEnd which) s (fun t => t.chip.resets = s.chip.resets.eraseIdx which.val ∧
      (t.chip.lastOf 8).map (·.ty) = some 0x0D02 ∧ t.mem = s.mem) := by
  let r' : ResetRec := { r with part := if r.level = 2 then s.chip.ownerN r.ridge else r.part }
  let c := ({ s.chip with resets := s.chip.resets.eraseIdx which.val } : Chip).resetEvent 0x0D02 r'
  refine ends_on (c := c) rfl ?_ fun t hchip hmem => ?_
  · rw [hr]
    exact if_pos hendable
  · obtain ⟨⟨e, hlast, hty, -⟩, -⟩ := Chip.raise_said ({ s.chip with resets := s.chip.resets.eraseIdx which.val } : Chip) 0x0D02 r'.owner
      [(1, r'.level), (4, r'.scope), (1, r'.cause), (8, s.chip.frame)]
    rw [hchip]
    refine ⟨Chip.raise_resets .., ?_, hmem⟩
    rw [show c.lastOf 8 = some e from hlast, Option.map_some, hty]

/-- What gives up the frontier command. -/
def Cmd.givenUp (k : Cmd) : Cmd :=
  { k with status := k.status ++ [stAborted], finished := true, started := true, stale := false, again := [], nextUnit := k.units }

theorem replayLimitReached_gives_up {ridge : Fin 16} {queue : Fin 8} {s : State} (hrewinding : (s.chip.queue ridge.val queue.val).st = .rewinding)
    (hlimit : s.chip.get (s.chip.ownerN ridge.val) Obj.REPLAY_LIMIT < (s.chip.queue ridge.val queue.val).rewinds)
    (hstarted : ∃ k ∈ (s.chip.queue ridge.val queue.val).cmds, k.count = (s.chip.queue ridge.val queue.val).frontierCount ∧
      k.cfgRead = true ∧ k.finished = false) :
    Ends (.replayLimitReached ridge queue) s (fun t =>
      (∀ k ∈ (t.chip.queue ridge.val queue.val).cmds, k.count = (s.chip.queue ridge.val queue.val).frontierCount →
        k.finished = true ∧ stAborted ∈ k.status) ∧
      t.chip.said 0x0442 (s.chip.ownerN ridge.val) [(1, abandonLimit)] ∧ t.mem = s.mem) := by
  have hany : (s.chip.queue ridge.val queue.val).cmds.any (fun k =>
      k.count = (s.chip.queue ridge.val queue.val).frontierCount && k.cfgRead && !k.finished) = true := by
    obtain ⟨k, hk, hcount, hread, hopen⟩ := hstarted
    exact List.any_eq_true.mpr ⟨k, hk, by simp [hcount, hread, hopen]⟩
  generalize hfrontier : (s.chip.queue ridge.val queue.val).frontierCount = frontier at *
  let ended := s.chip.updCmd ridge.val queue.val frontier Cmd.givenUp
  let c := (ended.raise 0x0442 (s.chip.ownerN ridge.val) [(1, abandonLimit)]).updQueue ridge.val queue.val Queue.settle
  refine ends_on (c := c) rfl ?_ fun t hchip hmem => ?_
  · rw [Chip.limitAbort, if_neg (by simp [hrewinding]; omega), hfrontier, if_pos hany]
    rfl
  · rw [hchip]
    refine ⟨fun k hk hcount => ?_, Chip.raise_said .., hmem⟩
    have hcmds : (c.queue ridge.val queue.val).cmds = (s.chip.queue ridge.val queue.val).cmds.map
        (fun k => if k.count = frontier then k.givenUp else k) := by
      rw [Chip.queue_updQueue_same, Queue.settle_cmds, Chip.queue_of_queues (Chip.raise_queues ..)]
      exact congrArg Queue.cmds (Chip.queue_updQueue_same s.chip ridge.val queue.val fun x => x.updCmd frontier Cmd.givenUp)
    rw [hcmds] at hk
    obtain ⟨k', -, rfl⟩ := List.mem_map.mp hk
    split at hcount
    next h => rw [if_pos h]; exact ⟨rfl, by simp [Cmd.givenUp]⟩
    next h => exact absurd hcount h

/-- Settles O44: the end of a reset, its next level by the level it has, and the frontier command that is given up. -/
theorem resetsEnd : Obligations.ResetsEnd := by
  unfold Obligations.ResetsEnd
  refine ⟨fun which s r => resetEnd_leaves, fun which s r hr hlevel hdue hcount => ⟨_, rfl, State.escalate_l4 hr hlevel hdue hcount⟩,
    fun which s r hr hlevel hdue => ⟨_, rfl, State.escalate_l6 hr hlevel hdue⟩, fun ridge s i r hfirst hr hlevel hdue hcount => ?unacked,
    fun ridge queue s => replayLimitReached_gives_up⟩
  case unacked =>
    refine ⟨s.escalate i 7, ?_, State.escalate_l4 hr hlevel hdue hcount⟩
    show execUnackedWriteTimeout ridge s = _
    rw [execUnackedWriteTimeout, hfirst]
    rfl

end Sys2Proof.Machine
end

section
/-! PROOF. The tray's registers (R395, R443, R469–R472): alerts, the recovery transfer, and the PMBus controller. -/
namespace Sys2Proof.Machine

/-- A command of the tray's that changes the always-on side alone. -/
theorem ends_sideOf {i : Instr} {s : State} {f : Chip → Chip} {x : Side} {P : State → Prop} (hexec : exec i s = .next (s.on f))
    (hf : f s.chip = { s.chip with side := x }) (hP : P (s.on fun c => { c with side := x })) : Ends i s P :=
  ⟨_, hexec.trans (congrArg (fun c => Host.Outcome.next { s with chip := c }) hf), hP⟩

theorem ends_side {i : Instr} {s : State} {f : Chip → Chip} {x : Side} (hexec : exec i s = .next (s.on f))
    (hf : f s.chip = { s.chip with side := x }) : Ends i s (fun t => t = s.on fun c => { c with side := x }) :=
  ends_sideOf hexec hf rfl

/-- A command that a module without power does not take. -/
theorem if_powered {c : Chip} (hpower : c.side.power = true) (d : Chip) : (if !c.side.power then c else d) = d := by
  rw [hpower, if_neg (by decide)]

section
variable {s : State}

theorem alertCauseWrite_clears {value : Byte} (hpower : s.chip.side.power = true) :
    Ends (.alertCauseWrite value) s (fun t => t = s.on (fun c => { c with side := t.chip.side }) ∧ t.chip.side.causeEn = s.chip.side.causeEn ∧
      ∀ i < 6, bitAt t.chip.side.cause i = (bitAt s.chip.side.cause i && (!bitAt value.toNat i || (i = 0 && s.chip.side.cycle)))) := by
  refine ends_sideOf rfl (if_powered hpower _) ⟨rfl, rfl, fun i hi => ?_⟩
  refine (testBit_maskOf _ i).trans ?_
  simp [mem_setBits, hi]

theorem recoveryData_placed {offset : Option W32} {data : List Byte} {o : Nat}
    (ho : (match offset with | some v => v.toNat | none => s.chip.side.recOffset) = o) (hpower : s.chip.side.power = true)
    (htransfer : s.chip.side.recState = 1) (hfits : o + data.length ≤ 2 ^ 26) :
    Ends (.recoveryData offset data) s (fun t => t = s.on (fun c => { c with side := { c.side with
      recOffset := o + data.length, recBytes := placeBytes c.side.recBytes o data } })) := by
  refine ends_side rfl ((if_powered hpower _).trans ?_)
  have hwraps : (o + data.length) % 2 ^ 32 = o + data.length := Nat.mod_eq_of_lt (by omega)
  cases offset
  all_goals
    obtain rfl := ho
    dsimp only [Chip.updSide] at hwraps hfits ⊢
    rw [htransfer, if_neg (by decide), if_neg (by omega), hwraps]

/-- The recovery bundle has come and is checked. -/
def Chip.received (c : Chip) (ok : Bool) : Chip :=
  c.updSide fun x => if ok then { x with recState := 3, recBytes := [], bundle := if x.recWanted then recBundle x.recBytes else x.bundle }
    else { x with recState := 4, recBytes := [] }

section
variable {c : Chip} (hpower : c.side.power = true) (htransfer : c.side.recState = 1)
include hpower htransfer

theorem Chip.recoveryEnd_refused (hbad : ¬ c.bundleOk (recBundle c.side.recBytes) = true) : c.recoveryEnd = c.received false := by
  rw [Chip.recoveryEnd, hpower, htransfer, if_neg (by decide)]
  exact if_neg hbad

theorem Chip.recoveryEnd_kept (hok : c.bundleOk (recBundle c.side.recBytes) = true) (hunwanted : c.side.recWanted = false) :
    c.recoveryEnd = c.received true := by
  rw [Chip.recoveryEnd, hpower, htransfer, if_neg (by decide)]
  dsimp only
  rw [if_pos hok, if_neg]
  · rfl
  · rw [show (c.updSide _).side.recWanted = c.side.recWanted from rfl, hunwanted]
    decide

theorem Chip.recoveryEnd_runs (hok : c.bundleOk (recBundle c.side.recBytes) = true) (hwanted : c.side.recWanted = true) :
    c.recoveryEnd = (c.received true).runBundle (recBundle c.side.recBytes) 2 true false true := by
  rw [Chip.recoveryEnd, hpower, htransfer, if_neg (by decide)]
  dsimp only
  rw [if_pos hok, if_pos]
  · rfl
  · exact hwanted

end

theorem recoveryEnd_unawaited (hpower : s.chip.side.power = true) (htransfer : s.chip.side.recState = 1)
    (hunwanted : s.chip.side.recWanted = false) : Ends .recoveryEnd s (fun t => t = s.on (fun c => { c with side := { c.side with
      recState := if c.bundleOk (recBundle c.side.recBytes) then 3 else 4, recBytes := [] } })) := by
  by_cases hok : s.chip.bundleOk (recBundle s.chip.side.recBytes) = true
  · refine ends_side rfl ((Chip.recoveryEnd_kept hpower htransfer hok hunwanted).trans ?_)
    simp [Chip.received, Chip.updSide, hunwanted, hok]
  · refine ends_side rfl ((Chip.recoveryEnd_refused hpower htransfer hok).trans ?_)
    simp [Chip.received, Chip.updSide, hok]

theorem recoveryEnd_awaited (hpower : s.chip.side.power = true) (htransfer : s.chip.side.recState = 1)
    (hwanted : s.chip.side.recWanted = true) : Ends .recoveryEnd s (fun t => t.mem = s.mem ∧
      if s.chip.bundleOk (recBundle s.chip.side.recBytes) = true then
        t.chip.reg Obj.STARTUP_STEP = 6 ∧ t.chip.reg Obj.FW_BANK_RUNNING = 2 ∧ t.chip.side.recState = 3 ∧ t.chip.side.recWanted = false
      else t = s.on (fun c => { c with side := { c.side with recState := 4, recBytes := [] } })) := by
  by_cases hok : s.chip.bundleOk (recBundle s.chip.side.recBytes) = true
  · refine ends_on rfl (Chip.recoveryEnd_runs hpower htransfer hok hwanted) fun t hchip hmem => ⟨hmem, ?_⟩
    let b := recBundle s.chip.side.recBytes
    have hrun := (s.chip.received true).runBundle_recorded b 2 true false true
    obtain ⟨hstep, hbank⟩ := (s.chip.received true).takingOver_reg b (bank := 2) (by decide)
    have hside := hrun.side.trans ((s.chip.received true).takingOver_side b 2)
    rw [if_pos hok, hchip, hside, hrun.reg _ (by decide), hrun.reg _ (by decide)]
    exact ⟨hstep, hbank, rfl, rfl⟩
  · refine ⟨_, rfl, rfl, ?_⟩
    rw [if_neg hok]
    exact congrArg (fun c => { s with chip := c }) (Chip.recoveryEnd_refused hpower htransfer hok)

/-- A transfer that is in progress is discarded. -/
theorem Side.discard_of_transfer {x : Side} (h : x.recState = 1) : x.discard = { x with recState := 0, recBytes := [] } := if_pos h

end

/-- Settles O52: each command by the field of the always-on side that it writes, or the word that the controller answers. -/
theorem trayRegisters : Obligations.TrayRegisters := by
  unfold Obligations.TrayRegisters
  refine ⟨fun value s => alertCauseWrite_clears, fun value s hpower => ends_side rfl (if_powered hpower _),
    fun a s hpower => ?address, fun s hpower => ends_side rfl (if_powered hpower _), fun offset data s => recoveryData_placed rfl,
    fun s => recoveryEnd_unawaited, fun s => recoveryEnd_awaited,
    fun s htransfer => ⟨ends_side rfl ?abort, ends_side rfl ?idle⟩, fun w s hinput => ?pmbus⟩
  case address => exact ends_sideOf rfl (if_powered hpower _) ⟨rfl, rfl⟩
  case abort => exact congrArg (fun x => { s.chip with side := x }) (Side.discard_of_transfer htransfer)
  case idle => exact congrArg (fun x => { s.chip with side := x }) (Side.discard_of_transfer htransfer)
  case pmbus =>
    have hspeaks : s.chip.pmbus w = s.chip.send (.pmbus (leBytes 2 w.toNat)) := if_pos hinput
    have hword := fun {i : Instr} (hexec : exec i s = .next (s.on fun c => c.pmbus w)) =>
      (⟨_, hexec, congrArg (fun c => { s with chip := c }) hspeaks⟩ :
        Ends i s fun t => t = s.on fun c => c.send (.pmbus (leBytes 2 w.toNat)))
    exact ⟨hword rfl, hword rfl, hword rfl, hword rfl, ⟨_, rfl, congrArg (fun c => { s with chip := c }) (if_neg (by simp [hinput]))⟩,
      ends_side rfl (if_pos hinput)⟩

end Sys2Proof.Machine
end

section
/-! PROOF. The power pins, the reset pin, READY and the tray's wait (R384, R413, R465, R467, R468, R472, R475). -/
namespace Sys2Proof.Machine

/-! ### Start-up from power (R465, R467) -/

/-- A chip that is held after step 2 where TRAY_RST_L is low, its boot counted. -/
def Chip.step2 (c : Chip) : Chip :=
  (c.countBoot.updSide (fun s => { s with power := true, lost := false, hold := if s.rstLow then 1 else 0 })).setReg Obj.STARTUP_STEP 2

theorem Chip.step2_spec (c : Chip) : c.step2.side = { c.side with power := true, lost := false, hold := if c.side.rstLow then 1 else 0 } ∧
    c.step2.reg Obj.STARTUP_STEP = 2 ∧ ∀ key, key ≠ Obj.STARTUP_STEP → key ≠ Obj.VCT_BOOT_COUNT → c.step2.reg key = c.reg key := by
  unfold Chip.step2
  refine ⟨rfl, by rw [Chip.reg_setReg_same]; rfl, fun key hstep hboot => ?_⟩
  rw [Chip.reg_setReg_other _ _ hstep, Chip.updSide_reg, Chip.countBoot, Chip.bump32, Chip.reg_setReg_other _ _ hboot]

/-- The chip after steps 1 and 2 of a start from power. -/
def Chip.strappedUp (c : Chip) (p : Straps) : Chip := (c.strapped p).identity.step2

/-- The blobs of the identity that stand in place of empty ones leave the rest. -/
theorem Chip.identity_spec (c : Chip) : c.identity.side = c.side ∧
    ∀ key, key ≠ Obj.DEVICE_SERIAL → key ≠ Obj.HW_STEPPING → c.identity.reg key = c.reg key := by
  unfold Chip.identity
  extract_lets ser priv c1 c2
  refine List.foldlRecOn (motive := fun d : Chip => d.side = c.side ∧
    ∀ key, key ≠ Obj.DEVICE_SERIAL → key ≠ Obj.HW_STEPPING → d.reg key = c.reg key) _ _ ⟨rfl, fun key hserial hstepping => ?_⟩ ?_
  · show ((((c.setReg Obj.DEVICE_SERIAL ser.toNat).setBlob modInst Obj.PART_NUMBER _).setReg Obj.HW_STEPPING _)).reg key = _
    rw [Chip.reg_setReg_other _ _ hstepping]
    exact Chip.reg_setReg_other _ _ hserial
  · intro d hd i _
    split
    · exact hd
    · exact hd

section
variable {c : Chip} {p : Straps}

theorem Chip.strappedUp_spec (c : Chip) (p : Straps) : (c.strappedUp p).side =
      { c.side with power := true, lost := false, hold := if c.side.rstLow then 1 else 0 } ∧
    (c.strappedUp p).reg Obj.STARTUP_STEP = 2 ∧ (c.strappedUp p).reg Obj.BOARD_ID = p.board.toNat ∧
    (c.strappedUp p).reg Obj.SLOT_ID = p.slot.val := by
  obtain ⟨hside, hreg⟩ := (c.strapped p).identity_spec
  obtain ⟨hside', hstep, hreg'⟩ := (c.strapped p).identity.step2_spec
  have hboard : p.board.toNat < 2 ^ 64 := p.board.isLt.trans_le (Nat.pow_le_pow_right (by decide) (by decide))
  have hslot : p.slot.val < 2 ^ 64 := p.slot.isLt.trans (by decide)
  refine ⟨?_, hstep, ?_, ?_⟩
  · refine hside'.trans ?_
    rw [hside]
    rfl
  all_goals
    rw [Chip.strappedUp, hreg' _ (by decide) (by decide), hreg _ (by decide) (by decide), Chip.strapped, Chip.reg_setReg_other _ _ (by decide),
      Chip.reg_setReg_other _ _ (by decide)]
  · rw [Chip.reg_setReg_other _ _ (by decide), Chip.reg_setReg_same, Nat.mod_eq_of_lt hboard]
  · rw [Chip.reg_setReg_same, Nat.mod_eq_of_lt hslot]

/-- A module without power that the tray powers starts, and is held after step 2 where TRAY_RST_L is low. -/
theorem Chip.powerBack_held (held : Bool) (hinput : c.side.input = true) (henable : c.side.enable = true) (hpower : c.side.power = false)
    (hlow : c.side.rstLow = true) : c.powerBack p held = (c.survivors false).strappedUp p := by
  have hside := (c.survivors_spec false).2.2.2
  have hrst : ((c.survivors false).strappedUp p).side.rstLow = true := by
    rw [((c.survivors false).strappedUp_spec p).1, hside]
    exact hlow
  rw [Chip.powerBack, hinput, henable, hpower, if_neg (by decide), if_neg (by simp), if_neg (by simp), Chip.powerUp]
  exact if_pos hrst

end

/-- The module as a start from power leaves it, where TRAY_RST_L is low. -/
theorem ends_poweredHeld {i : Instr} {s : State} {p : Straps} {held : Bool} {f : Side → Side} {P : State → Prop}
    (hexec : exec i s = .next (s.on fun c => (c.updSide f).powerBack p held)) (hinput : (f s.chip.side).input = true)
    (henable : (f s.chip.side).enable = true) (hpower : (f s.chip.side).power = false) (hlow : (f s.chip.side).rstLow = true)
    (hP : ∀ t : State, t.chip.side.power = true → t.chip.side.input = true → t.chip.side.enable = true → t.chip.side.hold = 1 →
      t.chip.reg Obj.STARTUP_STEP = 2 → t.chip.reg Obj.BOARD_ID = p.board.toNat → t.chip.reg Obj.SLOT_ID = p.slot.val → t.mem = s.mem → P t) :
    Ends i s P := by
  let c := s.chip.updSide f
  obtain ⟨hside, hstep, hboard, hslot⟩ := (c.survivors false).strappedUp_spec p
  have hsurvived := (c.survivors_spec false).2.2.2
  refine ends_on hexec (Chip.powerBack_held held hinput henable hpower hlow) fun t hchip hmem => ?_
  have htside : t.chip.side = { input := true, enable := true, rstLow := true, power := true, lost := false, hold := 1 } := by
    rw [hchip]
    refine hside.trans ?_
    rw [hsurvived]
    simp [show c.side.input = true from hinput, show c.side.enable = true from henable, show c.side.rstLow = true from hlow]
  refine hP t ?_ ?_ ?_ ?_ (by rw [hchip]; exact hstep) (by rw [hchip]; exact hboard) (by rw [hchip]; exact hslot) hmem
  all_goals rw [htside]

/-! ### The loss of the input (R384, R467) -/

/-- What survives of a chip whose domains are lost. -/
def Chip.domainsLost (c : Chip) : Chip := (c.updSide (fun s => { s with lost := true, hold := 0 })).setReg Obj.STARTUP_STEP 2

theorem Chip.domainsLost_step (c : Chip) : c.domainsLost.reg Obj.STARTUP_STEP = 2 := by
  rw [Chip.domainsLost, Chip.reg_setReg_same]
  rfl

theorem Chip.inputLost_spec {c : Chip} (hpower : c.side.power = true) (hlost : c.side.lost = false) : c.inputLost.side.lost = true ∧
    c.inputLost.sess = [] ∧ c.inputLost.links = [] ∧ c.inputLost.reg Obj.STARTUP_STEP = 2 := by
  obtain ⟨d, heq⟩ : ∃ d : Chip, c.inputLost = (d.survivors true).domainsLost := by
    rw [Chip.inputLost, hpower, hlost, if_neg (by decide)]
    exact ⟨_, rfl⟩
  obtain ⟨hsess, hlinks, -⟩ := d.survivors_spec true
  rw [heq]
  exact ⟨rfl, hsess, hlinks, Chip.domainsLost_step _⟩

theorem ends_inputLost {i : Instr} {s : State} {f : Side → Side} {P : State → Prop}
    (hexec : exec i s = .next (s.on fun c => c.inputLost.updSide f)) (hpower : s.chip.side.power = true) (hlost : s.chip.side.lost = false)
    (hP : ∀ t : State, t.chip.side = f s.chip.inputLost.side → s.chip.inputLost.side.lost = true → t.chip.sess = [] → t.chip.links = [] →
      t.chip.reg Obj.STARTUP_STEP = 2 → t.mem = s.mem → P t) : Ends i s P := by
  obtain ⟨hgone, hsess, hlinks, hstep⟩ := Chip.inputLost_spec hpower hlost
  exact ⟨_, hexec, hP _ rfl hgone hsess hlinks hstep rfl⟩

/-! ### The reset pin (R468) -/

theorem trayRstLAssert_holds {s : State} (hpower : s.chip.side.power = true) (hlost : s.chip.side.lost = false)
    (hcycle : s.chip.side.cycle = false) (hfirst : s.chip.inL5 = false) (hstarted : 6 ≤ s.chip.reg Obj.STARTUP_STEP) :
    Ends .trayRstLAssert s (fun t => t.chip.side.rstLow = true ∧ t.chip.side.hold = 2 ∧ t.chip.resetting 5 1 ∧ t.chip.sess = [] ∧
      t.chip.reg Obj.STARTUP_STEP = 2 ∧ t.mem = s.mem) := by
  let c := s.chip.updSide fun x => { x with rstLow := true }
  obtain ⟨hsess, hresets, hheld⟩ := Chip.enterL5_spec (c := c) 1 true hcycle hpower hfirst
  obtain ⟨hlow, hhold, hstep⟩ := hheld rfl
  refine ends_on rfl (c := c.enterL5 1 true) ?_ fun t hchip hmem => ?_
  · rw [Chip.resetPin, if_neg (by simp [Chip.updSide, hpower, hlost, hcycle]), if_neg, if_neg]
    · rw [Chip.updSide_reg]
      omega
    · rw [show (s.chip.updSide _).inL5 = s.chip.inL5 from rfl, hfirst]
      simp
  · rw [hchip]
    exact ⟨hlow, hhold, ⟨{ level := 5, cause := 1 }, by rw [hresets]; exact List.mem_singleton_self _, rfl, rfl⟩, hsess, hstep, hmem⟩

/-- The checks of a bank look at nothing that start-up writes before it. -/
theorem Chip.bankOk_of {c d : Chip} (hflash : d.flash = c.flash) (hreg : ∀ key, Obj.STARTUP_KIND < key → d.reg key = c.reg key) (b : Nat) :
    d.bankOk b = c.bankOk b := by
  have hwindow : ∀ m, d.window b m = c.window b m := fun m => by rw [Chip.window, hflash, Chip.window]
  have hbank : d.bank b = c.bank b := by rw [Chip.bank, show d.window b = c.window b from funext hwindow, Chip.bank]
  have hfactory : d.factoryBank b = c.factoryBank b := by rw [Chip.factoryBank, hflash, Chip.factoryBank]
  have hsigned : ∀ l, d.signedOk l = c.signedOk l := fun l => by
    simp only [Chip.signedOk]
    rw [hreg _ (by simp only [Obj.STARTUP_KIND, Obj.VENDOR_KEY_STATE]; omega)]
  simp only [Chip.bankOk, Chip.bundleOk]
  rw [hreg _ (by simp only [Obj.STARTUP_KIND, Obj.FW_BANK_STATE]; omega), hreg _ (by decide : Obj.STARTUP_KIND < Obj.ROLLBACK_COUNT),
    hfactory, hbank, hsigned, hwindow]

/-- The chip as step 3 begins: nothing but the objects of start-up is written where no factory reset is armed. -/
def Chip.step3 (c : Chip) : Chip := (c.setReg Obj.STARTUP_STEP 3).setReg Obj.STARTUP_KIND 0

theorem Chip.step3_reg (c : Chip) {key : Nat} (hstep : key ≠ Obj.STARTUP_STEP) (hkind : key ≠ Obj.STARTUP_KIND) :
    c.step3.reg key = c.reg key := by
  rw [Chip.step3, Chip.reg_setReg_other _ _ hkind, Chip.reg_setReg_other _ _ hstep]

theorem Chip.boot_selected {c : Chip} {readable : Bool} (hsrc : c.reg Obj.BOOT_SRC < 2) (hunarmed : c.reg Obj.CFG_FACTORY_ARMED = 0)
    (hbank : c.bankOk (c.reg Obj.FW_BANK_SELECT) = true) :
    c.boot false readable = c.step3.runBundle (c.step3.bank (c.reg Obj.FW_BANK_SELECT)) (c.reg Obj.FW_BANK_SELECT) false false readable := by
  have hfactory : (c.setReg Obj.STARTUP_STEP 3).factoryReset = c.setReg Obj.STARTUP_STEP 3 := by
    rw [Chip.factoryReset, Chip.reg_setReg_other _ _ (by decide), if_pos hunarmed]
  have hselect : c.step3.reg Obj.FW_BANK_SELECT = c.reg Obj.FW_BANK_SELECT := c.step3_reg (by decide) (by decide)
  have hok : c.step3.bankOk (c.reg Obj.FW_BANK_SELECT) = true := by
    rw [Chip.bankOk_of (c := c) (d := c.step3) rfl fun key hkey => c.step3_reg (fun h => by subst h; exact absurd hkey (by decide)) hkey.ne']
    exact hbank
  rw [Chip.boot, if_neg (by omega), hfactory, hunarmed]
  dsimp only
  rw [Bool.false_and, Bool.false_and, if_neg Bool.false_ne_true]
  rw [show (c.setReg Obj.STARTUP_STEP 3).setReg Obj.STARTUP_KIND (if false = true then 1 else 0) = c.step3 from rfl, hselect, hok, Bool.and_true, if_pos (by simp; omega)]
  rfl

theorem trayRstLRelease_boots {readable : Bool} {s : State} (hhold : s.chip.side.hold = 1) (hsrc : s.chip.reg Obj.BOOT_SRC < 2)
    (hunarmed : s.chip.reg Obj.CFG_FACTORY_ARMED = 0) (hbank : s.chip.bankOk (s.chip.reg Obj.FW_BANK_SELECT) = true) :
    Ends (.trayRstLRelease readable) s (fun t => t.chip.side.rstLow = false ∧ t.chip.side.hold = 0 ∧ t.chip.reg Obj.STARTUP_STEP = 6 ∧
      t.chip.reg Obj.FW_BANK_RUNNING = s.chip.reg Obj.FW_BANK_SELECT ∧ t.mem = s.mem) := by
  let c := s.chip.updSide fun x => { x with rstLow := false, hold := 0 }
  let sel := s.chip.reg Obj.FW_BANK_SELECT
  have hboot : c.boot false readable = c.step3.runBundle (c.step3.bank sel) sel false false readable :=
    Chip.boot_selected (c := c) hsrc hunarmed ((Chip.bankOk_of rfl (fun _ _ => rfl) _).trans hbank)
  have hrun := c.step3.runBundle_recorded (c.step3.bank sel) sel false false readable
  obtain ⟨hstep, hrunning⟩ := c.step3.takingOver_reg (c.step3.bank sel) (bank := sel) (s.chip.get_lt modInst _)
  have hside := hrun.side.trans (c.step3.takingOver_side (c.step3.bank sel) sel)
  refine ends_on rfl (c := c.step3.runBundle (c.step3.bank sel) sel false false readable) ?_ fun t hchip hmem => ?_
  · rw [hhold, if_neg (by decide)]
    exact hboot
  · rw [hchip, hside, hrun.reg _ (by decide), hrun.reg _ (by decide)]
    exact ⟨rfl, rfl, hstep, hrunning, hmem⟩

/-- READY ends start-up, with its time and the tray's alert. -/
theorem Chip.ready_spec (c : Chip) (up : BringUp) : (c.ready up).reg Obj.STARTUP_STEP = 9 ∧ (c.ready up).reg Obj.STARTUP_TIME = up.ms.toNat ∧
    bitAt (c.ready up).side.cause alertReady = true := by
  have hms : up.ms.toNat < 2 ^ 64 := up.ms.isLt.trans (by decide)
  obtain ⟨d, heq⟩ : ∃ d : Chip, c.ready up = ((d.setReg Obj.STARTUP_STEP 9).setReg Obj.STARTUP_TIME up.ms.toNat).alert alertReady := ⟨_, rfl⟩
  rw [heq]
  refine ⟨?_, ?_, bitAt_putBit_same ..⟩
  · rw [Chip.alert, Chip.updSide_reg, Chip.reg_setReg_other _ _ (by decide), Chip.reg_setReg_same]
    rfl
  · rw [Chip.alert, Chip.updSide_reg, Chip.reg_setReg_same, Nat.mod_eq_of_lt hms]

/-- Settles O51: each pin by what start-up, a loss of the domains or L5 leaves. -/
theorem powerPins : Obligations.PowerPins := by
  unfold Obligations.PowerPins
  refine ⟨fun p held s hinput hpower hlow => ends_poweredHeld rfl hinput rfl hpower hlow
      fun t hp _ he hh hs hb hsl hm => ⟨hp, he, hh, hs, hb, hsl, hm⟩,
    fun p held s henable hpower hlow => ends_poweredHeld rfl rfl henable hpower hlow
      fun t hp hi _ hh hs hb _ hm => ⟨hp, hi, hh, hs, hb, hm⟩,
    fun s hpower hlost => ⟨ends_inputLost rfl hpower hlost ?deasserted, ends_inputLost rfl hpower hlost ?lost⟩,
    fun s => trayRstLAssert_holds, fun s hpower => ⟨_, rfl, congrArg (fun c => { s with chip := c }) ?unpowered⟩,
    fun readable s hhold => ⟨_, rfl, congrArg (fun c => { s with chip := c }) (if_pos hhold)⟩,
    fun readable s hhold hsrc => ?bootHold, fun readable s => trayRstLRelease_boots, fun up s hstep hpower hlost hcycle => ?ready,
    fun s hcycle henable hlost => ?repeated⟩
  case deasserted => exact fun t hside hgone hsess hlinks hstep hmem => ⟨by rw [hside]; exact hgone, by rw [hside], hsess, hlinks, hstep, hmem⟩
  case lost => exact fun t hside hgone hsess hlinks hstep hmem => ⟨by rw [hside]; exact hgone, by rw [hside], hsess, hlinks, hstep, hmem⟩
  case unpowered => exact if_pos (by simp [Chip.updSide, hpower])
  case bootHold =>
    refine ends_on rfl ((if_neg hhold).trans (if_pos hsrc)) fun t hchip hmem => ?_
    rw [hchip]
    exact ⟨rfl, rfl, rfl, bitAt_putBit_same .., hmem⟩
  case ready =>
    obtain ⟨hstep', htime, halert⟩ := (s.withMem {}).chip.ready_spec up
    exact ⟨_, congrArg Host.Outcome.next (if_pos (by simp [hstep, hpower, hlost, hcycle])), hstep', htime, halert, rfl⟩
  case repeated =>
    refine ends_on rfl (if_pos (by simp [hcycle, henable, hlost])) fun t hchip hmem => ?_
    rw [hchip]
    exact ⟨bitAt_putBit_same .., by rw [Chip.reg_bump, if_pos rfl]; rfl, hmem⟩

end Sys2Proof.Machine
end

section
/-! PROOF. A domain that faults stays in FAULT (R381, R383, Table 16.2): what the losses that follow a fault leave as it was. -/
namespace Sys2Proof.Machine

/-- From `b` to `c` the always-on side is the same, and domain `d` is in FAULT if it was. -/
structure Chip.FaultStands (d : Nat) (b c : Chip) : Prop where
  side : c.side = b.side
  fault : b.reg (Obj.DOMAIN_STATE + d) = 3 → c.reg (Obj.DOMAIN_STATE + d) = 3

namespace Chip.FaultStands

variable {d : Nat} {a b c : Chip}

theorem of_reg (hside : c.side = b.side) (hreg : c.reg (Obj.DOMAIN_STATE + d) = b.reg (Obj.DOMAIN_STATE + d)) : FaultStands d b c :=
  ⟨hside, hreg.trans⟩

theorem refl (c : Chip) : FaultStands d c c := of_reg rfl rfl

theorem trans (h : FaultStands d a b) (h' : FaultStands d b c) : FaultStands d a c :=
  ⟨h'.side.trans h.side, fun hfault => h'.fault (h.fault hfault)⟩

theorem ite {p : Prop} [Decidable p] (hb : FaultStands d a b) (hc : FaultStands d a c) : FaultStands d a (if p then b else c) := by
  split <;> assumption

theorem foldl {α : Type} {f : Chip → α → Chip} {l : List α} (hf : ∀ c, ∀ x ∈ l, FaultStands d c (f c x)) (c : Chip) :
    FaultStands d c (l.foldl f c) :=
  List.foldlRecOn l f (refl c) fun e he x hx => he.trans (hf e x hx)

theorem updRidge (c : Chip) (n : Nat) (f : Ridge → Ridge) : FaultStands d c (c.updRidge n f) := of_reg rfl rfl

theorem updQueue (c : Chip) (n q : Nat) (f : Queue → Queue) : FaultStands d c (c.updQueue n q f) := of_reg rfl rfl

theorem updEngine (c : Chip) (k : Nat) (f : Engine → Engine) : FaultStands d c (c.updEngine k f) := of_reg rfl rfl

theorem updLane (c : Chip) (i : Nat) (f : Lane → Lane) : FaultStands d c (c.updLane i f) := of_reg rfl rfl

theorem extSet (c : Chip) (key v : Nat) : FaultStands d c (c.extSet key v) := of_reg rfl rfl

theorem setReg (c : Chip) {key : Nat} (v : Nat) (hkey : Obj.DOMAIN_STATE + d ≠ key) : FaultStands d c (c.setReg key v) :=
  of_reg rfl (Chip.reg_setReg_other c v hkey)

theorem countPart (c : Chip) (k : Nat) {key : Nat} (hkey : key < 2 ^ 24) (n : Nat) : FaultStands d c (c.countPart k key n) :=
  of_reg (by obtain ⟨_, h⟩ := c.countPart_shape k key n; rw [h]) (c.reg_countPart k hkey n _)

variable (hd : d < 30)
include hd

theorem of_laneWork (h : LaneWork b c) : FaultStands d b c :=
  of_reg (by obtain ⟨_, _, _, _, _, _, _, _, rfl⟩ := h.shape; rfl)
    (h.reg _ (by simp only [Obj.DOMAIN_STATE, Obj.CNT_CAIRN_LOST]; omega))

theorem raise (c : Chip) (ty part : Nat) (fs : List (Nat × Nat)) : FaultStands d c (c.raise ty part fs) := of_laneWork hd (.raise ..)

theorem raiseMod (c : Chip) (ty : Nat) (fs : List (Nat × Nat)) : FaultStands d c (c.raiseMod ty fs) := raise hd c ty 0xFF fs

/-! ### A Ridge that is retired (R20, R81) -/

omit hd in
theorem trace (c : Chip) (n q : Nat) (t : TraceRec) : FaultStands d c (c.trace n q t) := by
  unfold Chip.trace
  extract_lets k room push lost c1
  have hlost : FaultStands d c c1 := ite ((updRidge ..).trans (updRidge ..)) (refl c)
  exact ite (refl c) (ite (hlost.trans (updRidge ..)) (hlost.trans ((countPart _ _ (by decide) _).trans (updRidge ..))))

omit hd in
theorem abandonUnits (c : Chip) (n q : Nat) (mine : Nat → Bool) : FaultStands d c (c.abandonUnits n q mine) := by
  unfold Chip.abandonUnits
  extract_lets say r c1 c2 gone keep
  have hsay : ∀ (e : Chip) (bit unit count u : Nat), FaultStands d e (say e bit unit count u) := by
    intro e bit unit count u
    unfold say
    split
    · exact trace ..
    · exact refl e
  have hspurs : FaultStands d c c1 := foldl (fun e p _ => by
    split
    · exact ite (hsay ..) (refl e)
    · exact refl e) c
  have hengines : FaultStands d c1 c2 := foldl (fun e p _ => by
    split
    · exact ite (hsay ..) (refl e)
    · exact refl e) c1
  have hwaiters : FaultStands d c2 (c2.dropWaiters keep) := of_reg rfl rfl
  exact (hspurs.trans hengines).trans (hwaiters.trans (updRidge ..))

omit hd in
theorem spadClear (c : Chip) (n p : Nat) : FaultStands d c (c.spadClear n p) := of_reg rfl rfl

omit hd in
theorem zeroRidge (c : Chip) (n : Nat) : FaultStands d c (c.zeroRidge n) := by
  unfold Chip.zeroRidge
  exact (foldl (fun e p _ => spadClear e n p) c).trans (updRidge ..)

omit hd in
theorem gateRidge (c : Chip) (n : Nat) :
    FaultStands d c (c.setReg (Obj.DOMAIN_STATE + n) (if c.reg (Obj.DOMAIN_STATE + n) = 3 then 3 else 2)) := by
  refine ⟨rfl, fun hfault => ?_⟩
  by_cases hown : d = n
  · subst hown
    rw [Chip.reg_setReg_same, if_pos hfault]
    rfl
  · exact (Chip.reg_setReg_other c _ (by omega)).trans hfault

theorem retireRidge (c : Chip) (n : Nat) : FaultStands d c (c.retireRidge n) := by
  unfold Chip.retireRidge
  split
  · exact refl c
  extract_lets own c1 c2 c3 c4 c5 c6 c7 c8
  have hqueues : FaultStands d c c1 := foldl (fun e q _ => (abandonUnits ..).trans (updQueue ..)) c
  have hcleared : FaultStands d c c3 := hqueues.trans ((zeroRidge c1 n).trans (updRidge ..))
  have hgated : FaultStands d c3 c4 := gateRidge c3 n
  have hsaid : FaultStands d c4 c8 :=
    (((extSet c4 _ _).trans (extSet c5 _ _)).trans (extSet c6 _ _)).trans (raise hd c7 _ _ _)
  exact ite ((hcleared.trans hgated).trans (hsaid.trans (raise hd ..))) ((hcleared.trans hgated).trans hsaid)

/-! ### A unit out of service, an engine, a notch chiplet (R176, R277, R279) -/

theorem calReject (c : Chip) (g : Nat) : FaultStands d c (c.calReject g) := by
  unfold Chip.calReject
  split
  · exact refl c
  have hrow : ∀ (c : Chip) (v : Nat) {key : Nat}, 0xE00000 ≤ key ∨ 0xCE0000 ≤ key → FaultStands d c (c.setReg key v) := fun c v key hkey =>
    setReg c v (by simp only [Obj.DOMAIN_STATE]; omega)
  have hstate : FaultStands d c (c.setCal g calIdle {}) :=
    have hset := hrow c calIdle (key := Obj.CAL_STATE + g) (.inl (by simp only [Obj.CAL_STATE]; omega))
    ⟨hset.side, hset.fault⟩
  have htemp := hstate.trans (hrow _ (c.calRun g).temp.toNat (key := Obj.CAL_LAST_TEMP + g) (.inl (by simp only [Obj.CAL_LAST_TEMP]; omega)))
  have hresult := htemp.trans (hrow _ calRejected (key := Obj.CAL_LAST_RESULT + g) (.inl (by simp only [Obj.CAL_LAST_RESULT]; omega)))
  have hframe := hresult.trans (hrow _ c.frame (key := Obj.CAL_LAST_FRAME + g) (.inl (by simp only [Obj.CAL_LAST_FRAME]; omega)))
  exact hframe.trans (hrow _ _ (key := Obj.CNT_CAL_REJECTED + g) (.inr (by simp only [Obj.CNT_CAL_REJECTED]; omega)))

theorem outOfService (c : Chip) (u : Nat) : FaultStands d c (c.outOfService u) := by
  unfold Chip.outOfService
  split
  · exact refl c
  extract_lets c1 c2 c3
  have hstate : FaultStands d c c1 := setReg c 2 (by
    simp only [unitStateKey, Obj.DOMAIN_STATE, Obj.NEAR_STATE, Obj.FAR_STATE]
    split <;> omega)
  exact hstate.trans ((extSet c1 _ _).trans ((calReject hd c2 _).trans (raise hd c3 _ _ _)))

theorem cancelSwaps (c : Chip) (o : Nat) : FaultStands d c (c.cancelSwaps o) := by
  unfold Chip.cancelSwaps
  extract_lets ws c1 c2
  have hspares : FaultStands d c c1 := foldl (fun e w _ => setReg e _
    (by simp only [spareKey, atIdx, Obj.DOMAIN_STATE, Obj.SPARE_STATE]; omega)) c
  have hlanes : FaultStands d c1 c2 := foldl (fun e w _ => foldl (fun e i _ => updLane e i _) e) c1
  exact hspares.trans (hlanes.trans (of_reg rfl rfl))

theorem moveCol (c : Chip) (n target : Nat) : FaultStands d c (c.moveCol n target) := by
  rcases c.moveCol_cases n target with hstays | hmoves
  · rw [hstays]
    exact refl c
  · have hbegun := setReg (d := d) c (key := Obj.COL_STATE + n) 3 (by simp only [Obj.DOMAIN_STATE, Obj.COL_STATE]; omega)
    exact (⟨hbegun.side, hbegun.fault⟩ : FaultStands d c (c.colMoving n target)).trans (of_laneWork hd hmoves.work)

theorem moveEngineCols (c : Chip) (k : Nat) :
    FaultStands d c ([2 * k, 2 * k + 1].foldl (fun c n => c.moveCol n (c.colWanted n)) c) := foldl (fun e n _ => moveCol hd e n _) c

omit hd in
theorem gateEngine (c : Chip) (k : Nat) : FaultStands d c (c.gateEngine k) := by
  unfold Chip.gateEngine
  split
  · exact refl c
  next hrunning =>
    refine ⟨rfl, fun hfault => (Chip.reg_setReg_other c 2 fun hsame => hrunning ?_).trans hfault⟩
    rw [← hsame]
    exact hfault

theorem loseEngine (c : Chip) (k : Nat) : FaultStands d c (c.loseEngine k) := by
  unfold Chip.loseEngine
  extract_lets c1 c2 c3
  have hlanes : FaultStands d c1 c2 := foldl (fun e i _ => of_laneWork hd (.failLane e i)) c1
  exact (extSet c _ _).trans (hlanes.trans ((moveEngineCols hd c2 k).trans (raiseMod hd c3 _ _)))

theorem fallback (c : Chip) (k : Nat) : FaultStands d c (c.fallback k) := by
  unfold Chip.fallback
  extract_lets c1 c2 c3 c4 c5
  have hlanes : FaultStands d c c1 := foldl (fun e i _ => by
    extract_lets st
    refine ite (refl e) ?_
    split
    · exact of_reg rfl rfl
    · exact (of_laneWork hd (.takeLane e i _ _ _)).trans (of_reg rfl rfl)) c
  have hruns : FaultStands d c1 c3 := (cancelSwaps hd c1 k).trans ((calReject hd c2 _).trans (calReject hd _ _))
  have hnotch : FaultStands d c3 c4 := setReg c3 1 (by
    simp only [notchOf, Obj.DOMAIN_STATE, Obj.NOTCH_STATE]
    omega)
  exact (hlanes.trans hruns).trans (hnotch.trans ((updEngine c4 _ _).trans (moveEngineCols hd c5 k)))

theorem declareFailed (c : Chip) (k : Nat) : FaultStands d c (c.declareFailed k) := by
  unfold Chip.declareFailed
  extract_lets c1 c2 c3 c4
  have hgated : FaultStands d c c4 :=
    ((setReg c _ (by simp only [Obj.DOMAIN_STATE, Obj.ENGINE_FAIL_RECORD]; omega)).trans (raiseMod hd c1 _ _)).trans
      ((updEngine c2 _ _).trans (gateEngine c3 k))
  exact ite (refl c) (ite (hgated.trans (fallback hd c4 k)) (hgated.trans ((cancelSwaps hd c4 k).trans (loseEngine hd _ k))))

theorem notchFails (c : Chip) {n : Nat} (hn : n < 2) : FaultStands d c (c.notchFails n) := by
  unfold Chip.notchFails
  extract_lets st k c1
  have hfailed : FaultStands d c c1 := setReg c 3 (by simp only [Obj.DOMAIN_STATE, Obj.NOTCH_STATE]; omega)
  refine ite (refl c) ?_
  cases k with
  | some j =>
    have hlost := (raiseMod hd c1 0x080C []).trans ((cancelSwaps hd _ (8 + n)).trans (loseEngine hd _ j))
    exact ite hfailed (hfailed.trans (hlost.trans (setReg _ _ (by simp only [Obj.DOMAIN_STATE, Obj.NOTCH_TARGET]; omega))))
  | none => exact hfailed

theorem dieFault (c : Chip) {n : Nat} (hn : n < 2) : FaultStands d c (c.dieFault n) := by
  unfold Chip.dieFault
  extract_lets c1 c2
  have hridges : FaultStands d c c1 := foldl (fun e i _ => (retireRidge hd e _).trans (outOfService hd _ _)) c
  exact hridges.trans ((notchFails hd c1 hn).trans (foldl (fun e k _ => declareFailed hd e k) c2))

end Chip.FaultStands
end Sys2Proof.Machine
end

section
/-! PROOF. Droop, sags, ramps, faults and the power limit (R382–R394). -/
namespace Sys2Proof.Machine

/-! ### A sag and its stretch (R393, R394) -/

theorem droopSag_ends {ridge : Fin 16} {s : State} (hruns : s.chip.retired ridge.val = false) :
    Ends (.droopSag ridge) s (fun t => (t.chip.ridge ridge.val).stretching = true ∧ (t.chip.ridge ridge.val).inStretch = true ∧
      t.chip.reg (Obj.CNT_STRETCH + ridge.val) = (s.chip.reg (Obj.CNT_STRETCH + ridge.val) + 1) % 2 ^ 64 ∧ t.mem = s.mem) := by
  refine ends_on rfl (if_neg (by rw [hruns]; decide)) fun t hchip hmem => ?_
  rw [hchip]
  have hridge := Chip.ridge_updRidge_same s.chip ridge.val (fun r => { r with stretching := true, inStretch := true })
  refine ⟨congrArg Ridge.stretching hridge, congrArg Ridge.inStretch hridge, ?_, hmem⟩
  exact Chip.reg_setReg_same ..

theorem stretchEnd_ends {ridge : Fin 16} {halved : W32} {s : State} (hin : (s.chip.ridge ridge.val).inStretch = true) :
    Ends (.stretchEnd ridge halved) s (fun t => (t.chip.ridge ridge.val).inStretch = false ∧
      t.chip.reg (Obj.CNT_STRETCH_CYCLES + ridge.val) = (s.chip.reg (Obj.CNT_STRETCH_CYCLES + ridge.val) + halved.toNat) % 2 ^ 64 ∧
      t.mem = s.mem) := by
  refine ends_on rfl (if_pos hin) fun t hchip hmem => ?_
  rw [hchip]
  have hridge := Chip.ridge_updRidge_same s.chip ridge.val (fun r => { r with inStretch := false, lost := r.lost + halved.toNat })
  exact ⟨congrArg Ridge.inStretch hridge, Chip.reg_setReg_same .., hmem⟩

/-- The first sag of a domain in a frame is noted and reported (R394). -/
theorem domainSag_ends {domain : Fin 30} {s : State} (hfixed : 16 ≤ domain.val) (hruns : s.chip.reg (Obj.DOMAIN_STATE + domain.val) ≠ 3) :
    Ends (.domainSag domain) s (fun t =>
      t.chip.reg (Obj.CNT_DOMAIN_SAG + domain.val) = (s.chip.reg (Obj.CNT_DOMAIN_SAG + domain.val) + 1) % 2 ^ 64 ∧
      domain.val ∈ t.chip.sagSaid ∧ (domain.val ∉ s.chip.sagSaid → t.chip.said 0x0306 0xFF []) ∧
      (domain.val ∈ s.chip.sagSaid → t.chip.streams = s.chip.streams) ∧ t.mem = s.mem) := by
  have hcounts : (s.chip.count modInst (Obj.CNT_DOMAIN_SAG + domain.val) 1).reg (Obj.CNT_DOMAIN_SAG + domain.val) =
      (s.chip.reg (Obj.CNT_DOMAIN_SAG + domain.val) + 1) % 2 ^ 64 := Chip.reg_setReg_same ..
  refine ends_on rfl (if_neg (by simp [hruns]; omega)) fun t hchip hmem => ?_
  rw [hchip]
  dsimp only
  split
  next hsaid =>
    have hmem' : domain.val ∈ s.chip.sagSaid := by simpa using hsaid
    exact ⟨hcounts, hmem', fun h => absurd hmem' h, fun _ => rfl, hmem⟩
  next hsilent =>
    have hnot : domain.val ∉ s.chip.sagSaid := fun h => hsilent (by simpa using h)
    refine ⟨?_, ?_, fun _ => Chip.raiseMod_said .., fun h => absurd h hnot, hmem⟩
    · refine (Chip.raise_reg_of_lt _ _ _ _ ?_).trans hcounts
      simp only [Obj.CNT_DOMAIN_SAG, Obj.CNT_CAIRN_LOST]
      omega
    · rw [Chip.raiseMod, Chip.raise_sagSaid]
      exact List.mem_append_right _ (List.mem_singleton_self _)

theorem dvfsRampDone_ends {ridge : Fin 16} {s : State} (hup : (s.chip.ridge ridge.val).point < (s.chip.ridge ridge.val).goal) :
    Ends (.dvfsRampDone ridge) s (fun t => (t.chip.ridge ridge.val).ramped = true ∧
      (t.chip.ridge ridge.val).point = (s.chip.ridge ridge.val).point ∧ t.chip.regs = s.chip.regs ∧ t.mem = s.mem) := by
  refine ends_on rfl rfl fun t hchip hmem => ?_
  have hridge := Chip.ridge_updRidge_same s.chip ridge.val (fun r => { r with ramped := decide (r.point < r.goal) })
  rw [hchip]
  exact ⟨(congrArg Ridge.ramped hridge).trans (decide_eq_true hup), (congrArg Ridge.point hridge).trans rfl, rfl, hmem⟩

/-! ### A domain that faults (R383), a thermal trip (R391) -/

/-- FAULT with its event and its alert, before what Table 16.2 loses with the domain. -/
def Chip.faulted (c : Chip) (d : Nat) : Chip := ((c.setReg (Obj.DOMAIN_STATE + d) 3).raiseMod 0x0305 []).alert alertDomain

/-- What a domain takes with it (Table 16.2). -/
def Chip.faultLoss (c : Chip) (d : Nat) : Chip :=
  if d < 16 then c.retireRidge d
  else if d < 18 then c.dieFault (d - 16)
  else if d < 20 then c.enterL6 9 (d = 19)
  else if d < 22 then (List.range 8).foldl (fun c i =>
    let u := 16 + 8 * (d - 20) + i
    if c.unitState u < 2 then c.outOfService u else c) c
  else c.declareFailed (d - 22)

theorem Chip.faulted_spec (c : Chip) {d : Nat} (hd : d < 30) : (c.faulted d).reg (Obj.DOMAIN_STATE + d) = 3 ∧
    (c.faulted d).side = { c.side with cause := putBit c.side.cause alertDomain true } := by
  constructor
  · rw [Chip.faulted, Chip.alert, Chip.updSide_reg, Chip.raiseMod,
      Chip.raise_reg_of_lt _ _ _ _ (by simp only [Obj.DOMAIN_STATE, Obj.CNT_CAIRN_LOST]; omega), Chip.reg_setReg_same]
    rfl
  · simp only [Chip.faulted, Chip.alert, Chip.updSide, Chip.raiseMod, Chip.raise_side]
    rfl

/-- No loss but that of the power domains changes the always-on side. -/
theorem Chip.FaultStands.faultLoss (c : Chip) {d : Nat} (hd : d < 30) (hpower : ¬ (18 ≤ d ∧ d < 20)) : FaultStands d c (c.faultLoss d) := by
  unfold Chip.faultLoss
  split
  · exact retireRidge hd c d
  split
  · exact dieFault hd c (by omega)
  split
  · omega
  split
  · exact foldl (fun e i _ => ite (outOfService hd e _) (refl e)) c
  · exact declareFailed hd c _

/-- The loss of a power domain is a power-cycle request, unless one stands or power is already going. -/
theorem Chip.faultLoss_power {c : Chip} {d : Nat} (hd : 18 ≤ d ∧ d < 20) (hfault : c.reg (Obj.DOMAIN_STATE + d) = 3)
    (hpower : c.side.power = true) : (c.faultLoss d).reg (Obj.DOMAIN_STATE + d) = 3 ∧
    (∀ i, bitAt c.side.cause i = true → bitAt (c.faultLoss d).side.cause i = true) ∧
    (c.side.lost = false → (c.faultLoss d).side.cycle = true) := by
  have hloss : c.faultLoss d = c.enterL6 9 (d = 19) := by
    rw [Chip.faultLoss, if_neg (by omega), if_neg (by omega), if_pos hd.2]
  rw [hloss]
  by_cases hgone : c.side.cycle = true ∨ c.side.lost = true
  · rw [show c.enterL6 9 (d = 19) = c from if_pos (by simpa [hpower] using hgone)]
    exact ⟨hfault, fun _ h => h, fun hlost => hgone.resolve_right (by rw [hlost]; decide)⟩
  · obtain ⟨hcycle, hlost⟩ := not_or.mp hgone
    obtain ⟨-, ⟨alerts, hside, -, hkept⟩, hdomains⟩ :=
      c.enterL6_spec 9 (d = 19) (Bool.eq_false_iff.mpr hcycle) hpower (Bool.eq_false_iff.mpr hlost)
    rw [hside]
    exact ⟨hdomains d (by omega) hfault, hkept, fun _ => rfl⟩

theorem domainFault_ends {domain : Fin 30} {s : State} (hruns : s.chip.reg (Obj.DOMAIN_STATE + domain.val) ≠ 3)
    (hpower : s.chip.side.power = true) :
    Ends (.domainFault domain) s (fun t => t.chip.reg (Obj.DOMAIN_STATE + domain.val) = 3 ∧
      bitAt t.chip.side.cause alertDomain = true ∧ t.mem = s.mem ∧
      (18 ≤ domain.val → domain.val < 20 → s.chip.side.lost = false → t.chip.side.cycle = true)) := by
  obtain ⟨hfault, hside⟩ := s.chip.faulted_spec domain.isLt
  have hcause : bitAt (s.chip.faulted domain.val).side.cause alertDomain = true := by
    rw [hside]
    exact bitAt_putBit_same ..
  refine ends_on (c := (s.chip.faulted domain.val).faultLoss domain.val) rfl (if_neg (by simp [hruns, hpower])) fun t hchip hmem => ?_
  rw [hchip]
  by_cases hd : 18 ≤ domain.val ∧ domain.val < 20
  · obtain ⟨hstays, hkept, hcycle⟩ := Chip.faultLoss_power hd hfault (by rw [hside]; exact hpower)
    exact ⟨hstays, hkept _ hcause, hmem, fun _ _ hlost => hcycle (by rw [hside]; exact hlost)⟩
  · have hstands := Chip.FaultStands.faultLoss (s.chip.faulted domain.val) domain.isLt hd
    exact ⟨hstands.fault hfault, by rw [hstands.side]; exact hcause, hmem, fun hlow hhigh => absurd ⟨hlow, hhigh⟩ hd⟩

theorem thermalTrip_ends {s : State} (hpower : s.chip.side.power = true) (hcycle : s.chip.side.cycle = false)
    (hlost : s.chip.side.lost = false) : Ends .thermalTrip s (fun t => t.chip.side.trip = true ∧ t.chip.side.cycle = true ∧
      t.chip.sess = [] ∧ bitAt t.chip.side.cause alertTrip = true ∧ t.mem = s.mem) := by
  have hsaid : Chip.Recorded s.chip ((s.chip.raiseMod 0x0304 []).stub stubTrip 0) :=
    (Chip.Recorded.raiseMod (.refl _) ..).stub ..
  obtain ⟨c, hc⟩ : ∃ c, c = (((s.chip.raiseMod 0x0304 []).stub stubTrip 0).updSide (fun x => { x with trip := true })).alert alertTrip :=
    ⟨_, rfl⟩
  have hside : c.side = { s.chip.side with trip := true, cause := putBit s.chip.side.cause alertTrip true } := by
    simp only [hc, Chip.alert, Chip.updSide, hsaid.side]
  obtain ⟨hsess, ⟨alerts, hdown, -, hkept⟩, -⟩ :=
    c.enterL6_spec 10 true (by rw [hside]; exact hcycle) (by rw [hside]; exact hpower) (by rw [hside]; exact hlost)
  refine ends_on (c := c.enterL6 10 true) rfl ?_ fun t hchip hmem => ?_
  · rw [hc]
    exact if_neg (by simp [hcycle, hpower, hlost])
  · rw [hchip, hdown, hside]
    refine ⟨rfl, rfl, hsess, hkept _ ?_, hmem⟩
    rw [hside]
    exact bitAt_putBit_same ..

/-! ### The input limit (R387) -/

section
variable {r : Req} {watts : W32} {s : State} {inst : Nat} (hadmits : s.admits r Obj.POWER_LIMIT (wr 4 watts.toNat) inst = true)
include hadmits

theorem powerLimitWrite_taken (hroom : 1200 + s.chip.shares ≤ watts.toNat) (hlease : s.chip.reg Obj.LEASE_HOLDER ≠ 0) :
    Ends (.powerLimitWrite r watts) s (fun t => t.chip.reg Obj.POWER_LIMIT = watts.toNat ∧
      t.chip.reg Obj.COMPUTE_BUDGET = watts.toNat - 1200 ∧ t.answers r Obj.POWER_LIMIT rcOK ∧ t.mem = s.mem) := by
  have hwatts := watts.isLt
  have hv : leNat (wr 4 watts.toNat) = watts.toNat := leNat_wr hwatts
  refine rowWriteOn_ends rfl hadmits (inst := inst) (code := rcOK)
    (c := (s.chip.setReg Obj.POWER_LIMIT watts.toNat).setReg Obj.COMPUTE_BUDGET (watts.toNat - 1200)) ?_ fun t ht => ?_
  · simp only [hv]
    rw [if_neg (by omega), if_neg hlease]
  · refine ⟨?_, ?_, ht.answers, ht.mem⟩
    · rw [ht.reg (by decide)]
      refine (Chip.reg_setReg_other _ _ (by decide)).trans ((Chip.reg_setReg_same ..).trans ?_)
      exact Nat.mod_eq_of_lt (by omega)
    · rw [ht.reg (by decide)]
      exact (Chip.reg_setReg_same ..).trans (Nat.mod_eq_of_lt (by omega))

theorem powerLimitWrite_short (hshort : watts.toNat < 1200 + s.chip.shares) :
    Ends (.powerLimitWrite r watts) s (fun t => t.chip.reg Obj.POWER_LIMIT = s.chip.reg Obj.POWER_LIMIT ∧
      t.answers r Obj.POWER_LIMIT rcRange) := by
  have hv : leNat (wr 4 watts.toNat) = watts.toNat := leNat_wr watts.isLt
  refine rowWriteOn_ends rfl hadmits (inst := inst) (code := rcRange) (c := s.chip) ?_ fun t ht => ⟨ht.reg (by decide), ht.answers⟩
  simp only [hv]
  rw [if_pos hshort]

end

/-! ### The MEMS drive supply (R272) -/

/-- A Col pair is in BYPASS or moves there. -/
def Chip.towardBypass (c : Chip) (n : Nat) : Prop :=
  c.reg (Obj.COL_STATE + n) = 0 ∨ c.reg (Obj.COL_STATE + n) = 3 ∧ Tbl.get c.colTarget 0 n = 0

theorem Chip.towardBypass_of_lanes {c d : Chip} {n : Nat} (hn : n < 16) (h : LanesTaken c d) (hc : c.towardBypass n) : d.towardBypass n := by
  have hreg := h.work.reg (Obj.COL_STATE + n) (by simp only [Obj.COL_STATE, Obj.CNT_CAIRN_LOST]; omega)
  unfold Chip.towardBypass
  rw [hreg, h.work.colTarget]
  exact hc

theorem Chip.towardBypass_moveColNow (c : Chip) {n : Nat} (hn : n < 16) : (c.moveColNow n 0).towardBypass n := by
  rcases c.moveColNow_cases n 0 with ⟨hstays, hthere⟩ | hmoves
  · rw [hstays]
    exact hthere
  · exact Chip.towardBypass_of_lanes hn hmoves (.inr ⟨Chip.reg_setReg_same .., Tbl.get_put_same ..⟩)

theorem Chip.towardBypass_kept {c : Chip} {n : Nat} (hn : n < 16) (m : Nat) (h : c.towardBypass n) : (c.moveColNow m 0).towardBypass n := by
  by_cases hsame : m = n
  · rw [hsame]
    exact c.towardBypass_moveColNow hn
  rcases c.moveColNow_cases m 0 with ⟨hstays, -⟩ | hmoves
  · rw [hstays]
    exact h
  · refine Chip.towardBypass_of_lanes hn hmoves ?_
    have hreg : (c.colMoving m 0).reg (Obj.COL_STATE + n) = c.reg (Obj.COL_STATE + n) := Chip.reg_setReg_other c 3 (by omega)
    unfold Chip.towardBypass
    rw [hreg, show Tbl.get (c.colMoving m 0).colTarget 0 n = Tbl.get c.colTarget 0 n from Tbl.get_put_other _ _ _ (by omega)]
    exact h

theorem memsDriveSupplyLost_ends (s : State) : Ends .memsDriveSupplyLost s (fun t =>
    (∀ n < 16, t.chip.reg (Obj.COL_STATE + n) = 0 ∨ (t.chip.reg (Obj.COL_STATE + n) = 3 ∧ Tbl.get t.chip.colTarget 0 n = 0)) ∧
    t.mem = s.mem) := by
  refine ends_on rfl rfl fun t hchip hmem => ⟨fun n hn => ?_, hmem⟩
  rw [hchip]
  exact foldl_of_mem (f := fun c m => Chip.moveColNow c m 0) (p := fun c => Chip.towardBypass c n) (fun c => c.towardBypass_moveColNow hn)
    (fun _ m h => Chip.towardBypass_kept hn m h) (List.mem_range.mpr hn) s.chip

/-- Settles O53. -/
theorem powerCommands : Obligations.PowerCommands := by
  unfold Obligations.PowerCommands
  refine ⟨fun ridge s => droopSag_ends, fun ridge halved s => stretchEnd_ends, fun domain s => domainSag_ends,
    fun ridge s => dvfsRampDone_ends, fun domain s => domainFault_ends, fun s => thermalTrip_ends, fun r watts s inst hadmits => ?_,
    memsDriveSupplyLost_ends⟩
  exact ⟨powerLimitWrite_taken hadmits, powerLimitWrite_short hadmits⟩

end Sys2Proof.Machine
end

section
/-! PROOF. Firmware banks and the rollback count (R448, R449). -/
namespace Sys2Proof.Machine

theorem leAt_lt (bs : List Byte) (o n : Nat) : leAt bs o n < 256 ^ n :=
  (leNat_lt _).trans_le (Nat.pow_le_pow_right (by decide) (List.length_take_le ..))

/-- A bank of the two takes its state, its security version and its version; FW_BANK_SELECT stands. -/
theorem Chip.setBank_spec (c : Chip) {b st svn ver : Nat} (hb : b < 2) (hst : st < 2 ^ 64) (hsvn : svn < 2 ^ 64) (hver : ver < 2 ^ 64) :
    (c.setBank b st svn ver).reg (Obj.FW_BANK_STATE + b) = st ∧ (c.setBank b st svn ver).reg (Obj.FW_BANK_SVN + b) = svn ∧
    (c.setBank b st svn ver).reg (Obj.FW_BANK_VERSION + b) = ver ∧
    (c.setBank b st svn ver).reg Obj.FW_BANK_SELECT = c.reg Obj.FW_BANK_SELECT := by
  unfold Chip.setBank
  refine ⟨?_, ?_, ?_, ?_⟩
  · rw [Chip.reg_setReg_other _ _ (by simp only [Obj.FW_BANK_STATE, Obj.FW_BANK_VERSION]; omega),
      Chip.reg_setReg_other _ _ (by simp only [Obj.FW_BANK_STATE, Obj.FW_BANK_SVN]; omega), Chip.reg_setReg_same, Nat.mod_eq_of_lt hst]
  · rw [Chip.reg_setReg_other _ _ (by simp only [Obj.FW_BANK_SVN, Obj.FW_BANK_VERSION]; omega), Chip.reg_setReg_same, Nat.mod_eq_of_lt hsvn]
  · rw [Chip.reg_setReg_same, Nat.mod_eq_of_lt hver]
  · rw [Chip.reg_setReg_other _ _ (by simp only [Obj.FW_BANK_SELECT, Obj.FW_BANK_VERSION]; omega),
      Chip.reg_setReg_other _ _ (by simp only [Obj.FW_BANK_SELECT, Obj.FW_BANK_SVN]; omega),
      Chip.reg_setReg_other _ _ (by simp only [Obj.FW_BANK_SELECT, Obj.FW_BANK_STATE]; omega)]

theorem Chip.spareBank_lt (c : Chip) : c.spareBank < 2 := by
  unfold Chip.spareBank
  split <;> omega

/-! ### FW_ACTIVATE (R448) -/

section
variable {r : Req} {s : State} {inst : Nat} (hadmits : s.admits r Obj.FW_ACTIVATE (wr 1 1) inst = true)
include hadmits

theorem fwActivate_taken (hidle : s.chip.reg (Obj.FW_BANK_STATE + s.chip.spareBank) ≠ bankVerifying) :
    Ends (.fwActivate r) s (fun t => t.chip.reg (Obj.FW_BANK_STATE + s.chip.spareBank) = bankVerifying ∧
      t.chip.reg (Obj.FW_BANK_SVN + s.chip.spareBank) = 0 ∧ t.chip.reg (Obj.FW_BANK_VERSION + s.chip.spareBank) = 0 ∧
      t.chip.flash = s.chip.flash ∧ t.answers r Obj.FW_ACTIVATE rcOK ∧ t.mem = s.mem) := by
  refine rowWriteOn_ends (c := s.chip.setBank s.chip.spareBank bankVerifying 0 0) (code := rcOK) rfl hadmits
    ((if_neg (by decide)).trans (if_neg hidle)) fun t ht => ?_
  have hreg : ∀ key, t.chip.reg key = (s.chip.setBank s.chip.spareBank bankVerifying 0 0).reg key := fun key => by
    rw [Chip.reg, Chip.get, ht.regs rfl]
    rfl
  obtain ⟨hst, hsvn, hver, -⟩ := s.chip.setBank_spec (st := bankVerifying) (svn := 0) (ver := 0) s.chip.spareBank_lt
    (by decide) (by decide) (by decide)
  refine ⟨(hreg _).trans hst, (hreg _).trans hsvn, (hreg _).trans hver, ?_, ht.answers, ht.mem⟩
  obtain ⟨_, _, hshape⟩ := ht.shape
  rw [hshape]
  rfl

theorem fwActivate_busy (hbusy : s.chip.reg (Obj.FW_BANK_STATE + s.chip.spareBank) = bankVerifying) :
    Ends (.fwActivate r) s (fun t => t.chip.reg (Obj.FW_BANK_STATE + s.chip.spareBank) = bankVerifying ∧
      t.answers r Obj.FW_ACTIVATE rcState ∧ t.mem = s.mem) := by
  have hspare := s.chip.spareBank_lt
  refine rowWriteOn_ends (c := s.chip) (code := rcState) rfl hadmits ((if_neg (by decide)).trans (if_pos hbusy)) fun t ht => ?_
  exact ⟨(ht.reg (by simp only [Obj.FW_BANK_STATE, Obj.CNT_DICT_REFUSED]; omega)).trans hbusy, ht.answers, ht.mem⟩

end

/-! ### FW_STAGE_RESULT (R448) -/

/-- The result of the bank that is verified. -/
def Chip.stageResult (c : Chip) (b : Nat) : Chip :=
  (if c.bankPasses b then (c.setBank b bankValid (byteAt (c.window b 0) 8) (leAt (c.window b 0) 0xC 4)).setReg Obj.FW_BANK_SELECT b
    else c.setBank b bankInvalid 0 0).raiseMod 0x0615 []

theorem fwStageResult_on {s : State} {b : Nat} (hb : b < 2) (hverifying : s.chip.reg (Obj.FW_BANK_STATE + b) = bankVerifying)
    (hfirst : b = 1 → s.chip.reg Obj.FW_BANK_STATE ≠ bankVerifying) {P : State → Prop}
    (hP : ∀ t, t.chip = s.chip.stageResult b → t.mem = s.mem → P t) : Ends .fwStageResult s P := by
  have hfind : (List.range 2).find? (fun b => s.chip.reg (Obj.FW_BANK_STATE + b) = bankVerifying) = some b := by
    rw [show List.range 2 = [0, 1] from rfl]
    interval_cases b
    · exact List.find?_cons_of_pos (by simpa using hverifying)
    · rw [List.find?_cons_of_neg (by simpa using hfirst rfl)]
      exact List.find?_cons_of_pos (by simpa using hverifying)
  refine ends_on rfl ?_ hP
  rw [hfind]
  rfl

section
variable {s : State} {b : Nat} (hb : b < 2) (hverifying : s.chip.reg (Obj.FW_BANK_STATE + b) = bankVerifying)
  (hfirst : b = 1 → s.chip.reg Obj.FW_BANK_STATE ≠ bankVerifying)
include hb hverifying hfirst

theorem fwStageResult_valid (hpass : s.chip.bankPasses b = true) : Ends .fwStageResult s (fun t =>
    t.chip.reg (Obj.FW_BANK_STATE + b) = bankValid ∧ t.chip.reg (Obj.FW_BANK_SVN + b) = byteAt (s.chip.window b 0) 8 ∧
    t.chip.reg (Obj.FW_BANK_VERSION + b) = leAt (s.chip.window b 0) 0xC 4 ∧ t.chip.reg Obj.FW_BANK_SELECT = b ∧
    t.chip.said 0x0615 0xFF [] ∧ t.mem = s.mem) := by
  refine fwStageResult_on hb hverifying hfirst fun t hchip hmem => ?_
  have hsvn : byteAt (s.chip.window b 0) 8 < 2 ^ 64 := (BitVec.isLt _).trans (by decide)
  have hver : leAt (s.chip.window b 0) 0xC 4 < 2 ^ 64 := (leAt_lt ..).trans (by decide)
  rw [hchip, Chip.stageResult, if_pos hpass]
  obtain ⟨hst, hsvn, hver, -⟩ := s.chip.setBank_spec (st := bankValid) hb (by decide) hsvn hver
  have hreg : ∀ key, key < Obj.CNT_CAIRN_LOST → key ≠ Obj.FW_BANK_SELECT → ∀ c : Chip,
      ((c.setReg Obj.FW_BANK_SELECT b).raiseMod 0x0615 []).reg key = c.reg key := fun key hkey hne c =>
    (Chip.raise_reg_of_lt _ _ _ _ hkey).trans (Chip.reg_setReg_other c b hne)
  refine ⟨?_, ?_, ?_, ?_, Chip.raiseMod_said .., hmem⟩
  · rw [hreg _ (by simp only [Obj.FW_BANK_STATE, Obj.CNT_CAIRN_LOST]; omega) (by simp only [Obj.FW_BANK_STATE, Obj.FW_BANK_SELECT]; omega), hst]
  · rw [hreg _ (by simp only [Obj.FW_BANK_SVN, Obj.CNT_CAIRN_LOST]; omega) (by simp only [Obj.FW_BANK_SVN, Obj.FW_BANK_SELECT]; omega), hsvn]
  · rw [hreg _ (by simp only [Obj.FW_BANK_VERSION, Obj.CNT_CAIRN_LOST]; omega) (by simp only [Obj.FW_BANK_VERSION, Obj.FW_BANK_SELECT]; omega), hver]
  · rw [Chip.raiseMod, Chip.raise_reg_of_lt _ _ _ _ (by decide), Chip.reg_setReg_same]
    omega

theorem fwStageResult_invalid (hfail : s.chip.bankPasses b = false) : Ends .fwStageResult s (fun t =>
    t.chip.reg (Obj.FW_BANK_STATE + b) = bankInvalid ∧ t.chip.reg Obj.FW_BANK_SELECT = s.chip.reg Obj.FW_BANK_SELECT ∧
    t.chip.said 0x0615 0xFF [] ∧ t.mem = s.mem) := by
  refine fwStageResult_on hb hverifying hfirst fun t hchip hmem => ?_
  obtain ⟨hst, -, -, hselect⟩ := s.chip.setBank_spec (st := bankInvalid) (svn := 0) (ver := 0) hb (by decide) (by decide) (by decide)
  rw [hchip, Chip.stageResult, if_neg (by rw [hfail]; decide)]
  refine ⟨?_, ?_, Chip.raiseMod_said .., hmem⟩
  · rw [Chip.raiseMod, Chip.raise_reg_of_lt _ _ _ _ (by simp only [Obj.FW_BANK_STATE, Obj.CNT_CAIRN_LOST]; omega), hst]
  · rw [Chip.raiseMod, Chip.raise_reg_of_lt _ _ _ _ (by decide), hselect]

end

/-! ### ROLLBACK_COMMIT (R449) -/

/-- The count takes its value and the keys that the header flags are revoked. -/
def Chip.rollbackTo (c : Chip) (v : Nat) : Chip :=
  (List.range 2).foldl (fun d i => if bitAt (byteAt c.runningHeader 5) i then d.setReg (Obj.VENDOR_KEY_STATE + i) 2 else d)
    (c.setReg Obj.ROLLBACK_COUNT v)

theorem Chip.rollbackTo_spec (c : Chip) {v : Nat} (hv : v < 2 ^ 64) : (c.rollbackTo v).reg Obj.ROLLBACK_COUNT = v ∧
    ∀ i : Fin 2, (c.rollbackTo v).reg (Obj.VENDOR_KEY_STATE + i.val) =
      if bitAt (byteAt c.runningHeader 5) i.val then 2 else c.reg (Obj.VENDOR_KEY_STATE + i.val) := by
  have hcount : ∀ i < 2, Obj.ROLLBACK_COUNT ≠ Obj.VENDOR_KEY_STATE + i := fun i hi => by
    simp only [Obj.ROLLBACK_COUNT, Obj.VENDOR_KEY_STATE]
    omega
  have hkey : ∀ (d : Chip) (k : Nat), ((if bitAt (byteAt c.runningHeader 5) k then d.setReg (Obj.VENDOR_KEY_STATE + k) 2 else d) : Chip).reg
      (Obj.VENDOR_KEY_STATE + k) = if bitAt (byteAt c.runningHeader 5) k then 2 else d.reg (Obj.VENDOR_KEY_STATE + k) := fun d k => by
    split
    · exact Chip.reg_setReg_same ..
    · rfl
  have hother : ∀ (d : Chip) (k : Nat) {key : Nat}, key ≠ Obj.VENDOR_KEY_STATE + k →
      ((if bitAt (byteAt c.runningHeader 5) k then d.setReg (Obj.VENDOR_KEY_STATE + k) 2 else d) : Chip).reg key = d.reg key := by
    intro d k key hne
    split
    · exact Chip.reg_setReg_other d 2 hne
    · rfl
  have hset : ∀ i < 2, (c.setReg Obj.ROLLBACK_COUNT v).reg (Obj.VENDOR_KEY_STATE + i) = c.reg (Obj.VENDOR_KEY_STATE + i) := fun i hi =>
    Chip.reg_setReg_other c v (hcount i hi).symm
  rw [Chip.rollbackTo, show List.range 2 = [0, 1] from rfl, List.foldl_cons, List.foldl_cons, List.foldl_nil]
  refine ⟨?_, fun i => ?_⟩
  · rw [hother _ 1 (hcount 1 (by decide)), hother _ 0 (hcount 0 (by decide)), Chip.reg_setReg_same, Nat.mod_eq_of_lt hv]
  · match i with
    | 0 => exact (hother _ 1 (by decide)).trans ((hkey _ 0).trans (by rw [hset 0 (by decide)]; rfl))
    | 1 => exact (hkey _ 1).trans (by rw [hother _ 0 (by decide), hset 1 (by decide)]; rfl)

section
variable {r : Req} {count : Byte} {s : State} {inst : Nat} (hadmits : s.admits r Obj.ROLLBACK_COMMIT (wr 1 count.toNat) inst = true)
include hadmits

theorem rollbackCommit_taken (hlow : s.chip.reg Obj.ROLLBACK_COUNT < count.toNat) (hhigh : count.toNat ≤ byteAt s.chip.runningHeader 8)
    (hrun : s.chip.reg Obj.FW_BANK_RUNNING ≠ 2)
    (hvalid : s.chip.reg (Obj.FW_BANK_STATE + (1 - s.chip.reg Obj.FW_BANK_RUNNING)) = bankValid)
    (hsvn : count.toNat ≤ s.chip.reg (Obj.FW_BANK_SVN + (1 - s.chip.reg Obj.FW_BANK_RUNNING)))
    (hleft : ∃ i : Fin 2, bitAt (byteAt s.chip.runningHeader 5) i.val = false ∧ s.chip.reg (Obj.VENDOR_KEY_STATE + i.val) ≠ 2) :
    Ends (.rollbackCommit r count) s (fun t => t.chip.reg Obj.ROLLBACK_COUNT = count.toNat ∧
      (∀ i : Fin 2, t.chip.reg (Obj.VENDOR_KEY_STATE + i.val) =
        if bitAt (byteAt s.chip.runningHeader 5) i.val then 2 else s.chip.reg (Obj.VENDOR_KEY_STATE + i.val)) ∧
      t.chip.said 0x0611 0xFF [] ∧ t.answers r Obj.ROLLBACK_COMMIT rcOK ∧ t.mem = s.mem) := by
  have hcount : count.toNat < 2 ^ 64 := count.isLt.trans (by decide)
  have hv : leNat (wr 1 count.toNat) = count.toNat := leNat_wr count.isLt
  have hkeys : (List.range 2).all (fun i => bitAt (byteAt s.chip.runningHeader 5) i || s.chip.reg (Obj.VENDOR_KEY_STATE + i) = 2) = false := by
    obtain ⟨i, hflag, hstate⟩ := hleft
    exact List.all_eq_false.mpr ⟨i.val, List.mem_range.mpr i.isLt, by simp [hflag, hstate]⟩
  refine rowWriteOn_ends (c := (s.chip.rollbackTo count.toNat).raiseMod 0x0611 []) (code := rcOK) rfl hadmits ?_ fun t ht => ?_
  · simp only [hv, hkeys]
    rw [if_neg (by simp [hlow, hhigh]), if_neg (by simp [hrun, hvalid, hsvn]), if_neg (by decide)]
    rfl
  · obtain ⟨hset, hrevoked⟩ := s.chip.rollbackTo_spec hcount
    have hreg : ∀ key < Obj.CNT_DICT_REFUSED, t.chip.reg key = (s.chip.rollbackTo count.toNat).reg key := fun key hkey =>
      (ht.reg hkey).trans (Chip.raise_reg_of_lt _ _ _ _ (hkey.trans (by decide)))
    refine ⟨(hreg _ (by decide)).trans hset, fun i => ?_, Chip.said_of_streams ht.streams (Chip.raiseMod_said ..), ht.answers, ht.mem⟩
    exact (hreg _ (by simp only [Obj.VENDOR_KEY_STATE, Obj.CNT_DICT_REFUSED]; omega)).trans (hrevoked i)

theorem rollbackCommit_low (hlow : count.toNat ≤ s.chip.reg Obj.ROLLBACK_COUNT) : Ends (.rollbackCommit r count) s (fun t =>
    t.chip.reg Obj.ROLLBACK_COUNT = s.chip.reg Obj.ROLLBACK_COUNT ∧ t.answers r Obj.ROLLBACK_COMMIT rcRange ∧ t.mem = s.mem) := by
  have hv : leNat (wr 1 count.toNat) = count.toNat := leNat_wr count.isLt
  refine rowWriteOn_ends (c := s.chip) (code := rcRange) rfl hadmits ?_ fun t ht => ⟨ht.reg (by decide), ht.answers, ht.mem⟩
  simp only [hv]
  exact if_pos (by simp [hlow])

end

/-- Settles O49. -/
theorem firmwareBanks : Obligations.FirmwareBanks := by
  unfold Obligations.FirmwareBanks
  intro s c
  refine ⟨fun r inst hadmits => ⟨fwActivate_taken hadmits, fwActivate_busy hadmits⟩, ?_, ?_⟩
  · intro b hverifying hfirst h
    exact ⟨fwStageResult_valid b.isLt hverifying hfirst, fwStageResult_invalid b.isLt hverifying hfirst⟩
  · intro r count inst hadmits v h run
    exact ⟨rollbackCommit_taken hadmits, rollbackCommit_low hadmits⟩

end Sys2Proof.Machine
end

section
/-! PROOF. Operator keys, the attestation report and the factory reset (R366, R450, R453, R454). -/
namespace Sys2Proof.Machine

/-- An operator key's row stands before every counter. -/
theorem opkeyState_lt {i : Nat} (hi : i < 4) : Obj.OPKEY_STATE + i < Obj.CNT_DICT_REFUSED := by
  simp only [Obj.OPKEY_STATE, Obj.CNT_DICT_REFUSED]
  omega

/-! ### Operator keys (R453) -/

section
variable {r : Req} {value : List Byte} {s : State} {inst : Nat} (hadmits : s.admits r Obj.OPKEY_PROVISION value inst = true)
  (hslot : byteAt value 0 ≤ 3) (hstate : byteAt value 1 = 1 ∨ byteAt value 1 = 2) (hzero : allZero (slice value 2 6) = true)
include hadmits hslot hstate hzero

theorem opkeyProvision_taken (hempty : s.chip.reg (Obj.OPKEY_STATE + byteAt value 0) = 0) : Ends (.opkeyProvision r value) s (fun t =>
    t.chip.reg (Obj.OPKEY_STATE + byteAt value 0) = byteAt value 1 ∧
    t.chip.blob modInst (Obj.OPKEY_DIGEST + byteAt value 0) = slice value 8 64 ∧ t.chip.said 0x0613 0xFF [] ∧
    t.answers r Obj.OPKEY_PROVISION rcOK ∧ t.mem = s.mem) := by
  have hlt := opkeyState_lt (i := byteAt value 0) (by omega)
  refine rowWriteOn_ends (code := rcOK) rfl hadmits (c :=
    ((s.chip.setReg (Obj.OPKEY_STATE + byteAt value 0) (byteAt value 1)).setBlob modInst (Obj.OPKEY_DIGEST + byteAt value 0)
      (slice value 8 64)).raiseMod 0x0613 []) ?_ fun t ht => ?_
  · exact (if_neg (by rw [hzero]; simp; omega)).trans (if_neg (by simp [hempty]))
  · refine ⟨?_, ?_, Chip.said_of_streams ht.streams (Chip.raiseMod_said ..), ht.answers, ht.mem⟩
    · refine (ht.reg hlt).trans ((Chip.raise_reg_of_lt _ _ _ _ (hlt.trans (by decide))).trans ?_)
      exact (Chip.reg_setReg_same ..).trans (Nat.mod_eq_of_lt (by omega))
    · exact (Chip.blob_of_blobs ht.blobs ..).trans ((Chip.blob_of_blobs (Chip.raise_blobs ..) ..).trans (Chip.blob_setBlob_same ..))

theorem opkeyProvision_held (hheld : s.chip.reg (Obj.OPKEY_STATE + byteAt value 0) ≠ 0) : Ends (.opkeyProvision r value) s (fun t =>
    t.chip.reg (Obj.OPKEY_STATE + byteAt value 0) = s.chip.reg (Obj.OPKEY_STATE + byteAt value 0) ∧ t.chip.blobs = s.chip.blobs ∧
    t.answers r Obj.OPKEY_PROVISION rcState ∧ t.mem = s.mem) := by
  refine rowWriteOn_ends (c := s.chip) (code := rcState) rfl hadmits ?_ fun t ht =>
    ⟨ht.reg (opkeyState_lt (by omega)), ht.blobs, ht.answers, ht.mem⟩
  exact (if_neg (by rw [hzero]; simp; omega)).trans (if_pos (by simp [hheld]))

end

section
variable {r : Req} {slot : Fin 4} {se : Sess} {s : State} {inst : Nat} (hadmits : s.admits r Obj.OPKEY_REVOKE (wr 1 slot.val) inst = true)
  (hsess : Tbl.find s.chip.sess r.sess.val = some se)
include hadmits hsess

/-- A revocation within the four slots is judged by the session's own slot and by the AUTHORITY keys that are left. -/
theorem opkeyRevoke_on {c : Chip} {code : Nat} {P : State → Prop}
    (hc : (if decide (se.keySlot = slot.val) || !(List.range 4).any (fun j => j != slot.val && s.chip.reg (Obj.OPKEY_STATE + j) = 2)
      then (s.chip, rcState) else ((s.chip.setReg (Obj.OPKEY_STATE + slot.val) 3).raiseMod 0x0612 [], rcOK)) = (c, code))
    (hP : ∀ t, (s.on fun _ => c).AnsweredFrom t r Obj.OPKEY_REVOKE code → P t) : Ends (.opkeyRevoke r (BitVec.ofNat 8 slot.val)) s P := by
  have hvalue : (BitVec.ofNat 8 slot.val).toNat = slot.val := by
    rw [BitVec.toNat_ofNat]
    omega
  have hv : leNat (wr 1 slot.val) = slot.val := leNat_wr (by omega)
  have hexec : exec (.opkeyRevoke r (BitVec.ofNat 8 slot.val)) s =
      .next (s.rowWrite r Obj.OPKEY_REVOKE (wr 1 slot.val) (effRevoke r.sess.val)) := by
    change Host.Outcome.next (s.rowWrite r Obj.OPKEY_REVOKE (wr 1 (BitVec.ofNat 8 slot.val).toNat) (effRevoke r.sess.val)) = _
    rw [hvalue]
  refine rowWriteOn_ends hexec hadmits ?_ hP
  · simp only [hv, hsess]
    rw [if_neg (by omega)]
    exact hc

theorem opkeyRevoke_taken (hother : se.keySlot ≠ slot.val) (hauth : ∃ j : Fin 4, j ≠ slot ∧ s.chip.reg (Obj.OPKEY_STATE + j.val) = 2) :
    Ends (.opkeyRevoke r (BitVec.ofNat 8 slot.val)) s (fun t => t.chip.reg (Obj.OPKEY_STATE + slot.val) = 3 ∧
      t.chip.said 0x0612 0xFF [] ∧ t.answers r Obj.OPKEY_REVOKE rcOK ∧ t.mem = s.mem) := by
  have hlt := opkeyState_lt slot.isLt
  have hleft : (List.range 4).any (fun j => j != slot.val && s.chip.reg (Obj.OPKEY_STATE + j) = 2) = true := by
    obtain ⟨j, hne, hj⟩ := hauth
    exact List.any_eq_true.mpr ⟨j.val, List.mem_range.mpr j.isLt, by simp [hj, Fin.val_ne_of_ne hne]⟩
  refine opkeyRevoke_on hadmits hsess (if_neg (by simp [hleft, hother])) fun t ht =>
    ⟨?_, Chip.said_of_streams ht.streams (Chip.raiseMod_said ..), ht.answers, ht.mem⟩
  exact (ht.reg hlt).trans ((Chip.raise_reg_of_lt _ _ _ _ (hlt.trans (by decide))).trans (Chip.reg_setReg_same ..))

theorem opkeyRevoke_own (hown : se.keySlot = slot.val) : Ends (.opkeyRevoke r (BitVec.ofNat 8 slot.val)) s (fun t =>
    t.chip.reg (Obj.OPKEY_STATE + slot.val) = s.chip.reg (Obj.OPKEY_STATE + slot.val) ∧ t.answers r Obj.OPKEY_REVOKE rcState ∧
    t.mem = s.mem) :=
  opkeyRevoke_on hadmits hsess (if_pos (by simp [hown])) fun _ ht => ⟨ht.reg (opkeyState_lt slot.isLt), ht.answers, ht.mem⟩

end

/-! ### Attestation (R450, R454) -/

/-- The partition a session's report speaks of. -/
def Sess.reportOf (se : Sess) (k : Nat) : Nat := if se.cls = 1 then se.part else k

/-- A report and its signature. -/
def Chip.signedReport (c : Chip) (nonce : List Byte) (k : Nat) : List Byte :=
  c.attestBytes nonce k ++ fitTo 114 (Config.ed448Sign devicePrivate (ascii "ZELENO-ATTEST-1") (c.attestBytes nonce k))

theorem attestRequest_ends {r : Req} {value : List Byte} {se : Sess} {s : State} {inst : Nat}
    (hadmits : s.admits r Obj.ATTEST_REQUEST value inst = true) (hsess : Tbl.find s.chip.sess (inst - 16) = some se)
    (hpart : byteAt value 32 = 0xFF ∨ (if se.cls = 1 then byteAt value 32 = se.part else byteAt value 32 < 8))
    (hzero : allZero (value.drop 33) = true) : Ends (.attestRequest r value) s (fun t =>
      t.chip.blob inst Obj.ATTEST_REPORT = s.chip.signedReport (value.take 32) (se.reportOf (byteAt value 32)) ∧
      t.chip.reg Obj.CNT_ATTEST_REPORTS = (s.chip.reg Obj.CNT_ATTEST_REPORTS + 1) % 2 ^ 64 ∧
      t.answers r Obj.ATTEST_REQUEST rcOK ∧ t.mem = s.mem) := by
  have hasked : (byteAt value 32 = 0xFF || (if se.cls = 1 then byteAt value 32 = se.part else decide (byteAt value 32 < 8)) : Bool) = true := by
    by_cases hcls : se.cls = 1 <;> simpa [hcls] using hpart
  refine rowWriteOn_ends (code := rcOK) (c := (s.chip.setBlob inst Obj.ATTEST_REPORT
    (s.chip.signedReport (value.take 32) (se.reportOf (byteAt value 32)))).bump Obj.CNT_ATTEST_REPORTS) rfl hadmits ?_ fun t ht => ?_
  · simp only [hsess, hasked, hzero]
    rfl
  · refine ⟨(Chip.blob_of_blobs ht.blobs ..).trans (Chip.blob_setBlob_same ..), ?_, ht.answers, ht.mem⟩
    rw [Chip.reg, Chip.get, ht.regs rfl]
    exact Chip.reg_setReg_same ..

/-! ### The factory reset (R366) -/

section
variable {r : Req} {s : State} {inst : Nat}

theorem cfgFactoryArm_ends (hadmits : s.admits r Obj.CFG_FACTORY_RESET (wr 4 0x5A5A0001) inst = true) : Ends (.cfgFactoryArm r) s (fun t =>
    t.chip.reg Obj.CFG_FACTORY_ARMED = 1 ∧ t.answers r Obj.CFG_FACTORY_RESET rcOK ∧ t.mem = s.mem) :=
  rowWriteOn_ends (c := s.chip.setReg Obj.CFG_FACTORY_ARMED 1) (code := rcOK) rfl hadmits (if_pos (by decide)) fun _ ht =>
    ⟨(ht.reg (by decide)).trans (Chip.reg_setReg_same ..), ht.answers, ht.mem⟩

theorem cfgFactoryDisarm_ends (hadmits : s.admits r Obj.CFG_FACTORY_RESET (wr 4 0x5A5A0000) inst = true) :
    Ends (.cfgFactoryDisarm r) s (fun t =>
      t.chip.reg Obj.CFG_FACTORY_ARMED = 0 ∧ t.answers r Obj.CFG_FACTORY_RESET rcOK ∧ t.mem = s.mem) :=
  rowWriteOn_ends (c := s.chip.setReg Obj.CFG_FACTORY_ARMED 0) (code := rcOK) rfl hadmits
    ((if_neg (by decide)).trans (if_pos (by decide))) fun _ ht =>
      ⟨(ht.reg (by decide)).trans (Chip.reg_setReg_same ..), ht.answers, ht.mem⟩

end

/-- Settles O50. -/
theorem keysAndReports : Obligations.KeysAndReports := by
  unfold Obligations.KeysAndReports
  intro r s inst c
  refine ⟨?_, ?_, ?_, cfgFactoryArm_ends, cfgFactoryDisarm_ends⟩
  · intro value hadmits i hslot hstate hzero
    exact ⟨opkeyProvision_taken hadmits hslot hstate hzero, opkeyProvision_held hadmits hslot hstate hzero⟩
  · intro slot se hadmits hsess
    exact ⟨opkeyRevoke_taken hadmits hsess, opkeyRevoke_own hadmits hsess⟩
  · intro value se hadmits hsess hpart hzero
    exact attestRequest_ends hadmits hsess hpart hzero

end Sys2Proof.Machine
end

section
/-! PROOF. The event recorder (R418–R425): commit, a full log, failure, and clearing. -/
namespace Sys2Proof.Machine

/-! ### Records that are programmed (R418) -/

/-- The log has `n` records more; of the recorder and the objects nothing else but the numbering and the use of the log differs. -/
structure Chip.Committed (n : Nat) (c d : Chip) : Prop where
  log : ∃ es, es.length = n ∧ d.cairn.log = c.cairn.log ++ es
  stub : d.cairn.stub = c.cairn.stub
  clearing : d.cairn.clearing = c.cairn.clearing
  reg : ∀ key, key ≠ Obj.CAIRN_HEAD_SEQ → key ≠ Obj.CAIRN_USED → d.reg key = c.reg key

theorem inc32_mod (a : Nat) : inc32 a % 2 ^ 64 = inc32 a := by
  rw [inc32]
  omega

theorem Chip.commit_log (c : Chip) (e : EvRec) :
    ∃ p, (c.commit e).cairn.log = c.cairn.log ++ [{ e with seq := inc32 (c.reg Obj.CAIRN_HEAD_SEQ), partSeq := p }] := ⟨_, rfl⟩

theorem Chip.commit_seq (c : Chip) (e : EvRec) : (c.commit e).reg Obj.CAIRN_HEAD_SEQ = inc32 (c.reg Obj.CAIRN_HEAD_SEQ) := by
  unfold Chip.commit
  extract_lets seq pk ps e' r r'
  rw [Chip.reg_setReg_other _ _ (by decide), Chip.reg_setReg_same, inc32_mod]

theorem Chip.commit_committed (c : Chip) (e : EvRec) : Chip.Committed 1 c (c.commit e) where
  log := by
    obtain ⟨_, h⟩ := c.commit_log e
    exact ⟨_, rfl, h⟩
  stub := rfl
  clearing := rfl
  reg key hseq hused := by
    unfold Chip.commit
    extract_lets seq pk ps e' r r'
    rw [Chip.reg_setReg_other _ _ hused, Chip.reg_setReg_other _ _ hseq]
    rfl

theorem Chip.Committed.trans {m n : Nat} {b c d : Chip} (h : Committed m b c) (h' : Committed n c d) : Committed (m + n) b d where
  log := by
    obtain ⟨es, rfl, hes⟩ := h.log
    obtain ⟨fs, rfl, hfs⟩ := h'.log
    exact ⟨es ++ fs, List.length_append, by rw [hfs, hes, List.append_assoc]⟩
  stub := h'.stub.trans h.stub
  clearing := h'.clearing.trans h.clearing
  reg key hseq hused := (h'.reg key hseq hused).trans (h.reg key hseq hused)

/-- The entries of the stub are programmed one by one. -/
theorem Chip.Committed.foldl (f : Chip → List Byte → EvRec) (l : List (List Byte)) (c : Chip) :
    Committed l.length c (l.foldl (fun c b => c.commit (f c b)) c) := by
  induction l generalizing c with
  | nil => exact ⟨⟨[], rfl, (List.append_nil _).symm⟩, rfl, rfl, fun _ _ _ => rfl⟩
  | cons b l ih =>
    rw [List.length_cons, Nat.add_comm, List.foldl_cons]
    exact (c.commit_committed (f c b)).trans (ih _)

/-! ### CAIRN_COMMIT (R418–R420) -/

section
variable {s : State} {e : EvRec} {rest : List EvRec} (hnormal : s.chip.reg Obj.CAIRN_STATE = 0) (hstaged : s.chip.cairn.staging = e :: rest)
include hnormal hstaged

theorem cairnCommit_programs (hroom : logAfter (s.chip.reg Obj.CAIRN_USED) e.size + 256 ≤ s.chip.logCapacity)
    (hdrops : s.chip.cairn.dropTypes = []) : Ends (.cairnCommit []) s (fun t => t.chip.cairn.staging = rest ∧
      (∃ p, t.chip.cairn.log = s.chip.cairn.log ++ [{ e with seq := inc32 (s.chip.reg Obj.CAIRN_HEAD_SEQ), partSeq := p }]) ∧
      t.chip.reg Obj.CAIRN_HEAD_SEQ = inc32 (s.chip.reg Obj.CAIRN_HEAD_SEQ) ∧ t.chip.reg Obj.CAIRN_STATE = 0 ∧ t.mem = s.mem) := by
  have hrest : rest ++ s.chip.cairn.staging.drop (rest.length + 1) = rest := by
    rw [hstaged, List.drop_succ_cons, List.drop_length, List.append_nil]
  let c : Chip := { s.chip with cairn := { s.chip.cairn with staging := rest } }
  have hsummary : (c.commit e).dropSummary = c.commit e := if_pos (by
    rw [Bool.or_eq_true]
    exact .inl (List.isEmpty_iff.mpr hdrops))
  refine ends_on (c := c.commit e) rfl ?_ fun t hchip hmem => ?_
  · simp only [hnormal, hstaged, List.foldl_nil]
    rw [if_neg (by decide), if_neg (by decide), if_neg (by omega), ← hstaged, hrest]
    exact hsummary
  · rw [hchip]
    exact ⟨rfl, c.commit_log e, c.commit_seq e, ((c.commit_committed e).reg _ (by decide) (by decide)).trans hnormal, hmem⟩

/-- LOG_FULL takes the number that the record would have taken (R420). -/
theorem cairnCommit_full (hfull : s.chip.logCapacity < logAfter (s.chip.reg Obj.CAIRN_USED) e.size + 256) :
    Ends (.cairnCommit []) s (fun t => t.chip.cairn.staging = [] ∧ t.chip.reg Obj.CAIRN_STATE = 1 ∧
      (∃ x, t.chip.cairn.log = s.chip.cairn.log ++ [x] ∧ x.ty = 0x0B03 ∧ x.seq = inc32 (s.chip.reg Obj.CAIRN_HEAD_SEQ)) ∧
      t.chip.reg Obj.CNT_CAIRN_LOST = (s.chip.reg Obj.CNT_CAIRN_LOST + (rest.length + 1)) % 2 ^ 64 ∧ t.mem = s.mem) := by
  refine ends_on (c := s.chip.logFull e) rfl ?_ fun t hchip hmem => ?_
  · simp only [hnormal, hstaged, List.foldl_nil]
    rw [if_neg (by decide), if_neg (by decide), if_pos hfull]
  · rw [hchip]
    unfold Chip.logFull
    extract_lets lost _ c1 c2
    have hlost : lost = rest.length + 1 := by
      unfold lost
      rw [hstaged, List.length_cons]
    obtain ⟨p, hlog⟩ := c1.commit_log (c1.ownRecord 0x0B03 (layFields [(4, inc32 (c1.reg Obj.CAIRN_HEAD_SEQ)), (8, e.stamp)]))
    have hcount : c2.reg Obj.CNT_CAIRN_LOST = s.chip.reg Obj.CNT_CAIRN_LOST := (c1.commit_committed _).reg _ (by decide) (by decide)
    refine ⟨rfl, Chip.reg_setReg_same .., ⟨_, hlog, rfl, rfl⟩, ?_, hmem⟩
    rw [Chip.reg_setReg_other _ _ (by decide), Chip.reg_count, if_pos rfl, hcount, hlost]

end

/-! ### Failure (R421, R422) -/

theorem Chip.onStream_cairn (c : Chip) (k : Nat) (e : EvRec) : (c.onStream k e).cairn = c.cairn := by
  obtain ⟨_, h⟩ := c.onStream_shape k e
  rw [h]

/-- An event that is not recorded leaves the recorder as it is. -/
theorem Chip.raiseMod_cairn (c : Chip) {ty : Nat} (fs : List (Nat × Nat)) (h : eventOnly ty = true) : (c.raiseMod ty fs).cairn = c.cairn := by
  unfold Chip.raiseMod Chip.raise
  extract_lets e c1
  rw [Chip.record, if_pos h]
  exact (c1.onStream_cairn 8 e).trans (by unfold c1; rw [if_neg (by decide)])

/-- The recorder fails: the ring is lost, the log stays, and the stub takes an entry while it has room. -/
theorem Chip.cairnFail_spec {c : Chip} (cause : Nat) (hstate : c.reg Obj.CAIRN_STATE ≠ 3) :
    (c.cairnFail cause).reg Obj.CAIRN_STATE = 3 ∧ (c.cairnFail cause).reg Obj.CAIRN_FAILED = 1 ∧
    (c.cairnFail cause).cairn = (c.stub stubFailed cause).cairn := by
  rw [Chip.cairnFail, if_neg hstate]
  extract_lets e c1 c2
  refine ⟨Chip.reg_setReg_same .., ?_, ?_⟩
  · rw [Chip.reg_setReg_other _ _ (by decide)]
    exact (Chip.raise_reg_of_lt _ _ _ _ (by decide)).trans (Chip.reg_setReg_same ..)
  · exact c1.raiseMod_cairn _ rfl

theorem Chip.stub_log (c : Chip) (kind cause : Nat) : (c.stub kind cause).cairn.log = c.cairn.log := by
  unfold Chip.stub
  extract_lets e c1
  split <;> rfl

theorem cairnFlashTimeout_ends {s : State} (hstate : s.chip.reg Obj.CAIRN_STATE ≠ 3) (hroom : s.chip.cairn.stub.length < 32) :
    Ends .cairnFlashTimeout s (fun t => t.chip.reg Obj.CAIRN_STATE = 3 ∧ t.chip.reg Obj.CAIRN_FAILED = 1 ∧ t.chip.cairn.staging = [] ∧
      t.chip.cairn.stub = s.chip.cairn.stub ++ [s.chip.stubEntry stubFailed 3] ∧ t.chip.cairn.log = s.chip.cairn.log ∧ t.mem = s.mem) := by
  refine ends_on (c := s.chip.cairnFail 3) rfl rfl fun t hchip hmem => ?_
  obtain ⟨hfailed, hflag, hcairn⟩ := Chip.cairnFail_spec 3 hstate
  have hstub : (s.chip.stub stubFailed 3).cairn =
      { s.chip.cairn with staging := [], stub := s.chip.cairn.stub ++ [s.chip.stubEntry stubFailed 3] } := by
    rw [Chip.stub]
    exact congrArg Chip.cairn (if_pos hroom)
  rw [hchip, hcairn, hstub]
  exact ⟨hfailed, hflag, rfl, rfl, rfl, hmem⟩

/-! ### Clearing (R424, R425) -/

theorem Cairn.drop_log (r : Cairn) (ty : Nat) : (r.drop ty).log = r.log ∧ (r.drop ty).clearing = r.clearing := by
  unfold Cairn.drop
  split
  · exact ⟨rfl, rfl⟩
  split <;> exact ⟨rfl, rfl⟩

/-- A record that is staged leaves the log and the state of the recorder and of its clear. -/
theorem Chip.record_log (c : Chip) (e : EvRec) : (c.record e).cairn.log = c.cairn.log ∧
    (c.record e).cairn.clearing = c.cairn.clearing ∧ (c.record e).reg Obj.CAIRN_STATE = c.reg Obj.CAIRN_STATE := by
  unfold Chip.record
  extract_lets st
  split
  · exact ⟨rfl, rfl, rfl⟩
  split
  · exact ⟨rfl, rfl, Chip.reg_setReg_other _ _ (by decide)⟩
  split
  · exact ⟨rfl, rfl, Chip.reg_setReg_other _ _ (by simp only [Obj.CAIRN_STATE, Obj.CNT_CAIRN_UNRECORDED]; omega)⟩
  split
  · exact ⟨rfl, rfl, rfl⟩
  · obtain ⟨hlog, hclearing⟩ := c.cairn.drop_log e.ty
    exact ⟨hlog, hclearing, Chip.reg_setReg_other _ _ (by decide)⟩

section
variable {r : Req} {token : List Byte} {s : State} {inst : Nat} (hadmits : s.admits r Obj.CAIRN_CLEAR token inst = true)
  (hidle : s.chip.reg Obj.CAIRN_STATE ≠ 2)
include hadmits hidle

theorem cairnClear_taken {i : Nat} (htoken : s.chip.clearToken token = some i) : Ends (.cairnClear r token) s (fun t =>
    t.chip.cairn.log = s.chip.cairn.log ∧ t.mem = s.mem ∧ t.chip.reg Obj.CAIRN_STATE = 2 ∧ t.chip.cairn.clearing = true ∧
    t.chip.cairn.clearSlot = i ∧ t.chip.cairn.clearUpto = leAt token 0x0C 4 ∧ t.answers r Obj.CAIRN_CLEAR rcOK) := by
  refine rowWriteOn_ends (code := rcOK) rfl hadmits (c := Chip.setReg { s.chip with cairn := { s.chip.cairn with
    clearing := true, clearStamp := s.chip.stamp, clearUpto := leAt token 0x0C 4, clearSlot := i } } Obj.CAIRN_STATE 2) ?_ fun t ht => ?_
  · dsimp only
    rw [if_neg hidle, htoken]
  · have hcairn : t.chip.cairn = { s.chip.cairn with
        clearing := true, clearStamp := s.chip.stamp, clearUpto := leAt token 0x0C 4, clearSlot := i } := by
      obtain ⟨_, _, hshape⟩ := ht.shape
      rw [hshape]
      rfl
    rw [hcairn]
    exact ⟨rfl, ht.mem, (ht.reg (by decide)).trans (Chip.reg_setReg_same ..), rfl, rfl, rfl, ht.answers⟩

theorem cairnClear_refused (htoken : s.chip.clearToken token = none) : Ends (.cairnClear r token) s (fun t =>
    t.chip.cairn.log = s.chip.cairn.log ∧ t.mem = s.mem ∧ t.chip.reg Obj.CAIRN_STATE = s.chip.reg Obj.CAIRN_STATE ∧
    t.chip.cairn.clearing = s.chip.cairn.clearing ∧ t.answers r Obj.CAIRN_CLEAR rcRange) := by
  let c : Chip := if s.chip.reg Obj.CAIRN_STATE = 1 || s.chip.reg Obj.CAIRN_STATE = 3 then s.chip
    else s.chip.stage (s.chip.ownRecord 0x0B05 (layFields [(2, rcRange)] |>.take 2 |> (· ++ token.take 16)))
  have hkept : c.cairn.log = s.chip.cairn.log ∧ c.cairn.clearing = s.chip.cairn.clearing ∧
      c.reg Obj.CAIRN_STATE = s.chip.reg Obj.CAIRN_STATE := by
    unfold c
    split
    · exact ⟨rfl, rfl, rfl⟩
    · exact s.chip.record_log _
  obtain ⟨hlog, hclearing, hstate⟩ := hkept
  refine rowWriteOn_ends (c := c) (code := rcRange) rfl hadmits ?_ fun t ht => ?_
  · dsimp only
    rw [if_neg hidle, htoken]
  · have hcairn : t.chip.cairn = c.cairn := by
      obtain ⟨_, _, hshape⟩ := ht.shape
      rw [hshape]
      rfl
    rw [hcairn]
    exact ⟨hlog, ht.mem, (ht.reg (by decide)).trans hstate, hclearing, ht.answers⟩

end

/-- Counters that a clear sets to zero leave every other object. -/
theorem Chip.zeroCounts_reg (c : Chip) (key : Nat) {l : List Nat} {k : Nat} (hkey : key < k) :
    (l.foldl (fun c a => c.setReg (k + a) 0) c).reg key = c.reg key :=
  List.foldlRecOn (motive := fun d : Chip => d.reg key = c.reg key) l _ rfl fun d hd a _ =>
    (Chip.reg_setReg_other d 0 (by omega)).trans hd

theorem Chip.zeroCounts_cairn (c : Chip) {l : List Nat} {k : Nat} : (l.foldl (fun c a => c.setReg (k + a) 0) c).cairn = c.cairn :=
  List.foldlRecOn (motive := fun d : Chip => d.cairn = c.cairn) l _ rfl fun _ hd _ _ => hd

/-- The log of a clear with its own record and the copies of the stub (R425, steps 3 and 4). -/
def Chip.clearedLog (c : Chip) : Chip :=
  let r := c.cairn
  let last := c.reg Obj.CAIRN_HEAD_SEQ
  let data := layFields [(4, c.reg Obj.CAIRN_LOG_GEN), (4, last), (4, r.clearUpto),
    (4, (r.log.filter (fun e => decide (e.seq > r.clearUpto))).length), (8, c.reg Obj.CNT_CAIRN_LOST), (1, r.clearSlot),
    (1, if r.interrupted then 1 else 0)]
  let e : EvRec := { ty := 0x0B01, part := 0xFF, stamp := r.clearStamp, data := data }
  let c := { c with cairn := { r with log := [], clearing := false, interrupted := false, stub := [] } }
  r.stub.foldl (fun c b => c.commit (c.ownRecord 0x0B04 b)) (((c.setReg Obj.CAIRN_HEAD_SEQ 0).setReg Obj.CAIRN_USED 0).commit e)

/-- A new generation of the log, without losses (R425, step 5). -/
def Chip.clearedGen (c : Chip) : Chip :=
  let c := (c.setReg Obj.CAIRN_LOG_GEN (inc32 (c.reg Obj.CAIRN_LOG_GEN))).setReg Obj.CAIRN_FAILED 0
  (c.setReg Obj.CNT_CAIRN_LOST 0).setReg Obj.CNT_STUB_OVERFLOW 0

/-- Nothing is unrecorded, and the recorder is in NORMAL (R425, step 5). -/
def Chip.clearedCounts (c : Chip) : Chip :=
  ((List.range 16).foldl (fun c a => c.setReg (Obj.CNT_CAIRN_UNRECORDED + a) 0) c).setReg Obj.CAIRN_STATE 0

theorem Chip.cleared_eq (c : Chip) : c.cleared = c.clearedLog.clearedGen.clearedCounts := rfl

/-- The log begins with the clear's own record, and the copied stub follows. -/
theorem Chip.clearedLog_spec (c : Chip) : c.clearedLog.cairn.clearing = false ∧
    c.clearedLog.cairn.log.head?.map (fun e => (e.ty, e.seq)) = some (0x0B01, 1) ∧
    c.clearedLog.cairn.log.length = c.cairn.stub.length + 1 ∧ c.clearedLog.cairn.stub = [] ∧
    c.clearedLog.reg Obj.CAIRN_LOG_GEN = c.reg Obj.CAIRN_LOG_GEN := by
  unfold Chip.clearedLog
  extract_lets r last data e c1
  obtain ⟨c2, hc2⟩ : ∃ c2, c2 = (c1.setReg Obj.CAIRN_HEAD_SEQ 0).setReg Obj.CAIRN_USED 0 := ⟨_, rfl⟩
  have hcairn : c2.cairn = c1.cairn := by rw [hc2]; rfl
  have hseq : c2.reg Obj.CAIRN_HEAD_SEQ = 0 := by
    rw [hc2, Chip.reg_setReg_other _ _ (by decide), Chip.reg_setReg_same]
    rfl
  have hgen : c2.reg Obj.CAIRN_LOG_GEN = c.reg Obj.CAIRN_LOG_GEN := by
    rw [hc2, Chip.reg_setReg_other _ _ (by decide), Chip.reg_setReg_other _ _ (by decide)]
    rfl
  rw [← hc2]
  have hfirst := c2.commit_committed e
  obtain ⟨p, hlog⟩ := c2.commit_log e
  have hstub := Committed.foldl (fun c b => c.ownRecord 0x0B04 b) r.stub (c2.commit e)
  obtain ⟨es, hes, hall⟩ := hstub.log
  rw [hall, hlog, hcairn, hseq, hstub.stub, hfirst.stub, hstub.clearing, hfirst.clearing, hcairn,
    hstub.reg _ (by decide) (by decide), hfirst.reg _ (by decide) (by decide)]
  refine ⟨rfl, rfl, ?_, rfl, hgen⟩
  rw [List.length_append, hes]
  exact Nat.add_comm ..

theorem Chip.clearedGen_spec (c : Chip) : c.clearedGen.cairn = c.cairn ∧ c.clearedGen.reg Obj.CAIRN_FAILED = 0 ∧
    c.clearedGen.reg Obj.CAIRN_LOG_GEN = inc32 (c.reg Obj.CAIRN_LOG_GEN) ∧ c.clearedGen.reg Obj.CNT_CAIRN_LOST = 0 := by
  unfold Chip.clearedGen
  extract_lets c1
  refine ⟨rfl, ?_, ?_, ?_⟩
  · rw [Chip.reg_setReg_other _ _ (by decide), Chip.reg_setReg_other _ _ (by decide), Chip.reg_setReg_same]
    rfl
  · rw [Chip.reg_setReg_other _ _ (by decide), Chip.reg_setReg_other _ _ (by decide), Chip.reg_setReg_other _ _ (by decide),
      Chip.reg_setReg_same, inc32_mod]
  · rw [Chip.reg_setReg_other _ _ (by decide), Chip.reg_setReg_same]
    rfl

theorem Chip.clearedCounts_spec (c : Chip) : c.clearedCounts.cairn = c.cairn ∧ c.clearedCounts.reg Obj.CAIRN_STATE = 0 ∧
    ∀ key < Obj.CNT_CAIRN_UNRECORDED, key ≠ Obj.CAIRN_STATE → c.clearedCounts.reg key = c.reg key := by
  unfold Chip.clearedCounts
  have hcairn := c.zeroCounts_cairn (l := List.range 16) (k := Obj.CNT_CAIRN_UNRECORDED)
  have hzero := fun key => c.zeroCounts_reg key (l := List.range 16) (k := Obj.CNT_CAIRN_UNRECORDED)
  generalize (List.range 16).foldl (fun c a => Chip.setReg c (Obj.CNT_CAIRN_UNRECORDED + a) 0) c = d at hcairn hzero ⊢
  exact ⟨hcairn, Chip.reg_setReg_same .., fun key hkey hne => (Chip.reg_setReg_other d 0 hne).trans (hzero key hkey)⟩

section
variable {s : State} (hclearing : s.chip.reg Obj.CAIRN_STATE = 2)
include hclearing

theorem cairnClearDone_ok : Ends (.cairnClearDone true) s (fun t => t.chip.reg Obj.CAIRN_STATE = 0 ∧ t.chip.reg Obj.CAIRN_FAILED = 0 ∧
    t.chip.cairn.clearing = false ∧ (t.chip.cairn.log.head?).map (fun e => (e.ty, e.seq)) = some (0x0B01, 1) ∧
    t.chip.cairn.log.length = s.chip.cairn.stub.length + 1 ∧ t.chip.cairn.stub = [] ∧
    t.chip.reg Obj.CAIRN_LOG_GEN = inc32 (s.chip.reg Obj.CAIRN_LOG_GEN) ∧ t.chip.reg Obj.CNT_CAIRN_LOST = 0 ∧ t.mem = s.mem) := by
  refine ends_on (c := s.chip.cleared) rfl ((if_neg (by simp [hclearing])).trans (if_pos rfl)) fun t hchip hmem => ?_
  obtain ⟨hdone, hhead, hlength, hstub, hgen⟩ := s.chip.clearedLog_spec
  obtain ⟨hsame, hfailed, hnext, hlost⟩ := s.chip.clearedLog.clearedGen_spec
  obtain ⟨hcairn, hstate, hreg⟩ := s.chip.clearedLog.clearedGen.clearedCounts_spec
  rw [hchip, Chip.cleared_eq, hcairn, hsame, hreg Obj.CAIRN_FAILED (by decide) (by decide),
    hreg Obj.CAIRN_LOG_GEN (by decide) (by decide), hreg Obj.CNT_CAIRN_LOST (by decide) (by decide), hnext, hgen]
  exact ⟨hstate, hfailed, hdone, hhead, hlength, hstub, rfl, hlost, hmem⟩

theorem cairnClearDone_failed : Ends (.cairnClearDone false) s (fun t => t.chip.reg Obj.CAIRN_STATE = 3 ∧ t.chip.cairn.clearing = false ∧
    t.chip.cairn.log = s.chip.cairn.log ∧ t.mem = s.mem) := by
  obtain ⟨hfailed, -, hcairn⟩ := Chip.cairnFail_spec (c := s.chip) 2 (by omega)
  refine ends_on rfl (if_neg (by simp [hclearing])) fun t hchip hmem => ?_
  rw [hchip]
  exact ⟨hfailed, rfl, (congrArg Cairn.log hcairn).trans (Chip.stub_log ..), hmem⟩

end

/-- Settles O47. -/
theorem recorder : Obligations.Recorder := by
  unfold Obligations.Recorder
  refine ⟨fun s e rest hnormal hstaged => ⟨cairnCommit_programs hnormal hstaged, cairnCommit_full hnormal hstaged⟩,
    fun s => cairnFlashTimeout_ends, fun r token s inst hadmits hidle => ?_,
    fun s hclearing => ⟨cairnClearDone_ok hclearing, cairnClearDone_failed hclearing⟩⟩
  cases htoken : s.chip.clearToken token with
  | some i => exact cairnClear_taken hadmits hidle htoken
  | none => exact cairnClear_refused hadmits hidle htoken

end Sys2Proof.Machine
end

section
/-! PROOF. FREEZE_AT, the drain of a trace buffer, and the watch ring's base (R431, R438–R441). -/
namespace Sys2Proof.Machine

/-! ### FREEZE_AT (R431) -/

section
variable {r : Req} {frame : W64} {s : State} {inst : Nat} (hadmits : s.admits r Obj.FREEZE_AT (wr 8 frame.toNat) inst = true)
include hadmits

theorem freezeAt_taken (hlow : s.chip.frame + 2 ≤ frame.toNat) (hhigh : frame.toNat ≤ s.chip.frame + 1048576)
    (hbits : frame.toNat < 2 ^ 48) : Ends (.freezeAt r frame) s (fun t => t.chip.reg Obj.FREEZE_AT = frame.toNat ∧
      t.chip.reg Obj.FREEZE_STATE = 1 ∧ t.chip.snap = s.chip.snap ∧ t.answers r Obj.FREEZE_AT rcOK ∧ t.mem = s.mem) := by
  have hv : leNat (wr 8 frame.toNat) = frame.toNat := leNat_wr frame.isLt
  refine rowWriteOn_ends (c := (s.chip.setReg Obj.FREEZE_AT frame.toNat).setReg Obj.FREEZE_STATE 1) (code := rcOK) rfl hadmits ?_ fun t ht => ?_
  · simp only [hv]
    rw [if_neg (by simp; omega)]
  · refine ⟨?_, ?_, ?_, ht.answers, ht.mem⟩
    · refine (ht.get _ _ (by decide) (by decide)).trans ?_
      refine (Chip.reg_setReg_other _ _ (by decide)).trans ((Chip.reg_setReg_same ..).trans ?_)
      exact Nat.mod_eq_of_lt (by omega)
    · exact (ht.get _ _ (by decide) (by decide)).trans (Chip.reg_setReg_same ..)
    · obtain ⟨_, _, hshape⟩ := ht.shape
      rw [hshape]
      rfl

theorem freezeAt_refused (hout : frame.toNat < s.chip.frame + 2 ∨ s.chip.frame + 1048576 < frame.toNat) :
    Ends (.freezeAt r frame) s (fun t => t.chip.reg Obj.FREEZE_AT = s.chip.reg Obj.FREEZE_AT ∧
      t.chip.reg Obj.FREEZE_STATE = s.chip.reg Obj.FREEZE_STATE ∧ t.answers r Obj.FREEZE_AT rcRange ∧ t.mem = s.mem) := by
  have hv : leNat (wr 8 frame.toNat) = frame.toNat := leNat_wr frame.isLt
  refine rowWriteOn_ends (c := s.chip) (code := rcRange) rfl hadmits ?_ fun t ht =>
    ⟨ht.get _ _ (by decide) (by decide), ht.get _ _ (by decide) (by decide), ht.answers, ht.mem⟩
  simp only [hv]
  rw [if_pos (by simp; omega)]

end

/-! ### What an access leaves (R162, R175) -/

theorem Chip.accCheck_refused {c : Chip} {pa u : Nat} (h : c.accCheck pa = .refused u) : u < 32 := by
  unfold Chip.accCheck at h
  cases hunit : unitOf pa with
  | none => simp [hunit] at h
  | some p =>
    obtain ⟨v, o⟩ := p
    have hv := unitOf_lt hunit
    simp only [hunit] at h
    split at h
    · cases h
    split at h
    · split at h
      · cases h
        exact hv
      · cases h
    split at h
    · cases h
    split at h
    · cases h
      exact hv
    · cases h

/-- An access changes no Ridge, and of the objects before the recorder's and after them none but the counts of refused accesses. -/
theorem Chip.access_keeps (c : Chip) (k pa : Nat) : (c.access k pa).1.ridges = c.ridges ∧
    ∀ key, Obj.CNT_RETIRED_ACCESS + 32 ≤ key → key / 2 ^ 16 ≠ 0xCB → (c.access k pa).1.reg key = c.reg key := by
  unfold Chip.access
  cases hcheck : c.accCheck pa with
  | ok => exact ⟨rfl, fun _ _ _ => rfl⟩
  | invalid => exact ⟨Chip.raise_ridges .., fun key _ hkey => Chip.raise_reg c _ _ _ key (recorderKey_of_subject hkey)⟩
  | refused u =>
    have hu := Chip.accCheck_refused hcheck
    exact ⟨rfl, fun key hkey _ => Chip.reg_setReg_other c _ (by omega)⟩

theorem State.writePhys_chip (s : State) (k pa : Nat) (bs : List Byte) : (s.writePhys k pa bs).1.chip = (s.chip.access k pa).1 := by
  unfold State.writePhys
  dsimp only
  split
  · rfl
  · split <;> rfl

/-! ### The drain of a trace buffer (R438) -/

theorem State.traceLines_short {s : State} {n : Nat} (k fuel : Nat) (h : (s.chip.ridge n).traceBuf.length < 4) :
    State.traceLines n k fuel s = s := by
  cases fuel with
  | zero => rfl
  | succ fuel => exact if_pos h

/-- The ring takes a line, or its records are counted as dropped. -/
def State.lineEnds (s : State) (n k prod : Nat) : Option Nat → State
  | none => s.on (fun c => c.setReg (Obj.TRACE_PRODUCER + n) (prod + 128))
  | some _ => s.on (fun c => c.countPart k Obj.CNT_TRACE_DROPPED 4)

theorem State.lineEnds_mem (s : State) (n k prod : Nat) (e : Option Nat) : (s.lineEnds n k prod e).mem = s.mem := by
  cases e <;> rfl

theorem State.lineEnds_ridges (s : State) (n k prod : Nat) (e : Option Nat) : (s.lineEnds n k prod e).chip.ridges = s.chip.ridges := by
  cases e with
  | none => rfl
  | some e => exact Chip.countPart_ridges ..

theorem State.traceFlush_undrained {s : State} {n k : Nat} (howner : s.chip.owner n = some k) :
    s.traceFlush n false = State.traceLines n k 64 s := by
  unfold State.traceFlush
  rw [howner]
  exact if_neg (by rw [Bool.false_and]; exact Bool.false_ne_true)

theorem traceFlush_exec {ridge : Fin 16} {k : Nat} {s : State} (howner : s.chip.owner ridge.val = some k) :
    exec (.traceFlush ridge) s = .next (State.traceLines ridge.val k 64 s) :=
  congrArg Host.Outcome.next (State.traceFlush_undrained howner)

section
variable {ridge : Fin 16} {k : Nat} {s : State} (howner : s.chip.owner ridge.val = some k)
include howner

theorem traceFlush_short (hshort : (s.chip.ridge ridge.val).traceBuf.length < 4) : Ends (.traceFlush ridge) s (fun t => t = s) :=
  ⟨_, traceFlush_exec howner, State.traceLines_short k 64 hshort⟩

/-- A buffer with one whole line writes it. -/
theorem traceFlush_line {e : Option Nat} {s' : State} {buf : List (List Byte)} {prod size : Nat}
    (hbuf : buf = (s.chip.ridge ridge.val).traceBuf) (hprod : prod = s.chip.reg (Obj.TRACE_PRODUCER + ridge.val))
    (hsize : size = s.chip.ringBytes k) (hwhole : 4 ≤ buf.length) (hone : buf.length < 8)
    (hwrite : (s.on (fun c => c.updRidge ridge.val (fun r => { r with traceBuf := buf.drop 4 }))).writePhys k
      (s.chip.get k Obj.TRACE_BASE + ridge.val * size + prod % max 1 size) (buf.take 4).flatten = (s', e)) :
    Ends (.traceFlush ridge) s (fun t => (t.chip.ridge ridge.val).traceBuf = buf.drop 4 ∧ t.mem = s'.mem ∧
      t.chip.reg (Obj.TRACE_PRODUCER + ridge.val) = (if e = none then (prod + 128) % 2 ^ 64 else prod) ∧
      (e ≠ none → k < 8 → t.chip.get k Obj.CNT_TRACE_DROPPED = (s.chip.get k Obj.CNT_TRACE_DROPPED + 4) % 2 ^ 64)) := by
  obtain ⟨s1, hs1⟩ : ∃ s1, s1 = s.on (fun c => c.updRidge ridge.val (fun r => { r with traceBuf := buf.drop 4 })) := ⟨_, rfl⟩
  rw [← hs1] at hwrite
  have hfirst : State.traceLines ridge.val k 64 s = State.traceLines ridge.val k 63 (s'.lineEnds ridge.val k prod e) := by
    subst hbuf hprod hsize
    rw [State.traceLines, if_neg (by omega), ← hs1]
    dsimp only
    rw [hwrite]
    cases e <;> rfl
  have hs' : s'.chip = (s1.chip.access k (s.chip.get k Obj.TRACE_BASE + ridge.val * size + prod % max 1 size)).1 := by
    rw [← State.writePhys_chip, hwrite]
  obtain ⟨hridges, hregs⟩ := s1.chip.access_keeps k (s.chip.get k Obj.TRACE_BASE + ridge.val * size + prod % max 1 size)
  rw [← hs'] at hridges hregs
  have hleft : ((s'.lineEnds ridge.val k prod e).chip.ridge ridge.val).traceBuf = buf.drop 4 := by
    rw [Chip.ridge_of_ridges ((s'.lineEnds_ridges ..).trans hridges), hs1]
    exact congrArg Ridge.traceBuf (Chip.ridge_updRidge_same ..)
  refine ⟨_, traceFlush_exec howner, ?_⟩
  rw [hfirst, State.traceLines_short _ _ (by rw [hleft, List.length_drop]; omega)]
  refine ⟨hleft, s'.lineEnds_mem .., ?_, fun he hk => ?_⟩
  · cases e with
    | none => exact Chip.reg_setReg_same ..
    | some e =>
      rw [if_neg (by simp), hprod]
      refine (Chip.reg_countPart _ _ (by decide) _ _).trans ((hregs _ ?_ ?_).trans (by rw [hs1]; rfl))
      · simp only [Obj.CNT_RETIRED_ACCESS, Obj.TRACE_PRODUCER]
        omega
      · simp only [Obj.TRACE_PRODUCER]
        omega
  · cases e with
    | none => exact absurd rfl he
    | some e =>
      have haccessed : Chip.Accessed s1.chip s'.chip := by
        rw [hs']
        exact (Chip.Accessed.refl _).access ..
      refine (Chip.get_countPart_same _ hk _ _).trans ?_
      rw [haccessed.get k _ hk (by decide), hs1]
      rfl

end

/-! ### The watch ring's base (R439, R441) -/

/-- An admitted value is one that its object's row allows. -/
theorem State.admits_valueOk {s : State} {r : Req} {key inst : Nat} {bs : List Byte} (h : s.admits r key bs inst = true) {o : ObjRow}
    (hrow : objFind (key / 256) (key % 256) = some o) : o.valueOk bs = true := by
  rw [State.admits, Bool.and_eq_true] at h
  obtain ⟨-, h⟩ := h
  cases hse : Tbl.find s.chip.sess r.sess.val with
  | none => simp [hse] at h
  | some se =>
    rw [hse] at h
    dsimp only at h
    cases hreach : s.chip.writeReach r.sess.val se r.part.toNat (key / 256) (key % 256) bs.length with
    | error e => simp [hreach] at h
    | ok p =>
      obtain ⟨row, i⟩ := p
      simp only [hreach, Bool.and_eq_true] at h
      obtain ⟨⟨-, hvalue⟩, -⟩ := h
      have hfound : row = o := by
        unfold Chip.writeReach at hreach
        rw [hrow] at hreach
        dsimp only at hreach
        split at hreach
        · cases hreach
        split at hreach
        · cases hreach
        split at hreach
        · cases hreach
        · cases hreach
          rfl
      rw [← hfound]
      exact hvalue

/-- A word that its row allows is a multiple of what the row's range asks for. -/
theorem ObjRow.valueOk_align {o : ObjRow} {low top : Nat} {bs : List Byte} (hty : o.ty = 4) (hchk : o.chk = .align low top)
    (h : o.valueOk bs = true) : leNat bs % 2 ^ low = 0 := by
  rw [ObjRow.valueOk, hty, if_pos (by decide), ObjRow.scalarOk, hty, hchk, ObjRow.scalar, hty] at h
  simp only [Bool.true_and, Bool.and_eq_true, decide_eq_true_eq] at h
  simpa using h.1

/-- The row of WATCH_BASE: 64 KiB aligned (Table 19.4). -/
def watchBaseRow : ObjRow := ⟨0xCC50, 0xCC50, 0x00, 0x00, 1, 4, 1, 0, 8, 8, false, .none, .align 16 52⟩

theorem watchBase_row : objFind (Obj.WATCH_BASE / 256) (Obj.WATCH_BASE % 256) = some watchBaseRow := by decide +kernel

section
variable {r : Req} {base : W64} {s : State} {inst : Nat} (hadmits : s.admits r Obj.WATCH_BASE (wr 8 base.toNat) inst = true)
include hadmits

theorem watchBase_aligned : base.toNat % 65536 = 0 := by
  have hvalue := State.admits_valueOk hadmits watchBase_row
  have halign := ObjRow.valueOk_align (low := 16) (top := 52) rfl rfl hvalue
  rw [leNat_wr base.isLt] at halign
  exact halign

theorem watchBaseWrite_cleared (hzero : base = 0) : Ends (.watchBaseWrite r base) s (fun t =>
    t.chip.get inst Obj.WATCH_BASE = 0 ∧ t.answers r Obj.WATCH_BASE rcOK ∧ t.mem = s.mem) := by
  subst hzero
  exact rowWriteOn_ends (c := s.chip.set inst Obj.WATCH_BASE 0) (code := rcOK) rfl hadmits (if_pos (by decide)) fun t ht =>
    ⟨(ht.get _ _ (by decide) (by decide)).trans (Chip.get_set_same ..), ht.answers, ht.mem⟩

variable (hbase : base ≠ 0)
include hbase

/-- A base that is not zero is judged by its area, and by whether the ring is set. -/
theorem watchBaseWrite_on {c : Chip} {code : Nat} {P : State → Prop}
    (hc : (if !s.chip.nearArea inst base.toNat (s.chip.get inst Obj.WATCH_BYTES) then (s.chip, rcRange)
      else if s.chip.get inst Obj.WATCH_BASE != 0 then (s.chip, rcState)
      else ((((s.chip.set inst Obj.WATCH_BASE base.toNat).set inst Obj.WATCH_PRODUCER 0).set inst Obj.WATCH_CONSUMER 0).updPart inst
        (fun p => { p with watchGen := p.watchGen + 1 }), rcOK)) = (c, code))
    (hP : ∀ t, (s.on fun _ => c).AnsweredFrom t r Obj.WATCH_BASE code → P t) : Ends (.watchBaseWrite r base) s P := by
  have hv : leNat (wr 8 base.toNat) = base.toNat := leNat_wr base.isLt
  have hne : base.toNat ≠ 0 := fun h => hbase (BitVec.eq_of_toNat_eq h)
  refine rowWriteOn_ends rfl hadmits ?_ hP
  simp only [hv]
  rw [if_neg hne, watchBase_aligned hadmits]
  exact hc

theorem watchBaseWrite_set (harea : s.chip.nearArea inst base.toNat (s.chip.get inst Obj.WATCH_BYTES) = true)
    (hunset : s.chip.get inst Obj.WATCH_BASE = 0) : Ends (.watchBaseWrite r base) s (fun t =>
      t.chip.get inst Obj.WATCH_BASE = base.toNat ∧ t.chip.get inst Obj.WATCH_PRODUCER = 0 ∧ t.chip.get inst Obj.WATCH_CONSUMER = 0 ∧
      t.answers r Obj.WATCH_BASE rcOK ∧ t.mem = s.mem) := by
  have hother : ∀ (c : Chip) (v : Nat) {k l : Nat}, k < 2 ^ 24 → l < 2 ^ 24 → l ≠ k → (c.set inst k v).get inst l = c.get inst l :=
    fun c v k l hk hl hne => Chip.get_set_other c v (by rw [Ne, ikey_inj hl hk]; exact fun h => hne h.2)
  refine watchBaseWrite_on hadmits hbase ((if_neg (by simp [harea])).trans (if_neg (by simp [hunset]))) fun t ht =>
    ⟨(ht.get _ _ (by decide) (by decide)).trans ?_, (ht.get _ _ (by decide) (by decide)).trans ?_,
      (ht.get _ _ (by decide) (by decide)).trans (Chip.get_set_same ..), ht.answers, ht.mem⟩
  · refine (hother _ 0 (by decide) (by decide) (by decide)).trans ((hother _ 0 (by decide) (by decide) (by decide)).trans ?_)
    exact (Chip.get_set_same ..).trans (Nat.mod_eq_of_lt base.isLt)
  · exact (hother _ 0 (by decide) (by decide) (by decide)).trans (Chip.get_set_same ..)

theorem watchBaseWrite_held (harea : s.chip.nearArea inst base.toNat (s.chip.get inst Obj.WATCH_BYTES) = true)
    (hset : s.chip.get inst Obj.WATCH_BASE ≠ 0) : Ends (.watchBaseWrite r base) s (fun t =>
      t.chip.get inst Obj.WATCH_BASE = s.chip.get inst Obj.WATCH_BASE ∧ t.answers r Obj.WATCH_BASE rcState ∧ t.mem = s.mem) :=
  watchBaseWrite_on hadmits hbase ((if_neg (by simp [harea])).trans (if_pos (by simp [hset]))) fun _ ht =>
    ⟨ht.get _ _ (by decide) (by decide), ht.answers, ht.mem⟩

theorem watchBaseWrite_outside (harea : s.chip.nearArea inst base.toNat (s.chip.get inst Obj.WATCH_BYTES) = false) :
    Ends (.watchBaseWrite r base) s (fun t => t.chip.get inst Obj.WATCH_BASE = s.chip.get inst Obj.WATCH_BASE ∧
      t.answers r Obj.WATCH_BASE rcRange ∧ t.mem = s.mem) :=
  watchBaseWrite_on hadmits hbase (if_pos (by simp [harea])) fun _ ht => ⟨ht.get _ _ (by decide) (by decide), ht.answers, ht.mem⟩

end

/-- Settles O48. -/
theorem traceAndFreeze : Obligations.TraceAndFreeze := by
  unfold Obligations.TraceAndFreeze
  refine ⟨fun r frame s inst hadmits => ⟨freezeAt_taken hadmits, freezeAt_refused hadmits⟩, ?_, ?_⟩
  · intro ridge k s s' howner n buf prod size s1
    exact ⟨traceFlush_short howner, fun hwhole hone e hwrite => traceFlush_line howner rfl rfl rfl hwhole hone hwrite⟩
  · intro r base s inst _ hadmits
    exact ⟨watchBaseWrite_cleared hadmits, fun hbase harea =>
      ⟨watchBaseWrite_set hadmits hbase harea, watchBaseWrite_held hadmits hbase harea⟩, watchBaseWrite_outside hadmits⟩

end Sys2Proof.Machine
end

section
/-! PROOF. READ, WRITE and DESCRIBE of the control dictionary (R358, R359, R362, R363). -/
namespace Sys2Proof.Machine

/-! ### An operation as a command of its own -/

/-- What a session is told of an operation's result. -/
def DRec.told (d : DRec) (x : DRes) : List Byte :=
  if x.code != rcOK then [] else if d.op = opOpenRead || d.op = opOpenWrite then leBytes 2 x.handle ++ leBytes 4 x.off else x.data

theorem DRec.told_fail (d e : DRec) {code : Nat} (h : code ≠ rcOK) : d.told (e.fail code) = [] := if_pos (by simpa [DRec.fail] using h)

/-- An operation goes to the session as its result. -/
theorem State.dictCmd_result {s t : State} {r : Req} {d : DRec} {se : Sess} {x : DRes} (hsess : Tbl.find s.chip.sess r.sess.val = some se)
    (hop : s.dictOp r.sess.val se r.part.toNat d = (t, x)) :
    s.dictCmd r d = t.on (fun c => c.result r.sess.val d.idx d.sub x.code (d.told x)) := by
  rw [State.dictCmd, hsess]
  dsimp only
  rw [hop]
  rfl

/-! The records of the three operations are well-formed. -/

theorem State.dictOp_read (s : State) (slot : Nat) (se : Sess) (part idx sub len : Nat) :
    s.dictOp slot se part { op := opRead, idx := idx, sub := sub, len := len } =
      (s, s.chip.dictRead slot se part { op := opRead, idx := idx, sub := sub, len := len }) := rfl

theorem State.dictOp_write (s : State) (slot : Nat) (se : Sess) (part idx sub len : Nat) (data : List Byte) :
    s.dictOp slot se part { op := opWrite, idx := idx, sub := sub, len := len, data := data } =
      s.dictWrite slot se part { op := opWrite, idx := idx, sub := sub, len := len, data := data } := rfl

theorem State.dictOp_describe (s : State) (slot : Nat) (se : Sess) (part idx sub : Nat) :
    s.dictOp slot se part { op := opDescribe, idx := idx, sub := sub } = (s, dictDescribe { op := opDescribe, idx := idx, sub := sub }) := rfl

/-- A refusal is counted and answered without data. -/
theorem Chip.result_refused (c : Chip) (slot idx sub : Nat) {code : Nat} (hok : code ≠ rcOK) (hnot : code ≠ rcNotDone) :
    c.result slot idx sub code [] = (c.bump Obj.CNT_DICT_REFUSED).send (.result slot idx sub code []) := by
  rw [Chip.result, if_neg (by simp [hok, hnot])]

section
variable {r : Req} {index : W16} {sub : Byte} {s : State} {se : Sess} (hsess : Tbl.find s.chip.sess r.sess.val = some se)
include hsess

/-! ### READ (R358, R359) -/

theorem read_ends {len : W16} {o : ObjRow} {inst : Nat} {b : List Byte}
    (hreach : s.chip.readReach r.sess.val se r.part.toNat index.toNat sub.toNat = .ok (o, inst)) (hsmall : o.big = false)
    (hlen : tyScalar o.ty = true → len.toNat = tyBytes o.ty)
    (hvalue : s.chip.value r.sess.val se r.part.toNat inst index.toNat sub.toNat o = .ok b) (hfits : b.length ≤ len.toNat) :
    Ends (.read r index sub len) s (fun t => t = s.on (fun c => c.send (.result r.sess.val index.toNat sub.toNat rcOK b))) := by
  have hread : s.chip.dictRead r.sess.val se r.part.toNat { op := opRead, idx := index.toNat, sub := sub.toNat, len := len.toNat } =
      { code := rcOK, data := b } := by
    have hscalar : (tyScalar o.ty && len.toNat != tyBytes o.ty) = false := by
      cases hty : tyScalar o.ty with
      | true => simpa using hlen hty
      | false => rfl
    simp only [Chip.dictRead, hreach, hsmall, hscalar, hvalue]
    rw [if_neg (by decide), if_neg (by decide), if_neg (by omega)]
  exact ⟨_, rfl, State.dictCmd_result hsess ((State.dictOp_read ..).trans (congrArg (Prod.mk s) hread))⟩

/-- An object that does not exist. -/
theorem read_gone (hgone : objFind index.toNat sub.toNat = none) (len : W16) : Ends (.read r index sub len) s (fun t =>
    t = s.on (fun c => (c.bump Obj.CNT_DICT_REFUSED).send (.result r.sess.val index.toNat sub.toNat rcNoObject []))) := by
  have hread : s.chip.dictRead r.sess.val se r.part.toNat { op := opRead, idx := index.toNat, sub := sub.toNat, len := len.toNat } =
      DRec.fail { op := opRead, idx := index.toNat, sub := sub.toNat, len := len.toNat } rcNoObject := by
    simp only [Chip.dictRead, Chip.readReach, hgone]
  exact ⟨_, rfl, State.dictCmd_result hsess ((State.dictOp_read ..).trans (congrArg (Prod.mk s) hread))⟩

/-! ### DESCRIBE (R362) -/

theorem describe_ends {o : ObjRow} (hrow : objFind index.toNat sub.toNat = some o) : Ends (.describe r index sub) s (fun t =>
    t = s.on (fun c => c.send (.result r.sess.val index.toNat sub.toNat rcOK o.descriptor))) := by
  have hdescribe : dictDescribe { op := opDescribe, idx := index.toNat, sub := sub.toNat } = { code := rcOK, data := o.descriptor } := by
    simp only [dictDescribe, hrow]
  exact ⟨_, rfl, State.dictCmd_result hsess ((State.dictOp_describe ..).trans (congrArg (Prod.mk s) hdescribe))⟩

theorem describe_gone (hgone : objFind index.toNat sub.toNat = none) : Ends (.describe r index sub) s (fun t =>
    t = s.on (fun c => (c.bump Obj.CNT_DICT_REFUSED).send (.result r.sess.val index.toNat sub.toNat rcNoObject []))) := by
  have hdescribe : dictDescribe { op := opDescribe, idx := index.toNat, sub := sub.toNat } =
      DRec.fail { op := opDescribe, idx := index.toNat, sub := sub.toNat } rcNoObject := by
    simp only [dictDescribe, hgone]
  exact ⟨_, rfl, State.dictCmd_result hsess ((State.dictOp_describe ..).trans (congrArg (Prod.mk s) hdescribe))⟩

/-! ### WRITE (R359) -/

theorem write_gone (hgone : objFind index.toNat sub.toNat = none) (value : List Byte) : Ends (.write r index sub value) s (fun t =>
    t = s.on (fun c => (c.bump Obj.CNT_DICT_REFUSED).send (.result r.sess.val index.toNat sub.toNat rcNoObject []))) := by
  have hwrite : s.dictWrite r.sess.val se r.part.toNat
      { op := opWrite, idx := index.toNat, sub := sub.toNat, len := value.length, data := value } =
      (s, DRec.fail { op := opWrite, idx := index.toNat, sub := sub.toNat, len := value.length, data := value } rcNoObject) := by
    simp only [State.dictWrite, Chip.dictWriteReach, hgone]
  exact ⟨_, rfl, State.dictCmd_result hsess ((State.dictOp_write ..).trans hwrite)⟩

variable {value : List Byte} {o : ObjRow} {inst : Nat} (hadmits : s.admits r (index.toNat * 256 + sub.toNat) value inst = true)
  (hrow : objFind index.toNat sub.toNat = some o) (hsmall : o.big = false)
include hadmits hrow hsmall

omit hsess hadmits hrow hsmall in
theorem okey_split (index : W16) (sub : Byte) :
    (index.toNat * 256 + sub.toNat) / 256 = index.toNat ∧ (index.toNat * 256 + sub.toNat) % 256 = sub.toNat := by
  have hsub : sub.toNat < 256 := sub.isLt
  omega

/-- An admitted WRITE of an object that is not for block transfer is the write of its row. -/
theorem write_rowWrite : s.dictCmd r { op := opWrite, idx := index.toNat, sub := sub.toNat, len := value.length, data := value } =
    s.rowWrite r (index.toNat * 256 + sub.toNat) value (effOf r.sess.val se index.toNat sub.toNat) := by
  obtain ⟨hidx, hsub⟩ := okey_split index sub
  have hreach : ∃ x, s.chip.writeReach r.sess.val se r.part.toNat index.toNat sub.toNat value.length = .ok x := by
    rw [State.admits, Bool.and_eq_true] at hadmits
    obtain ⟨-, h⟩ := hadmits
    simp only [hsess, hidx, hsub] at h
    cases hreach : s.chip.writeReach r.sess.val se r.part.toNat index.toNat sub.toNat value.length with
    | error e => simp [hreach] at h
    | ok x => exact ⟨x, rfl⟩
  obtain ⟨x, hreach⟩ := hreach
  have hop : s.dictOp r.sess.val se r.part.toNat { op := opWrite, idx := index.toNat, sub := sub.toNat, len := value.length, data := value } =
      ((s.write1 r.sess.val se r.part.toNat index.toNat sub.toNat value (effOf r.sess.val se index.toNat sub.toNat)).1,
        DRec.fail { op := opWrite, idx := index.toNat, sub := sub.toNat, len := value.length, data := value }
          (s.write1 r.sess.val se r.part.toNat index.toNat sub.toNat value (effOf r.sess.val se index.toNat sub.toNat)).2) := by
    rw [State.dictOp_write]
    simp only [State.dictWrite, Chip.dictWriteReach, hrow, hreach, hsmall]
    rfl
  rw [State.dictCmd_result hsess hop, State.rowWrite, hsess]
  simp only [hidx, hsub]
  congr 1
  funext c
  congr 1
  unfold DRec.told
  split <;> rfl

/-- An admitted WRITE is its object's effect and then the answer. -/
theorem write_effect {P : State → Prop}
    (hP : P ((effOf r.sess.val se index.toNat sub.toNat inst value s).1.on (fun c => c.result r.sess.val index.toNat sub.toNat
      (effOf r.sess.val se index.toNat sub.toNat inst value s).2 []))) : Ends (.write r index sub value) s P := by
  obtain ⟨hidx, hsub⟩ := okey_split index sub
  refine ⟨_, congrArg Host.Outcome.next (write_rowWrite hsess hadmits hrow hsmall), ?_⟩
  rw [State.rowWrite_admits hadmits, hidx, hsub]
  exact hP

/-- An object without rules of its own holds what is written. -/
theorem write_plain (hnamed : effNamed r.sess.val (index.toNat * 256 + sub.toNat) = none)
    (hunit : effUnit se index.toNat sub.toNat = none) : Ends (.write r index sub value) s (fun t =>
      t.answers r (index.toNat * 256 + sub.toNat) rcOK ∧ t.mem = s.mem ∧ t.chip.streams = s.chip.streams ∧
      if tyScalar o.ty then t.chip.get inst (index.toNat * 256 + sub.toNat) = leNat value % 2 ^ 64
      else t.chip.blob inst (index.toNat * 256 + sub.toNat) = value) := by
  obtain ⟨hidx, hsub⟩ := okey_split index sub
  have heff : effOf r.sess.val se index.toNat sub.toNat = effPlain index.toNat sub.toNat := by
    rw [effOf, hnamed, hunit]
    rfl
  refine write_effect hsess hadmits hrow hsmall ?_
  rw [heff, effPlain, effOn]
  have hanswers : ∀ u : State, (u.on (fun c => c.result r.sess.val index.toNat sub.toNat rcOK [])).answers r
      (index.toNat * 256 + sub.toNat) rcOK := fun u => by
    have := (State.AnsweredFrom.result u r (index.toNat * 256 + sub.toNat) rcOK).answers
    rwa [hidx, hsub] at this
  simp only [hrow]
  cases hty : tyScalar o.ty with
  | true => exact ⟨hanswers _, rfl, rfl, Chip.get_set_same ..⟩
  | false => exact ⟨hanswers _, rfl, rfl, Chip.blob_setBlob_same ..⟩

end

/-- Settles O41. -/
theorem dictionaryOperations : Obligations.DictionaryOperations := by
  unfold Obligations.DictionaryOperations
  intro r index sub s se hsess slot idx sb key
  refine ⟨fun len o inst b => read_ends hsess, fun value o inst hadmits hrow hsmall => ⟨?_, write_plain hsess hadmits hrow hsmall⟩,
    fun o => describe_ends hsess, fun hgone => ⟨read_gone hsess hgone, write_gone hsess hgone, describe_gone hsess hgone⟩⟩
  exact write_effect hsess hadmits hrow hsmall rfl

end Sys2Proof.Machine
end

section
/-! PROOF. Block transfers (R361): open, move, commit, close and the idle limit. -/
namespace Sys2Proof.Machine

/-! ### A free handle -/

/-- The handle that follows another. -/
def handleAfter (h : Nat) : Nat := h % 65535 + 1

/-- The handle that is found is free, unless every one that was tried is open. -/
theorem freeHandle_free (t : Tbl BlockXfer) (fuel h : Nat) :
    Tbl.find t (freeHandle t fuel h) = none ∨ ∀ i < fuel, (Tbl.find t (handleAfter^[i] h)).isSome = true := by
  induction fuel generalizing h with
  | zero => exact .inr fun i hi => absurd hi (Nat.not_lt_zero i)
  | succ fuel ih =>
    rw [freeHandle]
    split
    next hopen =>
      refine (ih (handleAfter h)).imp_right fun hall i hi => ?_
      cases i with
      | zero => exact hopen
      | succ i => exact hall i (by omega)
    next hfree => exact .inl (by simpa using hfree)

/-- Four handles in a row differ. -/
theorem handles_nodup (h : Nat) : ((List.range 4).map (fun i => handleAfter^[i] h)).Nodup := by
  change [h, handleAfter h, handleAfter (handleAfter h), handleAfter (handleAfter (handleAfter h))].Nodup
  simp only [handleAfter, List.nodup_cons, List.mem_cons, List.not_mem_nil, or_false, not_or, List.nodup_nil, and_true, not_false_eq_true]
  omega

/-- With fewer than four transfers open a free handle is found. -/
theorem freeHandle_of_room {t : Tbl BlockXfer} (hroom : t.length < 4) (h : Nat) : Tbl.find t (freeHandle t 5 h) = none := by
  refine (freeHandle_free t 5 h).resolve_right fun hall => ?_
  have hkeys : (List.range 4).map (fun i => handleAfter^[i] h) ⊆ t.map Prod.fst := fun k hk => by
    obtain ⟨i, hi, rfl⟩ := List.mem_map.mp hk
    have hlt : i < 4 := List.mem_range.mp hi
    obtain ⟨x, hx⟩ := Option.isSome_iff_exists.mp (hall i (by omega))
    exact List.mem_map.mpr ⟨_, Tbl.mem_of_find hx, rfl⟩
  have hlength := ((handles_nodup h).subperm hkeys).length_le
  simp only [List.length_map, List.length_range] at hlength
  omega

/-! ### The records of the block operations are well-formed -/

section
variable (s : State) (slot : Nat) (se : Sess) (part : Nat)

theorem State.dictOp_openRead (idx sub : Nat) : s.dictOp slot se part { op := opOpenRead, idx := idx, sub := sub } =
    s.onDict (s.chip.blockOpenRead slot se part { op := opOpenRead, idx := idx, sub := sub }) := rfl

theorem State.dictOp_openWrite (idx sub off : Nat) : s.dictOp slot se part { op := opOpenWrite, idx := idx, sub := sub, off := off } =
    s.blockOpenWrite slot se part { op := opOpenWrite, idx := idx, sub := sub, off := off } := rfl

theorem State.dictOp_blockRead (handle off len : Nat) : s.dictOp slot se part { op := opBlockRead, handle := handle, off := off, len := len } =
    s.onDict (s.chip.blockMove slot se { op := opBlockRead, handle := handle, off := off, len := len }) := rfl

theorem State.dictOp_blockWrite (handle off len : Nat) (data : List Byte) :
    s.dictOp slot se part { op := opBlockWrite, handle := handle, off := off, len := len, data := data } =
      s.onDict (s.chip.blockMove slot se { op := opBlockWrite, handle := handle, off := off, len := len, data := data }) := rfl

theorem State.dictOp_commit (handle : Nat) : s.dictOp slot se part { op := opCommit, handle := handle } =
    s.blockCommit slot se { op := opCommit, handle := handle } := rfl

theorem State.dictOp_close (handle : Nat) : s.dictOp slot se part { op := opClose, handle := handle } =
    s.onDict (s.chip.blockClose slot se { op := opClose, handle := handle }) := rfl

end

/-! ### Opening (R361) -/

/-- A transfer is open under a handle that was free, and the session is told of it. -/
def State.blockOpened (t s : State) (r : Req) (se : Sess) (idx sub : Nat) (x : BlockXfer) : Prop :=
  ∃ (h : Nat) (se' : Sess), Tbl.find se.blocks h = none ∧ Tbl.find t.chip.sess r.sess.val = some se' ∧ Tbl.find se'.blocks h = some x ∧
    t.chip.out.getLast? = some (.result r.sess.val idx sub rcOK (leBytes 2 h ++ leBytes 4 x.total)) ∧ t.chip.regs = s.chip.regs ∧
    t.mem = s.mem

section
variable {r : Req} {s : State} {se : Sess} (hsess : Tbl.find s.chip.sess r.sess.val = some se)
include hsess

/-- What an operation that opens a transfer leaves. -/
theorem dictCmd_opened {d : DRec} {x : BlockXfer} (hop : d.op = opOpenRead ∨ d.op = opOpenWrite) {n : Nat}
    (hroom : s.chip.blockRoom se n = true) (htotal : (if x.write then d.off else x.total) = x.total)
    (h : s.dictOp r.sess.val se r.part.toNat d = s.onDict (s.chip.blockOpen r.sess.val se d x)) :
    (s.dictCmd r d).blockOpened s r se d.idx d.sub x := by
  have hfree : Tbl.find se.blocks (freeHandle se.blocks 5 se.nextHandle) = none := by
    rw [Chip.blockRoom, Bool.and_eq_true, decide_eq_true_eq] at hroom
    exact freeHandle_of_room hroom.1 _
  have htold : ∀ y : DRes, y.code = rcOK → d.told y = leBytes 2 y.handle ++ leBytes 4 y.off := fun y hy => by
    rw [DRec.told, hy, if_neg (by decide), if_pos (by simpa using hop)]
  rw [State.dictCmd_result hsess h, htold _ rfl]
  refine ⟨_, _, hfree, Tbl.find_put_same .., Tbl.find_put_same .., ?_, rfl, rfl⟩
  rw [show (s.chip.blockOpen r.sess.val se d x).2.off = x.total from htotal]
  exact List.getLast?_concat

/-- What a refused operation leaves. -/
theorem dictCmd_refused {d : DRec} {code : Nat} (hok : code ≠ rcOK) (hnot : code ≠ rcNotDone)
    (h : s.dictOp r.sess.val se r.part.toNat d = (s, d.fail code)) :
    (s.dictCmd r d).chip.out.getLast? = some (.result r.sess.val d.idx d.sub code []) ∧ (s.dictCmd r d).chip.sess = s.chip.sess ∧
    (s.dictCmd r d).mem = s.mem := by
  rw [State.dictCmd_result hsess h, DRec.told_fail _ _ hok]
  refine ⟨?_, ?_, rfl⟩
  · rw [State.on_chip, show (d.fail code).code = code from rfl, Chip.result_refused _ _ _ _ hok hnot]
    exact List.getLast?_concat
  · rw [State.on_chip, show (d.fail code).code = code from rfl, Chip.result_refused _ _ _ _ hok hnot]
    rfl

section
variable {index : W16} {sub : Byte}

theorem blockOpenRead_opened {o : ObjRow} {inst : Nat} {b : List Byte}
    (hreach : s.chip.readReach r.sess.val se r.part.toNat index.toNat sub.toNat = .ok (o, inst))
    (hvalue : s.chip.value r.sess.val se r.part.toNat inst index.toNat sub.toNat o = .ok b) (hroom : s.chip.blockRoom se b.length = true) :
    Ends (.blockOpenRead r index sub) s (fun t => t.blockOpened s r se index.toNat sub.toNat
      { write := false, idx := index.toNat, sub := sub.toNat, part := r.part.toNat, total := b.length, buf := b }) := by
  refine ⟨_, rfl, dictCmd_opened hsess (d := { op := opOpenRead, idx := index.toNat, sub := sub.toNat }) (.inl rfl) hroom rfl ?_⟩
  rw [State.dictOp_openRead]
  simp only [Chip.blockOpenRead, hreach, hvalue, hroom]
  rfl

theorem blockOpenRead_full {o : ObjRow} {inst : Nat} {b : List Byte}
    (hreach : s.chip.readReach r.sess.val se r.part.toNat index.toNat sub.toNat = .ok (o, inst))
    (hvalue : s.chip.value r.sess.val se r.part.toNat inst index.toNat sub.toNat o = .ok b) (hroom : s.chip.blockRoom se b.length = false) :
    Ends (.blockOpenRead r index sub) s (fun t => t.chip.out.getLast? = some (.result r.sess.val index.toNat sub.toNat rcNoBuffer []) ∧
      t.chip.sess = s.chip.sess ∧ t.mem = s.mem) := by
  refine ⟨_, rfl, dictCmd_refused hsess (d := { op := opOpenRead, idx := index.toNat, sub := sub.toNat }) (by decide) (by decide) ?_⟩
  rw [State.dictOp_openRead]
  simp only [Chip.blockOpenRead, hreach, hvalue, hroom]
  rfl

section
variable {total : W32} {o : ObjRow} {inst : Nat}
  (hreach : s.chip.writeReach r.sess.val se r.part.toNat index.toNat sub.toNat total.toNat = .ok (o, inst))
include hreach

theorem blockOpenWrite_opened (hroom : s.chip.blockRoom se total.toNat = true)
    (hstate : s.stateRefuses r.sess.val se r.part.toNat inst o
      (⟨opOpenWrite, index.toNat, sub.toNat, 0, 0, total.toNat, [], false⟩ : DRec) = none) :
    Ends (.blockOpenWrite r index sub total) s (fun t => t.blockOpened s r se index.toNat sub.toNat
      { write := true, idx := index.toNat, sub := sub.toNat, part := r.part.toNat, total := total.toNat, buf := zeros total.toNat }) := by
  refine ⟨_, rfl, dictCmd_opened hsess (d := { op := opOpenWrite, idx := index.toNat, sub := sub.toNat, off := total.toNat })
    (.inr rfl) hroom rfl ?_⟩
  rw [State.dictOp_openWrite]
  simp only [State.blockOpenWrite, hreach, hroom, hstate]
  rfl

theorem blockOpenWrite_full (hroom : s.chip.blockRoom se total.toNat = false) :
    Ends (.blockOpenWrite r index sub total) s (fun t =>
      t.chip.out.getLast? = some (.result r.sess.val index.toNat sub.toNat rcNoBuffer []) ∧ t.chip.sess = s.chip.sess ∧ t.mem = s.mem) := by
  refine ⟨_, rfl, dictCmd_refused hsess (d := { op := opOpenWrite, idx := index.toNat, sub := sub.toNat, off := total.toNat })
    (by decide) (by decide) ?_⟩
  rw [State.dictOp_openWrite]
  simp only [State.blockOpenWrite, hreach, hroom]
  rfl

end

end

/-! ### Moving data (R361) -/

/-- A transfer with data placed at an offset. -/
def BlockXfer.placed (x : BlockXfer) (off : Nat) (data : List Byte) : BlockXfer :=
  { x with buf := splice x.buf off data, have_ := x.have_ ++ [(off, off + data.length)] }


section
variable {handle : W16} {x : BlockXfer} (hopen : Tbl.find se.blocks handle.toNat = some x)
include hopen

theorem blockRead_ends {offset : W32} {len : W16} (hread : x.write = false) (hpos : 0 < len.toNat) (hmax : len.toNat ≤ 992)
    (hfits : offset.toNat + len.toNat ≤ x.total) : Ends (.blockRead r handle offset len) s (fun t =>
      t = s.on (fun c => c.send (.result r.sess.val 0 0 rcOK ((x.buf.drop offset.toNat).take len.toNat)))) := by
  have hmove : s.chip.blockMove r.sess.val se { op := opBlockRead, handle := handle.toNat, off := offset.toNat, len := len.toNat } =
      (s.chip, { code := rcOK, data := (x.buf.drop offset.toNat).take len.toNat, handle := handle.toNat, off := offset.toNat }) := by
    simp only [Chip.blockMove, hopen, hread]
    rw [if_neg (by simp; omega), if_neg (by omega), if_neg (by simp [opBlockRead, opBlockWrite]), if_pos trivial]
  refine ⟨_, rfl, ?_⟩
  have hop := (State.dictOp_blockRead s r.sess.val se r.part.toNat handle.toNat offset.toNat len.toNat).trans
    (congrArg s.onDict hmove)
  exact State.dictCmd_result hsess hop

theorem blockWrite_ends {offset : W32} {data : List Byte} (hwrite : x.write = true) (hpos : 0 < data.length) (hmax : data.length ≤ 992)
    (hfits : offset.toNat + data.length ≤ x.total) : Ends (.blockWrite r handle offset data) s (fun t =>
      t.chip.out.getLast? = some (.result r.sess.val 0 0 rcOK []) ∧ t.mem = s.mem ∧
      (Tbl.find t.chip.sess r.sess.val).bind (fun e => Tbl.find e.blocks handle.toNat) =
        some (x.placed offset.toNat data)) := by
  have hmove : s.chip.blockMove r.sess.val se
      { op := opBlockWrite, handle := handle.toNat, off := offset.toNat, len := data.length, data := data } =
      (s.chip.setSess r.sess.val { se with blocks := Tbl.put se.blocks handle.toNat (x.placed offset.toNat data) },
       { code := rcOK, handle := handle.toNat, off := offset.toNat }) := by
    simp only [Chip.blockMove, hopen]
    rw [if_neg (by simp only [Bool.or_eq_true, decide_eq_true_eq]; omega), if_neg (by omega), if_neg (by simp [hwrite]), if_neg (by decide)]
    rfl
  have hop := (State.dictOp_blockWrite s r.sess.val se r.part.toNat handle.toNat offset.toNat data.length data).trans
    (congrArg s.onDict hmove)
  refine ⟨_, (congrArg Host.Outcome.next (State.dictCmd_result hsess hop) :), List.getLast?_concat, rfl, ?_⟩
  exact (congrArg (Option.bind · _) (Tbl.find_put_same ..)).trans (Tbl.find_put_same ..)

/-! ### The end of a transfer (R361) -/

theorem blockCommit_whole (hwrite : x.write = true) (hwhole : x.complete = true) :
    let se' := { se with blocks := Tbl.del se.blocks handle.toNat }
    let y := (s.on (fun c => c.setSess r.sess.val se')).write1 r.sess.val se' x.part x.idx x.sub x.buf (effOf r.sess.val se' x.idx x.sub)
    Ends (.blockCommit r handle) s (fun t => t = y.1.on (fun c => c.result r.sess.val 0 0 y.2 [])) := by
  intro se' y
  have hop : s.dictOp r.sess.val se r.part.toNat { op := opCommit, handle := handle.toNat } =
      (y.1, DRec.fail { op := opCommit, handle := handle.toNat } y.2) := by
    rw [State.dictOp_commit]
    simp only [State.blockCommit, hopen, hwrite, hwhole]
    rfl
  refine ⟨_, (congrArg Host.Outcome.next (State.dictCmd_result hsess hop) :), ?_⟩
  have htold : DRec.told { op := opCommit, handle := handle.toNat } (DRec.fail { op := opCommit, handle := handle.toNat } y.2) = [] := by
    unfold DRec.told
    split <;> rfl
  rw [htold]
  rfl

theorem blockCommit_unfinished (hwrite : x.write = true) (hpart : x.complete = false) : Ends (.blockCommit r handle) s (fun t =>
    t.chip.out.getLast? = some (.result r.sess.val 0 0 rcIncomplete []) ∧
    (Tbl.find t.chip.sess r.sess.val).bind (fun e => Tbl.find e.blocks handle.toNat) = some x ∧ t.mem = s.mem) := by
  have hop : s.dictOp r.sess.val se r.part.toNat { op := opCommit, handle := handle.toNat } =
      (s, DRec.fail { op := opCommit, handle := handle.toNat } rcIncomplete) := by
    rw [State.dictOp_commit]
    simp only [State.blockCommit, hopen, hwrite, hpart]
    rfl
  obtain ⟨hout, hsame, hmem⟩ := dictCmd_refused hsess (by decide) (by decide) hop
  refine ⟨_, rfl, hout, ?_, hmem⟩
  have hfind : Tbl.find (s.dictCmd r { op := opCommit, handle := handle.toNat }).chip.sess r.sess.val = some se := by rw [hsame, hsess]
  exact (congrArg (Option.bind · _) hfind).trans hopen

theorem blockClose_ends : Ends (.blockClose r handle) s (fun t =>
    t = (s.on (fun c => c.setSess r.sess.val { se with blocks := Tbl.del se.blocks handle.toNat })).on
      (fun c => c.send (.result r.sess.val 0 0 rcOK []))) := by
  have hclose : s.chip.blockClose r.sess.val se { op := opClose, handle := handle.toNat } =
      (s.chip.setSess r.sess.val { se with blocks := Tbl.del se.blocks handle.toNat },
        DRec.fail { op := opClose, handle := handle.toNat } rcOK) := by
    simp only [Chip.blockClose, hopen]
  have hop := (State.dictOp_close s r.sess.val se r.part.toNat handle.toNat).trans (congrArg s.onDict hclose)
  exact ⟨_, rfl, State.dictCmd_result hsess hop⟩

theorem blockIdleTimeout_ends : Ends (.blockIdleTimeout r.sess handle) s (fun t =>
    t = (s.on (fun c => c.setSess r.sess.val { se with blocks := Tbl.del se.blocks handle.toNat })).on
      (fun c => c.bump Obj.CNT_BLOCK_DISCARDED)) := by
  refine ⟨_, rfl, ?_⟩
  simp only [hsess, hopen, State.on]

end

end

/-- Settles O42. -/
theorem blockTransfers : Obligations.BlockTransfers := by
  unfold Obligations.BlockTransfers
  intro r s se hsess slot replied
  refine ⟨fun index sub => ?_, fun handle x hopen => ?_⟩
  · intro opened
    exact ⟨fun o inst b hreach hvalue => ⟨blockOpenRead_opened hsess hreach hvalue, blockOpenRead_full hsess hreach hvalue⟩,
      fun total o inst hreach => ⟨blockOpenWrite_opened hsess hreach, blockOpenWrite_full hsess hreach⟩⟩
  · intro now
    refine ⟨fun offset len => blockRead_ends hsess hopen, fun offset data => blockWrite_ends hsess hopen, ?_⟩
    exact ⟨blockCommit_whole hsess hopen, blockCommit_unfinished hsess hopen, blockClose_ends hsess hopen, blockIdleTimeout_ends hsess hopen⟩

end Sys2Proof.Machine
end

section
/-! PROOF. Opening a session, its proof, the end of a pending open, and the two ends of a session (R333, R334, R452). -/
namespace Sys2Proof.Machine

/-! ### What was sent stays sent -/

theorem Chip.mem_out_onStream {c : Chip} {o : Out} (h : o ∈ c.out) (k : Nat) (e : EvRec) : o ∈ (c.onStream k e).out := by
  unfold Chip.onStream
  extract_lets st e' evs c1
  refine List.foldlRecOn (motive := fun d : Chip => o ∈ d.out) c1.sess _ h fun d hd p _ => ?_
  split
  · exact List.mem_append_left _ hd
  · exact hd

theorem Chip.mem_out_raise {c : Chip} {o : Out} (h : o ∈ c.out) (ty part : Nat) (fs : List (Nat × Nat)) : o ∈ (c.raise ty part fs).out := by
  unfold Chip.raise
  extract_lets e c1
  have hpart : o ∈ c1.out := by
    unfold c1
    split
    · exact Chip.mem_out_onStream h part e
    · exact h
  obtain ⟨_, _, hrecorded, -⟩ := (c1.onStream 8 e).record_shape e
  rw [hrecorded]
  exact Chip.mem_out_onStream hpart 8 e

/-! ### A refusal (R452) -/

/-- A refused open or proof is counted; sessions, pending opens and what was sent stay. -/
theorem Chip.refuseOpen_spec (c : Chip) : c.refuseOpen.opens = c.opens ∧ c.refuseOpen.sess = c.sess ∧
    c.refuseOpen.reg Obj.CNT_SESSION_REFUSED = (c.reg Obj.CNT_SESSION_REFUSED + 1) % 2 ^ 64 ∧ ∀ o ∈ c.out, o ∈ c.refuseOpen.out := by
  have hcount : (c.bump Obj.CNT_SESSION_REFUSED).reg Obj.CNT_SESSION_REFUSED = (c.reg Obj.CNT_SESSION_REFUSED + 1) % 2 ^ 64 :=
    Chip.reg_setReg_same ..
  unfold Chip.refuseOpen
  extract_lets c1
  split
  · obtain ⟨d, hd⟩ : ∃ d : Chip, d = { c1 with refusedAt := some c1.raw } := ⟨_, rfl⟩
    have hreg : d.reg Obj.CNT_SESSION_REFUSED = c1.reg Obj.CNT_SESSION_REFUSED := by rw [hd]; rfl
    rw [← hd]
    refine ⟨(Chip.raise_opens ..).trans (by rw [hd]; rfl), (Chip.raise_sess ..).trans (by rw [hd]; rfl), ?_, fun o ho => ?_⟩
    · exact (Chip.raise_reg_of_lt _ _ _ _ (by decide)).trans (hreg.trans hcount)
    · refine Chip.mem_out_raise ?_ ..
      rw [hd]
      exact ho
  · exact ⟨rfl, rfl, hcount, fun o ho => ho⟩

/-! ### SESSION_OPEN (R452, Table 20.6) -/

theorem execSessionOpen_on {src : W64} {m : List Byte} {s : State} (hup : s.chip.vctUp = true) (hty : msgType m = vctOpen) :
    exec (.sessionOpen src m) s = .next (s.on (fun _ =>
      if !msgOk m then s.chip.bump Obj.CNT_VCT_MALFORMED else s.chip.sessOpen src.toNat (msgPayload m))) := by
  change Host.Outcome.next (s.on _) = _
  simp only [State.on, hup, hty, bne_self_eq_false, Bool.not_true, Bool.or_self, Bool.false_eq_true, if_false]

/-- The RESULT that an open is answered with. -/
def Chip.openAnswer (c : Chip) (p : List Byte) : Nat :=
  c.openResult p (fitTo 56 (Config.x448 (fitTo 56 (Config.entropy c.fresh 56)) (p.take 56)))

theorem ite_lt {p : Prop} [Decidable p] {a b n : Nat} (ha : a < n) (hb : b < n) : (if p then a else b) < n := by
  split <;> assumption

theorem Chip.openResult_lt (c : Chip) (p z : List Byte) : c.openResult p z < 256 := by
  have hlimits : ∀ cls part, c.sessLimits cls part < 256 := fun cls part =>
    ite_lt (by decide) (ite_lt (by decide) (by decide))
  have hlast : ∀ cls part, (if c.sessLimits cls part != 0 then c.sessLimits cls part
      else if c.opens.length ≥ 16 then 6 else if allZero z then 7 else 0) < 256 := fun cls part =>
    ite_lt (hlimits cls part) (ite_lt (by decide) (ite_lt (by decide) (by decide)))
  unfold Chip.openResult
  exact ite_lt (by decide) (ite_lt (by decide) (ite_lt (by decide) (ite_lt (by decide) (ite_lt (by decide)
    (ite_lt (by decide) (hlast _ _))))))

/-- RESULT stands behind the public key and the two random values of a challenge. -/
theorem byteAt_challenge (pub rnd own rest : List Byte) {res : Nat} (hpub : pub.length = 56) (hres : res < 256) :
    byteAt (pub ++ fitTo 32 rnd ++ fitTo 32 own ++ leBytes 1 res ++ rest) 0x78 = res := by
  have hhead : (pub ++ fitTo 32 rnd ++ fitTo 32 own).length = 0x78 := by simp [hpub]
  rw [byteAt, List.append_assoc, List.getD_append_right _ _ _ _ (by omega), hhead]
  simp [leBytes]
  omega

/-- The module after it has answered an open with a challenge. -/
def Chip.challenged (c : Chip) (src : Nat) (ch : List Byte) : Chip :=
  ({ c with fresh := c.fresh + 1 + 1 }).send (.vct src 0 vctChallenge 0 0 0 0 0 ch)

/-- The open that waits for its proof. -/
def openOf (p ch priv : List Byte) : PendOpen :=
  { openMsg := p, challenge := ch, priv := priv, cls := byteAt p 0x58, part := byteAt p 0x59, key := byteAt p 0x5A }

/-- An open is answered with a challenge that carries its RESULT, and is then refused or waits for its proof. -/
theorem Chip.sessOpen_spec (c : Chip) (src : Nat) (p : List Byte) : ∃ ch priv, byteAt ch 0x78 = c.openAnswer p ∧
    c.sessOpen src p = if c.openAnswer p != 0 then (c.challenged src ch).refuseOpen
      else { c.challenged src ch with opens := c.opens ++ [openOf p ch priv] } := by
  have hanswer : ({ c with fresh := c.fresh + 1 + 1 } : Chip).openResult p
      (fitTo 56 (Config.x448 (fitTo 56 (Config.entropy c.fresh 56)) (p.take 56))) = c.openAnswer p := rfl
  unfold Chip.sessOpen
  dsimp only [Chip.tick1]
  rw [hanswer]
  have hpub : (if c.openAnswer p = 0 then fitTo 56 (Config.x448Public (fitTo 56 (Config.entropy c.fresh 56))) else zeros 56).length = 56 := by
    split
    · exact length_fitTo ..
    · exact List.length_replicate
  refine ⟨_, _, ?_, rfl⟩
  rw [List.append_assoc]
  exact byteAt_challenge _ _ _ _ hpub (c.openResult_lt ..)

section
variable {src : W64} {m : List Byte} {s : State} (hup : s.chip.vctUp = true) (hty : msgType m = vctOpen)
include hup hty

theorem sessionOpen_answered (hok : msgOk m = true) : Ends (.sessionOpen src m) s (fun t => t.mem = s.mem ∧ t.chip.sess = s.chip.sess ∧
    ∃ ch, Out.vct src.toNat 0 vctChallenge 0 0 0 0 0 ch ∈ t.chip.out ∧ byteAt ch 0x78 = s.chip.openAnswer (msgPayload m) ∧
      (s.chip.openAnswer (msgPayload m) = 0 → t.chip.regs = s.chip.regs ∧ ∃ o, t.chip.opens = s.chip.opens ++ [o] ∧
        o.openMsg = msgPayload m ∧ o.challenge = ch ∧ o.cls = byteAt (msgPayload m) 0x58 ∧ o.part = byteAt (msgPayload m) 0x59 ∧
        o.key = byteAt (msgPayload m) 0x5A) ∧
      (s.chip.openAnswer (msgPayload m) ≠ 0 → t.chip.opens = s.chip.opens ∧
        t.chip.reg Obj.CNT_SESSION_REFUSED = (s.chip.reg Obj.CNT_SESSION_REFUSED + 1) % 2 ^ 64)) := by
  obtain ⟨ch, priv, hresult, hopen⟩ := s.chip.sessOpen_spec src.toNat (msgPayload m)
  have hsent : Out.vct src.toNat 0 vctChallenge 0 0 0 0 0 ch ∈ (s.chip.challenged src.toNat ch).out :=
    List.mem_append_right _ (List.mem_singleton_self _)
  refine ⟨_, execSessionOpen_on hup hty, ?_⟩
  rw [hok, if_neg (by decide), hopen]
  by_cases hzero : s.chip.openAnswer (msgPayload m) = 0
  · rw [if_neg (by simp [hzero])]
    exact ⟨rfl, rfl, ch, hsent, hresult, fun _ => ⟨rfl, _, rfl, rfl, rfl, rfl, rfl, rfl⟩, fun h => absurd hzero h⟩
  · rw [if_pos (by simp [hzero])]
    obtain ⟨hopens, hsess, hcount, hout⟩ := (s.chip.challenged src.toNat ch).refuseOpen_spec
    exact ⟨rfl, hsess, ch, hout _ hsent, hresult, fun h => absurd h hzero, fun _ => ⟨hopens, hcount⟩⟩

theorem sessionOpen_malformed (hbad : msgOk m = false) : Ends (.sessionOpen src m) s (fun t =>
    t = s.on (fun c => c.bump Obj.CNT_VCT_MALFORMED)) := by
  refine ⟨_, execSessionOpen_on hup hty, ?_⟩
  rw [hbad]
  rfl

end

/-! ### SESSION_PROOF (R452) -/

section
variable {src : W64} {m : List Byte} {o : PendOpen} {s : State} (hup : s.chip.vctUp = true) (hty : msgType m = vctProof)
  (hok : msgOk m = true) (hwaits : s.chip.opens.find? (fun o => slice o.challenge 0x38 32 = (msgPayload m).take 32) = some o)
include hup hty hok hwaits

/-- A proof of a pending open is judged by its proof, and then by the limits. -/
theorem execSessionProof_on : exec (.sessionProof src m) s = .next (s.on (fun _ =>
    if !s.chip.proofOk o (msgPayload m) then s.chip.refuseOpen
    else
      let c := { s.chip with opens := s.chip.opens.filter (fun x => x.challenge != o.challenge) }
      if c.sessLimits o.cls o.part != 0 then c.refuseOpen else c.sessAccept o (msgPayload m) src.toNat)) := by
  change Host.Outcome.next (s.on _) = _
  simp only [State.on, hup, hty, hok, Chip.sessProof, hwaits, bne_self_eq_false, Bool.not_true, Bool.or_self, Bool.false_eq_true, if_false]

theorem sessionProof_accepted {k : Nat} (hvalid : s.chip.proofOk o (msgPayload m) = true) (hroom : s.chip.sessLimits o.cls o.part = 0)
    (hfree : (List.range 64).find? (fun k => (Tbl.find s.chip.sess k).isNone) = some k) :
    Ends (.sessionProof src m) s (fun t => t.mem = s.mem ∧ t.chip.opens = s.chip.opens.filter (fun x => x.challenge != o.challenge) ∧
      t.chip.regs = s.chip.regs ∧ t.chip.nextSess = max 1 (inc32 s.chip.nextSess) ∧
      t.chip.out.getLast? = some (.vct src.toNat s.chip.nextSess vctAccept 0 0 0 0 0 (leBytes 4 s.chip.nextSess)) ∧
      ∃ se, Tbl.find t.chip.sess k = some se ∧ se.id = s.chip.nextSess ∧ se.cls = o.cls ∧ se.part = (if o.cls = 1 then o.part else 0xFF) ∧
        se.addr = src.toNat ∧ se.last = 0) := by
  refine ⟨_, execSessionProof_on hup hty hok hwaits, ?_⟩
  obtain ⟨c, hc⟩ : ∃ c : Chip, c = { s.chip with opens := s.chip.opens.filter (fun x => x.challenge != o.challenge) } := ⟨_, rfl⟩
  have hlimits : c.sessLimits o.cls o.part = 0 := by rw [hc]; exact hroom
  have hslot : (List.range 64).find? (fun k => (Tbl.find c.sess k).isNone) = some k := by rw [hc]; exact hfree
  rw [hvalid, ← hc, if_neg (by decide)]
  dsimp only
  rw [hlimits, if_neg (by decide), Chip.sessAccept, hslot, hc]
  exact ⟨rfl, rfl, rfl, rfl, List.getLast?_concat, _, Tbl.find_put_same .., rfl, rfl, rfl, rfl, rfl⟩

theorem sessionProof_refused (hbad : s.chip.proofOk o (msgPayload m) = false) : Ends (.sessionProof src m) s (fun t =>
    t.mem = s.mem ∧ t.chip.opens = s.chip.opens ∧ t.chip.sess = s.chip.sess ∧
    t.chip.reg Obj.CNT_SESSION_REFUSED = (s.chip.reg Obj.CNT_SESSION_REFUSED + 1) % 2 ^ 64) := by
  refine ⟨_, execSessionProof_on hup hty hok hwaits, ?_⟩
  rw [hbad, if_pos (by decide)]
  obtain ⟨hopens, hsess, hcount, -⟩ := s.chip.refuseOpen_spec
  exact ⟨rfl, hopens, hsess, hcount⟩

end

theorem sessionProofTimeout_ends (which : Fin 16) (s : State) : Ends (.sessionProofTimeout which) s (fun t =>
    t.chip.opens = s.chip.opens.eraseIdx which.val ∧ t.chip.sess = s.chip.sess ∧ t.chip.out = s.chip.out ∧ t.mem = s.mem) :=
  ⟨_, rfl, rfl, rfl, rfl, rfl⟩

/-! ### The end of a session (R334) -/

/-- A slot without its session and without the objects that were the session's own. -/
def Chip.withoutSess (c : Chip) (k : Nat) : Chip :=
  { c with sess := Tbl.del c.sess k,
           regs := Tbl.dropKeys c.regs (fun key => key / 2 ^ 24 = sessInst k),
           blobs := Tbl.dropKeys c.blobs (fun key => key / 2 ^ 24 = sessInst k) }

theorem Chip.endSess_open {c : Chip} {k : Nat} {se : Sess} (hsess : Tbl.find c.sess k = some se) :
    c.endSess k = ((c.count modInst Obj.CNT_BLOCK_DISCARDED se.blocks.length).raise 0x0102 se.owner []).withoutSess k := by
  rw [Chip.endSess, hsess]
  rfl

theorem Chip.endSess_spec {c : Chip} {k : Nat} {se : Sess} (hsess : Tbl.find c.sess k = some se) :
    (c.endSess k).sess = Tbl.del c.sess k ∧ (c.endSess k).said 0x0102 se.owner [] ∧
    ∀ key, key < 2 ^ 24 → Tbl.find (c.endSess k).regs (ikey (sessInst k) key) = none := by
  rw [Chip.endSess_open hsess]
  refine ⟨congrArg (Tbl.del · k) (Chip.raise_sess ..), Chip.raise_said .., fun key hkey => ?_⟩
  have hown : ikey (sessInst k) key / 2 ^ 24 = sessInst k := by
    unfold ikey
    omega
  unfold Chip.withoutSess
  rw [Tbl.find_dropKeys, if_pos (decide_eq_true hown)]

theorem vctIdleTimeout_ends {k : Fin 64} {se : Sess} {s : State} (hsess : Tbl.find s.chip.sess k.val = some se) :
    Ends (.vctIdleTimeout k) s (fun t => t.chip.sess = Tbl.del s.chip.sess k.val ∧ t.chip.said 0x0102 se.owner [] ∧
      (∀ key, key < 2 ^ 24 → Tbl.find t.chip.regs (ikey (sessInst k.val) key) = none) ∧ t.mem = s.mem) := by
  obtain ⟨hgone, hsaid, hregs⟩ := Chip.endSess_spec hsess
  exact ⟨_, rfl, hgone, hsaid, hregs, rfl⟩

theorem sessionClose_ends {k : Fin 64} {se : Sess} {s : State} {src : W64} {m : List Byte} {c : Chip}
    (hauth : s.chip.authentic vctClose src.toNat m = .ok (k.val, c)) (hsess : Tbl.find c.sess k.val = some se) :
    Ends (.sessionClose src m) s (fun t => t.chip.sess = Tbl.del c.sess k.val ∧ t.chip.said 0x0102 se.owner [] ∧
      (∀ key, key < 2 ^ 24 → Tbl.find t.chip.regs (ikey (sessInst k.val) key) = none) ∧ t.mem = s.mem) := by
  obtain ⟨hgone, hsaid, hregs⟩ := Chip.endSess_spec hsess
  refine ends_on (c := c.endSess k.val) rfl (by rw [hauth]) fun t hchip hmem => ?_
  rw [hchip]
  exact ⟨hgone, hsaid, hregs, hmem⟩

/-- Settles O39. -/
theorem sessionMessages : Obligations.SessionMessages := by
  unfold Obligations.SessionMessages
  refine ⟨fun src m s hup => ?_, sessionProofTimeout_ends, fun k se s => ?_⟩
  · intro c p
    refine ⟨fun hty => ⟨sessionOpen_answered hup hty, sessionOpen_malformed hup hty⟩, fun hty hok o hwaits => ?_⟩
    exact ⟨fun k => sessionProof_accepted hup hty hok hwaits, sessionProof_refused hup hty hok hwaits⟩
  · intro ended
    exact ⟨fun src m c => sessionClose_ends, vctIdleTimeout_ends⟩

end Sys2Proof.Machine
end

section
/-! PROOF. Requests in sequence, fetched events, and events that are acknowledged or sent again (R335, R336, R338, R339,
Table 13.4). -/
namespace Sys2Proof.Machine

/-! ### The answer to a request that was performed -/

/-- A session that keeps a reply, the last 64 being kept. -/
def Sess.replied (se : Sess) (seq st : Nat) (b : List Byte) : Sess :=
  { se with replies := (se.replies ++ [(seq, st, b)]).drop ((se.replies ++ [(seq, st, b)]).length - 64) }

theorem Sess.mem_replied (se : Sess) (seq st : Nat) (b : List Byte) : (seq, st, b) ∈ (se.replied seq st b).replies := by
  unfold Sess.replied
  rw [List.drop_append_of_le_length (by simp only [List.length_append, List.length_singleton]; omega)]
  exact List.mem_append_right _ (List.mem_singleton_self _)

/-- The reply is kept and sent. -/
def State.answered (s : State) (k seq st : Nat) (b : List Byte) (se : Sess) : State :=
  s.on (fun c => (c.setSess k (se.replied seq st b)).reply se 0 seq st b)

/-- What a message performs: the operations of a request, or the events that it asks for. -/
def State.performed (s : State) (k ty : Nat) (se : Sess) (p : List Byte) : State × Nat × List Byte :=
  if ty = vctRequest then s.dictRequest k se p
  else
    let x := s.chip.fetchEvents se p
    ({ s with chip := x.1 }, x.2.1, x.2.2)

/-- A message that is next in sequence is performed on the session that has taken its sequence. -/
theorem State.process_answered {s s2 : State} {k ty seq st : Nat} {p b : List Byte} {se se2 : Sess}
    (hsess : Tbl.find s.chip.sess k = some se)
    (hwork : (s.on (fun c => c.setSess k { se with last := seq })).performed k ty { se with last := seq } p = (s2, st, b))
    (hafter : Tbl.find s2.chip.sess k = some se2) : s.process k ty seq p = s2.answered k seq st b se2 := by
  have hwork' : (if ty = vctRequest then (s.on (fun c => c.setSess k { se with last := seq })).dictRequest k { se with last := seq } p
      else (match (s.on (fun c => c.setSess k { se with last := seq })).chip.fetchEvents { se with last := seq } p with
        | (c, st, out) => ({ s.on (fun c => c.setSess k { se with last := seq }) with chip := c }, st, out))) = (s2, st, b) := hwork
  rw [State.process, hsess]
  dsimp only
  rw [hwork']
  simp only [hafter, State.on, State.answered]
  rfl

theorem State.processOn_idle {s : State} {k : Nat} {se : Sess} (hsess : Tbl.find s.chip.sess k = some se) (hidle : se.buffered = [])
    (fuel : Nat) : State.processOn k fuel s = s := by
  cases fuel with
  | zero => rfl
  | succ fuel =>
    rw [State.processOn, hsess]
    simp only [hidle, List.find?_nil]

theorem State.answered_sess (s : State) (k seq st : Nat) (b : List Byte) (se : Sess) :
    Tbl.find (s.answered k seq st b se).chip.sess k = some (se.replied seq st b) := Tbl.find_put_same ..

/-! ### A sequence (Table 13.4) -/

section
variable {s : State} {k ty seq : Nat} {p : List Byte} {se : Sess} (hsess : Tbl.find s.chip.sess k = some se)
include hsess

omit hsess in
theorem Tbl.get_of_find {α : Type} {t : Tbl α} {i : Nat} {d a : α} (h : Tbl.find t i = some a) : Tbl.get t d i = a := by
  rw [Tbl.get, h]
  rfl

/-- A session that has paid for a request (R335). -/
def Sess.charged (se : Sess) : Sess := { se with credit := se.credit - 1000000 }

/-- The next message, with credit for it, is performed and paid for. -/
theorem State.sequence_next (hnext : (seq + 2 ^ 32 - se.last) % 2 ^ 32 = 1) (hcredit : 1000000 ≤ se.credit) (hidle : se.buffered = []) :
    s.sequence k ty seq p =
      State.processOn k 17 ((s.on (fun c => c.setSess k se.charged)).process k ty seq p) := by
  have hnew : se.buffered.any (fun b => b.1 = seq) = false := by rw [hidle, List.any_nil]
  rw [State.sequence, Tbl.get_of_find hsess]
  dsimp only
  rw [hnext, if_neg (by decide), if_neg (by decide), hnew, if_neg (by decide), if_neg (by omega), if_pos rfl]
  rfl

theorem State.sequence_repeated {st : Nat} {b : List Byte} (hlast : (seq + 2 ^ 32 - se.last) % 2 ^ 32 = 0)
    (hkept : se.replies.find? (fun r => r.1 = seq) = some (seq, st, b)) :
    s.sequence k ty seq p = s.on (fun c => (c.bump Obj.CNT_VCT_DUP).reply se 2 seq st b) := by
  rw [State.sequence, Tbl.get_of_find hsess]
  simp only [hlast, hkept]
  rw [if_pos (by decide)]

theorem State.sequence_window (hlow : 18 ≤ (seq + 2 ^ 32 - se.last) % 2 ^ 32) (hhigh : (seq + 2 ^ 32 - se.last) % 2 ^ 32 < 2 ^ 31) :
    s.sequence k ty seq p = s.on (fun c => c.reply se 0 seq statusWindow []) := by
  rw [State.sequence, Tbl.get_of_find hsess]
  dsimp only
  rw [if_neg (by simp only [Bool.or_eq_true, decide_eq_true_eq]; omega), if_pos hlow]
  simp only [if_pos hhigh]

theorem State.sequence_busy (hpos : 0 < (seq + 2 ^ 32 - se.last) % 2 ^ 32) (hnear : (seq + 2 ^ 32 - se.last) % 2 ^ 32 < 18)
    (hcredit : se.credit < 1000000) (hidle : se.buffered = []) :
    s.sequence k ty seq p = s.on (fun c => (c.bump Obj.CNT_VCT_BUSY).reply se 0 seq statusBusy []) := by
  rw [State.sequence, Tbl.get_of_find hsess]
  simp only [hidle, List.any_nil]
  rw [if_neg (by simp only [Bool.or_eq_true, decide_eq_true_eq]; omega), if_neg (by omega), if_neg (by decide), if_pos hcredit]

end

/-! ### REQUEST and EVENT_FETCH (R336, R339) -/

theorem State.arrive_authentic {s : State} {ty k : Nat} {src : W64} {m : List Byte} {c : Chip}
    (hauth : s.chip.authentic ty src.toNat m = .ok (k, c)) :
    s.arrive ty src m = State.sequence { s with chip := c } k ty (msgSeq m) (msgPayload m) := by
  rw [State.arrive, hauth]

/-- A session that has taken a sequence and paid for it. -/
def Sess.paid (se : Sess) (seq : Nat) : Sess := { se.charged with last := seq }

theorem Sess.paid_eq (se : Sess) (seq : Nat) : se.paid seq = { se with credit := se.credit - 1000000, last := seq } := by
  rw [Sess.paid, Sess.charged]

theorem Sess.paid_addr (se : Sess) (seq : Nat) : (se.paid seq).addr = se.addr := by rw [Sess.paid_eq]

theorem Sess.paid_id (se : Sess) (seq : Nat) : (se.paid seq).id = se.id := by rw [Sess.paid_eq]

theorem Sess.paid_cls (se : Sess) (seq : Nat) : (se.paid seq).cls = se.cls := by rw [Sess.paid_eq]

theorem Sess.paid_part (se : Sess) (seq : Nat) : (se.paid seq).part = se.part := by rw [Sess.paid_eq]

theorem Sess.paid_buffered (se : Sess) (seq : Nat) : (se.paid seq).buffered = se.buffered := by rw [Sess.paid_eq]

theorem Sess.paid_credit (se : Sess) (seq : Nat) : (se.paid seq).credit = se.credit - 1000000 := by rw [Sess.paid_eq]

theorem Chip.setSess_setSess (c : Chip) (k : Nat) (a b : Sess) : (c.setSess k a).setSess k b = c.setSess k b := by
  unfold Chip.setSess
  dsimp only
  rw [Tbl.put_put]

/-- A message that is next in sequence, with credit: what it gives is answered, and the session keeps the reply. -/
theorem State.sequence_answered {s s2 : State} {k ty seq st : Nat} {p b : List Byte} {se se2 : Sess}
    (hsess : Tbl.find s.chip.sess k = some se) (hnext : (seq + 2 ^ 32 - se.last) % 2 ^ 32 = 1) (hcredit : 1000000 ≤ se.credit)
    (hidle : se.buffered = [])
    (hwork : State.performed { s with chip := s.chip.setSess k (se.paid seq) } k ty (se.paid seq) p = (s2, st, b))
    (hafter : Tbl.find s2.chip.sess k = some se2) (hidle2 : se2.buffered = []) :
    s.sequence k ty seq p = s2.answered k seq st b se2 := by
  have hpaid : (s.on (fun c => c.setSess k se.charged)).on (fun c => c.setSess k (se.paid seq)) =
      { s with chip := s.chip.setSess k (se.paid seq) } :=
    congrArg (fun c => { s with chip := c }) (s.chip.setSess_setSess k se.charged (se.paid seq))
  rw [State.sequence_next hsess hnext hcredit hidle, State.process_answered (se := se.charged) (Tbl.find_put_same ..) ((congrArg
    (State.performed · k ty (se.paid seq) p) hpaid).trans hwork) hafter]
  exact State.processOn_idle (s2.answered_sess ..) hidle2 17

theorem State.answered_out (s : State) (k seq st : Nat) (b : List Byte) (se : Sess) :
    (s.answered k seq st b se).chip.out = s.chip.out ++ [.vct se.addr se.id vctReply 0 0 seq st 0 b] := rfl

section
variable {s : State} {src : W64} {m : List Byte} {k : Nat} {c : Chip} {se : Sess} (hsess : Tbl.find c.sess k = some se)
include hsess

theorem request_performed {s2 : State} {st : Nat} {b : List Byte} {se2 : Sess}
    (hauth : s.chip.authentic vctRequest src.toNat m = .ok (k, c)) (hnext : (msgSeq m + 2 ^ 32 - se.last) % 2 ^ 32 = 1)
    (hcredit : 1000000 ≤ se.credit) (hidle : se.buffered = [])
    (hdict : State.dictRequest { s with chip := c.setSess k (se.paid (msgSeq m)) } k (se.paid (msgSeq m)) (msgPayload m) = (s2, st, b))
    (hafter : Tbl.find s2.chip.sess k = some se2) (haddr : se2.addr = se.addr) (hid : se2.id = se.id) (hidle2 : se2.buffered = []) :
    Ends (.request src m) s (fun t => t.chip.out.getLast? = some (.vct se.addr se.id vctReply 0 0 (msgSeq m) st 0 b) ∧ t.mem = s2.mem ∧
      t.chip.regs = s2.chip.regs ∧ ∃ e, Tbl.find t.chip.sess k = some e ∧ (msgSeq m, st, b) ∈ e.replies) := by
  refine ⟨_, rfl, ?_⟩
  rw [State.arrive_authentic hauth, State.sequence_answered (s := { s with chip := c }) hsess hnext hcredit hidle
    ((if_pos rfl).trans hdict) hafter hidle2]
  refine ⟨?_, rfl, rfl, _, s2.answered_sess .., se2.mem_replied ..⟩
  rw [State.answered_out, List.getLast?_concat, haddr, hid]

theorem request_repeated {st : Nat} {b : List Byte} (hauth : s.chip.authentic vctRequest src.toNat m = .ok (k, c))
    (hlast : (msgSeq m + 2 ^ 32 - se.last) % 2 ^ 32 = 0) (hkept : se.replies.find? (fun r => r.1 = msgSeq m) = some (msgSeq m, st, b)) :
    Ends (.request src m) s (fun t => t.chip.out.getLast? = some (.vct se.addr se.id vctReply 2 0 (msgSeq m) st 0 b) ∧
      t.chip.reg Obj.CNT_VCT_DUP = (c.reg Obj.CNT_VCT_DUP + 1) % 2 ^ 64 ∧ t.chip.sess = c.sess ∧ t.mem = s.mem) := by
  refine ⟨_, rfl, ?_⟩
  rw [State.arrive_authentic hauth, State.sequence_repeated (s := { s with chip := c }) hsess hlast hkept]
  exact ⟨List.getLast?_concat, Chip.reg_setReg_same .., rfl, rfl⟩

theorem request_ahead (hauth : s.chip.authentic vctRequest src.toNat m = .ok (k, c))
    (hlow : 18 ≤ (msgSeq m + 2 ^ 32 - se.last) % 2 ^ 32) (hhigh : (msgSeq m + 2 ^ 32 - se.last) % 2 ^ 32 < 2 ^ 31) :
    Ends (.request src m) s (fun t => t.chip.out.getLast? = some (.vct se.addr se.id vctReply 0 0 (msgSeq m) statusWindow 0 []) ∧
      t.chip.sess = c.sess ∧ t.mem = s.mem) := by
  refine ⟨_, rfl, ?_⟩
  rw [State.arrive_authentic hauth, State.sequence_window (s := { s with chip := c }) hsess hlow hhigh]
  exact ⟨List.getLast?_concat, rfl, rfl⟩

theorem request_unpaid (hauth : s.chip.authentic vctRequest src.toNat m = .ok (k, c))
    (hpos : 0 < (msgSeq m + 2 ^ 32 - se.last) % 2 ^ 32) (hnear : (msgSeq m + 2 ^ 32 - se.last) % 2 ^ 32 < 18)
    (hcredit : se.credit < 1000000) (hidle : se.buffered = []) : Ends (.request src m) s (fun t =>
      t.chip.out.getLast? = some (.vct se.addr se.id vctReply 0 0 (msgSeq m) statusBusy 0 []) ∧
      t.chip.reg Obj.CNT_VCT_BUSY = (c.reg Obj.CNT_VCT_BUSY + 1) % 2 ^ 64 ∧ t.chip.sess = c.sess ∧ t.mem = s.mem) := by
  refine ⟨_, rfl, ?_⟩
  rw [State.arrive_authentic hauth, State.sequence_busy (s := { s with chip := c }) hsess hpos hnear hcredit hidle]
  exact ⟨List.getLast?_concat, Chip.reg_setReg_same .., rfl, rfl⟩

end

/-! ### Events that are fetched (R339) -/

/-- The retained events that an EVENT_FETCH names. -/
def eventsAsked (evs : List EvRec) (p : List Byte) : List EvRec :=
  evs.filter (fun e => decide ((e.seq + 2 ^ 32 - leAt p 0 4) % 2 ^ 32 < byteAt p 4))

theorem mem_eventsAsked {evs : List EvRec} {p : List Byte} {e : EvRec} (he : e ∈ evs)
    (hasked : (e.seq + 2 ^ 32 - leAt p 0 4) % 2 ^ 32 < byteAt p 4) : e ∈ eventsAsked evs p :=
  List.mem_filter.mpr ⟨he, decide_eq_true hasked⟩

/-- An event as it is sent to a session. -/
def Sess.eventOut (se : Sess) (flags : Nat) (e : EvRec) : Out := .vct se.addr se.id vctEvent flags e.seq 0 0 se.stream e.payload

theorem Chip.sendEvents (c : Chip) (se : Sess) (flags : Nat) (l : List EvRec) :
    l.foldl (fun c e => c.sendEvent se flags e) c = { c with out := c.out ++ l.map (se.eventOut flags) } := by
  induction l generalizing c with
  | nil => simp
  | cons e l ih =>
    rw [List.foldl_cons, ih, Chip.sendEvent, Chip.send, List.map_cons, List.append_assoc]
    rfl

theorem Sess.paid_eventOut (se : Sess) (seq flags : Nat) (e : EvRec) : (se.paid seq).eventOut flags e = se.eventOut flags e := by
  rw [Sess.paid_eq]
  rfl

/-! No event retained, a fetch from before the oldest, and a fetch that sends what it names. -/

theorem Chip.fetchEvents_none {c : Chip} {se : Sess} (p : List Byte) (h : c.sessEvents se = []) : c.fetchEvents se p = (c, 0, []) := by
  rw [Chip.fetchEvents, h]

section
variable {c : Chip} {se : Sess} {p : List Byte} {o : EvRec} {rest : List EvRec} (h : c.sessEvents se = o :: rest)
include h

theorem Chip.fetchEvents_old (hold : seqLe o.seq (leAt p 0 4) = false) : c.fetchEvents se p = (c, 4, leBytes 4 o.seq) := by
  rw [Chip.fetchEvents, h]
  dsimp only
  rw [hold]
  rfl

theorem Chip.fetchEvents_sent (hold : seqLe o.seq (leAt p 0 4) = true) : c.fetchEvents se p =
    ({ c with out := c.out ++ (eventsAsked (c.sessEvents se) p).map (se.eventOut 2) }, 0, []) := by
  rw [← Chip.sendEvents, eventsAsked, Chip.fetchEvents, h]
  dsimp only
  rw [hold, if_neg (by decide)]

end

/-- A fetch changes nothing but what is sent, and what it gives rests on the retained events alone. -/
theorem Chip.fetchEvents_spec (c : Chip) (se : Sess) (p : List Byte) :
    ∃ l, (c.fetchEvents se p).1 = { c with out := c.out ++ l } ∧
      ((c.fetchEvents se p).2.1 = 0 → ∀ e ∈ eventsAsked (c.sessEvents se) p, se.eventOut 2 e ∈ l) ∧
      ∀ (d : Chip) (sd : Sess), d.sessEvents sd = c.sessEvents se → (d.fetchEvents sd p).2 = (c.fetchEvents se p).2 := by
  cases hevs : c.sessEvents se with
  | nil =>
    rw [Chip.fetchEvents_none p hevs]
    exact ⟨[], by rw [List.append_nil], fun _ e he => (List.not_mem_nil he).elim, fun d sd hd => by rw [Chip.fetchEvents_none p hd]⟩
  | cons o rest =>
    cases hold : seqLe o.seq (leAt p 0 4) with
    | false =>
      rw [Chip.fetchEvents_old hevs hold]
      exact ⟨[], by rw [List.append_nil], fun hok => absurd hok (Nat.succ_ne_zero 3), fun d sd hd => by rw [Chip.fetchEvents_old hd hold]⟩
    | true =>
      rw [Chip.fetchEvents_sent hevs hold, hevs]
      exact ⟨_, rfl, fun _ e he => List.mem_map_of_mem he, fun d sd hd => by rw [Chip.fetchEvents_sent hd hold]⟩

theorem Chip.setSess_sessEvents (c : Chip) (k : Nat) (sk se : Sess) : (c.setSess k sk).sessEvents se = c.sessEvents se := rfl

/-- The retained events of a session rest on its class and its partition, and so do not change as it pays. -/
theorem Chip.sessEvents_congr (c : Chip) {se sd : Sess} (hcls : sd.cls = se.cls) (hpart : sd.part = se.part) :
    c.sessEvents sd = c.sessEvents se := by
  unfold Chip.sessEvents Sess.stream
  rw [hcls, hpart]

theorem eventFetch_ends {s : State} {src : W64} {m : List Byte} {k : Nat} {c : Chip} {se : Sess} (hsess : Tbl.find c.sess k = some se)
    (hauth : s.chip.authentic vctFetch src.toNat m = .ok (k, c)) (hnext : (msgSeq m + 2 ^ 32 - se.last) % 2 ^ 32 = 1)
    (hcredit : 1000000 ≤ se.credit) (hidle : se.buffered = []) : Ends (.eventFetch src m) s (fun t =>
      t.chip.out.getLast? = some (.vct se.addr se.id vctReply 0 0 (msgSeq m) (c.fetchEvents se (msgPayload m)).2.1 0
        (c.fetchEvents se (msgPayload m)).2.2) ∧ t.chip.regs = c.regs ∧ t.mem = s.mem ∧
      ((c.fetchEvents se (msgPayload m)).2.1 = 0 → ∀ e ∈ eventsAsked (c.sessEvents se) (msgPayload m), se.eventOut 2 e ∈ t.chip.out) ∧
      ∃ e, Tbl.find t.chip.sess k = some e ∧ e.last = msgSeq m ∧ e.credit = se.credit - 1000000) := by
  obtain ⟨c', hc'⟩ : ∃ c', c' = c.setSess k (se.paid (msgSeq m)) := ⟨_, rfl⟩
  have hevents : c'.sessEvents (se.paid (msgSeq m)) = c.sessEvents se := by
    rw [hc', Chip.setSess_sessEvents]
    exact c.sessEvents_congr (se.paid_cls _) (se.paid_part _)
  obtain ⟨l, hsent, hasked, -⟩ := c'.fetchEvents_spec (se.paid (msgSeq m)) (msgPayload m)
  obtain ⟨-, -, -, hsame⟩ := c.fetchEvents_spec se (msgPayload m)
  have hgives := hsame c' (se.paid (msgSeq m)) hevents
  rw [hevents, hgives] at hasked
  have hwork : State.performed { s with chip := c.setSess k (se.paid (msgSeq m)) } k vctFetch (se.paid (msgSeq m)) (msgPayload m) =
      ({ s with chip := { c' with out := c'.out ++ l } }, (c.fetchEvents se (msgPayload m)).2.1, (c.fetchEvents se (msgPayload m)).2.2) := by
    rw [State.performed, if_neg (by decide), ← hc']
    dsimp only
    rw [hsent, hgives]
  have hafter : Tbl.find c'.sess k = some (se.paid (msgSeq m)) := by
    rw [hc']
    exact Tbl.find_put_same ..
  refine ⟨_, rfl, ?_⟩
  rw [State.arrive_authentic hauth, State.sequence_answered (s := { s with chip := c }) hsess hnext hcredit hidle hwork hafter
    ((se.paid_buffered _).trans hidle)]
  have hregs : c'.regs = c.regs := by rw [hc']; rfl
  refine ⟨?_, hregs, rfl, fun hok e he => ?_, (se.paid (msgSeq m)).replied _ _ _, State.answered_sess .., ?_, ?_⟩
  · rw [State.answered_out, List.getLast?_concat, Sess.paid_addr, Sess.paid_id]
  · rw [State.answered_out, ← se.paid_eventOut (msgSeq m)]
    exact List.mem_append_left _ (List.mem_append_right _ (hasked hok e he))
  · rfl
  · rw [Sess.replied, Sess.paid_credit]

/-! ### Events that are acknowledged, or sent again (R338) -/

theorem eventAck_ends {s : State} {src : W64} {m : List Byte} {k : Nat} {c : Chip} {se : Sess} (hsess : Tbl.find c.sess k = some se)
    (atLimit : Bool) (hauth : s.chip.authentic vctAck src.toNat m = .ok (k, c)) (hcls : se.cls ≠ 0) (hleft : se.left = [])
    (hlast : se.acked < 2 ^ 32) (hnew : msgAck m ≠ se.acked) (hafter : seqLe se.acked (msgAck m) = true)
    (hhead : seqLe (msgAck m) (c.headOf se.stream) = true) : Ends (.eventAck src m atLimit) s (fun t => t.chip.out = c.out ∧ t.mem = s.mem ∧
      t.chip.reg (Obj.CNT_NEAR_MISS + waitVct) = (c.reg (Obj.CNT_NEAR_MISS + waitVct) + (if atLimit then 1 else 0)) % 2 ^ 64 ∧
      ∃ e, Tbl.find t.chip.sess k = some e ∧ e.acked = msgAck m ∧ ∀ x ∈ e.tries, seqLe x.1 (msgAck m) = false) := by
  have hack : msgAck m < 2 ^ 32 := leAt_lt m 0xC 4
  have hopen : decide (0 < (msgAck m + 2 ^ 32 - se.acked) % 2 ^ 32) = true := decide_eq_true (by omega)
  obtain ⟨e, he⟩ : ∃ e, e = { se with acked := msgAck m, left := [], tries := se.tries.filter (fun x => !seqLe x.1 (msgAck m)) } := ⟨_, rfl⟩
  obtain ⟨d, hd⟩ : ∃ d, d = (c.setSess k e).count modInst (Obj.CNT_LATE + waitVct) 0 := ⟨_, rfl⟩
  have hevents : c.ackEvents k (msgAck m) atLimit = d.nearMiss waitVct atLimit := by
    rw [Chip.ackEvents, hsess]
    dsimp only
    rw [if_neg (by simp [hcls, hnew, hafter, hhead]), hleft]
    change ((c.setSess k _).count modInst (Obj.CNT_LATE + waitVct) 0).nearMiss waitVct
      (atLimit && decide (0 < (msgAck m + 2 ^ 32 - se.acked) % 2 ^ 32)) = _
    rw [hopen, Bool.and_true, hd, he]
    rfl
  have hreg : d.reg (Obj.CNT_NEAR_MISS + waitVct) = c.reg (Obj.CNT_NEAR_MISS + waitVct) := by
    rw [hd]
    exact Chip.reg_setReg_other _ _ (by decide)
  have hsess' : Tbl.find d.sess k = some e := by
    rw [hd]
    exact Tbl.find_put_same ..
  have hout : d.out = c.out := by rw [hd]; rfl
  refine ends_on (c := d.nearMiss waitVct atLimit) rfl (by rw [hauth]; exact hevents) fun t hchip hmem => ?_
  rw [hchip]
  have htries : ∀ x ∈ e.tries, seqLe x.1 (msgAck m) = false := fun x hx => by
    rw [he] at hx
    simpa using (List.mem_filter.mp hx).2
  have hacked : e.acked = msgAck m := by rw [he]
  cases atLimit with
  | true => exact ⟨hout, hmem, (Chip.reg_setReg_same ..).trans (congrArg (fun n => (n + 1) % 2 ^ 64) hreg), e, hsess', hacked, htries⟩
  | false => exact ⟨hout, hmem, hreg.trans (Nat.mod_eq_of_lt (Chip.get_lt ..)).symm, e, hsess', hacked, htries⟩

section
variable {slot : Fin 64} {seq : W32} {se : Sess} {e : EvRec} {s : State} (hsess : Tbl.find s.chip.sess slot.val = some se)
  (hcls : se.cls ≠ 0) (hnew : seq.toNat ≠ se.acked) (hafter : seqLe se.acked seq.toNat = true)
  (hhead : seqLe seq.toNat (s.chip.headOf se.stream) = true) (hleft : se.left.contains seq.toNat = false)
  (hfind : (s.chip.sessEvents se).find? (fun e => e.seq = seq.toNat) = some e)
include hsess hcls hnew hafter hhead hleft hfind

/-- An event that no acknowledgement covers is sent again while it has tries left. -/
theorem Chip.retryEvent_due : s.chip.retryEvent slot.val seq.toNat =
    if Tbl.get se.tries 0 seq.toNat < s.chip.reg Obj.VCT_EVENT_RETRIES then
      (s.chip.setSess slot.val { se with tries := Tbl.put se.tries seq.toNat (Tbl.get se.tries 0 seq.toNat + 1) }).sendEvent se 1 e
    else (s.chip.setSess slot.val { se with left := se.left ++ [seq.toNat], tries := Tbl.del se.tries seq.toNat }).bump
      Obj.CNT_VCT_EVENT_UNACKED := by
  rw [Chip.retryEvent, hsess]
  dsimp only
  rw [if_neg (by rw [hleft]; simp [hcls, hnew, hafter, hhead]), hfind]

theorem eventRetry_again (htries : Tbl.get se.tries 0 seq.toNat < s.chip.reg Obj.VCT_EVENT_RETRIES) :
    Ends (.eventRetryTimeout slot seq) s (fun t => t.mem = s.mem ∧ t.chip.regs = s.chip.regs ∧
      t.chip.out.getLast? = some (.vct se.addr se.id vctEvent 1 e.seq 0 0 se.stream e.payload) ∧
      Tbl.find t.chip.sess slot.val = some { se with tries := Tbl.put se.tries seq.toNat (Tbl.get se.tries 0 seq.toNat + 1) }) := by
  refine ends_on rfl ((Chip.retryEvent_due hsess hcls hnew hafter hhead hleft hfind).trans (if_pos htries)) fun t hchip hmem => ?_
  rw [hchip]
  exact ⟨hmem, rfl, List.getLast?_concat, Tbl.find_put_same ..⟩

theorem eventRetry_left (htries : s.chip.reg Obj.VCT_EVENT_RETRIES ≤ Tbl.get se.tries 0 seq.toNat) :
    Ends (.eventRetryTimeout slot seq) s (fun t => t.mem = s.mem ∧ t.chip.out = s.chip.out ∧
      t.chip.reg Obj.CNT_VCT_EVENT_UNACKED = (s.chip.reg Obj.CNT_VCT_EVENT_UNACKED + 1) % 2 ^ 64 ∧
      (Tbl.find t.chip.sess slot.val).map (·.left) = some (se.left ++ [seq.toNat])) := by
  refine ends_on rfl ((Chip.retryEvent_due hsess hcls hnew hafter hhead hleft hfind).trans (if_neg (by omega))) fun t hchip hmem => ?_
  rw [hchip]
  exact ⟨hmem, rfl, Chip.reg_setReg_same .., congrArg (Option.map _) (Tbl.find_put_same ..)⟩

end

/-- Settles O40. -/
theorem requestsAndEvents : Obligations.RequestsAndEvents := by
  unfold Obligations.RequestsAndEvents
  refine ⟨fun src m k c se s hsess => ?_, fun slot seq se e s hsess hcls hnew hafter hhead hleft hfind => ?_⟩
  · intro seq d answered paid s1
    refine ⟨fun hauth => ⟨?_, ?_, ?_, ?_⟩, ?_, ?_⟩
    · intro hnext hcredit hidle s2 st b se2 hdict
      refine request_performed hsess hauth hnext hcredit hidle ?_
      rw [Sess.paid_eq]
      exact hdict
    · intro st b
      exact request_repeated hsess hauth
    · exact request_ahead hsess hauth
    · exact request_unpaid hsess hauth
    · intro hauth hnext hcredit hidle x
      refine (eventFetch_ends hsess hauth hnext hcredit hidle).imp fun t ⟨hout, hregs, hmem, hsent, hpaid⟩ => ?_
      exact ⟨hout, hregs, hmem, fun hok e he hasked => hsent hok e (mem_eventsAsked he hasked), hpaid⟩
    · exact eventAck_ends hsess
  · exact ⟨eventRetry_again hsess hcls hnew hafter hhead hleft hfind, eventRetry_left hsess hcls hnew hafter hhead hleft hfind⟩

end Sys2Proof.Machine
end
